-- ==== Sys2Proof/Word.lean ====
section
/-! DEFINITION. The word types of the machine: the 32-bit instruction and register word (R63, R16) and the byte. -/

namespace Sys2Proof

/-- A 32-bit word: an instruction word, a clause header or a register (R63, R16). -/
abbrev Word := BitVec 32

/-- One byte of memory. -/
abbrev Byte := BitVec 8

/-- A 64-bit value: an FP64 register pair, a virtual address, a clock value (R2, R16). -/
abbrev Word64 := BitVec 64

/-- The 32-bit word that holds a natural number modulo 2^32 (R6). -/
def Word.ofNat (n : Nat) : Word := BitVec.ofNat 32 n

end Sys2Proof
end

