-- ==== Sys2Proof/Config.lean ====
section
/-! DEFINITION. What an implementation fixes and the free values: opaque constants that no proof can evaluate, one for
each value the spec leaves open. The assumption log names each. -/

namespace Sys2Proof.Config

/-- Free value (log entry 6): the MEM_RFM threshold of the configuration tables of an image (Table 23.6). -/
opaque rfmTable (image : BitVec 256) : Nat

/-- Free value (log entry 8): how many ticks the lease clock of a compute die reads ahead of the slowest (Table 0.1). -/
opaque dieSkew (die : Nat) : Fin 3

/-- Free value (log entry 9): the device's own hash of a line over the slices a partition owns (R37). It turns each run of as many lines as
there are slices by an amount of its own. -/
opaque homeHash (run sliceSet : Nat) : Nat

/-- Free value (log entry 23): the device's fixed hash of (device, line address) that picks a UALink port (R375), as a position in the
list of ports whose links are up. -/
opaque podHash (device line : Nat) : Nat

/-- Free value (log entry 24): a fault address where the spec names none in terms of an address: a misaligned accumulator column, a failed
Chafer command (R316, R376); by the number of free values drawn before. -/
opaque faultAddr (draw : Nat) : Word64

/-- Free value (log entry 25): the value field of an event record where the spec says nothing of it (R437), by the record's serial. -/
opaque logValue (serial : Nat) : Word

/-- Free value (log entry 25): the address field of an event record where the spec says nothing of it (R437), by the record's serial. -/
opaque logAddr (serial : Nat) : Word64

/-- Free value (log entry 26): the digest of the firmware image that the device is shipped with, with its configuration tables (R439). -/
opaque firstImage : BitVec 256

/-- Free value (log entry 26): the SM3 digest of bytes (R431); the spec names the standard and does not give its function. -/
opaque digest (bytes : List Byte) : BitVec 256

/-- Free value (log entry 26): the signature that the session key of a number makes of bytes (R432). -/
opaque sessionSign (key : Nat) (bytes : List Byte) : BitVec 512

/-- Free value (log entry 26): whether the SM2 signature of an image and its tables checks against the Mirlos root key (R439). -/
opaque imageVerified (bytes : List Byte) : Bool

/-- Free values (log entry 26): the public identity key, the public key of a session and its identity signature (R431). -/
opaque idPublic : BitVec 512
opaque sessionPublic (key : Nat) : BitVec 512
opaque sessionIdSign (key : Nat) : BitVec 512

/-- Free value (log entry 27): the bank of a stack that a line's row lies in (R436), by the line, as a number within its stack. -/
opaque bankIndex (line : Nat) : Nat

/-- Free value (log entry 27): how many activations of its bank a line read from memory brings about (R436), by the number of free values
drawn before. -/
opaque activations (draw : Nat) : Nat

/-- Free value (log entry 62): whether a fetch that finds its line in the core's L1 instruction cache, with bytes that home no longer holds,
takes the cached bytes (Table 0.1); by the number of free values drawn before. -/
opaque fetchStale (draw : Nat) : Bool

/-- Free value (log entry 65): whether a word of a record that is written while it is read is read as it stood (R26, R125); by the number of
free values drawn before, and the word. -/
opaque wordOld (draw : Nat) : Bool

/-- Free value (log entry 69): the bits that an element of less than a byte shares its byte with, where the byte lies in a peer's window and is
written there whole (R289, R373); by the number of free values drawn before. -/
opaque edgeBits (draw : Nat) : Byte

/-- Free value (log entry 34): a byte of a context image, whose layout is the device's own (R416); by the number of free values drawn before. -/
opaque saveByte (draw : Nat) : Byte

end Sys2Proof.Config
end

