-- ==== Sys2Proof/Machine/Bits.lean ====
section
/-! DEFINITION. Bit-field, sign-extension and byte-order helpers (R3, R6), and list helpers that the kernel can
evaluate: every recursion here is structural. -/

namespace Sys2Proof.Machine

/-- The field of `n` bits from bit `lo` of a natural number. -/
def bitsOf (w lo n : Nat) : Nat := w / 2 ^ lo % 2 ^ n

/-- Bit `i` of a natural number. -/
def bitOf (w i : Nat) : Bool := w / 2 ^ i % 2 == 1

/-- A number with the field of `n` bits from bit `lo` replaced by the low `n` bits of `x`. -/
def setBits (w lo n x : Nat) : Nat :=
  w / 2 ^ (lo + n) * 2 ^ (lo + n) + x % 2 ^ n * 2 ^ lo + w % 2 ^ lo

/-- The two's-complement reading of the low `n` bits of `w`. -/
def signExt (w n : Nat) : Int :=
  if n = 0 then 0
  else if w % 2 ^ n < 2 ^ (n - 1) then (w % 2 ^ n : Nat) else ((w % 2 ^ n : Nat) : Int) - (2 ^ n : Nat)

/-- The natural number below 2^n congruent to `i` (R6). -/
def natOfInt (i : Int) (n : Nat) : Nat := (i % (2 ^ n : Nat)).toNat

/-- Two words as one 64-bit number, the low word first (R73). -/
def pair64 (lo hi : Word) : Nat := lo.toNat + 2 ^ 32 * hi.toNat

/-- The low word of a 64-bit number. -/
def lo32 (n : Nat) : Word := BitVec.ofNat 32 n

/-- The high word of a 64-bit number. -/
def hi32 (n : Nat) : Word := BitVec.ofNat 32 (n / 2 ^ 32)

/-- The little-endian bytes of a number (R3). -/
def bytesLE : (count : Nat) → (n : Nat) → List Byte
  | 0, _ => []
  | k + 1, n => BitVec.ofNat 8 n :: bytesLE k (n / 256)

/-- The number whose little-endian bytes are given (R3). -/
def ofBytesLE : List Byte → Nat
  | [] => 0
  | b :: bs => b.toNat + 256 * ofBytesLE bs

/-- The number of one bits among the low `n` bits. -/
def popCount : (n : Nat) → (w : Nat) → Nat
  | 0, _ => 0
  | k + 1, w => w % 2 + popCount k (w / 2)

/-- The low `n` bits of `w` in reverse order. -/
def reverseBits : (n : Nat) → (w : Nat) → Nat
  | 0, _ => 0
  | k + 1, w => w % 2 * 2 ^ k + reverseBits k (w / 2)

/-- The number of trailing zero bits among the low `n` bits, `n` when they are all zero. -/
def trailingZeros : (n : Nat) → (w : Nat) → Nat
  | 0, _ => 0
  | k + 1, w => if w % 2 == 1 then 0 else 1 + trailingZeros k (w / 2)

/-- The number of significant bits: 0 for 0, else floor(log2 w) + 1. -/
def bitLength (w : Nat) : Nat := if w = 0 then 0 else Nat.log2 w + 1

/-- The bitwise complement within 32 bits. -/
def not32 (w : Nat) : Nat := 2 ^ 32 - 1 - w % 2 ^ 32

/-- `setAt l i x`: the list with entry `i` replaced; unchanged past its end. -/
def setAt {α : Type} : List α → Nat → α → List α
  | [], _, _ => []
  | _ :: t, 0, x => x :: t
  | h :: t, i + 1, x => h :: setAt t i x

/-- `modifyAt l i f`: the list with entry `i` passed through `f`; unchanged past its end. -/
def modifyAt {α : Type} : List α → Nat → (α → α) → List α
  | [], _, _ => []
  | h :: t, 0, f => f h :: t
  | h :: t, i + 1, f => h :: modifyAt t i f

/-- Every entry passed through a function of its position and itself. -/
def mapIdxFrom {α β : Type} (f : Nat → α → β) : Nat → List α → List β
  | _, [] => []
  | i, h :: t => f i h :: mapIdxFrom f (i + 1) t

/-- Every entry passed through a function of its position and itself, positions from 0. -/
def mapIdx' {α β : Type} (f : Nat → α → β) (l : List α) : List β := mapIdxFrom f 0 l

/-- The positions from `i` whose entry satisfies `p`. -/
def indicesFrom {α : Type} (p : α → Bool) : Nat → List α → List Nat
  | _, [] => []
  | i, h :: t => if p h then i :: indicesFrom p (i + 1) t else indicesFrom p (i + 1) t

/-- `n` numbers from `lo`. -/
def rangeFrom : (lo n : Nat) → List Nat
  | _, 0 => []
  | lo, n + 1 => lo :: rangeFrom (lo + 1) n

/-- The numbers `0 .. n-1`. -/
def upTo (n : Nat) : List Nat := rangeFrom 0 n

/-- A left fold over positions and entries. -/
def foldIdx {α σ : Type} (f : σ → Nat → α → σ) : σ → Nat → List α → σ
  | s, _, [] => s
  | s, i, h :: t => foldIdx f (f s i h) (i + 1) t

/-- Insert into a list kept in rising order, dropping a repeat. -/
def insertSorted (x : Nat) : List Nat → List Nat
  | [] => [x]
  | h :: t => if x < h then x :: h :: t else if x == h then h :: t else h :: insertSorted x t

/-- The members of a list in rising order, each once. -/
def sortDedup (l : List Nat) : List Nat := l.foldr insertSorted []

/-- The least element of a list, `d` for the empty list. -/
def minList (d : Nat) : List Nat → Nat
  | [] => d
  | h :: t => t.foldl min h

/-- The set of bits named by a list, as a mask. -/
def maskOf (l : List Nat) : Nat := l.foldl (fun m i => m ||| 2 ^ i) 0

/-- The positions below `n` whose bit is set. -/
def membersOf (n mask : Nat) : List Nat := (upTo n).filter (fun i => mask.testBit i)

end Sys2Proof.Machine
end

