-- ==== Sys2Proof/Machine/Flags.lean ====
section
/-! DEFINITION. The exception flags of `fflags` (R168, Table 3.13) and the condition codes of the comparing
instructions (R80, R134, R139, R185). -/

namespace Sys2Proof.Machine

/-- The five exception flags, laid out as FFLAGS [4:0] (Table 3.13). -/
abbrev Flags := BitVec 5

/-- No flag. -/
def flNone : Flags := 0
/-- Inexact, bit 0. -/
def flInexact : Flags := 1
/-- Underflow, bit 1. -/
def flUnderflow : Flags := 2
/-- Overflow, bit 2. -/
def flOverflow : Flags := 4
/-- Divide-by-zero, bit 3. -/
def flDivZero : Flags := 8
/-- Invalid, bit 4. -/
def flInvalid : Flags := 16

/-- A flag raised under a condition. -/
def flagIf (c : Bool) (f : Flags) : Flags := if c then f else flNone

/-- The signed and natural integer conditions of `icmp` and `icmpn` (Table 3.7), codes 6 and 7 illegal. -/
def intCond (code : Nat) (a b : Int) : Option Bool :=
  match code with
  | 0 => some (a == b)
  | 1 => some (a != b)
  | 2 => some (decide (a < b))
  | 3 => some (decide (a ≤ b))
  | 4 => some (decide (b < a))
  | 5 => some (decide (b ≤ a))
  | _ => none

/-- The scalar conditions of `scmp` (Table 3.7), code 7 illegal. -/
def scalarCond (code : Nat) (a b : Word) : Option Bool :=
  match code with
  | 0 => some (a == b)
  | 1 => some (a != b)
  | 2 => some (decide (a.toInt < b.toInt))
  | 3 => some (decide (a.toInt ≤ b.toInt))
  | 4 => some (decide (a.toNat < b.toNat))
  | 5 => some (decide (a.toNat ≤ b.toNat))
  | 6 => some ((a &&& b) != 0)
  | _ => none

end Sys2Proof.Machine
end

