-- ==== Sys2Proof/Syntax/Args.lean ====
section
/-! DEFINITION. The argument types of the device's own steps. -/

namespace Sys2Proof

/-- A wave: wave `w` of a block, under the model's own key of the block, or the handler wave of a core's quarter (R395). -/
inductive WaveRef where
  | blk (uid w : Nat)
  | hdl (core quarter : Nat)
  deriving DecidableEq, Repr

/-- The errors a read of a memory line meets: byte symbols of its 144 bytes (payload 0 to 127, side bytes from 128), each
with the bits flipped (R218, R219). -/
abbrev LineErrors := List (Nat × Byte)

/-- What a wait that the lease clock ends belongs to (R330, R335, R373). -/
inductive LeaseWait where
  /-- the fence that holds a wave (R332) -/
  | fence (w : WaveRef)
  /-- the release wait of a memory operation (R329) -/
  | release (op : Nat)
  /-- the completion of a host or peer write (R335, R336) -/
  | completion (write : Nat)
  deriving DecidableEq, Repr

/-- What a line that is read from memory is read for (R221): an operation in flight, or, in a partition, a reader that has none: a walk of its
tables, a fetch of code, the scheduler, the host or a peer. -/
inductive FillReader where
  | op (op : Nat)
  | part (part : Nat)
  /-- no line: an accumulator cell of a block, under the model's own key of the block, read with errors of its own code (R295) -/
  | cell (uid cell : Nat)
  deriving DecidableEq, Repr

/-- The three masters that may own the device (R429). -/
inductive Master where
  | fabric | host | bmc
  deriving DecidableEq, Repr

/-- The snoops of CXL.cache (R241, R359). -/
inductive Snoop where
  /-- the line is invalidated or taken back -/
  | invalidate
  /-- the line is asked for back dirty and taken -/
  | take
  /-- the line is downgraded to shared -/
  | downgrade
  deriving DecidableEq, Repr

/-- The register windows of the host link (R38, R46, R429). -/
inductive Window where
  | pf0
  | vf0 (n : Nat)
  | vf1 (n : Nat)
  deriving DecidableEq, Repr

/-- What a pod request asks for (R370, R373): a read of bytes, a write of bytes, or an atomic by its major opcode of
Table 11.2 with its operand and, for a compare-and-swap, its swap value. A write whose data were poisoned says so (R281). -/
inductive PodAsk where
  | read (len : Nat)
  | write (bytes : List Byte) (poison : Bool)
  /-- a write of single bytes at offsets from the request's own -/
  | scatter (cells : List (Nat × Byte))
  | atomic (op operand swap : Nat)
  deriving DecidableEq, Repr

/-- The answer a peer gives a pod request (R376). -/
inductive PodAnswer where
  | data (bytes : List Byte) (poison : Bool)
  | ack
  | refused
  deriving DecidableEq, Repr

/-- The command of the member that sends a chunk, as a mismatch compares it (R385): its kind by major opcode, chunk size, wire,
accumulation and root. -/
structure ChunkSender where
  kind : Nat
  size : Nat
  wire : Nat
  acc16 : Bool
  root : Nat
  deriving DecidableEq, Repr

/-- Where a chunk comes from: the device and the partition of it that sent it (R373), and the command there. -/
structure ChunkOrigin where
  device : Nat
  peer : Nat
  sender : ChunkSender
  deriving DecidableEq, Repr

/-- A step of a Chafer command: which command, and whether the next member of its ring has issued its matching command by then (R385). -/
structure ChaferStep where
  op : Nat
  ready : Bool
  deriving DecidableEq, Repr

/-- The bucket points of R39. -/
inductive BucketPoint where
  | core (c : Nat)
  | slice (i : Nat)
  | port (i part : Nat)
  deriving DecidableEq, Repr

end Sys2Proof
end

