-- ==== Sys2Proof/Syntax.lean ====
section
/-! DEFINITION. The instructions of Umaova 2 and the device's own steps: one constructor per row of the opcode table. The
first 164 are instruction words, with the fields of their encodings at their exact widths (R70 to R84); the last 87 are
steps the device takes beside the instruction words, with what the schedule chooses as arguments. -/

namespace Sys2Proof

/-- One constructor per row of the opcode table. -/
inductive Instr where
  -- class 0, ALU
  /-- R182: fadd. -/
  | fadd (d : BitVec 6) (a : BitVec 7) (b : BitVec 6) (m : BitVec 3) (g : BitVec 4)
  /-- R182: fsub. -/
  | fsub (d : BitVec 6) (a : BitVec 7) (b : BitVec 6) (m : BitVec 3) (g : BitVec 4)
  /-- R182: fmul. -/
  | fmul (d : BitVec 6) (a : BitVec 7) (b : BitVec 6) (m : BitVec 3) (g : BitVec 4)
  /-- R182: ffma. -/
  | ffma (d : BitVec 6) (a : BitVec 7) (b : BitVec 6) (m : BitVec 3) (g : BitVec 4)
  /-- R182: fmin. -/
  | fmin (d : BitVec 6) (a : BitVec 7) (b : BitVec 6) (m : BitVec 3) (g : BitVec 4)
  /-- R182: fmax. -/
  | fmax (d : BitVec 6) (a : BitVec 7) (b : BitVec 6) (m : BitVec 3) (g : BitVec 4)
  /-- R186: ftr. -/
  | ftr (d : BitVec 6) (a : BitVec 7) (s : BitVec 6) (m : BitVec 3) (g : BitVec 4)
  /-- R185: fcmp. -/
  | fcmp (p : BitVec 6) (a : BitVec 7) (b : BitVec 6) (c : BitVec 3) (g : BitVec 4)
  /-- R183: dadd. -/
  | dadd (d : BitVec 6) (a : BitVec 7) (b : BitVec 6) (m : BitVec 3) (g : BitVec 4)
  /-- R183: dmul. -/
  | dmul (d : BitVec 6) (a : BitVec 7) (b : BitVec 6) (m : BitVec 3) (g : BitVec 4)
  /-- R183: dfma. -/
  | dfma (d : BitVec 6) (a : BitVec 7) (b : BitVec 6) (m : BitVec 3) (g : BitVec 4)
  /-- R183: dmnx. -/
  | dmnx (d : BitVec 6) (a : BitVec 7) (b : BitVec 6) (m : BitVec 3) (g : BitVec 4)
  /-- R186: dtr. -/
  | dtr (d : BitVec 6) (a : BitVec 7) (s : BitVec 6) (m : BitVec 3) (g : BitVec 4)
  /-- R185: dcmp. -/
  | dcmp (p : BitVec 6) (a : BitVec 7) (b : BitVec 6) (c : BitVec 3) (g : BitVec 4)
  /-- R184: hadd2. -/
  | hadd2 (d : BitVec 6) (a : BitVec 7) (b : BitVec 6) (m : BitVec 3) (g : BitVec 4)
  /-- R184: hmul2. -/
  | hmul2 (d : BitVec 6) (a : BitVec 7) (b : BitVec 6) (m : BitVec 3) (g : BitVec 4)
  /-- R184: hfma2. -/
  | hfma2 (d : BitVec 6) (a : BitVec 7) (b : BitVec 6) (m : BitVec 3) (g : BitVec 4)
  /-- R184: badd2. -/
  | badd2 (d : BitVec 6) (a : BitVec 7) (b : BitVec 6) (m : BitVec 3) (g : BitVec 4)
  /-- R184: bmul2. -/
  | bmul2 (d : BitVec 6) (a : BitVec 7) (b : BitVec 6) (m : BitVec 3) (g : BitVec 4)
  /-- R184: bfma2. -/
  | bfma2 (d : BitVec 6) (a : BitVec 7) (b : BitVec 6) (m : BitVec 3) (g : BitVec 4)
  /-- R184: hmnx2. -/
  | hmnx2 (d : BitVec 6) (a : BitVec 7) (b : BitVec 6) (m : BitVec 3) (g : BitVec 4)
  /-- R185: hcmp2. -/
  | hcmp2 (p : BitVec 6) (a : BitVec 7) (b : BitVec 6) (c : BitVec 3) (g : BitVec 4)
  /-- R185: bcmp2. -/
  | bcmp2 (p : BitVec 6) (a : BitVec 7) (b : BitVec 6) (c : BitVec 3) (g : BitVec 4)
  /-- R189: cvtf. -/
  | cvtf (d : BitVec 6) (a : BitVec 7) (t : BitVec 3) (r : BitVec 2) (i : BitVec 1) (o : BitVec 1) (s : BitVec 1) (h : BitVec 1) (g : BitVec 4)
  /-- R190: cvtn. -/
  | cvtn (d : BitVec 6) (a : BitVec 7) (s : BitVec 3) (l : BitVec 3) (i : BitVec 1) (f : BitVec 1) (g : BitVec 4)
  /-- R191: cvti. -/
  | cvti (d : BitVec 6) (a : BitVec 7) (v : BitVec 1) (n : BitVec 1) (r : BitVec 2) (i : BitVec 1) (s : BitVec 1) (g : BitVec 4)
  /-- R192: cvtd. -/
  | cvtd (d : BitVec 6) (a : BitVec 7) (o : BitVec 3) (r : BitVec 2) (i : BitVec 1) (f : BitVec 1) (s : BitVec 1) (g : BitVec 4)
  /-- R195: bamax. -/
  | bamax (d : BitVec 6) (a : BitVec 7) (k : BitVec 2) (i : BitVec 2) (f : BitVec 1) (g : BitVec 4)
  /-- R196: bscale. -/
  | bscale (d : BitVec 6) (a : BitVec 7) (f : BitVec 3) (k : BitVec 2) (l : BitVec 1) (g : BitVec 4)
  /-- R197: mxpk. -/
  | mxpk (d : BitVec 6) (a : BitVec 7) (f : BitVec 3) (j : BitVec 2) (r : BitVec 2) (i : BitVec 1) (o : BitVec 1) (g : BitVec 4)
  /-- R198: mxup. -/
  | mxup (d : BitVec 6) (a : BitVec 7) (f : BitVec 3) (k : BitVec 2) (s : BitVec 3) (i : BitVec 1) (g : BitVec 4)
  /-- R199: rail. -/
  | rail (d : BitVec 6) (a : BitVec 7) (o : BitVec 3) (l : BitVec 1) (k : BitVec 2) (g : BitVec 4)
  /-- R130: iadd. -/
  | iadd (d : BitVec 6) (a : BitVec 7) (b : BitVec 6) (m : BitVec 3) (g : BitVec 4)
  /-- R130: imul. -/
  | imul (d : BitVec 6) (a : BitVec 7) (b : BitVec 6) (m : BitVec 3) (g : BitVec 4)
  /-- R130: imnx. -/
  | imnx (d : BitVec 6) (a : BitVec 7) (b : BitVec 6) (m : BitVec 3) (g : BitVec 4)
  /-- R130: ilog. -/
  | ilog (d : BitVec 6) (a : BitVec 7) (b : BitVec 6) (m : BitVec 3) (g : BitVec 4)
  /-- R131: ish. -/
  | ish (d : BitVec 6) (a : BitVec 7) (b : BitVec 6) (m : BitVec 3) (g : BitVec 4)
  /-- R131: ishi. -/
  | ishi (d : BitVec 6) (a : BitVec 7) (o : BitVec 3) (n : BitVec 5) (g : BitVec 4)
  /-- R132: ibit. -/
  | ibit (d : BitVec 6) (a : BitVec 7) (m : BitVec 3) (g : BitVec 4)
  /-- R133: bfe. -/
  | bfe (d : BitVec 6) (a : BitVec 7) (b : BitVec 6) (m : BitVec 3) (g : BitVec 4)
  /-- R133: bfi. -/
  | bfi (d : BitVec 6) (a : BitVec 7) (b : BitVec 6) (m : BitVec 3) (g : BitVec 4)
  /-- R134: icmp. -/
  | icmp (p : BitVec 6) (a : BitVec 7) (b : BitVec 6) (c : BitVec 3) (g : BitVec 4)
  /-- R134: icmpn. -/
  | icmpn (p : BitVec 6) (a : BitVec 7) (b : BitVec 6) (c : BitVec 3) (g : BitVec 4)
  /-- R135: sel. -/
  | sel (d : BitVec 6) (a : BitVec 7) (b : BitVec 6) (p : BitVec 6)
  /-- R136: mov. -/
  | mov (d : BitVec 6) (a : BitVec 7) (g : BitVec 4)
  /-- R136: movi. -/
  | movi (d : BitVec 6) (i : BitVec 16) (g : BitVec 4)
  /-- R136: movh. -/
  | movh (d : BitVec 6) (i : BitVec 16) (g : BitVec 4)
  /-- R136: movl. -/
  | movl (d : BitVec 6) (i : BitVec 16) (g : BitVec 4)
  /-- R138: sadd. -/
  | sadd (d : BitVec 6) (a : BitVec 7) (b : BitVec 6) (m : BitVec 3) (g : BitVec 4)
  /-- R138: smul. -/
  | smul (d : BitVec 6) (a : BitVec 7) (b : BitVec 6) (m : BitVec 3) (g : BitVec 4)
  /-- R138: slog. -/
  | slog (d : BitVec 6) (a : BitVec 7) (b : BitVec 6) (m : BitVec 3) (g : BitVec 4)
  /-- R138: ssh. -/
  | ssh (d : BitVec 6) (a : BitVec 7) (b : BitVec 6) (m : BitVec 3) (g : BitVec 4)
  /-- R138: smovi. -/
  | smovi (d : BitVec 6) (i : BitVec 16) (g : BitVec 4)
  /-- R138: smovh. -/
  | smovh (d : BitVec 6) (i : BitVec 16) (g : BitVec 4)
  /-- R139: scmp. -/
  | scmp (p : BitVec 6) (a : BitVec 7) (b : BitVec 6) (c : BitVec 3) (g : BitVec 4)
  /-- R138: smov. -/
  | smov (d : BitVec 6) (a : BitVec 7) (g : BitVec 4)
  /-- R142: shfl. -/
  | shfl (d : BitVec 6) (a : BitVec 7) (b : BitVec 6) (m : BitVec 3) (g : BitVec 4)
  /-- R143: qxch. -/
  | qxch (d : BitVec 6) (a : BitVec 7) (i : BitVec 2) (t : BitVec 3) (g : BitVec 4)
  /-- R144: vote. -/
  | vote (d : BitVec 6) (a : BitVec 7) (t : BitVec 2) (g : BitVec 4)
  /-- R145: redx. -/
  | redx (d : BitVec 6) (a : BitVec 7) (o : BitVec 4) (g : BitVec 4)
  /-- R147: lane. -/
  | lane (d : BitVec 6) (a : BitVec 7) (n : BitVec 6) (w : BitVec 1) (g : BitVec 4)
  /-- R140: plog. -/
  | plog (d : BitVec 6) (a : BitVec 7) (q : BitVec 6) (o : BitVec 3) (g : BitVec 4)
  /-- R151: rand. -/
  | rand (d : BitVec 6) (a : BitVec 7) (b : BitVec 6) (g : BitVec 4)
  /-- R148: sread. -/
  | sread (d : BitVec 6) (s : BitVec 1) (r : BitVec 8) (g : BitVec 4)
  -- class 1, CTRL
  /-- R112: nop. -/
  | nop (g : BitVec 4)
  /-- R113: bra. -/
  | bra (o : BitVec 22) (g : BitVec 4)
  /-- R114: bru. -/
  | bru (o : BitVec 22) (g : BitVec 4)
  /-- R115: brx. -/
  | brx (a : BitVec 7) (g : BitVec 4)
  /-- R116: call. -/
  | call (l : BitVec 6) (o : BitVec 16) (g : BitVec 4)
  /-- R117: ret. -/
  | ret (a : BitVec 7) (g : BitVec 4)
  /-- R118: exit. -/
  | exit (g : BitVec 4)
  /-- R119: join. -/
  | join (k : BitVec 4) (g : BitVec 4)
  /-- R121: kset. -/
  | kset (k : BitVec 4) (g : BitVec 4)
  /-- R122: kop. -/
  | kop (o : BitVec 2) (d : BitVec 4) (s : BitVec 4) (g : BitVec 4)
  /-- R120: ksync. -/
  | ksync (k : BitVec 4) (g : BitVec 4)
  /-- R123: waitc. -/
  | waitc (t : BitVec 4) (c : BitVec 2) (g : BitVec 4)
  /-- R124: yield. -/
  | yield (g : BitVec 4)
  /-- R362: bar. -/
  | bar (b : BitVec 4) (g : BitVec 4)
  /-- R362: bara. -/
  | bara (b : BitVec 4) (g : BitVec 4)
  /-- R362: barw. -/
  | barw (b : BitVec 4) (g : BitVec 4)
  /-- R362: bari. -/
  | bari (a : BitVec 7) (b : BitVec 4) (g : BitVec 4)
  /-- R125: launch. -/
  | launch (a : BitVec 7) (s : BitVec 6) (g : BitVec 4)
  -- class 2, MEM
  /-- R252: ld.b8. -/
  | ldB8 (d : BitVec 6) (b : BitVec 6) (o : BitVec 6) (s : BitVec 2) (q : BitVec 2) (g : BitVec 4)
  /-- R252: ld.s8. -/
  | ldS8 (d : BitVec 6) (b : BitVec 6) (o : BitVec 6) (s : BitVec 2) (q : BitVec 2) (g : BitVec 4)
  /-- R252: ld.b16. -/
  | ldB16 (d : BitVec 6) (b : BitVec 6) (o : BitVec 6) (s : BitVec 2) (q : BitVec 2) (g : BitVec 4)
  /-- R252: ld.s16. -/
  | ldS16 (d : BitVec 6) (b : BitVec 6) (o : BitVec 6) (s : BitVec 2) (q : BitVec 2) (g : BitVec 4)
  /-- R252: ld.b32. -/
  | ldB32 (d : BitVec 6) (b : BitVec 6) (o : BitVec 6) (s : BitVec 2) (q : BitVec 2) (g : BitVec 4)
  /-- R252: ld.b64. -/
  | ldB64 (d : BitVec 6) (b : BitVec 6) (o : BitVec 6) (s : BitVec 2) (q : BitVec 2) (g : BitVec 4)
  /-- R252: ld.b128. -/
  | ldB128 (d : BitVec 6) (b : BitVec 6) (o : BitVec 6) (s : BitVec 2) (q : BitVec 2) (g : BitVec 4)
  /-- R257: ld.mx. -/
  | ldMx (d : BitVec 6) (b : BitVec 6) (o : BitVec 6) (s : BitVec 2) (q : BitVec 2) (g : BitVec 4)
  /-- R254: st.b8. -/
  | stB8 (d : BitVec 6) (b : BitVec 6) (o : BitVec 6) (s : BitVec 2) (q : BitVec 2) (g : BitVec 4)
  /-- R254: st.b16. -/
  | stB16 (d : BitVec 6) (b : BitVec 6) (o : BitVec 6) (s : BitVec 2) (q : BitVec 2) (g : BitVec 4)
  /-- R254: st.b32. -/
  | stB32 (d : BitVec 6) (b : BitVec 6) (o : BitVec 6) (s : BitVec 2) (q : BitVec 2) (g : BitVec 4)
  /-- R254: st.b64. -/
  | stB64 (d : BitVec 6) (b : BitVec 6) (o : BitVec 6) (s : BitVec 2) (q : BitVec 2) (g : BitVec 4)
  /-- R254: st.b128. -/
  | stB128 (d : BitVec 6) (b : BitVec 6) (o : BitVec 6) (s : BitVec 2) (q : BitVec 2) (g : BitVec 4)
  /-- R258: st.mx. -/
  | stMx (d : BitVec 6) (b : BitVec 6) (o : BitVec 6) (s : BitVec 2) (q : BitVec 2) (g : BitVec 4)
  /-- R259: lds.b32. -/
  | ldsB32 (d : BitVec 6) (b : BitVec 6) (o : BitVec 6) (q : BitVec 2) (g : BitVec 4)
  /-- R259: lds.b64. -/
  | ldsB64 (d : BitVec 6) (b : BitVec 6) (o : BitVec 6) (q : BitVec 2) (g : BitVec 4)
  /-- R259: lds.b128. -/
  | ldsB128 (d : BitVec 6) (b : BitVec 6) (o : BitVec 6) (q : BitVec 2) (g : BitVec 4)
  /-- R260: sts.b32. -/
  | stsB32 (d : BitVec 6) (b : BitVec 6) (o : BitVec 6) (q : BitVec 2) (g : BitVec 4)
  /-- R260: sts.b64. -/
  | stsB64 (d : BitVec 6) (b : BitVec 6) (o : BitVec 6) (q : BitVec 2) (g : BitVec 4)
  /-- R260: sts.b128. -/
  | stsB128 (d : BitVec 6) (b : BitVec 6) (o : BitVec 6) (q : BitVec 2) (g : BitVec 4)
  /-- R262: fe. -/
  | fe (d : BitVec 6) (b : BitVec 6) (q : BitVec 2) (g : BitVec 4)
  /-- R263: atom.add. -/
  | atomAdd (d : BitVec 6) (b : BitVec 6) (o : BitVec 6) (s : BitVec 2) (q : BitVec 2) (g : BitVec 4)
  /-- R263: atom.add.b64. -/
  | atomAddB64 (d : BitVec 6) (b : BitVec 6) (o : BitVec 6) (s : BitVec 2) (q : BitVec 2) (g : BitVec 4)
  /-- R264: atom.addf. -/
  | atomAddf (d : BitVec 6) (b : BitVec 6) (o : BitVec 6) (s : BitVec 2) (q : BitVec 2) (g : BitVec 4)
  /-- R263: atom.min.s32. -/
  | atomMinS32 (d : BitVec 6) (b : BitVec 6) (o : BitVec 6) (s : BitVec 2) (q : BitVec 2) (g : BitVec 4)
  /-- R263: atom.max.s32. -/
  | atomMaxS32 (d : BitVec 6) (b : BitVec 6) (o : BitVec 6) (s : BitVec 2) (q : BitVec 2) (g : BitVec 4)
  /-- R263: atom.min.n32. -/
  | atomMinN32 (d : BitVec 6) (b : BitVec 6) (o : BitVec 6) (s : BitVec 2) (q : BitVec 2) (g : BitVec 4)
  /-- R263: atom.max.n32. -/
  | atomMaxN32 (d : BitVec 6) (b : BitVec 6) (o : BitVec 6) (s : BitVec 2) (q : BitVec 2) (g : BitVec 4)
  /-- R263: atom.and. -/
  | atomAnd (d : BitVec 6) (b : BitVec 6) (o : BitVec 6) (s : BitVec 2) (q : BitVec 2) (g : BitVec 4)
  /-- R263: atom.or. -/
  | atomOr (d : BitVec 6) (b : BitVec 6) (o : BitVec 6) (s : BitVec 2) (q : BitVec 2) (g : BitVec 4)
  /-- R263: atom.xor. -/
  | atomXor (d : BitVec 6) (b : BitVec 6) (o : BitVec 6) (s : BitVec 2) (q : BitVec 2) (g : BitVec 4)
  /-- R263: atom.exch. -/
  | atomExch (d : BitVec 6) (b : BitVec 6) (o : BitVec 6) (s : BitVec 2) (q : BitVec 2) (g : BitVec 4)
  /-- R265: atom.cas. -/
  | atomCas (d : BitVec 6) (b : BitVec 6) (o : BitVec 6) (s : BitVec 2) (q : BitVec 2) (g : BitVec 4)
  /-- R265: atom.cas.b64. -/
  | atomCasB64 (d : BitVec 6) (b : BitVec 6) (o : BitVec 6) (s : BitVec 2) (q : BitVec 2) (g : BitVec 4)
  /-- R266: satom. -/
  | satom (d : BitVec 6) (b : BitVec 6) (o : BitVec 4) (q : BitVec 2) (g : BitVec 4)
  /-- R267: ratom. -/
  | ratom (d : BitVec 6) (b : BitVec 6) (o : BitVec 4) (q : BitVec 2) (g : BitVec 4)
  /-- R367: qpush. -/
  | qpush (d : BitVec 6) (n : BitVec 4) (g : BitVec 4)
  /-- R367: qpop. -/
  | qpop (d : BitVec 6) (n : BitVec 4) (g : BitVec 4)
  /-- R366: qcfg. -/
  | qcfg (d : BitVec 6) (n : BitVec 4) (g : BitVec 4)
  /-- R348: waitu.eq.ne. -/
  | waituEqNe (d : BitVec 6) (b : BitVec 6) (t : BitVec 6) (s : BitVec 2) (w : BitVec 1) (c : BitVec 1) (g : BitVec 4)
  /-- R348: waitu.sge.slt. -/
  | waituSgeSlt (d : BitVec 6) (b : BitVec 6) (t : BitVec 6) (s : BitVec 2) (w : BitVec 1) (c : BitVec 1) (g : BitVec 4)
  /-- R348: waitu.nge.nlt. -/
  | waituNgeNlt (d : BitVec 6) (b : BitVec 6) (t : BitVec 6) (s : BitVec 2) (w : BitVec 1) (c : BitVec 1) (g : BitVec 4)
  /-- R348: waitu.any.all. -/
  | waituAnyAll (d : BitVec 6) (b : BitVec 6) (t : BitVec 6) (s : BitVec 2) (w : BitVec 1) (c : BitVec 1) (g : BitVec 4)
  /-- R348: waitu.chg.upd. -/
  | waituChgUpd (d : BitVec 6) (b : BitVec 6) (t : BitVec 6) (s : BitVec 2) (w : BitVec 1) (c : BitVec 1) (g : BitVec 4)
  /-- R332: fence. -/
  | fence (s : BitVec 2) (q : BitVec 2) (g : BitVec 4)
  /-- R269: pref. -/
  | pref (b : BitVec 6) (o : BitVec 6) (s : BitVec 2) (q : BitVec 2) (g : BitVec 4)
  /-- R270: sld.b32. -/
  | sldB32 (d : BitVec 6) (b : BitVec 6) (o : BitVec 6) (s : BitVec 2) (q : BitVec 2) (g : BitVec 4)
  /-- R270: sld.b64. -/
  | sldB64 (d : BitVec 6) (b : BitVec 6) (o : BitVec 6) (s : BitVec 2) (q : BitVec 2) (g : BitVec 4)
  /-- R270: sld.b128. -/
  | sldB128 (d : BitVec 6) (b : BitVec 6) (o : BitVec 6) (s : BitVec 2) (q : BitVec 2) (g : BitVec 4)
  -- class 3, COPY
  /-- R272: tdset. -/
  | tdset (d : BitVec 4) (c : BitVec 6) (g : BitVec 4)
  /-- R282: cpy. -/
  | cpy (d : BitVec 4) (s : BitVec 4) (k : BitVec 3) (f : BitVec 1) (u : BitVec 1) (w : BitVec 1) (g : BitVec 4)
  /-- R283: cpyq. -/
  | cpyq (d : BitVec 4) (s : BitVec 4) (k : BitVec 3) (f : BitVec 1) (t : BitVec 1) (u : BitVec 1) (r : BitVec 2) (l : BitVec 1) (i : BitVec 1) (o : BitVec 1) (a : BitVec 1) (w : BitVec 1) (g : BitVec 4)
  /-- R282: cpyd. -/
  | cpyd (d : BitVec 4) (s : BitVec 4) (k : BitVec 3) (f : BitVec 1) (t : BitVec 1) (u : BitVec 1) (r : BitVec 2) (i : BitVec 1) (o : BitVec 1) (a : BitVec 1) (w : BitVec 1) (g : BitVec 4)
  /-- R282: cpyt. -/
  | cpyt (d : BitVec 4) (s : BitVec 4) (k : BitVec 3) (f : BitVec 1) (t : BitVec 1) (u : BitVec 1) (r : BitVec 2) (l : BitVec 1) (i : BitVec 1) (o : BitVec 1) (a : BitVec 1) (w : BitVec 1) (g : BitVec 4)
  /-- R288: cpyr. -/
  | cpyr (d : BitVec 4) (s : BitVec 4) (k : BitVec 3) (f : BitVec 1) (t : BitVec 1) (u : BitVec 1) (e : BitVec 7) (g : BitVec 4)
  /-- R289: cpyf. -/
  | cpyf (d : BitVec 4) (k : BitVec 3) (f : BitVec 1) (t : BitVec 1) (u : BitVec 1) (r : BitVec 2) (l : BitVec 1) (i : BitVec 1) (o : BitVec 1) (a : BitVec 1) (g : BitVec 4)
  /-- R290: cpyg. -/
  | cpyg (d : BitVec 4) (s : BitVec 4) (k : BitVec 3) (f : BitVec 1) (u : BitVec 1) (w : BitVec 1) (g : BitVec 4)
  /-- R291: cpys. -/
  | cpys (k : BitVec 3) (c : BitVec 1) (g : BitVec 4)
  -- class 4, MTX
  /-- R299: qinit. -/
  | qinit (q : BitVec 3) (n : BitVec 5) (g : BitVec 4)
  /-- R300: mma. -/
  | mma (a : BitVec 4) (b : BitVec 4) (k : BitVec 3) (w : BitVec 1) (q : BitVec 3) (c : BitVec 1) (i : BitVec 1) (o : BitVec 1) (s : BitVec 1) (n : BitVec 1) (g : BitVec 4)
  /-- R312: mmaa. -/
  | mmaa (a : BitVec 4) (b : BitVec 4) (k : BitVec 3) (w : BitVec 1) (q : BitVec 3) (c : BitVec 1) (i : BitVec 1) (o : BitVec 1) (s : BitVec 1) (n : BitVec 1) (g : BitVec 4)
  /-- R318: aclr. -/
  | aclr (k : BitVec 3) (u : BitVec 1) (g : BitVec 4)
  /-- R316: ald. -/
  | ald (d : BitVec 6) (a : BitVec 7) (b : BitVec 6) (m : BitVec 3) (g : BitVec 4)
  /-- R317: ast. -/
  | ast (d : BitVec 6) (a : BitVec 7) (b : BitVec 6) (m : BitVec 3) (g : BitVec 4)
  /-- R319: acpy. -/
  | acpy (d : BitVec 4) (s : BitVec 4) (k : BitVec 3) (f : BitVec 1) (u : BitVec 1) (r : BitVec 2) (l : BitVec 1) (i : BitVec 1) (o : BitVec 1) (sat : BitVec 1) (v : BitVec 1) (g : BitVec 4)
  /-- R307: setaw. -/
  | setaw (a : BitVec 7) (b : BitVec 6) (g : BitVec 4)
  -- class 5, COLL
  /-- R380: cgrp. -/
  | cgrp (c : BitVec 6) (p : BitVec 3) (g : BitVec 4)
  /-- R383: cput. -/
  | cput (d : BitVec 4) (s : BitVec 4) (k : BitVec 3) (z : BitVec 1) (p : BitVec 3) (u : BitVec 1) (g : BitVec 4)
  /-- R383: cget. -/
  | cget (d : BitVec 4) (s : BitVec 4) (k : BitVec 3) (z : BitVec 1) (p : BitVec 3) (u : BitVec 1) (g : BitVec 4)
  /-- R384: csig. -/
  | csig (k : BitVec 3) (p : BitVec 3) (u : BitVec 1) (g : BitVec 4)
  /-- R385: cgath. -/
  | cgath (d : BitVec 4) (s : BitVec 4) (k : BitVec 3) (z : BitVec 1) (p : BitVec 3) (u : BitVec 1) (w : BitVec 2) (r : BitVec 1) (g : BitVec 4)
  /-- R387: crsc. -/
  | crsc (d : BitVec 4) (s : BitVec 4) (k : BitVec 3) (z : BitVec 1) (p : BitVec 3) (u : BitVec 1) (w : BitVec 2) (c : BitVec 1) (r : BitVec 1) (g : BitVec 4)
  /-- R387: card. -/
  | card (d : BitVec 4) (s : BitVec 4) (k : BitVec 3) (z : BitVec 1) (p : BitVec 3) (u : BitVec 1) (w : BitVec 2) (c : BitVec 1) (r : BitVec 1) (g : BitVec 4)
  /-- R385: cbcst. -/
  | cbcst (d : BitVec 4) (s : BitVec 4) (k : BitVec 3) (z : BitVec 1) (p : BitVec 3) (u : BitVec 1) (w : BitVec 2) (r : BitVec 1) (g : BitVec 4)
  -- class 6, SYS
  /-- R404: trap. -/
  | trap (c : BitVec 8) (g : BitVec 4)
  /-- R405: tres. -/
  | tres (a : BitVec 7) (g : BitVec 4)
  /-- R406: tkill. -/
  | tkill (g : BitVec 4)
  /-- R406: tesc. -/
  | tesc (c : BitVec 8) (g : BitVec 4)
  /-- R407: csrr. -/
  | csrr (d : BitVec 6) (x : BitVec 9) (g : BitVec 4)
  /-- R408: csrw. -/
  | csrw (a : BitVec 7) (x : BitVec 9) (g : BitVec 4)
  /-- R409: setmode. -/
  | setmode (a : BitVec 7) (s : BitVec 2) (g : BitVec 4)
  /-- R410: gettime. -/
  | gettime (d : BitVec 6) (s : BitVec 1) (g : BitVec 4)
  -- the device's own steps
  /-- R101: A quarter picks a ready wave and group, fetches and checks the clause and runs its positions. -/
  | clauseIssue (core : Nat) (quarter : Nat) (mates : List WaveRef)
  /-- R207: A TLB miss walks the four table levels and returns a leaf or a fault. -/
  | pageWalk (core : Nat) (part : Nat) (space : Nat) (va : Nat)
  /-- R247: A line group of a load is served at home, replica or L1 and a lease granted. -/
  | globalLoadPerform (op : Nat) (line : Nat)
  /-- R252: A long-latency value arrives, fills its destinations and may count the operation out. -/
  | loadReturn (op : Nat) (line : Nat)
  /-- R325: A write is performed at the line's home and its completion time formed. -/
  | writePerform (op : Nat) (line : Nat)
  /-- R263: An atomic reads, computes and writes at home as one action in coherence order. -/
  | atomicPerform (op : Nat) (line : Nat)
  /-- R230: A line read from memory is placed as blank, hashed or private content. -/
  | lineFill (reader : FillReader) (line : Nat) (errors : LineErrors)
  /-- R330: A release, fence or completion held until the lease clock passes ltc or C proceeds. -/
  | leaseWaitEnd (what : LeaseWait)
  /-- R261: A bank unit performs one granule access in arrival order. -/
  | scratchpadBankAccess (op : Nat) (granule : Nat)
  /-- R267: A ratom message is performed at the target bank, or on a saved target's image. -/
  | ratomPerform (op : Nat) (lane : Nat)
  /-- R280: A Compositor command finishes its writes, F bits and statistics and is counted out. -/
  | copyCommandComplete (op : Nat)
  /-- R315: The Platen starts the next operation in accumulator order once its sources are ready. -/
  | platenStart (core : Nat) (op : Nat)
  /-- R311: A Platen operation writes its D cells, frees busy rows and is counted out. -/
  | platenComplete (op : Nat)
  /-- R342: A wait is registered at the word's home, delivering at once or installing an entry. -/
  | mantisRegistration (op : Nat) (line : Nat)
  /-- R346: An entry's deadline passes and it fires with predicate false. -/
  | mantisTimeout (entry : Nat)
  /-- R352: A slice sweeps spilled records for passed deadlines at least every 4,096 ticks. -/
  | spillSweep (slice : Nat)
  /-- R350: A slice with free entries takes spilled records of its lines back. -/
  | spillReclaim (slice : Nat)
  /-- R353: A context-held entry is re-evaluated at home every 4,096 ticks. -/
  | contextReevaluation (entry : Nat)
  /-- R48: STM_CFG write with enable 1 while not watching starts watching the stream tail. -/
  | streamStart (part : Nat) (stream : Nat) (value : Nat)
  /-- R48: STM_CFG write with enable 1 while watching updates serial only. -/
  | streamSerialUpdate (part : Nat) (stream : Nat) (value : Nat)
  /-- R48: STM_CFG write with enable 0 cancels the tail entry. -/
  | streamStop (part : Nat) (stream : Nat) (value : Nat)
  /-- R50: On a tail wake the scheduler reads records head to tail and advances head. -/
  | schedulerStreamRead (part : Nat) (stream : Nat)
  /-- R51: A record's gate is registered as a system-scope Mantis entry. -/
  | gateRegistration (launch : Nat)
  /-- R53: A ready record is admitted, co-residency tested, or refused. -/
  | launchAdmit (launch : Nat)
  /-- R55: The scheduler places a block or cluster on the least-loaded fitting cores. -/
  | blockPlace (launch : Nat) (lin : Nat)
  /-- R412: A block stops issuing, drains its operations and writes its image to the save area. -/
  | blockSave (uid : Nat)
  /-- R413: A saved block is written back onto a core and resumes. -/
  | blockRestore (uid : Nat)
  /-- R414: A block is discarded, its entries cancelled, and started again. -/
  | blockFlush (uid : Nat)
  /-- R125: A reserved append reads the image, writes the slot and advances tail. -/
  | launchAppendComplete (op : Nat)
  /-- R423: After all blocks retire and ltc passes, replicas drop and the colophon is written. -/
  | launchRetire (launch : Nat)
  /-- R395: A free handler slot takes up to 64 trapped lanes into a handler wave. -/
  | handlerWaveForm (core : Nat) (quarter : Nat)
  /-- R41: PCFG_CMD op 0x1 checks the NEXT sets and adds or starts removing resources. -/
  | pcfgResize (path : Master) (part : Nat) (value : Nat)
  /-- R41: PCFG_CMD op 0x2 cancels a deferred resize. -/
  | pcfgCancel (path : Master) (part : Nat) (value : Nat)
  /-- R42: Departing cells leave once their last block has left. -/
  | cellRemoval (part : Nat)
  /-- R43: A departing slice writes back, evicts and hands on leases and Mantis entries. -/
  | sliceRemoval (part : Nat) (slice : Nat)
  /-- R44: A group is drained, evicted, zeroed and removed from the partition. -/
  | channelGroupRemoval (part : Nat) (group : Nat)
  /-- R40: A bucket register write takes effect at every point within 1,024 ticks. -/
  | bucketWrite (path : Master) (part : Nat) (reg : Nat) (value : Nat)
  /-- R39: A request held at a token bucket proceeds once enough tokens accrue. -/
  | bucketRelease (point : BucketPoint) (op : Nat) (line : Nat)
  /-- R210: SD_CMD op 0x1 starts a shootdown and invalidates TLB entries of the range. -/
  | shootdownStart (part : Nat) (value : Nat)
  /-- R211: Once earlier writes in the range are performed the shootdown ends and notifies. -/
  | shootdownComplete (part : Nat)
  /-- R242: SC_CTL snap captures all Stereotype counters at one lease tick. -/
  | scSnap (part : Nat) (value : Nat)
  /-- R46: A written 1 to FQ_LOST or EQ_LOST clears the whole count. -/
  | queueLostClear (part : Nat) (fault : Bool) (value : Nat)
  /-- R360: HM_CTL arm 1 registers a one-shot system-scope host monitor. -/
  | hmArm (part : Nat) (monitor : Nat) (value : Nat)
  /-- R360: HM_CTL arm 0 while armed cancels the monitor without firing. -/
  | hmDisarm (part : Nat) (monitor : Nat) (value : Nat)
  /-- R360: W1C write clears fired or error bits of a host monitor. -/
  | hmStatusClear (part : Nat) (monitor : Nat) (value : Nat)
  /-- R401: FR_CMD op 1 makes the escalated lane re-execute its trapping instruction. -/
  | replay (part : Nat)
  /-- R401: FR_CMD op 2 makes the escalated lane exited. -/
  | killLane (part : Nat)
  /-- R401: FR_CMD op 3 ends the lane's launch with killed status. -/
  | killLaunch (part : Nat)
  /-- R401: FR_CMD op 4 replays every translation-faulted lane in an address range. -/
  | replayRange (part : Nat)
  /-- R371: A PPOD_CTL write sets pod rank and size, clearing enable when invalid. -/
  | ppodCtlWrite (path : Master) (part : Nat) (value : Nat)
  /-- R372: Writing 1 drops every cached pod map entry. -/
  | ppodFlush (path : Master) (part : Nat) (value : Nat)
  /-- R373: An incoming UALink request is checked and performed in the export window or refused. -/
  | podRequestReceive (device : Nat) (sender : Nat) (target : Nat) (offset : Nat) (ask : PodAsk)
  /-- R376: A peer's data, acknowledgement or error response settles a pod request. -/
  | podResponse (req : Nat) (answer : PodAnswer)
  /-- R375: A pod request unanswered after 1,048,576 ticks fails. -/
  | podRequestTimeout (req : Nat)
  /-- R375: A UALink port goes down, failing its unanswered requests. -/
  | ualinkPortDown (port : Nat)
  /-- R388: A collective chunk arrives, is reduced or written and forwarded on the ring. -/
  | collectiveChunkArrival (op : Nat) (chunk : Nat) (hop : Nat) (codes : List Nat) (scales : List Nat) (bad : List Nat) (last : Bool) (source : ChunkOrigin)
  /-- R385: A mismatch or failure aborts the collective at every member. -/
  | collectiveAbort (uid : Nat) (gp : Nat) (seq : Nat)
  /-- R383: A Chafer command's writes and signals are acknowledged and it is counted out. -/
  | chaferOperationComplete (step : ChaferStep)
  /-- R335: A host read is performed at home with no lease granted. -/
  | cxlMemRead (addr : Nat) (len : Nat)
  /-- R335: A host write is performed at home and completed after the clock passes C. -/
  | cxlMemWrite (addr : Nat) (bytes : List Byte)
  /-- R241: A host snoop invalidates, recalls or downgrades a host-range line at its home. -/
  | hostSnoop (part : Nat) (line : Nat) (kind : Snoop) (bytes : List (Nat × Byte))
  /-- R430: A claim while FREE makes the claiming master owner. -/
  | ownClaim (path : Master) (value : Nat)
  /-- R430: The owner's heartbeat restarts the ownership timer. -/
  | ownBeat (path : Master) (value : Nat)
  /-- R430: The owner offers ownership to a target master. -/
  | ownOffer (path : Master) (value : Nat)
  /-- R430: The target accepts an offer and becomes owner. -/
  | ownAccept (path : Master) (value : Nat)
  /-- R430: 4,200,000,000 ticks without heartbeat return the device to FREE. -/
  | ownershipLapse
  /-- R432: A tenant requests an attestation report for a nonce. -/
  | attCmd (part : Nat) (value : Nat)
  /-- R432: The signed report is ready and the state becomes done or failed. -/
  | attestationComplete (part : Nat)
  /-- R433: A glitch, temperature or tamper event erases keys, fences partitions and locks the device. -/
  | securityAlarm (sensors : Nat)
  /-- R440: FW_CMD op 1 loads and verifies an image in recovery. -/
  | fwLoad (path : Master)
  /-- R440: FW_CMD op 2 verifies and programs an image for the next cold reset. -/
  | fwUpdate (path : Master)
  /-- R440: The staged image has been read and verified, and the flash is programmed or left unchanged. -/
  | fwImageVerified
  /-- R442: Resets registers, removes partitions, zeroes groups, makes a session key and verifies firmware. -/
  | coldReset
  /-- R440: Power fails; if during flash programming the next boot enters recovery. -/
  | powerFail
  /-- R442: A VF reset kills the partition's launches and resets its window registers. -/
  | functionLevelReset (part : Nat)
  /-- R436: A bank's activation count reaches T and a refresh-management command is issued. -/
  | rfmIssue (bank : Nat)
  /-- R436: A periodic refresh subtracts T/4 from the bank's count. -/
  | periodicRefresh (bank : Nat)
  /-- R436: A count reaching 2T holds the bank's activations until an RFM. -/
  | activationHold (bank : Nat)
  /-- R437: A staged event record is programmed into the Cicada log ring. -/
  | logRecordProgram
  /-- R437: A temperature threshold crossing is logged. -/
  | temperatureThreshold (unit : Nat) (value : Nat)
  /-- R437: A voltage droop event is logged and counted. -/
  | voltageDroop (unit : Nat) (value : Nat)
  /-- R62: A stack data-rate change or retraining runs once no save or restore targets it. -/
  | dataRateChange (stack : Nat)
  /-- R441: The core clock changes rate at a cycle boundary with no architectural effect. -/
  | coreClockChange (core : Nat)
  /-- R5: A write to a register with no behaviour of its own stores its writable fields. -/
  | registerWrite (path : Master) (window : Window) (offset : Nat) (value : Nat)
  /-- R375: A UALink port's link comes up and joins the set of ports over which pod requests are hashed. -/
  | ualinkPortUp (port : Nat)
  /-- R370: The pod fabric manager assigns the device its UALink accelerator identifier over the management channel. -/
  | acceleratorIdAssign (id : Nat)
  /-- R438: Each second of operation is added to the temperature or droop bin of each unit in the Cicada histograms. -/
  | lifetimeHistogramUpdate (unit : Nat) (temperature : Nat) (droop : Nat)
  deriving DecidableEq, Repr

end Sys2Proof
end

