-- ==== Sys2Proof/Machine/State.lean ====
section
/-! DEFINITION. The state of the machine: every piece of state the spec names, as plain data, and the state right after
reset. -/

namespace Sys2Proof.Machine

/-- Sparse storage by number: strictly rising keys, and no entry equal to what an unlisted key reads as. -/
abbrev Cells (α : Type) := List (Nat × α)

/-- What an unlisted or unwritten register of a lane is besides empty: marked by a poisoned line or a failed pod request
(R251, R376), with the address that the trap reports. -/
inductive Mark where
  | poisoned (addr : Nat)
  | podFailed (addr : Nat)
  deriving DecidableEq, Repr

/-- A register that a waiting lane needs full: of lane `lane` of its own wave, or, with `origin`, of its own origin lane. -/
structure Need where
  origin : Bool
  lane : Nat
  reg : Nat
  deriving DecidableEq, Repr

/-- What a lane in the state waiting: empty granule waits for (Table 5.1, R367). -/
inductive GranuleWait where
  | full (granule : Nat)
  | empty (granule : Nat)
  | push (queue : Nat)
  | pop (queue arrival : Nat)
  deriving DecidableEq, Repr

/-- The lane states of Table 5.1. -/
inductive LaneState where
  | active
  | waitMantis (group : Nat)
  | waitBarrier (b : Nat)
  | waitJoin (k : Nat)
  | waitKsync (k : Nat)
  | waitReg (needs : List Need)
  | waitGranule (w : GranuleWait)
  | trapped
  | helper
  | exited
  deriving DecidableEq, Repr

/-- Where the handling of a trap stands (R393, R398, R399). -/
inductive TrapPhase where
  | awaiting
  | handled (core quarter lane : Nat)
  | escalated (serial : Nat)
  deriving DecidableEq, Repr

/-- A trap as taken (R392, R393): cause, detail, fault address, trap point, time and order of taking. -/
structure TrapInfo where
  cause : Nat
  detail : Nat
  addr : Nat
  vpc : Word
  slot : Nat
  time : Nat
  order : Nat
  phase : TrapPhase
  deriving DecidableEq, Repr

/-- The lane a handler lane was formed for (R395). -/
structure Origin where
  uid : Nat
  wave : Nat
  lane : Nat
  deriving DecidableEq, Repr

/-- A lane (R11, R16, R17, R69, R102): its registers with their F/E bits and marks, predicates, vpc and clause slot. Bit r of
`full` is the F/E bit of v r, set when full; bit i of `preds` is p i, p0 read through its accessor. -/
structure Lane where
  v : List Word
  full : Nat
  marks : List (Nat × Mark)
  preds : Nat
  vpc : Word
  slot : Nat
  state : LaneState
  starve : Nat
  trap : Option TrapInfo
  /-- the record of an Irdan-mode lane in trap (R402) -/
  inTrap : Option TrapInfo
  origin : Option Origin
  /-- the registers that the lane's own waiting `lds`, or its own faulting load, at (vpc, slot) marked empty (R109, R250, R259) -/
  ldsOwn : Option (Word × Nat × List Nat)
  deriving DecidableEq, Repr

/-- Where the entry of a wait group stands (R341). -/
inductive GroupPlace where
  | registering
  | atSlice
  | spilled
  | held
  deriving DecidableEq, Repr

/-- A wait group record of a wave (R341); a context-held group keeps its whole entry (R353). -/
structure WaitGroup where
  group : Nat
  lanes : List Nat
  dest : Nat
  wide : Bool
  scope : Nat
  place : GroupPlace
  /-- true for `waitu`; false for the ring-space wait of `launch`, which delivers no value (R125) -/
  delivers : Bool
  /-- the header at which the lanes continue after a delivery (R345) -/
  next : Word
  /-- the virtual address that the lanes watch -/
  va : Nat
  deriving DecidableEq, Repr

/-- The wave-level stalls that stand after an instruction has taken effect (R99). -/
inductive Hold where
  /-- `waitc`: counter and threshold (R123) -/
  | counter (c threshold : Nat)
  /-- `fence`: scope, kind and the number of the last access issued before it (R332) -/
  | fence (scope kind upTo : Nat)
  /-- a scalar destination, a scope check or a command's checks awaiting operation `op` (R99) -/
  | op (op : Nat)
  /-- a recorded signature awaiting the end of its round (R301) -/
  | quire (q : Nat)
  deriving DecidableEq, Repr

/-- A wave (R11, R16): the per-wave registers beside its lanes. `rails` holds the 16-bit rail of register n, octet o at
n * (W/8) + o (R7). -/
structure Wave where
  width : Nat
  nv : Nat
  ns : Nat
  lanes : List Lane
  s : List Word
  k : List Nat
  ocMem : Nat
  ocCpy : Nat
  ocMtx : Nat
  ocCol : Nat
  ltc : Nat
  awBase : Nat
  awLimit : Nat
  fflags : Flags
  round : Nat
  fair : Nat
  irdan : Bool
  rails : List Nat
  fairPos : Nat
  statSum : Nat
  statCount : Nat
  statMax : Nat
  groups : List WaitGroup
  podError : Option Nat
  holds : List Hold
  /-- acquires that have not returned: no later access issues (R329) -/
  acquires : List Nat
  retired : Bool
  /-- the wave's last clause carried yield and no other wave of its priority has issued since (R60) -/
  yielded : Bool
  /-- a vote of the wave was divergent, and its lanes have not all come to one issue key since (R104, R105) -/
  diverged : Bool
  /-- the pack of its quarter and the first position of the 64-lane issue slot it holds (R58) -/
  pack : Nat
  packPos : Nat
  deriving DecidableEq, Repr

/-- The record and the signers of a quire's current round (R301). -/
structure QuireRecord where
  isMmaa : Bool
  t1 : Nat
  t2 : Nat
  options : Nat
  coords : List Nat
  deriving DecidableEq, Repr

structure Signer where
  wave : Nat
  lanes : List Nat
  vpc : Word
  slot : Nat
  /-- the number below which the wave's accesses precede its signature (R313) -/
  upTo : Nat
  deriving DecidableEq, Repr

/-- A quire (Table 13.1): unset (n = 0) or open with its count, record and signers. -/
structure Quire where
  n : Nat
  record : Option QuireRecord
  signers : List Signer
  deriving DecidableEq, Repr

/-- The state of a wave at a barrier (R362). -/
inductive BarState where
  | none | arrived | passed
  deriving DecidableEq, Repr

/-- A numbered barrier (R362); n = 0 is unconfigured. -/
structure Barrier where
  n : Nat
  a : Nat
  st : List BarState
  deriving DecidableEq, Repr

/-- A named queue (R366); slots = 0 is unconfigured. -/
structure Queue where
  base : Nat
  slots : Nat
  size : Nat
  producers : Nat
  allowance : Nat
  head : Nat
  tail : Nat
  filled : Nat
  allow : List Nat
  owners : List Nat
  deriving DecidableEq, Repr

/-- A group register of the pod collectives (R378). -/
structure PodGroup where
  members : List Nat
  own : Nat
  seq : Nat
  /-- sequence numbers of collectives aborted before this member issued its own command (R385) -/
  aborted : List Nat
  deriving DecidableEq, Repr

/-- A tensor descriptor held in a descriptor register (R29, Tables 1.10 and 1.11). -/
structure Desc where
  base : Nat
  scaleBase : Nat
  dims : List Nat
  strides : List Nat
  boxes : List Nat
  elem : Nat
  block : Nat
  plane : Bool
  scratch : Bool
  rank : Nat
  wrap : Nat
  deriving DecidableEq, Repr

/-- The treatment a pre-emption chose for a block (R411). -/
inductive Treatment where
  | drain | save | flush
  deriving DecidableEq, Repr

/-- Where a block stands. -/
inductive BlockPlace where
  /-- discarded for restart and not placed again (R414) -/
  | unplaced
  | resident
  /-- stopped for a save that has not written its image (R412) -/
  | saving
  | saved
  deriving DecidableEq, Repr

/-- A block (Table 1.1, R16, R17, R340, R411). `uid` is the model's own key. Scratchpad bytes and accumulator cells (row * 512 +
column) are sparse over zero; `feEmpty` lists the empty granules and `poisonG` the poisoned ones. -/
structure Block where
  uid : Nat
  launch : Nat
  lin : Nat
  handle : Nat
  place : BlockPlace
  core : Nat
  startQuarter : Nat
  /-- order of placement, for the most recently placed (R57) -/
  placed : Nat
  waves : List Wave
  desc : List (Option Desc)
  quires : List Quire
  barriers : List Barrier
  queues : List Queue
  gps : List (Option PodGroup)
  scratch : Cells Byte
  feEmpty : List Nat
  poisonG : List Nat
  acc : Cells Word
  /-- uncorrectable cells, each with whether it has been logged (R295) -/
  accBad : List (Nat × Bool)
  issued : Nat
  everIssued : Bool
  since : Nat
  elapsed : Nat
  treatment : Option Treatment
  /-- the lease tick from which every wave of the block has waited (R56) -/
  waitSince : Option Nat
  /-- place on the partition's wake list (R355) -/
  woken : Option Nat
  /-- the 64 KiB units of the partition's save area that hold the block's image while it is saved (R412, R416) -/
  saveUnits : List Nat
  deriving DecidableEq, Repr

/-- A launch record as read (R23, Tables 1.4 to 1.8). -/
structure LaunchRecord where
  codeBase : Nat
  entry : Nat
  trapEntry : Nat
  grid : List Nat
  blockDim : List Nat
  width : Nat
  cluster : Nat
  vregs : Nat
  sregs : Nat
  accRows : Nat
  scratch : Nat
  priority : Nat
  stream : Nat
  coresident : Bool
  idempotent : Bool
  savable : Bool
  irdan : Bool
  notify : Bool
  vector : Nat
  gateAddr : Nat
  gateOperand : Nat
  gateCond : Nat
  gateWide : Bool
  gateEnable : Bool
  seed : Nat
  arg : Nat
  colophon : Nat
  deriving DecidableEq, Repr

/-- The stages of a launch (R51 to R53, R423). -/
inductive Stage where
  /-- read and valid, behind an earlier record of its stream or its serial predecessor -/
  | queued
  /-- its gate is registered -/
  | gated
  /-- its gate is met or it has none: ready for admission -/
  | ready
  | admitted
  /-- every block retired, or refused: the colophon is not yet written -/
  | ending (status : Nat)
  | retired
  deriving DecidableEq, Repr

/-- A launch (R23, R51, R411, R424, R425). `lid` is the model's own key, `id` the launch identifier. -/
structure Launch where
  lid : Nat
  id : Nat
  part : Nat
  space : Nat
  stream : Nat
  position : Nat
  record : LaunchRecord
  stage : Stage
  readyAt : Nat
  order : Nat
  nextLin : Nat
  retiredBlocks : Nat
  retiredLins : List Nat
  killing : Option Nat
  started : Option Nat
  endTime : Nat
  run : Nat
  restarted : Nat
  saved : Nat
  traps : Nat
  spills : Nat
  escalations : Nat
  maxLtc : Nat
  /-- clause issues of the completed blocks since their last starts, and how many such blocks (R411) -/
  doneIssues : Nat
  doneBlocks : Nat
  /-- cells, slices and groups a co-resident launch pins (R45) -/
  pins : Nat × Nat × Nat
  deriving DecidableEq, Repr

/-- The attributes of a leaf table entry (Table 9.6). -/
structure PageAttr where
  lease : Nat
  replicate : Bool
  scopeCheck : Bool
  noshare : Bool
  dedup : Bool
  tolerant : Bool
  bound : Bool
  executable : Bool
  writable : Bool
  bfmt : Nat
  bk : Nat
  deriving DecidableEq, Repr

/-- A translation as held in a TLB (R208): the partition, the space, the page's virtual and physical base, its size as a power
of two, and its attributes. -/
structure TlbEntry where
  part : Nat
  space : Nat
  vbase : Nat
  pbase : Nat
  sizeLog : Nat
  attr : PageAttr
  deriving DecidableEq, Repr

/-- A line held in a core's L1 with its lease (R324). -/
structure L1Line where
  part : Nat
  line : Nat
  bytes : List Byte
  side : List Byte
  expiry : Nat
  poison : Bool
  deriving DecidableEq, Repr

/-- The states of a galley tag that holds something (R224); an invalid tag is not listed. -/
inductive TagState where
  | blank | hashed | priv | replica
  deriving DecidableEq, Repr

/-- The scope record of a tag (Table 15.4). -/
structure ScopeRecord where
  level : Nat
  inst : Nat
  deriving DecidableEq, Repr

/-- A galley tag (Table 10.1); `content` tells a replica that is blank from one that names a plate. The layout is the
allocating access's (R228). -/
structure Tag where
  state : TagState
  line : Nat
  domain : Nat
  plate : Option Nat
  dirty : Bool
  poison : Bool
  noshare : Bool
  lease : Nat
  scope : Option ScopeRecord
  launch : Nat
  bound : Bool
  tolerant : Bool
  bfmt : Nat
  bk : Nat
  /-- the model's own field: cores that have observed or written the line at its home since the replica was made, which it serves no
  longer (R249, R327, R328; log entry 21) -/
  barred : List Nat
  deriving DecidableEq, Repr

/-- A plate with its impression count (R223, R225). -/
structure Plate where
  bytes : List Byte
  side : List Byte
  count : Nat
  deriving DecidableEq, Repr

/-- A slot of the bucket index (R223, R230). -/
structure Slot where
  bucket : Nat
  slot : Nat
  plate : Nat
  hash : Nat
  domain : Nat
  deriving DecidableEq, Repr

/-- A token bucket (R39): its level in 1,024ths of a token, and the clock up to which it has accrued. -/
structure Bucket where
  level : Nat
  since : Nat
  deriving DecidableEq, Repr

/-- A slice (R223, R236, R351, R353, R208). Tags stand most recently used first; slots most recently registered last. -/
structure Slice where
  tags : List Tag
  plates : Cells Plate
  slots : List Slot
  floor : Nat
  filter : List Nat
  touched : List Nat
  tlb : List TlbEntry
  bucket : Bucket
  deriving DecidableEq, Repr

/-- The owner of a Mantis entry (R340). -/
inductive EntryOwner where
  | wave (w : WaveRef)
  | tail (part stream : Nat)
  | gate (launch : Nat)
  /-- the ring-space wait the scheduler keeps for a wave (R125) -/
  | ring (w : WaveRef)
  | monitor (part m : Nat)
  deriving DecidableEq, Repr

/-- Where a Mantis entry stands (R340, R350, R353). -/
inductive EntryPlace where
  | slice (i : Nat)
  | spilled
  | held
  deriving DecidableEq, Repr

/-- A Mantis entry (Table 16.1); `addr` is the physical byte address of the word, `key` the model's own number, rising with
registration. -/
structure Entry where
  key : Nat
  owner : EntryOwner
  part : Nat
  cond : Nat
  wide : Bool
  addr : Nat
  operand : Nat
  deadline : Nat
  group : Nat
  place : EntryPlace
  /-- the lease tick of the last re-evaluation of a context-held entry (R353) -/
  checked : Nat
  /-- the touched bit of the line was set after the registration (R353) -/
  touched : Bool
  /-- the records of the spill area that a spilled entry takes (R350) -/
  recs : List Nat
  deriving DecidableEq, Repr

/-- One lane's part of a memory operation: its addresses, the bytes it moves, its operands and the registers that receive the
result, low word first. -/
structure OpLane where
  lane : Nat
  va : Nat
  pa : Nat
  size : Nat
  data : Nat
  swap : Nat
  dest : List Nat
  deriving DecidableEq, Repr

/-- The rail slots a block of `ld.mx` or `st.mx` touches (R257, R258): the side byte, the scale code (for a store) and the octets
and slots. -/
structure OpBlock where
  side : Nat
  code : Nat
  slots : List (Nat × Nat)
  zeroSlots : List (Nat × Nat)
  deriving DecidableEq, Repr

/-- One line group of a memory operation (R247). `l1` marks a store that updated the issuing core's L1 when it issued (R254). -/
structure OpGroup where
  line : Nat
  attr : PageAttr
  lanes : List OpLane
  blocks : List OpBlock
  l1 : Bool
  performed : Bool
  returned : Bool
  poison : Bool
  /-- the failed address of a pod request (R376) -/
  failed : Option Nat
  vals : List (Nat × Nat)
  codes : List Nat
  /-- the pod request in flight for the group -/
  req : Option Nat
  /-- the bucket points (R39) that the request has passed, in bits 0 to 2 for core, slice and port, and those that hold it, in bits 3
  to 5 -/
  points : Nat
  deriving DecidableEq, Repr

/-- What a memory operation does. -/
inductive MemKind where
  | load (signed : Bool)
  | loadMx
  | store
  | storeMx
  /-- an atomic by its sub-operation of Table 11.4 (the operations of Table 11.2 bear the same numbers), 64-bit forms apart -/
  | atomic (sub : Nat) (wide ret : Bool)
  | sload (dest : Nat)
  /-- the read of `tdset` for a descriptor register (R272) -/
  | tdset (t : Nat)
  | prefetch (level : Nat)
  /-- a scratchpad atomic of another block of the cluster (R267): target block's key per lane is `pa`'s high part -/
  | ratom (sub : Nat) (ret : Bool)
  /-- a registration of `waitu` (R348) -/
  | wait (cond : Nat) (wide : Bool) (ticks : Nat)
  /-- the ring-space wait of `launch` (R125) -/
  | ringWait (operand : Nat)
  /-- a `launch` append: image, ring slot and control pair addresses, physical, and the record's index (R125) -/
  | append (image slot pair index : Nat)
  /-- a read of the lease clock (R148, R410) -/
  | clock (value : Nat) (scalar : Option (List Nat))
  deriving DecidableEq, Repr

/-- A memory operation in flight (R247, R248, R254, R263); `id` rises in issue order. -/
structure MemOp where
  id : Nat
  kind : MemKind
  wave : WaveRef
  core : Nat
  part : Nat
  space : Nat
  launch : Nat
  scope : Nat
  qual : Nat
  acquire : Bool
  release : Bool
  relDone : Bool
  vpc : Word
  slot : Nat
  groups : List OpGroup
  completion : Nat
  /-- counted in `oc.mem` until counted out (R248) -/
  counted : Bool
  /-- ready to be counted out, in the wave's issue order (R302) -/
  ended : Bool
  /-- the wave groups of `waitu` and of `launch` -/
  groupNo : Nat
  deriving DecidableEq, Repr

/-- The engines (R276, R315, R377). -/
inductive Engine where
  | compositor | platen | chafer
  deriving DecidableEq, Repr

/-- The options of an engine operation's word (Tables 12.2, 13.3 and 18.4). -/
structure EngOpts where
  round : Nat := 0
  ceil : Bool := false
  fi : Bool := false
  fo : Bool := false
  sat : Bool := false
  wf : Bool := false
  sf : Bool := false
  st : Bool := false
  exp : Int := 0
  accumulate : Bool := false
  negate : Bool := false
  dirIn : Bool := false
  wire : Nat := 0
  acc16 : Bool := false
  sig : Bool := false
  deriving DecidableEq, Repr

/-- Source bytes that an engine operation has read: a memory line with its side bytes, or a granule of the block's scratchpad. -/
structure EngRead where
  glob : Bool
  unit : Nat
  bytes : List Byte
  side : List Byte
  poison : Bool
  deriving DecidableEq, Repr

/-- A chunk that goes to the next member of a ring (R386 to R388): its origin or target, the hops it has then made, the codes and scales on the
wire, the positions of spoiled elements, and whether it is a result of `card`. -/
structure ChunkMsg where
  chunk : Nat
  hop : Nat
  codes : List Nat
  scales : List Nat
  bad : List Nat
  last : Bool
  deriving DecidableEq, Repr

/-- What a collective or one-sided command of Chafer has done (R383 to R389): the group register and its contents when it issued, the
chunks written here with their completion times, the signals performed, the sends made (chunk, result pass), the target or root, and
the signal's offset and operand. -/
structure RingState where
  gp : Nat
  group : PodGroup
  target : Nat
  sigOff : Nat
  operand : Nat
  written : List (Nat × Nat)
  signalled : List Nat
  sent : List (Nat × Bool)
  /-- the next member has issued its matching command, so that chunks may travel to it (R385), and those that wait for that -/
  ready : Bool
  queue : List ChunkMsg
  /-- the chunks taken from the previous member (R388) -/
  arrived : Nat
  deriving DecidableEq, Repr

/-- One byte that an operation writes: the line or granule, the offset in it (a side byte's index with `side`), the byte with the bits of it
that are written, and whether it belongs to a spoiled element. -/
structure DestByte where
  unit : Bool × Nat
  off : Nat
  byte : Byte
  mask : Byte
  bad : Bool
  side : Bool
  deriving DecidableEq, Repr

/-- An engine operation in flight. `op` is the major opcode, `waves` the waves it counts in, each with the number below which their
accesses are observed (R279, R313), `coords` the coordinate group as read, then the row indices of `cpyg`, `lanes` the lanes of T,
`pages` the translations taken at issue (R293), `reads` the source bytes read, `done` the lines and granules written. -/
structure EngOp where
  id : Nat
  engine : Engine
  op : Nat
  opts : EngOpts
  waves : List (WaveRef × Nat)
  uid : Nat
  core : Nat
  part : Nat
  space : Nat
  t1 : Option Desc
  t2 : Option Desc
  coords : List Nat
  lanes : List Nat
  seed : Nat
  stream : Nat
  pages : List TlbEntry
  reads : List EngRead
  done : List (Bool × Nat)
  completion : Nat
  /-- the clock at the start of a Platen operation (R315) -/
  started : Option Nat
  /-- Chafer: the commands' ring state, how far a one-sided command has come (0 nothing sent, 1 data sent, 2 signal sent), and its
  first failed address (R376) -/
  ring : Option RingState
  stage : Nat
  failed : Option Nat
  /-- Chafer: bytes whose lines a bucket or a held bank has still to let pass (R39, R436) -/
  pend : List DestByte
  deriving DecidableEq, Repr

/-- The requests that the device makes for host lines on CXL.cache (R427). -/
inductive CacheReq where
  | rdShared | rdOwn | itoMWr | dirtyEvict | cleanEvict
  deriving DecidableEq, Repr

/-- What the device sends outside: interrupts, host read data, completions, pod messages and ring chunks. -/
inductive Output where
  | interrupt (pf : Bool) (fn vector : Nat)
  | hostData (addr : Nat) (bytes : List Byte) (poison : Bool)
  | hostDone (write : Nat)
  | peerData (device : Nat) (bytes : List Byte) (poison : Bool)
  | peerAck (device : Nat)
  | peerRefused (device : Nat)
  | snoopAnswer (line : Nat) (bytes : Option (List Byte))
  | cache (req : CacheReq) (line : Nat)
  | request (req : Nat)
  | chunk (req op chunk hop : Nat) (codes scales bad : List Nat) (last : Bool) (sender : ChunkSender)
  | abort (uid gp seq : Nat)
  deriving DecidableEq, Repr

/-- What a pod request belongs to. -/
inductive PodOwner where
  | mem (op line : Nat)
  /-- a request of Chafer -/
  | eng (op : Nat)
  /-- a line that an engine operation reads or writes through a page of the pod range (Table 9.1) -/
  | unit (op line : Nat)
  /-- a line of code that a core fetches (Table 9.1) -/
  | code (core part line : Nat)
  deriving DecidableEq, Repr

/-- A pod request in flight (R373, R375). One `held` at its port's bucket (R39) is not sent yet; what it then sends besides stands there. -/
structure PodReq where
  id : Nat
  owner : PodOwner
  part : Nat
  rank : Nat
  device : Nat
  target : Nat
  offset : Nat
  ask : PodAsk
  port : Nat
  sentAt : Nat
  held : Option (List Output)
  deriving DecidableEq, Repr

/-- A host or peer write performed at home whose completion waits for the lease clock (R335, R336); `reply` holds the old value that a
peer's atomic returns. -/
structure PendingWrite where
  id : Nat
  completion : Nat
  die : Nat
  peer : Option Nat
  reply : List Byte
  deriving DecidableEq, Repr

/-- A fault or error queue of a virtual function (R46, R47). -/
structure Ring where
  base : Nat
  cfg : Nat
  prod : Nat
  cons : Nat
  lost : Nat
  deriving DecidableEq, Repr

/-- A launch stream (R48 to R51, R126, R204). -/
structure Stream where
  ring : Nat
  pair : Nat
  order : Nat
  enable : Bool
  serial : Bool
  error : Bool
  watching : Bool
  space : Nat
  head : Nat
  reserved : Nat
  wokeAt : Option Nat
  /-- records that the scheduler has still to read, and the 8-byte words of the next one's slot as it first saw them (R26, R50) -/
  reading : Option (Nat × List (Nat × Nat))
  deriving DecidableEq, Repr

/-- A host monitor (Table 16.6). -/
structure Monitor where
  addr : Nat
  operand : Nat
  vector : Nat
  space : Nat
  cond : Nat
  wide : Bool
  armed : Bool
  fired : Bool
  error : Bool
  value : Nat
  deriving DecidableEq, Repr

/-- The cumulative Stereotype counters, or a snapshot of all of Table 10.3. -/
structure ScCounters where
  time : Nat
  tags : Nat
  plates : Nat
  blank : Nat
  replicas : Nat
  shares : Nat
  collide : Nat
  editions : Nat
  saturate : Nat
  unshare : Nat
  deriving DecidableEq, Repr

/-- A shootdown in progress (R210, R211): range, space, and the operations issued before its step 1. -/
structure Shootdown where
  base : Nat
  len : Nat
  space : Nat
  upTo : Nat
  deriving DecidableEq, Repr

/-- The registers of a virtual function (Tables 2.5, 9.4, 10.3, 16.6, 20.5, R432). -/
structure VF where
  fq : Ring
  eq : Ring
  frSerial : Nat
  frBase : Nat
  frLen : Nat
  frStatus : Nat
  aspRoot : List Nat
  sdBase : Nat
  sdLen : Nat
  sdNotify : Bool
  sdVector : Nat
  sdSpace : Nat
  sdResult : Nat
  shootdown : Option Shootdown
  streams : List Stream
  attNonce : List Byte
  attStatus : Nat
  attReport : List Byte
  monitors : List Monitor
  snap : ScCounters
  /-- a function-level reset has begun and its launches have not all ended (R442) -/
  resetting : Bool
  deriving DecidableEq, Repr

/-- A partition (R36 to R45, Tables 2.1, 5.2, 9.3, 16.5, 18.2, 20.7). Sets of cells, slices and groups are masks. -/
structure Partition where
  cells : Nat
  slices : Nat
  groups : Nat
  nextCells : Nat
  nextSlices : Nat
  nextGroups : Nat
  /-- the sets that a resize in progress or deferred leads to (R41, R45) -/
  goal : Nat × Nat × Nat
  cmdNotify : Bool
  cmdVector : Nat
  result : Nat
  state : Nat
  deadline : Nat
  bktCore : Nat
  bktSlice : Nat
  bktPort : Nat
  cntFormed : Nat
  cntSplit : Nat
  hostBase : Nat
  hostLimit : Nat
  mspBase : Nat
  mspSize : Nat
  mcntSpill : Nat
  mcntHeld : Nat
  mcntTimeout : Nat
  psaveBase : Nat
  psaveSize : Nat
  psaveBudget : Nat
  cntDrain : Nat
  cntSave : Nat
  cntRestart : Nat
  podCtl : Nat
  podMap : Nat
  podExpBase : Nat
  podExpSize : Nat
  podFaults : Nat
  /-- cached pod map entries (R372): rank and entry -/
  podCache : List (Nat × Nat)
  nextId : Nat
  /-- the channel groups removed from the partition and not owned again (R44) -/
  gone : Nat
  sc : ScCounters
  vf : VF
  deriving DecidableEq, Repr

/-- A handler wave of a core's quarter with its launch (R395). -/
structure Handler where
  launch : Nat
  wave : Wave
  deriving DecidableEq, Repr

/-- A line of code in a core's L1 instruction cache (Table 0.1), by its physical line. -/
structure CodeLine where
  part : Nat
  line : Nat
  bytes : List Byte
  deriving DecidableEq, Repr

/-- A core: its L1 data and instruction caches, L1 TLB and handler file (Table 0.1, R208, R324, R395), the wave each quarter issued last
(R60), and its injection bucket's level (R39). -/
structure Core where
  l1 : List L1Line
  code : List CodeLine
  tlb : List TlbEntry
  handlers : List (Option Handler)
  lastIssue : List (Option WaveRef)
  bucket : Bucket
  deriving DecidableEq, Repr

/-- A clause issue in progress (R101): its members with the lanes of its group that are still in it, the lanes of the whole group, the
fetched clause and the position reached. `stalled` marks an issue whose last attempt at its position was held back. -/
structure Issue where
  id : Nat
  core : Nat
  quarter : Nat
  members : List (WaveRef × List Nat)
  group : List (WaveRef × List Nat)
  stalled : Bool
  hdr : Word
  count : Nat
  cls : Nat
  traps : Nat
  yields : Bool
  words : List Nat
  pos : Nat
  deriving DecidableEq, Repr

/-- The counters of a unit of the reliability record (Table 23.6). -/
structure UnitCounters where
  corr : Nat
  uncorr : Nat
  other : Nat
  serial : Nat
  deriving DecidableEq, Repr

/-- An event record of the Cicada log (R437). -/
structure LogRecord where
  serial : Nat
  time : Nat
  unit : Nat
  kind : Nat
  value : Nat
  addr : Nat
  deriving DecidableEq, Repr

/-- The activation count of a bank (R436), and the activations that wait behind a hold. -/
structure Bank where
  count : Nat
  held : Bool
  logged : Bool
  waiting : Nat
  deriving DecidableEq, Repr

/-- Device-wide state (R429 to R442). -/
structure Device where
  owner : Nat
  nonce : Nat
  offerNonce : Nat
  offerTarget : Nat
  beatAt : Nat
  alarm : Nat
  fenced : Bool
  locked : Bool
  keysErased : Bool
  sessionKey : Nat
  boots : Nat
  serial : Nat
  cicWritten : Nat
  cicLost : Nat
  cicIndex : Nat
  cicHsel : Nat
  log : List LogRecord
  staging : List LogRecord
  histTemp : Cells Nat
  histDroop : Cells Nat
  units : Cells UnitCounters
  memRfm : Nat
  pwrCap : Nat
  banks : Cells Bank
  fwStatus : Nat
  fwStage : Nat
  fwLen : Nat
  /-- the firmware command in progress (R440): 0 none, 1 and 2 its op while the image is read and verified, 3 and 4 the same ops while the
  flash is programmed -/
  fwBusy : Nat
  /-- the digests of the running image and of the image in flash, each with its configuration tables (R439, R440) -/
  fwRunning : BitVec 256
  fwFlash : BitVec 256
  /-- power has failed and no cold reset has followed (R440) -/
  unpowered : Bool
  /-- the flash holds an image that fails its check (R439, R440) -/
  flashBad : Bool
  accelId : Nat
  portsUp : Nat
  /-- the bucket of a partition at a port, at port * 16 + partition -/
  portBucket : Cells Bucket
  /-- stacks whose data-rate change waits behind saves and restores (R62) -/
  ratePending : Nat
  deriving DecidableEq, Repr

/-- What happens next: a quarter's cycle, one of the device's own steps, or the passing of lease ticks. -/
inductive Turn where
  | cycle (core quarter : Nat)
  | event (e : Instr)
  | elapse (ticks : Nat)
  deriving DecidableEq, Repr

/-- The state of the machine. -/
structure State where
  clock : Nat
  mem : List Host.Cell
  side : Cells Byte
  poisonMem : List Nat
  parts : List Partition
  slices : List Slice
  cores : List Core
  launches : List Launch
  blocks : List Block
  /-- retired blocks as they were, while no other block has been placed on their cores: scratchpad, F/E bits and waves (R321, R421) -/
  remains : List Block
  issues : List Issue
  memOps : List MemOp
  engOps : List EngOp
  entries : List Entry
  podReqs : List PodReq
  pendingWrites : List PendingWrite
  device : Device
  outputs : List Output
  /-- the model's own schedule (log entry 1) -/
  turns : List Turn
  focus : Nat × Nat
  cur : Option Nat
  stay : Bool
  /-- the model's own counters: keys of new records, trap order, free values drawn -/
  next : Nat
  draws : Nat
  deriving DecidableEq, Repr

/-- Why the machine stops with a fault: nothing does. Every access that the spec forbids traps a lane, is refused through a
register, or is answered as the spec says, and the machine goes on. -/
inductive Fault where
  deriving DecidableEq, Repr

/-- Why an instruction has no meaning. -/
inductive Refusal where
  /-- raised by the dispatch alone, for a row of the opcode table that has no meaning yet; safe: nothing follows from it -/
  | notModelled (mnemonic : String)
  deriving DecidableEq, Repr

/-- A queue of a virtual function at reset (Table 2.5). -/
def Ring.reset : Ring := ⟨0, 0, 0, 0, 0⟩

/-- A launch stream at reset (Tables 2.5 and 9.4). -/
def Stream.reset : Stream := ⟨0, 0, 0, false, false, false, false, 0, 0, 0, none, none⟩

/-- A host monitor at reset (Table 16.6). -/
def Monitor.reset : Monitor := ⟨0, 0, 0, 0, 0, false, false, false, false, 0⟩

/-- The Stereotype counters at reset (Table 10.3). -/
def ScCounters.zero : ScCounters := ⟨0, 0, 0, 0, 0, 0, 0, 0, 0, 0⟩

/-- A virtual function's windows at reset (Tables 2.5, 9.4, 10.3, 16.6, 20.5). The attestation registers have no stated reset
value: zero (DESIGN CHOICE, log entry 5). -/
def VF.reset : VF where
  fq := .reset
  eq := .reset
  frSerial := 0
  frBase := 0
  frLen := 0
  frStatus := 0
  aspRoot := List.replicate 16 0
  sdBase := 0
  sdLen := 0
  sdNotify := false
  sdVector := 0
  sdSpace := 0
  sdResult := 0
  shootdown := none
  streams := List.replicate 64 .reset
  attNonce := []
  attStatus := 0
  attReport := []
  monitors := List.replicate 16 .reset
  snap := .zero
  resetting := false

/-- A partition's configuration block at reset: owning nothing (Tables 2.1, 5.2, 9.3, 16.5, 18.2, 20.7). The bucket levels have
no stated reset value: zero (DESIGN CHOICE, log entry 5). -/
def Partition.reset : Partition where
  cells := 0
  slices := 0
  groups := 0
  nextCells := 0
  nextSlices := 0
  nextGroups := 0
  goal := (0, 0, 0)
  cmdNotify := false
  cmdVector := 0
  result := 0
  state := 0
  deadline := 0x4E20
  bktCore := 0
  bktSlice := 0
  bktPort := 0
  cntFormed := 0
  cntSplit := 0
  hostBase := 0
  hostLimit := 0
  mspBase := 0
  mspSize := 0
  mcntSpill := 0
  mcntHeld := 0
  mcntTimeout := 0
  psaveBase := 0
  psaveSize := 0
  psaveBudget := 0x00A80000
  cntDrain := 0
  cntSave := 0
  cntRestart := 0
  podCtl := 0
  podMap := 0
  podExpBase := 0
  podExpSize := 0
  podFaults := 0
  podCache := []
  nextId := 1
  gone := 0
  sc := .zero
  vf := .reset

/-- A slice that holds nothing (R223, R224). -/
def Slice.reset : Slice := ⟨[], [], [], 0, [], [], [], ⟨0, 0⟩⟩

/-- A core that holds nothing. -/
def Core.reset : Core := ⟨[], [], [], List.replicate 4 none, List.replicate 4 none, ⟨0, 0⟩⟩

/-- The MEM_RFM threshold of the configuration tables (Table 23.6): a free value within the register's limits (log entry 6). -/
def rfmOfTables (image : BitVec 256) : Nat := max 32 (min 1024 (Config.rfmTable image))

/-- Device-wide state after the first cold reset: no owner, boot count 1 (R434), the log empty. What flash keeps starts at zero
(DESIGN CHOICE, log entry 5); MEM_RFM holds the tables' value (log entry 6). -/
def Device.reset : Device where
  owner := 0
  nonce := 0
  offerNonce := 0
  offerTarget := 0
  beatAt := 0
  alarm := 0
  fenced := false
  locked := false
  keysErased := false
  sessionKey := 1
  boots := 1
  serial := 0
  cicWritten := 0
  cicLost := 0
  cicIndex := 0
  cicHsel := 0
  log := []
  staging := []
  histTemp := []
  histDroop := []
  units := []
  memRfm := rfmOfTables Config.firstImage
  pwrCap := 2400
  banks := []
  fwStatus := 0
  fwStage := 0
  fwLen := 0
  fwBusy := 0
  fwRunning := Config.firstImage
  fwFlash := Config.firstImage
  unpowered := false
  flashBad := false
  accelId := 0
  portsUp := 0
  portBucket := []
  ratePending := 0

/-- The machine right after its first cold reset (R442): no partition owns anything, every channel group is zero, no work
exists, and the lease clock reads zero (R2). -/
def State.reset : State where
  clock := 0
  mem := []
  side := []
  poisonMem := []
  parts := List.replicate 16 .reset
  slices := List.replicate 64 .reset
  cores := List.replicate 160 .reset
  launches := []
  blocks := []
  remains := []
  issues := []
  memOps := []
  engOps := []
  entries := []
  podReqs := []
  pendingWrites := []
  device := .reset
  outputs := []
  turns := []
  focus := (0, 0)
  cur := none
  stay := false
  next := 0
  draws := 0

end Sys2Proof.Machine
end

