-- ==== Sys2Proof/Machine/Store.lean ====
section
/-! DEFINITION. Sparse storage in canonical form, the protection codes of memory lines (R216 to R220) and the content hash
(R226). -/

namespace Sys2Proof.Machine

/-- What a key of sparse storage reads as, `d` when it is not listed. -/
def cellGet {α : Type} (d : α) : Cells α → Nat → α
  | [], _ => d
  | (k, x) :: t, a => if a = k then x else cellGet d t a

/-- Sparse storage with one key written; writing `d` unlists the key. -/
def cellSet {α : Type} [DecidableEq α] (d : α) : Cells α → Nat → α → Cells α
  | [], a, x => if x = d then [] else [(a, x)]
  | (k, y) :: t, a, x =>
    if a < k then (if x = d then (k, y) :: t else (a, x) :: (k, y) :: t)
    else if a = k then (if x = d then t else (a, x) :: t)
    else (k, y) :: cellSet d t a x

/-- Keys above `lo`, strictly rising, and no entry equal to `d`. -/
def cellsAbove {α : Type} [DecidableEq α] (d : α) : Nat → Cells α → Bool
  | _, [] => true
  | lo, (k, x) :: t => decide (lo < k) && decide (x ≠ d) && cellsAbove d k t

/-- The canonical form of sparse storage. -/
def cellsWf {α : Type} [DecidableEq α] (d : α) : Cells α → Bool
  | [] => true
  | (k, x) :: t => decide (x ≠ d) && cellsAbove d k t

/-- A run of consecutive values read from sparse storage. -/
def cellRun {α : Type} (d : α) (l : Cells α) (a : Nat) : (n : Nat) → List α
  | 0 => []
  | n + 1 => cellGet d l a :: cellRun d l (a + 1) n

/-- A run of consecutive values written to sparse storage. -/
def cellPut {α : Type} [DecidableEq α] (d : α) (l : Cells α) (a : Nat) : List α → Cells α
  | [] => l
  | x :: xs => cellPut d (cellSet d l a x) (a + 1) xs

/-- What a byte of memory that nothing has written reads as: zero. HBM4E is zero at cold reset (R203, R442); for host memory the
spec gives none (DESIGN CHOICE, log entry 2). -/
def memDefault : Byte := 0

/-- The canonical form of the memory. -/
def Memory.wf (m : List Host.Cell) : Bool := cellsWf memDefault m

/-- One byte of memory (R201). -/
def Memory.read (m : List Host.Cell) (a : Nat) : Byte := cellGet memDefault m a

/-- Memory with one byte written. -/
def Memory.write (m : List Host.Cell) (a : Nat) (b : Byte) : List Host.Cell := cellSet memDefault m a b

/-- `n` bytes of memory from `a`. -/
def Memory.readRun (m : List Host.Cell) (a n : Nat) : List Byte := cellRun memDefault m a n

/-- Memory with bytes written from `a`. -/
def Memory.writeRun (m : List Host.Cell) (a : Nat) (bs : List Byte) : List Host.Cell := cellPut memDefault m a bs

/-- Multiplication in GF(2^8) with x^8 + x^4 + x^3 + x^2 + 1 (R217). -/
def gfMulAux : (n a b acc : Nat) → Nat
  | 0, _, _, acc => acc
  | k + 1, a, b, acc =>
    let acc' := if b % 2 == 1 then Nat.xor acc a else acc
    let a' := if 128 ≤ a then Nat.xor (2 * a) 0x11D else 2 * a
    gfMulAux k a' (b / 2) acc'

def gfMul (a b : Nat) : Nat := gfMulAux 8 a b 0

/-- α^n, α = 0x02. -/
def gfPow2 : Nat → Nat
  | 0 => 1
  | n + 1 => gfMul 2 (gfPow2 n)

/-- The coefficients of a polynomial times (x - r), highest degree first. -/
def polyTimesRoot (r : Nat) (p : List Nat) : List Nat :=
  (p ++ [0]).zipWith Nat.xor (0 :: p.map (gfMul r))

/-- The generator with c roots α^0 .. α^(c-1), highest degree first (R217). -/
def rsGenerator : (c : Nat) → List Nat
  | 0 => [1]
  | c + 1 => polyTimesRoot (gfPow2 c) (rsGenerator c)

/-- The c check symbols of a message, the highest-degree remainder coefficient first (R217). -/
def rsCheck (c : Nat) (msg : List Nat) : List Nat :=
  let g := (rsGenerator c).tail
  msg.foldl (fun st m =>
    let fb := Nat.xor m (st.headD 0)
    (st.tail ++ [0]).zipWith (fun x y => Nat.xor x (gfMul fb y)) g) (List.replicate c 0)

/-- Block bytes of a bound line by bfmt and bk (Table 1.12). -/
def boundBlockBytes (bfmt bk : Nat) : Nat := if bfmt = 3 then 16 * 2 ^ bk else 32 * 2 ^ bk

/-- Blocks of a bound line (Table 9.8). -/
def boundBlocks (bfmt bk : Nat) : Nat := 128 / boundBlockBytes bfmt bk

/-- The lowest protected bit and the number of protected bits of an element by bfmt (R219). -/
def protectedBits (bfmt : Nat) : Nat × Nat :=
  match bfmt with
  | 0 => (3, 5)
  | 1 => (2, 6)
  | 2 => (4, 4)
  | _ => (1, 3)

/-- The elements of a bound line's payload. -/
def boundElems (bfmt : Nat) (payload : List Nat) : List Nat :=
  if bfmt = 3 then payload.flatMap (fun b => [b % 16, b / 16]) else payload

/-- The protected bits of every element, packed in element order (R219), as one number. -/
def packProtected (bfmt : Nat) : (elems : List Nat) → Nat
  | [] => 0
  | e :: es => bitsOf e (protectedBits bfmt).1 (protectedBits bfmt).2 +
      2 ^ (protectedBits bfmt).2 * packProtected bfmt es

/-- The protected message of a bound line after its scales (R219). -/
def protectedMsg (bfmt : Nat) (payload : List Nat) : List Nat :=
  let n := (boundElems bfmt payload).length * (protectedBits bfmt).2
  (bytesLE ((n + 7) / 8) (packProtected bfmt (boundElems bfmt payload))).map (·.toNat)

/-- Whether a page keeps scales in its side bytes (R218, R219). -/
def scaledLayout (bound tolerant : Bool) : Bool := bound && tolerant

/-- The side bytes of a line for its payload, scales and layout (R218, R219, R227). -/
def sideFor (bound tolerant : Bool) (bfmt bk : Nat) (payload scales : List Byte) : List Byte :=
  let p := payload.map (·.toNat)
  if scaledLayout bound tolerant then
    let n := boundBlocks bfmt bk
    let sc := (scales.take n).map (·.toNat)
    (sc ++ rsCheck (16 - n) (sc ++ protectedMsg bfmt p)).map (BitVec.ofNat 8)
  else (rsCheck 16 p).map (BitVec.ofNat 8)

/-- How many erroneous symbols a read corrects (R218, Table 9.8). -/
def correctable (bound tolerant : Bool) (bfmt bk : Nat) : Nat :=
  if scaledLayout bound tolerant then (16 - boundBlocks bfmt bk - 1) / 2 else 2

/-- CRC-32C one bit at a time, reflected (R226). -/
def crcBits : (n crc : Nat) → Nat
  | 0, c => c
  | k + 1, c => crcBits k (if c % 2 == 1 then Nat.xor (c / 2) 0x82F63B78 else c / 2)

def crcByte (c b : Nat) : Nat := crcBits 8 (Nat.xor c b)

/-- CRC-32C of bytes (R226). -/
def crc32c (bs : List Nat) : Nat := Nat.xor (bs.foldl crcByte 0xFFFFFFFF) 0xFFFFFFFF

/-- The content hash of a line: CRC-32C over the domain word, the payload and the side bytes (R226). -/
def contentHash (domain : Nat) (payload side : List Byte) : Nat :=
  crc32c ((bytesLE 4 domain ++ payload ++ side).map (·.toNat))

/-- The domain word of an access (R226). -/
def domainWord (part space : Nat) (dedup : Bool) : Nat := part + 16 * (if dedup then 16 else space)

/-- The index of a line in a watch filter (R351). -/
def filterIndex (line : Nat) : Nat :=
  Nat.xor (Nat.xor (line % 2 ^ 16) (line / 2 ^ 16 % 2 ^ 16)) (line / 2 ^ 32 % 2 ^ 13)

end Sys2Proof.Machine
end

