-- ==== Sys2Proof/Machine/Access.lean ====
section
/-! DEFINITION. Reading and changing the parts of the state: lanes, waves, blocks, launches, partitions, cores and slices, each
through one accessor. -/

namespace Sys2Proof.Machine

/-- The register v r of a lane (R16). -/
def Lane.reg (l : Lane) (r : Nat) : Word := l.v.getD r 0

/-- Whether v r is full (R9). -/
def Lane.isFull (l : Lane) (r : Nat) : Bool := l.full.testBit r

/-- The mark of v r, if any (R251, R376). -/
def Lane.mark? (l : Lane) (r : Nat) : Option Mark := (l.marks.find? (fun m => m.1 == r)).map (·.2)

/-- The predicate p i; p0 reads true (R16). -/
def Lane.pred (l : Lane) (i : Nat) : Bool := i == 0 || l.preds.testBit i

/-- A natural number with bit `i` set to `b`. -/
def setBit (n i : Nat) (b : Bool) : Nat := setBits n i 1 (if b then 1 else 0)

/-- The lane with p i written; a write to p0 is discarded (R16). -/
def Lane.setPred (l : Lane) (i : Nat) (b : Bool) : Lane := if i = 0 then l else { l with preds := setBit l.preds i b }

/-- `writeV` (R9): the register is written, becomes full and loses any mark. -/
def Lane.writeV (l : Lane) (r : Nat) (x : Word) : Lane :=
  { l with v := setAt l.v r x, full := setBit l.full r true, marks := l.marks.filter (fun m => m.1 != r) }

/-- `markEmpty`: the register becomes empty (R9). -/
def Lane.markEmpty (l : Lane) (r : Nat) : Lane := { l with full := setBit l.full r false }

/-- The register is left empty and marked (R251, R376). -/
def Lane.setMark (l : Lane) (r : Nat) (m : Mark) : Lane :=
  { l with full := setBit l.full r false, marks := (r, m) :: l.marks.filter (fun x => x.1 != r) }

/-- Whether the lane is active (R8). -/
def Lane.isActive (l : Lane) : Bool := l.state == .active

/-- The issue key vpc * 16 + slot (R101). -/
def Lane.key (l : Lane) : Nat := l.vpc.toNat * 16 + l.slot

/-- The lane made active; its starve count starts at zero (R102). -/
def Lane.activate (l : Lane) : Lane := { l with state := .active, starve := 0 }

/-- A lane that neither issues nor executes again. -/
def Lane.isGone (l : Lane) : Bool := l.state == .helper || l.state == .exited

/-- Lane `l` of a wave. -/
def Wave.lane? (w : Wave) (l : Nat) : Option Lane := w.lanes[l]?

/-- The register v r of lane l; zero past the wave. -/
def Wave.reg (w : Wave) (l r : Nat) : Word := ((w.lanes[l]?).map (·.reg r)).getD 0

/-- The predicate p i of lane l. -/
def Wave.pred (w : Wave) (l i : Nat) : Bool := ((w.lanes[l]?).map (·.pred i)).getD false

/-- The scalar register s n (R16). -/
def Wave.sreg (w : Wave) (n : Nat) : Word := w.s.getD n 0

/-- The wave with s n written. -/
def Wave.setS (w : Wave) (n : Nat) (x : Word) : Wave := { w with s := setAt w.s n x }

/-- The mask k n (R108). -/
def Wave.mask (w : Wave) (n : Nat) : Nat := w.k.getD n 0

/-- The wave with lane l passed through `f`. -/
def Wave.modLane (w : Wave) (l : Nat) (f : Lane → Lane) : Wave := { w with lanes := modifyAt w.lanes l f }

/-- The wave with each of the lanes passed through `f`. -/
def Wave.modLanes (w : Wave) (ls : List Nat) (f : Lane → Lane) : Wave :=
  { w with lanes := mapIdx' (fun i l => if ls.contains i then f l else l) w.lanes }

/-- The 16-bit rail of register n, octet o (R7, R174). -/
def Wave.rail (w : Wave) (n o : Nat) : Nat := w.rails.getD (n * (w.width / 8) + o) 0

/-- One 8-bit slot of a rail. -/
def Wave.railSlot (w : Wave) (n o slot : Nat) : Nat := w.rail n o / 256 ^ slot % 256

/-- The wave with one slot of a rail written. -/
def Wave.setRailSlot (w : Wave) (n o slot code : Nat) : Wave :=
  { w with rails := modifyAt w.rails (n * (w.width / 8) + o) (fun r => setBits r (8 * slot) 8 code) }

/-- The lanes of a wave in a state. -/
def Wave.lanesWhere (w : Wave) (p : Lane → Bool) : List Nat := indicesFrom p 0 w.lanes

/-- One of the four counters of a wave: 0 oc.mem, 1 oc.cpy, 2 oc.mtx, 3 oc.col (Table 3.1). -/
def Wave.counter (w : Wave) (c : Nat) : Nat :=
  match c with
  | 0 => w.ocMem
  | 1 => w.ocCpy
  | 2 => w.ocMtx
  | _ => w.ocCol

/-- The wave with a counter passed through `f`. -/
def Wave.modCounter (w : Wave) (c : Nat) (f : Nat → Nat) : Wave :=
  match c with
  | 0 => { w with ocMem := f w.ocMem }
  | 1 => { w with ocCpy := f w.ocCpy }
  | 2 => { w with ocMtx := f w.ocMtx }
  | _ => { w with ocCol := f w.ocCol }

/-- The wave with a completion time folded into `ltc` (R325). -/
def Wave.fold (w : Wave) (c : Nat) : Wave := { w with ltc := max w.ltc c }

/-- The MODE word of a wave (Table 3.14). -/
def Wave.modeWord (w : Wave) : Nat := w.round + 4 * w.fair + (if w.irdan then 2 ^ 19 else 0)

/-- The clamp of the fairness interval (Table 3.14). -/
def clampFair (x : Nat) : Nat := max 16 (min 65536 x)

/-- The block of a key. -/
def State.block? (s : State) (uid : Nat) : Option Block := s.blocks.find? (fun b => b.uid == uid)

/-- The state with a block passed through `f`. -/
def State.modBlock (s : State) (uid : Nat) (f : Block → Block) : State :=
  { s with blocks := s.blocks.map (fun b => if b.uid == uid then f b else b) }

/-- The launch of a key. -/
def State.launch? (s : State) (lid : Nat) : Option Launch := s.launches.find? (fun l => l.lid == lid)

/-- The state with a launch passed through `f`. -/
def State.modLaunch (s : State) (lid : Nat) (f : Launch → Launch) : State :=
  { s with launches := s.launches.map (fun l => if l.lid == lid then f l else l) }

/-- A partition; a number past 15 reads as a partition that owns nothing. -/
def State.part (s : State) (p : Nat) : Partition := s.parts.getD p .reset

/-- The state with a partition passed through `f`. -/
def State.modPart (s : State) (p : Nat) (f : Partition → Partition) : State := { s with parts := modifyAt s.parts p f }

/-- The state with a partition's virtual function passed through `f`. -/
def State.modVF (s : State) (p : Nat) (f : VF → VF) : State := s.modPart p (fun q => { q with vf := f q.vf })

/-- A core. -/
def State.core (s : State) (c : Nat) : Core := s.cores.getD c .reset

/-- The state with a core passed through `f`. -/
def State.modCore (s : State) (c : Nat) (f : Core → Core) : State := { s with cores := modifyAt s.cores c f }

/-- A slice. -/
def State.slice (s : State) (i : Nat) : Slice := s.slices.getD i .reset

/-- The state with a slice passed through `f`. -/
def State.modSlice (s : State) (i : Nat) (f : Slice → Slice) : State := { s with slices := modifyAt s.slices i f }

/-- The state with the device-wide part passed through `f`. -/
def State.modDevice (s : State) (f : Device → Device) : State := { s with device := f s.device }

/-- The wave a reference names. -/
def State.wave? (s : State) : WaveRef → Option Wave
  | .blk uid w => (s.block? uid).bind (fun b => b.waves[w]?)
  | .hdl c q => (((s.core c).handlers.getD q none)).map (·.wave)

/-- The state with a wave passed through `f`. -/
def State.modWave (s : State) (r : WaveRef) (f : Wave → Wave) : State :=
  match r with
  | .blk uid w => s.modBlock uid (fun b => { b with waves := modifyAt b.waves w f })
  | .hdl c q =>
    s.modCore c (fun k => { k with handlers := modifyAt k.handlers q (Option.map (fun h => { h with wave := f h.wave })) })

/-- The state with one lane passed through `f`. -/
def State.modLane (s : State) (r : WaveRef) (l : Nat) (f : Lane → Lane) : State := s.modWave r (fun w => w.modLane l f)

/-- The launch key of a wave. -/
def State.launchKey (s : State) : WaveRef → Option Nat
  | .blk uid _ => (s.block? uid).map (·.launch)
  | .hdl c q => ((s.core c).handlers.getD q none).map (·.launch)

/-- The launch of a wave. -/
def State.launchOf (s : State) (r : WaveRef) : Option Launch := (s.launchKey r).bind s.launch?

/-- The block of a wave; none for a handler wave. -/
def State.blockOf (s : State) : WaveRef → Option Block
  | .blk uid _ => s.block? uid
  | .hdl _ _ => none

/-- The core a wave stands on. -/
def State.coreOf (s : State) : WaveRef → Nat
  | .blk uid _ => ((s.block? uid).map (·.core)).getD 0
  | .hdl c _ => c

/-- The quarter a wave issues in: wave j of a block in quarter (s + j) mod 4 (R54). -/
def State.quarterOf (s : State) : WaveRef → Nat
  | .blk uid w => (((s.block? uid).map (·.startQuarter)).getD 0 + w) % 4
  | .hdl _ q => q

/-- Whether a wave is a handler wave. -/
def isHandler : WaveRef → Bool
  | .hdl _ _ => true
  | _ => false

/-- The wave index of a wave in its block. -/
def waveIndex : WaveRef → Nat
  | .blk _ w => w
  | .hdl _ _ => 0

/-- The compute die of a core: ten cells of four cores each (R36). -/
def dieOfCore (c : Nat) : Nat := c / 40

/-- The compute die of a slice (R36). -/
def dieOfSlice (i : Nat) : Nat := i / 16

/-- The hub die, after the four compute dies (R2, Table 0.1). -/
def hubDie : Nat := 4

/-- The lease clock as a die reads it: the device's clock, ahead by at most the skew of Table 0.1 (R2). -/
def State.leaseNow (s : State) (die : Nat) : Nat := s.clock + (Config.dieSkew die).val

/-- A fresh key, and the state that has given it. -/
def State.fresh (s : State) : Nat × State := (s.next, { s with next := s.next + 1 })

/-- The state with an output appended. -/
def State.emit (s : State) (o : Output) : State := { s with outputs := s.outputs ++ [o] }

/-- The memory operation of an id. -/
def State.memOp? (s : State) (id : Nat) : Option MemOp := s.memOps.find? (fun o => o.id == id)

/-- The state with a memory operation passed through `f`. -/
def State.modMemOp (s : State) (id : Nat) (f : MemOp → MemOp) : State :=
  { s with memOps := s.memOps.map (fun o => if o.id == id then f o else o) }

/-- The state without a memory operation. -/
def State.dropMemOp (s : State) (id : Nat) : State := { s with memOps := s.memOps.filter (fun o => o.id != id) }

/-- The engine operation of an id. -/
def State.engOp? (s : State) (id : Nat) : Option EngOp := s.engOps.find? (fun o => o.id == id)

/-- The state with an engine operation passed through `f`. -/
def State.modEngOp (s : State) (id : Nat) (f : EngOp → EngOp) : State :=
  { s with engOps := s.engOps.map (fun o => if o.id == id then f o else o) }

/-- The state without an engine operation. -/
def State.dropEngOp (s : State) (id : Nat) : State := { s with engOps := s.engOps.filter (fun o => o.id != id) }

/-- The clause issue being executed. -/
def State.curIssue (s : State) : Option Issue := s.cur.bind (fun id => s.issues.find? (fun i => i.id == id))

/-- The state with an issue passed through `f`. -/
def State.modIssue (s : State) (id : Nat) (f : Issue → Issue) : State :=
  { s with issues := s.issues.map (fun i => if i.id == id then f i else i) }

/-- A wave's lanes dropped from the clause issue that is being executed. -/
def Issue.dropLanes (i : Issue) (r : WaveRef) (ls : List Nat) : Issue :=
  { i with members := i.members.map (fun m => if m.1 == r then (m.1, m.2.filter (fun l => !ls.contains l)) else m) }

/-- A wave's lanes dropped from every clause issue in progress. -/
def State.dropFromIssues (s : State) (r : WaveRef) (ls : List Nat) : State :=
  { s with issues := s.issues.map (fun i => i.dropLanes r ls) }

end Sys2Proof.Machine
end

