-- ==== Sys2Proof/Machine/Formats.lean ====
section
/-! DEFINITION. Number formats, rounding, scales and the exact arithmetic under them (R152 to R173). A floating value is
a sign, a natural significand and a power of two; every rounding goes through `roundTo` (R163). -/

namespace Sys2Proof.Machine

/-- How the top exponent of a format is used (Table 7.1, R153). -/
inductive Special where
  | ieee      -- an all-ones exponent holds infinity and NaN
  | e4m3      -- one NaN code, no infinity
  | finite    -- every encoding is a number
  | fixed     -- MXINT8: two's complement with value i * 2^-6
  deriving DecidableEq, Repr

/-- The element formats of Table 7.1 and MXINT8 (R152, R153). -/
structure Fmt where
  ebits : Nat
  mbits : Nat
  bias : Nat
  special : Special
  deriving DecidableEq, Repr

def fp64 : Fmt := ⟨11, 52, 1023, .ieee⟩
def fp32 : Fmt := ⟨8, 23, 127, .ieee⟩
def fp16 : Fmt := ⟨5, 10, 15, .ieee⟩
def bf16 : Fmt := ⟨8, 7, 127, .ieee⟩
def e4m3 : Fmt := ⟨4, 3, 7, .e4m3⟩
def e5m2 : Fmt := ⟨5, 2, 15, .ieee⟩
def e3m2 : Fmt := ⟨3, 2, 3, .finite⟩
def e2m3 : Fmt := ⟨2, 3, 1, .finite⟩
def e2m1 : Fmt := ⟨2, 1, 1, .finite⟩
def mxint8 : Fmt := ⟨1, 6, 0, .fixed⟩

/-- The width of an encoding in bits. -/
def Fmt.width (f : Fmt) : Nat := 1 + f.ebits + f.mbits

/-- A number as its format's value: NaN (with its signalling mark), infinity, or (-1)^neg * m * 2^e. -/
inductive Val where
  | nan (signalling : Bool)
  | inf (neg : Bool)
  | fin (neg : Bool) (m : Nat) (e : Int)
  deriving DecidableEq, Repr

/-- The value an encoding has in its format (R152, R153). -/
def decodeFmt (f : Fmt) (code : Nat) : Val :=
  let s := bitOf code (f.width - 1)
  let ex := bitsOf code f.mbits f.ebits
  let m := code % 2 ^ f.mbits
  let topE := 2 ^ f.ebits - 1
  let number : Val :=
    if ex = 0 then .fin s m (1 - (f.bias : Int) - f.mbits)
    else .fin s (2 ^ f.mbits + m) ((ex : Int) - f.bias - f.mbits)
  match f.special with
  | .ieee =>
    if ex = topE then (if m = 0 then .inf s else .nan (m / 2 ^ (f.mbits - 1) == 0)) else number
  | .e4m3 => if ex = topE ∧ m = 2 ^ f.mbits - 1 then .nan false else number
  | .finite => number
  | .fixed => .fin (decide (signExt code 8 < 0)) (signExt code 8).natAbs (-6)

/-- Whether an encoding is subnormal in its own format (R152); MXINT8 has none (R163). -/
def isSubnormal (f : Fmt) (code : Nat) : Bool :=
  match f.special with
  | .fixed => false
  | _ => bitsOf code f.mbits f.ebits == 0 && code % 2 ^ f.mbits != 0

/-- `flushIn` (R166): a subnormal source is read as zero of its sign when fi is 1. -/
def flushIn (f : Fmt) (fi : Bool) (code : Nat) : Nat :=
  if fi && isSubnormal f code then bitsOf code (f.width - 1) 1 * 2 ^ (f.width - 1) else code

/-- A source read through `flushIn` as a value. -/
def readVal (f : Fmt) (fi : Bool) (code : Nat) : Val := decodeFmt f (flushIn f fi code)

/-- The canonical NaN code of a format (R154), code 0x00 where it has none. -/
def canonNaN (f : Fmt) : Nat :=
  match f.special with
  | .ieee => (2 ^ f.ebits - 1) * 2 ^ f.mbits + 2 ^ (f.mbits - 1)
  | .e4m3 => 0x7F
  | _ => 0

/-- Whether the format can hold a NaN. -/
def hasNaN (f : Fmt) : Bool :=
  match f.special with
  | .ieee | .e4m3 => true
  | _ => false

/-- Whether the format can hold an infinity. -/
def hasInf (f : Fmt) : Bool := f.special == .ieee

/-- The magnitude bits of the largest finite value (Table 7.1). -/
def maxCode (f : Fmt) : Nat :=
  match f.special with
  | .ieee => (2 ^ f.ebits - 1) * 2 ^ f.mbits - 1
  | .e4m3 => 0x7E
  | .finite => 2 ^ (f.ebits + f.mbits) - 1
  | .fixed => 127

/-- The exponent of the unit in the last place of the largest finite value, and its significand. -/
def maxFin (f : Fmt) : Nat × Int :=
  match decodeFmt f (maxCode f) with
  | .fin _ m e => (m, e)
  | _ => (0, 0)

/-- The emax of a format (R155): the exponent of its largest finite value. -/
def emax (f : Fmt) : Int := (Nat.log2 (maxFin f).1 : Int) + (maxFin f).2

/-- `m * 2^e <= m' * 2^e'`. -/
def leDyadic (m : Nat) (e : Int) (m' : Nat) (e' : Int) : Bool :=
  let b := min e e'
  decide (m * 2 ^ (e - b).toNat ≤ m' * 2 ^ (e' - b).toNat)

/-- The sign bit of an encoding put in place. -/
def withSign (f : Fmt) (neg : Bool) (mag : Nat) : Nat :=
  match f.special with
  | .fixed => if neg then (256 - mag) % 256 else mag
  | _ => if neg then 2 ^ (f.width - 1) + mag else mag

/-- The rounding modes of `roundTo` (R163); SR carries its threshold R (R165). -/
inductive Rnd where
  | rne | rna | rz | ru | rd
  | sr (r : Nat)
  deriving DecidableEq, Repr

/-- awayFrom of R163: whether the mode carries past the largest finite value away from zero. -/
def awayFrom (mode : Rnd) (neg : Bool) : Bool :=
  match mode with
  | .rz => false
  | .ru => !neg
  | .rd => neg
  | _ => true

/-- `overflowResult` (R164, Table 7.5): the code written. -/
def overflowCode (f : Fmt) (neg sat away : Bool) : Nat :=
  match f.special with
  | .ieee =>
    if sat || !away then withSign f neg (maxCode f)
    else withSign f neg ((2 ^ f.ebits - 1) * 2 ^ f.mbits)
  | .e4m3 => if sat || !away then withSign f neg (maxCode f) else 0x7F
  | _ => withSign f neg (maxCode f)

/-- Whether the rounding moves the truncated quotient `q` up, given the remainder `rem` of 2^sh (R163). -/
def roundsUp (mode : Rnd) (neg : Bool) (q rem sh : Nat) : Bool :=
  match mode with
  | .rne => decide (2 ^ sh < 2 * rem) || (2 * rem == 2 ^ sh && q % 2 == 1 && rem != 0)
  | .rna => decide (2 ^ sh ≤ 2 * rem)
  | .rz => false
  | .ru => rem != 0 && !neg
  | .rd => rem != 0 && neg
  | .sr r => decide (r < rem * 65536 / 2 ^ sh)

/-- The magnitude code of `r * 2^ue` in the format, for a value within its finite range. -/
def encodeMag (f : Fmt) (r : Nat) (ue : Int) : Nat :=
  match f.special with
  | .fixed => r
  | _ =>
    if r < 2 ^ f.mbits then r
    else
      let k := Nat.log2 r - f.mbits
      let ex := ue + k + f.mbits + f.bias
      ex.toNat * 2 ^ f.mbits + (r / 2 ^ k - 2 ^ f.mbits)

/-- `roundTo` (R163): the code written and the flags of R164, R167 and R168. -/
def roundTo (f : Fmt) (x : Val) (mode : Rnd) (sat fo : Bool) : Nat × Flags :=
  match x with
  | .nan _ => (canonNaN f, flagIf (!hasNaN f) flInvalid)
  | .inf s => (overflowCode f s sat true, flagIf (!hasInf f) flInvalid)
  | .fin s m e =>
    if m = 0 then (withSign f s 0, flNone)
    else
      let ue : Int :=
        match f.special with
        | .fixed => -6
        | _ => max ((Nat.log2 m : Int) + e) (1 - (f.bias : Int)) - f.mbits
      let sh := (ue - e).toNat
      let q := if ue ≤ e then m * 2 ^ (e - ue).toNat else m / 2 ^ sh
      let rem := if ue ≤ e then 0 else m % 2 ^ sh
      let r := if roundsUp mode s q rem sh then q + 1 else q
      if !leDyadic r ue (maxFin f).1 (maxFin f).2 then
        (overflowCode f s sat (awayFrom mode s), flOverflow ||| flInexact)
      else
        let tiny := f.special != .fixed && decide (r < 2 ^ f.mbits)
        let inexact := rem != 0
        if fo && tiny && r != 0 then (withSign f s 0, flUnderflow ||| flInexact)
        else (withSign f s (encodeMag f r ue),
          flagIf inexact flInexact ||| flagIf (inexact && tiny) flUnderflow)

/-- The rounding modes of MODE.round (Table 3.14). -/
def roundOfMode (code : Nat) : Rnd :=
  match code with
  | 0 => .rne
  | 1 => .rz
  | 2 => .ru
  | _ => .rd

/-- The rounding of a conversion's rounding field, with the SR threshold (R165). -/
def roundOfField (code r : Nat) : Rnd :=
  match code with
  | 0 => .rne
  | 1 => .rz
  | 2 => .sr r
  | _ => .rna

/-- Whether a value is a signalling NaN. -/
def Val.isSNaN : Val → Bool
  | .nan s => s
  | _ => false

/-- Whether a value is a NaN. -/
def Val.isNaN : Val → Bool
  | .nan _ => true
  | _ => false

/-- Whether a value is finite. -/
def Val.isFin : Val → Bool
  | .fin _ _ _ => true
  | _ => false

/-- Whether a value is a zero of either sign. -/
def Val.isZero : Val → Bool
  | .fin _ m _ => m == 0
  | _ => false

/-- The value with its sign changed. -/
def Val.neg : Val → Val
  | .nan s => .nan s
  | .inf s => .inf !s
  | .fin s m e => .fin (!s) m e

/-- The magnitude of a value. -/
def Val.abs : Val → Val
  | .nan s => .nan s
  | .inf _ => .inf false
  | .fin _ m e => .fin false m e

/-- The value times 2^k. -/
def Val.scale (k : Int) : Val → Val
  | .fin s m e => .fin s m (e + k)
  | v => v

/-- The exact sum of two values and whether it is invalid (R181); an exact zero sum of unlike zeros or of opposite
values takes the sign `rd`. -/
def Val.add (rd : Bool) (a b : Val) : Val × Bool :=
  match a, b with
  | .nan s, .nan t => (.nan false, s || t)
  | .nan s, _ => (.nan false, s)
  | _, .nan t => (.nan false, t)
  | .inf s, .inf t => if s == t then (.inf s, false) else (.nan false, true)
  | .inf s, .fin _ _ _ => (.inf s, false)
  | .fin _ _ _, .inf t => (.inf t, false)
  | .fin s m e, .fin t n g =>
    let b := min e g
    let x := m * 2 ^ (e - b).toNat
    let y := n * 2 ^ (g - b).toNat
    if s == t then (.fin s (x + y) b, false)
    else if x = y then (.fin rd 0 b, false)
    else if y < x then (.fin s (x - y) b, false)
    else (.fin t (y - x) b, false)

/-- The exact product of two values and whether it is invalid (R181). -/
def Val.mul (a b : Val) : Val × Bool :=
  match a, b with
  | .nan s, .nan t => (.nan false, s || t)
  | .nan s, _ => (.nan false, s)
  | _, .nan t => (.nan false, t)
  | .inf s, .inf t => (.inf (s != t), false)
  | .inf s, .fin t n _ => if n = 0 then (.nan false, true) else (.inf (s != t), false)
  | .fin s m _, .inf t => if m = 0 then (.nan false, true) else (.inf (s != t), false)
  | .fin s m e, .fin t n g => (.fin (s != t) (m * n) (e + g), false)

/-- a * b + d formed exactly (R169), with R181's invalid cases: a signalling operand, 0 times infinity even with a quiet
NaN addend, and opposite infinities in the final addition. -/
def Val.fma (rd : Bool) (a b d : Val) : Val × Bool :=
  let p := a.mul b
  let r := p.1.add rd d
  (r.1, p.2 || r.2)

/-- One rounded operation: the exact result with its invalid mark, rounded (R179). -/
def roundResult (f : Fmt) (x : Val × Bool) (mode : Rnd) (sat fo : Bool) : Nat × Flags :=
  let r := roundTo f x.1 mode sat fo
  (r.1, r.2 ||| flagIf x.2 flInvalid)

/-- Whether an exact zero sum is negative: in RD only (R181). -/
def zeroSign (mode : Rnd) : Bool := mode == .rd

/-- Order of encodings: -0 below +0, infinities at the ends. -/
def orderKey (f : Fmt) (code : Nat) : Int :=
  let mag : Int := (code % 2 ^ (f.width - 1) : Nat)
  if bitOf code (f.width - 1) then -mag - 1 else mag

/-- `fmin` or `fmax` on flushed codes (R182): a NaN operand yields the other, two NaNs the canonical NaN; fo applies;
a signalling NaN raises invalid. -/
def minMax (f : Fmt) (isMax fo : Bool) (a b : Nat) : Nat × Flags :=
  let va := decodeFmt f a
  let vb := decodeFmt f b
  let inv := flagIf (va.isSNaN || vb.isSNaN) flInvalid
  let r :=
    if va.isNaN && vb.isNaN then canonNaN f
    else if va.isNaN then b
    else if vb.isNaN then a
    else if decide (orderKey f a ≤ orderKey f b) != isMax then a else b
  if fo && isSubnormal f r then (flushIn f true r, inv ||| flUnderflow ||| flInexact) else (r, inv)

/-- The comparison order of values: -0 equals +0. -/
def cmpKey (f : Fmt) (code : Nat) : Int :=
  let mag : Int := (code % 2 ^ (f.width - 1) : Nat)
  if bitOf code (f.width - 1) then -mag else mag

/-- The float conditions of Table 3.7 under R185: the outcome and the flags. -/
def floatCond (f : Fmt) (code a b : Nat) : Bool × Flags :=
  let va := decodeFmt f a
  let vb := decodeFmt f b
  let uno := va.isNaN || vb.isNaN
  let x := cmpKey f a
  let y := cmpKey f b
  let ordered := 2 ≤ code && code ≤ 5
  let inv := flagIf (va.isSNaN || vb.isSNaN || (uno && ordered)) flInvalid
  let r :=
    match code with
    | 0 => !uno && x == y
    | 1 => uno || x != y
    | 2 => !uno && decide (x < y)
    | 3 => !uno && decide (x ≤ y)
    | 4 => !uno && decide (y < x)
    | 5 => !uno && decide (y ≤ x)
    | 6 => uno
    | _ => !uno
  (r, inv)

/-- The integral value of a finite value, rounded by a mode: sign and magnitude. -/
def integral (mode : Rnd) (s : Bool) (m : Nat) (e : Int) : Nat × Bool :=
  if 0 ≤ e then (m * 2 ^ e.toNat, false)
  else
    let sh := (-e).toNat
    let q := m / 2 ^ sh
    let rem := m % 2 ^ sh
    (if roundsUp mode s q rem sh then q + 1 else q, rem != 0)

/-- A value rounded to an integer in [lo, hi] by the rule of R191: in range, the integer and inexact; else invalid and,
under sat, the clamped integer (0 for NaN), else `bad`. -/
def toInteger (x : Val) (mode : Rnd) (sat : Bool) (lo hi bad : Int) : Int × Flags :=
  match x with
  | .nan _ => (if sat then 0 else bad, flInvalid)
  | .inf s => (if sat then (if s then lo else hi) else bad, flInvalid)
  | .fin s m e =>
    let r := integral mode s m e
    let v : Int := if s then -(r.1 : Int) else r.1
    if lo ≤ v ∧ v ≤ hi then (v, flagIf r.2 flInexact)
    else (if sat then (if v < lo then lo else hi) else bad, flInvalid)

/-- An integer as a value; zero is +0. -/
def Val.ofInt (i : Int) : Val := .fin (decide (i < 0)) i.natAbs 0

/-- The larger magnitude of two values that are finite or infinite (R160, R195). -/
def maxMag (a b : Val) : Val :=
  match a, b with
  | .fin _ m e, .fin _ n g => if leDyadic n g m e then .fin false m e else .fin false n g
  | .inf _, _ => .inf false
  | _, .inf _ => .inf false
  | _, _ => .nan false

/-- The scale exponent X of a block whose largest magnitude is m * 2^e, m > 0 (R160), clamped to [-127, 127]. -/
def scaleExp (f : Fmt) (ceil : Bool) (m : Nat) (e : Int) : Int :=
  let x := (Nat.log2 m : Int) + e - emax f
  let y := if ceil && !leDyadic m (e - x) (maxFin f).1 (maxFin f).2 then x + 1 else x
  max (-127) (min 127 y)

/-- A block of codes under a scale, formed from its exact source values by R162 and R283. -/
def quantBlock (f : Fmt) (ceil : Bool) (modes : List Rnd) (sat fo : Bool) (xs : List Val) : Nat × List Nat :=
  if xs.any (fun v => !v.isFin) then (0xFF, xs.map (fun _ => 0))
  else if xs.all Val.isZero then (0, xs.map (fun _ => 0))
  else
    match xs.foldl maxMag (.fin false 0 0) with
    | .fin _ m e =>
      let x := scaleExp f ceil m e
      ((x + 127).toNat, (xs.zip modes).map (fun p => (roundTo f (p.1.scale (-x)) p.2 sat fo).1))
    | _ => (0xFF, xs.map (fun _ => 0))

/-- The value of an MX element under its scale code (R157). -/
def mxVal (f : Fmt) (scaleCode code : Nat) : Val :=
  if scaleCode = 0xFF then .nan false else (decodeFmt f code).scale ((scaleCode : Int) - 127)

/-- 2^-X as an FP32 code, for the factor of `bscale` (R196) and `rail.fac` (R199). -/
def pow2fp32 (k : Int) : Nat := (roundTo fp32 (.fin false 1 k) .rne false false).1

/-- The exact sum of a list of values with the zero rule of R171: -0 only when every addend is -0. -/
def exactSum : List Val → Val
  | [] => .fin false 0 0
  | v :: vs => vs.foldl (fun acc x => (acc.add false x).1) v

/-- The exact sum of products of two element lists (R171). -/
def dotExact (as bs : List Val) : Val := exactSum ((as.zip bs).map (fun p => (p.1.mul p.2).1))

/-- The Scarab generator (R150). -/
def scarab (key counter : Nat) : Nat :=
  let k0 := key % 2 ^ 32
  let k1 := key / 2 ^ 32 % 2 ^ 32
  let x0 := Nat.xor (counter % 2 ^ 32) k0
  let x1 := x0 * 0x9E3779B1 % 2 ^ 32
  let x2 := Nat.xor (Nat.xor x1 (x1 / 2 ^ 15)) k1
  let x3 := x2 * 0x85EBCA77 % 2 ^ 32
  Nat.xor x3 (x3 / 2 ^ 13)

/-- The SR threshold R = scarab(K, C)[31:16] (R165). -/
def srThreshold (key counter : Nat) : Nat := scarab key counter / 2 ^ 16

end Sys2Proof.Machine
end

