-- ==== Sys2Proof/Machine/Operands.lean ====
section
/-! DEFINITION. Operand forms: field a (Table 3.3, R73), register groups, the blocks of MX registers (Table 7.6), special registers'
block coordinates, and tensor descriptors as loaded (R29 to R33). -/

namespace Sys2Proof.Machine

/-- The vector registers that field a names, one or an even pair (R73). -/
def aVec (a : BitVec 7) (pair : Bool) : List Nat :=
  if a.toNat < 64 then (if pair then [a.toNat, a.toNat + 1] else [a.toNat]) else []

/-- The scalar registers that field a names, one or an even pair (R73). -/
def aScal (a : BitVec 7) (pair : Bool) : List Nat :=
  if 64 ≤ a.toNat ∧ a.toNat < 112 then (if pair then [a.toNat - 64, a.toNat - 63] else [a.toNat - 64]) else []

/-- An integer constant or lane-varying value of Table 3.3 in a width of `n` bits (R73): zero-extended, all-ones filling the width. -/
def intConst (w : Wave) (l a n : Nat) : Nat :=
  match a with
  | 112 => 0
  | 113 => 1
  | 114 => 2
  | 115 => 3
  | 116 => 4
  | 117 => 8
  | 118 => 16
  | 119 => 2 ^ n - 1
  | 124 => l
  | 125 => l / 4
  | 126 => w.width
  | _ => 0

/-- The sign and exponent of the floating constants 120 to 123 (Table 3.3): +0.5, +1.0, +2.0, −1.0. -/
def floatConst (a : Nat) : Val :=
  match a with
  | 120 => .fin false 1 (-1)
  | 121 => .fin false 1 0
  | 122 => .fin false 1 1
  | _ => .fin true 1 0

/-- opA(l) as a 32-bit integer operand; a floating constant gives its binary32 pattern (R129, R136). -/
def Wave.opA (w : Wave) (l : Nat) (a : BitVec 7) : Word :=
  if a.toNat < 64 then w.reg l a.toNat
  else if a.toNat < 112 then w.sreg (a.toNat - 64)
  else if 120 ≤ a.toNat ∧ a.toNat ≤ 123 then BitVec.ofNat 32 (roundTo fp32 (floatConst a.toNat) .rne false false).1
  else BitVec.ofNat 32 (intConst w l a.toNat 32)

/-- opA(l) as a 64-bit integer operand: an even pair, low word first, or a constant (R73). -/
def Wave.opA64 (w : Wave) (l : Nat) (a : BitVec 7) : Nat :=
  if a.toNat < 64 then pair64 (w.reg l a.toNat) (w.reg l (a.toNat + 1))
  else if a.toNat < 112 then pair64 (w.sreg (a.toNat - 64)) (w.sreg (a.toNat - 63))
  else intConst w l a.toNat 64

/-- opA(l) as a binary64 code: an even pair or a floating constant in binary64 (R73). -/
def Wave.opAD (w : Wave) (l : Nat) (a : BitVec 7) : Nat :=
  if a.toNat < 112 then w.opA64 l a else (roundTo fp64 (floatConst a.toNat) .rne false false).1

/-- opA(l) as a packed pair: a register, or a floating constant of the format in both halves (R73). -/
def Wave.opAH (w : Wave) (f : Fmt) (l : Nat) (a : BitVec 7) : Nat :=
  if a.toNat < 112 then (w.opA l a).toNat
  else
    let c := (roundTo f (floatConst a.toNat) .rne false false).1
    c + 65536 * c

/-- A register pair of lane l as a 64-bit number, low word first. -/
def Wave.reg64 (w : Wave) (l r : Nat) : Nat := pair64 (w.reg l r) (w.reg l (r + 1))

/-- A scalar register pair as a 64-bit number, low word first. -/
def Wave.sreg64 (w : Wave) (r : Nat) : Nat := pair64 (w.sreg r) (w.sreg (r + 1))

/-- `n` consecutive registers of lane l as one number, low word first. -/
def Wave.regs (w : Wave) (l r : Nat) : (n : Nat) → Nat
  | 0 => 0
  | n + 1 => (w.reg l r).toNat + 2 ^ 32 * w.regs l (r + 1) n

/-- The formats of `bscale`, `mxup` and the rail layouts: 0 E4M3, 1 E5M2, 2 E3M2, 3 E2M3, 4 E2M1, 5 MXINT8 (Table 8.9). -/
def blockFmt (code : Nat) : Fmt :=
  match code with
  | 0 => e4m3
  | 1 => e5m2
  | 2 => e3m2
  | 3 => e2m3
  | 4 => e2m1
  | _ => mxint8

/-- The formats of `cvtf` and `cvtn` (Table 8.5). -/
def convFmt (code : Nat) : Fmt :=
  match code with
  | 0 => fp16
  | 1 => bf16
  | 2 => e4m3
  | 3 => e5m2
  | 4 => e3m2
  | 5 => e2m3
  | 6 => e2m1
  | _ => mxint8

/-- The formats of `mxpk` with the saturation they name (Table 8.10). -/
def packFmt (code : Nat) : Fmt × Bool :=
  match code with
  | 0 => (e4m3, false)
  | 1 => (e4m3, true)
  | 2 => (e5m2, false)
  | 3 => (e5m2, true)
  | 4 => (e3m2, true)
  | 5 => (e2m3, true)
  | 6 => (e2m1, true)
  | _ => (mxint8, true)

/-- The format of a bound page by bfmt (Table 9.6). -/
def boundFmt (bfmt : Nat) : Fmt :=
  match bfmt with
  | 0 => e4m3
  | 1 => e5m2
  | 2 => mxint8
  | _ => e2m1

/-- The lanes of one block for FP4 (`four`) or wider elements and k = 32 · 2^kc (Table 7.6). -/
def blockLanes (four : Bool) (kc : Nat) : Nat := (if four then 4 else 8) * 2 ^ kc

/-- The leading slot of the block that holds lane l: octet and slot (Table 7.6). -/
def leadSlot (four : Bool) (kc l : Nat) : Nat × Nat :=
  let m := l / blockLanes four kc * blockLanes four kc
  (m / 8, if four && kc == 0 && m % 8 == 4 then 1 else 0)

/-- The slots that a writer of the block of lane l gives the block's code, and those it sets to 0x00 (R175). -/
def blockSlots (four : Bool) (kc l : Nat) : List (Nat × Nat) × List (Nat × Nat) :=
  let n := blockLanes four kc
  let m := l / n * n
  let octets := rangeFrom (m / 8) (max 1 (n / 8))
  if four then
    if kc = 0 then ([leadSlot four kc l], [])
    else (octets.flatMap (fun o => [(o, 0), (o, 1)]), [])
  else (octets.map (fun o => (o, 0)), octets.map (fun o => (o, 1)))

/-- The scale code of the block that holds lane l, read from register r (R175). -/
def Wave.blockScale (w : Wave) (four : Bool) (kc r l : Nat) : Nat :=
  let p := leadSlot four kc l
  w.railSlot r p.1 p.2

/-- The wave with a block's scale code written to register r (R175). -/
def Wave.setBlockScale (w : Wave) (four : Bool) (kc r l code : Nat) : Wave :=
  let p := blockSlots four kc l
  let w1 := p.1.foldl (fun w x => w.setRailSlot r x.1 x.2 code) w
  p.2.foldl (fun w x => w.setRailSlot r x.1 x.2 0) w1

/-- The bits of an element by its format code (Table 1.12). -/
def elemBits (e : Nat) : Nat :=
  match e with
  | 0 => 32
  | 1 => 16
  | 2 => 16
  | 3 => 64
  | 4 => 8
  | 5 => 8
  | 6 => 6
  | 7 => 6
  | 8 => 4
  | 9 => 8
  | 10 => 32
  | _ => 8

/-- The number format of an element code (Table 1.12); INT32 and raw bytes have none. -/
def elemFmt (e : Nat) : Fmt :=
  match e with
  | 0 => fp32
  | 1 => fp16
  | 2 => bf16
  | 3 => fp64
  | 4 => e4m3
  | 5 => e5m2
  | 6 => e3m2
  | 7 => e2m3
  | 8 => e2m1
  | _ => mxint8

/-- k of a block code: 32, 64, 128; 0 for unblocked (Table 1.11). -/
def blockK (b : Nat) : Nat := if b = 0 then 0 else 16 * 2 ^ b

/-- The bytes of one MX block (Table 1.12). -/
def Desc.blockBytes (d : Desc) : Nat := blockK d.block * elemBits d.elem / 8

/-- Whether a descriptor describes an MX tensor (R30). -/
def Desc.isMx (d : Desc) : Bool := d.block != 0

/-- A dimension, stride or box extent of a descriptor. -/
def Desc.dim (d : Desc) (i : Nat) : Nat := d.dims.getD i 1
def Desc.stride (d : Desc) (i : Nat) : Nat := if i = 0 then 0 else d.strides.getD (i - 1) 0
def Desc.box (d : Desc) (i : Nat) : Nat := d.boxes.getD i 1

/-- The byte offset of the element at given coordinates from the tensor's base (R31); FP4 elements pair up in a byte. -/
def Desc.offset (d : Desc) (c : List Nat) : Nat :=
  c.getD 0 0 * elemBits d.elem / 8 + c.getD 1 0 * d.stride 1 + c.getD 2 0 * d.stride 2 + c.getD 3 0 * d.stride 3

/-- The scale address generator (R222): the scale of the block whose first element lies at byte offset b. -/
def Desc.scaleAt (d : Desc) (b : Nat) : Nat :=
  if elemBits d.elem = 6 then d.scaleBase + b / 8 / 3 / (d.blockBytes / 24) else d.scaleBase + b / d.blockBytes

/-- A number read from little-endian bytes of an image. -/
def imageNat (bs : List Byte) (off n : Nat) : Nat := ofBytesLE ((bs.drop off).take n)

/-- The descriptor that 64 bytes hold, fields only (Tables 1.10, 1.11). -/
def Desc.ofImage (bs : List Byte) : Desc :=
  let f := imageNat bs 0x3A 2
  { base := imageNat bs 0 8
    scaleBase := imageNat bs 8 8
    dims := [imageNat bs 0x10 4, imageNat bs 0x14 4, imageNat bs 0x18 4, imageNat bs 0x1C 4]
    strides := [imageNat bs 0x20 6, imageNat bs 0x26 6, imageNat bs 0x2C 6]
    boxes := [imageNat bs 0x32 2, imageNat bs 0x34 2, imageNat bs 0x36 2, imageNat bs 0x38 2]
    elem := bitsOf f 0 4
    block := bitsOf f 4 2
    plane := bitOf f 6
    scratch := bitsOf f 7 2 == 1
    rank := bitsOf f 9 2 + 1
    wrap := bitsOf f 11 4 }

/-- The codes of a descriptor's format word are assigned (R30): the elements of MX formats may stand in blocks, and without (log entry
15). -/
def Desc.formatOk (d : Desc) : Bool :=
  decide (d.elem ≤ 0xB) && (d.block == 0 || (decide (4 ≤ d.elem) && decide (d.elem ≤ 9))) &&
  (d.isMx || !d.plane) &&
  (!d.isMx || d.plane || (!d.scratch && d.elem != 6 && d.elem != 7))

/-- The size fields agree with the rank and the boxes with the sizes (R31, R33). -/
def Desc.sizesOk (d : Desc) : Bool :=
  (upTo 4).all (fun i => decide (1 ≤ d.dim i) && decide (1 ≤ d.box i) && decide (d.box i ≤ d.dim i) &&
    (decide (i < d.rank) || (d.dim i == 1 && d.box i == 1 && d.stride i == 0)))

/-- The alignment conditions of R31. -/
def Desc.alignOk (d : Desc) : Bool :=
  let str (n : Nat) : Bool := d.strides.all (fun x => x % n == 0)
  (if d.scratch then decide (d.base < 2 ^ 21) && decide (d.scaleBase < 2 ^ 21) && d.base % 16 == 0 && d.scaleBase % 16 == 0 && str 16
   else decide (d.base < 2 ^ 57) && decide (d.scaleBase < 2 ^ 57) && d.base % 16 == 0 && d.scaleBase % 16 == 0 &&
    (!d.isMx || (d.base % 128 == 0 && (if d.plane then str d.blockBytes else str 128)))) &&
  (d.plane || d.scaleBase == 0) &&
  (!d.isMx || (d.dim 0 % blockK d.block == 0 && d.box 0 % blockK d.block == 0)) &&
  (d.elem != 8 || (d.dim 0 % 2 == 0 && d.box 0 % 2 == 0))

/-- A scratchpad tensor, with every byte that its last element lies in, and its last scale byte lie below 2^21 (R31). -/
def Desc.boundOk (d : Desc) : Bool :=
  let last := [d.dim 0 - 1, d.dim 1 - 1, d.dim 2 - 1, d.dim 3 - 1]
  let block0 := [d.dim 0 - blockK d.block, d.dim 1 - 1, d.dim 2 - 1, d.dim 3 - 1]
  let bits := elemBits d.elem
  !d.scratch || (decide (d.base + d.offset last + (bits * (d.dim 0 - 1) % 8 + bits + 7) / 8 ≤ 2 ^ 21) &&
    (!d.plane || decide (d.scaleAt (d.offset block0) + 1 ≤ 2 ^ 21)))

/-- The descriptor that an image holds, none when it is invalid (R33). -/
def parseDesc (bs : List Byte) : Option Desc :=
  let f := imageNat bs 0x3A 2
  let d := Desc.ofImage bs
  if bitOf f 15 && decide (bitsOf f 7 2 ≤ 1) && imageNat bs 0x3C 4 == 0 && d.formatOk && d.sizesOk && d.alignOk && d.boundOk then
    some d
  else none

/-- The coordinates of a linear index in dimensions x fastest (R13, R15). -/
def coordsOf (lin x y : Nat) : Nat × Nat × Nat := (lin % x, lin / x % y, lin / x / y)

end Sys2Proof.Machine
end

