-- ==== Sys2Proof/Machine/Home.lean ====
section
/-! DEFINITION. The home of a line (R37, R223 to R236): galley tags, plates, placing of content, writes performed at home with
their completion times (R325), and the Mantis entries that each write is checked against (R340 to R346). -/

namespace Sys2Proof.Machine

/-- The attributes of a write that no page governs: ordinary protection, not shared (log entry 10). -/
def PageAttr.plain : PageAttr := ⟨0, false, false, true, false, false, false, false, true, 0, 0⟩

/-- The bytes of HBM4E that one channel group backs (R201). -/
def groupBytes : Nat := 7999979520

/-- The channel group of a physical address in HBM4E. -/
def groupOf (pa : Nat) : Nat := pa / 2 ^ 33

/-- Whether a physical address is HBM4E that a group backs. -/
def isBacked (pa : Nat) : Bool := decide (pa < 2 ^ 39) && decide (pa % 2 ^ 33 < groupBytes)

/-- Whether a physical address lies in the pod range (Table 9.2). -/
def isPod (pa : Nat) : Bool := decide (2 ^ 50 ≤ pa) && decide (pa < 2 ^ 51)

/-- Whether a physical address lies in the host range (Table 9.2). -/
def isHost (pa : Nat) : Bool := decide (2 ^ 51 ≤ pa) && decide (pa < 2 ^ 52)

/-- Whether a partition owns the backed HBM4E at an address. -/
def Partition.ownsHbm (p : Partition) (pa : Nat) : Bool := isBacked pa && p.groups.testBit (groupOf pa)

/-- Whether `n` bytes from an address lie in backed HBM4E that a partition owns, for ranges within one group's window or over
whole groups. -/
def Partition.ownsRange (p : Partition) (pa n : Nat) : Bool :=
  n == 0 || ((rangeFrom (groupOf pa) (groupOf (pa + n - 1) + 1 - groupOf pa)).all (fun g =>
    p.groups.testBit g && isBacked (if g = groupOf pa then pa else g * 2 ^ 33) &&
    isBacked (min (pa + n - 1) (g * 2 ^ 33 + 2 ^ 33 - 1))))

/-- Whether an address lies in a partition's host window (R202). -/
def Partition.inHostWindow (p : Partition) (pa : Nat) : Bool :=
  isHost pa && decide (p.hostBase ≤ pa - 2 ^ 51) && decide (pa - 2 ^ 51 < p.hostLimit)

/-- The partition that owns the channel group of an address. -/
def State.ownerOf (s : State) (pa : Nat) : Option Nat :=
  (upTo 16).find? (fun p => (s.part p).ownsHbm pa)

/-- The slices a set names, in rising number. -/
def sliceList (set : Nat) : List Nat := membersOf 64 set

/-- home(addr): the slice that is home to a line within a partition (R37). Each run of as many lines as the partition has slices goes to all
of them, in an order that the device's own hash turns, so lines spread over all the slices; a partition of one slice has no choice. -/
def State.homeOf (s : State) (part line : Nat) : Option Nat :=
  match sliceList (s.part part).slices with
  | [] => none
  | [i] => some i
  | l => l[(line + Config.homeHash (line / l.length) (s.part part).slices) % l.length]?

/-- The die that is home to a line; the group's own die when no slice serves it (R428). -/
def State.homeDie (s : State) (part line : Nat) : Nat :=
  match s.homeOf part line with
  | some i => dieOfSlice i
  | none => groupOf (128 * line) / 16

/-- Payload, side bytes and poison mark of a line as held in memory. -/
def State.memLine (s : State) (line : Nat) : List Byte × List Byte × Bool :=
  (Memory.readRun s.mem (128 * line) 128, cellRun 0 s.side (16 * line) 16, s.poisonMem.contains line)

/-- Payload and side bytes of a tag's content (R235). -/
def Slice.content (sl : Slice) (t : Tag) : List Byte × List Byte :=
  match t.plate with
  | none => (List.replicate 128 0, List.replicate 16 0)
  | some p =>
    let q := cellGet (⟨[], [], 0⟩ : Plate) sl.plates p
    (q.bytes, q.side)

/-- The home tag of a line in a slice. -/
def Slice.homeTag (sl : Slice) (line : Nat) : Option Tag :=
  sl.tags.find? (fun t => t.line == line && t.state != TagState.replica)

/-- The replica of a line in a slice. -/
def Slice.replicaTag (sl : Slice) (line : Nat) : Option Tag :=
  sl.tags.find? (fun t => t.line == line && t.state == .replica)

/-- What the home of a line holds for it now: the tag's content, or memory's when the home holds no tag. -/
def State.homeLine (s : State) (part line : Nat) : List Byte × List Byte × Bool :=
  match s.homeOf part line with
  | none => s.memLine line
  | some i =>
    match (s.slice i).homeTag line with
    | none => s.memLine line
    | some t =>
      let c := (s.slice i).content t
      (c.1, c.2, t.poison)

/-- `n` bytes of a line's payload at home, from a physical address. -/
def State.homeBytes (s : State) (part pa n : Nat) : List Byte :=
  ((s.homeLine part (pa / 128)).1.drop (pa % 128)).take n

/-- The number that `n` bytes at home hold, within one line. -/
def State.homeNat (s : State) (part pa n : Nat) : Nat := ofBytesLE (s.homeBytes part pa n)

/-- A plate released by one tag: its count falls, and at 0 it is freed and leaves any slot (R225). -/
def Slice.releasePlate (sl : Slice) (p : Option Nat) : Slice :=
  match p with
  | none => sl
  | some i =>
    let q := cellGet (⟨[], [], 0⟩ : Plate) sl.plates i
    if q.count ≤ 1 then
      { sl with plates := cellSet ⟨[], [], 0⟩ sl.plates i ⟨[], [], 0⟩, slots := sl.slots.filter (fun x => x.plate != i) }
    else { sl with plates := cellSet ⟨[], [], 0⟩ sl.plates i { q with count := q.count - 1 } }

/-- The least number no plate has, from `i`, in a list of plates in rising order. -/
def freePlateFrom : Cells Plate → Nat → Nat
  | [], i => i
  | (k, _) :: t, i => if i < k then i else freePlateFrom t (i + 1)

/-- A slice with a new plate of count 1, and its index. -/
def Slice.newPlate (sl : Slice) (bytes side : List Byte) : Slice × Nat :=
  let i := freePlateFrom sl.plates 0
  ({ sl with plates := cellSet ⟨[], [], 0⟩ sl.plates i ⟨bytes, side, 1⟩ }, i)

/-- A plate taken out of its slot: the tag that names it becomes private (R230). -/
def Slice.unregister (sl : Slice) (p : Nat) : Slice :=
  { sl with
    slots := sl.slots.filter (fun x => x.plate != p)
    tags := sl.tags.map (fun t => if t.state == .hashed && t.plate == some p then { t with state := .priv } else t) }

/-- registerSlot of R230: a free slot of the bucket, or the least recently registered one whose plate has count 1. -/
def Slice.registerSlot (sl : Slice) (hash domain plate : Nat) : Option Slice :=
  let b := hash % 8192
  let mine := sl.slots.filter (fun x => x.bucket == b)
  match (upTo 4).find? (fun k => mine.all (fun x => x.slot != k)) with
  | some k => some { sl with slots := sl.slots ++ [⟨b, k, plate, hash, domain⟩] }
  | none =>
    match mine.find? (fun x => (cellGet (⟨[], [], 0⟩ : Plate) sl.plates x.plate).count == 1) with
    | none => none
    | some x =>
      let sl' := sl.unregister x.plate
      some { sl' with slots := sl'.slots ++ [⟨b, x.slot, plate, hash, domain⟩] }

/-- Whether a slot's plate holds the domain and the content (R230). -/
def Slice.slotEquals (sl : Slice) (x : Slot) (domain : Nat) (bytes side : List Byte) : Bool :=
  let q := cellGet (⟨[], [], 0⟩ : Plate) sl.plates x.plate
  x.domain == domain && q.bytes == bytes && q.side == side

/-- The candidates of R230 in slot order, up to the first the tag can join: the plate joined, whether a full one matched, and the
collisions counted. -/
def scanCandidates (sl : Slice) (domain : Nat) (bytes side : List Byte) :
    List Slot → Bool → Nat → Option Nat × Bool × Nat
  | [], full, coll => (none, full, coll)
  | x :: xs, full, coll =>
    if sl.slotEquals x domain bytes side then
      if (cellGet (⟨[], [], 0⟩ : Plate) sl.plates x.plate).count < 255 then (some x.plate, full, coll)
      else scanCandidates sl domain bytes side xs true coll
    else scanCandidates sl domain bytes side xs full (coll + 1)

/-- placeContent (R230): the tag's state and plate for a content known whole, with the counters of R242. The tag itself is not
among the slice's tags. -/
def Slice.placeContent (sl : Slice) (sc : ScCounters) (t : Tag) (bytes side : List Byte) : Slice × ScCounters × Tag :=
  if t.noshare || t.poison then
    let n := sl.newPlate bytes side
    (n.1, sc, { t with state := if t.state == .replica then .replica else .priv, plate := some n.2 })
  else if (bytes ++ side).all (· == 0) then
    (sl, sc, { t with state := if t.state == .replica then .replica else .blank, plate := none })
  else
    let keep (st : TagState) : TagState := if t.state == .replica then .replica else st
    let h := contentHash t.domain bytes side
    let bucket := sl.slots.filter (fun x => x.bucket == h % 8192)
    let cands := (upTo 4).filterMap (fun k => bucket.find? (fun x => x.slot == k && x.hash == h))
    let r := scanCandidates sl t.domain bytes side cands false 0
    let sc := { sc with collide := (sc.collide + r.2.2) % 2 ^ 64 }
    match r.1 with
    | some p =>
      let q := cellGet (⟨[], [], 0⟩ : Plate) sl.plates p
      ({ sl with plates := cellSet ⟨[], [], 0⟩ sl.plates p { q with count := q.count + 1 } },
        { sc with shares := (sc.shares + 1) % 2 ^ 64 }, { t with state := keep .hashed, plate := some p })
    | none =>
      let n := sl.newPlate bytes side
      if r.2.1 then
        let editions := (bucket.filter (fun x => sl.slotEquals x t.domain bytes side)).length
        match (if editions < 4 then n.1.registerSlot h t.domain n.2 else none) with
        | some sl' => (sl', { sc with editions := (sc.editions + 1) % 2 ^ 64 },
            { t with state := keep .hashed, plate := some n.2 })
        | none => (n.1, { sc with saturate := (sc.saturate + 1) % 2 ^ 64 },
            { t with state := keep .priv, plate := some n.2 })
      else
        match n.1.registerSlot h t.domain n.2 with
        | some sl' => (sl', sc, { t with state := keep .hashed, plate := some n.2 })
        | none => (n.1, sc, { t with state := keep .priv, plate := some n.2 })

/-- The pseudo-channel of its group that a line lies in, from the offset in the group's window (R201). -/
def pseudoChannel (pa : Nat) : Nat :=
  let o := pa % 2 ^ 33
  Nat.xor (Nat.xor (bitsOf o 7 6) (bitsOf o 13 6)) (bitsOf o 19 6)

/-- The bank that a line's row lies in (R436), as 8 times its number within the stack plus the stack: the banks of a pseudo-channel (R201)
stand together, and which of them a row lies in is a free value (log entry 27). -/
def bankOf (line : Nat) : Nat :=
  let pa := 128 * line
  8 * (512 * Config.bankIndex line + 64 * (groupOf pa % 8) + pseudoChannel pa) + groupOf pa / 8

/-- A bank that nothing has activated. -/
def Bank.idle : Bank := ⟨0, false, false, 0⟩

/-- The activation count of a bank. -/
def State.bank (s : State) (b : Nat) : Bank := cellGet .idle s.device.banks b

/-- The state with a bank passed through `f`. -/
def State.modBank (s : State) (b : Nat) (f : Bank → Bank) : State :=
  s.modDevice (fun d => { d with banks := cellSet .idle d.banks b (f (s.bank b)) })

/-- Activations of a bank (R436) under the threshold T: they add to its count, and at 2T the bank is held; those that come during a hold
wait for its end. -/
def Bank.activate (b : Bank) (t n : Nat) : Bank :=
  if b.held then { b with waiting := b.waiting + n } else { b with count := b.count + n, held := decide (2 * t ≤ b.count + n) }

/-- A line of HBM4E accessed in its stack: the activations of its bank that the access brings about are counted (R436, log entry 27). -/
def State.activate (s : State) (line : Nat) : State :=
  if 128 * line < 2 ^ 39 then
    { s.modBank (bankOf line) (fun b => b.activate s.device.memRfm (Config.activations s.draws)) with draws := s.draws + 1 }
  else s

/-- Whether an access to a line that its home does not hold is delayed by a hold on its bank (R436). -/
def State.bankHolds (s : State) (part line : Nat) : Bool :=
  decide (128 * line < 2 ^ 39) && (s.bank (bankOf line)).held &&
    ((s.homeOf part line).bind (fun i => (s.slice i).homeTag line)).isNone

/-- The state with a line's content, side bytes and poison mark written to memory. -/
def State.writeBack (s0 : State) (line : Nat) (bytes side : List Byte) (poison : Bool) : State :=
  let s := s0.activate line
  { s with
    mem := Memory.writeRun s.mem (128 * line) bytes
    side := cellPut 0 s.side (16 * line) side
    poisonMem := if poison then insertSorted line s.poisonMem else s.poisonMem.filter (· != line) }

/-- A request for a host line sent on CXL.cache (R427); a line of HBM4E needs none. -/
def State.askHost (s : State) (line : Nat) (q : CacheReq) : State := if isHost (128 * line) then s.emit (.cache q line) else s

/-- A tag dropped (Table 10.2, R236, R240): a dirty home tag is written back, a lease later than the clock raises the
eviction floor, the plate is released. -/
def State.dropTag (s : State) (i : Nat) (t : Tag) : State :=
  let sl := s.slice i
  let c := sl.content t
  let home := t.state != TagState.replica
  let s1 := if home && t.dirty then s.writeBack t.line c.1 c.2 t.poison else s
  s1.modSlice i (fun sl =>
    let sl1 := { sl with tags := sl.tags.filter (fun x => !(x.line == t.line && (x.state == TagState.replica) == !home)) }
    let sl2 := sl1.releasePlate t.plate
    { sl2 with floor := if home && decide (s.leaseNow (dieOfSlice i) < t.lease) then max sl2.floor t.lease else sl2.floor })

/-- Eviction of a tag (Table 10.2): it is dropped, and the host hears of a host line that its home gives up (R427). -/
def State.evict (s : State) (i : Nat) (t : Tag) : State :=
  let s1 := s.dropTag i t
  if t.state == TagState.replica then s1 else s1.askHost t.line (if t.dirty then .dirtyEvict else .cleanEvict)

/-- Whether an entry watches a host line, which its home then keeps (R359). -/
def State.keepsHost (s : State) (line : Nat) : Bool := isHost (128 * line) && s.entries.any (fun e => e.addr / 128 == line)

/-- The tag that R231 evicts next, never one of `keep`: the least recently used home tag; a watched host line stays as long as another home
tag or a replica can go (R240, R359). The activations of a write-back to a held bank wait for the end of its hold (R436). -/
def State.victim (s : State) (i keep : Nat) : Option Tag :=
  let l := ((s.slice i).tags.reverse).filter (fun t => t.line != keep)
  let homes := l.filter (fun t => t.state != TagState.replica)
  (homes.find? (fun t => !s.keepsHost t.line)).or ((l.find? (fun t => t.state == TagState.replica)).or homes.head?)

/-- Tags evicted until a tag is free and, where a `plate` is needed, a plate. R231 gives the order for a plate that is missing; the spec gives
none for a tag that is missing, all 65,536 being in use, and the model takes R231's order there too (DESIGN CHOICE, log entry 77). -/
def State.makeRoom (i keep : Nat) (plate : Bool) : (fuel : Nat) → State → State
  | 0, s => s
  | n + 1, s =>
    let sl := s.slice i
    if (!plate || sl.plates.length < 32768) && sl.tags.length < 65536 then s
    else
      match s.victim i keep with
      | none => s
      | some t => State.makeRoom i keep plate n (s.evict i t)

/-- A tag put in a slice as the most recently used. -/
def Slice.putTag (sl : Slice) (t : Tag) : Slice :=
  { sl with tags := t :: sl.tags.filter (fun x => !(x.line == t.line && (x.state == TagState.replica) == (t.state == TagState.replica))) }

/-- A line that its home holds becomes the most recently used (R231). -/
def State.useLine (s : State) (part line : Nat) : State :=
  match s.homeOf part line with
  | none => s
  | some i =>
    match (s.slice i).homeTag line with
    | none => s
    | some t => s.modSlice i (fun sl => sl.putTag t)

/-- A read that its home answers without a fill: a line held becomes the most recently used (R231), another counts its activations (R436). -/
def State.touchMemory (s : State) (part line : Nat) : State :=
  if ((s.homeOf part line).bind (fun i => (s.slice i).homeTag line)).isSome then s.useLine part line else s.activate line

/-- A new home tag for an access: invalid until placed, its lease from the eviction floor (R228, R236). -/
def newTag (part space line floor : Nat) (a : PageAttr) (poison : Bool) : Tag :=
  ⟨.priv, line, domainWord part space a.dedup, none, false, poison, a.noshare, floor, none, 0, a.bound, a.tolerant, a.bfmt, a.bk,
    []⟩

/-- The state after placing a content for a tag in slice i of a partition; room for a plate is made only where the content takes one
(R230, R231). -/
def State.placeAt (s : State) (part i : Nat) (t : Tag) (bytes side : List Byte) : State :=
  let full := decide (32768 ≤ (s.slice i).plates.length)
  let plate := full && decide (32768 < ((s.slice i).placeContent (s.part part).sc t bytes side).1.plates.length)
  let s1 := State.makeRoom i t.line plate (s.slice i).tags.length s
  let r := (s1.slice i).placeContent (s1.part part).sc t bytes side
  (s1.modSlice i (fun _ => r.1.putTag r.2.2)).modPart part (fun p => { p with sc := r.2.1 })

/-- The home tags of a line in the slices of other partitions: with a host line, the copies that the host snoops (R241). -/
def State.otherTags (s : State) (part line : Nat) : List (Nat × Tag) :=
  if !isHost (128 * line) then []
  else
    ((upTo 16).filter (· != part)).flatMap (fun q =>
      ((s.homeOf q line).bind (fun i => ((s.slice i).homeTag line).map (fun t => (i, t)))).toList)

/-- A home tag left clean, its content written back when it was dirty (R241). -/
def State.cleanTag (s : State) (i : Nat) (t : Tag) : State :=
  let c := (s.slice i).content t
  let s1 := if t.dirty then s.writeBack t.line c.1 c.2 t.poison else s
  s1.modSlice i (fun k => { k with tags := k.tags.map (fun x =>
    if x.line == t.line && x.state != TagState.replica then { x with dirty := false } else x) })

/-- A host line asked for (R241, R427): for a read, a dirty copy of another partition is written back and stays clean; to be `owned`, every
other copy is given up. -/
def State.takeHost (s : State) (part line : Nat) (owned : Bool) (q : CacheReq) : State :=
  if !isHost (128 * line) then s
  else ((s.otherTags part line).foldl (fun s x => if owned then s.dropTag x.1 x.2 else s.cleanTag x.1 x.2) s).askHost line q

/-- The side bytes that a line's layout gives a payload, with the scales among given side bytes (R227). -/
def PageAttr.sideOf (a : PageAttr) (bytes side : List Byte) : List Byte := sideFor a.bound a.tolerant a.bfmt a.bk bytes side

/-- A fill (R230, Table 10.2): the line read from memory and placed, with the side bytes that its layout gives it (R227). A line already
held becomes the most recently used (R231). -/
def State.fillAs (s : State) (part space line : Nat) (a : PageAttr) (poison owned : Bool) : State :=
  match s.homeOf part line with
  | none => s
  | some i =>
    match (s.slice i).homeTag line with
    | some t => s.modSlice i (fun sl => sl.putTag t)
    | none =>
      let s1 := s.takeHost part line owned (if owned then .rdOwn else .rdShared)
      let c := s1.memLine line
      (s1.activate line).placeAt part i (newTag part space line (s1.slice i).floor a (c.2.2 || poison)) c.1 (a.sideOf c.1 c.2.1)

/-- A fill for a reader. -/
def State.fillLine (s : State) (part space line : Nat) (a : PageAttr) (poison : Bool) : State := s.fillAs part space line a poison false

/-- The lease field of a line's home tag, 0 when it has none (R325). -/
def State.leaseField (s : State) (part line : Nat) : Nat :=
  match s.homeOf part line with
  | none => 0
  | some i => (((s.slice i).homeTag line).map (·.lease)).getD (s.slice i).floor

/-- A grant raises the home tag's lease field (R236). -/
def State.grant (s : State) (part line expiry : Nat) : State :=
  match s.homeOf part line with
  | none => s
  | some i => s.modSlice i (fun sl =>
      { sl with tags := sl.tags.map (fun t =>
          if t.line == line && t.state != TagState.replica then { t with lease := max t.lease expiry } else t) })

/-- Bytes written into a list at an offset. -/
def overwrite (bs : List Byte) (off : Nat) (xs : List Byte) : List Byte :=
  bs.take off ++ xs ++ bs.drop (off + xs.length)

/-- Single bytes written into a list, later ones last. -/
def writeOffsets (bs : List Byte) (ws : List (Nat × Byte)) : List Byte :=
  ws.foldl (fun b w => setAt b w.1 w.2) bs

/-- Whether a write covers every payload byte of its line and, in the bound layout that `a` gives, every scale (R229). -/
def isFullLine (a : PageAttr) (ws : List (Nat × Byte)) (scales : List (Nat × Byte)) : Bool :=
  (upTo 128).all (fun i => ws.any (fun w => w.1 == i)) &&
    (!scaledLayout a.bound a.tolerant ||
      (upTo (boundBlocks a.bfmt a.bk)).all (fun i => scales.any (fun w => w.1 == i)))

/-- The layout under which a write to a line counts as full: the tag's as it stands, or that of the access that allocates it (R228). -/
def State.layoutAt (s : State) (part line : Nat) (a : PageAttr) : PageAttr :=
  match (s.homeOf part line).bind (fun i => (s.slice i).homeTag line) with
  | none => a
  | some t => { a with bound := t.bound, tolerant := t.tolerant, bfmt := t.bfmt, bk := t.bk }

/-- The bytes of a line changed at its home (R229, R232, Table 10.2). With `whole`, a write of a kind that R229 counts, a write that covers
the line leaves a content known whole, which is placed by R230; every other write is partial: the line is filled first when the home does not hold it, a shared or blank line takes
a plate of its own, and its bytes are written there. Side bytes are recomputed (R227), a full write clears a poison mark and
`poison` sets one (R221, R281). -/
def State.applyWrite (s : State) (part space line : Nat) (a : PageAttr) (ws scales : List (Nat × Byte))
    (whole poison : Bool) : State :=
  let full := whole && isFullLine (s.layoutAt part line a) ws scales
  match s.homeOf part line with
  | none =>
    -- an idle or sliceless group: the group's controller performs the write (R428)
    let c := s.memLine line
    let bytes := writeOffsets c.1 ws
    let mark := poison || (c.2.2 && !full)
    s.writeBack line bytes (sideFor a.bound a.tolerant a.bfmt a.bk bytes (writeOffsets c.2.1 scales)) mark
  | some i =>
    if full then
      let s := if ((s.slice i).homeTag line).any (·.dirty) then s else s.takeHost part line true .itoMWr
      let t := ((s.slice i).homeTag line).getD (newTag part space line (s.slice i).floor a false)
      let old := (s.slice i).content t
      let bytes := writeOffsets old.1 ws
      let side := sideFor t.bound t.tolerant t.bfmt t.bk bytes (writeOffsets old.2 scales)
      let s1 := s.modSlice i (fun sl =>
        ({ sl with tags := sl.tags.filter (fun x => !(x.line == line && x.state != TagState.replica)) }).releasePlate t.plate)
      s1.placeAt part i { t with dirty := true, poison := poison } bytes side
    else
      let s := if ((s.slice i).homeTag line).any (fun t => !t.dirty) then s.takeHost part line true .rdOwn else s
      let s0 := s.fillAs part space line a false true
      match (s0.slice i).homeTag line with
      | none => s0
      | some t =>
        let old := (s0.slice i).content t
        let bytes := writeOffsets old.1 ws
        let side := sideFor t.bound t.tolerant t.bfmt t.bk bytes (writeOffsets old.2 scales)
        let q := (t.plate.map (cellGet (⟨[], [], 0⟩ : Plate) (s0.slice i).plates)).getD ⟨[], [], 0⟩
        let copies := t.state == .blank || decide (2 ≤ q.count)
        let s1 := if copies then State.makeRoom i line true (s0.slice i).tags.length s0 else s0
        let s2 := s1.modSlice i (fun sl =>
          if copies then
            let sl1 := ({ sl with tags := sl.tags.filter (fun x => !(x.line == line && x.state != TagState.replica)) }).releasePlate
              t.plate
            let n := sl1.newPlate bytes side
            n.1.putTag { t with state := .priv, plate := some n.2, dirty := true, poison := t.poison || poison }
          else
            match t.plate with
            | none => sl
            | some p =>
              let sl1 := sl.unregister p
              ({ sl1 with plates := cellSet ⟨[], [], 0⟩ sl1.plates p ⟨bytes, side, q.count⟩ }).putTag
                { t with state := .priv, dirty := true, poison := t.poison || poison })
        if copies then s2.modPart part (fun p => { p with sc := { p.sc with unshare := (p.sc.unshare + 1) % 2 ^ 64 } })
        else s2

/-- The conditions of Table 16.2 on a word of the given width; `wrote` says whether the write wrote a byte of the word. -/
def waitHolds (cond : Nat) (wide : Bool) (w x : Nat) (wrote : Bool) : Bool :=
  let n := if wide then 64 else 32
  let w := w % 2 ^ n
  let x := x % 2 ^ n
  match cond with
  | 0 => w == x
  | 1 => w != x
  | 2 => decide (signExt x n ≤ signExt w n)
  | 3 => decide (signExt w n < signExt x n)
  | 4 => decide (x ≤ w)
  | 5 => decide (w < x)
  | 6 => Nat.land w x != 0
  | 7 => Nat.land w x == x
  | 8 => w != x
  | _ => wrote

/-- A block whose image a delivery or a post has changed goes on the wake list (R355, R401). -/
def State.wake (s : State) (r : WaveRef) : State :=
  match r with
  | .hdl _ _ => s
  | .blk uid _ =>
    let k := s.next
    { s with
      next := s.next + 1
      blocks := s.blocks.map (fun b =>
        if b.uid == uid && b.place == .saved && b.woken.isNone then { b with woken := some k } else b) }

/-- Bytes of a partition's spill area written, from a record (R350). No program reaches the area (R354), so no entry watches it. While the
alarm fences the partitions no write is performed (R433). -/
def State.putRecord (s : State) (part rec : Nat) (bs : List Byte) : State :=
  let pa := (s.part part).mspBase + 16 * rec
  if s.device.fenced then s
  else s.applyWrite part 16 (pa / 128) .plain (mapIdx' (fun i b => (pa % 128 + i, b)) bs) [] true false

/-- The records that a spilled entry took freed: each reads as not valid (Table 16.4). -/
def State.freeRecords (s : State) (e : Entry) : State :=
  e.recs.foldl (fun s i => s.putRecord e.part i (List.replicate 16 0)) s

/-- An entry that no longer exists: at its slice, in the spill area or in its owner's context. -/
def State.dropEntry (s : State) (e : Entry) : State :=
  { s.freeRecords e with entries := s.entries.filter (fun x => x.key != e.key) }

/-- Every entry of a kind cancelled. -/
def State.dropEntries (s : State) (p : Entry → Bool) : State := (s.entries.filter p).foldl (fun s e => s.dropEntry e) s

/-- The value of an entry delivered to its owner (R345, R346, R355, R360); `met` is false for a timeout. -/
def State.deliver (s : State) (e : Entry) (value : Nat) (met : Bool) : State :=
  let s := s.dropEntry e
  match e.owner with
  | .wave r =>
    let s1 := s.modWave r (fun w =>
      match w.groups.find? (fun g => g.group == e.group) with
      | none => w
      | some g =>
        let w1 := w.modLanes g.lanes (fun l =>
          if l.state == .waitMantis g.group then
            let l1 := l.writeV g.dest (lo32 value)
            let l2 := if g.wide then l1.writeV (g.dest + 1) (hi32 value) else l1
            { (l2.setPred g.dest met).activate with vpc := g.next, slot := 0 }
          else l)
        { w1 with groups := w1.groups.filter (fun x => x.group != g.group) })
    s1.wake r
  | .ring r =>
    let s1 := s.modWave r (fun w =>
      let w1 := { w with lanes := w.lanes.map (fun (l : Lane) => if l.state == LaneState.waitMantis e.group then l.activate else l) }
      { w1 with groups := w1.groups.filter (fun x => x.group != e.group) })
    s1.wake r
  | .tail p n => s.modVF p (fun v => { v with streams := modifyAt v.streams n (fun t => { t with wokeAt := some s.clock }) })
  | .gate lid => s.modLaunch lid (fun l =>
      if l.stage == .gated then { l with stage := .ready, readyAt := s.clock } else l)
  | .monitor p m =>
    let v := ((s.part p).vf.monitors.getD m .reset).vector
    (s.modVF p (fun f => { f with monitors := modifyAt f.monitors m (fun x =>
      { x with value := value, fired := true, armed := false }) })).emit (.interrupt false p v)

/-- The word an entry watches, as its home holds it. -/
def State.entryWord (s : State) (e : Entry) : Nat := s.homeNat e.part e.addr (if e.wide then 8 else 4)

/-- An entry's timeout fires (R346): the word as it stands is delivered with the predicate false. -/
def State.fire (s : State) (e : Entry) : State :=
  (s.deliver e (s.entryWord e) false).modPart e.part (fun p => { p with mcntTimeout := (p.mcntTimeout + 1) % 2 ^ 64 })

/-- Before an operation of a line, each entry held at its slice whose deadline has passed fires (R346). -/
def State.fireOverdue (s : State) (part line : Nat) : State :=
  let due := s.entries.filter (fun e => e.part == part && e.addr / 128 == line && e.deadline != 0 &&
    (match e.place with | .slice _ => true | _ => false) && decide (e.deadline < s.leaseNow (s.homeDie part line)))
  due.foldl (fun s e => s.fire e) s

/-- A write checked against the entries of its line (R343, R351). A write to a filtered line marks its bit in its home slice's touched
array, and so every entry of a line of that slice with the same index (R353). -/
def State.checkEntries (s : State) (part line : Nat) (wrote : List Nat) : State :=
  let s1 := match s.homeOf part line with
    | none => s
    | some i => s.modSlice i (fun sl =>
        if sl.filter.contains (filterIndex line) then { sl with touched := insertSorted (filterIndex line) sl.touched } else sl)
  let filtered := ((s.homeOf part line).map (fun i => (s.slice i).filter.contains (filterIndex line))).getD false
  let s1 := if !filtered then s1 else
    { s1 with entries := s1.entries.map (fun e =>
        if e.part == part && filterIndex (e.addr / 128) == filterIndex line && s.homeOf part (e.addr / 128) == s.homeOf part line then
          { e with touched := true } else e) }
  let mine := s1.entries.filter (fun e => e.part == part && e.addr / 128 == line && e.place != .held)
  mine.foldl (fun s e =>
    let n := if e.wide then 8 else 4
    let hit := wrote.any (fun o => decide (e.addr % 128 ≤ o) && decide (o < e.addr % 128 + n))
    let v := s.entryWord e
    if waitHolds e.cond e.wide v e.operand hit then s.deliver e v true else s) s1

/-- Whether an entry watches a line of a partition. -/
def State.watched (s : State) (part line : Nat) : Bool := s.entries.any (fun e => e.part == part && e.addr / 128 == line)

/-- A watched host line that a slice had to give up is read again, and its entries are checked against what it holds then; a snoop that
took the line counts as a write to every word (R359). -/
def State.reread (s : State) (part line : Nat) : State :=
  if s.watched part line then (s.fillLine part 16 line .plain false).checkEntries part line (upTo 128) else s

/-- The other partitions that hold a home tag of a host line (R241). -/
def State.otherHolders (s : State) (part line : Nat) : List Nat :=
  if !isHost (128 * line) then []
  else (upTo 16).filter (fun q => q != part && ((s.homeOf q line).bind (fun i => (s.slice i).homeTag line)).isSome)

/-- The partitions among `qs` that had to give up a host line for a write and watch it read it again (R241, R359). -/
def State.rereadOthers (s : State) (qs : List Nat) (line : Nat) : State :=
  (qs.filter (fun q => ((s.homeOf q line).bind (fun i => (s.slice i).homeTag line)).isNone)).foldl (fun s q => s.reread q line) s

/-- A write performed at the line's home at one instant (R325): overdue entries fire, the bytes are written, the completion time
C = max(P, lease field) + 2 is formed, and the line's entries are checked. The leases of the copies of a host line that other partitions
give up for it count too (log entry 63). -/
def State.performWrite (s : State) (part space line : Nat) (a : PageAttr) (ws scales : List (Nat × Byte))
    (whole poison : Bool) : State × Nat :=
  let s1 := s.fireOverdue part line
  let held := (s1.otherTags part line).foldl (fun n x => max n x.2.lease) (s1.leaseField part line)
  let c := max (s1.leaseNow (s1.homeDie part line)) held + 2
  let s2 := s1.applyWrite part space line a ws scales whole poison
  ((s2.checkEntries part line (ws.map (·.1))).rereadOthers (s1.otherHolders part line) line, c)

/-- An atomic that writes nothing: a partial write for its tag, and no write otherwise (R229, R265). -/
def State.touchWrite (s : State) (part space line : Nat) (a : PageAttr) : State :=
  let s1 := s.fireOverdue part line
  (s1.applyWrite part space line a [] [] false false).rereadOthers (s1.otherHolders part line) line

/-- The bytes of a run split by line: each line with the offsets written. -/
def splitLines (pa : Nat) (bs : List Byte) : List (Nat × List (Nat × Byte)) :=
  let cells := mapIdx' (fun i b => (pa + i, b)) bs
  (sortDedup (cells.map (fun c => c.1 / 128))).map (fun l =>
    (l, (cells.filter (fun c => c.1 / 128 == l)).map (fun c => (c.1 % 128, c.2))))

/-- Bytes written at the homes of their lines by the device itself, with the latest completion time: records and save images, whose writes
R229 does not name as full-line writes. -/
def State.writeRun (s : State) (part pa : Nat) (a : PageAttr) (bs : List Byte) : State × Nat :=
  (splitLines pa bs).foldl (fun acc l =>
    let r := acc.1.performWrite part 16 l.1 a l.2 [] false false
    (r.1, max acc.2 r.2)) (s, 0)

/-- The lines of a run of bytes used by a reader: the held ones become the most recently used, the others count their activations
(R231, R436). -/
def State.touchRun (s : State) (part pa n : Nat) : State :=
  (rangeFrom (pa / 128) ((pa + n - 1) / 128 + 1 - pa / 128)).foldl (fun s l => s.touchMemory part l) s

/-- Whether a line that a run of bytes touches is poisoned at home. -/
def State.runPoisoned (s : State) (part pa n : Nat) : Bool :=
  (rangeFrom (pa / 128) ((pa + n - 1) / 128 + 1 - pa / 128)).any (fun l => (s.homeLine part l).2.2)

/-- Bytes read at home across lines. -/
def State.readRun (s : State) (part pa n : Nat) : List Byte :=
  (upTo n).map (fun i => ((s.homeLine part ((pa + i) / 128)).1).getD ((pa + i) % 128) 0)

end Sys2Proof.Machine
end

