-- ==== Sys2Proof/Machine/Tokens.lean ====
section
/-! DEFINITION. The token buckets that regulate a partition's traffic (R39, R40): a request takes its tokens at the points it passes, or
is held there. -/

namespace Sys2Proof.Machine

/-- The rate field of a bucket register; 0 disables the bucket (Table 2.4). -/
def bucketRate (reg : Nat) : Nat := bitsOf reg 0 24

/-- A bucket's capacity in 1,024ths of a token: the burst field, values below 4 acting as 4 (Table 2.4). -/
def bucketCap (reg : Nat) : Nat := 1024 * max 4 (bitsOf reg 32 16)

/-- A bucket with what has accrued up to a clock value, continuously (Table 2.4). -/
def Bucket.accrue (b : Bucket) (reg now : Nat) : Bucket :=
  ⟨min (bucketCap reg) (b.level + bucketRate reg * (now - b.since)), max b.since now⟩

/-- ceil(bytes / 64) tokens taken from a bucket, none when it holds too few (R39). -/
def Bucket.take (b : Bucket) (reg now bytes : Nat) : Option Bucket :=
  let c := b.accrue reg now
  let need := 1024 * ((bytes + 63) / 64)
  if need ≤ c.level && decide (b.since ≤ now) then some { c with level := c.level - need } else none

/-- ceil(bytes / 64) tokens taken from a bucket in advance: what it lacks it owes, and it passes no request before it has accrued that (R39;
DESIGN CHOICE, log entry 66). -/
def Bucket.debit (b : Bucket) (reg now bytes : Nat) : Bucket :=
  let c := b.accrue reg now
  let need := 1024 * ((bytes + 63) / 64)
  let k := (need - c.level + bucketRate reg - 1) / bucketRate reg
  if need ≤ c.level then { c with level := c.level - need } else ⟨c.level + k * bucketRate reg - need, c.since + k⟩

/-- The partition that owns a core's cell, and the one that owns a slice (R36). -/
def State.coreOwner (s : State) (core : Nat) : Option Nat := (upTo 16).find? (fun p => (s.part p).cells.testBit (core / 4))
def State.sliceOwner (s : State) (i : Nat) : Option Nat := (upTo 16).find? (fun p => (s.part p).slices.testBit i)

/-- The register that governs a point (R39); 0 where no partition owns it. -/
def State.bucketReg (s : State) : BucketPoint → Nat
  | .core c => ((s.coreOwner c).map (fun p => (s.part p).bktCore)).getD 0
  | .slice i => ((s.sliceOwner i).map (fun p => (s.part p).bktSlice)).getD 0
  | .port _ p => (s.part p).bktPort

/-- The bucket of a point. -/
def State.bucketAt (s : State) : BucketPoint → Bucket
  | .core c => (s.core c).bucket
  | .slice i => (s.slice i).bucket
  | .port i p => cellGet ⟨0, 0⟩ s.device.portBucket (16 * i + p)

/-- The state with the bucket of a point replaced. -/
def State.setBucket (s : State) (b : Bucket) : BucketPoint → State
  | .core c => s.modCore c (fun k => { k with bucket := b })
  | .slice i => s.modSlice i (fun k => { k with bucket := b })
  | .port i p => s.modDevice (fun d => { d with portBucket := cellSet ⟨0, 0⟩ d.portBucket (16 * i + p) b })

/-- Whether a point is regulated. -/
def State.throttled (s : State) (p : BucketPoint) : Bool := bucketRate (s.bucketReg p) != 0

/-- A request's tokens taken at a point, none when it must wait (R39); an unregulated point takes nothing. -/
def State.takeTokens (s : State) (p : BucketPoint) (bytes : Nat) : Option State :=
  if s.throttled p then ((s.bucketAt p).take (s.bucketReg p) s.clock bytes).map (fun b => s.setBucket b p) else some s

/-- Tokens taken at several points at once, none when one of them must wait. -/
def State.takeAll (s : State) (bytes : Nat) : List BucketPoint → Option State
  | [] => some s
  | p :: ps => (s.takeTokens p bytes).bind (fun t => t.takeAll bytes ps)

/-- Tokens taken in advance at several points (log entry 66). -/
def State.debitAll (s : State) (bytes : Nat) (ps : List BucketPoint) : State :=
  ps.foldl (fun s p => if s.throttled p then s.setBucket ((s.bucketAt p).debit (s.bucketReg p) s.clock bytes) p else s) s

/-- The place of a point in a request's record: core 0, slice 1, port 2. -/
def pointIndex : BucketPoint → Nat
  | .core _ => 0
  | .slice _ => 1
  | .port _ _ => 2

/-- The points that a request for a line passes: its core's, then its home slice's (R39). -/
def State.linePoints (s : State) (core part line : Nat) : List BucketPoint :=
  .core core :: ((s.homeOf part line).map BucketPoint.slice).toList

/-- The bucket points that a request from outside the cores passes on its way to a line: its home slice's (R39). -/
def State.hostPoints (s : State) (part line : Nat) : List BucketPoint := ((s.homeOf part line).map BucketPoint.slice).toList

/-- Whether an earlier request of the same core is held at a point (R39: requests of one source are not reordered there). -/
def State.heldBefore (s : State) (o : MemOp) (p : BucketPoint) : Bool :=
  s.memOps.any (fun q => q.core == o.core && decide (q.id < o.id) && q.groups.any (fun h =>
    !h.performed && h.points.testBit (3 + (pointIndex p)) && !h.points.testBit (pointIndex p) &&
      match p with
      | .slice i => s.homeOf q.part h.line == some i
      | _ => true))

/-- A line group's request at one point: it passes, having passed or taking its tokens, or is held there. -/
def State.passPoint (s : State) (o : MemOp) (g : OpGroup) (bytes : Nat) (p : BucketPoint) : Bool × OpGroup × State :=
  if !s.throttled p || g.points.testBit (pointIndex p) then (true, g, s)
  else
    match (if s.heldBefore o p then none else s.takeTokens p bytes) with
    | some t => (true, { g with points := setBit g.points (pointIndex p) true }, t)
    | none => (false, { g with points := setBit g.points (3 + (pointIndex p)) true }, s)

/-- A line group's request at the points on its way, up to the first that holds it. -/
def State.passPoints (o : MemOp) (bytes : Nat) : List BucketPoint → OpGroup → State → Bool × OpGroup × State
  | [], g, s => (true, g, s)
  | p :: ps, g, s =>
    match s.passPoint o g bytes p with
    | (true, g1, s1) => State.passPoints o bytes ps g1 s1
    | (false, g1, s1) => (false, g1, s1)

/-- The bytes of its line that a group touches, each once. -/
def OpGroup.covered (g : OpGroup) : Nat :=
  ((upTo 128).filter (fun i => g.lanes.any (fun l => decide (l.pa % 128 ≤ i) && decide (i < l.pa % 128 + l.size)))).length

/-- The payload bytes that a line group's request moves (R39). The spec gives no count for any kind (DESIGN CHOICE, log entry 66): the whole
line of a load at home; for a store, a wait and a request to a peer, the bytes that its lanes touch, each once; for an atomic and a cluster
message, one operand for each lane, up to the 256 bytes that every bucket can hold (Table 2.4), so that no request is held for ever. -/
def MemOp.payload (o : MemOp) (g : OpGroup) : Nat :=
  match o.kind with
  | .wait _ _ _ => g.covered
  | .ringWait _ => g.covered
  | .ratom _ _ => min 256 (g.lanes.map (·.size)).sum
  | .store | .storeMx => g.covered
  | .atomic _ _ _ => min 256 (g.lanes.map (·.size)).sum
  | _ => if 2 ^ 50 ≤ 128 * g.line then g.covered else 128

/-- The points of a partition. -/
def State.pointsOf (s : State) (part : Nat) : List BucketPoint :=
  (membersOf 40 (s.part part).cells).flatMap (fun c => (upTo 4).map (fun k => BucketPoint.core (4 * c + k))) ++
    (sliceList (s.part part).slices).map BucketPoint.slice ++ (upTo 16).map (fun i => BucketPoint.port i part)

/-- A bucket register changed (R40): each of its points keeps its level, accrued under the old value and clipped to the new burst. -/
def State.settleBucket (s : State) (new : Nat) (p : BucketPoint) : State :=
  let b := (s.bucketAt p).accrue (s.bucketReg p) s.clock
  s.setBucket { b with level := min b.level (bucketCap new) } p

end Sys2Proof.Machine
end

