-- ==== Sys2Proof/Machine/Log.lean ====
section
/-! DEFINITION. Event serials, the Cicada log and unit counters (R434, R437, R438), and the fault and error queues of the
virtual functions (R46, R47, R435). -/

namespace Sys2Proof.Machine

/-- A 32-bit counter that holds at its greatest value (R47, R424). -/
def sat32 (n : Nat) : Nat := min n 0xFFFFFFFF

/-- A counter modulo 2^64. -/
def wrap64 (n : Nat) : Nat := n % 2 ^ 64

/-- An event serial number taken (R434): the boot count over a count from 1, which carries into the boot count. -/
def State.takeSerial (s : State) : Nat × State :=
  let d := s.device
  if d.serial + 1 < 2 ^ 32 then
    (d.boots * 2 ^ 32 + d.serial + 1, s.modDevice (fun d => { d with serial := d.serial + 1 }))
  else ((d.boots + 1) * 2 ^ 32 + 1, s.modDevice (fun d => { d with boots := d.boots + 1, serial := 1 }))

/-- The unit that a memory line's events count to: its home slice, or its group's stack when no slice serves it (Table 23.7;
log entry 11). -/
def State.lineUnit (s : State) (part line : Nat) : Nat :=
  match s.homeOf part line with
  | some i => 160 + i
  | none => 224 + groupOf (128 * line) / 8

/-- A unit's counters with an event of a kind counted (Table 23.6): corrected, uncorrected and other events; kinds 7 and 10 have no
counter (log entry 12). -/
def UnitCounters.count (u : UnitCounters) (kind serial : Nat) : UnitCounters :=
  match kind with
  | 1 | 3 => { u with corr := wrap64 (u.corr + 1), serial := serial }
  | 2 | 4 | 5 => { u with uncorr := wrap64 (u.uncorr + 1), serial := serial }
  | 6 | 8 | 9 | 11 => { u with other := wrap64 (u.other + 1), serial := serial }
  | _ => u

/-- An event logged (R437, R438): it takes a serial, counts in its unit and is staged, or lost to a full staging buffer. A field the
spec says nothing of is a free value (log entry 25). -/
def State.logEvent (s : State) (unit kind : Nat) (value addr : Option Nat) : Nat × State :=
  let r := s.takeSerial
  (r.1, r.2.modDevice (fun d =>
    let u := (cellGet (⟨0, 0, 0, 0⟩ : UnitCounters) d.units unit).count kind r.1
    let d1 := { d with units := cellSet ⟨0, 0, 0, 0⟩ d.units unit u }
    if d.staging.length < 4096 then { d1 with staging := d1.staging ++ [⟨r.1, r.2.leaseNow hubDie, unit, kind, value.getD (Config.logValue r.1).toNat,
        addr.getD (Config.logAddr r.1).toNat⟩] }
    else { d1 with cicLost := wrap64 (d1.cicLost + 1) }))

/-- The entries field of a queue's configuration when it is valid (R47). -/
def Ring.entries (q : Ring) : Option Nat :=
  let n := q.cfg % 2 ^ 16
  if n = 32 || n = 64 || n = 128 || n = 256 || n = 512 || n = 1024 || n = 2048 || n = 4096 || n = 8192 || n = 16384 ||
      n = 32768 then some n else none

/-- Whether a queue is enabled. -/
def Ring.enabled (q : Ring) : Bool := bitOf q.cfg 22

/-- One record lost. -/
def Ring.lose (q : Ring) : Ring := { q with lost := sat32 (q.lost + 1) }

/-- Whether a physical address can be reached as HBM4E that the partition owns or in its host window. -/
def Partition.reachesRam (p : Partition) (pa : Nat) : Bool := p.ownsHbm pa || p.inHostWindow pa

/-- A 32-byte record written to a partition's fault or error queue, and whether it was (R47). While the alarm fences the partitions no write is
performed (R433). -/
def State.queueRecord (s : State) (p : Nat) (fault : Bool) (bytes : List Byte) : Bool × State :=
  let v := (s.part p).vf
  let q := if fault then v.fq else v.eq
  let put (s : State) (q : Ring) : State := s.modVF p (fun v => if fault then { v with fq := q } else { v with eq := q })
  match q.entries with
  | none => (false, put s q.lose)
  | some n =>
    if s.device.fenced then (false, s)
    else if !q.enabled || (q.prod + 2 ^ 32 - q.cons) % 2 ^ 32 == n then (false, put s q.lose)
    else
      let pa := q.base + 32 * (q.prod % n)
      if !(s.part p).reachesRam pa then (false, put s { q.lose with cfg := setBits q.cfg 22 1 0 })
      else
        let s1 := (s.writeRun p pa .plain bytes).1
        (true, (put s1 { q with prod := (q.prod + 1) % 2 ^ 32 }).emit (.interrupt false p (bitsOf q.cfg 16 6)))

/-- An error queue record of Table 2.7 under a given serial. -/
def State.errorRecord (s : State) (p serial code stream position addr : Nat) : State :=
  (s.queueRecord p false (bytesLE 8 serial ++ bytesLE 2 code ++ bytesLE 2 stream ++ bytesLE 4 position ++ bytesLE 8 addr ++
    bytesLE 8 (s.leaseNow hubDie))).2

/-- An error queue record under a serial of its own (R434). -/
def State.errorEvent (s : State) (p code stream position addr : Nat) : State :=
  let r := s.takeSerial
  r.2.errorRecord p r.1 code stream position addr

/-- An uncorrectable memory line logged and reported to the owner of its group (R221, R435). -/
def State.logUncorrectedLine (s : State) (part line : Nat) : State :=
  let r := s.logEvent (s.lineUnit part line) 2 none (some (128 * line))
  match r.2.ownerOf (128 * line) with
  | some p => r.2.errorRecord p r.1 0x0010 0xFFFF 0 (128 * line)
  | none => r.2

end Sys2Proof.Machine
end

