-- ==== Sys2Proof/Machine/Translate.lean ====
section
/-! DEFINITION. Translation and access checks (R201, R205 to R209), the pod map (R372), and the fetching of clauses (R63 to
R66). -/

namespace Sys2Proof.Machine

/-- The index of a virtual address at a table level (Table 9.5). -/
def tableIndex (level va : Nat) : Nat :=
  match level with
  | 4 => bitsOf va 39 18
  | 3 => bitsOf va 30 9
  | 2 => bitsOf va 21 9
  | _ => bitsOf va 16 5

/-- The size of a page that a leaf maps at a level, as a power of two (Table 9.5). -/
def pageLog (level : Nat) : Nat :=
  match level with
  | 3 => 30
  | 2 => 21
  | _ => 16

/-- The alignment of the table that an entry of a level points at (Table 9.5). -/
def nextTableAlign (level : Nat) : Nat :=
  match level with
  | 4 => 4096
  | 3 => 4096
  | _ => 256

/-- The attributes of a leaf entry (Table 9.6). -/
def attrOf (e : Nat) : PageAttr :=
  { lease := bitsOf e 60 4, replicate := bitOf e 59, scopeCheck := bitOf e 58, noshare := bitOf e 57, dedup := bitOf e 56,
    tolerant := bitOf e 55, bound := bitOf e 54, executable := bitOf e 53, writable := bitOf e 52,
    bfmt := bitsOf e 5 3, bk := bitsOf e 3 2 }

/-- The address field of a table entry (Table 9.6). -/
def entryAddr (e : Nat) : Nat := bitsOf e 8 44 * 256

/-- Whether a leaf entry breaks a condition of Table 9.6. -/
def leafMalformed (e level : Nat) : Bool :=
  let a := attrOf e
  level == 4 || decide (10 < a.lease) || entryAddr e % 2 ^ pageLog level != 0 || bitOf e 2 ||
    (if a.bound && a.tolerant then decide (3 < a.bfmt) || decide (2 < a.bk) else a.bfmt != 0 || a.bk != 0)

/-- Whether a non-leaf entry breaks a condition of Table 9.6 or points outside the partition's backed HBM4E (R207). -/
def tableMalformed (p : Partition) (e level : Nat) : Bool :=
  level == 1 || bitsOf e 52 12 != 0 || bitsOf e 2 6 != 0 || entryAddr e % nextTableAlign level != 0 || !p.ownsHbm (entryAddr e)

/-- The walk of R207 from a table of a level: a leaf, or a fault with its cause and kind. R207 checks the base of a table only: an entry that
itself lies past the bytes that back the group, as one of a level-4 table near their end can, is read as memory that nothing has written,
0, and so not present (DESIGN CHOICE, log entry 78). An entry on a poisoned line is taken as its bytes stand (DESIGN CHOICE, log entry
79). -/
def State.walkFrom (s : State) (part space va : Nat) : (level : Nat) → (table : Nat) → Except (Nat × Nat) TlbEntry
  | 0, _ => .error (0x08, 1)
  | n + 1, table =>
    let level := n + 1
    let e := s.homeNat part (table + 8 * tableIndex level va) 8
    if !bitOf e 0 then .error (0x08, 0)
    else if bitOf e 1 then
      if leafMalformed e level then .error (0x08, 1)
      else .ok ⟨part, space, va / 2 ^ pageLog level * 2 ^ pageLog level, entryAddr e, pageLog level, attrOf e⟩
    else if tableMalformed (s.part part) e level then .error (0x08, 1)
    else s.walkFrom part space va n (entryAddr e)

/-- The walk of R207 (R204: a disabled space translates nothing). -/
def State.walk (s : State) (part space va : Nat) : Except (Nat × Nat) TlbEntry :=
  let root := ((s.part part).vf.aspRoot).getD space 0
  if !bitOf root 0 then .error (0x08, 0)
  else
    let table := bitsOf root 21 31 * 2 ^ 21
    if !(s.part part).ownsHbm table then .error (0x08, 1) else s.walkFrom part space va 4 table

/-- The addresses of the table entries that a walk reads from a table of a level. -/
def State.walkReads (s : State) (part va : Nat) : (level : Nat) → (table : Nat) → List Nat
  | 0, _ => []
  | n + 1, table =>
    let a := table + 8 * tableIndex (n + 1) va
    let e := s.homeNat part a 8
    a :: (if !bitOf e 0 || bitOf e 1 || tableMalformed (s.part part) e (n + 1) then [] else s.walkReads part va n (entryAddr e))

/-- A word that a walker, a pod map's reader or the scheduler reads at home on its own: its line becomes the most recently used (R231), and
its tokens are taken in advance (R39; DESIGN CHOICE, log entry 66). -/
def State.ownRead (s : State) (part pa n : Nat) : State :=
  (s.debitAll n (s.hostPoints part (pa / 128))).useLine part (pa / 128)

/-- The table entries of a walk read at their homes (R207). -/
def State.readWalk (s : State) (part space va : Nat) : State :=
  let root := ((s.part part).vf.aspRoot).getD space 0
  let table := bitsOf root 21 31 * 2 ^ 21
  if !bitOf root 0 || !(s.part part).ownsHbm table then s
  else (s.walkReads part va 4 table).foldl (fun s a => s.ownRead part a 8) s

/-- Whether a TLB entry translates an address of a space (R208). -/
def TlbEntry.covers (e : TlbEntry) (part space va : Nat) : Bool :=
  e.part == part && e.space == space && va / 2 ^ e.sizeLog == e.vbase / 2 ^ e.sizeLog

/-- The slice whose L2 TLB serves a page (R208; the hash is the model's, log entry 13). -/
def State.tlbSlice (s : State) (part space va : Nat) : Option Nat :=
  let l := sliceList (s.part part).slices
  l[(space + va / 2 ^ 21) % l.length]?

/-- A translation cached for a page: the core's L1 TLB, then the L2 TLB (R208). -/
def State.cachedXlat (s : State) (core part space va : Nat) : Option TlbEntry :=
  match (s.core core).tlb.find? (fun e => e.covers part space va) with
  | some e => some e
  | none =>
    match s.tlbSlice part space va with
    | none => none
    | some i => (s.slice i).tlb.find? (fun e => e.covers part space va)

/-- The state with a leaf entered into the core's L1 TLB of 256 entries and the slice's L2 TLB of 8,192 (R208). R208 does not say which entry
a full TLB loses: here the one filled first (DESIGN CHOICE, log entry 13). -/
def State.fillTlb (s : State) (core : Nat) (e : TlbEntry) : State :=
  let put (n : Nat) (l : List TlbEntry) : List TlbEntry := if l.contains e then l else (e :: l).take n
  let s1 := s.modCore core (fun k => { k with tlb := put 256 k.tlb })
  match s.tlbSlice e.part e.space e.vbase with
  | none => s1
  | some i => s1.modSlice i (fun sl => { sl with tlb := put 8192 sl.tlb })

/-- A translation for one address: cached, or walked and cached; a walk that faults leaves no entry (R208, R399). An address with a bit
of [63:57] set has none (R244), and a space whose enable bit is 0 translates nothing, cached or not (R204). -/
def State.translate (s : State) (core part space va : Nat) : Except (Nat × Nat) TlbEntry × State :=
  if 2 ^ 57 ≤ va || !bitOf (((s.part part).vf.aspRoot).getD space 0) 0 then (.error (0x08, 0), s)
  else
    match s.cachedXlat core part space va with
    | some e => (.ok e, s)
    | none =>
      match s.walk part space va with
      | .ok e => (.ok e, (s.readWalk part space va).fillTlb core e)
      | .error f => (.error f, s.readWalk part space va)

/-- Whether a physical address lies in an area that the device keeps from every leaf translation: the spill area and the save area
(R354, R415). -/
def Partition.reserved (p : Partition) (pa : Nat) : Bool :=
  (decide (p.mspBase ≤ pa) && decide (pa < p.mspBase + p.mspSize * 65536)) ||
  (decide (p.psaveBase ≤ pa) && decide (pa < p.psaveBase + p.psaveSize * 65536))

/-- Whether a partition can reach a physical address (R201). The pod range passes here: what its pod map admits is checked by R374. -/
def Partition.reaches (p : Partition) (pa : Nat) : Bool :=
  (p.ownsHbm pa && !p.reserved pa) || p.inHostWindow pa || isPod pa

/-- What an access does, for the permission it needs (R209). -/
inductive AccessKind where
  | read | write | fetch
  deriving DecidableEq, Repr

/-- Translation, reachability and permission of one address, in this order (R209, R246): the page's translation, or the cause and
kind of Table 9.7. An access into a removed channel group also reports code 0x0004 (R44). -/
def State.checkAccess (s : State) (core part space va : Nat) (kind : AccessKind) : Except (Nat × Nat) TlbEntry × State :=
  match s.translate core part space va with
  | (.error f, s1) => (.error f, s1)
  | (.ok e, s1) =>
    let pa := e.pbase + (va - e.vbase)
    let p := s1.part part
    if !p.reaches pa then
      (.error (0x09, 4),
        if isBacked pa && p.gone.testBit (groupOf pa) then s1.errorEvent part 0x0004 0xFFFF 0 pa else s1)
    else if kind == .write && !e.attr.writable then (.error (0x09, 2), s1)
    else if kind == .fetch && !e.attr.executable then (.error (0x09, 3), s1)
    else (.ok e, s1)

/-- The physical address that a translation gives for an address of its page. -/
def TlbEntry.pa (e : TlbEntry) (va : Nat) : Nat := e.pbase + (va - e.vbase)

/-- The fields of a pod physical address: rank and offset (Table 9.2). -/
def podRank (pa : Nat) : Nat := bitsOf pa 40 10
def podOffset (pa : Nat) : Nat := bitsOf pa 0 40

/-- Whether a partition's pod enable is 1 (Table 18.2), with its rank and size. -/
def Partition.podEnable (p : Partition) : Bool := bitOf p.podCtl 31
def Partition.podRank (p : Partition) : Nat := bitsOf p.podCtl 0 10
def Partition.podSize (p : Partition) : Nat := bitsOf p.podCtl 16 11

/-- The pod map entry of a rank: a cached one, or one read from home and cached (R372). -/
def State.podEntry (s : State) (part rank : Nat) : Nat × State :=
  match (s.part part).podCache.find? (fun e => e.1 == rank) with
  | some e => (e.2, s)
  | none =>
    let v := s.homeNat part ((s.part part).podMap + 8 * rank) 8
    (v, (s.ownRead part ((s.part part).podMap + 8 * rank) 8).modPart part (fun p => { p with podCache := (rank, v) :: p.podCache }))

/-- The fields of a pod map entry (Table 18.3). An entry with a reserved bit set is an invalid record (R4). -/
def podValid (e : Nat) : Bool := bitOf e 63 && bitsOf e 58 2 == 0 && bitsOf e 0 44 == 0
def podDevice (e : Nat) : Nat := bitsOf e 48 10
def podPart (e : Nat) : Nat := bitsOf e 44 4

/-- Whether a pod map entry grants a kind of access: 0 read, 1 write, 2 atomic (Table 18.3). -/
def podGrants (e kind : Nat) : Bool := bitOf e (62 - kind)

/-- The pod map entry of a rank without caching it. -/
def State.podLook (s : State) (part rank : Nat) : Nat :=
  match (s.part part).podCache.find? (fun e => e.1 == rank) with
  | some e => e.2
  | none => s.homeNat part ((s.part part).podMap + 8 * rank) 8

/-- The kind of access of a request, for Table 18.3. -/
def podKind : PodAsk → Nat
  | .read _ => 0
  | .write _ _ => 1
  | .scatter _ => 1
  | .atomic _ _ _ => 2

/-- The bytes of an atomic by its major opcode (Table 11.2), none for a number that is no atomic. -/
def podAtomBytes (op : Nat) : Option Nat :=
  if op = 0x16 || op = 0x21 then some 8 else if 0x15 ≤ op && op ≤ 0x20 then some 4 else none

/-- The sub-operation of an atomic by its major opcode. -/
def podAtomSub (op : Nat) : Nat := if op ≤ 0x16 then 0 else if 0x20 ≤ op then 10 else op - 0x16

/-- The bytes a request reaches; 0 for one that asks for nothing a peer performs. -/
def podLen : PodAsk → Nat
  | .read n => n
  | .write bs _ => bs.length
  | .scatter cells => cells.foldl (fun n c => max n (c.1 + 1)) 0
  | .atomic op _ _ => (podAtomBytes op).getD 0

/-- The checks of R374 on an access to the pod range, and the pod map entry. -/
def State.podCheck (s : State) (part pa kind : Nat) : Bool × State :=
  if !(s.part part).podEnable then (false, s)
  else
    let r := s.podEntry part (podRank pa)
    (podValid r.1 && podGrants r.1 kind, r.2)

/-- The ports whose links are up. -/
def State.upPorts (s : State) : List Nat := membersOf 16 s.device.portsUp

/-- The port of a pod request (R375); 16 when no link is up. -/
def State.podPort (s : State) (device line : Nat) : Nat :=
  match s.upPorts with
  | [] => 16
  | l => l.getD (Config.podHash device line % l.length) 16

/-- A pod request for an owner (R373, R375), with its number, and the state that has read the pod map and taken the number. -/
def State.newPod (s : State) (owner : PodOwner) (part pa : Nat) (ask : PodAsk) (die : Nat) : PodReq × State :=
  let e := s.podEntry part (podRank pa)
  let f := e.2.fresh
  (⟨f.1, owner, part, podRank pa, podDevice e.1, podPart e.1, podOffset pa, ask, e.2.podPort (podDevice e.1) (pa / 128),
    s.leaseNow die, none⟩, f.2)

/-- A pod request sent for an owner (R373, R375): the request's number, and the state in which it is in flight. -/
def State.sendPod (s : State) (owner : PodOwner) (part pa : Nat) (ask : PodAsk) (die : Nat) : Nat × State :=
  let q := s.newPod owner part pa ask die
  (q.1.id, { q.2 with podReqs := q.2.podReqs ++ [q.1] }.emit (.request q.1.id))

/-- Whether a request is held at a port's bucket. -/
def PodReq.heldAt (q : PodReq) (port part : Nat) : Bool := q.held.isSome && q.port == port && q.part == part

/-- A pod request of Chafer at its port's bucket (R39): sent, with what goes with it, or held there in its turn. -/
def State.postPod (s : State) (owner : PodOwner) (part pa : Nat) (ask : PodAsk) (withIt : List Output) : State :=
  let q := s.newPod owner part pa ask hubDie
  let held (s : State) : State := { s with podReqs := s.podReqs ++ [{ q.1 with held := some withIt }] }
  if q.2.podReqs.any (fun x => x.heldAt q.1.port part) then held q.2
  else
    match q.2.takeTokens (.port q.1.port part) (podLen ask) with
    | none => held q.2
    | some t => (.request q.1.id :: withIt).foldl State.emit { t with podReqs := t.podReqs ++ [q.1] }

/-- The first request held at a port's bucket passes it once enough tokens have accrued (R39). -/
def State.releasePod (s : State) (port part : Nat) : State :=
  match s.podReqs.find? (fun q => q.heldAt port part) with
  | none => s
  | some q =>
    match s.takeTokens (.port port part) (podLen q.ask) with
    | none => s
    | some t => (.request q.id :: q.held.getD []).foldl State.emit { t with podReqs := t.podReqs.map (fun x =>
        if x.id == q.id then { x with held := none, sentAt := t.leaseNow hubDie } else x) }

/-- A clause header's fields (Table 3.1). -/
structure Header where
  yields : Bool
  threshold : Nat
  counter : Nat
  traps : Nat
  cls : Nat
  count : Nat
  deriving DecidableEq, Repr

/-- A word taken as a clause header on its own bits: the checks of R65 that one word decides. -/
def headerOf (w : Nat) : Option Header :=
  let count := bitsOf w 0 4
  let te := bitsOf w 7 15
  if bitsOf w 30 2 != 2 || bitOf w 29 || count == 0 || bitsOf w 4 3 == 7 || te / 2 ^ count != 0 then none
  else some ⟨bitOf w 28, bitsOf w 24 4, bitsOf w 22 2, te, bitsOf w 4 3, count⟩

/-- Whether an instruction word ends its clause in a class (R67). -/
def endsClause (cls w : Nat) : Bool :=
  let op := bitsOf w 26 6
  match cls with
  | 1 => decide (1 ≤ op) && decide (op ≤ 7) || op == 0x0A || op == 0x0C || op == 0x0D || op == 0x0F
  | 2 => decide (0x27 ≤ op) && decide (op ≤ 0x2B)
  | _ => false

/-- The virtual byte address of a word offset (R63). -/
def codeAddr (codeBase off : Nat) : Nat := codeBase + 4 * (off % 2 ^ 32)

/-- A fetch that must wait, for a peer's answer or at a bucket or a held bank: no cause has number 0. -/
def fetchPending : Nat × Nat × Nat := (0, 0, 0)

/-- The lines of a core's L1 instruction cache: 64 KiB of 128-byte lines (Table 0.1). -/
def codeLines : Nat := 512

/-- A line put in a core's L1 instruction cache; the line filled first leaves a full one (DESIGN CHOICE, log entry 62). -/
def State.codePut (s : State) (core : Nat) (x : CodeLine) : State :=
  s.modCore core (fun k => { k with code := (x :: k.code.filter (fun y => !(y.part == x.part && y.line == x.line))).take codeLines })

/-- A core's L1 instruction cache without a line. -/
def State.codeDrop (s : State) (core part line : Nat) : State :=
  s.modCore core (fun k => { k with code := k.code.filter (fun y => !(y.part == part && y.line == line)) })

/-- The word at an address among its line's bytes. -/
def CodeLine.word (x : CodeLine) (pa : Nat) : Nat := ofBytesLE ((x.bytes.drop (pa % 128)).take 4)

/-- The points that a fetch of code passes on its way to a peer (R39). -/
def State.fetchPodPoints (s : State) (core part line : Nat) : List BucketPoint :=
  [.core core, .port (s.podPort (podDevice (s.podLook part (podRank (128 * line)))) line) part]

/-- One word of code fetched through the pod range (Table 9.1): from the line that the peer sent, which an answer that failed leaves empty, or
asked of the peer once the pod map admits the read (R374) and the buckets let it pass (R39). -/
def State.fetchPod (s : State) (core part va pa : Nat) : Except (Nat × Nat × Nat) Nat × State :=
  match (s.core core).code.find? (fun x => x.part == part && x.line == pa / 128) with
  | some x => if x.bytes.isEmpty then (.error (0x10, 0, va), s.codeDrop core part (pa / 128)) else (.ok (x.word pa), s)
  | none =>
    let r := s.podCheck part pa 0
    let owner : PodOwner := .code core part (pa / 128)
    if !r.1 then (.error (0x10, 0, va), r.2)
    else if r.2.podReqs.any (fun q => q.owner == owner) then (.error fetchPending, r.2)
    else
      match r.2.takeAll 128 (r.2.fetchPodPoints core part (pa / 128)) with
      | none => (.error fetchPending, r.2)
      | some t => (.error fetchPending, (t.sendPod owner part (pa / 128 * 128) (.read 128) (dieOfCore core)).2)

/-- A line of code read at its home for a core's L1 instruction cache, as a fill brings it (R230; a host line under CXL.cache, R241); none while
a bucket or a hold on its bank keeps the request (R39, R436). R221 names no effect of a poison mark on a fetch: the bytes are taken as they
stand (DESIGN CHOICE, log entry 79). -/
def State.fetchLine (s : State) (core part space line : Nat) (a : PageAttr) : Option (CodeLine × State) :=
  (if s.bankHolds part line then none else s.takeAll 128 (s.linePoints core part line)).map (fun t =>
    let u := t.fillLine part space line a false
    let x : CodeLine := ⟨part, line, (u.homeLine part line).1⟩
    (x, u.codePut core x))

/-- One word of code fetched at a word offset: its value, or the cause and kind with the address. It comes through the core's L1 instruction
cache (Table 0.1). The spec gives fetches no coherence: where home no longer holds the cached bytes, a free value says whether the fetch
takes them all the same or reads the line again (DESIGN CHOICE, log entry 62); it takes them while the read is held. -/
def State.fetchWordAt (s : State) (core part space va : Nat) : Except (Nat × Nat × Nat) Nat × State :=
  match s.checkAccess core part space va .fetch with
  | (.error f, s1) => (.error (f.1, f.2, va), s1)
  | (.ok e, s1) =>
    let pa := e.pa va
    if isPod pa then s1.fetchPod core part va pa
    else
      match (s1.core core).code.find? (fun x => x.part == part && x.line == pa / 128) with
      | none =>
        match s1.fetchLine core part space (pa / 128) e.attr with
        | none => (.error fetchPending, s1)
        | some r => (.ok (r.1.word pa), r.2)
      | some x =>
        if x.word pa = CodeLine.word ⟨part, pa / 128, (s1.homeLine part (pa / 128)).1⟩ pa then (.ok (x.word pa), s1)
        else
          let s2 := { s1 with draws := s1.draws + 1 }
          if Config.fetchStale s1.draws then (.ok (x.word pa), s2)
          else
            match s2.fetchLine core part space (pa / 128) e.attr with
            | none => (.ok (x.word pa), s2)
            | some r => (.ok (r.1.word pa), r.2)

/-- `n` consecutive words of code; the first that lies on a faulting page decides (R66). -/
def State.fetchWords (core part space : Nat) : (n : Nat) → State → (va : Nat) → Except (Nat × Nat × Nat) (List Nat) × State
  | 0, s, _ => (.ok [], s)
  | n + 1, s, va =>
    match s.fetchWordAt core part space va with
    | (.error f, s1) => (.error f, s1)
    | (.ok w, s1) =>
      match State.fetchWords core part space n s1 (va + 4) with
      | (.error f, s2) => (.error f, s2)
      | (.ok ws, s2) => (.ok (w :: ws), s2)

/-- A core's L1 instruction cache without the lines of the pod range: they serve one clause (R324). -/
def State.dropPodCode (s : State) (core : Nat) : State :=
  if (s.core core).code.any (fun x => isPod (128 * x.line)) then
    s.modCore core (fun k => { k with code := k.code.filter (fun x => !isPod (128 * x.line)) })
  else s

/-- The fetch of a whole clause and then its header checks, in the order of R87 (R65, R66): the header and words, or the cause, detail and
fault address. A word that is no header spans as many words as its count field says (log entry 14). -/
def State.fetchClause (s : State) (core part space codeBase hdr : Nat) : Except (Nat × Nat × Nat) (Header × List Nat) × State :=
  let va := codeAddr codeBase hdr
  match s.fetchWordAt core part space va with
  | (.error f, s1) => (.error f, s1)
  | (.ok w, s1) =>
    match State.fetchWords core part space (bitsOf w 0 4) s1 (va + 4) with
    | (.error f, s2) => (.error f, s2)
    | (.ok ws, s2) =>
      match headerOf w with
      | none => (.error (0x02, 0, va), s2.dropPodCode core)
      | some h => if (ws.dropLast).any (endsClause h.cls) then (.error (0x02, 0, va), s2.dropPodCode core) else (.ok (h, ws), s2.dropPodCode core)

end Sys2Proof.Machine
end

