-- ==== Sys2Proof/Machine/Ops.lean ====
section
/-! DEFINITION. The shared operations of lanes: taking a trap and returning from one (R392 to R405), escalation (R399), leaving and
releasing (R99, R100, R118), and the posts that end an escalation (R401). -/

namespace Sys2Proof.Machine

/-- A lane of a wave. -/
def State.lane? (s : State) (r : WaveRef) (l : Nat) : Option Lane := (s.wave? r).bind (·.lane? l)

/-- The partition of a wave. -/
def State.partOf (s : State) (r : WaveRef) : Nat := ((s.launchOf r).map (·.part)).getD 0

/-- The address space of a wave's launch. -/
def State.spaceOf (s : State) (r : WaveRef) : Nat := ((s.launchOf r).map (·.space)).getD 0

/-- The lease clock as a wave's die reads it. -/
def State.nowOf (s : State) (r : WaveRef) : Nat := s.leaseNow (dieOfCore (s.coreOf r))

/-- The trap entry of a launch, none when the record gives 0xFFFF_FFFF (Table 1.4). -/
def LaunchRecord.entryOfTraps (r : LaunchRecord) : Option Word :=
  if r.trapEntry = 0xFFFFFFFF then none else some (BitVec.ofNat 32 r.trapEntry)

/-- sr.origin0, sr.origin1, sr.origin2 and sr.origin3 of a lane (Table 20.2). -/
def State.originWords (s : State) (o : Origin) (vpc : Word) (slot : Nat) : List Nat :=
  match s.block? o.uid with
  | none => [0, 0, 0, 0]
  | some b =>
    [((s.launch? b.launch).map (·.part)).getD 0 * 2 ^ 28 + b.handle, o.wave * 2 ^ 27 + o.lane * 2 ^ 21 + slot * 2 ^ 17,
      vpc.toNat, b.lin]

/-- The fault queue record of an escalated lane (Table 20.4): its serial, and the state with the record written or lost. -/
def State.faultRecord (s : State) (o : Origin) (vpc : Word) (slot cause addr : Nat) : Nat × State :=
  let lid := ((s.block? o.uid).map (·.launch)).getD 0
  let p := ((s.launch? lid).map (·.part)).getD 0
  let r := s.takeSerial
  let ow := s.originWords o vpc slot
  let w := r.2.queueRecord p true (bytesLE 8 r.1 ++ bytesLE 4 (ow.getD 0 0) ++ bytesLE 4 (ow.getD 1 0) ++
    bytesLE 4 (ow.getD 2 0) ++ bytesLE 4 cause ++ bytesLE 8 addr)
  (r.1, if w.1 then w.2.modLaunch lid (fun l => { l with escalations := sat32 (l.escalations + 1) }) else w.2)

/-- The cause word of a fault queue record (Table 20.4). -/
def causeWord (cause detail code : Nat) (noEntry irdan handler byTesc : Bool) : Nat :=
  code * 2 ^ 24 + (if noEntry then 2 ^ 19 else 0) + (if irdan then 2 ^ 18 else 0) + (if handler then 2 ^ 17 else 0) +
    (if byTesc then 2 ^ 16 else 0) + detail * 2 ^ 8 + cause

/-- A block's lane becomes escalated with a trap record: it writes its fault queue record and stays trapped until a post names it
(R399). -/
def State.escalateLane (s : State) (o : Origin) (info : TrapInfo) (cause addr : Nat) : State :=
  let r := s.faultRecord o info.vpc info.slot cause addr
  r.2.modLane (.blk o.uid o.wave) o.lane (fun x =>
    { x with state := .trapped, vpc := info.vpc, slot := info.slot, trap := some { info with phase := .escalated r.1 } })

/-- Lanes leave the clause issue and become exited (R118). -/
def State.exitLanes (s : State) (r : WaveRef) (ls : List Nat) : State :=
  (s.modWave r (fun w => w.modLanes ls (fun x => { x with state := .exited }))).dropFromIssues r ls

/-- TAKING A TRAP (R392 to R402). The trap is counted and recorded at the trap point. A handler lane's trap escalates its origin with
the handler's trap, and the handler lane exits (R398). In a launch with the Irdan-mode attribute the lane records the trap, becomes in
trap and stays active at the trap entry (R402). In native mode it is trapped and awaits a handler (R394). Cause 0x08, a launch with no
trap entry, and in Irdan-mode a lane already in trap, escalate instead (R394, R399, R402). -/
def State.takeTrap (s : State) (r : WaveRef) (l : Nat) (vpc : Word) (slot cause detail addr : Nat) : State :=
  match s.launchOf r with
  | none => s
  | some la =>
    let now := s.nowOf r
    let f := s.fresh
    let info : TrapInfo := ⟨cause, detail, addr, vpc, slot, now, f.1, .awaiting⟩
    let s1 := (f.2.modLaunch la.lid (fun x => { x with traps := sat32 (x.traps + 1) })).dropFromIssues r [l]
    let noEntry := la.record.entryOfTraps.isNone
    match r with
    | .hdl _ _ =>
      match (s1.lane? r l).bind (·.origin) with
      | none => s1.exitLanes r [l]
      | some o =>
        match (s1.lane? (.blk o.uid o.wave) o.lane).bind (·.trap) with
        | none => s1.exitLanes r [l]
        | some t => (s1.escalateLane o t (causeWord cause detail 0 noEntry la.record.irdan true false) addr).exitLanes r [l]
    | .blk uid w =>
      let again := ((s1.lane? r l).map (·.inTrap.isSome)).getD false
      if cause == 0x08 || noEntry || (la.record.irdan && again) then
        s1.escalateLane ⟨uid, w, l⟩ info (causeWord cause detail 0 noEntry la.record.irdan false false) addr
      else if la.record.irdan then
        s1.modLane r l (fun x =>
          { x with state := .active, inTrap := some info, vpc := la.record.entryOfTraps.getD 0, slot := 0 })
      else s1.modLane r l (fun x => { x with state := .trapped, vpc := vpc, slot := slot, trap := some info })

/-- Several lanes of a wave trap at one instruction, in rising home lane order. -/
def State.takeTraps (s : State) (r : WaveRef) (ls : List Nat) (vpc : Word) (slot cause detail addr : Nat) : State :=
  ls.foldl (fun s l => s.takeTrap r l vpc slot cause detail addr) s

/-- A block's trapped lane resumes at a word offset and slot (Table 5.1: `tres`, replay). -/
def State.resumeLane (s : State) (o : Origin) (vpc : Word) (slot : Nat) : State :=
  s.modLane (.blk o.uid o.wave) o.lane (fun x => { x.activate with vpc := vpc, slot := slot, trap := none })

/-- Whether the word at a word offset of a launch's code has still to be fetched, with the fetch under way. -/
def State.fetchWaits (s : State) (core : Nat) (la : Launch) (off : Word) : Bool × State :=
  match s.fetchWordAt core la.part la.space (codeAddr la.record.codeBase off.toNat) with
  | (.error f, s1) => (f == fetchPending, s1)
  | (.ok _, s1) => (false, s1)

/-- The clause header at a word offset of a launch's code, when it can be fetched and is one (R405). -/
def State.headerAt (s : State) (core : Nat) (la : Launch) (off : Word) : Option Header × State :=
  match s.fetchWordAt core la.part la.space (codeAddr la.record.codeBase off.toNat) with
  | (.error _, s1) => (none, s1)
  | (.ok w, s1) => (headerOf w, s1)

/-- Where `tres` with target t resumes a lane whose trap point is (pv, ps) (R405). -/
def State.resumePoint (s : State) (core : Nat) (la : Launch) (t pv : Word) (ps : Nat) : (Word × Nat) × State :=
  if t = 0xFFFFFFFF then
    match s.headerAt core la pv with
    | (none, s1) => ((pv, 0), s1)
    | (some h, s1) => (if ps + 1 = h.count then (pv + BitVec.ofNat 32 (h.count + 1), 0) else (pv, ps + 1), s1)
  else if t = pv then ((pv, ps), s)
  else ((t, 0), s)

/-- The word offset of the clause at which a lane that handles a trap, or its origin, trapped (R405). -/
def State.trapClause (s : State) (r : WaveRef) (l : Nat) : Option Word :=
  match s.lane? r l with
  | none => none
  | some x =>
    match r with
    | .hdl _ _ => (x.origin.bind (fun o => (s.lane? (.blk o.uid o.wave) o.lane).bind (·.trap))).map (·.vpc)
    | .blk _ _ => x.inTrap.map (·.vpc)

/-- Whether a lane's return past its trapping instruction has still to fetch the header of that clause (R39, R405), with the fetch under
way. -/
def State.returnWaits (s : State) (r : WaveRef) : List Nat → Bool × State
  | [] => (false, s)
  | l :: ls =>
    match s.launchOf r, s.trapClause r l with
    | some la, some pv =>
      let f := s.fetchWaits (s.coreOf r) la pv
      let q := f.2.returnWaits r ls
      (f.1 || q.1, q.2)
    | _, _ => s.returnWaits r ls

/-- RETURNING FROM A TRAP by `tres` in one lane (R405): the origin of a handler lane becomes active and the handler lane exits; an
Irdan-mode lane leaves its trap and executes no later position of its clause. -/
def State.returnTrap (s : State) (r : WaveRef) (l : Nat) (t : Word) : State :=
  match s.launchOf r, s.lane? r l with
  | some la, some x =>
    match r with
    | .hdl _ _ =>
      match x.origin with
      | none => s.exitLanes r [l]
      | some o =>
        match (s.lane? (.blk o.uid o.wave) o.lane).bind (·.trap) with
        | none => s.exitLanes r [l]
        | some i =>
          let q := s.resumePoint (s.coreOf r) la t i.vpc i.slot
          (q.2.resumeLane o q.1.1 q.1.2).exitLanes r [l]
    | .blk _ _ =>
      match x.inTrap with
      | none => s
      | some i =>
        let q := s.resumePoint (s.coreOf r) la t i.vpc i.slot
        (q.2.modLane r l (fun y => { y with vpc := q.1.1, slot := q.1.2, inTrap := none })).dropFromIssues r [l]
  | _, _ => s

/-- `tesc` in one lane, or a handler lane's `exit` as `tesc` 0xFF (R398, R406): the origin, or the Irdan-mode lane itself, is escalated
with its trap's own cause, detail and address. -/
def State.escalateBy (s : State) (r : WaveRef) (l code : Nat) : State :=
  match s.launchOf r, s.lane? r l with
  | some la, some x =>
    let noEntry := la.record.entryOfTraps.isNone
    match r with
    | .hdl _ _ =>
      match x.origin with
      | none => s.exitLanes r [l]
      | some o =>
        match (s.lane? (.blk o.uid o.wave) o.lane).bind (·.trap) with
        | none => s.exitLanes r [l]
        | some i =>
          (s.escalateLane o i (causeWord i.cause i.detail code noEntry la.record.irdan false true) i.addr).exitLanes r [l]
    | .blk uid w =>
      match x.inTrap with
      | none => s
      | some i =>
        ((s.modLane r l (fun y => { y with inTrap := none })).escalateLane ⟨uid, w, l⟩ i
          (causeWord i.cause i.detail code noEntry la.record.irdan false true) i.addr).dropFromIssues r [l]
  | _, _ => s

/-- `tkill` in one lane (R406): the origin of a handler lane, or the Irdan-mode lane itself, becomes exited. -/
def State.killBy (s : State) (r : WaveRef) (l : Nat) : State :=
  match s.lane? r l with
  | none => s
  | some x =>
    match r with
    | .hdl _ _ =>
      match x.origin with
      | none => s.exitLanes r [l]
      | some o =>
        (s.modLane (.blk o.uid o.wave) o.lane (fun y => { y with state := .exited, trap := none })).exitLanes r [l]
    | .blk _ _ => (s.modLane r l (fun y => { y with inTrap := none })).exitLanes r [l]

/-- Whether a lane may execute `tres`, `tkill` and `tesc`, and reads a trap record: a handler lane, or an Irdan-mode lane in trap
(R405, R85). -/
def Lane.handles (x : Lane) (handler : Bool) : Bool := handler || x.inTrap.isSome

/-- The trap record that a lane reads through `sread` 0x20 to 0x26, with the origin words (R397, R402). -/
def State.trapRecord (s : State) (r : WaveRef) (l : Nat) : Option (List Nat × TrapInfo) :=
  match s.lane? r l with
  | none => none
  | some x =>
    match r with
    | .hdl _ _ =>
      match x.origin with
      | none => none
      | some o => ((s.lane? (.blk o.uid o.wave) o.lane).bind (·.trap)).map (fun i => (s.originWords o i.vpc i.slot, i))
    | .blk uid w => x.inTrap.map (fun i => (s.originWords ⟨uid, w, l⟩ i.vpc i.slot, i))

/-- The lanes of a partition's blocks that satisfy a test on their trap record. -/
def State.trappedLanes (s : State) (part : Nat) (p : TrapInfo → Bool) : List (Origin × TrapInfo) :=
  (s.blocks.filter (fun b => ((s.launch? b.launch).map (·.part)).getD 16 == part)).flatMap (fun b =>
    (mapIdx' (fun w v => (mapIdx' (fun l x =>
      match x.trap with
      | some i => if x.state == .trapped && p i then [((⟨b.uid, w, l⟩ : Origin), i)] else []
      | none => []) v.lanes).flatten) b.waves).flatten)

/-- The escalated lane of a serial (R400). -/
def State.escalatedLane (s : State) (part serial : Nat) : Option (Origin × TrapInfo) :=
  (s.trappedLanes part (fun i => i.phase == .escalated serial)).head?

/-- A replay post (R401): the lane becomes active at its trap point; a saved block's image is updated and the block wakes. -/
def State.replayLane (s : State) (o : Origin) (i : TrapInfo) : State :=
  (s.resumeLane o i.vpc i.slot).wake (.blk o.uid o.wave)

/-- One register of a lane written by a value that arrives (R109, R118): exited lanes receive it, helper lanes do not (R14). -/
def State.arrive (s : State) (r : WaveRef) (l reg : Nat) (x : Word) : State :=
  s.modLane r l (fun y => if y.state == .helper then y else y.writeV reg x)

/-- A lane stops within its clause at position `slot + 1` in a waiting state (R69, Table 5.1). -/
def State.stopLane (s : State) (r : WaveRef) (l : Nat) (vpc : Word) (slot : Nat) (st : LaneState) : State :=
  (s.modLane r l (fun x => { x with state := st, vpc := vpc, slot := slot })).dropFromIssues r [l]

/-- A lane leaves its clause for another header (R67, R101). -/
def State.moveLane (s : State) (r : WaveRef) (l : Nat) (vpc : Word) : State :=
  (s.modLane r l (fun x => { x with vpc := vpc, slot := 0 })).dropFromIssues r [l]

/-- A hold put on a wave (R99). -/
def State.holdWave (s : State) (r : WaveRef) (h : Hold) : State := s.modWave r (fun w => { w with holds := w.holds ++ [h] })

end Sys2Proof.Machine
end

