-- ==== Sys2Proof/WellFormed.lean ====
section
/-! DEFINITION. Well-formedness of an instruction: the checks of Table 3.15 that a word's own fields decide, each with the
name of what it refuses. -/

namespace Sys2Proof

/-- What a word is refused for (Table 3.15). -/
inductive Reject where
  /-- the header's class is 7 (R64) -/
  | illegalClass
  /-- a major opcode its class leaves unassigned -/
  | unassignedMajor
  /-- a field required to be zero that is not -/
  | reservedBits
  /-- a sub-operation, condition, selector, qualifier or option value left unassigned -/
  | illegalValue
  /-- an operand kind that R73, Table 3.8 or the entry excludes -/
  | operandKind
  /-- an odd register where a pair is required, or a group that is not aligned -/
  | oddRegister
  /-- a register group that passes the last register, or a scalar register above s47 -/
  | groupPastEnd
  /-- a special or system register number that is reserved -/
  | badNumber
  deriving DecidableEq, Repr

/-- The first reason of a list of optional reasons. -/
def firstReject : List (Option Reject) → Option Reject
  | [] => none
  | some r :: _ => some r
  | none :: t => firstReject t

/-- A reason that stands when the check fails. -/
def need (ok : Bool) (r : Reject) : Option Reject := if ok then none else some r

/-- Field a as an integer operand (R129): any value of Table 3.3 but 120 to 123 and 127. -/
def intOperand (a : BitVec 7) : Bool := a.toNat < 120 || (124 ≤ a.toNat && a.toNat ≤ 126)

/-- Field a as any operand (R129): any value but 127. -/
def anyOperand (a : BitVec 7) : Bool := a.toNat < 127

/-- Field a as an FP32 or packed-pair operand (R178): a register or a floating constant. -/
def floatOperand (a : BitVec 7) : Bool := a.toNat < 112 || (120 ≤ a.toNat && a.toNat ≤ 123)

/-- Field a as an FP64 operand (R178, R180): an even register or a floating constant. -/
def doubleOperand (a : BitVec 7) : Bool :=
  (a.toNat < 112 && a.toNat % 2 == 0) || (120 ≤ a.toNat && a.toNat ≤ 123)

/-- Field a as a vector register, or a predicate number. -/
def vectorOperand (a : BitVec 7) : Bool := a.toNat < 64

/-- Field a in a scalar-class opcode (R73): a scalar register, an integer constant or W. -/
def scalarOperand (a : BitVec 7) : Bool := (64 ≤ a.toNat && a.toNat < 120) || a.toNat == 126

/-- A scalar register number in a 6-bit field (R73). -/
def scalarReg (d : BitVec 6) : Bool := d.toNat < 48

/-- An even register number. -/
def evenReg (d : BitVec 6) : Bool := d.toNat % 2 == 0

/-- The source of `cvtd` by op (Table 8.8, R192). -/
def cvtdSource (o : BitVec 3) (a : BitVec 7) : Bool :=
  match o.toNat with
  | 0 => floatOperand a
  | 1 | 4 | 5 | 7 => doubleOperand a
  | 2 | 3 => intOperand a
  | _ => (a.toNat < 112 && a.toNat % 2 == 0) || (112 ≤ a.toNat && a.toNat < 120) ||
      (124 ≤ a.toNat && a.toNat ≤ 126)

/-- The destination of `cvtd` by op: even for a 64-bit result (R192). -/
def cvtdDest (o : BitVec 3) (d : BitVec 6) : Bool :=
  match o.toNat with
  | 1 | 4 | 5 => true
  | _ => evenReg d

/-- The special registers of Table 3.12. -/
def specialNumber (r : BitVec 8) : Bool := r.toNat ≤ 0x26 && r.toNat != 0x1F

/-- The lane-varying special registers of Table 3.12. -/
def laneVarying (r : BitVec 8) : Bool :=
  r.toNat == 0 || r.toNat == 1 || r.toNat == 4 || r.toNat == 0x17 || 0x20 ≤ r.toNat

/-- The system registers of Table 3.13. -/
def systemNumber (x : BitVec 9) : Bool := x.toNat < 4 || (0x100 ≤ x.toNat && x.toNat ≤ 0x142)


/-- The first check of Table 3.15 that an instruction word fails, on the word's own fields; none for a well-formed one. The
checks that depend on the wave or the lane (declared counts, R18; a lane or block wider than W, R147 and R176; handler
registers, R86) are made where the instruction executes. -/
def Instr.reject (i : Instr) : Option Reject :=
  match i with
  | .fadd _ a _ _ _ => firstReject [need (floatOperand a) .operandKind]
  | .fsub _ a _ _ _ => firstReject [need (floatOperand a) .operandKind]
  | .fmul _ a _ _ _ => firstReject [need (floatOperand a) .operandKind]
  | .ffma _ a _ _ _ => firstReject [need (floatOperand a) .operandKind]
  | .fmin _ a _ _ _ => firstReject [need (floatOperand a) .operandKind]
  | .fmax _ a _ _ _ => firstReject [need (floatOperand a) .operandKind]
  | .ftr _ a s _ _ => firstReject [need (floatOperand a) .operandKind, need (s.toNat ≤ 13) .illegalValue]
  | .fcmp _ a _ _ _ => firstReject [need (floatOperand a) .operandKind]
  | .dadd d a b _ _ => firstReject [need (doubleOperand a) .operandKind, need (evenReg d) .oddRegister, need (evenReg b) .oddRegister]
  | .dmul d a b _ _ => firstReject [need (doubleOperand a) .operandKind, need (evenReg d) .oddRegister, need (evenReg b) .oddRegister]
  | .dfma d a b _ _ => firstReject [need (doubleOperand a) .operandKind, need (evenReg d) .oddRegister, need (evenReg b) .oddRegister]
  | .dmnx d a b _ _ => firstReject [need (doubleOperand a) .operandKind, need (evenReg d) .oddRegister, need (evenReg b) .oddRegister]
  | .dtr d a s _ _ => firstReject [need (doubleOperand a) .operandKind, need (evenReg d) .oddRegister, need (s.toNat ≤ 13 && !(3 ≤ s.toNat && s.toNat ≤ 6)) .illegalValue]
  | .dcmp _ a b _ _ => firstReject [need (doubleOperand a) .operandKind, need (evenReg b) .oddRegister]
  | .hadd2 _ a _ _ _ => firstReject [need (floatOperand a) .operandKind]
  | .hmul2 _ a _ _ _ => firstReject [need (floatOperand a) .operandKind]
  | .hfma2 _ a _ _ _ => firstReject [need (floatOperand a) .operandKind]
  | .badd2 _ a _ _ _ => firstReject [need (floatOperand a) .operandKind]
  | .bmul2 _ a _ _ _ => firstReject [need (floatOperand a) .operandKind]
  | .bfma2 _ a _ _ _ => firstReject [need (floatOperand a) .operandKind]
  | .hmnx2 _ a _ _ _ => firstReject [need (floatOperand a) .operandKind]
  | .hcmp2 p a _ _ _ => firstReject [need (floatOperand a) .operandKind, need (p.toNat != 63) .groupPastEnd]
  | .bcmp2 p a _ _ _ => firstReject [need (floatOperand a) .operandKind, need (p.toNat != 63) .groupPastEnd]
  | .cvtf _ a t r _ _ _ h _ => firstReject [need (floatOperand a) .operandKind, need (r.toNat != 3 || t.toNat == 7) .illegalValue, need (r.toNat != 2 || a.toNat < 63) .operandKind, need (h.toNat == 0 || t.toNat ≤ 1) .illegalValue]
  | .cvtn _ a s l _ _ _ => firstReject [need (vectorOperand a) .operandKind, need (l.toNat ≤ (if s.toNat ≤ 1 then 1 else if s.toNat == 6 then 7 else 3)) .illegalValue]
  | .cvti _ a v _ r i s _ => firstReject [need (if v.toNat == 0 then intOperand a else floatOperand a) .operandKind, need (r.toNat ≤ 1) .illegalValue, need (v.toNat == 1 || (i.toNat == 0 && s.toNat == 0)) .illegalValue]
  | .cvtd d a o r _ _ _ _ => firstReject [need (r.toNat ≤ 1) .illegalValue, need (cvtdSource o a) .operandKind, need (cvtdDest o d) .oddRegister]
  | .bamax _ a _ i _ _ => firstReject [need (vectorOperand a) .operandKind, need (i.toNat ≤ 2) .illegalValue]
  | .bscale _ a f k _ _ => firstReject [need (floatOperand a) .operandKind, need (f.toNat ≤ 5) .illegalValue, need (k.toNat ≤ 2) .illegalValue]
  | .mxpk _ a f _ r _ _ _ => firstReject [need (r.toNat != 3 || f.toNat == 7) .illegalValue, need (a.toNat + (if f.toNat == 6 then 1 else 0) + (if r.toNat == 2 then 1 else 0) ≤ 63) .operandKind]
  | .mxup _ a f k s _ _ => firstReject [need (vectorOperand a) .operandKind, need (f.toNat ≤ 5) .illegalValue, need (k.toNat ≤ 2) .illegalValue, need (f.toNat == 4 || s.toNat ≤ 3) .illegalValue]
  | .rail _ a o l k _ => firstReject [need (o.toNat ≤ 4) .illegalValue, need (if o.toNat ≤ 2 then k.toNat ≤ 2 else (l.toNat == 0 && k.toNat == 0)) .illegalValue, need (if o.toNat == 2 then intOperand a else if o.toNat == 4 then a.toNat == 0 else vectorOperand a) .operandKind]
  | .iadd _ a _ _ _ => firstReject [need (intOperand a) .operandKind]
  | .imul _ a _ m _ => firstReject [need (intOperand a) .operandKind, need (m.toNat ≤ 3) .illegalValue]
  | .imnx _ a b m _ => firstReject [need (intOperand a) .operandKind, need (m.toNat ≤ 5) .illegalValue, need (m.toNat < 4 || b.toNat == 0) .reservedBits]
  | .ilog _ a b m _ => firstReject [need (intOperand a) .operandKind, need (m.toNat ≤ 6) .illegalValue, need (m.toNat != 6 || b.toNat == 0) .reservedBits]
  | .ish _ a _ m _ => firstReject [need (intOperand a) .operandKind, need (m.toNat ≤ 4) .illegalValue]
  | .ishi _ a o _ _ => firstReject [need (intOperand a) .operandKind, need (o.toNat ≤ 4) .illegalValue]
  | .ibit _ a m _ => firstReject [need (intOperand a) .operandKind, need (m.toNat ≤ 4) .illegalValue]
  | .bfe _ a _ m _ => firstReject [need (intOperand a) .operandKind, need (m.toNat ≤ 1) .illegalValue]
  | .bfi _ a _ m _ => firstReject [need (intOperand a) .operandKind, need (m.toNat == 0) .illegalValue]
  | .icmp _ a _ c _ => firstReject [need (intOperand a) .operandKind, need (c.toNat ≤ 5) .illegalValue]
  | .icmpn _ a _ c _ => firstReject [need (intOperand a) .operandKind, need (c.toNat ≤ 5) .illegalValue]
  | .sel _ a _ _ => firstReject [need (anyOperand a) .operandKind]
  | .mov _ a _ => firstReject [need (anyOperand a) .operandKind]
  | .movi _ _ _ => none
  | .movh _ _ _ => none
  | .movl _ _ _ => none
  | .sadd d a b _ _ => firstReject [need (scalarOperand a) .operandKind, need (scalarReg d) .groupPastEnd, need (scalarReg b) .groupPastEnd]
  | .smul d a b m _ => firstReject [need (scalarOperand a) .operandKind, need (scalarReg d) .groupPastEnd, need (scalarReg b) .groupPastEnd, need (m.toNat ≤ 3) .illegalValue]
  | .slog d a b m _ => firstReject [need (scalarOperand a) .operandKind, need (scalarReg d) .groupPastEnd, need (scalarReg b) .groupPastEnd, need (m.toNat ≤ 6) .illegalValue, need (m.toNat != 6 || b.toNat == 0) .reservedBits]
  | .ssh d a b m _ => firstReject [need (scalarOperand a) .operandKind, need (scalarReg d) .groupPastEnd, need (scalarReg b) .groupPastEnd, need (m.toNat ≤ 4) .illegalValue]
  | .smovi d _ _ => firstReject [need (scalarReg d) .groupPastEnd]
  | .smovh d _ _ => firstReject [need (scalarReg d) .groupPastEnd]
  | .scmp _ a b c _ => firstReject [need (scalarOperand a) .operandKind, need (scalarReg b) .groupPastEnd, need (c.toNat ≤ 6) .illegalValue]
  | .smov d a _ => firstReject [need (scalarOperand a) .operandKind, need (scalarReg d) .groupPastEnd]
  | .shfl _ a _ m _ => firstReject [need (intOperand a) .operandKind, need (m.toNat ≤ 3) .illegalValue]
  | .qxch _ a i t _ => firstReject [need (vectorOperand a) .operandKind, need (t.toNat ≤ 3) .illegalValue, need (t.toNat == 3 || i.toNat == 0) .illegalValue]
  | .vote d a t _ => firstReject [need (vectorOperand a) .operandKind, need (t.toNat != 0 || (d.toNat % 2 == 0 && d.toNat ≤ 46)) .oddRegister, need (t.toNat != 1 || scalarReg d) .groupPastEnd]
  | .redx d a o _ => firstReject [need (vectorOperand a) .operandKind, need (o.toNat ≤ 11) .illegalValue, need (scalarReg d) .groupPastEnd, need (o.toNat != 11 || (a.toNat % 2 == 0 && d.toNat % 2 == 0)) .oddRegister]
  | .lane d a _ w _ => firstReject [need (if w.toNat == 0 then vectorOperand a else ((64 ≤ a.toNat && a.toNat < 124) || a.toNat == 126)) .operandKind, need (w.toNat == 1 || scalarReg d) .groupPastEnd]
  | .plog _ a q o _ => firstReject [need (vectorOperand a) .operandKind, need (o.toNat ≤ 6) .illegalValue, need (!(o.toNat == 4 || o.toNat == 5) || q.toNat == 0) .reservedBits, need (o.toNat != 6 || q.toNat < 32) .illegalValue]
  | .rand _ a _ _ => firstReject [need (a.toNat < 112) .operandKind, need (a.toNat % 2 == 0) .oddRegister]
  | .sread d s r _ => firstReject [need (specialNumber r) .badNumber, need (s.toNat == 0 || !laneVarying r) .badNumber, need (s.toNat == 0 || scalarReg d) .groupPastEnd]
  | .nop _ => none
  | .bra _ _ => none
  | .bru _ _ => none
  | .brx a _ => firstReject [need (vectorOperand a) .operandKind]
  | .call _ _ _ => none
  | .ret a _ => firstReject [need (vectorOperand a) .operandKind]
  | .exit _ => none
  | .join _ _ => none
  | .kset _ _ => none
  | .kop _ _ _ _ => none
  | .ksync _ _ => none
  | .waitc t _ _ => firstReject [need (t.toNat != 15) .illegalValue]
  | .yield _ => none
  | .bar _ _ => none
  | .bara _ _ => none
  | .barw _ _ => none
  | .bari a _ _ => firstReject [need (64 ≤ a.toNat && a.toNat < 120) .operandKind]
  | .launch a _ _ => firstReject [need (64 ≤ a.toNat && a.toNat ≤ 110) .operandKind, need (a.toNat % 2 == 0) .oddRegister]
  | .ldB8 _ b _ _ _ _ => firstReject [need (evenReg b) .oddRegister]
  | .ldS8 _ b _ _ _ _ => firstReject [need (evenReg b) .oddRegister]
  | .ldB16 _ b _ _ _ _ => firstReject [need (evenReg b) .oddRegister]
  | .ldS16 _ b _ _ _ _ => firstReject [need (evenReg b) .oddRegister]
  | .ldB32 _ b _ _ _ _ => firstReject [need (evenReg b) .oddRegister]
  | .ldB64 d b _ _ _ _ => firstReject [need (evenReg b) .oddRegister, need (evenReg d) .oddRegister]
  | .ldB128 d b _ _ _ _ => firstReject [need (evenReg b) .oddRegister, need (d.toNat % 4 == 0) .oddRegister]
  | .ldMx _ b _ _ _ _ => firstReject [need (evenReg b) .oddRegister]
  | .stB8 _ b _ _ _ _ => firstReject [need (evenReg b) .oddRegister]
  | .stB16 _ b _ _ _ _ => firstReject [need (evenReg b) .oddRegister]
  | .stB32 _ b _ _ _ _ => firstReject [need (evenReg b) .oddRegister]
  | .stB64 d b _ _ _ _ => firstReject [need (evenReg b) .oddRegister, need (evenReg d) .oddRegister]
  | .stB128 d b _ _ _ _ => firstReject [need (evenReg b) .oddRegister, need (d.toNat % 4 == 0) .oddRegister]
  | .stMx _ b _ _ _ _ => firstReject [need (evenReg b) .oddRegister]
  | .ldsB32 _ _ _ q _ => firstReject [need (q.toNat ≤ 2) .illegalValue]
  | .ldsB64 d _ _ q _ => firstReject [need (q.toNat ≤ 2) .illegalValue, need (evenReg d) .oddRegister]
  | .ldsB128 d _ _ q _ => firstReject [need (q.toNat ≤ 2) .illegalValue, need (d.toNat % 4 == 0) .oddRegister]
  | .stsB32 _ _ _ q _ => firstReject [need (q.toNat ≤ 2) .illegalValue]
  | .stsB64 d _ _ q _ => firstReject [need (q.toNat ≤ 2) .illegalValue, need (evenReg d) .oddRegister]
  | .stsB128 d _ _ q _ => firstReject [need (q.toNat ≤ 2) .illegalValue, need (d.toNat % 4 == 0) .oddRegister]
  | .fe _ _ q _ => firstReject [need (q.toNat ≤ 1) .illegalValue]
  | .atomAdd _ b _ _ _ _ => firstReject [need (evenReg b) .oddRegister]
  | .atomAddB64 d b _ _ _ _ => firstReject [need (evenReg b) .oddRegister, need (evenReg d) .oddRegister]
  | .atomAddf _ b _ _ _ _ => firstReject [need (evenReg b) .oddRegister]
  | .atomMinS32 _ b _ _ _ _ => firstReject [need (evenReg b) .oddRegister]
  | .atomMaxS32 _ b _ _ _ _ => firstReject [need (evenReg b) .oddRegister]
  | .atomMinN32 _ b _ _ _ _ => firstReject [need (evenReg b) .oddRegister]
  | .atomMaxN32 _ b _ _ _ _ => firstReject [need (evenReg b) .oddRegister]
  | .atomAnd _ b _ _ _ _ => firstReject [need (evenReg b) .oddRegister]
  | .atomOr _ b _ _ _ _ => firstReject [need (evenReg b) .oddRegister]
  | .atomXor _ b _ _ _ _ => firstReject [need (evenReg b) .oddRegister]
  | .atomExch _ b _ _ _ _ => firstReject [need (evenReg b) .oddRegister]
  | .atomCas d b _ _ _ _ => firstReject [need (evenReg b) .oddRegister, need (evenReg d) .oddRegister]
  | .atomCasB64 d b _ _ _ _ => firstReject [need (evenReg b) .oddRegister, need (d.toNat % 4 == 0) .oddRegister]
  | .satom d _ o _ _ => firstReject [need (o.toNat ≤ 10) .illegalValue, need (o.toNat != 10 || d.toNat % 2 == 0) .oddRegister]
  | .ratom d b o _ _ => firstReject [need (evenReg b) .oddRegister, need (o.toNat ≤ 10) .illegalValue, need (o.toNat != 10 || d.toNat % 2 == 0) .oddRegister]
  | .qpush _ _ _ => none
  | .qpop _ _ _ => none
  | .qcfg _ _ _ => none
  | .waituEqNe d b t _ w _ _ => firstReject [need (evenReg b) .oddRegister, need (w.toNat == 0 || d.toNat % 2 == 0) .oddRegister, need (t.toNat ≤ 40) .illegalValue]
  | .waituSgeSlt d b t _ w _ _ => firstReject [need (evenReg b) .oddRegister, need (w.toNat == 0 || d.toNat % 2 == 0) .oddRegister, need (t.toNat ≤ 40) .illegalValue]
  | .waituNgeNlt d b t _ w _ _ => firstReject [need (evenReg b) .oddRegister, need (w.toNat == 0 || d.toNat % 2 == 0) .oddRegister, need (t.toNat ≤ 40) .illegalValue]
  | .waituAnyAll d b t _ w _ _ => firstReject [need (evenReg b) .oddRegister, need (w.toNat == 0 || d.toNat % 2 == 0) .oddRegister, need (t.toNat ≤ 40) .illegalValue]
  | .waituChgUpd d b t _ w _ _ => firstReject [need (evenReg b) .oddRegister, need (w.toNat == 0 || d.toNat % 2 == 0) .oddRegister, need (t.toNat ≤ 40) .illegalValue]
  | .fence _ _ _ => none
  | .pref b _ _ _ _ => firstReject [need (evenReg b) .oddRegister]
  | .sldB32 d b _ _ q _ => firstReject [need (b.toNat % 2 == 0 && b.toNat ≤ 46) .oddRegister, need (q.toNat != 2) .illegalValue, need (scalarReg d) .groupPastEnd]
  | .sldB64 d b _ _ q _ => firstReject [need (b.toNat % 2 == 0 && b.toNat ≤ 46) .oddRegister, need (q.toNat != 2) .illegalValue, need (scalarReg d) .groupPastEnd, need (evenReg d) .oddRegister]
  | .sldB128 d b _ _ q _ => firstReject [need (b.toNat % 2 == 0 && b.toNat ≤ 46) .oddRegister, need (q.toNat != 2) .illegalValue, need (scalarReg d) .groupPastEnd, need (d.toNat % 4 == 0) .oddRegister]
  | .tdset _ c _ => firstReject [need (c.toNat % 2 == 0 && c.toNat ≤ 46) .oddRegister]
  | .cpy _ _ _ _ _ _ _ => none
  | .cpyq _ _ _ _ _ _ _ _ _ _ _ _ _ => none
  | .cpyd _ _ _ _ _ _ r _ _ _ _ _ => firstReject [need (r.toNat ≤ 2) .illegalValue]
  | .cpyt _ _ _ _ _ _ _ _ _ _ _ _ _ => none
  | .cpyr _ _ _ _ _ _ _ _ => none
  | .cpyf _ _ _ _ _ _ _ _ _ _ _ => none
  | .cpyg _ _ _ _ _ _ _ => none
  | .cpys _ _ _ => none
  | .qinit _ _ _ => none
  | .mma _ _ _ _ _ _ _ _ _ _ _ => none
  | .mmaa _ _ _ _ _ _ _ _ _ _ _ => none
  | .aclr _ _ _ => none
  | .ald d a _ m _ => firstReject [need (intOperand a) .operandKind, need (m.toNat ≤ 2) .illegalValue, need (m.toNat != 1 || d.toNat % 2 == 0) .oddRegister, need (m.toNat != 2 || d.toNat % 4 == 0) .oddRegister]
  | .ast d a _ m _ => firstReject [need (intOperand a) .operandKind, need (m.toNat ≤ 2) .illegalValue, need (m.toNat != 1 || d.toNat % 2 == 0) .oddRegister, need (m.toNat != 2 || d.toNat % 4 == 0) .oddRegister]
  | .acpy d s _ _ _ r l _ _ _ v _ => firstReject [need (if v.toNat == 0 then s.toNat == 0 else (d.toNat == 0 && l.toNat == 0 && r.toNat ≤ 1)) .illegalValue]
  | .setaw a _ _ => firstReject [need (64 ≤ a.toNat && a.toNat < 120) .operandKind]
  | .cgrp c _ _ => firstReject [need (c.toNat % 2 == 0 && c.toNat ≤ 46) .oddRegister]
  | .cput _ _ _ _ _ _ _ => none
  | .cget _ _ _ _ _ _ _ => none
  | .csig _ _ _ _ => none
  | .cgath _ _ _ _ _ _ _ _ _ => none
  | .crsc _ _ _ _ _ _ _ _ _ _ => none
  | .card _ _ _ _ _ _ _ _ _ _ => none
  | .cbcst _ _ _ _ _ _ _ _ _ => none
  | .trap _ _ => none
  | .tres a _ => firstReject [need (vectorOperand a) .operandKind]
  | .tkill _ => none
  | .tesc _ _ => none
  | .csrr _ x _ => firstReject [need (systemNumber x) .badNumber]
  | .csrw a x _ => firstReject [need (intOperand a) .operandKind, need (systemNumber x) .badNumber]
  | .setmode a s _ => firstReject [need (intOperand a) .operandKind, need (s.toNat ≤ 1) .illegalValue]
  | .gettime d s _ => firstReject [need (evenReg d) .oddRegister, need (s.toNat == 0 || d.toNat ≤ 46) .groupPastEnd]
  | .clauseIssue _ _ _ => none
  | .pageWalk _ _ _ _ => none
  | .globalLoadPerform _ _ => none
  | .loadReturn _ _ => none
  | .writePerform _ _ => none
  | .atomicPerform _ _ => none
  | .lineFill _ _ _ => none
  | .leaseWaitEnd _ => none
  | .scratchpadBankAccess _ _ => none
  | .ratomPerform _ _ => none
  | .copyCommandComplete _ => none
  | .platenStart _ _ => none
  | .platenComplete _ => none
  | .mantisRegistration _ _ => none
  | .mantisTimeout _ => none
  | .spillSweep _ => none
  | .spillReclaim _ => none
  | .contextReevaluation _ => none
  | .streamStart _ _ _ => none
  | .streamSerialUpdate _ _ _ => none
  | .streamStop _ _ _ => none
  | .schedulerStreamRead _ _ => none
  | .gateRegistration _ => none
  | .launchAdmit _ => none
  | .blockPlace _ _ => none
  | .blockSave _ => none
  | .blockRestore _ => none
  | .blockFlush _ => none
  | .launchAppendComplete _ => none
  | .launchRetire _ => none
  | .handlerWaveForm _ _ => none
  | .pcfgResize _ _ _ => none
  | .pcfgCancel _ _ _ => none
  | .cellRemoval _ => none
  | .sliceRemoval _ _ => none
  | .channelGroupRemoval _ _ => none
  | .bucketWrite _ _ _ _ => none
  | .bucketRelease _ _ _ => none
  | .shootdownStart _ _ => none
  | .shootdownComplete _ => none
  | .scSnap _ _ => none
  | .queueLostClear _ _ _ => none
  | .hmArm _ _ _ => none
  | .hmDisarm _ _ _ => none
  | .hmStatusClear _ _ _ => none
  | .replay _ => none
  | .killLane _ => none
  | .killLaunch _ => none
  | .replayRange _ => none
  | .ppodCtlWrite _ _ _ => none
  | .ppodFlush _ _ _ => none
  | .podRequestReceive _ _ _ _ _ => none
  | .podResponse _ _ => none
  | .podRequestTimeout _ => none
  | .ualinkPortDown _ => none
  | .collectiveChunkArrival _ _ _ _ _ _ _ _ => none
  | .collectiveAbort _ _ _ => none
  | .chaferOperationComplete _ => none
  | .cxlMemRead _ _ => none
  | .cxlMemWrite _ _ => none
  | .hostSnoop _ _ _ _ => none
  | .ownClaim _ _ => none
  | .ownBeat _ _ => none
  | .ownOffer _ _ => none
  | .ownAccept _ _ => none
  | .ownershipLapse => none
  | .attCmd _ _ => none
  | .attestationComplete _ => none
  | .securityAlarm _ => none
  | .fwLoad _ => none
  | .fwUpdate _ => none
  | .fwImageVerified => none
  | .coldReset => none
  | .powerFail => none
  | .functionLevelReset _ => none
  | .rfmIssue _ => none
  | .periodicRefresh _ => none
  | .activationHold _ => none
  | .logRecordProgram => none
  | .temperatureThreshold _ _ => none
  | .voltageDroop _ _ => none
  | .dataRateChange _ => none
  | .coreClockChange _ => none
  | .registerWrite _ _ _ _ => none
  | .ualinkPortUp _ => none
  | .acceleratorIdAssign _ => none
  | .lifetimeHistogramUpdate _ _ _ => none

/-- Well-formedness of an instruction: its encoding is assigned by the tables of the spec. -/
def Instr.wf (i : Instr) : Bool := i.reject.isNone

end Sys2Proof
end

