-- ==== Sys2Proof/Machine/Exec.lean ====
section
/-! DEFINITION. How an instruction word executes for the members of a clause issue (R87, R101, R106): legality, the guard, empty
operands (R9, R74, R251, R376), and the effect, once for each home wave. -/

namespace Sys2Proof.Machine

/-- One home wave's part in the execution of an instruction: its executing lanes X, the clause's header, the position less one, the
clause's count and the position's trap-on-empty bit. -/
structure Ctx where
  r : WaveRef
  x : List Nat
  hdr : Word
  slot : Nat
  count : Nat
  te : Bool
  deriving DecidableEq, Repr

/-- The next header of the clause (R111). -/
def Ctx.next (c : Ctx) : Word := c.hdr + BitVec.ofNat 32 (c.count + 1)

/-- The part of a member of a clause issue at its current position. -/
def Issue.ctx (i : Issue) (m : WaveRef × List Nat) : Ctx := ⟨m.1, m.2, i.hdr, i.pos - 1, i.count, bitOf i.traps (i.pos - 1)⟩

/-- The lanes of X whose guard is true (R71, R111). -/
def Ctx.t (c : Ctx) (w : Wave) (g : BitVec 4) : List Nat := c.x.filter (fun l => w.pred l g.toNat)

/-- Lanes trap at the instruction of a context (R393). -/
def State.trapAt (s : State) (c : Ctx) (ls : List Nat) (cause detail addr : Nat) : State :=
  s.takeTraps c.r ls c.hdr c.slot cause detail addr

/-- The virtual byte address of the instruction word of a context (Table 20.1). -/
def State.wordAddr (s : State) (c : Ctx) : Nat :=
  codeAddr (((s.launchOf c.r).map (·.record.codeBase)).getD 0) (c.hdr.toNat + c.slot + 1)

/-- An illegal encoding: every executing lane traps with cause 0x01, whatever its guard (R18, R87). -/
def State.illegal (s : State) (c : Ctx) : State := s.trapAt c c.x 0x01 0 (s.wordAddr c)

/-- What step 6 of R87 decides for a lane that needs registers full. -/
inductive Gate where
  | go
  | trap (cause addr : Nat)
  | wait (needs : List Need)
  deriving DecidableEq, Repr

/-- The trap that the reader of a marked register takes (R251, R376). -/
def Mark.gate : Mark → Gate
  | .poisoned a => .trap 0x11 a
  | .podFailed a => .trap 0x10 a

/-- The first mark among registers of lanes. -/
def Wave.firstMark (w : Wave) (needs : List (Nat × Nat)) : Option Mark :=
  needs.findSome? (fun n => (w.lanes[n.1]?).bind (fun l => if l.isFull n.2 then none else l.mark? n.2))

/-- The gate of a lane that needs the given (lane, register) pairs full: a marked one traps whatever the trap-on-empty bit, an empty
one traps with cause 0x03 under that bit and makes the lane wait otherwise (R9, R74, R251, R376). -/
def Wave.gate (w : Wave) (te : Bool) (needs : List (Nat × Nat)) : Gate :=
  let missing := needs.filter (fun n => !(((w.lanes[n.1]?).map (·.isFull n.2)).getD true))
  match w.firstMark missing with
  | some m => m.gate
  | none =>
    if missing.isEmpty then .go
    else if te then .trap 0x03 0
    else .wait (missing.map (fun n => ⟨false, n.1, n.2⟩))

/-- One lane passed through its gate: it stays among the lanes that go on, or traps, or waits. -/
def State.passGate (s : State) (c : Ctx) (l : Nat) : Gate → State
  | .go => s
  | .trap cause addr => s.trapAt c [l] cause 0 addr
  | .wait needs => s.stopLane c.r l c.hdr c.slot (.waitReg needs)

/-- The lanes that pass step 6 of R87, and the state in which the others have trapped or wait. -/
def State.gates (s : State) (c : Ctx) (w : Wave) (needs : Nat → List (Nat × Nat)) (ts : List Nat) : List Nat × State :=
  (ts.filter (fun l => w.gate c.te (needs l) == .go), ts.foldl (fun s l => s.passGate c l (w.gate c.te (needs l))) s)

/-- Whether every register an instruction names is below the declared counts of the wave (R18). -/
def Wave.declares (w : Wave) (vr sr : List Nat) : Bool := vr.all (· < w.nv) && sr.all (· < w.ns)

/-- One member executes: an illegal encoding traps, otherwise the effect acts on the wave as it stands. -/
def State.execMember (s : State) (c : Ctx) (legal : Wave → Bool) (f : Ctx → Wave → State → State) : State :=
  if c.x.isEmpty then s
  else
    match s.wave? c.r with
    | none => s
    | some w => if legal w then f c w s else s.illegal c

/-- The members of an issue that have executing lanes. -/
def Issue.live (i : Issue) : List (WaveRef × List Nat) := i.members.filter (fun m => !m.2.isEmpty)

/-- An instruction word executed for each member of the clause issue in hand, in rising wave index. A home-scoped instruction splits a
formed wave, and the split is counted (R106, R107). With no issue in hand nothing happens. -/
def State.execWord (s : State) (i : Instr) (home : Bool) (vr sr : List Nat) (legal : Wave → Bool)
    (f : Ctx → Wave → State → State) : Host.Outcome State Fault Refusal :=
  match s.curIssue with
  | none => .next s
  | some is =>
    let s1 := if home && decide (2 ≤ is.live.length) then
        s.modPart (s.partOf (is.members.headD (.hdl 0 0, [])).1) (fun p => { p with cntSplit := wrap64 (p.cntSplit + 1) })
      else s
    .next (is.members.foldl
      (fun s m => s.execMember (is.ctx m) (fun w => i.wf && w.declares vr sr && legal w) f) s1)

/-- An undecodable word executed: every executing lane of every member traps with cause 0x01 (R87, Table 3.15). -/
def State.execIllegal (s : State) : State :=
  match s.curIssue with
  | none => s
  | some is => is.members.foldl (fun s m => if m.2.isEmpty then s else s.illegal (is.ctx m)) s

/-- What a vector instruction writes in one lane: registers, predicates and flags. -/
structure LaneEff where
  regs : List (Nat × Word) := []
  preds : List (Nat × Bool) := []
  flags : Flags := 0
  deriving DecidableEq, Repr

/-- A lane's effect applied. -/
def Lane.apply (l : Lane) (e : LaneEff) : Lane :=
  e.preds.foldl (fun l p => l.setPred p.1 p.2) (e.regs.foldl (fun l p => l.writeV p.1 p.2) l)

/-- The effects of lanes computed from the wave as it stood, applied together (R10), their flags ORed into `fflags`. -/
def Wave.applyEffs (w : Wave) (ls : List Nat) (f : Nat → LaneEff) : Wave :=
  { w with
    lanes := mapIdx' (fun l x => if ls.contains l then x.apply (f l) else x) w.lanes
    fflags := ls.foldl (fun fl l => fl ||| (f l).flags) w.fflags }

/-- A vector instruction that reads and writes registers of its own lane only: `vr` are the vector registers it names, `sr` the scalar
ones. -/
def State.laneOp (s : State) (i : Instr) (g : BitVec 4) (vr sr : List Nat) (f : Wave → Nat → LaneEff) :
    Host.Outcome State Fault Refusal :=
  s.execWord i false vr sr (fun _ => true) (fun c w s =>
    let r := s.gates c w (fun l => vr.map (fun n => (l, n))) (c.t w g)
    r.2.modWave c.r (fun v => v.applyEffs r.1 (f w)))

/-- A home-scoped vector instruction: `needs` gives what each lane of T depends on (R141), and the effect sees T and the lanes that go
on. -/
def State.crossOp (s : State) (i : Instr) (g : BitVec 4) (vr sr : List Nat) (legal : Wave → Bool)
    (needs : Wave → List Nat → Nat → List (Nat × Nat)) (f : Wave → List Nat → List Nat → Wave → Wave) :
    Host.Outcome State Fault Refusal :=
  s.execWord i true vr sr legal (fun c w s =>
    let t := c.t w g
    let r := s.gates c w (needs w t) t
    r.2.modWave c.r (f w t r.1))

/-- A scalar-class instruction: it takes effect once for each home wave with T not empty (R137). -/
def State.scalarOp (s : State) (i : Instr) (g : BitVec 4) (sr : List Nat) (f : Wave → Wave) :
    Host.Outcome State Fault Refusal :=
  s.execWord i true [] sr (fun _ => true) (fun c w s => if (c.t w g).isEmpty then s else s.modWave c.r f)

end Sys2Proof.Machine
end

