-- ==== Sys2Proof/Machine/Unary.lean ====
section
/-! DEFINITION. The unary functions of `ftr` and `dtr` (R186, R187): exact results rounded once. Quotients and roots keep
a sticky low bit below more than sixty guard bits, so rounding the kept value rounds the exact one; the functions
exp2, log2, sin and cos are enclosed between two rationals that round alike. -/

namespace Sys2Proof.Machine

/-- The integer square root by bits: the greatest r with r*r <= n, given that r < 2^bits. -/
def isqrtBits : (bits : Nat) → (n r : Nat) → Nat
  | 0, _, r => r
  | k + 1, n, r => if (r + 2 ^ k) * (r + 2 ^ k) ≤ n then isqrtBits k n (r + 2 ^ k) else isqrtBits k n r

/-- The greatest r with r*r <= n. -/
def isqrt (n : Nat) : Nat := isqrtBits (bitLength n / 2 + 1) n 0

/-- A kept significand with a sticky bit below it. -/
def jam (neg : Bool) (m : Nat) (e : Int) (inexact : Bool) : Val :=
  .fin neg (2 * m + (if inexact then 1 else 0)) (e - 1)

/-- 1 / (m * 2^e), m > 0. -/
def recipVal (neg : Bool) (m : Nat) (e : Int) : Val :=
  let k : Nat := bitLength m + 80
  jam neg (2 ^ k / m) (-(k : Int) - e) (2 ^ k % m != 0)

/-- The significand and exponent with the exponent made even. -/
def evenExp (m : Nat) (e : Int) : Nat × Int := if e % 2 = 0 then (m, e) else (2 * m, e - 1)

/-- The square root of m * 2^e, m > 0. -/
def sqrtVal (m : Nat) (e : Int) : Val :=
  let p := evenExp m e
  let k : Nat := 80
  let n := p.1 * 2 ^ (2 * k)
  let r := isqrt n
  jam false r (p.2 / 2 - k) (r * r != n)

/-- 1 over the square root of m * 2^e, m > 0. -/
def rsqrtVal (m : Nat) (e : Int) : Val :=
  let p := evenExp m e
  let k : Nat := bitLength p.1 + 80
  let t := 2 ^ (2 * k) / p.1
  let r := isqrt t
  jam false r (-(p.2 / 2) - k) (!(r * r == t && t * p.1 == 2 ^ (2 * k)))

/-- floor(pi/2 * 2^512). -/
def piHalf512 : Nat := 0x1921fb54442d18469898cc51701b839a252049c1114cf98e804177d4c76273644a29410f31c6809bbdf2a33679a748636605614dbe4be286e9fc26adadaa3848b

/-- floor(ln 2 * 2^256). -/
def ln2At256 : Nat := 0xb17217f7d1cf79abc9e3b39803f2f6af40f343267298b62d8a0d175b8baafa2b

/-- Working precision of the series below, in fraction bits. -/
def serBits : Nat := 256

/-- The sum x^n/n! from the term `term` = x^(n-1)/(n-1)!, in fixed point. -/
def expSeries (x : Nat) : (fuel n : Nat) → (term acc : Nat) → Nat
  | 0, _, _, acc => acc
  | k + 1, n, term, acc =>
    let t := term * x / 2 ^ serBits / n
    expSeries x k (n + 1) t (acc + t)

/-- e^x for x in [0, 1), fixed point, within 2^8 units of the last place. -/
def expFix (x : Nat) : Nat := expSeries x 70 1 (2 ^ serBits) (2 ^ serBits)

/-- The alternating series of sine (first term x, n = 1) or cosine (first term 1, n = 0), in fixed point. -/
def trigSeries (x2 : Nat) : (fuel n : Nat) → (term : Nat) → (plus : Bool) → (pos negs : Nat) → Nat
  | 0, _, _, _, pos, negs => pos - negs
  | k + 1, n, term, plus, pos, negs =>
    let t := term * x2 / 2 ^ serBits / ((n + 1) * (n + 2))
    trigSeries x2 k (n + 2) t (!plus) (if plus then pos + t else pos) (if plus then negs else negs + t)

/-- sin x for x in [0, pi/2), fixed point. -/
def sinFix (x : Nat) : Nat := trigSeries (x * x / 2 ^ serBits) 40 1 x false x 0

/-- cos x for x in [0, pi/2), fixed point. -/
def cosFix (x : Nat) : Nat :=
  trigSeries (x * x / 2 ^ serBits) 40 0 (2 ^ serBits) false (2 ^ serBits) 0

/-- The sum of z^(2k+1)/(2k+1), the inverse hyperbolic tangent, in fixed point. -/
def atanhSeries (z2 : Nat) : (fuel n : Nat) → (pow acc : Nat) → Nat
  | 0, _, _, acc => acc
  | k + 1, n, pow, acc =>
    let p := pow * z2 / 2 ^ serBits
    atanhSeries z2 k (n + 2) p (acc + p / (n + 2))

/-- log2 of m / 2^(bits-1), in [0, 1), fixed point. -/
def log2Frac (m : Nat) : Nat :=
  let one := 2 ^ (bitLength m - 1)
  let z := (m - one) * 2 ^ serBits / (m + one)
  let ln := 2 * atanhSeries (z * z / 2 ^ serBits) 90 1 z z
  ln * 2 ^ serBits / ln2At256

/-- Error bound, in units of the last place, of the fixed-point series. -/
def serErr : Nat := 2 ^ 16

/-- A value of magnitude within `serErr` units of y * 2^e, rounded once by RNE (R186): every point of that enclosure rounds alike, since the
exact value is nearer to no rounding boundary than 2^-60 of itself for any operand of binary32 (DEDUCED, log entry 20), and the enclosure is
narrower than 2^-170 of it. -/
def roundEnclosed (f : Fmt) (neg : Bool) (y : Nat) (e : Int) (sat fo : Bool) : Nat × Flags :=
  roundTo f (jam neg (y - serErr) e true) .rne sat fo

/-- 2^A for a finite non-zero A = (-1)^s m 2^e. -/
def exp2Val (f : Fmt) (s : Bool) (m : Nat) (e : Int) (sat fo : Bool) : Nat × Flags :=
  let top : Int := (bitLength m : Int) + e
  if top > 12 then
    -- past every exponent of the format: a value above the largest finite one, or below half the smallest subnormal
    roundTo f (jam false 1 (if s then -4096 else 4096) true) .rne sat fo
  else if top < -60 then
    roundTo f (jam false (if s then 2 ^ 120 - 1 else 2 ^ 120) (-120) true) .rne sat fo
  else
    let fx : Nat := if 0 ≤ e then m * 2 ^ (e.toNat + serBits) else m * 2 ^ serBits / 2 ^ (-e).toNat
    let x : Int := if s then -(fx : Int) else fx
    let n := x / (2 ^ serBits : Nat)
    let frac := (x % (2 ^ serBits : Nat)).toNat
    if frac = 0 then roundTo f (.fin false 1 n) .rne sat fo
    else
      let y := expFix (frac * ln2At256 / 2 ^ serBits)
      roundEnclosed f false y (n - serBits) sat fo

/-- log2 of a positive finite A = m 2^e; inexact is raised for every operand but 1 (R187). -/
def log2Val (f : Fmt) (m : Nat) (e : Int) (sat fo : Bool) : Nat × Flags :=
  let ex : Int := e + bitLength m - 1
  if m = 2 ^ (bitLength m - 1) then
    let r := roundTo f (Val.ofInt ex) .rne sat fo
    (r.1, r.2 ||| flagIf (ex != 0) flInexact)
  else
    let y : Int := ex * (2 ^ serBits : Nat) + log2Frac m
    roundEnclosed f (decide (y < 0)) y.natAbs (-(serBits : Int)) sat fo

/-- sin A (isSin) or cos A for a finite non-zero A, with exact argument reduction. -/
def sinCosVal (f : Fmt) (isSin s : Bool) (m : Nat) (e : Int) (sat fo : Bool) : Nat × Flags :=
  let top : Int := (bitLength m : Int) + e
  if top < -60 then
    if isSin then roundTo f (jam s (m * 2 ^ 80 - 1) (e - 80) true) .rne sat fo
    else roundTo f (jam false (2 ^ 120 - 1) (-120) true) .rne sat fo
  else
    let big : Nat := if 0 ≤ e then m * 2 ^ (e.toNat + 512) else m * 2 ^ 512 / 2 ^ (-e).toNat
    let q := big / piHalf512
    let r := big % piHalf512 / 2 ^ 256
    let quad := q % 4
    let useSin := (quad % 2 == 0) == isSin
    let y := if useSin then sinFix r else cosFix r
    let flip := if isSin then 2 ≤ quad else (quad == 1 || quad == 2)
    let neg := flip != (isSin && s)
    roundEnclosed f neg y (-(serBits : Int)) sat fo

/-- The unary selectors that `dtr` admits (R79). -/
def dtrSelector (sel : Nat) : Bool := sel ≤ 13 && !(3 ≤ sel && sel ≤ 6)

/-- `ftr` and `dtr` on a source code (R186, R187, Tables 8.3 and 8.4). The special operands give the table's results
whatever sat holds. A zero that floor, ceil, trunc or rint makes of a non-zero operand has the operand's sign, as IEEE 754 gives: the tables
state none (PRESUMED, log entry 74). -/
def unaryOp (f : Fmt) (sel : Nat) (fi fo sat : Bool) (mode : Rnd) (code : Nat) : Nat × Flags :=
  let infCode (neg : Bool) : Nat := overflowCode f neg false true
  let zeroCode (neg : Bool) : Nat := withSign f neg 0
  let nanInv : Nat × Flags := (canonNaN f, flInvalid)
  let one : Nat := (roundTo f (.fin false 1 0) .rne false false).1
  match readVal f fi code with
  | .nan s => (canonNaN f, flagIf s flInvalid)
  | .inf s =>
    match sel with
    | 0 => (zeroCode s, flNone)
    | 1 => if s then nanInv else (zeroCode false, flNone)
    | 2 | 4 => if s then nanInv else (infCode false, flNone)
    | 3 => if s then (zeroCode false, flNone) else (infCode false, flNone)
    | 5 | 6 | 13 => nanInv
    | 7 => (infCode false, flNone)
    | 8 => (infCode (!s), flNone)
    | _ => (infCode s, flNone)
  | .fin s m e =>
    if m = 0 then
      match sel with
      | 0 | 1 => (infCode s, flDivZero)
      | 4 => (infCode true, flDivZero)
      | 3 | 6 => (one, flNone)
      | 7 | 13 => (zeroCode false, flNone)
      | 8 => (zeroCode (!s), flNone)
      | _ => (zeroCode s, flNone)
    else
      match sel with
      | 0 => roundTo f (recipVal s m e) mode sat fo
      | 1 => if s then nanInv else roundTo f (rsqrtVal m e) mode sat fo
      | 2 => if s then nanInv else roundTo f (sqrtVal m e) mode sat fo
      | 3 => exp2Val f s m e sat fo
      | 4 => if s then nanInv else log2Val f m e sat fo
      | 5 => sinCosVal f true s m e sat fo
      | 6 => sinCosVal f false s m e sat fo
      | 7 => roundTo f (.fin false m e) mode sat fo
      | 8 => roundTo f (.fin (!s) m e) mode sat fo
      | 9 => ((roundTo f (.fin s (integral .rd s m e).1 0) mode sat fo).1, flNone)
      | 10 => ((roundTo f (.fin s (integral .ru s m e).1 0) mode sat fo).1, flNone)
      | 11 => ((roundTo f (.fin s (integral .rz s m e).1 0) mode sat fo).1, flNone)
      | 12 => ((roundTo f (.fin s (integral mode s m e).1 0) mode sat fo).1, flNone)
      | _ =>
        let fl := (integral .rd s m e).1
        let d := (Val.fin s m e).add false (.fin (!s) fl 0)
        if d.1.isZero then (zeroCode false, flNone) else roundTo f d.1 mode sat fo

end Sys2Proof.Machine
end

