-- ==== Sys2Proof/Machine/AluFloat.lean ====
section
/-! DEFINITION. Floating-point arithmetic, comparison and unary instructions of the lanes (R179 to R187). -/

namespace Sys2Proof.Machine

/-- The m bits of the floating forms (R75): fi in bit 2, fo in bit 1, sat, or the maximum, in bit 0. -/
def mFi (m : BitVec 3) : Bool := bitOf m.toNat 2
def mFo (m : BitVec 3) : Bool := bitOf m.toNat 1
def mSat (m : BitVec 3) : Bool := bitOf m.toNat 0

/-- The rounding of a wave's MODE register (Table 3.14). -/
def Wave.rnd (w : Wave) : Rnd := roundOfMode w.round

/-- An exact operation on the two flushed sources, rounded once (R179). -/
def arith2 (f : Fmt) (mode : Rnd) (m : BitVec 3) (op : Val → Val → Val × Bool) (a b : Nat) : Nat × Flags :=
  roundResult f (op (readVal f (mFi m) a) (readVal f (mFi m) b)) mode (mSat m) (mFo m)

/-- A fused multiply-add on the three flushed sources, rounded once (R169, R182). -/
def arith3 (f : Fmt) (mode : Rnd) (m : BitVec 3) (a b d : Nat) : Nat × Flags :=
  roundResult f (Val.fma (zeroSign mode) (readVal f (mFi m) a) (readVal f (mFi m) b) (readVal f (mFi m) d)) mode (mSat m) (mFo m)

/-- The lesser or greater of the two flushed sources (R182, R183). -/
def arithMinMax (f : Fmt) (isMax : Bool) (m : BitVec 3) (a b : Nat) : Nat × Flags :=
  minMax f isMax (mFo m) (flushIn f (mFi m) a) (flushIn f (mFi m) b)

/-- The exact sum, difference and product as operations of `arith2` (R181). -/
def addOp (mode : Rnd) (a b : Val) : Val × Bool := a.add (zeroSign mode) b
def subOp (mode : Rnd) (a b : Val) : Val × Bool := a.add (zeroSign mode) b.neg
def mulOp (a b : Val) : Val × Bool := a.mul b

/-- The two halves of a packed operation, each on its own, with the flags of both (R184). -/
def packed2 (op : Nat → Nat → Nat × Flags) (a b : Nat) : Nat × Flags :=
  let lo := op (bitsOf a 0 16) (bitsOf b 0 16)
  let hi := op (bitsOf a 16 16) (bitsOf b 16 16)
  (lo.1 + 65536 * hi.1, lo.2 ||| hi.2)

/-- The two halves of a packed fused operation (R184). -/
def packed3 (op : Nat → Nat → Nat → Nat × Flags) (a b d : Nat) : Nat × Flags :=
  let lo := op (bitsOf a 0 16) (bitsOf b 0 16) (bitsOf d 0 16)
  let hi := op (bitsOf a 16 16) (bitsOf b 16 16) (bitsOf d 16 16)
  (lo.1 + 65536 * hi.1, lo.2 ||| hi.2)

/-- A 32-bit result with its flags, written to v d. -/
def eff32 (d : BitVec 6) (r : Nat × Flags) : LaneEff := { regs := [(d.toNat, lo32 r.1)], flags := r.2 }

/-- A 64-bit result with its flags, written to the pair of v d (R180). -/
def eff64 (d : BitVec 6) (r : Nat × Flags) : LaneEff :=
  { regs := [(d.toNat, lo32 r.1), (d.toNat + 1, hi32 r.1)], flags := r.2 }

/-- The vector registers of a three-operand form in one-register and pair forms. -/
def vregs3 (d b : BitVec 6) (a : BitVec 7) : List Nat := d.toNat :: b.toNat :: aVec a false
def vpairs3 (d b : BitVec 6) (a : BitVec 7) : List Nat :=
  [d.toNat, d.toNat + 1, b.toNat, b.toNat + 1] ++ aVec a true

/-- An FP32 operation of A and B (R182). -/
def State.f32Op (s : State) (i : Instr) (d b : BitVec 6) (a : BitVec 7) (g : BitVec 4)
    (op : Wave → Nat → Nat → Nat → Nat × Flags) : Host.Outcome State Fault Refusal :=
  s.laneOp i g (vregs3 d b a) (aScal a false)
    (fun w l => eff32 d (op w (w.opA l a).toNat (w.reg l b.toNat).toNat (w.reg l d.toNat).toNat))

/-- An FP64 operation of A and B on pairs (R183). -/
def State.f64Op (s : State) (i : Instr) (d b : BitVec 6) (a : BitVec 7) (g : BitVec 4)
    (op : Wave → Nat → Nat → Nat → Nat × Flags) : Host.Outcome State Fault Refusal :=
  s.laneOp i g (vpairs3 d b a) (aScal a true)
    (fun w l => eff64 d (op w (w.opAD l a) (w.reg64 l b.toNat) (w.reg64 l d.toNat)))

/-- A packed operation of A and B in a 16-bit format (R184). -/
def State.f16Op (s : State) (f : Fmt) (i : Instr) (d b : BitVec 6) (a : BitVec 7) (g : BitVec 4)
    (op : Wave → Nat → Nat → Nat → Nat × Flags) : Host.Outcome State Fault Refusal :=
  s.laneOp i g (vregs3 d b a) (aScal a false)
    (fun w l => eff32 d (op w (w.opAH f l a) (w.reg l b.toNat).toNat (w.reg l d.toNat).toNat))

/-- `fadd` (R182). -/
def execFadd (d : BitVec 6) (a : BitVec 7) (b : BitVec 6) (m : BitVec 3) (g : BitVec 4) (s : State) : Host.Outcome State Fault Refusal :=
  s.f32Op (.fadd d a b m g) d b a g (fun w x y _ => arith2 fp32 w.rnd m (addOp w.rnd) x y)

/-- `fsub` (R182). -/
def execFsub (d : BitVec 6) (a : BitVec 7) (b : BitVec 6) (m : BitVec 3) (g : BitVec 4) (s : State) : Host.Outcome State Fault Refusal :=
  s.f32Op (.fsub d a b m g) d b a g (fun w x y _ => arith2 fp32 w.rnd m (subOp w.rnd) x y)

/-- `fmul` (R182). -/
def execFmul (d : BitVec 6) (a : BitVec 7) (b : BitVec 6) (m : BitVec 3) (g : BitVec 4) (s : State) : Host.Outcome State Fault Refusal :=
  s.f32Op (.fmul d a b m g) d b a g (fun w x y _ => arith2 fp32 w.rnd m mulOp x y)

/-- `ffma` (R182). -/
def execFfma (d : BitVec 6) (a : BitVec 7) (b : BitVec 6) (m : BitVec 3) (g : BitVec 4) (s : State) : Host.Outcome State Fault Refusal :=
  s.f32Op (.ffma d a b m g) d b a g (fun w x y z => arith3 fp32 w.rnd m x y z)

/-- `fmin` (R182). -/
def execFmin (d : BitVec 6) (a : BitVec 7) (b : BitVec 6) (m : BitVec 3) (g : BitVec 4) (s : State) : Host.Outcome State Fault Refusal :=
  s.f32Op (.fmin d a b m g) d b a g (fun _ x y _ => arithMinMax fp32 false m x y)

/-- `fmax` (R182). -/
def execFmax (d : BitVec 6) (a : BitVec 7) (b : BitVec 6) (m : BitVec 3) (g : BitVec 4) (s : State) : Host.Outcome State Fault Refusal :=
  s.f32Op (.fmax d a b m g) d b a g (fun _ x y _ => arithMinMax fp32 true m x y)

/-- `ftr` (R186, R187). -/
def execFtr (d : BitVec 6) (a : BitVec 7) (s : BitVec 6) (m : BitVec 3) (g : BitVec 4) (sx : State) : Host.Outcome State Fault Refusal :=
  sx.laneOp (.ftr d a s m g) g (d.toNat :: aVec a false) (aScal a false)
    (fun w l => eff32 d (unaryOp fp32 s.toNat (mFi m) (mFo m) (mSat m) w.rnd (w.opA l a).toNat))

/-- `fcmp` (R185). -/
def execFcmp (p : BitVec 6) (a : BitVec 7) (b : BitVec 6) (c : BitVec 3) (g : BitVec 4) (s : State) : Host.Outcome State Fault Refusal :=
  s.laneOp (.fcmp p a b c g) g (b.toNat :: aVec a false) (aScal a false) (fun w l =>
    let r := floatCond fp32 c.toNat (w.opA l a).toNat (w.reg l b.toNat).toNat
    { preds := [(p.toNat, r.1)], flags := r.2 })

/-- `dadd` (R183). -/
def execDadd (d : BitVec 6) (a : BitVec 7) (b : BitVec 6) (m : BitVec 3) (g : BitVec 4) (s : State) : Host.Outcome State Fault Refusal :=
  s.f64Op (.dadd d a b m g) d b a g (fun w x y _ => arith2 fp64 w.rnd m (addOp w.rnd) x y)

/-- `dmul` (R183). -/
def execDmul (d : BitVec 6) (a : BitVec 7) (b : BitVec 6) (m : BitVec 3) (g : BitVec 4) (s : State) : Host.Outcome State Fault Refusal :=
  s.f64Op (.dmul d a b m g) d b a g (fun w x y _ => arith2 fp64 w.rnd m mulOp x y)

/-- `dfma` (R183). -/
def execDfma (d : BitVec 6) (a : BitVec 7) (b : BitVec 6) (m : BitVec 3) (g : BitVec 4) (s : State) : Host.Outcome State Fault Refusal :=
  s.f64Op (.dfma d a b m g) d b a g (fun w x y z => arith3 fp64 w.rnd m x y z)

/-- `dmnx` (R183): the maximum when m[4] is 1. -/
def execDmnx (d : BitVec 6) (a : BitVec 7) (b : BitVec 6) (m : BitVec 3) (g : BitVec 4) (s : State) : Host.Outcome State Fault Refusal :=
  s.f64Op (.dmnx d a b m g) d b a g (fun _ x y _ => arithMinMax fp64 (mSat m) m x y)

/-- `dtr` (R186, R187). -/
def execDtr (d : BitVec 6) (a : BitVec 7) (s : BitVec 6) (m : BitVec 3) (g : BitVec 4) (sx : State) : Host.Outcome State Fault Refusal :=
  sx.laneOp (.dtr d a s m g) g ([d.toNat, d.toNat + 1] ++ aVec a true) (aScal a true)
    (fun w l => eff64 d (unaryOp fp64 s.toNat (mFi m) (mFo m) (mSat m) w.rnd (w.opAD l a)))

/-- `dcmp` (R185). -/
def execDcmp (p : BitVec 6) (a : BitVec 7) (b : BitVec 6) (c : BitVec 3) (g : BitVec 4) (s : State) : Host.Outcome State Fault Refusal :=
  s.laneOp (.dcmp p a b c g) g ([b.toNat, b.toNat + 1] ++ aVec a true) (aScal a true) (fun w l =>
    let r := floatCond fp64 c.toNat (w.opAD l a) (w.reg64 l b.toNat)
    { preds := [(p.toNat, r.1)], flags := r.2 })

/-- `hadd2` (R184). -/
def execHadd2 (d : BitVec 6) (a : BitVec 7) (b : BitVec 6) (m : BitVec 3) (g : BitVec 4) (s : State) : Host.Outcome State Fault Refusal :=
  s.f16Op fp16 (.hadd2 d a b m g) d b a g (fun w x y _ => packed2 (arith2 fp16 w.rnd m (addOp w.rnd)) x y)

/-- `hmul2` (R184). -/
def execHmul2 (d : BitVec 6) (a : BitVec 7) (b : BitVec 6) (m : BitVec 3) (g : BitVec 4) (s : State) : Host.Outcome State Fault Refusal :=
  s.f16Op fp16 (.hmul2 d a b m g) d b a g (fun w x y _ => packed2 (arith2 fp16 w.rnd m mulOp) x y)

/-- `hfma2` (R184). -/
def execHfma2 (d : BitVec 6) (a : BitVec 7) (b : BitVec 6) (m : BitVec 3) (g : BitVec 4) (s : State) : Host.Outcome State Fault Refusal :=
  s.f16Op fp16 (.hfma2 d a b m g) d b a g (fun w x y z => packed3 (arith3 fp16 w.rnd m) x y z)

/-- `badd2` (R184). -/
def execBadd2 (d : BitVec 6) (a : BitVec 7) (b : BitVec 6) (m : BitVec 3) (g : BitVec 4) (s : State) : Host.Outcome State Fault Refusal :=
  s.f16Op bf16 (.badd2 d a b m g) d b a g (fun w x y _ => packed2 (arith2 bf16 w.rnd m (addOp w.rnd)) x y)

/-- `bmul2` (R184). -/
def execBmul2 (d : BitVec 6) (a : BitVec 7) (b : BitVec 6) (m : BitVec 3) (g : BitVec 4) (s : State) : Host.Outcome State Fault Refusal :=
  s.f16Op bf16 (.bmul2 d a b m g) d b a g (fun w x y _ => packed2 (arith2 bf16 w.rnd m mulOp) x y)

/-- `bfma2` (R184). -/
def execBfma2 (d : BitVec 6) (a : BitVec 7) (b : BitVec 6) (m : BitVec 3) (g : BitVec 4) (s : State) : Host.Outcome State Fault Refusal :=
  s.f16Op bf16 (.bfma2 d a b m g) d b a g (fun w x y z => packed3 (arith3 bf16 w.rnd m) x y z)

/-- `hmnx2` (R184): the maximum when m[4] is 1. -/
def execHmnx2 (d : BitVec 6) (a : BitVec 7) (b : BitVec 6) (m : BitVec 3) (g : BitVec 4) (s : State) : Host.Outcome State Fault Refusal :=
  s.f16Op fp16 (.hmnx2 d a b m g) d b a g (fun _ x y _ => packed2 (arithMinMax fp16 (mSat m) m) x y)

/-- The comparison of two packed pairs: pd from the low halves, pd + 1 from the high ones (R185). -/
def State.f16Cmp (s : State) (f : Fmt) (i : Instr) (p b : BitVec 6) (a : BitVec 7) (c : BitVec 3) (g : BitVec 4) :
    Host.Outcome State Fault Refusal :=
  s.laneOp i g (b.toNat :: aVec a false) (aScal a false) (fun w l =>
    let x := w.opAH f l a
    let y := (w.reg l b.toNat).toNat
    let lo := floatCond f c.toNat (bitsOf x 0 16) (bitsOf y 0 16)
    let hi := floatCond f c.toNat (bitsOf x 16 16) (bitsOf y 16 16)
    { preds := [(p.toNat, lo.1), (p.toNat + 1, hi.1)], flags := lo.2 ||| hi.2 })

/-- `hcmp2` (R185). -/
def execHcmp2 (p : BitVec 6) (a : BitVec 7) (b : BitVec 6) (c : BitVec 3) (g : BitVec 4) (s : State) : Host.Outcome State Fault Refusal :=
  s.f16Cmp fp16 (.hcmp2 p a b c g) p b a c g

/-- `bcmp2` (R185). -/
def execBcmp2 (p : BitVec 6) (a : BitVec 7) (b : BitVec 6) (c : BitVec 3) (g : BitVec 4) (s : State) : Host.Outcome State Fault Refusal :=
  s.f16Cmp bf16 (.bcmp2 p a b c g) p b a c g

end Sys2Proof.Machine
end

