-- ==== Sys2Proof/Machine/AluConvert.lean ====
section
/-! DEFINITION. Conversions and the block-scaled instructions of the lanes (R188 to R199). -/

namespace Sys2Proof.Machine

/-- A value converted to a format and rounded; a signalling NaN raises invalid (R168, R189). -/
def convertTo (f : Fmt) (v : Val) (mode : Rnd) (sat fo : Bool) : Nat × Flags := roundResult f (v, v.isSNaN) mode sat fo

/-- The high half of a register as an SR threshold (R188). -/
def Wave.threshold (w : Wave) (l r : Nat) : Nat := bitsOf (w.reg l r).toNat 16 16

/-- The registers that SR reads beside a source (R188). -/
def srReg (r : BitVec 2) (n : Nat) : List Nat := if r.toNat = 2 then [n] else []

/-- `cvtf` (R189). -/
def execCvtf (d : BitVec 6) (a : BitVec 7) (t : BitVec 3) (r : BitVec 2) (i o s h : BitVec 1) (g : BitVec 4) (sx : State) :
    Host.Outcome State Fault Refusal :=
  sx.laneOp (.cvtf d a t r i o s h g) g (d.toNat :: aVec a false ++ srReg r (a.toNat + 1)) (aScal a false) (fun w l =>
    let f := convFmt t.toNat
    let y := convertTo f (readVal fp32 (i == 1) (w.opA l a).toNat) (roundOfField r.toNat (w.threshold l (a.toNat + 1))) (s == 1) (o == 1)
    if t.toNat ≤ 1 then eff32 d (setBits (w.reg l d.toNat).toNat (16 * h.toNat) 16 y.1, y.2) else eff32 d y)

/-- The code in a slot of a word (Tables 8.6 and 8.10): a half, a byte, six bits of a byte, or a nibble. -/
def slotCode (f : Fmt) (x slot : Nat) : Nat :=
  if f.width = 16 then bitsOf x (16 * slot) 16 else if f.width = 4 then bitsOf x (4 * slot) 4 else bitsOf x (8 * slot) f.width

/-- `cvtn` (R190). -/
def execCvtn (d : BitVec 6) (a : BitVec 7) (s l : BitVec 3) (i f : BitVec 1) (g : BitVec 4) (sx : State) :
    Host.Outcome State Fault Refusal :=
  sx.laneOp (.cvtn d a s l i f g) g (d.toNat :: aVec a false) [] (fun w n =>
    let fm := convFmt s.toNat
    eff32 d (convertTo fp32 (readVal fm (i == 1) (slotCode fm (w.opA n a).toNat l.toNat)) .rne false (f == 1)))

/-- A 32-bit or 64-bit register read as a signed or natural integer. -/
def intRead (signed : Bool) (n x : Nat) : Int := if signed then signExt x n else (x % 2 ^ n : Nat)

/-- The rule of `cvti.f2i` for a target of `n` bits (R191): the result's bits and the flags. -/
def floatToInt (signed : Bool) (n : Nat) (v : Val) (mode : Rnd) (sat : Bool) : Nat × Flags :=
  let lo : Int := if signed then -(2 ^ (n - 1) : Nat) else 0
  let hi : Int := if signed then (2 ^ (n - 1) : Nat) - 1 else (2 ^ n : Nat) - 1
  let r := toInteger v mode sat lo hi (2 ^ (n - 1) : Nat)
  (natOfInt r.1 n, r.2)

/-- `cvti` (R191). -/
def execCvti (d : BitVec 6) (a : BitVec 7) (v n : BitVec 1) (r : BitVec 2) (i s : BitVec 1) (g : BitVec 4) (sx : State) :
    Host.Outcome State Fault Refusal :=
  sx.laneOp (.cvti d a v n r i s g) g (d.toNat :: aVec a false) (aScal a false) (fun w l =>
    let x := (w.opA l a).toNat
    let mode := roundOfField r.toNat 0
    if v = 0 then eff32 d (roundTo fp32 (Val.ofInt (intRead (n == 1) 32 x)) mode false false)
    else eff32 d (floatToInt (n == 1) 32 (readVal fp32 (i == 1) x) mode (s == 1)))

/-- Whether an op of `cvtd` reads a 64-bit source, and writes a 64-bit result (Table 8.8). -/
def cvtdWideIn (o : BitVec 3) : Bool := o.toNat == 1 || 4 ≤ o.toNat
def cvtdWideOut (o : BitVec 3) : Bool := o.toNat == 0 || o.toNat == 2 || o.toNat == 3 || 6 ≤ o.toNat

/-- The result of `cvtd` in one lane (R192): `.s2d`, `.i2d` and `.n2d` are exact. -/
def cvtdResult (w : Wave) (l : Nat) (a : BitVec 7) (o : BitVec 3) (mode : Rnd) (fi fo sat : Bool) : Nat × Flags :=
  match o.toNat with
  | 0 => convertTo fp64 (readVal fp32 fi (w.opA l a).toNat) .rne false false
  | 1 => convertTo fp32 (readVal fp64 fi (w.opAD l a)) mode sat fo
  | 2 => roundTo fp64 (Val.ofInt (intRead true 32 (w.opA l a).toNat)) .rne false false
  | 3 => roundTo fp64 (Val.ofInt (intRead false 32 (w.opA l a).toNat)) .rne false false
  | 4 => floatToInt true 32 (readVal fp64 fi (w.opAD l a)) mode sat
  | 5 => floatToInt false 32 (readVal fp64 fi (w.opAD l a)) mode sat
  | 6 => roundTo fp64 (Val.ofInt (intRead true 64 (w.opA64 l a))) mode false false
  | _ => floatToInt true 64 (readVal fp64 fi (w.opAD l a)) mode sat

/-- `cvtd` (R192). -/
def execCvtd (d : BitVec 6) (a : BitVec 7) (o : BitVec 3) (r : BitVec 2) (i f s : BitVec 1) (g : BitVec 4) (sx : State) :
    Host.Outcome State Fault Refusal :=
  sx.laneOp (.cvtd d a o r i f s g) g ((if cvtdWideOut o then [d.toNat, d.toNat + 1] else [d.toNat]) ++ aVec a (cvtdWideIn o))
    (aScal a (cvtdWideIn o)) (fun w l =>
    let y := cvtdResult w l a o (roundOfField r.toNat 0) (i == 1) (f == 1) (s == 1)
    if cvtdWideOut o then eff64 d y else eff32 d y)

/-- The lanes of a `bamax` group (Table 8.9). -/
def groupLanes (k : BitVec 2) : Nat :=
  match k.toNat with
  | 0 => 8
  | 1 => 16
  | 2 => 32
  | _ => 4

/-- The elements that one lane gives `bamax` (R195). -/
def Wave.bamaxValues (w : Wave) (l : Nat) (a : BitVec 7) (input : BitVec 2) (fi : Bool) : List Val :=
  let x := (w.opA l a).toNat
  match input.toNat with
  | 0 => [readVal fp32 fi x]
  | 1 => [readVal fp16 fi (bitsOf x 0 16), readVal fp16 fi (bitsOf x 16 16)]
  | _ => [readVal bf16 fi (bitsOf x 0 16), readVal bf16 fi (bitsOf x 16 16)]

/-- The largest magnitude of a group as FP32, and the flags (R195). -/
def largestMag (vs : List Val) : Nat × Flags :=
  let inv := flagIf (vs.any Val.isSNaN) flInvalid
  if vs.any Val.isNaN then (canonNaN fp32, inv)
  else (((roundTo fp32 (vs.foldl maxMag (.fin false 0 0)) .rne false false).1), inv)

/-- The lanes of T that stand in the same aligned group of `n` lanes as lane l. -/
def groupOfLane (ts : List Nat) (n l : Nat) : List Nat := ts.filter (fun m => m / n == l / n)

/-- `bamax` (R195). -/
def execBamax (d : BitVec 6) (a : BitVec 7) (k i : BitVec 2) (f : BitVec 1) (g : BitVec 4) (s : State) :
    Host.Outcome State Fault Refusal :=
  s.crossOp (.bamax d a k i f g) g [d.toNat, a.toNat] [] (fun w => decide (groupLanes k ≤ w.width))
    (fun _ ts l => (l, d.toNat) :: (groupOfLane ts (groupLanes k) l).map (fun m => (m, a.toNat)))
    (fun w ts go v => v.applyEffs go (fun l =>
      eff32 d (largestMag ((groupOfLane ts (groupLanes k) l).flatMap (fun m => w.bamaxValues m a i (f == 1))))))

/-- The lane that supplies a block-wide value: the lowest lane of the block in T (R194). -/
def supplier (ts : List Nat) (n l : Nat) : Nat := minList l (groupOfLane ts n l)

/-- The octet lanes that a writer of a block's rail slots treats as destinations (R193). -/
def octetDests (four : Bool) (kc d l : Nat) : List (Nat × Nat) :=
  let p := blockSlots four kc l
  (p.1 ++ p.2).map (fun x => (8 * x.1, d))

/-- The scale code and the factor that `bscale` chooses for a magnitude (R196). -/
def chooseScale (f : Fmt) (ceil : Bool) (v : Val) : Nat × Nat :=
  let one := pow2fp32 0
  match v.abs with
  | .fin _ m e =>
    if m = 0 then (0, one)
    else
      let x := scaleExp f ceil m e
      ((x + 127).toNat, pow2fp32 (-x))
  | _ => (0xFF, one)

/-- `bscale` (R196). -/
def execBscale (d : BitVec 6) (a : BitVec 7) (f : BitVec 3) (k : BitVec 2) (l : BitVec 1) (g : BitVec 4) (s : State) :
    Host.Outcome State Fault Refusal :=
  let four := f.toNat == 4
  let n := blockLanes four k.toNat
  s.crossOp (.bscale d a f k l g) g (d.toNat :: aVec a false) (aScal a false) (fun w => decide (n ≤ w.width))
    (fun _ ts x => (x, d.toNat) :: (aVec a false).map (fun r => (supplier ts n x, r)) ++ octetDests four k.toNat d.toNat x)
    (fun w ts go v =>
      let choice (x : Nat) : Nat × Nat :=
        chooseScale (blockFmt f.toNat) (l == 1) (decodeFmt fp32 (w.opA (supplier ts n x) a).toNat)
      let v1 := go.foldl (fun v x => v.setBlockScale four k.toNat d.toNat x (choice x).1) v
      v1.applyEffs go (fun x => eff32 d ((choice x).2, flNone)))

/-- One element as `mxpk` writes it (R197): a zero result is code 0x00, and so is a NaN or infinite source. -/
def packElement (f : Fmt) (sat fi fo : Bool) (mode : Rnd) (x : Nat) : Nat × Flags :=
  match readVal fp32 fi x with
  | .nan s => (0, flagIf s flInvalid)
  | .inf _ => (0, flInvalid)
  | v =>
    let r := roundTo f v mode sat fo
    (if (decodeFmt f r.1).isZero then 0 else r.1, r.2)

/-- `mxpk` (R197). -/
def execMxpk (d : BitVec 6) (a : BitVec 7) (f : BitVec 3) (j r : BitVec 2) (i o : BitVec 1) (g : BitVec 4) (s : State) :
    Host.Outcome State Fault Refusal :=
  let four := f.toNat == 6
  let n := if four then a.toNat + 2 else a.toNat + 1
  s.laneOp (.mxpk d a f j r i o g) g (d.toNat :: a.toNat :: (if four then [a.toNat + 1] else []) ++ srReg r n) [] (fun w l =>
    let p := packFmt f.toNat
    let el (reg thr : Nat) : Nat × Flags :=
      packElement p.1 p.2 (i == 1) (o == 1) (roundOfField r.toNat thr) (w.reg l reg).toNat
    let t := (w.reg l n).toNat
    let e0 := el a.toNat (bitsOf t 16 16)
    let e1 := el (a.toNat + 1) (bitsOf t 0 16)
    let byte : Nat × Flags := if four then (e0.1 + 16 * e1.1, e0.2 ||| e1.2) else e0
    eff32 d (setBits (w.reg l d.toNat).toNat (8 * j.toNat) 8 byte.1, byte.2))

/-- An element under its scale as `mxup` writes it (R198): exact, or ± the largest finite value. Under the scale code 0xFF a signalling NaN
element raises no flag: R198 speaks of it for the other codes (DEDUCED, log entry 73). -/
def unpackElement (f : Fmt) (fi : Bool) (scale code : Nat) : Nat × Flags :=
  if scale = 0xFF then (canonNaN fp32, flNone)
  else
    match readVal f fi code with
    | .nan s => (canonNaN fp32, flagIf s flInvalid)
    | .inf s => (overflowCode fp32 s false true, flNone)
    | v => roundTo fp32 (v.scale ((scale : Int) - 127)) .rne true false

/-- `mxup` (R198). -/
def execMxup (d : BitVec 6) (a : BitVec 7) (f : BitVec 3) (k : BitVec 2) (s : BitVec 3) (i : BitVec 1) (g : BitVec 4) (sx : State) :
    Host.Outcome State Fault Refusal :=
  let four := f.toNat == 4
  let fm := blockFmt f.toNat
  sx.execWord (.mxup d a f k s i g) false [d.toNat, a.toNat] [] (fun w => decide (blockLanes four k.toNat ≤ w.width)) (fun c w st =>
    let r := st.gates c w (fun l => [(l, d.toNat), (l, a.toNat), (8 * (leadSlot four k.toNat l).1, a.toNat)]) (c.t w g)
    r.2.modWave c.r (fun v => v.applyEffs r.1 (fun l =>
      eff32 d (unpackElement fm (i == 1) (w.blockScale four k.toNat a.toNat l) (slotCode fm (w.opA l a).toNat s.toNat)))))

/-- What a lane of `rail` depends on (R193, R199). -/
def railNeeds (d : BitVec 6) (a : BitVec 7) (o : BitVec 3) (four : Bool) (kc : Nat) (ts : List Nat) (l : Nat) : List (Nat × Nat) :=
  match o.toNat with
  | 0 | 1 => [(l, d.toNat), (8 * (leadSlot four kc l).1, a.toNat)]
  | 2 => (aVec a false).map (fun r => (supplier ts (blockLanes four kc) l, r)) ++ octetDests four kc d.toNat l
  | 3 => [(l / 8 * 8, a.toNat), (l / 8 * 8, d.toNat)]
  | _ => [(l / 8 * 8, d.toNat)]

/-- The factor of a scale code (R199). -/
def railFactor (e : Nat) : Nat := if e = 0xFF then canonNaN fp32 else pow2fp32 ((e : Int) - 127)

/-- The effect of `rail` on the lanes that go on; source rails are read before rails are written (R199). -/
def Wave.railEffect (w : Wave) (d : BitVec 6) (a : BitVec 7) (o : BitVec 3) (four : Bool) (kc : Nat) (ts go : List Nat)
    (v : Wave) : Wave :=
  match o.toNat with
  | 0 => v.applyEffs go (fun l => eff32 d (w.blockScale four kc a.toNat l, flNone))
  | 1 => v.applyEffs go (fun l => eff32 d (railFactor (w.blockScale four kc a.toNat l), flNone))
  | 2 => go.foldl (fun v l =>
      v.setBlockScale four kc d.toNat l (bitsOf (w.opA (supplier ts (blockLanes four kc) l) a).toNat 0 8)) v
  | 3 => go.foldl (fun v l => (v.setRailSlot d.toNat (l / 8) 0 (w.railSlot a.toNat (l / 8) 0)).setRailSlot d.toNat (l / 8) 1
      (w.railSlot a.toNat (l / 8) 1)) v
  | _ => go.foldl (fun v l => (v.setRailSlot d.toNat (l / 8) 0 0).setRailSlot d.toNat (l / 8) 1 0) v

/-- `rail` (R199). -/
def execRail (d : BitVec 6) (a : BitVec 7) (o : BitVec 3) (l : BitVec 1) (k : BitVec 2) (g : BitVec 4) (s : State) :
    Host.Outcome State Fault Refusal :=
  s.crossOp (.rail d a o l k g) g (d.toNat :: (if o.toNat = 4 then [] else aVec a false)) (aScal a false)
    (fun w => decide (3 ≤ o.toNat) || decide (blockLanes (l == 1) k.toNat ≤ w.width))
    (fun _ ts x => railNeeds d a o (l == 1) k.toNat ts x)
    (fun w ts go v => w.railEffect d a o (l == 1) k.toNat ts go v)

end Sys2Proof.Machine
end

