-- ==== Sys2Proof/Machine/AluInt.lean ====
section
/-! DEFINITION. Integer vector instructions, moves and predicate logic (R128 to R136, R140, R151). -/

namespace Sys2Proof.Machine

/-- A word as a signed or natural integer (R130). -/
def readWord (signed : Bool) (x : Word) : Int := if signed then x.toInt else (x.toNat : Int)

/-- An exact integer reduced to 32 bits (R6). -/
def word (i : Int) : Word := BitVec.ofInt 32 i

/-- An exact integer clamped to the signed or natural range (Table 6.2). -/
def clampWord (signed : Bool) (i : Int) : Word :=
  if signed then word (max (-2147483648) (min 2147483647 i)) else word (max 0 (min 4294967295 i))

/-- The sub-operations of `iadd` and `sadd` (Table 6.2). -/
def addSub (m : Nat) (a b : Word) : Word :=
  let av (signed : Bool) : Word := word ((readWord signed a + readWord signed b + 1) / 2)
  match m with
  | 0 => a + b
  | 1 => a - b
  | 2 => clampWord true (readWord true a + readWord true b)
  | 3 => clampWord false (readWord false a + readWord false b)
  | 4 => clampWord true (readWord true a - readWord true b)
  | 5 => clampWord false (readWord false a - readWord false b)
  | 6 => av true
  | _ => av false

/-- The sub-operations of `imul` and `smul` (Table 6.2). -/
def mulSub (m : Nat) (a b d : Word) : Word :=
  match m with
  | 0 => a * b
  | 1 => word (readWord true a * readWord true b / 4294967296)
  | 2 => word (readWord false a * readWord false b / 4294967296)
  | _ => a * b + d

/-- The sub-operations of `imnx` (Table 6.2). -/
def minMaxSub (m : Nat) (a b : Word) : Word :=
  match m with
  | 0 => if a.toInt ≤ b.toInt then a else b
  | 1 => if a.toNat ≤ b.toNat then a else b
  | 2 => if a.toInt ≤ b.toInt then b else a
  | 3 => if a.toNat ≤ b.toNat then b else a
  | 4 => if a.toInt < 0 then -a else a
  | _ => -a

/-- The sub-operations of `ilog` and `slog` (Table 6.2). -/
def logicSub (m : Nat) (a b : Word) : Word :=
  match m with
  | 0 => a &&& b
  | 1 => a ||| b
  | 2 => a ^^^ b
  | 3 => a &&& ~~~b
  | 4 => a ||| ~~~b
  | 5 => ~~~(a ^^^ b)
  | _ => ~~~a

/-- The shifts of `ish`, `ishi` and `ssh` by a natural amount (R131). -/
def shiftSub (m : Nat) (a : Word) (n : Nat) : Word :=
  match m with
  | 0 => if 32 ≤ n then 0 else a <<< n
  | 1 => if 32 ≤ n then 0 else a >>> n
  | 2 => if 32 ≤ n then (if a.msb then 0xFFFFFFFF else 0) else a.sshiftRight n
  | 3 => a.rotateLeft (n % 32)
  | _ => a.rotateRight (n % 32)

/-- The functions of `ibit` (R132). -/
def bitSub (m : Nat) (a : Word) : Word :=
  match m with
  | 0 => BitVec.ofNat 32 (popCount 32 a.toNat)
  | 1 => BitVec.ofNat 32 (32 - bitLength a.toNat)
  | 2 => BitVec.ofNat 32 (trailingZeros 32 a.toNat)
  | 3 => BitVec.ofNat 32 (reverseBits 32 a.toNat)
  | _ => BitVec.ofNat 32 (ofBytesLE (bytesLE 4 a.toNat).reverse)

/-- The position and the length of a field by its control word (R133). -/
def fieldPos (c : Word) : Nat := bitsOf c.toNat 0 5
def fieldLen (c : Word) : Nat := min 32 (bitsOf c.toNat 8 6)

/-- `bfe` (R133). -/
def extractField (signed : Bool) (a c : Word) : Word :=
  let f := bitsOf a.toNat (fieldPos c) (fieldLen c)
  if signed then word (signExt f (fieldLen c)) else BitVec.ofNat 32 f

/-- `bfi` (R133): mask bits above bit 31 are dropped. -/
def insertField (d a c : Word) : Word :=
  let mask : Word := BitVec.ofNat 32 ((2 ^ fieldLen c - 1) * 2 ^ fieldPos c)
  (d &&& ~~~mask) ||| ((a <<< fieldPos c) &&& mask)

/-- A word written to v d. -/
def effW (d : BitVec 6) (x : Word) : LaneEff := { regs := [(d.toNat, x)] }

/-- A vector operation of opA, v[b] and v[d] (R130): `b` is a source unless `unary`. -/
def State.intOp (s : State) (i : Instr) (d b : BitVec 6) (a : BitVec 7) (g : BitVec 4) (unary : Bool)
    (op : Word → Word → Word → Word) : Host.Outcome State Fault Refusal :=
  s.laneOp i g (d.toNat :: (if unary then [] else [b.toNat]) ++ aVec a false) (aScal a false)
    (fun w l => effW d (op (w.opA l a) (w.reg l b.toNat) (w.reg l d.toNat)))

/-- `iadd` (R130). -/
def execIadd (d : BitVec 6) (a : BitVec 7) (b : BitVec 6) (m : BitVec 3) (g : BitVec 4) (s : State) : Host.Outcome State Fault Refusal :=
  s.intOp (.iadd d a b m g) d b a g false (fun x y _ => addSub m.toNat x y)

/-- `imul` (R130). -/
def execImul (d : BitVec 6) (a : BitVec 7) (b : BitVec 6) (m : BitVec 3) (g : BitVec 4) (s : State) : Host.Outcome State Fault Refusal :=
  s.intOp (.imul d a b m g) d b a g false (fun x y z => mulSub m.toNat x y z)

/-- `imnx` (R130): abs and neg do not read b. -/
def execImnx (d : BitVec 6) (a : BitVec 7) (b : BitVec 6) (m : BitVec 3) (g : BitVec 4) (s : State) : Host.Outcome State Fault Refusal :=
  s.intOp (.imnx d a b m g) d b a g (4 ≤ m.toNat) (fun x y _ => minMaxSub m.toNat x y)

/-- `ilog` (R130): not does not read b. -/
def execIlog (d : BitVec 6) (a : BitVec 7) (b : BitVec 6) (m : BitVec 3) (g : BitVec 4) (s : State) : Host.Outcome State Fault Refusal :=
  s.intOp (.ilog d a b m g) d b a g (m.toNat == 6) (fun x y _ => logicSub m.toNat x y)

/-- `ish` (R131). -/
def execIsh (d : BitVec 6) (a : BitVec 7) (b : BitVec 6) (m : BitVec 3) (g : BitVec 4) (s : State) : Host.Outcome State Fault Refusal :=
  s.intOp (.ish d a b m g) d b a g false (fun x y _ => shiftSub m.toNat x y.toNat)

/-- `ishi` (R131). -/
def execIshi (d : BitVec 6) (a : BitVec 7) (o : BitVec 3) (n : BitVec 5) (g : BitVec 4) (s : State) : Host.Outcome State Fault Refusal :=
  s.intOp (.ishi d a o n g) d 0 a g true (fun x _ _ => shiftSub o.toNat x n.toNat)

/-- `ibit` (R132). -/
def execIbit (d : BitVec 6) (a : BitVec 7) (m : BitVec 3) (g : BitVec 4) (s : State) : Host.Outcome State Fault Refusal :=
  s.intOp (.ibit d a m g) d 0 a g true (fun x _ _ => bitSub m.toNat x)

/-- `bfe` (R133). -/
def execBfe (d : BitVec 6) (a : BitVec 7) (b : BitVec 6) (m : BitVec 3) (g : BitVec 4) (s : State) : Host.Outcome State Fault Refusal :=
  s.intOp (.bfe d a b m g) d b a g false (fun x y _ => extractField (m == 1) x y)

/-- `bfi` (R133). -/
def execBfi (d : BitVec 6) (a : BitVec 7) (b : BitVec 6) (m : BitVec 3) (g : BitVec 4) (s : State) : Host.Outcome State Fault Refusal :=
  s.intOp (.bfi d a b m g) d b a g false (fun x y z => insertField z x y)

/-- A comparison of opA with v[b] into a predicate (R134). -/
def State.intCmp (s : State) (i : Instr) (p b : BitVec 6) (a : BitVec 7) (c : BitVec 3) (g : BitVec 4) (signed : Bool) :
    Host.Outcome State Fault Refusal :=
  s.laneOp i g (b.toNat :: aVec a false) (aScal a false) (fun w l =>
    { preds := [(p.toNat, (intCond c.toNat (readWord signed (w.opA l a)) (readWord signed (w.reg l b.toNat))).getD false)] })

/-- `icmp` (R134). -/
def execIcmp (p : BitVec 6) (a : BitVec 7) (b : BitVec 6) (c : BitVec 3) (g : BitVec 4) (s : State) : Host.Outcome State Fault Refusal :=
  s.intCmp (.icmp p a b c g) p b a c g true

/-- `icmpn` (R134). -/
def execIcmpn (p : BitVec 6) (a : BitVec 7) (b : BitVec 6) (c : BitVec 3) (g : BitVec 4) (s : State) : Host.Outcome State Fault Refusal :=
  s.intCmp (.icmpn p a b c g) p b a c g false

/-- `sel` has no guard (R71, R135). -/
def execSel (d : BitVec 6) (a : BitVec 7) (b p : BitVec 6) (s : State) : Host.Outcome State Fault Refusal :=
  s.laneOp (.sel d a b p) 0 (d.toNat :: b.toNat :: aVec a false) (aScal a false)
    (fun w l => effW d (if w.pred l p.toNat then w.opA l a else w.reg l b.toNat))

/-- `mov` (R136). -/
def execMov (d : BitVec 6) (a : BitVec 7) (g : BitVec 4) (s : State) : Host.Outcome State Fault Refusal :=
  s.intOp (.mov d a g) d 0 a g true (fun x _ _ => x)

/-- A 16-bit immediate sign-extended (R136). -/
def immWord (i : BitVec 16) : Word := i.signExtend 32

/-- A word with its high half, or its low half, replaced (R136). -/
def withHigh (i : BitVec 16) (x : Word) : Word := BitVec.ofNat 32 (setBits x.toNat 16 16 i.toNat)
def withLow (i : BitVec 16) (x : Word) : Word := BitVec.ofNat 32 (setBits x.toNat 0 16 i.toNat)

/-- `movi` (R136). -/
def execMovi (d : BitVec 6) (i : BitVec 16) (g : BitVec 4) (s : State) : Host.Outcome State Fault Refusal :=
  s.laneOp (.movi d i g) g [d.toNat] [] (fun _ _ => effW d (immWord i))

/-- `movh` (R136). -/
def execMovh (d : BitVec 6) (i : BitVec 16) (g : BitVec 4) (s : State) : Host.Outcome State Fault Refusal :=
  s.laneOp (.movh d i g) g [d.toNat] [] (fun w l => effW d (withHigh i (w.reg l d.toNat)))

/-- `movl` (R136). -/
def execMovl (d : BitVec 6) (i : BitVec 16) (g : BitVec 4) (s : State) : Host.Outcome State Fault Refusal :=
  s.laneOp (.movl d i g) g [d.toNat] [] (fun w l => effW d (withLow i (w.reg l d.toNat)))

/-- The result of `plog` in one lane (R140). -/
def plogResult (w : Wave) (l : Nat) (a : BitVec 7) (q : BitVec 6) (o : BitVec 3) : Bool :=
  let x := w.pred l a.toNat
  let y := w.pred l q.toNat
  match o.toNat with
  | 0 => x && y
  | 1 => x || y
  | 2 => x != y
  | 3 => x && !y
  | 4 => !x
  | 5 => x
  | _ => bitOf (w.reg l a.toNat).toNat q.toNat

/-- `plog` (R140): from-bit reads a vector register. -/
def execPlog (d : BitVec 6) (a : BitVec 7) (q : BitVec 6) (o : BitVec 3) (g : BitVec 4) (s : State) : Host.Outcome State Fault Refusal :=
  s.laneOp (.plog d a q o g) g (if o.toNat = 6 then [a.toNat] else []) [] (fun w l =>
    { preds := [(d.toNat, plogResult w l a q o)] })

/-- `rand` (R150, R151). -/
def execRand (d : BitVec 6) (a : BitVec 7) (b : BitVec 6) (g : BitVec 4) (s : State) : Host.Outcome State Fault Refusal :=
  s.laneOp (.rand d a b g) g (d.toNat :: b.toNat :: aVec a true) (aScal a true)
    (fun w l => effW d (BitVec.ofNat 32 (scarab (w.opA64 l a) (w.reg l b.toNat).toNat)))

end Sys2Proof.Machine
end

