-- ==== Sys2Proof/Machine/AluCross.lean ====
section
/-! DEFINITION. Cross-lane instructions and special registers (R141 to R149). -/

namespace Sys2Proof.Machine

/-- The partner lane of `shfl` (R142). -/
def shflSource (m width l n : Nat) : Nat :=
  let src : Int :=
    match m with
    | 0 => (n % width : Nat)
    | 1 => (Nat.xor l (n % 64) : Nat)
    | 2 => (l : Int) - n
    | _ => (l : Int) + n
  if src < 0 ∨ (width : Int) ≤ src then l else src.toNat

/-- What a lane of `shfl` depends on (R141, R142): its own registers, and where its selector is full or constant, the register of the lane it
selects. -/
def Wave.shflNeeds (w : Wave) (d : BitVec 6) (a : BitVec 7) (b : BitVec 6) (src : Nat → Nat) (l : Nat) : List (Nat × Nat) :=
  let sel := (aVec a false).map (fun r => (l, r))
  (l, d.toNat) :: sel ++ (if sel.all (fun n => ((w.lanes[n.1]?).map (·.isFull n.2)).getD true) then [(src l, b.toNat)] else [])

/-- `shfl` (R142). -/
def execShfl (d : BitVec 6) (a : BitVec 7) (b : BitVec 6) (m : BitVec 3) (g : BitVec 4) (s : State) : Host.Outcome State Fault Refusal :=
  let src (w : Wave) (l : Nat) : Nat := shflSource m.toNat w.width l (w.opA l a).toNat
  s.crossOp (.shfl d a b m g) g (d.toNat :: b.toNat :: aVec a false) (aScal a false) (fun _ => true)
    (fun w _ l => w.shflNeeds d a b (src w) l)
    (fun w _ go v => v.applyEffs go (fun l => effW d (w.reg (src w l) b.toNat)))

/-- The partner lane of `qxch` (R143). -/
def quadPartner (t i l : Nat) : Nat :=
  match t with
  | 0 => Nat.xor l 1
  | 1 => Nat.xor l 2
  | 2 => Nat.xor l 3
  | _ => 4 * (l / 4) + i

/-- `qxch` (R143). -/
def execQxch (d : BitVec 6) (a : BitVec 7) (i : BitVec 2) (t : BitVec 3) (g : BitVec 4) (s : State) : Host.Outcome State Fault Refusal :=
  s.crossOp (.qxch d a i t g) g [d.toNat, a.toNat] [] (fun _ => true)
    (fun _ _ l => [(l, d.toNat), (quadPartner t.toNat i.toNat l, a.toNat)])
    (fun w _ go v => v.applyEffs go (fun l => effW d (w.reg (quadPartner t.toNat i.toNat l) a.toNat)))

/-- `vote` over the lanes of T, when T is not empty (R144). -/
def Wave.voteEffect (w : Wave) (d : BitVec 6) (a : BitVec 7) (t : BitVec 2) (ts : List Nat) : Wave :=
  let b := ts.filter (fun l => w.pred l a.toNat)
  if ts.isEmpty then w
  else
    match t.toNat with
    | 0 => (w.setS d.toNat (lo32 (maskOf b))).setS (d.toNat + 1) (hi32 (maskOf b))
    | 1 => w.setS d.toNat (BitVec.ofNat 32 b.length)
    | 2 => w.modLanes ts (fun l => l.setPred d.toNat (!b.isEmpty))
    | _ => w.modLanes ts (fun l => l.setPred d.toNat (b.length == ts.length))

/-- `vote` (R144). -/
def execVote (d : BitVec 6) (a : BitVec 7) (t : BitVec 2) (g : BitVec 4) (s : State) : Host.Outcome State Fault Refusal :=
  s.crossOp (.vote d a t g) g [] (match t.toNat with | 0 => [d.toNat, d.toNat + 1] | 1 => [d.toNat] | _ => []) (fun _ => true)
    (fun _ _ _ => []) (fun _ ts _ v => v.voteEffect d a t ts)

/-- One node of the tree of `redx` with both children present (Table 6.3). -/
def redxNode (o : Nat) (mode : Rnd) (x y : Nat) : Nat × Flags :=
  let p : Word := BitVec.ofNat 32 x
  let q : Word := BitVec.ofNat 32 y
  match o with
  | 0 => ((p + q).toNat, flNone)
  | 1 => ((minMaxSub 0 p q).toNat, flNone)
  | 2 => ((minMaxSub 2 p q).toNat, flNone)
  | 3 => ((minMaxSub 1 p q).toNat, flNone)
  | 4 => ((minMaxSub 3 p q).toNat, flNone)
  | 5 => ((p &&& q).toNat, flNone)
  | 6 => ((p ||| q).toNat, flNone)
  | 7 => ((p ^^^ q).toNat, flNone)
  | 8 => roundResult fp32 ((decodeFmt fp32 x).add (zeroSign mode) (decodeFmt fp32 y)) mode false false
  | 9 => minMax fp32 false false x y
  | 10 => minMax fp32 true false x y
  | _ => roundResult fp64 ((decodeFmt fp64 x).add (zeroSign mode) (decodeFmt fp64 y)) mode false false

/-- One level of the tree: neighbours combined, an absent child passing the other through (R146). -/
def redxLevel (o : Nat) (mode : Rnd) : List (Option Nat) → List (Option Nat) × Flags
  | some x :: some y :: t =>
    let n := redxNode o mode x y
    let r := redxLevel o mode t
    (some n.1 :: r.1, n.2 ||| r.2)
  | some x :: none :: t =>
    let r := redxLevel o mode t
    (some x :: r.1, r.2)
  | none :: y :: t =>
    let r := redxLevel o mode t
    (y :: r.1, r.2)
  | [x] => ([x], flNone)
  | [] => ([], flNone)

/-- The tree of R146 by levels. -/
def redxTree (o : Nat) (mode : Rnd) : (levels : Nat) → List (Option Nat) → Flags → List (Option Nat) × Flags
  | 0, l, fl => (l, fl)
  | n + 1, l, fl =>
    let r := redxLevel o mode l
    redxTree o mode n r.1 (fl ||| r.2)

/-- The registers that `redx` reads in a lane: one, or a pair for add.f64 (R145). -/
def redxRegs (a : BitVec 7) (o : BitVec 4) : List Nat := if o.toNat = 11 then [a.toNat, a.toNat + 1] else [a.toNat]

/-- `redx` over the lanes of T (R145, R146). -/
def Wave.redxEffect (w : Wave) (d : BitVec 6) (a : BitVec 7) (o : BitVec 4) (ts : List Nat) (v : Wave) : Wave :=
  let leaf (l : Nat) : Option Nat :=
    if ts.contains l then some (if o.toNat = 11 then w.reg64 l a.toNat else (w.reg l a.toNat).toNat) else none
  let r := redxTree o.toNat (roundOfMode w.round) (Nat.log2 w.width) ((upTo w.width).map leaf) flNone
  match r.1.head?.join with
  | none => v
  | some x =>
    let v1 := v.setS d.toNat (lo32 x)
    let v2 := if o.toNat = 11 then v1.setS (d.toNat + 1) (hi32 x) else v1
    { v2 with fflags := v2.fflags ||| r.2 }

/-- `redx` (R145): while a register of any lane of T is empty, no lane of T goes on. -/
def execRedx (d : BitVec 6) (a : BitVec 7) (o : BitVec 4) (g : BitVec 4) (s : State) : Host.Outcome State Fault Refusal :=
  s.crossOp (.redx d a o g) g (redxRegs a o) (if o.toNat = 11 then [d.toNat, d.toNat + 1] else [d.toNat]) (fun _ => true)
    (fun _ ts _ => ts.flatMap (fun m => (redxRegs a o).map (fun r => (m, r))))
    (fun w ts go v => if go.isEmpty then v else w.redxEffect d a o ts v)

/-- `lane` (R147): a read of lane n into a scalar, or a write of a scalar or constant to lane n, discarded for a helper or exited
lane. -/
def execLane (d : BitVec 6) (a : BitVec 7) (n : BitVec 6) (w : BitVec 1) (g : BitVec 4) (s : State) : Host.Outcome State Fault Refusal :=
  if w = 0 then
    s.crossOp (.lane d a n w g) g [a.toNat] [d.toNat] (fun v => decide (n.toNat < v.width)) (fun _ _ _ => [(n.toNat, a.toNat)])
      (fun old _ go v => if go.isEmpty then v else v.setS d.toNat (old.reg n.toNat a.toNat))
  else
    s.crossOp (.lane d a n w g) g [d.toNat] (aScal a false) (fun v => decide (n.toNat < v.width)) (fun _ _ _ => [(n.toNat, d.toNat)])
      (fun old _ go v =>
        if go.isEmpty then v else v.modLane n.toNat (fun l => if l.isGone then l else l.writeV d.toNat (old.opA 0 a)))

/-- The value of a special register other than the lease clock for lane l of a wave (Table 6.5, R396, R397, R402). -/
def State.special (s : State) (c : Ctx) (w : Wave) (l n : Nat) : Nat :=
  let la := s.launchOf c.r
  let rc := la.map (·.record)
  let p := s.part (s.partOf c.r)
  let lin := ((s.blockOf c.r).map (·.lin)).getD 0
  let hdl := isHandler c.r
  let field (f : LaunchRecord → Nat) : Nat := (rc.map f).getD 0
  let own (x : Nat) : Nat := if hdl then 0 else x
  let grid (i : Nat) : Nat := field (fun r => r.grid.getD i 1)
  let at_ := coordsOf lin (grid 0) (grid 1)
  let trap := s.trapRecord c.r l
  let org (i : Nat) : Nat := ((trap.map (·.1)).getD []).getD i 0
  match n with
  | 0x00 => l
  | 0x01 => l / 4
  | 0x02 => own (waveIndex c.r)
  | 0x03 => w.width
  | 0x04 => own (waveIndex c.r * w.width + l)
  | 0x05 => own at_.1
  | 0x06 => own at_.2.1
  | 0x07 => own at_.2.2
  | 0x08 => grid 0
  | 0x09 => grid 1
  | 0x0A => grid 2
  | 0x0B => own lin
  | 0x0C => own (lin % field (·.cluster))
  | 0x0D => s.coreOf c.r
  | 0x0E => s.coreOf c.r / 4
  | 0x0F => s.partOf c.r
  | 0x10 => (la.map (·.id)).getD 0
  | 0x13 => field (·.seed) % 2 ^ 32
  | 0x14 => field (·.seed) / 2 ^ 32
  | 0x15 => field (·.arg) % 2 ^ 32
  | 0x16 => field (·.arg) / 2 ^ 32
  | 0x17 => c.hdr.toNat
  | 0x18 => own w.awBase
  | 0x19 => own w.awLimit
  | 0x1A => w.ltc % 2 ^ 32
  | 0x1B => w.ltc / 2 ^ 32 % 2 ^ 32
  | 0x1C => w.fflags.toNat
  | 0x1D => if p.podEnable then p.podRank else 0
  | 0x1E => if p.podEnable then p.podSize else 1
  | 0x20 => org 0
  | 0x21 => org 1
  | 0x22 => org 2
  | 0x23 => org 3
  | 0x24 => (trap.map (fun t => t.2.detail * 256 + t.2.cause)).getD 0
  | 0x25 => (trap.map (fun t => t.2.addr)).getD 0 % 2 ^ 32
  | 0x26 => (trap.map (fun t => t.2.addr)).getD 0 / 2 ^ 32
  | _ => 0

/-- A read of the lease clock on its way (R149, R410): with vector destinations the registers are marked empty until it arrives; with
scalar ones the wave is held until the value is written. -/
def State.readClock (s : State) (c : Ctx) (ls dest : List Nat) (scalar : Bool) (value : Nat) : State :=
  if ls.isEmpty then s
  else
    let f := s.fresh
    let lanes : List OpLane := ls.map (fun l => ⟨l, 0, 0, 4 * dest.length, 0, 0, dest⟩)
    let grp : OpGroup := ⟨0, .plain, lanes, [], false, true, false, false, none, ls.map (fun l => (l, value)), [], none, 0⟩
    let op : MemOp :=
      { id := f.1, kind := .clock value (if scalar then some dest else none), wave := c.r, core := s.coreOf c.r, part := s.partOf c.r,
        space := s.spaceOf c.r, launch := (s.launchKey c.r).getD 0, scope := 0, qual := 0, acquire := false, release := false,
        relDone := true, vpc := c.hdr, slot := c.slot, groups := [grp], completion := 0, counted := false, ended := false, groupNo := 0 }
    let s1 := { f.2 with memOps := f.2.memOps ++ [op] }
    if scalar then s1.holdWave c.r (.op f.1)
    else s1.modWave c.r (fun w => w.modLanes ls (fun l => dest.foldl (fun l r => l.markEmpty r) l))

/-- `sread` (R148, R149). A read of 0x11 or 0x12 takes the lease clock as it stands when the instruction issues, one value for all lanes of T,
whenever it arrives (DESIGN CHOICE, log entry 82: R149 gives one instant for `gettime` alone). -/
def execSread (d : BitVec 6) (s : BitVec 1) (r : BitVec 8) (g : BitVec 4) (sx : State) : Host.Outcome State Fault Refusal :=
  let vr := if s = 0 then [d.toNat] else []
  sx.execWord (.sread d s r g) false vr (if s = 1 then [d.toNat] else []) (fun _ => true) (fun c w st =>
    let q := st.gates c w (fun l => vr.map (fun n => (l, n))) (c.t w g)
    if r.toNat = 0x11 ∨ r.toNat = 0x12 then
      q.2.readClock c q.1 [d.toNat] (s == 1)
        (if r.toNat = 0x11 then q.2.nowOf c.r % 2 ^ 32 else q.2.nowOf c.r / 2 ^ 32 % 2 ^ 32)
    else if s = 1 then
      if q.1.isEmpty then q.2 else q.2.modWave c.r (fun v => v.setS d.toNat (lo32 (st.special c w 0 r.toNat)))
    else q.2.modWave c.r (fun v => v.applyEffs q.1 (fun l => effW d (lo32 (st.special c w l r.toNat)))))

end Sys2Proof.Machine
end

