-- ==== Sys2Proof/Machine/AluScalar.lean ====
section
/-! DEFINITION. Scalar-class instructions (R137 to R139): each takes effect once for each home wave with T not empty. -/

namespace Sys2Proof.Machine

/-- opA of a scalar-class instruction: a scalar register, an integer constant or W (R73). -/
def Wave.opS (w : Wave) (a : BitVec 7) : Word := w.opA 0 a

/-- A scalar operation of opA, s[b] and s[d] (R138): `b` is a source unless `unary`. -/
def State.sclOp (s : State) (i : Instr) (d b : BitVec 6) (a : BitVec 7) (g : BitVec 4) (unary : Bool)
    (op : Word → Word → Word → Word) : Host.Outcome State Fault Refusal :=
  s.scalarOp i g (d.toNat :: (if unary then [] else [b.toNat]) ++ aScal a false)
    (fun w => w.setS d.toNat (op (w.opS a) (w.sreg b.toNat) (w.sreg d.toNat)))

/-- `sadd` (R138). -/
def execSadd (d : BitVec 6) (a : BitVec 7) (b : BitVec 6) (m : BitVec 3) (g : BitVec 4) (s : State) : Host.Outcome State Fault Refusal :=
  s.sclOp (.sadd d a b m g) d b a g false (fun x y _ => addSub m.toNat x y)

/-- `smul` (R138). -/
def execSmul (d : BitVec 6) (a : BitVec 7) (b : BitVec 6) (m : BitVec 3) (g : BitVec 4) (s : State) : Host.Outcome State Fault Refusal :=
  s.sclOp (.smul d a b m g) d b a g false (fun x y z => mulSub m.toNat x y z)

/-- `slog` (R138): not does not read b. -/
def execSlog (d : BitVec 6) (a : BitVec 7) (b : BitVec 6) (m : BitVec 3) (g : BitVec 4) (s : State) : Host.Outcome State Fault Refusal :=
  s.sclOp (.slog d a b m g) d b a g (m.toNat == 6) (fun x y _ => logicSub m.toNat x y)

/-- `ssh` (R138). -/
def execSsh (d : BitVec 6) (a : BitVec 7) (b : BitVec 6) (m : BitVec 3) (g : BitVec 4) (s : State) : Host.Outcome State Fault Refusal :=
  s.sclOp (.ssh d a b m g) d b a g false (fun x y _ => shiftSub m.toNat x y.toNat)

/-- `smovi` (R138). -/
def execSmovi (d : BitVec 6) (i : BitVec 16) (g : BitVec 4) (s : State) : Host.Outcome State Fault Refusal :=
  s.scalarOp (.smovi d i g) g [d.toNat] (fun w => w.setS d.toNat (immWord i))

/-- `smovh` (R138). -/
def execSmovh (d : BitVec 6) (i : BitVec 16) (g : BitVec 4) (s : State) : Host.Outcome State Fault Refusal :=
  s.scalarOp (.smovh d i g) g [d.toNat] (fun w => w.setS d.toNat (withHigh i (w.sreg d.toNat)))

/-- `scmp` writes its outcome in every lane that is neither a helper lane nor exited (R139). -/
def execScmp (p : BitVec 6) (a : BitVec 7) (b : BitVec 6) (c : BitVec 3) (g : BitVec 4) (s : State) : Host.Outcome State Fault Refusal :=
  s.scalarOp (.scmp p a b c g) g (b.toNat :: aScal a false) (fun w =>
    let r := (scalarCond c.toNat (w.opS a) (w.sreg b.toNat)).getD false
    { w with lanes := w.lanes.map (fun (l : Lane) => if l.isGone then l else l.setPred p.toNat r) })

/-- `smov` (R138). -/
def execSmov (d : BitVec 6) (a : BitVec 7) (g : BitVec 4) (s : State) : Host.Outcome State Fault Refusal :=
  s.scalarOp (.smov d a g) g (d.toNat :: aScal a false) (fun w => w.setS d.toNat (w.opS a))

end Sys2Proof.Machine
end

