-- ==== Sys2Proof/Machine/Ctrl.lean ====
section
/-! DEFINITION. Control instructions (R104, R111 to R124) and numbered barriers (R361 to R364). -/

namespace Sys2Proof.Machine

/-- Lanes leave their clause for one header. -/
def State.moveLanes (s : State) (r : WaveRef) (ls : List Nat) (vpc : Word) : State := ls.foldl (fun s l => s.moveLane r l vpc) s

/-- Lanes stop at the instruction of a context in a waiting state. -/
def State.stopLanes (s : State) (c : Ctx) (ls : List Nat) (st : LaneState) : State :=
  ls.foldl (fun s l => s.stopLane c.r l c.hdr c.slot st) s

/-- The executing lanes outside T (R111). -/
def Ctx.rest (c : Ctx) (ts : List Nat) : List Nat := c.x.filter (fun l => !ts.contains l)

/-- The target of a relative transfer (R111). -/
def Ctx.target (c : Ctx) (off n : Nat) : Word := c.hdr + BitVec.ofInt 32 (signExt off n)

/-- A lane released from a wait to the next header after its own clause-ending instruction (R100, R119, R362). -/
def Lane.release (x : Lane) : Lane := { x.activate with vpc := x.vpc + BitVec.ofNat 32 (x.slot + 2), slot := 0 }

/-- An instruction that handler lanes may not execute (R396): illegal there. -/
def State.blockOnly (s : State) (c : Ctx) (t : State) : State := if isHandler c.r then s.illegal c else t

/-- The outcome of a vote between lanes that take a transfer and lanes that do not, remembered when it is divergent (R104, R105). -/
def State.noteVote (s : State) (c : Ctx) (takers others : List Nat) : State :=
  if takers.isEmpty || others.isEmpty then s else s.modWave c.r (fun w => { w with diverged := true })

/-- `nop` (R112). -/
def execNop (g : BitVec 4) (s : State) : Host.Outcome State Fault Refusal :=
  s.execWord (.nop g) false [] [] (fun _ => true) (fun _ _ s => s)

/-- `bra` (R104, R113). -/
def execBra (o : BitVec 22) (g : BitVec 4) (s : State) : Host.Outcome State Fault Refusal :=
  s.execWord (.bra o g) true [] [] (fun _ => true) (fun c w s =>
    let t := c.t w g
    ((s.noteVote c t (c.rest t)).moveLanes c.r t (c.target o.toNat 22)).moveLanes c.r (c.rest t) c.next)

/-- `bru` (R114): a divergent vote traps every executing lane. -/
def execBru (o : BitVec 22) (g : BitVec 4) (s : State) : Host.Outcome State Fault Refusal :=
  s.execWord (.bru o g) true [] [] (fun _ => true) (fun c w s =>
    let t := c.t w g
    if !t.isEmpty && !(c.rest t).isEmpty then s.trapAt c c.x 0x04 0 0
    else (s.moveLanes c.r t (c.target o.toNat 22)).moveLanes c.r (c.rest t) c.next)

/-- Each lane of T whose register a is full goes to the offset it holds there, the lanes outside T to the next header (R115, R117). -/
def State.jumpLanes (s : State) (c : Ctx) (w : Wave) (a : BitVec 7) (g : BitVec 4) : State :=
  let t := c.t w g
  let r := s.gates c w (fun l => [(l, a.toNat)]) t
  (r.1.foldl (fun s l => s.moveLane c.r l (w.reg l a.toNat)) r.2).moveLanes c.r (c.rest t) c.next

/-- `brx` (R115). -/
def execBrx (a : BitVec 7) (g : BitVec 4) (s : State) : Host.Outcome State Fault Refusal :=
  s.execWord (.brx a g) false [a.toNat] [] (fun _ => true) (fun c w s => s.jumpLanes c w a g)

/-- `ret` (R117). -/
def execRet (a : BitVec 7) (g : BitVec 4) (s : State) : Host.Outcome State Fault Refusal :=
  s.execWord (.ret a g) false [a.toNat] [] (fun _ => true) (fun c w s => s.jumpLanes c w a g)

/-- `call` (R116). A lane of T that waits or traps takes no part in the vote. -/
def execCall (l : BitVec 6) (o : BitVec 16) (g : BitVec 4) (s : State) : Host.Outcome State Fault Refusal :=
  s.execWord (.call l o g) true [l.toNat] [] (fun _ => true) (fun c w s =>
    let t := c.t w g
    let r := s.gates c w (fun n => [(n, l.toNat)]) t
    let s1 := r.2.modWave c.r (fun v => v.modLanes r.1 (fun x => x.writeV l.toNat c.next))
    ((s1.noteVote c r.1 (c.rest t)).moveLanes c.r r.1 (c.target o.toNat 16)).moveLanes c.r (c.rest t) c.next)

/-- The pod-failure trap that a wave's `exit` or `fence` takes first (R376): with a failed request recorded, the lanes of T trap with cause
0x10 at its address, and the record is cleared. -/
def State.podErrorTrap (s : State) (c : Ctx) (ts : List Nat) : Option State :=
  match (s.wave? c.r).bind (·.podError) with
  | none => none
  | some a => if ts.isEmpty then none else some ((s.modWave c.r (fun w => { w with podError := none })).trapAt c ts 0x10 0 a)

/-- `exit` (R118); in a handler lane it acts as `tesc` with code 0xFF (R398). -/
def execExit (g : BitVec 4) (s : State) : Host.Outcome State Fault Refusal :=
  s.execWord (.exit g) false [] [] (fun _ => true) (fun c w s =>
    let t := c.t w g
    let s1 := match s.podErrorTrap c t with
      | some u => u
      | none => if isHandler c.r then t.foldl (fun s l => s.escalateBy c.r l 0xFF) s else s.exitLanes c.r t
    s1.moveLanes c.r (c.rest t) c.next)

/-- Lanes of T in mask k wait in a state, the others pass (R119, R120). -/
def State.maskWait (s : State) (c : Ctx) (w : Wave) (k : BitVec 4) (g : BitVec 4) (st : LaneState) : State :=
  let t := c.t w g
  let held := t.filter (fun l => (w.mask k.toNat).testBit l)
  (s.stopLanes c held st).moveLanes c.r (c.x.filter (fun l => !held.contains l)) c.next

/-- `join` (R119). -/
def execJoin (k : BitVec 4) (g : BitVec 4) (s : State) : Host.Outcome State Fault Refusal :=
  s.execWord (.join k g) true [] [] (fun _ => true) (fun c w s => s.maskWait c w k g (.waitJoin k.toNat))

/-- `ksync` (R120). -/
def execKsync (k : BitVec 4) (g : BitVec 4) (s : State) : Host.Outcome State Fault Refusal :=
  s.execWord (.ksync k g) true [] [] (fun _ => true) (fun c w s => s.maskWait c w k g (.waitKsync k.toNat))

/-- `kset` (R121). -/
def execKset (k : BitVec 4) (g : BitVec 4) (s : State) : Host.Outcome State Fault Refusal :=
  s.execWord (.kset k g) true [] [] (fun _ => true) (fun c w s =>
    let t := c.t w g
    if t.isEmpty then s else s.modWave c.r (fun v => { v with k := setAt v.k k.toNat (maskOf t) }))

/-- The mask operations of `kop` (R122). -/
def maskOp (o x y : Nat) : Nat :=
  match o with
  | 0 => x &&& y
  | 1 => x ||| y
  | 2 => x &&& (x ^^^ y)
  | _ => y

/-- `kop` (R122). -/
def execKop (o : BitVec 2) (d s : BitVec 4) (g : BitVec 4) (sx : State) : Host.Outcome State Fault Refusal :=
  sx.execWord (.kop o d s g) true [] [] (fun _ => true) (fun c w st =>
    if (c.t w g).isEmpty then st
    else st.modWave c.r (fun v => { v with k := setAt v.k d.toNat (maskOp o.toNat (v.mask d.toNat) (v.mask s.toNat)) }))

/-- `waitc` (R123). -/
def execWaitc (t : BitVec 4) (c : BitVec 2) (g : BitVec 4) (s : State) : Host.Outcome State Fault Refusal :=
  s.execWord (.waitc t c g) true [] [] (fun _ => true) (fun x w s =>
    if (x.t w g).isEmpty then s else s.holdWave x.r (.counter c.toNat t.toNat))

/-- `yield` (R124). -/
def execYield (g : BitVec 4) (s : State) : Host.Outcome State Fault Refusal :=
  s.execWord (.yield g) false [] [] (fun _ => true) (fun c w s =>
    let s1 := if (c.t w g).isEmpty then s else s.modWave c.r (fun v => { v with yielded := true })
    s1.moveLanes c.r c.x c.next)

/-- The barrier of a number in a wave's block (R362). -/
def State.barrier (s : State) (r : WaveRef) (b : Nat) : Barrier := ((s.blockOf r).bind (·.barriers[b]?)).getD ⟨0, 0, []⟩

/-- The state with a barrier of a wave's block passed through `f`. -/
def State.modBarrier (s : State) (r : WaveRef) (b : Nat) (f : Barrier → Barrier) : State :=
  match r with
  | .blk uid _ => s.modBlock uid (fun k => { k with barriers := modifyAt k.barriers b f })
  | .hdl _ _ => s

/-- A wave's state at a barrier. -/
def Barrier.of (x : Barrier) (w : Nat) : BarState := x.st.getD w .none

/-- Whether lanes of a block wait at a barrier. -/
def Block.waitsAt (k : Block) (b : Nat) : Bool := k.waves.any (fun w => w.lanes.any (fun l => l.state == .waitBarrier b))

/-- The arrival of a wave (R362): it counts at most once in a phase. -/
def Barrier.arrive (x : Barrier) (w : Nat) : Barrier :=
  if x.of w == .arrived then x else { x with st := setAt x.st w .arrived, a := x.a + 1 }

/-- The phase change of a barrier of a block when a = n (R362). -/
def Block.changePhase (k : Block) (b : Nat) : Block :=
  let x := k.barriers.getD b ⟨0, 0, []⟩
  if x.n = 0 || x.a != x.n then k
  else
    { k with
      barriers := setAt k.barriers b ⟨x.n, 0, x.st.map (fun y => if y == .arrived then .passed else y)⟩
      waves := k.waves.map (fun w =>
        { w with lanes := w.lanes.map (fun l => if l.state == .waitBarrier b then l.release else l) }) }

/-- A wave arrives at barrier b, some of its lanes wait there, and the phase changes if it can (R362). -/
def State.arriveAt (s : State) (c : Ctx) (b : Nat) (waiting : List Nat) : State :=
  let s1 := (s.modBarrier c.r b (fun x => x.arrive (waveIndex c.r))).stopLanes c waiting (.waitBarrier b)
  match c.r with
  | .blk uid _ => s1.modBlock uid (fun k => k.changePhase b)
  | .hdl _ _ => s1

/-- `bar` (R362). -/
def execBar (b : BitVec 4) (g : BitVec 4) (s : State) : Host.Outcome State Fault Refusal :=
  s.execWord (.bar b g) true [] [] (fun _ => true) (fun c w s => s.blockOnly c (
    let t := c.t w g
    let s1 := if t.isEmpty then s
      else if (s.barrier c.r b.toNat).n = 0 then s.trapAt c t 0x0D 0 0
      else s.arriveAt c b.toNat t
    s1.moveLanes c.r (c.rest t) c.next))

/-- `bara` (R362). -/
def execBara (b : BitVec 4) (g : BitVec 4) (s : State) : Host.Outcome State Fault Refusal :=
  s.execWord (.bara b g) true [] [] (fun _ => true) (fun c w s => s.blockOnly c (
    let t := c.t w g
    if t.isEmpty then s
    else if (s.barrier c.r b.toNat).n = 0 then s.trapAt c t 0x0D 0 0
    else s.arriveAt c b.toNat []))

/-- `barw` (R362). -/
def execBarw (b : BitVec 4) (g : BitVec 4) (s : State) : Host.Outcome State Fault Refusal :=
  s.execWord (.barw b g) true [] [] (fun _ => true) (fun c w s => s.blockOnly c (
    let t := c.t w g
    let x := s.barrier c.r b.toNat
    let s1 := if t.isEmpty then s
      else if x.n = 0 || x.of (waveIndex c.r) == .none then s.trapAt c t 0x0D 0 0
      else if x.of (waveIndex c.r) == .arrived then s.stopLanes c t (.waitBarrier b.toNat)
      else s.moveLanes c.r t c.next
    s1.moveLanes c.r (c.rest t) c.next))

/-- `bari` (R362). -/
def execBari (a : BitVec 7) (b : BitVec 4) (g : BitVec 4) (s : State) : Host.Outcome State Fault Refusal :=
  s.execWord (.bari a b g) true [] (aScal a false) (fun _ => true) (fun c w s => s.blockOnly c (
    let t := c.t w g
    let n := (w.opA 0 a).toNat
    let waves := ((s.blockOf c.r).map (·.waves.length)).getD 0
    let waits := ((s.blockOf c.r).map (fun k => k.waitsAt b.toNat)).getD false
    if t.isEmpty then s
    else if waits || decide (0 < (s.barrier c.r b.toNat).a) || decide (n < 1) || decide (waves < n) then s.trapAt c t 0x0D 0 0
    else s.modBarrier c.r b.toNat (fun _ => ⟨n, 0, List.replicate waves .none⟩)))

end Sys2Proof.Machine
end

