-- ==== Sys2Proof/Machine/Issue.lean ====
section
/-! DEFINITION. The issue rule (R58 to R60, R66 to R69, R99 to R107): the choice of a wave, the choice of its group, the start of a
clause issue, its advance from position to position, and its end. -/

namespace Sys2Proof.Machine

/-- The lanes of a wave that are active. -/
def Wave.live (w : Wave) : List Nat := w.lanesWhere Lane.isActive

/-- The issue key of a lane of a wave (R101). -/
def Wave.keyOf (w : Wave) (l : Nat) : Nat := ((w.lanes[l]?).map Lane.key).getD 0

/-- The least issue key among the active lanes (R101). -/
def Wave.lowKey (w : Wave) : Option Nat :=
  match w.live with
  | [] => none
  | l :: ls => some (minList 0 ((l :: ls).map w.keyOf))

/-- Whether a clause issue of the wave is fairness-due (R102). -/
def Wave.fairDue (w : Wave) (low : Nat) : Bool :=
  w.live.any (fun l => decide (low < w.keyOf l) && decide (w.fair ≤ ((w.lanes[l]?).map (·.starve)).getD 0))

/-- The fairness key (R102). -/
def Wave.fairKey (w : Wave) (low : Nat) : Nat :=
  let above := (w.live.map w.keyOf).filter (fun k => decide (low < k))
  match above.filter (fun k => decide (w.fairPos < k)) with
  | [] => minList low above
  | k :: ks => minList low (k :: ks)

/-- The active lanes that stand at a key. -/
def Wave.atKey (w : Wave) (k : Nat) : List Nat := w.live.filter (fun l => w.keyOf l == k)

/-- Whether a header's counter wait is met by a wave (R68). -/
def Wave.waitMet (w : Wave) (h : Header) : Bool := h.threshold == 15 || decide (w.counter h.counter ≤ h.threshold)

/-- The fetched clause of a group: a header with its words, or the trap its lanes take. -/
abbrev Fetched := Except (Nat × Nat × Nat) (Header × List Nat)

/-- The group that a wave would issue next, its key, whether it is the fairness group, and its fetched clause; none when the wave has no
active lane or its group is held by its clause wait (R59, R101). -/
structure Plan where
  lanes : List Nat
  key : Nat
  due : Bool
  fetched : Fetched

/-- The clause at a key fetched for a wave, and whether the group's wait is met; a clause that cannot be fetched is issued to trap, and one
that a peer has yet to send is waited for. -/
def State.planKey (s : State) (r : WaveRef) (w : Wave) (key : Nat) : (Bool × Fetched) × State :=
  let base := ((s.launchOf r).map (·.record.codeBase)).getD 0
  match s.fetchClause (s.coreOf r) (s.partOf r) (s.spaceOf r) base (key / 16) with
  | (.error f, s1) => ((f.1 != 0, .error f), s1)
  | (.ok c, s1) => ((key % 16 != 0 || w.waitMet c.1, .ok c), s1)

/-- The plan of a wave's next clause issue (R101, R102). -/
def State.plan (s : State) (r : WaveRef) : Option Plan × State :=
  match s.wave? r with
  | none => (none, s)
  | some w =>
    match w.lowKey with
    | none => (none, s)
    | some low =>
      let lowest (s : State) : Option Plan × State :=
        match s.planKey r w low with
        | ((ok, f), s1) => (if ok then some ⟨w.atKey low, low, false, f⟩ else none, s1)
      if w.fairDue low then
        let k := w.fairKey low
        match s.planKey r w k with
        | ((true, f), s1) => (some ⟨w.atKey k, k, true, f⟩, s1)
        | ((false, _), s1) => lowest s1
      else lowest s

/-- The waves that stand in a quarter of a core: the handler wave, and the waves of its resident blocks (R54, R395). -/
def State.wavesOf (s : State) (core quarter : Nat) : List WaveRef :=
  .hdl core quarter :: (s.blocks.filter (fun b => b.core == core && b.place == .resident)).flatMap (fun b =>
    ((upTo b.waves.length).filter (fun w => (b.startQuarter + w) % 4 == quarter)).map (fun w => WaveRef.blk b.uid w))

/-- Whether a wave is in a clause issue. -/
def State.inIssue (s : State) (r : WaveRef) : Bool := s.issues.any (fun i => i.members.any (fun m => m.1 == r && !m.2.isEmpty))

/-- Whether a wave exists and no wave-level stall that stands after an instruction holds it (R59, R99). -/
def State.unheld (s : State) (r : WaveRef) : Bool :=
  match s.wave? r with
  | none => false
  | some w => w.holds.isEmpty && !w.retired

/-- The order in which R60 prefers waves: priority, yielded waves last, then admission order, a launch's handler waves before its others
(R395), block and wave. -/
def State.issueRank (s : State) (r : WaveRef) : List Nat :=
  let la := s.launchOf r
  [7 - (la.map (·.record.priority)).getD 0, if ((s.wave? r).map (·.yielded)).getD false then 1 else 0, (la.map (·.order)).getD 0,
    if isHandler r then 0 else 1, ((s.blockOf r).map (·.lin)).getD 0, waveIndex r]

/-- Lexicographic order of ranks. -/
def rankLe : List Nat → List Nat → Bool
  | [], _ => true
  | _ :: _, [] => false
  | a :: as, b :: bs => decide (a < b) || (a == b && rankLe as bs)

/-- A wave inserted by its rank. -/
def insertRanked (x : WaveRef × List Nat) : List (WaveRef × List Nat) → List (WaveRef × List Nat)
  | [] => [x]
  | h :: t => if rankLe x.2 h.2 then x :: h :: t else h :: insertRanked x t

/-- Waves in the order of R60. -/
def State.ranked (s : State) (rs : List WaveRef) : List WaveRef :=
  ((rs.map (fun r => (r, s.issueRank r))).foldr insertRanked []).map (·.1)

/-- The waves of a quarter that may issue, in the order R60 prefers them: the wave that issued last while it is within a clause, then
the others. -/
def State.candidates (s : State) (core quarter : Nat) : List WaveRef :=
  if s.device.fenced then []
  else
    let all := s.ranked ((s.wavesOf core quarter).filter s.unheld)
    match (s.core core).lastIssue.getD quarter none with
    | none => all
    | some r => if all.contains r && s.inIssue r then r :: all.filter (· != r) else all

/-- The start of a clause issue counted for a wave (R411, Table 23.1): the launch's start time and the blocks that issued. -/
def State.countIssue (s : State) (r : WaveRef) : State :=
  match s.launchKey r with
  | none => s
  | some lid =>
    let now := s.nowOf r
    let s1 := s.modLaunch lid (fun l => { l with started := some (l.started.getD now) })
    match s1.blockOf r with
    | none => s1
    | some b =>
      let s2 := if b.everIssued then s1 else s1.modLaunch lid (fun l => { l with run := sat32 (l.run + 1) })
      s2.modBlock b.uid (fun b => { b with everIssued := true })

/-- The waves of a quarter of one priority lose their yield preference when another of them issues (R60). -/
def State.clearYields (s : State) (core quarter : Nat) (r : WaveRef) : State :=
  let prio (x : WaveRef) : Nat := ((s.launchOf x).map (·.record.priority)).getD 0
  ((s.wavesOf core quarter).filter (fun x => x != r && prio x == prio r)).foldl
    (fun s x => s.modWave x (fun w => { w with yielded := false })) s

/-- The lanes that a wave-mate adds to a formed wave, and the issue-slot positions taken with them: active lanes at the same key, each at a
position of its own, of a ready wave of the same block and quarter whose own wait for the clause is met (R105). -/
def State.mateLanes (s : State) (lead : WaveRef) (key : Nat) (h : Header) (used : List Nat) (m : WaveRef) :
    Option (List Nat × List Nat) :=
  match lead, m, s.wave? m with
  | .blk u _, .blk v _, some w =>
    let ls := (w.atKey key).filter (fun l => !used.contains (w.packPos + l))
    let pos := ls.map (fun l => w.packPos + l)
    if u == v && m != lead && s.quarterOf m == s.quarterOf lead && s.unheld m && !s.inIssue m && !ls.isEmpty &&
        (key % 16 != 0 || w.waitMet h) && (s.plan m).1.isSome then some (ls, used ++ pos)
    else none
  | _, _, _ => none

/-- The formed wave's further members in rising wave index. -/
def State.formMates (s : State) (lead : WaveRef) (key : Nat) (h : Header) :
    List WaveRef → List Nat → List (WaveRef × List Nat)
  | [], _ => []
  | m :: ms, used =>
    match s.mateLanes lead key h used m with
    | none => s.formMates lead key h ms used
    | some p => (m, p.1) :: s.formMates lead key h ms p.2

/-- Whether a wave's present lanes do not all stand at one key. -/
def Wave.spread (w : Wave) : Bool :=
  match w.lanesWhere (fun x => !x.isGone) with
  | [] => false
  | l :: ls => ls.any (fun n => w.keyOf n != w.keyOf l)

/-- Members in rising wave index (R106). -/
def insertMember (x : WaveRef × List Nat) : List (WaveRef × List Nat) → List (WaveRef × List Nat)
  | [] => [x]
  | h :: t => if waveIndex x.1 ≤ waveIndex h.1 then x :: h :: t else h :: insertMember x t

/-- At the end of a clause issue of a wave: the starve counts (R102), the yield bit remembered (R60, R124), and the divergence of an earlier
vote, which lasts until the wave's lanes have come to one key (R104, R105). -/
def Wave.endIssue (w : Wave) (group : List Nat) (yields : Bool) : Wave :=
  { w with
    lanes := mapIdx' (fun l x =>
      if group.contains l then { x with starve := 0 } else if x.isActive then { x with starve := x.starve + 1 } else x) w.lanes
    yielded := yields
    diverged := w.diverged && w.spread }

/-- The end of a clause issue (R101): lanes still in it go to the next header, the fairness state is updated, and the issue counts for
its block (R411) and, when formed, for its partition (R107). -/
def State.endIssue (s : State) (i : Issue) : State :=
  let next := i.hdr + BitVec.ofNat 32 (i.count + 1)
  let s1 := i.members.foldl (fun s m => m.2.foldl (fun s l => s.modLane m.1 l (fun x => { x with vpc := next, slot := 0 })) s) s
  let s2 := i.group.foldl (fun s m => s.modWave m.1 (fun w => w.endIssue m.2 (i.yields || w.yielded))) s1
  { s2 with issues := s2.issues.filter (fun x => x.id != i.id) }

/-- A clause issue begun for a wave's plan with mates (R101, R105): the issue is recorded, or the group traps where its clause cannot be
fetched or is none (R65, R66). -/
def State.beginIssue (s : State) (core quarter : Nat) (r : WaveRef) (p : Plan) (mates : List WaveRef) : State :=
  let s0 := (s.countIssue r).clearYields core quarter r
  let s1 := s0.modWave r (fun w => { w with fairPos := if p.due then p.key else w.fairPos, yielded := false })
  let s2 := s1.modCore core (fun k => { k with lastIssue := setAt k.lastIssue quarter (some r) })
  let hdr : Word := BitVec.ofNat 32 (p.key / 16)
  let s3 := match r with
    | .blk uid _ => s2.modBlock uid (fun b => { b with issued := b.issued + 1 })
    | .hdl _ _ => s2
  match p.fetched with
  | .error f =>
    (s3.takeTraps r p.lanes hdr (p.key % 16) f.1 f.2.1 f.2.2).modWave r (fun w => w.endIssue p.lanes false)
  | .ok c =>
    let own := match s3.wave? r with
      | none => []
      | some w => p.lanes.map (fun l => w.packPos + l)
    let more := if ((s3.wave? r).map (·.diverged)).getD false then s3.formMates r p.key c.1 mates own else []
    let group := more.foldr insertMember [(r, p.lanes)]
    let s4 := more.foldl (fun s m => s.modWave m.1 (fun w => { w with yielded := false })) s3
    let s5 := if more.isEmpty then s4
      else s4.modPart (s4.partOf r) (fun q => { q with cntFormed := wrap64 (q.cntFormed + 1) })
    let f := s5.fresh
    { f.2 with issues := f.2.issues ++
        [⟨f.1, core, quarter, group, group, false, hdr, c.1.count, c.1.cls, c.1.traps, c.1.yields, c.2, p.key % 16 + 1⟩] }

/-- The first of some waves that has a plan, begun; none when none is ready (R59, R60). -/
def State.beginFirst (core quarter : Nat) (mates : List WaveRef) : List WaveRef → State → Option State
  | [], _ => none
  | r :: rs, s =>
    match s.plan r with
    | (some p, s1) => some (s1.beginIssue core quarter r p mates)
    | (none, s1) => State.beginFirst core quarter mates rs s1

/-- The clause issue that a wave is in. -/
def State.issueOf (s : State) (r : WaveRef) : Option Issue :=
  s.issues.find? (fun i => i.members.any (fun m => m.1 == r && !m.2.isEmpty))

/-- The issue address of a clause issue: the key of the instruction it stands at (R60, R101). -/
def Issue.addr (i : Issue) : Nat := 16 * i.hdr.toNat + (i.pos - 1)

/-- The pack-mates of a wave that may issue, in the order of R60 (R58). -/
def State.packMates (s : State) (core quarter : Nat) (r : WaveRef) : List WaveRef :=
  match s.wave? r with
  | none => []
  | some w => (s.candidates core quarter).filter (fun m => m != r && !isHandler m && !isHandler r && s.launchKey m == s.launchKey r &&
      (s.wave? m).map (·.pack) == some w.pack)

/-- Pack-mates that stand at the issue address begin their clause issues in the same cycle (R60). -/
def State.beginMates (core quarter addr : Nat) : List WaveRef → State → State
  | [], s => s
  | m :: ms, s =>
    if s.inIssue m then State.beginMates core quarter addr ms s
    else
      match s.plan m with
      | (some p, s1) => State.beginMates core quarter addr ms (if p.key == addr then s1.beginIssue core quarter m p [] else s1)
      | (none, s1) => State.beginMates core quarter addr ms s1

/-- A wave that has issued in a quarter is the one that R60 keeps while it is within its clause, and ends the yield of the others. -/
def State.noteIssue (s : State) (core quarter : Nat) (r : WaveRef) : State :=
  (s.clearYields core quarter r).modCore core (fun k => { k with lastIssue := setAt k.lastIssue quarter (some r) })

/-- The members that a hold keeps back part from a clause issue into one of their own; a home wave's stall holds no other (R99,
R106). -/
def State.partHeld (s : State) (i : Issue) : State :=
  let held := i.members.filter (fun m => !m.2.isEmpty && !s.unheld m.1)
  let free := i.members.filter (fun m => m.2.isEmpty || s.unheld m.1)
  if held.isEmpty || free.all (fun m => m.2.isEmpty) then s
  else
    let f := s.fresh
    let pick (l : List (WaveRef × List Nat)) (ms : List (WaveRef × List Nat)) := l.filter (fun g => ms.any (fun m => m.1 == g.1))
    { f.2 with issues := f.2.issues.flatMap (fun x =>
        if x.id == i.id then
          [{ x with members := free, group := pick x.group free },
            { x with id := f.1, members := held, group := pick x.group held }]
        else [x]) }

/-- A wave is held back at its position before the instruction takes effect (R99): alone, the clause issue stays; among others, its part
becomes an issue of its own that stays. -/
def State.stall (s : State) (r : WaveRef) : State :=
  match s.curIssue with
  | none => s
  | some i =>
    if i.members.any (fun m => m.1 != r && !m.2.isEmpty) then
      let f := s.fresh
      { f.2 with issues := f.2.issues.flatMap (fun x =>
          if x.id == i.id then
            [{ x with members := x.members.filter (fun m => m.1 != r), group := x.group.filter (fun m => m.1 != r) },
              { x with id := f.1, stalled := true, members := x.members.filter (fun m => m.1 == r),
                       group := x.group.filter (fun m => m.1 == r) }]
          else [x]) }
    else { s with stay := true }

/-- The clause issue in hand moves past its position, or stays when it was held back; after its last position, or when no lane is left in
it, it ends (R101). -/
def State.advance (s : State) : State :=
  match s.curIssue with
  | none => { s with cur := none, stay := false }
  | some i =>
    let s1 := { s with cur := none, stay := false }
    if s.stay then s1.modIssue i.id (fun x => { x with stalled := true })
    else if i.count ≤ i.pos || i.live.isEmpty then s1.endIssue i
    else s1.modIssue i.id (fun x => { x with pos := x.pos + 1, stalled := false })

/-- CLAUSE_ISSUE (R60, R101, R105): when no clause issue of the quarter can go on, the preferred ready wave begins one, with the given
mates formed with it. -/
def State.clauseIssueStep (s : State) (core quarter : Nat) (mates : List WaveRef) : State :=
  let mine := s.issues.filter (fun i => i.core == core && i.quarter == quarter)
  if mine.all (fun i => i.stalled || i.members.all (fun m => m.2.isEmpty || !s.unheld m.1)) then
    let ready := (s.candidates core quarter).filter (fun r => !s.inIssue r)
    (State.beginFirst core quarter mates ready s).getD s
  else s

/-- Mid-clause lanes of a block keep their slot, and its clause issues end (R412). -/
def State.parkBlock (s : State) (uid : Nat) : State :=
  let mine (m : WaveRef × List Nat) : Bool := match m.1 with | .blk u _ => u == uid | .hdl _ _ => false
  let s1 := s.issues.foldl (fun s i =>
    (i.members.filter mine).foldl (fun s m =>
      m.2.foldl (fun s l => s.modLane m.1 l (fun x => { x with vpc := i.hdr, slot := i.pos - 1 })) s) s) s
  let cut (i : Issue) : Issue := { i with members := i.members.filter (fun m => !mine m) }
  { s1 with issues := (s1.issues.map cut).filter (fun i => !i.live.isEmpty) }

end Sys2Proof.Machine
end

