-- ==== Sys2Proof/Machine/Lease.lean ====
section
/-! DEFINITION. Copies held away from home: L1 lines and replicas with their leases (R236 to R240, R324 to R328), what a load returns,
and the scope checker (R337 to R339). -/

namespace Sys2Proof.Machine

/-- The lease length of an access by its page, and with the long-lease hint (R253, R269, Table 9.6). -/
def leaseLength (a : PageAttr) (long : Bool) : Nat := if long then 65536 else 2 ^ (6 + a.lease)

/-- The copy of a line in a core's L1 whose lease has not run out (R324). -/
def State.l1Copy (s : State) (core part line : Nat) : Option L1Line :=
  (s.core core).l1.find? (fun x => x.part == part && x.line == line && decide (s.leaseNow (dieOfCore core) < x.expiry))

/-- A core's L1 without a line. -/
def State.l1Drop (s : State) (core part line : Nat) : State :=
  s.modCore core (fun k => { k with l1 := k.l1.filter (fun x => !(x.part == part && x.line == line)) })

/-- A line put in a core's L1 of 2,048 lines; run-out copies leave (R324). -/
def State.l1Put (s : State) (core : Nat) (x : L1Line) : State :=
  let now := s.leaseNow (dieOfCore core)
  s.modCore core (fun k =>
    { k with l1 := (x :: k.l1.filter (fun y => !(y.part == x.part && y.line == x.line) && decide (now < y.expiry))).take 2048 })

/-- A store's bytes, and the scales of `st.mx`, written into a core's copy of its line (R254, R258), the copy placed first for
replacement when `last` (R255). A full-line write clears the copy's poison mark as it clears the line's (R221, R229). -/
def State.l1Store (s : State) (core part line : Nat) (a : PageAttr) (ws scales : List (Nat × Byte)) (last : Bool) : State :=
  let full := isFullLine (s.layoutAt part line a) ws scales
  s.modCore core (fun k =>
    let mine (x : L1Line) : Bool := x.part == part && x.line == line
    let l := k.l1.map (fun x => if mine x then
        { x with bytes := writeOffsets x.bytes ws, side := writeOffsets x.side scales, poison := x.poison && !full } else x)
    { k with l1 := if last then l.filter (fun x => !mine x) ++ l.filter mine else l })

/-- A lane's bytes at their offsets in the line (R254). -/
def OpLane.writes (l : OpLane) : List (Nat × Byte) := mapIdx' (fun i b => (l.pa % 128 + i, b)) (bytesLE l.size l.data)

/-- The bytes that a line group writes, in rising home lane order (R247). -/
def OpGroup.writes (g : OpGroup) : List (Nat × Byte) := g.lanes.flatMap OpLane.writes

/-- The scales that a line group writes (R258). -/
def OpGroup.scaleWrites (g : OpGroup) : List (Nat × Byte) := g.blocks.map (fun b => (b.side, BitVec.ofNat 8 b.code))

/-- Whether two byte ranges of a line overlap. -/
def OpLane.overlaps (x y : OpLane) : Bool := decide (x.pa < y.pa + y.size) && decide (y.pa < x.pa + x.size)

/-- Whether two groups touch a common byte of one line, or a common scale of its side bytes (R257, R258). -/
def OpGroup.overlaps (g h : OpGroup) : Bool :=
  g.line == h.line && (g.lanes.any (fun x => h.lanes.any (fun y => x.overlaps y)) ||
    g.blocks.any (fun x => h.blocks.any (fun y => x.side == y.side)))

/-- Whether a kind writes global memory. -/
def MemKind.writes : MemKind → Bool
  | .store | .storeMx => true
  | .atomic _ _ _ => true
  | _ => false

/-- Whether a kind accesses global memory at a line's home and keeps the order of R249. -/
def MemKind.isGlobal : MemKind → Bool
  | .load _ | .loadMx | .store | .storeMx | .sload _ | .tdset _ => true
  | .atomic _ _ _ => true
  | .wait _ _ _ => true
  | _ => false

/-- The stores of a core that have updated its L1 and are not yet performed, on a line (R254). -/
def State.l1Pending (s : State) (core part line : Nat) : List (Nat × OpGroup) :=
  (s.memOps.filter (fun o => o.core == core && o.part == part)).flatMap (fun o =>
    (o.groups.filter (fun g => g.l1 && !g.performed && g.line == line)).map (fun g => (o.id, g)))

/-- Whether an earlier access of the same wave to bytes of the group is not yet performed (R249). With `l1` a store that has updated the
core's L1 does not count: the copy already holds it. -/
def State.earlierOpen (s : State) (o : MemOp) (g : OpGroup) (l1 : Bool) : Bool :=
  s.memOps.any (fun p => p.wave == o.wave && decide (p.id < o.id) && p.kind.isGlobal && p.part == o.part &&
    p.groups.any (fun h => !h.performed && !(l1 && h.l1) && h.overlaps g))

/-- Whether a store of the same core that has updated its L1 on bytes of the group, issued before number `id`, is not yet performed (R327,
R328). -/
def State.coreStoreOpen (s : State) (core part id : Nat) (g : OpGroup) : Bool :=
  (s.l1Pending core part g.line).any (fun h => decide (h.1 < id) && h.2.overlaps g)

/-- Where a replica of a line for a core is made: the lowest-numbered slice of its die that the partition owns, when the home lies on
another die (R238). -/
def State.replicaSlice (s : State) (core part line : Nat) : Option Nat :=
  match s.homeOf part line with
  | none => none
  | some h =>
    if dieOfSlice h == dieOfCore core then none
    else (sliceList (s.part part).slices).find? (fun i => dieOfSlice i == dieOfCore core)

/-- A core no longer takes a line from a replica: it has observed or written the line at home (R249, R327, R328). -/
def State.barReplica (s : State) (core part line : Nat) : State :=
  match s.replicaSlice core part line with
  | none => s
  | some i => s.modSlice i (fun sl => { sl with tags := sl.tags.map (fun t =>
      if t.line == line && t.state == TagState.replica then { t with barred := insertSorted core t.barred } else t) })

/-- The unexpired replica of a line in a slice that may serve a core (R239). -/
def State.replicaFor (s : State) (core i line : Nat) : Option Tag :=
  match (s.slice i).replicaTag line with
  | none => none
  | some t => if decide (s.leaseNow (dieOfSlice i) < t.lease) && !t.barred.contains core then some t else none

/-- A replica of a line filled from home with a lease that home grants; one that had run out leaves first (R238). -/
def State.makeReplica (s : State) (i part space line launch length : Nat) (a : PageAttr) : State :=
  let s0 := s.fillLine part space line a false
  let c := s0.homeLine part line
  let expiry := s0.leaseNow (s0.homeDie part line) + length
  let s1 := s0.grant part line expiry
  let s2 := match (s1.slice i).replicaTag line with
    | none => s1
    | some t => s1.evict i t
  let t := { newTag part space line 0 a c.2.2 with state := .replica, lease := expiry, launch := launch }
  s2.placeAt part i t c.1 c.2.1

/-- A line as a load receives it: payload, side bytes, poison mark, and the expiry its L1 copy would have. -/
structure Fetch where
  bytes : List Byte
  side : List Byte
  poison : Bool
  expiry : Nat
  deriving DecidableEq, Repr

/-- A line served by its home with a lease granted (R236, R253), or by a replica under the replicate hint (R238, R239). -/
def State.serveLine (s : State) (core part space line launch : Nat) (a : PageAttr) (rep long : Bool) : Fetch × State :=
  let fromHome (s : State) : Fetch × State :=
    let s1 := s.fillLine part space line a false
    let c := s1.homeLine part line
    let expiry := s1.leaseNow (s1.homeDie part line) + leaseLength a long
    (⟨c.1, c.2.1, c.2.2, expiry⟩, (s1.grant part line expiry).barReplica core part line)
  match (if rep && a.replicate then s.replicaSlice core part line else none) with
  | none => fromHome s
  | some i =>
    let from_ (s : State) (t : Tag) : Fetch × State :=
      let c := (s.slice i).content t
      (⟨c.1, c.2, t.poison, min t.lease (s.leaseNow (dieOfSlice i) + leaseLength a long)⟩, s)
    match s.replicaFor core i line with
    | some t => from_ s t
    | none =>
      if ((s.slice i).replicaTag line).any (fun t => t.barred.contains core && decide (s.leaseNow (dieOfSlice i) < t.lease)) then fromHome s
      else
        let s1 := s.makeReplica i part space line launch (leaseLength a long) a
        match (s1.slice i).replicaTag line with
        | none => fromHome s1
        | some t => from_ s1 t

/-- A line fetched for a load of a core: its L1 copy, or served and filled into the L1, except that a fill older than a store the L1 has
taken is not taken (R253, R327). -/
def State.loadLine (s : State) (core part space line launch : Nat) (a : PageAttr) (rep long : Bool) : Fetch × State :=
  match s.l1Copy core part line with
  | some x => (⟨x.bytes, x.side, x.poison, x.expiry⟩, s)
  | none =>
    let r := s.serveLine core part space line launch a rep long
    if (r.2.l1Pending core part line).isEmpty then
      (r.1, r.2.l1Put core ⟨part, line, r.1.bytes, r.1.side, r.1.expiry, r.1.poison⟩)
    else r

/-- The accessor's scope level and instance for the checker (R337, R338), with its block's linear identifier, cluster index and cluster
size; a handler lane's block and cluster scopes count as device scope (R396). -/
def State.accessor (s : State) (r : WaveRef) (scope : Nat) : Nat × Nat × Nat × Nat :=
  let c := ((s.launchOf r).map (·.record.cluster)).getD 1
  match s.blockOf r with
  | none => (max 2 scope, 0, 0, c)
  | some b => (scope, b.lin, b.lin / c, c)

/-- The scope check of R338 on a record, and the record it leaves: none when the lane traps. -/
def scopeCheck (rec : Option ScopeRecord) (a : Nat × Nat × Nat × Nat) : Option ScopeRecord :=
  let sc := a.1
  let b := a.2.1 % 2048
  let cl := a.2.2.1 % 2048
  let c := a.2.2.2
  let own : ScopeRecord := ⟨sc, if sc = 0 then b else if sc = 1 then cl else 0⟩
  match rec with
  | none => some own
  | some r =>
    let recorder := decide (2 ≤ r.level) || (r.level == 1 && r.inst == cl) || (r.level == 0 && r.inst == b)
    let accessor := decide (2 ≤ sc) || (sc == 1 && r.level == 1 && r.inst == cl) ||
      (sc == 1 && r.level == 0 && decide ((r.inst + c * 2048 * 2048 - c * a.2.2.1 % 2048) % 2048 < c)) ||
      (sc == 0 && r.level == 0 && r.inst == b)
    if !recorder && !accessor then none else some own

/-- The scope record of a line's home tag. -/
def State.scopeOf (s : State) (part line : Nat) : Option ScopeRecord :=
  match s.homeOf part line with
  | none => none
  | some i => ((s.slice i).homeTag line).bind (·.scope)

/-- The state with the scope record of a line's home tag set. -/
def State.setScope (s : State) (part line : Nat) (r : ScopeRecord) : State :=
  match s.homeOf part line with
  | none => s
  | some i => s.modSlice i (fun sl => { sl with tags := sl.tags.map (fun t =>
      if t.line == line && t.state != TagState.replica then { t with scope := some r } else t) })

/-- One lane's synchronising access checked at home (R338): true when it may take effect. A failing lane traps with cause 0x07 at the
access. -/
def State.checkScope (s : State) (o : MemOp) (a : PageAttr) (line lane va : Nat) : Bool × State :=
  if !a.scopeCheck then (true, s)
  else
    let s1 := s.fillLine o.part o.space line a false
    match scopeCheck (s1.scopeOf o.part line) (s1.accessor o.wave o.scope) with
    | some r => (true, s1.setScope o.part line r)
    | none => (false, s1.takeTrap o.wave lane o.vpc o.slot 0x07 0 va)

/-- Several lanes checked in rising home lane order: those that may take effect. -/
def State.checkScopes (s : State) (o : MemOp) (a : PageAttr) (line : Nat) : List OpLane → List OpLane × State
  | [] => ([], s)
  | l :: ls =>
    let r := s.checkScope o a line l.lane l.va
    let q := r.2.checkScopes o a line ls
    (if r.1 then l :: q.1 else q.1, q.2)

end Sys2Proof.Machine
end

