-- ==== Sys2Proof/Machine/MemIssue.lean ====
section
/-! DEFINITION. The issue of global memory instructions: wave-level stalls, the checks of each lane in the order of R246 and R374, the
grouping by line (R247), and the operation counted and put in flight (R248). -/

namespace Sys2Proof.Machine

/-- Whether a memory instruction of a wave is held back: an acquire or a `waitu` of the wave has not returned (R329, R348), or, for a
counted instruction, `oc.mem` stands at its greatest value (R59). -/
def Wave.memBlocked (w : Wave) (counted : Bool) : Bool :=
  !w.acquires.isEmpty || w.groups.any (·.delivers) || (counted && decide (15 ≤ w.ocMem))

/-- An instruction with T not empty stalls while its wave is held back, and runs otherwise (R99). -/
def State.unlessBlocked (s : State) (c : Ctx) (ts : List Nat) (blocked : Bool) (t : State) : State :=
  if blocked && !ts.isEmpty then s.stall c.r else t

/-- A lane served by a global instruction: its address and the translation of its page. -/
structure Served where
  lane : Nat
  va : Nat
  entry : TlbEntry
  deriving DecidableEq, Repr

/-- The physical address of a served lane. -/
def Served.pa (x : Served) : Nat := x.entry.pa x.va

/-- One lane's address checked in the order of R246 and R374: alignment, translation, reachability, permission, then the pod map.
`pod` is the kind of pod access, none for an instruction that the pod range refuses. The lane is served, or has trapped. -/
def State.admitLane (s : State) (c : Ctx) (align : Nat) (kind : AccessKind) (pod : Option Nat) (l va : Nat) : Option Served × State :=
  let part := s.partOf c.r
  if va % align != 0 then (none, s.trapAt c [l] 0x0A 0 va)
  else
    match s.checkAccess (s.coreOf c.r) part (s.spaceOf c.r) va kind with
    | (.error f, s1) => (none, s1.trapAt c [l] f.1 f.2 va)
    | (.ok e, s1) =>
      if isPod (e.pa va) then
        match pod with
        | none => (none, s1.trapAt c [l] 0x10 0 va)
        | some k =>
          let r := s1.podCheck part (e.pa va) k
          if r.1 then (some ⟨l, va, e⟩, r.2) else (none, r.2.trapAt c [l] 0x10 0 va)
      else (some ⟨l, va, e⟩, s1)

/-- The lanes of a global instruction checked in rising home lane order: the served ones, and the state in which the others have trapped
(R246). -/
def State.admitLanes (s : State) (c : Ctx) (align : Nat) (kind : AccessKind) (pod : Option Nat) (va : Nat → Nat) :
    List Nat → List Served × State
  | [] => ([], s)
  | l :: ls =>
    let r := s.admitLane c align kind pod l (va l)
    let q := r.2.admitLanes c align kind pod va ls
    (r.1.toList ++ q.1, q.2)

/-- The offset of field off6 in bytes (R244). -/
def offBytes (o : BitVec 6) (unit : Nat) : Int := signExt o.toNat 6 * unit

/-- A lane's global address (R244). -/
def Wave.globalAddr (w : Wave) (b : Nat) (off : Int) (l : Nat) : Nat := natOfInt ((w.reg64 l b : Int) + off) 64

/-- A wave's scalar global address (R244). -/
def Wave.scalarAddr (w : Wave) (b : Nat) (off : Int) : Nat := natOfInt ((w.sreg64 b : Int) + off) 64

/-- A lane's scratchpad address (R244). -/
def Wave.scratchAddr (w : Wave) (b : Nat) (off : Int) (l : Nat) : Nat := natOfInt (((w.reg l b).toNat : Int) + off) 32

/-- A line group of an operation before it is performed. -/
def OpGroup.open_ (line : Nat) (a : PageAttr) (lanes : List OpLane) : OpGroup :=
  ⟨line, a, lanes, [], false, false, false, false, none, [], [], none, 0⟩

/-- Served lanes grouped by line, at home or at the peer (R247). -/
def groupServed (sv : List Served) (mk : Served → OpLane) : List OpGroup :=
  let lines := sortDedup (sv.map (fun x => x.pa / 128))
  let attrOf_ (l : Nat) : PageAttr := ((sv.find? (fun x => x.pa / 128 == l)).map (·.entry.attr)).getD .plain
  lines.map (fun l => OpGroup.open_ l (attrOf_ l) ((sv.filter (fun x => x.pa / 128 == l)).map mk))

/-- The served lanes of an atomic grouped by line; on the pod range each lane's atomic is a request of its own, in rising lane order
(R263, R374). -/
def groupAtoms (sv : List Served) (mk : Served → OpLane) : List OpGroup :=
  groupServed (sv.filter (fun x => !isPod x.pa)) mk ++
    (sv.filter (fun x => isPod x.pa)).map (fun x => OpGroup.open_ (x.pa / 128) x.entry.attr [mk x])

/-- A memory operation of a wave at the instruction of a context. -/
def State.newOp (s : State) (c : Ctx) (id : Nat) (kind : MemKind) (scope qual : Nat) (acq rel : Bool) (groups : List OpGroup)
    (counted : Bool) : MemOp :=
  { id := id, kind := kind, wave := c.r, core := s.coreOf c.r, part := s.partOf c.r, space := s.spaceOf c.r
    launch := (s.launchKey c.r).getD 0, scope := scope, qual := qual, acquire := acq, release := rel, relDone := false
    vpc := c.hdr, slot := c.slot, groups := groups, completion := 0, counted := counted, ended := false, groupNo := 0 }

/-- An operation put in flight: counted in `oc.mem` when it counts (R248), listed as an acquire (R329), and holding the wave when
`held`. -/
def State.putOp (s : State) (c : Ctx) (mk : Nat → MemOp) (held : Bool) : State :=
  let f := s.fresh
  let o := mk f.1
  let s1 := { f.2 with memOps := f.2.memOps ++ [o] }
  s1.modWave c.r (fun w =>
    { w with
      ocMem := if o.counted then w.ocMem + 1 else w.ocMem
      acquires := if o.acquire then w.acquires ++ [f.1] else w.acquires
      holds := if held then w.holds ++ [.op f.1] else w.holds })

/-- Whether a synchronising access holds its wave until its scope checks are made at home (R338). -/
def checksScope (groups : List OpGroup) : Bool := groups.any (fun g => g.attr.scopeCheck && !isPod (128 * g.line))

/-- A counted operation put in flight; when it synchronises on a page with scope check it holds the wave until its checks are made, and a
scalar load holds it until it returns (R270, R338). -/
def State.launchOp (s : State) (c : Ctx) (kind : MemKind) (scope qual : Nat) (acq rel sync : Bool) (groups : List OpGroup) : State :=
  s.putOp c (fun id => s.newOp c id kind scope qual acq rel groups true)
    (match kind with
      | .sload _ => true
      | _ => sync && checksScope groups)

/-- A lane whose registers `rs` an instruction of its own marks empty (R252). -/
def Lane.awaits (x : Lane) (rs : List Nat) : Lane :=
  if rs.isEmpty then x else rs.foldl (fun x r => x.markEmpty r) { x with ldsOwn := none }

/-- The destination registers of served lanes become empty (R252). -/
def State.emptyDests (s : State) (c : Ctx) (ls : List Nat) (rs : List Nat) : State :=
  s.modWave c.r (fun w => w.modLanes ls (fun x => x.awaits rs))

/-- A lane whose own load, atomic or wait at a context's instruction has faulted: its destinations are empty until the instruction is
executed again, which does not wait for them (R109, R209, R250; log entry 64). -/
def Lane.faulted (x : Lane) (c : Ctx) (rs : List Nat) : Lane :=
  if rs.isEmpty then x else rs.foldl (fun x r => x.markEmpty r) { x with ldsOwn := some (c.hdr, c.slot, rs) }

/-- The lanes that passed their gates and are not served keep their destinations empty (R109, R250). -/
def State.faultDests (s : State) (c : Ctx) (passed served rs : List Nat) : State :=
  s.modWave c.r (fun w => w.modLanes (passed.filter (fun l => !served.contains l)) (fun x => x.faulted c rs))

/-- The registers that a lane's own waiting `lds`, or its own faulting load, at a context's instruction has marked (R250, R259). -/
def Wave.ldsMarks (w : Wave) (c : Ctx) (l : Nat) : List Nat :=
  match (w.lanes[l]?).bind (·.ldsOwn) with
  | some (v, n, rs) => if v == c.hdr && n == c.slot then rs else []
  | none => []

/-- What a lane needs full for an instruction that names registers: all of them but those its own earlier attempt marked (R250, R259). -/
def Wave.ownNeeds (w : Wave) (c : Ctx) (rs : List Nat) (l : Nat) : List (Nat × Nat) :=
  (rs.filter (fun r => !(w.ldsMarks c l).contains r)).map (fun r => (l, r))

/-- `n` registers from `d`. -/
def regRun (d : BitVec 6) (n : Nat) : List Nat := rangeFrom d.toNat n

/-- The even pair of an address base. -/
def basePair (b : BitVec 6) : List Nat := [b.toNat, b.toNat + 1]

/-- The lane part of an operation. -/
def Served.opLane (x : Served) (size data swap : Nat) (dest : List Nat) : OpLane := ⟨x.lane, x.va, x.pa, size, data, swap, dest⟩

/-- Global loads (R252, R253): `n` destination registers, `size` bytes. -/
def State.globalLoad (s : State) (i : Instr) (d b o : BitVec 6) (sc q : BitVec 2) (g : BitVec 4) (size n : Nat) (signed : Bool) :
    Host.Outcome State Fault Refusal :=
  s.execWord i false (regRun d n ++ basePair b) [] (fun _ => true) (fun c w s =>
    let t := c.t w g
    s.unlessBlocked c t (w.memBlocked true) (
      let r := s.gates c w (w.ownNeeds c (regRun d n ++ basePair b)) t
      let v := r.2.admitLanes c size .read (some 0) (w.globalAddr b.toNat (offBytes o size)) r.1
      let s1 := v.2.faultDests c r.1 (v.1.map (·.lane)) (regRun d n)
      if v.1.isEmpty then s1
      else
        (s1.emptyDests c (v.1.map (·.lane)) (regRun d n)).launchOp c (.load signed) sc.toNat q.toNat (q == 1) false (q == 1)
          (groupServed v.1 (fun x => x.opLane size 0 0 (regRun d n)))))

/-- A store takes its place in the issuing core's L1 at issue, unless it is a release: the groups whose line the L1 holds (R254, R329; log
entry 22). -/
def State.storeL1 (s : State) (c : Ctx) (qual : Nat) : List OpGroup → List OpGroup × State
  | [] => ([], s)
  | g :: gs =>
    let core := s.coreOf c.r
    let part := s.partOf c.r
    let hit := qual != 1 && !isPod (128 * g.line) && (s.l1Copy core part g.line).isSome
    let s1 := if hit then s.l1Store core part g.line g.attr g.writes g.scaleWrites (qual == 2) else s
    let r := s1.storeL1 c qual gs
    ({ g with l1 := hit } :: r.1, r.2)

/-- Global stores (R254, R255): `n` data registers, `size` bytes. -/
def State.globalStore (s : State) (i : Instr) (d b o : BitVec 6) (sc q : BitVec 2) (g : BitVec 4) (size n : Nat) :
    Host.Outcome State Fault Refusal :=
  s.execWord i false (regRun d n ++ basePair b) [] (fun _ => true) (fun c w s =>
    let t := c.t w g
    s.unlessBlocked c t (w.memBlocked true) (
      let r := s.gates c w (fun l => (regRun d n ++ basePair b).map (fun x => (l, x))) t
      let v := r.2.admitLanes c size .write (some 1) (w.globalAddr b.toNat (offBytes o size)) r.1
      if v.1.isEmpty then v.2
      else
        let gs := groupServed v.1 (fun x => x.opLane size (w.regs x.lane d.toNat n % 2 ^ (8 * size)) 0 [])
        let l1 := v.2.storeL1 c q.toNat gs
        l1.2.launchOp c .store sc.toNat q.toNat false (q == 1) (q == 1) l1.1))

/-- Global atomics (R263, R265): `nd` operand registers of which the compare or operand takes `size` bytes; the old value returns to the
first of them. -/
def State.globalAtomic (s : State) (i : Instr) (d b o : BitVec 6) (sc q : BitVec 2) (g : BitVec 4) (size nd sub : Nat) :
    Host.Outcome State Fault Refusal :=
  s.execWord i false (regRun d nd ++ basePair b) [] (fun _ => true) (fun c w s =>
    let t := c.t w g
    let ret := q == 1 || q == 2
    let order := q == 2 || q == 3
    let back := if ret then regRun d (size / 4) else []
    s.unlessBlocked c t (w.memBlocked true) (
      let r := s.gates c w (w.ownNeeds c (regRun d nd ++ basePair b)) t
      let v := r.2.admitLanes c size .write (some 2) (w.globalAddr b.toNat (offBytes o size)) r.1
      let s1 := v.2.faultDests c r.1 (v.1.map (·.lane)) back
      if v.1.isEmpty then s1
      else
        let n := size / 4
        (s1.emptyDests c (v.1.map (·.lane)) back).launchOp c (.atomic sub (size == 8) ret) sc.toNat q.toNat order order true
          (groupAtoms v.1 (fun x => x.opLane size (w.regs x.lane d.toNat n) (w.regs x.lane (d.toNat + n) n) back))))

/-- The layout an MX access needs of a lane's page (R256): the page is bound and tolerant, and its block fits in the wave. -/
def Wave.mxPageOk (w : Wave) (a : PageAttr) : Bool := a.bound && a.tolerant && decide (blockLanes (a.bfmt == 3) a.bk ≤ w.width)

/-- The groups of R256 among served lanes in rising order: each with the lanes of the lowest one's block. -/
def mxGroups : (fuel : Nat) → List Served → List (List Served)
  | 0, _ => []
  | _, [] => []
  | n + 1, x :: xs =>
    let k := blockLanes (x.entry.attr.bfmt == 3) x.entry.attr.bk
    let mine (y : Served) : Bool := y.lane / k == x.lane / k
    (x :: xs.filter mine) :: mxGroups n (xs.filter (fun y => !mine y))

/-- A group's anchor (R256): the virtual address of its block's first byte, when every lane stands at its place in one block. -/
def mxAnchor (grp : List Served) : Option Nat :=
  match grp with
  | [] => none
  | m :: _ =>
    let a := m.entry.attr
    let k := blockLanes (a.bfmt == 3) a.bk
    let i (x : Served) : Nat := x.lane % k
    if m.va < 4 * i m then none
    else
      let anchor := m.va - 4 * i m
      if anchor % boundBlockBytes a.bfmt a.bk == 0 && grp.all (fun x => x.va == anchor + 4 * i x) then some anchor else none

/-- The octet lanes of the slots that a group's block occupies (R193, R257). -/
def mxOctetLanes (m : Served) : List Nat :=
  let p := blockSlots (m.entry.attr.bfmt == 3) m.entry.attr.bk m.lane
  sortDedup ((p.1 ++ p.2).map (fun x => 8 * x.1))

/-- The scale slots of a group's block, with the side byte of its line. -/
def mxBlock (m : Served) (anchor code : Nat) : OpBlock :=
  let a := m.entry.attr
  let p := blockSlots (a.bfmt == 3) a.bk m.lane
  ⟨anchor % 128 / boundBlockBytes a.bfmt a.bk, code, p.1, p.2⟩

/-- The lanes of an MX instruction that pass its page checks: the others trap with cause 0x0F (R246, R256). -/
def State.mxAdmit (s : State) (c : Ctx) (w : Wave) (sv : List Served) : List Served × State :=
  (sv.filter (fun x => w.mxPageOk x.entry.attr),
    (sv.filter (fun x => !w.mxPageOk x.entry.attr)).foldl (fun s x => s.trapAt c [x.lane] 0x0F 0 0) s)

/-- The groups of an MX instruction that take effect: misplaced lanes trap with cause 0x0A, and lanes whose octet lanes are not full wait
or trap (R193, R256). Each group comes with its anchor. -/
def State.mxPass (s : State) (c : Ctx) (w : Wave) (needs : Served → List (Nat × Nat)) :
    List (List Served) → List (List Served × Nat) × State
  | [] => ([], s)
  | grp :: gs =>
    match grp, mxAnchor grp with
    | m :: _, some anchor =>
      let gate := w.gate c.te (needs m)
      let s1 := grp.foldl (fun s x => s.passGate c x.lane gate) s
      let r := s1.mxPass c w needs gs
      (if gate == .go then (grp, anchor) :: r.1 else r.1, r.2)
    | _, _ =>
      let s1 := grp.foldl (fun s x => s.trapAt c [x.lane] 0x0A 0 x.va) s
      s1.mxPass c w needs gs

/-- The line groups of an MX operation: blocks of one line together. -/
def mxLines (gs : List (List Served × Nat)) (mk : Served → OpLane) (code : Served → Nat) (extra : Served → List OpLane) :
    List OpGroup :=
  let line (g : List Served × Nat) : Nat := ((g.1.head?).map (fun x => x.pa / 128)).getD 0
  (sortDedup (gs.map line)).map (fun n =>
    let mine := gs.filter (fun g => line g == n)
    let a := ((mine.head?.bind (fun g => g.1.head?)).map (·.entry.attr)).getD .plain
    { OpGroup.open_ n a (mine.flatMap (fun g => g.1.map mk ++ (g.1.head?.map extra).getD [])) with
      blocks := mine.flatMap (fun g => (g.1.head?.map (fun m => mxBlock m g.2 (code m))).toList) })

/-- `ld.mx` (R256, R257). Lanes that only head an octet of a block's rail slots are listed with size 0: they become full again when the
operation returns. -/
def execLdMx (d b o : BitVec 6) (s q : BitVec 2) (g : BitVec 4) (sx : State) : Host.Outcome State Fault Refusal :=
  sx.execWord (.ldMx d b o s q g) false (d.toNat :: basePair b) [] (fun _ => true) (fun c w st =>
    let t := c.t w g
    st.unlessBlocked c t (w.memBlocked true) (
      let r := st.gates c w (w.ownNeeds c (d.toNat :: basePair b)) t
      let v := r.2.admitLanes c 4 .read none (w.globalAddr b.toNat (offBytes o 4)) r.1
      let m := v.2.mxAdmit c w v.1
      let gs := mxGroups 64 m.1
      let own (l : Nat) : Bool := (w.ldsMarks c l).contains d.toNat
      let q0 := m.2.mxPass c w (fun x => ((mxOctetLanes x).filter (fun l => !own l)).map (fun l => (l, d.toNat))) gs
      let placed := (gs.filter (fun g => (mxAnchor g).isSome)).flatMap (fun g => g.map (·.lane))
      let p := (q0.1, q0.2.faultDests c r.1 placed [d.toNat])
      if p.1.isEmpty then p.2
      else
        let served := p.1.flatMap (fun x => x.1.map (·.lane))
        let heads := (sortDedup (p.1.flatMap (fun x => ((x.1.head?).map mxOctetLanes).getD []))).filter (fun l => !served.contains l)
        let keep (x : Served) : List OpLane := ((mxOctetLanes x).filter (fun l => heads.contains l)).map
          (fun l => ⟨l, x.va, 0, 0, 0, 0, [d.toNat]⟩)
        (p.2.emptyDests c (served ++ heads) [d.toNat]).launchOp c .loadMx s.toNat q.toNat (q == 1) false (q == 1)
          (mxLines p.1 (fun x => x.opLane 4 0 0 [d.toNat]) (fun _ => 0) keep)))

/-- `st.mx` (R256, R258). -/
def execStMx (d b o : BitVec 6) (s q : BitVec 2) (g : BitVec 4) (sx : State) : Host.Outcome State Fault Refusal :=
  sx.execWord (.stMx d b o s q g) false (d.toNat :: basePair b) [] (fun _ => true) (fun c w st =>
    let t := c.t w g
    let four (x : Served) : Bool := x.entry.attr.bfmt == 3
    st.unlessBlocked c t (w.memBlocked true) (
      let r := st.gates c w (fun l => (d.toNat :: basePair b).map (fun x => (l, x))) t
      let v := r.2.admitLanes c 4 .write none (w.globalAddr b.toNat (offBytes o 4)) r.1
      let m := v.2.mxAdmit c w v.1
      let p := m.2.mxPass c w (fun x => [(8 * (leadSlot (four x) x.entry.attr.bk x.lane).1, d.toNat)]) (mxGroups 64 m.1)
      if p.1.isEmpty then p.2
      else
        let gs := mxLines p.1 (fun x => x.opLane 4 (w.reg x.lane d.toNat).toNat 0 [])
          (fun x => w.blockScale (four x) x.entry.attr.bk d.toNat x.lane) (fun _ => [])
        let l1 := p.2.storeL1 c q.toNat gs
        l1.2.launchOp c .storeMx s.toNat q.toNat false (q == 1) (q == 1) l1.1))

/-- `ld.b8` (R252). -/
def execLdB8 (d b o : BitVec 6) (s q : BitVec 2) (g : BitVec 4) (sx : State) : Host.Outcome State Fault Refusal :=
  sx.globalLoad (.ldB8 d b o s q g) d b o s q g 1 1 false

/-- `ld.s8` (R252). -/
def execLdS8 (d b o : BitVec 6) (s q : BitVec 2) (g : BitVec 4) (sx : State) : Host.Outcome State Fault Refusal :=
  sx.globalLoad (.ldS8 d b o s q g) d b o s q g 1 1 true

/-- `ld.b16` (R252). -/
def execLdB16 (d b o : BitVec 6) (s q : BitVec 2) (g : BitVec 4) (sx : State) : Host.Outcome State Fault Refusal :=
  sx.globalLoad (.ldB16 d b o s q g) d b o s q g 2 1 false

/-- `ld.s16` (R252). -/
def execLdS16 (d b o : BitVec 6) (s q : BitVec 2) (g : BitVec 4) (sx : State) : Host.Outcome State Fault Refusal :=
  sx.globalLoad (.ldS16 d b o s q g) d b o s q g 2 1 true

/-- `ld.b32` (R252). -/
def execLdB32 (d b o : BitVec 6) (s q : BitVec 2) (g : BitVec 4) (sx : State) : Host.Outcome State Fault Refusal :=
  sx.globalLoad (.ldB32 d b o s q g) d b o s q g 4 1 false

/-- `ld.b64` (R252). -/
def execLdB64 (d b o : BitVec 6) (s q : BitVec 2) (g : BitVec 4) (sx : State) : Host.Outcome State Fault Refusal :=
  sx.globalLoad (.ldB64 d b o s q g) d b o s q g 8 2 false

/-- `ld.b128` (R252). -/
def execLdB128 (d b o : BitVec 6) (s q : BitVec 2) (g : BitVec 4) (sx : State) : Host.Outcome State Fault Refusal :=
  sx.globalLoad (.ldB128 d b o s q g) d b o s q g 16 4 false

/-- `st.b8` (R254). -/
def execStB8 (d b o : BitVec 6) (s q : BitVec 2) (g : BitVec 4) (sx : State) : Host.Outcome State Fault Refusal :=
  sx.globalStore (.stB8 d b o s q g) d b o s q g 1 1

/-- `st.b16` (R254). -/
def execStB16 (d b o : BitVec 6) (s q : BitVec 2) (g : BitVec 4) (sx : State) : Host.Outcome State Fault Refusal :=
  sx.globalStore (.stB16 d b o s q g) d b o s q g 2 1

/-- `st.b32` (R254). -/
def execStB32 (d b o : BitVec 6) (s q : BitVec 2) (g : BitVec 4) (sx : State) : Host.Outcome State Fault Refusal :=
  sx.globalStore (.stB32 d b o s q g) d b o s q g 4 1

/-- `st.b64` (R254). -/
def execStB64 (d b o : BitVec 6) (s q : BitVec 2) (g : BitVec 4) (sx : State) : Host.Outcome State Fault Refusal :=
  sx.globalStore (.stB64 d b o s q g) d b o s q g 8 2

/-- `st.b128` (R254). -/
def execStB128 (d b o : BitVec 6) (s q : BitVec 2) (g : BitVec 4) (sx : State) : Host.Outcome State Fault Refusal :=
  sx.globalStore (.stB128 d b o s q g) d b o s q g 16 4

/-- `atom.add` (R263). -/
def execAtomAdd (d b o : BitVec 6) (s q : BitVec 2) (g : BitVec 4) (sx : State) : Host.Outcome State Fault Refusal :=
  sx.globalAtomic (.atomAdd d b o s q g) d b o s q g 4 1 0

/-- `atom.add.b64` (R263). -/
def execAtomAddB64 (d b o : BitVec 6) (s q : BitVec 2) (g : BitVec 4) (sx : State) : Host.Outcome State Fault Refusal :=
  sx.globalAtomic (.atomAddB64 d b o s q g) d b o s q g 8 2 0

/-- `atom.addf` (R264). -/
def execAtomAddf (d b o : BitVec 6) (s q : BitVec 2) (g : BitVec 4) (sx : State) : Host.Outcome State Fault Refusal :=
  sx.globalAtomic (.atomAddf d b o s q g) d b o s q g 4 1 1

/-- `atom.min.s32` (R263). -/
def execAtomMinS32 (d b o : BitVec 6) (s q : BitVec 2) (g : BitVec 4) (sx : State) : Host.Outcome State Fault Refusal :=
  sx.globalAtomic (.atomMinS32 d b o s q g) d b o s q g 4 1 2

/-- `atom.max.s32` (R263). -/
def execAtomMaxS32 (d b o : BitVec 6) (s q : BitVec 2) (g : BitVec 4) (sx : State) : Host.Outcome State Fault Refusal :=
  sx.globalAtomic (.atomMaxS32 d b o s q g) d b o s q g 4 1 3

/-- `atom.min.n32` (R263). -/
def execAtomMinN32 (d b o : BitVec 6) (s q : BitVec 2) (g : BitVec 4) (sx : State) : Host.Outcome State Fault Refusal :=
  sx.globalAtomic (.atomMinN32 d b o s q g) d b o s q g 4 1 4

/-- `atom.max.n32` (R263). -/
def execAtomMaxN32 (d b o : BitVec 6) (s q : BitVec 2) (g : BitVec 4) (sx : State) : Host.Outcome State Fault Refusal :=
  sx.globalAtomic (.atomMaxN32 d b o s q g) d b o s q g 4 1 5

/-- `atom.and` (R263). -/
def execAtomAnd (d b o : BitVec 6) (s q : BitVec 2) (g : BitVec 4) (sx : State) : Host.Outcome State Fault Refusal :=
  sx.globalAtomic (.atomAnd d b o s q g) d b o s q g 4 1 6

/-- `atom.or` (R263). -/
def execAtomOr (d b o : BitVec 6) (s q : BitVec 2) (g : BitVec 4) (sx : State) : Host.Outcome State Fault Refusal :=
  sx.globalAtomic (.atomOr d b o s q g) d b o s q g 4 1 7

/-- `atom.xor` (R263). -/
def execAtomXor (d b o : BitVec 6) (s q : BitVec 2) (g : BitVec 4) (sx : State) : Host.Outcome State Fault Refusal :=
  sx.globalAtomic (.atomXor d b o s q g) d b o s q g 4 1 8

/-- `atom.exch` (R263). -/
def execAtomExch (d b o : BitVec 6) (s q : BitVec 2) (g : BitVec 4) (sx : State) : Host.Outcome State Fault Refusal :=
  sx.globalAtomic (.atomExch d b o s q g) d b o s q g 4 1 9

/-- `atom.cas` (R265). -/
def execAtomCas (d b o : BitVec 6) (s q : BitVec 2) (g : BitVec 4) (sx : State) : Host.Outcome State Fault Refusal :=
  sx.globalAtomic (.atomCas d b o s q g) d b o s q g 4 2 10

/-- `atom.cas.b64` (R265). -/
def execAtomCasB64 (d b o : BitVec 6) (s q : BitVec 2) (g : BitVec 4) (sx : State) : Host.Outcome State Fault Refusal :=
  sx.globalAtomic (.atomCasB64 d b o s q g) d b o s q g 8 4 10

/-- `pref` (R269): lines served in the background; a lane that fails a check is dropped in silence, and nothing records it. -/
def State.prefLanes (s : State) (c : Ctx) (va : Nat → Nat) : List Nat → List Served × State
  | [] => ([], s)
  | l :: ls =>
    let r := ((s.checkAccess (s.coreOf c.r) (s.partOf c.r) (s.spaceOf c.r) (va l) .read).1,
      (s.translate (s.coreOf c.r) (s.partOf c.r) (s.spaceOf c.r) (va l)).2)
    let one : List Served := match r.1 with
      | .ok e => if isPod (e.pa (va l)) then [] else [⟨l, va l, e⟩]
      | .error _ => []
    let q := r.2.prefLanes c va ls
    (one ++ q.1, q.2)

/-- The lanes of `pref` that go on (R9, R269): one whose address is empty waits, and one that would trap is dropped. -/
def State.quietGates (s : State) (c : Ctx) (w : Wave) (needs : Nat → List (Nat × Nat)) (ts : List Nat) : List Nat × State :=
  (ts.filter (fun l => w.gate c.te (needs l) == .go), ts.foldl (fun s l =>
    match w.gate c.te (needs l) with
    | .wait ns => s.passGate c l (.wait ns)
    | _ => s) s)

/-- `pref` (R269). -/
def execPref (b o : BitVec 6) (s q : BitVec 2) (g : BitVec 4) (sx : State) : Host.Outcome State Fault Refusal :=
  sx.execWord (.pref b o s q g) false (basePair b) [] (fun _ => true) (fun c w st =>
    let t := c.t w g
    st.unlessBlocked c t (w.memBlocked false) (
      let r := st.quietGates c w (fun l => (basePair b).map (fun x => (l, x))) t
      let v := r.2.prefLanes c (w.globalAddr b.toNat (offBytes o 128)) r.1
      if v.1.isEmpty then v.2
      else
        let f := v.2.fresh
        { f.2 with memOps := f.2.memOps ++ [f.2.newOp c f.1 (.prefetch (if s.toNat < 2 then 1 else 2)) 0 q.toNat false false
            (groupServed v.1 (fun x => x.opLane 0 0 0 [])) false] }))

/-- Scalar loads (R270): once for the wave, with the lanes of T as the lanes that a fault would trap. -/
def State.scalarLoad (s : State) (i : Instr) (d b o : BitVec 6) (sc q : BitVec 2) (g : BitVec 4) (size n : Nat) :
    Host.Outcome State Fault Refusal :=
  s.execWord i true [] (regRun d n ++ basePair b) (fun _ => true) (fun c w s =>
    let t := c.t w g
    s.unlessBlocked c t (w.memBlocked true) (
      match t with
      | [] => s
      | l :: _ =>
        let va := w.scalarAddr b.toNat (offBytes o size)
        let part := s.partOf c.r
        if va % size != 0 then s.trapAt c t 0x0A 0 va
        else
          match s.checkAccess (s.coreOf c.r) part (s.spaceOf c.r) va .read with
          | (.error f, s1) => s1.trapAt c t f.1 f.2 va
          | (.ok e, s1) =>
            let r := if isPod (e.pa va) then s1.podCheck part (e.pa va) 0 else (true, s1)
            if !r.1 then r.2.trapAt c t 0x10 0 va
            else
              let grp := OpGroup.open_ (e.pa va / 128) e.attr ((l :: t.tail).map (fun x => ⟨x, va, e.pa va, size, 0, 0, regRun d n⟩))
              r.2.launchOp c (.sload d.toNat) sc.toNat q.toNat (q == 1) false (q == 1) [grp]))

/-- `sld.b32` (R270). -/
def execSldB32 (d b o : BitVec 6) (s q : BitVec 2) (g : BitVec 4) (sx : State) : Host.Outcome State Fault Refusal :=
  sx.scalarLoad (.sldB32 d b o s q g) d b o s q g 4 1

/-- `sld.b64` (R270). -/
def execSldB64 (d b o : BitVec 6) (s q : BitVec 2) (g : BitVec 4) (sx : State) : Host.Outcome State Fault Refusal :=
  sx.scalarLoad (.sldB64 d b o s q g) d b o s q g 8 2

/-- `sld.b128` (R270). -/
def execSldB128 (d b o : BitVec 6) (s q : BitVec 2) (g : BitVec 4) (sx : State) : Host.Outcome State Fault Refusal :=
  sx.scalarLoad (.sldB128 d b o s q g) d b o s q g 16 4

end Sys2Proof.Machine
end

