-- ==== Sys2Proof/Machine/Scratch.lean ====
section
/-! DEFINITION. The scratchpad of a block (R213 to R215): bytes, F/E bits and poison marks; scratchpad loads, stores and atomics (R259 to
R266), the range instruction `fe` (R262), and named queues (R365 to R367). -/

namespace Sys2Proof.Machine

/-- `n` bytes of a block's scratchpad. -/
def Block.scratchBytes (b : Block) (off n : Nat) : List Byte := cellRun 0 b.scratch off n

/-- The number that `n` bytes of a block's scratchpad hold. -/
def Block.scratchNat (b : Block) (off n : Nat) : Nat := ofBytesLE (b.scratchBytes off n)

/-- Bytes written to a block's scratchpad. -/
def Block.putScratch (b : Block) (off : Nat) (bs : List Byte) : Block := { b with scratch := cellPut 0 b.scratch off bs }

/-- Whether a granule is full (R215). -/
def Block.granuleFull (b : Block) (g : Nat) : Bool := !b.feEmpty.contains g

/-- A granule made full. -/
def Block.fillGranule (b : Block) (g : Nat) : Block := { b with feEmpty := b.feEmpty.filter (· != g) }

/-- A granule made empty. -/
def Block.emptyGranule (b : Block) (g : Nat) : Block := { b with feEmpty := insertSorted g b.feEmpty }

/-- A granule marked poisoned (R281). -/
def Block.poisonGranule (b : Block) (g : Nat) : Block := { b with poisonG := insertSorted g b.poisonG }

/-- The poison marks cleared of granules that a set of written offsets covers whole (R281). -/
def Block.clearPoison (b : Block) (offs : List Nat) : Block :=
  { b with poisonG := b.poisonG.filter (fun g => !(rangeFrom (16 * g) 16).all (fun o => offs.contains o)) }

/-- Writes of one instruction or command applied in order: each an offset with its bytes; granules covered whole lose their poison. -/
def Block.writeAll (b : Block) (ws : List (Nat × List Byte)) : Block :=
  (ws.foldl (fun b w => b.putScratch w.1 w.2) b).clearPoison (ws.flatMap (fun w => rangeFrom w.1 w.2.length))

/-- The state with a wave's block passed through `f`. -/
def State.modBlockOf (s : State) (r : WaveRef) (f : Block → Block) : State :=
  match r with
  | .blk uid _ => s.modBlock uid f
  | .hdl _ _ => s

/-- The scratchpad allocation of a wave's launch (R213). -/
def State.scratchSize (s : State) (r : WaveRef) : Nat := ((s.launchOf r).map (·.record.scratch)).getD 0

/-- The lanes of a scratchpad instruction checked (R213, R246): misalignment traps with cause 0x0A, a byte beyond the allocation with
cause 0x0B; the others are served. -/
def State.scratchLanes (s : State) (c : Ctx) (size : Nat) (off : Nat → Nat) (ls : List Nat) : List Nat × State :=
  let bound := s.scratchSize c.r
  let bad (l : Nat) : Option Nat := if off l % size != 0 then some 0x0A else if bound < off l + size then some 0x0B else none
  (ls.filter (fun l => (bad l).isNone),
    ls.foldl (fun s l => match bad l with
      | none => s
      | some cause => s.trapAt c [l] cause 0 (off l)) s)

/-- A lane of an `lds` waits for its granule: its destinations are marked empty meanwhile (R259). -/
def State.ldsWait (s : State) (c : Ctx) (l gran : Nat) (ds : List Nat) : State :=
  (s.modLane c.r l (fun x => ds.foldl (fun x r => x.markEmpty r) { x with ldsOwn := some (c.hdr, c.slot, ds) })).stopLane c.r l c.hdr
    c.slot (.waitGranule (.full gran))

/-- One lane of an `lds` that need not wait: a poisoned granule traps it and marks its destinations (R281), otherwise it reads. -/
def State.ldsRead (s : State) (c : Ctx) (b : Block) (l off size : Nat) (ds : List Nat) : State :=
  let s0 := s.modLane c.r l (fun x => { x with ldsOwn := none })
  if b.poisonG.contains (off / 16) then
    (s0.modLane c.r l (fun x => ds.foldl (fun x r => x.setMark r (.poisoned (16 * (off / 16)))) x)).trapAt c [l] 0x11 0 (16 * (off / 16))
  else
    let v := b.scratchNat off size
    s0.modLane c.r l (fun x => foldIdx (fun x i r => x.writeV r (BitVec.ofNat 32 (v / 2 ^ (32 * i)))) x 0 ds)

/-- Scratchpad loads (R259): `n` destination registers of 4 bytes each. -/
def State.scratchLoad (s : State) (i : Instr) (d b o : BitVec 6) (q : BitVec 2) (g : BitVec 4) (n : Nat) :
    Host.Outcome State Fault Refusal :=
  s.execWord i false (b.toNat :: regRun d n) [] (fun _ => true) (fun c w s => s.blockOnly c (
    let t := c.t w g
    s.unlessBlocked c t (w.memBlocked false) (
      let r := s.gates c w (w.ownNeeds c (b.toNat :: regRun d n)) t
      let off := w.scratchAddr b.toNat (offBytes o (4 * n))
      let v0 := r.2.scratchLanes c (4 * n) off r.1
      let v := (v0.1, v0.2.faultDests c r.1 v0.1 (regRun d n))
      match v.2.blockOf c.r with
      | none => v.2
      | some k =>
        let waits (l : Nat) : Bool := q != 0 && !k.granuleFull (off l / 16)
        let reads := v.1.filter (fun l => !waits l)
        let s1 := reads.foldl (fun s l => s.ldsRead c k l (off l) (4 * n) (regRun d n)) v.2
        let s2 := (v.1.filter waits).foldl (fun s l => s.ldsWait c l (off l / 16) (regRun d n)) s1
        if q == 2 then
          let taken := (reads.map (fun l => off l / 16)).filter (fun x => !k.poisonG.contains x)
          s2.modBlockOf c.r (fun k => taken.foldl (fun k x => k.emptyGranule x) k)
        else s2)))

/-- Scratchpad stores (R260): `n` data registers. Lanes of one instruction that name one granule share its access (R214). -/
def State.scratchStore (s : State) (i : Instr) (d b o : BitVec 6) (q : BitVec 2) (g : BitVec 4) (n : Nat) :
    Host.Outcome State Fault Refusal :=
  s.execWord i false (b.toNat :: regRun d n) [] (fun _ => true) (fun c w s => s.blockOnly c (
    let t := c.t w g
    s.unlessBlocked c t (w.memBlocked false) (
      let r := s.gates c w (fun l => (b.toNat :: regRun d n).map (fun x => (l, x))) t
      let off := w.scratchAddr b.toNat (offBytes o (4 * n))
      let v := r.2.scratchLanes c (4 * n) off r.1
      match v.2.blockOf c.r with
      | none => v.2
      | some k =>
        let waits (l : Nat) : Bool := q == 2 && k.granuleFull (off l / 16)
        let writes := v.1.filter (fun l => !waits l)
        let s1 := v.2.modBlockOf c.r (fun k =>
          let k1 := k.writeAll (writes.map (fun l => (off l, bytesLE (4 * n) (w.regs l d.toNat n))))
          if q == 0 then k1 else writes.foldl (fun k l => k.fillGranule (off l / 16)) k1)
        (v.1.filter waits).foldl (fun s l => s.stopLane c.r l c.hdr c.slot (.waitGranule (.empty (off l / 16)))) s1)))

/-- `lds.b32` (R259). -/
def execLdsB32 (d b o : BitVec 6) (q : BitVec 2) (g : BitVec 4) (s : State) : Host.Outcome State Fault Refusal :=
  s.scratchLoad (.ldsB32 d b o q g) d b o q g 1

/-- `lds.b64` (R259). -/
def execLdsB64 (d b o : BitVec 6) (q : BitVec 2) (g : BitVec 4) (s : State) : Host.Outcome State Fault Refusal :=
  s.scratchLoad (.ldsB64 d b o q g) d b o q g 2

/-- `lds.b128` (R259). -/
def execLdsB128 (d b o : BitVec 6) (q : BitVec 2) (g : BitVec 4) (s : State) : Host.Outcome State Fault Refusal :=
  s.scratchLoad (.ldsB128 d b o q g) d b o q g 4

/-- `sts.b32` (R260). -/
def execStsB32 (d b o : BitVec 6) (q : BitVec 2) (g : BitVec 4) (s : State) : Host.Outcome State Fault Refusal :=
  s.scratchStore (.stsB32 d b o q g) d b o q g 1

/-- `sts.b64` (R260). -/
def execStsB64 (d b o : BitVec 6) (q : BitVec 2) (g : BitVec 4) (s : State) : Host.Outcome State Fault Refusal :=
  s.scratchStore (.stsB64 d b o q g) d b o q g 2

/-- `sts.b128` (R260). -/
def execStsB128 (d b o : BitVec 6) (q : BitVec 2) (g : BitVec 4) (s : State) : Host.Outcome State Fault Refusal :=
  s.scratchStore (.stsB128 d b o q g) d b o q g 4

/-- `fe` (R262): the F/E bits of a range of granules per lane. -/
def execFe (d b : BitVec 6) (q : BitVec 2) (g : BitVec 4) (s : State) : Host.Outcome State Fault Refusal :=
  s.execWord (.fe d b q g) false [b.toNat, d.toNat] [] (fun _ => true) (fun c w s => s.blockOnly c (
    let t := c.t w g
    s.unlessBlocked c t (w.memBlocked false) (
      let r := s.gates c w (fun l => [(l, b.toNat), (l, d.toNat)]) t
      let base (l : Nat) : Nat := (w.reg l b.toNat).toNat
      let len (l : Nat) : Nat := (w.reg l d.toNat).toNat
      let bound := s.scratchSize c.r
      let bad (l : Nat) : Option Nat :=
        if base l % 16 != 0 || len l % 16 != 0 then some 0x0A else if len l != 0 && decide (bound < base l + len l) then some 0x0B else none
      let s1 := r.1.foldl (fun s l => match bad l with
        | none => s
        | some cause => s.trapAt c [l] cause 0 (base l)) r.2
      let grans := (r.1.filter (fun l => (bad l).isNone)).flatMap (fun l => rangeFrom (base l / 16) (len l / 16))
      s1.modBlockOf c.r (fun k => grans.foldl (fun k x => if q == 1 then k.fillGranule x else k.emptyGranule x) k))))

/-- The value an atomic writes, none when it writes nothing (Tables 11.2 to 11.4, R264, R265). -/
def atomNew (sub : Nat) (wide : Bool) (old operand swap : Nat) : Option Nat :=
  let n := if wide then 64 else 32
  let pick (c : Bool) : Nat := if c then old else operand
  match sub with
  | 0 => some ((old + operand) % 2 ^ n)
  | 1 => some (roundResult fp32 ((decodeFmt fp32 old).add false (decodeFmt fp32 operand)) .rne false false).1
  | 2 => some (pick (decide (signExt old n ≤ signExt operand n)))
  | 3 => some (pick (decide (signExt operand n ≤ signExt old n)))
  | 4 => some (pick (decide (old ≤ operand)))
  | 5 => some (pick (decide (operand ≤ old)))
  | 6 => some (old &&& operand)
  | 7 => some (old ||| operand)
  | 8 => some (old ^^^ operand)
  | 9 => some operand
  | _ => if old = operand then some swap else none

/-- One 32-bit scratchpad atomic (R266): the block after it, and the old value. -/
def Block.scratchAtom (b : Block) (sub off operand swap : Nat) : Block × Nat :=
  let old := b.scratchNat off 4
  match atomNew sub false old operand swap with
  | some x => (b.putScratch off (bytesLE 4 x), old)
  | none => (b, old)

/-- Whether an earlier write of a wave has been made as a release at a scope needs (Table 15.1): performed, or at block scope in the core's
L1, or on the pod range, at device scope, sent. -/
def OpGroup.made (g : OpGroup) (kind : MemKind) (scope : Nat) : Bool :=
  match kind with
  | .ratom _ _ => g.performed || scope == 0
  | _ => g.performed || (scope == 0 && g.l1) || (scope == 2 && isPod (128 * g.line) && g.req.isSome)

/-- Whether an earlier write's completion time is in `ltc`, as every scope but block needs (Table 15.1): it is counted out (R325); a write that
goes to the pod range alone has, at device scope, only to have left. -/
def MemOp.folded (o : MemOp) (scope : Nat) : Bool :=
  scope == 0 || !o.counted || (scope == 2 && o.groups.all (fun g => isPod (128 * g.line)))

/-- Whether a kind writes global memory or a scratchpad of the cluster. -/
def MemKind.orders : MemKind → Bool
  | .store | .storeMx => true
  | .atomic _ _ _ => true
  | .ratom _ _ => true
  | _ => false

/-- Whether the writes of a wave numbered below `upTo` have been made as a release at a scope needs (R330). -/
def State.writesMade (s : State) (r : WaveRef) (scope upTo : Nat) : Bool :=
  s.memOps.all (fun o => o.wave != r || decide (upTo ≤ o.id) || !o.kind.orders ||
    (o.groups.all (fun g => g.made o.kind scope) && o.folded scope))

/-- The operand registers of a 32-bit atomic: one, or compare and swap. -/
def atomRegs (d : BitVec 6) (sub : Nat) : List Nat := if sub = 10 then [d.toNat, d.toNat + 1] else [d.toNat]

/-- The lanes of a scratchpad atomic performed in rising home lane order: the block after them, and each lane's old value (R266). -/
def Block.scratchAtoms (b : Block) (sub : Nat) (at_ : Nat → Nat × Nat × Nat) : List Nat → Block × List (Nat × Nat)
  | [] => (b, [])
  | l :: ls =>
    let a := b.scratchAtom sub (at_ l).1 (at_ l).2.1 (at_ l).2.2
    let r := a.1.scratchAtoms sub at_ ls
    (r.1, (l, a.2) :: r.2)

/-- A line group of a scratchpad atomic that is performed and has not returned. -/
def OpGroup.doneAt (l va pa data swap : Nat) (dest : List Nat) (old : Nat) : OpGroup :=
  { OpGroup.open_ l .plain [⟨l, va, pa, 4, data, swap, dest⟩] with performed := true, vals := [(l, old)] }

/-- `satom` (R266): performed in the block's banks in rising home lane order; with `.ar` only once the wave's earlier writes are made. The
old values are on their way to registers that stay empty until then; they count nowhere (R248). -/
def execSatom (d b : BitVec 6) (o : BitVec 4) (q : BitVec 2) (g : BitVec 4) (s : State) : Host.Outcome State Fault Refusal :=
  s.execWord (.satom d b o q g) false (b.toNat :: atomRegs d o.toNat) [] (fun _ => true) (fun c w s => s.blockOnly c (
    let t := c.t w g
    let order := q == 2 || q == 3
    s.unlessBlocked c t (w.memBlocked false || (order && !s.writesMade c.r 0 s.next)) (
      let back := if q == 1 || q == 2 then [d.toNat] else []
      let r := s.gates c w (w.ownNeeds c (b.toNat :: atomRegs d o.toNat)) t
      let off (l : Nat) : Nat := (w.reg l b.toNat).toNat
      let at_ (l : Nat) : Nat × Nat × Nat := (off l, (w.reg l d.toNat).toNat, (w.reg l (d.toNat + 1)).toNat)
      let v := r.2.scratchLanes c 4 off r.1
      let s1 := v.2.faultDests c r.1 v.1 back
      match s1.blockOf c.r with
      | none => s1
      | some k =>
        let a := k.scratchAtoms o.toNat at_ v.1
        let s2 := s1.modBlockOf c.r (fun k => { k with scratch := a.1.scratch })
        if back.isEmpty || v.1.isEmpty then s2
        else
          (s2.emptyDests c v.1 back).putOp c (fun id =>
            s2.newOp c id (.ratom o.toNat true) 0 q.toNat order false
              (a.2.map (fun x => OpGroup.doneAt x.1 (off x.1) (off x.1) (at_ x.1).2.1 (at_ x.1).2.2 back x.2)) false) false)))

/-- The block of a rank in a wave's cluster, none when it has retired (R267). -/
def State.clusterBlock (s : State) (r : WaveRef) (rank : Nat) : Option Block :=
  let c := ((s.launchOf r).map (·.record.cluster)).getD 1
  match s.blockOf r with
  | none => none
  | some b => if c ≤ rank then none else s.blocks.find? (fun k => k.launch == b.launch && k.lin == b.lin / c * c + rank)

/-- `ratom` (R267): one message per served lane, in flight to the target block's banks. The target block's key stands above the offset in
the lane's physical address. Without `.ar` a lane that names its own block's rank has its atomic performed as it issues, as `satom` has,
so that it keeps its place among the wave's scratchpad accesses (R249, R261). -/
def execRatom (d b : BitVec 6) (o : BitVec 4) (q : BitVec 2) (g : BitVec 4) (s : State) : Host.Outcome State Fault Refusal :=
  s.execWord (.ratom d b o q g) false (basePair b ++ atomRegs d o.toNat) [] (fun _ => true) (fun c w s => s.blockOnly c (
    let t := c.t w g
    let ret := q == 1 || q == 2
    let order := q == 2 || q == 3
    s.unlessBlocked c t (w.memBlocked true) (
      let back := if ret then [d.toNat] else []
      let r := s.gates c w (w.ownNeeds c (basePair b ++ atomRegs d o.toNat)) t
      let off (l : Nat) : Nat := (w.reg l b.toNat).toNat
      let target (l : Nat) : Option Block := s.clusterBlock c.r (w.reg l (b.toNat + 1)).toNat
      let bound := s.scratchSize c.r
      let bad (l : Nat) : Option Nat :=
        if off l % 4 != 0 then some 0x0A else if (target l).isNone || decide (bound < off l + 4) then some 0x0B else none
      let served := r.1.filter (fun l => (bad l).isNone)
      let s1 := (r.1.foldl (fun s l => match bad l with
        | none => s
        | some cause => s.trapAt c [l] cause 0 (off l)) r.2).faultDests c r.1 served back
      match served.isEmpty, s1.blockOf c.r with
      | false, some k =>
        let at_ (l : Nat) : Nat × Nat × Nat := (off l, (w.reg l d.toNat).toNat, (w.reg l (d.toNat + 1)).toNat)
        let near (l : Nat) : Bool := !order && ((target l).map (·.uid)) == some k.uid
        let a := k.scratchAtoms o.toNat at_ (served.filter near)
        let s2 := s1.modBlockOf c.r (fun k => { k with scratch := a.1.scratch })
        let pa (l : Nat) : Nat := ((target l).map (·.uid)).getD 0 * 2 ^ 22 + off l
        let grp (l : Nat) : OpGroup :=
          match a.2.find? (fun x => x.1 == l) with
          | some x => OpGroup.doneAt l (off l) (pa l) (at_ l).2.1 (at_ l).2.2 back x.2
          | none => OpGroup.open_ l .plain [⟨l, off l, pa l, 4, (at_ l).2.1, (at_ l).2.2, back⟩]
        (s2.emptyDests c served back).putOp c
          (fun id => s2.newOp c id (.ratom o.toNat ret) 1 q.toNat order order (served.map grp) true) false
      | _, _ => s1)))

/-- The queue of a number in a wave's block (R366). -/
def State.queueOf (s : State) (r : WaveRef) (n : Nat) : Queue :=
  ((s.blockOf r).bind (·.queues[n]?)).getD ⟨0, 0, 0, 0, 0, 0, 0, 0, [], []⟩

/-- Whether lanes of a block wait at a queue. -/
def Block.waitsQueue (b : Block) (n : Nat) : Bool :=
  b.waves.any (fun w => w.lanes.any (fun l =>
    match l.state with
    | .waitGranule (.push q) => q == n
    | .waitGranule (.pop q _) => q == n
    | _ => false))

/-- The cause with which `qcfg` fails, none when it configures (R366). -/
def Block.qcfgBad (k : Block) (n bound base sa size mask width : Nat) : Option Nat :=
  let slots := sa % 2 ^ 16
  let allowance := sa / 2 ^ 16
  if base % 16 != 0 then some 0x0A
  else if bound < base + slots * size then some 0x0B
  else if slots < 1 || 256 < slots || allowance < 1 || slots < allowance * popCount 32 mask || size % 16 != 0 || size < 16 ||
      4 * width < size || mask == 0 || mask / 2 ^ k.waves.length != 0 then some 0x0C
  else if decide (0 < (k.queues.getD n ⟨0, 0, 0, 0, 0, 0, 0, 0, [], []⟩).filled) || k.waitsQueue n then some 0x0C
  else none

/-- `qcfg` (R366), by the elected lane of each home wave (log entry 71). -/
def execQcfg (d : BitVec 6) (n g : BitVec 4) (s : State) : Host.Outcome State Fault Refusal :=
  s.execWord (.qcfg d n g) false (regRun d 4) [] (fun _ => true) (fun c w s => s.blockOnly c (
    let t := c.t w g
    s.unlessBlocked c t (w.memBlocked false) (
      let e := t.headD 0
      let r := s.gates c w (fun _ => (regRun d 4).map (fun x => (e, x))) t
      let x (i : Nat) : Nat := (w.reg e (d.toNat + i)).toNat
      match r.1.isEmpty, r.2.blockOf c.r with
      | false, some k =>
        match k.qcfgBad n.toNat (s.scratchSize c.r) (x 0) (x 1) (x 2) (x 3) w.width with
        | some cause => r.2.trapAt c t cause 0 (if cause = 0x0C then 0 else x 0)
        | none =>
          let slots := x 1 % 2 ^ 16
          let q : Queue :=
            { base := x 0, slots := slots, size := x 2, producers := x 3, allowance := x 1 / 2 ^ 16, head := 0, tail := 0, filled := 0
              allow := (upTo k.waves.length).map (fun i => if (x 3).testBit i then x 1 / 2 ^ 16 else 0)
              owners := List.replicate slots 0 }
          r.2.modBlockOf c.r (fun k =>
            (rangeFrom (x 0 / 16) (slots * x 2 / 16)).foldl (fun k y => k.emptyGranule y) { k with queues := setAt k.queues n.toNat q })
      | _, _ => r.2)))

/-- The arrival numbers of the lanes of a block that wait at `qpop` on a queue. -/
def Block.popArrivals (b : Block) (n : Nat) : List Nat :=
  b.waves.flatMap (fun w => w.lanes.filterMap (fun l =>
    match l.state with
    | .waitGranule (.pop q a) => if q == n then some a else none
    | _ => none))

/-- The earliest-arrived waiting `qpop` of a queue released (R367). -/
def Block.releasePop (b : Block) (n : Nat) : Block :=
  match b.popArrivals n with
  | [] => b
  | a :: as =>
    let first := minList a as
    { b with waves := b.waves.map (fun w =>
        { w with lanes := w.lanes.map (fun l => if l.state == .waitGranule (.pop n first) then l.activate else l) }) }

/-- `qpush` (R367). -/
def execQpush (d : BitVec 6) (n g : BitVec 4) (s : State) : Host.Outcome State Fault Refusal :=
  s.execWord (.qpush d n g) false [d.toNat] [] (fun _ => true) (fun c w s => s.blockOnly c (
    let t := c.t w g
    s.unlessBlocked c t (w.memBlocked false) (
      let r := s.gates c w (fun l => [(l, d.toNat)]) t
      let q := s.queueOf c.r n.toNat
      let me := waveIndex c.r
      if r.1.isEmpty then r.2
      else if q.slots == 0 || !q.producers.testBit me then r.2.trapAt c r.1 0x0C 0 0
      else if q.allow.getD me 0 == 0 then r.2.stopLanes c r.1 (.waitGranule (.push n.toNat))
      else
        let at_ := q.base + q.size * q.tail
        let q1 := { q with tail := (q.tail + 1) % q.slots, filled := q.filled + 1, allow := modifyAt q.allow me (· - 1),
                           owners := setAt q.owners q.tail me }
        r.2.modBlockOf c.r (fun k =>
          let k1 := { k with queues := setAt k.queues n.toNat q1 }
          let k2 := k1.writeAll ((r.1.filter (fun l => decide (4 * l < q.size))).map (fun l => (at_ + 4 * l, bytesLE 4 (w.reg l d.toNat).toNat)))
          ((rangeFrom (at_ / 16) (q.size / 16)).foldl (fun k x => k.fillGranule x) k2).releasePop n.toNat))))

/-- `qpop` (R367). -/
def execQpop (d : BitVec 6) (n g : BitVec 4) (s : State) : Host.Outcome State Fault Refusal :=
  s.execWord (.qpop d n g) false [d.toNat] [] (fun _ => true) (fun c w s => s.blockOnly c (
    let t := c.t w g
    s.unlessBlocked c t (w.memBlocked false) (
      let r := s.gates c w (fun l => [(l, d.toNat)]) t
      let q := s.queueOf c.r n.toNat
      if r.1.isEmpty then r.2
      else if q.slots == 0 then r.2.trapAt c r.1 0x0C 0 0
      else if q.filled == 0 then
        let f := r.2.fresh
        f.2.stopLanes c r.1 (.waitGranule (.pop n.toNat f.1))
      else
        let at_ := q.base + q.size * q.head
        let q1 := { q with head := (q.head + 1) % q.slots, filled := q.filled - 1,
                           allow := modifyAt q.allow (q.owners.getD q.head 0) (· + 1) }
        let old := r.2.blockOf c.r
        let val (l : Nat) : Word := if 4 * l < q.size then BitVec.ofNat 32 ((old.map (fun k => k.scratchNat (at_ + 4 * l) 4)).getD 0) else 0
        let s1 := r.2.modWave c.r (fun v => { v with lanes := mapIdx' (fun l x => if r.1.contains l then x.writeV d.toNat (val l) else x) v.lanes })
        s1.modBlockOf c.r (fun k =>
          (rangeFrom (at_ / 16) (q.size / 16)).foldl (fun k x => k.emptyGranule x) { k with queues := setAt k.queues n.toNat q1 }))))

end Sys2Proof.Machine
end

