-- ==== Sys2Proof/Machine/Wait.lean ====
section
/-! DEFINITION. `waitu` (R347 to R349) and `fence` (R331, R332). -/

namespace Sys2Proof.Machine

/-- Lanes with one address and one operand form one wait group (R341). -/
def waitGroups : (fuel : Nat) → List (Served × Nat) → List (List (Served × Nat))
  | 0, _ => []
  | _, [] => []
  | n + 1, x :: xs =>
    let same (y : Served × Nat) : Bool := y.1.va == x.1.va && y.2 == x.2
    (x :: xs.filter same) :: waitGroups n (xs.filter (fun y => !same y))

/-- The least wait group number that a wave has free. -/
def Wave.freeGroup (w : Wave) : Nat := ((upTo 64).find? (fun n => w.groups.all (fun g => g.group != n))).getD 63

/-- One wait group formed: its lanes wait in Mantis with their destinations empty, and its registration is on its way (R341, R348). -/
def State.formWait (s : State) (c : Ctx) (d : BitVec 6) (cond : Nat) (wide : Bool) (ticks scope : Nat) (grp : List (Served × Nat)) :
    State :=
  match grp, s.wave? c.r with
  | m :: _, some w =>
    let no := w.freeGroup
    let ls := grp.map (·.1.lane)
    let dest := regRun d (if wide then 2 else 1)
    let s1 := (s.emptyDests c ls dest).stopLanes c ls (.waitMantis no)
    let s2 := s1.modWave c.r (fun w => { w with groups := w.groups ++ [⟨no, ls, d.toNat, wide, scope, .registering, true, c.next, m.1.va⟩] })
    let lanes := grp.map (fun x => x.1.opLane (if wide then 8 else 4) x.2 0 dest)
    s2.putOp c (fun id =>
      { s2.newOp c id (.wait cond wide ticks) scope 0 false false
          [OpGroup.open_ (m.1.pa / 128) m.1.entry.attr lanes] false with groupNo := no })
      (m.1.entry.attr.scopeCheck)
  | _, _ => s

/-- `waitu` (R348). -/
def State.waitUntil (s : State) (i : Instr) (d b t : BitVec 6) (sc : BitVec 2) (wide : Bool) (cond : Nat) (g : BitVec 4) :
    Host.Outcome State Fault Refusal :=
  let dest := regRun d (if wide then 2 else 1)
  s.execWord i false (dest ++ basePair b) [] (fun _ => true) (fun c w s =>
    let ts := c.t w g
    s.unlessBlocked c ts (w.memBlocked false) (
      let r := s.gates c w (w.ownNeeds c (dest ++ basePair b)) ts
      let v := r.2.admitLanes c (if wide then 8 else 4) .read none (w.globalAddr b.toNat 0) r.1
      let x (y : Served) : Nat := if wide then w.reg64 y.lane d.toNat else (w.reg y.lane d.toNat).toNat
      let s1 := (waitGroups 64 (v.1.map (fun y => (y, x y)))).foldl
        (fun s grp => s.formWait c d cond wide t.toNat sc.toNat grp) (v.2.faultDests c r.1 (v.1.map (·.lane)) dest)
      s1.moveLanes c.r (c.rest ts) c.next))

/-- `waitu.eq`, `waitu.ne` (R347). -/
def execWaituEqNe (d b t : BitVec 6) (s : BitVec 2) (w c : BitVec 1) (g : BitVec 4) (sx : State) : Host.Outcome State Fault Refusal :=
  sx.waitUntil (.waituEqNe d b t s w c g) d b t s (w == 1) c.toNat g

/-- `waitu.sge`, `waitu.slt` (R347). -/
def execWaituSgeSlt (d b t : BitVec 6) (s : BitVec 2) (w c : BitVec 1) (g : BitVec 4) (sx : State) : Host.Outcome State Fault Refusal :=
  sx.waitUntil (.waituSgeSlt d b t s w c g) d b t s (w == 1) (2 + c.toNat) g

/-- `waitu.nge`, `waitu.nlt` (R347). -/
def execWaituNgeNlt (d b t : BitVec 6) (s : BitVec 2) (w c : BitVec 1) (g : BitVec 4) (sx : State) : Host.Outcome State Fault Refusal :=
  sx.waitUntil (.waituNgeNlt d b t s w c g) d b t s (w == 1) (4 + c.toNat) g

/-- `waitu.any`, `waitu.all` (R347). -/
def execWaituAnyAll (d b t : BitVec 6) (s : BitVec 2) (w c : BitVec 1) (g : BitVec 4) (sx : State) : Host.Outcome State Fault Refusal :=
  sx.waitUntil (.waituAnyAll d b t s w c g) d b t s (w == 1) (6 + c.toNat) g

/-- `waitu.chg`, `waitu.upd` (R347). -/
def execWaituChgUpd (d b t : BitVec 6) (s : BitVec 2) (w c : BitVec 1) (g : BitVec 4) (sx : State) : Host.Outcome State Fault Refusal :=
  sx.waitUntil (.waituChgUpd d b t s w c g) d b t s (w == 1) (8 + c.toNat) g

/-- `fence` (R332): the wave is held until its waits have ended; a failed pod request is reported instead (R376). -/
def execFence (s q : BitVec 2) (g : BitVec 4) (sx : State) : Host.Outcome State Fault Refusal :=
  sx.execWord (.fence s q g) false [] [] (fun _ => true) (fun c w st =>
    let t := c.t w g
    if t.isEmpty then st
    else
      match st.podErrorTrap c t with
      | some u => u
      | none => st.holdWave c.r (.fence s.toNat q.toNat st.next))

/-- Whether the parts of a fence that do not wait for the lease clock have ended (R332): engines and appends, returned values, writes
made. -/
def State.fenceMade (s : State) (r : WaveRef) (scope kind upTo : Nat) : Bool :=
  match s.wave? r with
  | none => true
  | some w =>
    let mine (o : MemOp) : Bool := o.wave == r && decide (o.id < upTo)
    (kind != 3 || (w.ocCpy == 0 && w.ocMtx == 0 && w.ocCol == 0 &&
      s.memOps.all (fun o => !mine o || (match o.kind with | .append _ _ _ _ => false | _ => true)))) &&
    (kind == 1 || s.memOps.all (fun o => !mine o ||
      match o.kind with
      | .load _ | .loadMx => o.groups.all (·.returned)
      | .sload _ | .tdset _ => o.groups.all (·.returned)
      | .atomic _ _ ret => !ret || o.groups.all (·.returned)
      | .ratom _ ret => !ret || o.groups.all (·.returned)
      | _ => true)) &&
    (kind == 2 || s.writesMade r scope upTo)

/-- Whether a fence also waits for the lease clock to pass `ltc` (R332). -/
def fenceLeases (scope kind : Nat) : Bool := kind != 2 && decide (1 ≤ scope)

end Sys2Proof.Machine
end

