-- ==== Sys2Proof/Machine/Append.lean ====
section
/-! DEFINITION. The append unit of a partition (R125 to R127): `launch` and the completion of a reserved append, and how an operation is
counted out (R248). -/

namespace Sys2Proof.Machine

/-- A completion time folded into the greatest `ltc` of a launch whose wave is gone (R414, R423). -/
def State.foldLaunch (s : State) (r : WaveRef) (lid completion : Nat) : State :=
  if (s.wave? r).isSome then s else s.modLaunch lid (fun l => { l with maxLtc := max l.maxLtc completion })

/-- The `ltc` that an operation's wave holds, or held when it was discarded (R414). -/
def State.ltcOf (s : State) (r : WaveRef) (lid : Nat) : Nat :=
  match s.wave? r with
  | some w => w.ltc
  | none => ((s.launch? lid).map (·.maxLtc)).getD 0

/-- A wave's counter lowered by one operation counted out, its completion time folded into `ltc` (R248, R325). -/
def State.countOut (s : State) (r : WaveRef) (counter completion : Nat) : State :=
  s.modWave r (fun w => (w.modCounter counter (· - 1)).fold completion)

/-- Whether a memory operation has answered its wave: its values returned, or, where none return, its groups performed. -/
def MemOp.answered (o : MemOp) : Bool :=
  match o.kind with
  | .store | .storeMx => o.groups.all (·.performed)
  | .atomic _ _ ret => if ret then o.groups.all (·.returned) else o.groups.all (·.performed)
  | .ratom _ ret => if ret then o.groups.all (·.returned) else o.groups.all (·.performed)
  | .append _ _ _ _ => true
  | _ => o.groups.all (·.returned)

/-- A wave's operations that are ready are counted out: each counter counts out in the wave's issue order (R302), so an operation that has
ended stays counted behind an earlier one that has not. -/
def State.drainMem (r : WaveRef) : (fuel : Nat) → State → State
  | 0, s => s
  | n + 1, s =>
    match s.memOps.find? (fun o => o.wave == r && o.counted) with
    | none => s
    | some o =>
      if o.ended then
        let s1 := (s.countOut r 0 o.completion).foldLaunch r o.launch o.completion
        State.drainMem r n (if o.answered then s1.dropMemOp o.id else s1.modMemOp o.id (fun p => { p with counted := false }))
      else s

/-- A memory operation that ends: counted out as soon as every earlier one of its wave is, and no longer in flight (R248, R302). -/
def State.endOp (s : State) (o : MemOp) : State :=
  if !o.counted then s.dropMemOp o.id
  else
    let s1 := s.modMemOp o.id (fun p => { p with ended := true, completion := o.completion })
    State.drainMem o.wave s1.memOps.length s1

/-- A stream of a partition. -/
def State.stream (s : State) (part n : Nat) : Stream := (s.part part).vf.streams.getD n .reset

/-- The state with a stream passed through `f`. -/
def State.modStream (s : State) (part n : Nat) (f : Stream → Stream) : State :=
  s.modVF part (fun v => { v with streams := modifyAt v.streams n f })

/-- Whether a stream's order field is valid (Table 2.6), and its ring size. -/
def Stream.orderOk (t : Stream) : Bool := decide (1 ≤ t.order) && decide (t.order ≤ 16)
def Stream.size (t : Stream) : Nat := 2 ^ t.order

/-- Lanes of T wait for ring space on the head word of a stream's control pair (R125). -/
def State.waitRing (s : State) (c : Ctx) (ts : List Nat) (pair : Served) (operand : Nat) (space : Nat) : State :=
  match s.wave? c.r with
  | none => s
  | some w =>
    let no := w.freeGroup
    let s1 := s.stopLanes c ts (.waitMantis no)
    let s2 := s1.modWave c.r (fun w => { w with groups := w.groups ++ [⟨no, ts, 0, true, 3, .registering, false, c.hdr, pair.va + 8⟩] })
    let lanes := ts.map (fun l => (⟨l, pair.va + 8, pair.pa + 8, 8, operand, 0, []⟩ : OpLane))
    s2.putOp c (fun id =>
      { s2.newOp c id (.ringWait operand) 3 0 false false [OpGroup.open_ ((pair.pa + 8) / 128) pair.entry.attr lanes] false with
        groupNo := no, space := space }) false

/-- One access of `launch` checked (R125): a page that is not reached traps every lane of T. In the pod range an image is reached where the pod
map grants the read (R374), a control pair and a ring are not (log entry 36). -/
def State.launchCheck (s : State) (c : Ctx) (ts : List Nat) (space va : Nat) (kind : AccessKind) : Option Served × State :=
  match s.checkAccess (s.coreOf c.r) (s.partOf c.r) space va kind with
  | (.error f, s1) => (none, s1.trapAt c ts f.1 f.2 va)
  | (.ok e, s1) =>
    if !isPod (e.pa va) then (some ⟨ts.headD 0, va, e⟩, s1)
    else
      let r := if kind == .read then s1.podCheck (s1.partOf c.r) (e.pa va) 0 else (false, s1)
      if r.1 then (some ⟨ts.headD 0, va, e⟩, r.2) else (none, r.2.trapAt c ts 0x09 4 va)

/-- The addresses of a stream's ring at which its pages begin, at the smallest page size; of a ring with no valid size, its base (R125,
Table 9.5). -/
def Stream.ringPages (t : Stream) : List Nat :=
  if t.orderOk then t.ring :: (rangeFrom (t.ring / 2 ^ 16 + 1) ((t.ring + 128 * t.size - 1) / 2 ^ 16 - t.ring / 2 ^ 16)).map (· * 2 ^ 16)
  else [t.ring]

/-- Every page of a ring checked for writing (R125). -/
def State.launchRing (s : State) (c : Ctx) (ts : List Nat) (space : Nat) : List Nat → Bool × State
  | [] => (true, s)
  | va :: vas =>
    match s.launchCheck c ts space va .write with
    | (none, s1) => (false, s1)
    | (some _, s1) => s1.launchRing c ts space vas

/-- A slot reserved and the append put in flight (R125, R126). -/
def State.reserveSlot (s : State) (c : Ctx) (n : Nat) (image slot pair : Served) (index space : Nat) : State :=
  let part := s.partOf c.r
  let grp (x : Served) : OpGroup := OpGroup.open_ (x.pa / 128) x.entry.attr [x.opLane 128 0 0 []]
  (s.modStream part n (fun t => { t with reserved := t.reserved + 1 })).putOp c (fun id =>
    { s.newOp c id (.append image.pa slot.pa pair.pa index) 3 0 false true [grp image, grp slot, grp pair] true with
      groupNo := n, space := space }) false

/-- `launch` once its image is checked: the stream's control pair and every page of its ring, the order and error of the stream, and the
ring slot (R125). -/
def State.launchStream (s : State) (c : Ctx) (ts : List Nat) (n : Nat) (image : Served) : State :=
  let part := s.partOf c.r
  let t := s.stream part n
  match s.launchCheck c ts t.space t.pair .write with
  | (none, s1) => s1
  | (some pair, s1) =>
    match s1.launchRing c ts t.space t.ringPages with
    | (false, s2) => s2
    | (true, s1) =>
    if !t.orderOk || t.error then s1.trapAt c ts 0x09 0 t.pair
    else
      let tail := s1.homeNat part pair.pa 8
      let head := s1.homeNat part (pair.pa + 8) 8
      let i := (tail + t.reserved) % 2 ^ 64
      match s1.launchCheck c ts t.space (t.ring + 128 * (i % t.size)) .write with
      | (none, s2) => s2
      | (some slot, s2) =>
        let s2 := s2.useLine part (pair.pa / 128)
        if t.size ≤ (i + 2 ^ 64 - head) % 2 ^ 64 then s2.waitRing c ts pair ((i + 1 + 2 ^ 64 - t.size) % 2 ^ 64) t.space
        else s2.reserveSlot c n image slot pair i t.space

/-- `launch` (R125). -/
def execLaunch (a : BitVec 7) (s : BitVec 6) (g : BitVec 4) (sx : State) : Host.Outcome State Fault Refusal :=
  sx.execWord (.launch a s g) true [] (aScal a true) (fun _ => true) (fun c w st =>
    let t := c.t w g
    st.unlessBlocked c t (w.memBlocked true) (
      let va := w.opA64 0 a
      if t.isEmpty then st
      else if va % 128 != 0 || decide (2 ^ 57 ≤ va) then st.trapAt c t 0x0A 0 va
      else
        match st.launchCheck c t (st.spaceOf c.r) va .read with
        | (none, s1) => s1
        | (some image, s1) => s1.launchStream c t s.toNat image))

/-- Whether every store that a wave issued before an operation has been performed (R125). -/
def State.storesPerformed (s : State) (o : MemOp) : Bool :=
  s.memOps.all (fun p => p.wave != o.wave || decide (o.id ≤ p.id) || !p.kind.writes || p.groups.all (·.performed))

/-- Whether an append is the first of its stream in reservation order that has not ended (R126). -/
def State.firstAppend (s : State) (o : MemOp) : Bool :=
  s.memOps.all (fun p =>
    match p.kind with
    | .append _ _ _ _ => p.part != o.part || p.groupNo != o.groupNo || p.ended || decide (o.id ≤ p.id)
    | _ => true)

/-- The page attributes of an append's image, slot and control pair. -/
def MemOp.groupAttr (o : MemOp) (i : Nat) : PageAttr := ((o.groups[i]?).map (·.attr)).getD .plain

/-- The 8-byte words of bytes, from word `i`. -/
def words64 : (n i : Nat) → List Byte → List (Nat × Nat)
  | 0, _, _ => []
  | n + 1, i, bs => (i, ofBytesLE (bs.take 8)) :: words64 n (i + 1) (bs.drop 8)

/-- Bytes read word by word while they may change (R26, R125): each 8-byte word as it stood or as it stands, by a free value where the two
differ (log entry 65). -/
def mixWords (draw : Nat) (old new : List (Nat × Nat)) : List Byte :=
  (old.zip new).flatMap (fun w => bytesLE 8 (if w.1.2 = w.2.2 then w.1.2 else if Config.wordOld (draw + w.1.1) then w.1.2 else w.2.2))

/-- Whether an append's read, slot and tail may move its bytes now: the tokens of its core and of the homes it goes to, or of the port to the
peer that holds its image (R39); none while a hold on its bank keeps the request (R436). -/
def State.appendTokens (s : State) (o : MemOp) (bytes line : Nat) : Option State :=
  if s.bankHolds o.part line then none
  else s.takeAll bytes (if isPod (128 * line) then s.fetchPodPoints o.core o.part line else s.linePoints o.core o.part line)

/-- An append's image read (R125): its words as they stand, or, in the pod range, asked of the peer once. -/
def State.readImage (s : State) (o : MemOp) (image : Nat) : State :=
  let pod := isPod image
  if pod && ((o.groups.head?).bind (·.req)).isSome then s
  else
    match s.appendTokens o 128 (image / 128) with
    | none => s
    | some s =>
      if pod then
        let r := s.sendPod (.mem o.id (image / 128)) o.part image (.read 128) (dieOfCore o.core)
        r.2.modMemOp o.id (fun p => { p with groups := modifyAt p.groups 0 (fun g => { g with req := some r.1 }) })
      else
        let s1 := s.fillLine o.part (((s.launch? o.launch).map (·.space)).getD 0) (image / 128) (o.groupAttr 0) false
        let line := s1.homeLine o.part (image / 128)
        s1.modMemOp o.id (fun p => { p with groups := modifyAt p.groups 0 (fun g => { g with vals := words64 16 0 line.1, poison := line.2.2 }) })

/-- An append's image as it stands when its slot is written: its words and poison mark; of one that a peer has sent, what it sent. -/
def State.imageNow (s : State) (o : MemOp) (image : Nat) (sent : List (Nat × Nat)) : List (Nat × Nat) × Bool :=
  if isPod image then (sent, false)
  else
    let line := s.homeLine o.part (image / 128)
    (words64 16 0 line.1, line.2.2)

/-- LAUNCH_APPEND_COMPLETE (R39, R125, R126, R127): the image is read; it is written to the reserved slot, each word as it was read or as it
stands by then; and once the wave's earlier writes are made as a release at system scope needs (R330), tail advances and the operation
ends. -/
def execLaunchAppendComplete (op : Nat) (s : State) : Host.Outcome State Fault Refusal :=
  .next (
    match s.memOp? op with
    | none => s
    | some o =>
      match o.kind with
      | .append image slot pair _ =>
        if s.device.fenced || o.ended || !s.storesPerformed o || !s.firstAppend o then s
        else if (o.groups.head?.map (fun g => !g.performed && g.vals.isEmpty)).getD false then s.readImage o image
        else if o.groups.any (fun g => !g.performed) then
          match s.appendTokens o 128 (slot / 128) with
          | none => s
          | some s =>
            let old := (o.groups.headD (OpGroup.open_ 0 .plain [])).vals
            let line := s.imageNow o image old
            let ws := mapIdx' (fun i b => (i, b)) (mixWords s.draws old line.1)
            let r := { s with draws := s.draws + 16 : State }.performWrite o.part o.space (slot / 128) (o.groupAttr 1) ws [] true
              (line.2 || (o.groups.head?.map (·.poison)).getD false)
            r.1.modMemOp op (fun p => { p with groups := p.groups.map (fun g => { g with performed := true }), completion := r.2 })
        else if s.writesMade o.wave 3 op && decide (max o.completion (s.ltcOf o.wave o.launch) < s.leaseNow (dieOfCore o.core)) then
          match s.appendTokens o 8 (pair / 128) with
          | none => s
          | some s =>
            let tail := s.homeNat o.part pair 8
            let r := s.performWrite o.part o.space (pair / 128) (o.groupAttr 2)
              (mapIdx' (fun i b => (pair % 128 + i, b)) (bytesLE 8 ((tail + 1) % 2 ^ 64))) [] true false
            (r.1.modStream o.part o.groupNo (fun t => { t with reserved := t.reserved - 1 })).endOp { o with completion := max o.completion r.2 }
        else s
      | _ => s)

end Sys2Proof.Machine
end

