-- ==== Sys2Proof/Machine/Block.lean ====
section
/-! DEFINITION. Launch records as read (R12 to R25), and the launch state of blocks, waves and lanes (R17, R58). -/

namespace Sys2Proof.Machine

/-- The lane count of a block (R12). -/
def LaunchRecord.lanes (r : LaunchRecord) : Nat := r.blockDim.getD 0 1 * r.blockDim.getD 1 1 * r.blockDim.getD 2 1

/-- The waves of a block (R12). -/
def LaunchRecord.waves (r : LaunchRecord) : Nat := (r.lanes + r.width - 1) / r.width

/-- The blocks of the grid (R24). -/
def LaunchRecord.blocks (r : LaunchRecord) : Nat := r.grid.getD 0 1 * r.grid.getD 1 1 * r.grid.getD 2 1

/-- Whether the low bits of a list of requirements all hold, for the checks of R25. -/
def allOk (l : List Bool) : Bool := l.all id

/-- The launch record that 128 bytes hold, fields only (Tables 1.4 to 1.8). -/
def LaunchRecord.ofImage (bs : List Byte) : LaunchRecord :=
  let n (o k : Nat) : Nat := imageNat bs o k
  let res := n 0x24 4
  let ctl := n 0x2C 4
  let gate := n 0x40 4
  { codeBase := n 0 8, entry := n 8 4, trapEntry := n 0xC 4
    grid := [n 0x10 4, n 0x14 4, n 0x18 4], blockDim := [n 0x1C 2, n 0x1E 2, n 0x20 2]
    width := 8 * 2 ^ bitsOf (n 0x22 2) 0 2, cluster := bitsOf (n 0x22 2) 2 2 + 1
    vregs := 8 * bitsOf res 0 4, sregs := bitsOf res 4 6, accRows := 128 * bitsOf res 10 6
    scratch := n 0x28 4
    priority := bitsOf ctl 0 3, stream := bitsOf ctl 3 6, coresident := bitOf ctl 9, idempotent := bitOf ctl 10
    savable := bitOf ctl 11, irdan := bitOf ctl 12, notify := bitOf ctl 13, vector := bitsOf ctl 14 6
    gateAddr := n 0x30 8, gateOperand := n 0x38 8, gateCond := bitsOf gate 2 4, gateWide := bitOf gate 1, gateEnable := bitOf gate 0
    seed := n 0x48 8, arg := n 0x50 8, colophon := n 0x58 8 }

/-- The reserved fields of an image are zero (R25); a gate control word with enable 0 is ignored whole. -/
def recordReservedOk (bs : List Byte) : Bool :=
  let n (o k : Nat) : Nat := imageNat bs o k
  allOk [bitsOf (n 0x22 2) 4 12 == 0, bitsOf (n 0x24 4) 16 16 == 0, bitsOf (n 0x2C 4) 20 12 == 0, n 0x44 4 == 0,
    n 0x60 32 == 0, !bitOf (n 0x40 4) 0 || bitsOf (n 0x40 4) 6 26 == 0]

/-- The values of a record lie in their ranges, and R12, R15 and R24 are met (R25). The address of an enabled gate is among them: one with
a bit of [63:57] set makes the record invalid when it is read, not its registration fail (DESIGN CHOICE, log entry 75: R25 names the
code base and the colophon only, R51 the checks of the gate's translation). -/
def LaunchRecord.valuesOk (r : LaunchRecord) (stream : Nat) : Bool :=
  allOk [r.codeBase % 256 == 0, decide (r.codeBase < 2 ^ 57), r.grid.all (1 ≤ ·), r.blockDim.all (fun x => 1 ≤ x ∧ x ≤ 2048),
    decide (1 ≤ r.lanes) && decide (r.lanes ≤ 2048) && decide (r.lanes ≤ 32 * r.width),
    r.grid.getD 0 1 % r.cluster == 0, decide (r.blocks ≤ 2 ^ 32),
    decide (8 ≤ r.vregs) && decide (r.vregs ≤ 64), decide (r.sregs ≤ 48), decide (r.accRows ≤ 4096),
    decide (r.scratch ≤ 1572864) && r.scratch % 256 == 0, r.stream == stream,
    r.colophon % 64 == 0, decide (r.colophon < 2 ^ 57),
    !r.gateEnable || (decide (r.gateCond ≤ 9) && decide (r.gateAddr < 2 ^ 57) && r.gateAddr % (if r.gateWide then 8 else 4) == 0 &&
      (r.gateWide || decide (r.gateOperand < 2 ^ 32)))]

/-- A lane at launch (R17): registers zero and full, predicates false. -/
def Lane.atLaunch (nv : Nat) (entry : Word) (state : LaneState) : Lane :=
  { v := List.replicate nv 0, full := 2 ^ 64 - 1, marks := [], preds := 0, vpc := entry, slot := 0, state := state, starve := 0,
    trap := none, inTrap := none, origin := none, ldsOwn := none }

/-- A wave at launch (R14, R17): `n` of its lanes exist, the others are helper lanes. -/
def Wave.atLaunch (width nv ns n : Nat) (entry : Word) (irdan : Bool) : Wave :=
  { width := width, nv := nv, ns := ns
    lanes := (upTo width).map (fun l => Lane.atLaunch nv entry (if l < n then .active else .helper))
    s := List.replicate ns 0, k := List.replicate 16 (2 ^ n - 1)
    ocMem := 0, ocCpy := 0, ocMtx := 0, ocCol := 0, ltc := 0, awBase := 0, awLimit := 0, fflags := 0
    round := 0, fair := 256, irdan := irdan, rails := List.replicate (nv * (width / 8)) 0
    fairPos := 0, statSum := 0, statCount := 0, statMax := 0, groups := [], podError := none, holds := [], acquires := []
    retired := false, yielded := false, diverged := false, pack := 0, packPos := 0 }

/-- The waves of a block at launch (R12, R13). -/
def LaunchRecord.launchWaves (r : LaunchRecord) : List Wave :=
  (upTo r.waves).map (fun j => Wave.atLaunch r.width r.vregs r.sregs (min r.width (r.lanes - j * r.width))
    (BitVec.ofNat 32 r.entry) r.irdan)

/-- A block at launch (R17): waves and lanes reset, quires, barriers and queues unconfigured, descriptors and groups unset, scratchpad
zero with every granule full, accumulator rows zero. -/
def Block.atLaunch (r : LaunchRecord) (uid lid lin handle core start placed now : Nat) : Block :=
  { uid := uid, launch := lid, lin := lin, handle := handle, place := .resident, core := core, startQuarter := start
    placed := placed, waves := r.launchWaves, desc := List.replicate 16 none, quires := List.replicate 8 ⟨0, none, []⟩
    barriers := List.replicate 16 ⟨0, 0, []⟩, queues := List.replicate 16 ⟨0, 0, 0, 0, 0, 0, 0, 0, [], []⟩
    gps := List.replicate 8 none, scratch := [], feEmpty := [], poisonG := [], acc := [], accBad := []
    issued := 0, everIssued := false, since := now, elapsed := 0, treatment := none, waitSince := none, woken := none
    saveUnits := [] }

end Sys2Proof.Machine
end

