-- ==== Sys2Proof/Machine/MemPerform.lean ====
section
/-! DEFINITION. Memory operations performed at home, and their returns: loads, stores, atomics and cluster messages (R247 to R258, R263 to
R268), pod requests sent (R375), and the waits that the lease clock ends (R329, R330, R335). -/

namespace Sys2Proof.Machine

/-- The position of the first group of an operation on a line that satisfies a test. -/
def MemOp.groupAt (o : MemOp) (line : Nat) (p : OpGroup → Bool) : Option (Nat × OpGroup) :=
  foldIdx (fun acc i g => acc.or (if g.line == line && p g then some (i, g) else none)) none 0 o.groups

/-- The state with one group of an operation replaced. -/
def State.setGroup (s : State) (op i : Nat) (g : OpGroup) : State := s.modMemOp op (fun o => { o with groups := setAt o.groups i g })

/-- The major opcode of Table 11.2 of an atomic by its sub-operation. -/
def atomMajor (sub : Nat) (wide : Bool) : Nat :=
  match sub with
  | 0 => if wide then 0x16 else 0x15
  | 10 => if wide then 0x21 else 0x20
  | n => 0x16 + n

/-- The lowest address that a line group touches, and how many bytes it spans. -/
def OpGroup.span (g : OpGroup) : Nat × Nat :=
  let lo := minList 0 (g.lanes.map (·.pa))
  (lo, g.lanes.foldl (fun n l => max n (l.pa + l.size)) lo - lo)

/-- What an operation asks of a peer for a line group, from its lowest address (R247, R374): one read or one write for all its lanes, or an
atomic. -/
def MemKind.ask (k : MemKind) (g : OpGroup) : PodAsk :=
  let base := g.span.1 % 128
  let bytes := writeOffsets (List.replicate 128 0) g.writes
  let run := rangeFrom base g.span.2
  match k with
  | .store =>
    if run.all (fun i => g.writes.any (fun w => w.1 == i)) then .write ((bytes.drop base).take g.span.2) false
    else .scatter ((run.filter (fun i => g.writes.any (fun w => w.1 == i))).map (fun i => (i - base, bytes.getD i 0)))
  | .atomic sub wide _ =>
    match g.lanes with
    | [] => .read 0
    | l :: _ => .atomic (atomMajor sub wide) l.data l.swap
  | _ => .read g.span.2

/-- Whether an earlier access of the wave to a pod line has not been sent (R375). -/
def State.podEarlier (s : State) (o : MemOp) (line : Nat) : Bool :=
  s.memOps.any (fun p => p.wave == o.wave && decide (p.id < o.id) &&
    p.groups.any (fun h => h.line == line && isPod (128 * h.line) && h.req.isNone && !h.performed))

/-- The bucket points on the way of a group's request: core and home slice, or core and port (R39). -/
def State.groupPoints (s : State) (o : MemOp) (g : OpGroup) : List BucketPoint :=
  if isPod (128 * g.line) then
    [.core o.core, .port (s.podPort (podDevice (s.podEntry o.part (podRank (128 * g.line))).1) g.line) o.part]
  else s.linePoints o.core o.part g.line

/-- A group's request taken past its bucket points (R39), then `f`; a point that holds it keeps it, and so does a hold on its bank
(R436). -/
def State.regulated (s : State) (o : MemOp) (i : Nat) (g : OpGroup) (f : OpGroup → State → State) : State :=
  match State.passPoints o (o.payload g) (s.groupPoints o g) g s with
  | (true, g1, s1) => if s1.bankHolds o.part g.line then s1.setGroup o.id i g1 else f g1 s1
  | (false, g1, s1) => s1.setGroup o.id i g1

/-- BUCKET_RELEASE (R39): a request held at a point passes it once enough tokens have accrued; of Chafer's, the first in its turn. -/
def execBucketRelease (point : BucketPoint) (op line : Nat) (s : State) : Host.Outcome State Fault Refusal :=
  .next (
    match s.memOp? op with
    | none =>
      match point with
      | .port i p => if s.device.fenced then s else s.releasePod i p
      | _ => s
    | some o =>
      match o.groupAt line (fun g => !g.performed && g.points.testBit (3 + pointIndex point)) with
      | none => s
      | some (i, g) =>
        if (s.groupPoints o g).contains point then
          let r := s.passPoint o g (o.payload g) point
          r.2.2.setGroup op i r.2.1
        else s)

/-- A pod group's request sent, once (R375). -/
def State.sendGroup (s : State) (o : MemOp) (i : Nat) (g : OpGroup) : State :=
  if g.req.isSome || s.podEarlier o g.line then s
  else
    s.regulated o i g (fun g s =>
      match g.lanes with
      | [] => s.setGroup o.id i { g with performed := true, returned := true }
      | _ :: _ =>
        let r := s.sendPod (.mem o.id g.line) o.part g.span.1 (o.kind.ask g) (dieOfCore o.core)
        r.2.setGroup o.id i { g with req := some r.1 })

/-- The value that a lane takes from a line's bytes (R252). -/
def OpLane.value (l : OpLane) (bytes : List Byte) (signed : Bool) : Nat :=
  let v := ofBytesLE ((bytes.drop (l.pa % 128)).take l.size)
  if signed then natOfInt (signExt v (8 * l.size)) 32 else v

/-- Whether a load's values are sign-extended. -/
def MemKind.signed : MemKind → Bool
  | .load s => s
  | _ => false

/-- The lanes that a synchronising load may serve after the scope checks of its line (R338); a scalar load is checked once. -/
def State.loadChecks (s : State) (o : MemOp) (g : OpGroup) : List OpLane × State :=
  if !o.acquire || !g.attr.scopeCheck then (g.lanes, s)
  else
    match o.kind with
    | .sload _ =>
      let r := s.checkScope o g.attr g.line ((g.lanes.head?.map (·.lane)).getD 0) ((g.lanes.head?.map (·.va)).getD 0)
      if r.1 then (g.lanes, r.2)
      else ([], (g.lanes.drop 1).foldl (fun s l => s.takeTrap o.wave l.lane o.vpc o.slot 0x07 0 l.va) r.2)
    | _ =>
      let r := s.checkScopes o g.attr g.line (g.lanes.filter (fun l => l.size != 0))
      (r.1 ++ g.lanes.filter (fun l => l.size == 0), r.2)

/-- A prefetch performed for a line (R269; log entry 80 on one still in flight when its launch retires): into the L1 and home or replica at level 1, home or replica alone at level 2. The replicate hint
reaches the replica also where the L1 holds the line (R238). -/
def State.prefetchLine (s : State) (o : MemOp) (g : OpGroup) (level : Nat) : State :=
  let rep := o.qual == 1 || o.qual == 3
  let long := o.qual == 2 || o.qual == 3
  let id := ((s.launch? o.launch).map (·.id)).getD 0
  if level = 1 && !(rep && (s.l1Copy o.core o.part g.line).isSome) then (s.loadLine o.core o.part o.space g.line id g.attr rep long).2
  else (s.serveLine o.core o.part o.space g.line id g.attr rep long).2

/-- The blocks of an MX group of which a lane is served (R256). -/
def OpGroup.blocksOf (g : OpGroup) (ls : List OpLane) : List OpBlock :=
  g.blocks.filter (fun b => ls.any (fun l => l.size != 0 && (blockSlots (g.attr.bfmt == 3) g.attr.bk l.lane).1 == b.slots))

/-- A line group of a load served: its values, scales and poison mark, for the lanes that pass their scope checks (R247, R253); when none
passes, nothing is loaded (R338). -/
def State.loadNow (s : State) (o : MemOp) (i : Nat) (g : OpGroup) : State :=
  let c := s.loadChecks o g
  if c.1.all (fun l => l.size == 0) then
    c.2.setGroup o.id i { g with lanes := c.1, blocks := [], performed := true, vals := c.1.map (fun l => (l.lane, 0)) }
  else
  let bs := g.blocksOf c.1
  let r := c.2.loadLine o.core o.part o.space g.line (((s.launch? o.launch).map (·.id)).getD 0) g.attr (o.qual == 2) (o.qual == 3)
  r.2.setGroup o.id i { g with
    lanes := c.1
    blocks := bs
    performed := true
    poison := r.1.poison
    vals := c.1.map (fun l => (l.lane, l.value r.1.bytes o.kind.signed))
    codes := bs.map (fun b => (r.1.side.getD b.side 0).toNat) }

/-- A line group of a load performed (R247, R253), when no earlier access of the wave to its bytes is open (R249) and none of the core's
stores that its L1 has taken (R328). -/
def State.loadPerform (s : State) (o : MemOp) (i : Nat) (g : OpGroup) : State :=
  match o.kind with
  | .prefetch level =>
    s.regulated o i g (fun g s =>
      let s1 := (s.prefetchLine o g level).setGroup o.id i { g with performed := true }
      if (s1.memOp? o.id).any (fun p => p.groups.all (·.performed)) then s1.dropMemOp o.id else s1)
  | _ =>
    if isPod (128 * g.line) then s.sendGroup o i g
    else
      let hit := (s.l1Copy o.core o.part g.line).isSome
      if s.earlierOpen o g hit || (!hit && s.coreStoreOpen o.core o.part o.id g) then s
      else if hit then s.loadNow o i g
      else s.regulated o i g (fun g s => s.loadNow o i g)

/-- Whether an operation may write (R433: nothing is performed while the alarm fences the partitions) and its release wait has ended (R329,
Table 15.1): at block scope when the earlier writes are made, else once the
lease clock has ended it. -/
def State.released (s : State) (o : MemOp) : Bool :=
  !s.device.fenced && (!o.release || o.relDone || (o.scope == 0 && s.writesMade o.wave 0 o.id))

/-- Whether an earlier store of the same core that its L1 has taken on bytes of a group is open: such stores keep their order (R327). -/
def State.writeOrdered (s : State) (o : MemOp) (g : OpGroup) : Bool :=
  !s.earlierOpen o g false && !s.coreStoreOpen o.core o.part o.id g

/-- The home tag of a line placed first for replacement (R255). -/
def State.tagLast (s : State) (part line : Nat) : State :=
  match s.homeOf part line with
  | none => s
  | some i => s.modSlice i (fun sl =>
      let mine (t : Tag) : Bool := t.line == line && t.state != TagState.replica
      { sl with tags := sl.tags.filter (fun t => !mine t) ++ sl.tags.filter mine })

/-- What a store's qualifier does once it is performed (R255). -/
def State.afterStore (s : State) (o : MemOp) (g : OpGroup) : State :=
  match o.qual with
  | 2 => s.tagLast o.part g.line
  | 3 =>
    let r := s.serveLine o.core o.part o.space g.line 0 g.attr false true
    if (r.2.l1Pending o.core o.part g.line).isEmpty then
      r.2.l1Put o.core ⟨o.part, g.line, r.1.bytes, r.1.side, r.1.expiry, r.1.poison⟩
    else r.2
  | _ => s

/-- An operation whose groups are all performed: a store ends; an atomic is counted out, and ends when nothing returns (R248). -/
def State.settleOp (s : State) (op : Nat) : State :=
  match s.memOp? op with
  | none => s
  | some o =>
    if o.groups.all (·.performed) then
      match o.kind with
      | .store | .storeMx => s.endOp o
      | .atomic _ _ _ =>
        let s1 := if o.counted && !o.ended then s.endOp o else s
        match s1.memOp? op with
        | none => s1
        | some p => if !p.counted && p.answered then s1.dropMemOp op else s1
      | .ratom _ ret => if !ret || o.groups.all (·.returned) then s.endOp o else s
      | .load _ | .loadMx => if o.groups.all (·.returned) then s.endOp o else s
      | .sload _ => if o.groups.all (·.returned) then s.endOp o else s
      | .tdset _ => if o.groups.all (·.returned) then s.endOp o else s
      | .clock _ _ => if o.groups.all (·.returned) then s.dropMemOp op else s
      | _ => s
    else s

/-- A line group of a store performed at home, for the lanes that pass their scope checks (R254, R325). -/
def State.storeNow (s : State) (o : MemOp) (i : Nat) (g : OpGroup) : State :=
  let c := if o.release then s.checkScopes o g.attr g.line g.lanes else (g.lanes, s)
  let h := { g with lanes := c.1 }
  if c.1.isEmpty then (c.2.setGroup o.id i { h with performed := true }).settleOp o.id
  else
    let w := c.2.performWrite o.part o.space g.line g.attr h.writes g.scaleWrites true false
    let s1 := (w.1.setGroup o.id i { h with performed := true }).modMemOp o.id (fun p => { p with completion := max p.completion w.2 })
    let s2 := if g.l1 then s1 else s1.l1Drop o.core o.part g.line
    ((s2.barReplica o.core o.part g.line).afterStore o g).settleOp o.id

/-- A line group of a store performed once it may be (R249, R254, R329). -/
def State.storePerform (s : State) (o : MemOp) (i : Nat) (g : OpGroup) : State :=
  if !s.released o then s
  else if isPod (128 * g.line) then s.sendGroup o i g
  else if !s.writeOrdered o g then s
  else s.regulated o i g (fun g s => s.storeNow o i g)

/-- One lane's atomic performed at home (R263): the lane's old value when it takes effect, with the completion time. One that writes nothing
is a partial write for its tag, and no write otherwise (R229, R265). -/
def State.atomLane (s : State) (o : MemOp) (a : PageAttr) (line sub : Nat) (wide : Bool) (l : OpLane) :
    Option Nat × Nat × State :=
  let c := s.checkScope o a line l.lane l.va
  if !c.1 then (none, 0, c.2)
  else
    let old := c.2.homeNat o.part l.pa l.size
    match atomNew sub wide old l.data l.swap with
    | none => (some old, c.2.leaseNow (c.2.homeDie o.part line), c.2.touchWrite o.part o.space line a)
    | some x =>
      let w := c.2.performWrite o.part o.space line a (mapIdx' (fun i b => (l.pa % 128 + i, b)) (bytesLE l.size x)) [] false false
      (some old, w.2, w.1)

/-- The lanes of one group performed in rising home lane order (R263): the values found, the latest completion time, and the state. -/
def State.atomLanes (o : MemOp) (a : PageAttr) (line sub : Nat) (wide : Bool) :
    List OpLane → State → List (Nat × Nat) × Nat × State
  | [], s => ([], 0, s)
  | l :: ls, s =>
    let r := s.atomLane o a line sub wide l
    let q := State.atomLanes o a line sub wide ls r.2.2
    ((r.1.toList.map (fun v => (l.lane, v))) ++ q.1, max r.2.1 q.2.1, q.2.2)

/-- A line group of an atomic performed (R263). On a poisoned line nothing is performed: the event is logged and the return registers will
be marked (R251). -/
def State.atomNow (s : State) (o : MemOp) (i : Nat) (g : OpGroup) (sub : Nat) (wide : Bool) : State :=
  let s0 := s.fillLine o.part o.space g.line g.attr false
  if (s0.homeLine o.part g.line).2.2 then
    let c := s0.checkScopes o g.attr g.line g.lanes
    ((c.2.logUncorrectedLine o.part g.line).setGroup o.id i { g with
      lanes := c.1, performed := true, poison := true, vals := c.1.map (fun l => (l.lane, 0)) }).settleOp o.id
  else
    let r := State.atomLanes o g.attr g.line sub wide g.lanes s0
    let s1 := (r.2.2.setGroup o.id i { g with
      lanes := g.lanes.filter (fun l => r.1.any (fun v => v.1 == l.lane)), performed := true, vals := r.1 }).modMemOp o.id
        (fun p => { p with completion := max p.completion r.2.1 })
    ((s1.l1Drop o.core o.part g.line).barReplica o.core o.part g.line).settleOp o.id

/-- A line group of an atomic performed once it may be (R249, R263, R329). -/
def State.atomPerform (s : State) (o : MemOp) (i : Nat) (g : OpGroup) (sub : Nat) (wide : Bool) : State :=
  if !s.released o then s
  else if isPod (128 * g.line) then s.sendGroup o i g
  else if !s.writeOrdered o g then s
  else s.regulated o i g (fun g s => s.atomNow o i g sub wide)

/-- WRITE_PERFORM (R325). -/
def State.writeEvent (s : State) (o : MemOp) (line : Nat) : State :=
  match o.kind with
  | .store | .storeMx =>
    match o.groupAt line (fun g => !g.performed) with
    | some (i, g) => s.storePerform o i g
    | none => s
  | _ => s

/-- ATOMIC_PERFORM (R263). -/
def execAtomicPerform (op line : Nat) (s : State) : Host.Outcome State Fault Refusal :=
  .next (
    match s.memOp? op with
    | none => s
    | some o =>
      match o.kind with
      | .atomic sub wide _ =>
        match o.groupAt line (fun g => !g.performed) with
        | some (i, g) => s.atomPerform o i g sub wide
        | none => s
      | _ => s)

/-- The value of a lane's group written to its destinations, low word first, or the destinations left empty and marked (R251, R252,
R376). A lane that only heads an octet of rail slots keeps its value and becomes full, a helper lane too (R257). -/
def State.returnLane (s : State) (r : WaveRef) (g : OpGroup) (l : OpLane) (v : Nat) : State :=
  let mark : Option Mark := match g.failed with
    | some _ => some (.podFailed l.va)
    | none => if g.poison then some (.poisoned (l.va / 128 * 128)) else none
  s.modLane r l.lane (fun x =>
    if x.state == .helper && l.size != 0 then x
    else
      match mark with
      | some m => l.dest.foldl (fun x d => x.setMark d m) x
      | none =>
        if l.size = 0 then l.dest.foldl (fun x d => x.writeV d (x.reg d)) x
        else foldIdx (fun x i d => x.writeV d (BitVec.ofNat 32 (v / 2 ^ (32 * i)))) x 0 l.dest)

/-- The scale codes of a returned `ld.mx` group written to the rails of its destination (R175, R257). -/
def Wave.returnScales (w : Wave) (g : OpGroup) (d : Nat) : Wave :=
  (g.blocks.zip g.codes).foldl (fun w b =>
    let w1 := b.1.slots.foldl (fun w p => w.setRailSlot d p.1 p.2 b.2) w
    b.1.zeroSlots.foldl (fun w p => w.setRailSlot d p.1 p.2 0) w1) w

/-- One performed group returned to its wave. -/
def State.returnGroup (s : State) (o : MemOp) (i : Nat) (g : OpGroup) : State :=
  let s1 := g.lanes.foldl (fun s l => s.returnLane o.wave g l (((g.vals.find? (fun v => v.1 == l.lane)).map (·.2)).getD 0)) s
  let s2 := match o.kind, g.lanes with
    | .loadMx, l :: _ => if g.poison then s1 else s1.modWave o.wave (fun w => w.returnScales g (l.dest.headD 0))
    | _, _ => s1
  s2.setGroup o.id i { g with returned := true }

/-- A scalar load returned (R270): the scalar registers written, or the lanes of T trapped. -/
def State.returnScalar (s : State) (o : MemOp) (g : OpGroup) (d : Nat) : State :=
  let live : List OpLane := g.lanes.filter (fun l => ((s.lane? o.wave l.lane).map (·.isActive)).getD false)
  let s1 : State := match g.failed with
    | some a => live.foldl (fun (s : State) (l : OpLane) => s.takeTrap o.wave l.lane o.vpc o.slot 0x10 0 a) s
    | none =>
      if g.poison then live.foldl (fun (s : State) (l : OpLane) => s.takeTrap o.wave l.lane o.vpc o.slot 0x11 0 (l.va / 128 * 128)) s
      else
        match g.lanes, g.vals with
        | l :: _, v :: _ => s.modWave o.wave (fun w =>
            (upTo (l.size / 4)).foldl (fun w i => w.setS (d + i) (BitVec.ofNat 32 (v.2 / 2 ^ (32 * i)))) w)
        | _, _ => s
  s1.modMemOp o.id (fun p => { p with groups := p.groups.map (fun (g : OpGroup) => { g with returned := true }) })

/-- The image of a `tdset` returned (R272): the descriptor register written, or the lanes of T trapped. -/
def State.returnDesc (s : State) (o : MemOp) (g : OpGroup) (t : Nat) : State :=
  let live : List OpLane := g.lanes.filter (fun l => ((s.lane? o.wave l.lane).map (·.isActive)).getD false)
  let trap (cause addr : Nat) : State :=
    live.foldl (fun (s : State) (l : OpLane) => s.takeTrap o.wave l.lane o.vpc o.slot cause 0 addr) s
  let va := (g.lanes.head?.map (·.va)).getD 0
  let s1 : State := match g.failed with
    | some a => trap 0x10 a
    | none =>
      if g.poison then trap 0x11 (va / 128 * 128)
      else
        match parseDesc (bytesLE 64 ((g.vals.head?.map (·.2)).getD 0)) with
        | none => trap 0x0F va
        | some d => s.modBlockOf o.wave (fun b => { b with desc := setAt b.desc t (some d) })
  s1.modMemOp o.id (fun p => { p with groups := p.groups.map (fun (g : OpGroup) => { g with returned := true }) })

/-- A clock read returned (R149, R410): vector destinations of its lanes, or scalar ones. -/
def State.returnClock (s : State) (o : MemOp) (value : Nat) (scalar : Option (List Nat)) : State :=
  let s1 : State := match scalar with
    | some rs => s.modWave o.wave (fun w => foldIdx (fun w i r => w.setS r (BitVec.ofNat 32 (value / 2 ^ (32 * i)))) w 0 rs)
    | none => (o.groups.flatMap (·.lanes)).foldl (fun (s : State) (l : OpLane) =>
        foldIdx (fun (s : State) i r => s.arrive o.wave l.lane r (BitVec.ofNat 32 (value / 2 ^ (32 * i)))) s 0 l.dest) s
  s1.modMemOp o.id (fun p => { p with groups := p.groups.map (fun (g : OpGroup) => { g with returned := true }) })

/-- LOAD_RETURN (R248, R252): the values of a performed group arrive. The groups of an `ld.mx` arrive together, once all are performed. -/
def execLoadReturn (op line : Nat) (s : State) : Host.Outcome State Fault Refusal :=
  .next (
    match s.memOp? op with
    | none => s
    | some o =>
      match o.groupAt line (fun g => g.performed && !g.returned) with
      | none => s
      | some (i, g) =>
        match o.kind with
        | .load _ => (s.returnGroup o i g).settleOp op
        | .loadMx =>
          if o.groups.all (·.performed) then (foldIdx (fun s i g => s.returnGroup o i g) s 0 o.groups).settleOp op else s
        | .atomic _ _ ret => if ret then (s.returnGroup o i g).settleOp op else s
        | .ratom _ ret => if ret then (s.returnGroup o i g).settleOp op else s
        | .sload d => (s.returnScalar o g d).settleOp op
        | .tdset t => (s.returnDesc o g t).settleOp op
        | .clock v sc => (s.returnClock o v sc).settleOp op
        | _ => s)

/-- The target block of a cluster message and its offset (R267). -/
def OpLane.target (l : OpLane) : Nat × Nat := (l.pa / 2 ^ 22, l.pa % 2 ^ 22)

/-- Whether an earlier cluster message of the wave to the same block is open (R267): of an earlier operation, or of a lower lane. -/
def State.ratomEarlier (s : State) (o : MemOp) (l : OpLane) : Bool :=
  s.memOps.any (fun p =>
    match p.kind with
    | .ratom _ _ => p.wave == o.wave && decide (p.id ≤ o.id) && p.groups.any (fun h => !h.performed &&
        h.lanes.any (fun m => m.target.1 == l.target.1 && (decide (p.id < o.id) || decide (m.lane < l.lane))))
    | _ => false)

/-- RATOM_PERFORM (R39, R267, R268): a message that its core's bucket lets pass, performed at its target block, resident or saved; a target
that was flushed takes it once it stands again. An operation of which nothing is left to perform is counted out. -/
def execRatomPerform (op lane : Nat) (s : State) : Host.Outcome State Fault Refusal :=
  .next (
    match s.memOp? op with
    | none => s
    | some o =>
      match o.kind, o.groupAt lane (fun g => !g.performed) with
      | .ratom sub _, some (i, g) =>
        match g.lanes with
        | [] => s
        | l :: _ =>
          let r := s.passPoint o g (o.payload g) (.core o.core)
          if !s.released o || s.ratomEarlier o l || ((s.block? l.target.1).map (fun b => b.place == .unplaced)).getD false then s
          else if !r.1 then r.2.2.setGroup op i r.2.1
          else
            let s := r.2.2
            let g := r.2.1
            let old := ((s.block? l.target.1).map (fun b => b.scratchNat l.target.2 4)).getD 0
            let s1 := s.modBlock l.target.1 (fun b => (b.scratchAtom sub l.target.2 l.data l.swap).1)
            (s1.setGroup op i { g with performed := true, vals := [(l.lane, old)] }).settleOp op
      | .ratom _ _, none => s.settleOp op
      | _, _ => s)

/-- The waits of a release that are not of the lease clock, and the clock's (Table 15.1). -/
def State.releaseReady (s : State) (o : MemOp) : Bool :=
  s.writesMade o.wave o.scope o.id &&
    (o.scope == 0 || decide (s.ltcOf o.wave o.launch < s.leaseNow (dieOfCore o.core)))

/-- LEASE_WAIT_END (R330, R332, R335): a fence, a release or a completion proceeds. -/
def execLeaseWaitEnd (what : LeaseWait) (s : State) : Host.Outcome State Fault Refusal :=
  .next (
    match what with
    | .fence r =>
      let ended (h : Hold) : Bool := match h with
        | .fence scope kind upTo => s.fenceMade r scope kind upTo &&
            (!fenceLeases scope kind || decide (((s.wave? r).map (·.ltc)).getD 0 < s.nowOf r))
        | _ => false
      s.modWave r (fun w => { w with holds := w.holds.filter (fun h => !ended h) })
    | .release op =>
      match s.memOp? op with
      | none => s
      | some o => if o.release && s.releaseReady o then s.modMemOp op (fun p => { p with relDone := true }) else s
    | .completion n =>
      match s.pendingWrites.find? (fun p => p.id == n) with
      | none => s
      | some p =>
        if decide (p.completion < s.leaseNow p.die) then
          { s with pendingWrites := s.pendingWrites.filter (fun q => q.id != n) }.emit
            (match p.peer with
              | none => .hostDone n
              | some d => if p.reply.isEmpty then .peerAck d else .peerData d p.reply false)
        else s)

end Sys2Proof.Machine
end

