-- ==== Sys2Proof/Machine/Mantis.lean ====
section
/-! DEFINITION. The Mantis table (R340 to R359): registration, spilling, context-held entries, timeouts, sweeps and reclaims. -/

namespace Sys2Proof.Machine

/-- The entries that a slice's table holds. -/
def State.tableCount (s : State) (i : Nat) : Nat := (s.entries.filter (fun e => e.place == .slice i)).length

/-- The spill records that an entry takes: two when it is wide or has a deadline (R350). -/
def Entry.records (e : Entry) : Nat := if e.wide || e.deadline != 0 then 2 else 1

/-- The spill records a partition uses. -/
def State.spillUsed (s : State) (part : Nat) : List Nat :=
  (s.entries.filter (fun e => e.part == part && e.place == .spilled)).flatMap (·.recs)

/-- The first of `n` free records that stand together in a spill area of `total` records (Table 16.4: the next record is the second). Of
any 2k + 2 records of which k are used, two that stand together are free. -/
def freeRecord (used : List Nat) (n total : Nat) : Option Nat :=
  (upTo (2 * used.length + 1)).find? (fun i => decide (i + n ≤ total) && (rangeFrom i n).all (fun r => !used.contains r))

/-- The number that names an entry's owner in a spill record (R340): a wave's waiter handle; for an owner of the scheduler or the host, a
number of the reserved range (DESIGN CHOICE, log entry 67). -/
def State.ownerHandle (s : State) : EntryOwner → Nat
  | .wave r => 32 * (((s.blockOf r).map (·.handle)).getD 0) + waveIndex r
  | .tail _ n => 0xF8000000 + n
  | .gate l => 0xF9000000 + l % 2 ^ 24
  | .ring r => 0xFA000000 + (32 * (((s.blockOf r).map (·.handle)).getD 0) + waveIndex r) % 2 ^ 24
  | .monitor _ m => 0xFB000000 + m

/-- The bytes of an entry's spill records (Table 16.4). -/
def Entry.spillBytes (e : Entry) (handle : Nat) : List Byte :=
  bytesLE 16 (2 ^ 127 + 2 ^ 123 * e.cond + 2 ^ 122 * (if e.wide then 1 else 0) + 2 ^ 117 * (e.addr % 128 / 4) + 2 ^ 72 * (e.addr / 128 % 2 ^ 45) +
    2 ^ 66 * (e.group % 64) + 2 ^ 65 * (e.records - 1) + 2 ^ 32 * (handle % 2 ^ 32) + e.operand % 2 ^ 32) ++
  (if e.records = 2 then
    bytesLE 16 (2 ^ 96 * (if e.wide then e.operand / 2 ^ 32 % 2 ^ 32 else 0) + e.deadline % 2 ^ 64)
  else [])

/-- The spill records that a partition's area holds (R354): none when its base lies outside the partition's backed HBM4E. -/
def Partition.spillRecords (p : Partition) : Nat :=
  if p.mspSize != 0 && p.ownsRange p.mspBase (65536 * p.mspSize) then 4096 * p.mspSize else 0

/-- The launch that an entry belongs to, for the spills its colophon reports (R354). -/
def State.entryLaunch (s : State) : EntryOwner → Option Nat
  | .wave r => s.launchKey r
  | .ring r => s.launchKey r
  | .gate l => some l
  | .tail _ _ => none
  | .monitor _ _ => none

/-- The place of an entry of a wave kept in the wave's own record (R341). -/
def State.noteGroup (s : State) (e : Entry) (p : GroupPlace) : State :=
  let upd (r : WaveRef) : State := s.modWave r (fun w => { w with groups := w.groups.map (fun g =>
    if g.group == e.group then { g with place := p } else g) })
  match e.owner with
  | .wave r => upd r
  | .ring r => upd r
  | .tail _ _ => s
  | .gate _ => s
  | .monitor _ _ => s

/-- The watch-filter bit of a line set at its home (R351, R353). -/
def State.watchLine (s : State) (part line : Nat) : State :=
  match s.homeOf part line with
  | none => s
  | some i => s.modSlice i (fun sl => { sl with filter := insertSorted (filterIndex line) sl.filter })

/-- The place of an entry changed, with the spill records that it takes there. -/
def State.moveEntry (s : State) (key : Nat) (p : EntryPlace) (now : Nat) (recs : List Nat) : State :=
  { s with entries := s.entries.map (fun e => if e.key == key then { e with place := p, checked := now, recs := recs } else e) }

/-- A spill counted for the launch whose entry left its slice's table, to the spill area or to the context (R354, Table 23.1). -/
def State.countSpill (s : State) (e : Entry) : State :=
  match s.entryLaunch e.owner with
  | some l => s.modLaunch l (fun x => { x with spills := sat32 (x.spills + 1) })
  | none => s

/-- An entry held in its owner's context, or in the scheduler's own store, and counted (R353). -/
def State.holdEntry (s : State) (e : Entry) : State :=
  (((s.moveEntry e.key .held (s.leaseNow (s.homeDie e.part (e.addr / 128))) []).modPart e.part (fun p =>
    { p with mcntHeld := wrap64 (p.mcntHeld + 1) })).countSpill e).noteGroup e .held

/-- An entry moved out of a slice's table: to the spill area, or, when no record is free, held in its owner's context (R350, R353). -/
def State.displace (s : State) (e : Entry) : State :=
  let line := e.addr / 128
  let s1 := s.watchLine e.part line
  match freeRecord (s1.spillUsed e.part) e.records (s1.part e.part).spillRecords with
  | some i =>
    let s2 := (s1.moveEntry e.key .spilled 0 (rangeFrom i e.records)).modPart e.part (fun p =>
      { p with mcntSpill := wrap64 (p.mcntSpill + 1) })
    let bs := e.spillBytes (s2.ownerHandle e.owner)
    let s3 := (mapIdx' (fun k (r : Nat) => (r, (bs.drop (16 * k)).take 16)) (rangeFrom i e.records)).foldl (fun (s : State) x =>
      s.putRecord e.part x.1 x.2) s2
    (s3.countSpill e).noteGroup e .spilled
  | none => s1.holdEntry e

/-- Whether an entry may be moved out of a table: a wave's or the scheduler's (R350). -/
def Entry.movable (e : Entry) : Bool := match e.owner with | .monitor _ _ => false | _ => true

/-- The oldest movable entry of a slice's table: the one registered first. -/
def State.oldestEntry (s : State) (i : Nat) : Option Entry :=
  match s.entries.filter (fun e => e.place == .slice i && e.movable) with
  | [] => none
  | e :: es => some (es.foldl (fun a b => if b.key < a.key then b else a) e)

/-- A free place in a slice's table: a full one moves its oldest movable entry out (R350). -/
def State.tableRoom (s : State) (i : Nat) : State :=
  if s.tableCount i < 2048 then s
  else
    match s.oldestEntry i with
    | some x => s.displace x
    | none => s

/-- An entry put in the table of the home slice of its word (R342, R350, R358); with no home it is held in its owner's context. -/
def State.placeEntry (s : State) (e : Entry) : State :=
  match s.homeOf e.part (e.addr / 128) with
  | none => s.holdEntry e
  | some i => ((s.tableRoom i).moveEntry e.key (.slice i) 0 []).noteGroup e .atSlice

/-- An entry installed at the home slice of its word (R342). -/
def State.installEntry (s : State) (e : Entry) : State := ({ s with entries := s.entries ++ [e] }).placeEntry e

/-- Registration of a word at its home (R342): the value is delivered at once when the condition holds on it; otherwise the entry is
installed, with the word as the reference of `chg`. A line of the host range is held at its home in shared state while it is watched (R359). -/
def State.register (s : State) (owner : EntryOwner) (part cond : Nat) (wide : Bool) (addr operand deadline group : Nat) : State :=
  let s1 := s.fireOverdue part (addr / 128)
  let s1 := if isHost addr then s1.fillLine part 16 (addr / 128) .plain false else s1.useLine part (addr / 128)
  let w := s1.homeNat part addr (if wide then 8 else 4)
  let f := s1.fresh
  let e : Entry := ⟨f.1, owner, part, cond, wide, addr, if cond = 8 then w else if cond = 9 then 0 else operand, deadline, group, .held, 0, false, []⟩
  if decide (cond < 8) && waitHolds cond wide w operand false then f.2.deliver e w true else f.2.installEntry e

/-- Lanes taken out of a wait group that never registers; an empty group's record goes (R341). -/
def State.leaveGroup (s : State) (r : WaveRef) (no : Nat) (ls : List Nat) : State :=
  s.modWave r (fun w => { w with groups := (w.groups.map (fun g =>
    if g.group == no then { g with lanes := g.lanes.filter (fun l => !ls.contains l) } else g)).filter (fun g => !g.lanes.isEmpty) })

/-- The registration of a wait group of `waitu` (R348): scope checks in rising home lane order, poison, then the word. -/
def State.registerWait (s : State) (o : MemOp) (g : OpGroup) (cond : Nat) (wide : Bool) (ticks : Nat) : State :=
  let s0 := s.fillLine o.part o.space g.line g.attr false
  let c := s0.checkScopes o g.attr g.line g.lanes
  let out := (g.lanes.map (·.lane)).filter (fun l => c.1.all (fun x => x.lane != l))
  let s1 := (c.2.leaveGroup o.wave o.groupNo out).dropMemOp o.id
  match c.1 with
  | [] => s1
  | l :: _ =>
    if (s1.homeLine o.part g.line).2.2 then
      (c.1.foldl (fun s x => s.takeTrap o.wave x.lane o.vpc o.slot 0x11 0 (x.va / 128 * 128)) s1).leaveGroup o.wave o.groupNo
        (c.1.map (·.lane))
    else
      s1.register (.wave o.wave) o.part cond wide l.pa l.data
        (if ticks = 0 then 0 else s1.leaseNow (s1.homeDie o.part g.line) + 2 ^ ticks) o.groupNo

/-- MANTIS_REGISTRATION (R39, R342, R348): past its buckets, after every earlier access of the wave to the word (R249). -/
def execMantisRegistration (op line : Nat) (s : State) : Host.Outcome State Fault Refusal :=
  .next (
    match s.memOp? op with
    | none => s
    | some o =>
      match o.groupAt line (fun g => !g.performed) with
      | none => s
      | some (i, g) =>
        if s.earlierOpen o g false || s.coreStoreOpen o.core o.part o.id g then s
        else
          match o.kind with
          | .wait cond wide ticks => s.regulated o i g (fun g s => s.registerWait o g cond wide ticks)
          | .ringWait operand => s.regulated o i g (fun g s =>
              ((s.fillLine o.part o.space line g.attr false).dropMemOp op).register (.ring o.wave) o.part 4 true
                ((g.lanes.head?.map (·.pa)).getD 0) operand 0 o.groupNo)
          | _ => s)

/-- MANTIS_TIMEOUT (R346): an entry at its slice fires once the clock at home reads more than its deadline. -/
def execMantisTimeout (entry : Nat) (s : State) : Host.Outcome State Fault Refusal :=
  .next (
    match s.entries.find? (fun e => e.key == entry) with
    | none => s
    | some e =>
      match e.place with
      | .slice _ => if e.deadline != 0 && decide (e.deadline < s.leaseNow (s.homeDie e.part (e.addr / 128))) then s.fire e else s
      | _ => s)

/-- The spilled entries of the lines that a slice homes. -/
def State.spilledAt (s : State) (i : Nat) : List Entry :=
  s.entries.filter (fun e => e.place == .spilled && s.homeOf e.part (e.addr / 128) == some i)

/-- A slice clears its whole filter when the spill area holds no record of its lines (R351). -/
def State.tidyFilter (s : State) (i : Nat) : State :=
  if (s.spilledAt i).isEmpty then s.modSlice i (fun sl => { sl with filter := [] }) else s

/-- SPILL_SWEEP (R352): every spilled entry of the slice's lines whose deadline the clock has reached fires. -/
def execSpillSweep (slice : Nat) (s : State) : Host.Outcome State Fault Refusal :=
  let due := (s.spilledAt slice).filter (fun e => e.deadline != 0 && decide (e.deadline ≤ s.leaseNow (dieOfSlice slice)))
  .next ((due.foldl (fun s e => s.fire e) s).tidyFilter slice)

/-- Spilled entries taken back while the table has room (R350). -/
def State.reclaim (i : Nat) : List Entry → State → State
  | [], s => s
  | e :: es, s => if s.tableCount i < 2048 then State.reclaim i es (((s.freeRecords e).moveEntry e.key (.slice i) 0 []).noteGroup e .atSlice) else s

/-- SPILL_RECLAIM (R350). -/
def execSpillReclaim (slice : Nat) (s : State) : Host.Outcome State Fault Refusal :=
  .next ((State.reclaim slice (s.spilledAt slice) s).tidyFilter slice)

/-- CONTEXT_REEVALUATION (R353): a context-held entry reads its word at home, 4,096 ticks after the last time. -/
def execContextReevaluation (entry : Nat) (s : State) : Host.Outcome State Fault Refusal :=
  .next (
    match s.entries.find? (fun e => e.key == entry) with
    | none => s
    | some e =>
      let line := e.addr / 128
      let now := s.leaseNow (s.homeDie e.part line)
      if e.place != .held || decide (now < e.checked + 4096) then s
      else
        let s1 := s.watchLine e.part line
        let v := s1.entryWord e
        if (decide (e.cond < 9) && waitHolds e.cond e.wide v e.operand false) || (decide (8 ≤ e.cond) && e.touched) then s1.deliver e v true
        else if e.deadline != 0 && decide (e.deadline ≤ now) then s1.fire e
        else { s1 with entries := s1.entries.map (fun x => if x.key == entry then { x with checked := now } else x) })

end Sys2Proof.Machine
end

