-- ==== Sys2Proof/Machine/Engine.lean ====
section
/-! DEFINITION. What the engines share: the places of tensor elements and scales (R29 to R32, R222, R277), the reading of source bytes
(R278, R279, R281, R284), and the writing of destination lines and granules (R278, R280, R281, R285). -/

namespace Sys2Proof.Machine

/-- A coordinate reduced along a wrapped dimension, none when it is out of bounds (R32). -/
def Desc.coord (d : Desc) (i x : Nat) : Option Nat :=
  if bitOf d.wrap i then some (x % d.dim i) else if x < d.dim i then some x else none

/-- The coordinates of a box position from an origin, none when the element is out of bounds (R32, R274). -/
def Desc.place (d : Desc) (org pos : List Nat) : Option (List Nat) :=
  match d.coord 0 (org.getD 0 0 + pos.getD 0 0), d.coord 1 (org.getD 1 0 + pos.getD 1 0), d.coord 2 (org.getD 2 0 + pos.getD 2 0),
    d.coord 3 (org.getD 3 0 + pos.getD 3 0) with
  | some a, some b, some c, some e => some [a, b, c, e]
  | _, _, _, _ => none

/-- The positions of a box, and the position of a linear index (R277). -/
def Desc.boxCount (d : Desc) : Nat := d.box 0 * d.box 1 * d.box 2 * d.box 3
def Desc.posOf (d : Desc) (n : Nat) : List Nat :=
  [n % d.box 0, n / d.box 0 % d.box 1, n / d.box 0 / d.box 1 % d.box 2, n / d.box 0 / d.box 1 / d.box 2]

/-- The elements that an engine moves together: a block of an MX tensor, else one element. -/
def Desc.group (d : Desc) : Nat := if d.isMx then blockK d.block else 1

/-- The linear indices at which the groups of a box begin. -/
def Desc.items (d : Desc) : List Nat := (upTo (d.boxCount / d.group)).map (· * d.group)

/-- An element's bytes: the byte address, how many bytes hold it and the bit it starts at (R31). -/
def Desc.elemSpan (d : Desc) (c : List Nat) : Nat × Nat × Nat :=
  let bits := elemBits d.elem
  let shift := c.getD 0 0 * bits % 8
  (d.base + d.offset c, (shift + bits + 7) / 8, shift)

/-- The coordinates of the first element of a block. -/
def Desc.blockStart (d : Desc) (c : List Nat) : List Nat := (c.getD 0 0 / blockK d.block * blockK d.block) :: c.tail

/-- The data bytes of an item: a block's, or an element's. -/
def Desc.itemSpan (d : Desc) (c : List Nat) : Nat × Nat :=
  if d.isMx then (d.base + d.offset (d.blockStart c), d.blockBytes) else ((d.elemSpan c).1, (d.elemSpan c).2.1)

/-- The scale byte's address of a block in plane layout. -/
def Desc.scaleSpan (d : Desc) (c : List Nat) : Nat := d.scaleAt (d.offset (d.blockStart c))

/-- Where a tensor's addresses lie: the block's scratchpad, the launch's address space, or a window at a physical base (R382). -/
inductive Place where
  | scratch
  | paged
  | window (base : Nat)
  deriving DecidableEq, Repr

/-- The place of a local tensor. -/
def Desc.here (d : Desc) : Place := if d.scratch then .scratch else .paged

/-- The page of an operation that covers a virtual address (R293). -/
def EngOp.page (e : EngOp) (va : Nat) : Option TlbEntry := e.pages.find? (fun t => t.covers e.part e.space va)

/-- The address that a place gives a tensor address: an offset in scratchpad, else a physical address. -/
def EngOp.phys (e : EngOp) (p : Place) (a : Nat) : Nat :=
  match p with
  | .scratch => a
  | .paged => ((e.page a).map (fun t => t.pa a)).getD 0
  | .window b => b + a

/-- The line or granule that holds an address of a place. -/
def Place.unit (p : Place) (q : Nat) : Bool × Nat :=
  match p with
  | .scratch => (false, q / 16)
  | _ => (true, q / 128)

/-- The offset of an address in its line or granule. -/
def Place.off (p : Place) (q : Nat) : Nat :=
  match p with
  | .scratch => q % 16
  | _ => q % 128

/-- The lines and granules of a run of addresses. -/
def EngOp.spanUnits (e : EngOp) (p : Place) (a n : Nat) : List (Bool × Nat) := (rangeFrom a n).map (fun x => p.unit (e.phys p x))

/-- The lines and granules that hold an item's bytes and its scale (R277). -/
def EngOp.itemUnits (e : EngOp) (d : Desc) (p : Place) (c : Option (List Nat)) : List (Bool × Nat) :=
  match c with
  | none => []
  | some c => e.spanUnits p (d.itemSpan c).1 (d.itemSpan c).2 ++ (if d.plane then e.spanUnits p (d.scaleSpan c) 1 else [])

/-- The lines and granules that hold one element and its scale. -/
def EngOp.elemUnits (e : EngOp) (d : Desc) (p : Place) (c : Option (List Nat)) : List (Bool × Nat) :=
  match c with
  | none => []
  | some c =>
    e.spanUnits p (d.elemSpan c).1 (d.elemSpan c).2.1 ++
      (if d.plane then e.spanUnits p (d.scaleSpan c) 1
       else if d.isMx then e.spanUnits p (d.itemSpan c).1 1 else [])

/-- What reads a line or granule for an operation. -/
abbrev Look := Bool × Nat → EngRead

/-- One byte of a place, and whether it is poisoned. -/
def EngOp.byteAt (e : EngOp) (look : Look) (p : Place) (a : Nat) : Byte × Bool :=
  let q := e.phys p a
  let r := look (p.unit q)
  (r.bytes.getD (p.off q) 0, r.poison)

/-- A source element as read (R277, R281). -/
structure SrcElem where
  code : Nat := 0
  scale : Nat := 0
  oob : Bool := false
  poison : Bool := false
  badScale : Bool := false
  deriving DecidableEq, Repr

/-- The scale of a block, and whether it is poisoned: a side byte in bound layout, a byte of the scale plane otherwise (R218, R222). -/
def EngOp.scaleAt (e : EngOp) (look : Look) (d : Desc) (p : Place) (c : List Nat) : Nat × Bool :=
  if d.plane then
    let b := e.byteAt look p (d.scaleSpan c)
    (b.1.toNat, b.2)
  else
    let q := e.phys p (d.itemSpan c).1
    let r := look (p.unit q)
    ((r.side.getD (p.off q / d.blockBytes) 0).toNat, r.poison)

/-- The source element at given coordinates. -/
def EngOp.elem (e : EngOp) (look : Look) (d : Desc) (p : Place) (c : Option (List Nat)) : SrcElem :=
  match c with
  | none => { oob := true }
  | some c =>
    let sp := d.elemSpan c
    let bs := (rangeFrom sp.1 sp.2.1).map (e.byteAt look p)
    let sc := if d.isMx then e.scaleAt look d p c else (0, false)
    { code := ofBytesLE (bs.map (·.1)) / 2 ^ sp.2.2 % 2 ^ elemBits d.elem, scale := sc.1, poison := bs.any (·.2), badScale := sc.2 }

/-- Whether an element enters a computation as +0: out of bounds, or poisoned (R277, R281). -/
def SrcElem.isZeroed (x : SrcElem) : Bool := x.oob || x.poison || x.badScale

/-- Whether a destination element computed from it is written as zero bytes and marks its place poisoned (R281). -/
def SrcElem.spoils (x : SrcElem) : Bool := x.poison || x.badScale

/-- Whether elements of a descriptor have values: all but raw bytes (R152, R153). -/
def Desc.numeric (d : Desc) : Bool := d.elem != 0xB

/-- The exact value of an element's code, with its block's scale (R152, R153, R282): an unblocked INT8 or INT32 element is its integer. -/
def Desc.codeVal (d : Desc) (fi : Bool) (scale code : Nat) : Val :=
  let f := elemFmt d.elem
  if d.isMx then mxVal f scale (flushIn f fi code)
  else if 9 ≤ d.elem then
    let i := signExt code (elemBits d.elem)
    .fin (decide (i < 0)) i.natAbs 0
  else readVal f fi code

/-- The exact value of a source element (R282). -/
def SrcElem.val (d : Desc) (fi : Bool) (x : SrcElem) : Val := if x.isZeroed then .fin false 0 0 else d.codeVal fi x.scale x.code

/-- What an operation makes of one item: element codes, the block's scale, which elements are spoiled, and the exact source values that
statistics consider. -/
structure ItemOut where
  codes : List Nat
  scale : Nat
  bad : List Bool
  vals : List Val
  deriving DecidableEq, Repr

/-- Values converted into a destination item (R282, R283): a block quantised, or an element rounded; a spoiled element is zero bytes. -/
def convertItem (d : Desc) (ceil : Bool) (modes : List Rnd) (sat fo : Bool) (bad : List Bool) (vals : List Val) : ItemOut :=
  let f := elemFmt d.elem
  let q := if d.isMx then quantBlock f ceil modes sat fo vals
    else (0, (vals.zip modes).map (fun p => (roundTo f p.1 p.2 sat fo).1))
  ⟨(q.2.zip bad).map (fun p => if p.2 then 0 else p.1), q.1, bad, vals⟩

/-- The bytes of an item packed from element codes (R31). -/
def packCodes (bits : Nat) : List Nat → Nat
  | [] => 0
  | c :: cs => c % 2 ^ bits + 2 ^ bits * packCodes bits cs

/-- The payload bytes that an operation writes in one line or granule, each once: bits that no element writes stay as `base` has them. -/
def blendBytes (base : Nat → Byte) (bs : List DestByte) : List (Nat × Byte) :=
  bs.foldl (fun acc b =>
    if b.side then acc
    else
      let old := ((acc.find? (fun x => x.1 == b.off)).map (·.2)).getD (base b.off)
      (acc.filter (fun x => x.1 != b.off)) ++ [(b.off, (old &&& ~~~b.mask) ||| (b.byte &&& b.mask))]) []

/-- The bytes that an item writes at its coordinates, none when it is out of bounds (R277). -/
def EngOp.itemBytes (e : EngOp) (d : Desc) (p : Place) (c : Option (List Nat)) (o : ItemOut) : List DestByte :=
  match c with
  | none => []
  | some c =>
    let bits := elemBits d.elem
    let sp := d.itemSpan c
    let shift := if d.isMx then 0 else (d.elemSpan c).2.2
    let masks := bytesLE sp.2 ((2 ^ (bits * o.codes.length) - 1) * 2 ^ shift)
    let spoiled (i : Nat) : Bool :=
      if d.isMx then (rangeFrom (8 * i / bits) ((8 * i + 7) / bits + 1 - 8 * i / bits)).any (fun j => o.bad.getD j false) else o.bad.headD false
    let data := mapIdx' (fun i b =>
      let q := e.phys p (sp.1 + i)
      (⟨p.unit q, p.off q, b, masks.getD i 0, spoiled i, false⟩ : DestByte)) (bytesLE sp.2 (packCodes bits o.codes * 2 ^ shift))
    let scale : List DestByte :=
      if d.plane then
        let q := e.phys p (d.scaleSpan c)
        [⟨p.unit q, p.off q, BitVec.ofNat 8 o.scale, 0xFF, false, false⟩]
      else if d.isMx then
        let q := e.phys p sp.1
        [⟨p.unit q, p.off q / d.blockBytes, BitVec.ofNat 8 o.scale, 0xFF, false, true⟩]
      else []
    data ++ scale

/-- A line or granule as it stands. A poisoned granule that a copy reads is read as a poisoned line is: R281 does not name it (DESIGN CHOICE, log
entry 81). -/
def State.unitNow (s : State) (e : EngOp) (u : Bool × Nat) : EngRead :=
  if u.1 then
    let c := s.homeLine e.part u.2
    ⟨true, u.2, c.1, c.2.1, c.2.2⟩
  else
    match s.block? e.uid with
    | none => ⟨false, u.2, [], [], false⟩
    | some b => ⟨false, u.2, b.scratchBytes (16 * u.2) 16, [], b.poisonG.contains u.2⟩

/-- A line or granule that an operation has read. -/
def EngOp.captured (e : EngOp) (u : Bool × Nat) : Option EngRead := e.reads.find? (fun r => r.glob == u.1 && r.unit == u.2)

/-- How an operation sees a line or granule: as it read it, else as it stands. -/
def State.look (s : State) (e : EngOp) (u : Bool × Nat) : EngRead := (e.captured u).getD (s.unitNow e u)

/-- Whether a wave has a write to a memory line, or a message to a block, issued before a number and not performed (R279, R313). -/
def State.writeOpen (s : State) (part : Nat) (uid : Nat) (u : Bool × Nat) (w : WaveRef × Nat) : Bool :=
  s.memOps.any (fun o => o.wave == w.1 && decide (o.id < w.2) && o.part == part &&
    match o.kind with
    | .ratom _ _ => !u.1 && o.groups.any (fun g => !g.performed && g.lanes.any (fun l => l.target.1 == uid))
    | k => u.1 && k.writes && o.groups.any (fun g => g.line == u.2 && !g.performed))

/-- Whether a line or granule of an operation is a line of the pod range, which a peer reads and writes for it. -/
def podUnit (u : Bool × Nat) : Bool := u.1 && isPod (128 * u.2)

/-- Whether an operation may read a line or granule now (R279, R284, R313); a line of the pod range once the peer has sent it. -/
def State.readable (s : State) (e : EngOp) (u : Bool × Nat) : Bool :=
  (e.captured u).isSome ||
    (!podUnit u && (u.1 || !e.opts.wf || ((s.block? e.uid).map (fun b => b.granuleFull u.2)).getD true) &&
      e.waves.all (fun w => !s.writeOpen e.part e.uid u w))

/-- The attributes of the page that a physical line lies on for an operation; of none for a window. -/
def EngOp.lineAttr (e : EngOp) (line : Nat) : PageAttr :=
  ((e.pages.find? (fun t => decide (t.pbase ≤ 128 * line) && decide (128 * line < t.pbase + 2 ^ t.sizeLog))).map (·.attr)).getD .plain

/-- The unit of the log that an engine's events count to (Table 23.7). -/
def EngOp.logUnit (e : EngOp) : Nat := if e.engine == .chafer then 248 else e.core

/-- Whether an engine logs the poisoned granules it reads: the Platen and `acpy` do (R314, R319). -/
def EngOp.logsGranules (e : EngOp) : Bool := e.engine == .platen

/-- An operation reads a line or granule; a poisoned line is logged once (R281). -/
def State.capture (s : State) (id : Nat) (u : Bool × Nat) : State :=
  match s.engOp? id with
  | none => s
  | some e =>
    if (e.captured u).isSome then s
    else
      let s1 := if u.1 then s.fillLine e.part e.space u.2 (e.lineAttr u.2) false else s
      let r := s1.unitNow e u
      let s2 := s1.modEngOp id (fun e => { e with reads := e.reads ++ [r] })
      if r.poison && (u.1 || e.logsGranules) then (s2.logEvent e.logUnit 5 none (if u.1 then some (128 * u.2) else none)).2 else s2

/-- Several lines and granules read. -/
def State.captureAll (s : State) (id : Nat) (us : List (Bool × Nat)) : State := us.foldl (fun s u => s.capture id u) s

/-- The bytes of one line written at home (R229, R278): its completion time is kept, and the issuing core takes the line from home again
(R280, R326). -/
def State.putLine (s : State) (e : EngOp) (line : Nat) (bs : List DestByte) : State :=
  let a := e.lineAttr line
  let ws := blendBytes ((s.homeLine e.part line).1.getD · 0) bs
  let sc := (bs.filter (·.side)).map (fun b => (b.off, b.byte))
  let r := s.performWrite e.part e.space line a ws sc true (bs.any (·.bad))
  ((r.1.modEngOp e.id (fun x => { x with completion := max x.completion r.2 })).l1Drop e.core e.part line).barReplica e.core e.part line

/-- The bytes of one granule written, its poison mark as R281 says and its F bit set under sf (R285). -/
def Block.putGranule (b : Block) (g : Nat) (bs : List DestByte) (sf : Bool) : Block :=
  let b1 := (blendBytes (fun o => (b.scratchBytes (16 * g + o) 1).headD 0) bs).foldl (fun b x => b.putScratch (16 * g + x.1) [x.2]) b
  let b2 := b1.clearPoison (bs.map (fun x => 16 * g + x.off))
  let b3 := if bs.any (·.bad) then b2.poisonGranule g else b2
  if sf then b3.fillGranule g else b3

/-- The requests of an operation for its own lines of the pod range that are not answered. -/
def State.unitsOpen (s : State) (id : Nat) : Bool :=
  s.podReqs.any (fun q => match q.owner with
    | .unit e _ => e == id
    | _ => false)

/-- A line of the pod range asked of its peer, once (R373, R375). -/
def State.askUnit (s : State) (e : EngOp) (line : Nat) : State :=
  if s.podReqs.any (fun q => q.owner == .unit e.id line) then s
  else (s.sendPod (.unit e.id line) e.part (128 * line) (.read 128) (dieOfCore e.core)).2

/-- The bytes of a line of the pod range sent to its peer: in one write where they stand together, else byte by byte. Bytes of spoiled
elements make the write a poisoned one (R281). -/
def State.sendUnit (s0 : State) (e : EngOp) (line : Nat) (bs : List DestByte) : State :=
  let mixed := blendBytes (fun o => Config.edgeBits (s0.draws + o)) bs
  let s := { s0 with draws := s0.draws + 128 }
  let cells := (upTo 128).filterMap (fun o => mixed.find? (fun b => b.1 == o))
  let base := (cells.head?.map (·.1)).getD 0
  let ask : PodAsk :=
    if cells.map (·.1) == rangeFrom base cells.length then .write (cells.map (·.2)) (bs.any (·.bad))
    else .scatter (cells.map (fun c => (c.1 - base, c.2)))
  (s.sendPod (.unit e.id line) e.part (128 * line + base) ask (dieOfCore e.core)).2

/-- One line or granule of an operation written; a line of the pod range is sent to its peer. -/
def State.putUnit (s : State) (e : EngOp) (u : Bool × Nat) (bs : List DestByte) : State :=
  let s1 := if podUnit u then s.sendUnit e u.2 bs else if u.1 then s.putLine e u.2 bs else s.modBlock e.uid (fun b => b.putGranule u.2 bs e.opts.sf)
  s1.modEngOp e.id (fun x => { x with done := x.done ++ [u] })

/-- A list without repeats, first occurrences kept. -/
def dedupUnits (l : List (Bool × Nat)) : List (Bool × Nat) := (l.foldl (fun acc u => if acc.contains u then acc else u :: acc) []).reverse

/-- Bytes written line by line and granule by granule; what has been written already is left. -/
def State.putBytes (s : State) (e : EngOp) (bs : List DestByte) : State :=
  (dedupUnits (bs.map (·.unit))).foldl (fun s u => if e.done.contains u then s else s.putUnit e u (bs.filter (fun b => b.unit == u))) s

/-- The addresses that a box touches in bounds, each with a length: items' data, then the scales of a plane (Table 12.4). -/
def Desc.touches (d : Desc) (place : Nat → Option (List Nat)) (items : List Nat) : List (Nat × Nat) :=
  items.flatMap (fun n =>
    match place n with
    | none => []
    | some c => d.itemSpan c :: (if d.plane then [(d.scaleSpan c, 1)] else []))

/-- The first and last bytes of runs. -/
def ends (l : List (Nat × Nat)) : List Nat := l.flatMap (fun x => [x.1, x.1 + x.2 - 1])

/-- Translation of every address given (check 5 of Table 12.4): the pages, or the fault with its address. -/
def State.translateAll (s : State) (core part space : Nat) : List Nat → List TlbEntry → Except (Nat × Nat × Nat) (List TlbEntry) × State
  | [], acc => (.ok acc, s)
  | va :: vas, acc =>
    if acc.any (fun t => t.covers part space va) then s.translateAll core part space vas acc
    else
      match s.translate core part space va with
      | (.error f, s1) => (.error (f.1, f.2, va), s1)
      | (.ok t, s1) => s1.translateAll core part space vas (acc ++ [t])

/-- Whether an engine reaches the physical address of a page to read it or, with `dest`, to write it. A page of the pod range is reached when
the pod map admits its rank for that (R200, R201): Table 12.4 has no other cause for it than 0x09 (DEDUCED, log entry 68). -/
def State.engineReaches (s : State) (part : Nat) (dest : Bool) (pa : Nat) : Bool :=
  (s.part part).reaches pa && (!isPod pa || ((s.part part).podEnable && podValid (s.podLook part (podRank pa)) &&
    podGrants (s.podLook part (podRank pa)) (if dest then 1 else 0)))

/-- Reachability, as `reach` has it, and permission of every address given (check 6 of Table 12.4). -/
def reachAll (part space : Nat) (pages : List TlbEntry) (reach : Nat → Bool) (dest : Bool) : List Nat → Option (Nat × Nat × Nat)
  | [] => none
  | va :: vas =>
    match pages.find? (fun t => t.covers part space va) with
    | none => reachAll part space pages reach dest vas
    | some t =>
      if !reach (t.pa va) then some (0x09, 4, va)
      else if dest && !t.attr.writable then some (0x09, 2, va)
      else reachAll part space pages reach dest vas

/-- The bfmt that a page of an MX tensor in bound layout carries (Table 9.6). -/
def bfmtOf (elem : Nat) : Nat :=
  match elem with
  | 4 => 0
  | 5 => 1
  | 9 => 2
  | _ => 3

/-- Whether the pages of a global MX tensor have its layout and format (R35, R220). -/
def Desc.layoutOk (d : Desc) (part space : Nat) (pages : List TlbEntry) (vas : List Nat) : Bool :=
  !d.isMx || d.scratch || vas.all (fun va =>
    match pages.find? (fun t => t.covers part space va) with
    | none => true
    | some t =>
      if d.plane then !t.attr.bound
      else t.attr.bound && t.attr.tolerant && t.attr.bfmt == bfmtOf d.elem && t.attr.bk + 1 == d.block)

/-- The in-bounds runs of a tensor that lie at or beyond the block's allocation, the first one's offset (check 4 of Table 12.4). -/
def scratchOver (bound : Nat) (l : List (Nat × Nat)) : Option Nat := (l.find? (fun x => decide (bound < x.1 + x.2))).map (·.1)

/-- A box that a command names: its descriptor, where its items stand, the items, and whether it is written. -/
structure Box where
  d : Desc
  place : Nat → Option (List Nat)
  items : List Nat
  dest : Bool

/-- The addresses that a box touches. -/
def Box.touches (b : Box) : List (Nat × Nat) := b.d.touches b.place b.items

/-- Reachability and permission of several boxes (check 6 of Table 12.4). -/
def State.reachBoxes (s : State) (part space : Nat) (pages : List TlbEntry) : List Box → Option (Nat × Nat × Nat)
  | [] => none
  | b :: bs =>
    match (if b.d.scratch then none else reachAll part space pages (s.engineReaches part b.dest) b.dest (ends b.touches)) with
    | some f => some f
    | none => s.reachBoxes part space pages bs

/-- An access into a removed channel group also reports code 0x0004 (R44). -/
def State.goneEvent (s : State) (part space va : Nat) (pages : List TlbEntry) : State :=
  match pages.find? (fun t => t.covers part space va) with
  | none => s
  | some t => if isBacked (t.pa va) && (s.part part).gone.testBit (groupOf (t.pa va)) then s.errorEvent part 0x0004 0xFFFF 0 (t.pa va) else s

/-- Checks 4 to 7 of Table 12.4 on the boxes of a command: the pages it keeps, or the cause, detail and fault address. -/
def State.boxChecks (s : State) (core part space bound : Nat) (bs : List Box) : Except (Nat × Nat × Nat) (List TlbEntry) × State :=
  match bs.findSome? (fun b => if b.d.scratch then scratchOver bound b.touches else none) with
  | some off => (.error (0x0B, 0, off), s)
  | none =>
    match s.translateAll core part space (bs.flatMap (fun b => if b.d.scratch then [] else ends b.touches)) [] with
    | (.error f, s1) => (.error f, s1)
    | (.ok pages, s1) =>
      match s1.reachBoxes part space pages bs with
      | some f => (.error f, if f.2.1 = 4 then s1.goneEvent part space f.2.2 pages else s1)
      | none =>
        if bs.all (fun b => b.d.layoutOk part space pages (ends b.touches)) then (.ok pages, s1) else (.error (0x0F, 0, 0), s1)

/-- Check 3 of Table 12.4 on a box's origin: the address of its first element when an MX origin is misplaced or an FP4 origin is odd. -/
def Desc.misplaced (d : Desc) (org : List Nat) : Option Nat :=
  if (d.isMx && org.getD 0 0 % blockK d.block != 0) || (d.elem == 8 && org.getD 0 0 % 2 != 0) then some (d.base + d.offset org) else none

/-- A fault address that the spec leaves open, drawn (log entry 24). -/
def State.drawFault (s : State) : Nat × State := ((Config.faultAddr s.draws).toNat, { s with draws := s.draws + 1 })

/-- Lanes of T trap with a cause at a fault address that the spec leaves open. -/
def State.trapFree (s : State) (c : Ctx) (ts : List Nat) (cause : Nat) : State :=
  s.drawFault.2.trapAt c ts cause 0 s.drawFault.1

/-- The registers of a coordinate group that a command reads are passed by every lane of T or by none: those of the elected lane, or of
every lane under `.u` (R274). None goes on when a register is empty; under `.u`, lanes that disagree trap with cause 0x13. -/
def State.readGroup (s : State) (c : Ctx) (w : Wave) (ts : List Nat) (u : Bool) (regs : List Nat) : Bool × State :=
  let rd := if u then ts else ts.take 1
  let needs := rd.flatMap (fun l => regs.map (fun r => (l, r)))
  let r := s.gates c w (fun _ => needs) ts
  if r.1.isEmpty then (false, r.2)
  else if regs.any (fun n => rd.any (fun l => w.reg l n != w.reg (ts.headD 0) n)) then (false, r.2.trapAt c ts 0x13 0 0)
  else (true, r.2)

/-- The eight values of a coordinate group as the elected lane holds them, zero where a register is not read (R274). -/
def Wave.groupVals (w : Wave) (ts : List Nat) (g : Nat) (regs : List Nat) : List Nat :=
  (upTo 8).map (fun n => if regs.contains (g + n) then (w.reg (ts.headD 0) (g + n)).toNat else 0)

/-- A descriptor register of a wave's block, none while it holds its launch value (R34). -/
def State.descOf (s : State) (r : WaveRef) (n : Nat) : Option Desc := ((s.blockOf r).bind (fun b => b.desc[n]?)).join

/-- An engine operation of a wave at the instruction of a context; its stream and seed are the launch's (R286). -/
def State.newEng (s : State) (c : Ctx) (id : Nat) (engine : Engine) (op : Nat) (o : EngOpts) (t1 t2 : Option Desc) (coords lanes : List Nat)
    (pages : List TlbEntry) : EngOp :=
  { id := id, engine := engine, op := op, opts := o, waves := [(c.r, id)], uid := ((s.blockOf c.r).map (·.uid)).getD 0
    core := s.coreOf c.r, part := s.partOf c.r, space := s.spaceOf c.r, t1 := t1, t2 := t2, coords := coords, lanes := lanes
    seed := ((s.launchOf c.r).map (·.record.seed)).getD 0, stream := ((s.launchOf c.r).map (·.stream)).getD 0
    pages := pages, reads := [], done := [], completion := 0, started := none, ring := none, stage := 0, failed := none, pend := [] }

/-- An engine operation issued: it is in flight and counts in its wave's counter (R275). -/
def State.putEng (s : State) (r : WaveRef) (counter : Nat) (e : EngOp) : State :=
  { s with engOps := s.engOps ++ [e] }.modWave r (fun w => w.modCounter counter (· + 1))

/-- The bucket points that an engine's line passes (R39): its core's and its home slice's, or for a line of the pod range the port's; Chafer
stands on the hub die, behind no core. -/
def State.unitPoints (s : State) (e : EngOp) (u : Bool × Nat) : List BucketPoint :=
  if !u.1 then []
  else
    (if e.engine == .chafer then [] else [BucketPoint.core e.core]) ++
      (if podUnit u then [.port (s.podPort (podDevice (s.podLook e.part (podRank (128 * u.2)))) u.2) e.part]
       else ((s.homeOf e.part u.2).map BucketPoint.slice).toList)

/-- The payload bytes that bytes written to one line or granule move, each once (R39). -/
def destCount (bs : List DestByte) : Nat := ((upTo 128).filter (fun o => bs.any (fun b => b.off == o && !b.side))).length

/-- Whether an engine's line must come to its home by an event of its own: a bucket may hold it (R39), or its bank does (R436). -/
def State.unitHeld (s : State) (e : EngOp) (u : Bool × Nat) : Bool :=
  u.1 && ((s.unitPoints e u).any s.throttled || (!podUnit u && s.bankHolds e.part u.2))

/-- Whether lines of an operation have still to pass the buckets one by one, or wait for their banks (R39, R436). -/
def State.unpassed (s : State) (e : EngOp) (reads writes : List (Bool × Nat)) : Bool :=
  reads.any (fun u => s.unitHeld e u && (e.captured u).isNone) || writes.any (fun u => s.unitHeld e u && !e.done.contains u)

/-- Whether an operation's block stands on a core (R292), and no alarm fences the partitions (R433). -/
def State.engHere (s : State) (e : EngOp) : Bool :=
  !s.device.fenced && ((s.block? e.uid).map (fun b => b.place == .resident || b.place == .saving)).getD false

/-- Whether a block's engine operations may go on: those whose block stands on a core, of a core's copy commands the first 64 (R276): commands that
a restore brings beyond them stay suspended until there is room. -/
def State.engRuns (s : State) (e : EngOp) : Bool :=
  s.engHere e && (e.engine != .compositor || decide ((s.engOps.filter (fun x => x.engine == .compositor && x.core == e.core && s.engHere x)).findIdx
    (fun x => x.id == e.id) < 64))

end Sys2Proof.Machine
end

