-- ==== Sys2Proof/Machine/Copy.lean ====
section
/-! DEFINITION. The Compositor (R271 to R293): `tdset`, the copy commands and their issue checks, what a command makes of each item, and
the statistics slot. -/

namespace Sys2Proof.Machine

/-- `tdset` (R272): once for the wave; the image's read holds the wave. -/
def execTdset (d : BitVec 4) (c : BitVec 6) (g : BitVec 4) (s : State) : Host.Outcome State Fault Refusal :=
  s.execWord (.tdset d c g) true [] (basePair c) (fun _ => true) (fun x w s => s.blockOnly x (
    let t := x.t w g
    s.unlessBlocked x t (w.memBlocked false) (
      let va := w.sreg64 c.toNat
      let part := s.partOf x.r
      if t.isEmpty then s
      else if va % 64 != 0 then s.trapAt x t 0x0A 0 va
      else
        match s.checkAccess (s.coreOf x.r) part (s.spaceOf x.r) va .read with
        | (.error f, s1) => s1.trapAt x t f.1 f.2 va
        | (.ok e, s1) =>
          let r := if isPod (e.pa va) then s1.podCheck part (e.pa va) 0 else (true, s1)
          if !r.1 then r.2.trapAt x t 0x10 0 va
          else
            let grp := OpGroup.open_ (e.pa va / 128) e.attr (t.map (fun l => ⟨l, va, e.pa va, 64, 0, 0, []⟩))
            r.2.putOp x (fun id => s.newOp x id (.tdset d.toNat) 3 0 false false [grp] false) true)))

/-- Whether a descriptor's elements are FP32, FP16 or BF16 (R282). -/
def Desc.isFloat (d : Desc) : Bool := decide (d.elem ≤ 2)

/-- Whether two descriptors hold elements alike (R282). -/
def Desc.sameFmt (a b : Desc) : Bool := a.elem == b.elem && a.block == b.block

/-- The formats, ranks and boxes of a copy command (Table 12.5). -/
def copyFormats (op : Nat) (d e : Desc) : Bool :=
  let eqBox := d.boxes == e.boxes
  let fm (x : Desc) : Bool := x.isFloat || x.isMx
  match op with
  | 1 => d.sameFmt e && eqBox
  | 2 => e.isFloat && d.isMx && eqBox
  | 3 => e.isMx && d.isFloat && eqBox
  | 4 => decide (2 ≤ d.rank) && decide (2 ≤ e.rank) && ((d.sameFmt e && !d.isMx) || (fm d && fm e)) &&
      d.box 0 == e.box 1 && d.box 1 == e.box 0 && d.box 2 == e.box 2 && d.box 3 == e.box 3
  | 5 => d.sameFmt e && (decide (d.elem ≤ 3) || d.isMx) && eqBox
  | 6 => true
  | _ => decide (2 ≤ d.rank) && decide (2 ≤ e.rank) && d.sameFmt e && eqBox

/-- Check 2 of Table 12.4. -/
def copyFormatOk (op : Nat) (o : EngOpts) (d e : Desc) : Bool :=
  copyFormats op d e && (!o.sf || d.scratch) && (o.round != 3 || (d.isMx && d.elem == 9))

/-- The registers of the coordinate group that a copy command reads (Table 12.3, R274). -/
def copyRegs (op g : Nat) (d e : Desc) : List Nat :=
  rangeFrom g d.rank ++
    (match op with
    | 6 => (g + 4) :: (if d.elem = 3 then [g + 5] else [])
    | 7 => [g + 4, g + 5] ++ rangeFrom (g + 6) (e.rank - 2)
    | _ => rangeFrom (g + 4) e.rank)

/-- The source coordinates of a destination position of a copy command (R282, R290), none out of bounds. -/
def EngOp.srcPlace (e : EngOp) (d src : Desc) (n : Nat) : Option (List Nat) :=
  let p := d.posOf n
  let org := e.coords.drop 4
  match e.op with
  | 4 => src.place (org.take 4) [p.getD 1 0, p.getD 0 0, p.getD 2 0, p.getD 3 0]
  | 7 => src.place [org.getD 0 0, e.coords.getD (8 + p.getD 1 0) 0, org.getD 2 0, org.getD 3 0] [p.getD 0 0, 0, p.getD 2 0, p.getD 3 0]
  | _ => src.place (org.take 4) p

/-- The destination coordinates of a position (R274). -/
def EngOp.destPlace (e : EngOp) (d : Desc) (n : Nat) : Option (List Nat) := d.place (e.coords.take 4) (d.posOf n)

/-- The key of an operation's SR draws (R286). -/
def EngOp.key (e : EngOp) : Nat := Nat.xor e.seed (e.stream * 2 ^ 56) % 2 ^ 64

/-- The rounding of the elements from a linear index on (R286). -/
def EngOp.modes (e : EngOp) (n k : Nat) : List Rnd :=
  (rangeFrom n k).map (fun i => roundOfField e.opts.round (if e.opts.round = 2 then srThreshold e.key (i % 2 ^ 32) else 0))

/-- An item moved as it is (R282): the codes, with the block's scale; `fi` flushes only the values that the statistics take (R287). -/
def movedItem (d : Desc) (fi : Bool) (xs : List SrcElem) : ItemOut :=
  ⟨xs.map (fun x => if x.isZeroed then 0 else x.code), ((xs.head?.map (fun x => if x.badScale then 0 else x.scale)).getD 0),
    xs.map SrcElem.spoils, if d.numeric then xs.map (SrcElem.val d fi) else []⟩

/-- An item multiplied by 2^e (R288). The values for the statistics are the source's (R287). -/
def scaledItem (d : Desc) (k : Int) (xs : List SrcElem) : ItemOut :=
  let m := movedItem d false xs
  let vals := xs.map (SrcElem.val d false)
  if d.isMx then
    if m.scale = 0xFF || (m.scale = 0 && m.codes.all (· == 0)) then m
    else if 0 ≤ (m.scale : Int) + k ∧ (m.scale : Int) + k ≤ 254 then { m with scale := ((m.scale : Int) + k).toNat }
    else { convertItem d true (xs.map (fun _ => Rnd.rne)) true false m.bad (vals.map (Val.scale k)) with vals := vals }
  else { convertItem d false (xs.map (fun _ => Rnd.rne)) true false m.bad (vals.map (Val.scale k)) with vals := vals }

/-- The fill value of `cpyf` as an item (R289). -/
def EngOp.fillItem (e : EngOp) (d : Desc) (n : Nat) : ItemOut :=
  let lo := e.coords.getD 4 0
  if d.isMx then
    let x := readVal fp32 e.opts.fi lo
    let k := d.group
    convertItem d e.opts.ceil (e.modes n k) e.opts.sat e.opts.fo (List.replicate k false) (List.replicate k x)
  else
    let code := (lo + 2 ^ 32 * e.coords.getD 5 0) % 2 ^ elemBits d.elem
    ⟨[code], 0, [false], if d.numeric then [d.codeVal e.opts.fi 0 code] else []⟩

/-- What a copy command makes of the item at a linear index (R282 to R290). -/
def EngOp.copyItem (e : EngOp) (look : Look) (d src : Desc) (n : Nat) : ItemOut :=
  if e.op = 6 then e.fillItem d n
  else
    let xs := (rangeFrom n d.group).map (fun i => e.elem look src src.here (e.srcPlace d src i))
    if e.op = 1 || e.op = 7 || (e.op = 4 && d.sameFmt src && !d.isMx) then movedItem src e.opts.fi xs
    else if e.op = 5 then scaledItem src e.opts.exp xs
    else convertItem d e.opts.ceil (e.modes n d.group) e.opts.sat e.opts.fo (xs.map SrcElem.spoils) (xs.map (SrcElem.val src e.opts.fi))

/-- The lines and granules that a copy command reads for an item; none for an item that is not written. -/
def EngOp.copySources (e : EngOp) (d src : Desc) (n : Nat) : List (Bool × Nat) :=
  if e.op = 6 || (e.destPlace d n).isNone then []
  else (rangeFrom n d.group).flatMap (fun i => e.elemUnits src src.here (e.srcPlace d src i))

/-- The descriptors of a copy command; a fill has no source. -/
def EngOp.descs (e : EngOp) : Option (Desc × Desc) :=
  match e.t1 with
  | none => none
  | some d => some (d, e.t2.getD d)

/-- One element counted in a wave's statistics slot (R287). -/
def Wave.addStat (w : Wave) (x r : Val) : Wave :=
  if !x.isFin || !r.isFin then w
  else
    let dif := (r.add false x.neg).1
    let sq := (roundTo fp64 (dif.mul dif).1 .rne false false).1
    let a := (roundTo fp64 x.abs .rne false false).1
    { w with
      statSum := (roundTo fp64 ((decodeFmt fp64 w.statSum).add false (decodeFmt fp64 sq)).1 .rne false false).1
      statCount := (w.statCount + 1) % 2 ^ 64
      statMax := if w.statMax < a then a else w.statMax }

/-- The elements of an item counted in a wave's statistics slot (R287). -/
def Wave.itemStats (w : Wave) (d : Desc) (o : ItemOut) : Wave :=
  (o.vals.zip o.codes).foldl (fun w p => w.addStat p.1 (d.codeVal false o.scale p.2)) w

/-- Whether a copy command is the first of its wave in the Compositor (R280). -/
def State.firstCopy (s : State) (e : EngOp) : Bool :=
  s.engOps.all (fun x => x.engine != .compositor || decide (e.id ≤ x.id) || x.waves.map (·.1) != e.waves.map (·.1))

/-- A copy command's items written together: sources read, then the lines and granules not yet written (R277 to R285). -/
def State.runCopy (s : State) (e : EngOp) (d src : Desc) (items : List Nat) : State :=
  let s1 := s.captureAll e.id (items.flatMap (e.copySources d src))
  match s1.engOp? e.id with
  | none => s1
  | some x => s1.putBytes x (items.flatMap (fun n => x.itemBytes d d.here (x.destPlace d n) (x.copyItem (s1.look x) d src n)))

/-- The statistics of a command added to its wave's slot (R287). -/
def State.copyStats (s : State) (e : EngOp) (d src : Desc) : State :=
  if !e.opts.st then s
  else
    let outs := (d.items.filter (fun n => (e.destPlace d n).isSome)).map (e.copyItem (s.look e) d src)
    e.waves.foldl (fun s w => s.modWave w.1 (fun v => outs.foldl (fun v o => v.itemStats d o) v)) s

/-- An engine operation counted out of its waves' counters (R280, R302, R334). -/
def State.endEng (s : State) (e : EngOp) (counter : Nat) : State :=
  (e.waves.foldl (fun s w => s.countOut w.1 counter e.completion) s).dropEngOp e.id

/-- `cpys` completed (R291). -/
def State.copyStatistics (s : State) (e : EngOp) : State :=
  let g := e.coords.headD 0
  let s1 := e.waves.foldl (fun (s : State) w =>
    match s.wave? w.1 with
    | none => s
    | some v =>
      let out := [lo32 v.statSum, hi32 v.statSum, lo32 v.statCount, hi32 v.statCount, lo32 v.statMax, hi32 v.statMax]
      let s1 := e.lanes.foldl (fun (s : State) l => foldIdx (fun (s : State) i x => s.arrive w.1 l (g + i) x) s 0 out) s
      if e.opts.sf then s1.modWave w.1 (fun v => { v with statSum := 0, statCount := 0, statMax := 0 }) else s1) s
  s1.endEng e 1

/-- Commands of the Compositor that are complete are counted out in their wave's issue order, their statistics added in that order (R280,
R287). -/
def State.drainCopies (s : State) : State :=
  (s.engOps.filter (fun e => e.engine == .compositor)).foldl (fun (s : State) e =>
    match s.engOp? e.id with
    | none => s
    | some x =>
      if x.stage != 1 || !s.firstCopy x then s
      else
        match x.descs with
        | none => s
        | some (d, src) => (s.copyStats x d src).endEng x 1) s

/-- COPY_COMMAND_COMPLETE (R280): once every source byte may be read, what is not yet written is written and the F bits are set; when no write
to a peer is open the command is complete, and it is counted out in the wave's issue order. -/
def execCopyCommandComplete (op : Nat) (s : State) : Host.Outcome State Fault Refusal :=
  .next (
    match s.engOp? op with
    | none => s
    | some e =>
      if e.engine != .compositor || !s.engRuns e || e.stage != 0 then s
      else if e.op = 8 then (if s.firstCopy e then (s.copyStatistics e).drainCopies else s)
      else
        match e.descs with
        | none => s
        | some (d, src) =>
          if !(d.items.flatMap (e.copySources d src)).all (s.readable e) || s.unpassed e (d.items.flatMap (e.copySources d src))
              (d.items.flatMap (fun n => e.itemUnits d d.here (e.destPlace d n))) then s
          else
            let s1 := s.runCopy e d src d.items
            match s1.engOp? op with
            | none => s1
            | some _ => if s1.unitsOpen op then s1 else (s1.modEngOp op (fun x => { x with stage := 1 })).drainCopies)

/-- The commands in a core's Compositor, those that wait there for room included (R276). -/
def State.copiesOn (s : State) (core : Nat) : Nat :=
  (s.engOps.filter (fun e => e.engine == .compositor && e.core == core && s.engHere e)).length

/-- The row indices of a `cpyg` (R290). -/
def Block.rowIndices (b : Block) (off n : Nat) : List Nat := (upTo n).map (fun i => b.scratchNat (off + 4 * i) 4)

/-- The boxes of a copy command: destination, then source (Table 12.4). -/
def EngOp.copyBoxes (e : EngOp) (d src : Desc) : List Box :=
  ⟨d, e.destPlace d, d.items, true⟩ ::
    (if e.op = 6 then []
     else if e.op = 4 then [⟨src, fun n => src.place ((e.coords.drop 4).take 4) (src.posOf n), src.items, false⟩]
     else [⟨src, e.srcPlace d src, src.items, false⟩])

/-- Checks 3 to 7 of Table 12.4 passed or failed on a command formed, its index list apart; then it issues when the Compositor has room
(R275, R276). -/
def State.issueCopy (s : State) (c : Ctx) (ts : List Nat) (e : EngOp) (d src : Desc) : State :=
  match s.boxChecks e.core e.part e.space (s.scratchSize c.r) (e.copyBoxes d src) with
  | (.error f, s1) => s1.trapAt c ts f.1 f.2.1 f.2.2
  | (.ok pages, s1) =>
    if 64 ≤ s1.copiesOn e.core then s1.stall c.r else { s1 with next := e.id + 1 }.putEng c.r 1 { e with pages := pages }

/-- The index list of a `cpyg` checked and read, with its granules full under wf (R290); then the other checks. -/
def State.issueGather (s : State) (c : Ctx) (ts : List Nat) (e : EngOp) (d src : Desc) : State :=
  let off := e.coords.getD 5 0
  let n := 4 * d.box 1
  match s.blockOf c.r with
  | none => s
  | some b =>
    if off % 4 != 0 then s.trapAt c ts 0x0A 0 off
    else if decide (s.scratchSize c.r < off + n) then s.trapAt c ts 0x0B 0 off
    else if (rangeFrom (off / 16) ((off + n + 15) / 16 - off / 16)).any (fun u => s.writeOpen (s.partOf c.r) b.uid (false, u) (c.r, s.next)) then
      s.stall c.r
    else if e.opts.wf && !(rangeFrom (off / 16) ((off + n + 15) / 16 - off / 16)).all b.granuleFull then s.stall c.r
    else s.issueCopy c ts { e with coords := e.coords ++ b.rowIndices off (d.box 1) } d src

/-- A copy command (R274 to R276): its stalls, check 1, the coordinate group, check 2, and the checks that follow. -/
def State.copyCommand (s : State) (i : Instr) (op t1 t2 k : Nat) (u : Bool) (o : EngOpts) (g : BitVec 4) : Host.Outcome State Fault Refusal :=
  s.execWord i true (rangeFrom (8 * k) 8) [] (fun _ => true) (fun c w s => s.blockOnly c (
    let ts := c.t w g
    s.unlessBlocked c ts (w.memBlocked false || decide (15 ≤ w.ocCpy)) (
      if ts.isEmpty then s
      else
        match s.descOf c.r t1, (if op = 6 then s.descOf c.r t1 else s.descOf c.r t2) with
        | some d, some src =>
          let regs := copyRegs op (8 * k) d src
          match s.readGroup c w ts u regs with
          | (false, s1) => s1
          | (true, s1) =>
            let coords := w.groupVals ts (8 * k) regs
            let e := s1.newEng c s1.next .compositor op o (some d) (if op = 6 then none else some src) coords ts []
            let bad := (d.misplaced (coords.take 4)).or
              (if op = 6 then none else src.misplaced (if op = 7 then [coords.getD 4 0, 0, coords.getD 6 0, coords.getD 7 0] else coords.drop 4))
            if !copyFormatOk op o d src then s1.trapAt c ts 0x0F 0 0
            else
              match bad with
              | some a => s1.trapAt c ts 0x0A 0 a
              | none => if op = 7 then s1.issueGather c ts e d src else s1.issueCopy c ts e d src
        | _, _ => s.trapAt c ts 0x0F 0 0)))

/-- `cpy` (R282). -/
def execCpy (d s : BitVec 4) (k : BitVec 3) (f u w : BitVec 1) (g : BitVec 4) (sx : State) : Host.Outcome State Fault Refusal :=
  sx.copyCommand (.cpy d s k f u w g) 1 d.toNat s.toNat k.toNat (u == 1) { sf := f == 1, wf := w == 1 } g

/-- `cpyq` (R283). -/
def execCpyq (d s : BitVec 4) (k : BitVec 3) (f t u : BitVec 1) (r : BitVec 2) (l i o a w : BitVec 1) (g : BitVec 4) (sx : State) :
    Host.Outcome State Fault Refusal :=
  sx.copyCommand (.cpyq d s k f t u r l i o a w g) 2 d.toNat s.toNat k.toNat (u == 1)
    { round := r.toNat, ceil := l == 1, fi := i == 1, fo := o == 1, sat := a == 1, wf := w == 1, sf := f == 1, st := t == 1 } g

/-- `cpyd` (R282). -/
def execCpyd (d s : BitVec 4) (k : BitVec 3) (f t u : BitVec 1) (r : BitVec 2) (i o a w : BitVec 1) (g : BitVec 4) (sx : State) :
    Host.Outcome State Fault Refusal :=
  sx.copyCommand (.cpyd d s k f t u r i o a w g) 3 d.toNat s.toNat k.toNat (u == 1)
    { round := r.toNat, fi := i == 1, fo := o == 1, sat := a == 1, wf := w == 1, sf := f == 1, st := t == 1 } g

/-- `cpyt` (R282). -/
def execCpyt (d s : BitVec 4) (k : BitVec 3) (f t u : BitVec 1) (r : BitVec 2) (l i o a w : BitVec 1) (g : BitVec 4) (sx : State) :
    Host.Outcome State Fault Refusal :=
  sx.copyCommand (.cpyt d s k f t u r l i o a w g) 4 d.toNat s.toNat k.toNat (u == 1)
    { round := r.toNat, ceil := l == 1, fi := i == 1, fo := o == 1, sat := a == 1, wf := w == 1, sf := f == 1, st := t == 1 } g

/-- `cpyr` (R288). -/
def execCpyr (d s : BitVec 4) (k : BitVec 3) (f t u : BitVec 1) (e : BitVec 7) (g : BitVec 4) (sx : State) :
    Host.Outcome State Fault Refusal :=
  sx.copyCommand (.cpyr d s k f t u e g) 5 d.toNat s.toNat k.toNat (u == 1) { sf := f == 1, st := t == 1, exp := e.toInt } g

/-- `cpyf` (R289). -/
def execCpyf (d : BitVec 4) (k : BitVec 3) (f t u : BitVec 1) (r : BitVec 2) (l i o a : BitVec 1) (g : BitVec 4) (sx : State) :
    Host.Outcome State Fault Refusal :=
  sx.copyCommand (.cpyf d k f t u r l i o a g) 6 d.toNat 0 k.toNat (u == 1)
    { round := r.toNat, ceil := l == 1, fi := i == 1, fo := o == 1, sat := a == 1, sf := f == 1, st := t == 1 } g

/-- `cpyg` (R290). -/
def execCpyg (d s : BitVec 4) (k : BitVec 3) (f u w : BitVec 1) (g : BitVec 4) (sx : State) : Host.Outcome State Fault Refusal :=
  sx.copyCommand (.cpyg d s k f u w g) 7 d.toNat s.toNat k.toNat (u == 1) { sf := f == 1, wf := w == 1 } g

/-- `cpys` (R276, R291): it waits at issue while the Compositor is full; the six result registers of the lanes that go on are empty until it completes. -/
def execCpys (k : BitVec 3) (c : BitVec 1) (g : BitVec 4) (s : State) : Host.Outcome State Fault Refusal :=
  s.execWord (.cpys k c g) true (rangeFrom (8 * k.toNat) 8) [] (fun _ => true) (fun x w s => s.blockOnly x (
    let ts := x.t w g
    let rs := rangeFrom (8 * k.toNat) 6
    s.unlessBlocked x ts (w.memBlocked false || decide (15 ≤ w.ocCpy)) (
      let r := s.gates x w (fun l => rs.map (fun n => (l, n))) ts
      if r.1.isEmpty then r.2
      else if 64 ≤ r.2.copiesOn (s.coreOf x.r) then r.2.stall x.r
      else
        let s1 := r.2.emptyDests x r.1 rs
        let e := s1.newEng x s1.next .compositor 8 { sf := c == 1 } none none [8 * k.toNat] r.1 []
        { s1 with next := e.id + 1 }.putEng x.r 1 e)))

end Sys2Proof.Machine
end

