-- ==== Sys2Proof/Machine/Platen.lean ====
section
/-! DEFINITION. The Platen and the accumulator store (R294 to R319): cells, windows and busy rows; quires; the products; `acpy`. -/

namespace Sys2Proof.Machine

/-- The number of a cell (R294). -/
def cellAt (row col : Nat) : Nat := 512 * row + col

/-- A cell of a block, with whether it is uncorrectable (R294, R295). -/
def Block.cell (b : Block) (n : Nat) : Word × Bool := (cellGet 0 b.acc n, b.accBad.any (fun x => x.1 == n))

/-- A cell written: its condition clears (R295). -/
def Block.putCell (b : Block) (n : Nat) (x : Word) : Block :=
  { b with acc := cellSet 0 b.acc n x, accBad := b.accBad.filter (fun y => y.1 != n) }

/-- Uncorrectable cells read for the first time: they are logged, once each, and reported to the owner of the block (R295, R435). -/
def State.logCells (s : State) (uid core : Nat) (cells : List Nat) : State :=
  match s.block? uid with
  | none => s
  | some b =>
    let found := b.accBad.filter (fun x => !x.2 && cells.contains x.1)
    if found.isEmpty then s
    else
      (found.foldl (fun (s : State) _ =>
        let r := s.logEvent core 4 none none
        match s.launch? b.launch with
        | some l => r.2.errorRecord l.part r.1 0x0011 0xFFFF 0 0
        | none => r.2) s).modBlock uid
        (fun b => { b with accBad := b.accBad.map (fun x => if cells.contains x.1 then (x.1, true) else x) })

/-- Whether a region of rows and columns lies in a wave's window (R296). -/
def Wave.inWindow (w : Wave) (row rows col cols : Nat) : Bool :=
  decide (w.awBase ≤ row) && decide (row + rows ≤ w.awLimit) && decide (col + cols ≤ 512)

/-- The accumulator rows of an operation of the Platen: first row and count of each region (R298). -/
def EngOp.rows (e : EngOp) : List (Nat × Nat) :=
  match e.op with
  | 1 => [(e.coords.getD 0 0, 128)]
  | 2 => [(e.coords.getD 0 0, 128), (e.coords.getD 2 0, 128)]
  | _ => [(e.coords.getD 0 0, (((if e.opts.dirIn then e.t2 else e.t1)).map (·.box 1)).getD 0)]

/-- Whether two lists of row ranges share a row. -/
def rowsMeet (a b : List (Nat × Nat)) : Bool :=
  a.any (fun x => b.any (fun y => decide (x.1 < y.1 + y.2) && decide (y.1 < x.1 + x.2)))

/-- Whether an operation of the Platen is in flight and holds its rows (R298). -/
def EngOp.holdsRows (e : EngOp) : Bool := e.engine == .platen && e.stage == 0

/-- Whether rows of a block are busy (R298). -/
def State.rowsBusy (s : State) (r : WaveRef) (rows : List (Nat × Nat)) : Bool :=
  match s.blockOf r with
  | none => false
  | some b => s.engOps.any (fun e => e.holdsRows && e.uid == b.uid && rowsMeet e.rows rows)

/-- Whether an earlier operation in accumulator order on an operation's rows is in flight (R297, R298). -/
def State.rowsEarlier (s : State) (e : EngOp) : Bool :=
  s.engOps.any (fun x => x.holdsRows && x.uid == e.uid && decide (x.id < e.id) && rowsMeet x.rows e.rows)

/-- How many cells `ald` and `ast` move by their width field (R316). -/
def cellCount (m : BitVec 3) : Nat := 2 ^ m.toNat

/-- The served lanes of `ald` and `ast` (R296, R316): a lane with a misaligned column traps with cause 0x0A; when a cell of one of the others
lies outside the window, all of them trap with cause 0x06 and none is served (log entry 70). -/
def State.accLanes (s : State) (c : Ctx) (w : Wave) (n : Nat) (row col : Nat → Nat) (ls : List Nat) : List Nat × State :=
  let aligned (l : Nat) : Bool := col l % n == 0
  let inside (l : Nat) : Bool := w.inWindow (row l) 1 (col l) n
  let s1 := (ls.filter (fun l => !aligned l)).foldl (fun s l => s.trapFree c [l] 0x0A) s
  let rest := ls.filter aligned
  if rest.all inside then (rest, s1) else ([], s1.trapAt c rest 0x06 0 0)

/-- The registers that a lane of `ald` or `ast` needs full: its sources, and the registers it moves, but for those that its own waiting `ald`
left empty (R9, R298, R316). -/
def Wave.accNeeds (w : Wave) (c : Ctx) (d : BitVec 6) (a : BitVec 7) (b : BitVec 6) (n l : Nat) : List (Nat × Nat) :=
  w.ownNeeds c (b.toNat :: regRun d n ++ aVec a false) l

/-- The destinations of the served lanes of an `ald` are empty while it waits for its rows, and it does not wait for them itself (R298, R316). -/
def State.emptyOwn (s : State) (c : Ctx) (ls rs : List Nat) : State :=
  s.modWave c.r (fun w => w.modLanes ls (fun x => x.faulted c rs))

/-- `ald` (R316): the served lanes' cells arrive; an uncorrectable cell leaves its register empty and marked (R295). -/
def execAld (d : BitVec 6) (a : BitVec 7) (b : BitVec 6) (m : BitVec 3) (g : BitVec 4) (s : State) : Host.Outcome State Fault Refusal :=
  let n := cellCount m
  s.execWord (.ald d a b m g) false (b.toNat :: regRun d n ++ aVec a false) (aScal a false) (fun _ => true) (fun c w s => s.blockOnly c (
    let row (l : Nat) : Nat := (w.opA l a).toNat
    let col (l : Nat) : Nat := (w.reg l b.toNat).toNat
    let r := s.gates c w (w.accNeeds c d a b n) (c.t w g)
    let v := r.2.accLanes c w n row col r.1
    if v.2.rowsBusy c.r (v.1.map (fun l => (row l, 1))) then (v.2.emptyOwn c v.1 (regRun d n)).stall c.r
    else
      match v.2.blockOf c.r with
      | none => v.2
      | some k =>
        let cells (l : Nat) : List Nat := (upTo n).map (fun i => cellAt (row l) (col l + i))
        let bad := (v.1.flatMap cells).any (fun n => (k.cell n).2)
        let s1 := v.2.logCells k.uid k.core (v.1.flatMap cells)
        let f := if bad then s1.drawFault else (0, s1)
        v.1.foldl (fun s l => s.modLane c.r l (fun x => foldIdx (fun x i cell =>
          if (k.cell cell).2 then x.setMark (d.toNat + i) (.poisoned f.1) else x.writeV (d.toNat + i) (k.cell cell).1)
          (x.awaits (regRun d n)) 0 (cells l))) f.2))

/-- `ast` (R317): in rising home lane order, so that the higher lane's value stands. -/
def execAst (d : BitVec 6) (a : BitVec 7) (b : BitVec 6) (m : BitVec 3) (g : BitVec 4) (s : State) : Host.Outcome State Fault Refusal :=
  let n := cellCount m
  s.execWord (.ast d a b m g) false (b.toNat :: regRun d n ++ aVec a false) (aScal a false) (fun _ => true) (fun c w s => s.blockOnly c (
    let row (l : Nat) : Nat := (w.opA l a).toNat
    let col (l : Nat) : Nat := (w.reg l b.toNat).toNat
    let r := s.gates c w (fun l => (b.toNat :: regRun d n ++ aVec a false).map (fun x => (l, x))) (c.t w g)
    let v := r.2.accLanes c w n row col r.1
    if v.2.rowsBusy c.r (v.1.map (fun l => (row l, 1))) then v.2.stall c.r
    else
      v.2.modBlockOf c.r (fun k => v.1.foldl (fun k l =>
        (upTo n).foldl (fun k i => k.putCell (cellAt (row l) (col l + i)) (w.reg l (d.toNat + i))) k) k)))

/-- The cells of a region. -/
def regionCells (row rows col cols : Nat) : List Nat := (rangeFrom row rows).flatMap (fun r => (rangeFrom col cols).map (cellAt r))

/-- `aclr` (R318), once for each home wave. R106 does not list it, nor `setaw`, `acpy` and `qcfg`: no formed wave is split for them
(log entry 71). -/
def execAclr (k : BitVec 3) (u : BitVec 1) (g : BitVec 4) (s : State) : Host.Outcome State Fault Refusal :=
  s.execWord (.aclr k u g) false (rangeFrom (8 * k.toNat) 8) [] (fun _ => true) (fun c w s => s.blockOnly c (
    let ts := c.t w g
    let regs := rangeFrom (8 * k.toNat) 4
    if ts.isEmpty then s
    else
      match s.readGroup c w ts (u == 1) regs with
      | (false, s1) => s1
      | (true, s1) =>
        let v := w.groupVals ts (8 * k.toNat) regs
        let row := v.getD 0 0
        let rows := v.getD 1 0
        let col := v.getD 2 0
        let cols := v.getD 3 0
        if rows = 0 || cols = 0 then s1
        else if !w.inWindow row rows col cols then s1.trapAt c ts 0x06 0 0
        else if s1.rowsBusy c.r [(row, rows)] then s1.stall c.r
        else s1.modBlockOf c.r (fun b => (regionCells row rows col cols).foldl (fun b n => b.putCell n 0) b)))

/-- `setaw` (R307). -/
def execSetaw (a : BitVec 7) (b : BitVec 6) (g : BitVec 4) (s : State) : Host.Outcome State Fault Refusal :=
  s.execWord (.setaw a b g) false [b.toNat] (aScal a false) (fun _ => true) (fun c w s => s.blockOnly c (
    let ts := c.t w g
    if ts.isEmpty then s
    else
      match s.readGroup c w ts false [b.toNat] with
      | (false, s1) => s1
      | (true, s1) =>
        if waveIndex c.r != 0 then s1.trapAt c ts 0x12 0 0
        else
        match s1.blockOf c.r with
        | none => s1
        | some k =>
          let v := (w.reg (ts.headD 0) b.toNat).toNat
          let base := bitsOf v 0 13
          let limit := bitsOf v 16 13
          let target := (w.opA 0 a).toNat
          let rows := ((s1.launchOf c.r).map (·.record.accRows)).getD 0
          if limit < base || rows < limit || (a.toNat != 119 && decide (k.waves.length ≤ target)) then s1.trapAt c ts 0x06 0 0
          else s1.modBlockOf c.r (fun k => { k with waves := mapIdx' (fun j v =>
            if (a.toNat = 119 || j = target) && !v.retired then { v with awBase := base, awLimit := limit } else v) k.waves })))

/-- A quire of a wave's block. -/
def State.quireOf (s : State) (r : WaveRef) (q : Nat) : Quire := ((s.blockOf r).bind (fun b => b.quires[q]?)).getD ⟨0, none, []⟩

/-- The state with a quire of a wave's block passed through `f`. -/
def State.modQuire (s : State) (r : WaveRef) (q : Nat) (f : Quire → Quire) : State :=
  s.modBlockOf r (fun b => { b with quires := modifyAt b.quires q f })

/-- `qinit` (R299). -/
def execQinit (q : BitVec 3) (n : BitVec 5) (g : BitVec 4) (s : State) : Host.Outcome State Fault Refusal :=
  s.execWord (.qinit q n g) true [] [] (fun _ => true) (fun c w s => s.blockOnly c (
    let ts := c.t w g
    let waves := ((s.blockOf c.r).map (·.waves.length)).getD 0
    if ts.isEmpty then s
    else if waves < n.toNat + 1 || !(s.quireOf c.r q.toNat).signers.isEmpty then s.trapAt c ts 0x05 0 0
    else s.modQuire c.r q.toNat (fun _ => ⟨n.toNat + 1, none, []⟩)))

/-- The waiting signers of a quire trap with cause 0x05 at their instructions, and its round ends (R301, R303). -/
def State.failQuire (s : State) (uid q : Nat) : State :=
  let signers := (((s.block? uid).bind (fun b => b.quires[q]?)).map (·.signers)).getD []
  let s1 := signers.foldl (fun (s : State) x =>
    (s.modWave (.blk uid x.wave) (fun w => { w with holds := w.holds.filter (· != .quire q) })).takeTraps (.blk uid x.wave) x.lanes x.vpc
      x.slot 0x05 0 0) s
  s1.modBlock uid (fun b => { b with quires := modifyAt b.quires q (fun y => { y with record := none, signers := [] }) })

/-- K of a pair of operand formats (Table 13.4): element and block codes of A and of B. -/
def matrixK (ea ba eb bb : Nat) : Option Nat :=
  let mx (e b : Nat) : Bool := decide (4 ≤ e) && decide (e ≤ 9) && b != 0
  if mx ea ba && mx eb bb then some (if ea = 8 ∧ eb = 8 then 512 else 256)
  else if ba = 0 && bb = 0 && ea == eb then
    match ea with
    | 1 => some 128
    | 2 => some 128
    | 3 => some 16
    | _ => none
  else none

/-- The rows of B (Table 13.4). -/
def matrixN (ea : Nat) : Nat := if ea = 3 then 64 else 128

/-- Whether a scratchpad operand has the space, rank and box of Table 13.4. -/
def Desc.tileOk (d : Desc) (k rows : Nat) : Bool :=
  d.scratch && (d.rank == 2 || d.rank == 3) && d.box 0 == k && d.box 1 == rows && d.box 2 == 1 && d.box 3 == 1

/-- Whether `mmaa` takes an element and block code as its narrow format (R312). -/
def Desc.narrowOk (d : Desc) : Bool :=
  (decide (4 ≤ d.elem) && decide (d.elem ≤ 9) && d.block == 1) || ((d.elem == 1 || d.elem == 2) && d.block == 0)

/-- The origins of a signature's sources (Table 13.5). -/
def originA (v : List Nat) (d : Desc) : List Nat := [v.getD 2 0, v.getD 3 0, if d.rank = 3 then v.getD 6 0 else 0, 0]
def originB (v : List Nat) (d : Desc) : List Nat := [v.getD 4 0, v.getD 5 0, if d.rank = 3 then v.getD 7 0 else 0, 0]

/-- The registers that a signature reads (Table 13.5). -/
def matrixRegs (isMmaa : Bool) (g : Nat) (a b : Desc) : List Nat :=
  rangeFrom g 6 ++ (if !isMmaa && a.rank = 3 then [g + 6] else []) ++ (if b.rank = 3 then [g + 7] else [])

/-- What a check of a signature finds (Table 13.6): a cause with the address, none for an address the spec leaves open. -/
abbrev SignatureFault := Option (Nat × Option Nat)

/-- Checks 2 to 5 of Table 13.6 on a signature's operands. -/
def Wave.signatureFault (w : Wave) (isMmaa : Bool) (a b : Desc) (v : List Nat) (bound : Nat) : SignatureFault :=
  match matrixK a.elem a.block b.elem b.block with
  | none => some (0x0F, some 0)
  | some k =>
    let boxA : List (Nat × Nat) := if isMmaa then [] else a.touches (fun n => a.place (originA v a) (a.posOf n)) a.items
    let boxB := b.touches (fun n => b.place (originB v b) (b.posOf n)) b.items
    let dRow := v.getD 0 0
    let dCol := v.getD 1 0
    let aRow := v.getD 2 0
    let aCol := v.getD 3 0
    let meets := decide (aRow < dRow + 128) && decide (dRow < aRow + 128) && decide (aCol < dCol + 128) && decide (dCol < aCol + k)
    if (isMmaa && !a.narrowOk) || (!isMmaa && !a.tileOk k 128) || !b.tileOk k (matrixN a.elem) then some (0x0F, some 0)
    else if dCol % 128 != 0 then some (0x0A, none)
    else
      match (if isMmaa then none else a.misplaced (originA v a)).or (b.misplaced (originB v b)) with
      | some x => some (0x0A, some x)
      | none =>
        if isMmaa && aCol % 32 != 0 then some (0x0A, none)
        else if !w.inWindow dRow 128 dCol 128 || (isMmaa && (!w.inWindow aRow 128 aCol k || meets)) then some (0x06, some 0)
        else ((scratchOver bound boxA).or (scratchOver bound boxB)).map (fun x => (0x0B, some x))

/-- The last signature convenes the operation (R302): it is in flight with the descriptors as they stand, every signer's `oc.mtx` rises,
and the signers that wait go on. -/
def State.convene (s : State) (c : Ctx) (q : Nat) (isMmaa : Bool) (o : EngOpts) (t1 t2 : Nat) (coords : List Nat) (signers : List Signer) :
    State :=
  match s.blockOf c.r with
  | none => s
  | some b =>
    let id := s.next
    let e := s.newEng c id .platen (if isMmaa then 2 else 1) o (s.descOf c.r t1) (s.descOf c.r t2) coords [] []
    let ws : List (WaveRef × Nat) := signers.map (fun x => (WaveRef.blk b.uid x.wave, x.upTo))
    let s1 := ({ s with next := id + 1, engOps := s.engOps ++ [{ e with waves := ws }] }).modQuire c.r q
      (fun y => { y with record := none, signers := [] })
    ws.foldl (fun s w => s.modWave w.1 (fun v => { v with ocMtx := v.ocMtx + 1, holds := v.holds.filter (· != .quire q) })) s1

/-- A signature compared with the record and recorded (R301, R302). -/
def State.sign (s : State) (c : Ctx) (ts : List Nat) (q : Nat) (isMmaa : Bool) (o : EngOpts) (opts t1 t2 : Nat) (coords : List Nat) : State :=
  let x := s.quireOf c.r q
  let rec_ : QuireRecord := ⟨isMmaa, t1, t2, opts, coords⟩
  let me : Signer := ⟨waveIndex c.r, ts, c.hdr, c.slot, s.next⟩
  match c.r with
  | .hdl _ _ => s
  | .blk uid _ =>
    if (x.record.map (· != rec_)).getD false then (s.failQuire uid q).trapAt c ts 0x05 0 0
    else if x.signers.length + 1 = x.n then s.convene c q isMmaa o t1 t2 coords (x.signers ++ [me])
    else (s.modQuire c.r q (fun y => { y with record := some rec_, signers := y.signers ++ [me] })).holdWave c.r (.quire q)

/-- `mma` and `mmaa` (R300 to R302, R310). -/
def State.matrixCommand (s : State) (i : Instr) (isMmaa : Bool) (t1 t2 k q opts : Nat) (o : EngOpts) (g : BitVec 4) :
    Host.Outcome State Fault Refusal :=
  s.execWord i true (rangeFrom (8 * k) 8) [] (fun _ => true) (fun c w s => s.blockOnly c (
    let ts := c.t w g
    let x := s.quireOf c.r q
    s.unlessBlocked c ts (w.memBlocked false || decide (15 ≤ w.ocMtx)) (
      if ts.isEmpty then s
      else if x.n = 0 || x.signers.any (fun y => y.wave == waveIndex c.r) then s.trapAt c ts 0x05 0 0
      else
        match s.descOf c.r t1, s.descOf c.r t2 with
        | some a, some b =>
          let regs := matrixRegs isMmaa (8 * k) a b
          match s.readGroup c w ts false regs with
          | (false, s1) => s1
          | (true, s1) =>
            let v := w.groupVals ts (8 * k) regs
            match w.signatureFault isMmaa a b v (s1.scratchSize c.r) with
            | some (cause, some addr) => s1.trapAt c ts cause 0 addr
            | some (cause, none) => s1.trapFree c ts cause
            | none => s1.sign c ts q isMmaa o opts t1 t2 v
        | _, _ => s.trapAt c ts 0x0F 0 0)))

/-- The option bits of a signature as the record compares them (R301). -/
def matrixOpts (w c i o s n : BitVec 1) : Nat :=
  w.toNat + 2 * c.toNat + 4 * i.toNat + 8 * o.toNat + 16 * s.toNat + 32 * n.toNat

/-- `mma` (R300, R311). -/
def execMma (a b : BitVec 4) (k : BitVec 3) (w : BitVec 1) (q : BitVec 3) (c i o s n : BitVec 1) (g : BitVec 4) (sx : State) :
    Host.Outcome State Fault Refusal :=
  sx.matrixCommand (.mma a b k w q c i o s n g) false a.toNat b.toNat k.toNat q.toNat (matrixOpts w c i o s n)
    { fi := i == 1, fo := o == 1, sat := s == 1, wf := w == 1, accumulate := c == 1, negate := n == 1 } g

/-- `mmaa` (R312). -/
def execMmaa (a b : BitVec 4) (k : BitVec 3) (w : BitVec 1) (q : BitVec 3) (c i o s n : BitVec 1) (g : BitVec 4) (sx : State) :
    Host.Outcome State Fault Refusal :=
  sx.matrixCommand (.mmaa a b k w q c i o s n g) true a.toNat b.toNat k.toNat q.toNat (matrixOpts w c i o s n)
    { fi := i == 1, fo := o == 1, sat := s == 1, wf := w == 1, accumulate := c == 1, negate := n == 1 } g

/-- A row of an operand as the Platen takes it: element values unscaled, the scale of each block, and whether a poisoned granule was
read (R311, R314). -/
structure TileRow where
  vals : List Val
  scales : List Nat
  poison : Bool
  deriving DecidableEq, Repr

/-- Row i of a scratchpad operand (R311): K elements from the origin along dimension 0. -/
def EngOp.tileRow (e : EngOp) (look : Look) (d : Desc) (org : List Nat) (k i : Nat) : TileRow :=
  let at_ (j : Nat) : SrcElem := e.elem look d .scratch (d.place org [j, i, 0, 0])
  let xs := (upTo k).map at_
  let f := elemFmt d.elem
  ⟨xs.map (fun x => if x.isZeroed then .fin false 0 0 else readVal f e.opts.fi x.code),
    if d.isMx then ((upTo (k / d.group)).map (fun b => (at_ (b * d.group)).scale)) else [], xs.any SrcElem.spoils⟩

/-- The granules of row i of a scratchpad operand. -/
def EngOp.tileUnits (e : EngOp) (d : Desc) (org : List Nat) (k i : Nat) : List (Bool × Nat) :=
  (upTo k).flatMap (fun j => e.elemUnits d .scratch (d.place org [j, i, 0, 0]))

/-- A cell read as FP32, or a pair as FP64: an uncorrectable one is the canonical NaN (R295). -/
def Block.cellCode (b : Block) (wide : Bool) (row col : Nat) : Nat :=
  let x := b.cell (cellAt row col)
  let y := b.cell (cellAt row (col + 1))
  if wide then (if x.2 || y.2 then canonNaN fp64 else pair64 x.1 y.1) else if x.2 then canonNaN fp32 else x.1.toNat

/-- Cuts of a list into runs of `n`. -/
def chunksOf {α : Type} (n : Nat) : (fuel : Nat) → List α → List (List α)
  | 0, _ => []
  | _, [] => []
  | f + 1, x :: xs => (x :: xs).take n :: chunksOf n f ((x :: xs).drop n)

/-- Row i of the accumulator operand of `mmaa` through the down-converter (R312). -/
def EngOp.accRow (e : EngOp) (b : Block) (d : Desc) (k i : Nat) : TileRow :=
  let row := e.coords.getD 2 0 + i
  let xs := (upTo k).map (fun j => decodeFmt fp32 (b.cellCode false row (e.coords.getD 3 0 + j)))
  let f := elemFmt d.elem
  if d.isMx then
    let qs := (chunksOf 32 k xs).map (fun blk => quantBlock f true (blk.map (fun _ => Rnd.rne)) true false blk)
    ⟨qs.flatMap (fun q => q.2.map (readVal f e.opts.fi)), qs.map (·.1), false⟩
  else ⟨xs.map (fun x => readVal f e.opts.fi (roundTo f x .rne true false).1), [], false⟩

/-- One step of an MX product (R171): the sub-block of g elements at index n added to the accumulator. -/
def mxStep (sat fo : Bool) (ka kb g : Nat) (a b : TileRow) (acc n : Nat) : Nat :=
  let xa := a.scales.getD (n * g / ka) 0
  let xb := b.scales.getD (n * g / kb) 0
  let as := (a.vals.drop (n * g)).take g
  let bs := (b.vals.drop (n * g)).take g
  let sum : Val := if xa = 0xFF || xb = 0xFF || as.any Val.isNaN || bs.any Val.isNaN then .nan false else dotExact as bs
  (roundTo fp32 ((decodeFmt fp32 acc).add false (sum.scale ((xa : Int) + xb - 254))).1 .rne sat fo).1

/-- One group of 16 products of a BF16 or FP16 product (R172). -/
def halfStep (sat fo : Bool) (a b : TileRow) (acc n : Nat) : Nat :=
  (roundTo fp32 ((decodeFmt fp32 acc).add false (dotExact ((a.vals.drop (16 * n)).take 16) ((b.vals.drop (16 * n)).take 16))).1 .rne sat fo).1

/-- One fused step of an FP64 product (R172). -/
def wideStep (sat fo : Bool) (a b : TileRow) (acc n : Nat) : Nat :=
  (roundTo fp64 (Val.fma false (a.vals.getD n (.fin false 0 0)) (b.vals.getD n (.fin false 0 0)) (decodeFmt fp64 acc)).1 .rne sat fo).1

/-- A code with its sign changed, a NaN canonical (R154, R171). -/
def negCode (f : Fmt) (c : Nat) : Nat := if (decodeFmt f c).isNaN then canonNaN f else Nat.xor c (2 ^ (f.width - 1))

/-- One cell of D (R311, R314). -/
def EngOp.product (e : EngOp) (a b : Desc) (k : Nat) (x y : TileRow) (c0 : Nat) : Nat :=
  let wide := a.elem == 3
  let f := if wide then fp64 else fp32
  let c := if e.opts.accumulate then c0 else 0
  if x.poison || y.poison then canonNaN f
  else
    let r :=
      if a.isMx then
        let g := min (blockK a.block) (blockK b.block)
        (upTo (k / g)).foldl (mxStep e.opts.sat e.opts.fo (blockK a.block) (blockK b.block) g x y) c
      else if wide then (upTo k).foldl (wideStep e.opts.sat e.opts.fo x y) c
      else (upTo (k / 16)).foldl (halfStep e.opts.sat e.opts.fo x y) c
    if e.opts.negate then negCode f r else r

/-- The scratchpad granules that a convened operation reads (R311, R313). -/
def EngOp.matrixSources (e : EngOp) : List (Bool × Nat) :=
  match e.t1, e.t2 with
  | some a, some b =>
    match matrixK a.elem a.block b.elem b.block with
    | none => []
    | some k =>
      dedupUnits ((if e.op = 2 then [] else (upTo 128).flatMap (e.tileUnits a (originA e.coords a) k)) ++
        (upTo (matrixN a.elem)).flatMap (e.tileUnits b (originB e.coords b) k))
  | _, _ => []

/-- The cells that a convened operation reads (R311, R312). -/
def EngOp.matrixCells (e : EngOp) (k : Nat) : List Nat :=
  (if e.opts.accumulate then regionCells (e.coords.getD 0 0) 128 (e.coords.getD 1 0) 128 else []) ++
    (if e.op = 2 then regionCells (e.coords.getD 2 0) 128 (e.coords.getD 3 0) k else [])

/-- D written (R311): every cell, FP64 in column pairs. -/
def EngOp.matrixWrite (e : EngOp) (look : Look) (a b : Desc) (k : Nat) (blk : Block) : Block :=
  let wide := a.elem == 3
  let rowsA := (upTo 128).map (fun i => if e.op = 2 then e.accRow blk a k i else e.tileRow look a (originA e.coords a) k i)
  let rowsB := (upTo (matrixN a.elem)).map (e.tileRow look b (originB e.coords b) k)
  let row0 := e.coords.getD 0 0
  let col0 := e.coords.getD 1 0
  foldIdx (fun (out : Block) i x => foldIdx (fun (out : Block) j y =>
    let col := if wide then col0 + 2 * j else col0 + j
    let v := e.product a b k x y (blk.cellCode wide (row0 + i) col)
    let out1 := out.putCell (cellAt (row0 + i) col) (lo32 v)
    if wide then out1.putCell (cellAt (row0 + i) (col + 1)) (hi32 v) else out1) out 0 rowsB) blk 0 rowsA

/-- Whether a convened operation stays out of the Platen under wf: a granule that it reads is not full (R284, R313). -/
def State.wfWaits (s : State) (e : EngOp) : Bool :=
  e.opts.wf && e.matrixSources.any (fun u => (e.captured u).isNone && !((s.block? e.uid).map (fun b => b.granuleFull u.2)).getD true)

/-- Whether an operation of a core's Platen that is convened earlier keeps a later one from starting: it has not started, and it does not
wait for full granules (R313, R315). -/
def State.startsAfter (s : State) (e : EngOp) : Bool :=
  s.engOps.any (fun x => x.engine == .platen && x.op != 6 && x.core == e.core && decide (x.id < e.id) && x.stage == 0 && x.started.isNone &&
    s.engRuns x && !s.wfWaits x)

/-- PLATEN_START (R313, R315): the operation reads its sources; at most two are started and not completed. -/
def execPlatenStart (core op : Nat) (s : State) : Host.Outcome State Fault Refusal :=
  .next (
    match s.engOp? op with
    | none => s
    | some e =>
      let running := (s.engOps.filter (fun x => x.engine == .platen && x.op != 6 && x.core == core && x.stage == 0 && x.started.isSome)).length
      if e.engine != .platen || e.op == 6 || e.core != core || e.started.isSome || !s.engRuns e || decide (2 ≤ running) || s.rowsEarlier e ||
          s.startsAfter e || !e.matrixSources.all (s.readable e) then s
      else (s.captureAll op e.matrixSources).modEngOp op (fun x => { x with started := some s.clock }))

/-- The operations of the Platen that are complete are counted out of each signer's `oc.mtx` in that wave's issue order (R302). -/
def State.countMatrix (s : State) : State :=
  (s.engOps.filter (fun e => e.engine == .platen)).foldl (fun (s : State) e =>
    match s.engOp? e.id with
    | none => s
    | some x =>
      if x.stage = 0 then s
      else
        let first (w : WaveRef) : Bool := s.engOps.all (fun y => y.engine != .platen || decide (x.id ≤ y.id) || y.waves.all (fun v => v.1 != w))
        let out := x.waves.filter (fun w => first w.1)
        let s1 := out.foldl (fun s w => s.countOut w.1 2 x.completion) s
        if out.length = x.waves.length then s1.dropEngOp x.id
        else s1.modEngOp x.id (fun y => { y with waves := y.waves.filter (fun w => !first w.1) })) s

/-- A matrix operation completes (R311): D is written, its rows are free, and it is counted out. -/
def State.matrixComplete (s : State) (e : EngOp) : State :=
  match e.t1, e.t2 with
  | some a, some b =>
    match matrixK a.elem a.block b.elem b.block with
    | none => s
    | some k =>
      let s1 := s.logCells e.uid e.core (e.matrixCells k)
      ((s1.modBlock e.uid (e.matrixWrite (s1.look e) a b k)).modEngOp e.id (fun x => { x with stage := 1 })).countMatrix
  | _, _ => s

/-- The tensor of an `acpy` with its origin (R319). -/
def EngOp.acpyDesc (e : EngOp) : Option Desc := if e.opts.dirIn then e.t2 else e.t1
def EngOp.acpyPlace (e : EngOp) (d : Desc) (n : Nat) : Option (List Nat) := d.place ((e.coords.drop 2).take 4) (d.posOf n)

/-- The cell of an element of the box (R319). -/
def EngOp.acpyCell (e : EngOp) (d : Desc) (n : Nat) : Nat × Nat :=
  let p := d.posOf n
  (e.coords.getD 0 0 + p.getD 1 0, e.coords.getD 1 0 + (if d.elem = 3 then 2 * p.getD 0 0 else p.getD 0 0))

/-- What `acpy.out` makes of an item from the accumulator cells (R319). -/
def EngOp.acpyItem (e : EngOp) (b : Block) (d : Desc) (n : Nat) : ItemOut :=
  let wide := d.elem == 3
  let vals := (rangeFrom n d.group).map (fun i =>
    readVal (if wide then fp64 else fp32) e.opts.fi (b.cellCode wide (e.acpyCell d i).1 (e.acpyCell d i).2))
  convertItem d e.opts.ceil (e.modes n d.group) e.opts.sat e.opts.fo (vals.map (fun _ => false)) vals

/-- The code that `acpy.in` writes for an element (R319). -/
def EngOp.acpyValue (e : EngOp) (look : Look) (d : Desc) (n : Nat) : Nat :=
  let x := e.elem look d d.here (e.acpyPlace d n)
  let f := if d.elem = 3 then fp64 else fp32
  if x.spoils then canonNaN f
  else (roundTo f (x.val d e.opts.fi) (roundOfField e.opts.round 0) e.opts.sat e.opts.fo).1

/-- The cells of an `acpy`. -/
def EngOp.acpyCells (e : EngOp) (d : Desc) : List Nat :=
  (upTo d.boxCount).flatMap (fun n =>
    let c := e.acpyCell d n
    cellAt c.1 c.2 :: (if d.elem = 3 then [cellAt c.1 (c.2 + 1)] else []))

/-- The lines and granules that `acpy.in` reads for an element. -/
def EngOp.acpySources (e : EngOp) (d : Desc) (n : Nat) : List (Bool × Nat) :=
  if e.opts.dirIn then e.elemUnits d d.here (e.acpyPlace d n) else []

/-- Items of `acpy.out` written (R319). -/
def State.runAcpyOut (s : State) (e : EngOp) (d : Desc) (items : List Nat) : State :=
  match s.block? e.uid with
  | none => s
  | some b =>
    (s.logCells e.uid e.core (e.acpyCells d)).putBytes e (items.flatMap (fun n => e.itemBytes d d.here (e.acpyPlace d n) (e.acpyItem b d n)))

/-- Every element of `acpy.in` written to its cell (R319). -/
def State.runAcpyIn (s : State) (e : EngOp) (d : Desc) : State :=
  s.modBlock e.uid (fun b => (upTo d.boxCount).foldl (fun b n =>
    let v := e.acpyValue (s.look e) d n
    let c := e.acpyCell d n
    let b1 := b.putCell (cellAt c.1 c.2) (lo32 v)
    if d.elem = 3 then b1.putCell (cellAt c.1 (c.2 + 1)) (hi32 v) else b1) b)

/-- An `acpy` completes (R319). -/
def State.acpyComplete (s : State) (e : EngOp) : State :=
  match e.acpyDesc with
  | none => s
  | some d =>
    let us := (upTo d.boxCount).flatMap (e.acpySources d)
    let ws := if e.opts.dirIn then [] else d.items.flatMap (fun n => e.itemUnits d d.here (e.acpyPlace d n))
    if s.rowsEarlier e || !us.all (s.readable e) || s.unpassed e us ws then s
    else
      let s1 := s.captureAll e.id us
      match s1.engOp? e.id with
      | none => s1
      | some x =>
        let s2 := if e.opts.dirIn then s1.runAcpyIn x d else s1.runAcpyOut x d d.items
        if s2.unitsOpen e.id then s2
        else
        (s2.modEngOp e.id (fun y => { y with stage := 1 })).countMatrix

/-- PLATEN_COMPLETE (R302, R311, R319). -/
def execPlatenComplete (op : Nat) (s : State) : Host.Outcome State Fault Refusal :=
  .next (
    match s.engOp? op with
    | none => s
    | some e =>
      if e.engine != .platen || e.stage != 0 || !s.engRuns e then s
      else if e.op = 6 then s.acpyComplete e
      else if e.started.isSome then s.matrixComplete e
      else s)

/-- Check 2 of Table 12.4 for `acpy` (R319). -/
def acpyFormatOk (o : EngOpts) (d : Desc) : Bool :=
  (decide (d.elem ≤ 3) || d.isMx) && d.box 2 == 1 && d.box 3 == 1 && (o.dirIn || !o.sf || d.scratch) &&
    (o.dirIn || o.round != 3 || (d.isMx && d.elem == 9)) && (!o.ceil || d.isMx)

/-- `acpy` (R319): the checks of Table 12.4 with the accumulator window after check 3; then it takes its place. -/
def execAcpy (d s : BitVec 4) (k : BitVec 3) (f u : BitVec 1) (r : BitVec 2) (l i o sat v : BitVec 1) (g : BitVec 4) (sx : State) :
    Host.Outcome State Fault Refusal :=
  let dirIn := v == 1
  let opts : EngOpts := { round := r.toNat, ceil := l == 1, fi := i == 1, fo := o == 1, sat := sat == 1, wf := dirIn && f == 1,
                          sf := !dirIn && f == 1, dirIn := dirIn }
  sx.execWord (.acpy d s k f u r l i o sat v g) false (rangeFrom (8 * k.toNat) 8) [] (fun _ => true) (fun c w st => st.blockOnly c (
    let ts := c.t w g
    st.unlessBlocked c ts (w.memBlocked false || decide (15 ≤ w.ocMtx)) (
      if ts.isEmpty then st
      else
        match st.descOf c.r (if dirIn then s.toNat else d.toNat) with
        | none => st.trapAt c ts 0x0F 0 0
        | some t =>
          let regs := rangeFrom (8 * k.toNat) (2 + t.rank)
          match st.readGroup c w ts (u == 1) regs with
          | (false, s1) => s1
          | (true, s1) =>
            let vs := w.groupVals ts (8 * k.toNat) regs
            let e := s1.newEng c s1.next .platen 6 opts (if dirIn then none else some t) (if dirIn then some t else none) vs ts []
            let cols := if t.elem = 3 then 2 * t.box 0 else t.box 0
            if !acpyFormatOk opts t then s1.trapAt c ts 0x0F 0 0
            else
              match t.misplaced ((vs.drop 2).take 4) with
              | some a => s1.trapAt c ts 0x0A 0 a
              | none =>
                if t.elem = 3 && vs.getD 1 0 % 2 != 0 then s1.trapFree c ts 0x0A
                else if !w.inWindow (vs.getD 0 0) (t.box 1) (vs.getD 1 0) cols then s1.trapAt c ts 0x06 0 0
                else
                  match s1.boxChecks e.core e.part e.space (s1.scratchSize c.r) [⟨t, e.acpyPlace t, t.items, !dirIn⟩] with
                  | (.error x, s2) => s2.trapAt c ts x.1 x.2.1 x.2.2
                  | (.ok pages, s2) => { s2 with next := e.id + 1 }.putEng c.r 2 { e with pages := pages })))

end Sys2Proof.Machine
end

