-- ==== Sys2Proof/Machine/Coll.lean ====
section
/-! DEFINITION. The collective engine Chafer (R377 to R389): group registers, issue checks, one-sided commands, and collectives over a ring
of pod ranks. -/

namespace Sys2Proof.Machine

/-- The pod physical address of an offset in a rank's window (Table 9.2). -/
def podAddr (rank off : Nat) : Nat := 2 ^ 50 + rank * 2 ^ 40 + off

/-- The bases and size of a partition's export window (Table 18.2). -/
def Partition.expBase (p : Partition) : Nat := bitsOf p.podExpBase 16 36 * 2 ^ 16
def Partition.expSize (p : Partition) : Nat := bitsOf p.podExpSize 16 24 * 2 ^ 16

/-- A group register of a wave's block. -/
def State.podGroup (s : State) (r : WaveRef) (n : Nat) : Option PodGroup := ((s.blockOf r).bind (fun b => b.gps[n]?)).join

/-- Whether a command of a block's group register is in flight (R380). -/
def State.groupBusy (s : State) (r : WaveRef) (n : Nat) : Bool :=
  match s.blockOf r with
  | none => false
  | some b => s.engOps.any (fun e => e.engine == .chafer && e.uid == b.uid && (e.ring.map (·.gp)).getD 8 == n)

/-- Whether the list repeats a number. -/
def hasRepeat : List Nat → Bool
  | [] => false
  | x :: xs => xs.contains x || hasRepeat xs

/-- The pod map entries of ranks, read in turn: whether every one is valid (R372, R380). -/
def State.ranksValid (s : State) (part : Nat) : List Nat → Bool × State
  | [] => (true, s)
  | r :: rs =>
    let e := s.podEntry part r
    if decide (r < 1024) && podValid e.1 then e.2.ranksValid part rs else (false, e.2)

/-- A byte at a physical address: as its home holds it, or in the pod range as the core has taken it from the peer. -/
def State.byteOf (s : State) (core part pa : Nat) : Byte :=
  if isPod pa then
    (((s.core core).code.find? (fun x => x.part == part && x.line == pa / 128)).map (fun x => x.bytes.getD (pa % 128) 0)).getD 0
  else (s.homeBytes part pa 1).headD 0

/-- Bytes at virtual addresses of pages translated. -/
def State.readPaged (s : State) (core part space : Nat) (pages : List TlbEntry) (va n : Nat) : List Byte :=
  (rangeFrom va n).map (fun a =>
    match pages.find? (fun t => t.covers part space a) with
    | none => 0
    | some t => s.byteOf core part (t.pa a))

/-- The physical lines of a run of virtual addresses, each with the virtual address of its first byte. -/
def pagedLines (part space : Nat) (pages : List TlbEntry) (va n : Nat) : List (Nat × Nat) :=
  ((rangeFrom (va / 128) ((va + n - 1) / 128 + 1 - va / 128)).filterMap (fun l =>
    (pages.find? (fun t => t.covers part space (128 * l))).map (fun t => (t.pa (128 * l) / 128, 128 * l))))

/-- The lines of the pod range among an image's, asked of their peers as a load asks (R374): whether all are here, or the address of one that
cannot be read. -/
def State.imageLines (core part : Nat) : List (Nat × Nat) → State → Except Nat Bool × State
  | [], s => (.ok true, s)
  | l :: ls, s =>
    if !isPod (128 * l.1) then State.imageLines core part ls s
    else
      match s.fetchPod core part l.2 (128 * l.1) with
      | (.ok _, s1) => State.imageLines core part ls s1
      | (.error f, s1) =>
        if f = fetchPending then
          match State.imageLines core part ls s1 with
          | (.ok _, s2) => (.ok false, s2)
          | (.error a, s2) => (.error a, s2)
        else (.error l.2, s1)

/-- Translation and reach of a run of bytes read as a load (R380): the pages, or the fault with its address. -/
def State.admitRun (s : State) (core part space va n : Nat) (pages : List TlbEntry) : Except (Nat × Nat × Nat) (List TlbEntry) × State :=
  let vas := rangeFrom va n
  match s.translateAll core part space vas pages with
  | (.error f, s1) => (.error f, s1)
  | (.ok ps, s1) =>
    match reachAll part space ps (s1.part part).reaches false vas with
    | some f => (.error f, if f.2.1 = 4 then s1.goneEvent part space f.2.2 ps else s1)
    | none => (.ok ps, s1)

/-- The lines of HBM4E and of the host among an image's, read at their homes as a load's fill reads them (R230, R231): none while a hold on a
bank (R436) or a bucket (R39) keeps the first request; the image's other requests take their tokens in advance (DESIGN CHOICE, log entry
66). -/
def State.takeImage (s : State) (core part space : Nat) (pages : List TlbEntry) (va n : Nat) : Option State :=
  let lines := (pagedLines part space pages va n).filter (fun l => !isPod (128 * l.1))
  let bytes (l : Nat × Nat) : Nat := min (l.2 + 128) (va + n) - max l.2 va
  let attr (l : Nat × Nat) : PageAttr := ((pages.find? (fun t => t.covers part space l.2)).map (·.attr)).getD .plain
  let fill (s : State) : State := lines.foldl (fun s l => s.fillLine part space l.1 (attr l) false) s
  match lines with
  | [] => some s
  | l :: ls =>
    (if lines.any (fun l => s.bankHolds part l.1) then none else s.takeAll (bytes l) (s.linePoints core part l.1)).map (fun t =>
      fill (ls.foldl (fun t l => t.debitAll (bytes l) (t.linePoints core part l.1)) t))

/-- Checks 3 and 4 of a group image, and the register it gives (R380). -/
def State.defineGroup (s : State) (c : Ctx) (ts : List Nat) (gp reserved : Nat) (ranks : List Nat) : State :=
  let part := s.partOf c.r
  let own := (s.part part).podRank
  if reserved != 0 || hasRepeat ranks || !ranks.contains own || s.groupBusy c.r gp then s.trapAt c ts 0x0F 0 0
  else if !(s.part part).podEnable then s.trapFree c ts 0x10
  else
    let v := s.ranksValid part ranks
    if !v.1 then v.2.trapFree c ts 0x10
    else v.2.modBlockOf c.r (fun b => { b with gps := setAt b.gps gp (some ⟨ranks, ranks.findIdx (· == own), 0, []⟩) })

/-- `cgrp` (R380): the image is read as a load of the wave, after the wave's own writes to it (R249). -/
def execCgrp (c : BitVec 6) (p : BitVec 3) (g : BitVec 4) (s : State) : Host.Outcome State Fault Refusal :=
  s.execWord (.cgrp c p g) true [] (basePair c) (fun _ => true) (fun x w s => s.blockOnly x (
    let ts := x.t w g
    s.unlessBlocked x ts (w.memBlocked false) (
      let va := w.sreg64 c.toNat
      let part := s.partOf x.r
      let space := s.spaceOf x.r
      let core := s.coreOf x.r
      let open_ (s : State) (pages : List TlbEntry) (n : Nat) : Bool :=
        (pagedLines part space pages va n).any (fun l => s.writeOpen part 0 (true, l.1) (x.r, s.next))
      if ts.isEmpty then s
      else if va % 8 != 0 then s.trapAt x ts 0x0A 0 va
      else
        match s.admitRun core part space va 8 [] with
        | (.error f, s1) => s1.trapAt x ts f.1 f.2.1 f.2.2
        | (.ok ps, s1) =>
          if open_ s1 ps 8 then s1.stall x.r
          else
          match State.imageLines core part (pagedLines part space ps va 8) s1 with
          | (.error a, s1) => s1.trapAt x ts 0x10 0 a
          | (.ok false, s1) => s1.stall x.r
          | (.ok true, s1) =>
            let head := s1.readPaged core part space ps va 8
            let n := imageNat head 0 4
            if n = 0 || 1024 < n then
              match s1.takeImage core part space ps va 8 with
              | none => s1.stall x.r
              | some s2 => s2.trapAt x ts 0x0F 0 0
            else
              match s1.admitRun core part space va (8 + 2 * n) ps with
              | (.error f, s2) => s2.trapAt x ts f.1 f.2.1 f.2.2
              | (.ok qs, s2) =>
                let lines := pagedLines part space qs va (8 + 2 * n)
                if open_ s2 qs (8 + 2 * n) then s2.stall x.r
                else
                match State.imageLines core part lines s2 with
                | (.error a, s2) => s2.trapAt x ts 0x10 0 a
                | (.ok false, s2) => s2.stall x.r
                | (.ok true, s2) =>
                match s2.takeImage core part space qs va (8 + 2 * n) with
                | none => s2.stall x.r
                | some s2 =>
                  match lines.find? (fun l => !isPod (128 * l.1) && (s2.homeLine part l.1).2.2) with
                  | some l => s2.trapAt x ts 0x11 0 l.2
                  | none =>
                    let body := s2.readPaged core part space qs (va + 8) (2 * n)
                    (s2.dropPodCode core).defineGroup x ts p.toNat (imageNat head 4 4) ((upTo n).map (fun i => imageNat body (2 * i) 2)))))

/-- Whether a command is a collective (R385). -/
def isCollective (op : Nat) : Bool := decide (4 ≤ op)

/-- Whether a descriptor's format takes part in a collective (R385). -/
def Desc.collectiveFmt (d : Desc) : Bool := d.isFloat || d.isMx

/-- The chunk size of a collective (Table 18.7), 0 when its box counts do not fit. -/
def chunkSize (op n : Nat) (isRoot : Bool) (d e : Desc) : Nat :=
  let nd := d.boxCount
  let ne := e.boxCount
  match op with
  | 4 => if nd = n * ne then ne else 0
  | 5 => if ne = n * nd then nd else 0
  | 6 => if ne = nd && nd % n = 0 then nd / n else 0
  | _ => if nd % n = 0 && (!isRoot || ne = nd) then nd / n else 0

/-- Check 2 of R381: spaces, the remote descriptor, formats and boxes. -/
def chaferFormatOk (op n : Nat) (isRoot : Bool) (d e : Desc) : Bool :=
  let remote := if op = 2 then e else d
  !d.scratch && !e.scratch && decide (remote.base < 2 ^ 40) && (!remote.isMx || remote.plane) &&
    (if isCollective op then
      d.collectiveFmt && e.collectiveFmt && chunkSize op n isRoot d e != 0 && chunkSize op n isRoot d e % 128 == 0
     else d.sameFmt e && d.boxes == e.boxes)

/-- The coordinates of a position of a box at the origin (Table 18.6). -/
def Desc.zeroPlace (d : Desc) (n : Nat) : Option (List Nat) := d.place [] (d.posOf n)

/-- The end of the bytes that a box touches, as offsets in a window. -/
def Desc.reach (d : Desc) : Nat := (d.touches d.zeroPlace d.items).foldl (fun m x => max m (x.1 + x.2)) 0

/-- The local descriptors of a command as boxes (R381). A source that the command ignores is not checked. -/
def chaferBoxes (op : Nat) (isRoot : Bool) (d e : Desc) : List Box :=
  match op with
  | 2 => [⟨d, d.zeroPlace, d.items, true⟩]
  | 3 => []
  | 7 => if isRoot then [⟨e, e.zeroPlace, e.items, false⟩] else []
  | _ => [⟨e, e.zeroPlace, e.items, false⟩]

/-- The registers that a command reads (Table 18.6). -/
def chaferRegs (op g : Nat) (sig : Bool) : List Nat :=
  (if op = 1 || op = 2 || op = 3 || op = 7 then [g] else []) ++ (if op ≤ 3 || sig then rangeFrom (g + 1) 4 else [])

/-- A command that has passed its checks issues when Chafer has room (R377); a collective takes the next sequence number of its group
(R385), and finds at once whether that collective has been aborted. -/
def State.issueChafer (s : State) (c : Ctx) (op gp : Nat) (grp : PodGroup) (e : EngOp) : State :=
  if 512 ≤ (s.engOps.filter (fun x => x.engine == .chafer)).length then s.stall c.r
  else
    let late := isCollective op && grp.aborted.contains grp.seq
    let s1 := { s with next := e.id + 1 }.putEng c.r 3 (if late then { e with failed := some s.drawFault.1 } else e)
    let s2 := if late then { s1 with draws := s1.draws + 1 } else s1
    if isCollective op then
      s2.modBlockOf c.r (fun b => { b with gps := setAt b.gps gp (some { grp with
        seq := grp.seq + 1, aborted := grp.aborted.filter (· != grp.seq) }) })
    else s2

/-- A Chafer command (R377, R381): check 1, its operands, and the checks that follow. `sig` also stands for the signal of `csig`. -/
def State.chaferCommand (s : State) (i : Instr) (op t1 t2 k gp : Nat) (u : Bool) (o : EngOpts) (g : BitVec 4) :
    Host.Outcome State Fault Refusal :=
  s.execWord i true (rangeFrom (8 * k) 8) [] (fun _ => true) (fun c w s => s.blockOnly c (
    let ts := c.t w g
    s.unlessBlocked c ts (w.memBlocked false || decide (15 ≤ w.ocCol)) (
      let dummy : Desc := ⟨0, 0, [], [], [], 0, 0, false, false, 1, 0⟩
      if ts.isEmpty then s
      else
        match s.podGroup c.r gp, (if op = 3 then some dummy else s.descOf c.r t1), (if op = 3 then some dummy else s.descOf c.r t2) with
        | some grp, some d, some src =>
          let regs := chaferRegs op (8 * k) o.sig
          match s.readGroup c w ts u regs with
          | (false, s1) => s1
          | (true, s1) =>
            let v := w.groupVals ts (8 * k) regs
            let n := grp.members.length
            let target := v.getD 0 0
            let sigOff := v.getD 1 0 + 2 ^ 32 * v.getD 2 0
            let isRoot := op != 7 || target == grp.own
            let p := s1.part (s1.partOf c.r)
            let signals := o.sig || op == 3
            let remote := if op = 2 then src else d
            let bounded := !isCollective op || (decide (d.reach ≤ p.expSize) && (!o.sig || decide (sigOff + 8 * n ≤ p.expSize)))
            if op != 3 && !chaferFormatOk op n isRoot d src then s1.trapAt c ts 0x0F 0 0
            else if (op != 3 && remote.base % 128 != 0) || (signals && sigOff % 8 != 0) then s1.trapFree c ts 0x0A
            else if ((op ≤ 3 || op = 7) && decide (n ≤ target)) || !bounded || !p.podEnable then s1.trapFree c ts 0x10
            else
              match s1.boxChecks (s1.coreOf c.r) (s1.partOf c.r) (s1.spaceOf c.r) 0 (if op = 3 then [] else chaferBoxes op isRoot d src) with
              | (.error f, s2) => s2.trapAt c ts f.1 f.2.1 f.2.2
              | (.ok pages, s2) =>
                let e := s2.newEng c s2.next .chafer op o (if op = 3 then none else some d) (if op = 3 then none else some src) v ts pages
                s2.issueChafer c op gp grp { e with ring := some ⟨gp, grp, target, sigOff, v.getD 3 0 + 2 ^ 32 * v.getD 4 0, [], [], [], false, [], 0⟩ }
        | _, _, _ => s.trapAt c ts 0x0F 0 0)))

/-- `cput` (R383). -/
def execCput (d s : BitVec 4) (k : BitVec 3) (z : BitVec 1) (p : BitVec 3) (u : BitVec 1) (g : BitVec 4) (sx : State) :
    Host.Outcome State Fault Refusal :=
  sx.chaferCommand (.cput d s k z p u g) 1 d.toNat s.toNat k.toNat p.toNat (u == 1) { sig := z == 1 } g

/-- `cget` (R383). -/
def execCget (d s : BitVec 4) (k : BitVec 3) (z : BitVec 1) (p : BitVec 3) (u : BitVec 1) (g : BitVec 4) (sx : State) :
    Host.Outcome State Fault Refusal :=
  sx.chaferCommand (.cget d s k z p u g) 2 d.toNat s.toNat k.toNat p.toNat (u == 1) { sig := z == 1 } g

/-- `csig` (R384). -/
def execCsig (k p : BitVec 3) (u : BitVec 1) (g : BitVec 4) (s : State) : Host.Outcome State Fault Refusal :=
  s.chaferCommand (.csig k p u g) 3 0 0 k.toNat p.toNat (u == 1) {} g

/-- `cgath` (R385). -/
def execCgath (d s : BitVec 4) (k : BitVec 3) (z : BitVec 1) (p : BitVec 3) (u : BitVec 1) (w : BitVec 2) (r : BitVec 1) (g : BitVec 4)
    (sx : State) : Host.Outcome State Fault Refusal :=
  sx.chaferCommand (.cgath d s k z p u w r g) 4 d.toNat s.toNat k.toNat p.toNat (u == 1)
    { sig := z == 1, wire := w.toNat, round := 2 * r.toNat } g

/-- `crsc` (R387). -/
def execCrsc (d s : BitVec 4) (k : BitVec 3) (z : BitVec 1) (p : BitVec 3) (u : BitVec 1) (w : BitVec 2) (c r : BitVec 1) (g : BitVec 4)
    (sx : State) : Host.Outcome State Fault Refusal :=
  sx.chaferCommand (.crsc d s k z p u w c r g) 5 d.toNat s.toNat k.toNat p.toNat (u == 1)
    { sig := z == 1, wire := w.toNat, acc16 := c == 1, round := 2 * r.toNat } g

/-- `card` (R387). -/
def execCard (d s : BitVec 4) (k : BitVec 3) (z : BitVec 1) (p : BitVec 3) (u : BitVec 1) (w : BitVec 2) (c r : BitVec 1) (g : BitVec 4)
    (sx : State) : Host.Outcome State Fault Refusal :=
  sx.chaferCommand (.card d s k z p u w c r g) 6 d.toNat s.toNat k.toNat p.toNat (u == 1)
    { sig := z == 1, wire := w.toNat, acc16 := c == 1, round := 2 * r.toNat } g

/-- `cbcst` (R385). -/
def execCbcst (d s : BitVec 4) (k : BitVec 3) (z : BitVec 1) (p : BitVec 3) (u : BitVec 1) (w : BitVec 2) (r : BitVec 1) (g : BitVec 4)
    (sx : State) : Host.Outcome State Fault Refusal :=
  sx.chaferCommand (.cbcst d s k z p u w r g) 7 d.toNat s.toNat k.toNat p.toNat (u == 1)
    { sig := z == 1, wire := w.toNat, round := 2 * r.toNat } g

/-- A Chafer command that has failed records it (R376, R384): the first address stands. -/
def State.markFailed (s : State) (id : Nat) (addr : Option Nat) : State :=
  match s.engOp? id with
  | none => s
  | some e =>
    match e.failed, addr with
    | some _, _ => s
    | none, some a => s.modEngOp id (fun x => { x with failed := some a })
    | none, none => s.drawFault.2.modEngOp id (fun x => { x with failed := some s.drawFault.1 })

/-- A request of a Chafer command that its own pod map does not admit, or that no peer can take: it counts as a failure (R375), and the
command has failed. -/
def State.failChafer (s : State) (e : EngOp) (addr : Nat) : State :=
  (s.modPart e.part (fun p => { p with podFaults := wrap64 (p.podFaults + 1) })).markFailed e.id (some addr)

/-- The requests of an engine operation that are not answered, those for its own lines included. -/
def State.reqsOpen (s : State) (id : Nat) : Bool := s.podReqs.any (fun q => q.owner == .eng id) || s.unitsOpen id

/-- Chafer commands that have ended are counted out of `oc.col` in their wave's issue order (R383, R389), a failed one setting the pod-error
flag (R384, R385). -/
def State.drainChafer (s : State) : State :=
  (s.engOps.filter (fun e => e.engine == .chafer)).foldl (fun (s : State) e =>
    match s.engOp? e.id with
    | none => s
    | some x =>
      let first := s.engOps.all (fun y => y.engine != .chafer || decide (x.id ≤ y.id) || y.waves.map (·.1) != x.waves.map (·.1))
      if x.stage != 3 || !first then s
      else
        let s1 : State := match x.failed with
          | none => s
          | some a => x.waves.foldl (fun (s : State) w => s.modWave w.1 (fun v => { v with podError := v.podError.or (some a) })) s
        s1.endEng x 3) s

/-- A Chafer command ends. -/
def State.endChafer (s : State) (id : Nat) : State := (s.modEngOp id (fun x => { x with stage := 3 })).drainChafer

/-- A request of a Chafer command for a rank, sent as its port's bucket lets it pass (R39), or failed where the pod map does not admit it
(R372, R376). An offset that 40 bits do not
hold lies beyond every window, and its request is refused (R373, R382). -/
def State.askPeer (s : State) (e : EngOp) (rank off : Nat) (ask : PodAsk) : State :=
  let r := s.podEntry e.part rank
  if podValid r.1 && podGrants r.1 (podKind ask) && decide (off + podLen ask ≤ 2 ^ 40) then
    r.2.postPod (.eng e.id) e.part (podAddr rank off) ask []
  else r.2.failChafer e (podAddr rank (off % 2 ^ 40))

/-- An atomic add of the operand to a word of the own window (R383, R389), with its completion time kept; none while a bucket or a held bank
keeps it (R39, R436). On a poisoned line nothing is performed, and the event is logged (R251). -/
def State.ownSignal (s : State) (e : EngOp) (off operand : Nat) : Option State :=
  let pa := (s.part e.part).expBase + off
  (if s.bankHolds e.part (pa / 128) then none else s.takeAll 8 (s.hostPoints e.part (pa / 128))).map (fun s =>
  if s.runPoisoned e.part pa 8 then s.logUncorrectedLine e.part (pa / 128)
  else
  let old := s.homeNat e.part pa 8
  let w := s.performWrite e.part e.space (pa / 128) .plain
    (mapIdx' (fun i b => (pa % 128 + i, b)) (bytesLE 8 ((old + operand) % 2 ^ 64))) [] false false
  ((w.1.modEngOp e.id (fun x => { x with completion := max x.completion w.2 })).l1Drop e.core e.part (pa / 128)).barReplica e.core e.part
    (pa / 128))

/-- The signal of a one-sided command (R383, R384): to its target, or to the own window when that is the target. -/
def State.oneSignal (s : State) (e : EngOp) (r : RingState) : Option State :=
  let rank := r.group.members.getD r.target 0
  if r.target = r.group.own then
    let m := s.podEntry e.part rank
    if podValid m.1 && podGrants m.1 2 && decide (r.sigOff + 8 ≤ (s.part e.part).expSize) then m.2.ownSignal e r.sigOff r.operand
    else some (m.2.failChafer e (podAddr rank (r.sigOff % 2 ^ 40)))
  else some (s.askPeer e rank r.sigOff (.atomic 0x16 r.operand 0))

/-- Bytes that a Chafer command writes, line by line: a line that a bucket or a held bank keeps waits (R39, R436), and later bytes of it behind
it. -/
def State.putOrPend (s : State) (e : EngOp) (bs : List DestByte) : State :=
  (dedupUnits (bs.map (·.unit))).foldl (fun (s : State) u =>
    let mine := bs.filter (fun b => b.unit == u)
    if s.unitHeld e u || ((s.engOp? e.id).map (fun x => x.pend.any (fun b => b.unit == u))).getD false then
      s.modEngOp e.id (fun x => { x with pend := x.pend ++ mine })
    else s.putUnit e u mine) s

/-- Where the remote box of a one-sided command lies: the own window, or the pod addresses of the target. -/
def State.remotePlace (s : State) (e : EngOp) (r : RingState) : Place :=
  .window (if r.target = r.group.own then (s.part e.part).expBase else podAddr (r.group.members.getD r.target 0) 0)

/-- Whether a box of the own window lies within it and the own pod map entry grants the access (R373, R383). -/
def State.ownAdmits (s : State) (e : EngOp) (r : RingState) (d : Desc) (kind : Nat) : Bool × State :=
  let m := s.podEntry e.part (r.group.members.getD r.target 0)
  (podValid m.1 && podGrants m.1 kind && decide (d.reach ≤ (s.part e.part).expSize), m.2)

/-- Consecutive bytes of a line joined into runs: each with its offset. -/
def byteRuns : (fuel : Nat) → List (Nat × Byte × Bool) → List (Nat × List (Byte × Bool))
  | 0, _ => []
  | _, [] => []
  | n + 1, x :: xs =>
    match byteRuns n xs with
    | (off, bs) :: rest => if off = x.1 + 1 then (x.1, x.2 :: bs) :: rest else (x.1, [x.2]) :: (off, bs) :: rest
    | [] => [(x.1, [x.2])]

/-- The bytes of a remote box sent as writes, one request for each run within a line (R383). -/
def State.sendBytes (s : State) (e : EngOp) (rank : Nat) (bs : List DestByte) : State :=
  let base := podAddr rank 0 / 128
  (dedupUnits (bs.map (·.unit))).foldl (fun (s : State) u =>
    let mine := bs.filter (fun b => b.unit == u)
    let mixed := blendBytes (fun o => Config.edgeBits (s.draws + o)) mine
    let cells := (upTo 128).filterMap (fun o => (mixed.find? (fun b => b.1 == o)).map (fun b =>
      (o, b.2, mine.any (fun x => x.off == o && x.bad))))
    (byteRuns 128 cells).foldl (fun (s : State) run =>
      s.askPeer e rank (128 * (u.2 - base) + run.1) (.write (run.2.map (·.1)) (run.2.any (·.2)))) { s with draws := s.draws + 128 }) s

/-- The reads of a remote box, one request for each run within a line (R383). -/
def State.sendReads (s : State) (e : EngOp) (rank : Nat) (spans : List (Nat × Nat)) : State :=
  let addrs := sortDedup (spans.flatMap (fun x => rangeFrom x.1 x.2))
  (sortDedup (addrs.map (· / 128))).foldl (fun (s : State) l =>
    (byteRuns 128 ((addrs.filter (fun a => a / 128 == l)).map (fun a => (a, (0 : Byte), false)))).foldl (fun (s : State) run =>
      s.askPeer e rank run.1 (.read run.2.length)) s) s

/-- One item of a one-sided command moved exactly (R383). -/
def EngOp.moveItem (e : EngOp) (look : Look) (d src : Desc) (p : Place) (n : Nat) : ItemOut :=
  movedItem src e.opts.fi ((rangeFrom n d.group).map (fun i => e.elem look src p (src.zeroPlace i)))

/-- The lines that an item of a source box lies on. -/
def EngOp.boxSources (e : EngOp) (src : Desc) (p : Place) (items : List Nat) : List (Bool × Nat) :=
  dedupUnits (items.flatMap (fun n => e.itemUnits src p (src.zeroPlace n) ++
    (if src.isMx && !src.plane then match src.zeroPlace n with
      | some c => e.spanUnits p (src.itemSpan c).1 1
      | none => [] else [])))

/-- `cput` begins (R383): its source is read, and the target's bytes are sent, or written when the target is the member itself. -/
def State.putBegin (s : State) (e : EngOp) (r : RingState) (d src : Desc) : State :=
  let us := e.boxSources src .paged src.items
  if !us.all (s.readable e) || s.unpassed e us [] then s
  else
    let s1 := s.captureAll e.id us
    match s1.engOp? e.id with
    | none => s1
    | some x =>
      let p := s1.remotePlace x r
      let bs := d.items.flatMap (fun n => x.itemBytes d p (d.zeroPlace n) (x.moveItem (s1.look x) d src .paged n))
      let s2 :=
        if r.target = r.group.own then
          let ok := s1.ownAdmits x r d 1
          if ok.1 then ok.2.putOrPend x bs else ok.2.failChafer x (podAddr (r.group.members.getD r.target 0) d.base)
        else s1.sendBytes x (r.group.members.getD r.target 0) bs
      s2.modEngOp e.id (fun y => { y with stage := 1 })

/-- Whether the wave has an earlier write to a line of a remote box that is not performed: the reads of the box follow it (R279, R383). -/
def State.remoteOpen (s : State) (e : EngOp) (rank : Nat) (spans : List (Nat × Nat)) : Bool :=
  (sortDedup (spans.flatMap (fun x => (rangeFrom x.1 x.2).map (fun a => podAddr rank a / 128)))).any (fun l =>
    e.waves.any (fun w => s.writeOpen e.part e.uid (true, l) w))

/-- `cget` begins (R383): the reads are sent; of the member itself they are made. -/
def State.getBegin (s : State) (e : EngOp) (r : RingState) (src : Desc) : State :=
  let mark (s : State) : State := s.modEngOp e.id (fun y => { y with stage := 1 })
  if r.target = r.group.own then
    let us := e.boxSources src (s.remotePlace e r) src.items
    let ok := s.ownAdmits e r src 0
    if !ok.1 then mark (ok.2.failChafer e (podAddr (r.group.members.getD r.target 0) src.base))
    else if us.all (ok.2.readable e) && !ok.2.unpassed e us [] then mark (ok.2.captureAll e.id us) else s
  else if s.remoteOpen e (r.group.members.getD r.target 0) (src.touches src.zeroPlace src.items) then s
  else mark (s.sendReads e (r.group.members.getD r.target 0) (src.touches src.zeroPlace src.items))

/-- `cget` with its data here: the local box is written (R383). -/
def State.getWrite (s : State) (e : EngOp) (r : RingState) (d src : Desc) : State :=
  let p := s.remotePlace e r
  s.putOrPend e (d.items.flatMap (fun n => e.itemBytes d .paged (d.zeroPlace n) (e.moveItem (s.look e) d src p n)))

/-- One step of a one-sided command (R383, R384): its data, then its signal once every answer is here and, for the member's own window, the
clock has passed the completion of its writes; then its end, once all its bytes are written. -/
def State.oneSided (s : State) (e : EngOp) (r : RingState) : State :=
  let wantsSig := e.opts.sig || e.op == 3
  if s.reqsOpen e.id then s
  else if e.failed.isSome then s.endChafer e.id
  else
    match e.stage with
    | 0 =>
      if e.op = 3 then
        let w := (e.waves.head?.map (·.1)).getD (.hdl 0 0)
        let upTo := (e.waves.head?.map (·.2)).getD 0
        if s.writesMade w 3 upTo && decide (((s.wave? w).map (·.ltc)).getD 0 < s.nowOf w) then
          ((s.oneSignal e r).map (fun t => t.modEngOp e.id (fun y => { y with stage := 2 }))).getD s
        else s
      else
        match e.t1, e.t2 with
        | some d, some src => if e.op = 1 then s.putBegin e r d src else s.getBegin e r src
        | _, _ => s
    | 1 =>
      let waits := e.op == 1 && r.target == r.group.own && (!e.pend.isEmpty || !decide (e.completion < s.leaseNow hubDie))
      if wantsSig && waits then s
      else
        let s1 := match e.op, e.t1, e.t2 with
          | 2, some d, some src => s.getWrite e r d src
          | _, _, _ => s
        ((if wantsSig then s1.oneSignal e r else some s1).map (fun t => t.modEngOp e.id (fun y => { y with stage := 2 }))).getD s
    | _ => if e.pend.isEmpty then s.endChafer e.id else s

/-- The wire formats (Table 18.4). -/
def wireFmt (w : Nat) : Fmt :=
  match w with
  | 0 => fp32
  | 1 => bf16
  | 2 => e4m3
  | _ => e2m1

/-- Values quantised to the wire (R386): codes, and the scales of the MX wires; `n` is the element count of the counter's box, `i` the first
element's linear index and `h` the quantisations before this one. -/
def EngOp.toWire (e : EngOp) (n i h : Nat) (xs : List Val) : List Nat × List Nat :=
  let f := wireFmt e.opts.wire
  let modes := (rangeFrom i xs.length).map (fun j =>
    roundOfField e.opts.round (if e.opts.round = 2 then srThreshold e.key ((n * h + j) % 2 ^ 32) else 0))
  if e.opts.wire < 2 then ((xs.zip modes).map (fun p => (roundTo f p.1 p.2 true false).1), [])
  else
    let qs := ((chunksOf 32 xs.length xs).zip (chunksOf 32 modes.length modes)).map (fun p => quantBlock f true p.2 true false p.1)
    (qs.flatMap (·.2), qs.map (·.1))

/-- The exact values of a chunk on the wire (R386). -/
def EngOp.ofWire (e : EngOp) (codes scales : List Nat) : List Val :=
  let f := wireFmt e.opts.wire
  mapIdx' (fun i c => if e.opts.wire < 2 then decodeFmt f c else mxVal f (scales.getD (i / 32) 0) c) codes

/-- acc(x) of R387. -/
def EngOp.accum (e : EngOp) (x : Val) : Val :=
  let f := if e.opts.acc16 then bf16 else fp32
  decodeFmt f (roundTo f x .rne true false).1

/-- The chunk size of a collective in flight. -/
def EngOp.chunk (e : EngOp) (r : RingState) : Nat :=
  match e.t1, e.t2 with
  | some d, some src => chunkSize e.op r.group.members.length (e.op != 7 || r.target == r.group.own) d src
  | _, _ => 0

/-- The element count of the box whose indices an SR counter uses (R386). -/
def EngOp.counterBox (e : EngOp) : Nat := (((if e.op = 5 then e.t2 else e.t1)).map Desc.boxCount).getD 0

/-- A run of source elements, with which are spoiled (R385, R389). -/
def EngOp.srcRun (e : EngOp) (look : Look) (src : Desc) (i n : Nat) : List Val × List Bool :=
  let xs := (rangeFrom i n).map (fun j => e.elem look src .paged (src.zeroPlace j))
  (xs.map (SrcElem.val src false), xs.map SrcElem.spoils)

/-- The command as a mismatch compares it (R385). -/
def EngOp.sender (e : EngOp) (r : RingState) : ChunkSender :=
  ⟨e.op, e.chunk r, e.opts.wire, e.opts.acc16, if e.op = 7 then r.target else 0⟩

/-- Values written to the destination from a linear index on (R386): in the own window. -/
def State.writeChunk (s : State) (e : EngOp) (d : Desc) (i : Nat) (xs : List Val) (bad : List Bool) : State :=
  let p : Place := .window (s.part e.part).expBase
  let k := d.group
  let items := (upTo (xs.length / k)).map (· * k)
  let bs := items.flatMap (fun j =>
    e.itemBytes d p (d.zeroPlace (i + j)) (convertItem d true (List.replicate k .rne) true false ((bad.drop j).take k) ((xs.drop j).take k)))
  s.putOrPend e bs

/-- A chunk written at this member, but for bytes that wait: its origin, with the latest completion time (R389). -/
def State.chunkWritten (s : State) (e : EngOp) (origin : Nat) : State :=
  s.modEngOp e.id (fun x => { x with ring := x.ring.map (fun r => { r with written := r.written ++ [(origin, x.completion)] }) })

/-- The bytes of a chunk on the wire: its codes packed, then its scales. -/
def EngOp.wireBytes (e : EngOp) (m : ChunkMsg) : List Byte :=
  let bits := match e.opts.wire with
    | 0 => 32
    | 1 => 16
    | 2 => 8
    | _ => 4
  bytesLE ((bits * m.codes.length + 7) / 8) (packCodes bits m.codes) ++ m.scales.map (BitVec.ofNat 8)

/-- The rank of the next member of a ring, and of the one before. -/
def RingState.nextRank (r : RingState) : Nat := r.group.members.getD ((r.group.own + 1) % r.group.members.length) 0
def RingState.prevRank (r : RingState) : Nat :=
  r.group.members.getD ((r.group.own + r.group.members.length - 1) % r.group.members.length) 0

/-- A chunk that travels to the next member of the ring (R388), in write requests of at most 256 bytes (Table 18.1), each acknowledged, or
failed where the pod map does not admit them; it is whole with the last of them. -/
def State.emitChunk (s : State) (e : EngOp) (r : RingState) (m : ChunkMsg) : State :=
  let rank := r.nextRank
  let p := s.podEntry e.part rank
  let s1 := p.2.modEngOp e.id (fun x => { x with ring := x.ring.map (fun r => { r with sent := r.sent ++ [(m.chunk, m.last)] }) })
  if podValid p.1 && podGrants p.1 1 then
    let bs := e.wireBytes m
    let pieces := chunksOf 256 bs.length bs
    let whole : Output := .chunk s1.next e.id m.chunk m.hop m.codes m.scales m.bad m.last (e.sender r)
    if pieces.isEmpty then s1.emit whole
    else foldIdx (fun (s : State) i (x : List Byte) =>
      s.postPod (.eng e.id) e.part (podAddr rank (256 * i)) (.write x false) (if i + 1 = pieces.length then [whole] else [])) s1 0 pieces
  else s1.failChafer e (podAddr rank 0)

/-- A chunk for the next member of the ring: it travels only once that member has issued its matching command (R385). -/
def State.sendChunk (s : State) (e : EngOp) (r : RingState) (chunk hop : Nat) (codes scales bad : List Nat) (last : Bool) : State :=
  let m : ChunkMsg := ⟨chunk, hop, codes, scales, bad, last⟩
  if r.ready then s.emitChunk e r m
  else s.modEngOp e.id (fun x => { x with ring := x.ring.map (fun r => { r with queue := r.queue ++ [m] }) })

/-- The next member has issued its matching command: the chunks that waited for it travel, in their order (R385, R388). -/
def State.openRing (s : State) (e : EngOp) (r : RingState) : State :=
  if r.ready then s
  else
    r.queue.foldl (fun (s : State) m => s.emitChunk e r m)
      (s.modEngOp e.id (fun x => { x with ring := x.ring.map (fun r => { r with ready := true, queue := [] }) }))

/-- The positions of spoiled elements. -/
def badPositions (bad : List Bool) : List Nat := indicesFrom id 0 bad

/-- Values quantised, written at this member and sent on: the own chunk of `cgath`, the box of a root, the result of `card` (R386, R387). -/
def State.originate (s : State) (e : EngOp) (r : RingState) (d : Desc) (chunk dest ctr h : Nat) (last : Bool) (xs : List Val) (bad : List Bool) :
    State :=
  let w := e.toWire e.counterBox ctr h xs
  let s1 := (s.writeChunk e d dest (e.ofWire w.1 w.2) bad).chunkWritten e chunk
  if 1 < r.group.members.length then s1.sendChunk e r chunk 1 w.1 w.2 (badPositions bad) last else s1

/-- A collective begins at this member (R386, R387): the source is read, and what starts here is sent. -/
def State.ringBegin (s : State) (e : EngOp) (r : RingState) : State :=
  let n := r.group.members.length
  let own := r.group.own
  let size := e.chunk r
  match e.t1, e.t2 with
  | some d, some src =>
    let reads := e.op != 7 || r.target == own
    let us := if reads then e.boxSources src .paged src.items else []
    if !us.all (s.readable e) || s.unpassed e us [] then s
    else
      let s1 := (s.captureAll e.id us).modEngOp e.id (fun x => { x with stage := 1 })
      match s1.engOp? e.id with
      | none => s1
      | some x =>
        let look := s1.look x
        match e.op with
        | 4 =>
          let v := x.srcRun look src 0 size
          s1.originate x r d own (own * size) (own * size) 0 false v.1 v.2
        | 7 =>
          if r.target = own then
            let v := x.srcRun look src 0 d.boxCount
            s1.originate x r d own 0 0 0 false v.1 v.2
          else s1
        | _ =>
          let c := (own + n - 1) % n
          let v := x.srcRun look src (c * size) size
          let part := v.1.map x.accum
          if 1 < n then
            let w := x.toWire x.counterBox (c * size) 0 part
            s1.sendChunk x r c 1 w.1 w.2 (badPositions v.2) false
          else if e.op = 5 then (s1.writeChunk x d 0 part v.2).chunkWritten x own
          else s1.originate x r d own (own * size) (own * size) 0 true part v.2
  | _, _ => s

/-- A chunk that goes round unchanged: written here and sent on (R386). -/
def State.passChunk (s : State) (e : EngOp) (r : RingState) (d : Desc) (chunk hop dest : Nat) (codes scales bad : List Nat) (last : Bool) :
    State :=
  let s1 := (s.writeChunk e d dest (e.ofWire codes scales) ((upTo codes.length).map (fun i => bad.contains i))).chunkWritten e chunk
  if hop + 1 < r.group.members.length then s1.sendChunk e r chunk (hop + 1) codes scales bad last else s1

/-- A partial sum received: the own contribution added, then sent on, or finished at its member (R387). -/
def State.reduceChunk (s : State) (e : EngOp) (r : RingState) (d src : Desc) (chunk hop : Nat) (codes scales bad : List Nat) : State :=
  let own := r.group.own
  let size := e.chunk r
  let v := e.srcRun (s.look e) src (chunk * size) size
  let part := ((e.ofWire codes scales).zip v.1).map (fun p => e.accum (p.1.add false p.2).1)
  let spoiled := mapIdx' (fun i b => b || bad.contains i) v.2
  if chunk = own then
    if e.op = 5 then (s.writeChunk e d 0 part spoiled).chunkWritten e own
    else s.originate e r d own (own * size) (own * size) hop true part spoiled
  else
    let w := e.toWire e.counterBox (chunk * size) hop part
    s.sendChunk e r chunk (hop + 1) w.1 w.2 (badPositions spoiled) false

/-- The requests of a command that a bucket still holds are not sent any more; those that are sent are answered, or fail, as any (R375). -/
def State.dropHeld (s : State) (id : Nat) : State :=
  { s with podReqs := s.podReqs.filter (fun q => q.owner != PodOwner.eng id || q.held.isNone) }

/-- The abort of a collective (R385): the command here ends with the pod-error flag set, and every other member is told. -/
def State.abortRing (s : State) (e : EngOp) (r : RingState) : State :=
  (((s.markFailed e.id none).dropHeld e.id).emit (.abort e.uid r.gp r.group.seq)).endChafer e.id

/-- The chunk and the hops that the next arrival at a member has, and whether it is a result (R388): first the partial sums of `crsc` and
`card`, then the results of `card`, or the chunks of `cgath` and the box of `cbcst`. -/
def EngOp.nextArrival (e : EngOp) (r : RingState) : Nat × Nat × Bool :=
  let n := r.group.members.length
  let own := r.group.own
  let a := r.arrived + 1
  match e.op with
  | 4 => ((own + n - a) % n, a, false)
  | 7 => (r.target, (own + n - r.target) % n, false)
  | _ => if a < n then ((own + 2 * n - 1 - a) % n, a, false) else ((own + 2 * n - 1 - a) % n, a + 1 - n, true)

/-- Whether a chunk comes from the previous member of the ring, whose pod map entry grants it to write (R373). -/
def State.admitsChunk (s : State) (e : EngOp) (r : RingState) (device peer : Nat) : Bool :=
  let m := s.podLook e.part r.prevRank
  (s.part e.part).podEnable && !s.device.locked && podValid m && podDevice m == device && podPart m == peer && podGrants m 1

/-- COLLECTIVE_CHUNK_ARRIVAL (R373, R385, R388): a chunk from the previous member, in the order of its link; a request that R373 does not accept
is refused. -/
def execCollectiveChunkArrival (op chunk hop : Nat) (codes scales bad : List Nat) (last : Bool) (source : ChunkOrigin) (s : State) :
    Host.Outcome State Fault Refusal :=
  .next (
    match s.engOp? op with
    | none => s
    | some e0 =>
      match e0.ring with
      | none => s
      | some r =>
        if s.device.fenced || e0.engine != .chafer || !isCollective e0.op || e0.stage == 3 || e0.failed.isSome || hop = 0 || decide (r.group.members.length ≤ hop) then s
        else if !s.admitsChunk e0 r source.device source.peer then s.emit (.peerRefused source.device)
        else if source.sender != e0.sender r then s.abortRing e0 r
        else if e0.nextArrival r != (chunk, hop, last) then s
        else
          let s0 := if e0.stage = 0 then s.ringBegin e0 r else s
          match (s0.modEngOp op (fun x => { x with ring := x.ring.map (fun r => { r with arrived := r.arrived + 1 }) })).engOp? op with
          | none => s0
          | some e =>
            if e.stage = 0 then s
            else
              let s0 := s0.modEngOp op (fun _ => e)
              let ring := e.ring.getD r
              match e.t1, e.t2 with
              | some d, some src =>
                match e.op with
                | 4 => s0.passChunk e ring d chunk hop (chunk * e.chunk r) codes scales bad last
                | 7 => s0.passChunk e ring d chunk hop 0 codes scales bad last
                | 5 => s0.reduceChunk e ring d src chunk hop codes scales bad
                | _ =>
                  if last then s0.passChunk e ring d chunk hop (chunk * e.chunk r) codes scales bad last
                  else s0.reduceChunk e ring d src chunk hop codes scales bad
              | _, _ => s0)

/-- COLLECTIVE_ABORT (R385): the matching command ends with the pod-error flag set, or a later one will find the abort. -/
def execCollectiveAbort (uid gp seq : Nat) (s : State) : Host.Outcome State Fault Refusal :=
  let mine (e : EngOp) : Bool := e.engine == .chafer && e.uid == uid && isCollective e.op &&
    (e.ring.map (fun r => r.gp == gp && r.group.seq == seq)).getD false
  .next (
    match s.engOps.find? mine with
    | some e => ((s.markFailed e.id none).dropHeld e.id).endChafer e.id
    | none => s.modBlock uid (fun b => { b with gps := modifyAt b.gps gp (Option.map (fun g =>
        if g.seq ≤ seq && !g.aborted.contains seq then { g with aborted := g.aborted ++ [seq] } else g)) }))

/-- The signals of chunks whose writes the clock has passed (R389). -/
def State.ringSignals (s : State) (e : EngOp) (r : RingState) : State :=
  if !e.opts.sig || !e.pend.isEmpty then s
  else
    (r.written.filter (fun w => !r.signalled.contains w.1 && decide (w.2 < s.leaseNow hubDie))).foldl (fun (s : State) w =>
      ((s.ownSignal e (r.sigOff + 8 * w.1) r.operand).map (fun t => t.modEngOp e.id (fun x =>
        { x with ring := x.ring.map (fun r => { r with signalled := r.signalled ++ [w.1] }) }))).getD s) s

/-- Whether a collective has written, signalled and sent all that is this member's (R389). -/
def EngOp.ringDone (e : EngOp) (r : RingState) : Bool :=
  let n := r.group.members.length
  let chunks := if e.op = 4 || e.op = 6 then n else 1
  let sends := match e.op with
    | 4 => n - 1
    | 5 => n - 1
    | 6 => 2 * (n - 1)
    | _ => if 1 < n && (r.group.own + 1) % n != r.target then 1 else 0
  e.pend.isEmpty && r.written.length == chunks && (!e.opts.sig || r.signalled.length == chunks) && r.sent.length == sends

/-- One step of a collective: its beginning, its signals, or its end (R385, R389). -/
def State.ringStep (s : State) (e : EngOp) (r : RingState) : State :=
  if e.failed.isSome then
    (if e.stage = 0 then s.endChafer e.id else s.abortRing e r)
  else if e.stage = 0 then s.ringBegin e r
  else
    let s1 := s.ringSignals e r
    match s1.engOp? e.id with
    | none => s1
    | some x => if x.ringDone (x.ring.getD r) && !s1.reqsOpen e.id then s1.endChafer e.id else s1

/-- CHAFER_OPERATION_COMPLETE (R383, R385, R389): the command takes its next step, the last of which counts it out. That the next member
of its ring has issued its matching command is what this device hears through the pod. -/
def execChaferOperationComplete (step : ChaferStep) (s : State) : Host.Outcome State Fault Refusal :=
  .next (
    match s.engOp? step.op with
    | none => s
    | some e =>
      match e.ring with
      | none => s
      | some r =>
        if e.engine != .chafer || e.stage == 3 || s.device.fenced then s
        else if isCollective e.op then
          let s := if step.ready && e.failed.isNone then s.openRing e r else s
          match s.engOp? step.op with
          | none => s
          | some e => s.ringStep e (e.ring.getD r)
        else s.oneSided e r)

end Sys2Proof.Machine
end

