-- ==== Sys2Proof/Machine/Events.lean ====
section
/-! DEFINITION. The steps of memory and its units that no instruction names: clause issues, table walks, line groups of loads and writes,
granule accesses, and line fills with the errors they meet (R101, R207, R218, R247, R261, R325). -/

namespace Sys2Proof.Machine

/-- CLAUSE_ISSUE (R60, R101, R105). -/
def execClauseIssue (core quarter : Nat) (mates : List WaveRef) (s : State) : Host.Outcome State Fault Refusal :=
  .next (s.clauseIssueStep core quarter mates)

/-- PAGE_WALK (R207, R208): a leaf enters the TLBs; a walk that faults leaves no entry. -/
def execPageWalk (core part space va : Nat) (s : State) : Host.Outcome State Fault Refusal :=
  .next (s.translate core part space va).2

/-- The lines and granules that an engine operation reads, as far as its descriptors tell (R277, R319, R383, R385). A convened operation
reads its granules at its start (R313). -/
def EngOp.sources (e : EngOp) : List (Bool × Nat) :=
  match e.engine with
  | .compositor =>
    if e.op = 8 then [] else ((e.descs).map (fun x => x.1.items.flatMap (e.copySources x.1 x.2))).getD []
  | .platen =>
    if e.op = 6 then ((e.acpyDesc).map (fun d => (upTo d.boxCount).flatMap (e.acpySources d))).getD [] else []
  | .chafer =>
    match e.op, e.t2, e.ring with
    | 2, _, _ => []
    | 7, some src, some r => if r.target = r.group.own then e.boxSources src .paged src.items else []
    | _, some src, _ => e.boxSources src .paged src.items
    | _, _, _ => []

/-- The lines and granules that an engine operation reads: those that its descriptors tell, and of a `cget` of the member itself the lines of its
own window (R383). -/
def State.sourcesOf (s : State) (e : EngOp) : List (Bool × Nat) :=
  match e.engine, e.op, e.t2, e.ring with
  | .chafer, 2, some src, some r => if r.target = r.group.own then e.boxSources src (s.remotePlace e r) src.items else []
  | _, _, _, _ => e.sources

/-- Whether an engine operation goes on: Chafer's do whatever becomes of the block (R377). -/
def State.engGoes (s : State) (e : EngOp) : Bool := !s.device.fenced && (e.engine == .chafer || s.engRuns e)

/-- One line or granule that an engine operation reads on its way (R278, R279); a line of the pod range is asked of its peer. -/
def State.readUnit (s : State) (e : EngOp) (u : Bool × Nat) : State :=
  if s.engGoes e && (s.sourcesOf e).contains u && (e.captured u).isNone then
    if podUnit u then
      if s.podReqs.any (fun q => q.owner == .unit e.id u.2) || !e.waves.all (fun w => !s.writeOpen e.part e.uid u w) then s
      else ((s.takeAll 128 (s.unitPoints e u)).map (fun t => t.askUnit e u.2)).getD s
    else if !s.readable e u || (u.1 && s.bankHolds e.part u.2) then s
    else ((s.takeAll 128 (s.unitPoints e u)).map (fun t => t.capture e.id u)).getD s
  else s

/-- The bytes that an operation writes to one line or granule, with the lines and granules they are made from (R277). -/
def EngOp.unitBytes (e : EngOp) (u : Bool × Nat) : List (Bool × Nat) × (State → EngOp → List DestByte) :=
  match e.engine, e.descs, e.acpyDesc with
  | .compositor, some (d, src), _ =>
    let items := d.items.filter (fun n => (e.itemUnits d d.here (e.destPlace d n)).contains u)
    (items.flatMap (e.copySources d src), fun st x =>
      (items.flatMap (fun n => x.itemBytes d d.here (x.destPlace d n) (x.copyItem (st.look x) d src n))).filter (fun b => b.unit == u))
  | .platen, _, some d =>
    let items := if e.opts.dirIn then [] else d.items.filter (fun n => (e.itemUnits d d.here (e.acpyPlace d n)).contains u)
    ([], fun st x =>
      match st.block? x.uid with
      | none => []
      | some b => (items.flatMap (fun n => x.itemBytes d d.here (x.acpyPlace d n) (x.acpyItem b d n))).filter (fun b => b.unit == u))
  | _, _, _ => ([], fun _ _ => [])

/-- A line of Chafer's that a bucket or a held bank kept written at last, once these let it pass (R39, R436); the chunks written here count
with its completion time (R389). -/
def State.writePend (s : State) (e : EngOp) (u : Bool × Nat) : State :=
  let mine := e.pend.filter (fun b => b.unit == u)
  if mine.isEmpty || !s.engGoes e || (u.1 && !podUnit u && s.bankHolds e.part u.2) then s
  else
    match s.takeAll (destCount mine) (s.unitPoints e u) with
    | none => s
    | some t => (t.putUnit e u mine).modEngOp e.id (fun x => { x with
        pend := x.pend.filter (fun b => b.unit != u)
        ring := x.ring.map (fun r => { r with written := r.written.map (fun w => (w.1, max w.2 x.completion)) }) })

/-- One line or granule that an engine operation writes on its way, once what it is made from may be read (R278 to R281). The rows of an
`acpy` are its own by then (R297). -/
def State.writeUnit (s : State) (e : EngOp) (u : Bool × Nat) : State :=
  let p := e.unitBytes u
  let mayGo := s.engGoes e && e.stage == 0 && e.op != 8 && !(e.engine == .platen && (e.op != 6 || s.rowsEarlier e)) && !e.done.contains u &&
    p.1.all (s.readable e) && !(u.1 && !podUnit u && s.bankHolds e.part u.2)
  if !mayGo then s
  else
    let s1 := s.captureAll e.id p.1
    match s1.engOp? e.id with
    | none => s1
    | some x =>
      let bs := p.2 s1 x
      if bs.isEmpty then s1
      else
        match s1.takeAll (destCount bs) (s1.unitPoints x u) with
        | some t => t.putUnit x u bs
        | none => s1

/-- GLOBAL_LOAD_PERFORM (R247, R253): a line group of a load, or a line that an engine reads. -/
def execGlobalLoadPerform (op line : Nat) (s : State) : Host.Outcome State Fault Refusal :=
  .next (
    match s.memOp? op with
    | some o =>
      match o.groupAt line (fun g => !g.performed) with
      | none => s
      | some (i, g) =>
        match o.kind with
        | .load _ | .loadMx => s.loadPerform o i g
        | .sload _ => s.loadPerform o i g
        | .tdset _ => s.loadPerform o i g
        | .prefetch _ => s.loadPerform o i g
        | _ => s
    | none =>
      match s.engOp? op with
      | some e => s.readUnit e (true, line)
      | none => s)

/-- WRITE_PERFORM (R325): a line group of a store, or a line that an engine writes. While the alarm fences the partitions nothing is
performed (R433). -/
def execWritePerform (op line : Nat) (s : State) : Host.Outcome State Fault Refusal :=
  .next (
    if s.device.fenced then s
    else
      match s.memOp? op with
      | some o => s.writeEvent o line
      | none =>
        match s.engOp? op with
        | some e => if e.engine == .chafer then s.writePend e (true, line) else s.writeUnit e (true, line)
        | none => s)

/-- SCRATCHPAD_BANK_ACCESS (R261): a granule that an engine reads or writes; lanes' accesses are performed as they issue. -/
def execScratchpadBankAccess (op granule : Nat) (s : State) : Host.Outcome State Fault Refusal :=
  .next (
    match s.engOp? op with
    | none => s
    | some e =>
      let u := (false, granule)
      if (e.captured u).isNone && (s.sourcesOf e).contains u then s.readUnit e u else s.writeUnit e u)

/-- The attributes under which an operation in flight accesses a line. -/
def MemOp.lineAttr (o : MemOp) (line : Nat) : PageAttr :=
  ((o.groups.find? (fun g => g.line == line)).map (·.attr)).getD .plain

/-- The bits that a line's layout protects: payload and side bytes, or in bound layout the protected bits of each element and the side
bytes (R218, R219). -/
def protectedMask (a : PageAttr) (sym : Nat) : Nat :=
  if 128 ≤ sym || !scaledLayout a.bound a.tolerant then 0xFF
  else
    let p := protectedBits a.bfmt
    let m := (2 ^ p.2 - 1) * 2 ^ p.1
    if a.bfmt = 3 then m + 16 * m else m

/-- The symbols that the code of a line sees in error (R217 to R219). In ordinary layout they are the bytes hit. In bound layout the code
runs over the side bytes and over the protected bits packed into bytes in element order. -/
def codeSymbols (a : PageAttr) (errs : LineErrors) : List Nat :=
  let hits := errs.filter (fun e => e.2.toNat &&& protectedMask a e.1 != 0)
  if !scaledLayout a.bound a.tolerant then sortDedup (hits.map (·.1))
  else
    let w := (protectedBits a.bfmt).2
    let lo := (protectedBits a.bfmt).1
    let bitsAt (e : Nat × Byte) : List Nat :=
      if 128 ≤ e.1 then [e.1]
      else
        let per := if a.bfmt = 3 then 2 else 1
        let wide := 8 / per
        (upTo per).flatMap (fun j => (upTo w).filterMap (fun b =>
          if e.2.toNat.testBit (wide * j + lo + b) then some (1000 + ((e.1 * per + j) * w + b) / 8) else none))
    sortDedup (hits.flatMap bitsAt)

/-- A payload with the bits that no code protects left flipped (R219, R220). -/
def unprotectedFlips (a : PageAttr) (bytes : List Byte) (errs : LineErrors) : List Byte :=
  errs.foldl (fun bs e =>
    if e.1 < 128 then modifyAt bs e.1 (fun b => BitVec.ofNat 8 (Nat.xor b.toNat (e.2.toNat &&& (0xFF - protectedMask a e.1)))) else bs) bytes

/-- Whether a page holds a physical line. -/
def TlbEntry.maps (t : TlbEntry) (line : Nat) : Bool := decide (t.pbase ≤ 128 * line) && decide (128 * line < t.pbase + 2 ^ t.sizeLog)

/-- A line read from memory with errors (R218 to R221): within reach of its code they are corrected and logged, beyond it the line is
poisoned and the event reported; memory itself keeps what it holds. A host line is asked for under CXL.cache (R241, R427). A group that no
slice serves keeps no line: the mark is then memory's own (R428; log entry 47). -/
def State.fillWithErrors (s : State) (part space line : Nat) (a : PageAttr) (errs : LineErrors) : State :=
  if s.bankHolds part line || ((s.homeOf part line).bind (fun i => (s.slice i).homeTag line)).isSome then s
  else
    let s1 := s.takeHost part line false .rdShared
    let c := s1.memLine line
    let n := (codeSymbols a errs).length
    let bytes := unprotectedFlips a c.1 errs
    let past := decide (correctable a.bound a.tolerant a.bfmt a.bk < n)
    let s2 := match s1.homeOf part line with
      | none => if past then { s1.activate line with poisonMem := insertSorted line s1.poisonMem } else s1.activate line
      | some i => (s1.activate line).placeAt part i (newTag part space line (s1.slice i).floor a (c.2.2 || past)) bytes (a.sideOf bytes c.2.1)
    if past then s2.logUncorrectedLine part line
    else if n = 0 then s2
    else (s2.logEvent (s2.lineUnit part line) 1 none (some (128 * line))).2

/-- An accumulator cell of a resident block is found with errors (R295): one bit is corrected, written back and logged; two or more leave the
cell uncorrectable until it is written. -/
def State.cellErrors (s : State) (uid cell : Nat) (errs : LineErrors) : State :=
  match s.block? uid with
  | none => s
  | some b =>
    let bits := (errs.map (fun e => popCount 8 e.2.toNat)).sum
    let rows := ((s.launch? b.launch).map (·.record.accRows)).getD 0
    if b.place != .resident || decide (512 * rows ≤ cell) || bits = 0 || (b.cell cell).2 then s
    else if bits = 1 then (s.logEvent b.core 3 none none).2
    else s.modBlock uid (fun b => { b with accBad := b.accBad ++ [(cell, false)] })

/-- LINE_FILL (R218 to R221, R230): a line that an operation in flight accesses, or that a reader with no operation may read in its partition,
is read from memory and placed. The same errors met in an accumulator cell are R295's. -/
def execLineFill (reader : FillReader) (line : Nat) (errors : LineErrors) (s : State) : Host.Outcome State Fault Refusal :=
  .next (
    match reader with
    | .cell uid cell => s.cellErrors uid cell errors
    | .part p => if (s.part p).reachesRam (128 * line) || (isBacked (128 * line) && p == (s.ownerOf (128 * line)).getD 16) then
        s.fillWithErrors p 16 line .plain errors else s
    | .op op =>
      match s.memOp? op, s.engOp? op with
      | some o, _ => if o.groups.any (fun g => g.line == line && !g.performed) && !isPod (128 * line) then
          s.fillWithErrors o.part o.space line (o.lineAttr line) errors else s
      | none, some e =>
        if ((s.sourcesOf e).contains (true, line) || e.pages.any (fun t => t.maps line)) && !isPod (128 * line) then
          s.fillWithErrors e.part e.space line (e.lineAttr line) errors else s
      | none, none => s)

end Sys2Proof.Machine
end

