-- ==== Sys2Proof/Machine/Pod.lean ====
section
/-! DEFINITION. The pod attachment (R336, R370 to R376): answers and failures of pod requests, requests from peers, the ports and the pod
registers of a partition. -/

namespace Sys2Proof.Machine

/-- The identifier of a master (R429). -/
def masterId : Master → Nat
  | .host => 1
  | .bmc => 2
  | .fabric => 3

/-- Whether 4,200,000,000 ticks have passed since the owner's last heartbeat (R430). -/
def State.beatOverdue (s : State) : Bool := s.device.owner != 0 && decide (s.device.beatAt + 4200000000 ≤ s.leaseNow hubDie)

/-- The owner that OWN_STATE reads (R430): none from the tick at which the ownership lapses. -/
def State.ownerNow (s : State) : Nat := if s.beatOverdue then 0 else s.device.owner

/-- Whether the device takes register writes at all: it has power and is not locked (R433). -/
def State.awake (s : State) : Bool := !s.device.locked && !s.device.unpowered

/-- Whether a register write that arrives on a path may change an owner-only register (R429, R433). -/
def State.ownerPath (s : State) (path : Master) : Bool := s.awake && s.ownerNow == masterId path

/-- Whether a write to a virtual function's window is looked at (R433): not while the device waits in recovery, which presents the physical
function only (R439). -/
def State.writable (s : State) : Bool := s.awake && s.device.fwStatus % 4 != 1

/-- Whether a partition has an admitted, unretired launch. -/
def State.hasAdmitted (s : State) (part : Nat) : Bool :=
  s.launches.any (fun l => l.part == part && (match l.stage with
    | .admitted => true
    | .ending n => n != 2 && n != 3
    | _ => false))

/-- The state without a pod request. -/
def State.dropReq (s : State) (id : Nat) : State := { s with podReqs := s.podReqs.filter (fun q => q.id != id) }

/-- The group of a memory operation that a pod request serves. -/
def MemOp.groupOfReq (o : MemOp) (req : Nat) : Option (Nat × OpGroup) :=
  foldIdx (fun acc i g => acc.or (if g.req == some req && !g.performed then some (i, g) else none)) none 0 o.groups

/-- Whether an operation of a kind returns values to registers. -/
def MemKind.returns : MemKind → Bool
  | .load _ | .loadMx => true
  | .sload _ | .tdset _ => true
  | .atomic _ _ ret => ret
  | _ => false

/-- Whether an operation is an append of `launch`. -/
def MemKind.isAppend : MemKind → Bool
  | .append _ _ _ _ => true
  | _ => false

/-- A pod group that has failed (R376): a returning one leaves its destinations to be marked, another sets the wave's pod-error flag. The image
of an append is taken as a poisoned one (log entry 36). -/
def State.failGroup (s : State) (o : MemOp) (i : Nat) (g : OpGroup) : State :=
  let va := (g.lanes.head?.map (·.va)).getD 0
  if o.kind.isAppend then s.setGroup o.id i { g with vals := words64 16 0 (List.replicate 128 0), poison := true }
  else if o.kind.returns then
    (s.setGroup o.id i { g with performed := true, failed := some va, vals := g.lanes.map (fun l => (l.lane, 0)) }).settleOp o.id
  else
    ((s.modWave o.wave (fun w => { w with podError := w.podError.or (some va) })).setGroup o.id i { g with performed := true }).settleOp o.id

/-- The bytes that a peer returned for a request of an engine put among the operation's reads. -/
def EngOp.takeRead (e : EngOp) (q : PodReq) (bytes : List Byte) (poison : Bool) : EngOp :=
  let a := podAddr q.rank q.offset
  let old := (e.captured (true, a / 128)).getD ⟨true, a / 128, List.replicate 128 0, [], false⟩
  { e with reads := { old with bytes := overwrite old.bytes (a % 128) bytes, poison := old.poison || poison } ::
      e.reads.filter (fun r => !(r.glob && r.unit == a / 128)) }

/-- A failed request for a line that an engine reads or writes through a page: Chafer's command fails (R384); another engine takes a line that
it cannot read as a poisoned one (R281), and a write that failed sets the pod-error flag of its waves as a store's does (R376; DESIGN CHOICE,
log entry 68). -/
def State.failUnit (s : State) (q : PodReq) (op : Nat) : State :=
  match s.engOp? op with
  | none => s
  | some e =>
    let addr := podAddr q.rank q.offset
    if e.engine == .chafer then s.markFailed op (some addr)
    else
      match q.ask with
      | .read n => s.modEngOp op (fun x => x.takeRead q (List.replicate n 0) true)
      | _ => e.waves.foldl (fun (s : State) w => s.modWave w.1 (fun v => { v with podError := v.podError.or (some addr) })) s

/-- A pod request that has failed (R375, R376): it counts, and its owner is settled. -/
def State.failReq (s : State) (q : PodReq) : State :=
  let s1 := (s.dropReq q.id).modPart q.part (fun p => { p with podFaults := wrap64 (p.podFaults + 1) })
  match q.owner with
  | .eng e => s1.markFailed e (some (podAddr q.rank q.offset))
  | .unit e _ => s1.failUnit q e
  | .code core part line => s1.codePut core ⟨part, line, []⟩
  | .mem op _ =>
    match s1.memOp? op with
    | none => s1
    | some o =>
      match o.groupOfReq q.id with
      | some (i, g) => s1.failGroup o i g
      | none => s1

/-- The values of a pod group received (R376, R252): each lane's within the bytes that the group's one request asked for (R247). -/
def State.answerGroup (s : State) (o : MemOp) (i : Nat) (g : OpGroup) (bytes : List Byte) (poison : Bool) : State :=
  if o.kind.isAppend then s.setGroup o.id i { g with vals := words64 16 0 bytes, poison := poison }
  else
  let v (l : OpLane) : Nat :=
    let n := ofBytesLE ((bytes.drop (l.pa - g.span.1)).take l.size)
    if o.kind.signed then natOfInt (signExt n (8 * l.size)) 32 else n
  (s.setGroup o.id i { g with performed := true, poison := poison, vals := g.lanes.map (fun l => (l.lane, v l)) }).settleOp o.id

/-- A write or atomic of a pod group acknowledged: the wave's own clock is its completion time (R336). -/
def State.ackGroup (s : State) (o : MemOp) (i : Nat) (g : OpGroup) : State :=
  ((s.setGroup o.id i { g with performed := true }).modMemOp o.id (fun p =>
    { p with completion := max p.completion (s.leaseNow (dieOfCore o.core)) })).settleOp o.id

/-- POD_RESPONSE (R336, R376), to a request that has been sent (R39). An acknowledgement of a request that asks for data is none. -/
def execPodResponse (req : Nat) (answer : PodAnswer) (s : State) : Host.Outcome State Fault Refusal :=
  .next (
    match s.podReqs.find? (fun q => q.id == req && q.held.isNone) with
    | none => s
    | some q =>
      match answer with
      | .refused => s.failReq q
      | .data bytes poison =>
        match q.owner with
        | .eng e => (s.dropReq req).modEngOp e (fun x => match q.ask with
            | .atomic _ _ _ => { x with completion := max x.completion (s.leaseNow (dieOfCore x.core)) }
            | _ => x.takeRead q bytes poison)
        | .unit e _ =>
          let s1 := (s.dropReq req).modEngOp e (fun x => x.takeRead q bytes poison)
          match s.engOp? e with
          | none => s1
          | some x => if poison then (s1.logEvent x.logUnit 5 none (some (podAddr q.rank q.offset))).2 else s1
        | .code core part line => (s.dropReq req).codePut core ⟨part, line, if poison then [] else bytes⟩
        | .mem op _ =>
          match s.memOp? op with
          | none => s.dropReq req
          | some o =>
            match o.groupOfReq req with
            | none => s.dropReq req
            | some (i, g) =>
              let s1 := (s.dropReq req).modMemOp op (fun p => match p.kind with
                | .atomic _ _ _ => { p with completion := max p.completion (s.leaseNow (dieOfCore o.core)) }
                | _ => p)
              match s1.memOp? op with
              | none => s1
              | some p => s1.answerGroup p i g bytes poison
      | .ack =>
        match q.owner with
        | .eng e => (s.dropReq req).modEngOp e (fun x => { x with completion := max x.completion (s.leaseNow (dieOfCore x.core)) })
        | .unit e _ =>
          match q.ask with
          | .read _ => s
          | _ => (s.dropReq req).modEngOp e (fun x => { x with completion := max x.completion (s.leaseNow (dieOfCore x.core)) })
        | .code _ _ _ => s
        | .mem op _ =>
          match s.memOp? op with
          | none => s.dropReq req
          | some o =>
            match o.groupOfReq req with
            | none => s.dropReq req
            | some (i, g) => if o.kind.returns || o.kind.isAppend then s else (s.dropReq req).ackGroup o i g)

/-- POD_REQUEST_TIMEOUT (R375): after 1,048,576 lease ticks. -/
def execPodRequestTimeout (req : Nat) (s : State) : Host.Outcome State Fault Refusal :=
  .next (
    match s.podReqs.find? (fun q => q.id == req) with
    | none => s
    | some q => if q.held.isNone && decide (q.sentAt + 1048576 ≤ s.leaseNow hubDie) then s.failReq q else s)

/-- An error record of one code under one serial in the queue of every partition given (R435). -/
def State.errorToAll (s : State) (parts : List Nat) (serial code addr : Nat) : State :=
  parts.foldl (fun s p => s.errorRecord p serial code 0xFFFF 0 addr) s

/-- UALINK_PORT_DOWN (R375, R435, R437): its unanswered requests fail, and the event is logged and reported. -/
def execUalinkPortDown (port : Nat) (s : State) : Host.Outcome State Fault Refusal :=
  .next (
    if !s.device.portsUp.testBit port then s
    else
      let s1 := s.modDevice (fun d => { d with portsUp := setBit d.portsUp port false })
      let s2 := (s1.podReqs.filter (fun q => q.port == port)).foldl (fun s q => s.failReq q) s1
      let r := s2.logEvent (232 + port) 11 none none
      r.2.errorToAll ((upTo 16).filter (fun p => (r.2.part p).podEnable)) r.1 0x0014 port)

/-- UALINK_PORT_UP (R375). -/
def execUalinkPortUp (port : Nat) (s : State) : Host.Outcome State Fault Refusal :=
  .next (if 16 ≤ port || s.device.unpowered then s else s.modDevice (fun d => { d with portsUp := setBit d.portsUp port true }))

/-- ACCELERATOR_ID_ASSIGN (R370). -/
def execAcceleratorIdAssign (id : Nat) (s : State) : Host.Outcome State Fault Refusal :=
  .next (if 1024 ≤ id || s.device.unpowered then s else s.modDevice (fun d => { d with accelId := id }))

/-- PPOD_CTL_WRITE (R371, Table 18.2). -/
def execPpodCtlWrite (path : Master) (part value : Nat) (s : State) : Host.Outcome State Fault Refusal :=
  .next (
    if !s.ownerPath path || s.hasAdmitted part then s
    else
      let p := s.part part
      let rank := bitsOf value 0 10
      let size := bitsOf value 16 11
      let ok := decide (rank < size) && p.ownsRange p.expBase p.expSize
      s.modPart part (fun p => { p with podCtl := (if bitOf value 31 && ok then 2 ^ 31 else 0) + size * 2 ^ 16 + rank }))

/-- PPOD_FLUSH (R372). -/
def execPpodFlush (path : Master) (part value : Nat) (s : State) : Host.Outcome State Fault Refusal :=
  .next (if s.ownerPath path && bitOf value 0 then s.modPart part (fun p => { p with podCache := [] }) else s)

/-- The conditions of R373 on a request from a peer's partition. A request of no length, or longer than 256 bytes (Table 18.1), or an atomic
that is not aligned, is no request that a peer sends, and an export window that the partition no longer owns cannot be reached (R201). -/
def State.admitsPeer (s : State) (device sender target offset : Nat) (ask : PodAsk) : Bool :=
  let p := s.part target
  let n := podLen ask
  !s.device.locked && !s.device.unpowered && decide (target < 16) && p.podEnable && decide (1 ≤ n) && decide (n ≤ 256) &&
    decide (offset + n ≤ p.expSize) && p.ownsRange (p.expBase + offset) n &&
    (match ask with | .atomic _ _ _ => (p.expBase + offset) % n == 0 | _ => true) &&
    (upTo 1024).any (fun r =>
      let e := s.podLook target r
      podValid e && podDevice e == device && podPart e == sender && podGrants e (podKind ask))

/-- Bytes written at home for a host or a peer, poisoned or not, with the latest completion time (R335, R336). -/
def State.writeOutside (s : State) (part pa : Nat) (bs : List Byte) (poison : Bool) : State × Nat :=
  (splitLines pa bs).foldl (fun acc l =>
    let r := acc.1.performWrite part 16 l.1 .plain l.2 [] true poison
    (r.1, max acc.2 r.2)) (s, 0)

/-- A write performed for a host or a peer: its completion waits for the lease clock (R335, R336). -/
def State.pend (s : State) (completion die : Nat) (peer : Option Nat) (reply : List Byte) : State :=
  let f := s.fresh
  { f.2 with pendingWrites := f.2.pendingWrites ++ [⟨f.1, completion, die, peer, reply⟩] }

/-- A peer's atomic performed in the export window (R263, R373); on a poisoned line nothing is performed (R251). -/
def State.peerAtomic (s : State) (device part pa op operand swap n : Nat) : State :=
  if s.runPoisoned part pa n then
    (s.logUncorrectedLine part (pa / 128)).emit (.peerData device (List.replicate n 0) true)
  else
    let old := s.homeNat part pa n
    match atomNew (podAtomSub op) (n == 8) old operand swap with
    | none => (s.touchWrite part 16 (pa / 128) .plain).pend
        (s.leaseNow (s.homeDie part (pa / 128))) (s.homeDie part (pa / 128)) (some device) (bytesLE n old)
    | some x =>
      let r := s.performWrite part 16 (pa / 128) .plain (mapIdx' (fun i b => (pa % 128 + i, b)) (bytesLE n x)) [] false false
      r.1.pend r.2 (s.homeDie part (pa / 128)) (some device) (bytesLE n old)

/-- Single bytes written at home for a peer. -/
def State.writeCells (s : State) (part pa : Nat) (cells : List (Nat × Byte)) : State × Nat :=
  (sortDedup (cells.map (fun c => (pa + c.1) / 128))).foldl (fun acc l =>
    let ws := (cells.filter (fun c => (pa + c.1) / 128 == l)).map (fun c => ((pa + c.1) % 128, c.2))
    let r := acc.1.performWrite part 16 l .plain ws [] true false
    (r.1, max acc.2 r.2)) (s, 0)

/-- The lines that n bytes from an address lie on. -/
def runLines (pa n : Nat) : List Nat := rangeFrom (pa / 128) ((pa + n - 1) / 128 + 1 - pa / 128)

/-- The tokens of a peer's request: all its bytes at its port, and at each home slice those of the lines that live there (R39); none while it is
held. -/
def State.peerTokens (s : State) (device target pa n : Nat) : Option State :=
  (sortDedup ((runLines pa n).filterMap (s.homeOf target))).foldl (fun (acc : Option State) i =>
    acc.bind (fun t => t.takeTokens (.slice i) ((upTo n).filter (fun k => s.homeOf target ((pa + k) / 128) == some i)).length))
    (s.takeTokens (.port (s.podPort device (pa / 128)) target) n)

/-- POD_REQUEST_RECEIVE (R336, R373): refused, held at its port's or its home slices' buckets (R39) or by a bank of its lines (R436), or performed
in the export window. -/
def execPodRequestReceive (device sender target offset : Nat) (ask : PodAsk) (s : State) : Host.Outcome State Fault Refusal :=
  .next (
    if !s.admitsPeer device sender target offset ask then s.emit (.peerRefused device)
    else
      let pa := (s.part target).expBase + offset
      let n := podLen ask
      match (if (runLines pa n).any (s.bankHolds target) then none else s.peerTokens device target pa n) with
      | none => s
      | some t =>
        match ask with
        | .read n => (t.touchRun target pa n).emit (.peerData device (t.readRun target pa n) (t.runPoisoned target pa n))
        | .write bs poison =>
          let r := t.writeOutside target pa bs poison
          r.1.pend r.2 (t.homeDie target (pa / 128)) (some device) []
        | .scatter cells =>
          let r := t.writeCells target pa cells
          r.1.pend r.2 (t.homeDie target (pa / 128)) (some device) []
        | .atomic op operand swap => t.peerAtomic device target pa op operand swap (podLen ask))

end Sys2Proof.Machine
end

