-- ==== Sys2Proof/Machine/Streams.lean ====
section
/-! DEFINITION. Launch streams (R48 to R51): their start and stop, the reading of launch records, refusals and colophons (R25, R423 to
R425), and gates. -/

namespace Sys2Proof.Machine

/-- A page that the scheduler reaches in an address space: walked afresh, reachable and not in the pod range, with the permission it needs
(R50, R51, R204). -/
def State.schedPage (s0 : State) (part space va : Nat) (kind : AccessKind) : Option TlbEntry × State :=
  if 2 ^ 57 ≤ va then (none, s0)
  else
    let s := s0.readWalk part space va
    match s0.walk part space va with
    | .error _ => (none, s)
    | .ok e =>
      let p := s.part part
      if !p.reaches (e.pa va) then
        (none, if isBacked (e.pa va) && p.gone.testBit (groupOf (e.pa va)) then s.errorEvent part 0x0004 0xFFFF 0 (e.pa va) else s)
      else if isPod (e.pa va) || (kind == .write && !e.attr.writable) then (none, s)
      else (some e, s)

/-- The bytes of a launch's colophon (Table 23.1). -/
def Launch.colophonBytes (l : Launch) (status : Nat) : List Byte :=
  bytesLE 4 status ++ bytesLE 4 l.id ++ bytesLE 8 (l.started.getD l.endTime) ++ bytesLE 8 l.endTime ++ bytesLE 4 l.run ++
    bytesLE 4 l.restarted ++ bytesLE 4 l.saved ++ bytesLE 4 l.traps ++ bytesLE 4 l.spills ++ bytesLE 4 l.escalations ++
    bytesLE 4 l.position ++ bytesLE 2 l.stream ++ List.replicate 10 0

/-- Steps 3 and 4 of R423: the colophon written in one action at its line's home, then the notify interrupt; an unaligned or unwritable
address takes the error record of R25 instead. -/
def State.writeColophon (s : State) (lid status : Nat) : State :=
  match s.launch? lid with
  | none => s
  | some l =>
    let va := l.record.colophon
    let bad (s : State) : State := s.errorEvent l.part 0x0001 l.stream l.position va
    if va % 64 != 0 then bad s
    else
      match s.schedPage l.part l.space va .write with
      | (none, s1) => bad s1
      | (some e, s1) =>
        let pa := e.pa va
        let w := s1.performWrite l.part l.space (pa / 128) e.attr (mapIdx' (fun i b => (pa % 128 + i, b)) (l.colophonBytes status)) [] false
          false
        if l.record.notify then w.1.emit (.interrupt false l.part l.record.vector) else w.1

/-- The tokens that a launch's colophon takes at the slice it is written at (R39, R61): none while it is held there, or by a hold on its bank
(R436). -/
def State.colophonTokens (s : State) (lid : Nat) : Option State :=
  match s.launch? lid with
  | none => some s
  | some l =>
    match (s.schedPage l.part l.space l.record.colophon .write).1 with
    | none => some s
    | some e =>
      let line := e.pa l.record.colophon / 128
      if s.bankHolds l.part line then none else s.takeAll 64 (s.hostPoints l.part line)

/-- A launch that runs no block is refused: steps 3 and 4 of R423 at once (R25, R53), or, while its colophon is held at a bucket (R39), as
soon as it passes. -/
def State.refuse (s : State) (lid status : Nat) : State :=
  let now := s.leaseNow hubDie
  let s1 := s.modLaunch lid (fun l => { l with started := some now, endTime := now })
  match s1.colophonTokens lid with
  | some t => (t.writeColophon lid status).modLaunch lid (fun l => { l with stage := .retired })
  | none => s1.modLaunch lid (fun l => { l with stage := .ending status })

/-- The entry that watches a stream's tail cancelled. -/
def State.cancelTail (s : State) (part n : Nat) : State := s.dropEntries (fun e => e.owner == .tail part n)

/-- A stream stopped by an error (R50): error set, watching and enable cleared, and an error record written. -/
def State.stopStream (s : State) (part n code position addr : Nat) : State :=
  ((s.cancelTail part n).modStream part n (fun t => { t with error := true, watching := false, enable := false, wokeAt := none, reading := none })).errorEvent
    part code n position addr

/-- The order field of a stream's configuration and its serial bit (Table 2.6). -/
def cfgOrder (value : Nat) : Nat := bitsOf value 0 5
def cfgEnable (value : Nat) : Bool := bitOf value 5
def cfgSerial (value : Nat) : Bool := bitOf value 6

/-- The chg entry on a stream's tail word, at its home (R48, R50). -/
def State.watchTail (s : State) (part n pa : Nat) : State := s.register (.tail part n) part 8 true pa 0 0 0

/-- STREAM_START (R48): an STM_CFG write with enable 1 while the stream is not watched. Records that the control pair already shows are
read (R125): the scheduler is then awake at once, and the tail word is watched from that read on (log entry 29). -/
def execStreamStart (part stream value : Nat) (s : State) : Host.Outcome State Fault Refusal :=
  .next (
    let t := s.stream part stream
    if !s.writable || t.watching || !cfgEnable value then s
    else
      let s1 := s.modStream part stream (fun t => { t with order := cfgOrder value, serial := cfgSerial value, enable := true })
      let u := s1.stream part stream
      if !u.orderOk then s1
      else
        let s2 := s1.modStream part stream (fun t => { t with error := false })
        match s2.schedPage part u.space u.pair .write with
        | (none, s3) => s3.stopStream part stream 0x0002 (u.head % u.size) u.pair
        | (some e, s3) =>
          let pa := e.pa u.pair
          let s3 := s3.useLine part (pa / 128)
          let head := s3.homeNat part (pa + 8) 8
          let on (w : Option Nat) : State := s3.modStream part stream (fun t => { t with head := head, watching := true, wokeAt := w })
          if s3.homeNat part pa 8 = head then (on none).watchTail part stream pa else on (some s3.clock))

/-- STREAM_SERIAL_UPDATE (R48): an STM_CFG write with enable 1 while the stream is watched. -/
def execStreamSerialUpdate (part stream value : Nat) (s : State) : Host.Outcome State Fault Refusal :=
  .next (if s.writable && (s.stream part stream).watching && cfgEnable value then
    s.modStream part stream (fun t => { t with serial := cfgSerial value }) else s)

/-- STREAM_STOP (R48): an STM_CFG write with enable 0. -/
def execStreamStop (part stream value : Nat) (s : State) : Host.Outcome State Fault Refusal :=
  .next (if !s.writable || cfgEnable value then s
    else (s.cancelTail part stream).modStream part stream (fun t =>
      { t with order := cfgOrder value, serial := cfgSerial value, enable := false, watching := false, wokeAt := none, reading := none }))

/-- The next launch identifier (R425). -/
def nextLaunchId (n : Nat) : Nat := if n = 0xFFFFFFFF then 1 else n + 1

/-- A record read from a ring slot: a launch, refused when it is invalid (R25, R51, R425). -/
def State.takeRecord (s : State) (part n position : Nat) (bs : List Byte) : State :=
  let f := s.fresh
  let r := LaunchRecord.ofImage bs
  let l : Launch :=
    { placedLaunchBase with lid := f.1, id := (s.part part).nextId, part := part, space := (s.stream part n).space, stream := n,
                            position := position, record := r }
  let s1 := ({ f.2 with launches := f.2.launches ++ [l] }).modPart part (fun p => { p with nextId := nextLaunchId p.nextId })
  if recordReservedOk bs && r.valuesOk n then s1 else s1.refuse f.1 2
where
  /-- A launch of which nothing has happened yet. -/
  placedLaunchBase : Launch :=
    { lid := 0, id := 0, part := 0, space := 0, stream := 0, position := 0, record := LaunchRecord.ofImage [], stage := .queued, readyAt := 0,
      order := 0, nextLin := 0, retiredBlocks := 0, retiredLins := [], killing := none, started := none, endTime := 0, run := 0,
      restarted := 0, saved := 0, traps := 0, spills := 0, escalations := 0, maxLtc := 0, doneIssues := 0, doneBlocks := 0,
      pins := (0, 0, 0) }

/-- The head word advanced with a store at system scope (R50). -/
def State.advanceHead (s : State) (part n pair : Nat) (a : PageAttr) (head : Nat) : State :=
  let w := s.performWrite part (s.stream part n).space ((pair + 8) / 128) a
    (mapIdx' (fun i b => ((pair + 8) % 128 + i, b)) (bytesLE 8 head)) [] false false
  w.1.modStream part n (fun t => { t with head := head })

/-- The ring slot of a stream's next record: its virtual address. -/
def Stream.slotAddr (t : Stream) : Nat := t.ring + 128 * (t.head % t.size)

/-- The records that a stream's tail word at `pair` shows beyond its head (R50). -/
def State.unread (s : State) (part n pair : Nat) : Nat := (s.homeNat part pair 8 + 2 ^ 64 - (s.stream part n).head) % 2 ^ 64

/-- The reading of a stream's ring goes on with `left` records to come (R26, R50): the next one's slot is seen for the first time, or, with
none left, the tail word at `pair` is watched again, unless it has moved on since it was taken: the scheduler is then awake at once. A slot
that cannot be read stops the stream. -/
def State.nextRecord (s : State) (part n pair left : Nat) : State :=
  let t := s.stream part n
  if left = 0 then
    if s.unread part n pair = 0 then (s.modStream part n (fun t => { t with wokeAt := none, reading := none })).watchTail part n pair
    else s.modStream part n (fun t => { t with wokeAt := some s.clock, reading := none })
  else
    match s.schedPage part t.space t.slotAddr .read with
    | (none, s1) => s1.stopStream part n 0x0002 (t.head % t.size) t.slotAddr
    | (some e, s0) =>
      let s1 := s0.useLine part (e.pa t.slotAddr / 128)
      s1.modStream part n (fun t => { t with reading := some (left, words64 16 0 (s1.readRun part (e.pa t.slotAddr) 128)) })

/-- One record read (R26, R39, R50): each 8-byte word of its slot as it was first seen or as it stands, and the head word advanced. -/
def State.readRecord (s : State) (part n pair : Nat) (a : PageAttr) (left : Nat) (old : List (Nat × Nat)) : State :=
  let t := s.stream part n
  match s.schedPage part t.space t.slotAddr .read with
  | (none, s1) => s1.stopStream part n 0x0002 (t.head % t.size) t.slotAddr
  | (some e, s1) =>
    match (s1.takeAll 128 (s1.hostPoints part (e.pa t.slotAddr / 128))).bind (fun u => u.takeAll 8 (u.hostPoints part ((pair + 8) / 128))) with
    | none => s1
    | some s3 =>
      let s2 := s3.useLine part (e.pa t.slotAddr / 128)
      let bs := mixWords s2.draws old (words64 16 0 (s2.readRun part (e.pa t.slotAddr) 128))
      (({ s2 with draws := s2.draws + 16 }.takeRecord part n (t.head % t.size) bs).advanceHead part n pair a ((t.head + 1) % 2 ^ 64)).nextRecord
        part n pair (left - 1)

/-- Whether a woken stream is the next that the scheduler reads in its partition (R51): by the tick it woke in, then by number. -/
def State.firstWoken (s : State) (part n : Nat) : Bool :=
  match (s.stream part n).wokeAt with
  | none => false
  | some w => (foldIdx (fun ok i (t : Stream) => ok && (match t.wokeAt with
      | none => true
      | some v => decide (w < v) || (v == w && decide (n ≤ i)))) true 0 (s.part part).vf.streams)

/-- SCHEDULER_STREAM_READ (R50): a woken stream's records head to tail - 1 are read, one by one, and the tail word is watched again. While a
function-level reset ends the partition's launches, no record is read (R442). -/
def execSchedulerStreamRead (part stream : Nat) (s : State) : Host.Outcome State Fault Refusal :=
  .next (
    let t := s.stream part stream
    if s.device.fenced || !t.watching || !s.firstWoken part stream || (s.part part).vf.resetting then s
    else
      match s.schedPage part t.space t.pair .write with
      | (none, s1) => s1.stopStream part stream 0x0002 (t.head % t.size) t.pair
      | (some e, s1) =>
        let pa := e.pa t.pair
        match t.reading with
        | some (left, old) => s1.readRecord part stream pa e.attr left old
        | none =>
          let n := s1.unread part stream pa
          if t.size < n then s1.stopStream part stream 0x0003 (t.head % t.size) t.pair else s1.nextRecord part stream pa n)

/-- The launches read before another from the same stream. -/
def State.earlierOf (s : State) (l : Launch) : List Launch :=
  s.launches.filter (fun x => x.part == l.part && x.stream == l.stream && decide (x.lid < l.lid))

/-- Whether a launch has passed its gate. -/
def Stage.pastGate : Stage → Bool
  | .queued => false
  | .gated => false
  | _ => true

/-- Whether a launch has been admitted or refused. -/
def Stage.pastAdmission : Stage → Bool
  | .queued => false
  | .gated => false
  | .ready => false
  | _ => true

/-- Conditions 1 and 2 of R51 open to a queued launch: every record before it has passed its own gate, and, in a serial stream, retired. -/
def State.mayStart (s : State) (l : Launch) : Bool :=
  l.stage == .queued && (s.earlierOf l).all (fun p => p.stage.pastGate && (!(s.stream l.part l.stream).serial || p.stage == .retired))

/-- Launches with no gate become ready as soon as R51 lets them. -/
def State.promote (s : State) : State :=
  s.launches.foldl (fun (s : State) l =>
    match s.launch? l.lid with
    | none => s
    | some l => if s.mayStart l && !l.record.gateEnable && l.killing.isNone then
        s.modLaunch l.lid (fun x => { x with stage := .ready, readyAt := s.clock }) else s) s

/-- A gate that cannot be registered refuses its launch as an invalid record (R51). -/
def State.refuseGate (s : State) (l : Launch) : State :=
  (s.refuse l.lid 2).errorEvent l.part 0x0002 l.stream l.position l.record.gateAddr

/-- GATE_REGISTRATION (R39, R51). -/
def execGateRegistration (launch : Nat) (s : State) : Host.Outcome State Fault Refusal :=
  .next (
    match s.launch? launch with
    | none => s
    | some l =>
      if s.device.fenced || !s.mayStart l || !l.record.gateEnable || l.killing.isSome then s
      else
        match s.schedPage l.part l.space l.record.gateAddr .read with
        | (none, s1) => s1.refuseGate l
        | (some e, s1) =>
          let pa := e.pa l.record.gateAddr
          match s1.takeAll (if l.record.gateWide then 8 else 4) (s1.hostPoints l.part (pa / 128)) with
          | none => s1
          | some s2 =>
            if (s2.homeLine l.part (pa / 128)).2.2 then s2.refuseGate l
            else
              (s2.modLaunch launch (fun x => { x with stage := .gated })).register (.gate launch) l.part l.record.gateCond l.record.gateWide
                pa l.record.gateOperand 0 0)

end Sys2Proof.Machine
end

