-- ==== Sys2Proof/Machine/Place.lean ====
section
/-! DEFINITION. Admission and placement (R52 to R58), the choice of a pre-empted block's treatment (R411), and the choice of blocks to
pre-empt or to save for others (R56, R57). -/

namespace Sys2Proof.Machine

/-- What a core has in use, and its load (R54). -/
structure Room where
  core : Nat
  blocks : Nat
  scratch : Nat
  rows : Nat
  waves : List Nat
  bytes : List Nat
  load : Nat
  deriving DecidableEq, Repr

/-- A core with nothing on it. -/
def Room.empty (core : Nat) : Room := ⟨core, 0, 0, 0, [0, 0, 0, 0], [0, 0, 0, 0], 0⟩

/-- How many of a block's n waves stand in each quarter from a start quarter (R54). -/
def quarterWaves (n start : Nat) : List Nat := (upTo 4).map (fun q => n / 4 + (if (q + 4 - start % 4) % 4 < n % 4 then 1 else 0))

/-- The register bytes of a wave (R54). -/
def LaunchRecord.waveBytes (r : LaunchRecord) : Nat := r.vregs * r.width * 4

/-- A room with a block of a launch added. -/
def Room.add (m : Room) (r : LaunchRecord) (start load : Nat) : Room :=
  let q := quarterWaves r.waves start
  { m with blocks := m.blocks + 1, scratch := m.scratch + r.scratch, rows := m.rows + r.accRows
           waves := m.waves.zipWith (· + ·) q, bytes := m.bytes.zipWith (fun b n => b + n * r.waveBytes) q, load := m.load + load }

/-- Whether a room lies within what a core has (R54). -/
def Room.ok (m : Room) : Bool :=
  decide (m.blocks ≤ 8) && decide (m.scratch ≤ 1572864) && decide (m.rows ≤ 4096) && m.waves.all (fun n => decide (n ≤ 32)) &&
    m.bytes.all (fun n => decide (n ≤ 262144))

/-- The smallest start quarter at which a block fits (R54). -/
def Room.start? (m : Room) (r : LaunchRecord) : Option Nat := (upTo 4).find? (fun q => (m.add r q 0).ok)

/-- Whether a block stands on a core. -/
def Block.onCore (b : Block) : Bool := b.place == .resident || b.place == .saving

/-- The waves of a block that have not retired. -/
def Block.liveWaves (b : Block) : Nat := (b.waves.filter (fun w => !w.retired)).length

/-- The record of a block's launch. -/
def State.recordOf (s : State) (b : Block) : LaunchRecord := ((s.launch? b.launch).map (·.record)).getD (LaunchRecord.ofImage [])

/-- The cores of a set of cells. -/
def coresOf (cells : Nat) : List Nat := (membersOf 40 cells).flatMap (fun c => (upTo 4).map (fun k => 4 * c + k))

/-- The rooms of a set of cells, some blocks left out. -/
def State.rooms (s : State) (cells : Nat) (skip : Block → Bool) : List Room :=
  (coresOf cells).map (fun c =>
    (s.blocks.filter (fun b => b.onCore && b.core == c && !skip b)).foldl
      (fun m b => m.add (s.recordOf b) b.startQuarter b.liveWaves) (Room.empty c))

/-- A room inserted by load, then core number. -/
def insertRoom (x : Room × Nat) : List (Room × Nat) → List (Room × Nat)
  | [] => [x]
  | h :: t => if x.1.load < h.1.load || (x.1.load == h.1.load && decide (x.1.core ≤ h.1.core)) then x :: h :: t else h :: insertRoom x t

/-- The rooms that a block fits, each with its start quarter, by rising load and core (R55). -/
def fitting (rooms : List Room) (r : LaunchRecord) : List (Room × Nat) :=
  (rooms.filterMap (fun m => (m.start? r).map (fun q => (m, q)))).foldr insertRoom []

/-- The least-loaded fitting core; among those of least load the preferred one (R55). -/
def placeOne (rooms : List Room) (r : LaunchRecord) (pref : Option Nat) : Option (Nat × Nat) :=
  match fitting rooms r with
  | [] => none
  | x :: xs =>
    let best := (x :: xs).filter (fun y => y.1.load == x.1.load)
    match best.find? (fun y => some y.1.core == pref) with
    | some y => some (y.1.core, y.2)
    | none => some (x.1.core, x.2)

/-- The placements of n blocks in one cell, with the load they add up to. -/
def cellPlan (rooms : List Room) (r : LaunchRecord) (n cell : Nat) : Option (Nat × List (Nat × Nat)) :=
  let fit := (fitting (rooms.filter (fun m => m.core / 4 == cell)) r).take n
  if fit.length = n then some ((fit.map (·.1.load)).sum, fit.map (fun x => (x.1.core, x.2))) else none

/-- A cluster of n blocks placed whole in the cell of least summed load (R55). -/
def placeCluster (rooms : List Room) (r : LaunchRecord) (n : Nat) : Option (List (Nat × Nat)) :=
  let plans := (upTo 40).filterMap (cellPlan rooms r n)
  match plans with
  | [] => none
  | p :: ps => some (ps.foldl (fun a b => if b.1 < a.1 then b else a) p).2

/-- n blocks placed together: one by R55's first rule, several as a cluster. -/
def placeTogether (rooms : List Room) (r : LaunchRecord) (n : Nat) (pref : Option Nat) : Option (List (Nat × Nat)) :=
  if n = 1 then (placeOne rooms r pref).map (fun x => [x]) else placeCluster rooms r n

/-- Rooms with blocks planned on them. -/
def addPlanned (rooms : List Room) (r : LaunchRecord) (plan : List (Nat × Nat)) : List Room :=
  rooms.map (fun m => (plan.filter (fun p => p.1 == m.core)).foldl (fun m p => m.add r p.2 r.waves) m)

/-- Every cluster of a launch placed in turn on rooms (R53). -/
def placeAll (r : LaunchRecord) : (clusters : Nat) → List Room → Option (List (Nat × Nat))
  | 0, _ => some []
  | n + 1, rooms =>
    match placeTogether rooms r r.cluster none with
    | none => none
    | some p => (placeAll r n (addPlanned rooms r p)).map (p ++ ·)

/-- The cells on which a partition places blocks: not those that a resize is removing (R42). -/
def Partition.placeCells (p : Partition) : Nat := if p.state = 1 then p.cells &&& p.goal.1 else p.cells

/-- The cells that a resize in progress or deferred leaves (R45). -/
def Partition.keptCells (p : Partition) : Nat := if p.state = 0 then p.cells else p.cells &&& p.goal.1

/-- The bytes of a block's context image, rounded up (R416). -/
def LaunchRecord.imageBytes (r : LaunchRecord) : Nat :=
  let n := 65536 + 4096 * r.waves + (9 * r.vregs / 2 + 16) * r.width * r.waves + r.scratch + r.scratch / 64 + 2048 * r.accRows
  (n + 65535) / 65536 * 65536

/-- Whether a block's image takes room in the save area: saved, being saved, or chosen to be. -/
def Block.inSaveArea (b : Block) : Bool := b.place == .saved || b.treatment == some .save

/-- Whether a partition's save area has room for an image (R411, R415). -/
def State.saveRoom (s : State) (part n : Nat) : Bool :=
  let p := s.part part
  let used := ((s.blocks.filter (fun b => b.inSaveArea && ((s.launch? b.launch).map (·.part)).getD 16 == part)).map
    (fun b => (s.recordOf b).imageBytes)).sum
  decide (0 < p.psaveSize) && p.ownsRange p.psaveBase (65536 * p.psaveSize) && decide (used + n ≤ 65536 * p.psaveSize)

/-- Whether a block has a Chafer operation outstanding (R377). -/
def State.chaferOpen (s : State) (uid : Nat) : Bool := s.engOps.any (fun e => e.engine == .chafer && e.uid == uid)

/-- The treatment of a pre-empted block (R411). -/
def State.chooseTreatment (s : State) (b : Block) : Treatment :=
  match s.launch? b.launch with
  | none => .drain
  | some l =>
    let p := s.part l.part
    let n := l.doneBlocks
    let total := l.doneIssues
    let i := b.issued
    let elapsed := b.elapsed + (s.clock - b.since)
    let known := decide (8 ≤ n) && decide (0 < total)
    let nearEnd := decide (9 * total ≤ 10 * i * n) || (decide (0 < i) && decide ((total - i * n) * elapsed ≤ p.deadline * (i * n)))
    let mayFlush := l.record.idempotent && !s.chaferOpen b.uid
    if !l.record.savable && !l.record.idempotent then .drain
    else if known && nearEnd then .drain
    else if mayFlush && ((known && decide (10 * i * n < total)) || decide (p.psaveBudget < l.record.imageBytes)) then .flush
    else if l.record.savable && s.saveRoom l.part l.record.imageBytes then .save
    else if mayFlush then .flush
    else .drain

/-- A block pre-empted: its treatment is chosen once (R411), and a drain counts. -/
def State.preempt (s : State) (uid : Nat) : State :=
  match s.block? uid with
  | none => s
  | some b =>
    if b.treatment.isSome || b.place != .resident then s
    else
      let t := s.chooseTreatment b
      let s1 := s.modBlock uid (fun b => { b with treatment := some t })
      if t == .drain then
        s1.modPart (((s.launch? b.launch).map (·.part)).getD 0) (fun p => { p with cntDrain := wrap64 (p.cntDrain + 1) })
      else s1

/-- Several blocks pre-empted. -/
def State.preemptAll (s : State) (uids : List Nat) : State := uids.foldl State.preempt s

/-- The priority of a block's launch. -/
def State.priorityOf (s : State) (b : Block) : Nat := ((s.launch? b.launch).map (·.record.priority)).getD 0

/-- A block inserted in the order of R57: lowest priority first, then the most recently placed. -/
def State.insertVictim (s : State) (x : Block) : List Block → List Block
  | [] => [x]
  | h :: t =>
    if s.priorityOf x < s.priorityOf h || (s.priorityOf x == s.priorityOf h && decide (h.placed ≤ x.placed)) then x :: h :: t
    else h :: s.insertVictim x t

/-- The first blocks of a list, in order, without which a block fits a core's room; `gone` are out already. -/
def State.removeUntil (s : State) (r : LaunchRecord) (room : List Nat → Room) : List Block → List Nat → Option (List Nat)
  | [], gone => if ((room gone).start? r).isSome then some gone else none
  | v :: vs, gone => if ((room gone).start? r).isSome then some gone else s.removeUntil r room vs (gone ++ [v.uid])

/-- Blocks that need not go taken back, the last chosen first (R57: no block is pre-empted that need not be removed). -/
def keepNeeded (r : LaunchRecord) (room : List Nat → Room) : List Nat → List Nat → List Nat
  | [], out => out
  | x :: xs, out =>
    let rest := out.filter (· != x)
    keepNeeded r room xs (if ((room rest).start? r).isSome then rest else out)

/-- The blocks of lower priority that R57 removes from a core so that a block fits, none when no removal would do. Blocks on their way off
the core count as gone. -/
def State.victimsOn (s : State) (r : LaunchRecord) (gone : List Nat) (plan : List (Nat × Nat)) (core : Nat) : Option (List Nat) :=
  let leaving (b : Block) : Bool := b.treatment.isSome || b.place != .resident || gone.contains b.uid
  let room (out : List Nat) : Room :=
    (plan.filter (fun p => p.1 == core)).foldl (fun m p => m.add r p.2 r.waves)
      ((s.blocks.filter (fun b => b.onCore && b.core == core && !leaving b && !out.contains b.uid)).foldl
        (fun m b => m.add (s.recordOf b) b.startQuarter b.liveWaves) (Room.empty core))
  let vs := (s.blocks.filter (fun b => b.onCore && b.core == core && !leaving b && decide (s.priorityOf b < r.priority))).foldr
    s.insertVictim []
  (s.removeUntil r room vs []).map (fun out => keepNeeded r room out.reverse out)

/-- The blocks that R57 pre-empts so that n blocks fit together: of the lowest-numbered core, or of n cores of the lowest-numbered cell,
that will do, first the cores on which nothing need go. -/
def State.victims (s : State) (cells : Nat) (r : LaunchRecord) (n : Nat) (gone : List Nat) (plan : List (Nat × Nat)) : Option (List Nat) :=
  let on (c : Nat) : Option (List Nat) := s.victimsOn r gone plan c
  if n = 1 then (coresOf cells).findSome? on
  else
    (membersOf 40 cells).findSome? (fun cell =>
      let able := (upTo 4).filterMap (fun k => on (4 * cell + k))
      let fits := (able.filter List.isEmpty ++ able.filter (fun vs => !vs.isEmpty)).take n
      if fits.length = n then some fits.flatten else none)

/-- Whether a block waits whole, from a tick known (R56). -/
def Block.waitsWhole (b : Block) : Bool := b.place == .resident && b.treatment.isNone && b.waitSince.isSome

/-- The longest-waiting of some blocks. -/
def longestWaiting : List Block → Option Block
  | [] => none
  | b :: bs => some (bs.foldl (fun a x => if x.waitSince.getD 0 < a.waitSince.getD 0 then x else a) b)

/-- R56: the longest-waiting block of a launch chosen to be saved for its unplaced ones. -/
def State.saveWaiting (s : State) (l : Launch) : State :=
  if l.record.coresident || !l.record.savable then s
  else
    match longestWaiting (s.blocks.filter (fun b => b.launch == l.lid && b.waitsWhole)) with
    | none => s
    | some b => if s.saveRoom l.part l.record.imageBytes then s.modBlock b.uid (fun x => { x with treatment := some .save }) else s

/-- The blocks of a block's cluster that live (R55). -/
def State.clusterOf (s : State) (b : Block) (c : Nat) : List Block :=
  s.blocks.filter (fun x => x.launch == b.launch && x.lin / c == b.lin / c)

/-- A block inserted by its linear identifier. -/
def insertByLin (x : Block) : List Block → List Block
  | [] => [x]
  | h :: t => if x.lin ≤ h.lin then x :: h :: t else h :: insertByLin x t

/-- Which blocks go together when a saved or restarted block is placed again, on which cores they may stand, and which core is preferred
(R55): with a resident partner the block alone in the partner's cell, else the whole cluster anew. -/
def State.returnGroupOf (s : State) (b : Block) (cells : Nat) : List Block × List Nat × Option Nat :=
  let c := (s.recordOf b).cluster
  let pref := if b.place == .saved then some b.core else none
  if c ≤ 1 then ([b], coresOf cells, pref)
  else
    match (s.clusterOf b c).filter Block.onCore with
    | [] => (((s.clusterOf b c).filter (fun x => !x.onCore)).foldr insertByLin [], coresOf cells, pref)
    | p :: ps => ([b], (coresOf cells).filter (fun k => k / 4 == p.core / 4 && (p :: ps).all (fun x => x.core != k)), pref)

/-- Where a saved or restarted block returns (R55, R413): each block that goes with it with its core and start quarter. -/
def State.returnPlan (s : State) (b : Block) : Option (List (Nat × Nat × Nat)) :=
  match s.launch? b.launch with
  | none => none
  | some l =>
    let cells := (s.part l.part).placeCells
    let g := s.returnGroupOf b cells
    let rooms := (s.rooms cells (fun _ => false)).filter (fun m => g.2.1.contains m.core)
    if (s.part l.part).slices = 0 then none
    else (placeTogether rooms l.record g.1.length g.2.2).map (fun p => (g.1.zip p).map (fun x => (x.1.uid, x.2.1, x.2.2)))

/-- Whether a block of the same or a higher priority is on the wake list of a partition, and goes first (R355). -/
def State.wakeFirst (s : State) (part prio : Nat) : Bool :=
  s.blocks.any (fun b => b.place == .saved && b.woken.isSome && decide (prio ≤ s.priorityOf b) &&
    ((s.launch? b.launch).map (fun l => l.part == part && l.killing.isNone)).getD false)

/-- The HBM4E stack of a partition's save area (R36, R62). -/
def Partition.saveStack (p : Partition) : Nat := groupOf p.psaveBase / 8

/-- The partition of a block. -/
def State.partOfBlock (s : State) (b : Block) : Nat := ((s.launch? b.launch).map (·.part)).getD 16

/-- The saves in flight towards a stack (R62). -/
def State.savesTo (s : State) (stack : Nat) : Nat :=
  (s.blocks.filter (fun b => b.place == .saving && b.treatment == some .save && (s.part (s.partOfBlock b)).saveStack == stack)).length

/-- Whether a save or a restore of a block may begin (R62): fewer than 40 in flight towards the stack, and no change of its data rate
pending. -/
def State.stackOpen (s : State) (b : Block) : Bool :=
  let k := (s.part (s.partOfBlock b)).saveStack
  decide (s.savesTo k < 40) && !s.device.ratePending.testBit k

/-- Whether every saved block of a plan may be restored now (R62). -/
def State.planOpen (s : State) (plan : List (Nat × Nat × Nat)) : Bool :=
  plan.all (fun p => ((s.block? p.1).map (fun b => b.place != .saved || s.stackOpen b)).getD true)

/-- The least block handle that no live block of a partition holds (R340). -/
def State.freeHandle (s : State) (part : Nat) : Nat :=
  let used := (s.blocks.filter (fun b => b.place != .unplaced && ((s.launch? b.launch).map (·.part)).getD 16 == part)).map (·.handle)
  ((upTo (used.length + 1)).find? (fun h => !used.contains h)).getD 0

/-- The pack places of a launch that waves hold in a quarter of a core (R58), each as pack * (64 / W) + its place in the pack. -/
def State.packPlaces (s : State) (lid core quarter : Nat) : List Nat :=
  (s.blocks.filter (fun b => b.launch == lid && b.onCore && b.core == core)).flatMap (fun b =>
    (mapIdx' (fun j (w : Wave) => if (b.startQuarter + j) % 4 == quarter && !w.retired then [w.pack * (64 / w.width) + w.packPos / w.width] else [])
      b.waves).flatten)

/-- Waves seated in packs one by one from a quarter on (R58); `taken` holds the places in use in each quarter. -/
def seatWaves (width : Nat) : (quarter : Nat) → List (List Nat) → List Wave → List Wave
  | _, _, [] => []
  | q, taken, w :: ws =>
    let mine := taken.getD (q % 4) []
    let n := ((upTo (mine.length + 1)).find? (fun k => !mine.contains k)).getD 0
    let per := 64 / width
    { w with pack := n / per, packPos := n % per * width } :: seatWaves width (q + 1) (setAt taken (q % 4) (n :: mine)) ws

/-- A block's waves seated on the core it goes to. -/
def State.seat (s : State) (b : Block) (core start width : Nat) : List Wave :=
  seatWaves width start ((upTo 4).map (fun q => s.packPlaces b.launch core q)) b.waves

/-- What retired blocks have left on a core is gone once another block is placed there (R422). -/
def State.clearRemains (s : State) (core : Nat) : State := { s with remains := s.remains.filter (fun b => b.core != core) }

/-- A new block of a launch placed on a core (R17, R54). -/
def State.startBlock (s : State) (l : Launch) (lin core start : Nat) : State :=
  let f := (s.clearRemains core).fresh
  let g := f.2.fresh
  let b := Block.atLaunch l.record f.1 l.lid lin (s.freeHandle l.part) core start g.1 s.clock
  { g.2 with blocks := g.2.blocks ++ [{ b with waves := s.seat b core start l.record.width }] }

/-- Consecutive blocks of a launch placed at the cores of a plan. -/
def State.startBlocks (s : State) (lid : Nat) : (lin : Nat) → List (Nat × Nat) → State
  | _, [] => s
  | lin, p :: ps =>
    match s.launch? lid with
    | none => s
    | some l => ((s.startBlock l lin p.1 p.2).modLaunch lid (fun x => { x with nextLin := lin + 1 })).startBlocks lid (lin + 1) ps

/-- A block that was flushed starts again on a core (R414): it takes a handle as a new block does. -/
def State.restartBlock (s : State) (uid core start : Nat) : State :=
  match s.block? uid with
  | none => s
  | some b =>
    let r := s.recordOf b
    let part := ((s.launch? b.launch).map (·.part)).getD 0
    let f := (s.clearRemains core).fresh
    let n := { Block.atLaunch r uid b.launch b.lin (s.freeHandle part) core start f.1 s.clock with everIssued := b.everIssued }
    f.2.modBlock uid (fun _ => { n with waves := s.seat n core start r.width })

/-- A wave whose timing state starts at zero, as a restored one's does (R102). -/
def Wave.freshTiming (w : Wave) : Wave := { w with lanes := w.lanes.map (fun l => { l with starve := 0 }), fairPos := 0 }

/-- The engine operations of a block that moves to a core go on there, behind those that stand there (R276, R292, R413). -/
def State.moveEngOps (s : State) (uid core : Nat) : State :=
  { s with engOps := s.engOps.filter (fun e => e.uid != uid) ++
      (s.engOps.filter (fun e => e.uid == uid)).map (fun e => { e with core := core }) }

/-- A saved block stands on a core again as it was saved, and its suspended commands resume there (R292, R413). -/
def State.restoreBlock (s : State) (uid core start : Nat) : State :=
  match s.block? uid with
  | none => s
  | some b =>
    let r := s.recordOf b
    let f := ((s.clearRemains core).moveEngOps uid core).fresh
    f.2.modBlock uid (fun x => { x with place := .resident, core := core, startQuarter := start, placed := f.1, since := s.clock, woken := none,
                                        treatment := none, waitSince := none, saveUnits := [],
                                        waves := (s.seat b core start r.width).map Wave.freshTiming })

/-- Blocks returned to cores, each saved one restored and each discarded one started again. -/
def State.returnBlocks (s : State) (plan : List (Nat × Nat × Nat)) : State :=
  plan.foldl (fun (s : State) p =>
    match s.block? p.1 with
    | none => s
    | some b => if b.place == .saved then s.restoreBlock p.1 p.2.1 p.2.2 else if b.place == .unplaced then s.restartBlock p.1 p.2.1 p.2.2 else s) s

/-- Whether a block of a launch is on its way to be saved. -/
def State.savingOne (s : State) (l : Launch) : Bool :=
  s.blocks.any (fun b => b.launch == l.lid && b.onCore && b.treatment == some .save)

/-- What a block or cluster of n that fits nowhere brings about: lower-priority blocks are pre-empted (R57), or a waiting block of its launch
is saved (R56), also while blocks that were pre-empted before have still to leave: a drain may never end. -/
def State.makeWay (s : State) (l : Launch) (n : Nat) : State :=
  match s.victims (s.part l.part).placeCells l.record n [] [] with
  | some vs => if !vs.isEmpty then s.preemptAll vs else if s.savingOne l then s else s.saveWaiting l
  | none => s.saveWaiting l

/-- What a saved or discarded block that fits nowhere brings about: for one member of a cluster with a resident partner nothing is pre-empted
(R57), but a waiting block of the launch is saved (R56). -/
def State.makeWayBack (s : State) (l : Launch) (b : Block) : State :=
  if decide (1 < l.record.cluster) && (s.clusterOf b l.record.cluster).any Block.onCore then s.saveWaiting l
  else s.makeWay l (s.returnGroupOf b (s.part l.part).placeCells).1.length

/-- The pre-emptions that a waiting co-resident launch brings about so that all its clusters fit (R53, R57). -/
def State.makeWayAll (s : State) (l : Launch) (cells : Nat) : (clusters : Nat) → List (Nat × Nat) → List Nat → Option (List Nat)
  | 0, _, gone => some gone
  | n + 1, plan, gone =>
    let leaving (b : Block) : Bool := b.treatment.isSome || b.place != .resident || gone.contains b.uid
    match placeTogether (addPlanned (s.rooms cells leaving) l.record plan) l.record l.record.cluster none with
    | some p => s.makeWayAll l cells n (plan ++ p) gone
    | none =>
      match s.victims cells l.record l.record.cluster gone plan with
      | none => none
      | some vs =>
        let gone2 := gone ++ vs
        let leaving2 (b : Block) : Bool := b.treatment.isSome || b.place != .resident || gone2.contains b.uid
        match placeTogether (addPlanned (s.rooms cells leaving2) l.record plan) l.record l.record.cluster none with
        | some p => s.makeWayAll l cells n (plan ++ p) gone2
        | none => none

/-- Whether a ready launch may be admitted, as R52 and R53 stand: the launches before it in its stream are past admission. -/
def State.admissible (s : State) (l : Launch) : Bool :=
  l.stage == .ready && l.killing.isNone && (s.earlierOf l).all (fun p => p.stage.pastAdmission)

/-- The clusters of a launch. -/
def LaunchRecord.clusters (r : LaunchRecord) : Nat := r.blocks / r.cluster

/-- The test of R53 for a co-resident launch on the empty cells that a pending resize leaves. -/
def State.couldReside (s : State) (l : Launch) : Bool :=
  (placeAll l.record l.record.clusters ((coresOf (s.part l.part).keptCells).map Room.empty)).isSome

/-- Where all blocks of a co-resident launch can be placed at once now (R53). -/
def State.residePlan (s : State) (l : Launch) : Option (List (Nat × Nat)) :=
  let p := s.part l.part
  if p.slices = 0 then none else placeAll l.record l.record.clusters (s.rooms p.keptCells (fun _ => false))

/-- Whether a launch is taken for admission now: a co-resident one that passes its test waits until it can be placed whole (R53), behind the
wake list (R355). -/
def State.takenNow (s : State) (l : Launch) : Bool :=
  s.admissible l && (!l.record.coresident || !s.couldReside l ||
    ((s.residePlan l).isSome && !s.wakeFirst l.part l.record.priority))

/-- The order of R51 among launches ready at once: priority, then readiness, then stream. -/
def Launch.rank (l : Launch) : List Nat := [7 - l.record.priority, l.readyAt, l.stream]

/-- LAUNCH_ADMIT (R51 to R53): in the order of R51; a co-resident launch is refused, or admitted with all its blocks placed and its
resources pinned (R45). -/
def execLaunchAdmit (launch : Nat) (s : State) : Host.Outcome State Fault Refusal :=
  .next (
    match s.launch? launch with
    | none => s
    | some l =>
      if s.device.fenced || !s.takenNow l || s.launches.any (fun x => x.part == l.part && x.lid != l.lid && s.takenNow x &&
          rankLe x.rank l.rank && x.rank != l.rank) then s
      else
        let f := s.fresh
        let admitted := f.2.modLaunch launch (fun x => { x with stage := .admitted, order := f.1 })
        if !l.record.coresident then admitted
        else if !s.couldReside l then s.refuse launch 3
        else
          match s.residePlan l with
          | none => s
          | some plan =>
            let p := s.part l.part
            let cells := plan.foldl (fun m x => m ||| 2 ^ (x.1 / 4)) 0
            (admitted.modLaunch launch (fun x => { x with pins := (cells, p.slices, p.groups) })).startBlocks launch 0 plan)

/-- Whether blocks may be placed for a launch. -/
def State.places (s : State) (l : Launch) : Bool :=
  !s.device.fenced && l.killing.isNone && (s.part l.part).slices != 0

/-- The next blocks of an admitted launch placed, a cluster whole and in rising linear identifier, or way made for them (R52, R55 to R57). While
a woken block goes first (R355), nothing is placed or pre-empted for them. -/
def State.placeNext (s : State) (l : Launch) (lin : Nat) : State :=
  if lin != l.nextLin || decide (l.record.blocks ≤ lin) then s
  else
    match placeTogether (s.rooms (s.part l.part).placeCells (fun _ => false)) l.record l.record.cluster none with
    | some plan => if s.wakeFirst l.part l.record.priority then s else s.startBlocks l.lid lin plan
    | none => if s.wakeFirst l.part l.record.priority then s.saveWaiting l else s.makeWay l l.record.cluster

/-- BLOCK_PLACE (R52, R54 to R57, R414): the next blocks of a launch, or a block that was flushed; for a co-resident launch that waits, the
pre-emptions it needs (R53). -/
def execBlockPlace (launch lin : Nat) (s : State) : Host.Outcome State Fault Refusal :=
  .next (
    match s.launch? launch with
    | none => s
    | some l =>
      if !s.places l then s
      else if l.record.coresident && s.admissible l then
        if s.couldReside l && (s.residePlan l).isNone then
          s.preemptAll ((s.makeWayAll l (s.part l.part).keptCells l.record.clusters [] []).getD [])
        else s
      else if l.stage != .admitted then s
      else
        match s.blocks.find? (fun b => b.launch == launch && b.lin == lin && b.place == .unplaced) with
        | some b =>
          let first := s.wakeFirst l.part l.record.priority
          match s.returnPlan b with
          | some plan => if first || !s.planOpen plan then s else s.returnBlocks plan
          | none => if first then s.saveWaiting l else s.makeWayBack l b
        | none => s.placeNext l lin)

end Sys2Proof.Machine
end

