-- ==== Sys2Proof/Machine/Preempt.lean ====
section
/-! DEFINITION. What becomes of a pre-empted or killed block: saves and restores (R412, R413), flushes (R414) and discards (R401); handler
waves (R395); and the retirement of a launch (R423). -/

namespace Sys2Proof.Machine

/-- Whether a wave is one of a block. -/
def ofBlock (uid : Nat) (r : WaveRef) : Bool :=
  match r with
  | .blk u _ => u == uid
  | .hdl _ _ => false

/-- The lines and granules that an engine operation reads, a convened one's included. -/
def EngOp.allSources (e : EngOp) : List (Bool × Nat) :=
  e.sources ++ (if e.engine == .platen && e.op != 6 then e.matrixSources else [])

/-- Whether an engine operation waits for a granule to become full, and for nothing else that a save waits for (R284, R292, R313). -/
def State.waitsFull (s : State) (e : EngOp) : Bool :=
  e.opts.wf && e.stage == 0 && e.started.isNone && e.allSources.any (fun u => !u.1 && (e.captured u).isNone &&
    !((s.block? e.uid).map (fun b => b.granuleFull u.2)).getD true)

/-- Whether an operation cannot finish while another of its block is suspended: complete, it is counted out after it in its wave's order (R280,
R302); else it waits for its accumulator rows (R298), or signals for its wave's earlier commands (R271). -/
def EngOp.behind (e x : EngOp) : Bool :=
  e.engine == x.engine &&
    ((e.engine == .platen && e.stage == 0 && rowsMeet e.rows x.rows) ||
      ((e.stage != 0 || (e.engine == .compositor && e.op == 8)) && e.waves.any (fun w => x.waves.any (fun v => v.1 == w.1))))

/-- The operations of a block that a save suspends (R292, R305, R319): those that wait for full granules, and those behind them. -/
def State.suspended (s : State) (uid : Nat) : List EngOp :=
  (s.engOps.filter (fun e => e.uid == uid && e.engine != .chafer)).foldl (fun acc e =>
    if s.waitsFull e || acc.any (fun x => e.behind x) then acc ++ [e] else acc) []

/-- Whether an operation of memory may go on without its wave's block (R412): a hint only. -/
def MemKind.isHint : MemKind → Bool
  | .prefetch _ => true
  | _ => false

/-- Whether what R412 lists under step 2 has finished for a block. -/
def State.atRest (s : State) (uid : Nat) : Bool :=
  s.memOps.all (fun o => !ofBlock uid o.wave || o.kind.isHint) &&
    (s.suspended uid).length == (s.engOps.filter (fun e => e.uid == uid && e.engine != .chafer)).length

/-- No instruction of a block's waves issues any more (R412, step 1). -/
def State.stopBlock (s : State) (uid : Nat) : State := (s.parkBlock uid).modBlock uid (fun b => { b with place := .saving })

/-- Whether a memory operation is a registration on its way. -/
def MemKind.isWait : MemKind → Bool
  | .wait _ _ _ => true
  | .ringWait _ => true
  | _ => false

/-- Lanes of a wave taken out of every wait of theirs: a wait that loses its last lane is cancelled (R357, R412). -/
def State.endWaits (s : State) (r : WaveRef) (ls : List Nat) : State :=
  match s.wave? r with
  | none => s
  | some w =>
    let s1 := w.groups.foldl (fun (s : State) g => s.leaveGroup r g.group ls) s
    let left := ((s1.wave? r).map (fun v => v.groups.map (·.group))).getD []
    let s2 := s1.dropEntries (fun e => (e.owner == .wave r || e.owner == .ring r) && !left.contains e.group)
    { s2 with
      memOps := (s2.memOps.filter (fun o => !(o.wave == r && o.kind.isWait) || left.contains o.groupNo)).map (fun o =>
        if o.wave == r && o.kind.isWait then
          { o with groups := o.groups.map (fun g => { g with lanes := g.lanes.filter (fun l => !ls.contains l.lane) }) }
        else o) }

/-- A lane whose handling has been cancelled awaits a handler again. -/
def Lane.awaitAgain (x : Lane) : Lane :=
  match x.trap with
  | none => x
  | some i =>
    match i.phase with
    | .handled _ _ _ => { x with trap := some { i with phase := .awaiting } }
    | _ => x

/-- The handling of every lane of a block cancelled (R412, step 3): its handler lanes end, and their effects so far stand. -/
def State.cancelHandling (s : State) (uid : Nat) : State :=
  match s.block? uid with
  | none => s
  | some b =>
    let s1 := (upTo 4).foldl (fun (s : State) q =>
      let r : WaveRef := .hdl b.core q
      match s.wave? r with
      | none => s
      | some w =>
        let ls := w.lanesWhere (fun x => x.origin.map (·.uid) == some uid && !x.isGone)
        if ls.isEmpty then s else (s.endWaits r ls).exitLanes r ls) s
    s1.modBlock uid (fun b => { b with waves := b.waves.map (fun w => { w with lanes := w.lanes.map Lane.awaitAgain }) })

/-- Whether a saved block has something to do: an active lane, one whose registers may be full by now, or one that awaits a handler. -/
def Block.mayRun (b : Block) : Bool :=
  b.waves.any (fun w => w.lanes.any (fun x =>
    match x.state with
    | .active => true
    | .waitReg _ => true
    | .trapped => x.trap.map (·.phase) == some .awaiting
    | _ => false))

/-- The units of a partition's save area that no image takes, in rising order. -/
def State.freeUnits (s : State) (part : Nat) : List Nat :=
  let used := (s.blocks.filter (fun b => s.partOfBlock b == part)).flatMap (·.saveUnits)
  (upTo (s.part part).psaveSize).filter (fun u => !used.contains u)

/-- The bytes of an image written to units of the save area (R412, step 4); what they are is the device's own (R416). -/
def State.writeImage (s : State) (part : Nat) (units : List Nat) : State :=
  units.foldl (fun (s : State) u =>
    (({ s with draws := s.draws + 65536 } : State).writeRun part ((s.part part).psaveBase + 65536 * u) .plain
      ((upTo 65536).map (fun k => Config.saveByte (s.draws + k)))).1) s

/-- Steps 3 to 5 of R412: handling cancelled, the image written and the core's resources freed. -/
def State.finishSave (s : State) (b : Block) : State :=
  let part := s.partOfBlock b
  let units := (s.freeUnits part).take ((s.recordOf b).imageBytes / 65536)
  let s1 := ((s.cancelHandling b.uid).writeImage part units).modBlock b.uid (fun x =>
    { x with place := .saved, treatment := none, elapsed := x.elapsed + (s.clock - x.since), waitSince := none, woken := none
             saveUnits := units })
  let s2 := (s1.modLaunch b.launch (fun l => { l with saved := sat32 (l.saved + 1) })).modPart (s.partOfBlock b) (fun p =>
    { p with cntSave := wrap64 (p.cntSave + 1) })
  if ((s2.block? b.uid).map Block.mayRun).getD false then s2.wake (.blk b.uid 0) else s2

/-- BLOCK_SAVE (R412): the block stops issuing; once what it has in flight has finished, it is saved. -/
def execBlockSave (uid : Nat) (s : State) : Host.Outcome State Fault Refusal :=
  .next (
    match s.block? uid with
    | none => s
    | some b =>
      if b.treatment != some .save || s.device.fenced then s
      else if b.place == .resident then (if s.stackOpen b then s.stopBlock uid else s)
      else if b.place == .saving && s.atRest uid then s.finishSave b
      else s)

/-- BLOCK_RESTORE (R355, R413): a block of the wake list returns to a core, or way is made for it. -/
def execBlockRestore (uid : Nat) (s : State) : Host.Outcome State Fault Refusal :=
  .next (
    match s.block? uid with
    | none => s
    | some b =>
      match s.launch? b.launch with
      | none => s
      | some l =>
        if b.place != .saved || b.woken.isNone || !s.places l then s
        else
          match s.returnPlan b with
          | some plan => if s.planOpen plan then s.returnBlocks plan else s
          | none => s.makeWayBack l b)

/-- Whether a memory operation goes on when its wave is discarded: its writes stand, and an append finishes (R127, R414). -/
def MemKind.outlives : MemKind → Bool
  | .store | .storeMx => true
  | .atomic _ _ _ => true
  | .ratom _ _ => true
  | .append _ _ _ _ => true
  | _ => false

/-- A memory operation that returns nothing. -/
def MemKind.silent : MemKind → MemKind
  | .atomic sub wide _ => .atomic sub wide false
  | .ratom sub _ => .ratom sub false
  | k => k

/-- The operations of a discarded block's waves: what writes goes on under the key of no block, the rest is dropped. -/
def State.orphan (s : State) (uid dead waves : Nat) : State :=
  let go (o : MemOp) : List MemOp :=
    if !ofBlock uid o.wave then [o]
    else
      let p := { o with wave := .blk dead (waveIndex o.wave), kind := o.kind.silent }
      let done := match p.kind with
        | .append _ _ _ _ => false
        | _ => p.answered
      if !o.kind.outlives || (done && !p.counted) then [] else [{ p with ended := p.ended || done }]
  let s1 := { s with memOps := s.memOps.flatMap go }
  (upTo waves).foldl (fun (s : State) w => State.drainMem (.blk dead w) s.memOps.length s) s1

/-- Whether the convened Platen operations that a discard waits for are still to complete (R305). -/
def State.convenedOpen (s : State) (uid : Nat) : Bool :=
  let held := (s.suspended uid).map (·.id)
  s.engOps.any (fun e => e.uid == uid && e.engine == .platen && e.op != 6 && e.stage == 0 && !held.contains e.id)

/-- A block discarded (R401, R414): its entries, commands and handling are cancelled, its greatest `ltc` is kept with the launch, its writes
stand. With `restart` it waits to start again; otherwise it is gone. -/
def State.discard (s : State) (uid : Nat) (restart : Bool) : State :=
  match s.block? uid with
  | none => s
  | some b =>
    let f := ((s.parkBlock uid).cancelHandling uid).fresh
    let s1 : State := f.2
    let mine (e : Entry) : Bool := match e.owner with
      | .wave r => ofBlock uid r
      | .ring r => ofBlock uid r
      | _ => false
    let s1a := s1.dropEntries mine
    let s2 : State := { s1a with
      engOps := s1a.engOps.filter (fun (e : EngOp) => e.uid != uid || e.engine == Engine.chafer) }
    let s3 := s2.modLaunch b.launch (fun l => { l with maxLtc := (b.waves.map (fun (w : Wave) => w.ltc)).foldl max l.maxLtc })
    let s4 := s3.orphan uid f.1 b.waves.length
    if restart then
      s4.modBlock uid (fun _ =>
        { Block.atLaunch (s.recordOf b) uid b.launch b.lin b.handle b.core b.startQuarter b.placed s.clock with
          place := .unplaced, everIssued := b.everIssued })
    else { s4 with blocks := s4.blocks.filter (fun x => x.uid != uid) }

/-- BLOCK_FLUSH (R414): the block stops; once its convened operations have completed it is discarded, to start again. -/
def execBlockFlush (uid : Nat) (s : State) : Host.Outcome State Fault Refusal :=
  .next (
    match s.block? uid with
    | none => s
    | some b =>
      if b.treatment != some .flush || s.device.fenced || s.chaferOpen uid then s
      else
        let s1 := if b.place == .resident then s.stopBlock uid else s
        if s1.convenedOpen uid then s1
        else
          ((s1.discard uid true).modLaunch b.launch (fun l => { l with restarted := sat32 (l.restarted + 1) })).modPart (s.partOfBlock b)
            (fun p => { p with cntRestart := wrap64 (p.cntRestart + 1) }))

/-- A launch that is to end (R401, R442): no further block of it is placed, and a gate it waits for is cancelled. -/
def State.killLaunch (s : State) (lid status : Nat) : State :=
  match s.launch? lid with
  | none => s
  | some l =>
    if l.killing.isSome || (match l.stage with | .ending _ => true | .retired => true | _ => false) then s
    else
      (s.dropEntries (fun e => e.owner == EntryOwner.gate lid)).modLaunch lid (fun l => { l with killing := some status })

/-- A block of a killed launch stopped and, once its Chafer operations and convened operations have ended, discarded (R401). -/
def State.killBlock (s : State) (b : Block) : State :=
  let s1 := if b.place == .resident then s.stopBlock b.uid else s
  if s1.chaferOpen b.uid || s1.convenedOpen b.uid then s1 else s1.discard b.uid false

/-- A lane that awaits a handler, ordered by the time of its trap, then by block handle, wave and home lane (R395). -/
structure Awaiting where
  launch : Nat
  origin : Origin
  rank : List Nat
  deriving DecidableEq, Repr

/-- A waiting trap inserted in the order of R395. -/
def insertAwaiting (x : Awaiting) : List Awaiting → List Awaiting
  | [] => [x]
  | h :: t => if rankLe x.rank h.rank then x :: h :: t else h :: insertAwaiting x t

/-- The lanes that await a handler on a core, in the order of R395. -/
def State.awaitingOn (s : State) (core : Nat) : List Awaiting :=
  ((s.blocks.filter (fun b => b.place == .resident && b.core == core)).flatMap (fun b =>
    (mapIdx' (fun w (v : Wave) => (mapIdx' (fun l (x : Lane) =>
      match x.trap with
      | some i => if x.state == .trapped && i.phase == .awaiting then
          [(⟨b.launch, ⟨b.uid, w, l⟩, [i.time, b.handle, w, l]⟩ : Awaiting)] else []
      | none => []) v.lanes).flatten) b.waves).flatten)).foldr insertAwaiting []

/-- HANDLER_WAVE_FORM (R395). -/
def execHandlerWaveForm (core quarter : Nat) (s : State) : Host.Outcome State Fault Refusal :=
  .next (
    match s.awaitingOn core with
    | [] => s
    | a :: _ =>
      let taken := ((s.awaitingOn core).filter (fun x => x.launch == a.launch)).take 64
      match s.launch? a.launch with
      | none => s
      | some la =>
        if s.device.fenced || decide (4 ≤ quarter) || ((s.core core).handlers.getD quarter none).isSome then s
        else
          match la.record.entryOfTraps with
          | none => s
          | some entry =>
            let w := Wave.atLaunch 64 16 16 taken.length entry false
            let w1 := { w with lanes := mapIdx' (fun i (x : Lane) => { x with origin := (taken[i]?).map (·.origin) }) w.lanes }
            let s1 := s.modCore core (fun k => { k with handlers := setAt k.handlers quarter (some ⟨a.launch, w1⟩) })
            foldIdx (fun (s : State) i (x : Awaiting) =>
              s.modLane (.blk x.origin.uid x.origin.wave) x.origin.lane (fun y =>
                { y with trap := y.trap.map (fun t => { t with phase := .handled core quarter i }) })) s1 0 taken)

/-- The replicas that a launch's hinted accesses made invalidated in its partition's slices (R240). -/
def State.dropReplicas (s : State) (part id : Nat) : State :=
  (sliceList (s.part part).slices).foldl (fun (s : State) i =>
    ((s.slice i).tags.filter (fun t => t.state == .replica && t.launch == id)).foldl (fun (s : State) t => s.evict i t) s) s

/-- The prefetches of a launch that are still in flight dropped as it retires, so that none makes a replica that no retirement drops: the spec
does not say what becomes of them (R240, R269; DESIGN CHOICE, log entry 80). -/
def State.dropPrefetches (s : State) (lid : Nat) : State :=
  { s with memOps := s.memOps.filter (fun o => !(o.launch == lid && (match o.kind with | .prefetch _ => true | _ => false))) }

/-- Whether a launch has memory operations or handler waves that can still raise its greatest `ltc` (R423). -/
def State.launchBusy (s : State) (lid : Nat) : Bool :=
  s.memOps.any (fun o => o.launch == lid && o.kind.outlives) ||
    s.cores.any (fun c => c.handlers.any (fun h => (h.map (·.launch)) == some lid))

/-- LAUNCH_RETIRE (R423): after the last block, once the lease clock has passed the greatest `ltc` of the launch's waves. -/
def execLaunchRetire (launch : Nat) (s : State) : Host.Outcome State Fault Refusal :=
  .next (
    match s.launch? launch with
    | none => s
    | some l =>
      match l.stage with
      | .ending status =>
        if s.device.fenced || s.launchBusy launch || decide (s.leaseNow hubDie ≤ l.maxLtc) then s
        else
          match ((s.dropPrefetches launch).dropReplicas l.part l.id).colophonTokens launch with
          | none => s
          | some t => (t.writeColophon launch status).modLaunch launch (fun x => { x with stage := .retired })
      | _ => s)

end Sys2Proof.Machine
end

