-- ==== Sys2Proof/Machine/Resize.lean ====
section
/-! DEFINITION. Resizing a partition (R41 to R45, R203, R358) and its bucket registers (R40). -/

namespace Sys2Proof.Machine

/-- A set without the members of another. -/
def setMinus (a b : Nat) : Nat := a ^^^ (a &&& b)

/-- A command of a partition's configuration ends or is refused with a result: the notify interrupt follows (R41). -/
def State.pcfgResult (s : State) (part result : Nat) (notify : Bool) (vector : Nat) : State :=
  let s1 := s.modPart part (fun p => { p with result := result })
  if notify then s1.emit (.interrupt true 0 vector) else s1

/-- Whether another partition owns something that a partition's NEXT sets name (R41). -/
def State.pcfgConflict (s : State) (part : Nat) : Bool :=
  let p := s.part part
  (upTo 16).any (fun q => q != part &&
    ((s.part q).cells &&& p.nextCells != 0 || (s.part q).slices &&& p.nextSlices != 0 || (s.part q).groups &&& p.nextGroups != 0))

/-- Whether an admitted co-resident launch pins something that the resize would remove (R45). -/
def State.pinned (s : State) (part : Nat) : Bool :=
  let p := s.part part
  s.launches.any (fun l => l.part == part && (match l.stage with
      | .admitted => true
      | .ending _ => true
      | _ => false) &&
    (l.pins.1 &&& setMinus p.cells p.goal.1 != 0 || l.pins.2.1 &&& setMinus p.slices p.goal.2.1 != 0 ||
      l.pins.2.2 &&& setMinus p.groups p.goal.2.2 != 0))

/-- The lines of a slice whose home is another after its partition's slice set changes, evicted; a slice that leaves keeps nothing
(R43). -/
def State.unhome (s : State) (part i : Nat) (leaves : Bool) : State :=
  let out := (s.slice i).tags.filter (fun t => leaves || (t.state != .replica && s.homeOf part t.line != some i))
  out.foldl (fun (s : State) t => s.evict i t) s

/-- An entry handed to the home that its word has now (R43, R358), which takes a watched host line under CXL.cache (R359). -/
def State.rehomeEntry (s : State) (e : Entry) : State :=
  let line := e.addr / 128
  let s1 := match e.place with
    | .slice i => if s.homeOf e.part line = some i then s else s.placeEntry e
    | .spilled => s.watchLine e.part line
    | .held => s
  if isHost e.addr then s1.fillLine e.part 16 line .plain false else s1

/-- A partition's slice set changed: lines whose home changes leave the galleys, and their leases, entries and filter marks go to the new
homes (R43, R236, R358). The new homes' eviction floors take the latest expiry handed on. -/
def State.setSlices (s : State) (part new : Nat) : State :=
  let old := (s.part part).slices
  let s1 := s.modPart part (fun p => { p with slices := new, sc := if old = 0 then .zero else p.sc })
  let s2 := (sliceList old).foldl (fun (s : State) i => s.unhome part i (!new.testBit i)) s1
  let olds := (sliceList old).map (fun i => s2.slice i)
  let floor := (olds.map (·.floor)).foldl max 0
  let filter := sortDedup (olds.flatMap (·.filter))
  let touched := sortDedup (olds.flatMap (·.touched))
  let s3 := (sliceList new).foldl (fun (s : State) i => s.modSlice i (fun k =>
    { k with floor := max k.floor floor, filter := filter, touched := touched })) s2
  let s4 := (sliceList (setMinus old new)).foldl (fun (s : State) i => s.modSlice i (fun k => { Slice.reset with bucket := k.bucket })) s3
  (s4.entries.filter (fun e => e.part == part)).foldl (fun (s : State) e => s.rehomeEntry e) s4

/-- A partition's resize ends when nothing is left to remove (R41). -/
def State.finishResize (s : State) (part : Nat) : State :=
  let p := s.part part
  if p.state = 1 && setMinus p.cells p.goal.1 == 0 && setMinus p.slices p.goal.2.1 == 0 && setMinus p.groups p.goal.2.2 == 0 then
    (s.modPart part (fun p => { p with state := 0 })).pcfgResult part 0 p.cmdNotify p.cmdVector
  else s

/-- The blocks that stand on a set of cells. -/
def State.blocksOn (s : State) (part cells : Nat) : List Nat :=
  (s.blocks.filter (fun b => b.place == .resident && s.partOfBlock b == part && cells.testBit (b.core / 4))).map (·.uid)

/-- The removals of a resize begin: every block on a departing core is pre-empted (R42). -/
def State.beginRemovals (s : State) (part : Nat) : State :=
  let s1 := s.modPart part (fun p => { p with state := 1 })
  let p := s1.part part
  (s1.preemptAll (s1.blocksOn part (setMinus p.cells p.goal.1))).finishResize part

/-- A resize that no conflict stops: resources named and not owned are added at once, and the removals begin, or wait for the launches that
pin what they would remove (R41, R45). A core or slice that is added brings its bucket's level with it, and from its last account on it has
accrued at the new owner's rate: the spec says nothing of that level (DESIGN CHOICE, log entry 5). -/
def State.startResize (s : State) (part : Nat) : State :=
  let p := s.part part
  let s1 := s.modPart part (fun p =>
    { p with goal := (p.nextCells, p.nextSlices, p.nextGroups), cells := p.cells ||| p.nextCells, groups := p.groups ||| p.nextGroups
             gone := setMinus p.gone p.nextGroups })
  let s2 := if setMinus p.nextSlices p.slices = 0 then s1 else s1.setSlices part (p.slices ||| p.nextSlices)
  if s2.pinned part then (s2.modPart part (fun p => { p with state := 2 })).pcfgResult part 5 p.cmdNotify p.cmdVector
  else s2.beginRemovals part

/-- A write of PCFG_CMD (R41, Table 2.2). A refused command changes nothing but the result. -/
def State.pcfgCmd (s : State) (path : Master) (part value : Nat) : State :=
  if !s.ownerPath path || decide (16 ≤ part) then s
  else
    let p := s.part part
    let notify := bitOf value 10
    let vector := bitsOf value 4 6
    let stored := s.modPart part (fun p => { p with cmdNotify := notify, cmdVector := vector })
    match bitsOf value 0 4 with
    | 1 =>
      if p.state != 0 then s.pcfgResult part 4 notify vector
      else if s.pcfgConflict part then stored.pcfgResult part 1 notify vector
      else stored.startResize part
    | 2 =>
      if p.state = 2 then (stored.modPart part (fun p => { p with state := 0 })).pcfgResult part 2 notify vector
      else s.pcfgResult part 3 notify vector
    | _ => s.pcfgResult part 3 notify vector

/-- PCFG_RESIZE (R41). -/
def execPcfgResize (path : Master) (part value : Nat) (s : State) : Host.Outcome State Fault Refusal := .next (s.pcfgCmd path part value)

/-- PCFG_CANCEL (R41). -/
def execPcfgCancel (path : Master) (part value : Nat) (s : State) : Host.Outcome State Fault Refusal := .next (s.pcfgCmd path part value)

/-- A deferred resize proceeds once nothing pins what it removes (R45). -/
def State.resumeResize (s : State) : State :=
  (upTo 16).foldl (fun (s : State) p => if (s.part p).state = 2 && !s.pinned p then s.beginRemovals p else s) s

/-- Whether nothing stands on a cell's cores any more. -/
def State.cellEmpty (s : State) (cell : Nat) : Bool :=
  (upTo 4).all (fun k => !s.blocks.any (fun b => b.onCore && b.core == 4 * cell + k) &&
    (s.core (4 * cell + k)).handlers.all (fun h => h.isNone))

/-- A core that holds nothing of its old partition any more. -/
def Core.cleared (k : Core) : Core := { k with l1 := [], tlb := [], code := [], lastIssue := List.replicate 4 none }

/-- CELL_REMOVAL (R42): departing cells leave once their last block has left. -/
def execCellRemoval (part : Nat) (s : State) : Host.Outcome State Fault Refusal :=
  .next (
    let p := s.part part
    if p.state != 1 then s
    else
      let out := (membersOf 40 (setMinus p.cells p.goal.1)).filter s.cellEmpty
      let s1 := s.modPart part (fun p => { p with cells := setMinus p.cells (maskOf out) })
      ((coresOf (maskOf out)).foldl (fun (s : State) c => (s.modCore c Core.cleared).clearRemains c) s1).finishResize part)

/-- The latest expiry that a slice still accounts for. -/
def Slice.lastLease (k : Slice) : Nat := (k.tags.map (·.lease)).foldl max k.floor

/-- SLICE_REMOVAL (R43). The last slice of a partition has no home to hand its leases to: it leaves once they have run out. -/
def execSliceRemoval (part slice : Nat) (s : State) : Host.Outcome State Fault Refusal :=
  .next (
    let p := s.part part
    if p.state != 1 || !(setMinus p.slices p.goal.2.1).testBit slice then s
    else
      let new := setMinus p.slices (2 ^ slice)
      if new = 0 && decide (s.leaseNow (dieOfSlice slice) ≤ (s.slice slice).lastLease) then s
      else (s.setSlices part new).finishResize part)

/-- Whether a line lies in a channel group. -/
def inGroup (group line : Nat) : Bool := decide (128 * line < 2 ^ 39) && groupOf (128 * line) == group

/-- Whether a page overlaps a channel group. -/
def TlbEntry.inGroup (e : TlbEntry) (group : Nat) : Bool :=
  decide (e.pbase < (group + 1) * 2 ^ 33) && decide (group * 2 ^ 33 < e.pbase + 2 ^ e.sizeLog)

/-- Whether [a, a + n) meets a channel group. -/
def spanInGroup (group a n : Nat) : Bool := decide (0 < n) && decide (a < (group + 1) * 2 ^ 33) && decide (group * 2 ^ 33 < a + n)

/-- The physical runs of its own export window that a Chafer command reads or writes: its box there and its signal words (R382, R383,
R389). -/
def State.windowSpans (s : State) (e : EngOp) : List (Nat × Nat) :=
  match e.ring with
  | none => []
  | some r =>
    let p := s.part e.part
    let own := r.target == r.group.own
    let reach (t : Option Desc) : Nat := (t.map Desc.reach).getD 0
    let box := if isCollective e.op || (e.op == 1 && own) then reach e.t1 else if e.op = 2 && own then reach e.t2 else 0
    let words := if isCollective e.op then (if e.opts.sig then 8 * r.group.members.length else 0)
      else if own && (e.opts.sig || e.op == 3) then 8 else 0
    [(p.expBase, box), (p.expBase + r.sigOff, words)]

/-- Whether an engine operation may still access a channel group (R44): through its pages until it has read and written what they hold, and a
Chafer command through its own window until it has ended. -/
def State.engInGroup (s : State) (e : EngOp) (group : Nat) : Bool :=
  let paged := e.stage == 0 || (e.engine == .chafer && e.stage != 3 && (!e.pend.isEmpty || (e.op == 2 && e.stage == 1)))
  (paged && e.pages.any (fun t => t.inGroup group)) ||
    (e.engine == .chafer && e.stage != 3 && (s.windowSpans e).any (fun x => spanInGroup group x.1 x.2))

/-- Whether an access of a partition to a channel group is in flight (R44): an append until it has ended. -/
def State.channelBusy (s : State) (part group : Nat) : Bool :=
  s.memOps.any (fun o => o.part == part && (match o.kind with | .ratom _ _ => false | _ => true) &&
    o.groups.any (fun g => (!g.performed || (o.kind.isAppend && !o.ended)) && inGroup group g.line)) ||
    s.engOps.any (fun e => e.part == part && s.engInGroup e group)

/-- Every byte of a channel group zero, payload and side (R203). -/
def State.zeroGroup (s : State) (group : Nat) : State :=
  { s with
    mem := s.mem.filter (fun c => !inGroup group (c.1 / 128))
    side := s.side.filter (fun c => !inGroup group (c.1 / 16))
    poisonMem := s.poisonMem.filter (fun l => !inGroup group l) }

/-- An entry on a line of a removed group removed; the lanes that it serves trap at their wait (R358). -/
def State.groupEntry (s : State) (e : Entry) : State :=
  let s1 := s.dropEntry e
  let out (r : WaveRef) : State :=
    match (s1.wave? r).bind (fun w => w.groups.find? (fun g => g.group == e.group)) with
    | none => s1
    | some g =>
      let s2 := s1.leaveGroup r g.group g.lanes
      (g.lanes.foldl (fun (s : State) l =>
        match s.lane? r l with
        | none => s
        | some x => s.takeTrap r l x.vpc x.slot 0x09 4 g.va) s2).wake r
  match e.owner with
  | .wave r => out r
  | .ring r => out r
  | _ => s1

/-- CHANNEL_GROUP_REMOVAL (R44, R203, R212, R358): every cached translation into the group goes, whichever partition's it is. -/
def execChannelGroupRemoval (part group : Nat) (s : State) : Host.Outcome State Fault Refusal :=
  .next (
    let p := s.part part
    if p.state != 1 || !(setMinus p.groups p.goal.2.2).testBit group || s.channelBusy part group then s
    else
      let s1 := (sliceList p.slices).foldl (fun (s : State) i =>
        ((s.slice i).tags.filter (fun t => inGroup group t.line)).foldl (fun (s : State) t => s.evict i t) s) s
      let keep (t : TlbEntry) : Bool := !t.inGroup group
      let s2 : State := { s1 with
        slices := s1.slices.map (fun k => { k with tlb := k.tlb.filter keep })
        cores := s1.cores.map (fun k => { k with
          l1 := k.l1.filter (fun x => x.part != part || !inGroup group x.line)
          code := k.code.filter (fun x => x.part != part || !inGroup group x.line)
          tlb := k.tlb.filter keep }) }
      let s3 := (s2.zeroGroup group).modPart part (fun p =>
        { p with groups := setMinus p.groups (2 ^ group), gone := p.gone ||| 2 ^ group })
      ((s3.entries.filter (fun e => e.part == part && inGroup group (e.addr / 128))).foldl (fun (s : State) e => s.groupEntry e) s3).finishResize
        part)

/-- The fields of a bucket register that are stored (Table 2.4). -/
def bucketFields (value : Nat) : Nat := bitsOf value 0 24 + 2 ^ 32 * bitsOf value 32 16

/-- BUCKET_WRITE (R39, R40), for the register at offset 0x040, 0x048 or 0x050 of a partition's block. -/
def execBucketWrite (path : Master) (part reg value : Nat) (s : State) : Host.Outcome State Fault Refusal :=
  .next (
    if !s.ownerPath path || decide (16 ≤ part) then s
    else
      let v := bucketFields value
      let mine (p : BucketPoint) : Bool := pointIndex p == (reg - 0x40) / 8
      let s1 := ((s.pointsOf part).filter mine).foldl (fun (s : State) p => s.settleBucket v p) s
      s1.modPart part (fun p =>
        if reg = 0x40 then { p with bktCore := v } else if reg = 0x48 then { p with bktSlice := v }
        else if reg = 0x50 then { p with bktPort := v } else p))

end Sys2Proof.Machine
end

