-- ==== Sys2Proof/Machine/Vf.lean ====
section
/-! DEFINITION. Commands through a virtual function's windows: shootdowns (R210, R211), the Stereotype snapshot (R242), lost counts (R46),
host monitors (R360), and the posts that end an escalation (R400, R401). -/

namespace Sys2Proof.Machine

/-- Whether a write to a partition's window takes effect. -/
def State.vfWritable (s : State) (part : Nat) : Bool := s.writable && decide (part < 16)

/-- Whether [a, a + n) meets the range of a shootdown; a length of 0 covers the whole space. -/
def Shootdown.meets (d : Shootdown) (a n : Nat) : Bool := d.len == 0 || (decide (a < d.base + d.len) && decide (d.base < a + n))

/-- The cached translations of a partition's space that overlap a shootdown invalidated (R211, step 1). -/
def State.shootTlbs (s : State) (part : Nat) (d : Shootdown) : State :=
  let keep (t : TlbEntry) : Bool := !(t.part == part && t.space == d.space && d.meets t.vbase (2 ^ t.sizeLog))
  { s with
    cores := s.cores.map (fun k => { k with tlb := k.tlb.filter keep })
    slices := s.slices.map (fun k => { k with tlb := k.tlb.filter keep }) }

/-- SHOOTDOWN_START (R210, R211): a write of SD_CMD. -/
def execShootdownStart (part value : Nat) (s : State) : Host.Outcome State Fault Refusal :=
  .next (
    let v := (s.part part).vf
    let reserved := bitsOf value 17 15 != 0 || bitsOf value 4 2 != 0
    let bad := bitsOf value 0 4 != 1 || reserved || v.sdBase % 65536 != 0 || v.sdLen % 65536 != 0 || decide (2 ^ 57 < v.sdBase + v.sdLen)
    if !s.vfWritable part then s
    else if bad then s.modVF part (fun v => { v with sdResult := 1 })
    else if v.shootdown.isSome then s.modVF part (fun v => { v with sdResult := 2 })
    else
      let d : Shootdown := ⟨v.sdBase, v.sdLen, bitsOf value 6 4, s.next⟩
      (s.modVF part (fun v => { v with shootdown := some d, sdNotify := bitOf value 16, sdVector := bitsOf value 10 6, sdSpace := d.space })).shootTlbs
        part d)

/-- Whether a memory operation writes at an address translated in a shootdown's range and is not yet performed (R211, R127). -/
def State.opInShootdown (s : State) (d : Shootdown) (o : MemOp) : Bool :=
  let hits (g : OpGroup) : Bool := g.lanes.any (fun l => d.meets l.va (max 1 l.size))
  decide (o.id < d.upTo) && (match o.kind with
    | .append _ _ _ _ =>
      (((s.launch? o.launch).map (·.space)).getD 16 == d.space && (o.groups.take 1).any hits) || (o.space == d.space && (o.groups.drop 1).any hits)
    | .store | .storeMx => o.space == d.space && o.groups.any (fun g => !g.performed && hits g)
    | .atomic _ _ _ => o.space == d.space && o.groups.any (fun g => !g.performed && hits g)
    | _ => false)

/-- The virtual addresses that an engine operation writes through pages, each with a length: a collective writes its own window alone, whose
addresses no page translates (R382). -/
def EngOp.destSpans (e : EngOp) : List (Nat × Nat) :=
  match e.t1 with
  | none => []
  | some d =>
    if d.scratch then []
    else
      match e.engine with
      | .compositor => d.touches (e.destPlace d) d.items
      | .platen => if e.op = 6 && !e.opts.dirIn then d.touches (e.acpyPlace d) d.items else []
      | .chafer => if e.op = 2 then d.touches d.zeroPlace d.items else []

/-- Whether an engine operation has still to write in a shootdown's range (R211): `cget` writes its local box last (R383). -/
def EngOp.inShootdown (e : EngOp) (d : Shootdown) : Bool :=
  decide (e.id < d.upTo) && e.space == d.space &&
    (e.stage == 0 || (e.engine == .chafer && (e.stage == 1 || !e.pend.isEmpty) && e.stage != 3)) &&
    e.destSpans.any (fun x => d.meets x.1 x.2)

/-- SHOOTDOWN_COMPLETE (R211, steps 2 and 3). -/
def execShootdownComplete (part : Nat) (s : State) : Host.Outcome State Fault Refusal :=
  .next (
    let v := (s.part part).vf
    match v.shootdown with
    | none => s
    | some d =>
      if s.memOps.any (fun o => o.part == part && s.opInShootdown d o) || s.engOps.any (fun e => e.part == part && e.inShootdown d) then s
      else
        let s1 := s.modVF part (fun v => { v with shootdown := none, sdResult := 0 })
        if v.sdNotify then s1.emit (.interrupt false part v.sdVector) else s1)

/-- The gauges and counters of Table 10.3 over the slices of a partition, at one lease tick (R242). -/
def State.snapshot (s : State) (part : Nat) : ScCounters :=
  let tags := (sliceList (s.part part).slices).flatMap (fun i => (s.slice i).tags)
  let plates := ((sliceList (s.part part).slices).map (fun i => (s.slice i).plates.length)).sum
  { (s.part part).sc with
    time := s.leaseNow hubDie
    tags := (tags.filter (fun t => t.state != .replica)).length
    plates := plates
    blank := (tags.filter (fun t => t.plate.isNone)).length
    replicas := (tags.filter (fun t => t.state == .replica)).length }

/-- SC_SNAP (R242): a write of SC_CTL. -/
def execScSnap (part value : Nat) (s : State) : Host.Outcome State Fault Refusal :=
  .next (if s.vfWritable part && bitOf value 0 then s.modVF part (fun v => { v with snap := s.snapshot part }) else s)

/-- QUEUE_LOST_CLEAR (Table 2.5): any written 1 clears the whole count. -/
def execQueueLostClear (part : Nat) (fault : Bool) (value : Nat) (s : State) : Host.Outcome State Fault Refusal :=
  .next (
    if !s.vfWritable part || value % 2 ^ 32 = 0 then s
    else s.modVF part (fun v => if fault then { v with fq := { v.fq with lost := 0 } } else { v with eq := { v.eq with lost := 0 } }))

/-- A host monitor of a partition (Table 16.6). -/
def State.monitor (s : State) (part m : Nat) : Monitor := (s.part part).vf.monitors.getD m .reset

/-- The state with a host monitor passed through `f`. -/
def State.modMonitor (s : State) (part m : Nat) (f : Monitor → Monitor) : State :=
  s.modVF part (fun v => { v with monitors := modifyAt v.monitors m f })

/-- The fields of HM_CTL stored (Table 16.6). -/
def Monitor.control (x : Monitor) (value : Nat) : Monitor :=
  { x with vector := bitsOf value 12 6, space := bitsOf value 8 4, cond := bitsOf value 4 4, wide := bitOf value 3 }

/-- A monitor that cannot be armed: its error bit and its vector (R360). -/
def State.monitorError (s : State) (part m : Nat) : State :=
  (s.modMonitor part m (fun x => { x with error := true })).emit (.interrupt false part (s.monitor part m).vector)

/-- HM_ARM (R360): a write of HM_CTL with arm 1. -/
def execHmArm (part monitor value : Nat) (s : State) : Host.Outcome State Fault Refusal :=
  .next (
    if !s.vfWritable part || !bitOf value 0 || (s.monitor part monitor).armed || decide (16 ≤ monitor) then s
    else
      let s1 := s.modMonitor part monitor (fun x => x.control value)
      let x := s1.monitor part monitor
      if 9 < x.cond || x.addr % (if x.wide then 8 else 4) != 0 then s1.monitorError part monitor
      else
        match s1.schedPage part x.space x.addr .read with
        | (none, s2) => s2.monitorError part monitor
        | (some e, s2) =>
          (s2.modMonitor part monitor (fun x => { x with armed := true })).register (.monitor part monitor) part x.cond x.wide (e.pa x.addr)
            x.operand 0 0)

/-- HM_DISARM (R360): a write of HM_CTL with arm 0; an armed monitor's entry is cancelled without firing. -/
def execHmDisarm (part monitor value : Nat) (s : State) : Host.Outcome State Fault Refusal :=
  .next (
    if !s.vfWritable part || bitOf value 0 then s
    else
      (s.dropEntries (fun e => e.owner == EntryOwner.monitor part monitor)).modMonitor part monitor
        (fun x => { x.control value with armed := false }))

/-- HM_STATUS_CLEAR (Table 16.6): written 1s clear error and fired. -/
def execHmStatusClear (part monitor value : Nat) (s : State) : Host.Outcome State Fault Refusal :=
  .next (
    if !s.vfWritable part then s
    else s.modMonitor part monitor (fun x => { x with error := x.error && !bitOf value 2, fired := x.fired && !bitOf value 1 }))

/-- A post's result in FR_STATUS (R400). -/
def State.postResult (s : State) (part result : Nat) : State := s.modVF part (fun v => { v with frStatus := result })

/-- A post to the escalated lane that FR_SERIAL names (R400, R401). -/
def State.post (s : State) (part : Nat) (act : Origin → TrapInfo → State → State) : State :=
  if !s.vfWritable part then s
  else
    match s.escalatedLane part (s.part part).vf.frSerial with
    | none => s.postResult part 1
    | some (o, i) => (act o i s).postResult part 0

/-- REPLAY (R401, op 1). -/
def execReplay (part : Nat) (s : State) : Host.Outcome State Fault Refusal := .next (s.post part (fun o i s => s.replayLane o i))

/-- An escalated lane made exited (R118, R401). -/
def State.killLane (s : State) (o : Origin) : State :=
  (s.modLane (.blk o.uid o.wave) o.lane (fun x => { x with state := .exited, trap := none })).wake (.blk o.uid o.wave)

/-- KILL_LANE (R401, op 2). -/
def execKillLane (part : Nat) (s : State) : Host.Outcome State Fault Refusal := .next (s.post part (fun o _ s => s.killLane o))

/-- KILL_LAUNCH (R401, op 3). -/
def execKillLaunch (part : Nat) (s : State) : Host.Outcome State Fault Refusal :=
  .next (s.post part (fun o _ s => s.killLaunch (((s.block? o.uid).map (·.launch)).getD 0) 4))

/-- REPLAY_RANGE (R401, op 4). -/
def execReplayRange (part : Nat) (s : State) : Host.Outcome State Fault Refusal :=
  .next (
    let v := (s.part part).vf
    let escalated (i : TrapInfo) : Bool := match i.phase with | .escalated _ => true | _ => false
    if !s.vfWritable part then s
    else if 2 ^ 57 ≤ v.frBase || 2 ^ 57 < v.frBase + v.frLen then s.postResult part 2
    else
      let ls := s.trappedLanes part (fun i => escalated i && i.cause == 0x08 && decide (v.frBase ≤ i.addr) && decide (i.addr < v.frBase + v.frLen))
      (ls.foldl (fun (s : State) x => s.replayLane x.1 x.2) s).postResult part 0)

end Sys2Proof.Machine
end

