-- ==== Sys2Proof/Machine/Registers.lean ====
section
/-! DEFINITION. The register windows (R4, R5, R38, R46, R429, R443): what each register reads, and a write to a register that has no
behaviour of its own. -/

namespace Sys2Proof.Machine

/-- A register: its offset, its bytes, its value, and whether it is read only. -/
structure Reg where
  offset : Nat
  bytes : Nat
  value : Nat
  ro : Bool
  deriving DecidableEq, Repr

/-- A flag as a bit at a position. -/
def flagAt (b : Bool) (i : Nat) : Nat := if b then 2 ^ i else 0

/-- The registers of a partition's configuration block (Tables 2.1, 5.2, 9.3, 16.5, 18.2, 20.7). -/
def Partition.regs (p : Partition) : List Reg :=
  [⟨0x000, 8, p.cells, true⟩, ⟨0x008, 8, p.slices, true⟩, ⟨0x010, 8, p.groups, true⟩, ⟨0x018, 8, p.nextCells, false⟩,
    ⟨0x020, 8, p.nextSlices, false⟩, ⟨0x028, 8, p.nextGroups, false⟩, ⟨0x030, 4, flagAt p.cmdNotify 10 + 16 * p.cmdVector, false⟩,
    ⟨0x034, 4, 16 * p.result + p.state, true⟩, ⟨0x038, 4, p.deadline, false⟩, ⟨0x040, 8, p.bktCore, false⟩, ⟨0x048, 8, p.bktSlice, false⟩,
    ⟨0x050, 8, p.bktPort, false⟩, ⟨0x060, 8, p.cntFormed, true⟩, ⟨0x068, 8, p.cntSplit, true⟩] ++
  [⟨0x070, 8, p.hostBase, false⟩, ⟨0x078, 8, p.hostLimit, false⟩, ⟨0x080, 8, p.mspBase, false⟩, ⟨0x088, 4, p.mspSize, false⟩,
    ⟨0x090, 8, p.mcntSpill, true⟩, ⟨0x098, 8, p.mcntHeld, true⟩, ⟨0x0A0, 8, p.mcntTimeout, true⟩, ⟨0x0B0, 8, p.psaveBase, false⟩,
    ⟨0x0B8, 4, p.psaveSize, false⟩, ⟨0x0BC, 4, p.psaveBudget, false⟩, ⟨0x0C0, 8, p.cntDrain, true⟩, ⟨0x0C8, 8, p.cntSave, true⟩,
    ⟨0x0D0, 8, p.cntRestart, true⟩] ++
  [⟨0x100, 4, p.podCtl, false⟩, ⟨0x108, 8, p.podMap, false⟩, ⟨0x110, 8, p.podExpBase, false⟩, ⟨0x118, 8, p.podExpSize, false⟩,
    ⟨0x120, 8, p.podFaults, true⟩, ⟨0x128, 4, 0, false⟩]

/-- The registers of a fault or error queue (Table 2.5). -/
def Ring.regs (q : Ring) (o : Nat) : List Reg :=
  [⟨o, 8, q.base, false⟩, ⟨o + 8, 4, q.cfg, false⟩, ⟨o + 12, 4, q.prod, true⟩, ⟨o + 16, 4, q.cons, false⟩, ⟨o + 20, 4, q.lost, false⟩]

/-- The registers of a launch stream (Tables 2.5, 2.6, 9.4). -/
def Stream.regs (t : Stream) (n : Nat) : List Reg :=
  let o := 0x1000 + 0x20 * n
  [⟨o, 8, t.ring, false⟩, ⟨o + 8, 8, t.pair, false⟩, ⟨o + 0x10, 4, flagAt t.serial 6 + flagAt t.enable 5 + t.order, false⟩,
    ⟨o + 0x14, 4, flagAt t.error 1 + flagAt t.watching 0, true⟩, ⟨o + 0x18, 4, t.space, false⟩]

/-- The registers of a virtual function's window 0 (Tables 2.5, 9.4, 20.5, R432). -/
def VF.regs0 (v : VF) (n : Nat) : List Reg :=
  [⟨0x0000, 4, n, true⟩] ++ v.fq.regs 0x08 ++ v.eq.regs 0x28 ++
  [⟨0x0040, 8, v.frSerial, false⟩, ⟨0x0048, 8, v.frBase, false⟩, ⟨0x0050, 8, v.frLen, false⟩, ⟨0x0058, 4, 0, false⟩,
    ⟨0x005C, 4, v.frStatus, true⟩] ++
  mapIdx' (fun a x => (⟨0x0800 + 0x10 * a, 8, x, false⟩ : Reg)) v.aspRoot ++
  [⟨0x0900, 8, v.sdBase, false⟩, ⟨0x0908, 8, v.sdLen, false⟩,
    ⟨0x0910, 4, 0, false⟩,
    ⟨0x0914, 4, 16 * v.sdResult + flagAt v.shootdown.isSome 0, true⟩] ++
  (mapIdx' (fun i t => Stream.regs t i) v.streams).flatten ++
  [⟨0x3000, 32, ofBytesLE v.attNonce, false⟩, ⟨0x3020, 4, 0, false⟩, ⟨0x3024, 4, v.attStatus, true⟩, ⟨0x3040, 208, ofBytesLE v.attReport, true⟩]

/-- The registers of a host monitor (Table 16.6). -/
def Monitor.regs (x : Monitor) (m : Nat) : List Reg :=
  let o := 0x20 * m
  [⟨o, 8, x.addr, false⟩, ⟨o + 8, 8, x.operand, false⟩,
    ⟨o + 0x10, 4, 2 ^ 12 * x.vector + 2 ^ 8 * x.space + 16 * x.cond + flagAt x.wide 3 + flagAt x.armed 0, false⟩,
    ⟨o + 0x14, 4, flagAt x.error 2 + flagAt x.fired 1 + flagAt x.armed 0, false⟩, ⟨o + 0x18, 8, x.value, true⟩]

/-- The registers of a virtual function's window 1 (Tables 10.3 and 16.6). -/
def VF.regs1 (v : VF) : List Reg :=
  (mapIdx' (fun i t => Monitor.regs t i) v.monitors).flatten ++
  [⟨0x8000, 4, 0, false⟩, ⟨0x8008, 8, v.snap.time, true⟩, ⟨0x8010, 8, v.snap.tags, true⟩, ⟨0x8018, 8, v.snap.plates, true⟩,
    ⟨0x8020, 8, v.snap.blank, true⟩, ⟨0x8028, 8, v.snap.replicas, true⟩, ⟨0x8030, 8, v.snap.shares, true⟩, ⟨0x8038, 8, v.snap.collide, true⟩,
    ⟨0x8040, 8, v.snap.editions, true⟩, ⟨0x8048, 8, v.snap.saturate, true⟩, ⟨0x8050, 8, v.snap.unshare, true⟩]

/-- The 32 bytes of an event record (R437). -/
def LogRecord.bytes (r : LogRecord) : List Byte :=
  bytesLE 8 r.serial ++ bytesLE 8 r.time ++ bytesLE 2 r.unit ++ bytesLE 2 r.kind ++ bytesLE 4 r.value ++ bytesLE 8 r.addr

/-- The record that CIC_DATA shows: zero when the log does not hold it. -/
def Device.logData (d : Device) : Nat := ((d.log.find? (fun r => r.serial == d.cicIndex)).map (fun r => ofBytesLE r.bytes)).getD 0

/-- The histogram that CIC_HSEL selects (R438). -/
def Device.histogram (d : Device) : Nat :=
  let cells := if bitOf d.cicHsel 16 then d.histDroop else d.histTemp
  ofBytesLE ((upTo 16).flatMap (fun i => bytesLE 4 (cellGet 0 cells (16 * bitsOf d.cicHsel 0 16 + i))))

/-- The counters of a unit (Table 23.6). -/
def UnitCounters.regs (u : UnitCounters) (n : Nat) : List Reg :=
  let o := 0x100000 + 0x20 * n
  [⟨o, 8, u.corr, true⟩, ⟨o + 8, 8, u.uncorr, true⟩, ⟨o + 16, 8, u.other, true⟩, ⟨o + 24, 8, u.serial, true⟩]

/-- The registers of the physical function's window 0 outside the partition blocks (Tables 23.3 and 23.6, R431, R440). -/
def State.pfRegs (s : State) : List Reg :=
  let d := s.device
  let free := s.ownerNow == 0
  [⟨0x0000, 8, if free then 0 else 2 ^ 32 * d.nonce + d.owner, true⟩, ⟨0x0008, 8, 0, false⟩, ⟨0x0010, 4, 0, false⟩,
    ⟨0x0018, 8, if free then 0 else 2 ^ 32 * d.offerNonce + d.offerTarget, false⟩, ⟨0x0020, 4, 0, false⟩, ⟨0x0040, 4, d.alarm, true⟩] ++
  [⟨0x1000, 64, Config.idPublic.toNat, true⟩, ⟨0x1040, 64, (Config.sessionPublic d.sessionKey).toNat, true⟩,
    ⟨0x1080, 64, (Config.sessionIdSign d.sessionKey).toNat, true⟩] ++
  [⟨0x3000, 8, d.cicWritten, true⟩, ⟨0x3008, 8, d.cicLost, true⟩, ⟨0x3010, 8, (d.log.head?.map (·.serial)).getD 0, true⟩,
    ⟨0x3018, 8, d.cicIndex, false⟩, ⟨0x3020, 32, d.logData, true⟩, ⟨0x3040, 4, d.cicHsel, false⟩, ⟨0x3044, 64, d.histogram, true⟩] ++
  [⟨0x4000, 4, d.memRfm, false⟩, ⟨0x4004, 4, d.pwrCap, false⟩, ⟨0x5000, 4, d.fwStatus, true⟩, ⟨0x5008, 8, d.fwStage, false⟩,
    ⟨0x5010, 4, d.fwLen, false⟩, ⟨0x5014, 4, 0, false⟩] ++
  (upTo 249).flatMap (fun u => UnitCounters.regs (cellGet ⟨0, 0, 0, 0⟩ d.units u) u)

/-- What the register at an offset of a list reads; an offset that is not listed reads zero (R4). The spec does not say what an access inside a
register, or of another width than the register's, does: such an offset is one that is not listed, so it reads zero, and a write there is
ignored (DESIGN CHOICE, log entry 72). -/
def readFrom (l : List Reg) (offset : Nat) : Nat := ((l.find? (fun r => r.offset == offset)).map (·.value)).getD 0

/-- The partition block that an offset of the physical function's window 0 lies in. -/
def blockOfOffset (offset : Nat) : Option Nat :=
  if 0x20000 ≤ offset && decide (offset < 0x20000 + 0x200 * 16) then some ((offset - 0x20000) / 0x200) else none

/-- Whether a partition's virtual function is presented: not by a device in recovery (R439). -/
def State.presentsVf (s : State) (n : Nat) : Bool := decide (n < 16) && s.device.fwStatus % 4 != 1

/-- What a register of a window reads (R4, R5). A locked device reads zero but for OWN_STATE and ALARM (R433); in recovery only the physical
function is presented (R439). -/
def State.readReg (s : State) (w : Window) (offset : Nat) : Nat :=
  match w with
  | .pf0 =>
    if s.device.locked && offset != 0x0000 && offset != 0x0040 then 0
    else
      match blockOfOffset offset with
      | some p => readFrom (s.part p).regs ((offset - 0x20000) % 0x200)
      | none => readFrom s.pfRegs offset
  | .vf0 n => if s.device.locked || !s.presentsVf n then 0 else readFrom ((s.part n).vf.regs0 n) offset
  | .vf1 n => if s.device.locked || !s.presentsVf n then 0 else readFrom (s.part n).vf.regs1 offset

/-- The bytes 0x000 to 0x1FF of a configuration block as a report digests them (Table 23.4): read-only registers but the three sets read as
zero, and so does PCFG_CMD. -/
def Partition.configBytes (p : Partition) : List Byte :=
  p.regs.foldl (fun bs r => if (r.ro && decide (0x18 ≤ r.offset)) || r.offset == 0x30 then bs else overwrite bs r.offset (bytesLE r.bytes r.value))
    (List.replicate 0x200 0)

/-- Bits [hi:lo] of a value in their places, the others zero (R4, R443). -/
def fieldOf (value hi lo : Nat) : Nat := 2 ^ lo * bitsOf value lo (hi + 1 - lo)

/-- A value held between two limits (Table 23.6). -/
def clampTo (lo hi x : Nat) : Nat := max lo (min hi x)

/-- Whether a partition holds a spilled record, and whether it holds a saved block. -/
def State.hasSpilled (s : State) (part : Nat) : Bool := s.entries.any (fun e => e.part == part && e.place == .spilled)
def State.hasSaved (s : State) (part : Nat) : Bool := s.blocks.any (fun b => s.partOfBlock b == part && b.place == .saved)

/-- A plain register of a partition's configuration block written (Tables 2.1, 9.3, 16.5, 18.2, 20.7). -/
def State.writeConfig (s : State) (part r value : Nat) : State :=
  let set (f : Partition → Partition) : State := s.modPart part f
  let keepIf (b : Bool) (f : Partition → Partition) : State := if b then s else s.modPart part f
  match r with
  | 0x018 => set (fun p => { p with nextCells := fieldOf value 39 0 })
  | 0x020 => set (fun p => { p with nextSlices := fieldOf value 63 0 })
  | 0x028 => set (fun p => { p with nextGroups := fieldOf value 63 0 })
  | 0x038 => set (fun p => { p with deadline := fieldOf value 31 0 })
  | 0x070 => set (fun p => { p with hostBase := fieldOf value 50 16 })
  | 0x078 => set (fun p => { p with hostLimit := fieldOf value 50 16 })
  | 0x080 => keepIf (s.hasAdmitted part || s.hasSpilled part) (fun p => { p with mspBase := fieldOf value 51 16 })
  | 0x088 => keepIf (s.hasAdmitted part || s.hasSpilled part) (fun p => { p with mspSize := fieldOf value 15 0 })
  | 0x0B0 => keepIf (s.hasAdmitted part || s.hasSaved part) (fun p => { p with psaveBase := fieldOf value 51 16 })
  | 0x0B8 => keepIf (s.hasAdmitted part || s.hasSaved part) (fun p => { p with psaveSize := fieldOf value 15 0 })
  | 0x0BC => set (fun p => { p with psaveBudget := fieldOf value 31 0 })
  | 0x108 => keepIf (s.hasAdmitted part) (fun p => { p with podMap := fieldOf value 51 13 })
  | 0x110 => keepIf (s.hasAdmitted part) (fun p => { p with podExpBase := fieldOf value 51 16 })
  | 0x118 => keepIf (s.hasAdmitted part) (fun p => { p with podExpSize := fieldOf value 39 16 })
  | _ => s

/-- A plain register of the physical function's window 0 outside the partition blocks written (Table 23.6, R440). -/
def Device.writePlain (d : Device) (offset value : Nat) : Device :=
  match offset with
  | 0x3018 => { d with cicIndex := fieldOf value 63 0 }
  | 0x3040 => { d with cicHsel := fieldOf value 16 0 }
  | 0x4000 => { d with memRfm := clampTo 32 1024 (bitsOf value 0 11) }
  | 0x4004 => { d with pwrCap := clampTo 600 2400 (bitsOf value 0 13) }
  | 0x5008 => { d with fwStage := fieldOf value 63 0 }
  | 0x5010 => { d with fwLen := fieldOf value 31 0 }
  | _ => d

/-- A plain register of a launch stream written (R48, R204). -/
def Stream.writePlain (t : Stream) (r value : Nat) : Stream :=
  match r with
  | 0x00 => { t with ring := fieldOf value 63 7 }
  | 0x08 => { t with pair := fieldOf value 63 4 }
  | 0x18 => { t with space := fieldOf value 3 0 }
  | _ => t

/-- A plain register of a virtual function's window 0 written (Tables 2.5, 9.4, 20.5, R432); FR_CMD with an op that is none of R401's
reports it. -/
def VF.writePlain (v : VF) (offset value : Nat) (busy : Nat → Bool) : VF :=
  match offset with
  | 0x0008 => { v with fq := { v.fq with base := fieldOf value 63 12 } }
  | 0x0010 => { v with fq := { v.fq with cfg := fieldOf value 22 0 } }
  | 0x0018 => { v with fq := { v.fq with cons := fieldOf value 31 0 } }
  | 0x0028 => { v with eq := { v.eq with base := fieldOf value 63 12 } }
  | 0x0030 => { v with eq := { v.eq with cfg := fieldOf value 22 0 } }
  | 0x0038 => { v with eq := { v.eq with cons := fieldOf value 31 0 } }
  | 0x0040 => { v with frSerial := fieldOf value 63 0 }
  | 0x0048 => { v with frBase := fieldOf value 63 0 }
  | 0x0050 => { v with frLen := fieldOf value 63 0 }
  | 0x0058 => if 1 ≤ bitsOf value 0 4 && decide (bitsOf value 0 4 ≤ 4) then v else { v with frStatus := 2 }
  | 0x0900 => { v with sdBase := fieldOf value 63 0 }
  | 0x0908 => { v with sdLen := fieldOf value 63 0 }
  | 0x3000 => { v with attNonce := bytesLE 32 value }
  | _ =>
    if 0x0800 ≤ offset && decide (offset < 0x0900) then
      let a := (offset - 0x0800) / 0x10
      if offset % 0x10 != 0 || busy a then v else { v with aspRoot := setAt v.aspRoot a (fieldOf value 51 21 + bitsOf value 0 1) }
    else if 0x1000 ≤ offset && decide (offset < 0x1000 + 0x20 * 64) then
      { v with streams := modifyAt v.streams ((offset - 0x1000) / 0x20) (fun t => t.writePlain (offset % 0x20) value) }
    else v

/-- A plain register of a virtual function's window 1 written (Table 16.6). -/
def VF.writeMonitor (v : VF) (offset value : Nat) : VF :=
  let f (x : Monitor) : Monitor :=
    if offset % 0x20 = 0 then { x with addr := fieldOf value 56 0 }
    else if offset % 0x20 = 8 then { x with operand := fieldOf value 63 0 }
    else x
  if offset < 0x200 then { v with monitors := modifyAt v.monitors (offset / 0x20) f } else v

/-- Whether a space has an admitted, unretired launch (R204). -/
def State.spaceBusy (s : State) (part space : Nat) : Bool :=
  s.launches.any (fun l => l.part == part && l.space == space && (match l.stage with
    | .admitted => true
    | .ending n => n != 2 && n != 3
    | _ => false))

/-- REGISTER_WRITE (R4, R5, R443): a register with no behaviour of its own stores its writable fields. A register whose writes act (PCFG_CMD,
the bucket registers, STM_CFG, HM_CTL and the like) has a step of its own and is not written by this one. -/
def execRegisterWrite (path : Master) (window : Window) (offset value : Nat) (s : State) : Host.Outcome State Fault Refusal :=
  .next (
    match window with
    | .pf0 =>
      if !s.ownerPath path then s
      else
        match blockOfOffset offset with
        | some p => s.writeConfig p ((offset - 0x20000) % 0x200) value
        | none => s.modDevice (fun d => d.writePlain offset value)
    | .vf0 n => if s.vfWritable n then s.modVF n (fun v => v.writePlain offset value (s.spaceBusy n)) else s
    | .vf1 n => if s.vfWritable n then s.modVF n (fun v => v.writeMonitor offset value) else s)

end Sys2Proof.Machine
end

