-- ==== Sys2Proof/Machine/Link.lean ====
section
/-! DEFINITION. The host's accesses to device memory over CXL.mem (R335, R427, R428), and its snoops of host lines that the device holds
(R241, R335, R359). -/

namespace Sys2Proof.Machine

/-- The partition whose slices are home to a backed address; 16, which owns none, for an idle group (R427, R428). -/
def State.hostPart (s : State) (addr : Nat) : Nat := (s.ownerOf addr).getD 16

/-- Whether n bytes from an address are a request that the link carries: within one line. -/
def oneLine (addr n : Nat) : Bool := decide (1 ≤ n) && addr / 128 == (addr + n - 1) / 128

/-- CXL_MEM_READ (R335, R427, R428, R433, R436): performed at home with no lease, after a hold on its bank. An address that no group backs reads all ones, poisoned, and is
logged; a locked device answers with poisoned data that say nothing. -/
def execCxlMemRead (addr len : Nat) (s : State) : Host.Outcome State Fault Refusal :=
  .next (
    if !oneLine addr len || s.device.unpowered then s
    else if s.device.locked then s.emit (.hostData addr [] true)
    else if !isBacked addr || !isBacked (addr + len - 1) then
      (s.logEvent 248 10 none (some addr)).2.emit (.hostData addr (List.replicate len 0xFF) true)
    else
      let p := s.hostPart addr
      match (if s.bankHolds p (addr / 128) then none else s.takeAll len (s.hostPoints p (addr / 128))) with
      | none => s
      | some t => (t.touchMemory p (addr / 128)).emit (.hostData addr (t.readRun p addr len) (t.runPoisoned p addr len)))

/-- CXL_MEM_WRITE (R335, R427, R428, R433): performed at home; its completion is sent once the clock of the home die reads more than C. -/
def execCxlMemWrite (addr : Nat) (bytes : List Byte) (s : State) : Host.Outcome State Fault Refusal :=
  .next (
    if !oneLine addr bytes.length || s.device.unpowered || s.device.locked then s
    else if !isBacked addr || !isBacked (addr + bytes.length - 1) then (s.logEvent 248 10 none (some addr)).2
    else
      let p := s.hostPart addr
      match (if s.bankHolds p (addr / 128) then none else s.takeAll bytes.length (s.hostPoints p (addr / 128))) with
      | none => s
      | some t =>
        let r := t.writeOutside p addr bytes false
        r.1.pend r.2 (t.homeDie p (addr / 128)) none [])

/-- Bytes that the host writes to its own memory. -/
def State.hostBytes (s : State) (line : Nat) (bytes : List (Nat × Byte)) : State :=
  { s with mem := bytes.foldl (fun m b => if b.1 < 128 then Memory.write m (128 * line + b.1) b.2 else m) s.mem }

/-- The slices that hold a host line, one for each partition that does, with their tags: the host snoops them together (R241). -/
def State.hostTags (s : State) (line : Nat) : List (Nat × Tag) := s.otherTags 16 line

/-- Whether a snoop that takes a line must still wait: the clock of a slice that is home to it has not passed the line's lease by 2 (R335). -/
def State.snoopWaits (s : State) (line : Nat) : Bool :=
  (upTo 16).any (fun q => match s.homeOf q line with
    | none => false
    | some i => decide (s.leaseNow (dieOfSlice i) ≤ s.leaseField q line + 2))

/-- The answer to a snoop: the dirty content of the line, where a slice holds one (R241, R335). -/
def State.answerSnoop (s : State) (line : Nat) : Output :=
  .snoopAnswer line (((s.hostTags line).find? (fun x => x.2.dirty)).map (fun x => ((s.slice x.1).content x.2).1))

/-- Overdue entries of a line fire in every partition before an operation of the line (R346). -/
def State.fireLine (s : State) (line : Nat) : State := (upTo 16).foldl (fun s q => s.fireOverdue q line) s

/-- A downgrading snoop (R241): dirty copies are written back and stay, clean. -/
def State.downgrade (s : State) (line : Nat) : State :=
  ((s.hostTags line).foldl (fun s x => s.cleanTag x.1 x.2) s).emit (s.answerSnoop line)

/-- A snoop that takes the line from every slice that holds it; the host's own writes, made after the answer, follow, and every watched copy is
read again (R241, R335, R359). -/
def State.surrender (s : State) (line : Nat) (bytes : List (Nat × Byte)) : State :=
  let s1 := ((s.hostTags line).foldl (fun s x => s.dropTag x.1 x.2) s).emit (s.answerSnoop line)
  (upTo 16).foldl (fun s q => s.reread q line) (s1.hostBytes line bytes)

/-- HOST_SNOOP (R241, R335, R346, R359): a snoop reaches every slice that holds the line; one that takes it is answered once the lease clock
reads more than the line's lease + 2. -/
def execHostSnoop (part line : Nat) (kind : Snoop) (bytes : List (Nat × Byte)) (s : State) : Host.Outcome State Fault Refusal :=
  .next (
    if !isHost (128 * line) || decide (16 ≤ part) || s.device.unpowered then s
    else
      match kind with
      | .downgrade => (s.fireLine line).downgrade line
      | _ => if s.snoopWaits line then s else (s.fireLine line).surrender line bytes)

end Sys2Proof.Machine
end

