-- ==== Sys2Proof/Machine/Care.lean ====
section
/-! DEFINITION. Care of the device: ownership (R429, R430), attestation (R432), the security alarm (R433), activation counts (R436), the
Cicada log and its histograms (R437, R438), firmware (R439, R440), power and resets (R440 to R442). -/

namespace Sys2Proof.Machine

/-- A change of owner reported in every enabled error queue (R430, Table 23.5). -/
def State.ownerChanged (s : State) : State :=
  let r := s.takeSerial
  r.2.errorToAll ((upTo 16).filter (fun p => (r.2.part p).vf.eq.enabled)) r.1 0x0015 r.2.device.owner

/-- The device in the hands of a master, or of none (R430): the heartbeat timer starts, and any offer is cleared. -/
def State.setOwner (s : State) (owner nonce : Nat) : State :=
  (s.modDevice (fun d => { d with owner := owner, nonce := nonce, offerNonce := 0, offerTarget := 0, beatAt := s.leaseNow hubDie })).ownerChanged

/-- The ownership lapses when its time has come (R430). -/
def State.lapse (s : State) : State := if s.beatOverdue then s.setOwner 0 0 else s

/-- OWN_CLAIM (R430): performed while the device is free, from the master's own path, with a nonce that is not 0. -/
def execOwnClaim (path : Master) (value : Nat) (s : State) : Host.Outcome State Fault Refusal :=
  .next (
    if !s.awake || s.ownerNow != 0 || bitsOf value 32 32 = 0 || bitsOf value 0 4 != masterId path then s
    else s.lapse.setOwner (masterId path) (bitsOf value 32 32))

/-- OWN_BEAT (R430). -/
def execOwnBeat (path : Master) (value : Nat) (s : State) : Host.Outcome State Fault Refusal :=
  .next (if s.ownerPath path && value % 2 ^ 32 == s.device.nonce then s.modDevice (fun d => { d with beatAt := s.leaseNow hubDie }) else s)

/-- OWN_OFFER (R430): an owner's write of 0 withdraws it. -/
def execOwnOffer (path : Master) (value : Nat) (s : State) : Host.Outcome State Fault Refusal :=
  .next (if s.ownerPath path then
    s.modDevice (fun d => { d with offerNonce := bitsOf value 32 32, offerTarget := bitsOf value 0 4 }) else s)

/-- OWN_ACCEPT (R430): the target takes the device with the offer's nonce, from its own path. -/
def execOwnAccept (path : Master) (value : Nat) (s : State) : Host.Outcome State Fault Refusal :=
  .next (
    if !s.awake || s.ownerNow == 0 || s.device.offerTarget != masterId path || value % 2 ^ 32 != s.device.offerNonce then s
    else s.setOwner (masterId path) s.device.offerNonce)

/-- OWNERSHIP_LAPSE (R430): 4,200,000,000 ticks after the last heartbeat. -/
def execOwnershipLapse (s : State) : Host.Outcome State Fault Refusal := .next s.lapse

/-- ATT_CMD (R432): a request while the state is busy is ignored. -/
def execAttCmd (part value : Nat) (s : State) : Host.Outcome State Fault Refusal :=
  .next (if s.vfWritable part && value % 2 ^ 32 == 1 && (s.part part).vf.attStatus != 1 then s.modVF part (fun v => { v with attStatus := 1 }) else s)

/-- Bytes 0x00 to 0x8F of an attestation report (Table 23.4). -/
def State.reportBody (s : State) (part : Nat) : List Byte :=
  let p := s.part part
  bytesLE 4 1 ++ bytesLE 4 part ++ bytesLE 32 (Config.digest (bytesLE 64 Config.idPublic.toNat)).toNat ++
    bytesLE 32 (ofBytesLE p.vf.attNonce) ++ bytesLE 32 s.device.fwRunning.toNat ++ bytesLE 32 (Config.digest p.configBytes).toNat ++
    bytesLE 8 (s.leaseNow hubDie)

/-- ATTESTATION_COMPLETE (R432): the signed report replaces the previous one; without the keys it fails (R433). -/
def execAttestationComplete (part : Nat) (s : State) : Host.Outcome State Fault Refusal :=
  .next (
    if (s.part part).vf.attStatus != 1 || s.device.unpowered then s
    else if s.device.locked || s.device.keysErased then s.modVF part (fun v => { v with attStatus := 3 })
    else
      let body := s.reportBody part
      let report := body ++ bytesLE 64 (Config.sessionSign s.device.sessionKey body).toNat
      s.modVF part (fun v => { v with attStatus := 2, attReport := report }))

/-- SECURITY_ALARM (R433, Table 23.5), in the order of R433. -/
def execSecurityAlarm (sensors : Nat) (s : State) : Host.Outcome State Fault Refusal :=
  .next (
    if sensors % 16 = 0 || s.device.unpowered then s
    else
      let s1 := s.modDevice (fun d => { d with alarm := d.alarm ||| sensors % 16, keysErased := true })
      let r := s1.logEvent 248 9 none none
      let s2 := if s.device.fenced then r.2 else r.2.errorToAll (upTo 16) r.1 0x0013 0
      let s3 := s2.modDevice (fun d => { d with fenced := true, locked := true })
      (upTo 16).foldl (fun (s : State) p => if (s.part p).vf.attStatus = 1 then s.modVF p (fun v => { v with attStatus := 3 }) else s) s3)

/-- The threshold T of a bank's activation count (R436). -/
def State.rfmThreshold (s : State) : Nat := s.device.memRfm

/-- A bank after a refresh-management command (R436): T is subtracted, and the activations that a hold kept back follow. -/
def Bank.refresh (b : Bank) (t : Nat) : Bank := Bank.activate ⟨b.count - t, false, false, 0⟩ t b.waiting

/-- RFM_ISSUE (R436): a refresh-management command to a bank whose count has reached T; it ends a hold. -/
def execRfmIssue (bank : Nat) (s : State) : Host.Outcome State Fault Refusal :=
  .next (if (decide (s.rfmThreshold ≤ (s.bank bank).count) || (s.bank bank).held) && !s.device.unpowered then s.modBank bank (fun b => b.refresh s.rfmThreshold) else s)

/-- PERIODIC_REFRESH (R436): T / 4 is subtracted, not below 0. -/
def execPeriodicRefresh (bank : Nat) (s : State) : Host.Outcome State Fault Refusal :=
  .next (if s.device.unpowered then s else s.modBank bank (fun b => { b with count := b.count - s.rfmThreshold / 4 }))

/-- ACTIVATION_HOLD (R435, R436): the hold of a bank that has reached 2T and takes no activation until a refresh-management command is logged,
once per episode, and reported to the owner of each group of the stack. -/
def execActivationHold (bank : Nat) (s : State) : Host.Outcome State Fault Refusal :=
  .next (
    let b := s.bank bank
    if !b.held || b.logged || s.device.unpowered then s
    else
      let s1 := s.modBank bank (fun b => { b with logged := true })
      let r := s1.logEvent (224 + bank % 8) 6 none none
      r.2.errorToAll ((upTo 16).filter (fun p => bitsOf (r.2.part p).groups (8 * (bank % 8)) 8 != 0)) r.1 0x0012 0)

/-- The greatest number of event records in the ring of the Cicada log (R437). -/
def logRing : Nat := 1966080

/-- LOG_RECORD_PROGRAM (R437): the oldest staged record goes to flash; a full ring loses its oldest. -/
def execLogRecordProgram (s : State) : Host.Outcome State Fault Refusal :=
  .next (
    match s.device.staging with
    | [] => s
    | r :: rs =>
      if s.device.unpowered then s
      else s.modDevice (fun d =>
        { d with staging := rs, log := (if d.log.length < logRing then d.log else d.log.drop 1) ++ [r], cicWritten := wrap64 (d.cicWritten + 1) }))

/-- TEMPERATURE_THRESHOLD (R437): kind 7. -/
def execTemperatureThreshold (unit value : Nat) (s : State) : Host.Outcome State Fault Refusal :=
  .next (if 249 ≤ unit || s.device.unpowered then s else (s.logEvent unit 7 (some (value % 2 ^ 32)) none).2)

/-- VOLTAGE_DROOP (R437, R438): kind 8. -/
def execVoltageDroop (unit value : Nat) (s : State) : Host.Outcome State Fault Refusal :=
  .next (if 249 ≤ unit || s.device.unpowered then s else (s.logEvent unit 8 (some (value % 2 ^ 32)) none).2)

/-- DATA_RATE_CHANGE (R62, R441): deferred while a save targets the stack; until then no further save or restore to it begins. -/
def execDataRateChange (stack : Nat) (s : State) : Host.Outcome State Fault Refusal :=
  .next (if 8 ≤ stack then s
    else s.modDevice (fun d => { d with ratePending := setBit d.ratePending stack (decide (0 < s.savesTo stack)) }))

/-- CORE_CLOCK_CHANGE (R441): no architectural effect follows. -/
def execCoreClockChange (_core : Nat) (s : State) : Host.Outcome State Fault Refusal := .next s

/-- The bin of a temperature in °C and of a droop in mV (Table 23.6). -/
def temperatureBin (t : Nat) : Nat := if t < 20 then 0 else min 15 (1 + (t - 20) / 8)
def droopBin (d : Nat) : Nat := min 15 (d / 10)

/-- LIFETIME_HISTOGRAM_UPDATE (R6, R437, Table 23.6): one second of operation of a unit; a bin keeps the low 4 bytes of its count. -/
def execLifetimeHistogramUpdate (unit temperature droop : Nat) (s : State) : Host.Outcome State Fault Refusal :=
  let count (cells : Cells Nat) (bin : Nat) : Cells Nat := cellSet 0 cells (16 * unit + bin) ((cellGet 0 cells (16 * unit + bin) + 1) % 2 ^ 32)
  .next (if 249 ≤ unit || s.device.unpowered then s
    else s.modDevice (fun d =>
      { d with histTemp := count d.histTemp (temperatureBin temperature), histDroop := count d.histDroop (droopBin droop) }))

/-- The newest bytes of host memory, as CXL.cache returns them to the management core. -/
def State.hostNewest (s : State) (pa n : Nat) : List Byte :=
  (upTo n).map (fun k =>
    let line := (pa + k) / 128
    match (upTo 16).find? (fun q => (sliceList (s.part q).slices).any (fun i => ((s.slice i).homeTag line).isSome)) with
    | some q => ((s.homeLine q line).1).getD ((pa + k) % 128) 0
    | none => Memory.read s.mem (pa + k))

/-- The staged image with its configuration tables (R440). -/
def State.stagedImage (s : State) : List Byte := s.hostNewest (2 ^ 51 + s.device.fwStage) s.device.fwLen

/-- FW_LOAD (R440): FW_CMD op 1, in recovery. -/
def execFwLoad (path : Master) (s : State) : Host.Outcome State Fault Refusal :=
  .next (if s.ownerPath path && s.device.fwStatus % 4 == 1 && s.device.fwBusy == 0 then s.modDevice (fun d => { d with fwBusy := 1 }) else s)

/-- FW_UPDATE (R440): FW_CMD op 2, while running. -/
def execFwUpdate (path : Master) (s : State) : Host.Outcome State Fault Refusal :=
  .next (if s.ownerPath path && s.device.fwStatus % 4 != 1 && s.device.fwBusy == 0 then s.modDevice (fun d => { d with fwBusy := 2 }) else s)

/-- FW_IMAGE_VERIFIED (R439, R440): the image is read and verified, and its programming begins or the flash stays as it is; then its
programming ends: a loaded image boots at once, an updated one waits for the next cold reset. -/
def execFwImageVerified (s : State) : Host.Outcome State Fault Refusal :=
  .next (
    let d := s.device
    if d.unpowered then s
    else
      match d.fwBusy with
      | 1 | 2 =>
        let image := s.stagedImage
        if Config.imageVerified image then
          s.modDevice (fun d => { d with fwBusy := d.fwBusy + 2, fwStatus := d.fwStatus % 4, fwFlash := Config.digest image })
        else s.modDevice (fun d => { d with fwBusy := 0, fwStatus := d.fwStatus % 4 + 4 })
      | 3 => s.modDevice (fun d =>
          { d with fwBusy := 0, fwStatus := 0, fwRunning := d.fwFlash, flashBad := false, memRfm := rfmOfTables d.fwFlash })
      | 4 => s.modDevice (fun d => { d with fwBusy := 0, fwStatus := 2, flashBad := false })
      | _ => s)

/-- POWER_FAIL (R440): the device stops; an image that was being programmed is spoilt. -/
def execPowerFail (s : State) : Host.Outcome State Fault Refusal :=
  .next (s.modDevice (fun d => { d with unpowered := true, fenced := true, flashBad := d.flashBad || decide (3 ≤ d.fwBusy), fwBusy := 0 }))

/-- The device-wide state after a cold reset (R434, R439, R442): the log, its counters, the histograms and the flash persist, the boot count
advances, and the boot checks the image. -/
def Device.coldReset (d : Device) : Device :=
  { Device.reset with
    boots := d.boots + 1, sessionKey := d.sessionKey + 1
    cicWritten := d.cicWritten, cicLost := d.cicLost, log := d.log, staging := d.staging
    histTemp := d.histTemp, histDroop := d.histDroop, units := d.units
    fwStatus := if d.flashBad then 1 else 0, fwRunning := d.fwFlash, fwFlash := d.fwFlash, flashBad := d.flashBad
    memRfm := rfmOfTables d.fwFlash }

/-- COLD_RESET (R2, R203, R434, R442): every register takes its reset value, every partition is removed, every channel group is zero; host
memory is not the device's. The model's own schedule and counters go on. -/
def execColdReset (s : State) : Host.Outcome State Fault Refusal :=
  .next { State.reset with
    mem := s.mem.filter (fun c => decide (2 ^ 51 ≤ c.1))
    side := s.side.filter (fun c => decide (2 ^ 51 ≤ 8 * c.1))
    poisonMem := s.poisonMem.filter (fun l => decide (2 ^ 51 ≤ 128 * l))
    device := s.device.coldReset
    outputs := s.outputs, turns := s.turns, focus := s.focus, next := s.next, draws := s.draws }

/-- A launch that a function-level reset ends (R442). -/
def State.resetLaunch (s : State) (lid : Nat) : State :=
  match s.launch? lid with
  | none => s
  | some l =>
    match l.stage with
    | .ending _ => s.modLaunch lid (fun x => { x with stage := .ending 5 })
    | .retired => s
    | _ => (s.dropEntries (fun e => e.owner == EntryOwner.gate lid)).modLaunch lid (fun x => { x with killing := some 5 })

/-- FUNCTION_LEVEL_RESET (R442): every unretired launch of the partition ends with status 5; once they have ended, the virtual function's
window registers return to their reset values (`State.settleReset`). The partition keeps what it owns. -/
def execFunctionLevelReset (part : Nat) (s : State) : Host.Outcome State Fault Refusal :=
  .next (
    if 16 ≤ part || s.device.unpowered then s
    else (((s.launches.filter (fun l => l.part == part)).map (·.lid)).foldl State.resetLaunch s).modVF part (fun v =>
      { v with resetting := true }))

end Sys2Proof.Machine
end

