-- ==== Sys2Proof/Machine/Sys.lean ====
section
/-! DEFINITION. System-class instructions (R403 to R410). -/

namespace Sys2Proof.Machine

/-- `trap` (R404). -/
def execTrap (c : BitVec 8) (g : BitVec 4) (s : State) : Host.Outcome State Fault Refusal :=
  s.execWord (.trap c g) false [] [] (fun _ => true) (fun x w s => s.trapAt x (x.t w g) 0x0E c.toNat 0)

/-- The executing lanes that may handle a trap (R405); for the others the encoding is illegal, and they trap. -/
def State.handlers (s : State) (c : Ctx) (w : Wave) : List Nat × State :=
  let ok (l : Nat) : Bool := ((w.lanes[l]?).map (fun x => x.handles (isHandler c.r))).getD false
  (c.x.filter ok, s.trapAt c (c.x.filter (fun l => !ok l)) 0x01 0 (s.wordAddr c))

/-- `tres` (R405). The wave waits while the header of a clause that one of its lanes resumes after has still to be fetched (R39). -/
def execTres (a : BitVec 7) (g : BitVec 4) (s : State) : Host.Outcome State Fault Refusal :=
  s.execWord (.tres a g) false [a.toNat] [] (fun _ => true) (fun c w s =>
    let h := s.handlers c w
    let t := h.1.filter (fun l => w.pred l g.toNat)
    let r := h.2.gates c w (fun l => [(l, a.toNat)]) t
    let q := r.2.returnWaits c.r (r.1.filter (fun l => w.reg l a.toNat == 0xFFFFFFFF))
    if q.1 then q.2.stall c.r else r.1.foldl (fun s l => s.returnTrap c.r l (w.reg l a.toNat)) r.2)

/-- `tkill` (R406). -/
def execTkill (g : BitVec 4) (s : State) : Host.Outcome State Fault Refusal :=
  s.execWord (.tkill g) false [] [] (fun _ => true) (fun c w s =>
    let h := s.handlers c w
    (h.1.filter (fun l => w.pred l g.toNat)).foldl (fun s l => s.killBy c.r l) h.2)

/-- `tesc` (R406). -/
def execTesc (c : BitVec 8) (g : BitVec 4) (s : State) : Host.Outcome State Fault Refusal :=
  s.execWord (.tesc c g) false [] [] (fun _ => true) (fun x w s =>
    let h := s.handlers x w
    (h.1.filter (fun l => w.pred l g.toNat)).foldl (fun s l => s.escalateBy x.r l c.toNat) h.2)

/-- The origin lane of a handler lane, when it is still trapped. -/
def State.originLane (s : State) (r : WaveRef) (l : Nat) : Option (Origin × Lane) :=
  match (s.lane? r l).bind (·.origin) with
  | none => none
  | some o => (s.lane? (.blk o.uid o.wave) o.lane).map (fun x => (o, x))

/-- Whether a value is still to arrive for a register of a lane (R109): from a memory operation, a wait group or `cpys`. -/
def State.producerDue (s : State) (r : WaveRef) (l reg : Nat) : Bool :=
  s.memOps.any (fun o => o.wave == r && o.groups.any (fun g => !g.returned && g.lanes.any (fun x => x.lane == l && x.dest.contains reg))) ||
  ((s.wave? r).map (fun w => w.groups.any (fun g => g.delivers && g.lanes.contains l &&
    (g.dest == reg || (g.wide && g.dest + 1 == reg))))).getD false ||
  s.engOps.any (fun e => e.engine == .compositor && e.op == 8 && e.waves.any (fun x => x.1 == r) && e.lanes.contains l &&
    decide (e.coords.headD 0 ≤ reg) && decide (reg < e.coords.headD 0 + 6))

/-- The gate of a handler lane on a register of its origin (R407, R408): an empty one makes it wait or trap, a write only while a producer
is due; a read of a marked register traps. -/
def State.originGate (s : State) (c : Ctx) (l reg : Nat) (reads : Bool) : Gate :=
  match s.originLane c.r l with
  | none => .go
  | some (o, x) =>
    if x.isFull reg || (!reads && !s.producerDue (.blk o.uid o.wave) o.lane reg) then .go
    else
      match x.mark? reg with
      | some m => if reads then m.gate else .go
      | none => if c.te then .trap 0x03 0 else .wait [⟨true, 0, reg⟩]

/-- Whether a system register number is reachable from a wave (R86): an origin register lies below the origin's declared count. -/
def State.sysReachable (s : State) (c : Ctx) (n : Nat) : Bool :=
  decide (n < 4) || (isHandler c.r && decide (0x100 ≤ n) && decide (n ≤ 0x142) &&
    (decide (0x140 ≤ n) || decide (n - 0x100 < ((s.launchOf c.r).map (·.record.vregs)).getD 0)))

/-- The value of a system register of a wave (Table 3.13). -/
def Wave.sysValue (w : Wave) (n : Nat) : Nat :=
  match n with
  | 0 => w.modeWord
  | 1 => w.fflags.toNat
  | 2 => w.awLimit * 2 ^ 16 + w.awBase
  | _ => w.ocCol * 2 ^ 12 + w.ocMtx * 2 ^ 8 + w.ocCpy * 2 ^ 4 + w.ocMem

/-- The predicates of a lane as a 64-bit number, p0 true. -/
def Lane.predBits (x : Lane) : Nat := x.preds ||| 1

/-- The value that a handler lane reads from its origin (Table 3.13). -/
def State.originValue (s : State) (c : Ctx) (l n : Nat) : Nat :=
  match s.originLane c.r l with
  | none => 0
  | some (_, x) =>
    if n < 0x140 then (x.reg (n - 0x100)).toNat
    else if n = 0x140 then x.predBits % 2 ^ 32
    else if n = 0x141 then x.predBits / 2 ^ 32 % 2 ^ 32
    else ((x.trap.map (·.vpc)).getD x.vpc).toNat

/-- `csrr` (R407). -/
def execCsrr (d : BitVec 6) (x : BitVec 9) (g : BitVec 4) (s : State) : Host.Outcome State Fault Refusal :=
  s.execWord (.csrr d x g) false [d.toNat] [] (fun _ => true) (fun c w s =>
    if !s.sysReachable c x.toNat then s.illegal c
    else
      let r := s.gates c w (fun l => [(l, d.toNat)]) (c.t w g)
      if x.toNat < 4 then r.2.modWave c.r (fun v => v.applyEffs r.1 (fun _ => effW d (BitVec.ofNat 32 (w.sysValue x.toNat))))
      else
        let gate (l : Nat) : Gate := if x.toNat < 0x140 then s.originGate c l (x.toNat - 0x100) true else .go
        let go := r.1.filter (fun l => gate l == .go)
        let s1 := r.1.foldl (fun s l => s.passGate c l (gate l)) r.2
        s1.modWave c.r (fun v => v.applyEffs go (fun l => effW d (BitVec.ofNat 32 (s.originValue c l x.toNat)))))

/-- One handler lane's write to its origin (R408). -/
def State.writeOrigin (s : State) (c : Ctx) (l n : Nat) (v : Word) : State :=
  match s.originLane c.r l with
  | none => s
  | some (o, _) =>
    s.modLane (.blk o.uid o.wave) o.lane (fun x =>
      if n < 0x140 then x.writeV (n - 0x100) v
      else if n = 0x140 then { x with preds := setBits x.preds 0 32 (v.toNat / 2 * 2) }
      else if n = 0x141 then { x with preds := setBits x.preds 32 32 v.toNat }
      else { x with vpc := v, slot := 0, trap := x.trap.map (fun i => { i with vpc := v, slot := 0 }) })

/-- The MODE and FFLAGS fields that a write changes (Tables 3.13 and 3.14). -/
def Wave.writeSys (w : Wave) (n : Nat) (v : Word) : Wave :=
  match n with
  | 0 => { w with round := bitsOf v.toNat 0 2, fair := clampFair (bitsOf v.toNat 2 17) }
  | 1 => { w with fflags := BitVec.ofNat 5 v.toNat }
  | _ => w

/-- `csrw` (R408). -/
def execCsrw (a : BitVec 7) (x : BitVec 9) (g : BitVec 4) (s : State) : Host.Outcome State Fault Refusal :=
  s.execWord (.csrw a x g) false (aVec a false) (aScal a false) (fun _ => true) (fun c w s =>
    let t := c.t w g
    if !s.sysReachable c x.toNat then s.illegal c
    else if x.toNat < 4 then
      let e := t.headD 0
      let r := s.gates c w (fun _ => (aVec a false).map (fun n => (e, n))) t
      if r.1.isEmpty then r.2 else r.2.modWave c.r (fun v => v.writeSys x.toNat (w.opA e a))
    else
      let r := s.gates c w (fun l => (aVec a false).map (fun n => (l, n))) t
      let gate (l : Nat) : Gate := if x.toNat < 0x140 then s.originGate c l (x.toNat - 0x100) false else .go
      r.1.foldl (fun s l => if gate l == .go then s.writeOrigin c l x.toNat (w.opA l a) else s.passGate c l (gate l)) r.2)

/-- `setmode` (R409), by the elected lane. -/
def execSetmode (a : BitVec 7) (s : BitVec 2) (g : BitVec 4) (sx : State) : Host.Outcome State Fault Refusal :=
  sx.execWord (.setmode a s g) false (aVec a false) (aScal a false) (fun _ => true) (fun c w st =>
    let t := c.t w g
    let e := t.headD 0
    let r := st.gates c w (fun _ => (aVec a false).map (fun n => (e, n))) t
    if r.1.isEmpty then r.2
    else r.2.modWave c.r (fun v =>
      if s = 0 then { v with round := bitsOf (w.opA e a).toNat 0 2 } else { v with fair := clampFair (w.opA e a).toNat }))

/-- `gettime` (R410). -/
def execGettime (d : BitVec 6) (s : BitVec 1) (g : BitVec 4) (sx : State) : Host.Outcome State Fault Refusal :=
  let pair := regRun d 2
  let vr := if s = 0 then pair else []
  sx.execWord (.gettime d s g) false vr (if s = 1 then pair else []) (fun _ => true) (fun c w st =>
    let r := st.gates c w (fun l => vr.map (fun n => (l, n))) (c.t w g)
    r.2.readClock c r.1 pair (s == 1) (r.2.nowOf c.r % 2 ^ 64))

end Sys2Proof.Machine
end

