-- ==== Sys2Proof/Machine/Dispatch.lean ====
section
/-! DEFINITION. The dispatch: one arm per constructor of Instr. -/

namespace Sys2Proof.Machine

def exec (i : Instr) (s : State) : Host.Outcome State Fault Refusal :=
  match i with
  | .fadd d a b m g => Sys2Proof.Machine.execFadd d a b m g s
  | .fsub d a b m g => Sys2Proof.Machine.execFsub d a b m g s
  | .fmul d a b m g => Sys2Proof.Machine.execFmul d a b m g s
  | .ffma d a b m g => Sys2Proof.Machine.execFfma d a b m g s
  | .fmin d a b m g => Sys2Proof.Machine.execFmin d a b m g s
  | .fmax d a b m g => Sys2Proof.Machine.execFmax d a b m g s
  | .ftr d a sx m g => Sys2Proof.Machine.execFtr d a sx m g s
  | .fcmp p a b c g => Sys2Proof.Machine.execFcmp p a b c g s
  | .dadd d a b m g => Sys2Proof.Machine.execDadd d a b m g s
  | .dmul d a b m g => Sys2Proof.Machine.execDmul d a b m g s
  | .dfma d a b m g => Sys2Proof.Machine.execDfma d a b m g s
  | .dmnx d a b m g => Sys2Proof.Machine.execDmnx d a b m g s
  | .dtr d a sx m g => Sys2Proof.Machine.execDtr d a sx m g s
  | .dcmp p a b c g => Sys2Proof.Machine.execDcmp p a b c g s
  | .hadd2 d a b m g => Sys2Proof.Machine.execHadd2 d a b m g s
  | .hmul2 d a b m g => Sys2Proof.Machine.execHmul2 d a b m g s
  | .hfma2 d a b m g => Sys2Proof.Machine.execHfma2 d a b m g s
  | .badd2 d a b m g => Sys2Proof.Machine.execBadd2 d a b m g s
  | .bmul2 d a b m g => Sys2Proof.Machine.execBmul2 d a b m g s
  | .bfma2 d a b m g => Sys2Proof.Machine.execBfma2 d a b m g s
  | .hmnx2 d a b m g => Sys2Proof.Machine.execHmnx2 d a b m g s
  | .hcmp2 p a b c g => Sys2Proof.Machine.execHcmp2 p a b c g s
  | .bcmp2 p a b c g => Sys2Proof.Machine.execBcmp2 p a b c g s
  | .cvtf d a t r ix o sx h g => Sys2Proof.Machine.execCvtf d a t r ix o sx h g s
  | .cvtn d a sx l ix f g => Sys2Proof.Machine.execCvtn d a sx l ix f g s
  | .cvti d a v n r ix sx g => Sys2Proof.Machine.execCvti d a v n r ix sx g s
  | .cvtd d a o r ix f sx g => Sys2Proof.Machine.execCvtd d a o r ix f sx g s
  | .bamax d a k ix f g => Sys2Proof.Machine.execBamax d a k ix f g s
  | .bscale d a f k l g => Sys2Proof.Machine.execBscale d a f k l g s
  | .mxpk d a f j r ix o g => Sys2Proof.Machine.execMxpk d a f j r ix o g s
  | .mxup d a f k sx ix g => Sys2Proof.Machine.execMxup d a f k sx ix g s
  | .rail d a o l k g => Sys2Proof.Machine.execRail d a o l k g s
  | .iadd d a b m g => Sys2Proof.Machine.execIadd d a b m g s
  | .imul d a b m g => Sys2Proof.Machine.execImul d a b m g s
  | .imnx d a b m g => Sys2Proof.Machine.execImnx d a b m g s
  | .ilog d a b m g => Sys2Proof.Machine.execIlog d a b m g s
  | .ish d a b m g => Sys2Proof.Machine.execIsh d a b m g s
  | .ishi d a o n g => Sys2Proof.Machine.execIshi d a o n g s
  | .ibit d a m g => Sys2Proof.Machine.execIbit d a m g s
  | .bfe d a b m g => Sys2Proof.Machine.execBfe d a b m g s
  | .bfi d a b m g => Sys2Proof.Machine.execBfi d a b m g s
  | .icmp p a b c g => Sys2Proof.Machine.execIcmp p a b c g s
  | .icmpn p a b c g => Sys2Proof.Machine.execIcmpn p a b c g s
  | .sel d a b p => Sys2Proof.Machine.execSel d a b p s
  | .mov d a g => Sys2Proof.Machine.execMov d a g s
  | .movi d ix g => Sys2Proof.Machine.execMovi d ix g s
  | .movh d ix g => Sys2Proof.Machine.execMovh d ix g s
  | .movl d ix g => Sys2Proof.Machine.execMovl d ix g s
  | .sadd d a b m g => Sys2Proof.Machine.execSadd d a b m g s
  | .smul d a b m g => Sys2Proof.Machine.execSmul d a b m g s
  | .slog d a b m g => Sys2Proof.Machine.execSlog d a b m g s
  | .ssh d a b m g => Sys2Proof.Machine.execSsh d a b m g s
  | .smovi d ix g => Sys2Proof.Machine.execSmovi d ix g s
  | .smovh d ix g => Sys2Proof.Machine.execSmovh d ix g s
  | .scmp p a b c g => Sys2Proof.Machine.execScmp p a b c g s
  | .smov d a g => Sys2Proof.Machine.execSmov d a g s
  | .shfl d a b m g => Sys2Proof.Machine.execShfl d a b m g s
  | .qxch d a ix t g => Sys2Proof.Machine.execQxch d a ix t g s
  | .vote d a t g => Sys2Proof.Machine.execVote d a t g s
  | .redx d a o g => Sys2Proof.Machine.execRedx d a o g s
  | .lane d a n w g => Sys2Proof.Machine.execLane d a n w g s
  | .plog d a q o g => Sys2Proof.Machine.execPlog d a q o g s
  | .rand d a b g => Sys2Proof.Machine.execRand d a b g s
  | .sread d sx r g => Sys2Proof.Machine.execSread d sx r g s
  | .nop g => Sys2Proof.Machine.execNop g s
  | .bra o g => Sys2Proof.Machine.execBra o g s
  | .bru o g => Sys2Proof.Machine.execBru o g s
  | .brx a g => Sys2Proof.Machine.execBrx a g s
  | .call l o g => Sys2Proof.Machine.execCall l o g s
  | .ret a g => Sys2Proof.Machine.execRet a g s
  | .exit g => Sys2Proof.Machine.execExit g s
  | .join k g => Sys2Proof.Machine.execJoin k g s
  | .kset k g => Sys2Proof.Machine.execKset k g s
  | .kop o d sx g => Sys2Proof.Machine.execKop o d sx g s
  | .ksync k g => Sys2Proof.Machine.execKsync k g s
  | .waitc t c g => Sys2Proof.Machine.execWaitc t c g s
  | .yield g => Sys2Proof.Machine.execYield g s
  | .bar b g => Sys2Proof.Machine.execBar b g s
  | .bara b g => Sys2Proof.Machine.execBara b g s
  | .barw b g => Sys2Proof.Machine.execBarw b g s
  | .bari a b g => Sys2Proof.Machine.execBari a b g s
  | .launch a sx g => Sys2Proof.Machine.execLaunch a sx g s
  | .ldB8 d b o sx q g => Sys2Proof.Machine.execLdB8 d b o sx q g s
  | .ldS8 d b o sx q g => Sys2Proof.Machine.execLdS8 d b o sx q g s
  | .ldB16 d b o sx q g => Sys2Proof.Machine.execLdB16 d b o sx q g s
  | .ldS16 d b o sx q g => Sys2Proof.Machine.execLdS16 d b o sx q g s
  | .ldB32 d b o sx q g => Sys2Proof.Machine.execLdB32 d b o sx q g s
  | .ldB64 d b o sx q g => Sys2Proof.Machine.execLdB64 d b o sx q g s
  | .ldB128 d b o sx q g => Sys2Proof.Machine.execLdB128 d b o sx q g s
  | .ldMx d b o sx q g => Sys2Proof.Machine.execLdMx d b o sx q g s
  | .stB8 d b o sx q g => Sys2Proof.Machine.execStB8 d b o sx q g s
  | .stB16 d b o sx q g => Sys2Proof.Machine.execStB16 d b o sx q g s
  | .stB32 d b o sx q g => Sys2Proof.Machine.execStB32 d b o sx q g s
  | .stB64 d b o sx q g => Sys2Proof.Machine.execStB64 d b o sx q g s
  | .stB128 d b o sx q g => Sys2Proof.Machine.execStB128 d b o sx q g s
  | .stMx d b o sx q g => Sys2Proof.Machine.execStMx d b o sx q g s
  | .ldsB32 d b o q g => Sys2Proof.Machine.execLdsB32 d b o q g s
  | .ldsB64 d b o q g => Sys2Proof.Machine.execLdsB64 d b o q g s
  | .ldsB128 d b o q g => Sys2Proof.Machine.execLdsB128 d b o q g s
  | .stsB32 d b o q g => Sys2Proof.Machine.execStsB32 d b o q g s
  | .stsB64 d b o q g => Sys2Proof.Machine.execStsB64 d b o q g s
  | .stsB128 d b o q g => Sys2Proof.Machine.execStsB128 d b o q g s
  | .fe d b q g => Sys2Proof.Machine.execFe d b q g s
  | .atomAdd d b o sx q g => Sys2Proof.Machine.execAtomAdd d b o sx q g s
  | .atomAddB64 d b o sx q g => Sys2Proof.Machine.execAtomAddB64 d b o sx q g s
  | .atomAddf d b o sx q g => Sys2Proof.Machine.execAtomAddf d b o sx q g s
  | .atomMinS32 d b o sx q g => Sys2Proof.Machine.execAtomMinS32 d b o sx q g s
  | .atomMaxS32 d b o sx q g => Sys2Proof.Machine.execAtomMaxS32 d b o sx q g s
  | .atomMinN32 d b o sx q g => Sys2Proof.Machine.execAtomMinN32 d b o sx q g s
  | .atomMaxN32 d b o sx q g => Sys2Proof.Machine.execAtomMaxN32 d b o sx q g s
  | .atomAnd d b o sx q g => Sys2Proof.Machine.execAtomAnd d b o sx q g s
  | .atomOr d b o sx q g => Sys2Proof.Machine.execAtomOr d b o sx q g s
  | .atomXor d b o sx q g => Sys2Proof.Machine.execAtomXor d b o sx q g s
  | .atomExch d b o sx q g => Sys2Proof.Machine.execAtomExch d b o sx q g s
  | .atomCas d b o sx q g => Sys2Proof.Machine.execAtomCas d b o sx q g s
  | .atomCasB64 d b o sx q g => Sys2Proof.Machine.execAtomCasB64 d b o sx q g s
  | .satom d b o q g => Sys2Proof.Machine.execSatom d b o q g s
  | .ratom d b o q g => Sys2Proof.Machine.execRatom d b o q g s
  | .qpush d n g => Sys2Proof.Machine.execQpush d n g s
  | .qpop d n g => Sys2Proof.Machine.execQpop d n g s
  | .qcfg d n g => Sys2Proof.Machine.execQcfg d n g s
  | .waituEqNe d b t sx w c g => Sys2Proof.Machine.execWaituEqNe d b t sx w c g s
  | .waituSgeSlt d b t sx w c g => Sys2Proof.Machine.execWaituSgeSlt d b t sx w c g s
  | .waituNgeNlt d b t sx w c g => Sys2Proof.Machine.execWaituNgeNlt d b t sx w c g s
  | .waituAnyAll d b t sx w c g => Sys2Proof.Machine.execWaituAnyAll d b t sx w c g s
  | .waituChgUpd d b t sx w c g => Sys2Proof.Machine.execWaituChgUpd d b t sx w c g s
  | .fence sx q g => Sys2Proof.Machine.execFence sx q g s
  | .pref b o sx q g => Sys2Proof.Machine.execPref b o sx q g s
  | .sldB32 d b o sx q g => Sys2Proof.Machine.execSldB32 d b o sx q g s
  | .sldB64 d b o sx q g => Sys2Proof.Machine.execSldB64 d b o sx q g s
  | .sldB128 d b o sx q g => Sys2Proof.Machine.execSldB128 d b o sx q g s
  | .tdset d c g => Sys2Proof.Machine.execTdset d c g s
  | .cpy d sx k f u w g => Sys2Proof.Machine.execCpy d sx k f u w g s
  | .cpyq d sx k f t u r l ix o a w g => Sys2Proof.Machine.execCpyq d sx k f t u r l ix o a w g s
  | .cpyd d sx k f t u r ix o a w g => Sys2Proof.Machine.execCpyd d sx k f t u r ix o a w g s
  | .cpyt d sx k f t u r l ix o a w g => Sys2Proof.Machine.execCpyt d sx k f t u r l ix o a w g s
  | .cpyr d sx k f t u e g => Sys2Proof.Machine.execCpyr d sx k f t u e g s
  | .cpyf d k f t u r l ix o a g => Sys2Proof.Machine.execCpyf d k f t u r l ix o a g s
  | .cpyg d sx k f u w g => Sys2Proof.Machine.execCpyg d sx k f u w g s
  | .cpys k c g => Sys2Proof.Machine.execCpys k c g s
  | .qinit q n g => Sys2Proof.Machine.execQinit q n g s
  | .mma a b k w q c ix o sx n g => Sys2Proof.Machine.execMma a b k w q c ix o sx n g s
  | .mmaa a b k w q c ix o sx n g => Sys2Proof.Machine.execMmaa a b k w q c ix o sx n g s
  | .aclr k u g => Sys2Proof.Machine.execAclr k u g s
  | .ald d a b m g => Sys2Proof.Machine.execAld d a b m g s
  | .ast d a b m g => Sys2Proof.Machine.execAst d a b m g s
  | .acpy d sx k f u r l ix o sat v g => Sys2Proof.Machine.execAcpy d sx k f u r l ix o sat v g s
  | .setaw a b g => Sys2Proof.Machine.execSetaw a b g s
  | .cgrp c p g => Sys2Proof.Machine.execCgrp c p g s
  | .cput d sx k z p u g => Sys2Proof.Machine.execCput d sx k z p u g s
  | .cget d sx k z p u g => Sys2Proof.Machine.execCget d sx k z p u g s
  | .csig k p u g => Sys2Proof.Machine.execCsig k p u g s
  | .cgath d sx k z p u w r g => Sys2Proof.Machine.execCgath d sx k z p u w r g s
  | .crsc d sx k z p u w c r g => Sys2Proof.Machine.execCrsc d sx k z p u w c r g s
  | .card d sx k z p u w c r g => Sys2Proof.Machine.execCard d sx k z p u w c r g s
  | .cbcst d sx k z p u w r g => Sys2Proof.Machine.execCbcst d sx k z p u w r g s
  | .trap c g => Sys2Proof.Machine.execTrap c g s
  | .tres a g => Sys2Proof.Machine.execTres a g s
  | .tkill g => Sys2Proof.Machine.execTkill g s
  | .tesc c g => Sys2Proof.Machine.execTesc c g s
  | .csrr d x g => Sys2Proof.Machine.execCsrr d x g s
  | .csrw a x g => Sys2Proof.Machine.execCsrw a x g s
  | .setmode a sx g => Sys2Proof.Machine.execSetmode a sx g s
  | .gettime d sx g => Sys2Proof.Machine.execGettime d sx g s
  | .clauseIssue core quarter mates => Sys2Proof.Machine.execClauseIssue core quarter mates s
  | .pageWalk core part space va => Sys2Proof.Machine.execPageWalk core part space va s
  | .globalLoadPerform op line => Sys2Proof.Machine.execGlobalLoadPerform op line s
  | .loadReturn op line => Sys2Proof.Machine.execLoadReturn op line s
  | .writePerform op line => Sys2Proof.Machine.execWritePerform op line s
  | .atomicPerform op line => Sys2Proof.Machine.execAtomicPerform op line s
  | .lineFill reader line errors => Sys2Proof.Machine.execLineFill reader line errors s
  | .leaseWaitEnd what => Sys2Proof.Machine.execLeaseWaitEnd what s
  | .scratchpadBankAccess op granule => Sys2Proof.Machine.execScratchpadBankAccess op granule s
  | .ratomPerform op lane => Sys2Proof.Machine.execRatomPerform op lane s
  | .copyCommandComplete op => Sys2Proof.Machine.execCopyCommandComplete op s
  | .platenStart core op => Sys2Proof.Machine.execPlatenStart core op s
  | .platenComplete op => Sys2Proof.Machine.execPlatenComplete op s
  | .mantisRegistration op line => Sys2Proof.Machine.execMantisRegistration op line s
  | .mantisTimeout entry => Sys2Proof.Machine.execMantisTimeout entry s
  | .spillSweep slice => Sys2Proof.Machine.execSpillSweep slice s
  | .spillReclaim slice => Sys2Proof.Machine.execSpillReclaim slice s
  | .contextReevaluation entry => Sys2Proof.Machine.execContextReevaluation entry s
  | .streamStart part stream value => Sys2Proof.Machine.execStreamStart part stream value s
  | .streamSerialUpdate part stream value => Sys2Proof.Machine.execStreamSerialUpdate part stream value s
  | .streamStop part stream value => Sys2Proof.Machine.execStreamStop part stream value s
  | .schedulerStreamRead part stream => Sys2Proof.Machine.execSchedulerStreamRead part stream s
  | .gateRegistration launch => Sys2Proof.Machine.execGateRegistration launch s
  | .launchAdmit launch => Sys2Proof.Machine.execLaunchAdmit launch s
  | .blockPlace launch lin => Sys2Proof.Machine.execBlockPlace launch lin s
  | .blockSave uid => Sys2Proof.Machine.execBlockSave uid s
  | .blockRestore uid => Sys2Proof.Machine.execBlockRestore uid s
  | .blockFlush uid => Sys2Proof.Machine.execBlockFlush uid s
  | .launchAppendComplete op => Sys2Proof.Machine.execLaunchAppendComplete op s
  | .launchRetire launch => Sys2Proof.Machine.execLaunchRetire launch s
  | .handlerWaveForm core quarter => Sys2Proof.Machine.execHandlerWaveForm core quarter s
  | .pcfgResize path part value => Sys2Proof.Machine.execPcfgResize path part value s
  | .pcfgCancel path part value => Sys2Proof.Machine.execPcfgCancel path part value s
  | .cellRemoval part => Sys2Proof.Machine.execCellRemoval part s
  | .sliceRemoval part slice => Sys2Proof.Machine.execSliceRemoval part slice s
  | .channelGroupRemoval part group => Sys2Proof.Machine.execChannelGroupRemoval part group s
  | .bucketWrite path part reg value => Sys2Proof.Machine.execBucketWrite path part reg value s
  | .bucketRelease point op line => Sys2Proof.Machine.execBucketRelease point op line s
  | .shootdownStart part value => Sys2Proof.Machine.execShootdownStart part value s
  | .shootdownComplete part => Sys2Proof.Machine.execShootdownComplete part s
  | .scSnap part value => Sys2Proof.Machine.execScSnap part value s
  | .queueLostClear part fault value => Sys2Proof.Machine.execQueueLostClear part fault value s
  | .hmArm part monitor value => Sys2Proof.Machine.execHmArm part monitor value s
  | .hmDisarm part monitor value => Sys2Proof.Machine.execHmDisarm part monitor value s
  | .hmStatusClear part monitor value => Sys2Proof.Machine.execHmStatusClear part monitor value s
  | .replay part => Sys2Proof.Machine.execReplay part s
  | .killLane part => Sys2Proof.Machine.execKillLane part s
  | .killLaunch part => Sys2Proof.Machine.execKillLaunch part s
  | .replayRange part => Sys2Proof.Machine.execReplayRange part s
  | .ppodCtlWrite path part value => Sys2Proof.Machine.execPpodCtlWrite path part value s
  | .ppodFlush path part value => Sys2Proof.Machine.execPpodFlush path part value s
  | .podRequestReceive device sender target offset ask => Sys2Proof.Machine.execPodRequestReceive device sender target offset ask s
  | .podResponse req answer => Sys2Proof.Machine.execPodResponse req answer s
  | .podRequestTimeout req => Sys2Proof.Machine.execPodRequestTimeout req s
  | .ualinkPortDown port => Sys2Proof.Machine.execUalinkPortDown port s
  | .collectiveChunkArrival op chunk hop codes scales bad last source => Sys2Proof.Machine.execCollectiveChunkArrival op chunk hop codes scales bad last source s
  | .collectiveAbort uid gp seq => Sys2Proof.Machine.execCollectiveAbort uid gp seq s
  | .chaferOperationComplete step => Sys2Proof.Machine.execChaferOperationComplete step s
  | .cxlMemRead addr len => Sys2Proof.Machine.execCxlMemRead addr len s
  | .cxlMemWrite addr bytes => Sys2Proof.Machine.execCxlMemWrite addr bytes s
  | .hostSnoop part line kind bytes => Sys2Proof.Machine.execHostSnoop part line kind bytes s
  | .ownClaim path value => Sys2Proof.Machine.execOwnClaim path value s
  | .ownBeat path value => Sys2Proof.Machine.execOwnBeat path value s
  | .ownOffer path value => Sys2Proof.Machine.execOwnOffer path value s
  | .ownAccept path value => Sys2Proof.Machine.execOwnAccept path value s
  | .ownershipLapse => Sys2Proof.Machine.execOwnershipLapse s
  | .attCmd part value => Sys2Proof.Machine.execAttCmd part value s
  | .attestationComplete part => Sys2Proof.Machine.execAttestationComplete part s
  | .securityAlarm sensors => Sys2Proof.Machine.execSecurityAlarm sensors s
  | .fwLoad path => Sys2Proof.Machine.execFwLoad path s
  | .fwUpdate path => Sys2Proof.Machine.execFwUpdate path s
  | .fwImageVerified => Sys2Proof.Machine.execFwImageVerified s
  | .coldReset => Sys2Proof.Machine.execColdReset s
  | .powerFail => Sys2Proof.Machine.execPowerFail s
  | .functionLevelReset part => Sys2Proof.Machine.execFunctionLevelReset part s
  | .rfmIssue bank => Sys2Proof.Machine.execRfmIssue bank s
  | .periodicRefresh bank => Sys2Proof.Machine.execPeriodicRefresh bank s
  | .activationHold bank => Sys2Proof.Machine.execActivationHold bank s
  | .logRecordProgram => Sys2Proof.Machine.execLogRecordProgram s
  | .temperatureThreshold unit value => Sys2Proof.Machine.execTemperatureThreshold unit value s
  | .voltageDroop unit value => Sys2Proof.Machine.execVoltageDroop unit value s
  | .dataRateChange stack => Sys2Proof.Machine.execDataRateChange stack s
  | .coreClockChange core => Sys2Proof.Machine.execCoreClockChange core s
  | .registerWrite path window offset value => Sys2Proof.Machine.execRegisterWrite path window offset value s
  | .ualinkPortUp port => Sys2Proof.Machine.execUalinkPortUp port s
  | .acceleratorIdAssign id => Sys2Proof.Machine.execAcceleratorIdAssign id s
  | .lifetimeHistogramUpdate unit temperature droop => Sys2Proof.Machine.execLifetimeHistogramUpdate unit temperature droop s

end Sys2Proof.Machine
end

