-- ==== Sys2Proof/Decode.lean ====
section
/-! DEFINITION. The decoder, total on every word, and the encoder (R70 to R84, Tables 3.2 to 3.11). A word is decoded in the
class its clause header names (R63); a word that no table assigns is rejected by name (Table 3.15). -/

namespace Sys2Proof

/-- The field of `n` bits from bit `lo` of an instruction word. -/
def fld (w lo n : Nat) : BitVec n := BitVec.ofNat n (w / 2 ^ lo)

/-- The word fields the table requires to be zero, or one value, hold it. -/
def fixedIs (w lo n v : Nat) : Bool := w / 2 ^ lo % 2 ^ n == v

/-- The ALU class (class 0): the fields of each major opcode, before the checks of well-formedness. -/
def decodeAlu (op w : Nat) : Except Reject Instr :=
  match op with
  | 0 => .ok (.fadd (fld w 20 6) (fld w 13 7) (fld w 7 6) (fld w 4 3) (fld w 0 4))
  | 1 => .ok (.fsub (fld w 20 6) (fld w 13 7) (fld w 7 6) (fld w 4 3) (fld w 0 4))
  | 2 => .ok (.fmul (fld w 20 6) (fld w 13 7) (fld w 7 6) (fld w 4 3) (fld w 0 4))
  | 3 => .ok (.ffma (fld w 20 6) (fld w 13 7) (fld w 7 6) (fld w 4 3) (fld w 0 4))
  | 4 => .ok (.fmin (fld w 20 6) (fld w 13 7) (fld w 7 6) (fld w 4 3) (fld w 0 4))
  | 5 => .ok (.fmax (fld w 20 6) (fld w 13 7) (fld w 7 6) (fld w 4 3) (fld w 0 4))
  | 6 => .ok (.ftr (fld w 20 6) (fld w 13 7) (fld w 7 6) (fld w 4 3) (fld w 0 4))
  | 7 => .ok (.fcmp (fld w 20 6) (fld w 13 7) (fld w 7 6) (fld w 4 3) (fld w 0 4))
  | 8 => .ok (.dadd (fld w 20 6) (fld w 13 7) (fld w 7 6) (fld w 4 3) (fld w 0 4))
  | 9 => .ok (.dmul (fld w 20 6) (fld w 13 7) (fld w 7 6) (fld w 4 3) (fld w 0 4))
  | 10 => .ok (.dfma (fld w 20 6) (fld w 13 7) (fld w 7 6) (fld w 4 3) (fld w 0 4))
  | 11 => .ok (.dmnx (fld w 20 6) (fld w 13 7) (fld w 7 6) (fld w 4 3) (fld w 0 4))
  | 12 => .ok (.dtr (fld w 20 6) (fld w 13 7) (fld w 7 6) (fld w 4 3) (fld w 0 4))
  | 13 => .ok (.dcmp (fld w 20 6) (fld w 13 7) (fld w 7 6) (fld w 4 3) (fld w 0 4))
  | 14 => .ok (.hadd2 (fld w 20 6) (fld w 13 7) (fld w 7 6) (fld w 4 3) (fld w 0 4))
  | 15 => .ok (.hmul2 (fld w 20 6) (fld w 13 7) (fld w 7 6) (fld w 4 3) (fld w 0 4))
  | 16 => .ok (.hfma2 (fld w 20 6) (fld w 13 7) (fld w 7 6) (fld w 4 3) (fld w 0 4))
  | 17 => .ok (.badd2 (fld w 20 6) (fld w 13 7) (fld w 7 6) (fld w 4 3) (fld w 0 4))
  | 18 => .ok (.bmul2 (fld w 20 6) (fld w 13 7) (fld w 7 6) (fld w 4 3) (fld w 0 4))
  | 19 => .ok (.bfma2 (fld w 20 6) (fld w 13 7) (fld w 7 6) (fld w 4 3) (fld w 0 4))
  | 20 => .ok (.hmnx2 (fld w 20 6) (fld w 13 7) (fld w 7 6) (fld w 4 3) (fld w 0 4))
  | 21 => .ok (.hcmp2 (fld w 20 6) (fld w 13 7) (fld w 7 6) (fld w 4 3) (fld w 0 4))
  | 22 => .ok (.bcmp2 (fld w 20 6) (fld w 13 7) (fld w 7 6) (fld w 4 3) (fld w 0 4))
  | 23 => .ok (.cvtf (fld w 20 6) (fld w 13 7) (fld w 10 3) (fld w 8 2) (fld w 7 1) (fld w 6 1) (fld w 5 1) (fld w 4 1) (fld w 0 4))
  | 24 => if fixedIs w 4 1 0 then .ok (.cvtn (fld w 20 6) (fld w 13 7) (fld w 10 3) (fld w 7 3) (fld w 6 1) (fld w 5 1) (fld w 0 4)) else .error .reservedBits
  | 25 => if fixedIs w 4 3 0 then .ok (.cvti (fld w 20 6) (fld w 13 7) (fld w 12 1) (fld w 11 1) (fld w 9 2) (fld w 8 1) (fld w 7 1) (fld w 0 4)) else .error .reservedBits
  | 26 => if fixedIs w 4 1 0 then .ok (.cvtd (fld w 20 6) (fld w 13 7) (fld w 10 3) (fld w 8 2) (fld w 7 1) (fld w 6 1) (fld w 5 1) (fld w 0 4)) else .error .reservedBits
  | 27 => if fixedIs w 4 4 0 then .ok (.bamax (fld w 20 6) (fld w 13 7) (fld w 11 2) (fld w 9 2) (fld w 8 1) (fld w 0 4)) else .error .reservedBits
  | 28 => if fixedIs w 4 3 0 then .ok (.bscale (fld w 20 6) (fld w 13 7) (fld w 10 3) (fld w 8 2) (fld w 7 1) (fld w 0 4)) else .error .reservedBits
  | 29 => .ok (.mxpk (fld w 20 6) (fld w 13 7) (fld w 10 3) (fld w 8 2) (fld w 6 2) (fld w 5 1) (fld w 4 1) (fld w 0 4))
  | 30 => .ok (.mxup (fld w 20 6) (fld w 13 7) (fld w 10 3) (fld w 8 2) (fld w 5 3) (fld w 4 1) (fld w 0 4))
  | 31 => if fixedIs w 4 3 0 then .ok (.rail (fld w 20 6) (fld w 13 7) (fld w 10 3) (fld w 9 1) (fld w 7 2) (fld w 0 4)) else .error .reservedBits
  | 32 => .ok (.iadd (fld w 20 6) (fld w 13 7) (fld w 7 6) (fld w 4 3) (fld w 0 4))
  | 33 => .ok (.imul (fld w 20 6) (fld w 13 7) (fld w 7 6) (fld w 4 3) (fld w 0 4))
  | 34 => .ok (.imnx (fld w 20 6) (fld w 13 7) (fld w 7 6) (fld w 4 3) (fld w 0 4))
  | 35 => .ok (.ilog (fld w 20 6) (fld w 13 7) (fld w 7 6) (fld w 4 3) (fld w 0 4))
  | 36 => .ok (.ish (fld w 20 6) (fld w 13 7) (fld w 7 6) (fld w 4 3) (fld w 0 4))
  | 37 => if fixedIs w 12 1 0 then .ok (.ishi (fld w 20 6) (fld w 13 7) (fld w 9 3) (fld w 4 5) (fld w 0 4)) else .error .reservedBits
  | 38 => if fixedIs w 7 6 0 then .ok (.ibit (fld w 20 6) (fld w 13 7) (fld w 4 3) (fld w 0 4)) else .error .reservedBits
  | 39 => .ok (.bfe (fld w 20 6) (fld w 13 7) (fld w 7 6) (fld w 4 3) (fld w 0 4))
  | 40 => .ok (.bfi (fld w 20 6) (fld w 13 7) (fld w 7 6) (fld w 4 3) (fld w 0 4))
  | 41 => .ok (.icmp (fld w 20 6) (fld w 13 7) (fld w 7 6) (fld w 4 3) (fld w 0 4))
  | 42 => .ok (.icmpn (fld w 20 6) (fld w 13 7) (fld w 7 6) (fld w 4 3) (fld w 0 4))
  | 43 => if fixedIs w 0 1 0 then .ok (.sel (fld w 20 6) (fld w 13 7) (fld w 7 6) (fld w 1 6)) else .error .reservedBits
  | 44 => if fixedIs w 4 9 0 then .ok (.mov (fld w 20 6) (fld w 13 7) (fld w 0 4)) else .error .reservedBits
  | 45 => .ok (.movi (fld w 20 6) (fld w 4 16) (fld w 0 4))
  | 46 => .ok (.movh (fld w 20 6) (fld w 4 16) (fld w 0 4))
  | 47 => .ok (.movl (fld w 20 6) (fld w 4 16) (fld w 0 4))
  | 48 => .ok (.sadd (fld w 20 6) (fld w 13 7) (fld w 7 6) (fld w 4 3) (fld w 0 4))
  | 49 => .ok (.smul (fld w 20 6) (fld w 13 7) (fld w 7 6) (fld w 4 3) (fld w 0 4))
  | 50 => .ok (.slog (fld w 20 6) (fld w 13 7) (fld w 7 6) (fld w 4 3) (fld w 0 4))
  | 51 => .ok (.ssh (fld w 20 6) (fld w 13 7) (fld w 7 6) (fld w 4 3) (fld w 0 4))
  | 52 => .ok (.smovi (fld w 20 6) (fld w 4 16) (fld w 0 4))
  | 53 => .ok (.smovh (fld w 20 6) (fld w 4 16) (fld w 0 4))
  | 54 => .ok (.scmp (fld w 20 6) (fld w 13 7) (fld w 7 6) (fld w 4 3) (fld w 0 4))
  | 55 => if fixedIs w 4 9 0 then .ok (.smov (fld w 20 6) (fld w 13 7) (fld w 0 4)) else .error .reservedBits
  | 56 => .ok (.shfl (fld w 20 6) (fld w 13 7) (fld w 7 6) (fld w 4 3) (fld w 0 4))
  | 57 => if fixedIs w 9 4 0 then .ok (.qxch (fld w 20 6) (fld w 13 7) (fld w 7 2) (fld w 4 3) (fld w 0 4)) else .error .reservedBits
  | 58 => if fixedIs w 6 7 0 then .ok (.vote (fld w 20 6) (fld w 13 7) (fld w 4 2) (fld w 0 4)) else .error .reservedBits
  | 59 => if fixedIs w 8 5 0 then .ok (.redx (fld w 20 6) (fld w 13 7) (fld w 4 4) (fld w 0 4)) else .error .reservedBits
  | 60 => if fixedIs w 11 2 0 then .ok (.lane (fld w 20 6) (fld w 13 7) (fld w 5 6) (fld w 4 1) (fld w 0 4)) else .error .reservedBits
  | 61 => .ok (.plog (fld w 20 6) (fld w 13 7) (fld w 7 6) (fld w 4 3) (fld w 0 4))
  | 62 => if fixedIs w 4 3 0 then .ok (.rand (fld w 20 6) (fld w 13 7) (fld w 7 6) (fld w 0 4)) else .error .reservedBits
  | 63 => if fixedIs w 13 7 0 then .ok (.sread (fld w 20 6) (fld w 12 1) (fld w 4 8) (fld w 0 4)) else .error .reservedBits
  | _ => .error .unassignedMajor

/-- The CTRL class (class 1): the fields of each major opcode, before the checks of well-formedness. -/
def decodeCtrl (op w : Nat) : Except Reject Instr :=
  match op with
  | 0 => if fixedIs w 4 22 0 then .ok (.nop (fld w 0 4)) else .error .reservedBits
  | 1 => .ok (.bra (fld w 4 22) (fld w 0 4))
  | 2 => .ok (.bru (fld w 4 22) (fld w 0 4))
  | 3 => if fixedIs w 4 9 0 && fixedIs w 20 6 0 then .ok (.brx (fld w 13 7) (fld w 0 4)) else .error .reservedBits
  | 4 => .ok (.call (fld w 20 6) (fld w 4 16) (fld w 0 4))
  | 5 => if fixedIs w 4 9 0 && fixedIs w 20 6 0 then .ok (.ret (fld w 13 7) (fld w 0 4)) else .error .reservedBits
  | 6 => if fixedIs w 4 22 0 then .ok (.exit (fld w 0 4)) else .error .reservedBits
  | 7 => if fixedIs w 8 18 0 then .ok (.join (fld w 4 4) (fld w 0 4)) else .error .reservedBits
  | 8 => if fixedIs w 8 18 0 then .ok (.kset (fld w 4 4) (fld w 0 4)) else .error .reservedBits
  | 9 => if fixedIs w 8 12 0 then .ok (.kop (fld w 24 2) (fld w 20 4) (fld w 4 4) (fld w 0 4)) else .error .reservedBits
  | 10 => if fixedIs w 8 18 0 then .ok (.ksync (fld w 4 4) (fld w 0 4)) else .error .reservedBits
  | 11 => if fixedIs w 10 16 0 then .ok (.waitc (fld w 6 4) (fld w 4 2) (fld w 0 4)) else .error .reservedBits
  | 12 => if fixedIs w 4 22 0 then .ok (.yield (fld w 0 4)) else .error .reservedBits
  | 13 => if fixedIs w 8 18 0 then .ok (.bar (fld w 4 4) (fld w 0 4)) else .error .reservedBits
  | 14 => if fixedIs w 8 18 0 then .ok (.bara (fld w 4 4) (fld w 0 4)) else .error .reservedBits
  | 15 => if fixedIs w 8 18 0 then .ok (.barw (fld w 4 4) (fld w 0 4)) else .error .reservedBits
  | 16 => if fixedIs w 8 5 0 && fixedIs w 20 6 0 then .ok (.bari (fld w 13 7) (fld w 4 4) (fld w 0 4)) else .error .reservedBits
  | 17 => if fixedIs w 10 3 0 && fixedIs w 20 6 0 then .ok (.launch (fld w 13 7) (fld w 4 6) (fld w 0 4)) else .error .reservedBits
  | _ => .error .unassignedMajor

/-- The MEM class (class 2): the fields of each major opcode, before the checks of well-formedness. -/
def decodeMem (op w : Nat) : Except Reject Instr :=
  match op with
  | 0 => .ok (.ldB8 (fld w 20 6) (fld w 14 6) (fld w 8 6) (fld w 6 2) (fld w 4 2) (fld w 0 4))
  | 1 => .ok (.ldS8 (fld w 20 6) (fld w 14 6) (fld w 8 6) (fld w 6 2) (fld w 4 2) (fld w 0 4))
  | 2 => .ok (.ldB16 (fld w 20 6) (fld w 14 6) (fld w 8 6) (fld w 6 2) (fld w 4 2) (fld w 0 4))
  | 3 => .ok (.ldS16 (fld w 20 6) (fld w 14 6) (fld w 8 6) (fld w 6 2) (fld w 4 2) (fld w 0 4))
  | 4 => .ok (.ldB32 (fld w 20 6) (fld w 14 6) (fld w 8 6) (fld w 6 2) (fld w 4 2) (fld w 0 4))
  | 5 => .ok (.ldB64 (fld w 20 6) (fld w 14 6) (fld w 8 6) (fld w 6 2) (fld w 4 2) (fld w 0 4))
  | 6 => .ok (.ldB128 (fld w 20 6) (fld w 14 6) (fld w 8 6) (fld w 6 2) (fld w 4 2) (fld w 0 4))
  | 7 => .ok (.ldMx (fld w 20 6) (fld w 14 6) (fld w 8 6) (fld w 6 2) (fld w 4 2) (fld w 0 4))
  | 8 => .ok (.stB8 (fld w 20 6) (fld w 14 6) (fld w 8 6) (fld w 6 2) (fld w 4 2) (fld w 0 4))
  | 9 => .ok (.stB16 (fld w 20 6) (fld w 14 6) (fld w 8 6) (fld w 6 2) (fld w 4 2) (fld w 0 4))
  | 10 => .ok (.stB32 (fld w 20 6) (fld w 14 6) (fld w 8 6) (fld w 6 2) (fld w 4 2) (fld w 0 4))
  | 11 => .ok (.stB64 (fld w 20 6) (fld w 14 6) (fld w 8 6) (fld w 6 2) (fld w 4 2) (fld w 0 4))
  | 12 => .ok (.stB128 (fld w 20 6) (fld w 14 6) (fld w 8 6) (fld w 6 2) (fld w 4 2) (fld w 0 4))
  | 13 => .ok (.stMx (fld w 20 6) (fld w 14 6) (fld w 8 6) (fld w 6 2) (fld w 4 2) (fld w 0 4))
  | 14 => if fixedIs w 6 2 0 then .ok (.ldsB32 (fld w 20 6) (fld w 14 6) (fld w 8 6) (fld w 4 2) (fld w 0 4)) else .error .reservedBits
  | 15 => if fixedIs w 6 2 0 then .ok (.ldsB64 (fld w 20 6) (fld w 14 6) (fld w 8 6) (fld w 4 2) (fld w 0 4)) else .error .reservedBits
  | 16 => if fixedIs w 6 2 0 then .ok (.ldsB128 (fld w 20 6) (fld w 14 6) (fld w 8 6) (fld w 4 2) (fld w 0 4)) else .error .reservedBits
  | 17 => if fixedIs w 6 2 0 then .ok (.stsB32 (fld w 20 6) (fld w 14 6) (fld w 8 6) (fld w 4 2) (fld w 0 4)) else .error .reservedBits
  | 18 => if fixedIs w 6 2 0 then .ok (.stsB64 (fld w 20 6) (fld w 14 6) (fld w 8 6) (fld w 4 2) (fld w 0 4)) else .error .reservedBits
  | 19 => if fixedIs w 6 2 0 then .ok (.stsB128 (fld w 20 6) (fld w 14 6) (fld w 8 6) (fld w 4 2) (fld w 0 4)) else .error .reservedBits
  | 20 => if fixedIs w 6 8 0 then .ok (.fe (fld w 20 6) (fld w 14 6) (fld w 4 2) (fld w 0 4)) else .error .reservedBits
  | 21 => .ok (.atomAdd (fld w 20 6) (fld w 14 6) (fld w 8 6) (fld w 6 2) (fld w 4 2) (fld w 0 4))
  | 22 => .ok (.atomAddB64 (fld w 20 6) (fld w 14 6) (fld w 8 6) (fld w 6 2) (fld w 4 2) (fld w 0 4))
  | 23 => .ok (.atomAddf (fld w 20 6) (fld w 14 6) (fld w 8 6) (fld w 6 2) (fld w 4 2) (fld w 0 4))
  | 24 => .ok (.atomMinS32 (fld w 20 6) (fld w 14 6) (fld w 8 6) (fld w 6 2) (fld w 4 2) (fld w 0 4))
  | 25 => .ok (.atomMaxS32 (fld w 20 6) (fld w 14 6) (fld w 8 6) (fld w 6 2) (fld w 4 2) (fld w 0 4))
  | 26 => .ok (.atomMinN32 (fld w 20 6) (fld w 14 6) (fld w 8 6) (fld w 6 2) (fld w 4 2) (fld w 0 4))
  | 27 => .ok (.atomMaxN32 (fld w 20 6) (fld w 14 6) (fld w 8 6) (fld w 6 2) (fld w 4 2) (fld w 0 4))
  | 28 => .ok (.atomAnd (fld w 20 6) (fld w 14 6) (fld w 8 6) (fld w 6 2) (fld w 4 2) (fld w 0 4))
  | 29 => .ok (.atomOr (fld w 20 6) (fld w 14 6) (fld w 8 6) (fld w 6 2) (fld w 4 2) (fld w 0 4))
  | 30 => .ok (.atomXor (fld w 20 6) (fld w 14 6) (fld w 8 6) (fld w 6 2) (fld w 4 2) (fld w 0 4))
  | 31 => .ok (.atomExch (fld w 20 6) (fld w 14 6) (fld w 8 6) (fld w 6 2) (fld w 4 2) (fld w 0 4))
  | 32 => .ok (.atomCas (fld w 20 6) (fld w 14 6) (fld w 8 6) (fld w 6 2) (fld w 4 2) (fld w 0 4))
  | 33 => .ok (.atomCasB64 (fld w 20 6) (fld w 14 6) (fld w 8 6) (fld w 6 2) (fld w 4 2) (fld w 0 4))
  | 34 => if fixedIs w 6 2 0 && fixedIs w 12 2 0 then .ok (.satom (fld w 20 6) (fld w 14 6) (fld w 8 4) (fld w 4 2) (fld w 0 4)) else .error .reservedBits
  | 35 => if fixedIs w 6 2 1 && fixedIs w 12 2 0 then .ok (.ratom (fld w 20 6) (fld w 14 6) (fld w 8 4) (fld w 4 2) (fld w 0 4)) else .error .reservedBits
  | 36 => if fixedIs w 4 4 0 && fixedIs w 12 8 0 then .ok (.qpush (fld w 20 6) (fld w 8 4) (fld w 0 4)) else .error .reservedBits
  | 37 => if fixedIs w 4 4 0 && fixedIs w 12 8 0 then .ok (.qpop (fld w 20 6) (fld w 8 4) (fld w 0 4)) else .error .reservedBits
  | 38 => if fixedIs w 4 4 0 && fixedIs w 12 8 0 then .ok (.qcfg (fld w 20 6) (fld w 8 4) (fld w 0 4)) else .error .reservedBits
  | 39 => .ok (.waituEqNe (fld w 20 6) (fld w 14 6) (fld w 8 6) (fld w 6 2) (fld w 5 1) (fld w 4 1) (fld w 0 4))
  | 40 => .ok (.waituSgeSlt (fld w 20 6) (fld w 14 6) (fld w 8 6) (fld w 6 2) (fld w 5 1) (fld w 4 1) (fld w 0 4))
  | 41 => .ok (.waituNgeNlt (fld w 20 6) (fld w 14 6) (fld w 8 6) (fld w 6 2) (fld w 5 1) (fld w 4 1) (fld w 0 4))
  | 42 => .ok (.waituAnyAll (fld w 20 6) (fld w 14 6) (fld w 8 6) (fld w 6 2) (fld w 5 1) (fld w 4 1) (fld w 0 4))
  | 43 => .ok (.waituChgUpd (fld w 20 6) (fld w 14 6) (fld w 8 6) (fld w 6 2) (fld w 5 1) (fld w 4 1) (fld w 0 4))
  | 44 => if fixedIs w 8 18 0 then .ok (.fence (fld w 6 2) (fld w 4 2) (fld w 0 4)) else .error .reservedBits
  | 45 => if fixedIs w 20 6 0 then .ok (.pref (fld w 14 6) (fld w 8 6) (fld w 6 2) (fld w 4 2) (fld w 0 4)) else .error .reservedBits
  | 46 => .ok (.sldB32 (fld w 20 6) (fld w 14 6) (fld w 8 6) (fld w 6 2) (fld w 4 2) (fld w 0 4))
  | 47 => .ok (.sldB64 (fld w 20 6) (fld w 14 6) (fld w 8 6) (fld w 6 2) (fld w 4 2) (fld w 0 4))
  | 48 => .ok (.sldB128 (fld w 20 6) (fld w 14 6) (fld w 8 6) (fld w 6 2) (fld w 4 2) (fld w 0 4))
  | _ => .error .unassignedMajor

/-- The COPY class (class 3): the fields of each major opcode, before the checks of well-formedness. -/
def decodeCopy (op w : Nat) : Except Reject Instr :=
  match op with
  | 0 => if fixedIs w 4 8 0 && fixedIs w 18 4 0 then .ok (.tdset (fld w 22 4) (fld w 12 6) (fld w 0 4)) else .error .reservedBits
  | 1 => if fixedIs w 5 6 0 && fixedIs w 12 2 0 then .ok (.cpy (fld w 22 4) (fld w 18 4) (fld w 15 3) (fld w 14 1) (fld w 11 1) (fld w 4 1) (fld w 0 4)) else .error .reservedBits
  | 2 => if fixedIs w 12 1 0 then .ok (.cpyq (fld w 22 4) (fld w 18 4) (fld w 15 3) (fld w 14 1) (fld w 13 1) (fld w 11 1) (fld w 9 2) (fld w 8 1) (fld w 7 1) (fld w 6 1) (fld w 5 1) (fld w 4 1) (fld w 0 4)) else .error .reservedBits
  | 3 => if fixedIs w 8 1 0 && fixedIs w 12 1 0 then .ok (.cpyd (fld w 22 4) (fld w 18 4) (fld w 15 3) (fld w 14 1) (fld w 13 1) (fld w 11 1) (fld w 9 2) (fld w 7 1) (fld w 6 1) (fld w 5 1) (fld w 4 1) (fld w 0 4)) else .error .reservedBits
  | 4 => if fixedIs w 12 1 0 then .ok (.cpyt (fld w 22 4) (fld w 18 4) (fld w 15 3) (fld w 14 1) (fld w 13 1) (fld w 11 1) (fld w 9 2) (fld w 8 1) (fld w 7 1) (fld w 6 1) (fld w 5 1) (fld w 4 1) (fld w 0 4)) else .error .reservedBits
  | 5 => if fixedIs w 12 1 0 then .ok (.cpyr (fld w 22 4) (fld w 18 4) (fld w 15 3) (fld w 14 1) (fld w 13 1) (fld w 11 1) (fld w 4 7) (fld w 0 4)) else .error .reservedBits
  | 6 => if fixedIs w 4 1 0 && fixedIs w 12 1 0 && fixedIs w 18 4 0 then .ok (.cpyf (fld w 22 4) (fld w 15 3) (fld w 14 1) (fld w 13 1) (fld w 11 1) (fld w 9 2) (fld w 8 1) (fld w 7 1) (fld w 6 1) (fld w 5 1) (fld w 0 4)) else .error .reservedBits
  | 7 => if fixedIs w 5 6 0 && fixedIs w 12 2 0 then .ok (.cpyg (fld w 22 4) (fld w 18 4) (fld w 15 3) (fld w 14 1) (fld w 11 1) (fld w 4 1) (fld w 0 4)) else .error .reservedBits
  | 8 => if fixedIs w 5 10 0 && fixedIs w 18 8 0 then .ok (.cpys (fld w 15 3) (fld w 4 1) (fld w 0 4)) else .error .reservedBits
  | _ => .error .unassignedMajor

/-- The MTX class (class 4): the fields of each major opcode, before the checks of well-formedness. -/
def decodeMtx (op w : Nat) : Except Reject Instr :=
  match op with
  | 0 => if fixedIs w 12 14 0 then .ok (.qinit (fld w 9 3) (fld w 4 5) (fld w 0 4)) else .error .reservedBits
  | 1 => if fixedIs w 12 2 0 then .ok (.mma (fld w 22 4) (fld w 18 4) (fld w 15 3) (fld w 14 1) (fld w 9 3) (fld w 8 1) (fld w 7 1) (fld w 6 1) (fld w 5 1) (fld w 4 1) (fld w 0 4)) else .error .reservedBits
  | 2 => if fixedIs w 12 2 0 then .ok (.mmaa (fld w 22 4) (fld w 18 4) (fld w 15 3) (fld w 14 1) (fld w 9 3) (fld w 8 1) (fld w 7 1) (fld w 6 1) (fld w 5 1) (fld w 4 1) (fld w 0 4)) else .error .reservedBits
  | 3 => if fixedIs w 4 7 0 && fixedIs w 12 3 0 && fixedIs w 18 8 0 then .ok (.aclr (fld w 15 3) (fld w 11 1) (fld w 0 4)) else .error .reservedBits
  | 4 => .ok (.ald (fld w 20 6) (fld w 13 7) (fld w 7 6) (fld w 4 3) (fld w 0 4))
  | 5 => .ok (.ast (fld w 20 6) (fld w 13 7) (fld w 7 6) (fld w 4 3) (fld w 0 4))
  | 6 => if fixedIs w 12 2 0 then .ok (.acpy (fld w 22 4) (fld w 18 4) (fld w 15 3) (fld w 14 1) (fld w 11 1) (fld w 9 2) (fld w 8 1) (fld w 7 1) (fld w 6 1) (fld w 5 1) (fld w 4 1) (fld w 0 4)) else .error .reservedBits
  | 7 => if fixedIs w 4 3 0 && fixedIs w 20 6 0 then .ok (.setaw (fld w 13 7) (fld w 7 6) (fld w 0 4)) else .error .reservedBits
  | _ => .error .unassignedMajor

/-- The COLL class (class 5): the fields of each major opcode, before the checks of well-formedness. -/
def decodeColl (op w : Nat) : Except Reject Instr :=
  match op with
  | 0 => if fixedIs w 4 5 0 && fixedIs w 18 8 0 then .ok (.cgrp (fld w 12 6) (fld w 9 3) (fld w 0 4)) else .error .reservedBits
  | 1 => if fixedIs w 4 4 0 && fixedIs w 12 2 0 then .ok (.cput (fld w 22 4) (fld w 18 4) (fld w 15 3) (fld w 14 1) (fld w 9 3) (fld w 8 1) (fld w 0 4)) else .error .reservedBits
  | 2 => if fixedIs w 4 4 0 && fixedIs w 12 2 0 then .ok (.cget (fld w 22 4) (fld w 18 4) (fld w 15 3) (fld w 14 1) (fld w 9 3) (fld w 8 1) (fld w 0 4)) else .error .reservedBits
  | 3 => if fixedIs w 4 4 0 && fixedIs w 12 3 0 && fixedIs w 18 8 0 then .ok (.csig (fld w 15 3) (fld w 9 3) (fld w 8 1) (fld w 0 4)) else .error .reservedBits
  | 4 => if fixedIs w 5 1 0 && fixedIs w 12 2 0 then .ok (.cgath (fld w 22 4) (fld w 18 4) (fld w 15 3) (fld w 14 1) (fld w 9 3) (fld w 8 1) (fld w 6 2) (fld w 4 1) (fld w 0 4)) else .error .reservedBits
  | 5 => if fixedIs w 12 2 0 then .ok (.crsc (fld w 22 4) (fld w 18 4) (fld w 15 3) (fld w 14 1) (fld w 9 3) (fld w 8 1) (fld w 6 2) (fld w 5 1) (fld w 4 1) (fld w 0 4)) else .error .reservedBits
  | 6 => if fixedIs w 12 2 0 then .ok (.card (fld w 22 4) (fld w 18 4) (fld w 15 3) (fld w 14 1) (fld w 9 3) (fld w 8 1) (fld w 6 2) (fld w 5 1) (fld w 4 1) (fld w 0 4)) else .error .reservedBits
  | 7 => if fixedIs w 5 1 0 && fixedIs w 12 2 0 then .ok (.cbcst (fld w 22 4) (fld w 18 4) (fld w 15 3) (fld w 14 1) (fld w 9 3) (fld w 8 1) (fld w 6 2) (fld w 4 1) (fld w 0 4)) else .error .reservedBits
  | _ => .error .unassignedMajor

/-- The SYS class (class 6): the fields of each major opcode, before the checks of well-formedness. -/
def decodeSys (op w : Nat) : Except Reject Instr :=
  match op with
  | 0 => if fixedIs w 12 14 0 then .ok (.trap (fld w 4 8) (fld w 0 4)) else .error .reservedBits
  | 1 => if fixedIs w 4 9 0 && fixedIs w 20 6 0 then .ok (.tres (fld w 13 7) (fld w 0 4)) else .error .reservedBits
  | 2 => if fixedIs w 4 22 0 then .ok (.tkill (fld w 0 4)) else .error .reservedBits
  | 3 => if fixedIs w 12 14 0 then .ok (.tesc (fld w 4 8) (fld w 0 4)) else .error .reservedBits
  | 4 => if fixedIs w 13 7 0 then .ok (.csrr (fld w 20 6) (fld w 4 9) (fld w 0 4)) else .error .reservedBits
  | 5 => if fixedIs w 20 6 0 then .ok (.csrw (fld w 13 7) (fld w 4 9) (fld w 0 4)) else .error .reservedBits
  | 6 => if fixedIs w 6 7 0 && fixedIs w 20 6 0 then .ok (.setmode (fld w 13 7) (fld w 4 2) (fld w 0 4)) else .error .reservedBits
  | 7 => if fixedIs w 4 8 0 && fixedIs w 13 7 0 then .ok (.gettime (fld w 20 6) (fld w 12 1) (fld w 0 4)) else .error .reservedBits
  | _ => .error .unassignedMajor

/-- The fields of a word in the class its header names, before the checks of well-formedness. -/
def decodeFields (cls w : Nat) : Except Reject Instr :=
  match cls with
  | 0 => decodeAlu (w / 2 ^ 26 % 64) w
  | 1 => decodeCtrl (w / 2 ^ 26 % 64) w
  | 2 => decodeMem (w / 2 ^ 26 % 64) w
  | 3 => decodeCopy (w / 2 ^ 26 % 64) w
  | 4 => decodeMtx (w / 2 ^ 26 % 64) w
  | 5 => decodeColl (w / 2 ^ 26 % 64) w
  | 6 => decodeSys (w / 2 ^ 26 % 64) w
  | _ => .error .illegalClass

/-- The decoder: an instruction word in the class its clause header names (R63), or the name of what is wrong with it
(Table 3.15). -/
def decodeWord (cls w : Nat) : Except Reject Instr :=
  match decodeFields cls w with
  | .error r => .error r
  | .ok i => match i.reject with
    | some r => .error r
    | none => .ok i

/-- The number an instruction's word holds, the fields at the places of R70; 0 for a step of the device, which has no word. -/
def encodeNat (i : Instr) : Nat :=
  match i with
  | .fadd d a b m g => d.toNat * 1048576 + a.toNat * 8192 + b.toNat * 128 + m.toNat * 16 + g.toNat
  | .fsub d a b m g => 67108864 + d.toNat * 1048576 + a.toNat * 8192 + b.toNat * 128 + m.toNat * 16 + g.toNat
  | .fmul d a b m g => 134217728 + d.toNat * 1048576 + a.toNat * 8192 + b.toNat * 128 + m.toNat * 16 + g.toNat
  | .ffma d a b m g => 201326592 + d.toNat * 1048576 + a.toNat * 8192 + b.toNat * 128 + m.toNat * 16 + g.toNat
  | .fmin d a b m g => 268435456 + d.toNat * 1048576 + a.toNat * 8192 + b.toNat * 128 + m.toNat * 16 + g.toNat
  | .fmax d a b m g => 335544320 + d.toNat * 1048576 + a.toNat * 8192 + b.toNat * 128 + m.toNat * 16 + g.toNat
  | .ftr d a s m g => 402653184 + d.toNat * 1048576 + a.toNat * 8192 + s.toNat * 128 + m.toNat * 16 + g.toNat
  | .fcmp p a b c g => 469762048 + p.toNat * 1048576 + a.toNat * 8192 + b.toNat * 128 + c.toNat * 16 + g.toNat
  | .dadd d a b m g => 536870912 + d.toNat * 1048576 + a.toNat * 8192 + b.toNat * 128 + m.toNat * 16 + g.toNat
  | .dmul d a b m g => 603979776 + d.toNat * 1048576 + a.toNat * 8192 + b.toNat * 128 + m.toNat * 16 + g.toNat
  | .dfma d a b m g => 671088640 + d.toNat * 1048576 + a.toNat * 8192 + b.toNat * 128 + m.toNat * 16 + g.toNat
  | .dmnx d a b m g => 738197504 + d.toNat * 1048576 + a.toNat * 8192 + b.toNat * 128 + m.toNat * 16 + g.toNat
  | .dtr d a s m g => 805306368 + d.toNat * 1048576 + a.toNat * 8192 + s.toNat * 128 + m.toNat * 16 + g.toNat
  | .dcmp p a b c g => 872415232 + p.toNat * 1048576 + a.toNat * 8192 + b.toNat * 128 + c.toNat * 16 + g.toNat
  | .hadd2 d a b m g => 939524096 + d.toNat * 1048576 + a.toNat * 8192 + b.toNat * 128 + m.toNat * 16 + g.toNat
  | .hmul2 d a b m g => 1006632960 + d.toNat * 1048576 + a.toNat * 8192 + b.toNat * 128 + m.toNat * 16 + g.toNat
  | .hfma2 d a b m g => 1073741824 + d.toNat * 1048576 + a.toNat * 8192 + b.toNat * 128 + m.toNat * 16 + g.toNat
  | .badd2 d a b m g => 1140850688 + d.toNat * 1048576 + a.toNat * 8192 + b.toNat * 128 + m.toNat * 16 + g.toNat
  | .bmul2 d a b m g => 1207959552 + d.toNat * 1048576 + a.toNat * 8192 + b.toNat * 128 + m.toNat * 16 + g.toNat
  | .bfma2 d a b m g => 1275068416 + d.toNat * 1048576 + a.toNat * 8192 + b.toNat * 128 + m.toNat * 16 + g.toNat
  | .hmnx2 d a b m g => 1342177280 + d.toNat * 1048576 + a.toNat * 8192 + b.toNat * 128 + m.toNat * 16 + g.toNat
  | .hcmp2 p a b c g => 1409286144 + p.toNat * 1048576 + a.toNat * 8192 + b.toNat * 128 + c.toNat * 16 + g.toNat
  | .bcmp2 p a b c g => 1476395008 + p.toNat * 1048576 + a.toNat * 8192 + b.toNat * 128 + c.toNat * 16 + g.toNat
  | .cvtf d a t r i o s h g => 1543503872 + d.toNat * 1048576 + a.toNat * 8192 + t.toNat * 1024 + r.toNat * 256 + i.toNat * 128 + o.toNat * 64 + s.toNat * 32 + h.toNat * 16 + g.toNat
  | .cvtn d a s l i f g => 1610612736 + d.toNat * 1048576 + a.toNat * 8192 + s.toNat * 1024 + l.toNat * 128 + i.toNat * 64 + f.toNat * 32 + g.toNat
  | .cvti d a v n r i s g => 1677721600 + d.toNat * 1048576 + a.toNat * 8192 + v.toNat * 4096 + n.toNat * 2048 + r.toNat * 512 + i.toNat * 256 + s.toNat * 128 + g.toNat
  | .cvtd d a o r i f s g => 1744830464 + d.toNat * 1048576 + a.toNat * 8192 + o.toNat * 1024 + r.toNat * 256 + i.toNat * 128 + f.toNat * 64 + s.toNat * 32 + g.toNat
  | .bamax d a k i f g => 1811939328 + d.toNat * 1048576 + a.toNat * 8192 + k.toNat * 2048 + i.toNat * 512 + f.toNat * 256 + g.toNat
  | .bscale d a f k l g => 1879048192 + d.toNat * 1048576 + a.toNat * 8192 + f.toNat * 1024 + k.toNat * 256 + l.toNat * 128 + g.toNat
  | .mxpk d a f j r i o g => 1946157056 + d.toNat * 1048576 + a.toNat * 8192 + f.toNat * 1024 + j.toNat * 256 + r.toNat * 64 + i.toNat * 32 + o.toNat * 16 + g.toNat
  | .mxup d a f k s i g => 2013265920 + d.toNat * 1048576 + a.toNat * 8192 + f.toNat * 1024 + k.toNat * 256 + s.toNat * 32 + i.toNat * 16 + g.toNat
  | .rail d a o l k g => 2080374784 + d.toNat * 1048576 + a.toNat * 8192 + o.toNat * 1024 + l.toNat * 512 + k.toNat * 128 + g.toNat
  | .iadd d a b m g => 2147483648 + d.toNat * 1048576 + a.toNat * 8192 + b.toNat * 128 + m.toNat * 16 + g.toNat
  | .imul d a b m g => 2214592512 + d.toNat * 1048576 + a.toNat * 8192 + b.toNat * 128 + m.toNat * 16 + g.toNat
  | .imnx d a b m g => 2281701376 + d.toNat * 1048576 + a.toNat * 8192 + b.toNat * 128 + m.toNat * 16 + g.toNat
  | .ilog d a b m g => 2348810240 + d.toNat * 1048576 + a.toNat * 8192 + b.toNat * 128 + m.toNat * 16 + g.toNat
  | .ish d a b m g => 2415919104 + d.toNat * 1048576 + a.toNat * 8192 + b.toNat * 128 + m.toNat * 16 + g.toNat
  | .ishi d a o n g => 2483027968 + d.toNat * 1048576 + a.toNat * 8192 + o.toNat * 512 + n.toNat * 16 + g.toNat
  | .ibit d a m g => 2550136832 + d.toNat * 1048576 + a.toNat * 8192 + m.toNat * 16 + g.toNat
  | .bfe d a b m g => 2617245696 + d.toNat * 1048576 + a.toNat * 8192 + b.toNat * 128 + m.toNat * 16 + g.toNat
  | .bfi d a b m g => 2684354560 + d.toNat * 1048576 + a.toNat * 8192 + b.toNat * 128 + m.toNat * 16 + g.toNat
  | .icmp p a b c g => 2751463424 + p.toNat * 1048576 + a.toNat * 8192 + b.toNat * 128 + c.toNat * 16 + g.toNat
  | .icmpn p a b c g => 2818572288 + p.toNat * 1048576 + a.toNat * 8192 + b.toNat * 128 + c.toNat * 16 + g.toNat
  | .sel d a b p => 2885681152 + d.toNat * 1048576 + a.toNat * 8192 + b.toNat * 128 + p.toNat * 2
  | .mov d a g => 2952790016 + d.toNat * 1048576 + a.toNat * 8192 + g.toNat
  | .movi d i g => 3019898880 + d.toNat * 1048576 + i.toNat * 16 + g.toNat
  | .movh d i g => 3087007744 + d.toNat * 1048576 + i.toNat * 16 + g.toNat
  | .movl d i g => 3154116608 + d.toNat * 1048576 + i.toNat * 16 + g.toNat
  | .sadd d a b m g => 3221225472 + d.toNat * 1048576 + a.toNat * 8192 + b.toNat * 128 + m.toNat * 16 + g.toNat
  | .smul d a b m g => 3288334336 + d.toNat * 1048576 + a.toNat * 8192 + b.toNat * 128 + m.toNat * 16 + g.toNat
  | .slog d a b m g => 3355443200 + d.toNat * 1048576 + a.toNat * 8192 + b.toNat * 128 + m.toNat * 16 + g.toNat
  | .ssh d a b m g => 3422552064 + d.toNat * 1048576 + a.toNat * 8192 + b.toNat * 128 + m.toNat * 16 + g.toNat
  | .smovi d i g => 3489660928 + d.toNat * 1048576 + i.toNat * 16 + g.toNat
  | .smovh d i g => 3556769792 + d.toNat * 1048576 + i.toNat * 16 + g.toNat
  | .scmp p a b c g => 3623878656 + p.toNat * 1048576 + a.toNat * 8192 + b.toNat * 128 + c.toNat * 16 + g.toNat
  | .smov d a g => 3690987520 + d.toNat * 1048576 + a.toNat * 8192 + g.toNat
  | .shfl d a b m g => 3758096384 + d.toNat * 1048576 + a.toNat * 8192 + b.toNat * 128 + m.toNat * 16 + g.toNat
  | .qxch d a i t g => 3825205248 + d.toNat * 1048576 + a.toNat * 8192 + i.toNat * 128 + t.toNat * 16 + g.toNat
  | .vote d a t g => 3892314112 + d.toNat * 1048576 + a.toNat * 8192 + t.toNat * 16 + g.toNat
  | .redx d a o g => 3959422976 + d.toNat * 1048576 + a.toNat * 8192 + o.toNat * 16 + g.toNat
  | .lane d a n w g => 4026531840 + d.toNat * 1048576 + a.toNat * 8192 + n.toNat * 32 + w.toNat * 16 + g.toNat
  | .plog d a q o g => 4093640704 + d.toNat * 1048576 + a.toNat * 8192 + q.toNat * 128 + o.toNat * 16 + g.toNat
  | .rand d a b g => 4160749568 + d.toNat * 1048576 + a.toNat * 8192 + b.toNat * 128 + g.toNat
  | .sread d s r g => 4227858432 + d.toNat * 1048576 + s.toNat * 4096 + r.toNat * 16 + g.toNat
  | .nop g => g.toNat
  | .bra o g => 67108864 + o.toNat * 16 + g.toNat
  | .bru o g => 134217728 + o.toNat * 16 + g.toNat
  | .brx a g => 201326592 + a.toNat * 8192 + g.toNat
  | .call l o g => 268435456 + l.toNat * 1048576 + o.toNat * 16 + g.toNat
  | .ret a g => 335544320 + a.toNat * 8192 + g.toNat
  | .exit g => 402653184 + g.toNat
  | .join k g => 469762048 + k.toNat * 16 + g.toNat
  | .kset k g => 536870912 + k.toNat * 16 + g.toNat
  | .kop o d s g => 603979776 + o.toNat * 16777216 + d.toNat * 1048576 + s.toNat * 16 + g.toNat
  | .ksync k g => 671088640 + k.toNat * 16 + g.toNat
  | .waitc t c g => 738197504 + t.toNat * 64 + c.toNat * 16 + g.toNat
  | .yield g => 805306368 + g.toNat
  | .bar b g => 872415232 + b.toNat * 16 + g.toNat
  | .bara b g => 939524096 + b.toNat * 16 + g.toNat
  | .barw b g => 1006632960 + b.toNat * 16 + g.toNat
  | .bari a b g => 1073741824 + a.toNat * 8192 + b.toNat * 16 + g.toNat
  | .launch a s g => 1140850688 + a.toNat * 8192 + s.toNat * 16 + g.toNat
  | .ldB8 d b o s q g => d.toNat * 1048576 + b.toNat * 16384 + o.toNat * 256 + s.toNat * 64 + q.toNat * 16 + g.toNat
  | .ldS8 d b o s q g => 67108864 + d.toNat * 1048576 + b.toNat * 16384 + o.toNat * 256 + s.toNat * 64 + q.toNat * 16 + g.toNat
  | .ldB16 d b o s q g => 134217728 + d.toNat * 1048576 + b.toNat * 16384 + o.toNat * 256 + s.toNat * 64 + q.toNat * 16 + g.toNat
  | .ldS16 d b o s q g => 201326592 + d.toNat * 1048576 + b.toNat * 16384 + o.toNat * 256 + s.toNat * 64 + q.toNat * 16 + g.toNat
  | .ldB32 d b o s q g => 268435456 + d.toNat * 1048576 + b.toNat * 16384 + o.toNat * 256 + s.toNat * 64 + q.toNat * 16 + g.toNat
  | .ldB64 d b o s q g => 335544320 + d.toNat * 1048576 + b.toNat * 16384 + o.toNat * 256 + s.toNat * 64 + q.toNat * 16 + g.toNat
  | .ldB128 d b o s q g => 402653184 + d.toNat * 1048576 + b.toNat * 16384 + o.toNat * 256 + s.toNat * 64 + q.toNat * 16 + g.toNat
  | .ldMx d b o s q g => 469762048 + d.toNat * 1048576 + b.toNat * 16384 + o.toNat * 256 + s.toNat * 64 + q.toNat * 16 + g.toNat
  | .stB8 d b o s q g => 536870912 + d.toNat * 1048576 + b.toNat * 16384 + o.toNat * 256 + s.toNat * 64 + q.toNat * 16 + g.toNat
  | .stB16 d b o s q g => 603979776 + d.toNat * 1048576 + b.toNat * 16384 + o.toNat * 256 + s.toNat * 64 + q.toNat * 16 + g.toNat
  | .stB32 d b o s q g => 671088640 + d.toNat * 1048576 + b.toNat * 16384 + o.toNat * 256 + s.toNat * 64 + q.toNat * 16 + g.toNat
  | .stB64 d b o s q g => 738197504 + d.toNat * 1048576 + b.toNat * 16384 + o.toNat * 256 + s.toNat * 64 + q.toNat * 16 + g.toNat
  | .stB128 d b o s q g => 805306368 + d.toNat * 1048576 + b.toNat * 16384 + o.toNat * 256 + s.toNat * 64 + q.toNat * 16 + g.toNat
  | .stMx d b o s q g => 872415232 + d.toNat * 1048576 + b.toNat * 16384 + o.toNat * 256 + s.toNat * 64 + q.toNat * 16 + g.toNat
  | .ldsB32 d b o q g => 939524096 + d.toNat * 1048576 + b.toNat * 16384 + o.toNat * 256 + q.toNat * 16 + g.toNat
  | .ldsB64 d b o q g => 1006632960 + d.toNat * 1048576 + b.toNat * 16384 + o.toNat * 256 + q.toNat * 16 + g.toNat
  | .ldsB128 d b o q g => 1073741824 + d.toNat * 1048576 + b.toNat * 16384 + o.toNat * 256 + q.toNat * 16 + g.toNat
  | .stsB32 d b o q g => 1140850688 + d.toNat * 1048576 + b.toNat * 16384 + o.toNat * 256 + q.toNat * 16 + g.toNat
  | .stsB64 d b o q g => 1207959552 + d.toNat * 1048576 + b.toNat * 16384 + o.toNat * 256 + q.toNat * 16 + g.toNat
  | .stsB128 d b o q g => 1275068416 + d.toNat * 1048576 + b.toNat * 16384 + o.toNat * 256 + q.toNat * 16 + g.toNat
  | .fe d b q g => 1342177280 + d.toNat * 1048576 + b.toNat * 16384 + q.toNat * 16 + g.toNat
  | .atomAdd d b o s q g => 1409286144 + d.toNat * 1048576 + b.toNat * 16384 + o.toNat * 256 + s.toNat * 64 + q.toNat * 16 + g.toNat
  | .atomAddB64 d b o s q g => 1476395008 + d.toNat * 1048576 + b.toNat * 16384 + o.toNat * 256 + s.toNat * 64 + q.toNat * 16 + g.toNat
  | .atomAddf d b o s q g => 1543503872 + d.toNat * 1048576 + b.toNat * 16384 + o.toNat * 256 + s.toNat * 64 + q.toNat * 16 + g.toNat
  | .atomMinS32 d b o s q g => 1610612736 + d.toNat * 1048576 + b.toNat * 16384 + o.toNat * 256 + s.toNat * 64 + q.toNat * 16 + g.toNat
  | .atomMaxS32 d b o s q g => 1677721600 + d.toNat * 1048576 + b.toNat * 16384 + o.toNat * 256 + s.toNat * 64 + q.toNat * 16 + g.toNat
  | .atomMinN32 d b o s q g => 1744830464 + d.toNat * 1048576 + b.toNat * 16384 + o.toNat * 256 + s.toNat * 64 + q.toNat * 16 + g.toNat
  | .atomMaxN32 d b o s q g => 1811939328 + d.toNat * 1048576 + b.toNat * 16384 + o.toNat * 256 + s.toNat * 64 + q.toNat * 16 + g.toNat
  | .atomAnd d b o s q g => 1879048192 + d.toNat * 1048576 + b.toNat * 16384 + o.toNat * 256 + s.toNat * 64 + q.toNat * 16 + g.toNat
  | .atomOr d b o s q g => 1946157056 + d.toNat * 1048576 + b.toNat * 16384 + o.toNat * 256 + s.toNat * 64 + q.toNat * 16 + g.toNat
  | .atomXor d b o s q g => 2013265920 + d.toNat * 1048576 + b.toNat * 16384 + o.toNat * 256 + s.toNat * 64 + q.toNat * 16 + g.toNat
  | .atomExch d b o s q g => 2080374784 + d.toNat * 1048576 + b.toNat * 16384 + o.toNat * 256 + s.toNat * 64 + q.toNat * 16 + g.toNat
  | .atomCas d b o s q g => 2147483648 + d.toNat * 1048576 + b.toNat * 16384 + o.toNat * 256 + s.toNat * 64 + q.toNat * 16 + g.toNat
  | .atomCasB64 d b o s q g => 2214592512 + d.toNat * 1048576 + b.toNat * 16384 + o.toNat * 256 + s.toNat * 64 + q.toNat * 16 + g.toNat
  | .satom d b o q g => 2281701376 + d.toNat * 1048576 + b.toNat * 16384 + o.toNat * 256 + q.toNat * 16 + g.toNat
  | .ratom d b o q g => 2348810240 + d.toNat * 1048576 + b.toNat * 16384 + o.toNat * 256 + q.toNat * 16 + g.toNat + 64
  | .qpush d n g => 2415919104 + d.toNat * 1048576 + n.toNat * 256 + g.toNat
  | .qpop d n g => 2483027968 + d.toNat * 1048576 + n.toNat * 256 + g.toNat
  | .qcfg d n g => 2550136832 + d.toNat * 1048576 + n.toNat * 256 + g.toNat
  | .waituEqNe d b t s w c g => 2617245696 + d.toNat * 1048576 + b.toNat * 16384 + t.toNat * 256 + s.toNat * 64 + w.toNat * 32 + c.toNat * 16 + g.toNat
  | .waituSgeSlt d b t s w c g => 2684354560 + d.toNat * 1048576 + b.toNat * 16384 + t.toNat * 256 + s.toNat * 64 + w.toNat * 32 + c.toNat * 16 + g.toNat
  | .waituNgeNlt d b t s w c g => 2751463424 + d.toNat * 1048576 + b.toNat * 16384 + t.toNat * 256 + s.toNat * 64 + w.toNat * 32 + c.toNat * 16 + g.toNat
  | .waituAnyAll d b t s w c g => 2818572288 + d.toNat * 1048576 + b.toNat * 16384 + t.toNat * 256 + s.toNat * 64 + w.toNat * 32 + c.toNat * 16 + g.toNat
  | .waituChgUpd d b t s w c g => 2885681152 + d.toNat * 1048576 + b.toNat * 16384 + t.toNat * 256 + s.toNat * 64 + w.toNat * 32 + c.toNat * 16 + g.toNat
  | .fence s q g => 2952790016 + s.toNat * 64 + q.toNat * 16 + g.toNat
  | .pref b o s q g => 3019898880 + b.toNat * 16384 + o.toNat * 256 + s.toNat * 64 + q.toNat * 16 + g.toNat
  | .sldB32 d b o s q g => 3087007744 + d.toNat * 1048576 + b.toNat * 16384 + o.toNat * 256 + s.toNat * 64 + q.toNat * 16 + g.toNat
  | .sldB64 d b o s q g => 3154116608 + d.toNat * 1048576 + b.toNat * 16384 + o.toNat * 256 + s.toNat * 64 + q.toNat * 16 + g.toNat
  | .sldB128 d b o s q g => 3221225472 + d.toNat * 1048576 + b.toNat * 16384 + o.toNat * 256 + s.toNat * 64 + q.toNat * 16 + g.toNat
  | .tdset d c g => d.toNat * 4194304 + c.toNat * 4096 + g.toNat
  | .cpy d s k f u w g => 67108864 + d.toNat * 4194304 + s.toNat * 262144 + k.toNat * 32768 + f.toNat * 16384 + u.toNat * 2048 + w.toNat * 16 + g.toNat
  | .cpyq d s k f t u r l i o a w g => 134217728 + d.toNat * 4194304 + s.toNat * 262144 + k.toNat * 32768 + f.toNat * 16384 + t.toNat * 8192 + u.toNat * 2048 + r.toNat * 512 + l.toNat * 256 + i.toNat * 128 + o.toNat * 64 + a.toNat * 32 + w.toNat * 16 + g.toNat
  | .cpyd d s k f t u r i o a w g => 201326592 + d.toNat * 4194304 + s.toNat * 262144 + k.toNat * 32768 + f.toNat * 16384 + t.toNat * 8192 + u.toNat * 2048 + r.toNat * 512 + i.toNat * 128 + o.toNat * 64 + a.toNat * 32 + w.toNat * 16 + g.toNat
  | .cpyt d s k f t u r l i o a w g => 268435456 + d.toNat * 4194304 + s.toNat * 262144 + k.toNat * 32768 + f.toNat * 16384 + t.toNat * 8192 + u.toNat * 2048 + r.toNat * 512 + l.toNat * 256 + i.toNat * 128 + o.toNat * 64 + a.toNat * 32 + w.toNat * 16 + g.toNat
  | .cpyr d s k f t u e g => 335544320 + d.toNat * 4194304 + s.toNat * 262144 + k.toNat * 32768 + f.toNat * 16384 + t.toNat * 8192 + u.toNat * 2048 + e.toNat * 16 + g.toNat
  | .cpyf d k f t u r l i o a g => 402653184 + d.toNat * 4194304 + k.toNat * 32768 + f.toNat * 16384 + t.toNat * 8192 + u.toNat * 2048 + r.toNat * 512 + l.toNat * 256 + i.toNat * 128 + o.toNat * 64 + a.toNat * 32 + g.toNat
  | .cpyg d s k f u w g => 469762048 + d.toNat * 4194304 + s.toNat * 262144 + k.toNat * 32768 + f.toNat * 16384 + u.toNat * 2048 + w.toNat * 16 + g.toNat
  | .cpys k c g => 536870912 + k.toNat * 32768 + c.toNat * 16 + g.toNat
  | .qinit q n g => q.toNat * 512 + n.toNat * 16 + g.toNat
  | .mma a b k w q c i o s n g => 67108864 + a.toNat * 4194304 + b.toNat * 262144 + k.toNat * 32768 + w.toNat * 16384 + q.toNat * 512 + c.toNat * 256 + i.toNat * 128 + o.toNat * 64 + s.toNat * 32 + n.toNat * 16 + g.toNat
  | .mmaa a b k w q c i o s n g => 134217728 + a.toNat * 4194304 + b.toNat * 262144 + k.toNat * 32768 + w.toNat * 16384 + q.toNat * 512 + c.toNat * 256 + i.toNat * 128 + o.toNat * 64 + s.toNat * 32 + n.toNat * 16 + g.toNat
  | .aclr k u g => 201326592 + k.toNat * 32768 + u.toNat * 2048 + g.toNat
  | .ald d a b m g => 268435456 + d.toNat * 1048576 + a.toNat * 8192 + b.toNat * 128 + m.toNat * 16 + g.toNat
  | .ast d a b m g => 335544320 + d.toNat * 1048576 + a.toNat * 8192 + b.toNat * 128 + m.toNat * 16 + g.toNat
  | .acpy d s k f u r l i o sat v g => 402653184 + d.toNat * 4194304 + s.toNat * 262144 + k.toNat * 32768 + f.toNat * 16384 + u.toNat * 2048 + r.toNat * 512 + l.toNat * 256 + i.toNat * 128 + o.toNat * 64 + sat.toNat * 32 + v.toNat * 16 + g.toNat
  | .setaw a b g => 469762048 + a.toNat * 8192 + b.toNat * 128 + g.toNat
  | .cgrp c p g => c.toNat * 4096 + p.toNat * 512 + g.toNat
  | .cput d s k z p u g => 67108864 + d.toNat * 4194304 + s.toNat * 262144 + k.toNat * 32768 + z.toNat * 16384 + p.toNat * 512 + u.toNat * 256 + g.toNat
  | .cget d s k z p u g => 134217728 + d.toNat * 4194304 + s.toNat * 262144 + k.toNat * 32768 + z.toNat * 16384 + p.toNat * 512 + u.toNat * 256 + g.toNat
  | .csig k p u g => 201326592 + k.toNat * 32768 + p.toNat * 512 + u.toNat * 256 + g.toNat
  | .cgath d s k z p u w r g => 268435456 + d.toNat * 4194304 + s.toNat * 262144 + k.toNat * 32768 + z.toNat * 16384 + p.toNat * 512 + u.toNat * 256 + w.toNat * 64 + r.toNat * 16 + g.toNat
  | .crsc d s k z p u w c r g => 335544320 + d.toNat * 4194304 + s.toNat * 262144 + k.toNat * 32768 + z.toNat * 16384 + p.toNat * 512 + u.toNat * 256 + w.toNat * 64 + c.toNat * 32 + r.toNat * 16 + g.toNat
  | .card d s k z p u w c r g => 402653184 + d.toNat * 4194304 + s.toNat * 262144 + k.toNat * 32768 + z.toNat * 16384 + p.toNat * 512 + u.toNat * 256 + w.toNat * 64 + c.toNat * 32 + r.toNat * 16 + g.toNat
  | .cbcst d s k z p u w r g => 469762048 + d.toNat * 4194304 + s.toNat * 262144 + k.toNat * 32768 + z.toNat * 16384 + p.toNat * 512 + u.toNat * 256 + w.toNat * 64 + r.toNat * 16 + g.toNat
  | .trap c g => c.toNat * 16 + g.toNat
  | .tres a g => 67108864 + a.toNat * 8192 + g.toNat
  | .tkill g => 134217728 + g.toNat
  | .tesc c g => 201326592 + c.toNat * 16 + g.toNat
  | .csrr d x g => 268435456 + d.toNat * 1048576 + x.toNat * 16 + g.toNat
  | .csrw a x g => 335544320 + a.toNat * 8192 + x.toNat * 16 + g.toNat
  | .setmode a s g => 402653184 + a.toNat * 8192 + s.toNat * 16 + g.toNat
  | .gettime d s g => 469762048 + d.toNat * 1048576 + s.toNat * 4096 + g.toNat
  | .clauseIssue _ _ _ => 0
  | .pageWalk _ _ _ _ => 0
  | .globalLoadPerform _ _ => 0
  | .loadReturn _ _ => 0
  | .writePerform _ _ => 0
  | .atomicPerform _ _ => 0
  | .lineFill _ _ _ => 0
  | .leaseWaitEnd _ => 0
  | .scratchpadBankAccess _ _ => 0
  | .ratomPerform _ _ => 0
  | .copyCommandComplete _ => 0
  | .platenStart _ _ => 0
  | .platenComplete _ => 0
  | .mantisRegistration _ _ => 0
  | .mantisTimeout _ => 0
  | .spillSweep _ => 0
  | .spillReclaim _ => 0
  | .contextReevaluation _ => 0
  | .streamStart _ _ _ => 0
  | .streamSerialUpdate _ _ _ => 0
  | .streamStop _ _ _ => 0
  | .schedulerStreamRead _ _ => 0
  | .gateRegistration _ => 0
  | .launchAdmit _ => 0
  | .blockPlace _ _ => 0
  | .blockSave _ => 0
  | .blockRestore _ => 0
  | .blockFlush _ => 0
  | .launchAppendComplete _ => 0
  | .launchRetire _ => 0
  | .handlerWaveForm _ _ => 0
  | .pcfgResize _ _ _ => 0
  | .pcfgCancel _ _ _ => 0
  | .cellRemoval _ => 0
  | .sliceRemoval _ _ => 0
  | .channelGroupRemoval _ _ => 0
  | .bucketWrite _ _ _ _ => 0
  | .bucketRelease _ _ _ => 0
  | .shootdownStart _ _ => 0
  | .shootdownComplete _ => 0
  | .scSnap _ _ => 0
  | .queueLostClear _ _ _ => 0
  | .hmArm _ _ _ => 0
  | .hmDisarm _ _ _ => 0
  | .hmStatusClear _ _ _ => 0
  | .replay _ => 0
  | .killLane _ => 0
  | .killLaunch _ => 0
  | .replayRange _ => 0
  | .ppodCtlWrite _ _ _ => 0
  | .ppodFlush _ _ _ => 0
  | .podRequestReceive _ _ _ _ _ => 0
  | .podResponse _ _ => 0
  | .podRequestTimeout _ => 0
  | .ualinkPortDown _ => 0
  | .collectiveChunkArrival _ _ _ _ _ _ _ _ => 0
  | .collectiveAbort _ _ _ => 0
  | .chaferOperationComplete _ => 0
  | .cxlMemRead _ _ => 0
  | .cxlMemWrite _ _ => 0
  | .hostSnoop _ _ _ _ => 0
  | .ownClaim _ _ => 0
  | .ownBeat _ _ => 0
  | .ownOffer _ _ => 0
  | .ownAccept _ _ => 0
  | .ownershipLapse => 0
  | .attCmd _ _ => 0
  | .attestationComplete _ => 0
  | .securityAlarm _ => 0
  | .fwLoad _ => 0
  | .fwUpdate _ => 0
  | .fwImageVerified => 0
  | .coldReset => 0
  | .powerFail => 0
  | .functionLevelReset _ => 0
  | .rfmIssue _ => 0
  | .periodicRefresh _ => 0
  | .activationHold _ => 0
  | .logRecordProgram => 0
  | .temperatureThreshold _ _ => 0
  | .voltageDroop _ _ => 0
  | .dataRateChange _ => 0
  | .coreClockChange _ => 0
  | .registerWrite _ _ _ _ => 0
  | .ualinkPortUp _ => 0
  | .acceleratorIdAssign _ => 0
  | .lifetimeHistogramUpdate _ _ _ => 0

/-- The class an instruction word is decoded in; none for a step of the device. -/
def classOf (i : Instr) : Option Nat :=
  match i with
  | .fadd _ _ _ _ _ => some 0
  | .fsub _ _ _ _ _ => some 0
  | .fmul _ _ _ _ _ => some 0
  | .ffma _ _ _ _ _ => some 0
  | .fmin _ _ _ _ _ => some 0
  | .fmax _ _ _ _ _ => some 0
  | .ftr _ _ _ _ _ => some 0
  | .fcmp _ _ _ _ _ => some 0
  | .dadd _ _ _ _ _ => some 0
  | .dmul _ _ _ _ _ => some 0
  | .dfma _ _ _ _ _ => some 0
  | .dmnx _ _ _ _ _ => some 0
  | .dtr _ _ _ _ _ => some 0
  | .dcmp _ _ _ _ _ => some 0
  | .hadd2 _ _ _ _ _ => some 0
  | .hmul2 _ _ _ _ _ => some 0
  | .hfma2 _ _ _ _ _ => some 0
  | .badd2 _ _ _ _ _ => some 0
  | .bmul2 _ _ _ _ _ => some 0
  | .bfma2 _ _ _ _ _ => some 0
  | .hmnx2 _ _ _ _ _ => some 0
  | .hcmp2 _ _ _ _ _ => some 0
  | .bcmp2 _ _ _ _ _ => some 0
  | .cvtf _ _ _ _ _ _ _ _ _ => some 0
  | .cvtn _ _ _ _ _ _ _ => some 0
  | .cvti _ _ _ _ _ _ _ _ => some 0
  | .cvtd _ _ _ _ _ _ _ _ => some 0
  | .bamax _ _ _ _ _ _ => some 0
  | .bscale _ _ _ _ _ _ => some 0
  | .mxpk _ _ _ _ _ _ _ _ => some 0
  | .mxup _ _ _ _ _ _ _ => some 0
  | .rail _ _ _ _ _ _ => some 0
  | .iadd _ _ _ _ _ => some 0
  | .imul _ _ _ _ _ => some 0
  | .imnx _ _ _ _ _ => some 0
  | .ilog _ _ _ _ _ => some 0
  | .ish _ _ _ _ _ => some 0
  | .ishi _ _ _ _ _ => some 0
  | .ibit _ _ _ _ => some 0
  | .bfe _ _ _ _ _ => some 0
  | .bfi _ _ _ _ _ => some 0
  | .icmp _ _ _ _ _ => some 0
  | .icmpn _ _ _ _ _ => some 0
  | .sel _ _ _ _ => some 0
  | .mov _ _ _ => some 0
  | .movi _ _ _ => some 0
  | .movh _ _ _ => some 0
  | .movl _ _ _ => some 0
  | .sadd _ _ _ _ _ => some 0
  | .smul _ _ _ _ _ => some 0
  | .slog _ _ _ _ _ => some 0
  | .ssh _ _ _ _ _ => some 0
  | .smovi _ _ _ => some 0
  | .smovh _ _ _ => some 0
  | .scmp _ _ _ _ _ => some 0
  | .smov _ _ _ => some 0
  | .shfl _ _ _ _ _ => some 0
  | .qxch _ _ _ _ _ => some 0
  | .vote _ _ _ _ => some 0
  | .redx _ _ _ _ => some 0
  | .lane _ _ _ _ _ => some 0
  | .plog _ _ _ _ _ => some 0
  | .rand _ _ _ _ => some 0
  | .sread _ _ _ _ => some 0
  | .nop _ => some 1
  | .bra _ _ => some 1
  | .bru _ _ => some 1
  | .brx _ _ => some 1
  | .call _ _ _ => some 1
  | .ret _ _ => some 1
  | .exit _ => some 1
  | .join _ _ => some 1
  | .kset _ _ => some 1
  | .kop _ _ _ _ => some 1
  | .ksync _ _ => some 1
  | .waitc _ _ _ => some 1
  | .yield _ => some 1
  | .bar _ _ => some 1
  | .bara _ _ => some 1
  | .barw _ _ => some 1
  | .bari _ _ _ => some 1
  | .launch _ _ _ => some 1
  | .ldB8 _ _ _ _ _ _ => some 2
  | .ldS8 _ _ _ _ _ _ => some 2
  | .ldB16 _ _ _ _ _ _ => some 2
  | .ldS16 _ _ _ _ _ _ => some 2
  | .ldB32 _ _ _ _ _ _ => some 2
  | .ldB64 _ _ _ _ _ _ => some 2
  | .ldB128 _ _ _ _ _ _ => some 2
  | .ldMx _ _ _ _ _ _ => some 2
  | .stB8 _ _ _ _ _ _ => some 2
  | .stB16 _ _ _ _ _ _ => some 2
  | .stB32 _ _ _ _ _ _ => some 2
  | .stB64 _ _ _ _ _ _ => some 2
  | .stB128 _ _ _ _ _ _ => some 2
  | .stMx _ _ _ _ _ _ => some 2
  | .ldsB32 _ _ _ _ _ => some 2
  | .ldsB64 _ _ _ _ _ => some 2
  | .ldsB128 _ _ _ _ _ => some 2
  | .stsB32 _ _ _ _ _ => some 2
  | .stsB64 _ _ _ _ _ => some 2
  | .stsB128 _ _ _ _ _ => some 2
  | .fe _ _ _ _ => some 2
  | .atomAdd _ _ _ _ _ _ => some 2
  | .atomAddB64 _ _ _ _ _ _ => some 2
  | .atomAddf _ _ _ _ _ _ => some 2
  | .atomMinS32 _ _ _ _ _ _ => some 2
  | .atomMaxS32 _ _ _ _ _ _ => some 2
  | .atomMinN32 _ _ _ _ _ _ => some 2
  | .atomMaxN32 _ _ _ _ _ _ => some 2
  | .atomAnd _ _ _ _ _ _ => some 2
  | .atomOr _ _ _ _ _ _ => some 2
  | .atomXor _ _ _ _ _ _ => some 2
  | .atomExch _ _ _ _ _ _ => some 2
  | .atomCas _ _ _ _ _ _ => some 2
  | .atomCasB64 _ _ _ _ _ _ => some 2
  | .satom _ _ _ _ _ => some 2
  | .ratom _ _ _ _ _ => some 2
  | .qpush _ _ _ => some 2
  | .qpop _ _ _ => some 2
  | .qcfg _ _ _ => some 2
  | .waituEqNe _ _ _ _ _ _ _ => some 2
  | .waituSgeSlt _ _ _ _ _ _ _ => some 2
  | .waituNgeNlt _ _ _ _ _ _ _ => some 2
  | .waituAnyAll _ _ _ _ _ _ _ => some 2
  | .waituChgUpd _ _ _ _ _ _ _ => some 2
  | .fence _ _ _ => some 2
  | .pref _ _ _ _ _ => some 2
  | .sldB32 _ _ _ _ _ _ => some 2
  | .sldB64 _ _ _ _ _ _ => some 2
  | .sldB128 _ _ _ _ _ _ => some 2
  | .tdset _ _ _ => some 3
  | .cpy _ _ _ _ _ _ _ => some 3
  | .cpyq _ _ _ _ _ _ _ _ _ _ _ _ _ => some 3
  | .cpyd _ _ _ _ _ _ _ _ _ _ _ _ => some 3
  | .cpyt _ _ _ _ _ _ _ _ _ _ _ _ _ => some 3
  | .cpyr _ _ _ _ _ _ _ _ => some 3
  | .cpyf _ _ _ _ _ _ _ _ _ _ _ => some 3
  | .cpyg _ _ _ _ _ _ _ => some 3
  | .cpys _ _ _ => some 3
  | .qinit _ _ _ => some 4
  | .mma _ _ _ _ _ _ _ _ _ _ _ => some 4
  | .mmaa _ _ _ _ _ _ _ _ _ _ _ => some 4
  | .aclr _ _ _ => some 4
  | .ald _ _ _ _ _ => some 4
  | .ast _ _ _ _ _ => some 4
  | .acpy _ _ _ _ _ _ _ _ _ _ _ _ => some 4
  | .setaw _ _ _ => some 4
  | .cgrp _ _ _ => some 5
  | .cput _ _ _ _ _ _ _ => some 5
  | .cget _ _ _ _ _ _ _ => some 5
  | .csig _ _ _ _ => some 5
  | .cgath _ _ _ _ _ _ _ _ _ => some 5
  | .crsc _ _ _ _ _ _ _ _ _ _ => some 5
  | .card _ _ _ _ _ _ _ _ _ _ => some 5
  | .cbcst _ _ _ _ _ _ _ _ _ => some 5
  | .trap _ _ => some 6
  | .tres _ _ => some 6
  | .tkill _ => some 6
  | .tesc _ _ => some 6
  | .csrr _ _ _ => some 6
  | .csrw _ _ _ => some 6
  | .setmode _ _ _ => some 6
  | .gettime _ _ _ => some 6
  | .clauseIssue _ _ _ => none
  | .pageWalk _ _ _ _ => none
  | .globalLoadPerform _ _ => none
  | .loadReturn _ _ => none
  | .writePerform _ _ => none
  | .atomicPerform _ _ => none
  | .lineFill _ _ _ => none
  | .leaseWaitEnd _ => none
  | .scratchpadBankAccess _ _ => none
  | .ratomPerform _ _ => none
  | .copyCommandComplete _ => none
  | .platenStart _ _ => none
  | .platenComplete _ => none
  | .mantisRegistration _ _ => none
  | .mantisTimeout _ => none
  | .spillSweep _ => none
  | .spillReclaim _ => none
  | .contextReevaluation _ => none
  | .streamStart _ _ _ => none
  | .streamSerialUpdate _ _ _ => none
  | .streamStop _ _ _ => none
  | .schedulerStreamRead _ _ => none
  | .gateRegistration _ => none
  | .launchAdmit _ => none
  | .blockPlace _ _ => none
  | .blockSave _ => none
  | .blockRestore _ => none
  | .blockFlush _ => none
  | .launchAppendComplete _ => none
  | .launchRetire _ => none
  | .handlerWaveForm _ _ => none
  | .pcfgResize _ _ _ => none
  | .pcfgCancel _ _ _ => none
  | .cellRemoval _ => none
  | .sliceRemoval _ _ => none
  | .channelGroupRemoval _ _ => none
  | .bucketWrite _ _ _ _ => none
  | .bucketRelease _ _ _ => none
  | .shootdownStart _ _ => none
  | .shootdownComplete _ => none
  | .scSnap _ _ => none
  | .queueLostClear _ _ _ => none
  | .hmArm _ _ _ => none
  | .hmDisarm _ _ _ => none
  | .hmStatusClear _ _ _ => none
  | .replay _ => none
  | .killLane _ => none
  | .killLaunch _ => none
  | .replayRange _ => none
  | .ppodCtlWrite _ _ _ => none
  | .ppodFlush _ _ _ => none
  | .podRequestReceive _ _ _ _ _ => none
  | .podResponse _ _ => none
  | .podRequestTimeout _ => none
  | .ualinkPortDown _ => none
  | .collectiveChunkArrival _ _ _ _ _ _ _ _ => none
  | .collectiveAbort _ _ _ => none
  | .chaferOperationComplete _ => none
  | .cxlMemRead _ _ => none
  | .cxlMemWrite _ _ => none
  | .hostSnoop _ _ _ _ => none
  | .ownClaim _ _ => none
  | .ownBeat _ _ => none
  | .ownOffer _ _ => none
  | .ownAccept _ _ => none
  | .ownershipLapse => none
  | .attCmd _ _ => none
  | .attestationComplete _ => none
  | .securityAlarm _ => none
  | .fwLoad _ => none
  | .fwUpdate _ => none
  | .fwImageVerified => none
  | .coldReset => none
  | .powerFail => none
  | .functionLevelReset _ => none
  | .rfmIssue _ => none
  | .periodicRefresh _ => none
  | .activationHold _ => none
  | .logRecordProgram => none
  | .temperatureThreshold _ _ => none
  | .voltageDroop _ _ => none
  | .dataRateChange _ => none
  | .coreClockChange _ => none
  | .registerWrite _ _ _ _ => none
  | .ualinkPortUp _ => none
  | .acceleratorIdAssign _ => none
  | .lifetimeHistogramUpdate _ _ _ => none

/-- The encoder: the words of an instruction, one for an instruction word and none for a step of the device. -/
def encode (i : Instr) : List Word :=
  match classOf i with
  | some _ => [BitVec.ofNat 32 (encodeNat i)]
  | none => []

/-- The instruction in the first class, in class order from `cls`, whose tables accept the word. -/
def decodeFrom : (fuel cls w : Nat) → Option Instr
  | 0, _, _ => none
  | n + 1, cls, w => match decodeWord cls w with
    | .ok i => some i
    | .error _ => decodeFrom n (cls + 1) w

/-- The instruction a bare 32-bit word of the opcode table stands for. The table gives no class, which the clause header
carries (R63), so the word is read in the first class of Table 3.1, in class order, whose encoding tables accept it
(log entry 7). A row of the device's own steps has no bits, and no word stands for it. -/
def decodeTableWord (nbits w : Nat) : Option Instr :=
  if nbits = 32 then decodeFrom 7 0 (w % 2 ^ 32) else none

end Sys2Proof
end

