-- ==== Sys2Proof/Machine/Settle.lean ====
section
/-! DEFINITION. What follows of itself after every step: releases from waits and stalls (R99, R100, R109, R119, R120, R123, R260, R329,
R332, R338), shortfalls (R303, R363), retirement (R422, R423), kills (R401), free handler slots (R395), whole waits (R56), launches that
become ready (R51) and deferred resizes that proceed (R45). -/

namespace Sys2Proof.Machine

/-- Whether a register that a waiting lane needs is full, or marked, so that its reader traps (R109, R251, R376). -/
def State.needMet (s : State) (r : WaveRef) (l : Nat) (n : Need) : Bool :=
  let x := if n.origin then ((s.lane? r l).bind (·.origin)).bind (fun o => s.lane? (.blk o.uid o.wave) o.lane) else s.lane? r n.lane
  match x with
  | none => true
  | some x => x.isFull n.reg || (x.mark? n.reg).isSome

/-- Whether a granule or a queue has reached what a lane awaits (R259, R260, R367); a waiting `qpop` is released by the push. -/
def State.granuleMet (s : State) (r : WaveRef) (g : GranuleWait) : Bool :=
  match s.blockOf r with
  | none => false
  | some b =>
    match g with
    | .full n => b.granuleFull n
    | .empty n => !b.granuleFull n
    | .push q => decide (0 < ((b.queues.getD q ⟨0, 0, 0, 0, 0, 0, 0, 0, [], []⟩).allow.getD (waveIndex r) 0))
    | .pop _ _ => false

/-- The present lanes of a mask (R108). -/
def Wave.present (w : Wave) (k : Nat) : List Lane :=
  ((mapIdx' (fun l (x : Lane) => if (w.mask k).testBit l && !x.isGone then [x] else []) w.lanes)).flatten

/-- Whether every present lane of a mask waits at one join of it (R119). -/
def Wave.joinDone (w : Wave) (k : Nat) : Bool :=
  match w.present k with
  | [] => false
  | x :: xs => (x :: xs).all (fun y => y.state == .waitJoin k && y.vpc == x.vpc)

/-- Whether every present lane of a mask waits at a `ksync` on it (R120). -/
def Wave.ksyncDone (w : Wave) (k : Nat) : Bool := (w.present k).all (fun y => y.state == .waitKsync k)

/-- A lane released from its wait when what it waits for has come about (R100). -/
def State.releaseLane (s : State) (r : WaveRef) (w : Wave) (l : Nat) (x : Lane) : Lane :=
  match x.state with
  | .waitReg ns => if ns.all (s.needMet r l) then x.activate else x
  | .waitGranule g => if s.granuleMet r g then x.activate else x
  | .waitJoin k => if !(w.mask k).testBit l || w.joinDone k then x.release else x
  | .waitKsync k => if !(w.mask k).testBit l || w.ksyncDone k then x.release else x
  | _ => x

/-- Whether a memory operation has what a wave held for it waits for: a scalar result, a descriptor, or the scope checks of its groups
(R99, R270, R272, R338). -/
def MemOp.freesWave (o : MemOp) : Bool :=
  match o.kind with
  | .sload _ | .tdset _ => o.groups.all (·.returned)
  | .clock _ _ => o.groups.all (·.returned)
  | _ => o.groups.all (·.performed)

/-- Whether a stall has ended (R99). A fence that waits for the lease clock is ended by that wait. -/
def State.holdOver (s : State) (r : WaveRef) (w : Wave) (h : Hold) : Bool :=
  match h with
  | .counter c n => decide (w.counter c ≤ n)
  | .fence scope kind upTo => !fenceLeases scope kind && s.fenceMade r scope kind upTo
  | .op id => ((s.memOp? id).map MemOp.freesWave).getD true
  | .quire _ => false

/-- A wave with what has ended for it released, and retired when none of its lanes is left (R422). -/
def State.settleWave (s : State) (r : WaveRef) (w : Wave) : Wave :=
  { w with
    lanes := mapIdx' (s.releaseLane r w) w.lanes
    holds := w.holds.filter (fun h => !s.holdOver r w h)
    acquires := w.acquires.filter (fun id => ((s.memOp? id).map (fun o => !o.answered)).getD false)
    retired := w.retired || w.lanes.all Lane.isGone }

/-- Every wave settled. -/
def State.settleWaves (s : State) : State :=
  { s with
    blocks := s.blocks.map (fun b => { b with waves := mapIdx' (fun j w => s.settleWave (.blk b.uid j) w) b.waves })
    cores := mapIdx' (fun c (k : Core) =>
      { k with handlers := mapIdx' (fun q (h : Option Handler) => h.map (fun x => { x with wave := s.settleWave (.hdl c q) x.wave })) k.handlers })
      s.cores }

/-- The waves of a block that have neither retired nor done something in the current round or phase. -/
def Block.able (b : Block) (did : Nat → Bool) : Nat :=
  ((upTo b.waves.length).filter (fun j => !((b.waves[j]?).map (·.retired)).getD true && !did j)).length

/-- Whether a barrier falls short (R363), and whether a quire does (R303). -/
def Block.barrierShort (b : Block) (x : Barrier) : Bool := x.n != 0 && decide (b.able (fun j => x.of j == .arrived) + x.a < x.n)
def Block.quireShort (b : Block) (q : Quire) : Bool :=
  q.n != 0 && !q.signers.isEmpty && decide (b.able (fun j => q.signers.any (fun x => x.wave == j)) + q.signers.length < q.n)

/-- A barrier that falls short reset: its waiters trap with cause 0x0D, and it is unconfigured (R363). -/
def State.failBarrier (s : State) (uid n : Nat) : State :=
  match s.block? uid with
  | none => s
  | some b =>
    let s1 := foldIdx (fun (s : State) j (w : Wave) =>
      (w.lanesWhere (fun x => x.state == .waitBarrier n)).foldl (fun (s : State) l =>
        match w.lanes[l]? with
        | none => s
        | some x => s.takeTrap (.blk uid j) l x.vpc x.slot 0x0D 0 0) s) s 0 b.waves
    s1.modBlock uid (fun b => { b with barriers := setAt b.barriers n ⟨0, 0, []⟩ })

/-- The shortfalls of a block. -/
def State.shortfalls (s : State) (b : Block) : State :=
  let s1 := foldIdx (fun (s : State) n x => if b.barrierShort x then s.failBarrier b.uid n else s) s 0 b.barriers
  foldIdx (fun (s : State) n q => if b.quireShort q then s.failQuire b.uid n else s) s1 0 b.quires

/-- Whether a cluster message or an append is open that keeps a block from retiring (R422). -/
def State.keepsBlock (s : State) (uid : Nat) : Bool :=
  s.memOps.any (fun o =>
    match o.kind with
    | .append _ _ _ _ => ofBlock uid o.wave
    | .ratom _ _ => o.groups.any (fun g => !g.performed && g.lanes.any (fun l => l.target.1 == uid))
    | _ => false)

/-- Whether a block retires (R422). -/
def State.blockDone (s : State) (b : Block) : Bool :=
  b.place != .unplaced && b.waves.all (fun w => w.retired && w.ocMem == 0 && w.ocCpy == 0 && w.ocMtx == 0 && w.ocCol == 0) &&
    !s.keepsBlock b.uid

/-- A launch whose blocks have all retired ends (R423). -/
def Launch.endIfDone (l : Launch) (now : Nat) : Launch :=
  if l.retiredBlocks = l.record.blocks then { l with stage := .ending (l.killing.getD 1), endTime := now } else l

/-- A block retired: its resources and its handle are free (R422), and its launch counts it (R411, R423). What it leaves in them stands until
they are given to another block (R321, R421). -/
def State.retireBlock (s : State) (b : Block) : State :=
  let now := s.leaseNow hubDie
  { s with blocks := s.blocks.filter (fun x => x.uid != b.uid), remains := s.remains ++ [b] }.modLaunch b.launch (fun l =>
    ({ l with retiredBlocks := l.retiredBlocks + 1, retiredLins := insertSorted b.lin l.retiredLins
              maxLtc := (b.waves.map (fun (w : Wave) => w.ltc)).foldl max l.maxLtc
              doneIssues := l.doneIssues + b.issued, doneBlocks := l.doneBlocks + 1 }).endIfDone now)

/-- A killed launch: its blocks stop and go, and with the last it ends (R401). -/
def State.settleKill (s : State) (l : Launch) : State :=
  match l.killing, l.stage with
  | none, _ => s
  | some _, .ending _ => s
  | some _, .retired => s
  | some status, _ =>
    let s1 := (s.blocks.filter (fun b => b.launch == l.lid)).foldl (fun (s : State) b => s.killBlock b) s
    if s1.blocks.any (fun b => b.launch == l.lid) then s1
    else
      let now := s1.leaseNow hubDie
      s1.modLaunch l.lid (fun x => { x with stage := .ending status, started := some (x.started.getD now), endTime := now })

/-- A handler slot freed once its lanes have ended and nothing of theirs is in flight; the greatest `ltc` stays with the launch (R395,
R423). -/
def State.freeHandlers (s : State) : State :=
  foldIdx (fun (s : State) c (k : Core) =>
    foldIdx (fun (s : State) q (h : Option Handler) =>
      match h with
      | none => s
      | some x =>
        if x.wave.retired && s.memOps.all (fun o => o.wave != .hdl c q) then
          (s.modLaunch x.launch (fun l => { l with maxLtc := max l.maxLtc x.wave.ltc })).modCore c (fun k =>
            { k with handlers := setAt k.handlers q none })
        else s) s 0 k.handlers) s 0 s.cores

/-- Whether every wave of a block that has not retired waits in Mantis or at a barrier (R56). -/
def Block.allWait (b : Block) : Bool :=
  b.place == .resident && b.waves.any (fun w => !w.retired) && b.waves.all (fun w => w.retired || w.lanes.all (fun x =>
    match x.state with
    | .waitMantis _ => true
    | .waitBarrier _ => true
    | _ => x.isGone))

/-- The tick from which a block has waited whole noted (R56). -/
def State.noteWaits (s : State) : State :=
  { s with blocks := s.blocks.map (fun b => { b with waitSince := if b.allWait then b.waitSince.or (some s.clock) else none }) }

/-- A function-level reset whose launches have all ended returns the virtual function's registers to their reset values (R442). -/
def State.settleReset (s : State) (part : Nat) : State :=
  if (s.part part).vf.resetting && s.launches.all (fun l => l.part != part || l.stage == .retired) then
    (s.dropEntries (fun e => match e.owner with
      | .tail p _ => p == part
      | .monitor p _ => p == part
      | _ => false)).modVF part (fun _ => .reset)
  else s

/-- The clause issues of which no lane is left end (R101, R102): a trap that comes to a lane between two positions can take the last. -/
def State.endEmpty (s : State) : State := (s.issues.filter (fun i => i.live.isEmpty)).foldl State.endIssue s

/-- Everything that follows of itself. -/
def State.settle (s : State) : State :=
  let s1 := s.settleWaves
  let s2 := s1.blocks.foldl (fun (s : State) b => s.shortfalls b) s1
  let s3 := s2.blocks.foldl (fun (s : State) b => if s.blockDone b then s.retireBlock b else s) s2
  let s4 := s3.launches.foldl (fun (s : State) l => s.settleKill l) s3
  (upTo 16).foldl State.settleReset s4.freeHandlers.endEmpty.noteWaits.promote.resumeResize

end Sys2Proof.Machine
end

