-- ==== Sys2Proof/Machine/Run.lean ====
section
/-! DEFINITION. The parts of a step that run nothing themselves: the instruction an issue stands at, and a state that holds a word where
the next step takes its instruction. -/

namespace Sys2Proof.Machine

/-- The instruction word at an issue's position decoded in the clause's class (R63, R87). -/
def Issue.instr (i : Issue) : Except Reject Instr := decodeWord i.cls (i.words.getD (i.pos - 1) 0)

/-- An issue taken in hand for one attempt at its position. -/
def State.takeIssue (s : State) (id : Nat) : State := { s with cur := some id, stay := false }

/-- The clause issue in hand is closed, and what follows of itself has followed. -/
def State.afterWord (s : State) : State := s.advance.settle

/-- Whether an attempt was held back, so that another wave may issue in its place (R59, R60). -/
def State.heldBack (s : State) (id : Nat) : Bool := s.issues.any (fun i => i.id == id && i.stalled)

/-- The first class, in class order, whose tables accept a word; class 0 for a word that none accepts (log entry 7). -/
def classFrom : (fuel cls w : Nat) → Nat
  | 0, _, _ => 0
  | n + 1, cls, w => match decodeWord cls w with
    | .ok _ => cls
    | .error _ => classFrom n (cls + 1) w

/-- The launch record of a word placed for the next step: one block of one wave of eight lanes. -/
def placedRecord : LaunchRecord :=
  { codeBase := 0, entry := 0, trapEntry := 0xFFFFFFFF, grid := [1, 1, 1], blockDim := [8, 1, 1], width := 8, cluster := 1,
    vregs := 64, sregs := 48, accRows := 128, scratch := 4096, priority := 0, stream := 0, coresident := false,
    idempotent := false, savable := false, irdan := false, notify := false, vector := 0, gateAddr := 0, gateOperand := 0,
    gateCond := 0, gateWide := false, gateEnable := false, seed := 0, arg := 0, colophon := 0 }

/-- The launch of a word placed for the next step. -/
def placedLaunch (lid : Nat) : Launch :=
  { lid := lid, id := 1, part := 0, space := 0, stream := 0, position := 0, record := placedRecord, stage := .admitted, readyAt := 0,
    order := 0, nextLin := 1, retiredBlocks := 0, retiredLins := [], killing := none, started := none, endTime := 0, run := 0,
    restarted := 0, saved := 0, traps := 0, spills := 0, escalations := 0, maxLtc := 0, doneIssues := 0, doneBlocks := 0,
    pins := (0, 0, 0) }

/-- A state with a word standing as the only word of a clause that a wave of core 0 is issuing, in a launch and a block made for it on
partition 0 (log entry 3). -/
def State.withWord (s : State) (w : Nat) : State :=
  let k := s.next
  let r : WaveRef := .blk (k + 1) 0
  { s with
    parts := modifyAt s.parts 0 (fun p => { p with cells := p.cells ||| 1, slices := p.slices ||| 1, groups := p.groups ||| 1 })
    launches := placedLaunch k :: s.launches
    blocks := Block.atLaunch placedRecord (k + 1) k 0 0 0 0 k s.clock :: s.blocks
    issues := ⟨k + 2, 0, 0, [(r, upTo 8)], [(r, upTo 8)], false, 0, 1, classFrom 7 0 w, 0, false, [w], 1⟩ :: s.issues
    cores := modifyAt s.cores 0 (fun c => { c with lastIssue := setAt c.lastIssue 0 (some r) })
    turns := []
    focus := (0, 0)
    cur := none
    next := k + 3 }

end Sys2Proof.Machine
end

