-- ==== Sys2Proof/Machine/Step.lean ====
section
/-! DEFINITION. One step of the machine: the next turn of the schedule. -/

namespace Sys2Proof.Machine

/-- The instruction of the clause issue in hand executed for its members: decoded and run, or trapped as illegal (R87). -/
def runWord (s : State) : Host.Outcome State Fault Refusal :=
  match s.curIssue with
  | none => .next s
  | some i =>
    match i.instr with
    | .ok instr => exec instr s
    | .error _ => .next s.execIllegal

/-- One attempt at the position of a clause issue. -/
def attempt (i : Issue) (s : State) : Host.Outcome State Fault Refusal :=
  match runWord ((s.partHeld i).takeIssue i.id) with
  | .next t => .next t.afterWord
  | .fault r => .fault r
  | .refused r => .refused r

/-- Pack-mates of a wave that has issued: those that stand at the same issue address issue the same instruction in the same cycle (R60). -/
def coIssue (addr : Nat) : List WaveRef → State → Host.Outcome State Fault Refusal
  | [], s => .next s
  | m :: ms, s =>
    match (s.issueOf m).filter (fun i => i.addr == addr) with
    | none => coIssue addr ms s
    | some i =>
      match attempt i s with
      | .next t => coIssue addr ms t
      | .fault f => .fault f
      | .refused f => .refused f

/-- The first wave in the order of R60 that is ready issues, and its pack-mates with it: its instruction runs, or its next clause issue
begins. A wave that is held back leaves its place to the next. -/
def cycleWith (core quarter : Nat) : List WaveRef → State → Host.Outcome State Fault Refusal
  | [], s => .next s.settle
  | r :: rs, s =>
    match s.issueOf r with
    | some i =>
      match attempt i s with
      | .next t =>
        if t.heldBack i.id then cycleWith core quarter rs t
        else
          let mates := s.packMates core quarter r
          coIssue i.addr mates ((t.noteIssue core quarter r).beginMates core quarter i.addr mates)
      | .fault f => .fault f
      | .refused f => .refused f
    | none =>
      match s.plan r with
      | (some p, s1) =>
        .next ((s1.beginIssue core quarter r p []).beginMates core quarter p.key (s1.packMates core quarter r)).settle
      | (none, s1) => cycleWith core quarter rs s1

/-- One cycle of a quarter (R60). -/
def cycle (core quarter : Nat) (s : State) : Host.Outcome State Fault Refusal :=
  cycleWith core quarter (s.candidates core quarter) s

/-- What an event leaves, settled. -/
def settled (o : Host.Outcome State Fault Refusal) : Host.Outcome State Fault Refusal :=
  match o with
  | .next t => .next t.settle
  | .fault r => .fault r
  | .refused r => .refused r

/-- One step: the next turn of the schedule, or a cycle of the quarter in focus when the schedule is empty (log entry 1). -/
def step (s : State) : Host.Outcome State Fault Refusal :=
  match s.turns with
  | [] => cycle s.focus.1 s.focus.2 s
  | .cycle c q :: ts => cycle c q { s with turns := ts }
  | .event e :: ts => settled (exec e { s with turns := ts, cur := none })
  | .elapse n :: ts => .next ({ s with turns := ts, clock := s.clock + n }).settle

/-- The state with an instruction word placed where the next step takes its instruction. -/
def State.withFetchWord (s : State) (nbits w : Nat) : State := if nbits = 32 then s.withWord (w % 2 ^ 32) else s

end Sys2Proof.Machine
end

