-- ==== Sys2Proof/Machine/Names.lean ====
section
/-! DEFINITION. The registers that each instruction word names, pairs and groups with every register of theirs: what R18 compares with the
counts of the wave and R21 with those of the kernel. The device's own steps name none. -/

namespace Sys2Proof.Machine

/-- The vector registers that an instruction names (R18, R21). -/
def namedV : Instr → List Nat
  | .fadd d a b .. | .fsub d a b .. | .fmul d a b .. | .ffma d a b .. | .fmin d a b .. | .fmax d a b .. | .hadd2 d a b ..
    | .hmul2 d a b .. | .hfma2 d a b .. | .badd2 d a b .. | .bmul2 d a b .. | .bfma2 d a b .. | .hmnx2 d a b .. => vregs3 d b a
  | .ftr d a .. | .cvtn d a .. | .cvti d a .. | .bscale d a .. | .ishi d a .. | .ibit d a .. | .mov d a .. => d.toNat :: aVec a false
  | .fcmp _ a b .. | .hcmp2 _ a b .. | .bcmp2 _ a b .. | .icmp _ a b .. | .icmpn _ a b .. => b.toNat :: aVec a false
  | .dadd d a b .. | .dmul d a b .. | .dfma d a b .. | .dmnx d a b .. => vpairs3 d b a
  | .dtr d a .. => [d.toNat, d.toNat + 1] ++ aVec a true
  | .dcmp _ a b .. => [b.toNat, b.toNat + 1] ++ aVec a true
  | .cvtf d a _ r .. => d.toNat :: aVec a false ++ srReg r (a.toNat + 1)
  | .cvtd d a o .. => (if cvtdWideOut o then [d.toNat, d.toNat + 1] else [d.toNat]) ++ aVec a (cvtdWideIn o)
  | .bamax d a .. | .mxup d a .. | .qxch d a .. => [d.toNat, a.toNat]
  | .mxpk d a f _ r .. => d.toNat :: a.toNat :: (if f.toNat == 6 then [a.toNat + 1] else []) ++ srReg r (if f.toNat == 6 then a.toNat + 2 else a.toNat + 1)
  | .rail d a o .. => d.toNat :: (if o.toNat = 4 then [] else aVec a false)
  | .iadd d a b .. | .imul d a b .. | .ish d a b .. | .bfe d a b .. | .bfi d a b .. | .sel d a b .. | .shfl d a b .. => d.toNat :: b.toNat :: aVec a false
  | .imnx d a b m .. => d.toNat :: (if decide (4 ≤ m.toNat) then [] else [b.toNat]) ++ aVec a false
  | .ilog d a b m .. => d.toNat :: (if m.toNat == 6 then [] else [b.toNat]) ++ aVec a false
  | .movi d .. | .movh d .. | .movl d .. | .qpush d .. | .qpop d .. | .csrr d .. => [d.toNat]
  | .redx _ a o .. => redxRegs a o
  | .lane d a _ w .. => if w = 0 then [a.toNat] else [d.toNat]
  | .plog _ a _ o .. => if o.toNat = 6 then [a.toNat] else []
  | .rand d a b .. => d.toNat :: b.toNat :: aVec a true
  | .sread d s .. => if s = 0 then [d.toNat] else []
  | .brx a .. | .ret a .. | .tres a .. => [a.toNat]
  | .call l .. => [l.toNat]
  | .ldB8 d b .. | .ldS8 d b .. | .ldB16 d b .. | .ldS16 d b .. | .ldB32 d b .. | .stB8 d b .. | .stB16 d b .. | .stB32 d b ..
    | .atomAdd d b .. | .atomAddf d b .. | .atomMinS32 d b .. | .atomMaxS32 d b .. | .atomMinN32 d b .. | .atomMaxN32 d b ..
    | .atomAnd d b .. | .atomOr d b .. | .atomXor d b .. | .atomExch d b .. => regRun d 1 ++ basePair b
  | .ldB64 d b .. | .stB64 d b .. | .atomAddB64 d b .. | .atomCas d b .. => regRun d 2 ++ basePair b
  | .ldB128 d b .. | .stB128 d b .. | .atomCasB64 d b .. => regRun d 4 ++ basePair b
  | .ldMx d b .. | .stMx d b .. => d.toNat :: basePair b
  | .ldsB32 d b .. | .stsB32 d b .. => b.toNat :: regRun d 1
  | .ldsB64 d b .. | .stsB64 d b .. => b.toNat :: regRun d 2
  | .ldsB128 d b .. | .stsB128 d b .. => b.toNat :: regRun d 4
  | .fe d b .. => [b.toNat, d.toNat]
  | .satom d b o .. => b.toNat :: atomRegs d o.toNat
  | .ratom d b o .. => basePair b ++ atomRegs d o.toNat
  | .qcfg d .. => regRun d 4
  | .waituEqNe d b _ _ w .. | .waituSgeSlt d b _ _ w .. | .waituNgeNlt d b _ _ w .. | .waituAnyAll d b _ _ w ..
    | .waituChgUpd d b _ _ w .. => regRun d (if w == 1 then 2 else 1) ++ basePair b
  | .pref b .. => basePair b
  | .cpy _ _ k .. | .cpyq _ _ k .. | .cpyd _ _ k .. | .cpyt _ _ k .. | .cpyr _ _ k .. | .cpyf _ k .. | .cpyg _ _ k .. | .cpys k ..
    | .mma _ _ k .. | .mmaa _ _ k .. | .aclr k .. | .acpy _ _ k .. | .cput _ _ k .. | .cget _ _ k .. | .csig k .. | .cgath _ _ k ..
    | .crsc _ _ k .. | .card _ _ k .. | .cbcst _ _ k .. => rangeFrom (8 * k.toNat) 8
  | .ald d a b m .. | .ast d a b m .. => b.toNat :: regRun d (cellCount m) ++ aVec a false
  | .setaw _ b .. => [b.toNat]
  | .csrw a .. | .setmode a .. => aVec a false
  | .gettime d s .. => if s = 0 then regRun d 2 else []
  | .sadd .. | .smul .. | .slog .. | .ssh .. | .smovi .. | .smovh .. | .scmp .. | .smov .. | .vote .. | .nop .. | .bra .. | .bru ..
    | .exit .. | .join .. | .kset .. | .kop .. | .ksync .. | .waitc .. | .yield .. | .bar .. | .bara .. | .barw .. | .bari ..
    | .launch .. | .fence .. | .sldB32 .. | .sldB64 .. | .sldB128 .. | .tdset .. | .qinit .. | .cgrp .. | .trap .. | .tkill ..
    | .tesc .. | .clauseIssue .. | .pageWalk .. | .globalLoadPerform .. | .loadReturn .. | .writePerform .. | .atomicPerform ..
    | .lineFill .. | .leaseWaitEnd .. | .scratchpadBankAccess .. | .ratomPerform .. | .copyCommandComplete .. | .platenStart ..
    | .platenComplete .. | .mantisRegistration .. | .mantisTimeout .. | .spillSweep .. | .spillReclaim .. | .contextReevaluation ..
    | .streamStart .. | .streamSerialUpdate .. | .streamStop .. | .schedulerStreamRead .. | .gateRegistration .. | .launchAdmit ..
    | .blockPlace .. | .blockSave .. | .blockRestore .. | .blockFlush .. | .launchAppendComplete .. | .launchRetire ..
    | .handlerWaveForm .. | .pcfgResize .. | .pcfgCancel .. | .cellRemoval .. | .sliceRemoval .. | .channelGroupRemoval ..
    | .bucketWrite .. | .bucketRelease .. | .shootdownStart .. | .shootdownComplete .. | .scSnap .. | .queueLostClear .. | .hmArm ..
    | .hmDisarm .. | .hmStatusClear .. | .replay .. | .killLane .. | .killLaunch .. | .replayRange .. | .ppodCtlWrite ..
    | .ppodFlush .. | .podRequestReceive .. | .podResponse .. | .podRequestTimeout .. | .ualinkPortDown ..
    | .collectiveChunkArrival .. | .collectiveAbort .. | .chaferOperationComplete .. | .cxlMemRead .. | .cxlMemWrite ..
    | .hostSnoop .. | .ownClaim .. | .ownBeat .. | .ownOffer .. | .ownAccept .. | .ownershipLapse | .attCmd ..
    | .attestationComplete .. | .securityAlarm .. | .fwLoad .. | .fwUpdate .. | .fwImageVerified | .coldReset | .powerFail
    | .functionLevelReset .. | .rfmIssue .. | .periodicRefresh .. | .activationHold .. | .logRecordProgram | .temperatureThreshold ..
    | .voltageDroop .. | .dataRateChange .. | .coreClockChange .. | .registerWrite .. | .ualinkPortUp .. | .acceleratorIdAssign ..
    | .lifetimeHistogramUpdate .. => []

/-- The scalar registers that an instruction names (R18, R21). -/
def namedS : Instr → List Nat
  | .fadd _ a .. | .fsub _ a .. | .fmul _ a .. | .ffma _ a .. | .fmin _ a .. | .fmax _ a .. | .ftr _ a .. | .fcmp _ a ..
    | .hadd2 _ a .. | .hmul2 _ a .. | .hfma2 _ a .. | .badd2 _ a .. | .bmul2 _ a .. | .bfma2 _ a .. | .hmnx2 _ a .. | .hcmp2 _ a ..
    | .bcmp2 _ a .. | .cvtf _ a .. | .cvti _ a .. | .bscale _ a .. | .rail _ a .. | .iadd _ a .. | .imul _ a .. | .imnx _ a ..
    | .ilog _ a .. | .ish _ a .. | .ishi _ a .. | .ibit _ a .. | .bfe _ a .. | .bfi _ a .. | .icmp _ a .. | .icmpn _ a ..
    | .sel _ a .. | .mov _ a .. | .shfl _ a .. | .bari a .. | .ald _ a .. | .ast _ a .. | .setaw a .. | .csrw a .. | .setmode a .. => aScal a false
  | .dadd _ a .. | .dmul _ a .. | .dfma _ a .. | .dmnx _ a .. | .dtr _ a .. | .dcmp _ a .. | .rand _ a .. | .launch a .. => aScal a true
  | .cvtd _ a o .. => aScal a (cvtdWideIn o)
  | .sadd d a b .. | .smul d a b .. | .ssh d a b .. => d.toNat :: b.toNat :: aScal a false
  | .slog d a b m .. => d.toNat :: (if m.toNat == 6 then [] else [b.toNat]) ++ aScal a false
  | .smovi d .. | .smovh d .. => [d.toNat]
  | .scmp _ a b .. => b.toNat :: aScal a false
  | .smov d a .. => d.toNat :: aScal a false
  | .vote d _ t .. => match t.toNat with | 0 => [d.toNat, d.toNat + 1] | 1 => [d.toNat] | _ => []
  | .redx d _ o .. => if o.toNat = 11 then [d.toNat, d.toNat + 1] else [d.toNat]
  | .lane d a _ w .. => if w = 0 then [d.toNat] else aScal a false
  | .sread d s .. => if s = 1 then [d.toNat] else []
  | .sldB32 d b .. => regRun d 1 ++ basePair b
  | .sldB64 d b .. => regRun d 2 ++ basePair b
  | .sldB128 d b .. => regRun d 4 ++ basePair b
  | .tdset _ c .. | .cgrp c .. => basePair c
  | .gettime d s .. => if s = 1 then regRun d 2 else []
  | .cvtn .. | .bamax .. | .mxpk .. | .mxup .. | .movi .. | .movh .. | .movl .. | .qxch .. | .plog .. | .nop .. | .bra .. | .bru ..
    | .brx .. | .call .. | .ret .. | .exit .. | .join .. | .kset .. | .kop .. | .ksync .. | .waitc .. | .yield .. | .bar .. | .bara ..
    | .barw .. | .ldB8 .. | .ldS8 .. | .ldB16 .. | .ldS16 .. | .ldB32 .. | .ldB64 .. | .ldB128 .. | .ldMx .. | .stB8 .. | .stB16 ..
    | .stB32 .. | .stB64 .. | .stB128 .. | .stMx .. | .ldsB32 .. | .ldsB64 .. | .ldsB128 .. | .stsB32 .. | .stsB64 .. | .stsB128 ..
    | .fe .. | .atomAdd .. | .atomAddB64 .. | .atomAddf .. | .atomMinS32 .. | .atomMaxS32 .. | .atomMinN32 .. | .atomMaxN32 ..
    | .atomAnd .. | .atomOr .. | .atomXor .. | .atomExch .. | .atomCas .. | .atomCasB64 .. | .satom .. | .ratom .. | .qpush ..
    | .qpop .. | .qcfg .. | .waituEqNe .. | .waituSgeSlt .. | .waituNgeNlt .. | .waituAnyAll .. | .waituChgUpd .. | .fence ..
    | .pref .. | .cpy .. | .cpyq .. | .cpyd .. | .cpyt .. | .cpyr .. | .cpyf .. | .cpyg .. | .cpys .. | .qinit .. | .mma .. | .mmaa ..
    | .aclr .. | .acpy .. | .cput .. | .cget .. | .csig .. | .cgath .. | .crsc .. | .card .. | .cbcst .. | .trap .. | .tres ..
    | .tkill .. | .tesc .. | .csrr .. | .clauseIssue .. | .pageWalk .. | .globalLoadPerform .. | .loadReturn .. | .writePerform ..
    | .atomicPerform .. | .lineFill .. | .leaseWaitEnd .. | .scratchpadBankAccess .. | .ratomPerform .. | .copyCommandComplete ..
    | .platenStart .. | .platenComplete .. | .mantisRegistration .. | .mantisTimeout .. | .spillSweep .. | .spillReclaim ..
    | .contextReevaluation .. | .streamStart .. | .streamSerialUpdate .. | .streamStop .. | .schedulerStreamRead ..
    | .gateRegistration .. | .launchAdmit .. | .blockPlace .. | .blockSave .. | .blockRestore .. | .blockFlush ..
    | .launchAppendComplete .. | .launchRetire .. | .handlerWaveForm .. | .pcfgResize .. | .pcfgCancel .. | .cellRemoval ..
    | .sliceRemoval .. | .channelGroupRemoval .. | .bucketWrite .. | .bucketRelease .. | .shootdownStart .. | .shootdownComplete ..
    | .scSnap .. | .queueLostClear .. | .hmArm .. | .hmDisarm .. | .hmStatusClear .. | .replay .. | .killLane .. | .killLaunch ..
    | .replayRange .. | .ppodCtlWrite .. | .ppodFlush .. | .podRequestReceive .. | .podResponse .. | .podRequestTimeout ..
    | .ualinkPortDown .. | .collectiveChunkArrival .. | .collectiveAbort .. | .chaferOperationComplete .. | .cxlMemRead ..
    | .cxlMemWrite .. | .hostSnoop .. | .ownClaim .. | .ownBeat .. | .ownOffer .. | .ownAccept .. | .ownershipLapse | .attCmd ..
    | .attestationComplete .. | .securityAlarm .. | .fwLoad .. | .fwUpdate .. | .fwImageVerified | .coldReset | .powerFail
    | .functionLevelReset .. | .rfmIssue .. | .periodicRefresh .. | .activationHold .. | .logRecordProgram | .temperatureThreshold ..
    | .voltageDroop .. | .dataRateChange .. | .coreClockChange .. | .registerWrite .. | .ualinkPortUp .. | .acceleratorIdAssign ..
    | .lifetimeHistogramUpdate .. => []

end Sys2Proof.Machine
end

