-- ==== Sys2Proof/Safety.lean ====
section
/-! DEFINITION. The terms in which claims about the machine are stated: when an instruction runs for one wave, what it leaves unchanged,
and the conditions that every run keeps. -/

namespace Sys2Proof.Machine

/-- A clause issue is in hand whose one member executes in context `c`, and `w` is its wave. -/
structure Alone (s : State) (c : Ctx) (w : Wave) : Prop where
  issue : ∃ i m, s.curIssue = some i ∧ i.members = [m] ∧ i.ctx m = c
  lanes : c.x ≠ []
  wave : s.wave? c.r = some w

/-- An instruction is legal for a wave: well-formed, every register it names below the wave's declared counts (R18, R87). -/
structure LegalFor (i : Instr) (vr sr : List Nat) (w : Wave) : Prop where
  wf : i.wf = true
  vregs : ∀ r ∈ vr, r < w.nv
  sregs : ∀ r ∈ sr, r < w.ns

/-- Registers of lanes of a wave are full (R9). -/
def Wave.allFull (w : Wave) (ls rs : List Nat) : Prop := ∀ l ∈ ls, ∀ x : Lane, w.lanes[l]? = some x → ∀ r ∈ rs, x.isFull r = true

/-- Nothing of a state but one wave differs in another. -/
def OnlyWave (s t : State) (r : WaveRef) : Prop := ∃ f : Wave → Wave, t = s.modWave r f

/-- A lane after an effect: each register written, which the lane has, holds its value, and is full and unmarked; every other register,
F/E bit and mark, every other predicate, and all else of the lane, is as before; p0 stays true (R9, R16). -/
structure LaneWritten (x y : Lane) (e : LaneEff) : Prop where
  rest : y = { x with v := y.v, full := y.full, marks := y.marks, preds := y.preds }
  size : y.v.length = x.v.length
  written : ∀ r z, (r, z) ∈ e.regs → (r < x.v.length → y.reg r = z) ∧ y.isFull r = true ∧ y.mark? r = none
  kept : ∀ r, (∀ z, (r, z) ∉ e.regs) → y.reg r = x.reg r ∧ y.isFull r = x.isFull r ∧ y.mark? r = x.mark? r
  predWritten : ∀ p b, (p, b) ∈ e.preds → p ≠ 0 → y.pred p = b
  predKept : ∀ p, (p = 0 ∨ ∀ b, (p, b) ∉ e.preds) → y.pred p = x.pred p

/-- The lanes of a wave after an instruction: the lanes `ts` have their effects, the other lanes are as before. -/
structure LanesHave (w v : Wave) (ts : List Nat) (eff : Nat → LaneEff) : Prop where
  size : v.lanes.length = w.lanes.length
  inside : ∀ (l : Nat) (x y : Lane), l ∈ ts → w.lanes[l]? = some x → v.lanes[l]? = some y → LaneWritten x y (eff l)
  outside : ∀ l, l ∉ ts → v.lanes[l]? = w.lanes[l]?

/-- The flags of a wave after an instruction: each is set when it was set or an effect raises it (R168). -/
def FlagsRaised (w v : Wave) (ts : List Nat) (eff : Nat → LaneEff) : Prop :=
  ∀ k, v.fflags.getLsbD k = (w.fflags.getLsbD k || ts.any (fun l => (eff l).flags.getLsbD k))

/-- A wave after a lane instruction: its lanes and flags have the effects, and nothing else of the wave differs. -/
structure LanesWritten (w v : Wave) (ts : List Nat) (eff : Nat → LaneEff) : Prop where
  rest : v = { w with lanes := v.lanes, fflags := v.fflags }
  flags : FlagsRaised w v ts eff
  lanes : LanesHave w v ts eff

/-- A lane instruction completes: for a wave executing alone, when it is legal and the registers `vr` that it names are full in every
lane of T, the next state differs in that wave alone, and there in what `eff` gives each lane of T from the wave as it stood (R10, R72,
R87). -/
def LaneInstr (i : Instr) (g : BitVec 4) (vr sr : List Nat) (eff : Wave → Nat → LaneEff) : Prop :=
  ∀ (s : State) (c : Ctx) (w : Wave), Alone s c w → LegalFor i vr sr w → w.allFull (c.t w g) vr →
    ∃ f : Wave → Wave, exec i s = .next (s.modWave c.r f) ∧ LanesWritten w (f w) (c.t w g) (eff w)

/-- The scalar registers of a wave after an instruction: each one written, which the wave has, holds its value, and the others are as
before (R16). -/
structure ScalarsHave (w v : Wave) (ws : List (Nat × Word)) : Prop where
  size : v.s.length = w.s.length
  written : ∀ n z, (n, z) ∈ ws → n < w.s.length → v.sreg n = z
  kept : ∀ n, (∀ z, (n, z) ∉ ws) → v.sreg n = w.sreg n

/-- A scalar-class instruction completes: for a wave executing alone with T not empty, it writes scalar registers of that wave and
nothing else changes; with T empty nothing changes at all (R137). -/
def ScalarInstr (i : Instr) (g : BitVec 4) (sr : List Nat) (ws : Wave → List (Nat × Word)) : Prop :=
  ∀ (s : State) (c : Ctx) (w : Wave), Alone s c w → LegalFor i [] sr w →
    (c.t w g = [] → exec i s = .next s) ∧
    (c.t w g ≠ [] → ∃ f : Wave → Wave, exec i s = .next (s.modWave c.r f) ∧ f w = { w with s := (f w).s } ∧
      ScalarsHave w (f w) (ws w))

/-- The registers that the lanes of T need full, as pairs of lane and register, are full (R9, R141). -/
def Wave.needsMet (w : Wave) (ts : List Nat) (needs : Nat → List (Nat × Nat)) : Prop :=
  ∀ l ∈ ts, ∀ n ∈ needs l, ∀ x : Lane, w.lanes[n.1]? = some x → x.isFull n.2 = true

/-- A home-scoped instruction completes: for a wave executing alone, when it is legal and every register that a lane of T depends on is
full, the next state differs in that wave alone, as `post` says of the wave before, T and the wave after (R106, R141). -/
def CrossInstr (i : Instr) (g : BitVec 4) (vr sr : List Nat) (legal : Wave → Prop)
    (needs : Wave → List Nat → Nat → List (Nat × Nat)) (post : Wave → List Nat → Wave → Prop) : Prop :=
  ∀ (s : State) (c : Ctx) (w : Wave), Alone s c w → LegalFor i vr sr w → legal w → w.needsMet (c.t w g) (needs w (c.t w g)) →
    ∃ f : Wave → Wave, exec i s = .next (s.modWave c.r f) ∧ post w (c.t w g) (f w)

/-- The widths of waves (R7). -/
def Wave.widthOk (w : Wave) : Prop := w.width = 8 ∨ w.width = 16 ∨ w.width = 32 ∨ w.width = 64

/-- The slots of scale rails after an instruction, each given as register, octet, slot and code: those written hold their codes, the
others are as before (R7, R174). -/
structure RailsHave (w v : Wave) (ws : List (Nat × Nat × Nat × Nat)) : Prop where
  size : v.rails.length = w.rails.length
  written : ∀ n o t c, (n, o, t, c) ∈ ws → o < w.width / 8 → n * (w.width / 8) + o < w.rails.length →
    v.railSlot n o t = c % 256
  kept : ∀ n o t, o < w.width / 8 → t < 2 → (∀ c, (n, o, t, c) ∉ ws) → v.railSlot n o t = w.railSlot n o t

/-- The slots that writing a scale code for the block of lane l fills (R175): the code in the block's own slots, zero in the others of its
octets. -/
def blockWrites (four : Bool) (kc r l code : Nat) : List (Nat × Nat × Nat × Nat) :=
  (blockSlots four kc l).1.map (fun p => (r, p.1, p.2, code)) ++ (blockSlots four kc l).2.map (fun p => (r, p.1, p.2, 0))

/-- A wave whose lanes are each passed through a function of position and lane, and of which nothing else differs. -/
structure LanesMapped (w v : Wave) (h : Nat → Lane → Lane) : Prop where
  rest : v = { w with lanes := v.lanes }
  lanes : ∀ l, v.lanes[l]? = (w.lanes[l]?).map (h l)

/-- The wave of a context, remembering a divergent vote of its executing lanes over T when the instruction is one that votes so: T and the
rest of the executing lanes are both not empty (R104, R105). -/
def Ctx.voted (c : Ctx) (w : Wave) (votes : Bool) (ts : List Nat) : Wave :=
  { w with diverged := w.diverged || (votes && decide (ts ≠ [] ∧ ∃ l ∈ c.x, l ∉ ts)) }

/-- A control instruction that ends its lanes' part in the clause completes: for a wave executing alone, the executing lanes leave the
clause issue, each lane of the wave becomes what `post` says, a vote that diverges is remembered, and nothing else of the state differs
(R101, R104, R111). -/
def LeavesClause (i : Instr) (g : BitVec 4) (vr : List Nat) (votes : Bool) (hyp : State → Ctx → Wave → Prop)
    (post : Ctx → Wave → List Nat → Nat → Lane → Lane) : Prop :=
  ∀ (s : State) (c : Ctx) (w : Wave), Alone s c w → LegalFor i vr [] w → w.allFull (c.t w g) vr → hyp s c w →
    ∃ f : Wave → Wave, exec i s = .next ((s.modWave c.r f).dropFromIssues c.r c.x) ∧
      LanesMapped (c.voted w votes (c.t w g)) (f w) (post c w (c.t w g))

/-- The storage of a state is in canonical form: memory, side bytes, and every block's scratchpad and accumulator. -/
def State.canonical (s : State) : Prop :=
  Memory.wf s.mem = true ∧ cellsWf 0 s.side = true ∧ ∀ b ∈ s.blocks, cellsWf 0 b.scratch = true ∧ cellsWf 0 b.acc = true

/-- A lane that goes on at a header. -/
def Lane.goTo (x : Lane) (vpc : Word) : Lane := { x with vpc := vpc, slot := 0 }

/-- Lanes of a wave after an instruction made registers of some of them empty: a lane that waits so for its own instruction forgets an
earlier attempt's marks, and all else of every lane is as before (R9, R250). -/
structure Emptied (w v : Wave) (ls rs : List Nat) : Prop where
  size : v.lanes.length = w.lanes.length
  lanes : ∀ (l : Nat) (x y : Lane), w.lanes[l]? = some x → v.lanes[l]? = some y →
    y = { x with full := y.full, ldsOwn := if l ∈ ls ∧ rs ≠ [] then none else x.ldsOwn } ∧ ∀ r, y.isFull r = (x.isFull r && !decide (l ∈ ls ∧ r ∈ rs))

/-- A wave after lanes `ls` of it have faulted at a context's instruction: their registers `rs` are empty, and are not waited for when the
instruction is executed again; all else of the wave is as before (R109, R209, R250; log entry 64). -/
structure KeepEmpty (w v : Wave) (c : Ctx) (ls rs : List Nat) : Prop where
  rest : v = { w with lanes := v.lanes }
  size : v.lanes.length = w.lanes.length
  lanes : ∀ (l : Nat) (x y : Lane), w.lanes[l]? = some x → v.lanes[l]? = some y →
    y = (if l ∈ ls ∧ rs ≠ [] then { x with full := y.full, ldsOwn := some (c.hdr, c.slot, rs) } else x) ∧
      ∀ r, y.isFull r = (x.isFull r && !decide (l ∈ ls ∧ r ∈ rs))

/-- A state after lanes of a context's wave have faulted: their destinations are empty, and nothing else differs (R109, R250). -/
def DestsKept (u v : State) (c : Ctx) (ls rs : List Nat) : Prop :=
  ∃ f : Wave → Wave, v = u.modWave c.r f ∧ ∀ w : Wave, KeepEmpty w (f w) c ls rs

/-- A memory operation as an instruction of a context puts it in flight: it bears the state's next key, the instruction's wave and trap
point, the wave's core, partition, space and launch, and has ended nothing. -/
structure OpAt (u : State) (c : Ctx) (op : MemOp) (kind : MemKind) (scope qual : Nat) (counted : Bool) : Prop where
  key : op.id = u.next
  what : op.kind = kind ∧ op.scope = scope ∧ op.qual = qual ∧ op.counted = counted
  whose : op.wave = c.r ∧ op.core = u.coreOf c.r ∧ op.part = u.partOf c.r ∧ op.space = u.spaceOf c.r ∧
    op.launch = (u.launchKey c.r).getD 0
  point : op.vpc = c.hdr ∧ op.slot = c.slot
  fresh : op.relDone = false ∧ op.completion = 0 ∧ op.ended = false

/-- An instruction puts one operation in flight from a state u, in which the checks of its lanes have been made: the state is u with the
operation last among those in flight, and in the instruction's wave the registers `rs` of the lanes `ls` are empty, the counter `oc.mem`
counts a counted operation, an acquire is listed, and the wave is held by the operation when `held` says so (R99, R248, R252, R329). -/
def PutsInFlight (i : Instr) (s u : State) (c : Ctx) (op : MemOp) (ls rs : List Nat) (held : Bool) : Prop :=
  ∃ f : Wave → Wave,
    exec i s = .next (({ u with next := u.next + 1, memOps := u.memOps ++ [op] } : State).modWave c.r f) ∧
    ∀ w : Wave, Emptied w (f w) ls rs ∧
      f w = { w with
        lanes := (f w).lanes
        ocMem := if op.counted then w.ocMem + 1 else w.ocMem
        acquires := if op.acquire then w.acquires ++ [op.id] else w.acquires
        holds := if held then w.holds ++ [.op op.id] else w.holds }

/-- A line held at its home in a plate of its own, not poisoned, with its 128 bytes; no other partition holds it, and the entries that watch
it are not in the spill area (R223, R232, R241, R350). -/
structure HeldAlone (s : State) (part line j : Nat) (t : Tag) : Prop where
  home : s.homeOf part line = some j
  tag : (s.slice j).homeTag line = some t
  own : t.state ≠ .blank ∧ t.poison = false ∧ ∃ p, t.plate = some p ∧ (cellGet (⟨[], [], 0⟩ : Plate) (s.slice j).plates p).count = 1
  size : (s.homeLine part line).1.length = 128
  others : s.otherTags part line = []
  unspilled : ∀ e ∈ s.entries, e.part = part → e.addr / 128 = line → e.recs = []

/-- A fault queue record written (R47, R399): with the queue of the partition enabled and valid, not full, and its next place in reach, the
32 bytes stand at that place, PROD has advanced, the vector is raised, and memory behind the galley is as before. -/
def FaultRecorded (s t : State) (part : Nat) (bytes : List Byte) : Prop :=
  ∀ (n j : Nat) (x : Tag),
    let q := (s.part part).vf.fq
    let pa := q.base + 32 * (q.prod % n)
    q.entries = some n → q.enabled = true → (q.prod + 2 ^ 32 - q.cons) % 2 ^ 32 ≠ n → q.base % 32 = 0 →
    (s.part part).reachesRam pa = true → HeldAlone s part (pa / 128) j x →
    (t.homeLine part (pa / 128)).1 = writeOffsets (s.homeLine part (pa / 128)).1 (mapIdx' (fun i b => (pa % 128 + i, b)) bytes) ∧
    (t.part part).vf.fq = { q with prod := (q.prod + 1) % 2 ^ 32 } ∧ .interrupt false part (bitsOf q.cfg 16 6) ∈ t.outputs ∧ t.mem = s.mem

/-- The instructions that a handler lane may not execute (R396): those of the classes COPY, MTX and COLL, barriers, and those that act on a
block's scratchpad or queues. -/
def refusedToHandlers (i : Instr) : Bool :=
  classOf i == some 3 || classOf i == some 4 || classOf i == some 5 ||
    match i with
    | .bar .. | .bara .. | .barw .. | .bari .. | .ldsB32 .. | .ldsB64 .. | .ldsB128 .. | .stsB32 .. | .stsB64 .. | .stsB128 .. | .fe ..
    | .satom .. | .ratom .. | .qcfg .. | .qpush .. | .qpop .. => true
    | _ => false

/-- A wave that no acquire and no `waitu` holds back from memory, and whose `oc.mem` is below its greatest value (R59, R329, R348). -/
structure Wave.memFree (w : Wave) : Prop where
  acquires : w.acquires = []
  waits : ∀ y ∈ w.groups, y.delivers = false
  count : w.ocMem < 15

end Sys2Proof.Machine
end

