-- ==== Sys2Proof/Certificates/Slice0/Obligations.lean ====
section
/-! DEFINITION. The statements for the provers. Each says in its docstring which rules of spec/ it formalises. -/

open Sys2Proof Sys2Proof.Machine

/-- Decoding the word of a well-formed instruction, in the instruction's own class, gives the instruction back, with every operand at
every value its encoding admits (R63, R70 to R86). -/
def Obligations.DecodeOfEncode : Prop :=
  ∀ (i : Instr) (c : Nat), i.wf = true → classOf i = some c →
    encode i = [BitVec.ofNat 32 (encodeNat i)] ∧ encodeNat i < 2 ^ 32 ∧ decodeWord c (encodeNat i) = .ok i

/-- Every word that the decoder accepts is the word of the instruction it gives, which is well-formed and of that class: no bit of an
accepted word is left unread, and no instruction has a second word (R63, R70, Table 3.15). -/
def Obligations.EncodeOfDecode : Prop :=
  ∀ (c w : Nat) (i : Instr), w < 2 ^ 32 → decodeWord c w = .ok i → i.wf = true ∧ classOf i = some c ∧ encodeNat i = w

/-- The decoder refuses class 7, the majors that a class leaves unassigned, and the operand value a = 127 in every form that carries
field a, in the classes ALU, CTRL, MTX and SYS (R64, R87, Table 3.15). -/
def Obligations.ReservedEncodingsRefused : Prop :=
  (∀ w : Nat, decodeWord 7 w = .error .illegalClass) ∧
  (∀ (c w : Nat), w < 2 ^ 32 →
    (c = 1 ∧ 0x12 ≤ w / 2 ^ 26) ∨ (c = 2 ∧ 0x31 ≤ w / 2 ^ 26) ∨ (c = 3 ∧ 9 ≤ w / 2 ^ 26) ∨
      ((c = 4 ∨ c = 5 ∨ c = 6) ∧ 8 ≤ w / 2 ^ 26) → decodeWord c w = .error .unassignedMajor) ∧
  (∀ w : Nat, w / 2 ^ 13 % 2 ^ 7 = 127 →
    (w / 2 ^ 26 % 64 < 45 ∨ (48 ≤ w / 2 ^ 26 % 64 ∧ w / 2 ^ 26 % 64 < 52) ∨ (54 ≤ w / 2 ^ 26 % 64) →
      ∃ r, decodeWord 0 w = .error r) ∧
    (w / 2 ^ 26 % 64 ∈ [3, 5, 16, 17] → ∃ r, decodeWord 1 w = .error r) ∧
    (w / 2 ^ 26 % 64 ∈ [4, 5, 7] → ∃ r, decodeWord 4 w = .error r) ∧
    (w / 2 ^ 26 % 64 ∈ [1, 5, 6] → ∃ r, decodeWord 6 w = .error r))

/-- Words written out bit by bit from the encoding tables decode to the instructions they stand for, one or more of each class (R70 to
R84). -/
def Obligations.SampleWordsDecode : Prop :=
  -- class ALU, major 0x00: d = v1 [25:20], a = v2 [19:13], b = v3 [12:7], m = 0 [6:4], g = p0 [3:0]
  decodeWord 0 0x00104180 = .ok (.fadd 1 2 3 0 0) ∧
  -- class ALU, major 0x20: d = v4, a = 64 (s0), b = v5, m = 4 (subs.s), g = p2
  decodeWord 0 0x804802C2 = .ok (.iadd 4 64 5 4 2) ∧
  -- class ALU, major 0x2D: d = v7, imm16 = 0xFFFE [19:4]
  decodeWord 0 0xB47FFFE0 = .ok (.movi 7 0xFFFE 0) ∧
  -- class CTRL, major 0x01: off22 = -3 [25:4], g = p0
  decodeWord 1 0x07FFFFD0 = .ok (.bra 0x3FFFFD 0) ∧
  -- class CTRL, major 0x06: g = p1
  decodeWord 1 0x18000001 = .ok (.exit 1) ∧
  -- class MEM, major 0x04: d = v8, base = v2 [19:14], off6 = 1 [13:8], sc = 2 [7:6], qual = 1 [5:4]
  decodeWord 2 0x10808190 = .ok (.ldB32 8 2 1 2 1 0) ∧
  -- class COPY, major 0x01: t1 = t3 [25:22], t2 = t2 [21:18], c = v8 [17:12], y = 0
  decodeWord 3 0x04C88000 = .ok (.cpy 3 2 1 0 0 0 0) ∧
  -- class MTX, major 0x00: quire 2 [11:9], signer count less one 3 [8:4]
  decodeWord 4 0x00000430 = .ok (.qinit 2 3 0) ∧
  -- class COLL, major 0x00: c = v4 [17:12], group register 3 [11:9]
  decodeWord 5 0x00004600 = .ok (.cgrp 4 3 0) ∧
  -- class SYS, major 0x00: code 0x5A [11:4], g = p2
  decodeWord 6 0x000005A2 = .ok (.trap 0x5A 2)

/-- A step runs the instruction that the bytes at the issuing wave's position decode to. With the schedule empty, the first wave in the
order of R60 that is in a clause issue has that issue taken in hand, the word at its position decoded in the clause's class (R63), and
the instruction executed; then the issue moves on. A wave that was held back leaves its place to the next; the pack-mates of one that was
not issue with it where they stand at its issue address (R59, R60, R87, R101).
The order in which waves, positions and the device's own steps take their turns is the model's choice (log entry 1). -/
def Obligations.StepRunsDecodedInstruction : Prop :=
  ∀ (s u t : State) (r : WaveRef) (rs : List WaveRef) (i j : Issue) (ins : Instr),
    s.turns = [] → s.candidates s.focus.1 s.focus.2 = r :: rs → s.issueOf r = some i →
    u = (s.partHeld i).takeIssue i.id → u.curIssue = some j → decodeWord j.cls (j.words.getD (j.pos - 1) 0) = .ok ins →
    exec ins u = .next t →
    let core := s.focus.1
    let quarter := s.focus.2
    let v := t.afterWord
    let mates := s.packMates core quarter r
    step s = if v.heldBack i.id then cycleWith core quarter rs v
      else coIssue i.addr mates ((v.noteIssue core quarter r).beginMates core quarter i.addr mates)

/-- A step takes the next turn of the schedule: a cycle of a quarter, a step of the device itself executed and settled, or the passing of
lease ticks.
The schedule is the model's choice (log entry 1). -/
def Obligations.StepTakesNextTurn : Prop :=
  (∀ (s : State) (c q : Nat) (ts : List Turn), s.turns = .cycle c q :: ts → step s = cycle c q { s with turns := ts }) ∧
  (∀ (s t : State) (e : Instr) (ts : List Turn), s.turns = .event e :: ts → exec e { s with turns := ts, cur := none } = .next t →
    step s = .next t.settle) ∧
  (∀ (s : State) (n : Nat) (ts : List Turn), s.turns = .elapse n :: ts →
    step s = .next ({ s with turns := ts, clock := s.clock + n }).settle)

/-- The machine never stops: every instruction, event and clause has its effect or traps its lanes, and each step has a next state.
That a step of the device which its rule does not enable changes nothing is the model's choice (log entries 1 and 4). -/
def Obligations.EveryStepHasNextState : Prop := ∀ s : State, ∃ t : State, step s = .next t

/-- Every step keeps the storage of the machine in its canonical form, so that equal memories are equal data: in memory, in the side bytes,
and in the scratchpad and accumulator of every block, the addresses rise strictly and no listed entry equals what an unlisted one reads
as. -/
def Obligations.StepKeepsStorageCanonical : Prop :=
  ∀ s t : State, s.canonical → step s = .next t → t.canonical

/-- The storage of the machine right after reset is in canonical form. -/
def Obligations.ResetStorageCanonical : Prop := State.reset.canonical

/-- The machine right after its first cold reset: no partition owns cells, slices or channel groups, every byte of every channel group
(physical addresses below 2^51) reads zero, no launch, block or operation exists, the lease clock reads zero, no owner is claimed and the
boot count is 1 (R2, R203, R434, R442). -/
def Obligations.ResetState : Prop :=
  State.reset.parts.length = 16 ∧ (∀ p ∈ State.reset.parts, p.cells = 0 ∧ p.slices = 0 ∧ p.groups = 0) ∧
  (∀ a < 2 ^ 51, Memory.read State.reset.mem a = 0) ∧
  State.reset.launches = [] ∧ State.reset.blocks = [] ∧ State.reset.memOps = [] ∧ State.reset.engOps = [] ∧
  State.reset.entries = [] ∧ State.reset.clock = 0 ∧ State.reset.device.owner = 0 ∧ State.reset.device.boots = 1

/-- What a change of one wave leaves unchanged: every byte of memory, every other wave, every launch, partition, slice, engine and memory
operation, clause issue, and the device-wide state. -/
def Obligations.OnlyWaveFrame : Prop :=
  ∀ (s t : State) (r : WaveRef), OnlyWave s t r →
    (∀ a, Memory.read t.mem a = Memory.read s.mem a) ∧ t.side = s.side ∧ t.poisonMem = s.poisonMem ∧
    (∀ q, q ≠ r → t.wave? q = s.wave? q) ∧
    t.launches = s.launches ∧ t.parts = s.parts ∧ t.slices = s.slices ∧ t.issues = s.issues ∧ t.memOps = s.memOps ∧
    t.engOps = s.engOps ∧ t.entries = s.entries ∧ t.podReqs = s.podReqs ∧ t.device = s.device ∧ t.clock = s.clock ∧
    t.outputs = s.outputs ∧ (∀ c, (t.core c).l1 = (s.core c).l1 ∧ (t.core c).tlb = (s.core c).tlb)

/-- FP32 arithmetic (R75, R179, R181, R182, R186, R187): each lane of T writes v d with the result of the rounded operation on opA and
v b (and v d for `ffma`), in the wave's rounding mode, with input flush, output flush and saturation by m, and raises its flags; nothing
else changes.
FP64 arithmetic (R75, R180, R183, R186, R187): as FP32, on even register pairs, low word first; `dmnx` takes the maximum when m[4] is
set.
Packed 16-bit arithmetic (R75, R184): each half of the words is an operation of its own in binary16 or bfloat16, the low half in
[15:0] and the high half in [31:16], and the flags of both are raised. -/
def Obligations.FloatArithmetic : Prop :=
  (
  ∀ (d : BitVec 6) (a : BitVec 7) (b : BitVec 6) (m : BitVec 3) (g : BitVec 4),
      let A (w : Wave) (l : Nat) : Nat := (w.opA l a).toNat
      let B (w : Wave) (l : Nat) : Nat := (w.reg l b.toNat).toNat
      let D (w : Wave) (l : Nat) : Nat := (w.reg l d.toNat).toNat
      let vr := [d.toNat, b.toNat] ++ aVec a false
      let sr := aScal a false
      LaneInstr (.fadd d a b m g) g vr sr (fun w l => eff32 d (roundResult fp32
        ((readVal fp32 (mFi m) (A w l)).add (zeroSign w.rnd) (readVal fp32 (mFi m) (B w l))) w.rnd (mSat m) (mFo m))) ∧
      LaneInstr (.fsub d a b m g) g vr sr (fun w l => eff32 d (roundResult fp32
        ((readVal fp32 (mFi m) (A w l)).add (zeroSign w.rnd) (readVal fp32 (mFi m) (B w l)).neg) w.rnd (mSat m) (mFo m))) ∧
      LaneInstr (.fmul d a b m g) g vr sr (fun w l => eff32 d (roundResult fp32
        ((readVal fp32 (mFi m) (A w l)).mul (readVal fp32 (mFi m) (B w l))) w.rnd (mSat m) (mFo m))) ∧
      LaneInstr (.ffma d a b m g) g vr sr (fun w l => eff32 d (roundResult fp32
        (Val.fma (zeroSign w.rnd) (readVal fp32 (mFi m) (A w l)) (readVal fp32 (mFi m) (B w l)) (readVal fp32 (mFi m) (D w l)))
        w.rnd (mSat m) (mFo m))) ∧
      LaneInstr (.fmin d a b m g) g vr sr (fun w l => eff32 d
        (minMax fp32 false (mFo m) (flushIn fp32 (mFi m) (A w l)) (flushIn fp32 (mFi m) (B w l)))) ∧
      LaneInstr (.fmax d a b m g) g vr sr (fun w l => eff32 d
        (minMax fp32 true (mFo m) (flushIn fp32 (mFi m) (A w l)) (flushIn fp32 (mFi m) (B w l)))) ∧
      LaneInstr (.ftr d a b m g) g ([d.toNat] ++ aVec a false) sr (fun w l => eff32 d
        (unaryOp fp32 b.toNat (mFi m) (mFo m) (mSat m) w.rnd (A w l)))) ∧
  (
  ∀ (d : BitVec 6) (a : BitVec 7) (b : BitVec 6) (m : BitVec 3) (g : BitVec 4),
      let A (w : Wave) (l : Nat) : Nat := w.opAD l a
      let B (w : Wave) (l : Nat) : Nat := w.reg64 l b.toNat
      let D (w : Wave) (l : Nat) : Nat := w.reg64 l d.toNat
      let vr := [d.toNat, d.toNat + 1, b.toNat, b.toNat + 1] ++ aVec a true
      let sr := aScal a true
      LaneInstr (.dadd d a b m g) g vr sr (fun w l => eff64 d (roundResult fp64
        ((readVal fp64 (mFi m) (A w l)).add (zeroSign w.rnd) (readVal fp64 (mFi m) (B w l))) w.rnd (mSat m) (mFo m))) ∧
      LaneInstr (.dmul d a b m g) g vr sr (fun w l => eff64 d (roundResult fp64
        ((readVal fp64 (mFi m) (A w l)).mul (readVal fp64 (mFi m) (B w l))) w.rnd (mSat m) (mFo m))) ∧
      LaneInstr (.dfma d a b m g) g vr sr (fun w l => eff64 d (roundResult fp64
        (Val.fma (zeroSign w.rnd) (readVal fp64 (mFi m) (A w l)) (readVal fp64 (mFi m) (B w l)) (readVal fp64 (mFi m) (D w l)))
        w.rnd (mSat m) (mFo m))) ∧
      LaneInstr (.dmnx d a b m g) g vr sr (fun w l => eff64 d
        (minMax fp64 (mSat m) (mFo m) (flushIn fp64 (mFi m) (A w l)) (flushIn fp64 (mFi m) (B w l)))) ∧
      LaneInstr (.dtr d a b m g) g ([d.toNat, d.toNat + 1] ++ aVec a true) sr (fun w l => eff64 d
        (unaryOp fp64 b.toNat (mFi m) (mFo m) (mSat m) w.rnd (A w l)))) ∧
  (
  ∀ (d : BitVec 6) (a : BitVec 7) (b : BitVec 6) (m : BitVec 3) (g : BitVec 4),
      let B (w : Wave) (l : Nat) : Nat := (w.reg l b.toNat).toNat
      let D (w : Wave) (l : Nat) : Nat := (w.reg l d.toNat).toNat
      let vr := [d.toNat, b.toNat] ++ aVec a false
      let sr := aScal a false
      let half (x h : Nat) : Nat := x / 2 ^ (16 * h) % 2 ^ 16
      let both (f : Nat → Nat × Flags) : LaneEff := eff32 d ((f 0).1 + 65536 * (f 1).1, (f 0).2 ||| (f 1).2)
      let sum (f : Fmt) (w : Wave) (l h : Nat) : Nat × Flags := roundResult f
        ((readVal f (mFi m) (half (w.opAH f l a) h)).add (zeroSign w.rnd) (readVal f (mFi m) (half (B w l) h))) w.rnd (mSat m) (mFo m)
      let prod (f : Fmt) (w : Wave) (l h : Nat) : Nat × Flags := roundResult f
        ((readVal f (mFi m) (half (w.opAH f l a) h)).mul (readVal f (mFi m) (half (B w l) h))) w.rnd (mSat m) (mFo m)
      let fused (f : Fmt) (w : Wave) (l h : Nat) : Nat × Flags := roundResult f
        (Val.fma (zeroSign w.rnd) (readVal f (mFi m) (half (w.opAH f l a) h)) (readVal f (mFi m) (half (B w l) h))
          (readVal f (mFi m) (half (D w l) h))) w.rnd (mSat m) (mFo m)
      LaneInstr (.hadd2 d a b m g) g vr sr (fun w l => both (sum fp16 w l)) ∧
      LaneInstr (.hmul2 d a b m g) g vr sr (fun w l => both (prod fp16 w l)) ∧
      LaneInstr (.hfma2 d a b m g) g vr sr (fun w l => both (fused fp16 w l)) ∧
      LaneInstr (.badd2 d a b m g) g vr sr (fun w l => both (sum bf16 w l)) ∧
      LaneInstr (.bmul2 d a b m g) g vr sr (fun w l => both (prod bf16 w l)) ∧
      LaneInstr (.bfma2 d a b m g) g vr sr (fun w l => both (fused bf16 w l)) ∧
      LaneInstr (.hmnx2 d a b m g) g vr sr (fun w l => both (fun h =>
        minMax fp16 (mSat m) (mFo m) (flushIn fp16 (mFi m) (half (w.opAH fp16 l a) h)) (flushIn fp16 (mFi m) (half (B w l) h)))))

/-- Floating comparisons (R80, R185): each lane of T writes the predicate p d with the condition of opA and v b; the packed forms write
p d from the low halves and p d+1 from the high halves; no register changes. -/
def Obligations.FloatComparisons : Prop :=
  ∀ (p : BitVec 6) (a : BitVec 7) (b : BitVec 6) (c : BitVec 3) (g : BitVec 4),
    let one (r : Bool × Flags) : LaneEff := { preds := [(p.toNat, r.1)], flags := r.2 }
    let two (f : Fmt) (w : Wave) (l : Nat) : LaneEff :=
      let x := w.opAH f l a
      let y := (w.reg l b.toNat).toNat
      let lo := floatCond f c.toNat (x % 2 ^ 16) (y % 2 ^ 16)
      let hi := floatCond f c.toNat (x / 2 ^ 16 % 2 ^ 16) (y / 2 ^ 16 % 2 ^ 16)
      { preds := [(p.toNat, lo.1), (p.toNat + 1, hi.1)], flags := lo.2 ||| hi.2 }
    LaneInstr (.fcmp p a b c g) g ([b.toNat] ++ aVec a false) (aScal a false)
      (fun w l => one (floatCond fp32 c.toNat (w.opA l a).toNat (w.reg l b.toNat).toNat)) ∧
    LaneInstr (.dcmp p a b c g) g ([b.toNat, b.toNat + 1] ++ aVec a true) (aScal a true)
      (fun w l => one (floatCond fp64 c.toNat (w.opAD l a) (w.reg64 l b.toNat))) ∧
    LaneInstr (.hcmp2 p a b c g) g ([b.toNat] ++ aVec a false) (aScal a false) (two fp16) ∧
    LaneInstr (.bcmp2 p a b c g) g ([b.toNat] ++ aVec a false) (aScal a false) (two bf16)

/-- Conversions (R168, R188 to R192): `cvtf` narrows FP32 to a format, replacing one half of v d for the 16-bit formats; `cvtn` widens a
slot of a register to FP32; `cvti` converts between FP32 and 32-bit integers; `cvtd` converts to and from FP64, by its op; each in the
rounding mode its field names, raising its flags. -/
def Obligations.Conversions : Prop :=
  ∀ (d : BitVec 6) (a : BitVec 7) (t : BitVec 3) (r : BitVec 2) (i o s h v n : BitVec 1) (q : BitVec 3) (g : BitVec 4),
    let A (w : Wave) (l : Nat) : Nat := (w.opA l a).toNat
    LaneInstr (.cvtf d a t r i o s h g) g ([d.toNat] ++ aVec a false ++ srReg r (a.toNat + 1)) (aScal a false) (fun w l =>
      let y := convertTo (convFmt t.toNat) (readVal fp32 (i == 1) (A w l)) (roundOfField r.toNat (w.threshold l (a.toNat + 1)))
        (s == 1) (o == 1)
      eff32 d (if t.toNat ≤ 1 then (setBits (w.reg l d.toNat).toNat (16 * h.toNat) 16 y.1, y.2) else y)) ∧
    LaneInstr (.cvtn d a t q i o g) g ([d.toNat] ++ aVec a false) [] (fun w l => eff32 d
      (convertTo fp32 (readVal (convFmt t.toNat) (i == 1) (slotCode (convFmt t.toNat) (A w l) q.toNat)) .rne false (o == 1))) ∧
    LaneInstr (.cvti d a v n r i s g) g ([d.toNat] ++ aVec a false) (aScal a false) (fun w l => eff32 d
      (if v = 0 then roundTo fp32 (Val.ofInt (intRead (n == 1) 32 (A w l))) (roundOfField r.toNat 0) false false
       else floatToInt (n == 1) 32 (readVal fp32 (i == 1) (A w l)) (roundOfField r.toNat 0) (s == 1))) ∧
    LaneInstr (.cvtd d a q r i o s g) g
      ((if cvtdWideOut q then [d.toNat, d.toNat + 1] else [d.toNat]) ++ aVec a (cvtdWideIn q)) (aScal a (cvtdWideIn q)) (fun w l =>
      let y := cvtdResult w l a q (roundOfField r.toNat 0) (i == 1) (o == 1) (s == 1)
      if cvtdWideOut q then eff64 d y else eff32 d y)

/-- Integer arithmetic and logic (R79, R130, Table 6.2): each lane of T writes v d with the sub-operation m of opA and v b (and v d for
mad.lo); abs, neg and not do not need v b.
Shifts, bit functions and fields (R131, R132, R133): each lane of T writes v d with the shift of opA by the whole of v b or by the
immediate amount, the bit function of opA, or the field of opA extracted or inserted by the control word in v b. -/
def Obligations.IntegerArithmetic : Prop :=
  (
  ∀ (d : BitVec 6) (a : BitVec 7) (b : BitVec 6) (m : BitVec 3) (g : BitVec 4),
      let vr2 := [d.toNat, b.toNat] ++ aVec a false
      let vr1 := [d.toNat] ++ aVec a false
      let sr := aScal a false
      LaneInstr (.iadd d a b m g) g vr2 sr (fun w l => effW d (addSub m.toNat (w.opA l a) (w.reg l b.toNat))) ∧
      LaneInstr (.imul d a b m g) g vr2 sr (fun w l => effW d (mulSub m.toNat (w.opA l a) (w.reg l b.toNat) (w.reg l d.toNat))) ∧
      LaneInstr (.imnx d a b m g) g (if 4 ≤ m.toNat then vr1 else vr2) sr
        (fun w l => effW d (minMaxSub m.toNat (w.opA l a) (w.reg l b.toNat))) ∧
      LaneInstr (.ilog d a b m g) g (if m.toNat = 6 then vr1 else vr2) sr
        (fun w l => effW d (logicSub m.toNat (w.opA l a) (w.reg l b.toNat)))) ∧
  (
  ∀ (d : BitVec 6) (a : BitVec 7) (b : BitVec 6) (m o : BitVec 3) (n : BitVec 5) (g : BitVec 4),
      let vr2 := [d.toNat, b.toNat] ++ aVec a false
      let vr1 := [d.toNat] ++ aVec a false
      let sr := aScal a false
      LaneInstr (.ish d a b m g) g vr2 sr (fun w l => effW d (shiftSub m.toNat (w.opA l a) (w.reg l b.toNat).toNat)) ∧
      LaneInstr (.ishi d a o n g) g vr1 sr (fun w l => effW d (shiftSub o.toNat (w.opA l a) n.toNat)) ∧
      LaneInstr (.ibit d a m g) g vr1 sr (fun w l => effW d (bitSub m.toNat (w.opA l a))) ∧
      LaneInstr (.bfe d a b m g) g vr2 sr (fun w l => effW d (extractField (m == 1) (w.opA l a) (w.reg l b.toNat))) ∧
      LaneInstr (.bfi d a b m g) g vr2 sr (fun w l => effW d (insertField (w.reg l d.toNat) (w.opA l a) (w.reg l b.toNat))))

/-- What the sub-operations of `iadd` and `imul` compute, on the operands read as signed or natural integers (Table 6.2): sums and
differences modulo 2^32 or clamped to the range, the mean rounded up of the exact sum plus one halved toward minus infinity, the low
word, and the high word of the exact product.
What the shifts compute (R131): shl and shr give 0, and sar all copies of the sign, for an amount of 32 or more; rotations take the
amount modulo 32. -/
def Obligations.IntegerSubOperations : Prop :=
  (
  ∀ x y z : Word,
      (addSub 0 x y).toNat = (x.toNat + y.toNat) % 2 ^ 32 ∧
      ((addSub 1 x y).toNat + y.toNat) % 2 ^ 32 = x.toNat ∧
      (addSub 2 x y).toInt = max (-2 ^ 31) (min (2 ^ 31 - 1) (x.toInt + y.toInt)) ∧
      (addSub 3 x y).toNat = min (2 ^ 32 - 1) (x.toNat + y.toNat) ∧
      (addSub 4 x y).toInt = max (-2 ^ 31) (min (2 ^ 31 - 1) (x.toInt - y.toInt)) ∧
      (addSub 5 x y).toNat = x.toNat - y.toNat ∧
      (addSub 6 x y).toInt = (x.toInt + y.toInt + 1) / 2 ∧
      (addSub 7 x y).toNat = (x.toNat + y.toNat + 1) / 2 ∧
      (mulSub 0 x y z).toNat = x.toNat * y.toNat % 2 ^ 32 ∧
      (mulSub 1 x y z).toInt = x.toInt * y.toInt / 2 ^ 32 ∧
      (mulSub 2 x y z).toNat = x.toNat * y.toNat / 2 ^ 32 ∧
      (mulSub 3 x y z).toNat = (x.toNat * y.toNat + z.toNat) % 2 ^ 32) ∧
  (
  ∀ (x : Word) (n : Nat),
      (shiftSub 0 x n).toNat = x.toNat * 2 ^ n % 2 ^ 32 ∧
      (shiftSub 1 x n).toNat = x.toNat / 2 ^ n ∧
      (shiftSub 2 x n).toInt = x.toInt / 2 ^ n ∧
      (∀ k < 32, (shiftSub 3 x n).getLsbD ((k + n) % 32) = x.getLsbD k) ∧
      (∀ k < 32, (shiftSub 4 x n).getLsbD k = x.getLsbD ((k + n) % 32)))

/-- Moves, selection and integer comparison (R71, R78, R134, R135, R136): `mov` copies opA; `movi` sign-extends its immediate; `movh` and
`movl` replace one half of v d; `sel` takes opA where its predicate is true and v b where it is false, in every executing lane; `icmp`
and `icmpn` write p d with the signed or natural condition of opA and v b. -/
def Obligations.MovesAndComparisons : Prop :=
  ∀ (d : BitVec 6) (a : BitVec 7) (b p : BitVec 6) (k : BitVec 16) (c : BitVec 3) (g : BitVec 4),
    let vr1 := [d.toNat] ++ aVec a false
    let sr := aScal a false
    LaneInstr (.mov d a g) g vr1 sr (fun w l => effW d (w.opA l a)) ∧
    LaneInstr (.movi d k g) g [d.toNat] [] (fun _ _ => effW d (BitVec.ofInt 32 k.toInt)) ∧
    LaneInstr (.movh d k g) g [d.toNat] [] (fun w l =>
      effW d (BitVec.ofNat 32 (2 ^ 16 * k.toNat + (w.reg l d.toNat).toNat % 2 ^ 16))) ∧
    LaneInstr (.movl d k g) g [d.toNat] [] (fun w l =>
      effW d (BitVec.ofNat 32 ((w.reg l d.toNat).toNat / 2 ^ 16 * 2 ^ 16 + k.toNat))) ∧
    LaneInstr (.sel d a b p) 0 ([d.toNat, b.toNat] ++ aVec a false) sr (fun w l =>
      effW d (if w.pred l p.toNat then w.opA l a else w.reg l b.toNat)) ∧
    LaneInstr (.icmp p a b c g) g ([b.toNat] ++ aVec a false) sr (fun w l =>
      { preds := [(p.toNat, (intCond c.toNat (w.opA l a).toInt (w.reg l b.toNat).toInt).getD false)] }) ∧
    LaneInstr (.icmpn p a b c g) g ([b.toNat] ++ aVec a false) sr (fun w l =>
      { preds := [(p.toNat, (intCond c.toNat (w.opA l a).toNat (w.reg l b.toNat).toNat).getD false)] })

/-- Predicate logic and random words (R140, R150, R151): `plog` writes p d with a combination of two predicates, or with the bit of a
register that its field names; `rand` writes v d with the output of Scarab for the 64-bit key opA and the index v b. -/
def Obligations.PredicateLogicAndRandom : Prop :=
  ∀ (d : BitVec 6) (a : BitVec 7) (b q : BitVec 6) (o : BitVec 3) (g : BitVec 4),
    LaneInstr (.plog d a q o g) g (if o.toNat = 6 then [a.toNat] else []) [] (fun w l =>
      { preds := [(d.toNat,
        match o.toNat with
        | 0 => w.pred l a.toNat && w.pred l q.toNat
        | 1 => w.pred l a.toNat || w.pred l q.toNat
        | 2 => w.pred l a.toNat != w.pred l q.toNat
        | 3 => w.pred l a.toNat && !w.pred l q.toNat
        | 4 => !w.pred l a.toNat
        | 5 => w.pred l a.toNat
        | _ => (w.reg l a.toNat).getLsbD q.toNat)] }) ∧
    LaneInstr (.rand d a b g) g ([d.toNat, b.toNat] ++ aVec a true) (aScal a true) (fun w l =>
      effW d (BitVec.ofNat 32 (scarab (w.opA64 l a) (w.reg l b.toNat).toNat)))

/-- Scalar instructions (R73, R137, R138): once for the wave, when T is not empty, s d receives the result; `smovh` keeps the low half.
`scmp` (R139): when T is not empty its outcome is written to p d of every lane of the wave that is neither a helper lane nor exited,
whether in T or not; nothing else changes. -/
def Obligations.ScalarInstructions : Prop :=
  (
  ∀ (d : BitVec 6) (a : BitVec 7) (b : BitVec 6) (m : BitVec 3) (k : BitVec 16) (g : BitVec 4),
      let sr2 := [d.toNat, b.toNat] ++ aScal a false
      let sr1 := [d.toNat] ++ aScal a false
      ScalarInstr (.sadd d a b m g) g sr2 (fun w => [(d.toNat, addSub m.toNat (w.opS a) (w.sreg b.toNat))]) ∧
      ScalarInstr (.smul d a b m g) g sr2 (fun w => [(d.toNat, mulSub m.toNat (w.opS a) (w.sreg b.toNat) (w.sreg d.toNat))]) ∧
      ScalarInstr (.slog d a b m g) g (if m.toNat = 6 then sr1 else sr2)
        (fun w => [(d.toNat, logicSub m.toNat (w.opS a) (w.sreg b.toNat))]) ∧
      ScalarInstr (.ssh d a b m g) g sr2 (fun w => [(d.toNat, shiftSub m.toNat (w.opS a) (w.sreg b.toNat).toNat)]) ∧
      ScalarInstr (.smovi d k g) g [d.toNat] (fun _ => [(d.toNat, BitVec.ofInt 32 k.toInt)]) ∧
      ScalarInstr (.smovh d k g) g [d.toNat] (fun w =>
        [(d.toNat, BitVec.ofNat 32 (2 ^ 16 * k.toNat + (w.sreg d.toNat).toNat % 2 ^ 16))]) ∧
      ScalarInstr (.smov d a g) g sr1 (fun w => [(d.toNat, w.opS a)])) ∧
  (
  ∀ (p : BitVec 6) (a : BitVec 7) (b : BitVec 6) (k : BitVec 3) (g : BitVec 4) (s : State) (c : Ctx) (w : Wave),
      Alone s c w → LegalFor (.scmp p a b k g) [] ([b.toNat] ++ aScal a false) w →
      (c.t w g = [] → exec (.scmp p a b k g) s = .next s) ∧
      (c.t w g ≠ [] → ∃ f : Wave → Wave, exec (.scmp p a b k g) s = .next (s.modWave c.r f) ∧
        f w = { w with lanes := (f w).lanes } ∧ (f w).lanes.length = w.lanes.length ∧
        ∀ (l : Nat) (x y : Lane), w.lanes[l]? = some x → (f w).lanes[l]? = some y →
          (x.state = .helper ∨ x.state = .exited → y = x) ∧
          (x.state ≠ .helper → x.state ≠ .exited →
            LaneWritten x y { preds := [(p.toNat, (scalarCond k.toNat (w.opS a) (w.sreg b.toNat)).getD false)] })))

/-- Exchanges between lanes (R142, R143): each lane of T writes v d with the source register of its partner lane, as it stood before any
lane wrote; it depends on its own destination and selector and on its partner's source.
`vote` (R144) over the lanes of T with predicate p a true: ballot writes their mask to a scalar pair and count their number to a
scalar; any and all write p d of every lane of T. With T empty nothing is written.
`lane` (R147): with T not empty, a read writes v a of lane n to s d; a write writes v d of lane n with the scalar or constant, unless
lane n is a helper lane or exited. -/
def Obligations.LaneExchangesAndVotes : Prop :=
  (
  ∀ (d : BitVec 6) (a : BitVec 7) (b : BitVec 6) (m t : BitVec 3) (i : BitVec 2) (g : BitVec 4),
      let partner (w : Wave) (l : Nat) : Nat := shflSource m.toNat w.width l (w.opA l a).toNat
      CrossInstr (.shfl d a b m g) g ([d.toNat, b.toNat] ++ aVec a false) (aScal a false) (fun _ => True)
        (fun w _ l => (l, d.toNat) :: (aVec a false).map (fun r => (l, r)) ++ [(partner w l, b.toNat)])
        (fun w ts v => LanesWritten w v ts (fun l => effW d (w.reg (partner w l) b.toNat))) ∧
      CrossInstr (.qxch d a i t g) g [d.toNat, a.toNat] [] (fun _ => True)
        (fun _ _ l => [(l, d.toNat), (quadPartner t.toNat i.toNat l, a.toNat)])
        (fun w ts v => LanesWritten w v ts (fun l => effW d (w.reg (quadPartner t.toNat i.toNat l) a.toNat)))) ∧
  (
  ∀ (d : BitVec 6) (a : BitVec 7) (t : BitVec 2) (g : BitVec 4),
      let yes (w : Wave) (ts : List Nat) : List Nat := ts.filter (fun l => w.pred l a.toNat)
      CrossInstr (.vote d a t g) g [] (match t.toNat with | 0 => [d.toNat, d.toNat + 1] | 1 => [d.toNat] | _ => []) (fun _ => True)
        (fun _ _ _ => []) (fun w ts v =>
          match t.toNat with
          | 0 => v = { w with s := v.s } ∧ ScalarsHave w v (if ts = [] then [] else
              [(d.toNat, BitVec.ofNat 32 (maskOf (yes w ts))), (d.toNat + 1, BitVec.ofNat 32 (maskOf (yes w ts) / 2 ^ 32))])
          | 1 => v = { w with s := v.s } ∧ ScalarsHave w v (if ts = [] then [] else
              [(d.toNat, BitVec.ofNat 32 (yes w ts).length)])
          | 2 => LanesWritten w v ts (fun _ => { preds := [(d.toNat, decide (∃ l ∈ ts, w.pred l a.toNat = true))] })
          | _ => LanesWritten w v ts (fun _ => { preds := [(d.toNat, decide (∀ l ∈ ts, w.pred l a.toNat = true))] }))) ∧
  (
  ∀ (d : BitVec 6) (a : BitVec 7) (n : BitVec 6) (g : BitVec 4),
      CrossInstr (.lane d a n 0 g) g [a.toNat] [d.toNat] (fun w => n.toNat < w.width) (fun _ _ _ => [(n.toNat, a.toNat)])
        (fun w ts v => v = { w with s := v.s } ∧
          ScalarsHave w v (if ts = [] then [] else [(d.toNat, w.reg n.toNat a.toNat)])) ∧
      CrossInstr (.lane d a n 1 g) g [d.toNat] (aScal a false) (fun w => n.toNat < w.width) (fun _ _ _ => [(n.toNat, d.toNat)])
        (fun w ts v => v = { w with lanes := v.lanes } ∧ v.lanes.length = w.lanes.length ∧
          (∀ l, l ≠ n.toNat ∨ ts = [] → v.lanes[l]? = w.lanes[l]?) ∧
          (ts ≠ [] → ∀ x y : Lane, w.lanes[n.toNat]? = some x → v.lanes[n.toNat]? = some y →
            (x.state = .helper ∨ x.state = .exited → y = x) ∧
            (x.state ≠ .helper → x.state ≠ .exited → LaneWritten x y (effW d (w.opA 0 a))))))

/-- `redx` (R145, R146): when a register of no lane of T is empty, the reduction of the lanes of T over the tree of neighbours is written
to the scalar destination, a pair for add.f64, and raises its flags; with T empty nothing is written. -/
def Obligations.CrossLaneReduction : Prop :=
  ∀ (d : BitVec 6) (a : BitVec 7) (o g : BitVec 4),
    CrossInstr (.redx d a o g) g (redxRegs a o) (if o.toNat = 11 then [d.toNat, d.toNat + 1] else [d.toNat])
      Wave.widthOk
      (fun _ ts _ => ts.flatMap (fun m => (redxRegs a o).map (fun r => (m, r))))
      (fun w ts v =>
        let leaf (l : Nat) : Option Nat :=
          if l ∈ ts then some (if o.toNat = 11 then w.reg64 l a.toNat else (w.reg l a.toNat).toNat) else none
        let tree := redxTree o.toNat w.rnd (Nat.log2 w.width) ((upTo w.width).map leaf) flNone
        v = { w with s := v.s, fflags := v.fflags } ∧
        ((∀ l ∈ ts, w.width ≤ l) → v = w) ∧
        ((∃ l ∈ ts, l < w.width) → ∃ x, tree.1 = [some x] ∧
          (∀ k, v.fflags.getLsbD k = (w.fflags.getLsbD k || tree.2.getLsbD k)) ∧
          ScalarsHave w v (if o.toNat = 11 then [(d.toNat, BitVec.ofNat 32 x), (d.toNat + 1, BitVec.ofNat 32 (x / 2 ^ 32))]
            else [(d.toNat, BitVec.ofNat 32 x)])))

/-- Block scales of lanes (R175, R193 to R196): `bamax` gives each lane of T the largest magnitude of its group's lanes of T; `bscale`
gives it the factor, and its block's rail slots of v d the code, chosen for the magnitude that the block's lowest lane of T supplies. -/
def Obligations.BlockMagnitudeAndScale : Prop :=
  ∀ (d : BitVec 6) (a : BitVec 7) (k i : BitVec 2) (f e : BitVec 1) (fm : BitVec 3) (g : BitVec 4),
    let four := fm.toNat == 4
    let n := blockLanes four k.toNat
    CrossInstr (.bamax d a k i f g) g [d.toNat, a.toNat] [] (fun w => groupLanes k ≤ w.width)
      (fun _ ts l => (l, d.toNat) :: (groupOfLane ts (groupLanes k) l).map (fun m => (m, a.toNat)))
      (fun w ts v => LanesWritten w v ts (fun l =>
        eff32 d (largestMag ((groupOfLane ts (groupLanes k) l).flatMap (fun m => w.bamaxValues m a i (f == 1)))))) ∧
    CrossInstr (.bscale d a fm k e g) g ([d.toNat] ++ aVec a false) (aScal a false) (fun w => w.widthOk ∧ n ≤ w.width)
      (fun _ ts x => (x, d.toNat) :: (aVec a false).map (fun r => (supplier ts n x, r)) ++ octetDests four k.toNat d.toNat x)
      (fun w ts v =>
        let choice (x : Nat) : Nat × Nat :=
          chooseScale (blockFmt fm.toNat) (e == 1) (decodeFmt fp32 (w.opA (supplier ts n x) a).toNat)
        v = { w with lanes := v.lanes, rails := v.rails } ∧
        LanesHave w v ts (fun x => eff32 d ((choice x).2, flNone)) ∧
        ((∀ l ∈ ts, l < w.width) → RailsHave w v (ts.flatMap (fun x => blockWrites four k.toNat d.toNat x (choice x).1))))

/-- Packing and unpacking of scaled elements (R197, R198): `mxpk` writes one byte of v d with one element, or two for FP4; `mxup` writes v d
with an element under the scale code of its block, read from the rail of v a. -/
def Obligations.PackAndUnpack : Prop :=
  ∀ (d : BitVec 6) (a : BitVec 7) (f : BitVec 3) (j r k : BitVec 2) (i o : BitVec 1) (q : BitVec 3) (g : BitVec 4),
    let four := f.toNat == 6
    let n := if four then a.toNat + 2 else a.toNat + 1
    LaneInstr (.mxpk d a f j r i o g) g ([d.toNat, a.toNat] ++ (if four then [a.toNat + 1] else []) ++ srReg r n) [] (fun w l =>
      let el (reg thr : Nat) : Nat × Flags := packElement (packFmt f.toNat).1 (packFmt f.toNat).2 (i == 1) (o == 1)
        (roundOfField r.toNat thr) (w.reg l reg).toNat
      let x := el a.toNat ((w.reg l n).toNat / 2 ^ 16 % 2 ^ 16)
      let y := el (a.toNat + 1) ((w.reg l n).toNat % 2 ^ 16)
      let byte : Nat × Flags := if four then (x.1 + 16 * y.1, x.2 ||| y.2) else x
      eff32 d (setBits (w.reg l d.toNat).toNat (8 * j.toNat) 8 byte.1, byte.2)) ∧
    CrossInstr (.mxup d a f k q i g) g [d.toNat, a.toNat] [] (fun w => blockLanes (f.toNat == 4) k.toNat ≤ w.width)
      (fun _ _ l => [(l, d.toNat), (l, a.toNat), (8 * (leadSlot (f.toNat == 4) k.toNat l).1, a.toNat)])
      (fun w ts v => LanesWritten w v ts (fun l =>
        eff32 d (unpackElement (blockFmt f.toNat) (i == 1) (w.blockScale (f.toNat == 4) k.toNat a.toNat l)
          (slotCode (blockFmt f.toNat) (w.opA l a).toNat q.toNat))))

/-- `rail` (R193, R199): get and factor read the scale code of a lane's block into v d; write gives a block's slots the low byte of opA of
its lowest lane of T; copy and clear write both slots of the octets of T. Source rails are read before rails are written. -/
def Obligations.RailOperations : Prop :=
  ∀ (d : BitVec 6) (a : BitVec 7) (o : BitVec 3) (e : BitVec 1) (k : BitVec 2) (g : BitVec 4),
    let four := e == 1
    CrossInstr (.rail d a o e k g) g ([d.toNat] ++ (if o.toNat = 4 then [] else aVec a false)) (aScal a false)
      (fun w => w.widthOk ∧ (3 ≤ o.toNat ∨ blockLanes four k.toNat ≤ w.width)) (fun _ ts x => railNeeds d a o four k.toNat ts x)
      (fun w ts v =>
        match o.toNat with
        | 0 => LanesWritten w v ts (fun l => effW d (BitVec.ofNat 32 (w.blockScale four k.toNat a.toNat l)))
        | 1 => LanesWritten w v ts (fun l => effW d (BitVec.ofNat 32 (railFactor (w.blockScale four k.toNat a.toNat l))))
        | 2 => v = { w with rails := v.rails } ∧ ((∀ l ∈ ts, l < w.width) → RailsHave w v (ts.flatMap (fun l => blockWrites four k.toNat d.toNat l
            ((w.opA (supplier ts (blockLanes four k.toNat) l) a).toNat % 256))))
        | 3 => v = { w with rails := v.rails } ∧ ((∀ l ∈ ts, l < w.width) → RailsHave w v (ts.flatMap (fun l =>
            [(d.toNat, l / 8, 0, w.railSlot a.toNat (l / 8) 0), (d.toNat, l / 8, 1, w.railSlot a.toNat (l / 8) 1)])))
        | _ => v = { w with rails := v.rails } ∧ ((∀ l ∈ ts, l < w.width) →
            RailsHave w v (ts.flatMap (fun l => [(d.toNat, l / 8, 0, 0), (d.toNat, l / 8, 1, 0)]))))

/-- Special registers (R85, R148, Table 6.5): `sread` of any register but the lease clock writes each lane of T, or the scalar
destination when T is not empty, with the register's value; lane, quad, wave, width, thread and block numbers, the core, cell and
partition, launch identifier, seed and argument words are as Table 6.5 gives them.
Reads of the lease clock (R85, R149, R410): with T not empty, `sread` of 0x11 and 0x12 and `gettime` put the read of the clock's low
word, high word or whole value in flight; vector destinations become empty in the lanes of T until the value arrives, and with scalar
destinations the wave is held until it does. -/
def Obligations.SpecialRegisterReads : Prop :=
  (
  (∀ (d : BitVec 6) (r : BitVec 8) (g : BitVec 4) (s : State) (c : Ctx) (w : Wave), Alone s c w → r.toNat ≠ 0x11 → r.toNat ≠ 0x12 →
      (LegalFor (.sread d 0 r g) [d.toNat] [] w → w.allFull (c.t w g) [d.toNat] →
        ∃ f : Wave → Wave, exec (.sread d 0 r g) s = .next (s.modWave c.r f) ∧
          LanesWritten w (f w) (c.t w g) (fun l => effW d (BitVec.ofNat 32 (s.special c w l r.toNat)))) ∧
      (LegalFor (.sread d 1 r g) [] [d.toNat] w →
        (c.t w g = [] → exec (.sread d 1 r g) s = .next s) ∧
        (c.t w g ≠ [] → ∃ f : Wave → Wave, exec (.sread d 1 r g) s = .next (s.modWave c.r f) ∧ f w = { w with s := (f w).s } ∧
          ScalarsHave w (f w) [(d.toNat, BitVec.ofNat 32 (s.special c w 0 r.toNat))]))) ∧
    (∀ (s : State) (c : Ctx) (w : Wave) (l uid j : Nat) (b : Block) (la : Launch), c.r = .blk uid j → s.block? uid = some b →
      s.launch? b.launch = some la →
      s.special c w l 0x00 = l ∧ s.special c w l 0x01 = l / 4 ∧ s.special c w l 0x02 = j ∧ s.special c w l 0x03 = w.width ∧
      s.special c w l 0x04 = j * w.width + l ∧ s.special c w l 0x0B = b.lin ∧ s.special c w l 0x0D = b.core ∧
      s.special c w l 0x0E = b.core / 4 ∧ s.special c w l 0x0F = la.part ∧ s.special c w l 0x10 = la.id ∧
      s.special c w l 0x13 + 2 ^ 32 * s.special c w l 0x14 = la.record.seed ∧
      s.special c w l 0x15 + 2 ^ 32 * s.special c w l 0x16 = la.record.arg ∧
      s.special c w l 0x17 = c.hdr.toNat ∧ s.special c w l 0x1C = w.fflags.toNat)) ∧
  (
  ∀ (d : BitVec 6) (k : BitVec 1) (g : BitVec 4) (s : State) (c : Ctx) (w : Wave), Alone s c w → c.t w g ≠ [] →
      let now := s.nowOf c.r
      let reads (i : Instr) (rs : List Nat) (value : Nat) : Prop :=
        LegalFor i (if k = 0 then rs else []) (if k = 0 then [] else rs) w → (k = 0 → w.allFull (c.t w g) rs) →
        ∃ (op : MemOp) (f : Wave → Wave),
          exec i s = .next (({ s with next := s.next + 1, memOps := s.memOps ++ [op] } : State).modWave c.r f) ∧
          op.id = s.next ∧ op.wave = c.r ∧ op.kind = .clock value (if k = 0 then none else some rs) ∧
          (op.groups.flatMap (fun y => y.lanes.map (·.lane))) = c.t w g ∧
          (k ≠ 0 → f w = { w with holds := w.holds ++ [.op s.next] }) ∧
          (k = 0 → f w = { w with lanes := (f w).lanes } ∧ (∀ l, l ∉ c.t w g → (f w).lanes[l]? = w.lanes[l]?) ∧
            ∀ l ∈ c.t w g, ∀ x y : Lane, w.lanes[l]? = some x → (f w).lanes[l]? = some y →
              y = { x with full := y.full } ∧ ∀ r, y.isFull r = (x.isFull r && !rs.contains r))
      reads (.sread d k 0x11 g) [d.toNat] (now % 2 ^ 32) ∧
      reads (.sread d k 0x12 g) [d.toNat] (now / 2 ^ 32 % 2 ^ 32) ∧
      reads (.gettime d k g) [d.toNat, d.toNat + 1] (now % 2 ^ 64))

/-- System registers of the wave (R407, R408, R409, Tables 3.13 and 3.14): `csrr` writes v d of the lanes of T with MODE, FFLAGS, AWIN or
OCOUNT; `csrw` writes MODE or FFLAGS from its operand in the lowest lane of T, and leaves AWIN and OCOUNT, which are read-only, as they
are; `setmode` writes the rounding mode or the clamped fairness interval. -/
def Obligations.SystemRegisters : Prop :=
  ∀ (s : State) (c : Ctx) (w : Wave) (d : BitVec 6) (a : BitVec 7) (n : BitVec 9) (g : BitVec 4), Alone s c w → n.toNat < 4 →
    (LegalFor (.csrr d n g) [d.toNat] [] w → w.allFull (c.t w g) [d.toNat] →
      ∃ f : Wave → Wave, exec (.csrr d n g) s = .next (s.modWave c.r f) ∧
        LanesWritten w (f w) (c.t w g) (fun _ => effW d (BitVec.ofNat 32 (
          if n = 0 then w.round + 4 * w.fair + (if w.irdan then 2 ^ 19 else 0)
          else if n = 1 then w.fflags.toNat
          else if n = 2 then 2 ^ 16 * w.awLimit + w.awBase
          else 2 ^ 12 * w.ocCol + 2 ^ 8 * w.ocMtx + 2 ^ 4 * w.ocCpy + w.ocMem)))) ∧
    (LegalFor (.csrw a n g) (aVec a false) (aScal a false) w → c.t w g ≠ [] → w.allFull [(c.t w g).headD 0] (aVec a false) →
      let v := (w.opA ((c.t w g).headD 0) a).toNat
      ∃ f : Wave → Wave, exec (.csrw a n g) s = .next (s.modWave c.r f) ∧ f w =
        (if n = 0 then { w with round := v % 4, fair := max 16 (min 65536 (v / 4 % 2 ^ 17)) }
         else if n = 1 then { w with fflags := BitVec.ofNat 5 v }
         else w)) ∧
    (∀ k : BitVec 2, LegalFor (.setmode a k g) (aVec a false) (aScal a false) w → c.t w g ≠ [] →
      w.allFull [(c.t w g).headD 0] (aVec a false) →
      let v := (w.opA ((c.t w g).headD 0) a).toNat
      ∃ f : Wave → Wave, exec (.setmode a k g) s = .next (s.modWave c.r f) ∧ f w =
        (if k = 0 then { w with round := v % 4 } else { w with fair := max 16 (min 65536 v) }))

/-- A handler lane's registers of its origin (R407, R408): with the origin trapped and its register full, `csrr` copies the origin's
register, predicates or vpc into v d of the handler lane, and `csrw` writes them in the origin; no lane of the handler wave changes
otherwise, and p0 of the origin stays true. -/
def Obligations.OriginRegisters : Prop :=
  ∀ (s : State) (c : Ctx) (w : Wave) (core q l : Nat) (h x : Lane) (o : Origin) (i : TrapInfo) (d : BitVec 6) (n : BitVec 9)
    (a : BitVec 7) (g : BitVec 4) (la : Launch), Alone s c w → c.r = .hdl core q → c.t w g = [l] → w.lanes[l]? = some h → h.origin = some o →
    s.lane? (.blk o.uid o.wave) o.lane = some x → x.trap = some i → s.launchOf c.r = some la →
    0x100 ≤ n.toNat → n.toNat ≤ 0x142 → (n.toNat < 0x140 → n.toNat - 0x100 < la.record.vregs ∧ x.isFull (n.toNat - 0x100) = true) →
    (LegalFor (.csrr d n g) [d.toNat] [] w → h.isFull d.toNat = true →
      ∃ f : Wave → Wave, exec (.csrr d n g) s = .next (s.modWave c.r f) ∧
        LanesWritten w (f w) [l] (fun _ => effW d (
          if n.toNat < 0x140 then x.reg (n.toNat - 0x100)
          else if n = 0x140 then BitVec.ofNat 32 (x.preds ||| 1)
          else if n = 0x141 then BitVec.ofNat 32 (x.preds / 2 ^ 32)
          else i.vpc))) ∧
    (LegalFor (.csrw a n g) (aVec a false) (aScal a false) w → w.allFull [l] (aVec a false) →
      ∃ (t : State) (y : Lane), exec (.csrw a n g) s = .next t ∧ OnlyWave s t (.blk o.uid o.wave) ∧
        (∀ m, m ≠ o.lane → t.lane? (.blk o.uid o.wave) m = s.lane? (.blk o.uid o.wave) m) ∧
        t.lane? (.blk o.uid o.wave) o.lane = some y ∧
        (n.toNat < 0x140 → LaneWritten x y { regs := [(n.toNat - 0x100, w.opA l a)] }) ∧
        (n = 0x140 → y = { x with preds := y.preds } ∧ ∀ p, y.pred p = if 1 ≤ p ∧ p < 32 then (w.opA l a).getLsbD p else x.pred p) ∧
        (n = 0x141 → y = { x with preds := y.preds } ∧
          ∀ p, y.pred p = if 32 ≤ p ∧ p < 64 then (w.opA l a).getLsbD (p - 32) else x.pred p) ∧
        (n = 0x142 → y = { x with vpc := w.opA l a, slot := 0, trap := some { i with vpc := w.opA l a, slot := 0 } }))

/-- Branches (R104, R111, R113 to R117): the lanes of T go to the header at the signed offset from the clause's own header (`bra`, `bru`,
`call`), or at the offset that their register holds (`brx`, `ret`), every other executing lane to the next header; `call` writes the
next header's offset to its link register in the lanes of T; `bru` does so when T is empty or all of the executing lanes. A divergent vote
of `bra` or `call` is remembered: that memory is the model's choice (DESIGN CHOICE, log entry 76).
`bru` on lanes that disagree about its guard (R114): no lane transfers, every executing lane traps with cause 0x04.
`nop` has no effect (R112). -/
def Obligations.Branches : Prop :=
  (
  ∀ (o : BitVec 22) (k : BitVec 16) (a : BitVec 7) (n : BitVec 6) (g : BitVec 4),
      let go (c : Ctx) (ts : List Nat) (target : Word) (l : Nat) (x : Lane) : Lane :=
        if l ∈ ts then x.goTo target else if l ∈ c.x then x.goTo c.next else x
      LeavesClause (.bra o g) g [] true (fun _ _ _ => True) (fun c _ ts l x => go c ts (c.hdr + BitVec.ofInt 32 o.toInt) l x) ∧
      LeavesClause (.bru o g) g [] false (fun _ c w => c.t w g = [] ∨ c.t w g = c.x)
        (fun c _ ts l x => go c ts (c.hdr + BitVec.ofInt 32 o.toInt) l x) ∧
      LeavesClause (.brx a g) g [a.toNat] false (fun _ _ _ => True) (fun c _ ts l x => go c ts (x.reg a.toNat) l x) ∧
      LeavesClause (.ret a g) g [a.toNat] false (fun _ _ _ => True) (fun c _ ts l x => go c ts (x.reg a.toNat) l x) ∧
      LeavesClause (.call n k g) g [n.toNat] true (fun _ _ _ => True) (fun c _ ts l x =>
        if l ∈ ts then (x.writeV n.toNat c.next).goTo (c.hdr + BitVec.ofInt 32 k.toInt) else if l ∈ c.x then x.goTo c.next else x)) ∧
  (
  ∀ (o : BitVec 22) (g : BitVec 4) (s : State) (c : Ctx) (w : Wave), Alone s c w → LegalFor (.bru o g) [] [] w →
      c.t w g ≠ [] → c.t w g ≠ c.x → exec (.bru o g) s = .next (s.takeTraps c.r c.x c.hdr c.slot 0x04 0 0)) ∧
  (
  ∀ (g : BitVec 4) (s : State) (c : Ctx) (w : Wave), Alone s c w → LegalFor (.nop g) [] [] w → exec (.nop g) s = .next s)

/-- `exit` and `yield` (R60, R118, R124, R376): the lanes of T of `exit` in a block's wave become exited, when no failed pod request is
recorded, and the other executing lanes go to the next header; with one recorded, the lanes of T trap instead with cause 0x10 at its
address, and the record is cleared. Every executing lane of `yield` goes to the next header, and with T not empty the wave yields. -/
def Obligations.ExitAndYield : Prop :=
  ∀ (g : BitVec 4),
    LeavesClause (.exit g) g [] false (fun _ c w => isHandler c.r = false ∧ w.podError = none) (fun c _ ts l x =>
      if l ∈ ts then { x with state := .exited } else if l ∈ c.x then x.goTo c.next else x) ∧
    (∀ (s : State) (c : Ctx) (w : Wave) (addr : Nat), Alone s c w → LegalFor (.exit g) [] [] w → w.podError = some addr → c.t w g ≠ [] →
      exec (.exit g) s = .next (((s.modWave c.r (fun v => { v with podError := none })).takeTraps c.r (c.t w g) c.hdr c.slot 0x10 0
        addr).moveLanes c.r (c.x.filter (fun l => !(c.t w g).contains l)) c.next)) ∧
    (∀ (s : State) (c : Ctx) (w : Wave), Alone s c w → LegalFor (.yield g) [] [] w →
      ∃ f : Wave → Wave, exec (.yield g) s = .next ((s.modWave c.r f).dropFromIssues c.r c.x) ∧
        LanesMapped { w with yielded := w.yielded || decide (c.t w g ≠ []) } (f w) (fun l x => if l ∈ c.x then x.goTo c.next else x))

/-- Masks and joins (R119 to R122): `kset` writes mask k with T, and `kop` combines masks, when T is not empty; the lanes of T in mask k of
`join` and `ksync` wait at the instruction, and the other executing lanes go to the next header. -/
def Obligations.MasksAndJoins : Prop :=
  ∀ (k d e : BitVec 4) (o : BitVec 2) (g : BitVec 4),
    let waits (st : LaneState) (c : Ctx) (w : Wave) (ts : List Nat) (l : Nat) (x : Lane) : Lane :=
      if l ∈ ts ∧ (w.mask k.toNat).testBit l = true then { x with state := st, vpc := c.hdr, slot := c.slot }
      else if l ∈ c.x then x.goTo c.next else x
    LeavesClause (.join k g) g [] false (fun _ _ _ => True) (waits (.waitJoin k.toNat)) ∧
    LeavesClause (.ksync k g) g [] false (fun _ _ _ => True) (waits (.waitKsync k.toNat)) ∧
    (∀ (s : State) (c : Ctx) (w : Wave), Alone s c w → LegalFor (.kset k g) [] [] w →
      (c.t w g = [] → exec (.kset k g) s = .next s) ∧
      (c.t w g ≠ [] → ∃ f : Wave → Wave, exec (.kset k g) s = .next (s.modWave c.r f) ∧ f w = { w with k := (f w).k } ∧
        (∀ n, n ≠ k.toNat → (f w).mask n = w.mask n) ∧
        (k.toNat < w.k.length → ∀ l, ((f w).mask k.toNat).testBit l = decide (l ∈ c.t w g)))) ∧
    (∀ (s : State) (c : Ctx) (w : Wave), Alone s c w → LegalFor (.kop o d e g) [] [] w →
      (c.t w g = [] → exec (.kop o d e g) s = .next s) ∧
      (c.t w g ≠ [] → ∃ f : Wave → Wave, exec (.kop o d e g) s = .next (s.modWave c.r f) ∧ f w = { w with k := (f w).k } ∧
        (∀ n, n ≠ d.toNat → (f w).mask n = w.mask n) ∧
        (d.toNat < w.k.length → ∀ l, ((f w).mask d.toNat).testBit l =
          (let x := (w.mask d.toNat).testBit l
           let y := (w.mask e.toNat).testBit l
           if o = 0 then x && y else if o = 1 then x || y else if o = 2 then x && !y else y))))

/-- Waits of the wave (R59, R99, R123, R331, R332, R376): with T not empty, `waitc` holds the wave until the counter is at most its
threshold, and `fence`, when no failed pod request is recorded, until the fence's waits for the wave's accesses so far have ended; nothing
else changes, and with T empty nothing does. With a failed pod request recorded, `fence` traps the lanes of T with cause 0x10 at its address
and clears the record. A wave that is held does not issue. -/
def Obligations.WaveHolds : Prop :=
  (∀ (g th : BitVec 4) (k sc q : BitVec 2) (s : State) (c : Ctx) (w : Wave), Alone s c w →
    (LegalFor (.waitc th k g) [] [] w →
      (c.t w g = [] → exec (.waitc th k g) s = .next s) ∧
      (c.t w g ≠ [] → ∃ f : Wave → Wave, exec (.waitc th k g) s = .next (s.modWave c.r f) ∧
        f w = { w with holds := w.holds ++ [.counter k.toNat th.toNat] })) ∧
    (LegalFor (.fence sc q g) [] [] w →
      (c.t w g = [] → exec (.fence sc q g) s = .next s) ∧
      (c.t w g ≠ [] → w.podError = none → ∃ f : Wave → Wave, exec (.fence sc q g) s = .next (s.modWave c.r f) ∧
        f w = { w with holds := w.holds ++ [.fence sc.toNat q.toNat s.next] }) ∧
      (∀ addr : Nat, c.t w g ≠ [] → w.podError = some addr → exec (.fence sc q g) s = .next
        ((s.modWave c.r (fun v => { v with podError := none })).takeTraps c.r (c.t w g) c.hdr c.slot 0x10 0 addr)))) ∧
  (∀ (s : State) (core quarter : Nat) (r : WaveRef) (w : Wave), s.wave? r = some w → w.holds ≠ [] →
    r ∉ s.candidates core quarter)

/-- Barriers (R362): `bari` configures a barrier with its count when no lane waits at it and none has arrived; an arrival by `bar` or
`bara` is counted once for a wave in a phase; short of the count, the lanes of T of `bar` wait at the barrier and those of `bara` go on;
at the count the phase changes: the arrivals are zero, each arrived wave has passed, and every lane of the block that waits at the barrier
goes on. `barw` waits for a wave that has arrived and goes on for one that has passed. The lanes of T trap with cause 0x0D at an
unconfigured barrier (`bar`, `bara`, `barw`), at `barw` of a wave with no arrival, and at `bari` while lanes wait or waves have arrived or
with a count outside 1 to the block's waves. A barrier that falls short (R363) is unconfigured again, and in a native launch with a trap
entry every lane that waits at it traps with cause 0x0D where it stands. -/
def Obligations.Barriers : Prop :=
  (∀ (s : State) (n : Nat) (k : Block) (x : Barrier) (la : Launch), s.block? k.uid = some k → k.barriers[n]? = some x →
    s.launch? k.launch = some la → la.record.irdan = false → la.record.entryOfTraps.isSome = true →
    x.n ≠ 0 → ((upTo k.waves.length).filter (fun j => ((k.waves[j]?).map (fun w => !w.retired)).getD false && x.of j != .arrived)).length <
      x.n - x.a →
    (∀ (m : Nat) (y : Barrier), m ≠ n → k.barriers[m]? = some y → y.n = 0) → (∀ q ∈ k.quires, q.n = 0) →
    ∃ k' : Block, (s.shortfalls k).block? k.uid = some k' ∧ k'.barriers = setAt k.barriers n { n := 0, a := 0, st := [] } ∧
      ∀ (j l : Nat) (w : Wave) (y : Lane), k.waves[j]? = some w → w.lanes[l]? = some y →
        (y.state ≠ .waitBarrier n → (s.shortfalls k).lane? (.blk k.uid j) l = some y) ∧
        (y.state = .waitBarrier n → ∃ o : Nat, (s.shortfalls k).lane? (.blk k.uid j) l = some { y with state := .trapped, trap := some {
          cause := 0x0D, detail := 0, addr := 0, vpc := y.vpc, slot := y.slot, time := s.nowOf (.blk k.uid j), order := o,
          phase := .awaiting } })) ∧
  ∀ (b g : BitVec 4) (a : BitVec 7) (s : State) (c : Ctx) (w : Wave) (uid j : Nat) (k : Block) (x : Barrier),
    Alone s c w → c.r = .blk uid j → s.block? uid = some k → k.barriers[b.toNat]? = some x → j < x.st.length →
    let arrived : Barrier := if x.of j = .arrived then x else { x with st := setAt x.st j .arrived, a := x.a + 1 }
    let waiting (w : Wave) (l : Nat) (y : Lane) : Lane :=
      if l ∈ c.t w g then { y with state := .waitBarrier b.toNat, vpc := c.hdr, slot := c.slot }
      else if l ∈ c.x then y.goTo c.next else y
    (LegalFor (.bari a b g) [] (aScal a false) w → c.t w g ≠ [] → k.waitsAt b.toNat = false → x.a = 0 →
      1 ≤ (w.opA 0 a).toNat → (w.opA 0 a).toNat ≤ k.waves.length →
      ∃ t : State, exec (.bari a b g) s = .next t ∧
        t.block? uid = some { k with
          barriers := setAt k.barriers b.toNat { n := (w.opA 0 a).toNat, a := 0, st := List.replicate k.waves.length .none } }) ∧
    (LegalFor (.bara b g) [] [] w → c.t w g ≠ [] → x.n ≠ 0 → arrived.a ≠ x.n →
      ∃ t : State, exec (.bara b g) s = .next t ∧ t.block? uid = some { k with barriers := setAt k.barriers b.toNat arrived }) ∧
    (LegalFor (.bara b g) [] [] w → c.t w g ≠ [] → x.n ≠ 0 → arrived.a = x.n →
      ∃ t : State, exec (.bara b g) s = .next t ∧ t.block? uid = some { k with
        barriers := setAt k.barriers b.toNat { n := x.n, a := 0, st := arrived.st.map (fun y => if y == .arrived then .passed else y) }
        waves := k.waves.map (fun v => { v with lanes := v.lanes.map (fun y =>
          if y.state == .waitBarrier b.toNat then
            { y with state := .active, starve := 0, vpc := y.vpc + BitVec.ofNat 32 (y.slot + 2), slot := 0 }
          else y) }) }) ∧
    (let trap : State := s.takeTraps c.r (c.t w g) c.hdr c.slot 0x0D 0 0
     let trapEnds : State := trap.moveLanes c.r (c.x.filter (fun l => !(c.t w g).contains l)) c.next
     c.t w g ≠ [] →
      (x.n = 0 → (LegalFor (.bar b g) [] [] w → exec (.bar b g) s = .next trapEnds) ∧
        (LegalFor (.bara b g) [] [] w → exec (.bara b g) s = .next trap)) ∧
      (x.n = 0 ∨ x.of j = .none → LegalFor (.barw b g) [] [] w → exec (.barw b g) s = .next trapEnds) ∧
      (k.waitsAt b.toNat = true ∨ 0 < x.a ∨ (w.opA 0 a).toNat = 0 ∨ k.waves.length < (w.opA 0 a).toNat →
        LegalFor (.bari a b g) [] (aScal a false) w → exec (.bari a b g) s = .next trap)) ∧
    (LegalFor (.bar b g) [] [] w → c.t w g ≠ [] → x.n ≠ 0 → arrived.a ≠ x.n →
      ∃ (t : State) (v : Wave), exec (.bar b g) s = .next t ∧ LanesMapped w v (waiting w) ∧
        t.block? uid = some { k with barriers := setAt k.barriers b.toNat arrived, waves := setAt k.waves j v }) ∧
    (LegalFor (.bar b g) [] [] w → c.t w g ≠ [] → x.n ≠ 0 → arrived.a = x.n →
      ∃ (t : State) (k' : Block), exec (.bar b g) s = .next t ∧ t.block? uid = some k' ∧
        k'.barriers = setAt k.barriers b.toNat { n := x.n, a := 0, st := arrived.st.map (fun y => if y == .arrived then .passed else y) } ∧
        (∀ v ∈ k'.waves, ∀ y ∈ v.lanes, y.state ≠ .waitBarrier b.toNat) ∧
        (∀ (v : Wave) (l : Nat) (y : Lane), k'.waves[j]? = some v → w.lanes[l]? = some y → l ∈ c.t w g →
          v.lanes[l]? = some { y with state := .active, starve := 0, vpc := c.hdr + BitVec.ofNat 32 (c.slot + 2), slot := 0 })) ∧
    (LegalFor (.barw b g) [] [] w → c.t w g ≠ [] → x.n ≠ 0 →
      (x.of j = .arrived → ∃ f : Wave → Wave, exec (.barw b g) s = .next ((s.modWave c.r f).dropFromIssues c.r c.x) ∧
        LanesMapped w (f w) (waiting w)) ∧
      (x.of j = .passed → ∃ f : Wave → Wave, exec (.barw b g) s = .next ((s.modWave c.r f).dropFromIssues c.r c.x) ∧
        LanesMapped w (f w) (fun l y => if l ∈ c.x then y.goTo c.next else y)))

/-- Empty operands of a vector instruction, shown for `fadd` (R9, R74, R87, R251, R376). Lanes of T whose named registers
are full have their effect. Without the trap-on-empty bit a lane with empty ones stops at the instruction and waits for exactly these,
taking no effect; with it, lanes that all lack a register trap with cause 0x03; a lane whose empty register is marked by a poisoned line
or a failed pod request traps with cause 0x11 or 0x10 at its address, whatever that bit. -/
def Obligations.EmptyOperands : Prop :=
  ∀ (d : BitVec 6) (a : BitVec 7) (b : BitVec 6) (m : BitVec 3) (g : BitVec 4) (s : State) (c : Ctx) (w : Wave), Alone s c w →
    let vr := [d.toNat, b.toNat] ++ aVec a false
    let T := c.t w g
    let lacks (l : Nat) : List Nat := vr.filter (fun r => ((w.lanes[l]?).map (fun x => !x.isFull r)).getD false)
    let waits : List Nat := T.filter (fun l => !(lacks l).isEmpty)
    let goes : List Nat := T.filter (fun l => (lacks l).isEmpty)
    let eff (l : Nat) : LaneEff := eff32 d (roundResult fp32
      ((readVal fp32 (mFi m) (w.opA l a).toNat).add (zeroSign w.rnd) (readVal fp32 (mFi m) (w.reg l b.toNat).toNat))
      w.rnd (mSat m) (mFo m))
    LegalFor (.fadd d a b m g) vr (aScal a false) w →
    ((∀ l ∈ T, ∀ x : Lane, w.lanes[l]? = some x → ∀ r ∈ vr, x.mark? r = none) →
      (c.te = false → ∃ f : Wave → Wave,
        exec (.fadd d a b m g) s = .next ((s.modWave c.r f).dropFromIssues c.r waits) ∧
        f w = { w with lanes := (f w).lanes, fflags := (f w).fflags } ∧ FlagsRaised w (f w) goes eff ∧
        (∀ l ∈ waits, (f w).lanes[l]? = (w.lanes[l]?).map (fun x =>
          { x with state := .waitReg ((lacks l).map (fun r => ⟨false, l, r⟩)), vpc := c.hdr, slot := c.slot })) ∧
        (∀ (l : Nat) (x y : Lane), l ∈ goes → w.lanes[l]? = some x → (f w).lanes[l]? = some y → LaneWritten x y (eff l)) ∧
        (∀ l, l ∉ T → (f w).lanes[l]? = w.lanes[l]?)) ∧
      (c.te = true → (∀ l ∈ T, lacks l ≠ []) → exec (.fadd d a b m g) s = .next (s.takeTraps c.r T c.hdr c.slot 0x03 0 0))) ∧
    (∀ (l r addr : Nat) (x : Lane), T = [l] → w.lanes[l]? = some x → r ∈ vr → x.isFull r = false →
      (∀ q ∈ vr, x.isFull q = false → x.mark? q = none ∨ x.mark? q = x.mark? r) →
      (x.mark? r = some (.poisoned addr) → exec (.fadd d a b m g) s = .next (s.takeTraps c.r [l] c.hdr c.slot 0x11 0 addr)) ∧
      (x.mark? r = some (.podFailed addr) → exec (.fadd d a b m g) s = .next (s.takeTraps c.r [l] c.hdr c.slot 0x10 0 addr)))

/-- Illegal encodings (R18, R87, R396): a word that does not decode, or any instruction that names a vector or scalar register at or above
the wave's declared count, traps every executing lane, whatever the guard, with cause 0x01 and the address of the word; so does, in a
handler wave, every instruction that handler lanes may not execute. -/
def Obligations.IllegalEncodingsTrap : Prop :=
  (∀ (s : State) (i : Issue) (m : WaveRef × List Nat) (w : Nat) (e : Reject), s.curIssue = some i → i.members = [m] → m.2 ≠ [] →
    w = i.words.getD (i.pos - 1) 0 → decodeWord i.cls w = .error e →
    runWord s = .next (s.takeTraps m.1 m.2 i.hdr (i.pos - 1) 0x01 0 (s.wordAddr (i.ctx m)))) ∧
  (∀ (i : Instr) (s : State) (c : Ctx) (w : Wave), Alone s c w → (classOf i).isSome = true →
    ((∃ r ∈ namedV i, w.nv ≤ r) ∨ ∃ r ∈ namedS i, w.ns ≤ r) →
    exec i s = .next (s.takeTraps c.r c.x c.hdr c.slot 0x01 0 (s.wordAddr c))) ∧
  (∀ (i : Instr) (s : State) (c : Ctx) (w : Wave), Alone s c w → isHandler c.r = true → refusedToHandlers i = true →
    exec i s = .next (s.takeTraps c.r c.x c.hdr c.slot 0x01 0 (s.wordAddr c))) ∧
  (∀ (s : State) (c : Ctx) (la : Launch), s.launchOf c.r = some la →
    s.wordAddr c = la.record.codeBase + 4 * ((c.hdr.toNat + c.slot + 1) % 2 ^ 32))

/-- `trap code` in a block's wave of a launch with a trap entry takes the trap in each lane of T with cause 0x0E and the code as detail
(R392, R393, R394, R402, R404). In native mode the lane is trapped at the trap point and awaits a handler; in Irdan-mode a lane that is
not in trap records the trap, becomes in trap and stays active at the trap entry. The lanes leave the clause issue; lanes outside T, all
other waves, memory and the device are as before; each trap counts in the launch. -/
def Obligations.SoftwareTrap : Prop :=
  ∀ (k : BitVec 8) (g : BitVec 4) (s : State) (c : Ctx) (w : Wave) (uid j : Nat) (la : Launch) (entry : Word), Alone s c w →
    LegalFor (.trap k g) [] [] w → c.r = .blk uid j → c.x.Nodup → s.launchOf c.r = some la → la.record.entryOfTraps = some entry →
    (la.record.irdan = true → ∀ l ∈ c.t w g, ∀ x : Lane, w.lanes[l]? = some x → x.inTrap = none) →
    let info (n : Nat) : TrapInfo :=
      { cause := 0x0E, detail := k.toNat, addr := 0, vpc := c.hdr, slot := c.slot, time := s.nowOf c.r, order := n, phase := .awaiting }
    ∃ (t : State) (v : Wave), exec (.trap k g) s = .next t ∧ t.wave? c.r = some v ∧ v = { w with lanes := v.lanes } ∧
      (∀ l, l ∉ c.t w g → v.lanes[l]? = w.lanes[l]?) ∧
      (∀ l ∈ c.t w g, ∀ x : Lane, w.lanes[l]? = some x → ∃ n : Nat, s.next ≤ n ∧ v.lanes[l]? = some (
        if la.record.irdan then { x with state := .active, inTrap := some (info n), vpc := entry, slot := 0 }
        else { x with state := .trapped, vpc := c.hdr, slot := c.slot, trap := some (info n) })) ∧
      (∀ q, q ≠ c.r → t.wave? q = s.wave? q) ∧ t.issues = (s.dropFromIssues c.r (c.t w g)).issues ∧
      (t.launchOf c.r).map (·.traps) = some (if c.t w g = [] then la.traps else min (la.traps + (c.t w g).length) (2 ^ 32 - 1)) ∧
      t.mem = s.mem ∧ t.parts = s.parts ∧ t.device = s.device ∧ t.memOps = s.memOps ∧ t.engOps = s.engOps ∧ t.outputs = s.outputs

/-- Escalation (R47, R394, R399, R406, R434, Table 20.4). A lane of a launch that has no trap entry escalates when it takes a trap: it is
trapped at the trap point under the next event serial. Its record, of serial, origin, cause and address, is written at the place
BASE + 32 * (PROD mod entries) of its partition's fault queue, PROD advances and the vector is raised; with the queue not enabled, not
valid or full it is counted lost. `tesc` writes the record of the lane it escalates, with the trap's own cause, detail and address, bit 16
set and its code in bits [31:24]; `exit` of a handler lane acts as `tesc` with code 0xFF (R398). -/
def Obligations.EscalatedTrap : Prop :=
  let bytes (serial part handle wave lane slot : Nat) (vpc : Word) (cause addr : Nat) : List Byte :=
    bytesLE 8 serial ++ bytesLE 4 (part * 2 ^ 28 + handle) ++ bytesLE 4 (wave * 2 ^ 27 + lane * 2 ^ 21 + slot * 2 ^ 17) ++
      bytesLE 4 vpc.toNat ++ bytesLE 4 cause ++ bytesLE 8 addr
  let irdanBit (la : Launch) : Nat := if la.record.irdan then 2 ^ 18 else 0
  (∀ (k : BitVec 8) (g : BitVec 4) (s : State) (c : Ctx) (w : Wave) (uid j l : Nat) (b : Block) (la : Launch) (x : Lane), Alone s c w →
    LegalFor (.trap k g) [] [] w → c.r = .blk uid j → s.block? uid = some b → s.launchOf c.r = some la →
    la.record.entryOfTraps = none → c.t w g = [l] → w.lanes[l]? = some x → x.state = .active → la.part < s.parts.length →
    s.device.serial + 1 < 2 ^ 32 → s.device.fenced = false →
    let serial := s.device.boots * 2 ^ 32 + s.device.serial + 1
    let q := (s.part la.part).vf.fq
    ∃ t : State, exec (.trap k g) s = .next t ∧
      t.lane? c.r l = some { x with state := .trapped, vpc := c.hdr, slot := c.slot, trap := some {
        cause := 0x0E, detail := k.toNat, addr := 0, vpc := c.hdr, slot := c.slot, time := s.nowOf c.r, order := s.next,
        phase := .escalated serial } } ∧
      FaultRecorded s t la.part
        (bytes serial la.part b.handle j l c.slot c.hdr (0x0E + k.toNat * 2 ^ 8 + irdanBit la + 2 ^ 19) 0) ∧
      ((q.enabled = false ∨ q.entries = none ∨ ∃ n, q.entries = some n ∧ (q.prod + 2 ^ 32 - q.cons) % 2 ^ 32 = n) →
        t.mem = s.mem ∧ t.outputs = s.outputs ∧ t.device = { s.device with serial := s.device.serial + 1 } ∧
        (t.part la.part).vf.fq = { q with lost := min (q.lost + 1) (2 ^ 32 - 1) })) ∧
  ∀ (e : Instr) (k : BitVec 8) (g : BitVec 4) (s : State) (c : Ctx) (w : Wave) (l : Nat) (x y : Lane) (o : Origin) (i : TrapInfo) (b : Block)
    (la lb : Launch), Alone s c w → (e = .tesc k g ∨ (e = .exit g ∧ k = 0xFF ∧ isHandler c.r = true ∧ w.podError = none)) →
    LegalFor e [] [] w → c.x = [l] → w.pred l g.toNat = true → w.lanes[l]? = some x →
    s.launchOf c.r = some la → s.block? o.uid = some b → s.launch? b.launch = some lb → lb.part < s.parts.length →
    s.device.serial + 1 < 2 ^ 32 → s.device.fenced = false →
    ((c.r = .blk o.uid o.wave ∧ o.lane = l ∧ x.inTrap = some i) ∨
      (isHandler c.r = true ∧ x.origin = some o ∧ s.lane? (.blk o.uid o.wave) o.lane = some y ∧ y.trap = some i)) →
    ∃ t : State, exec e s = .next t ∧
      FaultRecorded s t lb.part (bytes (s.device.boots * 2 ^ 32 + s.device.serial + 1) lb.part b.handle o.wave o.lane i.slot i.vpc
        (i.cause + i.detail * 2 ^ 8 + 2 ^ 16 + irdanBit la + (if la.record.entryOfTraps = none then 2 ^ 19 else 0) + k.toNat * 2 ^ 24) i.addr)

/-- Returning from a trap (R398, R405, R406), in a handler lane l whose origin o is trapped, and in an Irdan-mode lane in trap. `tres`
resumes at the trap point when its target is the trap point's vpc, after the trapping instruction when it is 0xFFFF_FFFF, and at the
target's first position otherwise. `tkill` makes the origin, or the Irdan-mode lane, exited; `tesc` escalates it under a serial with its
own trap, and so does `exit` of a handler lane (R398). The handler lane exits; no lane executes a later position of its clause. A `tres`
past the trapping instruction waits while that clause's header has still to be fetched (log entry 62).
That `tkill` and `tesc` of an Irdan-mode lane end its trap is the model's reading, for R406 is silent (DEDUCED, log entry 37). -/
def Obligations.TrapReturn : Prop :=
  ∀ (a : BitVec 7) (k : BitVec 8) (g : BitVec 4) (s : State) (c : Ctx) (w : Wave) (l : Nat) (x : Lane) (la : Launch),
    Alone s c w → c.x = [l] → w.pred l g.toNat = true → w.lanes[l]? = some x → x.state = .active → s.launchOf c.r = some la →
    let target := x.reg a.toNat
    let point (i : TrapInfo) : Word × Nat :=
      if target = 0xFFFFFFFF then
        match (s.headerAt (s.coreOf c.r) la i.vpc).1 with
        | none => (i.vpc, 0)
        | some h => if i.slot + 1 = h.count then (i.vpc + BitVec.ofNat 32 (h.count + 1), 0) else (i.vpc, i.slot + 1)
      else if target = i.vpc then (i.vpc, i.slot) else (target, 0)
    let waits (i : TrapInfo) : Prop := target = 0xFFFFFFFF ∧ (s.fetchWaits (s.coreOf c.r) la i.vpc).1 = true
    let held (i : TrapInfo) : State := (s.fetchWaits (s.coreOf c.r) la i.vpc).2.stall c.r
    (∀ (core q : Nat) (o : Origin) (y : Lane) (i : TrapInfo), c.r = .hdl core q → x.origin = some o →
      s.lane? (.blk o.uid o.wave) o.lane = some y → y.state = .trapped → y.trap = some i →
      (LegalFor (.tres a g) [a.toNat] [] w → x.isFull a.toNat = true → waits i → exec (.tres a g) s = .next (held i)) ∧
      (LegalFor (.tres a g) [a.toNat] [] w → x.isFull a.toNat = true → ¬ waits i → ∃ t : State, exec (.tres a g) s = .next t ∧
        t.lane? (.blk o.uid o.wave) o.lane = some { y with state := .active, starve := 0, vpc := (point i).1, slot := (point i).2, trap := none } ∧
        t.lane? c.r l = some { x with state := .exited } ∧ (target ≠ 0xFFFFFFFF → t.mem = s.mem ∧ t.device = s.device)) ∧
      (LegalFor (.tkill g) [] [] w → ∃ t : State, exec (.tkill g) s = .next t ∧
        t.lane? (.blk o.uid o.wave) o.lane = some { y with state := .exited, trap := none } ∧
        t.lane? c.r l = some { x with state := .exited } ∧ t.mem = s.mem ∧ t.device = s.device) ∧
      (LegalFor (.exit g) [] [] w → w.podError = none → ∃ (t : State) (n : Nat), exec (.exit g) s = .next t ∧
        t.lane? (.blk o.uid o.wave) o.lane =
          some { y with state := .trapped, vpc := i.vpc, slot := i.slot, trap := some { i with phase := .escalated n } } ∧
        t.lane? c.r l = some { x with state := .exited }) ∧
      (LegalFor (.tesc k g) [] [] w → ∃ (t : State) (n : Nat), exec (.tesc k g) s = .next t ∧
        t.lane? (.blk o.uid o.wave) o.lane =
          some { y with state := .trapped, vpc := i.vpc, slot := i.slot, trap := some { i with phase := .escalated n } } ∧
        t.lane? c.r l = some { x with state := .exited })) ∧
    (∀ (uid j : Nat) (i : TrapInfo), c.r = .blk uid j → x.inTrap = some i →
      (LegalFor (.tres a g) [a.toNat] [] w → x.isFull a.toNat = true → waits i → exec (.tres a g) s = .next (held i)) ∧
      (LegalFor (.tres a g) [a.toNat] [] w → x.isFull a.toNat = true → ¬ waits i → ∃ t : State, exec (.tres a g) s = .next t ∧
        t.lane? c.r l = some { x with vpc := (point i).1, slot := (point i).2, inTrap := none } ∧
        (target ≠ 0xFFFFFFFF → t.mem = s.mem ∧ t.device = s.device)) ∧
      (LegalFor (.tkill g) [] [] w → ∃ t : State, exec (.tkill g) s = .next t ∧
        t.lane? c.r l = some { x with state := .exited, inTrap := none } ∧ t.mem = s.mem ∧ t.device = s.device) ∧
      (LegalFor (.tesc k g) [] [] w → ∃ (t : State) (n : Nat), exec (.tesc k g) s = .next t ∧
        t.lane? c.r l =
          some { x with state := .trapped, vpc := i.vpc, slot := i.slot, inTrap := none, trap := some { i with phase := .escalated n } }))

/-- Checks of a lane's address (R204, R207, R209, R244, R245, R246, R250, R374), for `ld.b32` and `st.b32` with T of one lane, in their
order: a misaligned address traps with cause 0x0A; one at or above 2^57, or in a disabled space, with 0x08, kind 0; a page whose physical
address the partition does not reach with 0x09, kind 4; a store to a page that is not writable with 0x09, kind 2; the pod range with pod
enable 0 with cause 0x10. The destination of a load that traps is left empty. -/
def Obligations.AddressChecks : Prop :=
  ∀ (d b o : BitVec 6) (sc q : BitVec 2) (g : BitVec 4) (s : State) (c : Ctx) (w : Wave) (l : Nat) (store : Bool),
    let i : Instr := if store then .stB32 d b o sc q g else .ldB32 d b o sc q g
    let va := (((w.reg l b.toNat).toNat + 2 ^ 32 * (w.reg l (b.toNat + 1)).toNat + 4 * o.toInt : Int) % 2 ^ 64).toNat
    let traps (cause detail : Nat) : Prop := ∃ u : State, exec i s = .next u ∧
      DestsKept (s.takeTraps c.r [l] c.hdr c.slot cause detail va) u c [l] (if store then [] else [d.toNat])
    let p := s.part (s.partOf c.r)
    let enable := (p.vf.aspRoot.getD (s.spaceOf c.r) 0) % 2
    Alone s c w → c.t w g = [l] → w.memFree → LegalFor i [d.toNat, b.toNat, b.toNat + 1] [] w →
    w.allFull [l] [d.toNat, b.toNat, b.toNat + 1] →
    (va % 4 ≠ 0 → traps 0x0A 0) ∧
    (va % 4 = 0 → 2 ^ 57 ≤ va → traps 0x08 0) ∧
    (va % 4 = 0 → va < 2 ^ 57 →
      (enable = 0 → traps 0x08 0) ∧
      (∀ e : TlbEntry, enable = 1 → s.cachedXlat (s.coreOf c.r) (s.partOf c.r) (s.spaceOf c.r) va = some e →
        (p.reaches (e.pa va) = false → p.gone = 0 → traps 0x09 4) ∧
        (p.reaches (e.pa va) = true → store = true → e.attr.writable = false → traps 0x09 2) ∧
        (p.reaches (e.pa va) = true → (store = true → e.attr.writable = true) → isPod (e.pa va) = true → p.podEnable = false →
          traps 0x10 0)))

/-- Global loads issue (R59, R109, R244, R247, R248, R250, R252, R253, R329). A wave that is held back stays at the instruction. Otherwise the lanes of T
whose addresses pass their checks are served: one operation is in flight with them, grouped by line, each with its address and
destinations, and their destinations are empty until it returns; an `.acq` load is listed as an acquire. The other lanes have trapped,
and their destinations are empty too. When every lane is served, no byte of memory has changed. -/
def Obligations.GlobalLoads : Prop :=
  ∀ (d b o : BitVec 6) (sc q : BitVec 2) (g : BitVec 4) (s : State) (c : Ctx) (w : Wave), Alone s c w → c.t w g ≠ [] →
    let load (i : Instr) (size n : Nat) (signed : Bool) : Prop :=
      let rs := rangeFrom d.toNat n
      let v := s.admitLanes c size .read (some 0)
        (fun l => (((w.reg l b.toNat).toNat + 2 ^ 32 * (w.reg l (b.toNat + 1)).toNat + size * o.toInt : Int) % 2 ^ 64).toNat) (c.t w g)
      LegalFor i (rs ++ [b.toNat, b.toNat + 1]) [] w →
      (w.acquires ≠ [] ∨ (∃ y ∈ w.groups, y.delivers = true) ∨ 15 ≤ w.ocMem → exec i s = .next (s.stall c.r)) ∧
      (w.memFree → w.allFull (c.t w g) (rs ++ [b.toNat, b.toNat + 1]) →
        (v.1.length = (c.t w g).length → v.2.mem = s.mem) ∧
        ∃ u : State, DestsKept v.2 u c ((c.t w g).filter (fun l => !(v.1.map (·.lane)).contains l)) rs ∧
          (v.1 = [] → exec i s = .next u) ∧
          (v.1 ≠ [] → ∃ op : MemOp,
            PutsInFlight i s u c op (v.1.map (·.lane)) rs (decide (q = 1) && checksScope op.groups) ∧
            OpAt u c op (.load signed) sc.toNat q.toNat true ∧ op.acquire = decide (q = 1) ∧ op.release = false ∧
            op.groups = groupServed v.1 (fun x => ⟨x.lane, x.va, x.pa, size, 0, 0, rs⟩)))
    load (.ldB8 d b o sc q g) 1 1 false ∧ load (.ldS8 d b o sc q g) 1 1 true ∧
    load (.ldB16 d b o sc q g) 2 1 false ∧ load (.ldS16 d b o sc q g) 2 1 true ∧
    load (.ldB32 d b o sc q g) 4 1 false ∧ load (.ldB64 d b o sc q g) 8 2 false ∧ load (.ldB128 d b o sc q g) 16 4 false

/-- Global stores and atomics issue (R59, R244, R247, R248, R250, R254, R263, R265, R329, R330, R374): the served lanes' data, or operands
and swap values, are in flight in one operation, grouped by line, but each atomic on the pod range in a group of its own; memory itself
does not change at issue, and a store whose lines the issuing core's L1 does not hold changes nothing but its wave. A `.rel` store is a
release; an atomic with order is acquire and release, and a returning one leaves its destinations empty until the old values return, and
in the lanes that have trapped.
That a release store leaves the L1 alone at issue is the model's reading (log entry 22). -/
def Obligations.GlobalStoresAndAtomics : Prop :=
  ∀ (d b o : BitVec 6) (sc q : BitVec 2) (g : BitVec 4) (s : State) (c : Ctx) (w : Wave), Alone s c w → c.t w g ≠ [] → w.memFree →
    let served (size : Nat) (k : Nat) : List Served × State := s.admitLanes c size .write (some k)
      (fun l => (((w.reg l b.toNat).toNat + 2 ^ 32 * (w.reg l (b.toNat + 1)).toNat + size * o.toInt : Int) % 2 ^ 64).toNat) (c.t w g)
    let store (i : Instr) (size n : Nat) : Prop :=
      let v := served size 1
      let data (l : Nat) : Nat := w.regs l d.toNat n % 2 ^ (8 * size)
      let gs := groupServed v.1 (fun x => ⟨x.lane, x.va, x.pa, size, data x.lane, 0, []⟩)
      LegalFor i (rangeFrom d.toNat n ++ [b.toNat, b.toNat + 1]) [] w →
      w.allFull (c.t w g) (rangeFrom d.toNat n ++ [b.toNat, b.toNat + 1]) →
      (v.1 = [] → exec i s = .next v.2) ∧
      (v.1 ≠ [] → ∃ (op : MemOp) (u : State), PutsInFlight i s u c op [] [] (decide (q = 1) && checksScope op.groups) ∧
        OpAt u c op .store sc.toNat q.toNat true ∧ op.acquire = false ∧ op.release = decide (q = 1) ∧
        op.groups.map (fun y => { y with l1 := false }) = gs ∧ u.mem = v.2.mem ∧ u.memOps = v.2.memOps ∧
        ((∀ y ∈ gs, v.2.l1Copy (v.2.coreOf c.r) (v.2.partOf c.r) y.line = none) → u = v.2 ∧ op.groups = gs))
    let atomic (i : Instr) (size nd sub : Nat) : Prop :=
      let n := size / 4
      let v := served size 2
      let back := if q = 1 ∨ q = 2 then rangeFrom d.toNat n else []
      LegalFor i (rangeFrom d.toNat nd ++ [b.toNat, b.toNat + 1]) [] w →
      w.allFull (c.t w g) (rangeFrom d.toNat nd ++ [b.toNat, b.toNat + 1]) →
      let lane (x : Served) : OpLane := ⟨x.lane, x.va, x.pa, size, w.regs x.lane d.toNat n, w.regs x.lane (d.toNat + n) n, back⟩
      ∃ u : State, DestsKept v.2 u c ((c.t w g).filter (fun l => !(v.1.map (·.lane)).contains l)) back ∧
        (v.1 = [] → exec i s = .next u) ∧
        (v.1 ≠ [] → ∃ op : MemOp, PutsInFlight i s u c op (v.1.map (·.lane)) back (checksScope op.groups) ∧
          OpAt u c op (.atomic sub (decide (size = 8)) (decide (q = 1 ∨ q = 2))) sc.toNat q.toNat true ∧
          op.acquire = decide (q = 2 ∨ q = 3) ∧ op.release = decide (q = 2 ∨ q = 3) ∧
          op.groups = groupServed (v.1.filter (fun x => !isPod x.pa)) lane ++
            (v.1.filter (fun x => isPod x.pa)).map (fun x => OpGroup.open_ (x.pa / 128) x.entry.attr [lane x]))
    store (.stB8 d b o sc q g) 1 1 ∧ store (.stB16 d b o sc q g) 2 1 ∧ store (.stB32 d b o sc q g) 4 1 ∧
    store (.stB64 d b o sc q g) 8 2 ∧ store (.stB128 d b o sc q g) 16 4 ∧
    atomic (.atomAdd d b o sc q g) 4 1 0 ∧ atomic (.atomAddB64 d b o sc q g) 8 2 0 ∧ atomic (.atomAddf d b o sc q g) 4 1 1 ∧
    atomic (.atomMinS32 d b o sc q g) 4 1 2 ∧ atomic (.atomMaxS32 d b o sc q g) 4 1 3 ∧ atomic (.atomMinN32 d b o sc q g) 4 1 4 ∧
    atomic (.atomMaxN32 d b o sc q g) 4 1 5 ∧ atomic (.atomAnd d b o sc q g) 4 1 6 ∧ atomic (.atomOr d b o sc q g) 4 1 7 ∧
    atomic (.atomXor d b o sc q g) 4 1 8 ∧ atomic (.atomExch d b o sc q g) 4 1 9 ∧ atomic (.atomCas d b o sc q g) 4 2 10 ∧
    atomic (.atomCasB64 d b o sc q g) 8 4 10

/-- MX accesses issue (R246, R250, R256, R257, R258, R193). Of the lanes that pass their address checks, those of a page that is not bound
and tolerant, or whose block is wider than the wave, trap with cause 0x0F; of the groups that the others form, one per block, those whose
lanes do not all stand at their places in one block trap with cause 0x0A at their lanes' addresses. The groups that are left, with the
registers of their rail slots full, are in flight in one operation, by line, each with its block's place in the line; with none left
nothing else happens. `ld.mx` leaves its destination empty in these lanes, in the lanes that head the octets of their rail slots, and in
the lanes that trapped; `st.mx` carries each lane's word and each block's scale code. -/
def Obligations.MxAccesses : Prop :=
  ∀ (d b o : BitVec 6) (sc q : BitVec 2) (g : BitVec 4) (s : State) (c : Ctx) (w : Wave), Alone s c w → c.t w g ≠ [] → w.memFree →
    let vr := [d.toNat, b.toNat, b.toNat + 1]
    let T := c.t w g
    let addr (l : Nat) : Nat :=
      (((w.reg l b.toNat).toNat + 2 ^ 32 * (w.reg l (b.toNat + 1)).toNat + 4 * o.toInt : Int) % 2 ^ 64).toNat
    let admitted (kind : AccessKind) : List Served × State := s.admitLanes c 4 kind none addr T
    let fits (x : Served) : Bool := x.entry.attr.bound && x.entry.attr.tolerant &&
      decide (blockLanes (x.entry.attr.bfmt == 3) x.entry.attr.bk ≤ w.width)
    let groups (sv : List Served) : List (List Served) := mxGroups 64 (sv.filter fits)
    let placed (sv : List Served) : List (List Served) := (groups sv).filter (fun y => (mxAnchor y).isSome)
    let trapped (sv : List Served) (u : State) : State :=
      (((groups sv).filter (fun y => (mxAnchor y).isNone)).flatten).foldl
        (fun u x => u.takeTraps c.r [x.lane] c.hdr c.slot 0x0A 0 x.va)
        ((sv.filter (fun x => !fits x)).foldl (fun u x => u.takeTraps c.r [x.lane] c.hdr c.slot 0x0F 0 0) u)
    let four (m : Served) : Bool := m.entry.attr.bfmt == 3
    let side (y : List Served) (m : Served) : Nat := ((mxAnchor y).getD 0) % 128 / boundBlockBytes m.entry.attr.bfmt m.entry.attr.bk
    w.allFull T vr →
    (LegalFor (.ldMx d b o sc q g) vr [] w →
      let v := admitted .read
      let gs := placed v.1
      (∀ y ∈ gs, ∀ m ∈ y.head?, ∀ l ∈ mxOctetLanes m, ∀ x : Lane, w.lanes[l]? = some x → x.isFull d.toNat = true) →
      ∃ u : State, DestsKept (trapped v.1 v.2) u c (T.filter (fun l => !gs.any (fun y => y.any (fun x => x.lane == l)))) [d.toNat] ∧
        (gs = [] → exec (.ldMx d b o sc q g) s = .next u) ∧
        (gs ≠ [] → ∃ (op : MemOp) (ls : List Nat),
          PutsInFlight (.ldMx d b o sc q g) s u c op ls [d.toNat] (decide (q = 1) && checksScope op.groups) ∧
          OpAt u c op .loadMx sc.toNat q.toNat true ∧ op.acquire = decide (q = 1) ∧ op.release = false ∧
          (∀ l, l ∈ ls ↔ ∃ y ∈ gs, (∃ x ∈ y, x.lane = l) ∨ ∃ m ∈ y.head?, l ∈ mxOctetLanes m) ∧
          ∀ y ∈ gs, ∀ m ∈ y.head?, ∃ z ∈ op.groups, z.line = m.pa / 128 ∧
            (∀ x ∈ y, (⟨x.lane, x.va, x.pa, 4, 0, 0, [d.toNat]⟩ : OpLane) ∈ z.lanes) ∧ ∃ k ∈ z.blocks, k.side = side y m)) ∧
    (LegalFor (.stMx d b o sc q g) vr [] w →
      let v := admitted .write
      let gs := placed v.1
      (∀ y ∈ gs, ∀ m ∈ y.head?, ∀ x : Lane, w.lanes[8 * (leadSlot (four m) m.entry.attr.bk m.lane).1]? = some x →
        x.isFull d.toNat = true) →
      (gs = [] → exec (.stMx d b o sc q g) s = .next (trapped v.1 v.2)) ∧
      (gs ≠ [] → ∃ (op : MemOp) (u : State), PutsInFlight (.stMx d b o sc q g) s u c op [] [] (decide (q = 1) && checksScope op.groups) ∧
        OpAt u c op .storeMx sc.toNat q.toNat true ∧ op.acquire = false ∧ op.release = decide (q = 1) ∧
        u.mem = (trapped v.1 v.2).mem ∧ u.memOps = (trapped v.1 v.2).memOps ∧
        ∀ y ∈ gs, ∀ m ∈ y.head?, ∃ z ∈ op.groups, z.line = m.pa / 128 ∧
          (∀ x ∈ y, (⟨x.lane, x.va, x.pa, 4, (w.reg x.lane d.toNat).toNat, 0, []⟩ : OpLane) ∈ z.lanes) ∧
          ∃ k ∈ z.blocks, k.side = side y m ∧ k.code = w.blockScale (four m) m.entry.attr.bk d.toNat m.lane))

/-- Scalar reads and background reads issue. `sld` (R270) and `tdset` (R272) read once for the wave, at the scalar base, and hold
the wave until they return; `pref` (R269) puts an uncounted read of its lanes' lines in flight and drops lanes that fail a check. -/
def Obligations.ScalarReadsAndPrefetch : Prop :=
  ∀ (d b o : BitVec 6) (sc q : BitVec 2) (t : BitVec 4) (g : BitVec 4) (s : State) (c : Ctx) (w : Wave), Alone s c w → c.t w g ≠ [] →
    w.memFree →
    let near (va : Nat) (e : TlbEntry) (u : State) : Prop :=
      s.checkAccess (s.coreOf c.r) (s.partOf c.r) (s.spaceOf c.r) va .read = (.ok e, u) ∧ isPod (e.pa va) = false
    let sload (i : Instr) (size n : Nat) : Prop :=
      let va := (((w.sreg b.toNat).toNat + 2 ^ 32 * (w.sreg (b.toNat + 1)).toNat + size * o.toInt : Int) % 2 ^ 64).toNat
      LegalFor i [] (rangeFrom d.toNat n ++ [b.toNat, b.toNat + 1]) w → va % size = 0 → ∀ (e : TlbEntry) (u : State), near va e u →
      ∃ op : MemOp, PutsInFlight i s u c op [] [] true ∧ OpAt u c op (.sload d.toNat) sc.toNat q.toNat true ∧
        op.acquire = decide (q = 1) ∧ op.release = false ∧
        op.groups = [OpGroup.open_ (e.pa va / 128) e.attr
          ((c.t w g).map (fun l => ⟨l, va, e.pa va, size, 0, 0, rangeFrom d.toNat n⟩))] ∧ u.mem = s.mem
    sload (.sldB32 d b o sc q g) 4 1 ∧ sload (.sldB64 d b o sc q g) 8 2 ∧ sload (.sldB128 d b o sc q g) 16 4 ∧
    (let va := (w.sreg b.toNat).toNat + 2 ^ 32 * (w.sreg (b.toNat + 1)).toNat
     LegalFor (.tdset t b g) [] [b.toNat, b.toNat + 1] w → isHandler c.r = false → va % 64 = 0 →
      ∀ (e : TlbEntry) (u : State), near va e u →
      ∃ op : MemOp, PutsInFlight (.tdset t b g) s u c op [] [] true ∧ op.id = u.next ∧ op.kind = .tdset t.toNat ∧ op.wave = c.r ∧
        op.counted = false ∧ op.acquire = false ∧ op.release = false ∧ u.mem = s.mem ∧
        op.groups = [OpGroup.open_ (e.pa va / 128) e.attr ((c.t w g).map (fun l => ⟨l, va, e.pa va, 64, 0, 0, []⟩))]) ∧
    (LegalFor (.pref b o sc q g) [b.toNat, b.toNat + 1] [] w → w.allFull (c.t w g) [b.toNat, b.toNat + 1] →
      let va (l : Nat) : Nat :=
        (((w.reg l b.toNat).toNat + 2 ^ 32 * (w.reg l (b.toNat + 1)).toNat + 128 * o.toInt : Int) % 2 ^ 64).toNat
      let v := s.prefLanes c va (c.t w g)
      (v.1 = [] → exec (.pref b o sc q g) s = .next v.2) ∧
      (v.1 ≠ [] → ∃ op : MemOp, exec (.pref b o sc q g) s = .next { v.2 with next := v.2.next + 1, memOps := v.2.memOps ++ [op] } ∧
        OpAt v.2 c op (.prefetch (if sc.toNat < 2 then 1 else 2)) 0 q.toNat false ∧ op.acquire = false ∧ op.release = false ∧
        op.groups = groupServed v.1 (fun x => ⟨x.lane, x.va, x.pa, 0, 0, 0, []⟩)))

/-- `launch` (R125, R126): with an aligned image whose page is readable, in the pod range where the pod map grants the read, a stream whose order is valid, with no error, whose control pair
and ring are writable, and room in the ring at index tail plus the slots reserved, a slot is reserved and the append is in flight,
counted, as a release of the wave; with the ring full, the lanes of T wait for the head word to pass the oldest record. A misaligned
image traps the lanes of T with cause 0x0A.
The append in flight in place of the image's read at issue, and an image in the pod range, are the model's reading (log entry 36). -/
def Obligations.LaunchAppends : Prop :=
  ∀ (a : BitVec 7) (n : BitVec 6) (g : BitVec 4) (s : State) (c : Ctx) (w : Wave), Alone s c w → c.t w g ≠ [] → w.memFree →
    LegalFor (.launch a n g) [] (aScal a true) w →
    let va := w.opA64 0 a
    let t := s.stream (s.partOf c.r) n.toNat
    (va % 128 ≠ 0 → exec (.launch a n g) s = .next (s.takeTraps c.r (c.t w g) c.hdr c.slot 0x0A 0 va)) ∧
    (∀ (e p r : TlbEntry) (u0 u1 u2 u3 u4 : State), va % 128 = 0 → va < 2 ^ 57 →
      s.checkAccess (s.coreOf c.r) (s.partOf c.r) (s.spaceOf c.r) va .read = (.ok e, u0) →
      ((isPod (e.pa va) = false ∧ u1 = u0) ∨ (isPod (e.pa va) = true ∧ u0.podCheck (u0.partOf c.r) (e.pa va) 0 = (true, u1))) →
      u1.checkAccess (u1.coreOf c.r) (u1.partOf c.r) t.space t.pair .write = (.ok p, u2) → isPod (p.pa t.pair) = false →
      u2.launchRing c (c.t w g) t.space t.ringPages = (true, u3) → t.orderOk = true → t.error = false →
      let tail := u3.homeNat (u3.partOf c.r) (p.pa t.pair) 8
      let head := u3.homeNat (u3.partOf c.r) (p.pa t.pair + 8) 8
      let i := (tail + t.reserved) % 2 ^ 64
      let slot := t.ring + 128 * (i % 2 ^ t.order)
      u3.checkAccess (u3.coreOf c.r) (u3.partOf c.r) t.space slot .write = (.ok r, u4) → isPod (r.pa slot) = false →
      ((i + 2 ^ 64 - head) % 2 ^ 64 < 2 ^ t.order → ∃ op : MemOp,
        PutsInFlight (.launch a n g) s ((u4.useLine (u4.partOf c.r) (p.pa t.pair / 128)).modStream (u4.partOf c.r) n.toNat
          (fun t => { t with reserved := t.reserved + 1 })) c op [] [] false ∧
        op.kind = .append (e.pa va) (r.pa slot) (p.pa t.pair) i ∧ op.groupNo = n.toNat ∧ op.release = true ∧ op.acquire = false ∧
        op.counted = true ∧ op.wave = c.r ∧ u4.mem = s.mem) ∧
      (2 ^ t.order ≤ (i + 2 ^ 64 - head) % 2 ^ 64 → ∃ (op : MemOp) (t' : State) (v : Wave), exec (.launch a n g) s = .next t' ∧
        t'.wave? c.r = some v ∧ t'.mem = s.mem ∧ t'.memOps = u4.memOps ++ [op] ∧
        op.kind = .ringWait ((i + 1 + 2 ^ 64 - 2 ^ t.order) % 2 ^ 64) ∧ op.counted = false ∧
        (∀ l ∈ c.t w g, ∀ x y : Lane, w.lanes[l]? = some x → v.lanes[l]? = some y →
          y = { x with state := .waitMantis op.groupNo, vpc := c.hdr, slot := c.slot }) ∧
        (∀ l, l ∉ c.t w g → v.lanes[l]? = w.lanes[l]?)))

/-- Scratchpad loads (R213, R215, R244, R259), in a block's wave: with aligned addresses inside the allocation, and granules that are full
where the qualifier tests them, each lane of T reads the words at its offset into its registers, and `.wfc` empties the granules read;
nothing else of the block or the machine changes. A lane whose granule is empty waits for it, its destinations empty. A misaligned lane
traps with cause 0x0A, one beyond the allocation with 0x0B, at its offset, its destinations left empty (R250). -/
def Obligations.ScratchpadLoads : Prop :=
  ∀ (d b o : BitVec 6) (q : BitVec 2) (g : BitVec 4) (s : State) (c : Ctx) (w : Wave) (uid j : Nat) (k : Block) (la : Launch),
    Alone s c w → c.r = .blk uid j → s.block? uid = some k → s.launchOf c.r = some la → w.acquires = [] →
    (∀ y ∈ w.groups, y.delivers = false) →
    let load (i : Instr) (n : Nat) : Prop :=
      let rs := rangeFrom d.toNat n
      let off (l : Nat) : Nat := (((w.reg l b.toNat).toNat + (4 * n : Nat) * o.toInt : Int) % 2 ^ 32).toNat
      let inside (l : Nat) : Prop := off l % (4 * n) = 0 ∧ off l + 4 * n ≤ la.record.scratch
      LegalFor i (b.toNat :: rs) [] w → w.allFull (c.t w g) (b.toNat :: rs) →
      ((∀ l ∈ c.t w g, inside l ∧ (q ≠ 0 → k.granuleFull (off l / 16) = true) ∧ off l / 16 ∉ k.poisonG) →
        ∃ (f : Block → Block) (v : Wave), exec i s = .next (s.modBlock uid f) ∧
          f k = { k with waves := setAt k.waves j v, feEmpty := (f k).feEmpty } ∧ v = { w with lanes := v.lanes } ∧
          (∀ l, l ∉ c.t w g → v.lanes[l]? = w.lanes[l]?) ∧
          (∀ (l : Nat) (x y : Lane), l ∈ c.t w g → w.lanes[l]? = some x → v.lanes[l]? = some y →
            LaneWritten { x with ldsOwn := none } y
              { regs := (rangeFrom 0 n).map (fun m => (d.toNat + m, BitVec.ofNat 32 (k.scratchNat (off l + 4 * m) 4))) }) ∧
          (∀ x, x ∈ (f k).feEmpty ↔ x ∈ k.feEmpty ∨ (q = 2 ∧ ∃ l ∈ c.t w g, off l / 16 = x))) ∧
      (∀ (l : Nat) (x : Lane), c.t w g = [l] → w.lanes[l]? = some x →
        (inside l → q ≠ 0 → k.granuleFull (off l / 16) = false →
          ∃ (f : Wave → Wave) (y : Lane), exec i s = .next ((s.modWave c.r f).dropFromIssues c.r [l]) ∧
            f w = { w with lanes := setAt w.lanes l y } ∧
            y = { x with full := y.full, ldsOwn := some (c.hdr, c.slot, rs), state := .waitGranule (.full (off l / 16)), vpc := c.hdr,
                         slot := c.slot } ∧
            ∀ r, y.isFull r = (x.isFull r && !decide (r ∈ rs))) ∧
        (off l % (4 * n) ≠ 0 → ∃ u : State, exec i s = .next u ∧
          DestsKept (s.takeTraps c.r [l] c.hdr c.slot 0x0A 0 (off l)) u c [l] rs) ∧
        (off l % (4 * n) = 0 → la.record.scratch < off l + 4 * n → ∃ u : State, exec i s = .next u ∧
          DestsKept (s.takeTraps c.r [l] c.hdr c.slot 0x0B 0 (off l)) u c [l] rs))
    load (.ldsB32 d b o q g) 1 ∧ load (.ldsB64 d b o q g) 2 ∧ load (.ldsB128 d b o q g) 4

/-- Scratchpad stores and `fe` (R213, R214, R215, R260, R262, R281): each byte that lanes of T store holds the value of the last of
them in lane order, every other byte of the scratchpad is as before; `.sf` and `.wesf` make the granules full; a granule written whole loses its poison
mark. A `.wesf` lane whose granule is full waits; where several `.wesf` lanes name one empty granule all of them write, as R214 merges stores
(DEDUCED, log entry 33). `fe` makes the granules of the lanes' ranges empty or full and changes nothing else. -/
def Obligations.ScratchpadStores : Prop :=
  ∀ (d b o : BitVec 6) (q : BitVec 2) (g : BitVec 4) (s : State) (c : Ctx) (w : Wave) (uid j : Nat) (k : Block) (la : Launch),
    Alone s c w → c.r = .blk uid j → s.block? uid = some k → s.launchOf c.r = some la → w.acquires = [] →
    (∀ y ∈ w.groups, y.delivers = false) →
    let store (i : Instr) (n : Nat) : Prop :=
      let off (l : Nat) : Nat := (((w.reg l b.toNat).toNat + (4 * n : Nat) * o.toInt : Int) % 2 ^ 32).toNat
      let inside (l : Nat) : Prop := off l % (4 * n) = 0 ∧ off l + 4 * n ≤ la.record.scratch
      let covers (a l : Nat) : Bool := decide (off l ≤ a ∧ a < off l + 4 * n)
      LegalFor i (b.toNat :: rangeFrom d.toNat n) [] w → w.allFull (c.t w g) (b.toNat :: rangeFrom d.toNat n) →
      ((∀ l ∈ c.t w g, inside l ∧ (q = 2 → k.granuleFull (off l / 16) = false)) →
        ∃ f : Block → Block, exec i s = .next (s.modBlock uid f) ∧
          f k = { k with scratch := (f k).scratch, feEmpty := (f k).feEmpty, poisonG := (f k).poisonG } ∧
          (∀ a, cellGet 0 (f k).scratch a =
            match ((c.t w g).filter (covers a)).getLast? with
            | some l => BitVec.ofNat 8 (w.regs l d.toNat n / 256 ^ (a - off l))
            | none => cellGet 0 k.scratch a) ∧
          (∀ x, x ∈ (f k).feEmpty ↔ x ∈ k.feEmpty ∧ ¬ (q ≠ 0 ∧ ∃ l ∈ c.t w g, off l / 16 = x)) ∧
          (∀ x, x ∈ (f k).poisonG ↔ x ∈ k.poisonG ∧ ¬ ∀ a, 16 * x ≤ a → a < 16 * x + 16 → ∃ l ∈ c.t w g, covers a l = true)) ∧
      (∀ (l : Nat) (x : Lane), c.t w g = [l] → w.lanes[l]? = some x → inside l → q = 2 → k.granuleFull (off l / 16) = true →
        ∃ f : Wave → Wave, exec i s = .next ((s.modWave c.r f).dropFromIssues c.r [l]) ∧
          f w = { w with lanes := setAt w.lanes l { x with state := .waitGranule (.empty (off l / 16)), vpc := c.hdr, slot := c.slot } })
    cellsWf 0 k.scratch = true → store (.stsB32 d b o q g) 1 ∧ store (.stsB64 d b o q g) 2 ∧ store (.stsB128 d b o q g) 4 ∧
    (LegalFor (.fe d b q g) [b.toNat, d.toNat] [] w → w.allFull (c.t w g) [b.toNat, d.toNat] →
      let lo (l : Nat) : Nat := (w.reg l b.toNat).toNat
      let len (l : Nat) : Nat := (w.reg l d.toNat).toNat
      (∀ l ∈ c.t w g, lo l % 16 = 0 ∧ len l % 16 = 0 ∧ lo l + len l ≤ la.record.scratch) →
      ∃ f : Block → Block, exec (.fe d b q g) s = .next (s.modBlock uid f) ∧ f k = { k with feEmpty := (f k).feEmpty } ∧
        ∀ x, let named : Prop := ∃ l ∈ c.t w g, lo l / 16 ≤ x ∧ x < (lo l + len l) / 16
          (x ∈ (f k).feEmpty ↔ if q = 1 then x ∈ k.feEmpty ∧ ¬ named else x ∈ k.feEmpty ∨ named))

/-- Scratchpad atomics (R248, R249, R250, R261, R266, R267, Table 11.4). `satom` acts in the block's scratchpad for the lanes of T in rising
order: each word takes the new value of the sub-operation, or is left when a compare fails, and nothing else of the scratchpad changes;
with `.ar` once the wave's earlier writes are made. The returning forms leave v d empty, and the old words are in flight to it, counted
nowhere. `ratom` puts one message per lane in flight, to the block of the named rank of the cluster, counted in `oc.mem`; without `.ar`, a
lane that names its own block acts at once as `satom` does. A lane that names a rank without a block traps with cause 0x0B, its
destination left empty. -/
def Obligations.ScratchpadAtomics : Prop :=
  ∀ (d b : BitVec 6) (o : BitVec 4) (q : BitVec 2) (g : BitVec 4) (s : State) (c : Ctx) (w : Wave) (uid j : Nat) (k : Block)
    (la : Launch), Alone s c w → c.r = .blk uid j → s.block? uid = some k → s.launchOf c.r = some la → c.t w g ≠ [] → w.memFree →
    cellsWf 0 k.scratch = true →
    let T := c.t w g
    let ops := if o.toNat = 10 then [d.toNat, d.toNat + 1] else [d.toNat]
    let off (l : Nat) : Nat := (w.reg l b.toNat).toNat
    let value (l : Nat) : Nat := (w.reg l d.toNat).toNat
    let swap (l : Nat) : Nat := (w.reg l (d.toNat + 1)).toNat
    let back := if q = 1 ∨ q = 2 then [d.toNat] else []
    let new (old x y : Word) : Option Word :=
      match o.toNat with
      | 0 => some (old + x)
      | 1 => some (BitVec.ofNat 32 (roundResult fp32 ((decodeFmt fp32 old.toNat).add false (decodeFmt fp32 x.toNat)) .rne false false).1)
      | 2 => some (if old.toInt ≤ x.toInt then old else x)
      | 3 => some (if old.toInt ≤ x.toInt then x else old)
      | 4 => some (if old.toNat ≤ x.toNat then old else x)
      | 5 => some (if old.toNat ≤ x.toNat then x else old)
      | 6 => some (old &&& x)
      | 7 => some (old ||| x)
      | 8 => some (old ^^^ x)
      | 9 => some x
      | _ => if old = x then some y else none
    let acts (k : Block) (ls : List Nat) : Block × List (Nat × Nat) := k.scratchAtoms o.toNat (fun l => (off l, value l, swap l)) ls
    let done (l pa old : Nat) : OpGroup :=
      { OpGroup.open_ l .plain [⟨l, off l, pa, 4, value l, swap l, back⟩] with performed := true, vals := [(l, old)] }
    (∀ (l : Nat) (ls : List Nat),
      let old := k.scratchNat (off l) 4
      let a := acts k [l]
      a.2 = [(l, old)] ∧
      BitVec.ofNat 32 (a.1.scratchNat (off l) 4) =
        (new (BitVec.ofNat 32 old) (BitVec.ofNat 32 (value l)) (BitVec.ofNat 32 (swap l))).getD (BitVec.ofNat 32 old) ∧
      (∀ x, x < off l ∨ off l + 4 ≤ x → cellGet 0 a.1.scratch x = cellGet 0 k.scratch x) ∧
      acts k (l :: ls) = ((acts a.1 ls).1, (l, old) :: (acts a.1 ls).2)) ∧
    (LegalFor (.satom d b o q g) (b.toNat :: ops) [] w → w.allFull T (b.toNat :: ops) →
      (∀ l ∈ T, off l % 4 = 0 ∧ off l + 4 ≤ la.record.scratch) → (q = 2 ∨ q = 3 → s.writesMade c.r 0 s.next = true) →
      ∃ f : Block → Block, f k = { k with scratch := (acts k T).1.scratch } ∧
        (back = [] → exec (.satom d b o q g) s = .next (s.modBlock uid f)) ∧
        (back ≠ [] → ∃ op : MemOp, PutsInFlight (.satom d b o q g) s (s.modBlock uid f) c op T back false ∧
          OpAt s c op (.ratom o.toNat true) 0 q.toNat false ∧ op.acquire = decide (q = 2) ∧ op.release = false ∧
          op.groups = (acts k T).2.map (fun x => done x.1 (off x.1) x.2))) ∧
    (LegalFor (.ratom d b o q g) ([b.toNat, b.toNat + 1] ++ ops) [] w → w.allFull T ([b.toNat, b.toNat + 1] ++ ops) →
      let target (l : Nat) : Option Block := s.clusterBlock c.r (w.reg l (b.toNat + 1)).toNat
      let pa (l : Nat) : Nat := ((target l).map (·.uid)).getD 0 * 2 ^ 22 + off l
      let near (l : Nat) : Bool := decide (q ≠ 2 ∧ q ≠ 3) && (target l).map (·.uid) == some uid
      let a := acts k (T.filter near)
      ((∀ l ∈ T, (target l).isSome ∧ off l % 4 = 0 ∧ off l + 4 ≤ la.record.scratch) →
        ∃ (f : Block → Block) (op : MemOp), f k = { k with scratch := a.1.scratch } ∧
          PutsInFlight (.ratom d b o q g) s (s.modBlock uid f) c op T back false ∧
          OpAt s c op (.ratom o.toNat (decide (q = 1 ∨ q = 2))) 1 q.toNat true ∧ op.acquire = decide (q = 2 ∨ q = 3) ∧
          op.release = decide (q = 2 ∨ q = 3) ∧
          op.groups = T.map (fun l =>
            if near l then done l (pa l) (((a.2.find? (fun x => x.1 == l)).map (·.2)).getD 0)
            else OpGroup.open_ l .plain [⟨l, off l, pa l, 4, value l, swap l, back⟩])) ∧
      (∀ l, T = [l] → off l % 4 = 0 → target l = none → ∃ u : State, exec (.ratom d b o q g) s = .next u ∧
        DestsKept (s.takeTraps c.r [l] c.hdr c.slot 0x0B 0 (off l)) u c [l] back))

/-- Named queues (R366, R367). `qcfg` with values inside their limits configures the queue and empties the granules of its
slots. `qpush` with an allowance fills the tail slot: the lanes' words, all its granules full, one more slot filled, one allowance less,
the wave its owner; with none, the lanes wait. `qpop` of a filled queue takes the head slot: each lane of T reads its word, or 0 beyond
the slot, the granules become empty and the owner's allowance returns; of an empty queue, the lanes wait. -/
def Obligations.NamedQueues : Prop :=
  ∀ (d : BitVec 6) (n g : BitVec 4) (s : State) (c : Ctx) (w : Wave) (uid j : Nat) (k : Block) (la : Launch) (x : Queue),
    Alone s c w → c.r = .blk uid j → s.block? uid = some k → s.launchOf c.r = some la → c.t w g ≠ [] → w.acquires = [] →
    (∀ y ∈ w.groups, y.delivers = false) → k.queues[n.toNat]? = some x →
    let waiting (gw : GranuleWait) (l : Nat) (y : Lane) : Lane :=
      if l ∈ c.t w g then { y with state := .waitGranule gw, vpc := c.hdr, slot := c.slot } else y
    (let e := (c.t w g).headD 0
     let v (i : Nat) : Nat := (w.reg e (d.toNat + i)).toNat
     let slots := v 1 % 2 ^ 16
     let allowance := v 1 / 2 ^ 16
     LegalFor (.qcfg d n g) (rangeFrom d.toNat 4) [] w → w.allFull [e] (rangeFrom d.toNat 4) →
      (v 0 % 16 ≠ 0 → exec (.qcfg d n g) s = .next (s.takeTraps c.r (c.t w g) c.hdr c.slot 0x0A 0 (v 0))) ∧
      (v 0 % 16 = 0 → v 0 + slots * v 2 ≤ la.record.scratch → 1 ≤ slots → slots ≤ 256 → 1 ≤ allowance →
        allowance * popCount 32 (v 3) ≤ slots → v 2 % 16 = 0 → 16 ≤ v 2 → v 2 ≤ 4 * w.width → v 3 ≠ 0 → v 3 < 2 ^ k.waves.length →
        x.filled = 0 → k.waitsQueue n.toNat = false →
        ∃ f : Block → Block, exec (.qcfg d n g) s = .next (s.modBlock uid f) ∧
          f k = { k with feEmpty := (f k).feEmpty, queues := setAt k.queues n.toNat {
            base := v 0, slots := slots, size := v 2, producers := v 3, allowance := allowance, head := 0, tail := 0, filled := 0
            allow := (rangeFrom 0 k.waves.length).map (fun i => if (v 3).testBit i then allowance else 0)
            owners := List.replicate slots 0 } } ∧
          ∀ y, y ∈ (f k).feEmpty ↔ y ∈ k.feEmpty ∨ (v 0 / 16 ≤ y ∧ y < (v 0 + slots * v 2) / 16))) ∧
    (LegalFor (.qpush d n g) [d.toNat] [] w → w.allFull (c.t w g) [d.toNat] →
      (x.slots = 0 ∨ x.producers.testBit j = false → exec (.qpush d n g) s = .next (s.takeTraps c.r (c.t w g) c.hdr c.slot 0x0C 0 0)) ∧
      (x.slots ≠ 0 → x.producers.testBit j = true → x.allow.getD j 0 = 0 →
        ∃ f : Wave → Wave, exec (.qpush d n g) s = .next ((s.modWave c.r f).dropFromIssues c.r (c.t w g)) ∧
          LanesMapped w (f w) (waiting (.push n.toNat))) ∧
      (x.slots ≠ 0 → x.producers.testBit j = true → x.allow.getD j 0 ≠ 0 → x.size % 16 = 0 → (c.t w g).Nodup →
        cellsWf 0 k.scratch = true →
        let at_ := x.base + x.size * x.tail
        ∃ f : Block → Block, exec (.qpush d n g) s = .next (s.modBlock uid f) ∧
          f k = { k with
            queues := setAt k.queues n.toNat { x with
              tail := (x.tail + 1) % x.slots, filled := x.filled + 1, allow := modifyAt x.allow j (· - 1)
              owners := setAt x.owners x.tail j }
            waves := (k.releasePop n.toNat).waves, scratch := (f k).scratch, feEmpty := (f k).feEmpty, poisonG := (f k).poisonG } ∧
          (∀ l ∈ c.t w g, 4 * l < x.size → (f k).scratchNat (at_ + 4 * l) 4 = (w.reg l d.toNat).toNat) ∧
          (∀ a, (∀ l ∈ c.t w g, 4 * l < x.size → a < at_ + 4 * l ∨ at_ + 4 * l + 4 ≤ a) →
            cellGet 0 (f k).scratch a = cellGet 0 k.scratch a) ∧
          (∀ y, y ∈ (f k).feEmpty ↔ y ∈ k.feEmpty ∧ ¬ (at_ / 16 ≤ y ∧ y < at_ / 16 + x.size / 16)))) ∧
    (LegalFor (.qpop d n g) [d.toNat] [] w → w.allFull (c.t w g) [d.toNat] →
      (x.slots = 0 → exec (.qpop d n g) s = .next (s.takeTraps c.r (c.t w g) c.hdr c.slot 0x0C 0 0)) ∧
      (x.slots ≠ 0 → x.filled = 0 → ∃ (t : State) (v : Wave), exec (.qpop d n g) s = .next t ∧ t.wave? c.r = some v ∧
        LanesMapped w v (waiting (.pop n.toNat s.next)) ∧ t.mem = s.mem) ∧
      (x.slots ≠ 0 → x.filled ≠ 0 →
        let at_ := x.base + x.size * x.head
        ∃ (f : Block → Block) (v : Wave), exec (.qpop d n g) s = .next (s.modBlock uid f) ∧
          f k = { k with
            queues := setAt k.queues n.toNat { x with
              head := (x.head + 1) % x.slots, filled := x.filled - 1, allow := modifyAt x.allow (x.owners.getD x.head 0) (· + 1) }
            waves := setAt k.waves j v, feEmpty := (f k).feEmpty } ∧
          LanesHave w v (c.t w g) (fun l =>
            { regs := [(d.toNat, if 4 * l < x.size then BitVec.ofNat 32 (k.scratchNat (at_ + 4 * l) 4) else 0)] }) ∧
          v = { w with lanes := v.lanes } ∧
          ∀ y, y ∈ (f k).feEmpty ↔ y ∈ k.feEmpty ∨ (at_ / 16 ≤ y ∧ y < at_ / 16 + x.size / 16)))

/-- `waitu` (R341, R347, R348): lanes that all pass their checks and watch one word for one operand form one wait group, under the least
group number the wave has free. They wait in Mantis with their destinations empty, their registration is in flight with the condition,
the width, the time and the operand, and the other executing lanes go to the next header. No byte of memory changes. -/
def Obligations.WaitForMemory : Prop :=
  ∀ (d b t : BitVec 6) (sc : BitVec 2) (wd cd : BitVec 1) (g : BitVec 4) (s : State) (c : Ctx) (w : Wave), Alone s c w →
    c.t w g ≠ [] → w.acquires = [] → (∀ y ∈ w.groups, y.delivers = false) → w.groups.length < 64 →
    let wide := decide (wd = 1)
    let size := if wd = 1 then 8 else 4
    let rs := if wd = 1 then [d.toNat, d.toNat + 1] else [d.toNat]
    let operand (l : Nat) : Nat := (w.reg l d.toNat).toNat + (if wd = 1 then 2 ^ 32 * (w.reg l (d.toNat + 1)).toNat else 0)
    let v := s.admitLanes c size .read none
      (fun l => (w.reg l b.toNat).toNat + 2 ^ 32 * (w.reg l (b.toNat + 1)).toNat) (c.t w g)
    let waits (i : Instr) (cond : Nat) : Prop :=
      LegalFor i (rs ++ [b.toNat, b.toNat + 1]) [] w → w.allFull (c.t w g) (rs ++ [b.toNat, b.toNat + 1]) →
      v.1.map (·.lane) = c.t w g → (∀ x ∈ v.1, ∀ y ∈ v.1, x.va = y.va ∧ operand x.lane = operand y.lane) →
      ∃ (u : State) (op : MemOp) (z : Wave) (m : Served), exec i s = .next u ∧ m ∈ v.1.head? ∧ u.wave? c.r = some z ∧ u.mem = s.mem ∧
        u.memOps = s.memOps ++ [op] ∧ op.kind = .wait cond wide t.toNat ∧ op.scope = sc.toNat ∧ op.wave = c.r ∧ op.counted = false ∧
        op.groups = [OpGroup.open_ (m.pa / 128) m.entry.attr
          (v.1.map (fun x => ⟨x.lane, x.va, x.pa, size, operand x.lane, 0, rs⟩))] ∧
        (∀ y ∈ w.groups, y.group ≠ op.groupNo) ∧ (∀ n < op.groupNo, ∃ y ∈ w.groups, y.group = n) ∧
        z.groups = w.groups ++ [⟨op.groupNo, c.t w g, d.toNat, wide, sc.toNat, .registering, true, c.next, m.va⟩] ∧
        z.ocMem = w.ocMem ∧ z.s = w.s ∧ z.k = w.k ∧ z.ltc = w.ltc ∧ z.rails = w.rails ∧
        (∀ (l : Nat) (x y : Lane), w.lanes[l]? = some x → z.lanes[l]? = some y →
          if l ∈ c.t w g then
            y = { x with state := .waitMantis op.groupNo, vpc := c.hdr, slot := c.slot, full := y.full, ldsOwn := none } ∧
              ∀ r, y.isFull r = (x.isFull r && !decide (r ∈ rs))
          else y = if l ∈ c.x then x.goTo c.next else x)
    waits (.waituEqNe d b t sc wd cd g) cd.toNat ∧ waits (.waituSgeSlt d b t sc wd cd g) (2 + cd.toNat) ∧
    waits (.waituNgeNlt d b t sc wd cd g) (4 + cd.toNat) ∧ waits (.waituAnyAll d b t sc wd cd g) (6 + cd.toNat) ∧
    waits (.waituChgUpd d b t sc wd cd g) (8 + cd.toNat)

/-- Copy commands issue (R274 to R276, R279, R282 to R291, Tables 12.3 to 12.5), in a block's wave that nothing holds back. An unloaded
descriptor register traps T with cause 0x0F. With the registers of the coordinate group full, under `.u` in every lane of T, lanes of T
that differ under `.u` trap with cause 0x13; formats that do not match trap T with cause 0x0F; a misplaced origin, and an index offset of
`cpyg` that is not a multiple of 4, with 0x0A at its address; an index list beyond the allocation with 0x0B; a box that fails one of the
checks 4 to 7 as that check says. A command that passes them waits at issue while its core's Compositor holds 64, and is otherwise last in
the Compositor, with its descriptors, coordinates and pages, and counts in `oc.cpy`. `cpyg` reads its row indices at issue: it waits while
an earlier write to them is open or, under `wf`, a granule of theirs is empty. `cpys` leaves its six registers empty in the lanes of T until
it completes.
What counts towards the 64 and the moments of the reads follow the model's readings (log entry 39). -/
def Obligations.CopyCommands : Prop :=
  ∀ (d s' : BitVec 4) (kg : BitVec 3) (f t u : BitVec 1) (r : BitVec 2) (l i o a w' : BitVec 1) (x : BitVec 7) (g : BitVec 4)
    (s : State) (c : Ctx) (w : Wave), Alone s c w → c.t w g ≠ [] → isHandler c.r = false → w.acquires = [] →
    (∀ y ∈ w.groups, y.delivers = false) → w.ocCpy < 15 →
    let T := c.t w g
    let k := 8 * kg.toNat
    let traps (ins : Instr) (v : State) (cause detail addr : Nat) : Prop :=
      exec ins s = .next (v.takeTraps c.r T c.hdr c.slot cause detail addr)
    let inFlight (ins : Instr) (v : State) (e : EngOp) : Prop := ∃ h : Wave → Wave,
      exec ins s = .next (({ v with next := s.next + 1, engOps := v.engOps ++ [e] } : State).modWave c.r h) ∧
      ∀ z, h z = { z with ocCpy := z.ocCpy + 1 }
    let full (regs : List Nat) : Prop := w.allFull (if u = 1 then T else [T.headD 0]) regs
    let alike (regs : List Nat) : Prop := u = 1 → ∀ m ∈ T, ∀ n ∈ regs, w.reg m n = w.reg (T.headD 0) n
    let checked (ins : Instr) (e : EngOp) (D S : Desc) : Prop :=
      (∀ (p : Nat × Nat × Nat) (v : State),
        s.boxChecks e.core e.part e.space (s.scratchSize c.r) (e.copyBoxes D S) = (.error p, v) → traps ins v p.1 p.2.1 p.2.2) ∧
      (∀ (pages : List TlbEntry) (v : State),
        s.boxChecks e.core e.part e.space (s.scratchSize c.r) (e.copyBoxes D S) = (.ok pages, v) →
        (v.copiesOn e.core < 64 → inFlight ins v { e with pages := pages }) ∧
        (64 ≤ v.copiesOn e.core → exec ins s = .next (v.stall c.r)))
    let gathers (ins : Instr) (opts : EngOpts) (e : EngOp) (D S : Desc) (off : Nat) : Prop :=
      let rows : List Nat := rangeFrom (off / 16) ((off + 4 * D.box 1 + 15) / 16 - off / 16)
      (off % 4 ≠ 0 → traps ins s 0x0A 0 off) ∧
      (off % 4 = 0 → s.scratchSize c.r < off + 4 * D.box 1 → traps ins s 0x0B 0 off) ∧
      ∀ b : Block, s.blockOf c.r = some b → off % 4 = 0 → off + 4 * D.box 1 ≤ s.scratchSize c.r →
        let waits : Prop := (∃ y ∈ rows, s.writeOpen (s.partOf c.r) b.uid (false, y) (c.r, s.next) = true) ∨
          (opts.wf = true ∧ ∃ y ∈ rows, b.granuleFull y = false)
        (waits → exec ins s = .next (s.stall c.r)) ∧
        let indices : List Nat := (rangeFrom 0 (D.box 1)).map (fun y => b.scratchNat (off + 4 * y) 4)
        (¬ waits → checked ins { e with coords := e.coords ++ indices } D S)
    let copy (ins : Instr) (op : Nat) (opts : EngOpts) : Prop := LegalFor ins (rangeFrom k 8) [] w →
      (s.descOf c.r d.toNat = none ∨ s.descOf c.r s'.toNat = none → traps ins s 0x0F 0 0) ∧
      ∀ D S : Desc, s.descOf c.r d.toNat = some D → s.descOf c.r s'.toNat = some S → full (copyRegs op k D S) →
        (¬ alike (copyRegs op k D S) → traps ins s 0x13 0 0) ∧
        (alike (copyRegs op k D S) →
          let coords := w.groupVals T k (copyRegs op k D S)
          let e := s.newEng c s.next .compositor op opts (some D) (some S) coords T []
          let origin : List Nat := if op = 7 then [coords.getD 4 0, 0, coords.getD 6 0, coords.getD 7 0] else coords.drop 4
          (copyFormatOk op opts D S = false → traps ins s 0x0F 0 0) ∧
          (copyFormatOk op opts D S = true →
            (∀ at_ : Nat, D.misplaced (coords.take 4) = some at_ ∨
              (D.misplaced (coords.take 4) = none ∧ S.misplaced origin = some at_) → traps ins s 0x0A 0 at_) ∧
            (D.misplaced (coords.take 4) = none → S.misplaced origin = none →
              (op ≠ 7 → checked ins e D S) ∧ (op = 7 → gathers ins opts e D S (coords.getD 5 0)))))
    copy (.cpy d s' kg f u w' g) 1 { sf := f == 1, wf := w' == 1 } ∧
    copy (.cpyq d s' kg f t u r l i o a w' g) 2
      { round := r.toNat, ceil := l == 1, fi := i == 1, fo := o == 1, sat := a == 1, wf := w' == 1, sf := f == 1, st := t == 1 } ∧
    copy (.cpyd d s' kg f t u r i o a w' g) 3
      { round := r.toNat, fi := i == 1, fo := o == 1, sat := a == 1, wf := w' == 1, sf := f == 1, st := t == 1 } ∧
    copy (.cpyt d s' kg f t u r l i o a w' g) 4
      { round := r.toNat, ceil := l == 1, fi := i == 1, fo := o == 1, sat := a == 1, wf := w' == 1, sf := f == 1, st := t == 1 } ∧
    copy (.cpyr d s' kg f t u x g) 5 { sf := f == 1, st := t == 1, exp := x.toInt } ∧
    copy (.cpyg d s' kg f u w' g) 7 { sf := f == 1, wf := w' == 1 } ∧
    (let fill : Instr := .cpyf d kg f t u r l i o a g
     let opts : EngOpts :=
       { round := r.toNat, ceil := l == 1, fi := i == 1, fo := o == 1, sat := a == 1, sf := f == 1, st := t == 1 }
     LegalFor fill (rangeFrom k 8) [] w → (s.descOf c.r d.toNat = none → traps fill s 0x0F 0 0) ∧
      ∀ D : Desc, s.descOf c.r d.toNat = some D → full (copyRegs 6 k D D) →
        (¬ alike (copyRegs 6 k D D) → traps fill s 0x13 0 0) ∧
        (alike (copyRegs 6 k D D) →
          let coords := w.groupVals T k (copyRegs 6 k D D)
          (copyFormatOk 6 opts D D = false → traps fill s 0x0F 0 0) ∧
          (copyFormatOk 6 opts D D = true →
            (∀ at_ : Nat, D.misplaced (coords.take 4) = some at_ → traps fill s 0x0A 0 at_) ∧
            (D.misplaced (coords.take 4) = none →
              checked fill (s.newEng c s.next .compositor 6 opts (some D) none coords T []) D D)))) ∧
    (LegalFor (.cpys kg u g) (rangeFrom k 8) [] w → w.allFull T (rangeFrom k 6) →
      (64 ≤ s.copiesOn (s.coreOf c.r) → exec (.cpys kg u g) s = .next (s.stall c.r)) ∧
      (s.copiesOn (s.coreOf c.r) < 64 → ∃ h : Wave → Wave,
        exec (.cpys kg u g) s = .next (({ s with
          next := s.next + 1
          engOps := s.engOps ++ [s.newEng c s.next .compositor 8 { sf := u == 1 } none none [k] T []] } : State).modWave c.r h) ∧
        ∀ z, Emptied z (h z) T (rangeFrom k 6) ∧ h z = { z with lanes := (h z).lanes, ocCpy := z.ocCpy + 1 }))

/-- Accumulator instructions (R294 to R299, R301, R302, R307, R316 to R319). `qinit` opens a quire with its count; `mma` and `mmaa` that pass
their checks record their signature and hold their wave, and the last of the count convenes the operation, which counts in every signer's
`oc.mtx`; one that is not the quire's record ends the round, and every signer that waits traps with it; `aclr` makes a region zero; `ald`
reads each lane's cells, `ast` writes them, the last lane's value standing; a lane of `ald` or `ast` whose column is misaligned traps with
cause 0x0A, and when a cell of another lies outside the window all the others trap with cause 0x06; `setaw` of the leader writes the
target's window; `acpy` takes its place in accumulator order. `aclr`, `ald` and `ast` wait while a row that they touch is busy.
The window trap of all lanes is the model's reading of R296 beside R316 (log entry 70), and the fault address of the trap on a misaligned
column, which the spec leaves open, a free value (DESIGN CHOICE, log entry 24). -/
def Obligations.AccumulatorInstructions : Prop :=
  ∀ (d b : BitVec 6) (d4 s4 : BitVec 4) (a : BitVec 7) (m kg q : BitVec 3) (n : BitVec 5) (b1 b2 b3 b4 b5 b6 b7 : BitVec 1)
    (rd : BitVec 2) (g : BitVec 4) (s : State) (c : Ctx) (w : Wave) (uid j : Nat) (k : Block) (la : Launch), Alone s c w →
    c.r = .blk uid j → s.block? uid = some k → s.launchOf c.r = some la → c.t w g ≠ [] → w.acquires = [] →
    (∀ y ∈ w.groups, y.delivers = false) → w.ocMtx < 15 → cellsWf 0 k.acc = true →
    let T := c.t w g
    let e0 := T.headD 0
    let grp (i : Nat) : Nat := (w.reg e0 (8 * kg.toNat + i)).toNat
    let traps (i : Instr) (cause : Nat) : Prop := exec i s = .next (s.takeTraps c.r T c.hdr c.slot cause 0 0)
    let alike (regs : List Nat) : Prop := ∀ l ∈ T, ∀ y ∈ regs, w.reg l y = w.reg e0 y
    let freeTrap (v : State) (ls : List Nat) : State := v.drawFault.2.takeTraps c.r ls c.hdr c.slot 0x0A 0 v.drawFault.1
    let x := k.quires.getD q.toNat ⟨0, none, []⟩
    let fits (row rows col cols : Nat) : Prop := w.awBase ≤ row ∧ row + rows ≤ w.awLimit ∧ col + cols ≤ 512
    let row (l : Nat) : Nat := (w.opA l a).toNat
    let col (l : Nat) : Nat := (w.reg l b.toNat).toNat
    let vr := b.toNat :: (rangeFrom d.toNat (2 ^ m.toNat) ++ aVec a false)
    let cells (l i : Nat) : Nat := 512 * row l + col l + i
    let aligned : List Nat := T.filter (fun l => decide (col l % 2 ^ m.toNat = 0))
    let u : State := (T.filter (fun l => decide (col l % 2 ^ m.toNat ≠ 0))).foldl (fun v l => freeTrap v [l]) s
    let inside : Prop := ∀ l ∈ aligned, fits (row l) 1 (col l) (2 ^ m.toNat)
    let busy : Bool := u.rowsBusy c.r (aligned.map (fun l => (row l, 1)))
    let dest : List Nat := rangeFrom d.toNat (2 ^ m.toNat)
    (LegalFor (.qinit q n g) [] [] w →
      (n.toNat + 1 ≤ k.waves.length → x.signers = [] → ∃ f : Block → Block, exec (.qinit q n g) s = .next (s.modBlock uid f) ∧
        f k = { k with quires := setAt k.quires q.toNat ⟨n.toNat + 1, none, []⟩ }) ∧
      (k.waves.length < n.toNat + 1 ∨ x.signers ≠ [] → traps (.qinit q n g) 0x05)) ∧
    (∀ isMmaa : Bool,
      let i : Instr := if isMmaa then .mmaa d4 s4 kg b1 q b2 b3 b4 b5 b6 g else .mma d4 s4 kg b1 q b2 b3 b4 b5 b6 g
      LegalFor i (rangeFrom (8 * kg.toNat) 8) [] w →
      (x.n = 0 ∨ (∃ y ∈ x.signers, y.wave = j) → traps i 0x05) ∧
      (x.n ≠ 0 → (∀ y ∈ x.signers, y.wave ≠ j) → (s.descOf c.r d4.toNat = none ∨ s.descOf c.r s4.toNat = none) → traps i 0x0F) ∧
      ∀ A B : Desc, x.n ≠ 0 → (∀ y ∈ x.signers, y.wave ≠ j) → s.descOf c.r d4.toNat = some A → s.descOf c.r s4.toNat = some B →
        let regs := matrixRegs isMmaa (8 * kg.toNat) A B
        let v := w.groupVals T (8 * kg.toNat) regs
        let rec_ : QuireRecord := ⟨isMmaa, d4.toNat, s4.toNat,
          b1.toNat + 2 * b2.toNat + 4 * b3.toNat + 8 * b4.toNat + 16 * b5.toNat + 32 * b6.toNat, v⟩
        let me : Signer := ⟨j, T, c.hdr, c.slot, s.next⟩
        w.allFull [e0] regs →
        (∀ cause addr : Nat, w.signatureFault isMmaa A B v la.record.scratch = some (cause, some addr) →
          exec i s = .next (s.takeTraps c.r T c.hdr c.slot cause 0 addr)) ∧
        (w.signatureFault isMmaa A B v la.record.scratch = some (0x0A, none) → exec i s = .next (freeTrap s T)) ∧
        (w.signatureFault isMmaa A B v la.record.scratch = none → (∃ z, x.record = some z ∧ z ≠ rec_) →
          exec i s = .next ((s.failQuire uid q.toNat).takeTraps c.r T c.hdr c.slot 0x05 0 0)) ∧
        (w.signatureFault isMmaa A B v la.record.scratch = none → (x.record = none ∨ x.record = some rec_) →
        (x.signers.length + 1 ≠ x.n → ∃ f : Block → Block, exec i s = .next (s.modBlock uid f) ∧
          f k = { k with
            quires := setAt k.quires q.toNat { x with record := some rec_, signers := x.signers ++ [me] }
            waves := setAt k.waves j { w with holds := w.holds ++ [.quire q.toNat] } }) ∧
        (x.signers.length + 1 = x.n → ∃ f : Block → Block,
          exec i s = .next (({ s with
            next := s.next + 1
            engOps := s.engOps ++ [{ s.newEng c s.next .platen (if isMmaa then 2 else 1)
                { fi := b3 == 1, fo := b4 == 1, sat := b5 == 1, wf := b1 == 1, accumulate := b2 == 1, negate := b6 == 1 }
                (some A) (some B) v [] [] with
              waves := (x.signers ++ [me]).map (fun y => (WaveRef.blk uid y.wave, y.upTo)) }] } : State).modBlock uid f) ∧
          f k = { k with quires := setAt k.quires q.toNat { x with record := none, signers := [] }, waves := (f k).waves } ∧
          (f k).waves.length = k.waves.length ∧
          ∀ (y : Nat) (z : Wave), k.waves[y]? = some z →
            let signed := ((x.signers ++ [me]).filter (fun t => t.wave == y)).length
            (f k).waves[y]? = some { z with
              ocMtx := z.ocMtx + signed, holds := if signed = 0 then z.holds else z.holds.filter (· != .quire q.toNat) }))) ∧
    (LegalFor (.aclr kg b1 g) (rangeFrom (8 * kg.toNat) 8) [] w →
      w.allFull (if b1 = 1 then T else [e0]) (rangeFrom (8 * kg.toNat) 4) →
      (b1 = 1 → ¬ alike (rangeFrom (8 * kg.toNat) 4) → traps (.aclr kg b1 g) 0x13) ∧
      ((b1 = 1 → alike (rangeFrom (8 * kg.toNat) 4)) →
        (grp 1 = 0 ∨ grp 3 = 0 → exec (.aclr kg b1 g) s = .next s) ∧
        (grp 1 ≠ 0 → grp 3 ≠ 0 → ¬ fits (grp 0) (grp 1) (grp 2) (grp 3) → traps (.aclr kg b1 g) 0x06) ∧
        (grp 1 ≠ 0 → grp 3 ≠ 0 → fits (grp 0) (grp 1) (grp 2) (grp 3) → s.rowsBusy c.r [(grp 0, grp 1)] = true →
          exec (.aclr kg b1 g) s = .next (s.stall c.r)) ∧
        (grp 1 ≠ 0 → grp 3 ≠ 0 → fits (grp 0) (grp 1) (grp 2) (grp 3) → s.rowsBusy c.r [(grp 0, grp 1)] = false →
          ∃ f : Block → Block, exec (.aclr kg b1 g) s = .next (s.modBlock uid f) ∧
            f k = { k with acc := (f k).acc, accBad := (f k).accBad } ∧
            ∀ y, let held : Prop := grp 0 ≤ y / 512 ∧ y / 512 < grp 0 + grp 1 ∧ grp 2 ≤ y % 512 ∧ y % 512 < grp 2 + grp 3
              (held → cellGet 0 (f k).acc y = 0 ∧ ∀ z ∈ (f k).accBad, z.1 ≠ y) ∧
              (¬ held → cellGet 0 (f k).acc y = cellGet 0 k.acc y)))) ∧
    (LegalFor (.ald d a b m g) vr (aScal a false) w → w.allFull T vr →
      (¬ inside → exec (.ald d a b m g) s = .next (u.takeTraps c.r aligned c.hdr c.slot 0x06 0 0)) ∧
      (inside → busy = true → ∃ v : State, DestsKept u v c aligned dest ∧ exec (.ald d a b m g) s = .next (v.stall c.r)) ∧
      (inside → busy = false → ∀ k' : Block, u.block? uid = some k' →
        (∀ l ∈ aligned, ∀ i < 2 ^ m.toNat, ∀ y ∈ k'.accBad, y.1 ≠ cells l i) →
        ∃ f : Wave → Wave, exec (.ald d a b m g) s = .next (u.modWave c.r f) ∧
          ∀ v : Wave, u.wave? c.r = some v → LanesWritten (v.modLanes aligned (fun x => { x with ldsOwn := none })) (f v) aligned
            (fun l => { regs := (rangeFrom 0 (2 ^ m.toNat)).map (fun i => (d.toNat + i, cellGet 0 k'.acc (cells l i))) }))) ∧
    (LegalFor (.ast d a b m g) vr (aScal a false) w → w.allFull T vr →
      (¬ inside → exec (.ast d a b m g) s = .next (u.takeTraps c.r aligned c.hdr c.slot 0x06 0 0)) ∧
      (inside → busy = true → exec (.ast d a b m g) s = .next (u.stall c.r)) ∧
      (inside → busy = false → ∃ f : Block → Block, exec (.ast d a b m g) s = .next (u.modBlock uid f) ∧
        ∀ k' : Block, cellsWf 0 k'.acc = true → f k' = { k' with acc := (f k').acc, accBad := (f k').accBad } ∧
        ∀ y, cellGet 0 (f k').acc y =
          match (aligned.filter (fun l => decide (cells l 0 ≤ y ∧ y < cells l (2 ^ m.toNat)))).getLast? with
          | some l => w.reg l (d.toNat + (y - cells l 0))
          | none => cellGet 0 k'.acc y)) ∧
    (LegalFor (.setaw a b g) [b.toNat] (aScal a false) w →
      (j ≠ 0 → w.allFull [e0] [b.toNat] → traps (.setaw a b g) 0x12) ∧
      (j = 0 → w.allFull [e0] [b.toNat] →
        let base := (w.reg e0 b.toNat).toNat % 2 ^ 13
        let limit := (w.reg e0 b.toNat).toNat / 2 ^ 16 % 2 ^ 13
        let target := (w.opA 0 a).toNat
        let outside : Prop := limit < base ∨ la.record.accRows < limit ∨ (a ≠ 119 ∧ k.waves.length ≤ target)
        (outside → traps (.setaw a b g) 0x06) ∧
        (¬ outside → ∃ f : Block → Block, exec (.setaw a b g) s = .next (s.modBlock uid f) ∧ f k = { k with waves := (f k).waves } ∧
          (f k).waves.length = k.waves.length ∧
          ∀ (y : Nat) (z : Wave), k.waves[y]? = some z → (f k).waves[y]? = some (
            if (a = 119 ∨ y = target) ∧ z.retired = false then { z with awBase := base, awLimit := limit } else z)))) ∧
    (let i : Instr := .acpy d4 s4 kg b1 b2 rd b3 b4 b5 b6 b7 g
     let opts : EngOpts := {
       round := rd.toNat, ceil := b3 == 1, fi := b4 == 1, fo := b5 == 1, sat := b6 == 1
       wf := b7 == 1 && b1 == 1, sf := b7 != 1 && b1 == 1, dirIn := b7 == 1 }
     LegalFor i (rangeFrom (8 * kg.toNat) 8) [] w →
     (s.descOf c.r (if b7 = 1 then s4.toNat else d4.toNat) = none → traps i 0x0F) ∧
     ∀ t : Desc, s.descOf c.r (if b7 = 1 then s4.toNat else d4.toNat) = some t →
      let regs := rangeFrom (8 * kg.toNat) (2 + t.rank)
      let v := w.groupVals T (8 * kg.toNat) regs
      let e := s.newEng c s.next .platen 6 opts (if b7 = 1 then none else some t) (if b7 = 1 then some t else none) v T []
      let within : Prop := fits (v.getD 0 0) (t.box 1) (v.getD 1 0) (if t.elem = 3 then 2 * t.box 0 else t.box 0)
      let boxes : Except (Nat × Nat × Nat) (List TlbEntry) × State :=
        s.boxChecks e.core e.part e.space (s.scratchSize c.r) [⟨t, e.acpyPlace t, t.items, b7 != 1⟩]
      let even : Prop := t.elem = 3 → v.getD 1 0 % 2 = 0
      w.allFull (if b2 = 1 then T else [e0]) regs →
      (b2 = 1 → ¬ alike regs → traps i 0x13) ∧
      ((b2 = 1 → alike regs) →
      (acpyFormatOk opts t = false → traps i 0x0F) ∧
      (∀ at_ : Nat, acpyFormatOk opts t = true → t.misplaced ((v.drop 2).take 4) = some at_ →
        exec i s = .next (s.takeTraps c.r T c.hdr c.slot 0x0A 0 at_)) ∧
      (acpyFormatOk opts t = true → t.misplaced ((v.drop 2).take 4) = none → ¬ even → exec i s = .next (freeTrap s T)) ∧
      (acpyFormatOk opts t = true → t.misplaced ((v.drop 2).take 4) = none → even → ¬ within → traps i 0x06) ∧
      (∀ (p : Nat × Nat × Nat) (u : State), acpyFormatOk opts t = true → t.misplaced ((v.drop 2).take 4) = none → even → within →
        boxes = (.error p, u) → exec i s = .next (u.takeTraps c.r T c.hdr c.slot p.1 p.2.1 p.2.2)) ∧
      (∀ (pages : List TlbEntry) (u : State), acpyFormatOk opts t = true → t.misplaced ((v.drop 2).take 4) = none → even → within →
        boxes = (.ok pages, u) →
        ∃ h : Wave → Wave,
          exec i s = .next (({ u with next := s.next + 1, engOps := u.engOps ++ [{ e with pages := pages }] } : State).modWave c.r h) ∧
          ∀ z, h z = { z with ocMtx := z.ocMtx + 1 })))

/-- Collective commands (R377 to R381, R383 to R385). `cgrp` reads a group image, once the wave's earlier writes to it are performed and a
line of it in the pod range is here and no bucket or held bank keeps its reads, and defines a group register when the image is well formed, the own rank is a member, the pod enable
is 1 and every rank's pod map entry is valid; it traps with cause 0x0A at a misaligned address, 0x10 when a line cannot be read, 0x11 at
the line that is poisoned, 0x0F for an image that is not well formed, and 0x10 without a pod. A command on an undefined group register, or
with an unloaded descriptor, traps T with cause 0x0F, lanes that differ under `.u` with 0x13, formats that do not fit with 0x0F, a
misaligned offset with 0x0A, and a target or box outside the group's windows, or pod enable 0, with 0x10. One that passes its checks waits
while Chafer holds 512, and is otherwise in flight with its group and counts in `oc.col`; a collective takes the next sequence number of
its group, and has failed at once when it was aborted before. Fault addresses that the spec leaves open are free values (DESIGN CHOICE, log entry 24), and that an image's reads but the first take their
tokens in advance is the model's choice (log entry 66). -/
def Obligations.CollectiveCommands : Prop :=
  ∀ (d4 s4 : BitVec 4) (cb : BitVec 6) (kg p : BitVec 3) (z u c1 r1 : BitVec 1) (wr : BitVec 2) (g : BitVec 4) (s : State) (c : Ctx)
    (w : Wave) (uid j : Nat) (k : Block), Alone s c w → c.r = .blk uid j → s.block? uid = some k → c.t w g ≠ [] → w.acquires = [] →
    (∀ y ∈ w.groups, y.delivers = false) → w.ocCol < 15 →
    let T := c.t w g
    let part := s.partOf c.r
    let space := s.spaceOf c.r
    let core := s.coreOf c.r
    let traps (i : Instr) (v : State) (cause detail addr : Nat) : Prop :=
      exec i s = .next (v.takeTraps c.r T c.hdr c.slot cause detail addr)
    let freeTraps (i : Instr) (v : State) (cause : Nat) : Prop := traps i v.drawFault.2 cause 0 v.drawFault.1
    let grp (v : List Nat) (n : Nat) : Nat := v.getD n 0
    (LegalFor (.cgrp cb p g) [] [cb.toNat, cb.toNat + 1] w →
      let va := (w.sreg cb.toNat).toNat + 2 ^ 32 * (w.sreg (cb.toNat + 1)).toNat
      let i : Instr := .cgrp cb p g
      let stalls (v : State) : Prop := exec i s = .next (v.stall c.r)
      let lines (ps : List TlbEntry) (n : Nat) : List (Nat × Nat) := pagedLines part space ps va n
      let written (v : State) (ps : List TlbEntry) (n : Nat) : Prop :=
        ∀ l ∈ lines ps n, v.writeOpen part 0 (true, l.1) (c.r, v.next) = false
      let reads (from_ v : State) (ps : List TlbEntry) (n : Nat) : Prop :=
        written from_ ps n ∧ State.imageLines core part (lines ps n) from_ = (.ok true, v)
      let image (v : State) (ps : List TlbEntry) (off n : Nat) : Nat :=
        ofBytesLE (((v.readPaged core part space ps va (off + n)).drop off).take n)
      (va % 8 ≠ 0 → traps i s 0x0A 0 va) ∧
      (∀ (f : Nat × Nat × Nat) (u1 : State), va % 8 = 0 → s.admitRun core part space va 8 [] = (.error f, u1) →
        traps i u1 f.1 f.2.1 f.2.2) ∧
      ∀ (ps : List TlbEntry) (u1 : State), va % 8 = 0 → s.admitRun core part space va 8 [] = (.ok ps, u1) →
        (¬ written u1 ps 8 → stalls u1) ∧
        (∀ (a : Nat) (v : State), written u1 ps 8 → State.imageLines core part (lines ps 8) u1 = (.error a, v) → traps i v 0x10 0 a) ∧
        (∀ v : State, written u1 ps 8 → State.imageLines core part (lines ps 8) u1 = (.ok false, v) → stalls v) ∧
        ∀ v1 : State, reads u1 v1 ps 8 →
          let n := image v1 ps 0 4
          (n = 0 ∨ 1024 < n → (v1.takeImage core part space ps va 8 = none → stalls v1) ∧
            ∀ v : State, v1.takeImage core part space ps va 8 = some v → traps i v 0x0F 0 0) ∧
          ∀ (qs : List TlbEntry) (u2 v : State), 1 ≤ n → n ≤ 1024 →
            v1.admitRun core part space va (8 + 2 * n) ps = (.ok qs, u2) → reads u2 v qs (8 + 2 * n) →
            (v.takeImage core part space qs va (8 + 2 * n) = none → stalls v) ∧
            ∀ v2 : State, v.takeImage core part space qs va (8 + 2 * n) = some v2 →
            let bad (l : Nat × Nat) : Bool := !isPod (128 * l.1) && (v2.homeLine part l.1).2.2
            let ranks : List Nat := (rangeFrom 0 n).map (fun y => image v2 qs (8 + 2 * y) 2)
            let v3 : State := v2.dropPodCode core
            let wellFormed : Prop :=
              image v1 ps 4 4 = 0 ∧ hasRepeat ranks = false ∧ (v3.part part).podRank ∈ ranks ∧ v3.groupBusy c.r p.toNat = false
            (∀ l : Nat × Nat, (lines qs (8 + 2 * n)).find? bad = some l → traps i v2 0x11 0 l.2) ∧
            ((∀ l ∈ lines qs (8 + 2 * n), bad l = false) →
              (¬ wellFormed → traps i v3 0x0F 0 0) ∧
              (wellFormed → (v3.part part).podEnable = false → freeTraps i v3 0x10) ∧
              (∀ v4 : State, wellFormed → (v3.part part).podEnable = true → v3.ranksValid part ranks = (false, v4) → freeTraps i v4 0x10) ∧
              (∀ v4 : State, wellFormed → (v3.part part).podEnable = true → v3.ranksValid part ranks = (true, v4) →
                ∃ f : Block → Block, exec i s = .next (v4.modBlock uid f) ∧
                  f k = { k with gps := setAt k.gps p.toNat (some
                    { members := ranks, own := ranks.findIdx (· == (v3.part part).podRank), seq := 0, aborted := [] }) }))) ∧
    (let command (i : Instr) (op : Nat) (opts : EngOpts) : Prop := LegalFor i (rangeFrom (8 * kg.toNat) 8) [] w →
      (s.podGroup c.r p.toNat = none ∨ (op ≠ 3 ∧ (s.descOf c.r d4.toNat = none ∨ s.descOf c.r s4.toNat = none)) → traps i s 0x0F 0 0) ∧
      ∀ (y : PodGroup) (D S : Desc), s.podGroup c.r p.toNat = some y →
        (op ≠ 3 → s.descOf c.r d4.toNat = some D ∧ s.descOf c.r s4.toNat = some S) →
        let regs := chaferRegs op (8 * kg.toNat) opts.sig
        let v := w.groupVals T (8 * kg.toNat) regs
        let n := y.members.length
        let target := grp v 0
        let sigOff := grp v 1 + 2 ^ 32 * grp v 2
        let isRoot := op != 7 || target == y.own
        let remote := if op = 2 then S else D
        let size := (s.part part).expSize
        let alike : Prop := u = 1 → ∀ l ∈ T, ∀ m ∈ regs, w.reg l m = w.reg (T.headD 0) m
        let fits : Prop := op ≠ 3 → chaferFormatOk op n isRoot D S = true
        let aligned : Prop := (op ≠ 3 → remote.base % 128 = 0) ∧ (opts.sig = true ∨ op = 3 → sigOff % 8 = 0)
        let within : Prop := (op ≤ 3 ∨ op = 7 → target < n) ∧
          (4 ≤ op → D.reach ≤ size ∧ (opts.sig = true → sigOff + 8 * n ≤ size)) ∧ (s.part part).podEnable = true
        let boxes := s.boxChecks core part space 0 (if op = 3 then [] else chaferBoxes op isRoot D S)
        w.allFull (if u = 1 then T else [T.headD 0]) regs →
        (¬ alike → traps i s 0x13 0 0) ∧
        (alike → ¬ fits → traps i s 0x0F 0 0) ∧
        (alike → fits → ¬ aligned → freeTraps i s 0x0A) ∧
        (alike → fits → aligned → ¬ within → freeTraps i s 0x10) ∧
        (∀ (f : Nat × Nat × Nat) (u1 : State), alike → fits → aligned → within → boxes = (.error f, u1) → traps i u1 f.1 f.2.1 f.2.2) ∧
        (∀ (pages : List TlbEntry) (u1 : State), alike → fits → aligned → within → boxes = (.ok pages, u1) →
          let held := (u1.engOps.filter (fun x => x.engine == .chafer)).length
          let late : Prop := 4 ≤ op ∧ y.seq ∈ y.aborted
          let e : EngOp := { s.newEng c s.next .chafer op opts (if op = 3 then none else some D) (if op = 3 then none else some S) v T pages
            with ring := some { gp := p.toNat, group := y, target := target, sigOff := sigOff
                                operand := grp v 3 + 2 ^ 32 * grp v 4, written := [], signalled := [], sent := []
                                ready := false, queue := [], arrived := 0 } }
          let issued (e : EngOp) (draws : Nat) : Prop := ∃ f : Block → Block,
            exec i s = .next (({ u1 with next := s.next + 1, engOps := u1.engOps ++ [e], draws := draws } : State).modBlock uid f) ∧
            f k = { k with
              waves := setAt k.waves j { w with ocCol := w.ocCol + 1 }
              gps := if 4 ≤ op then setAt k.gps p.toNat (some { y with seq := y.seq + 1, aborted := y.aborted.filter (· != y.seq) })
                else k.gps }
          (512 ≤ held → exec i s = .next (u1.stall c.r)) ∧
          (held < 512 → ¬ late → issued e u1.draws) ∧
          (held < 512 → late → issued { e with failed := some u1.drawFault.1 } (u1.draws + 1)))
     command (.cput d4 s4 kg z p u g) 1 { sig := z == 1 } ∧ command (.cget d4 s4 kg z p u g) 2 { sig := z == 1 } ∧
     command (.csig kg p u g) 3 {} ∧
     command (.cgath d4 s4 kg z p u wr r1 g) 4 { sig := z == 1, wire := wr.toNat, round := 2 * r1.toNat } ∧
     command (.crsc d4 s4 kg z p u wr c1 r1 g) 5 { sig := z == 1, wire := wr.toNat, acc16 := c1 == 1, round := 2 * r1.toNat } ∧
     command (.card d4 s4 kg z p u wr c1 r1 g) 6 { sig := z == 1, wire := wr.toNat, acc16 := c1 == 1, round := 2 * r1.toNat } ∧
     command (.cbcst d4 s4 kg z p u wr r1 g) 7 { sig := z == 1, wire := wr.toNat, round := 2 * r1.toNat })

/-- Operations on memory go on (R39, R207, R208, R218, R230, R247, R249, R252, R253, R261, R263, R265 to R267, R295, R325, R329, R330). A group of
a load that nothing earlier holds back takes its values from the core's unexpired L1 copy, and nothing else changes, or from its home,
which grants a lease; a return writes the destinations, or leaves them empty and marked; a store or an atomic changes its bytes at home,
and its operation, or its wave when it has ended, has a completion time of at least two above the later of the clock and the lease; a cluster message acts in its target's scratchpad; a fill
places the memory line in the galley with no byte of memory changed, its errors corrected and logged or the line poisoned; an accumulator
cell found with one wrong bit is corrected and logged, with more it is uncorrectable; a walked leaf enters the TLBs; a release, a fence and
the completion of a host or peer write proceed once their waits are over; a held request passes its bucket point when enough tokens have
accrued.
What a fill with errors leaves, which the rules give in parts, is the model's reading (DEDUCED, log entry 47), and how many bytes a request
of each kind counts the model's choice (DESIGN CHOICE, log entry 66). -/
def Obligations.MemoryPerforms : Prop :=
  ∀ (s : State) (o : MemOp) (i line : Nat) (g : OpGroup) (w : Wave), s.memOp? o.id = some o → s.wave? o.wave = some w →
    isPod (128 * line) = false → g.attr.scopeCheck = false →
    let unperformed : Prop := o.groupAt line (fun h => !h.performed) = some (i, g)
    let free : Prop := ∀ p ∈ s.groupPoints o g, s.throttled p = false
    let plain : Prop := (∃ b, o.kind = .load b) ∨ o.kind = .loadMx ∨ (∃ d, o.kind = .sload d) ∨ ∃ t, o.kind = .tdset t
    let served (bytes side : List Byte) (poison : Bool) : OpGroup := { g with
      blocks := g.blocksOf g.lanes, performed := true, poison := poison
      vals := g.lanes.map (fun l => (l.lane, l.value bytes o.kind.signed))
      codes := (g.blocksOf g.lanes).map (fun b => (side.getD b.side 0).toNat) }
    let loads : Prop := plain ∧ o.acquire = false ∧ ∃ l ∈ g.lanes, l.size ≠ 0
    let ended (u : State) (c : Nat) : Prop :=
      (∃ p, u.memOp? o.id = some p ∧ c ≤ p.completion) ∨ ∃ v, u.wave? o.wave = some v ∧ c ≤ v.ltc
    (∀ x : L1Line, unperformed → loads → s.l1Copy o.core o.part line = some x → s.earlierOpen o g true = false →
      exec (.globalLoadPerform o.id line) s = .next (s.setGroup o.id i (served x.bytes x.side x.poison))) ∧
    (∀ (j : Nat) (t : Tag), unperformed → loads → s.l1Copy o.core o.part line = none → s.earlierOpen o g false = false →
      s.coreStoreOpen o.core o.part o.id g = false → free → o.qual ≠ 2 → s.homeOf o.part line = some j →
      (s.slice j).homeTag line = some t →
      ∃ u : State, exec (.globalLoadPerform o.id line) s = .next u ∧ u.mem = s.mem ∧
        u.memOps = (s.setGroup o.id i (served ((s.slice j).content t).1 ((s.slice j).content t).2 t.poison)).memOps ∧
        u.leaseField o.part line = max t.lease (s.leaseNow (s.homeDie o.part line) + leaseLength g.attr (o.qual == 3))) ∧
    (o.groupAt line (fun h => h.performed && !h.returned) = some (i, g) → (∃ b, o.kind = .load b) → (g.lanes.map (·.lane)).Nodup →
      ∃ (u : State) (v : Wave), exec (.loadReturn o.id line) s = .next u ∧ u.wave? o.wave = some v ∧ u.mem = s.mem ∧
        (∀ l ∈ g.lanes, ∀ x : Lane, w.lanes[l.lane]? = some x → x.state ≠ .helper → l.dest.Nodup → l.size ≠ 0 →
          ∃ y : Lane, v.lanes[l.lane]? = some y ∧
            (g.failed = none → g.poison = false →
              let value := ((g.vals.find? (fun p => p.1 == l.lane)).map (·.2)).getD 0
              LaneWritten x y { regs := mapIdx' (fun k d => (d, BitVec.ofNat 32 (value / 2 ^ (32 * k)))) l.dest }) ∧
            (g.failed = none → g.poison = true →
              ∀ d ∈ l.dest, y.isFull d = false ∧ y.mark? d = some (.poisoned (l.va / 128 * 128)))) ∧
        (o.groups = [g] → o.counted = true → s.memOps.find? (fun p => p.wave == o.wave && p.counted) = some o →
          (∀ p ∈ s.memOps, p.wave = o.wave → p.id ≠ o.id → p.ended = false) → v.ocMem = w.ocMem - 1)) ∧
    (∀ (j : Nat) (t : Tag), unperformed → s.released o = true → s.writeOrdered o g = true → free → g.lanes ≠ [] →
      o.counted = true → HeldAlone s o.part line j t →
      let c := max (s.leaseNow (s.homeDie o.part line)) t.lease + 2
      (o.kind = .store → o.qual = 0 → isFullLine (s.layoutAt o.part line g.attr) g.writes g.scaleWrites = false →
        ∃ u : State, exec (.writePerform o.id line) s = .next u ∧ u.mem = s.mem ∧
          (u.homeLine o.part line).1 = writeOffsets (s.homeLine o.part line).1 g.writes ∧ ended u c) ∧
      (∀ (sub : Nat) (wide ret : Bool) (l : OpLane), o.kind = .atomic sub wide ret → g.lanes = [l] →
        let old := s.homeNat o.part l.pa l.size
        l.pa / 128 = line →
        (atomNew sub wide old l.data l.swap = none → ∃ u : State, exec (.atomicPerform o.id line) s = .next u ∧ u.mem = s.mem ∧
          (u.homeLine o.part line).1 = (s.homeLine o.part line).1 ∧
          ∀ q, u.memOp? o.id = some q → q.groups[i]? = some { g with performed := true, vals := [(l.lane, old)] }) ∧
        ∀ x, atomNew sub wide old l.data l.swap = some x →
          ∃ u : State, exec (.atomicPerform o.id line) s = .next u ∧ u.mem = s.mem ∧
            (u.homeLine o.part line).1 =
              writeOffsets (s.homeLine o.part line).1 (mapIdx' (fun k b => (l.pa % 128 + k, b)) (bytesLE l.size x)) ∧
            (∀ q, u.memOp? o.id = some q → q.groups[i]? = some { g with performed := true, vals := [(l.lane, old)] }) ∧ ended u c)) ∧
    (∀ (sub : Nat) (ret : Bool) (l : OpLane) (b : Block), unperformed → s.released o = true → o.kind = .ratom sub ret → g.lanes = [l] → s.throttled (.core o.core) = false →
      s.ratomEarlier o l = false → s.block? l.target.1 = some b → b.place ≠ .unplaced → cellsWf 0 b.scratch = true →
      let old := b.scratchNat l.target.2 4
      ∃ (u : State) (k : Block), exec (.ratomPerform o.id line) s = .next u ∧ u.block? l.target.1 = some k ∧ u.mem = s.mem ∧
        (∀ q, u.memOp? o.id = some q → q.groups[i]? = some { g with performed := true, vals := [(l.lane, old)] }) ∧
        (∀ x, atomNew sub false old l.data l.swap = some x → k.scratchNat l.target.2 4 = x % 2 ^ 32) ∧
        (atomNew sub false old l.data l.swap = none → k.scratch = b.scratch) ∧
        ∀ a, a < l.target.2 ∨ l.target.2 + 4 ≤ a → cellGet 0 k.scratch a = cellGet 0 b.scratch a) ∧
    (∀ (j : Nat) (errs : LineErrors), unperformed → s.homeOf o.part line = some j → (s.slice j).homeTag line = none →
      s.bankHolds o.part line = false → s.otherTags o.part line = [] → (s.slice j).plates.length < 32768 → (s.slice j).tags.length < 65536 → j < s.slices.length →
      o.groups.find? (fun h => h.line == line) = some g →
      let past : Bool := decide (correctable g.attr.bound g.attr.tolerant g.attr.bfmt g.attr.bk < (codeSymbols g.attr errs).length)
      ∃ v : State, v.mem = s.mem ∧ v.side = s.side ∧
        v.homeLine o.part line =
          (unprotectedFlips g.attr (s.memLine line).1 errs,
            g.attr.sideOf (unprotectedFlips g.attr (s.memLine line).1 errs) (s.memLine line).2.1, (s.memLine line).2.2 || past) ∧
        exec (.lineFill (.op o.id) line errs) s = .next (
          if past then v.logUncorrectedLine o.part line
          else if codeSymbols g.attr errs = [] then v
          else (v.logEvent (v.lineUnit o.part line) 1 none (some (128 * line))).2)) ∧
    (∀ (uid cell : Nat) (errs : LineErrors) (b : Block) (la : Launch), s.block? uid = some b → s.launch? b.launch = some la →
      b.place = .resident → cell < 512 * la.record.accRows → (∀ y ∈ b.accBad, y.1 ≠ cell) →
      let bits := (errs.map (fun e => popCount 8 e.2.toNat)).sum
      (bits = 1 → exec (.lineFill (.cell uid cell) line errs) s = .next (s.logEvent b.core 3 none none).2) ∧
      (2 ≤ bits → exec (.lineFill (.cell uid cell) line errs) s =
        .next (s.modBlock uid (fun b => { b with accBad := b.accBad ++ [(cell, false)] })))) ∧
    (o.release = true → exec (.leaseWaitEnd (.release o.id)) s =
      .next (if s.releaseReady o then s.modMemOp o.id (fun p => { p with relDone := true }) else s)) ∧
    (∃ f : Wave → Wave, exec (.leaseWaitEnd (.fence o.wave)) s = .next (s.modWave o.wave f) ∧ f w = { w with holds := (f w).holds } ∧
      ∀ h, h ∈ (f w).holds ↔ h ∈ w.holds ∧ ¬ ∃ scope kind upTo : Nat, h = .fence scope kind upTo ∧
        s.fenceMade o.wave scope kind upTo = true ∧ (fenceLeases scope kind = true → w.ltc < s.nowOf o.wave)) ∧
    (∀ p : PendingWrite, s.pendingWrites.find? (fun q => q.id == p.id) = some p →
      (s.leaseNow p.die ≤ p.completion → exec (.leaseWaitEnd (.completion p.id)) s = .next s) ∧
      (p.completion < s.leaseNow p.die → exec (.leaseWaitEnd (.completion p.id)) s = .next { s with
        pendingWrites := s.pendingWrites.filter (fun q => q.id != p.id)
        outputs := s.outputs ++ [match p.peer with
          | none => .hostDone p.id
          | some d => if p.reply = [] then .peerAck d else .peerData d p.reply false] })) ∧
    (let point := BucketPoint.core o.core
     let b := (s.bucketAt point).accrue (s.bucketReg point) s.clock
     let need := 1024 * ((o.payload g + 63) / 64)
     o.groupAt line (fun h => !h.performed && h.points.testBit 3) = some (i, g) → g.points.testBit 0 = false →
      s.throttled point = true → s.heldBefore o point = false →
      exec (.bucketRelease point o.id line) s = .next (
        if need ≤ b.level ∧ (s.bucketAt point).since ≤ s.clock then
          (s.setBucket { b with level := b.level - need } point).setGroup o.id i { g with points := setBit g.points 0 true }
        else s.setGroup o.id i { g with points := setBit g.points 3 true })) ∧
    (∀ core part space va : Nat, va < 2 ^ 57 →
      ((s.cachedXlat core part space va).isSome = true → exec (.pageWalk core part space va) s = .next s) ∧
      (s.cachedXlat core part space va = none → core < s.cores.length →
        (∀ f, s.walk part space va = .error f → exec (.pageWalk core part space va) s = .next (s.readWalk part space va)) ∧
        ∀ e, s.walk part space va = .ok e → ∃ u : State, exec (.pageWalk core part space va) s = .next u ∧
          u.cachedXlat core part space va = some e ∧ u.mem = s.mem ∧ u.parts = s.parts ∧ u.blocks = s.blocks)) ∧
    ∀ (op granule : Nat) (e : EngOp) (b : Block), s.engOp? op = some e → s.block? e.uid = some b →
      (false, granule) ∈ s.sourcesOf e → e.captured (false, granule) = none → s.engGoes e = true → s.readable e (false, granule) = true →
      ∃ u : State, exec (.scratchpadBankAccess op granule) s = .next u ∧ u.blocks = s.blocks ∧ u.mem = s.mem ∧
        u.engOp? op = some { e with reads := e.reads ++
          [⟨false, granule, b.scratchBytes (16 * granule) 16, [], b.poisonG.contains granule⟩] }

/-- Engine operations go on (R277, R280, R285, R291, R302, R311, R313, R315, R334, R373, R376, R383 to R386, R388, R389). A copy command
whose sources may be read writes the bits of its destination's elements, sets the F bits under `.sf`, and is counted out; `cpys` writes the
statistics. A matrix operation starts by reading its sources, at most two at once, and completes by writing each cell of D. A one-sided
command ends once all is answered, with the pod-error flag set if it failed; `csig` sends its signal when the wave's writes are made and
the lease clock has passed. A chunk of a gather or broadcast that comes from the previous member in the order of its link is kept and goes
on unchanged, in writes of at most 256 bytes, once the next member has issued its command; one that no pod map entry grants is refused,
one out of its order is not taken, and one of another command aborts the collective.
The moments at which sources are read and chunks are sent are the model's readings (log entries 39 and 40). -/
def Obligations.EngineSteps : Prop :=
  ∀ (s : State) (e : EngOp) (rf : WaveRef) (n : Nat) (w : Wave) (blk : Block), s.engOp? e.id = some e → e.waves = [(rf, n)] →
    s.wave? rf = some w → s.block? e.uid = some blk → s.device.fenced = false → cellsWf 0 blk.scratch = true → cellsWf 0 blk.acc = true →
    let alone : Prop := e.stage = 0 ∧ s.unitsOpen e.id = false ∧
      ∀ x ∈ s.engOps, x.engine = .compositor → x.id ≠ e.id → x.stage = 0
    let only : Prop := s.engOps.filter (fun x => x.engine == e.engine) = [e]
    (∀ d src : Desc, e.engine = .compositor → alone → s.engRuns e = true → s.firstCopy e = true → e.op ≠ 8 → e.descs = some (d, src) →
      d.scratch = true → (e.op = 6 ∨ src.scratch = true) → e.done = [] →
      let us := d.items.flatMap (e.copySources d src)
      let bs := d.items.flatMap (fun m => e.itemBytes d .scratch (e.destPlace d m) (e.copyItem (s.look e) d src m))
      let at_ (x : DestByte) (a : Nat) : Prop := x ∈ bs ∧ x.side = false ∧ a = 16 * x.unit.2 + x.off
      us.all (s.readable e) = true →
      (∀ x y a, at_ x a → at_ y a → ∀ i < 8, x.mask.getLsbD i = true → y.mask.getLsbD i = true →
        x.byte.getLsbD i = y.byte.getLsbD i) →
      ∃ (u : State) (v : Wave) (k : Block), exec (.copyCommandComplete e.id) s = .next u ∧ u.engOp? e.id = none ∧ u.mem = s.mem ∧
        u.wave? rf = some v ∧ v.ocCpy = w.ocCpy - 1 ∧ v.ltc = max w.ltc e.completion ∧ u.block? e.uid = some k ∧
        (∀ a, ∀ i < 8,
          (∀ x, at_ x a → x.mask.getLsbD i = true → (cellGet 0 k.scratch a).getLsbD i = x.byte.getLsbD i) ∧
          ((∀ x, at_ x a → x.mask.getLsbD i = false) → (cellGet 0 k.scratch a).getLsbD i = (cellGet 0 blk.scratch a).getLsbD i)) ∧
        (e.opts.sf = true → ∀ x ∈ bs, k.granuleFull x.unit.2 = true)) ∧
    (e.engine = .compositor → alone → s.engRuns e = true → s.firstCopy e = true → e.op = 8 → e.lanes.Nodup →
      ∃ (u : State) (v : Wave), exec (.copyCommandComplete e.id) s = .next u ∧ u.engOp? e.id = none ∧ u.mem = s.mem ∧
        u.wave? rf = some v ∧ v.ocCpy = w.ocCpy - 1 ∧
        (v.statSum, v.statCount, v.statMax) = (if e.opts.sf = true then (0, 0, 0) else (w.statSum, w.statCount, w.statMax)) ∧
        ∀ (l : Nat) (x y : Lane), w.lanes[l]? = some x → v.lanes[l]? = some y →
          if l ∈ e.lanes ∧ x.state ≠ .helper then
            let out := [lo32 w.statSum, hi32 w.statSum, lo32 w.statCount, hi32 w.statCount, lo32 w.statMax, hi32 w.statMax]
            LaneWritten x y { regs := mapIdx' (fun i z => (e.coords.headD 0 + i, z)) out }
          else y = x) ∧
    (e.engine = .platen → e.op ≠ 6 → e.started = none → s.engRuns e = true → s.rowsEarlier e = false → s.startsAfter e = false →
      e.matrixSources.all (s.readable e) = true → (∀ u ∈ e.matrixSources, u.1 = false) →
      let running := (s.engOps.filter (fun x =>
        x.engine == .platen && x.op != 6 && x.core == e.core && x.stage == 0 && x.started.isSome)).length
      (2 ≤ running → exec (.platenStart e.core e.id) s = .next s) ∧
      (running < 2 → ∃ (u : State) (x : EngOp), exec (.platenStart e.core e.id) s = .next u ∧ u.engOp? e.id = some x ∧
        x = { e with started := some s.clock, reads := x.reads } ∧ (∀ q ∈ e.matrixSources, x.captured q = some (s.look e q)) ∧
        u.blocks = s.blocks ∧ u.mem = s.mem)) ∧
    (∀ (a b : Desc) (k : Nat), e.engine = .platen → only → s.engRuns e = true → (e.op = 1 ∨ e.op = 2) → e.stage = 0 →
      e.started.isSome = true → e.t1 = some a → e.t2 = some b → matrixK a.elem a.block b.elem b.block = some k → a.elem ≠ 3 →
      blk.accBad = [] → e.coords.getD 1 0 + matrixN a.elem ≤ 512 →
      let row0 := e.coords.getD 0 0
      let col0 := e.coords.getD 1 0
      let rowA (i : Nat) := if e.op = 2 then e.accRow blk a k i else e.tileRow (s.look e) a (originA e.coords a) k i
      ∃ (u : State) (v : Wave) (z : Block), exec (.platenComplete e.id) s = .next u ∧ u.engOp? e.id = none ∧ u.mem = s.mem ∧
        u.wave? rf = some v ∧ v.ocMtx = w.ocMtx - 1 ∧ u.block? e.uid = some z ∧ z.scratch = blk.scratch ∧
        (∀ i < 128, ∀ j < matrixN a.elem, cellGet 0 z.acc (cellAt (row0 + i) (col0 + j)) = lo32 (
          e.product a b k (rowA i) (e.tileRow (s.look e) b (originB e.coords b) k j) (blk.cellCode false (row0 + i) (col0 + j)))) ∧
        ∀ q, q ∉ regionCells row0 128 col0 (matrixN a.elem) → cellGet 0 z.acc q = cellGet 0 blk.acc q) ∧
    (∀ (r : RingState) (ready : Bool), e.engine = .chafer → e.ring = some r →
      let m := r.group.members
      let rank (i : Nat) : Nat := m.getD i 0
      let cached (i ent : Nat) : Prop := (s.part e.part).podCache.find? (fun x => x.1 == rank i) = some (rank i, ent)
      (only → isCollective e.op = false → e.stage = 2 → e.pend = [] → s.reqsOpen e.id = false → ∃ (u : State) (v : Wave),
        exec (.chaferOperationComplete ⟨e.id, ready⟩) s = .next u ∧ u.engOp? e.id = none ∧ u.mem = s.mem ∧ u.wave? rf = some v ∧
        v.ocCol = w.ocCol - 1 ∧ v.ltc = max w.ltc e.completion ∧ v.podError = w.podError.or e.failed) ∧
      (∀ ent, e.op = 3 → e.stage = 0 → e.failed = none → s.reqsOpen e.id = false → r.target ≠ r.group.own → r.sigOff + 8 ≤ 2 ^ 40 →
        rank r.target < 1024 → cached r.target ent → podValid ent = true → podGrants ent 2 = true →
        (s.writesMade rf 3 n = false ∨ s.nowOf rf ≤ w.ltc → exec (.chaferOperationComplete ⟨e.id, ready⟩) s = .next s) ∧
        (s.writesMade rf 3 n = true → w.ltc < s.nowOf rf → ∃ (u : State) (q : PodReq),
          exec (.chaferOperationComplete ⟨e.id, ready⟩) s = .next u ∧ u.podReqs = s.podReqs ++ [q] ∧ u.mem = s.mem ∧
          q.ask = .atomic 0x16 r.operand 0 ∧ q.owner = .eng e.id ∧ q.rank = rank r.target ∧ q.offset = r.sigOff ∧
          q.device = podDevice ent ∧ q.target = podPart ent)) ∧
      (∀ (device peer chunk hop ent : Nat) (codes scales bad : List Nat) (last : Bool) (d src : Desc), isCollective e.op = true →
        e.failed = none → e.stage ≠ 3 → e.stage ≠ 0 → hop ≠ 0 → hop + 1 < m.length →
        let arrives (sender : ChunkSender) : Instr := .collectiveChunkArrival e.id chunk hop codes scales bad last ⟨device, peer, sender⟩
        let msg : ChunkMsg := ⟨chunk, hop + 1, codes, scales, bad, last⟩
        let taken (x : EngOp) : RingState :=
          { r with arrived := r.arrived + 1, written := r.written ++ [(chunk, x.completion)] }
        (∀ sender : ChunkSender, s.admitsChunk e r device peer = false →
          exec (arrives sender) s = .next (s.emit (.peerRefused device))) ∧
        (s.admitsChunk e r device peer = true → e.nextArrival r ≠ (chunk, hop, last) → exec (arrives (e.sender r)) s = .next s) ∧
        (s.admitsChunk e r device peer = true → e.nextArrival r = (chunk, hop, last) → e.op = 4 ∨ e.op = 7 →
          e.t1 = some d → e.t2 = some src →
          (r.ready = false → ∃ (u : State) (x : EngOp), exec (arrives (e.sender r)) s = .next u ∧ u.engOp? e.id = some x ∧
            x.ring = some { taken x with queue := r.queue ++ [msg] }) ∧
          (r.ready = true → r.nextRank < 1024 → cached ((r.group.own + 1) % m.length) ent → podValid ent = true →
            podGrants ent 1 = true → (e.wireBytes msg).length < 2 ^ 40 → (∀ port, s.throttled (.port port e.part) = false) →
            (∀ q ∈ s.podReqs, q.held = none) →
            ∃ (u : State) (x : EngOp) (pre : List Output) (id : Nat) (qs : List (PodReq × List Byte)),
              exec (arrives (e.sender r)) s = .next u ∧ u.engOp? e.id = some x ∧
              x.ring = some { taken x with sent := r.sent ++ [(chunk, last)] } ∧
              u.outputs = s.outputs ++ pre ++ [.chunk id e.id chunk (hop + 1) codes scales bad last (e.sender r)] ∧
              qs.flatMap (·.2) = e.wireBytes msg ∧
              ∀ q ∈ qs, q.1 ∈ u.podReqs ∧ q.1.ask = .write q.2 false ∧ q.2.length ≤ 256 ∧ q.1.owner = .eng e.id ∧
                q.1.rank = r.nextRank ∧ q.1.device = podDevice ent ∧ q.1.target = podPart ent))) ∧
      (only → isCollective e.op = true → e.failed = none →
        let aborted (u : State) : Prop := u.engOp? e.id = none ∧ (∀ q ∈ u.podReqs, q.owner = .eng e.id → q.held = none) ∧
          ∃ v, u.wave? rf = some v ∧ v.ocCol = w.ocCol - 1 ∧ v.podError.isSome = true
        (∀ (device peer chunk hop : Nat) (codes scales bad : List Nat) (last : Bool) (sender : ChunkSender), e.stage ≠ 3 → hop ≠ 0 →
          hop < m.length → s.admitsChunk e r device peer = true → sender ≠ e.sender r → ∃ u : State,
          exec (.collectiveChunkArrival e.id chunk hop codes scales bad last ⟨device, peer, sender⟩) s = .next u ∧ aborted u ∧
          .abort e.uid r.gp r.group.seq ∈ u.outputs) ∧
        ∃ u : State, exec (.collectiveAbort e.uid r.gp r.group.seq) s = .next u ∧ aborted u)) ∧
    ∀ (gp seq : Nat) (y : PodGroup), (∀ x ∈ s.engOps, x.engine ≠ .chafer) → blk.gps[gp]? = some (some y) → y.seq ≤ seq →
      seq ∉ y.aborted → ∃ f : Block → Block, exec (.collectiveAbort e.uid gp seq) s = .next (s.modBlock e.uid f) ∧
        f blk = { blk with gps := (f blk).gps } ∧ (f blk).gps[gp]? = some (some { y with aborted := y.aborted ++ [seq] }) ∧
        ∀ i, i ≠ gp → (f blk).gps[i]? = blk.gps[i]?

/-- Mantis entries and host monitors (R342, R345, R346, R350 to R353, R360, Table 16.6). A registration whose condition holds on the word
delivers it at once, otherwise the entry stands at the word's home slice; an entry past its deadline delivers the word with the predicate
false; a sweep leaves no spilled entry past its deadline; a reclaim brings every spilled entry of a slice back while there is room, and
frees its records; a
context-held entry is looked at again 4,096 ticks after the last time. A delivery makes the group's lanes active at its next header with
the word in the destination. Arming a monitor registers it, fires it, or reports an error; disarming cancels its entry; a status write
clears what it names.
The moment of a timeout's own step is the model's reading (log entry 35). -/
def Obligations.WaitEntries : Prop :=
  ∀ (s : State) (r : WaveRef) (w : Wave) (gr : WaitGroup), s.wave? r = some w →
    let wakes (u : State) (value : Nat) (met : Bool) : Prop := ∃ v : Wave, u.wave? r = some v ∧ u.mem = s.mem ∧
      (∀ h ∈ v.groups, h.group ≠ gr.group) ∧
      ∀ (l : Nat) (x y : Lane), w.lanes[l]? = some x → v.lanes[l]? = some y →
        if l ∈ gr.lanes ∧ x.state = .waitMantis gr.group then
          y = { x with
            v := y.v, full := y.full, marks := y.marks, preds := y.preds, state := .active, starve := 0, vpc := gr.next, slot := 0 } ∧
          (gr.dest < x.v.length → y.reg gr.dest = lo32 value) ∧ y.isFull gr.dest = true ∧ (gr.dest ≠ 0 → y.pred gr.dest = met) ∧
          (gr.wide = true → (gr.dest + 1 < x.v.length → y.reg (gr.dest + 1) = hi32 value) ∧ y.isFull (gr.dest + 1) = true)
        else y = x
    (∀ (e : Entry) (i : Nat), s.entries.find? (fun x => x.key == e.key) = some e → e.place = .slice i → e.recs = [] → e.deadline ≠ 0 →
      let now := s.leaseNow (s.homeDie e.part (e.addr / 128))
      (now ≤ e.deadline → exec (.mantisTimeout e.key) s = .next s) ∧
      (e.deadline < now → e.owner = .wave r → w.groups.find? (fun g => g.group == e.group) = some gr → ∃ u : State,
        exec (.mantisTimeout e.key) s = .next u ∧ (∀ x, x ∈ u.entries ↔ x ∈ s.entries ∧ x.key ≠ e.key) ∧ wakes u (s.entryWord e) false ∧
        (e.part < s.parts.length → (u.part e.part).mcntTimeout = ((s.part e.part).mcntTimeout + 1) % 2 ^ 64))) ∧
    (∀ (o : MemOp) (g : OpGroup) (n j cond ticks : Nat) (wide : Bool) (t : Tag) (l : OpLane), s.memOp? o.id = some o → o.wave = r →
      o.groupAt g.line (fun h => !h.performed) = some (n, g) → o.kind = .wait cond wide ticks → s.earlierOpen o g false = false →
      s.coreStoreOpen o.core o.part o.id g = false → g.attr.scopeCheck = false → g.lanes.head? = some l → l.pa / 128 = g.line →
      s.homeOf o.part g.line = some j → (s.slice j).homeTag g.line = some t → t.poison = false → (∀ x ∈ s.entries, x.deadline = 0) →
      (∀ p ∈ s.groupPoints o g, s.throttled p = false) → (∀ x ∈ s.entries, x.key ≠ s.next) →
      w.groups.find? (fun h => h.group == o.groupNo) = some gr → gr.lanes ≠ [] →
      let word := s.homeNat o.part l.pa (if wide then 8 else 4)
      (cond < 8 → waitHolds cond wide word l.data false = true → ∃ u : State, exec (.mantisRegistration o.id g.line) s = .next u ∧
        wakes u word true ∧ u.memOp? o.id = none) ∧
      (8 ≤ cond ∨ waitHolds cond wide word l.data false = false → s.tableCount j < 2048 → ∃ (u : State) (x : Entry),
        exec (.mantisRegistration o.id g.line) s = .next u ∧ u.entries = s.entries ++ [x] ∧ u.memOp? o.id = none ∧ u.mem = s.mem ∧
        x.owner = .wave r ∧ x.part = o.part ∧ x.cond = cond ∧ x.wide = wide ∧ x.addr = l.pa ∧ x.group = o.groupNo ∧ x.place = .slice j ∧
        x.operand = (if cond = 8 then word else if cond = 9 then 0 else l.data) ∧
        x.deadline = (if ticks = 0 then 0 else s.leaseNow (s.homeDie o.part g.line) + 2 ^ ticks))) ∧
    (∀ i : Nat, ∃ u : State, exec (.spillSweep i) s = .next u ∧ (∀ x ∈ u.entries, x ∈ s.entries) ∧
      ((∀ x ∈ s.spilledAt i, x.deadline = 0 ∨ s.leaseNow (dieOfSlice i) < x.deadline) → u.mem = s.mem) ∧
      (∀ x ∈ u.spilledAt i, x.deadline = 0 ∨ s.leaseNow (dieOfSlice i) < x.deadline) ∧
      (∀ x ∈ s.entries, (∀ y ∈ s.spilledAt i, y.key = x.key → y.deadline = 0 ∨ s.leaseNow (dieOfSlice i) < y.deadline) → x ∈ u.entries) ∧
      (u.spilledAt i = [] → (u.slice i).filter = [])) ∧
    (∀ i : Nat, (s.entries.map (·.key)).Nodup → s.tableCount i + (s.spilledAt i).length ≤ 2048 →
      ∃ u : State, exec (.spillReclaim i) s = .next u ∧ (s.spilledAt i = [] → u.mem = s.mem) ∧ (u.slice i).filter = [] ∧
        u.entries = s.entries.map (fun e =>
          if e.place = .spilled ∧ s.homeOf e.part (e.addr / 128) = some i then { e with place := .slice i, checked := 0, recs := [] } else e)) ∧
    (∀ e : Entry, s.entries.find? (fun x => x.key == e.key) = some e → e.place = .held → e.recs = [] → e.cond < 8 →
      let now := s.leaseNow (s.homeDie e.part (e.addr / 128))
      let met := waitHolds e.cond e.wide (s.entryWord e) e.operand false
      (now < e.checked + 4096 → exec (.contextReevaluation e.key) s = .next s) ∧
      (e.checked + 4096 ≤ now → met = true → e.owner = .wave r → w.groups.find? (fun g => g.group == e.group) = some gr → ∃ u : State,
        exec (.contextReevaluation e.key) s = .next u ∧ (∀ x, x ∈ u.entries ↔ x ∈ s.entries ∧ x.key ≠ e.key) ∧ wakes u (s.entryWord e) true) ∧
      (e.checked + 4096 ≤ now → met = false → e.deadline = 0 → ∃ u : State, exec (.contextReevaluation e.key) s = .next u ∧ u.mem = s.mem ∧
        u.entries = s.entries.map (fun x => if x.key = e.key then { x with checked := now } else x))) ∧
    ∀ (part m value : Nat), s.vfWritable part = true → part < s.parts.length → m < 16 → m < (s.part part).vf.monitors.length →
      let old := s.monitor part m
      let x := old.control value
      let s1 := s.modMonitor part m (fun x => x.control value)
      let size := if x.wide then 8 else 4
      let err (u : State) : Prop := u.monitor part m = { x with error := true } ∧ u.entries = s.entries ∧
        u.outputs = s.outputs ++ [.interrupt false part x.vector] ∧ u.mem = s.mem
      (bitOf value 0 = true → old.armed = true → exec (.hmArm part m value) s = .next s) ∧
      (bitOf value 0 = true → old.armed = false →
        (9 < x.cond ∨ x.addr % size ≠ 0 → ∃ u : State, exec (.hmArm part m value) s = .next u ∧ err u) ∧
        (x.cond ≤ 9 → x.addr % size = 0 → (s1.schedPage part x.space x.addr .read).1 = none →
          ∃ u : State, exec (.hmArm part m value) s = .next u ∧ err u) ∧
        (∀ (pg : TlbEntry) (j : Nat), x.cond ≤ 9 → x.addr % size = 0 → (s1.schedPage part x.space x.addr .read).1 = some pg →
          (∀ y ∈ s.entries, y.deadline = 0) → s.homeOf part (pg.pa x.addr / 128) = some j → (∀ y ∈ s.entries, y.key ≠ s.next) →
          (isHost (pg.pa x.addr) = true → ∃ t, (s.slice j).homeTag (pg.pa x.addr / 128) = some t) →
          let word := s.homeNat part (pg.pa x.addr) size
          (x.cond < 8 → waitHolds x.cond x.wide word x.operand false = true →
            ∃ u : State, exec (.hmArm part m value) s = .next u ∧ u.entries = s.entries ∧
            u.monitor part m = { x with value := word, fired := true, armed := false } ∧
            u.outputs = s.outputs ++ [.interrupt false part x.vector]) ∧
          (8 ≤ x.cond ∨ waitHolds x.cond x.wide word x.operand false = false → s.tableCount j < 2048 →
            ∃ (u : State) (y : Entry), exec (.hmArm part m value) s = .next u ∧ u.entries = s.entries ++ [y] ∧ u.outputs = s.outputs ∧
            u.monitor part m = { x with armed := true } ∧ y.owner = .monitor part m ∧ y.cond = x.cond ∧ y.wide = x.wide ∧
            y.addr = pg.pa x.addr ∧ y.deadline = 0 ∧ y.place = .slice j ∧
            y.operand = (if x.cond = 8 then word else if x.cond = 9 then 0 else x.operand)))) ∧
      (bitOf value 0 = false → (∀ y ∈ s.entries, y.owner = .monitor part m → y.recs = []) → ∃ u : State, exec (.hmDisarm part m value) s = .next u ∧ u.monitor part m = { x with armed := false } ∧
        (∀ y, y ∈ u.entries ↔ y ∈ s.entries ∧ y.owner ≠ .monitor part m) ∧ u.outputs = s.outputs ∧ u.mem = s.mem) ∧
      (∃ u : State, exec (.hmStatusClear part m value) s = .next u ∧ u.entries = s.entries ∧ u.mem = s.mem ∧ u.monitor part m =
        { old with error := old.error && !bitOf value 2, fired := old.fired && !bitOf value 1 })

/-- Streams and launches (R26, R39, R48, R50 to R53, R125, R126, R423, R425). An STM_CFG write starts a stream, whose tail word is then
watched, or updates its serial bit, or stops it; a woken stream takes its records in order: a record's slot is seen, then read with each
8-byte word as it was seen or as it stands, a launch with the next identifier, and with none left the tail word is watched again, or, moved
meanwhile, read at once; a gate is
met at once or watched; an admitted launch takes its place in the order of admission; an append reads its image, writes it to its slot
word by word as it was read or as it stands, and once the wave's writes are made and the lease clock has passed their completion,
advances the tail; a launch retires once the lease clock has passed its greatest `ltc`, with its colophon written and its interrupt sent.
That a started stream with records already in its ring is awake at once, and which words of a record or image are old, are the model's
readings (log entries 29 and 65); so are the three steps of an append and its image in the pod range (DEDUCED, log entry 36), and the write
permission that the scheduler needs on a control pair and a colophon's page (DEDUCED, log entry 43). -/
def Obligations.StreamsAndLaunches : Prop :=
  (∀ (s : State) (part n value : Nat), s.writable = true → part < s.parts.length → n < (s.part part).vf.streams.length →
    let st := s.stream part n
    let set (t : Stream) : Stream := { t with order := cfgOrder value, serial := cfgSerial value, enable := true }
    let s2 := (s.modStream part n set).modStream part n (fun t => { t with error := false })
    let head (pa : Nat) : Nat := s.homeNat part (pa + 8) 8
    (st.watching = true → exec (.streamStart part n value) s = .next s) ∧
    (cfgEnable value = true → st.watching = false →
      ((set st).orderOk = false → exec (.streamStart part n value) s = .next (s.modStream part n set)) ∧
      ((set st).orderOk = true → (s2.schedPage part st.space st.pair .write).1 = none → ∃ u : State,
        exec (.streamStart part n value) s = .next u ∧
        (u.stream part n).error = true ∧ (u.stream part n).watching = false ∧ (u.stream part n).enable = false) ∧
      (∀ (pg : TlbEntry) (j : Nat), (set st).orderOk = true → (s2.schedPage part st.space st.pair .write).1 = some pg →
        let pa := pg.pa st.pair
        (s.homeNat part pa 8 ≠ head pa → ∃ u : State, exec (.streamStart part n value) s = .next u ∧ u.entries = s.entries ∧
          u.stream part n = { set st with error := false, head := head pa, watching := true, wokeAt := some s.clock }) ∧
        (s.homeNat part pa 8 = head pa → (∀ y ∈ s.entries, y.deadline = 0) → s.homeOf part (pa / 128) = some j → s.tableCount j < 2048 →
          (∀ y ∈ s.entries, y.key ≠ s.next) → (isHost pa = true → ∃ x, (s.slice j).homeTag (pa / 128) = some x) →
          ∃ (u : State) (x : Entry), exec (.streamStart part n value) s = .next u ∧ u.entries = s.entries ++ [x] ∧
          u.stream part n = { set st with error := false, head := head pa, watching := true, wokeAt := none } ∧
          x.owner = .tail part n ∧ x.cond = 8 ∧ x.wide = true ∧ x.addr = pa ∧ x.operand = head pa ∧ x.deadline = 0 ∧ x.place = .slice j))) ∧
    (cfgEnable value = true → st.watching = true →
      exec (.streamSerialUpdate part n value) s = .next (s.modStream part n (fun t => { t with serial := cfgSerial value }))) ∧
    (cfgEnable value = false → (∀ y ∈ s.entries, y.owner = .tail part n → y.recs = []) →
      ∃ u : State, exec (.streamStop part n value) s = .next u ∧ u.mem = s.mem ∧
      (∀ y, y ∈ u.entries ↔ y ∈ s.entries ∧ y.owner ≠ .tail part n) ∧ u.stream part n =
        { st with order := cfgOrder value, serial := cfgSerial value, enable := false, watching := false, wokeAt := none, reading := none })) ∧
  (∀ (s : State) (part n : Nat) (pg slot : TlbEntry), s.device.fenced = false → part < s.parts.length →
    n < (s.part part).vf.streams.length → s.entries = [] → (∀ l ∈ s.launches, l.lid ≠ s.next) →
    let st := s.stream part n
    let pa := pg.pa st.pair
    let near (a : Nat) : Prop := isHost a = true → ∃ i x, s.homeOf part (a / 128) = some i ∧ (s.slice i).homeTag (a / 128) = some x
    (s.part part).vf.resetting = false → st.watching = true → s.firstWoken part n = true →
    let v := s.schedPage part st.space st.pair .write
    let z := v.2.schedPage part st.space st.slotAddr .read
    v.1 = some pg →
    let count := (s.homeNat part pa 8 + 2 ^ 64 - st.head) % 2 ^ 64
    (st.reading = none → st.size < count → ∃ u : State, exec (.schedulerStreamRead part n) s = .next u ∧ u.launches = s.launches ∧
      (u.stream part n).error = true ∧ (u.stream part n).watching = false ∧ (u.stream part n).enable = false) ∧
    (st.reading = none → count = 0 → near pa → ∃ u : State, exec (.schedulerStreamRead part n) s = .next u ∧
      u.launches = s.launches ∧ u.mem = s.mem ∧ u.stream part n = { st with wokeAt := none, reading := none }) ∧
    (z.1 = some slot →
      let words := words64 16 0 (s.readRun part (slot.pa st.slotAddr) 128)
      (st.reading = none → 1 ≤ count → count ≤ st.size → exec (.schedulerStreamRead part n) s =
        .next ((z.2.useLine part (slot.pa st.slotAddr / 128)).modStream part n (fun t => { t with reading := some (count, words) }))) ∧
      (∀ (left : Nat) (old : List (Nat × Nat)), st.reading = some (left, old) →
        (∀ p ∈ s.hostPoints part (slot.pa st.slotAddr / 128) ++ s.hostPoints part ((pa + 8) / 128), s.throttled p = false) →
        let bs := mixWords s.draws old words
        ∃ (u : State) (l : Launch), exec (.schedulerStreamRead part n) s = .next u ∧ u.launches = s.launches ++ [l] ∧
          l.id = (s.part part).nextId ∧ (u.part part).nextId = nextLaunchId (s.part part).nextId ∧ l.part = part ∧ l.stream = n ∧
          l.space = st.space ∧ l.position = st.head % st.size ∧ l.record = LaunchRecord.ofImage bs ∧
          (l.stage = .queued ↔ recordReservedOk bs && l.record.valuesOk n) ∧
          (l.stage = .queued ∨ l.stage = .retired ∨ l.stage = .ending 2) ∧ (u.stream part n).head = (st.head + 1) % 2 ^ 64 ∧
          (left = 1 → (u.stream part n).reading = none ∧
            ((u.stream part n).wokeAt = none ∨ (u.stream part n).wokeAt = some s.clock))))) ∧
  (∀ (s : State) (l : Launch), s.launch? l.lid = some l → s.device.fenced = false →
    (∀ (pg : TlbEntry) (j : Nat), s.mayStart l = true → l.record.gateEnable = true → l.killing = none →
      let pa := pg.pa l.record.gateAddr
      let word := s.homeNat l.part pa (if l.record.gateWide then 8 else 4)
      let holds : Bool := decide (l.record.gateCond < 8) && waitHolds l.record.gateCond l.record.gateWide word l.record.gateOperand false
      ((s.schedPage l.part l.space l.record.gateAddr .read).1 = none ∨
          ((s.schedPage l.part l.space l.record.gateAddr .read).1 = some pg ∧ (s.homeLine l.part (pa / 128)).2.2 = true) →
        (∀ p ∈ s.hostPoints l.part (pa / 128), s.throttled p = false) →
        ∃ (u : State) (z : Launch), exec (.gateRegistration l.lid) s = .next u ∧ u.launch? l.lid = some z ∧
          (z.stage = .retired ∨ z.stage = .ending 2)) ∧
      ((s.schedPage l.part l.space l.record.gateAddr .read).1 = some pg → (s.homeLine l.part (pa / 128)).2.2 = false →
        (∀ y ∈ s.entries, y.deadline = 0) → s.homeOf l.part (pa / 128) = some j → s.tableCount j < 2048 →
        (∀ p ∈ s.hostPoints l.part (pa / 128), s.throttled p = false) → (∀ y ∈ s.entries, y.key ≠ s.next) →
        (isHost pa = true → ∃ x, (s.slice j).homeTag (pa / 128) = some x) →
        (holds = true → ∃ u : State, exec (.gateRegistration l.lid) s = .next u ∧
          u.launch? l.lid = some { l with stage := .ready, readyAt := s.clock }) ∧
        (holds = false → ∃ (u : State) (x : Entry), exec (.gateRegistration l.lid) s = .next u ∧ u.entries = s.entries ++ [x] ∧
          u.launch? l.lid = some { l with stage := .gated } ∧ x.owner = .gate l.lid ∧ x.addr = pa ∧ x.cond = l.record.gateCond ∧
          x.deadline = 0 ∧ x.place = .slice j))) ∧
    (s.takenNow l = true → (∀ x ∈ s.launches, x.part = l.part → x.lid ≠ l.lid → s.takenNow x = true →
        rankLe x.rank l.rank = true → x.rank = l.rank) →
      (l.record.coresident = false → exec (.launchAdmit l.lid) s = .next (({ s with next := s.next + 1 } : State).modLaunch l.lid (fun x =>
        { x with stage := .admitted, order := s.next }))) ∧
      (l.record.coresident = true → s.couldReside l = false → ∃ (u : State) (z : Launch),
        exec (.launchAdmit l.lid) s = .next u ∧ u.launch? l.lid = some z ∧ (z.stage = .retired ∨ z.stage = .ending 3))) ∧
    ∀ (status : Nat) (pg : TlbEntry) (j : Nat) (t : Tag), l.stage = .ending status →
      (s.launchBusy l.lid = true ∨ s.leaseNow hubDie ≤ l.maxLtc → exec (.launchRetire l.lid) s = .next s) ∧
      let pa := pg.pa l.record.colophon
      (s.launchBusy l.lid = false → l.maxLtc < s.leaseNow hubDie → l.record.colophon % 64 = 0 →
        (s.schedPage l.part l.space l.record.colophon .write).1 = some pg → HeldAlone s l.part (pa / 128) j t →
        (∀ i ∈ sliceList (s.part l.part).slices, ∀ x ∈ (s.slice i).tags, x.state ≠ .replica) →
        (∀ p ∈ s.hostPoints l.part (pa / 128), s.throttled p = false) →
        ∃ u : State, exec (.launchRetire l.lid) s = .next u ∧ u.launch? l.lid = some { l with stage := .retired } ∧ u.mem = s.mem ∧
          (u.homeLine l.part (pa / 128)).1 = writeOffsets (s.homeLine l.part (pa / 128)).1
            (mapIdx' (fun i b => (pa % 128 + i, b)) (l.colophonBytes status)) ∧
          (l.record.notify = true → .interrupt false l.part l.record.vector ∈ u.outputs))) ∧
  ∀ (s : State) (o : MemOp) (image slot pair index j : Nat) (t x : Tag), s.memOp? o.id = some o → o.kind = .append image slot pair index →
    s.device.fenced = false → o.ended = false → s.storesPerformed o = true → s.firstAppend o = true →
    let passes (line : Nat) : Prop := ∀ p ∈ s.linePoints o.core o.part line, s.throttled p = false
    let here := s.homeLine o.part (image / 128)
    (∀ (g : OpGroup) (gs : List OpGroup), o.groups = g :: gs → g.performed = false → g.vals = [] → isPod image = false →
      passes (image / 128) → HeldAlone s o.part (image / 128) j t → ∃ u : State, exec (.launchAppendComplete o.id) s = .next u ∧ u.mem = s.mem ∧
        u.memOp? o.id = some { o with groups := { g with vals := words64 16 0 here.1, poison := here.2.2 } :: gs }) ∧
    (∀ (g : OpGroup) (gs : List OpGroup), o.groups = g :: gs → g.performed = false → g.vals = [] → isPod image = true →
      (g.req.isSome = true → exec (.launchAppendComplete o.id) s = .next s) ∧
      (g.req = none → (∀ p ∈ s.fetchPodPoints o.core o.part (image / 128), s.throttled p = false) → ∃ (u : State) (q : PodReq),
        exec (.launchAppendComplete o.id) s = .next u ∧ u.mem = s.mem ∧ u.podReqs = s.podReqs ++ [q] ∧ q.owner = .mem o.id (image / 128) ∧
        q.ask = .read 128 ∧ q.held = none)) ∧
    (∀ (g : OpGroup) (gs : List OpGroup), o.groups = g :: gs → (g.performed = true ∨ g.vals ≠ []) → (∃ h ∈ o.groups, h.performed = false) →
      passes (slot / 128) → slot % 128 = 0 → HeldAlone s o.part (slot / 128) j x → (s.slice j).plates.length < 32768 →
      (s.slice j).tags.length < 65536 → ∃ u : State, exec (.launchAppendComplete o.id) s = .next u ∧ u.mem = s.mem ∧
        (u.homeLine o.part (slot / 128)).1 = writeOffsets (s.homeLine o.part (slot / 128)).1
          (mapIdx' (fun i b => (i, b)) (mixWords s.draws g.vals (if isPod image then g.vals else words64 16 0 here.1))) ∧
        ∃ p, u.memOp? o.id = some p ∧ ∀ h ∈ p.groups, h.performed = true) ∧
    ((∀ g ∈ o.groups, g.performed = true) →
      let made : Prop := s.writesMade o.wave 3 o.id = true ∧ max o.completion (s.ltcOf o.wave o.launch) < s.leaseNow (dieOfCore o.core)
      (¬ made → exec (.launchAppendComplete o.id) s = .next s) ∧
      (made → passes (pair / 128) → HeldAlone s o.part (pair / 128) j t → pair % 128 + 16 ≤ 128 →
        o.part < s.parts.length → o.groupNo < (s.part o.part).vf.streams.length →
        ∃ u : State, exec (.launchAppendComplete o.id) s = .next u ∧ u.mem = s.mem ∧
          u.homeNat o.part pair 8 = (s.homeNat o.part pair 8 + 1) % 2 ^ 64 ∧
          (u.stream o.part o.groupNo).reserved = (s.stream o.part o.groupNo).reserved - 1))

/-- Placement, issue, saving and handlers (R17, R52, R54, R55, R60, R65, R66, R101, R340, R392, R395, R412 to R414). A clause issue takes
the lanes of the least issue key of the preferred ready wave, with the clause they stand at, and leaves memory as the fetch of the clause
left it; a clause that cannot be fetched traps them. A
placed block stands on the core chosen as a launch leaves it, under a handle that no live block of the partition holds. A block chosen
for saving stops issuing; at rest it is saved with everything it holds, its image in units of the save area that no other takes; restored
it stands on its core again as it was saved, and its engine operations go on there; flushed it is set back to its launch state. A handler wave forms over the lanes that await one, at the trap entry.
How saved blocks are held and what a restored block's timing starts from are the model's choices (log entries 34, 44 and 45). -/
def Obligations.PlacementAndIssue : Prop :=
  (∀ (s : State) (core quarter uid j low : Nat) (rest : List WaveRef) (w : Wave) (b : Block) (la : Launch),
    let r : WaveRef := .blk uid j
    s.issues = [] → s.candidates core quarter = r :: rest → s.wave? r = some w → s.block? uid = some b → s.launchOf r = some la →
    w.lowKey = some low → w.fairDue low = false →
    let fetch := s.fetchClause (s.coreOf r) (s.partOf r) (s.spaceOf r) la.record.codeBase (low / 16)
    let lanes := w.atKey low
    (∀ (h : Header) (words : List Nat) (t : State), fetch = (.ok (h, words), t) → low % 16 ≠ 0 ∨ w.waitMet h = true →
      ∃ (u : State) (i : Issue) (k : Block) (v : Wave), exec (.clauseIssue core quarter []) s = .next u ∧ u.issues = [i] ∧
        i.members = [(r, lanes)] ∧ i.group = [(r, lanes)] ∧ i.core = core ∧ i.quarter = quarter ∧ i.stalled = false ∧
        i.hdr = BitVec.ofNat 32 (low / 16) ∧ i.pos = low % 16 + 1 ∧ i.words = words ∧ i.count = h.count ∧ i.cls = h.cls ∧
        i.traps = h.traps ∧ i.yields = h.yields ∧ u.block? uid = some k ∧ k.issued = b.issued + 1 ∧ k.everIssued = true ∧
        u.wave? r = some v ∧ v.lanes = w.lanes ∧ u.mem = t.mem) ∧
    (∀ (f : Nat × Nat × Nat) (t : State), fetch = (.error f, t) → f.1 ≠ 0 → la.record.irdan = false → ∃ u : State,
      exec (.clauseIssue core quarter []) s = .next u ∧ u.issues = [] ∧
      ∀ l ∈ lanes, ∃ (y : Lane) (i : TrapInfo), u.lane? r l = some y ∧ y.state = .trapped ∧ y.trap = some i ∧ i.cause = f.1 ∧
        i.detail = f.2.1 ∧ i.addr = f.2.2 ∧ i.vpc = BitVec.ofNat 32 (low / 16) ∧ i.slot = low % 16)) ∧
  (∀ (s : State) (l : Launch) (core start : Nat), s.launch? l.lid = some l → s.places l = true → l.stage = .admitted →
    l.record.coresident = false → s.wakeFirst l.part l.record.priority = false → l.record.cluster = 1 → l.nextLin < l.record.blocks →
    (∀ b ∈ s.blocks, b.launch = l.lid → b.lin = l.nextLin → b.place ≠ .unplaced) →
    placeOne (s.rooms (s.part l.part).placeCells (fun _ => false)) l.record none = some (core, start) →
    ∃ (u : State) (b : Block), exec (.blockPlace l.lid l.nextLin) s = .next u ∧ u.blocks = s.blocks ++ [b] ∧ u.mem = s.mem ∧
      u.launch? l.lid = some { l with nextLin := l.nextLin + 1 } ∧
      b = { Block.atLaunch l.record s.next l.lid l.nextLin b.handle core start b.placed s.clock with waves := b.waves } ∧
      (∀ x ∈ s.blocks, x.place ≠ .unplaced → ((s.launch? x.launch).map (·.part)).getD 16 = l.part → x.handle ≠ b.handle) ∧
      b.waves.length = l.record.launchWaves.length ∧
      ∀ (i : Nat) (x y : Wave), l.record.launchWaves[i]? = some x → b.waves[i]? = some y →
        y = { x with pack := y.pack, packPos := y.packPos }) ∧
  (∀ (s : State) (b : Block) (l : Launch), s.block? b.uid = some b → s.launch? b.launch = some l → s.device.fenced = false →
    (b.treatment = some .save → b.place = .resident →
      (s.stackOpen b = false → exec (.blockSave b.uid) s = .next s) ∧
      (s.stackOpen b = true → ∃ (u : State) (k : Block), exec (.blockSave b.uid) s = .next u ∧ u.block? b.uid = some k ∧
        k.place = .saving ∧ (∀ i ∈ u.issues, ∀ m ∈ i.members, ofBlock b.uid m.1 = false) ∧ u.mem = s.mem ∧
        k = { b with place := .saving, waves := k.waves })) ∧
    (b.treatment = some .save → b.place = .saving → s.atRest b.uid = true → b.waves.all (fun w => w.lanes.all (fun x =>
        decide (x.trap = none))) = true → (∀ q < 4, ∀ v, s.wave? (.hdl b.core q) = some v → ∀ x ∈ v.lanes, x.origin.map (·.uid) ≠ some b.uid) →
      let first := (s.part l.part).psaveBase / 128
      let last := ((s.part l.part).psaveBase + 65536 * (s.part l.part).psaveSize - 1) / 128
      (∀ e ∈ s.entries, e.addr / 128 < first ∨ last < e.addr / 128) →
      ∃ (u : State) (k : Block), exec (.blockSave b.uid) s = .next u ∧ u.block? b.uid = some k ∧
        ((s.part l.part).slices = 0 → ∀ a, a / 128 < first ∨ last < a / 128 → Memory.read u.mem a = Memory.read s.mem a) ∧
        k = { b with
          place := .saved, treatment := none, elapsed := b.elapsed + (s.clock - b.since), waitSince := none, woken := k.woken
          saveUnits := (s.freeUnits l.part).take (l.record.imageBytes / 65536) } ∧
        u.launch? b.launch = some { l with saved := sat32 (l.saved + 1) } ∧
        (l.part < s.parts.length → (u.part l.part).cntSave = wrap64 ((s.part l.part).cntSave + 1))) ∧
    (∀ core start : Nat, b.place = .saved → b.woken.isSome = true → s.places l = true → s.stackOpen b = true →
      s.returnPlan b = some [(b.uid, core, start)] → ∃ (u : State) (k : Block), exec (.blockRestore b.uid) s = .next u ∧
      u.block? b.uid = some k ∧ u.mem = s.mem ∧ k = { b with
        place := .resident, core := core, startQuarter := start, placed := s.next, since := s.clock, woken := none, treatment := none,
        waitSince := none, saveUnits := [], waves := k.waves } ∧ (∀ e ∈ u.engOps, e.uid = b.uid → e.core = core) ∧ k.waves.length = b.waves.length ∧
      ∀ (i : Nat) (x y : Wave), b.waves[i]? = some x → k.waves[i]? = some y →
        y = { x with pack := y.pack, packPos := y.packPos, fairPos := 0, lanes := x.lanes.map (fun z => { z with starve := 0 }) }) ∧
    (b.treatment = some .flush → b.place = .saving → s.chaferOpen b.uid = false → s.convenedOpen b.uid = false →
      ∃ (u : State) (k : Block) (z : Launch), exec (.blockFlush b.uid) s = .next u ∧ u.block? b.uid = some k ∧
        ((∀ e ∈ s.entries, e.recs = []) → u.mem = s.mem) ∧
        k = { Block.atLaunch l.record b.uid b.launch b.lin b.handle b.core b.startQuarter b.placed s.clock with
          place := .unplaced, everIssued := b.everIssued } ∧
        u.launch? b.launch = some z ∧ z.restarted = sat32 (l.restarted + 1) ∧ (∀ w ∈ b.waves, w.ltc ≤ z.maxLtc) ∧
        (∀ e ∈ u.entries, ∀ w, e.owner ≠ .wave (.blk b.uid w) ∧ e.owner ≠ .ring (.blk b.uid w)) ∧
        (∀ e ∈ u.engOps, e.uid = b.uid → e.engine = .chafer) ∧
        (l.part < s.parts.length → (u.part l.part).cntRestart = wrap64 ((s.part l.part).cntRestart + 1)))) ∧
  ∀ (s : State) (core quarter : Nat) (a : Awaiting) (more : List Awaiting) (la : Launch) (entry : Word), s.device.fenced = false →
    s.awaitingOn core = a :: more → s.launch? a.launch = some la → la.record.entryOfTraps = some entry → quarter < 4 →
    core < s.cores.length → (s.core core).handlers.length = 4 →
    let taken := ((s.awaitingOn core).filter (fun x => x.launch == a.launch)).take 64
    (((s.core core).handlers.getD quarter none).isSome = true → exec (.handlerWaveForm core quarter) s = .next s) ∧
    (((s.core core).handlers.getD quarter none).isSome = false → ∃ (u : State) (v : Wave),
      exec (.handlerWaveForm core quarter) s = .next u ∧ u.wave? (.hdl core quarter) = some v ∧ u.mem = s.mem ∧ v.width = 64 ∧
      v.lanes.length = 64 ∧
      ∀ (i : Nat) (y : Lane), v.lanes[i]? = some y → y = { Lane.atLaunch 16 entry (if i < taken.length then .active else .helper) with
        origin := (taken[i]?).map (·.origin) })

/-- Control of a partition (R4, R39 to R45, R46, R203, R210, R211, R242, R371, R372, R429, Tables 2.1, 2.2, 2.4, 2.5, 18.2). A command of
the owner ends, is refused or is deferred with its result and its interrupt; a resize that only adds ends at once; one that would remove
what a co-resident launch pins waits in state 2 with result 5, any other begins its removals in state 1, the blocks on departing cells
pre-empted; emptied cells leave cleared; a leaving slice hands its leases to the slices that stay; a removed channel group reads zero and is translated no more. A bucket
keeps its level, clipped. A shootdown leaves no translation of its range and ends when the writes under old ones are made. PF registers store
their fields from the owner's path alone; the window registers of a VF take writes from any path (DEDUCED, log entry 42).
The moment from which a bucket register acts and what a command that ends in a conflict stores are the model's readings (log entries 41 and 49). -/
def Obligations.PartitionControl : Prop :=
  ∀ (s : State) (path : Master) (part value : Nat), part < 16 → part < s.parts.length →
    let p := s.part part
    let notify := bitOf value 10
    let vector := bitsOf value 4 6
    let sent : List Output := if notify then [.interrupt true 0 vector] else []
    let ends (ins : Instr) (q : Partition) : Prop := ∃ u : State, exec ins s = .next u ∧ u.part part = q ∧
      u.outputs = s.outputs ++ sent ∧ u.mem = s.mem ∧ ∀ k, k ≠ part → u.part k = s.part k
    let owner : Prop := s.ownerPath path = true
    (s.ownerPath path = false → ∀ (reg off : Nat), exec (.pcfgResize path part value) s = .next s ∧
      exec (.pcfgCancel path part value) s = .next s ∧ exec (.bucketWrite path part reg value) s = .next s ∧
      exec (.ppodCtlWrite path part value) s = .next s ∧ exec (.ppodFlush path part value) s = .next s ∧
      exec (.registerWrite path .pf0 off value) s = .next s) ∧
    (owner → bitsOf value 0 4 = 1 →
      (p.state ≠ 0 → ends (.pcfgResize path part value) { p with result := 4 }) ∧
      (p.state = 0 → s.pcfgConflict part = true →
        ends (.pcfgResize path part value) { p with cmdNotify := notify, cmdVector := vector, result := 1 }) ∧
      (p.state = 0 → s.pcfgConflict part = false → p.nextSlices = p.slices → setMinus p.cells p.nextCells = 0 →
        setMinus p.groups p.nextGroups = 0 → ends (.pcfgResize path part value) { p with
          cmdNotify := notify, cmdVector := vector, goal := (p.nextCells, p.nextSlices, p.nextGroups), cells := p.cells ||| p.nextCells
          groups := p.groups ||| p.nextGroups, gone := setMinus p.gone p.nextGroups, state := 0, result := 0 }) ∧
      (p.state = 0 → s.pcfgConflict part = false → setMinus p.nextSlices p.slices = 0 →
        let q : Partition := { p with
          cmdNotify := notify, cmdVector := vector, goal := (p.nextCells, p.nextSlices, p.nextGroups), cells := p.cells ||| p.nextCells
          groups := p.groups ||| p.nextGroups, gone := setMinus p.gone p.nextGroups }
        let removes : Prop := setMinus p.cells p.nextCells ≠ 0 ∨ setMinus p.slices p.nextSlices ≠ 0 ∨ setMinus p.groups p.nextGroups ≠ 0
        ((s.modPart part (fun _ => q)).pinned part = true → ends (.pcfgResize path part value) { q with state := 2, result := 5 }) ∧
        ((s.modPart part (fun _ => q)).pinned part = false → removes → (s.blocks.map (·.uid)).Nodup →
          ∃ u : State, exec (.pcfgResize path part value) s = .next u ∧ u.outputs = s.outputs ∧ u.mem = s.mem ∧
            u.part part = { q with state := 1, cntDrain := (u.part part).cntDrain } ∧
            ∀ b ∈ u.blocks, b.place = .resident → u.partOfBlock b = part → (setMinus q.cells q.goal.1).testBit (b.core / 4) = true →
              b.treatment ≠ none))) ∧
    (owner → bitsOf value 0 4 = 2 →
      (p.state = 2 → ends (.pcfgCancel path part value) { p with cmdNotify := notify, cmdVector := vector, state := 0, result := 2 }) ∧
      (p.state ≠ 2 → ends (.pcfgCancel path part value) { p with result := 3 })) ∧
    (p.state = 1 →
      let out := (membersOf 40 (setMinus p.cells p.goal.1)).filter s.cellEmpty
      let left := setMinus p.cells (maskOf out)
      ∃ u : State, exec (.cellRemoval part) s = .next u ∧ (u.part part).cells = left ∧ u.mem = s.mem ∧
        (∀ c ∈ coresOf (maskOf out), c < s.cores.length → u.core c = (s.core c).cleared) ∧
        (setMinus left p.goal.1 = 0 → setMinus p.slices p.goal.2.1 = 0 → setMinus p.groups p.goal.2.2 = 0 →
          (u.part part).state = 0 ∧ (u.part part).result = 0)) ∧
    (∀ i : Nat, p.state = 1 → (setMinus p.slices p.goal.2.1).testBit i = true → i < 64 → s.slices.length = 64 →
      let new := setMinus p.slices (2 ^ i)
      (new = 0 → s.leaseNow (dieOfSlice i) ≤ (s.slice i).lastLease → exec (.sliceRemoval part i) s = .next s) ∧
      (new ≠ 0 → ∃ u : State, exec (.sliceRemoval part i) s = .next u ∧ (u.part part).slices = new ∧
        u.slice i = { Slice.reset with bucket := (s.slice i).bucket } ∧
        ∀ k ∈ sliceList new, (s.slice i).floor ≤ (u.slice k).floor ∧
          ∀ t ∈ (s.slice i).tags, t.state ≠ .replica → s.leaseNow (dieOfSlice i) < t.lease → t.lease ≤ (u.slice k).floor)) ∧
    (∀ g : Nat, p.state = 1 → (setMinus p.groups p.goal.2.2).testBit g = true →
      (s.channelBusy part g = true → exec (.channelGroupRemoval part g) s = .next s) ∧
      (s.channelBusy part g = false → (∀ e ∈ s.entries, e.part = part → inGroup g (e.addr / 128) = false) →
        ∃ u : State, exec (.channelGroupRemoval part g) s = .next u ∧ (u.part part).groups = setMinus p.groups (2 ^ g) ∧
        (u.part part).gone.testBit g = true ∧ (∀ a, inGroup g (a / 128) = true → Memory.read u.mem a = 0) ∧
        (∀ l, inGroup g l = true → l ∉ u.poisonMem) ∧
        ∀ c ∈ coresOf p.cells, (∀ t ∈ (u.core c).tlb, c < s.cores.length → t.inGroup g = false) ∧
          ∀ x ∈ (u.core c).l1, x.part = part → c < s.cores.length → inGroup g x.line = false)) ∧
    (owner → ∃ u : State, exec (.bucketWrite path part 0x40 value) s = .next u ∧ (u.part part).bktCore = bucketFields value ∧
      u.mem = s.mem ∧ ∀ c ∈ coresOf p.cells, c < s.cores.length → s.coreOwner c = some part →
        (u.core c).bucket =
          ⟨min ((s.core c).bucket.accrue p.bktCore s.clock).level (bucketCap (bucketFields value)), max (s.core c).bucket.since s.clock⟩) ∧
    (owner → (∃ u : State, exec (.bucketWrite path part 0x48 value) s = .next u ∧ (u.part part).bktSlice = bucketFields value) ∧
      ∃ u : State, exec (.bucketWrite path part 0x50 value) s = .next u ∧ (u.part part).bktPort = bucketFields value) ∧
    (owner → s.hasAdmitted part = true → exec (.ppodCtlWrite path part value) s = .next s) ∧
    (owner → s.hasAdmitted part = false → ∃ u : State, exec (.ppodCtlWrite path part value) s = .next u ∧ u.mem = s.mem ∧
      (u.part part).podRank = bitsOf value 0 10 ∧ (u.part part).podSize = bitsOf value 16 11 ∧
      (u.part part).podEnable = (bitOf value 31 && decide (bitsOf value 0 10 < bitsOf value 16 11) && p.ownsRange p.expBase p.expSize) ∧
      u.part part = { p with podCtl := (u.part part).podCtl }) ∧
    (owner → bitOf value 0 = true →
      exec (.ppodFlush path part value) s = .next (s.modPart part (fun q => { q with podCache := [] }))) ∧
    (owner → ∀ x ∈ [(0x18, 39, 0), (0x20, 63, 0), (0x28, 63, 0), (0x38, 31, 0), (0x70, 50, 16), (0x78, 50, 16), (0xBC, 31, 0)],
      let off := 0x20000 + 0x200 * part + x.1
      ∃ u : State, exec (.registerWrite path .pf0 off value) s = .next u ∧ u.readReg .pf0 off = fieldOf value x.2.1 x.2.2 ∧
        u.mem = s.mem ∧ ∀ k, k ≠ part → u.part k = s.part k) ∧
    (s.vfWritable part = true → s.device.locked = false → ∀ x ∈ [(0x08, 63, 12), (0x28, 63, 12), (0x40, 63, 0), (0x48, 63, 0), (0x50, 63, 0),
        (0x900, 63, 0), (0x908, 63, 0)],
      ∃ u : State, exec (.registerWrite path (.vf0 part) x.1 value) s = .next u ∧
        u.readReg (.vf0 part) x.1 = fieldOf value x.2.1 x.2.2 ∧ u.mem = s.mem) ∧
    (s.vfWritable part = true →
      let v := p.vf
      let bad : Prop := bitsOf value 0 4 ≠ 1 ∨ bitsOf value 17 15 ≠ 0 ∨ bitsOf value 4 2 ≠ 0 ∨ v.sdBase % 65536 ≠ 0 ∨
        v.sdLen % 65536 ≠ 0 ∨ 2 ^ 57 < v.sdBase + v.sdLen
      let d : Shootdown := ⟨v.sdBase, v.sdLen, bitsOf value 6 4, s.next⟩
      (bad → exec (.shootdownStart part value) s = .next (s.modVF part (fun v => { v with sdResult := 1 }))) ∧
      (¬ bad → v.shootdown.isSome = true → exec (.shootdownStart part value) s = .next (s.modVF part (fun v => { v with sdResult := 2 }))) ∧
      (¬ bad → v.shootdown = none → ∃ u : State, exec (.shootdownStart part value) s = .next u ∧ (u.part part).vf.shootdown = some d ∧
        u.mem = s.mem ∧
        (∀ c t, t ∈ (u.core c).tlb ↔ t ∈ (s.core c).tlb ∧ ¬ (t.part = part ∧ t.space = d.space ∧ d.meets t.vbase (2 ^ t.sizeLog) = true)) ∧
        ∀ i t, t ∈ (u.slice i).tlb ↔ t ∈ (s.slice i).tlb ∧ ¬ (t.part = part ∧ t.space = d.space ∧ d.meets t.vbase (2 ^ t.sizeLog) = true)) ∧
      (bitOf value 0 = true → exec (.scSnap part value) s = .next (s.modVF part (fun v => { v with snap := s.snapshot part }))) ∧
      (value % 2 ^ 32 ≠ 0 →
        exec (.queueLostClear part true value) s = .next (s.modVF part (fun v => { v with fq := { v.fq with lost := 0 } })) ∧
        exec (.queueLostClear part false value) s = .next (s.modVF part (fun v => { v with eq := { v.eq with lost := 0 } })))) ∧
    ∀ d : Shootdown, p.vf.shootdown = some d →
      let open_ : Prop := (∃ o ∈ s.memOps, o.part = part ∧ s.opInShootdown d o = true) ∨ ∃ e ∈ s.engOps, e.part = part ∧ e.inShootdown d = true
      (open_ → exec (.shootdownComplete part) s = .next s) ∧
      (¬ open_ → ∃ u : State, exec (.shootdownComplete part) s = .next u ∧ (u.part part).vf.shootdown = none ∧
        (u.part part).vf.sdResult = 0 ∧ u.mem = s.mem ∧
        u.outputs = s.outputs ++ (if p.vf.sdNotify then [.interrupt false part p.vf.sdVector] else []))

/-- Posts, the pod attachment and the host link (R118, R241, R251, R335, R336, R359, R370, R373, R375, R376, R400, R401, R427, R428, R433,
R435). A post acts on the escalated lane that FR_SERIAL names and reports whether it found one; a range replay resumes every lane whose
translation fault lies in it. A peer's request that R373 does not admit is refused; one whose lines' banks hold no activation back and whose
buckets do not throttle is performed in the export window, and one that such a bank holds waits. An answer fills the request's group, a
refusal, a timeout or a port going down fails it and counts; a request held at its port's bucket is neither answered nor timed out. The host reads and writes device memory at
home, the read of a line that no slice holds counting an activation of its bank, and a snoop that takes a line from every slice waits for
their leases.
What malformed requests and accesses outside memory are answered is the model's reading (log entries 38 and 51). -/
def Obligations.PostsPodAndHost : Prop :=
  (∀ (s : State) (part : Nat), s.vfWritable part = true → part < s.parts.length →
    let v := (s.part part).vf
    let result (u : State) (n : Nat) : Prop := (u.part part).vf.frStatus = n
    (s.escalatedLane part v.frSerial = none → ∀ ins ∈ [Instr.replay part, .killLane part, .killLaunch part],
      exec ins s = .next (s.postResult part 1)) ∧
    (∀ (o : Origin) (i : TrapInfo) (w : Wave) (b : Block) (l : Launch), s.escalatedLane part v.frSerial = some (o, i) →
      s.wave? (.blk o.uid o.wave) = some w → s.block? o.uid = some b → s.launch? b.launch = some l →
      let lane (ins : Instr) (h : Lane → Lane) : Prop := ∃ (u : State) (z : Wave), exec ins s = .next u ∧ result u 0 ∧ u.mem = s.mem ∧
        u.wave? (.blk o.uid o.wave) = some z ∧ LanesMapped w z (fun k x => if k = o.lane then h x else x)
      lane (.replay part) (fun x => { x with state := .active, starve := 0, vpc := i.vpc, slot := i.slot, trap := none }) ∧
      lane (.killLane part) (fun x => { x with state := .exited, trap := none }) ∧
      (l.killing = none → l.stage = .admitted → (∀ e ∈ s.entries, e.owner = .gate b.launch → e.recs = []) → ∃ u : State, exec (.killLaunch part) s = .next u ∧ result u 0 ∧ u.mem = s.mem ∧
        u.blocks = s.blocks ∧ u.launch? b.launch = some { l with killing := some 4 })) ∧
    (2 ^ 57 ≤ v.frBase ∨ 2 ^ 57 < v.frBase + v.frLen → exec (.replayRange part) s = .next (s.postResult part 2)) ∧
    (v.frBase < 2 ^ 57 → v.frBase + v.frLen ≤ 2 ^ 57 → (s.blocks.map (·.uid)).Nodup → ∃ u : State,
      exec (.replayRange part) s = .next u ∧ result u 0 ∧ u.mem = s.mem ∧
      ∀ (uid j k n : Nat) (x : Lane) (i : TrapInfo) (b : Block), s.block? uid = some b → ((s.launch? b.launch).map (·.part)).getD 16 = part →
        s.lane? (.blk uid j) k = some x → x.state = .trapped → x.trap = some i → i.phase = .escalated n →
        u.lane? (.blk uid j) k = some (
          if i.cause = 8 ∧ v.frBase ≤ i.addr ∧ i.addr < v.frBase + v.frLen then
            { x with state := .active, starve := 0, vpc := i.vpc, slot := i.slot, trap := none }
          else x))) ∧
  (∀ (s : State) (device sender target offset : Nat) (ask : PodAsk),
    (s.admitsPeer device sender target offset ask = false →
      exec (.podRequestReceive device sender target offset ask) s = .next (s.emit (.peerRefused device))) ∧
    (s.admitsPeer device sender target offset ask = true →
      let pa := (s.part target).expBase + offset
      let line := pa / 128
      s.throttled (.port (s.podPort device line) target) = false → (∀ k ∈ runLines pa (podLen ask), s.bankHolds target k = false ∧
        ∀ p ∈ s.hostPoints target k, s.throttled p = false) →
      (∀ n, ask = .read n → exec (.podRequestReceive device sender target offset ask) s =
        .next ((s.touchRun target pa n).emit (.peerData device (s.readRun target pa n) (s.runPoisoned target pa n)))) ∧
      (∀ (bs : List Byte) (j : Nat) (t : Tag), ask = .write bs false → pa % 128 + bs.length ≤ 128 → bs.length < 128 →
        HeldAlone s target line j t → ∃ (u : State) (x : PendingWrite),
        exec (.podRequestReceive device sender target offset ask) s = .next u ∧ u.mem = s.mem ∧
        (u.homeLine target line).1 = writeOffsets (s.homeLine target line).1 (mapIdx' (fun i b => (pa % 128 + i, b)) bs) ∧
        u.pendingWrites = s.pendingWrites ++ [x] ∧ x.peer = some device ∧ x.reply = [] ∧ x.die = s.homeDie target line ∧
        x.completion = max (s.leaseNow (s.homeDie target line)) t.lease + 2)) ∧
    (s.admitsPeer device sender target offset ask = true →
      (runLines ((s.part target).expBase + offset) (podLen ask)).any (s.bankHolds target) = true →
      exec (.podRequestReceive device sender target offset ask) s = .next s)) ∧
  (∀ (s : State) (id : Nat) (answer : PodAnswer), (∀ q ∈ s.podReqs, q.id = id → q.held ≠ none) →
    exec (.podResponse id answer) s = .next s ∧ exec (.podRequestTimeout id) s = .next s) ∧
  (∀ (s : State) (q : PodReq) (o : MemOp) (line i : Nat) (g : OpGroup), s.podReqs.find? (fun x => x.id == q.id) = some q →
    q.held = none → q.owner = .mem o.id line → s.memOp? o.id = some o → o.groupOfReq q.id = some (i, g) → g.returned = false →
    q.part < s.parts.length →
    let gone (u : State) : Prop := ∀ x, x ∈ u.podReqs ↔ x ∈ s.podReqs ∧ x.id ≠ q.id
    let group (u : State) (h : OpGroup) : Prop := ∃ p, u.memOp? o.id = some p ∧ p.groups[i]? = some h
    (∀ (b : Bool) (bytes : List Byte) (poison : Bool), o.kind = .load b → ∃ u : State,
      exec (.podResponse q.id (.data bytes poison)) s = .next u ∧ gone u ∧ u.mem = s.mem ∧ group u { g with
        performed := true, poison := poison, vals := g.lanes.map (fun l =>
          let n := ofBytesLE ((bytes.drop (l.pa - g.span.1)).take l.size)
          (l.lane, if b then natOfInt (signExt n (8 * l.size)) 32 else n)) }) ∧
    (o.kind = .store → ∃ u : State, exec (.podResponse q.id .ack) s = .next u ∧ gone u ∧ u.mem = s.mem ∧
      ∀ p, u.memOp? o.id = some p → p.groups[i]? = some { g with performed := true } ∧ s.leaseNow (dieOfCore o.core) ≤ p.completion) ∧
    (∀ b : Bool, o.kind = .load b → o.groups[i]? = some g →
      let failed (u : State) : Prop := gone u ∧ u.mem = s.mem ∧ (u.part q.part).podFaults = wrap64 ((s.part q.part).podFaults + 1) ∧
        group u { g with
          performed := true, failed := some ((g.lanes.head?.map (·.va)).getD 0), vals := g.lanes.map (fun l => (l.lane, 0)) }
      (∃ u : State, exec (.podResponse q.id .refused) s = .next u ∧ failed u) ∧
      (s.leaseNow hubDie < q.sentAt + 1048576 → exec (.podRequestTimeout q.id) s = .next s) ∧
      (q.sentAt + 1048576 ≤ s.leaseNow hubDie → ∃ u : State, exec (.podRequestTimeout q.id) s = .next u ∧ failed u))) ∧
  (∀ (s : State) (port id : Nat), s.device.unpowered = false →
    (port < 16 → exec (.ualinkPortUp port) s = .next (s.modDevice (fun d => { d with portsUp := setBit d.portsUp port true }))) ∧
    (s.device.portsUp.testBit port = false → exec (.ualinkPortDown port) s = .next s) ∧
    (s.device.portsUp.testBit port = true → s.device.staging.length < 4096 → ∃ u : State, exec (.ualinkPortDown port) s = .next u ∧
      u.device.portsUp.testBit port = false ∧ (∀ q ∈ u.podReqs, q.port ≠ port) ∧
      ∃ r ∈ u.device.staging, r.unit = 232 + port ∧ r.kind = 11) ∧
    (id < 1024 → exec (.acceleratorIdAssign id) s = .next (s.modDevice (fun d => { d with accelId := id })))) ∧
  (∀ (s : State) (addr len : Nat) (bytes : List Byte), s.device.unpowered = false →
    let p := s.hostPart addr
    let line := addr / 128
    let backed (n : Nat) : Bool := isBacked addr && isBacked (addr + n - 1)
    let free : Prop := (∀ q ∈ s.hostPoints p line, s.throttled q = false) ∧ s.bankHolds p line = false
    (oneLine addr len = true →
      (s.device.locked = true → exec (.cxlMemRead addr len) s = .next (s.emit (.hostData addr [] true))) ∧
      (s.device.locked = false → backed len = false → ∃ u : State, exec (.cxlMemRead addr len) s = .next u ∧ u.mem = s.mem ∧
        u.outputs = s.outputs ++ [.hostData addr (List.replicate len 0xFF) true]) ∧
      (s.device.locked = false → backed len = true → free → exec (.cxlMemRead addr len) s =
        .next ((s.touchMemory p line).emit (.hostData addr (s.readRun p addr len) (s.runPoisoned p addr len))))) ∧
    (oneLine addr bytes.length = true →
      (s.device.locked = true → exec (.cxlMemWrite addr bytes) s = .next s) ∧
      (∀ (j : Nat) (t : Tag), s.device.locked = false → backed bytes.length = true → free → bytes.length < 128 →
        HeldAlone s p line j t → ∃ (u : State) (x : PendingWrite), exec (.cxlMemWrite addr bytes) s = .next u ∧ u.mem = s.mem ∧
        (u.homeLine p line).1 = writeOffsets (s.homeLine p line).1 (mapIdx' (fun i b => (addr % 128 + i, b)) bytes) ∧
        u.pendingWrites = s.pendingWrites ++ [x] ∧ x.peer = none ∧ x.die = s.homeDie p line ∧
        x.completion = max (s.leaseNow (s.homeDie p line)) t.lease + 2))) ∧
  ∀ (s : State) (part line : Nat) (kind : Snoop) (bytes : List (Nat × Byte)), isHost (128 * line) = true → part < 16 →
    s.device.unpowered = false →
    let waits : Prop := ∃ q < 16, ∃ i, s.homeOf q line = some i ∧ s.leaseNow (dieOfSlice i) ≤ s.leaseField q line + 2
    let unwatched : Prop := ∀ e ∈ s.entries, e.addr / 128 ≠ line
    (kind ≠ .downgrade →
      (waits → exec (.hostSnoop part line kind bytes) s = .next s) ∧
      (¬ waits → unwatched → s.hostTags line = [] →
        exec (.hostSnoop part line kind bytes) s = .next ((s.emit (.snoopAnswer line none)).hostBytes line bytes)) ∧
      (∀ (i : Nat) (t : Tag), ¬ waits → unwatched → HeldAlone s part line i t → Memory.wf s.mem = true →
        ∃ u : State, exec (.hostSnoop part line kind bytes) s = .next u ∧ (u.slice i).homeTag line = none ∧
        u.outputs = s.outputs ++ [.snoopAnswer line (if t.dirty then some (s.homeLine part line).1 else none)] ∧
        (bytes = [] → t.dirty = true → Memory.readRun u.mem (128 * line) 128 = (s.homeLine part line).1) ∧
        (bytes = [] → t.dirty = false → u.mem = s.mem))) ∧
    (∀ (i : Nat) (t : Tag), kind = .downgrade → unwatched → HeldAlone s part line i t → Memory.wf s.mem = true → ∃ u : State,
      exec (.hostSnoop part line kind bytes) s = .next u ∧ (u.slice i).homeTag line = some { t with dirty := false } ∧
      u.outputs = s.outputs ++ [.snoopAnswer line (if t.dirty then some (s.homeLine part line).1 else none)] ∧
      (t.dirty = true → Memory.readRun u.mem (128 * line) 128 = (s.homeLine part line).1))

/-- Ownership, attestation, the alarm and firmware (R429, R430, R432, R433, R434, R437, R439, R440). The device is claimed while free, handed
over by an offer that its target accepts, and free again when no heartbeat has come for 4,200,000,000 ticks. A report is asked for once at a
time and replaces the previous one; without the keys it fails. The alarm sets its bits, erases the keys, fences and locks the device and
fails every report asked for. An image that does not verify is refused; one that does is programmed, and runs at once when loaded in
recovery.
Digests, signatures and verdicts are free (log entry 26); how a lapse is seen is the model's reading (log entry 50); that a success clears the
failure bits of FW_STATUS is the model's choice (DESIGN CHOICE, log entry 52). -/
def Obligations.OwnershipAndFirmware : Prop :=
  ∀ (s : State) (path : Master) (value : Nat),
    let d := s.device
    let now := s.leaseNow hubDie
    let nonce := bitsOf value 32 32
    let owned (u : State) (o n : Nat) : Prop := u.device.owner = o ∧ u.device.nonce = n ∧ u.device.offerNonce = 0 ∧
      u.device.offerTarget = 0 ∧ u.device.beatAt = now
    (s.ownerNow ≠ 0 ∨ nonce = 0 ∨ bitsOf value 0 4 ≠ masterId path → exec (.ownClaim path value) s = .next s) ∧
    (s.awake = true → s.ownerNow = 0 → nonce ≠ 0 → bitsOf value 0 4 = masterId path →
      ∃ u : State, exec (.ownClaim path value) s = .next u ∧ owned u (masterId path) nonce) ∧
    (s.ownerPath path = true →
      (value % 2 ^ 32 = d.nonce → exec (.ownBeat path value) s = .next (s.modDevice (fun d => { d with beatAt := now }))) ∧
      (value % 2 ^ 32 ≠ d.nonce → exec (.ownBeat path value) s = .next s) ∧
      exec (.ownOffer path value) s = .next (s.modDevice (fun d => { d with offerNonce := nonce, offerTarget := bitsOf value 0 4 }))) ∧
    (s.ownerPath path = false → exec (.ownBeat path value) s = .next s ∧ exec (.ownOffer path value) s = .next s ∧
      exec (.fwLoad path) s = .next s ∧ exec (.fwUpdate path) s = .next s) ∧
    (s.ownerNow = 0 ∨ d.offerTarget ≠ masterId path ∨ value % 2 ^ 32 ≠ d.offerNonce → exec (.ownAccept path value) s = .next s) ∧
    (s.awake = true → s.ownerNow ≠ 0 → d.offerTarget = masterId path → value % 2 ^ 32 = d.offerNonce →
      ∃ u : State, exec (.ownAccept path value) s = .next u ∧ owned u (masterId path) d.offerNonce) ∧
    (d.owner = 0 ∨ now < d.beatAt + 4200000000 → exec .ownershipLapse s = .next s) ∧
    (d.owner ≠ 0 → d.beatAt + 4200000000 ≤ now → ∃ u : State, exec .ownershipLapse s = .next u ∧ owned u 0 0) ∧
    (∀ part : Nat, part < s.parts.length →
      let v := (s.part part).vf
      (s.vfWritable part = true → value % 2 ^ 32 = 1 →
        (v.attStatus ≠ 1 → exec (.attCmd part value) s = .next (s.modVF part (fun v => { v with attStatus := 1 }))) ∧
        (v.attStatus = 1 → exec (.attCmd part value) s = .next s)) ∧
      (v.attStatus = 1 → d.unpowered = false →
        (d.locked = true ∨ d.keysErased = true →
          exec (.attestationComplete part) s = .next (s.modVF part (fun v => { v with attStatus := 3 }))) ∧
        (d.locked = false → d.keysErased = false → ∃ u : State, exec (.attestationComplete part) s = .next u ∧
          (u.part part).vf.attStatus = 2 ∧ (u.part part).vf.attReport.length = 208 ∧ (u.part part).vf.attReport.take 144 = s.reportBody part ∧
          (u.part part).vf.attReport.drop 144 = bytesLE 64 (Config.sessionSign d.sessionKey (s.reportBody part)).toNat))) ∧
    (∀ sensors : Nat, d.unpowered = false →
      (sensors % 16 = 0 → exec (.securityAlarm sensors) s = .next s) ∧
      (sensors % 16 ≠ 0 → d.staging.length < 4096 → ∃ u : State, exec (.securityAlarm sensors) s = .next u ∧
        u.device.alarm = d.alarm ||| sensors % 16 ∧ u.device.keysErased = true ∧ u.device.fenced = true ∧ u.device.locked = true ∧
        (∃ r ∈ u.device.staging, r.unit = 248 ∧ r.kind = 9) ∧
        ∀ part < 16, (u.part part).vf.attStatus = if (s.part part).vf.attStatus = 1 ∧ part < s.parts.length then 3
          else (s.part part).vf.attStatus)) ∧
    (s.ownerPath path = true → d.fwBusy = 0 →
      (d.fwStatus % 4 = 1 → exec (.fwLoad path) s = .next (s.modDevice (fun d => { d with fwBusy := 1 })) ∧
        exec (.fwUpdate path) s = .next s) ∧
      (d.fwStatus % 4 ≠ 1 → exec (.fwLoad path) s = .next s ∧
        exec (.fwUpdate path) s = .next (s.modDevice (fun d => { d with fwBusy := 2 })))) ∧
    (d.unpowered = false →
      let image := s.stagedImage
      (d.fwBusy = 1 ∨ d.fwBusy = 2 →
        (Config.imageVerified image = true → exec .fwImageVerified s = .next (s.modDevice (fun d =>
          { d with fwBusy := d.fwBusy + 2, fwStatus := d.fwStatus % 4, fwFlash := Config.digest image }))) ∧
        (Config.imageVerified image = false → exec .fwImageVerified s = .next (s.modDevice (fun d =>
          { d with fwBusy := 0, fwStatus := d.fwStatus % 4 + 4 })))) ∧
      (d.fwBusy = 3 → exec .fwImageVerified s = .next (s.modDevice (fun d =>
        { d with fwBusy := 0, fwStatus := 0, fwRunning := d.fwFlash, flashBad := false, memRfm := rfmOfTables d.fwFlash }))) ∧
      (d.fwBusy = 4 → exec .fwImageVerified s = .next (s.modDevice (fun d => { d with fwBusy := 0, fwStatus := 2, flashBad := false }))))

/-- Care of the device (R2, R62, R203, R434, R436 to R438, R440 to R442). A cold reset removes every partition, leaves device memory zero and
host memory as it is, and keeps the log; a function-level reset ends the partition's launches with status 5, leaving what it owns, and
returns the function's registers to reset once they have ended. Activations, refresh commands and holds act on a bank's count as R436 says;
events are staged, and the oldest goes to flash, where a full ring loses its oldest; a second of operation counts in one bin of each
histogram, which keeps the low 4 bytes of its count; a change of data rate waits for the saves towards its stack; a change of core clock has
no effect.
Banks and activations are free (log entry 27); that a bin wraps and what becomes of the staging buffer are readings (log entries 28 and 52);
that a power failure fences the device and leaves it unpowered, and that a function-level reset gives status 5 to a launch already ending
too, is deduced (DEDUCED, log entry 53). -/
def Obligations.DeviceCare : Prop :=
  ∀ s : State, let d := s.device
    (∃ u : State, exec .coldReset s = .next u ∧ u.blocks = [] ∧ u.launches = [] ∧ u.memOps = [] ∧ u.engOps = [] ∧ u.entries = [] ∧
      u.issues = [] ∧ u.parts = State.reset.parts ∧ u.slices = State.reset.slices ∧ u.cores = State.reset.cores ∧ u.clock = 0 ∧
      (∀ a, a < 2 ^ 51 → Memory.read u.mem a = 0) ∧
      (Memory.wf s.mem = true → ∀ a, 2 ^ 51 ≤ a → Memory.read u.mem a = Memory.read s.mem a) ∧
      u.device.boots = d.boots + 1 ∧ u.device.serial = 0 ∧ u.device.owner = 0 ∧ u.device.fenced = false ∧ u.device.locked = false ∧
      u.device.log = d.log ∧ u.device.staging = d.staging ∧ u.device.units = d.units ∧ u.device.histTemp = d.histTemp ∧
      u.device.fwRunning = d.fwFlash ∧ u.device.fwStatus = (if d.flashBad then 1 else 0)) ∧
    (∃ u : State, exec .powerFail s = .next u ∧ u.mem = s.mem ∧ u.device = { d with
      unpowered := true, fenced := true, flashBad := d.flashBad || decide (3 ≤ d.fwBusy), fwBusy := 0 }) ∧
    (∀ part : Nat, part < 16 → part < s.parts.length → d.unpowered = false → (s.launches.map (·.lid)).Nodup →
      ∃ u : State, exec (.functionLevelReset part) s = .next u ∧ u.blocks = s.blocks ∧ (u.part part).vf.resetting = true ∧
        u.part part = { s.part part with vf := { (s.part part).vf with resetting := true } } ∧ (∀ k, k ≠ part → u.part k = s.part k) ∧
        ((∀ e ∈ s.entries, e.recs = []) → u.mem = s.mem) ∧
        (∀ e ∈ u.entries, e ∈ s.entries ∧ ∀ l ∈ s.launches, l.part = part → l.stage ≠ .retired → (∀ c, l.stage ≠ .ending c) →
          e.owner ≠ .gate l.lid) ∧
        u.launches = s.launches.map (fun l =>
          if l.part = part then
            match l.stage with
            | .retired => l
            | .ending _ => { l with stage := .ending 5 }
            | _ => { l with killing := some 5 }
          else l)) ∧
    (∀ part : Nat, part < s.parts.length → (s.part part).vf.resetting = true →
      ((∀ l ∈ s.launches, l.part = part → l.stage = .retired) →
        ((s.settleReset part).part part).vf = .reset ∧ (s.settleReset part).launches = s.launches) ∧
      ((∃ l ∈ s.launches, l.part = part ∧ l.stage ≠ .retired) → s.settleReset part = s)) ∧
    (∀ (b : Bank) (t n : Nat),
      (b.held = false → b.activate t n = { b with count := b.count + n, held := decide (2 * t ≤ b.count + n) }) ∧
      (b.held = true → b.activate t n = { b with waiting := b.waiting + n })) ∧
    (d.unpowered = false →
      (∀ bank : Nat,
        let b := s.bank bank
        (b.count < d.memRfm → b.held = false → exec (.rfmIssue bank) s = .next s) ∧
        (d.memRfm ≤ b.count ∨ b.held = true → ∃ u : State, exec (.rfmIssue bank) s = .next u ∧ u.mem = s.mem ∧
          (cellsWf .idle d.banks = true →
            u.bank bank = Bank.activate ⟨b.count - d.memRfm, false, false, 0⟩ d.memRfm b.waiting)) ∧
        (∃ u : State, exec (.periodicRefresh bank) s = .next u ∧ u.mem = s.mem ∧
          (cellsWf .idle d.banks = true → u.bank bank = { b with count := b.count - d.memRfm / 4 })) ∧
        (b.held = false ∨ b.logged = true → exec (.activationHold bank) s = .next s) ∧
        (b.held = true → b.logged = false → d.staging.length < 4096 → (∀ k < 16, (s.part k).groups = 0) →
          ∃ u : State, exec (.activationHold bank) s = .next u ∧ u.mem = s.mem ∧
          (cellsWf .idle d.banks = true → u.bank bank = { b with logged := true }) ∧
          ∃ r ∈ u.device.staging, r.unit = 224 + bank % 8 ∧ r.kind = 6)) ∧
      (d.staging = [] → exec .logRecordProgram s = .next s) ∧
      (∀ r rs, d.staging = r :: rs → exec .logRecordProgram s = .next (s.modDevice (fun d =>
        { d with
          staging := rs, cicWritten := wrap64 (d.cicWritten + 1)
          log := (if d.log.length < 1966080 then d.log else d.log.drop 1) ++ [r] }))) ∧
      (∀ unit x y : Nat, unit < 249 →
        (d.staging.length < 4096 → ∀ k ∈ [(Instr.temperatureThreshold unit x, 7), (.voltageDroop unit x, 8)],
          ∃ (u : State) (r : LogRecord), exec k.1 s = .next u ∧ u.device.staging = d.staging ++ [r] ∧ r.unit = unit ∧ r.kind = k.2 ∧
            r.value = x % 2 ^ 32 ∧ r.time = s.leaseNow hubDie ∧ r.serial = s.takeSerial.1 ∧ u.mem = s.mem) ∧
        ∃ u : State, exec (.lifetimeHistogramUpdate unit x y) s = .next u ∧ u.mem = s.mem ∧
          (cellsWf 0 d.histTemp = true → ∀ n, cellGet 0 u.device.histTemp n = if n = 16 * unit + temperatureBin x
            then (cellGet 0 d.histTemp n + 1) % 2 ^ 32 else cellGet 0 d.histTemp n) ∧
          (cellsWf 0 d.histDroop = true → ∀ n, cellGet 0 u.device.histDroop n = if n = 16 * unit + droopBin y
            then (cellGet 0 d.histDroop n + 1) % 2 ^ 32 else cellGet 0 d.histDroop n))) ∧
    (∀ stack : Nat, stack < 8 → exec (.dataRateChange stack) s = .next (s.modDevice (fun d =>
      { d with ratePending := setBit d.ratePending stack (decide (0 < s.savesTo stack)) }))) ∧
    ∀ core : Nat, exec (.coreClockChange core) s = .next s
end

