-- ==== Sys2Proof/Laws/Lists.lean ====
section
/-! SUPPORT. What the list and bit helpers do, entry by entry and bit by bit. -/

namespace Sys2Proof.Machine

@[simp] theorem length_setAt {α : Type} (l : List α) (i : Nat) (x : α) : (setAt l i x).length = l.length := by
  induction l generalizing i with
  | nil => cases i <;> rfl
  | cons h t ih => cases i <;> simp [setAt, ih]

@[simp] theorem length_modifyAt {α : Type} (l : List α) (i : Nat) (f : α → α) : (modifyAt l i f).length = l.length := by
  induction l generalizing i with
  | nil => cases i <;> rfl
  | cons h t ih => cases i <;> simp [modifyAt, ih]

theorem getElem?_setAt {α : Type} (l : List α) (i j : Nat) (x : α) :
    (setAt l i x)[j]? = if i = j then (l[j]?).map (fun _ => x) else l[j]? := by
  induction l generalizing i j with
  | nil => cases i <;> simp [setAt]
  | cons h t ih =>
    cases i <;> cases j <;> simp [setAt, ih]

theorem getElem?_modifyAt {α : Type} (l : List α) (i j : Nat) (f : α → α) :
    (modifyAt l i f)[j]? = if i = j then (l[j]?).map f else l[j]? := by
  induction l generalizing i j with
  | nil => cases i <;> simp [modifyAt]
  | cons h t ih =>
    cases i <;> cases j <;> simp [modifyAt, ih]

theorem getElem?_mapIdxFrom {α β : Type} (f : Nat → α → β) (n : Nat) (l : List α) (j : Nat) :
    (mapIdxFrom f n l)[j]? = (l[j]?).map (f (n + j)) := by
  induction l generalizing n j with
  | nil => simp [mapIdxFrom]
  | cons h t ih =>
    cases j with
    | zero => simp [mapIdxFrom]
    | succ j => simp [mapIdxFrom, ih, Nat.add_assoc, Nat.add_comm 1 j]

theorem getElem?_mapIdx' {α β : Type} (f : Nat → α → β) (l : List α) (j : Nat) :
    (mapIdx' f l)[j]? = (l[j]?).map (f j) := by
  simp [mapIdx', getElem?_mapIdxFrom]

@[simp] theorem length_mapIdxFrom {α β : Type} (f : Nat → α → β) (n : Nat) (l : List α) :
    (mapIdxFrom f n l).length = l.length := by
  induction l generalizing n with
  | nil => rfl
  | cons h t ih => simp [mapIdxFrom, ih]

@[simp] theorem length_mapIdx' {α β : Type} (f : Nat → α → β) (l : List α) : (mapIdx' f l).length = l.length := by
  simp [mapIdx']

theorem getD_setAt {α : Type} (l : List α) (i j : Nat) (x d : α) :
    (setAt l i x).getD j d = if i = j ∧ j < l.length then x else l.getD j d := by
  simp only [List.getD_eq_getElem?_getD, getElem?_setAt]
  by_cases h : i = j <;> by_cases k : j < l.length <;> simp [h, k]

@[simp] theorem mem_rangeFrom (lo n k : Nat) : k ∈ rangeFrom lo n ↔ lo ≤ k ∧ k < lo + n := by
  induction n generalizing lo with
  | zero => simp [rangeFrom]
  | succ n ih => simp only [rangeFrom, List.mem_cons, ih]; omega

@[simp] theorem mem_upTo (n k : Nat) : k ∈ upTo n ↔ k < n := by simp [upTo]

/-- A bit of a number with a field replaced: the field's own bits, the rest as they were. -/
theorem testBit_setBits (w lo n x j : Nat) :
    (setBits w lo n x).testBit j = if lo ≤ j ∧ j < lo + n then x.testBit (j - lo) else w.testBit j := by
  have key : setBits w lo n x = 2 ^ lo * (2 ^ n * (w / 2 ^ (lo + n)) + x % 2 ^ n) + w % 2 ^ lo := by
    simp only [setBits, pow_add]; ring
  rw [key, Nat.testBit_two_pow_mul_add _ (Nat.mod_lt _ (by positivity)),
    Nat.testBit_two_pow_mul_add _ (Nat.mod_lt _ (by positivity))]
  by_cases h1 : j < lo
  · have : ¬ (lo ≤ j ∧ j < lo + n) := by omega
    simp [h1, this, Nat.testBit_mod_two_pow]
  · by_cases h2 : j - lo < n
    · have : lo ≤ j ∧ j < lo + n := by omega
      simp [h1, h2, this, Nat.testBit_mod_two_pow]
    · have : j - lo - n + (lo + n) = j := by omega
      simp only [h1, h2, if_false, Nat.testBit_div_two_pow, this]
      have : ¬ (lo ≤ j ∧ j < lo + n) := by omega
      simp [this]

theorem testBit_setBit (n i j : Nat) (b : Bool) : (setBit n i b).testBit j = if j = i then b else n.testBit j := by
  rw [setBit, testBit_setBits]
  by_cases h : j = i
  · subst h; cases b <;> simp
  · have : ¬ (i ≤ j ∧ j < i + 1) := by omega
    rw [if_neg this, if_neg h]

end Sys2Proof.Machine
end

