-- ==== Sys2Proof/Laws/State.lean ====
section
/-! SUPPORT. One lemma per field per update of the state, of a wave and of a lane: what each update leaves in each field. -/

namespace Sys2Proof.Machine

@[simp] theorem State.modBlock_clock (s : State) (u : Nat) (f : Block → Block) : (s.modBlock u f).clock = s.clock := rfl
@[simp] theorem State.modBlock_mem (s : State) (u : Nat) (f : Block → Block) : (s.modBlock u f).mem = s.mem := rfl
@[simp] theorem State.modBlock_side (s : State) (u : Nat) (f : Block → Block) : (s.modBlock u f).side = s.side := rfl
@[simp] theorem State.modBlock_poisonMem (s : State) (u : Nat) (f : Block → Block) : (s.modBlock u f).poisonMem = s.poisonMem := rfl
@[simp] theorem State.modBlock_parts (s : State) (u : Nat) (f : Block → Block) : (s.modBlock u f).parts = s.parts := rfl
@[simp] theorem State.modBlock_slices (s : State) (u : Nat) (f : Block → Block) : (s.modBlock u f).slices = s.slices := rfl
@[simp] theorem State.modBlock_cores (s : State) (u : Nat) (f : Block → Block) : (s.modBlock u f).cores = s.cores := rfl
@[simp] theorem State.modBlock_launches (s : State) (u : Nat) (f : Block → Block) : (s.modBlock u f).launches = s.launches := rfl
@[simp] theorem State.modBlock_blocks (s : State) (u : Nat) (f : Block → Block) : (s.modBlock u f).blocks = s.blocks.map (fun b => if b.uid == u then f b else b) := rfl
@[simp] theorem State.modBlock_remains (s : State) (u : Nat) (f : Block → Block) : (s.modBlock u f).remains = s.remains := rfl
@[simp] theorem State.modBlock_issues (s : State) (u : Nat) (f : Block → Block) : (s.modBlock u f).issues = s.issues := rfl
@[simp] theorem State.modBlock_memOps (s : State) (u : Nat) (f : Block → Block) : (s.modBlock u f).memOps = s.memOps := rfl
@[simp] theorem State.modBlock_engOps (s : State) (u : Nat) (f : Block → Block) : (s.modBlock u f).engOps = s.engOps := rfl
@[simp] theorem State.modBlock_entries (s : State) (u : Nat) (f : Block → Block) : (s.modBlock u f).entries = s.entries := rfl
@[simp] theorem State.modBlock_podReqs (s : State) (u : Nat) (f : Block → Block) : (s.modBlock u f).podReqs = s.podReqs := rfl
@[simp] theorem State.modBlock_pendingWrites (s : State) (u : Nat) (f : Block → Block) : (s.modBlock u f).pendingWrites = s.pendingWrites := rfl
@[simp] theorem State.modBlock_device (s : State) (u : Nat) (f : Block → Block) : (s.modBlock u f).device = s.device := rfl
@[simp] theorem State.modBlock_outputs (s : State) (u : Nat) (f : Block → Block) : (s.modBlock u f).outputs = s.outputs := rfl
@[simp] theorem State.modBlock_turns (s : State) (u : Nat) (f : Block → Block) : (s.modBlock u f).turns = s.turns := rfl
@[simp] theorem State.modBlock_focus (s : State) (u : Nat) (f : Block → Block) : (s.modBlock u f).focus = s.focus := rfl
@[simp] theorem State.modBlock_cur (s : State) (u : Nat) (f : Block → Block) : (s.modBlock u f).cur = s.cur := rfl
@[simp] theorem State.modBlock_stay (s : State) (u : Nat) (f : Block → Block) : (s.modBlock u f).stay = s.stay := rfl
@[simp] theorem State.modBlock_next (s : State) (u : Nat) (f : Block → Block) : (s.modBlock u f).next = s.next := rfl
@[simp] theorem State.modBlock_draws (s : State) (u : Nat) (f : Block → Block) : (s.modBlock u f).draws = s.draws := rfl

@[simp] theorem State.modLaunch_clock (s : State) (n : Nat) (f : Launch → Launch) : (s.modLaunch n f).clock = s.clock := rfl
@[simp] theorem State.modLaunch_mem (s : State) (n : Nat) (f : Launch → Launch) : (s.modLaunch n f).mem = s.mem := rfl
@[simp] theorem State.modLaunch_side (s : State) (n : Nat) (f : Launch → Launch) : (s.modLaunch n f).side = s.side := rfl
@[simp] theorem State.modLaunch_poisonMem (s : State) (n : Nat) (f : Launch → Launch) : (s.modLaunch n f).poisonMem = s.poisonMem := rfl
@[simp] theorem State.modLaunch_parts (s : State) (n : Nat) (f : Launch → Launch) : (s.modLaunch n f).parts = s.parts := rfl
@[simp] theorem State.modLaunch_slices (s : State) (n : Nat) (f : Launch → Launch) : (s.modLaunch n f).slices = s.slices := rfl
@[simp] theorem State.modLaunch_cores (s : State) (n : Nat) (f : Launch → Launch) : (s.modLaunch n f).cores = s.cores := rfl
@[simp] theorem State.modLaunch_launches (s : State) (n : Nat) (f : Launch → Launch) : (s.modLaunch n f).launches = s.launches.map (fun l => if l.lid == n then f l else l) := rfl
@[simp] theorem State.modLaunch_blocks (s : State) (n : Nat) (f : Launch → Launch) : (s.modLaunch n f).blocks = s.blocks := rfl
@[simp] theorem State.modLaunch_remains (s : State) (n : Nat) (f : Launch → Launch) : (s.modLaunch n f).remains = s.remains := rfl
@[simp] theorem State.modLaunch_issues (s : State) (n : Nat) (f : Launch → Launch) : (s.modLaunch n f).issues = s.issues := rfl
@[simp] theorem State.modLaunch_memOps (s : State) (n : Nat) (f : Launch → Launch) : (s.modLaunch n f).memOps = s.memOps := rfl
@[simp] theorem State.modLaunch_engOps (s : State) (n : Nat) (f : Launch → Launch) : (s.modLaunch n f).engOps = s.engOps := rfl
@[simp] theorem State.modLaunch_entries (s : State) (n : Nat) (f : Launch → Launch) : (s.modLaunch n f).entries = s.entries := rfl
@[simp] theorem State.modLaunch_podReqs (s : State) (n : Nat) (f : Launch → Launch) : (s.modLaunch n f).podReqs = s.podReqs := rfl
@[simp] theorem State.modLaunch_pendingWrites (s : State) (n : Nat) (f : Launch → Launch) : (s.modLaunch n f).pendingWrites = s.pendingWrites := rfl
@[simp] theorem State.modLaunch_device (s : State) (n : Nat) (f : Launch → Launch) : (s.modLaunch n f).device = s.device := rfl
@[simp] theorem State.modLaunch_outputs (s : State) (n : Nat) (f : Launch → Launch) : (s.modLaunch n f).outputs = s.outputs := rfl
@[simp] theorem State.modLaunch_turns (s : State) (n : Nat) (f : Launch → Launch) : (s.modLaunch n f).turns = s.turns := rfl
@[simp] theorem State.modLaunch_focus (s : State) (n : Nat) (f : Launch → Launch) : (s.modLaunch n f).focus = s.focus := rfl
@[simp] theorem State.modLaunch_cur (s : State) (n : Nat) (f : Launch → Launch) : (s.modLaunch n f).cur = s.cur := rfl
@[simp] theorem State.modLaunch_stay (s : State) (n : Nat) (f : Launch → Launch) : (s.modLaunch n f).stay = s.stay := rfl
@[simp] theorem State.modLaunch_next (s : State) (n : Nat) (f : Launch → Launch) : (s.modLaunch n f).next = s.next := rfl
@[simp] theorem State.modLaunch_draws (s : State) (n : Nat) (f : Launch → Launch) : (s.modLaunch n f).draws = s.draws := rfl

@[simp] theorem State.modPart_clock (s : State) (p : Nat) (f : Partition → Partition) : (s.modPart p f).clock = s.clock := rfl
@[simp] theorem State.modPart_mem (s : State) (p : Nat) (f : Partition → Partition) : (s.modPart p f).mem = s.mem := rfl
@[simp] theorem State.modPart_side (s : State) (p : Nat) (f : Partition → Partition) : (s.modPart p f).side = s.side := rfl
@[simp] theorem State.modPart_poisonMem (s : State) (p : Nat) (f : Partition → Partition) : (s.modPart p f).poisonMem = s.poisonMem := rfl
@[simp] theorem State.modPart_parts (s : State) (p : Nat) (f : Partition → Partition) : (s.modPart p f).parts = modifyAt s.parts p f := rfl
@[simp] theorem State.modPart_slices (s : State) (p : Nat) (f : Partition → Partition) : (s.modPart p f).slices = s.slices := rfl
@[simp] theorem State.modPart_cores (s : State) (p : Nat) (f : Partition → Partition) : (s.modPart p f).cores = s.cores := rfl
@[simp] theorem State.modPart_launches (s : State) (p : Nat) (f : Partition → Partition) : (s.modPart p f).launches = s.launches := rfl
@[simp] theorem State.modPart_blocks (s : State) (p : Nat) (f : Partition → Partition) : (s.modPart p f).blocks = s.blocks := rfl
@[simp] theorem State.modPart_remains (s : State) (p : Nat) (f : Partition → Partition) : (s.modPart p f).remains = s.remains := rfl
@[simp] theorem State.modPart_issues (s : State) (p : Nat) (f : Partition → Partition) : (s.modPart p f).issues = s.issues := rfl
@[simp] theorem State.modPart_memOps (s : State) (p : Nat) (f : Partition → Partition) : (s.modPart p f).memOps = s.memOps := rfl
@[simp] theorem State.modPart_engOps (s : State) (p : Nat) (f : Partition → Partition) : (s.modPart p f).engOps = s.engOps := rfl
@[simp] theorem State.modPart_entries (s : State) (p : Nat) (f : Partition → Partition) : (s.modPart p f).entries = s.entries := rfl
@[simp] theorem State.modPart_podReqs (s : State) (p : Nat) (f : Partition → Partition) : (s.modPart p f).podReqs = s.podReqs := rfl
@[simp] theorem State.modPart_pendingWrites (s : State) (p : Nat) (f : Partition → Partition) : (s.modPart p f).pendingWrites = s.pendingWrites := rfl
@[simp] theorem State.modPart_device (s : State) (p : Nat) (f : Partition → Partition) : (s.modPart p f).device = s.device := rfl
@[simp] theorem State.modPart_outputs (s : State) (p : Nat) (f : Partition → Partition) : (s.modPart p f).outputs = s.outputs := rfl
@[simp] theorem State.modPart_turns (s : State) (p : Nat) (f : Partition → Partition) : (s.modPart p f).turns = s.turns := rfl
@[simp] theorem State.modPart_focus (s : State) (p : Nat) (f : Partition → Partition) : (s.modPart p f).focus = s.focus := rfl
@[simp] theorem State.modPart_cur (s : State) (p : Nat) (f : Partition → Partition) : (s.modPart p f).cur = s.cur := rfl
@[simp] theorem State.modPart_stay (s : State) (p : Nat) (f : Partition → Partition) : (s.modPart p f).stay = s.stay := rfl
@[simp] theorem State.modPart_next (s : State) (p : Nat) (f : Partition → Partition) : (s.modPart p f).next = s.next := rfl
@[simp] theorem State.modPart_draws (s : State) (p : Nat) (f : Partition → Partition) : (s.modPart p f).draws = s.draws := rfl

@[simp] theorem State.modVF_clock (s : State) (p : Nat) (f : VF → VF) : (s.modVF p f).clock = s.clock := rfl
@[simp] theorem State.modVF_mem (s : State) (p : Nat) (f : VF → VF) : (s.modVF p f).mem = s.mem := rfl
@[simp] theorem State.modVF_side (s : State) (p : Nat) (f : VF → VF) : (s.modVF p f).side = s.side := rfl
@[simp] theorem State.modVF_poisonMem (s : State) (p : Nat) (f : VF → VF) : (s.modVF p f).poisonMem = s.poisonMem := rfl
@[simp] theorem State.modVF_parts (s : State) (p : Nat) (f : VF → VF) : (s.modVF p f).parts = modifyAt s.parts p (fun q => { q with vf := f q.vf }) := rfl
@[simp] theorem State.modVF_slices (s : State) (p : Nat) (f : VF → VF) : (s.modVF p f).slices = s.slices := rfl
@[simp] theorem State.modVF_cores (s : State) (p : Nat) (f : VF → VF) : (s.modVF p f).cores = s.cores := rfl
@[simp] theorem State.modVF_launches (s : State) (p : Nat) (f : VF → VF) : (s.modVF p f).launches = s.launches := rfl
@[simp] theorem State.modVF_blocks (s : State) (p : Nat) (f : VF → VF) : (s.modVF p f).blocks = s.blocks := rfl
@[simp] theorem State.modVF_remains (s : State) (p : Nat) (f : VF → VF) : (s.modVF p f).remains = s.remains := rfl
@[simp] theorem State.modVF_issues (s : State) (p : Nat) (f : VF → VF) : (s.modVF p f).issues = s.issues := rfl
@[simp] theorem State.modVF_memOps (s : State) (p : Nat) (f : VF → VF) : (s.modVF p f).memOps = s.memOps := rfl
@[simp] theorem State.modVF_engOps (s : State) (p : Nat) (f : VF → VF) : (s.modVF p f).engOps = s.engOps := rfl
@[simp] theorem State.modVF_entries (s : State) (p : Nat) (f : VF → VF) : (s.modVF p f).entries = s.entries := rfl
@[simp] theorem State.modVF_podReqs (s : State) (p : Nat) (f : VF → VF) : (s.modVF p f).podReqs = s.podReqs := rfl
@[simp] theorem State.modVF_pendingWrites (s : State) (p : Nat) (f : VF → VF) : (s.modVF p f).pendingWrites = s.pendingWrites := rfl
@[simp] theorem State.modVF_device (s : State) (p : Nat) (f : VF → VF) : (s.modVF p f).device = s.device := rfl
@[simp] theorem State.modVF_outputs (s : State) (p : Nat) (f : VF → VF) : (s.modVF p f).outputs = s.outputs := rfl
@[simp] theorem State.modVF_turns (s : State) (p : Nat) (f : VF → VF) : (s.modVF p f).turns = s.turns := rfl
@[simp] theorem State.modVF_focus (s : State) (p : Nat) (f : VF → VF) : (s.modVF p f).focus = s.focus := rfl
@[simp] theorem State.modVF_cur (s : State) (p : Nat) (f : VF → VF) : (s.modVF p f).cur = s.cur := rfl
@[simp] theorem State.modVF_stay (s : State) (p : Nat) (f : VF → VF) : (s.modVF p f).stay = s.stay := rfl
@[simp] theorem State.modVF_next (s : State) (p : Nat) (f : VF → VF) : (s.modVF p f).next = s.next := rfl
@[simp] theorem State.modVF_draws (s : State) (p : Nat) (f : VF → VF) : (s.modVF p f).draws = s.draws := rfl

@[simp] theorem State.modCore_clock (s : State) (c : Nat) (f : Core → Core) : (s.modCore c f).clock = s.clock := rfl
@[simp] theorem State.modCore_mem (s : State) (c : Nat) (f : Core → Core) : (s.modCore c f).mem = s.mem := rfl
@[simp] theorem State.modCore_side (s : State) (c : Nat) (f : Core → Core) : (s.modCore c f).side = s.side := rfl
@[simp] theorem State.modCore_poisonMem (s : State) (c : Nat) (f : Core → Core) : (s.modCore c f).poisonMem = s.poisonMem := rfl
@[simp] theorem State.modCore_parts (s : State) (c : Nat) (f : Core → Core) : (s.modCore c f).parts = s.parts := rfl
@[simp] theorem State.modCore_slices (s : State) (c : Nat) (f : Core → Core) : (s.modCore c f).slices = s.slices := rfl
@[simp] theorem State.modCore_cores (s : State) (c : Nat) (f : Core → Core) : (s.modCore c f).cores = modifyAt s.cores c f := rfl
@[simp] theorem State.modCore_launches (s : State) (c : Nat) (f : Core → Core) : (s.modCore c f).launches = s.launches := rfl
@[simp] theorem State.modCore_blocks (s : State) (c : Nat) (f : Core → Core) : (s.modCore c f).blocks = s.blocks := rfl
@[simp] theorem State.modCore_remains (s : State) (c : Nat) (f : Core → Core) : (s.modCore c f).remains = s.remains := rfl
@[simp] theorem State.modCore_issues (s : State) (c : Nat) (f : Core → Core) : (s.modCore c f).issues = s.issues := rfl
@[simp] theorem State.modCore_memOps (s : State) (c : Nat) (f : Core → Core) : (s.modCore c f).memOps = s.memOps := rfl
@[simp] theorem State.modCore_engOps (s : State) (c : Nat) (f : Core → Core) : (s.modCore c f).engOps = s.engOps := rfl
@[simp] theorem State.modCore_entries (s : State) (c : Nat) (f : Core → Core) : (s.modCore c f).entries = s.entries := rfl
@[simp] theorem State.modCore_podReqs (s : State) (c : Nat) (f : Core → Core) : (s.modCore c f).podReqs = s.podReqs := rfl
@[simp] theorem State.modCore_pendingWrites (s : State) (c : Nat) (f : Core → Core) : (s.modCore c f).pendingWrites = s.pendingWrites := rfl
@[simp] theorem State.modCore_device (s : State) (c : Nat) (f : Core → Core) : (s.modCore c f).device = s.device := rfl
@[simp] theorem State.modCore_outputs (s : State) (c : Nat) (f : Core → Core) : (s.modCore c f).outputs = s.outputs := rfl
@[simp] theorem State.modCore_turns (s : State) (c : Nat) (f : Core → Core) : (s.modCore c f).turns = s.turns := rfl
@[simp] theorem State.modCore_focus (s : State) (c : Nat) (f : Core → Core) : (s.modCore c f).focus = s.focus := rfl
@[simp] theorem State.modCore_cur (s : State) (c : Nat) (f : Core → Core) : (s.modCore c f).cur = s.cur := rfl
@[simp] theorem State.modCore_stay (s : State) (c : Nat) (f : Core → Core) : (s.modCore c f).stay = s.stay := rfl
@[simp] theorem State.modCore_next (s : State) (c : Nat) (f : Core → Core) : (s.modCore c f).next = s.next := rfl
@[simp] theorem State.modCore_draws (s : State) (c : Nat) (f : Core → Core) : (s.modCore c f).draws = s.draws := rfl

@[simp] theorem State.modSlice_clock (s : State) (i : Nat) (f : Slice → Slice) : (s.modSlice i f).clock = s.clock := rfl
@[simp] theorem State.modSlice_mem (s : State) (i : Nat) (f : Slice → Slice) : (s.modSlice i f).mem = s.mem := rfl
@[simp] theorem State.modSlice_side (s : State) (i : Nat) (f : Slice → Slice) : (s.modSlice i f).side = s.side := rfl
@[simp] theorem State.modSlice_poisonMem (s : State) (i : Nat) (f : Slice → Slice) : (s.modSlice i f).poisonMem = s.poisonMem := rfl
@[simp] theorem State.modSlice_parts (s : State) (i : Nat) (f : Slice → Slice) : (s.modSlice i f).parts = s.parts := rfl
@[simp] theorem State.modSlice_slices (s : State) (i : Nat) (f : Slice → Slice) : (s.modSlice i f).slices = modifyAt s.slices i f := rfl
@[simp] theorem State.modSlice_cores (s : State) (i : Nat) (f : Slice → Slice) : (s.modSlice i f).cores = s.cores := rfl
@[simp] theorem State.modSlice_launches (s : State) (i : Nat) (f : Slice → Slice) : (s.modSlice i f).launches = s.launches := rfl
@[simp] theorem State.modSlice_blocks (s : State) (i : Nat) (f : Slice → Slice) : (s.modSlice i f).blocks = s.blocks := rfl
@[simp] theorem State.modSlice_remains (s : State) (i : Nat) (f : Slice → Slice) : (s.modSlice i f).remains = s.remains := rfl
@[simp] theorem State.modSlice_issues (s : State) (i : Nat) (f : Slice → Slice) : (s.modSlice i f).issues = s.issues := rfl
@[simp] theorem State.modSlice_memOps (s : State) (i : Nat) (f : Slice → Slice) : (s.modSlice i f).memOps = s.memOps := rfl
@[simp] theorem State.modSlice_engOps (s : State) (i : Nat) (f : Slice → Slice) : (s.modSlice i f).engOps = s.engOps := rfl
@[simp] theorem State.modSlice_entries (s : State) (i : Nat) (f : Slice → Slice) : (s.modSlice i f).entries = s.entries := rfl
@[simp] theorem State.modSlice_podReqs (s : State) (i : Nat) (f : Slice → Slice) : (s.modSlice i f).podReqs = s.podReqs := rfl
@[simp] theorem State.modSlice_pendingWrites (s : State) (i : Nat) (f : Slice → Slice) : (s.modSlice i f).pendingWrites = s.pendingWrites := rfl
@[simp] theorem State.modSlice_device (s : State) (i : Nat) (f : Slice → Slice) : (s.modSlice i f).device = s.device := rfl
@[simp] theorem State.modSlice_outputs (s : State) (i : Nat) (f : Slice → Slice) : (s.modSlice i f).outputs = s.outputs := rfl
@[simp] theorem State.modSlice_turns (s : State) (i : Nat) (f : Slice → Slice) : (s.modSlice i f).turns = s.turns := rfl
@[simp] theorem State.modSlice_focus (s : State) (i : Nat) (f : Slice → Slice) : (s.modSlice i f).focus = s.focus := rfl
@[simp] theorem State.modSlice_cur (s : State) (i : Nat) (f : Slice → Slice) : (s.modSlice i f).cur = s.cur := rfl
@[simp] theorem State.modSlice_stay (s : State) (i : Nat) (f : Slice → Slice) : (s.modSlice i f).stay = s.stay := rfl
@[simp] theorem State.modSlice_next (s : State) (i : Nat) (f : Slice → Slice) : (s.modSlice i f).next = s.next := rfl
@[simp] theorem State.modSlice_draws (s : State) (i : Nat) (f : Slice → Slice) : (s.modSlice i f).draws = s.draws := rfl

@[simp] theorem State.modDevice_clock (s : State) (f : Device → Device) : (s.modDevice f).clock = s.clock := rfl
@[simp] theorem State.modDevice_mem (s : State) (f : Device → Device) : (s.modDevice f).mem = s.mem := rfl
@[simp] theorem State.modDevice_side (s : State) (f : Device → Device) : (s.modDevice f).side = s.side := rfl
@[simp] theorem State.modDevice_poisonMem (s : State) (f : Device → Device) : (s.modDevice f).poisonMem = s.poisonMem := rfl
@[simp] theorem State.modDevice_parts (s : State) (f : Device → Device) : (s.modDevice f).parts = s.parts := rfl
@[simp] theorem State.modDevice_slices (s : State) (f : Device → Device) : (s.modDevice f).slices = s.slices := rfl
@[simp] theorem State.modDevice_cores (s : State) (f : Device → Device) : (s.modDevice f).cores = s.cores := rfl
@[simp] theorem State.modDevice_launches (s : State) (f : Device → Device) : (s.modDevice f).launches = s.launches := rfl
@[simp] theorem State.modDevice_blocks (s : State) (f : Device → Device) : (s.modDevice f).blocks = s.blocks := rfl
@[simp] theorem State.modDevice_remains (s : State) (f : Device → Device) : (s.modDevice f).remains = s.remains := rfl
@[simp] theorem State.modDevice_issues (s : State) (f : Device → Device) : (s.modDevice f).issues = s.issues := rfl
@[simp] theorem State.modDevice_memOps (s : State) (f : Device → Device) : (s.modDevice f).memOps = s.memOps := rfl
@[simp] theorem State.modDevice_engOps (s : State) (f : Device → Device) : (s.modDevice f).engOps = s.engOps := rfl
@[simp] theorem State.modDevice_entries (s : State) (f : Device → Device) : (s.modDevice f).entries = s.entries := rfl
@[simp] theorem State.modDevice_podReqs (s : State) (f : Device → Device) : (s.modDevice f).podReqs = s.podReqs := rfl
@[simp] theorem State.modDevice_pendingWrites (s : State) (f : Device → Device) : (s.modDevice f).pendingWrites = s.pendingWrites := rfl
@[simp] theorem State.modDevice_device (s : State) (f : Device → Device) : (s.modDevice f).device = f s.device := rfl
@[simp] theorem State.modDevice_outputs (s : State) (f : Device → Device) : (s.modDevice f).outputs = s.outputs := rfl
@[simp] theorem State.modDevice_turns (s : State) (f : Device → Device) : (s.modDevice f).turns = s.turns := rfl
@[simp] theorem State.modDevice_focus (s : State) (f : Device → Device) : (s.modDevice f).focus = s.focus := rfl
@[simp] theorem State.modDevice_cur (s : State) (f : Device → Device) : (s.modDevice f).cur = s.cur := rfl
@[simp] theorem State.modDevice_stay (s : State) (f : Device → Device) : (s.modDevice f).stay = s.stay := rfl
@[simp] theorem State.modDevice_next (s : State) (f : Device → Device) : (s.modDevice f).next = s.next := rfl
@[simp] theorem State.modDevice_draws (s : State) (f : Device → Device) : (s.modDevice f).draws = s.draws := rfl

@[simp] theorem State.emit_clock (s : State) (o : Output) : (s.emit o).clock = s.clock := rfl
@[simp] theorem State.emit_mem (s : State) (o : Output) : (s.emit o).mem = s.mem := rfl
@[simp] theorem State.emit_side (s : State) (o : Output) : (s.emit o).side = s.side := rfl
@[simp] theorem State.emit_poisonMem (s : State) (o : Output) : (s.emit o).poisonMem = s.poisonMem := rfl
@[simp] theorem State.emit_parts (s : State) (o : Output) : (s.emit o).parts = s.parts := rfl
@[simp] theorem State.emit_slices (s : State) (o : Output) : (s.emit o).slices = s.slices := rfl
@[simp] theorem State.emit_cores (s : State) (o : Output) : (s.emit o).cores = s.cores := rfl
@[simp] theorem State.emit_launches (s : State) (o : Output) : (s.emit o).launches = s.launches := rfl
@[simp] theorem State.emit_blocks (s : State) (o : Output) : (s.emit o).blocks = s.blocks := rfl
@[simp] theorem State.emit_remains (s : State) (o : Output) : (s.emit o).remains = s.remains := rfl
@[simp] theorem State.emit_issues (s : State) (o : Output) : (s.emit o).issues = s.issues := rfl
@[simp] theorem State.emit_memOps (s : State) (o : Output) : (s.emit o).memOps = s.memOps := rfl
@[simp] theorem State.emit_engOps (s : State) (o : Output) : (s.emit o).engOps = s.engOps := rfl
@[simp] theorem State.emit_entries (s : State) (o : Output) : (s.emit o).entries = s.entries := rfl
@[simp] theorem State.emit_podReqs (s : State) (o : Output) : (s.emit o).podReqs = s.podReqs := rfl
@[simp] theorem State.emit_pendingWrites (s : State) (o : Output) : (s.emit o).pendingWrites = s.pendingWrites := rfl
@[simp] theorem State.emit_device (s : State) (o : Output) : (s.emit o).device = s.device := rfl
@[simp] theorem State.emit_outputs (s : State) (o : Output) : (s.emit o).outputs = s.outputs ++ [o] := rfl
@[simp] theorem State.emit_turns (s : State) (o : Output) : (s.emit o).turns = s.turns := rfl
@[simp] theorem State.emit_focus (s : State) (o : Output) : (s.emit o).focus = s.focus := rfl
@[simp] theorem State.emit_cur (s : State) (o : Output) : (s.emit o).cur = s.cur := rfl
@[simp] theorem State.emit_stay (s : State) (o : Output) : (s.emit o).stay = s.stay := rfl
@[simp] theorem State.emit_next (s : State) (o : Output) : (s.emit o).next = s.next := rfl
@[simp] theorem State.emit_draws (s : State) (o : Output) : (s.emit o).draws = s.draws := rfl

@[simp] theorem State.modMemOp_clock (s : State) (n : Nat) (f : MemOp → MemOp) : (s.modMemOp n f).clock = s.clock := rfl
@[simp] theorem State.modMemOp_mem (s : State) (n : Nat) (f : MemOp → MemOp) : (s.modMemOp n f).mem = s.mem := rfl
@[simp] theorem State.modMemOp_side (s : State) (n : Nat) (f : MemOp → MemOp) : (s.modMemOp n f).side = s.side := rfl
@[simp] theorem State.modMemOp_poisonMem (s : State) (n : Nat) (f : MemOp → MemOp) : (s.modMemOp n f).poisonMem = s.poisonMem := rfl
@[simp] theorem State.modMemOp_parts (s : State) (n : Nat) (f : MemOp → MemOp) : (s.modMemOp n f).parts = s.parts := rfl
@[simp] theorem State.modMemOp_slices (s : State) (n : Nat) (f : MemOp → MemOp) : (s.modMemOp n f).slices = s.slices := rfl
@[simp] theorem State.modMemOp_cores (s : State) (n : Nat) (f : MemOp → MemOp) : (s.modMemOp n f).cores = s.cores := rfl
@[simp] theorem State.modMemOp_launches (s : State) (n : Nat) (f : MemOp → MemOp) : (s.modMemOp n f).launches = s.launches := rfl
@[simp] theorem State.modMemOp_blocks (s : State) (n : Nat) (f : MemOp → MemOp) : (s.modMemOp n f).blocks = s.blocks := rfl
@[simp] theorem State.modMemOp_remains (s : State) (n : Nat) (f : MemOp → MemOp) : (s.modMemOp n f).remains = s.remains := rfl
@[simp] theorem State.modMemOp_issues (s : State) (n : Nat) (f : MemOp → MemOp) : (s.modMemOp n f).issues = s.issues := rfl
@[simp] theorem State.modMemOp_memOps (s : State) (n : Nat) (f : MemOp → MemOp) : (s.modMemOp n f).memOps = s.memOps.map (fun o => if o.id == n then f o else o) := rfl
@[simp] theorem State.modMemOp_engOps (s : State) (n : Nat) (f : MemOp → MemOp) : (s.modMemOp n f).engOps = s.engOps := rfl
@[simp] theorem State.modMemOp_entries (s : State) (n : Nat) (f : MemOp → MemOp) : (s.modMemOp n f).entries = s.entries := rfl
@[simp] theorem State.modMemOp_podReqs (s : State) (n : Nat) (f : MemOp → MemOp) : (s.modMemOp n f).podReqs = s.podReqs := rfl
@[simp] theorem State.modMemOp_pendingWrites (s : State) (n : Nat) (f : MemOp → MemOp) : (s.modMemOp n f).pendingWrites = s.pendingWrites := rfl
@[simp] theorem State.modMemOp_device (s : State) (n : Nat) (f : MemOp → MemOp) : (s.modMemOp n f).device = s.device := rfl
@[simp] theorem State.modMemOp_outputs (s : State) (n : Nat) (f : MemOp → MemOp) : (s.modMemOp n f).outputs = s.outputs := rfl
@[simp] theorem State.modMemOp_turns (s : State) (n : Nat) (f : MemOp → MemOp) : (s.modMemOp n f).turns = s.turns := rfl
@[simp] theorem State.modMemOp_focus (s : State) (n : Nat) (f : MemOp → MemOp) : (s.modMemOp n f).focus = s.focus := rfl
@[simp] theorem State.modMemOp_cur (s : State) (n : Nat) (f : MemOp → MemOp) : (s.modMemOp n f).cur = s.cur := rfl
@[simp] theorem State.modMemOp_stay (s : State) (n : Nat) (f : MemOp → MemOp) : (s.modMemOp n f).stay = s.stay := rfl
@[simp] theorem State.modMemOp_next (s : State) (n : Nat) (f : MemOp → MemOp) : (s.modMemOp n f).next = s.next := rfl
@[simp] theorem State.modMemOp_draws (s : State) (n : Nat) (f : MemOp → MemOp) : (s.modMemOp n f).draws = s.draws := rfl

@[simp] theorem State.dropMemOp_clock (s : State) (n : Nat) : (s.dropMemOp n).clock = s.clock := rfl
@[simp] theorem State.dropMemOp_mem (s : State) (n : Nat) : (s.dropMemOp n).mem = s.mem := rfl
@[simp] theorem State.dropMemOp_side (s : State) (n : Nat) : (s.dropMemOp n).side = s.side := rfl
@[simp] theorem State.dropMemOp_poisonMem (s : State) (n : Nat) : (s.dropMemOp n).poisonMem = s.poisonMem := rfl
@[simp] theorem State.dropMemOp_parts (s : State) (n : Nat) : (s.dropMemOp n).parts = s.parts := rfl
@[simp] theorem State.dropMemOp_slices (s : State) (n : Nat) : (s.dropMemOp n).slices = s.slices := rfl
@[simp] theorem State.dropMemOp_cores (s : State) (n : Nat) : (s.dropMemOp n).cores = s.cores := rfl
@[simp] theorem State.dropMemOp_launches (s : State) (n : Nat) : (s.dropMemOp n).launches = s.launches := rfl
@[simp] theorem State.dropMemOp_blocks (s : State) (n : Nat) : (s.dropMemOp n).blocks = s.blocks := rfl
@[simp] theorem State.dropMemOp_remains (s : State) (n : Nat) : (s.dropMemOp n).remains = s.remains := rfl
@[simp] theorem State.dropMemOp_issues (s : State) (n : Nat) : (s.dropMemOp n).issues = s.issues := rfl
@[simp] theorem State.dropMemOp_memOps (s : State) (n : Nat) : (s.dropMemOp n).memOps = s.memOps.filter (fun o => o.id != n) := rfl
@[simp] theorem State.dropMemOp_engOps (s : State) (n : Nat) : (s.dropMemOp n).engOps = s.engOps := rfl
@[simp] theorem State.dropMemOp_entries (s : State) (n : Nat) : (s.dropMemOp n).entries = s.entries := rfl
@[simp] theorem State.dropMemOp_podReqs (s : State) (n : Nat) : (s.dropMemOp n).podReqs = s.podReqs := rfl
@[simp] theorem State.dropMemOp_pendingWrites (s : State) (n : Nat) : (s.dropMemOp n).pendingWrites = s.pendingWrites := rfl
@[simp] theorem State.dropMemOp_device (s : State) (n : Nat) : (s.dropMemOp n).device = s.device := rfl
@[simp] theorem State.dropMemOp_outputs (s : State) (n : Nat) : (s.dropMemOp n).outputs = s.outputs := rfl
@[simp] theorem State.dropMemOp_turns (s : State) (n : Nat) : (s.dropMemOp n).turns = s.turns := rfl
@[simp] theorem State.dropMemOp_focus (s : State) (n : Nat) : (s.dropMemOp n).focus = s.focus := rfl
@[simp] theorem State.dropMemOp_cur (s : State) (n : Nat) : (s.dropMemOp n).cur = s.cur := rfl
@[simp] theorem State.dropMemOp_stay (s : State) (n : Nat) : (s.dropMemOp n).stay = s.stay := rfl
@[simp] theorem State.dropMemOp_next (s : State) (n : Nat) : (s.dropMemOp n).next = s.next := rfl
@[simp] theorem State.dropMemOp_draws (s : State) (n : Nat) : (s.dropMemOp n).draws = s.draws := rfl

@[simp] theorem State.modEngOp_clock (s : State) (n : Nat) (f : EngOp → EngOp) : (s.modEngOp n f).clock = s.clock := rfl
@[simp] theorem State.modEngOp_mem (s : State) (n : Nat) (f : EngOp → EngOp) : (s.modEngOp n f).mem = s.mem := rfl
@[simp] theorem State.modEngOp_side (s : State) (n : Nat) (f : EngOp → EngOp) : (s.modEngOp n f).side = s.side := rfl
@[simp] theorem State.modEngOp_poisonMem (s : State) (n : Nat) (f : EngOp → EngOp) : (s.modEngOp n f).poisonMem = s.poisonMem := rfl
@[simp] theorem State.modEngOp_parts (s : State) (n : Nat) (f : EngOp → EngOp) : (s.modEngOp n f).parts = s.parts := rfl
@[simp] theorem State.modEngOp_slices (s : State) (n : Nat) (f : EngOp → EngOp) : (s.modEngOp n f).slices = s.slices := rfl
@[simp] theorem State.modEngOp_cores (s : State) (n : Nat) (f : EngOp → EngOp) : (s.modEngOp n f).cores = s.cores := rfl
@[simp] theorem State.modEngOp_launches (s : State) (n : Nat) (f : EngOp → EngOp) : (s.modEngOp n f).launches = s.launches := rfl
@[simp] theorem State.modEngOp_blocks (s : State) (n : Nat) (f : EngOp → EngOp) : (s.modEngOp n f).blocks = s.blocks := rfl
@[simp] theorem State.modEngOp_remains (s : State) (n : Nat) (f : EngOp → EngOp) : (s.modEngOp n f).remains = s.remains := rfl
@[simp] theorem State.modEngOp_issues (s : State) (n : Nat) (f : EngOp → EngOp) : (s.modEngOp n f).issues = s.issues := rfl
@[simp] theorem State.modEngOp_memOps (s : State) (n : Nat) (f : EngOp → EngOp) : (s.modEngOp n f).memOps = s.memOps := rfl
@[simp] theorem State.modEngOp_engOps (s : State) (n : Nat) (f : EngOp → EngOp) : (s.modEngOp n f).engOps = s.engOps.map (fun o => if o.id == n then f o else o) := rfl
@[simp] theorem State.modEngOp_entries (s : State) (n : Nat) (f : EngOp → EngOp) : (s.modEngOp n f).entries = s.entries := rfl
@[simp] theorem State.modEngOp_podReqs (s : State) (n : Nat) (f : EngOp → EngOp) : (s.modEngOp n f).podReqs = s.podReqs := rfl
@[simp] theorem State.modEngOp_pendingWrites (s : State) (n : Nat) (f : EngOp → EngOp) : (s.modEngOp n f).pendingWrites = s.pendingWrites := rfl
@[simp] theorem State.modEngOp_device (s : State) (n : Nat) (f : EngOp → EngOp) : (s.modEngOp n f).device = s.device := rfl
@[simp] theorem State.modEngOp_outputs (s : State) (n : Nat) (f : EngOp → EngOp) : (s.modEngOp n f).outputs = s.outputs := rfl
@[simp] theorem State.modEngOp_turns (s : State) (n : Nat) (f : EngOp → EngOp) : (s.modEngOp n f).turns = s.turns := rfl
@[simp] theorem State.modEngOp_focus (s : State) (n : Nat) (f : EngOp → EngOp) : (s.modEngOp n f).focus = s.focus := rfl
@[simp] theorem State.modEngOp_cur (s : State) (n : Nat) (f : EngOp → EngOp) : (s.modEngOp n f).cur = s.cur := rfl
@[simp] theorem State.modEngOp_stay (s : State) (n : Nat) (f : EngOp → EngOp) : (s.modEngOp n f).stay = s.stay := rfl
@[simp] theorem State.modEngOp_next (s : State) (n : Nat) (f : EngOp → EngOp) : (s.modEngOp n f).next = s.next := rfl
@[simp] theorem State.modEngOp_draws (s : State) (n : Nat) (f : EngOp → EngOp) : (s.modEngOp n f).draws = s.draws := rfl

@[simp] theorem State.dropEngOp_clock (s : State) (n : Nat) : (s.dropEngOp n).clock = s.clock := rfl
@[simp] theorem State.dropEngOp_mem (s : State) (n : Nat) : (s.dropEngOp n).mem = s.mem := rfl
@[simp] theorem State.dropEngOp_side (s : State) (n : Nat) : (s.dropEngOp n).side = s.side := rfl
@[simp] theorem State.dropEngOp_poisonMem (s : State) (n : Nat) : (s.dropEngOp n).poisonMem = s.poisonMem := rfl
@[simp] theorem State.dropEngOp_parts (s : State) (n : Nat) : (s.dropEngOp n).parts = s.parts := rfl
@[simp] theorem State.dropEngOp_slices (s : State) (n : Nat) : (s.dropEngOp n).slices = s.slices := rfl
@[simp] theorem State.dropEngOp_cores (s : State) (n : Nat) : (s.dropEngOp n).cores = s.cores := rfl
@[simp] theorem State.dropEngOp_launches (s : State) (n : Nat) : (s.dropEngOp n).launches = s.launches := rfl
@[simp] theorem State.dropEngOp_blocks (s : State) (n : Nat) : (s.dropEngOp n).blocks = s.blocks := rfl
@[simp] theorem State.dropEngOp_remains (s : State) (n : Nat) : (s.dropEngOp n).remains = s.remains := rfl
@[simp] theorem State.dropEngOp_issues (s : State) (n : Nat) : (s.dropEngOp n).issues = s.issues := rfl
@[simp] theorem State.dropEngOp_memOps (s : State) (n : Nat) : (s.dropEngOp n).memOps = s.memOps := rfl
@[simp] theorem State.dropEngOp_engOps (s : State) (n : Nat) : (s.dropEngOp n).engOps = s.engOps.filter (fun o => o.id != n) := rfl
@[simp] theorem State.dropEngOp_entries (s : State) (n : Nat) : (s.dropEngOp n).entries = s.entries := rfl
@[simp] theorem State.dropEngOp_podReqs (s : State) (n : Nat) : (s.dropEngOp n).podReqs = s.podReqs := rfl
@[simp] theorem State.dropEngOp_pendingWrites (s : State) (n : Nat) : (s.dropEngOp n).pendingWrites = s.pendingWrites := rfl
@[simp] theorem State.dropEngOp_device (s : State) (n : Nat) : (s.dropEngOp n).device = s.device := rfl
@[simp] theorem State.dropEngOp_outputs (s : State) (n : Nat) : (s.dropEngOp n).outputs = s.outputs := rfl
@[simp] theorem State.dropEngOp_turns (s : State) (n : Nat) : (s.dropEngOp n).turns = s.turns := rfl
@[simp] theorem State.dropEngOp_focus (s : State) (n : Nat) : (s.dropEngOp n).focus = s.focus := rfl
@[simp] theorem State.dropEngOp_cur (s : State) (n : Nat) : (s.dropEngOp n).cur = s.cur := rfl
@[simp] theorem State.dropEngOp_stay (s : State) (n : Nat) : (s.dropEngOp n).stay = s.stay := rfl
@[simp] theorem State.dropEngOp_next (s : State) (n : Nat) : (s.dropEngOp n).next = s.next := rfl
@[simp] theorem State.dropEngOp_draws (s : State) (n : Nat) : (s.dropEngOp n).draws = s.draws := rfl

@[simp] theorem State.modIssue_clock (s : State) (n : Nat) (f : Issue → Issue) : (s.modIssue n f).clock = s.clock := rfl
@[simp] theorem State.modIssue_mem (s : State) (n : Nat) (f : Issue → Issue) : (s.modIssue n f).mem = s.mem := rfl
@[simp] theorem State.modIssue_side (s : State) (n : Nat) (f : Issue → Issue) : (s.modIssue n f).side = s.side := rfl
@[simp] theorem State.modIssue_poisonMem (s : State) (n : Nat) (f : Issue → Issue) : (s.modIssue n f).poisonMem = s.poisonMem := rfl
@[simp] theorem State.modIssue_parts (s : State) (n : Nat) (f : Issue → Issue) : (s.modIssue n f).parts = s.parts := rfl
@[simp] theorem State.modIssue_slices (s : State) (n : Nat) (f : Issue → Issue) : (s.modIssue n f).slices = s.slices := rfl
@[simp] theorem State.modIssue_cores (s : State) (n : Nat) (f : Issue → Issue) : (s.modIssue n f).cores = s.cores := rfl
@[simp] theorem State.modIssue_launches (s : State) (n : Nat) (f : Issue → Issue) : (s.modIssue n f).launches = s.launches := rfl
@[simp] theorem State.modIssue_blocks (s : State) (n : Nat) (f : Issue → Issue) : (s.modIssue n f).blocks = s.blocks := rfl
@[simp] theorem State.modIssue_remains (s : State) (n : Nat) (f : Issue → Issue) : (s.modIssue n f).remains = s.remains := rfl
@[simp] theorem State.modIssue_issues (s : State) (n : Nat) (f : Issue → Issue) : (s.modIssue n f).issues = s.issues.map (fun i => if i.id == n then f i else i) := rfl
@[simp] theorem State.modIssue_memOps (s : State) (n : Nat) (f : Issue → Issue) : (s.modIssue n f).memOps = s.memOps := rfl
@[simp] theorem State.modIssue_engOps (s : State) (n : Nat) (f : Issue → Issue) : (s.modIssue n f).engOps = s.engOps := rfl
@[simp] theorem State.modIssue_entries (s : State) (n : Nat) (f : Issue → Issue) : (s.modIssue n f).entries = s.entries := rfl
@[simp] theorem State.modIssue_podReqs (s : State) (n : Nat) (f : Issue → Issue) : (s.modIssue n f).podReqs = s.podReqs := rfl
@[simp] theorem State.modIssue_pendingWrites (s : State) (n : Nat) (f : Issue → Issue) : (s.modIssue n f).pendingWrites = s.pendingWrites := rfl
@[simp] theorem State.modIssue_device (s : State) (n : Nat) (f : Issue → Issue) : (s.modIssue n f).device = s.device := rfl
@[simp] theorem State.modIssue_outputs (s : State) (n : Nat) (f : Issue → Issue) : (s.modIssue n f).outputs = s.outputs := rfl
@[simp] theorem State.modIssue_turns (s : State) (n : Nat) (f : Issue → Issue) : (s.modIssue n f).turns = s.turns := rfl
@[simp] theorem State.modIssue_focus (s : State) (n : Nat) (f : Issue → Issue) : (s.modIssue n f).focus = s.focus := rfl
@[simp] theorem State.modIssue_cur (s : State) (n : Nat) (f : Issue → Issue) : (s.modIssue n f).cur = s.cur := rfl
@[simp] theorem State.modIssue_stay (s : State) (n : Nat) (f : Issue → Issue) : (s.modIssue n f).stay = s.stay := rfl
@[simp] theorem State.modIssue_next (s : State) (n : Nat) (f : Issue → Issue) : (s.modIssue n f).next = s.next := rfl
@[simp] theorem State.modIssue_draws (s : State) (n : Nat) (f : Issue → Issue) : (s.modIssue n f).draws = s.draws := rfl

@[simp] theorem State.dropFromIssues_clock (s : State) (r : WaveRef) (ls : List Nat) : (s.dropFromIssues r ls).clock = s.clock := rfl
@[simp] theorem State.dropFromIssues_mem (s : State) (r : WaveRef) (ls : List Nat) : (s.dropFromIssues r ls).mem = s.mem := rfl
@[simp] theorem State.dropFromIssues_side (s : State) (r : WaveRef) (ls : List Nat) : (s.dropFromIssues r ls).side = s.side := rfl
@[simp] theorem State.dropFromIssues_poisonMem (s : State) (r : WaveRef) (ls : List Nat) : (s.dropFromIssues r ls).poisonMem = s.poisonMem := rfl
@[simp] theorem State.dropFromIssues_parts (s : State) (r : WaveRef) (ls : List Nat) : (s.dropFromIssues r ls).parts = s.parts := rfl
@[simp] theorem State.dropFromIssues_slices (s : State) (r : WaveRef) (ls : List Nat) : (s.dropFromIssues r ls).slices = s.slices := rfl
@[simp] theorem State.dropFromIssues_cores (s : State) (r : WaveRef) (ls : List Nat) : (s.dropFromIssues r ls).cores = s.cores := rfl
@[simp] theorem State.dropFromIssues_launches (s : State) (r : WaveRef) (ls : List Nat) : (s.dropFromIssues r ls).launches = s.launches := rfl
@[simp] theorem State.dropFromIssues_blocks (s : State) (r : WaveRef) (ls : List Nat) : (s.dropFromIssues r ls).blocks = s.blocks := rfl
@[simp] theorem State.dropFromIssues_remains (s : State) (r : WaveRef) (ls : List Nat) : (s.dropFromIssues r ls).remains = s.remains := rfl
@[simp] theorem State.dropFromIssues_issues (s : State) (r : WaveRef) (ls : List Nat) : (s.dropFromIssues r ls).issues = s.issues.map (fun i => i.dropLanes r ls) := rfl
@[simp] theorem State.dropFromIssues_memOps (s : State) (r : WaveRef) (ls : List Nat) : (s.dropFromIssues r ls).memOps = s.memOps := rfl
@[simp] theorem State.dropFromIssues_engOps (s : State) (r : WaveRef) (ls : List Nat) : (s.dropFromIssues r ls).engOps = s.engOps := rfl
@[simp] theorem State.dropFromIssues_entries (s : State) (r : WaveRef) (ls : List Nat) : (s.dropFromIssues r ls).entries = s.entries := rfl
@[simp] theorem State.dropFromIssues_podReqs (s : State) (r : WaveRef) (ls : List Nat) : (s.dropFromIssues r ls).podReqs = s.podReqs := rfl
@[simp] theorem State.dropFromIssues_pendingWrites (s : State) (r : WaveRef) (ls : List Nat) : (s.dropFromIssues r ls).pendingWrites = s.pendingWrites := rfl
@[simp] theorem State.dropFromIssues_device (s : State) (r : WaveRef) (ls : List Nat) : (s.dropFromIssues r ls).device = s.device := rfl
@[simp] theorem State.dropFromIssues_outputs (s : State) (r : WaveRef) (ls : List Nat) : (s.dropFromIssues r ls).outputs = s.outputs := rfl
@[simp] theorem State.dropFromIssues_turns (s : State) (r : WaveRef) (ls : List Nat) : (s.dropFromIssues r ls).turns = s.turns := rfl
@[simp] theorem State.dropFromIssues_focus (s : State) (r : WaveRef) (ls : List Nat) : (s.dropFromIssues r ls).focus = s.focus := rfl
@[simp] theorem State.dropFromIssues_cur (s : State) (r : WaveRef) (ls : List Nat) : (s.dropFromIssues r ls).cur = s.cur := rfl
@[simp] theorem State.dropFromIssues_stay (s : State) (r : WaveRef) (ls : List Nat) : (s.dropFromIssues r ls).stay = s.stay := rfl
@[simp] theorem State.dropFromIssues_next (s : State) (r : WaveRef) (ls : List Nat) : (s.dropFromIssues r ls).next = s.next := rfl
@[simp] theorem State.dropFromIssues_draws (s : State) (r : WaveRef) (ls : List Nat) : (s.dropFromIssues r ls).draws = s.draws := rfl

@[simp] theorem State.fresh_clock (s : State) : s.fresh.2.clock = s.clock := rfl
@[simp] theorem State.fresh_mem (s : State) : s.fresh.2.mem = s.mem := rfl
@[simp] theorem State.fresh_side (s : State) : s.fresh.2.side = s.side := rfl
@[simp] theorem State.fresh_poisonMem (s : State) : s.fresh.2.poisonMem = s.poisonMem := rfl
@[simp] theorem State.fresh_parts (s : State) : s.fresh.2.parts = s.parts := rfl
@[simp] theorem State.fresh_slices (s : State) : s.fresh.2.slices = s.slices := rfl
@[simp] theorem State.fresh_cores (s : State) : s.fresh.2.cores = s.cores := rfl
@[simp] theorem State.fresh_launches (s : State) : s.fresh.2.launches = s.launches := rfl
@[simp] theorem State.fresh_blocks (s : State) : s.fresh.2.blocks = s.blocks := rfl
@[simp] theorem State.fresh_remains (s : State) : s.fresh.2.remains = s.remains := rfl
@[simp] theorem State.fresh_issues (s : State) : s.fresh.2.issues = s.issues := rfl
@[simp] theorem State.fresh_memOps (s : State) : s.fresh.2.memOps = s.memOps := rfl
@[simp] theorem State.fresh_engOps (s : State) : s.fresh.2.engOps = s.engOps := rfl
@[simp] theorem State.fresh_entries (s : State) : s.fresh.2.entries = s.entries := rfl
@[simp] theorem State.fresh_podReqs (s : State) : s.fresh.2.podReqs = s.podReqs := rfl
@[simp] theorem State.fresh_pendingWrites (s : State) : s.fresh.2.pendingWrites = s.pendingWrites := rfl
@[simp] theorem State.fresh_device (s : State) : s.fresh.2.device = s.device := rfl
@[simp] theorem State.fresh_outputs (s : State) : s.fresh.2.outputs = s.outputs := rfl
@[simp] theorem State.fresh_turns (s : State) : s.fresh.2.turns = s.turns := rfl
@[simp] theorem State.fresh_focus (s : State) : s.fresh.2.focus = s.focus := rfl
@[simp] theorem State.fresh_cur (s : State) : s.fresh.2.cur = s.cur := rfl
@[simp] theorem State.fresh_stay (s : State) : s.fresh.2.stay = s.stay := rfl
@[simp] theorem State.fresh_next (s : State) : s.fresh.2.next = s.next + 1 := rfl
@[simp] theorem State.fresh_draws (s : State) : s.fresh.2.draws = s.draws := rfl
@[simp] theorem State.fresh_key (s : State) : s.fresh.1 = s.next := rfl

@[simp] theorem State.modWave_clock (s : State) (r : WaveRef) (f : Wave → Wave) : (s.modWave r f).clock = s.clock := by cases r <;> rfl
@[simp] theorem State.modWave_mem (s : State) (r : WaveRef) (f : Wave → Wave) : (s.modWave r f).mem = s.mem := by cases r <;> rfl
@[simp] theorem State.modWave_side (s : State) (r : WaveRef) (f : Wave → Wave) : (s.modWave r f).side = s.side := by cases r <;> rfl
@[simp] theorem State.modWave_poisonMem (s : State) (r : WaveRef) (f : Wave → Wave) : (s.modWave r f).poisonMem = s.poisonMem := by cases r <;> rfl
@[simp] theorem State.modWave_parts (s : State) (r : WaveRef) (f : Wave → Wave) : (s.modWave r f).parts = s.parts := by cases r <;> rfl
@[simp] theorem State.modWave_slices (s : State) (r : WaveRef) (f : Wave → Wave) : (s.modWave r f).slices = s.slices := by cases r <;> rfl
@[simp] theorem State.modWave_launches (s : State) (r : WaveRef) (f : Wave → Wave) : (s.modWave r f).launches = s.launches := by cases r <;> rfl
@[simp] theorem State.modWave_remains (s : State) (r : WaveRef) (f : Wave → Wave) : (s.modWave r f).remains = s.remains := by cases r <;> rfl
@[simp] theorem State.modWave_issues (s : State) (r : WaveRef) (f : Wave → Wave) : (s.modWave r f).issues = s.issues := by cases r <;> rfl
@[simp] theorem State.modWave_memOps (s : State) (r : WaveRef) (f : Wave → Wave) : (s.modWave r f).memOps = s.memOps := by cases r <;> rfl
@[simp] theorem State.modWave_engOps (s : State) (r : WaveRef) (f : Wave → Wave) : (s.modWave r f).engOps = s.engOps := by cases r <;> rfl
@[simp] theorem State.modWave_entries (s : State) (r : WaveRef) (f : Wave → Wave) : (s.modWave r f).entries = s.entries := by cases r <;> rfl
@[simp] theorem State.modWave_podReqs (s : State) (r : WaveRef) (f : Wave → Wave) : (s.modWave r f).podReqs = s.podReqs := by cases r <;> rfl
@[simp] theorem State.modWave_pendingWrites (s : State) (r : WaveRef) (f : Wave → Wave) : (s.modWave r f).pendingWrites = s.pendingWrites := by cases r <;> rfl
@[simp] theorem State.modWave_device (s : State) (r : WaveRef) (f : Wave → Wave) : (s.modWave r f).device = s.device := by cases r <;> rfl
@[simp] theorem State.modWave_outputs (s : State) (r : WaveRef) (f : Wave → Wave) : (s.modWave r f).outputs = s.outputs := by cases r <;> rfl
@[simp] theorem State.modWave_turns (s : State) (r : WaveRef) (f : Wave → Wave) : (s.modWave r f).turns = s.turns := by cases r <;> rfl
@[simp] theorem State.modWave_focus (s : State) (r : WaveRef) (f : Wave → Wave) : (s.modWave r f).focus = s.focus := by cases r <;> rfl
@[simp] theorem State.modWave_cur (s : State) (r : WaveRef) (f : Wave → Wave) : (s.modWave r f).cur = s.cur := by cases r <;> rfl
@[simp] theorem State.modWave_stay (s : State) (r : WaveRef) (f : Wave → Wave) : (s.modWave r f).stay = s.stay := by cases r <;> rfl
@[simp] theorem State.modWave_next (s : State) (r : WaveRef) (f : Wave → Wave) : (s.modWave r f).next = s.next := by cases r <;> rfl
@[simp] theorem State.modWave_draws (s : State) (r : WaveRef) (f : Wave → Wave) : (s.modWave r f).draws = s.draws := by cases r <;> rfl

@[simp] theorem State.modLane_clock (s : State) (r : WaveRef) (l : Nat) (f : Lane → Lane) : (s.modLane r l f).clock = s.clock := by cases r <;> rfl
@[simp] theorem State.modLane_mem (s : State) (r : WaveRef) (l : Nat) (f : Lane → Lane) : (s.modLane r l f).mem = s.mem := by cases r <;> rfl
@[simp] theorem State.modLane_side (s : State) (r : WaveRef) (l : Nat) (f : Lane → Lane) : (s.modLane r l f).side = s.side := by cases r <;> rfl
@[simp] theorem State.modLane_poisonMem (s : State) (r : WaveRef) (l : Nat) (f : Lane → Lane) : (s.modLane r l f).poisonMem = s.poisonMem := by cases r <;> rfl
@[simp] theorem State.modLane_parts (s : State) (r : WaveRef) (l : Nat) (f : Lane → Lane) : (s.modLane r l f).parts = s.parts := by cases r <;> rfl
@[simp] theorem State.modLane_slices (s : State) (r : WaveRef) (l : Nat) (f : Lane → Lane) : (s.modLane r l f).slices = s.slices := by cases r <;> rfl
@[simp] theorem State.modLane_launches (s : State) (r : WaveRef) (l : Nat) (f : Lane → Lane) : (s.modLane r l f).launches = s.launches := by cases r <;> rfl
@[simp] theorem State.modLane_remains (s : State) (r : WaveRef) (l : Nat) (f : Lane → Lane) : (s.modLane r l f).remains = s.remains := by cases r <;> rfl
@[simp] theorem State.modLane_issues (s : State) (r : WaveRef) (l : Nat) (f : Lane → Lane) : (s.modLane r l f).issues = s.issues := by cases r <;> rfl
@[simp] theorem State.modLane_memOps (s : State) (r : WaveRef) (l : Nat) (f : Lane → Lane) : (s.modLane r l f).memOps = s.memOps := by cases r <;> rfl
@[simp] theorem State.modLane_engOps (s : State) (r : WaveRef) (l : Nat) (f : Lane → Lane) : (s.modLane r l f).engOps = s.engOps := by cases r <;> rfl
@[simp] theorem State.modLane_entries (s : State) (r : WaveRef) (l : Nat) (f : Lane → Lane) : (s.modLane r l f).entries = s.entries := by cases r <;> rfl
@[simp] theorem State.modLane_podReqs (s : State) (r : WaveRef) (l : Nat) (f : Lane → Lane) : (s.modLane r l f).podReqs = s.podReqs := by cases r <;> rfl
@[simp] theorem State.modLane_pendingWrites (s : State) (r : WaveRef) (l : Nat) (f : Lane → Lane) : (s.modLane r l f).pendingWrites = s.pendingWrites := by cases r <;> rfl
@[simp] theorem State.modLane_device (s : State) (r : WaveRef) (l : Nat) (f : Lane → Lane) : (s.modLane r l f).device = s.device := by cases r <;> rfl
@[simp] theorem State.modLane_outputs (s : State) (r : WaveRef) (l : Nat) (f : Lane → Lane) : (s.modLane r l f).outputs = s.outputs := by cases r <;> rfl
@[simp] theorem State.modLane_turns (s : State) (r : WaveRef) (l : Nat) (f : Lane → Lane) : (s.modLane r l f).turns = s.turns := by cases r <;> rfl
@[simp] theorem State.modLane_focus (s : State) (r : WaveRef) (l : Nat) (f : Lane → Lane) : (s.modLane r l f).focus = s.focus := by cases r <;> rfl
@[simp] theorem State.modLane_cur (s : State) (r : WaveRef) (l : Nat) (f : Lane → Lane) : (s.modLane r l f).cur = s.cur := by cases r <;> rfl
@[simp] theorem State.modLane_stay (s : State) (r : WaveRef) (l : Nat) (f : Lane → Lane) : (s.modLane r l f).stay = s.stay := by cases r <;> rfl
@[simp] theorem State.modLane_next (s : State) (r : WaveRef) (l : Nat) (f : Lane → Lane) : (s.modLane r l f).next = s.next := by cases r <;> rfl
@[simp] theorem State.modLane_draws (s : State) (r : WaveRef) (l : Nat) (f : Lane → Lane) : (s.modLane r l f).draws = s.draws := by cases r <;> rfl

@[simp] theorem State.holdWave_clock (s : State) (r : WaveRef) (h : Hold) : (s.holdWave r h).clock = s.clock := by cases r <;> rfl
@[simp] theorem State.holdWave_mem (s : State) (r : WaveRef) (h : Hold) : (s.holdWave r h).mem = s.mem := by cases r <;> rfl
@[simp] theorem State.holdWave_side (s : State) (r : WaveRef) (h : Hold) : (s.holdWave r h).side = s.side := by cases r <;> rfl
@[simp] theorem State.holdWave_poisonMem (s : State) (r : WaveRef) (h : Hold) : (s.holdWave r h).poisonMem = s.poisonMem := by cases r <;> rfl
@[simp] theorem State.holdWave_parts (s : State) (r : WaveRef) (h : Hold) : (s.holdWave r h).parts = s.parts := by cases r <;> rfl
@[simp] theorem State.holdWave_slices (s : State) (r : WaveRef) (h : Hold) : (s.holdWave r h).slices = s.slices := by cases r <;> rfl
@[simp] theorem State.holdWave_launches (s : State) (r : WaveRef) (h : Hold) : (s.holdWave r h).launches = s.launches := by cases r <;> rfl
@[simp] theorem State.holdWave_remains (s : State) (r : WaveRef) (h : Hold) : (s.holdWave r h).remains = s.remains := by cases r <;> rfl
@[simp] theorem State.holdWave_issues (s : State) (r : WaveRef) (h : Hold) : (s.holdWave r h).issues = s.issues := by cases r <;> rfl
@[simp] theorem State.holdWave_memOps (s : State) (r : WaveRef) (h : Hold) : (s.holdWave r h).memOps = s.memOps := by cases r <;> rfl
@[simp] theorem State.holdWave_engOps (s : State) (r : WaveRef) (h : Hold) : (s.holdWave r h).engOps = s.engOps := by cases r <;> rfl
@[simp] theorem State.holdWave_entries (s : State) (r : WaveRef) (h : Hold) : (s.holdWave r h).entries = s.entries := by cases r <;> rfl
@[simp] theorem State.holdWave_podReqs (s : State) (r : WaveRef) (h : Hold) : (s.holdWave r h).podReqs = s.podReqs := by cases r <;> rfl
@[simp] theorem State.holdWave_pendingWrites (s : State) (r : WaveRef) (h : Hold) : (s.holdWave r h).pendingWrites = s.pendingWrites := by cases r <;> rfl
@[simp] theorem State.holdWave_device (s : State) (r : WaveRef) (h : Hold) : (s.holdWave r h).device = s.device := by cases r <;> rfl
@[simp] theorem State.holdWave_outputs (s : State) (r : WaveRef) (h : Hold) : (s.holdWave r h).outputs = s.outputs := by cases r <;> rfl
@[simp] theorem State.holdWave_turns (s : State) (r : WaveRef) (h : Hold) : (s.holdWave r h).turns = s.turns := by cases r <;> rfl
@[simp] theorem State.holdWave_focus (s : State) (r : WaveRef) (h : Hold) : (s.holdWave r h).focus = s.focus := by cases r <;> rfl
@[simp] theorem State.holdWave_cur (s : State) (r : WaveRef) (h : Hold) : (s.holdWave r h).cur = s.cur := by cases r <;> rfl
@[simp] theorem State.holdWave_stay (s : State) (r : WaveRef) (h : Hold) : (s.holdWave r h).stay = s.stay := by cases r <;> rfl
@[simp] theorem State.holdWave_next (s : State) (r : WaveRef) (h : Hold) : (s.holdWave r h).next = s.next := by cases r <;> rfl
@[simp] theorem State.holdWave_draws (s : State) (r : WaveRef) (h : Hold) : (s.holdWave r h).draws = s.draws := by cases r <;> rfl

@[simp] theorem Lane.writeV_v (y : Lane) (r : Nat) (x : Word) : (y.writeV r x).v = setAt y.v r x := rfl
@[simp] theorem Lane.writeV_full (y : Lane) (r : Nat) (x : Word) : (y.writeV r x).full = setBit y.full r true := rfl
@[simp] theorem Lane.writeV_marks (y : Lane) (r : Nat) (x : Word) : (y.writeV r x).marks = y.marks.filter (fun m => m.1 != r) := rfl
@[simp] theorem Lane.writeV_preds (y : Lane) (r : Nat) (x : Word) : (y.writeV r x).preds = y.preds := rfl
@[simp] theorem Lane.writeV_vpc (y : Lane) (r : Nat) (x : Word) : (y.writeV r x).vpc = y.vpc := rfl
@[simp] theorem Lane.writeV_slot (y : Lane) (r : Nat) (x : Word) : (y.writeV r x).slot = y.slot := rfl
@[simp] theorem Lane.writeV_state (y : Lane) (r : Nat) (x : Word) : (y.writeV r x).state = y.state := rfl
@[simp] theorem Lane.writeV_starve (y : Lane) (r : Nat) (x : Word) : (y.writeV r x).starve = y.starve := rfl
@[simp] theorem Lane.writeV_trap (y : Lane) (r : Nat) (x : Word) : (y.writeV r x).trap = y.trap := rfl
@[simp] theorem Lane.writeV_inTrap (y : Lane) (r : Nat) (x : Word) : (y.writeV r x).inTrap = y.inTrap := rfl
@[simp] theorem Lane.writeV_origin (y : Lane) (r : Nat) (x : Word) : (y.writeV r x).origin = y.origin := rfl
@[simp] theorem Lane.writeV_ldsOwn (y : Lane) (r : Nat) (x : Word) : (y.writeV r x).ldsOwn = y.ldsOwn := rfl

@[simp] theorem Lane.markEmpty_v (y : Lane) (r : Nat) : (y.markEmpty r).v = y.v := rfl
@[simp] theorem Lane.markEmpty_full (y : Lane) (r : Nat) : (y.markEmpty r).full = setBit y.full r false := rfl
@[simp] theorem Lane.markEmpty_marks (y : Lane) (r : Nat) : (y.markEmpty r).marks = y.marks := rfl
@[simp] theorem Lane.markEmpty_preds (y : Lane) (r : Nat) : (y.markEmpty r).preds = y.preds := rfl
@[simp] theorem Lane.markEmpty_vpc (y : Lane) (r : Nat) : (y.markEmpty r).vpc = y.vpc := rfl
@[simp] theorem Lane.markEmpty_slot (y : Lane) (r : Nat) : (y.markEmpty r).slot = y.slot := rfl
@[simp] theorem Lane.markEmpty_state (y : Lane) (r : Nat) : (y.markEmpty r).state = y.state := rfl
@[simp] theorem Lane.markEmpty_starve (y : Lane) (r : Nat) : (y.markEmpty r).starve = y.starve := rfl
@[simp] theorem Lane.markEmpty_trap (y : Lane) (r : Nat) : (y.markEmpty r).trap = y.trap := rfl
@[simp] theorem Lane.markEmpty_inTrap (y : Lane) (r : Nat) : (y.markEmpty r).inTrap = y.inTrap := rfl
@[simp] theorem Lane.markEmpty_origin (y : Lane) (r : Nat) : (y.markEmpty r).origin = y.origin := rfl
@[simp] theorem Lane.markEmpty_ldsOwn (y : Lane) (r : Nat) : (y.markEmpty r).ldsOwn = y.ldsOwn := rfl

@[simp] theorem Lane.setMark_v (y : Lane) (r : Nat) (m : Mark) : (y.setMark r m).v = y.v := rfl
@[simp] theorem Lane.setMark_full (y : Lane) (r : Nat) (m : Mark) : (y.setMark r m).full = setBit y.full r false := rfl
@[simp] theorem Lane.setMark_marks (y : Lane) (r : Nat) (m : Mark) : (y.setMark r m).marks = (r, m) :: y.marks.filter (fun x => x.1 != r) := rfl
@[simp] theorem Lane.setMark_preds (y : Lane) (r : Nat) (m : Mark) : (y.setMark r m).preds = y.preds := rfl
@[simp] theorem Lane.setMark_vpc (y : Lane) (r : Nat) (m : Mark) : (y.setMark r m).vpc = y.vpc := rfl
@[simp] theorem Lane.setMark_slot (y : Lane) (r : Nat) (m : Mark) : (y.setMark r m).slot = y.slot := rfl
@[simp] theorem Lane.setMark_state (y : Lane) (r : Nat) (m : Mark) : (y.setMark r m).state = y.state := rfl
@[simp] theorem Lane.setMark_starve (y : Lane) (r : Nat) (m : Mark) : (y.setMark r m).starve = y.starve := rfl
@[simp] theorem Lane.setMark_trap (y : Lane) (r : Nat) (m : Mark) : (y.setMark r m).trap = y.trap := rfl
@[simp] theorem Lane.setMark_inTrap (y : Lane) (r : Nat) (m : Mark) : (y.setMark r m).inTrap = y.inTrap := rfl
@[simp] theorem Lane.setMark_origin (y : Lane) (r : Nat) (m : Mark) : (y.setMark r m).origin = y.origin := rfl
@[simp] theorem Lane.setMark_ldsOwn (y : Lane) (r : Nat) (m : Mark) : (y.setMark r m).ldsOwn = y.ldsOwn := rfl

@[simp] theorem Lane.activate_v (y : Lane) : (y.activate).v = y.v := rfl
@[simp] theorem Lane.activate_full (y : Lane) : (y.activate).full = y.full := rfl
@[simp] theorem Lane.activate_marks (y : Lane) : (y.activate).marks = y.marks := rfl
@[simp] theorem Lane.activate_preds (y : Lane) : (y.activate).preds = y.preds := rfl
@[simp] theorem Lane.activate_vpc (y : Lane) : (y.activate).vpc = y.vpc := rfl
@[simp] theorem Lane.activate_slot (y : Lane) : (y.activate).slot = y.slot := rfl
@[simp] theorem Lane.activate_state (y : Lane) : (y.activate).state = .active := rfl
@[simp] theorem Lane.activate_starve (y : Lane) : (y.activate).starve = 0 := rfl
@[simp] theorem Lane.activate_trap (y : Lane) : (y.activate).trap = y.trap := rfl
@[simp] theorem Lane.activate_inTrap (y : Lane) : (y.activate).inTrap = y.inTrap := rfl
@[simp] theorem Lane.activate_origin (y : Lane) : (y.activate).origin = y.origin := rfl
@[simp] theorem Lane.activate_ldsOwn (y : Lane) : (y.activate).ldsOwn = y.ldsOwn := rfl

@[simp] theorem Lane.setPred_v (y : Lane) (i : Nat) (b : Bool) : (y.setPred i b).v = y.v := by unfold Lane.setPred; split <;> rfl
@[simp] theorem Lane.setPred_full (y : Lane) (i : Nat) (b : Bool) : (y.setPred i b).full = y.full := by unfold Lane.setPred; split <;> rfl
@[simp] theorem Lane.setPred_marks (y : Lane) (i : Nat) (b : Bool) : (y.setPred i b).marks = y.marks := by unfold Lane.setPred; split <;> rfl
@[simp] theorem Lane.setPred_vpc (y : Lane) (i : Nat) (b : Bool) : (y.setPred i b).vpc = y.vpc := by unfold Lane.setPred; split <;> rfl
@[simp] theorem Lane.setPred_slot (y : Lane) (i : Nat) (b : Bool) : (y.setPred i b).slot = y.slot := by unfold Lane.setPred; split <;> rfl
@[simp] theorem Lane.setPred_state (y : Lane) (i : Nat) (b : Bool) : (y.setPred i b).state = y.state := by unfold Lane.setPred; split <;> rfl
@[simp] theorem Lane.setPred_starve (y : Lane) (i : Nat) (b : Bool) : (y.setPred i b).starve = y.starve := by unfold Lane.setPred; split <;> rfl
@[simp] theorem Lane.setPred_trap (y : Lane) (i : Nat) (b : Bool) : (y.setPred i b).trap = y.trap := by unfold Lane.setPred; split <;> rfl
@[simp] theorem Lane.setPred_inTrap (y : Lane) (i : Nat) (b : Bool) : (y.setPred i b).inTrap = y.inTrap := by unfold Lane.setPred; split <;> rfl
@[simp] theorem Lane.setPred_origin (y : Lane) (i : Nat) (b : Bool) : (y.setPred i b).origin = y.origin := by unfold Lane.setPred; split <;> rfl
@[simp] theorem Lane.setPred_ldsOwn (y : Lane) (i : Nat) (b : Bool) : (y.setPred i b).ldsOwn = y.ldsOwn := by unfold Lane.setPred; split <;> rfl

@[simp] theorem Wave.setS_width (w : Wave) (n : Nat) (x : Word) : (w.setS n x).width = w.width := rfl
@[simp] theorem Wave.setS_nv (w : Wave) (n : Nat) (x : Word) : (w.setS n x).nv = w.nv := rfl
@[simp] theorem Wave.setS_ns (w : Wave) (n : Nat) (x : Word) : (w.setS n x).ns = w.ns := rfl
@[simp] theorem Wave.setS_lanes (w : Wave) (n : Nat) (x : Word) : (w.setS n x).lanes = w.lanes := rfl
@[simp] theorem Wave.setS_s (w : Wave) (n : Nat) (x : Word) : (w.setS n x).s = setAt w.s n x := rfl
@[simp] theorem Wave.setS_k (w : Wave) (n : Nat) (x : Word) : (w.setS n x).k = w.k := rfl
@[simp] theorem Wave.setS_ocMem (w : Wave) (n : Nat) (x : Word) : (w.setS n x).ocMem = w.ocMem := rfl
@[simp] theorem Wave.setS_ocCpy (w : Wave) (n : Nat) (x : Word) : (w.setS n x).ocCpy = w.ocCpy := rfl
@[simp] theorem Wave.setS_ocMtx (w : Wave) (n : Nat) (x : Word) : (w.setS n x).ocMtx = w.ocMtx := rfl
@[simp] theorem Wave.setS_ocCol (w : Wave) (n : Nat) (x : Word) : (w.setS n x).ocCol = w.ocCol := rfl
@[simp] theorem Wave.setS_ltc (w : Wave) (n : Nat) (x : Word) : (w.setS n x).ltc = w.ltc := rfl
@[simp] theorem Wave.setS_awBase (w : Wave) (n : Nat) (x : Word) : (w.setS n x).awBase = w.awBase := rfl
@[simp] theorem Wave.setS_awLimit (w : Wave) (n : Nat) (x : Word) : (w.setS n x).awLimit = w.awLimit := rfl
@[simp] theorem Wave.setS_fflags (w : Wave) (n : Nat) (x : Word) : (w.setS n x).fflags = w.fflags := rfl
@[simp] theorem Wave.setS_round (w : Wave) (n : Nat) (x : Word) : (w.setS n x).round = w.round := rfl
@[simp] theorem Wave.setS_fair (w : Wave) (n : Nat) (x : Word) : (w.setS n x).fair = w.fair := rfl
@[simp] theorem Wave.setS_irdan (w : Wave) (n : Nat) (x : Word) : (w.setS n x).irdan = w.irdan := rfl
@[simp] theorem Wave.setS_rails (w : Wave) (n : Nat) (x : Word) : (w.setS n x).rails = w.rails := rfl
@[simp] theorem Wave.setS_fairPos (w : Wave) (n : Nat) (x : Word) : (w.setS n x).fairPos = w.fairPos := rfl
@[simp] theorem Wave.setS_statSum (w : Wave) (n : Nat) (x : Word) : (w.setS n x).statSum = w.statSum := rfl
@[simp] theorem Wave.setS_statCount (w : Wave) (n : Nat) (x : Word) : (w.setS n x).statCount = w.statCount := rfl
@[simp] theorem Wave.setS_statMax (w : Wave) (n : Nat) (x : Word) : (w.setS n x).statMax = w.statMax := rfl
@[simp] theorem Wave.setS_groups (w : Wave) (n : Nat) (x : Word) : (w.setS n x).groups = w.groups := rfl
@[simp] theorem Wave.setS_podError (w : Wave) (n : Nat) (x : Word) : (w.setS n x).podError = w.podError := rfl
@[simp] theorem Wave.setS_holds (w : Wave) (n : Nat) (x : Word) : (w.setS n x).holds = w.holds := rfl
@[simp] theorem Wave.setS_acquires (w : Wave) (n : Nat) (x : Word) : (w.setS n x).acquires = w.acquires := rfl
@[simp] theorem Wave.setS_retired (w : Wave) (n : Nat) (x : Word) : (w.setS n x).retired = w.retired := rfl
@[simp] theorem Wave.setS_yielded (w : Wave) (n : Nat) (x : Word) : (w.setS n x).yielded = w.yielded := rfl
@[simp] theorem Wave.setS_diverged (w : Wave) (n : Nat) (x : Word) : (w.setS n x).diverged = w.diverged := rfl
@[simp] theorem Wave.setS_pack (w : Wave) (n : Nat) (x : Word) : (w.setS n x).pack = w.pack := rfl
@[simp] theorem Wave.setS_packPos (w : Wave) (n : Nat) (x : Word) : (w.setS n x).packPos = w.packPos := rfl

@[simp] theorem Wave.modLane_width (w : Wave) (l : Nat) (f : Lane → Lane) : (w.modLane l f).width = w.width := rfl
@[simp] theorem Wave.modLane_nv (w : Wave) (l : Nat) (f : Lane → Lane) : (w.modLane l f).nv = w.nv := rfl
@[simp] theorem Wave.modLane_ns (w : Wave) (l : Nat) (f : Lane → Lane) : (w.modLane l f).ns = w.ns := rfl
@[simp] theorem Wave.modLane_lanes (w : Wave) (l : Nat) (f : Lane → Lane) : (w.modLane l f).lanes = modifyAt w.lanes l f := rfl
@[simp] theorem Wave.modLane_s (w : Wave) (l : Nat) (f : Lane → Lane) : (w.modLane l f).s = w.s := rfl
@[simp] theorem Wave.modLane_k (w : Wave) (l : Nat) (f : Lane → Lane) : (w.modLane l f).k = w.k := rfl
@[simp] theorem Wave.modLane_ocMem (w : Wave) (l : Nat) (f : Lane → Lane) : (w.modLane l f).ocMem = w.ocMem := rfl
@[simp] theorem Wave.modLane_ocCpy (w : Wave) (l : Nat) (f : Lane → Lane) : (w.modLane l f).ocCpy = w.ocCpy := rfl
@[simp] theorem Wave.modLane_ocMtx (w : Wave) (l : Nat) (f : Lane → Lane) : (w.modLane l f).ocMtx = w.ocMtx := rfl
@[simp] theorem Wave.modLane_ocCol (w : Wave) (l : Nat) (f : Lane → Lane) : (w.modLane l f).ocCol = w.ocCol := rfl
@[simp] theorem Wave.modLane_ltc (w : Wave) (l : Nat) (f : Lane → Lane) : (w.modLane l f).ltc = w.ltc := rfl
@[simp] theorem Wave.modLane_awBase (w : Wave) (l : Nat) (f : Lane → Lane) : (w.modLane l f).awBase = w.awBase := rfl
@[simp] theorem Wave.modLane_awLimit (w : Wave) (l : Nat) (f : Lane → Lane) : (w.modLane l f).awLimit = w.awLimit := rfl
@[simp] theorem Wave.modLane_fflags (w : Wave) (l : Nat) (f : Lane → Lane) : (w.modLane l f).fflags = w.fflags := rfl
@[simp] theorem Wave.modLane_round (w : Wave) (l : Nat) (f : Lane → Lane) : (w.modLane l f).round = w.round := rfl
@[simp] theorem Wave.modLane_fair (w : Wave) (l : Nat) (f : Lane → Lane) : (w.modLane l f).fair = w.fair := rfl
@[simp] theorem Wave.modLane_irdan (w : Wave) (l : Nat) (f : Lane → Lane) : (w.modLane l f).irdan = w.irdan := rfl
@[simp] theorem Wave.modLane_rails (w : Wave) (l : Nat) (f : Lane → Lane) : (w.modLane l f).rails = w.rails := rfl
@[simp] theorem Wave.modLane_fairPos (w : Wave) (l : Nat) (f : Lane → Lane) : (w.modLane l f).fairPos = w.fairPos := rfl
@[simp] theorem Wave.modLane_statSum (w : Wave) (l : Nat) (f : Lane → Lane) : (w.modLane l f).statSum = w.statSum := rfl
@[simp] theorem Wave.modLane_statCount (w : Wave) (l : Nat) (f : Lane → Lane) : (w.modLane l f).statCount = w.statCount := rfl
@[simp] theorem Wave.modLane_statMax (w : Wave) (l : Nat) (f : Lane → Lane) : (w.modLane l f).statMax = w.statMax := rfl
@[simp] theorem Wave.modLane_groups (w : Wave) (l : Nat) (f : Lane → Lane) : (w.modLane l f).groups = w.groups := rfl
@[simp] theorem Wave.modLane_podError (w : Wave) (l : Nat) (f : Lane → Lane) : (w.modLane l f).podError = w.podError := rfl
@[simp] theorem Wave.modLane_holds (w : Wave) (l : Nat) (f : Lane → Lane) : (w.modLane l f).holds = w.holds := rfl
@[simp] theorem Wave.modLane_acquires (w : Wave) (l : Nat) (f : Lane → Lane) : (w.modLane l f).acquires = w.acquires := rfl
@[simp] theorem Wave.modLane_retired (w : Wave) (l : Nat) (f : Lane → Lane) : (w.modLane l f).retired = w.retired := rfl
@[simp] theorem Wave.modLane_yielded (w : Wave) (l : Nat) (f : Lane → Lane) : (w.modLane l f).yielded = w.yielded := rfl
@[simp] theorem Wave.modLane_diverged (w : Wave) (l : Nat) (f : Lane → Lane) : (w.modLane l f).diverged = w.diverged := rfl
@[simp] theorem Wave.modLane_pack (w : Wave) (l : Nat) (f : Lane → Lane) : (w.modLane l f).pack = w.pack := rfl
@[simp] theorem Wave.modLane_packPos (w : Wave) (l : Nat) (f : Lane → Lane) : (w.modLane l f).packPos = w.packPos := rfl

@[simp] theorem Wave.modLanes_width (w : Wave) (ls : List Nat) (f : Lane → Lane) : (w.modLanes ls f).width = w.width := rfl
@[simp] theorem Wave.modLanes_nv (w : Wave) (ls : List Nat) (f : Lane → Lane) : (w.modLanes ls f).nv = w.nv := rfl
@[simp] theorem Wave.modLanes_ns (w : Wave) (ls : List Nat) (f : Lane → Lane) : (w.modLanes ls f).ns = w.ns := rfl
@[simp] theorem Wave.modLanes_lanes (w : Wave) (ls : List Nat) (f : Lane → Lane) : (w.modLanes ls f).lanes = mapIdx' (fun i l => if ls.contains i then f l else l) w.lanes := rfl
@[simp] theorem Wave.modLanes_s (w : Wave) (ls : List Nat) (f : Lane → Lane) : (w.modLanes ls f).s = w.s := rfl
@[simp] theorem Wave.modLanes_k (w : Wave) (ls : List Nat) (f : Lane → Lane) : (w.modLanes ls f).k = w.k := rfl
@[simp] theorem Wave.modLanes_ocMem (w : Wave) (ls : List Nat) (f : Lane → Lane) : (w.modLanes ls f).ocMem = w.ocMem := rfl
@[simp] theorem Wave.modLanes_ocCpy (w : Wave) (ls : List Nat) (f : Lane → Lane) : (w.modLanes ls f).ocCpy = w.ocCpy := rfl
@[simp] theorem Wave.modLanes_ocMtx (w : Wave) (ls : List Nat) (f : Lane → Lane) : (w.modLanes ls f).ocMtx = w.ocMtx := rfl
@[simp] theorem Wave.modLanes_ocCol (w : Wave) (ls : List Nat) (f : Lane → Lane) : (w.modLanes ls f).ocCol = w.ocCol := rfl
@[simp] theorem Wave.modLanes_ltc (w : Wave) (ls : List Nat) (f : Lane → Lane) : (w.modLanes ls f).ltc = w.ltc := rfl
@[simp] theorem Wave.modLanes_awBase (w : Wave) (ls : List Nat) (f : Lane → Lane) : (w.modLanes ls f).awBase = w.awBase := rfl
@[simp] theorem Wave.modLanes_awLimit (w : Wave) (ls : List Nat) (f : Lane → Lane) : (w.modLanes ls f).awLimit = w.awLimit := rfl
@[simp] theorem Wave.modLanes_fflags (w : Wave) (ls : List Nat) (f : Lane → Lane) : (w.modLanes ls f).fflags = w.fflags := rfl
@[simp] theorem Wave.modLanes_round (w : Wave) (ls : List Nat) (f : Lane → Lane) : (w.modLanes ls f).round = w.round := rfl
@[simp] theorem Wave.modLanes_fair (w : Wave) (ls : List Nat) (f : Lane → Lane) : (w.modLanes ls f).fair = w.fair := rfl
@[simp] theorem Wave.modLanes_irdan (w : Wave) (ls : List Nat) (f : Lane → Lane) : (w.modLanes ls f).irdan = w.irdan := rfl
@[simp] theorem Wave.modLanes_rails (w : Wave) (ls : List Nat) (f : Lane → Lane) : (w.modLanes ls f).rails = w.rails := rfl
@[simp] theorem Wave.modLanes_fairPos (w : Wave) (ls : List Nat) (f : Lane → Lane) : (w.modLanes ls f).fairPos = w.fairPos := rfl
@[simp] theorem Wave.modLanes_statSum (w : Wave) (ls : List Nat) (f : Lane → Lane) : (w.modLanes ls f).statSum = w.statSum := rfl
@[simp] theorem Wave.modLanes_statCount (w : Wave) (ls : List Nat) (f : Lane → Lane) : (w.modLanes ls f).statCount = w.statCount := rfl
@[simp] theorem Wave.modLanes_statMax (w : Wave) (ls : List Nat) (f : Lane → Lane) : (w.modLanes ls f).statMax = w.statMax := rfl
@[simp] theorem Wave.modLanes_groups (w : Wave) (ls : List Nat) (f : Lane → Lane) : (w.modLanes ls f).groups = w.groups := rfl
@[simp] theorem Wave.modLanes_podError (w : Wave) (ls : List Nat) (f : Lane → Lane) : (w.modLanes ls f).podError = w.podError := rfl
@[simp] theorem Wave.modLanes_holds (w : Wave) (ls : List Nat) (f : Lane → Lane) : (w.modLanes ls f).holds = w.holds := rfl
@[simp] theorem Wave.modLanes_acquires (w : Wave) (ls : List Nat) (f : Lane → Lane) : (w.modLanes ls f).acquires = w.acquires := rfl
@[simp] theorem Wave.modLanes_retired (w : Wave) (ls : List Nat) (f : Lane → Lane) : (w.modLanes ls f).retired = w.retired := rfl
@[simp] theorem Wave.modLanes_yielded (w : Wave) (ls : List Nat) (f : Lane → Lane) : (w.modLanes ls f).yielded = w.yielded := rfl
@[simp] theorem Wave.modLanes_diverged (w : Wave) (ls : List Nat) (f : Lane → Lane) : (w.modLanes ls f).diverged = w.diverged := rfl
@[simp] theorem Wave.modLanes_pack (w : Wave) (ls : List Nat) (f : Lane → Lane) : (w.modLanes ls f).pack = w.pack := rfl
@[simp] theorem Wave.modLanes_packPos (w : Wave) (ls : List Nat) (f : Lane → Lane) : (w.modLanes ls f).packPos = w.packPos := rfl

@[simp] theorem Wave.setRailSlot_width (w : Wave) (n o t c : Nat) : (w.setRailSlot n o t c).width = w.width := rfl
@[simp] theorem Wave.setRailSlot_nv (w : Wave) (n o t c : Nat) : (w.setRailSlot n o t c).nv = w.nv := rfl
@[simp] theorem Wave.setRailSlot_ns (w : Wave) (n o t c : Nat) : (w.setRailSlot n o t c).ns = w.ns := rfl
@[simp] theorem Wave.setRailSlot_lanes (w : Wave) (n o t c : Nat) : (w.setRailSlot n o t c).lanes = w.lanes := rfl
@[simp] theorem Wave.setRailSlot_s (w : Wave) (n o t c : Nat) : (w.setRailSlot n o t c).s = w.s := rfl
@[simp] theorem Wave.setRailSlot_k (w : Wave) (n o t c : Nat) : (w.setRailSlot n o t c).k = w.k := rfl
@[simp] theorem Wave.setRailSlot_ocMem (w : Wave) (n o t c : Nat) : (w.setRailSlot n o t c).ocMem = w.ocMem := rfl
@[simp] theorem Wave.setRailSlot_ocCpy (w : Wave) (n o t c : Nat) : (w.setRailSlot n o t c).ocCpy = w.ocCpy := rfl
@[simp] theorem Wave.setRailSlot_ocMtx (w : Wave) (n o t c : Nat) : (w.setRailSlot n o t c).ocMtx = w.ocMtx := rfl
@[simp] theorem Wave.setRailSlot_ocCol (w : Wave) (n o t c : Nat) : (w.setRailSlot n o t c).ocCol = w.ocCol := rfl
@[simp] theorem Wave.setRailSlot_ltc (w : Wave) (n o t c : Nat) : (w.setRailSlot n o t c).ltc = w.ltc := rfl
@[simp] theorem Wave.setRailSlot_awBase (w : Wave) (n o t c : Nat) : (w.setRailSlot n o t c).awBase = w.awBase := rfl
@[simp] theorem Wave.setRailSlot_awLimit (w : Wave) (n o t c : Nat) : (w.setRailSlot n o t c).awLimit = w.awLimit := rfl
@[simp] theorem Wave.setRailSlot_fflags (w : Wave) (n o t c : Nat) : (w.setRailSlot n o t c).fflags = w.fflags := rfl
@[simp] theorem Wave.setRailSlot_round (w : Wave) (n o t c : Nat) : (w.setRailSlot n o t c).round = w.round := rfl
@[simp] theorem Wave.setRailSlot_fair (w : Wave) (n o t c : Nat) : (w.setRailSlot n o t c).fair = w.fair := rfl
@[simp] theorem Wave.setRailSlot_irdan (w : Wave) (n o t c : Nat) : (w.setRailSlot n o t c).irdan = w.irdan := rfl
@[simp] theorem Wave.setRailSlot_rails (w : Wave) (n o t c : Nat) : (w.setRailSlot n o t c).rails = modifyAt w.rails (n * (w.width / 8) + o) (fun r => setBits r (8 * t) 8 c) := rfl
@[simp] theorem Wave.setRailSlot_fairPos (w : Wave) (n o t c : Nat) : (w.setRailSlot n o t c).fairPos = w.fairPos := rfl
@[simp] theorem Wave.setRailSlot_statSum (w : Wave) (n o t c : Nat) : (w.setRailSlot n o t c).statSum = w.statSum := rfl
@[simp] theorem Wave.setRailSlot_statCount (w : Wave) (n o t c : Nat) : (w.setRailSlot n o t c).statCount = w.statCount := rfl
@[simp] theorem Wave.setRailSlot_statMax (w : Wave) (n o t c : Nat) : (w.setRailSlot n o t c).statMax = w.statMax := rfl
@[simp] theorem Wave.setRailSlot_groups (w : Wave) (n o t c : Nat) : (w.setRailSlot n o t c).groups = w.groups := rfl
@[simp] theorem Wave.setRailSlot_podError (w : Wave) (n o t c : Nat) : (w.setRailSlot n o t c).podError = w.podError := rfl
@[simp] theorem Wave.setRailSlot_holds (w : Wave) (n o t c : Nat) : (w.setRailSlot n o t c).holds = w.holds := rfl
@[simp] theorem Wave.setRailSlot_acquires (w : Wave) (n o t c : Nat) : (w.setRailSlot n o t c).acquires = w.acquires := rfl
@[simp] theorem Wave.setRailSlot_retired (w : Wave) (n o t c : Nat) : (w.setRailSlot n o t c).retired = w.retired := rfl
@[simp] theorem Wave.setRailSlot_yielded (w : Wave) (n o t c : Nat) : (w.setRailSlot n o t c).yielded = w.yielded := rfl
@[simp] theorem Wave.setRailSlot_diverged (w : Wave) (n o t c : Nat) : (w.setRailSlot n o t c).diverged = w.diverged := rfl
@[simp] theorem Wave.setRailSlot_pack (w : Wave) (n o t c : Nat) : (w.setRailSlot n o t c).pack = w.pack := rfl
@[simp] theorem Wave.setRailSlot_packPos (w : Wave) (n o t c : Nat) : (w.setRailSlot n o t c).packPos = w.packPos := rfl

@[simp] theorem Wave.fold_width (w : Wave) (c : Nat) : (w.fold c).width = w.width := rfl
@[simp] theorem Wave.fold_nv (w : Wave) (c : Nat) : (w.fold c).nv = w.nv := rfl
@[simp] theorem Wave.fold_ns (w : Wave) (c : Nat) : (w.fold c).ns = w.ns := rfl
@[simp] theorem Wave.fold_lanes (w : Wave) (c : Nat) : (w.fold c).lanes = w.lanes := rfl
@[simp] theorem Wave.fold_s (w : Wave) (c : Nat) : (w.fold c).s = w.s := rfl
@[simp] theorem Wave.fold_k (w : Wave) (c : Nat) : (w.fold c).k = w.k := rfl
@[simp] theorem Wave.fold_ocMem (w : Wave) (c : Nat) : (w.fold c).ocMem = w.ocMem := rfl
@[simp] theorem Wave.fold_ocCpy (w : Wave) (c : Nat) : (w.fold c).ocCpy = w.ocCpy := rfl
@[simp] theorem Wave.fold_ocMtx (w : Wave) (c : Nat) : (w.fold c).ocMtx = w.ocMtx := rfl
@[simp] theorem Wave.fold_ocCol (w : Wave) (c : Nat) : (w.fold c).ocCol = w.ocCol := rfl
@[simp] theorem Wave.fold_ltc (w : Wave) (c : Nat) : (w.fold c).ltc = max w.ltc c := rfl
@[simp] theorem Wave.fold_awBase (w : Wave) (c : Nat) : (w.fold c).awBase = w.awBase := rfl
@[simp] theorem Wave.fold_awLimit (w : Wave) (c : Nat) : (w.fold c).awLimit = w.awLimit := rfl
@[simp] theorem Wave.fold_fflags (w : Wave) (c : Nat) : (w.fold c).fflags = w.fflags := rfl
@[simp] theorem Wave.fold_round (w : Wave) (c : Nat) : (w.fold c).round = w.round := rfl
@[simp] theorem Wave.fold_fair (w : Wave) (c : Nat) : (w.fold c).fair = w.fair := rfl
@[simp] theorem Wave.fold_irdan (w : Wave) (c : Nat) : (w.fold c).irdan = w.irdan := rfl
@[simp] theorem Wave.fold_rails (w : Wave) (c : Nat) : (w.fold c).rails = w.rails := rfl
@[simp] theorem Wave.fold_fairPos (w : Wave) (c : Nat) : (w.fold c).fairPos = w.fairPos := rfl
@[simp] theorem Wave.fold_statSum (w : Wave) (c : Nat) : (w.fold c).statSum = w.statSum := rfl
@[simp] theorem Wave.fold_statCount (w : Wave) (c : Nat) : (w.fold c).statCount = w.statCount := rfl
@[simp] theorem Wave.fold_statMax (w : Wave) (c : Nat) : (w.fold c).statMax = w.statMax := rfl
@[simp] theorem Wave.fold_groups (w : Wave) (c : Nat) : (w.fold c).groups = w.groups := rfl
@[simp] theorem Wave.fold_podError (w : Wave) (c : Nat) : (w.fold c).podError = w.podError := rfl
@[simp] theorem Wave.fold_holds (w : Wave) (c : Nat) : (w.fold c).holds = w.holds := rfl
@[simp] theorem Wave.fold_acquires (w : Wave) (c : Nat) : (w.fold c).acquires = w.acquires := rfl
@[simp] theorem Wave.fold_retired (w : Wave) (c : Nat) : (w.fold c).retired = w.retired := rfl
@[simp] theorem Wave.fold_yielded (w : Wave) (c : Nat) : (w.fold c).yielded = w.yielded := rfl
@[simp] theorem Wave.fold_diverged (w : Wave) (c : Nat) : (w.fold c).diverged = w.diverged := rfl
@[simp] theorem Wave.fold_pack (w : Wave) (c : Nat) : (w.fold c).pack = w.pack := rfl
@[simp] theorem Wave.fold_packPos (w : Wave) (c : Nat) : (w.fold c).packPos = w.packPos := rfl

@[simp] theorem Wave.applyEffs_width (w : Wave) (ls : List Nat) (f : Nat → LaneEff) : (w.applyEffs ls f).width = w.width := rfl
@[simp] theorem Wave.applyEffs_nv (w : Wave) (ls : List Nat) (f : Nat → LaneEff) : (w.applyEffs ls f).nv = w.nv := rfl
@[simp] theorem Wave.applyEffs_ns (w : Wave) (ls : List Nat) (f : Nat → LaneEff) : (w.applyEffs ls f).ns = w.ns := rfl
@[simp] theorem Wave.applyEffs_lanes (w : Wave) (ls : List Nat) (f : Nat → LaneEff) : (w.applyEffs ls f).lanes = mapIdx' (fun l x => if ls.contains l then x.apply (f l) else x) w.lanes := rfl
@[simp] theorem Wave.applyEffs_s (w : Wave) (ls : List Nat) (f : Nat → LaneEff) : (w.applyEffs ls f).s = w.s := rfl
@[simp] theorem Wave.applyEffs_k (w : Wave) (ls : List Nat) (f : Nat → LaneEff) : (w.applyEffs ls f).k = w.k := rfl
@[simp] theorem Wave.applyEffs_ocMem (w : Wave) (ls : List Nat) (f : Nat → LaneEff) : (w.applyEffs ls f).ocMem = w.ocMem := rfl
@[simp] theorem Wave.applyEffs_ocCpy (w : Wave) (ls : List Nat) (f : Nat → LaneEff) : (w.applyEffs ls f).ocCpy = w.ocCpy := rfl
@[simp] theorem Wave.applyEffs_ocMtx (w : Wave) (ls : List Nat) (f : Nat → LaneEff) : (w.applyEffs ls f).ocMtx = w.ocMtx := rfl
@[simp] theorem Wave.applyEffs_ocCol (w : Wave) (ls : List Nat) (f : Nat → LaneEff) : (w.applyEffs ls f).ocCol = w.ocCol := rfl
@[simp] theorem Wave.applyEffs_ltc (w : Wave) (ls : List Nat) (f : Nat → LaneEff) : (w.applyEffs ls f).ltc = w.ltc := rfl
@[simp] theorem Wave.applyEffs_awBase (w : Wave) (ls : List Nat) (f : Nat → LaneEff) : (w.applyEffs ls f).awBase = w.awBase := rfl
@[simp] theorem Wave.applyEffs_awLimit (w : Wave) (ls : List Nat) (f : Nat → LaneEff) : (w.applyEffs ls f).awLimit = w.awLimit := rfl
@[simp] theorem Wave.applyEffs_fflags (w : Wave) (ls : List Nat) (f : Nat → LaneEff) : (w.applyEffs ls f).fflags = ls.foldl (fun fl l => fl ||| (f l).flags) w.fflags := rfl
@[simp] theorem Wave.applyEffs_round (w : Wave) (ls : List Nat) (f : Nat → LaneEff) : (w.applyEffs ls f).round = w.round := rfl
@[simp] theorem Wave.applyEffs_fair (w : Wave) (ls : List Nat) (f : Nat → LaneEff) : (w.applyEffs ls f).fair = w.fair := rfl
@[simp] theorem Wave.applyEffs_irdan (w : Wave) (ls : List Nat) (f : Nat → LaneEff) : (w.applyEffs ls f).irdan = w.irdan := rfl
@[simp] theorem Wave.applyEffs_rails (w : Wave) (ls : List Nat) (f : Nat → LaneEff) : (w.applyEffs ls f).rails = w.rails := rfl
@[simp] theorem Wave.applyEffs_fairPos (w : Wave) (ls : List Nat) (f : Nat → LaneEff) : (w.applyEffs ls f).fairPos = w.fairPos := rfl
@[simp] theorem Wave.applyEffs_statSum (w : Wave) (ls : List Nat) (f : Nat → LaneEff) : (w.applyEffs ls f).statSum = w.statSum := rfl
@[simp] theorem Wave.applyEffs_statCount (w : Wave) (ls : List Nat) (f : Nat → LaneEff) : (w.applyEffs ls f).statCount = w.statCount := rfl
@[simp] theorem Wave.applyEffs_statMax (w : Wave) (ls : List Nat) (f : Nat → LaneEff) : (w.applyEffs ls f).statMax = w.statMax := rfl
@[simp] theorem Wave.applyEffs_groups (w : Wave) (ls : List Nat) (f : Nat → LaneEff) : (w.applyEffs ls f).groups = w.groups := rfl
@[simp] theorem Wave.applyEffs_podError (w : Wave) (ls : List Nat) (f : Nat → LaneEff) : (w.applyEffs ls f).podError = w.podError := rfl
@[simp] theorem Wave.applyEffs_holds (w : Wave) (ls : List Nat) (f : Nat → LaneEff) : (w.applyEffs ls f).holds = w.holds := rfl
@[simp] theorem Wave.applyEffs_acquires (w : Wave) (ls : List Nat) (f : Nat → LaneEff) : (w.applyEffs ls f).acquires = w.acquires := rfl
@[simp] theorem Wave.applyEffs_retired (w : Wave) (ls : List Nat) (f : Nat → LaneEff) : (w.applyEffs ls f).retired = w.retired := rfl
@[simp] theorem Wave.applyEffs_yielded (w : Wave) (ls : List Nat) (f : Nat → LaneEff) : (w.applyEffs ls f).yielded = w.yielded := rfl
@[simp] theorem Wave.applyEffs_diverged (w : Wave) (ls : List Nat) (f : Nat → LaneEff) : (w.applyEffs ls f).diverged = w.diverged := rfl
@[simp] theorem Wave.applyEffs_pack (w : Wave) (ls : List Nat) (f : Nat → LaneEff) : (w.applyEffs ls f).pack = w.pack := rfl
@[simp] theorem Wave.applyEffs_packPos (w : Wave) (ls : List Nat) (f : Nat → LaneEff) : (w.applyEffs ls f).packPos = w.packPos := rfl


end Sys2Proof.Machine
end

