-- ==== Sys2Proof/Laws/Waves.lean ====
section
/-! SUPPORT. What the updates of scalars, scale rails and waves do, as the terms of Safety state it. -/

namespace Sys2Proof.Machine

theorem ScalarsHave.none (w : Wave) : ScalarsHave w w [] := ⟨rfl, by simp, fun _ _ => rfl⟩

theorem sreg_setS (w : Wave) (n m : Nat) (z : Word) :
    (w.setS n z).sreg m = if n = m ∧ m < w.s.length then z else w.sreg m := by
  exact getD_setAt w.s n m z 0

/-- One scalar register written. -/
theorem ScalarsHave.one (w : Wave) (n : Nat) (z : Word) : ScalarsHave w (w.setS n z) [(n, z)] := by
  refine ⟨by simp, ?_, ?_⟩
  · intro m u hm hl
    simp only [List.mem_singleton, Prod.mk.injEq] at hm
    obtain ⟨rfl, rfl⟩ := hm
    rw [sreg_setS, if_pos ⟨rfl, hl⟩]
  · intro m hm
    have : n ≠ m := by rintro rfl; exact hm z (by simp)
    rw [sreg_setS, if_neg (by simp [this])]

/-- A pair of scalar registers written. -/
theorem ScalarsHave.pair (w : Wave) (n : Nat) (z u : Word) :
    ScalarsHave w ((w.setS n z).setS (n + 1) u) [(n, z), (n + 1, u)] := by
  refine ⟨by simp, ?_, ?_⟩
  · intro m x hm hl
    simp only [List.mem_cons, Prod.mk.injEq, List.not_mem_nil, or_false] at hm
    rcases hm with ⟨rfl, rfl⟩ | ⟨rfl, rfl⟩
    · rw [sreg_setS, if_neg (by omega), sreg_setS, if_pos ⟨rfl, hl⟩]
    · rw [sreg_setS, if_pos ⟨rfl, by simpa using hl⟩]
  · intro m hm
    have h1 : n ≠ m := by rintro rfl; exact hm z (by simp)
    have h2 : n + 1 ≠ m := by rintro rfl; exact hm u (by simp)
    rw [sreg_setS, if_neg (by simp [h2]), sreg_setS, if_neg (by simp [h1])]

theorem slot_setBits (r t u c : Nat) :
    setBits r (8 * t) 8 c / 256 ^ u % 256 = if t = u then c % 256 else r / 256 ^ u % 256 := by
  have e : ∀ k : Nat, 256 ^ k = 2 ^ (8 * k) := fun k => by rw [pow_mul]; norm_num
  have h256 : (256 : Nat) = 2 ^ 8 := by norm_num
  rw [e u, h256]
  apply Nat.eq_of_testBit_eq
  intro j
  by_cases htu : t = u
  · subst htu
    rw [if_pos rfl, Nat.testBit_mod_two_pow, Nat.testBit_mod_two_pow, Nat.testBit_div_two_pow, testBit_setBits]
    by_cases hj : j < 8
    · rw [if_pos (by omega)]; simp [hj]
    · simp [hj]
  · rw [if_neg htu, Nat.testBit_mod_two_pow, Nat.testBit_mod_two_pow, Nat.testBit_div_two_pow, Nat.testBit_div_two_pow,
      testBit_setBits]
    by_cases hj : j < 8
    · rw [if_neg (by omega)]
    · simp [hj]

theorem octet_index {k n m o p : Nat} (ho : o < k) (hp : p < k) (h : n * k + o = m * k + p) : n = m ∧ o = p := by
  have hk : 0 < k := by omega
  have h1 : (n * k + o) / k = n := by
    rw [Nat.add_comm, Nat.add_mul_div_right _ _ hk, Nat.div_eq_of_lt ho, Nat.zero_add]
  have h2 : (m * k + p) / k = m := by
    rw [Nat.add_comm, Nat.add_mul_div_right _ _ hk, Nat.div_eq_of_lt hp, Nat.zero_add]
  have hnm : n = m := by rw [← h1, h, h2]
  subst hnm
  exact ⟨rfl, by omega⟩

/-- One slot of a rail written: it holds the code, and every other slot of every rail is as before (R174). -/
theorem railSlot_setRailSlot (w : Wave) (n o t c m p u : Nat) :
    (w.setRailSlot n o t c).railSlot m p u =
      if n * (w.width / 8) + o = m * (w.width / 8) + p ∧ t = u ∧ n * (w.width / 8) + o < w.rails.length then c % 256
      else w.railSlot m p u := by
  simp only [Wave.railSlot, Wave.rail, Wave.setRailSlot, List.getD_eq_getElem?_getD, getElem?_modifyAt]
  by_cases hi : n * (w.width / 8) + o = m * (w.width / 8) + p
  · rw [if_pos hi]
    by_cases hl : m * (w.width / 8) + p < w.rails.length
    · simp only [List.getElem?_eq_getElem hl, Option.map_some, Option.getD_some, slot_setBits]
      by_cases ht : t = u <;> simp [hi, ht, hl]
    · simp [hi, hl]
  · simp [hi]

theorem find?_map_uid (bs : List Block) (u v : Nat) (f : Block → Block) (hf : ∀ b, (f b).uid = b.uid) :
    (bs.map (fun b => if b.uid == u then f b else b)).find? (fun b => b.uid == v) =
      if v = u then (bs.find? (fun b => b.uid == u)).map f else bs.find? (fun b => b.uid == v) := by
  induction bs with
  | nil => simp
  | cons b bs ih =>
    simp only [List.map_cons, List.find?_cons]
    by_cases hbu : b.uid = u
    · by_cases hv : v = u
      · simp [hbu, hf, hv]
      · have h1 : ¬ b.uid = v := by rw [hbu]; exact fun h => hv h.symm
        have h2 : ((f b).uid == v) = false := by rw [hf]; simpa using h1
        have h3 : (b.uid == v) = false := by simpa using h1
        rw [if_pos (by simpa using hbu), h2, h3, ih, if_neg hv, if_neg hv]
    · by_cases hbv : b.uid = v
      · have hv : ¬ v = u := by rw [← hbv]; exact hbu
        simp [hbv, hv]
      · have h3 : (b.uid == v) = false := by simpa using hbv
        have h4 : (b.uid == u) = false := by simpa using hbu
        simp only [h4, h3, Bool.false_eq_true, if_false]
        exact ih

/-- A block passed through `f` is found passed through `f`, and every other block as before. -/
theorem State.block?_modBlock (s : State) (u v : Nat) (f : Block → Block) (hf : ∀ b, (f b).uid = b.uid) :
    (s.modBlock u f).block? v = if v = u then (s.block? u).map f else s.block? v :=
  find?_map_uid s.blocks u v f hf

theorem State.block?_modWave (s : State) (u v w : Nat) (f : Wave → Wave) :
    (s.modWave (.blk u w) f).block? v =
      if v = u then (s.block? u).map (fun b => { b with waves := modifyAt b.waves w f }) else s.block? v :=
  find?_map_uid s.blocks u v (fun b => { b with waves := modifyAt b.waves w f }) (fun _ => rfl)

theorem core_modCore (s : State) (c d : Nat) (f : Core → Core) :
    (s.modCore c f).core d = if c = d ∧ d < s.cores.length then f (s.core d) else s.core d := by
  simp only [State.core, State.modCore, List.getD_eq_getElem?_getD, getElem?_modifyAt]
  by_cases h : c = d <;> by_cases k : d < s.cores.length <;> simp [h, k]

/-- A wave passed through `f` is found passed through `f`. -/
theorem State.wave?_modWave (s : State) (r : WaveRef) (f : Wave → Wave) : (s.modWave r f).wave? r = (s.wave? r).map f := by
  cases r with
  | blk u w =>
    simp only [State.wave?, State.block?_modWave, if_true]
    cases s.block? u <;> simp [getElem?_modifyAt]
  | hdl c q =>
    simp only [State.modWave, State.wave?, core_modCore, true_and]
    by_cases hc : c < s.cores.length
    · simp only [hc, if_true, List.getD_eq_getElem?_getD, getElem?_modifyAt]
      cases h : (s.core c).handlers[q]? with
      | none => simp
      | some x => cases x <;> simp
    · have hd : s.core c = .reset := by
        simp [State.core, List.getElem?_eq_none (Nat.le_of_not_lt hc)]
      simp only [hc, if_false, hd]
      have : (Core.reset.handlers.getD q none) = none := by
        rw [List.getD_eq_getElem?_getD, show Core.reset.handlers = List.replicate 4 none from rfl, List.getElem?_replicate]
        split <;> rfl
      simp [List.getD_eq_getElem?_getD] at this ⊢
      rw [this]; rfl

/-- Every other wave is as before. -/
theorem State.wave?_modWave_ne (s : State) (r q : WaveRef) (f : Wave → Wave) (h : q ≠ r) :
    (s.modWave r f).wave? q = s.wave? q := by
  cases r with
  | blk u w =>
    cases q with
    | blk v x =>
      simp only [State.wave?, State.block?_modWave]
      by_cases hv : v = u
      · subst hv
        have hx : w ≠ x := by rintro rfl; exact h rfl
        cases s.block? v <;> simp [getElem?_modifyAt, hx]
      · simp [hv]
    | hdl c p => rfl
  | hdl c p =>
    cases q with
    | blk v x => rfl
    | hdl d y =>
      simp only [State.modWave, State.wave?, core_modCore]
      by_cases hd : c = d ∧ d < s.cores.length
      · obtain ⟨rfl, hl⟩ := hd
        have hy : p ≠ y := by rintro rfl; exact h rfl
        simp [hl, List.getD_eq_getElem?_getD, getElem?_modifyAt, hy]
      · simp [hd]

/-- A lane passed through `f` is found passed through `f`, and the other lanes of its wave as before. -/
theorem State.lane?_modLane (s : State) (r : WaveRef) (l m : Nat) (f : Lane → Lane) :
    (s.modLane r l f).lane? r m = if l = m then (s.lane? r m).map f else s.lane? r m := by
  simp only [State.lane?, State.modLane, State.wave?_modWave]
  cases s.wave? r <;> by_cases h : l = m <;> simp [Wave.lane?, Wave.modLane, getElem?_modifyAt, h]

end Sys2Proof.Machine
end

