-- ==== Sys2Proof/Laws/Exec.lean ====
section
/-! SUPPORT. What the shared operations of instruction words do: one wave executing alone, lanes whose registers are full, and the effects
of lanes applied together. -/

namespace Sys2Proof.Machine

/-- With one member an instruction word is executed for it alone, and nothing splits. -/
theorem execWord_member {s : State} {c : Ctx} {w : Wave} (h : Alone s c w) (i : Instr) (home : Bool) (vr sr : List Nat)
    (legal : Wave → Bool) (f : Ctx → Wave → State → State) :
    s.execWord i home vr sr legal f = .next (s.execMember c (fun w => i.wf && w.declares vr sr && legal w) f) := by
  obtain ⟨⟨j, m, hj, hm, hc⟩, -, -⟩ := h
  have hn : j.live.length ≤ 1 := by
    rw [Issue.live, hm]; exact (List.length_filter_le _ _).trans (by simp)
  have hs : (home && decide (2 ≤ j.live.length)) = false := by
    simp only [Bool.and_eq_false_imp, decide_eq_false_iff_not]; omega
  simp [State.execWord, hj, hs, hm, hc]

/-- A member with executing lanes acts on its wave when the instruction is legal, and traps them otherwise. -/
theorem execMember_wave {s : State} {c : Ctx} {w : Wave} (h : Alone s c w) (legal : Wave → Bool)
    (f : Ctx → Wave → State → State) : s.execMember c legal f = if legal w then f c w s else s.illegal c := by
  have he : c.x.isEmpty = false := by simpa using h.lanes
  rw [State.execMember, if_neg (by simp [he]), h.wave]

/-- With one member an instruction word acts once, on its wave, when it is legal. -/
theorem execWord_alone {s : State} {c : Ctx} {w : Wave} (h : Alone s c w) {i : Instr} {home : Bool} {vr sr : List Nat}
    {legal : Wave → Bool} {f : Ctx → Wave → State → State} (hi : LegalFor i vr sr w) (hl : legal w = true) :
    s.execWord i home vr sr legal f = .next (f c w s) := by
  have hd : w.declares vr sr = true := by
    simp only [Wave.declares, Bool.and_eq_true, List.all_eq_true, decide_eq_true_eq]
    exact ⟨hi.vregs, hi.sregs⟩
  rw [execWord_member h, execMember_wave h, if_pos (by simp [hi.wf, hd, hl])]

/-- An instruction that is illegal for a wave executing alone traps its executing lanes with cause 0x01 (R18, R87). -/
theorem execWord_illegal {s : State} {c : Ctx} {w : Wave} (h : Alone s c w) {i : Instr} {home : Bool} {vr sr : List Nat}
    {legal : Wave → Bool} {f : Ctx → Wave → State → State} (hi : (i.wf && w.declares vr sr && legal w) = false) :
    s.execWord i home vr sr legal f = .next (s.illegal c) := by
  rw [execWord_member h, execMember_wave h, if_neg (by simp [hi])]

/-- A lane whose needed registers are all full goes on. -/
theorem gate_go {w : Wave} {te : Bool} {needs : List (Nat × Nat)}
    (h : ∀ n ∈ needs, ∀ x : Lane, w.lanes[n.1]? = some x → x.isFull n.2 = true) : w.gate te needs = .go := by
  have hm : needs.filter (fun n => !(((w.lanes[n.1]?).map (·.isFull n.2)).getD true)) = [] := by
    rw [List.filter_eq_nil_iff]
    intro n hn
    cases hl : w.lanes[n.1]? with
    | none => simp
    | some x => simp [h n hn x hl]
  simp [Wave.gate, hm, Wave.firstMark]

theorem gates_go {s : State} {c : Ctx} {w : Wave} {needs : Nat → List (Nat × Nat)} {ts : List Nat}
    (h : ∀ l ∈ ts, w.gate c.te (needs l) = .go) : s.gates c w needs ts = (ts, s) := by
  have h1 : ts.filter (fun l => w.gate c.te (needs l) == .go) = ts := by
    rw [List.filter_eq_self]; intro l hl; simp [h l hl]
  have h2 : ∀ (ls : List Nat), (∀ l ∈ ls, w.gate c.te (needs l) = .go) →
      ls.foldl (fun s l => s.passGate c l (w.gate c.te (needs l))) s = s := by
    intro ls
    induction ls with
    | nil => intro _; rfl
    | cons l ls ih =>
      intro hl
      rw [List.foldl_cons, hl l (by simp)]
      exact ih (fun m hm => hl m (by simp [hm]))
  simp [State.gates, h1, h2 ts h]

/-- When the registers that lanes name are full, every lane of T goes on and nothing happens yet. -/
theorem gates_full {s : State} {c : Ctx} {w : Wave} {vr ts : List Nat} (h : w.allFull ts vr) :
    s.gates c w (fun l => vr.map (fun n => (l, n))) ts = (ts, s) := by
  apply gates_go
  intro l hl
  apply gate_go
  intro n hn x hx
  simp only [List.mem_map] at hn
  obtain ⟨r, hr, rfl⟩ := hn
  exact h l hl x hx r hr

theorem foldl_writeV (x : Lane) (regs : List (Nat × Word)) (hn : (regs.map Prod.fst).Nodup) :
    let y := regs.foldl (fun l p => l.writeV p.1 p.2) x
    y = { x with v := y.v, full := y.full, marks := y.marks } ∧ y.v.length = x.v.length ∧
      (∀ r z, (r, z) ∈ regs → (r < x.v.length → y.reg r = z) ∧ y.isFull r = true ∧ y.mark? r = none) ∧
      (∀ r, (∀ z, (r, z) ∉ regs) → y.reg r = x.reg r ∧ y.isFull r = x.isFull r ∧ y.mark? r = x.mark? r) := by
  induction regs generalizing x with
  | nil => exact ⟨rfl, rfl, by simp, fun r _ => ⟨rfl, rfl, rfl⟩⟩
  | cons p ps ih =>
    obtain ⟨q, u⟩ := p
    simp only [List.map_cons, List.nodup_cons] at hn
    have one (r : Nat) : (r < x.v.length ∨ r ≠ q → (x.writeV q u).reg r = (if r = q then u else x.reg r)) ∧
        (x.writeV q u).isFull r = (if r = q then true else x.isFull r) ∧
        (x.writeV q u).mark? r = (if r = q then none else x.mark? r) := by
      refine ⟨?_, ?_, ?_⟩
      · intro hr
        simp only [Lane.reg, Lane.writeV, getD_setAt]
        by_cases h : r = q
        · subst h; simp [hr.resolve_right (by simp)]
        · simp [h, Ne.symm h]
      · simp only [Lane.isFull, Lane.writeV, testBit_setBit]
      · simp only [Lane.mark?, Lane.writeV]
        by_cases h : r = q
        · subst h
          simp [List.find?_eq_none]
        · rw [if_neg h]
          congr 1
          rw [List.find?_filter]
          apply List.find?_congr
          intro m _
          by_cases hm : m.1 = r
          · simp [hm, h]
          · simp [hm]
    obtain ⟨h1, h2, h3, h4⟩ := ih (x.writeV q u) hn.2
    refine ⟨?_, ?_, ?_, ?_⟩
    · simp only [List.foldl_cons]; rw [h1]; rfl
    · simp only [List.foldl_cons]; rw [h2]; simp
    · intro r z hr
      simp only [List.mem_cons, Prod.mk.injEq] at hr
      rcases hr with ⟨rfl, rfl⟩ | hr
      · have hno : ∀ z, (r, z) ∉ ps := fun z hz => hn.1 (List.mem_map.2 ⟨(r, z), hz, rfl⟩)
        obtain ⟨e1, e2, e3⟩ := h4 r hno
        simp only [List.foldl_cons]
        rw [e1, e2, e3, (one r).2.1, (one r).2.2]
        exact ⟨fun hl => by rw [(one r).1 (.inl hl)]; simp, by simp, by simp⟩
      · exact ⟨fun hl => (h3 r z hr).1 (by simpa using hl), (h3 r z hr).2⟩
    · intro r hr
      have hne : r ≠ q := by rintro rfl; exact hr u (by simp)
      obtain ⟨e1, e2, e3⟩ := h4 r (fun z hz => hr z (by simp [hz]))
      simp only [List.foldl_cons]
      rw [e1, e2, e3, (one r).2.1, (one r).2.2, (one r).1 (.inr hne)]
      simp [hne]

theorem foldl_setPred (x : Lane) (preds : List (Nat × Bool)) (hn : (preds.map Prod.fst).Nodup) :
    let y := preds.foldl (fun l p => l.setPred p.1 p.2) x
    y = { x with preds := y.preds } ∧ (∀ p b, (p, b) ∈ preds → p ≠ 0 → y.pred p = b) ∧
      (∀ p, (p = 0 ∨ ∀ b, (p, b) ∉ preds) → y.pred p = x.pred p) := by
  induction preds generalizing x with
  | nil => exact ⟨rfl, by simp, fun _ _ => rfl⟩
  | cons p ps ih =>
    obtain ⟨q, u⟩ := p
    simp only [List.map_cons, List.nodup_cons] at hn
    have one (p : Nat) : (x.setPred q u).pred p = if p = q ∧ q ≠ 0 then u else x.pred p := by
      by_cases hq : q = 0
      · simp [Lane.setPred, hq]
      · by_cases hp : p = q
        · subst hp; simp [Lane.setPred, hq, Lane.pred, testBit_setBit]
        · simp [Lane.setPred, hq, Lane.pred, testBit_setBit, hp]
    have rest : x.setPred q u = { x with preds := (x.setPred q u).preds } := by
      unfold Lane.setPred; split <;> rfl
    obtain ⟨h1, h2, h3⟩ := ih (x.setPred q u) hn.2
    refine ⟨?_, ?_, ?_⟩
    · simp only [List.foldl_cons]; rw [h1, rest]
    · intro r z hr hr0
      simp only [List.mem_cons, Prod.mk.injEq] at hr
      rcases hr with ⟨rfl, rfl⟩ | hr
      · have hno : ∀ z, (r, z) ∉ ps := fun z hz => hn.1 (List.mem_map.2 ⟨(r, z), hz, rfl⟩)
        have := h3 r (.inr hno)
        simpa [one, hr0] using this
      · exact h2 r z hr hr0
    · intro r hr
      have h3r := h3 r (hr.imp_right fun hr b hb => hr b (by simp [hb]))
      have hne : ¬ (r = q ∧ q ≠ 0) := by
        rintro ⟨rfl, h0⟩
        rcases hr with h | h
        · exact h0 h
        · exact h u (by simp)
      simpa [one, hne] using h3r

/-- A lane's effect applied writes what it names and nothing else. -/
theorem lane_apply (x : Lane) (e : LaneEff) (hr : (e.regs.map Prod.fst).Nodup) (hp : (e.preds.map Prod.fst).Nodup) :
    LaneWritten x (x.apply e) e := by
  have h := foldl_writeV x e.regs hr
  have k := foldl_setPred (e.regs.foldl (fun l p => l.writeV p.1 p.2) x) e.preds hp
  simp only [] at h k
  generalize hy : e.regs.foldl (fun l p => l.writeV p.1 p.2) x = y at h k
  generalize hz : e.preds.foldl (fun l p => l.setPred p.1 p.2) y = z at k
  have hxz : x.apply e = z := by simp [Lane.apply, hy, hz]
  obtain ⟨h1, h2, h3, h4⟩ := h
  obtain ⟨k1, k2, k3⟩ := k
  have kv : z.v = y.v := by rw [k1]
  have kf : z.full = y.full := by rw [k1]
  have km : z.marks = y.marks := by rw [k1]
  have hyp : y.preds = x.preds := by rw [h1]
  rw [hxz]
  refine ⟨?_, by rw [kv, h2], ?_, ?_, k2, ?_⟩
  · rw [k1, h1]
  · intro r u hu
    have := h3 r u hu
    simpa [Lane.reg, Lane.isFull, Lane.mark?, kv, kf, km] using this
  · intro r hu
    have := h4 r hu
    simpa [Lane.reg, Lane.isFull, Lane.mark?, kv, kf, km] using this
  · intro p hp
    rw [k3 p hp]
    simp [Lane.pred, hyp]

theorem foldl_flags (ls : List Nat) (f : Nat → Flags) (a : Flags) (k : Nat) :
    (ls.foldl (fun fl l => fl ||| f l) a).getLsbD k = (a.getLsbD k || ls.any (fun l => (f l).getLsbD k)) := by
  induction ls generalizing a with
  | nil => simp
  | cons l ls ih => simp [ih, Bool.or_assoc]

/-- The effects of lanes applied together (R10, R168). -/
theorem applyEffs_written (w : Wave) (ts : List Nat) (f : Nat → LaneEff)
    (hr : ∀ l, ((f l).regs.map Prod.fst).Nodup) (hp : ∀ l, ((f l).preds.map Prod.fst).Nodup) :
    LanesWritten w (w.applyEffs ts f) ts f := by
  refine ⟨rfl, fun k => foldl_flags _ _ _ _, by simp, ?_, ?_⟩
  · intro l x y hl hx hy
    simp only [Wave.applyEffs_lanes, getElem?_mapIdx', hx, Option.map_some, Option.some.injEq] at hy
    have : ts.contains l = true := by simpa using hl
    rw [this, if_pos rfl] at hy
    subst hy
    exact lane_apply x (f l) (hr l) (hp l)
  · intro l hl
    have : ts.contains l = false := by simpa using hl
    simp only [Wave.applyEffs_lanes, getElem?_mapIdx', this]
    cases w.lanes[l]? <;> rfl

/-- A vector instruction that reads and writes its own lane only completes as `LaneInstr` says. -/
theorem laneOp_completes {s : State} {c : Ctx} {w : Wave} (h : Alone s c w) {i : Instr} {g : BitVec 4}
    {vr sr : List Nat} (hi : LegalFor i vr sr w) (hf : w.allFull (c.t w g) vr) (f : Wave → Nat → LaneEff)
    (hr : ∀ l, ((f w l).regs.map Prod.fst).Nodup) (hp : ∀ l, ((f w l).preds.map Prod.fst).Nodup) :
    ∃ k : Wave → Wave, s.laneOp i g vr sr f = .next (s.modWave c.r k) ∧ LanesWritten w (k w) (c.t w g) (f w) := by
  refine ⟨fun v => v.applyEffs (c.t w g) (f w), ?_, applyEffs_written w _ _ hr hp⟩
  rw [State.laneOp, execWord_alone h hi rfl]
  simp only [gates_full hf]

/-- A home-scoped vector instruction whose needed registers are full acts once, for all the lanes of T. -/
theorem crossOp_completes {s : State} {c : Ctx} {w : Wave} (h : Alone s c w) {i : Instr} {g : BitVec 4} {vr sr : List Nat}
    (hi : LegalFor i vr sr w) {legal : Wave → Bool} (hl : legal w = true) {needs : Wave → List Nat → Nat → List (Nat × Nat)}
    (hn : w.needsMet (c.t w g) (needs w (c.t w g)))
    (f : Wave → List Nat → List Nat → Wave → Wave) :
    s.crossOp i g vr sr legal needs f = .next (s.modWave c.r (f w (c.t w g) (c.t w g))) := by
  rw [State.crossOp, execWord_alone h hi hl]
  simp only [gates_go (fun l hl => gate_go (hn l hl))]

/-- A vector instruction of its own lane is a `LaneInstr`. -/
theorem laneInstr_of {i : Instr} {g : BitVec 4} {vr sr : List Nat} (eff : Wave → Nat → LaneEff)
    (he : ∀ s, exec i s = s.laneOp i g vr sr eff)
    (hr : ∀ w l, ((eff w l).regs.map Prod.fst).Nodup ∧ ((eff w l).preds.map Prod.fst).Nodup) : LaneInstr i g vr sr eff := by
  intro s c w h hi hf
  rw [he]
  exact laneOp_completes h hi hf eff (fun l => (hr w l).1) (fun l => (hr w l).2)

/-- A home-scoped vector instruction is a `CrossInstr`. -/
theorem crossInstr_of {i : Instr} {g : BitVec 4} {vr sr : List Nat} {legal : Wave → Bool} {legal' : Wave → Prop}
    {needs : Wave → List Nat → Nat → List (Nat × Nat)} (f : Wave → List Nat → List Nat → Wave → Wave)
    {post : Wave → List Nat → Wave → Prop} (he : ∀ s, exec i s = s.crossOp i g vr sr legal needs f)
    (hl : ∀ w, legal' w → legal w = true) (hp : ∀ w ts, legal' w → post w ts (f w ts ts w)) :
    CrossInstr i g vr sr legal' needs post := by
  intro s c w h hi hlw hn
  exact ⟨_, by rw [he]; exact crossOp_completes h hi (hl w hlw) hn f, hp w _ hlw⟩

/-- A scalar-class instruction acts once for a wave with T not empty, and not at all for one with T empty (R137). -/
theorem scalarOp_completes {s : State} {c : Ctx} {w : Wave} (h : Alone s c w) {i : Instr} {g : BitVec 4} {sr : List Nat}
    (hi : LegalFor i [] sr w) (f : Wave → Wave) :
    s.scalarOp i g sr f = .next (if (c.t w g).isEmpty then s else s.modWave c.r f) := by
  rw [State.scalarOp, execWord_alone h hi rfl]

/-- A scalar-class instruction that writes one scalar register is a `ScalarInstr`. -/
theorem scalarInstr_of {i : Instr} {g : BitVec 4} {sr : List Nat} {d : Nat} (z : Wave → Word)
    (he : ∀ s, exec i s = s.scalarOp i g sr (fun w => w.setS d (z w))) : ScalarInstr i g sr (fun w => [(d, z w)]) := by
  intro s c w h hi
  rw [he, scalarOp_completes h hi]
  exact ⟨fun ht => by simp [ht], fun ht => ⟨fun w => w.setS d (z w), by simp [ht], rfl, .one w d _⟩⟩

end Sys2Proof.Machine
end

