-- ==== Sys2Proof/Laws/Control.lean ====
section
/-! SUPPORT. What moving and stopping lanes does: the lanes leave the clause issue and each is changed, and nothing else differs. -/

namespace Sys2Proof.Machine

theorem modBlock_modBlock (s : State) (u : Nat) (f g : Block → Block) (hf : ∀ b, (f b).uid = b.uid) :
    (s.modBlock u f).modBlock u g = s.modBlock u (fun b => g (f b)) := by
  simp only [State.modBlock, List.map_map]
  congr 1
  apply List.map_congr_left
  intro b _
  by_cases h : b.uid = u <;> simp [h, hf]

theorem modifyAt_modifyAt {α : Type} (l : List α) (i : Nat) (f g : α → α) :
    modifyAt (modifyAt l i f) i g = modifyAt l i (fun x => g (f x)) := by
  induction l generalizing i with
  | nil => cases i <;> rfl
  | cons h t ih => cases i <;> simp [modifyAt, ih]

/-- Two changes of one wave are one. -/
theorem modWave_modWave (s : State) (r : WaveRef) (f g : Wave → Wave) :
    (s.modWave r f).modWave r g = s.modWave r (fun w => g (f w)) := by
  cases r with
  | blk u w =>
    simp only [State.modWave]
    refine (modBlock_modBlock s u (fun b : Block => { b with waves := modifyAt b.waves w f })
      (fun b : Block => { b with waves := modifyAt b.waves w g }) (fun _ => rfl)).trans ?_
    simp only [modifyAt_modifyAt]
  | hdl c q =>
    simp only [State.modWave, State.modCore, modifyAt_modifyAt]
    congr 2
    funext k
    congr 2
    funext h
    cases h <;> rfl

theorem modWave_dropFromIssues (s : State) (r q : WaveRef) (f : Wave → Wave) (ls : List Nat) :
    (s.dropFromIssues q ls).modWave r f = (s.modWave r f).dropFromIssues q ls := by cases r <;> rfl

theorem dropFromIssues_append (s : State) (r : WaveRef) (ls ms : List Nat) :
    (s.dropFromIssues r ls).dropFromIssues r ms = s.dropFromIssues r (ls ++ ms) := by
  simp only [State.dropFromIssues, List.map_map]
  congr 1
  apply List.map_congr_left
  intro i _
  simp only [Function.comp, Issue.dropLanes, List.map_map]
  congr 1
  apply List.map_congr_left
  intro m _
  by_cases h : m.1 = r
  · simp only [Function.comp, h, beq_self_eq_true, if_true, List.filter_filter, Prod.mk.injEq, true_and]
    apply List.filter_congr
    intro l _
    simp [List.contains_eq_mem, Bool.and_comm]
  · have : (m.1 == r) = false := by simpa using h
    simp [Function.comp, this]

/-- Dropping the same lanes, in whatever order they are listed, is the same. -/
theorem dropFromIssues_congr (s : State) (r : WaveRef) {ls ms : List Nat} (h : ∀ l, l ∈ ls ↔ l ∈ ms) :
    s.dropFromIssues r ls = s.dropFromIssues r ms := by
  have : ∀ l, ls.contains l = ms.contains l := fun l => by
    rw [Bool.eq_iff_iff]; simp [h]
  simp only [State.dropFromIssues, Issue.dropLanes, this]

theorem dropFromIssues_nil (s : State) (r : WaveRef) : s.dropFromIssues r [] = s := by
  have h : ∀ i : Issue, i.dropLanes r [] = i := by
    intro i
    have hm : ∀ m : WaveRef × List Nat, (if m.1 == r then (m.1, m.2.filter (fun l => !([] : List Nat).contains l)) else m) = m := by
      intro m
      obtain ⟨a, b⟩ := m
      by_cases h : a = r <;> simp [h]
    simp only [Issue.dropLanes, hm, List.map_id']
  simp [State.dropFromIssues, h]

/-- Lanes that each change and leave their clause one after the other: one change of the wave, and one leaving. -/
theorem foldl_leave (s : State) (r : WaveRef) (h : Nat → Lane → Lane) (ls : List Nat) :
    ∃ f : Wave → Wave, ls.foldl (fun s l => (s.modLane r l (h l)).dropFromIssues r [l]) s =
      (s.modWave r f).dropFromIssues r ls ∧ ∀ w, f w = ls.foldl (fun w l => w.modLane l (h l)) w := by
  induction ls generalizing s with
  | nil =>
    refine ⟨fun w => w, ?_, fun w => rfl⟩
    have hid : s.modWave r (fun w => w) = s := by
      cases r with
      | blk u w =>
        have : ∀ (l : List Wave) (i : Nat), modifyAt l i (fun w => w) = l := by
          intro l; induction l with
          | nil => intro i; cases i <;> rfl
          | cons a t ih => intro i; cases i <;> simp [modifyAt, ih]
        simp only [State.modWave, State.modBlock, this]
        simp
      | hdl c q =>
        have e : Option.map (fun h : Handler => { h with wave := h.wave }) = (id : Option Handler → Option Handler) := by
          funext o; cases o <;> rfl
        have : ∀ (α : Type) (l : List α) (i : Nat), modifyAt l i (fun w => w) = l := by
          intro α l; induction l with
          | nil => intro i; cases i <;> rfl
          | cons a t ih => intro i; cases i <;> simp [modifyAt, ih]
        simp only [State.modWave, State.modCore, e]
        have e2 : (fun k : Core => { k with handlers := modifyAt k.handlers q id }) = fun k => k := by
          funext k
          have := this _ k.handlers q
          rw [show modifyAt k.handlers q id = k.handlers from this]
        rw [e2, this]
    rw [hid, dropFromIssues_nil]; rfl
  | cons l ls ih =>
    obtain ⟨f, hf, hw⟩ := ih ((s.modLane r l (h l)).dropFromIssues r [l])
    refine ⟨fun w => f (w.modLane l (h l)), ?_, fun w => ?_⟩
    · rw [List.foldl_cons, hf, modWave_dropFromIssues, dropFromIssues_append, State.modLane, modWave_modWave]
      rfl
    · exact hw _

theorem foldl_modLane (w : Wave) (h : Nat → Lane → Lane) (hi : ∀ l x, h l (h l x) = h l x) (ls : List Nat) :
    LanesMapped w (ls.foldl (fun w l => w.modLane l (h l)) w) (fun l x => if l ∈ ls then h l x else x) := by
  induction ls generalizing w with
  | nil => exact ⟨rfl, fun l => by simp⟩
  | cons l ls ih =>
    obtain ⟨h1, h2⟩ := ih (w.modLane l (h l))
    refine ⟨?_, fun m => ?_⟩
    · rw [List.foldl_cons, h1]; rfl
    · rw [List.foldl_cons, h2 m]
      simp only [Wave.modLane_lanes, getElem?_modifyAt]
      by_cases hml : l = m
      · subst hml
        cases w.lanes[l]? with
        | none => simp
        | some x => by_cases hls : l ∈ ls <;> simp [hls, hi]
      · have : m ≠ l := fun e => hml e.symm
        by_cases hms : m ∈ ls <;> simp [hml, hms, this]

/-- Lanes that go on at headers of their own leave the clause issue, and nothing else differs. -/
theorem foldl_moveLane (s : State) (r : WaveRef) (target : Nat → Word) (ls : List Nat) :
    ∃ f : Wave → Wave, ls.foldl (fun s l => s.moveLane r l (target l)) s = (s.modWave r f).dropFromIssues r ls ∧
      ∀ w, LanesMapped w (f w) (fun l x => if l ∈ ls then x.goTo (target l) else x) := by
  obtain ⟨f, hf, hw⟩ := foldl_leave s r (fun l x => x.goTo (target l)) ls
  exact ⟨f, hf, fun w => by rw [hw]; exact foldl_modLane w (fun l x => x.goTo (target l)) (fun _ _ => rfl) ls⟩

/-- Lanes that stop at an instruction in a waiting state leave the clause issue, and nothing else differs. -/
theorem foldl_stopLane (s : State) (r : WaveRef) (vpc : Word) (slot : Nat) (st : Nat → LaneState) (ls : List Nat) :
    ∃ f : Wave → Wave, ls.foldl (fun s l => s.stopLane r l vpc slot (st l)) s = (s.modWave r f).dropFromIssues r ls ∧
      ∀ w, LanesMapped w (f w) (fun l x => if l ∈ ls then { x with state := st l, vpc := vpc, slot := slot } else x) := by
  obtain ⟨f, hf, hw⟩ := foldl_leave s r (fun l x => { x with state := st l, vpc := vpc, slot := slot }) ls
  exact ⟨f, hf, fun w => by rw [hw]; exact foldl_modLane w (fun l x => { x with state := st l, vpc := vpc, slot := slot }) (fun _ _ => rfl) ls⟩

end Sys2Proof.Machine
end

