-- ==== Sys2Proof/Laws/Home.lean ====
section
/-! SUPPORT. What a read at a line's home leaves as it was: using a line and counting its activations change no line's content, no home and no
memory (R231, R436). -/

namespace Sys2Proof.Machine

theorem Slice.homeTag_putTag {sl : Slice} {t : Tag} {line : Nat} (h : sl.homeTag line = some t) (l : Nat) :
    (sl.putTag t).homeTag l = sl.homeTag l := by
  have ht := List.find?_some h
  simp only [Bool.and_eq_true, beq_iff_eq, bne_iff_ne, ne_eq] at ht
  by_cases hl : line = l
  · subst hl
    rw [h]
    simp [Slice.putTag, Slice.homeTag, ht.1, ht.2]
  · rw [Slice.putTag, Slice.homeTag, Slice.homeTag, List.find?_cons_of_neg (by simp [ht.1, hl]), List.find?_filter]
    congr 1
    funext x
    by_cases hx : x.line = l
    · simp only [hx, ht.1, beq_eq_false_iff_ne.2 (Ne.symm hl), Bool.false_and, Bool.not_false, true_and, Bool.decide_eq_true]
    · simp [hx]

theorem State.slice_modSlice (s : State) (i j : Nat) (f : Slice → Slice) :
    (s.modSlice i f).slice j = if i = j ∧ j < s.slices.length then f (s.slice j) else s.slice j := by
  simp only [State.slice, State.modSlice, List.getD_eq_getElem?_getD, getElem?_modifyAt]
  by_cases h : i = j
  · by_cases hj : j < s.slices.length <;> simp [h, hj]
  · simp [h]

theorem State.homeOf_congr {s t : State} {part line : Nat} (h : (t.part part).slices = (s.part part).slices) :
    t.homeOf part line = s.homeOf part line := by simp only [State.homeOf, h]

/-- What a line's home holds depends on the slices' sets, their tags and plates, and memory alone. -/
theorem State.homeLine_congr {s t : State} (hp : t.parts = s.parts) (hm : t.memLine = s.memLine)
    (hs : ∀ i l, (t.slice i).homeTag l = (s.slice i).homeTag l) (hq : ∀ i, (t.slice i).plates = (s.slice i).plates) (part line : Nat) :
    t.homeLine part line = s.homeLine part line := by
  have hh : t.homeOf part line = s.homeOf part line := State.homeOf_congr (by simp only [State.part, hp])
  simp only [State.homeLine, hh, hm, hs, Slice.content, hq]

@[simp] theorem State.useLine_parts (s : State) (part line : Nat) : (s.useLine part line).parts = s.parts := by
  unfold State.useLine; repeat' split
  all_goals rfl

@[simp] theorem State.useLine_mem (s : State) (part line : Nat) : (s.useLine part line).mem = s.mem := by
  unfold State.useLine; repeat' split
  all_goals rfl

theorem State.useLine_memLine (s : State) (part line : Nat) : (s.useLine part line).memLine = s.memLine := by
  funext l
  unfold State.useLine; repeat' split
  all_goals rfl

theorem State.useLine_slice (s : State) (part line i : Nat) :
    (∀ l, ((s.useLine part line).slice i).homeTag l = (s.slice i).homeTag l) ∧ ((s.useLine part line).slice i).plates = (s.slice i).plates := by
  unfold State.useLine
  split
  · exact ⟨fun _ => rfl, rfl⟩
  · next j _ =>
    split
    · exact ⟨fun _ => rfl, rfl⟩
    · next t ht =>
      rw [State.slice_modSlice]
      split
      · next h => obtain ⟨rfl, -⟩ := h; exact ⟨Slice.homeTag_putTag ht, rfl⟩
      · exact ⟨fun _ => rfl, rfl⟩

@[simp] theorem State.useLine_homeLine (s : State) (part line p l : Nat) : (s.useLine part line).homeLine p l = s.homeLine p l :=
  State.homeLine_congr (by simp) (s.useLine_memLine part line) (fun i => (s.useLine_slice part line i).1)
    (fun i => (s.useLine_slice part line i).2) p l

@[simp] theorem State.activate_parts (s : State) (line : Nat) : (s.activate line).parts = s.parts := by
  unfold State.activate; split <;> rfl

@[simp] theorem State.activate_mem (s : State) (line : Nat) : (s.activate line).mem = s.mem := by
  unfold State.activate; split <;> rfl

@[simp] theorem State.activate_homeLine (s : State) (line p l : Nat) : (s.activate line).homeLine p l = s.homeLine p l := by
  unfold State.activate; split <;> rfl

@[simp] theorem State.touchMemory_parts (s : State) (part line : Nat) : (s.touchMemory part line).parts = s.parts := by
  unfold State.touchMemory; split <;> simp

@[simp] theorem State.touchMemory_mem (s : State) (part line : Nat) : (s.touchMemory part line).mem = s.mem := by
  unfold State.touchMemory; split <;> simp

@[simp] theorem State.touchMemory_homeLine (s : State) (part line p l : Nat) : (s.touchMemory part line).homeLine p l = s.homeLine p l := by
  unfold State.touchMemory; split <;> simp

@[simp] theorem State.touchRun_homeLine (s : State) (part pa n p l : Nat) : (s.touchRun part pa n).homeLine p l = s.homeLine p l := by
  unfold State.touchRun
  generalize rangeFrom _ _ = ls
  induction ls generalizing s with
  | nil => rfl
  | cons a ls ih => simp [ih]

/-- A run of bytes read after its lines were used reads as before (R231). -/
@[simp] theorem State.touchRun_readRun (s : State) (part pa n p a m : Nat) : (s.touchRun part pa n).readRun p a m = s.readRun p a m := by
  simp [State.readRun]

@[simp] theorem State.touchRun_runPoisoned (s : State) (part pa n p a m : Nat) :
    (s.touchRun part pa n).runPoisoned p a m = s.runPoisoned p a m := by simp [State.runPoisoned]

@[simp] theorem State.touchMemory_readRun (s : State) (part line p a m : Nat) : (s.touchMemory part line).readRun p a m = s.readRun p a m := by
  simp [State.readRun]

@[simp] theorem State.touchMemory_runPoisoned (s : State) (part line p a m : Nat) :
    (s.touchMemory part line).runPoisoned p a m = s.runPoisoned p a m := by simp [State.runPoisoned]

end Sys2Proof.Machine
end

