-- ==== Sys2Proof/Laws/Launch.lean ====
section
/-! SUPPORT. What putting an operation in flight does: the lanes' destinations become empty, the operation is listed and counted, and
nothing else differs. -/

namespace Sys2Proof.Machine

theorem foldl_markEmpty (x : Lane) (rs : List Nat) :
    let y := rs.foldl (fun l r => l.markEmpty r) x
    y = { x with full := y.full } ∧ ∀ r, y.isFull r = (x.isFull r && !decide (r ∈ rs)) := by
  induction rs generalizing x with
  | nil => exact ⟨rfl, by simp⟩
  | cons q rs ih =>
    obtain ⟨h1, h2⟩ := ih (x.markEmpty q)
    refine ⟨by simp only [List.foldl_cons]; rw [h1]; rfl, fun r => ?_⟩
    simp only [List.foldl_cons]
    rw [h2]
    simp only [Lane.isFull, Lane.markEmpty, testBit_setBit]
    by_cases h : r = q
    · subst h; simp
    · simp [h]

/-- A lane that an instruction makes wait for registers: they are empty, and an earlier attempt is forgotten. -/
theorem awaits_empty (x : Lane) (rs : List Nat) :
    x.awaits rs = { x with full := (x.awaits rs).full, ldsOwn := if rs ≠ [] then none else x.ldsOwn } ∧
      ∀ r, (x.awaits rs).isFull r = (x.isFull r && !decide (r ∈ rs)) := by
  cases rs with
  | nil => exact ⟨rfl, by simp [Lane.awaits]⟩
  | cons q rs =>
    obtain ⟨h1, h2⟩ := foldl_markEmpty { x with ldsOwn := none } (q :: rs)
    exact ⟨by simp only [Lane.awaits, List.isEmpty_cons, Bool.false_eq_true, if_false]; rw [h1]; simp, fun r => h2 r⟩

/-- Registers of lanes of a wave made empty. -/
theorem modLanes_empty (w : Wave) (ls rs : List Nat) : Emptied w (w.modLanes ls (fun x => x.awaits rs)) ls rs := by
  refine ⟨by simp [Wave.modLanes], fun l x y hx hy => ?_⟩
  simp only [Wave.modLanes, getElem?_mapIdx', hx, Option.map_some, Option.some.injEq] at hy
  by_cases h : l ∈ ls
  · have hc : ls.contains l = true := by simpa using h
    rw [hc, if_pos rfl] at hy
    subst hy
    obtain ⟨h1, h2⟩ := awaits_empty x rs
    exact ⟨by simpa [h] using h1, fun r => by rw [h2]; simp [h]⟩
  · have hc : ls.contains l = false := by simpa using h
    rw [hc] at hy
    simp only [Bool.false_eq_true, if_false] at hy
    subst hy
    exact ⟨by simp [h], fun r => by simp [h]⟩

theorem Emptied.refl (w : Wave) (ls : List Nat) : Emptied w w ls [] :=
  ⟨rfl, fun l x y hx hy => by rw [hx] at hy; cases hy; exact ⟨by simp, fun r => by simp⟩⟩

theorem coreOf_modWave (s : State) (r q : WaveRef) (f : Wave → Wave) : (s.modWave r f).coreOf q = s.coreOf q := by
  cases q with
  | hdl c p => rfl
  | blk u w =>
    cases r with
    | hdl c p => rfl
    | blk v x =>
      simp only [State.coreOf, State.block?_modWave]
      by_cases h : u = v
      · subst h
        simp only [if_true]
        cases s.block? u <;> rfl
      · simp [h]

theorem core_handlers_modWave (s : State) (c q c' q' : Nat) (f : Wave → Wave) :
    (((s.modWave (.hdl c' q') f).core c).handlers.getD q none).map (·.launch) =
      ((s.core c).handlers.getD q none).map (·.launch) := by
  simp only [State.modWave, core_modCore]
  by_cases h : c' = c ∧ c < s.cores.length
  · rw [if_pos h]
    simp only [List.getD_eq_getElem?_getD, getElem?_modifyAt]
    by_cases hq : q' = q
    · subst hq
      cases (s.core c).handlers[q']? with
      | none => simp
      | some x => cases x <;> simp
    · simp [hq]
  · rw [if_neg h]

theorem launchKey_modWave (s : State) (r q : WaveRef) (f : Wave → Wave) : (s.modWave r f).launchKey q = s.launchKey q := by
  cases q with
  | hdl c p =>
    cases r with
    | blk v x => rfl
    | hdl c' q' => exact core_handlers_modWave s c p c' q' f
  | blk u w =>
    cases r with
    | hdl c p => rfl
    | blk v x =>
      simp only [State.launchKey, State.block?_modWave]
      by_cases h : u = v
      · subst h
        simp only [if_true]
        cases s.block? u <;> rfl
      · simp [h]

theorem launchOf_modWave (s : State) (r q : WaveRef) (f : Wave → Wave) : (s.modWave r f).launchOf q = s.launchOf q := by
  have h : (s.modWave r f).launches = s.launches := by cases r <;> rfl
  simp only [State.launchOf, launchKey_modWave]
  congr 1
  funext k
  simp only [State.launch?, h]

theorem newOp_modWave (s : State) (c : Ctx) (r : WaveRef) (f : Wave → Wave) (id : Nat) (k : MemKind) (sc q : Nat)
    (acq rel : Bool) (gs : List OpGroup) (counted : Bool) :
    (s.modWave r f).newOp c id k sc q acq rel gs counted = s.newOp c id k sc q acq rel gs counted := by
  simp only [State.newOp, coreOf_modWave, State.partOf, State.spaceOf, launchOf_modWave, launchKey_modWave]

/-- An operation of a context as it is put in flight. -/
theorem newOp_opAt (u : State) (c : Ctx) (k : MemKind) (sc q : Nat) (acq rel : Bool) (gs : List OpGroup) (counted : Bool) :
    OpAt u c (u.newOp c u.next k sc q acq rel gs counted) k sc q counted := ⟨rfl, by simp [State.newOp], by simp [State.newOp], by simp [State.newOp], by simp [State.newOp]⟩

theorem next_modWave (s : State) (r : WaveRef) (f : Wave → Wave) : (s.modWave r f).next = s.next := by cases r <;> rfl

theorem memOps_modWave (s : State) (r : WaveRef) (f : Wave → Wave) : (s.modWave r f).memOps = s.memOps := by cases r <;> rfl

theorem modWave_ops (s : State) (r : WaveRef) (f : Wave → Wave) (n : Nat) (ops : List MemOp) :
    ({ s.modWave r f with next := n, memOps := ops } : State) = ({ s with next := n, memOps := ops } : State).modWave r f := by
  cases r <;> rfl

/-- What putting an operation in flight does. -/
theorem putOp_inFlight {i : Instr} {s u : State} {c : Ctx} {mk : Nat → MemOp} {held : Bool} (he : exec i s = .next (u.putOp c mk held))
    (hid : (mk u.next).id = u.next) : PutsInFlight i s u c (mk u.next) [] [] held := by
  refine ⟨fun w => { w with
    ocMem := if (mk u.next).counted then w.ocMem + 1 else w.ocMem
    acquires := if (mk u.next).acquire then w.acquires ++ [u.next] else w.acquires
    holds := if held then w.holds ++ [.op u.next] else w.holds }, ?_, fun w => ⟨⟨rfl, fun l x y hx hy => ?_⟩, by rw [hid]⟩⟩
  · rw [he]; rfl
  · simp only [hx, Option.some.injEq] at hy
    subst hy
    exact ⟨by simp, fun r => by simp⟩

/-- What putting an operation in flight does whose lanes' destinations become empty. -/
theorem emptyDests_putOp_inFlight {i : Instr} {s u : State} {c : Ctx} {ls rs : List Nat} {mk : Nat → MemOp} {held : Bool}
    (he : exec i s = .next ((u.emptyDests c ls rs).putOp c mk held)) (hid : (mk u.next).id = u.next) :
    PutsInFlight i s u c (mk u.next) ls rs held := by
  refine ⟨fun w => { w.modLanes ls (fun x => x.awaits rs) with
    ocMem := if (mk u.next).counted then w.ocMem + 1 else w.ocMem
    acquires := if (mk u.next).acquire then w.acquires ++ [u.next] else w.acquires
    holds := if held then w.holds ++ [.op u.next] else w.holds }, ?_, fun w => ⟨?_, ?_⟩⟩
  · rw [he]
    have hn : (u.emptyDests c ls rs).next = u.next := next_modWave _ _ _
    have ho : (u.emptyDests c ls rs).memOps = u.memOps := memOps_modWave _ _ _
    simp only [State.putOp, State.fresh, hn, ho]
    rw [show ({ u.emptyDests c ls rs with next := u.next + 1, memOps := u.memOps ++ [mk u.next] } : State) =
      _ from modWave_ops u c.r _ _ _, modWave_modWave]
    rfl
  · exact ⟨(modLanes_empty w ls rs).size, (modLanes_empty w ls rs).lanes⟩
  · rw [hid]; rfl

end Sys2Proof.Machine
end

