-- ==== Sys2Proof/Laws/Memory.lean ====
section
/-! SUPPORT. Sparse storage and memory: a read after a write, and the canonical form that every memory operation keeps. -/

namespace Sys2Proof.Machine

variable {α : Type} [DecidableEq α]

theorem cellGet_below (d : α) (l : Cells α) (lo a : Nat) (h : cellsAbove d lo l = true) (ha : a ≤ lo) : cellGet d l a = d := by
  induction l generalizing lo with
  | nil => rfl
  | cons c t ih =>
    obtain ⟨k, x⟩ := c
    simp only [cellsAbove, Bool.and_eq_true, decide_eq_true_eq] at h
    have hk : a ≠ k := by omega
    simp only [cellGet, hk, if_false]
    exact ih k h.2 (by omega)

theorem cellGet_cellSet_cons (d : α) (t : Cells α) (k a b : Nat) (y x : α) (ht : cellsAbove d k t = true)
    (ih : cellGet d (cellSet d t a x) b = if b = a then x else cellGet d t b) :
    cellGet d (cellSet d ((k, y) :: t) a x) b = if b = a then x else cellGet d ((k, y) :: t) b := by
  have below (c : Nat) (hc : c ≤ k) : cellGet d t c = d := cellGet_below d t k c ht hc
  rcases Nat.lt_trichotomy a k with hak | hak | hak
  · by_cases hx : x = d <;> by_cases hb : b = a <;> simp [cellSet, cellGet, hak, hx, hb]
    rw [if_neg (by omega), below a (by omega)]
  · subst hak
    by_cases hx : x = d <;> by_cases hb : b = a <;> simp [cellSet, cellGet, hx, hb]
    exact below a (by omega)
  · have h1 : ¬ a < k := by omega
    have h2 : a ≠ k := by omega
    simp only [cellSet, h1, h2, if_false, cellGet]
    by_cases hbk : b = k
    · rw [if_pos hbk, if_neg (by omega), if_pos hbk]
    · rw [if_neg hbk, ih, if_neg hbk]

theorem cellGet_cellSet_above (d : α) (l : Cells α) (lo a b : Nat) (x : α) (h : cellsAbove d lo l = true) :
    cellGet d (cellSet d l a x) b = if b = a then x else cellGet d l b := by
  induction l generalizing lo with
  | nil => by_cases hx : x = d <;> by_cases hb : b = a <;> simp [cellSet, cellGet, hx, hb]
  | cons c t ih =>
    obtain ⟨k, y⟩ := c
    simp only [cellsAbove, Bool.and_eq_true, decide_eq_true_eq] at h
    exact cellGet_cellSet_cons d t k a b y x h.2 (ih k h.2)

theorem cellsWf_above {d : α} {l : Cells α} (h : cellsWf d l = true) :
    l = [] ∨ ∃ k x t, l = (k, x) :: t ∧ x ≠ d ∧ cellsAbove d k t = true := by
  match l, h with
  | [], _ => exact .inl rfl
  | (k, x) :: t, h =>
    simp only [cellsWf, Bool.and_eq_true, decide_eq_true_eq] at h
    exact .inr ⟨k, x, t, rfl, h.1, h.2⟩

theorem cellsAbove_mono (d : α) (l : Cells α) (lo lo' : Nat) (h : lo' ≤ lo) (hl : cellsAbove d lo l = true) :
    cellsAbove d lo' l = true := by
  cases l with
  | nil => rfl
  | cons c t =>
    obtain ⟨k, x⟩ := c
    simp only [cellsAbove, Bool.and_eq_true, decide_eq_true_eq] at hl ⊢
    exact ⟨⟨by omega, hl.1.2⟩, hl.2⟩

theorem cellsWf_of_above (d : α) (l : Cells α) (lo : Nat) (h : cellsAbove d lo l = true) : cellsWf d l = true := by
  cases l with
  | nil => rfl
  | cons c t =>
    obtain ⟨k, x⟩ := c
    simp only [cellsAbove, cellsWf, Bool.and_eq_true, decide_eq_true_eq] at h ⊢
    exact ⟨h.1.2, h.2⟩

theorem cellSet_above (d : α) (l : Cells α) (lo a : Nat) (x : α) (ha : lo < a) (h : cellsAbove d lo l = true) :
    cellsAbove d lo (cellSet d l a x) = true := by
  induction l generalizing lo with
  | nil => by_cases hx : x = d <;> simp [cellSet, cellsAbove, hx, ha]
  | cons c t ih =>
    obtain ⟨k, y⟩ := c
    have h0 := h
    simp only [cellsAbove, Bool.and_eq_true, decide_eq_true_eq] at h
    obtain ⟨⟨hk, hy⟩, ht⟩ := h
    rcases Nat.lt_trichotomy a k with hak | hak | hak
    · by_cases hx : x = d
      · simp [cellSet, hak, hx, h0]
      · simp [cellSet, hak, hx, cellsAbove, ha, hy, ht]
    · subst hak
      by_cases hx : x = d
      · simpa [cellSet, hx] using cellsAbove_mono d t a lo (by omega) ht
      · simp [cellSet, hx, cellsAbove, ha, ht]
    · have h1 : ¬ a < k := by omega
      have h2 : a ≠ k := by omega
      simp [cellSet, h1, h2, cellsAbove, hk, hy, ih k hak ht]

/-- Writing one key keeps the canonical form. -/
theorem cellSet_wf (d : α) (l : Cells α) (a : Nat) (x : α) (h : cellsWf d l = true) : cellsWf d (cellSet d l a x) = true := by
  rcases cellsWf_above h with rfl | ⟨k, y, t, rfl, hy, ht⟩
  · by_cases hx : x = d <;> simp [cellSet, cellsWf, cellsAbove, hx]
  · rcases Nat.lt_trichotomy a k with hak | hak | hak
    · by_cases hx : x = d <;> simp [cellSet, hak, hx, cellsWf, cellsAbove, hy, ht]
    · subst hak
      by_cases hx : x = d
      · simpa [cellSet, hx] using cellsWf_of_above d t a ht
      · simp [cellSet, hx, cellsWf, ht]
    · have h1 : ¬ a < k := by omega
      have h2 : a ≠ k := by omega
      simp [cellSet, h1, h2, cellsWf, hy, cellSet_above d t k a x hak ht]

/-- A key reads what was written to it; every other key reads as before. -/
theorem cellGet_cellSet (d : α) (l : Cells α) (a b : Nat) (x : α) (h : cellsWf d l = true) :
    cellGet d (cellSet d l a x) b = if b = a then x else cellGet d l b := by
  rcases cellsWf_above h with rfl | ⟨k, y, t, rfl, hy, ht⟩
  · by_cases hx : x = d <;> by_cases hb : b = a <;> simp [cellSet, cellGet, hx, hb]
  · exact cellGet_cellSet_cons d t k a b y x ht (cellGet_cellSet_above d t k a b x ht)

/-- Writing a run keeps the canonical form. -/
theorem cellPut_wf (d : α) (l : Cells α) (a : Nat) (xs : List α) (h : cellsWf d l = true) : cellsWf d (cellPut d l a xs) = true := by
  induction xs generalizing l a with
  | nil => exact h
  | cons x xs ih => exact ih _ _ (cellSet_wf d l a x h)

/-- A key inside a written run reads the run; a key outside reads as before. -/
theorem cellGet_cellPut (d : α) (l : Cells α) (a b : Nat) (xs : List α) (h : cellsWf d l = true) :
    cellGet d (cellPut d l a xs) b = if a ≤ b ∧ b < a + xs.length then xs.getD (b - a) d else cellGet d l b := by
  induction xs generalizing l a with
  | nil =>
    have : ¬ (a ≤ b ∧ b < a + ([] : List α).length) := by simp
    rw [if_neg this]; rfl
  | cons x xs ih =>
    rw [cellPut, ih _ _ (cellSet_wf d l a x h), cellGet_cellSet d l a b x h]
    simp only [List.length_cons]
    by_cases h1 : b = a
    · subst h1
      simp
    · by_cases h2 : a + 1 ≤ b ∧ b < a + 1 + xs.length
      · have h3 : a ≤ b ∧ b < a + (xs.length + 1) := by omega
        have h4 : b - a = b - (a + 1) + 1 := by omega
        rw [if_pos h2, if_pos h3, h4, List.getD_cons_succ]
      · have h3 : ¬ (a ≤ b ∧ b < a + (xs.length + 1)) := by omega
        rw [if_neg h2, if_neg h3, if_neg h1]

/-- Keeping the entries that satisfy a test keeps the canonical form. -/
theorem filter_above (d : α) (l : Cells α) (lo : Nat) (p : Nat × α → Bool) (h : cellsAbove d lo l = true) :
    cellsAbove d lo (l.filter p) = true := by
  induction l generalizing lo with
  | nil => rfl
  | cons c t ih =>
    obtain ⟨k, x⟩ := c
    simp only [cellsAbove, Bool.and_eq_true, decide_eq_true_eq] at h
    by_cases hp : p (k, x) = true
    · simp [hp, cellsAbove, h.1.1, h.1.2, ih k h.2]
    · simpa [List.filter_cons, hp] using ih lo (cellsAbove_mono d t k lo (by omega) h.2)

theorem filter_wf (d : α) (l : Cells α) (p : Nat × α → Bool) (h : cellsWf d l = true) : cellsWf d (l.filter p) = true := by
  rcases cellsWf_above h with rfl | ⟨k, x, t, rfl, hx, ht⟩
  · rfl
  · by_cases hp : p (k, x) = true
    · simp [hp, cellsWf, hx, filter_above d t k p ht]
    · simpa [List.filter_cons, hp] using cellsWf_of_above d _ k (filter_above d t k p ht)

/-- A byte written to memory reads back, and every other byte reads as before. -/
theorem Memory.read_write (m : List Host.Cell) (a b : Nat) (x : Byte) (h : Memory.wf m = true) :
    Memory.read (Memory.write m a x) b = if b = a then x else Memory.read m b := cellGet_cellSet _ m a b x h

/-- Bytes written to memory read back, and every byte outside them reads as before. -/
theorem Memory.read_writeRun (m : List Host.Cell) (a b : Nat) (xs : List Byte) (h : Memory.wf m = true) :
    Memory.read (Memory.writeRun m a xs) b = if a ≤ b ∧ b < a + xs.length then xs.getD (b - a) 0 else Memory.read m b :=
  cellGet_cellPut _ m a b xs h

/-- Every memory operation keeps the canonical form. -/
theorem Memory.write_wf (m : List Host.Cell) (a : Nat) (x : Byte) (h : Memory.wf m = true) :
    Memory.wf (Memory.write m a x) = true := cellSet_wf _ m a x h

theorem Memory.writeRun_wf (m : List Host.Cell) (a : Nat) (xs : List Byte) (h : Memory.wf m = true) :
    Memory.wf (Memory.writeRun m a xs) = true := cellPut_wf _ m a xs h

theorem Memory.filter_wf (m : List Host.Cell) (p : Host.Cell → Bool) (h : Memory.wf m = true) :
    Memory.wf (m.filter p) = true := Machine.filter_wf _ m p h

end Sys2Proof.Machine
end

