-- ==== Sys2Proof/Laws/Names.lean ====
section
/-! SUPPORT. Every instruction word executes over the registers it names. -/

namespace Sys2Proof.Laws

open Sys2Proof.Machine

/-- Every instruction that has a class runs through `execWord` with the registers that `namedV` and `namedS` give. -/
theorem exec_names (i : Instr) (h : (classOf i).isSome = true) (s : State) :
    ∃ home legal f, exec i s = s.execWord i home (namedV i) (namedS i) legal f := by
  cases i
  case lane d a n w g =>
    by_cases hw : w = 0
    · subst hw; exact ⟨_, _, _, rfl⟩
    · simp only [exec, execLane, namedV, namedS, if_neg hw]; exact ⟨_, _, _, rfl⟩
  all_goals first
    | exact ⟨_, _, _, rfl⟩
    | exact absurd h Bool.false_ne_true

end Sys2Proof.Laws
end

