-- ==== Sys2Proof/Laws/PerInstr.lean ====
section
/-! SUPPORT. What holds of the encoding of every instruction, one lemma for each constructor. -/

/-- The class of an instruction is one of the seven of a clause, and it has one word exactly when it has a class; a step of the device has
neither (R63, R64). -/
def Sys2Proof.Laws.Encodes.Statement (i : Sys2Proof.Instr) : Prop :=
  (∀ c ∈ Sys2Proof.classOf i, c < 7) ∧ (Sys2Proof.encode i).length = if (Sys2Proof.classOf i).isSome then 1 else 0

theorem Sys2Proof.Laws.Encodes.word (i : Sys2Proof.Instr) (c : Nat) (h : Sys2Proof.classOf i = some c) (hc : c < 7) :
    Sys2Proof.Laws.Encodes.Statement i := by
  refine ⟨fun x hx => ?_, ?_⟩
  · rw [h] at hx; cases hx; exact hc
  · simp [Sys2Proof.encode, h]

theorem Sys2Proof.Laws.Encodes.step (i : Sys2Proof.Instr) (h : Sys2Proof.classOf i = none) : Sys2Proof.Laws.Encodes.Statement i := by
  refine ⟨fun x hx => ?_, ?_⟩
  · rw [h] at hx; cases hx
  · simp [Sys2Proof.encode, h]

theorem Sys2Proof.Laws.Encodes.fadd : ∀ x0 x1 x2 x3 x4, Sys2Proof.Laws.Encodes.Statement (.fadd x0 x1 x2 x3 x4) :=
  fun _ _ _ _ _ => Sys2Proof.Laws.Encodes.word _ 0 rfl (by decide)
theorem Sys2Proof.Laws.Encodes.fsub : ∀ x0 x1 x2 x3 x4, Sys2Proof.Laws.Encodes.Statement (.fsub x0 x1 x2 x3 x4) :=
  fun _ _ _ _ _ => Sys2Proof.Laws.Encodes.word _ 0 rfl (by decide)
theorem Sys2Proof.Laws.Encodes.fmul : ∀ x0 x1 x2 x3 x4, Sys2Proof.Laws.Encodes.Statement (.fmul x0 x1 x2 x3 x4) :=
  fun _ _ _ _ _ => Sys2Proof.Laws.Encodes.word _ 0 rfl (by decide)
theorem Sys2Proof.Laws.Encodes.ffma : ∀ x0 x1 x2 x3 x4, Sys2Proof.Laws.Encodes.Statement (.ffma x0 x1 x2 x3 x4) :=
  fun _ _ _ _ _ => Sys2Proof.Laws.Encodes.word _ 0 rfl (by decide)
theorem Sys2Proof.Laws.Encodes.fmin : ∀ x0 x1 x2 x3 x4, Sys2Proof.Laws.Encodes.Statement (.fmin x0 x1 x2 x3 x4) :=
  fun _ _ _ _ _ => Sys2Proof.Laws.Encodes.word _ 0 rfl (by decide)
theorem Sys2Proof.Laws.Encodes.fmax : ∀ x0 x1 x2 x3 x4, Sys2Proof.Laws.Encodes.Statement (.fmax x0 x1 x2 x3 x4) :=
  fun _ _ _ _ _ => Sys2Proof.Laws.Encodes.word _ 0 rfl (by decide)
theorem Sys2Proof.Laws.Encodes.ftr : ∀ x0 x1 x2 x3 x4, Sys2Proof.Laws.Encodes.Statement (.ftr x0 x1 x2 x3 x4) :=
  fun _ _ _ _ _ => Sys2Proof.Laws.Encodes.word _ 0 rfl (by decide)
theorem Sys2Proof.Laws.Encodes.fcmp : ∀ x0 x1 x2 x3 x4, Sys2Proof.Laws.Encodes.Statement (.fcmp x0 x1 x2 x3 x4) :=
  fun _ _ _ _ _ => Sys2Proof.Laws.Encodes.word _ 0 rfl (by decide)
theorem Sys2Proof.Laws.Encodes.dadd : ∀ x0 x1 x2 x3 x4, Sys2Proof.Laws.Encodes.Statement (.dadd x0 x1 x2 x3 x4) :=
  fun _ _ _ _ _ => Sys2Proof.Laws.Encodes.word _ 0 rfl (by decide)
theorem Sys2Proof.Laws.Encodes.dmul : ∀ x0 x1 x2 x3 x4, Sys2Proof.Laws.Encodes.Statement (.dmul x0 x1 x2 x3 x4) :=
  fun _ _ _ _ _ => Sys2Proof.Laws.Encodes.word _ 0 rfl (by decide)
theorem Sys2Proof.Laws.Encodes.dfma : ∀ x0 x1 x2 x3 x4, Sys2Proof.Laws.Encodes.Statement (.dfma x0 x1 x2 x3 x4) :=
  fun _ _ _ _ _ => Sys2Proof.Laws.Encodes.word _ 0 rfl (by decide)
theorem Sys2Proof.Laws.Encodes.dmnx : ∀ x0 x1 x2 x3 x4, Sys2Proof.Laws.Encodes.Statement (.dmnx x0 x1 x2 x3 x4) :=
  fun _ _ _ _ _ => Sys2Proof.Laws.Encodes.word _ 0 rfl (by decide)
theorem Sys2Proof.Laws.Encodes.dtr : ∀ x0 x1 x2 x3 x4, Sys2Proof.Laws.Encodes.Statement (.dtr x0 x1 x2 x3 x4) :=
  fun _ _ _ _ _ => Sys2Proof.Laws.Encodes.word _ 0 rfl (by decide)
theorem Sys2Proof.Laws.Encodes.dcmp : ∀ x0 x1 x2 x3 x4, Sys2Proof.Laws.Encodes.Statement (.dcmp x0 x1 x2 x3 x4) :=
  fun _ _ _ _ _ => Sys2Proof.Laws.Encodes.word _ 0 rfl (by decide)
theorem Sys2Proof.Laws.Encodes.hadd2 : ∀ x0 x1 x2 x3 x4, Sys2Proof.Laws.Encodes.Statement (.hadd2 x0 x1 x2 x3 x4) :=
  fun _ _ _ _ _ => Sys2Proof.Laws.Encodes.word _ 0 rfl (by decide)
theorem Sys2Proof.Laws.Encodes.hmul2 : ∀ x0 x1 x2 x3 x4, Sys2Proof.Laws.Encodes.Statement (.hmul2 x0 x1 x2 x3 x4) :=
  fun _ _ _ _ _ => Sys2Proof.Laws.Encodes.word _ 0 rfl (by decide)
theorem Sys2Proof.Laws.Encodes.hfma2 : ∀ x0 x1 x2 x3 x4, Sys2Proof.Laws.Encodes.Statement (.hfma2 x0 x1 x2 x3 x4) :=
  fun _ _ _ _ _ => Sys2Proof.Laws.Encodes.word _ 0 rfl (by decide)
theorem Sys2Proof.Laws.Encodes.badd2 : ∀ x0 x1 x2 x3 x4, Sys2Proof.Laws.Encodes.Statement (.badd2 x0 x1 x2 x3 x4) :=
  fun _ _ _ _ _ => Sys2Proof.Laws.Encodes.word _ 0 rfl (by decide)
theorem Sys2Proof.Laws.Encodes.bmul2 : ∀ x0 x1 x2 x3 x4, Sys2Proof.Laws.Encodes.Statement (.bmul2 x0 x1 x2 x3 x4) :=
  fun _ _ _ _ _ => Sys2Proof.Laws.Encodes.word _ 0 rfl (by decide)
theorem Sys2Proof.Laws.Encodes.bfma2 : ∀ x0 x1 x2 x3 x4, Sys2Proof.Laws.Encodes.Statement (.bfma2 x0 x1 x2 x3 x4) :=
  fun _ _ _ _ _ => Sys2Proof.Laws.Encodes.word _ 0 rfl (by decide)
theorem Sys2Proof.Laws.Encodes.hmnx2 : ∀ x0 x1 x2 x3 x4, Sys2Proof.Laws.Encodes.Statement (.hmnx2 x0 x1 x2 x3 x4) :=
  fun _ _ _ _ _ => Sys2Proof.Laws.Encodes.word _ 0 rfl (by decide)
theorem Sys2Proof.Laws.Encodes.hcmp2 : ∀ x0 x1 x2 x3 x4, Sys2Proof.Laws.Encodes.Statement (.hcmp2 x0 x1 x2 x3 x4) :=
  fun _ _ _ _ _ => Sys2Proof.Laws.Encodes.word _ 0 rfl (by decide)
theorem Sys2Proof.Laws.Encodes.bcmp2 : ∀ x0 x1 x2 x3 x4, Sys2Proof.Laws.Encodes.Statement (.bcmp2 x0 x1 x2 x3 x4) :=
  fun _ _ _ _ _ => Sys2Proof.Laws.Encodes.word _ 0 rfl (by decide)
theorem Sys2Proof.Laws.Encodes.cvtf : ∀ x0 x1 x2 x3 x4 x5 x6 x7 x8, Sys2Proof.Laws.Encodes.Statement (.cvtf x0 x1 x2 x3 x4 x5 x6 x7 x8) :=
  fun _ _ _ _ _ _ _ _ _ => Sys2Proof.Laws.Encodes.word _ 0 rfl (by decide)
theorem Sys2Proof.Laws.Encodes.cvtn : ∀ x0 x1 x2 x3 x4 x5 x6, Sys2Proof.Laws.Encodes.Statement (.cvtn x0 x1 x2 x3 x4 x5 x6) :=
  fun _ _ _ _ _ _ _ => Sys2Proof.Laws.Encodes.word _ 0 rfl (by decide)
theorem Sys2Proof.Laws.Encodes.cvti : ∀ x0 x1 x2 x3 x4 x5 x6 x7, Sys2Proof.Laws.Encodes.Statement (.cvti x0 x1 x2 x3 x4 x5 x6 x7) :=
  fun _ _ _ _ _ _ _ _ => Sys2Proof.Laws.Encodes.word _ 0 rfl (by decide)
theorem Sys2Proof.Laws.Encodes.cvtd : ∀ x0 x1 x2 x3 x4 x5 x6 x7, Sys2Proof.Laws.Encodes.Statement (.cvtd x0 x1 x2 x3 x4 x5 x6 x7) :=
  fun _ _ _ _ _ _ _ _ => Sys2Proof.Laws.Encodes.word _ 0 rfl (by decide)
theorem Sys2Proof.Laws.Encodes.bamax : ∀ x0 x1 x2 x3 x4 x5, Sys2Proof.Laws.Encodes.Statement (.bamax x0 x1 x2 x3 x4 x5) :=
  fun _ _ _ _ _ _ => Sys2Proof.Laws.Encodes.word _ 0 rfl (by decide)
theorem Sys2Proof.Laws.Encodes.bscale : ∀ x0 x1 x2 x3 x4 x5, Sys2Proof.Laws.Encodes.Statement (.bscale x0 x1 x2 x3 x4 x5) :=
  fun _ _ _ _ _ _ => Sys2Proof.Laws.Encodes.word _ 0 rfl (by decide)
theorem Sys2Proof.Laws.Encodes.mxpk : ∀ x0 x1 x2 x3 x4 x5 x6 x7, Sys2Proof.Laws.Encodes.Statement (.mxpk x0 x1 x2 x3 x4 x5 x6 x7) :=
  fun _ _ _ _ _ _ _ _ => Sys2Proof.Laws.Encodes.word _ 0 rfl (by decide)
theorem Sys2Proof.Laws.Encodes.mxup : ∀ x0 x1 x2 x3 x4 x5 x6, Sys2Proof.Laws.Encodes.Statement (.mxup x0 x1 x2 x3 x4 x5 x6) :=
  fun _ _ _ _ _ _ _ => Sys2Proof.Laws.Encodes.word _ 0 rfl (by decide)
theorem Sys2Proof.Laws.Encodes.rail : ∀ x0 x1 x2 x3 x4 x5, Sys2Proof.Laws.Encodes.Statement (.rail x0 x1 x2 x3 x4 x5) :=
  fun _ _ _ _ _ _ => Sys2Proof.Laws.Encodes.word _ 0 rfl (by decide)
theorem Sys2Proof.Laws.Encodes.iadd : ∀ x0 x1 x2 x3 x4, Sys2Proof.Laws.Encodes.Statement (.iadd x0 x1 x2 x3 x4) :=
  fun _ _ _ _ _ => Sys2Proof.Laws.Encodes.word _ 0 rfl (by decide)
theorem Sys2Proof.Laws.Encodes.imul : ∀ x0 x1 x2 x3 x4, Sys2Proof.Laws.Encodes.Statement (.imul x0 x1 x2 x3 x4) :=
  fun _ _ _ _ _ => Sys2Proof.Laws.Encodes.word _ 0 rfl (by decide)
theorem Sys2Proof.Laws.Encodes.imnx : ∀ x0 x1 x2 x3 x4, Sys2Proof.Laws.Encodes.Statement (.imnx x0 x1 x2 x3 x4) :=
  fun _ _ _ _ _ => Sys2Proof.Laws.Encodes.word _ 0 rfl (by decide)
theorem Sys2Proof.Laws.Encodes.ilog : ∀ x0 x1 x2 x3 x4, Sys2Proof.Laws.Encodes.Statement (.ilog x0 x1 x2 x3 x4) :=
  fun _ _ _ _ _ => Sys2Proof.Laws.Encodes.word _ 0 rfl (by decide)
theorem Sys2Proof.Laws.Encodes.ish : ∀ x0 x1 x2 x3 x4, Sys2Proof.Laws.Encodes.Statement (.ish x0 x1 x2 x3 x4) :=
  fun _ _ _ _ _ => Sys2Proof.Laws.Encodes.word _ 0 rfl (by decide)
theorem Sys2Proof.Laws.Encodes.ishi : ∀ x0 x1 x2 x3 x4, Sys2Proof.Laws.Encodes.Statement (.ishi x0 x1 x2 x3 x4) :=
  fun _ _ _ _ _ => Sys2Proof.Laws.Encodes.word _ 0 rfl (by decide)
theorem Sys2Proof.Laws.Encodes.ibit : ∀ x0 x1 x2 x3, Sys2Proof.Laws.Encodes.Statement (.ibit x0 x1 x2 x3) :=
  fun _ _ _ _ => Sys2Proof.Laws.Encodes.word _ 0 rfl (by decide)
theorem Sys2Proof.Laws.Encodes.bfe : ∀ x0 x1 x2 x3 x4, Sys2Proof.Laws.Encodes.Statement (.bfe x0 x1 x2 x3 x4) :=
  fun _ _ _ _ _ => Sys2Proof.Laws.Encodes.word _ 0 rfl (by decide)
theorem Sys2Proof.Laws.Encodes.bfi : ∀ x0 x1 x2 x3 x4, Sys2Proof.Laws.Encodes.Statement (.bfi x0 x1 x2 x3 x4) :=
  fun _ _ _ _ _ => Sys2Proof.Laws.Encodes.word _ 0 rfl (by decide)
theorem Sys2Proof.Laws.Encodes.icmp : ∀ x0 x1 x2 x3 x4, Sys2Proof.Laws.Encodes.Statement (.icmp x0 x1 x2 x3 x4) :=
  fun _ _ _ _ _ => Sys2Proof.Laws.Encodes.word _ 0 rfl (by decide)
theorem Sys2Proof.Laws.Encodes.icmpn : ∀ x0 x1 x2 x3 x4, Sys2Proof.Laws.Encodes.Statement (.icmpn x0 x1 x2 x3 x4) :=
  fun _ _ _ _ _ => Sys2Proof.Laws.Encodes.word _ 0 rfl (by decide)
theorem Sys2Proof.Laws.Encodes.sel : ∀ x0 x1 x2 x3, Sys2Proof.Laws.Encodes.Statement (.sel x0 x1 x2 x3) :=
  fun _ _ _ _ => Sys2Proof.Laws.Encodes.word _ 0 rfl (by decide)
theorem Sys2Proof.Laws.Encodes.mov : ∀ x0 x1 x2, Sys2Proof.Laws.Encodes.Statement (.mov x0 x1 x2) :=
  fun _ _ _ => Sys2Proof.Laws.Encodes.word _ 0 rfl (by decide)
theorem Sys2Proof.Laws.Encodes.movi : ∀ x0 x1 x2, Sys2Proof.Laws.Encodes.Statement (.movi x0 x1 x2) :=
  fun _ _ _ => Sys2Proof.Laws.Encodes.word _ 0 rfl (by decide)
theorem Sys2Proof.Laws.Encodes.movh : ∀ x0 x1 x2, Sys2Proof.Laws.Encodes.Statement (.movh x0 x1 x2) :=
  fun _ _ _ => Sys2Proof.Laws.Encodes.word _ 0 rfl (by decide)
theorem Sys2Proof.Laws.Encodes.movl : ∀ x0 x1 x2, Sys2Proof.Laws.Encodes.Statement (.movl x0 x1 x2) :=
  fun _ _ _ => Sys2Proof.Laws.Encodes.word _ 0 rfl (by decide)
theorem Sys2Proof.Laws.Encodes.sadd : ∀ x0 x1 x2 x3 x4, Sys2Proof.Laws.Encodes.Statement (.sadd x0 x1 x2 x3 x4) :=
  fun _ _ _ _ _ => Sys2Proof.Laws.Encodes.word _ 0 rfl (by decide)
theorem Sys2Proof.Laws.Encodes.smul : ∀ x0 x1 x2 x3 x4, Sys2Proof.Laws.Encodes.Statement (.smul x0 x1 x2 x3 x4) :=
  fun _ _ _ _ _ => Sys2Proof.Laws.Encodes.word _ 0 rfl (by decide)
theorem Sys2Proof.Laws.Encodes.slog : ∀ x0 x1 x2 x3 x4, Sys2Proof.Laws.Encodes.Statement (.slog x0 x1 x2 x3 x4) :=
  fun _ _ _ _ _ => Sys2Proof.Laws.Encodes.word _ 0 rfl (by decide)
theorem Sys2Proof.Laws.Encodes.ssh : ∀ x0 x1 x2 x3 x4, Sys2Proof.Laws.Encodes.Statement (.ssh x0 x1 x2 x3 x4) :=
  fun _ _ _ _ _ => Sys2Proof.Laws.Encodes.word _ 0 rfl (by decide)
theorem Sys2Proof.Laws.Encodes.smovi : ∀ x0 x1 x2, Sys2Proof.Laws.Encodes.Statement (.smovi x0 x1 x2) :=
  fun _ _ _ => Sys2Proof.Laws.Encodes.word _ 0 rfl (by decide)
theorem Sys2Proof.Laws.Encodes.smovh : ∀ x0 x1 x2, Sys2Proof.Laws.Encodes.Statement (.smovh x0 x1 x2) :=
  fun _ _ _ => Sys2Proof.Laws.Encodes.word _ 0 rfl (by decide)
theorem Sys2Proof.Laws.Encodes.scmp : ∀ x0 x1 x2 x3 x4, Sys2Proof.Laws.Encodes.Statement (.scmp x0 x1 x2 x3 x4) :=
  fun _ _ _ _ _ => Sys2Proof.Laws.Encodes.word _ 0 rfl (by decide)
theorem Sys2Proof.Laws.Encodes.smov : ∀ x0 x1 x2, Sys2Proof.Laws.Encodes.Statement (.smov x0 x1 x2) :=
  fun _ _ _ => Sys2Proof.Laws.Encodes.word _ 0 rfl (by decide)
theorem Sys2Proof.Laws.Encodes.shfl : ∀ x0 x1 x2 x3 x4, Sys2Proof.Laws.Encodes.Statement (.shfl x0 x1 x2 x3 x4) :=
  fun _ _ _ _ _ => Sys2Proof.Laws.Encodes.word _ 0 rfl (by decide)
theorem Sys2Proof.Laws.Encodes.qxch : ∀ x0 x1 x2 x3 x4, Sys2Proof.Laws.Encodes.Statement (.qxch x0 x1 x2 x3 x4) :=
  fun _ _ _ _ _ => Sys2Proof.Laws.Encodes.word _ 0 rfl (by decide)
theorem Sys2Proof.Laws.Encodes.vote : ∀ x0 x1 x2 x3, Sys2Proof.Laws.Encodes.Statement (.vote x0 x1 x2 x3) :=
  fun _ _ _ _ => Sys2Proof.Laws.Encodes.word _ 0 rfl (by decide)
theorem Sys2Proof.Laws.Encodes.redx : ∀ x0 x1 x2 x3, Sys2Proof.Laws.Encodes.Statement (.redx x0 x1 x2 x3) :=
  fun _ _ _ _ => Sys2Proof.Laws.Encodes.word _ 0 rfl (by decide)
theorem Sys2Proof.Laws.Encodes.lane : ∀ x0 x1 x2 x3 x4, Sys2Proof.Laws.Encodes.Statement (.lane x0 x1 x2 x3 x4) :=
  fun _ _ _ _ _ => Sys2Proof.Laws.Encodes.word _ 0 rfl (by decide)
theorem Sys2Proof.Laws.Encodes.plog : ∀ x0 x1 x2 x3 x4, Sys2Proof.Laws.Encodes.Statement (.plog x0 x1 x2 x3 x4) :=
  fun _ _ _ _ _ => Sys2Proof.Laws.Encodes.word _ 0 rfl (by decide)
theorem Sys2Proof.Laws.Encodes.rand : ∀ x0 x1 x2 x3, Sys2Proof.Laws.Encodes.Statement (.rand x0 x1 x2 x3) :=
  fun _ _ _ _ => Sys2Proof.Laws.Encodes.word _ 0 rfl (by decide)
theorem Sys2Proof.Laws.Encodes.sread : ∀ x0 x1 x2 x3, Sys2Proof.Laws.Encodes.Statement (.sread x0 x1 x2 x3) :=
  fun _ _ _ _ => Sys2Proof.Laws.Encodes.word _ 0 rfl (by decide)
theorem Sys2Proof.Laws.Encodes.nop : ∀ x0, Sys2Proof.Laws.Encodes.Statement (.nop x0) :=
  fun _ => Sys2Proof.Laws.Encodes.word _ 1 rfl (by decide)
theorem Sys2Proof.Laws.Encodes.bra : ∀ x0 x1, Sys2Proof.Laws.Encodes.Statement (.bra x0 x1) :=
  fun _ _ => Sys2Proof.Laws.Encodes.word _ 1 rfl (by decide)
theorem Sys2Proof.Laws.Encodes.bru : ∀ x0 x1, Sys2Proof.Laws.Encodes.Statement (.bru x0 x1) :=
  fun _ _ => Sys2Proof.Laws.Encodes.word _ 1 rfl (by decide)
theorem Sys2Proof.Laws.Encodes.brx : ∀ x0 x1, Sys2Proof.Laws.Encodes.Statement (.brx x0 x1) :=
  fun _ _ => Sys2Proof.Laws.Encodes.word _ 1 rfl (by decide)
theorem Sys2Proof.Laws.Encodes.call : ∀ x0 x1 x2, Sys2Proof.Laws.Encodes.Statement (.call x0 x1 x2) :=
  fun _ _ _ => Sys2Proof.Laws.Encodes.word _ 1 rfl (by decide)
theorem Sys2Proof.Laws.Encodes.ret : ∀ x0 x1, Sys2Proof.Laws.Encodes.Statement (.ret x0 x1) :=
  fun _ _ => Sys2Proof.Laws.Encodes.word _ 1 rfl (by decide)
theorem Sys2Proof.Laws.Encodes.exit : ∀ x0, Sys2Proof.Laws.Encodes.Statement (.exit x0) :=
  fun _ => Sys2Proof.Laws.Encodes.word _ 1 rfl (by decide)
theorem Sys2Proof.Laws.Encodes.join : ∀ x0 x1, Sys2Proof.Laws.Encodes.Statement (.join x0 x1) :=
  fun _ _ => Sys2Proof.Laws.Encodes.word _ 1 rfl (by decide)
theorem Sys2Proof.Laws.Encodes.kset : ∀ x0 x1, Sys2Proof.Laws.Encodes.Statement (.kset x0 x1) :=
  fun _ _ => Sys2Proof.Laws.Encodes.word _ 1 rfl (by decide)
theorem Sys2Proof.Laws.Encodes.kop : ∀ x0 x1 x2 x3, Sys2Proof.Laws.Encodes.Statement (.kop x0 x1 x2 x3) :=
  fun _ _ _ _ => Sys2Proof.Laws.Encodes.word _ 1 rfl (by decide)
theorem Sys2Proof.Laws.Encodes.ksync : ∀ x0 x1, Sys2Proof.Laws.Encodes.Statement (.ksync x0 x1) :=
  fun _ _ => Sys2Proof.Laws.Encodes.word _ 1 rfl (by decide)
theorem Sys2Proof.Laws.Encodes.waitc : ∀ x0 x1 x2, Sys2Proof.Laws.Encodes.Statement (.waitc x0 x1 x2) :=
  fun _ _ _ => Sys2Proof.Laws.Encodes.word _ 1 rfl (by decide)
theorem Sys2Proof.Laws.Encodes.yield : ∀ x0, Sys2Proof.Laws.Encodes.Statement (.yield x0) :=
  fun _ => Sys2Proof.Laws.Encodes.word _ 1 rfl (by decide)
theorem Sys2Proof.Laws.Encodes.bar : ∀ x0 x1, Sys2Proof.Laws.Encodes.Statement (.bar x0 x1) :=
  fun _ _ => Sys2Proof.Laws.Encodes.word _ 1 rfl (by decide)
theorem Sys2Proof.Laws.Encodes.bara : ∀ x0 x1, Sys2Proof.Laws.Encodes.Statement (.bara x0 x1) :=
  fun _ _ => Sys2Proof.Laws.Encodes.word _ 1 rfl (by decide)
theorem Sys2Proof.Laws.Encodes.barw : ∀ x0 x1, Sys2Proof.Laws.Encodes.Statement (.barw x0 x1) :=
  fun _ _ => Sys2Proof.Laws.Encodes.word _ 1 rfl (by decide)
theorem Sys2Proof.Laws.Encodes.bari : ∀ x0 x1 x2, Sys2Proof.Laws.Encodes.Statement (.bari x0 x1 x2) :=
  fun _ _ _ => Sys2Proof.Laws.Encodes.word _ 1 rfl (by decide)
theorem Sys2Proof.Laws.Encodes.launch : ∀ x0 x1 x2, Sys2Proof.Laws.Encodes.Statement (.launch x0 x1 x2) :=
  fun _ _ _ => Sys2Proof.Laws.Encodes.word _ 1 rfl (by decide)
theorem Sys2Proof.Laws.Encodes.ldB8 : ∀ x0 x1 x2 x3 x4 x5, Sys2Proof.Laws.Encodes.Statement (.ldB8 x0 x1 x2 x3 x4 x5) :=
  fun _ _ _ _ _ _ => Sys2Proof.Laws.Encodes.word _ 2 rfl (by decide)
theorem Sys2Proof.Laws.Encodes.ldS8 : ∀ x0 x1 x2 x3 x4 x5, Sys2Proof.Laws.Encodes.Statement (.ldS8 x0 x1 x2 x3 x4 x5) :=
  fun _ _ _ _ _ _ => Sys2Proof.Laws.Encodes.word _ 2 rfl (by decide)
theorem Sys2Proof.Laws.Encodes.ldB16 : ∀ x0 x1 x2 x3 x4 x5, Sys2Proof.Laws.Encodes.Statement (.ldB16 x0 x1 x2 x3 x4 x5) :=
  fun _ _ _ _ _ _ => Sys2Proof.Laws.Encodes.word _ 2 rfl (by decide)
theorem Sys2Proof.Laws.Encodes.ldS16 : ∀ x0 x1 x2 x3 x4 x5, Sys2Proof.Laws.Encodes.Statement (.ldS16 x0 x1 x2 x3 x4 x5) :=
  fun _ _ _ _ _ _ => Sys2Proof.Laws.Encodes.word _ 2 rfl (by decide)
theorem Sys2Proof.Laws.Encodes.ldB32 : ∀ x0 x1 x2 x3 x4 x5, Sys2Proof.Laws.Encodes.Statement (.ldB32 x0 x1 x2 x3 x4 x5) :=
  fun _ _ _ _ _ _ => Sys2Proof.Laws.Encodes.word _ 2 rfl (by decide)
theorem Sys2Proof.Laws.Encodes.ldB64 : ∀ x0 x1 x2 x3 x4 x5, Sys2Proof.Laws.Encodes.Statement (.ldB64 x0 x1 x2 x3 x4 x5) :=
  fun _ _ _ _ _ _ => Sys2Proof.Laws.Encodes.word _ 2 rfl (by decide)
theorem Sys2Proof.Laws.Encodes.ldB128 : ∀ x0 x1 x2 x3 x4 x5, Sys2Proof.Laws.Encodes.Statement (.ldB128 x0 x1 x2 x3 x4 x5) :=
  fun _ _ _ _ _ _ => Sys2Proof.Laws.Encodes.word _ 2 rfl (by decide)
theorem Sys2Proof.Laws.Encodes.ldMx : ∀ x0 x1 x2 x3 x4 x5, Sys2Proof.Laws.Encodes.Statement (.ldMx x0 x1 x2 x3 x4 x5) :=
  fun _ _ _ _ _ _ => Sys2Proof.Laws.Encodes.word _ 2 rfl (by decide)
theorem Sys2Proof.Laws.Encodes.stB8 : ∀ x0 x1 x2 x3 x4 x5, Sys2Proof.Laws.Encodes.Statement (.stB8 x0 x1 x2 x3 x4 x5) :=
  fun _ _ _ _ _ _ => Sys2Proof.Laws.Encodes.word _ 2 rfl (by decide)
theorem Sys2Proof.Laws.Encodes.stB16 : ∀ x0 x1 x2 x3 x4 x5, Sys2Proof.Laws.Encodes.Statement (.stB16 x0 x1 x2 x3 x4 x5) :=
  fun _ _ _ _ _ _ => Sys2Proof.Laws.Encodes.word _ 2 rfl (by decide)
theorem Sys2Proof.Laws.Encodes.stB32 : ∀ x0 x1 x2 x3 x4 x5, Sys2Proof.Laws.Encodes.Statement (.stB32 x0 x1 x2 x3 x4 x5) :=
  fun _ _ _ _ _ _ => Sys2Proof.Laws.Encodes.word _ 2 rfl (by decide)
theorem Sys2Proof.Laws.Encodes.stB64 : ∀ x0 x1 x2 x3 x4 x5, Sys2Proof.Laws.Encodes.Statement (.stB64 x0 x1 x2 x3 x4 x5) :=
  fun _ _ _ _ _ _ => Sys2Proof.Laws.Encodes.word _ 2 rfl (by decide)
theorem Sys2Proof.Laws.Encodes.stB128 : ∀ x0 x1 x2 x3 x4 x5, Sys2Proof.Laws.Encodes.Statement (.stB128 x0 x1 x2 x3 x4 x5) :=
  fun _ _ _ _ _ _ => Sys2Proof.Laws.Encodes.word _ 2 rfl (by decide)
theorem Sys2Proof.Laws.Encodes.stMx : ∀ x0 x1 x2 x3 x4 x5, Sys2Proof.Laws.Encodes.Statement (.stMx x0 x1 x2 x3 x4 x5) :=
  fun _ _ _ _ _ _ => Sys2Proof.Laws.Encodes.word _ 2 rfl (by decide)
theorem Sys2Proof.Laws.Encodes.ldsB32 : ∀ x0 x1 x2 x3 x4, Sys2Proof.Laws.Encodes.Statement (.ldsB32 x0 x1 x2 x3 x4) :=
  fun _ _ _ _ _ => Sys2Proof.Laws.Encodes.word _ 2 rfl (by decide)
theorem Sys2Proof.Laws.Encodes.ldsB64 : ∀ x0 x1 x2 x3 x4, Sys2Proof.Laws.Encodes.Statement (.ldsB64 x0 x1 x2 x3 x4) :=
  fun _ _ _ _ _ => Sys2Proof.Laws.Encodes.word _ 2 rfl (by decide)
theorem Sys2Proof.Laws.Encodes.ldsB128 : ∀ x0 x1 x2 x3 x4, Sys2Proof.Laws.Encodes.Statement (.ldsB128 x0 x1 x2 x3 x4) :=
  fun _ _ _ _ _ => Sys2Proof.Laws.Encodes.word _ 2 rfl (by decide)
theorem Sys2Proof.Laws.Encodes.stsB32 : ∀ x0 x1 x2 x3 x4, Sys2Proof.Laws.Encodes.Statement (.stsB32 x0 x1 x2 x3 x4) :=
  fun _ _ _ _ _ => Sys2Proof.Laws.Encodes.word _ 2 rfl (by decide)
theorem Sys2Proof.Laws.Encodes.stsB64 : ∀ x0 x1 x2 x3 x4, Sys2Proof.Laws.Encodes.Statement (.stsB64 x0 x1 x2 x3 x4) :=
  fun _ _ _ _ _ => Sys2Proof.Laws.Encodes.word _ 2 rfl (by decide)
theorem Sys2Proof.Laws.Encodes.stsB128 : ∀ x0 x1 x2 x3 x4, Sys2Proof.Laws.Encodes.Statement (.stsB128 x0 x1 x2 x3 x4) :=
  fun _ _ _ _ _ => Sys2Proof.Laws.Encodes.word _ 2 rfl (by decide)
theorem Sys2Proof.Laws.Encodes.fe : ∀ x0 x1 x2 x3, Sys2Proof.Laws.Encodes.Statement (.fe x0 x1 x2 x3) :=
  fun _ _ _ _ => Sys2Proof.Laws.Encodes.word _ 2 rfl (by decide)
theorem Sys2Proof.Laws.Encodes.atomAdd : ∀ x0 x1 x2 x3 x4 x5, Sys2Proof.Laws.Encodes.Statement (.atomAdd x0 x1 x2 x3 x4 x5) :=
  fun _ _ _ _ _ _ => Sys2Proof.Laws.Encodes.word _ 2 rfl (by decide)
theorem Sys2Proof.Laws.Encodes.atomAddB64 : ∀ x0 x1 x2 x3 x4 x5, Sys2Proof.Laws.Encodes.Statement (.atomAddB64 x0 x1 x2 x3 x4 x5) :=
  fun _ _ _ _ _ _ => Sys2Proof.Laws.Encodes.word _ 2 rfl (by decide)
theorem Sys2Proof.Laws.Encodes.atomAddf : ∀ x0 x1 x2 x3 x4 x5, Sys2Proof.Laws.Encodes.Statement (.atomAddf x0 x1 x2 x3 x4 x5) :=
  fun _ _ _ _ _ _ => Sys2Proof.Laws.Encodes.word _ 2 rfl (by decide)
theorem Sys2Proof.Laws.Encodes.atomMinS32 : ∀ x0 x1 x2 x3 x4 x5, Sys2Proof.Laws.Encodes.Statement (.atomMinS32 x0 x1 x2 x3 x4 x5) :=
  fun _ _ _ _ _ _ => Sys2Proof.Laws.Encodes.word _ 2 rfl (by decide)
theorem Sys2Proof.Laws.Encodes.atomMaxS32 : ∀ x0 x1 x2 x3 x4 x5, Sys2Proof.Laws.Encodes.Statement (.atomMaxS32 x0 x1 x2 x3 x4 x5) :=
  fun _ _ _ _ _ _ => Sys2Proof.Laws.Encodes.word _ 2 rfl (by decide)
theorem Sys2Proof.Laws.Encodes.atomMinN32 : ∀ x0 x1 x2 x3 x4 x5, Sys2Proof.Laws.Encodes.Statement (.atomMinN32 x0 x1 x2 x3 x4 x5) :=
  fun _ _ _ _ _ _ => Sys2Proof.Laws.Encodes.word _ 2 rfl (by decide)
theorem Sys2Proof.Laws.Encodes.atomMaxN32 : ∀ x0 x1 x2 x3 x4 x5, Sys2Proof.Laws.Encodes.Statement (.atomMaxN32 x0 x1 x2 x3 x4 x5) :=
  fun _ _ _ _ _ _ => Sys2Proof.Laws.Encodes.word _ 2 rfl (by decide)
theorem Sys2Proof.Laws.Encodes.atomAnd : ∀ x0 x1 x2 x3 x4 x5, Sys2Proof.Laws.Encodes.Statement (.atomAnd x0 x1 x2 x3 x4 x5) :=
  fun _ _ _ _ _ _ => Sys2Proof.Laws.Encodes.word _ 2 rfl (by decide)
theorem Sys2Proof.Laws.Encodes.atomOr : ∀ x0 x1 x2 x3 x4 x5, Sys2Proof.Laws.Encodes.Statement (.atomOr x0 x1 x2 x3 x4 x5) :=
  fun _ _ _ _ _ _ => Sys2Proof.Laws.Encodes.word _ 2 rfl (by decide)
theorem Sys2Proof.Laws.Encodes.atomXor : ∀ x0 x1 x2 x3 x4 x5, Sys2Proof.Laws.Encodes.Statement (.atomXor x0 x1 x2 x3 x4 x5) :=
  fun _ _ _ _ _ _ => Sys2Proof.Laws.Encodes.word _ 2 rfl (by decide)
theorem Sys2Proof.Laws.Encodes.atomExch : ∀ x0 x1 x2 x3 x4 x5, Sys2Proof.Laws.Encodes.Statement (.atomExch x0 x1 x2 x3 x4 x5) :=
  fun _ _ _ _ _ _ => Sys2Proof.Laws.Encodes.word _ 2 rfl (by decide)
theorem Sys2Proof.Laws.Encodes.atomCas : ∀ x0 x1 x2 x3 x4 x5, Sys2Proof.Laws.Encodes.Statement (.atomCas x0 x1 x2 x3 x4 x5) :=
  fun _ _ _ _ _ _ => Sys2Proof.Laws.Encodes.word _ 2 rfl (by decide)
theorem Sys2Proof.Laws.Encodes.atomCasB64 : ∀ x0 x1 x2 x3 x4 x5, Sys2Proof.Laws.Encodes.Statement (.atomCasB64 x0 x1 x2 x3 x4 x5) :=
  fun _ _ _ _ _ _ => Sys2Proof.Laws.Encodes.word _ 2 rfl (by decide)
theorem Sys2Proof.Laws.Encodes.satom : ∀ x0 x1 x2 x3 x4, Sys2Proof.Laws.Encodes.Statement (.satom x0 x1 x2 x3 x4) :=
  fun _ _ _ _ _ => Sys2Proof.Laws.Encodes.word _ 2 rfl (by decide)
theorem Sys2Proof.Laws.Encodes.ratom : ∀ x0 x1 x2 x3 x4, Sys2Proof.Laws.Encodes.Statement (.ratom x0 x1 x2 x3 x4) :=
  fun _ _ _ _ _ => Sys2Proof.Laws.Encodes.word _ 2 rfl (by decide)
theorem Sys2Proof.Laws.Encodes.qpush : ∀ x0 x1 x2, Sys2Proof.Laws.Encodes.Statement (.qpush x0 x1 x2) :=
  fun _ _ _ => Sys2Proof.Laws.Encodes.word _ 2 rfl (by decide)
theorem Sys2Proof.Laws.Encodes.qpop : ∀ x0 x1 x2, Sys2Proof.Laws.Encodes.Statement (.qpop x0 x1 x2) :=
  fun _ _ _ => Sys2Proof.Laws.Encodes.word _ 2 rfl (by decide)
theorem Sys2Proof.Laws.Encodes.qcfg : ∀ x0 x1 x2, Sys2Proof.Laws.Encodes.Statement (.qcfg x0 x1 x2) :=
  fun _ _ _ => Sys2Proof.Laws.Encodes.word _ 2 rfl (by decide)
theorem Sys2Proof.Laws.Encodes.waituEqNe : ∀ x0 x1 x2 x3 x4 x5 x6, Sys2Proof.Laws.Encodes.Statement (.waituEqNe x0 x1 x2 x3 x4 x5 x6) :=
  fun _ _ _ _ _ _ _ => Sys2Proof.Laws.Encodes.word _ 2 rfl (by decide)
theorem Sys2Proof.Laws.Encodes.waituSgeSlt : ∀ x0 x1 x2 x3 x4 x5 x6, Sys2Proof.Laws.Encodes.Statement (.waituSgeSlt x0 x1 x2 x3 x4 x5 x6) :=
  fun _ _ _ _ _ _ _ => Sys2Proof.Laws.Encodes.word _ 2 rfl (by decide)
theorem Sys2Proof.Laws.Encodes.waituNgeNlt : ∀ x0 x1 x2 x3 x4 x5 x6, Sys2Proof.Laws.Encodes.Statement (.waituNgeNlt x0 x1 x2 x3 x4 x5 x6) :=
  fun _ _ _ _ _ _ _ => Sys2Proof.Laws.Encodes.word _ 2 rfl (by decide)
theorem Sys2Proof.Laws.Encodes.waituAnyAll : ∀ x0 x1 x2 x3 x4 x5 x6, Sys2Proof.Laws.Encodes.Statement (.waituAnyAll x0 x1 x2 x3 x4 x5 x6) :=
  fun _ _ _ _ _ _ _ => Sys2Proof.Laws.Encodes.word _ 2 rfl (by decide)
theorem Sys2Proof.Laws.Encodes.waituChgUpd : ∀ x0 x1 x2 x3 x4 x5 x6, Sys2Proof.Laws.Encodes.Statement (.waituChgUpd x0 x1 x2 x3 x4 x5 x6) :=
  fun _ _ _ _ _ _ _ => Sys2Proof.Laws.Encodes.word _ 2 rfl (by decide)
theorem Sys2Proof.Laws.Encodes.fence : ∀ x0 x1 x2, Sys2Proof.Laws.Encodes.Statement (.fence x0 x1 x2) :=
  fun _ _ _ => Sys2Proof.Laws.Encodes.word _ 2 rfl (by decide)
theorem Sys2Proof.Laws.Encodes.pref : ∀ x0 x1 x2 x3 x4, Sys2Proof.Laws.Encodes.Statement (.pref x0 x1 x2 x3 x4) :=
  fun _ _ _ _ _ => Sys2Proof.Laws.Encodes.word _ 2 rfl (by decide)
theorem Sys2Proof.Laws.Encodes.sldB32 : ∀ x0 x1 x2 x3 x4 x5, Sys2Proof.Laws.Encodes.Statement (.sldB32 x0 x1 x2 x3 x4 x5) :=
  fun _ _ _ _ _ _ => Sys2Proof.Laws.Encodes.word _ 2 rfl (by decide)
theorem Sys2Proof.Laws.Encodes.sldB64 : ∀ x0 x1 x2 x3 x4 x5, Sys2Proof.Laws.Encodes.Statement (.sldB64 x0 x1 x2 x3 x4 x5) :=
  fun _ _ _ _ _ _ => Sys2Proof.Laws.Encodes.word _ 2 rfl (by decide)
theorem Sys2Proof.Laws.Encodes.sldB128 : ∀ x0 x1 x2 x3 x4 x5, Sys2Proof.Laws.Encodes.Statement (.sldB128 x0 x1 x2 x3 x4 x5) :=
  fun _ _ _ _ _ _ => Sys2Proof.Laws.Encodes.word _ 2 rfl (by decide)
theorem Sys2Proof.Laws.Encodes.tdset : ∀ x0 x1 x2, Sys2Proof.Laws.Encodes.Statement (.tdset x0 x1 x2) :=
  fun _ _ _ => Sys2Proof.Laws.Encodes.word _ 3 rfl (by decide)
theorem Sys2Proof.Laws.Encodes.cpy : ∀ x0 x1 x2 x3 x4 x5 x6, Sys2Proof.Laws.Encodes.Statement (.cpy x0 x1 x2 x3 x4 x5 x6) :=
  fun _ _ _ _ _ _ _ => Sys2Proof.Laws.Encodes.word _ 3 rfl (by decide)
theorem Sys2Proof.Laws.Encodes.cpyq : ∀ x0 x1 x2 x3 x4 x5 x6 x7 x8 x9 x10 x11 x12, Sys2Proof.Laws.Encodes.Statement (.cpyq x0 x1 x2 x3 x4 x5 x6 x7 x8 x9 x10 x11 x12) :=
  fun _ _ _ _ _ _ _ _ _ _ _ _ _ => Sys2Proof.Laws.Encodes.word _ 3 rfl (by decide)
theorem Sys2Proof.Laws.Encodes.cpyd : ∀ x0 x1 x2 x3 x4 x5 x6 x7 x8 x9 x10 x11, Sys2Proof.Laws.Encodes.Statement (.cpyd x0 x1 x2 x3 x4 x5 x6 x7 x8 x9 x10 x11) :=
  fun _ _ _ _ _ _ _ _ _ _ _ _ => Sys2Proof.Laws.Encodes.word _ 3 rfl (by decide)
theorem Sys2Proof.Laws.Encodes.cpyt : ∀ x0 x1 x2 x3 x4 x5 x6 x7 x8 x9 x10 x11 x12, Sys2Proof.Laws.Encodes.Statement (.cpyt x0 x1 x2 x3 x4 x5 x6 x7 x8 x9 x10 x11 x12) :=
  fun _ _ _ _ _ _ _ _ _ _ _ _ _ => Sys2Proof.Laws.Encodes.word _ 3 rfl (by decide)
theorem Sys2Proof.Laws.Encodes.cpyr : ∀ x0 x1 x2 x3 x4 x5 x6 x7, Sys2Proof.Laws.Encodes.Statement (.cpyr x0 x1 x2 x3 x4 x5 x6 x7) :=
  fun _ _ _ _ _ _ _ _ => Sys2Proof.Laws.Encodes.word _ 3 rfl (by decide)
theorem Sys2Proof.Laws.Encodes.cpyf : ∀ x0 x1 x2 x3 x4 x5 x6 x7 x8 x9 x10, Sys2Proof.Laws.Encodes.Statement (.cpyf x0 x1 x2 x3 x4 x5 x6 x7 x8 x9 x10) :=
  fun _ _ _ _ _ _ _ _ _ _ _ => Sys2Proof.Laws.Encodes.word _ 3 rfl (by decide)
theorem Sys2Proof.Laws.Encodes.cpyg : ∀ x0 x1 x2 x3 x4 x5 x6, Sys2Proof.Laws.Encodes.Statement (.cpyg x0 x1 x2 x3 x4 x5 x6) :=
  fun _ _ _ _ _ _ _ => Sys2Proof.Laws.Encodes.word _ 3 rfl (by decide)
theorem Sys2Proof.Laws.Encodes.cpys : ∀ x0 x1 x2, Sys2Proof.Laws.Encodes.Statement (.cpys x0 x1 x2) :=
  fun _ _ _ => Sys2Proof.Laws.Encodes.word _ 3 rfl (by decide)
theorem Sys2Proof.Laws.Encodes.qinit : ∀ x0 x1 x2, Sys2Proof.Laws.Encodes.Statement (.qinit x0 x1 x2) :=
  fun _ _ _ => Sys2Proof.Laws.Encodes.word _ 4 rfl (by decide)
theorem Sys2Proof.Laws.Encodes.mma : ∀ x0 x1 x2 x3 x4 x5 x6 x7 x8 x9 x10, Sys2Proof.Laws.Encodes.Statement (.mma x0 x1 x2 x3 x4 x5 x6 x7 x8 x9 x10) :=
  fun _ _ _ _ _ _ _ _ _ _ _ => Sys2Proof.Laws.Encodes.word _ 4 rfl (by decide)
theorem Sys2Proof.Laws.Encodes.mmaa : ∀ x0 x1 x2 x3 x4 x5 x6 x7 x8 x9 x10, Sys2Proof.Laws.Encodes.Statement (.mmaa x0 x1 x2 x3 x4 x5 x6 x7 x8 x9 x10) :=
  fun _ _ _ _ _ _ _ _ _ _ _ => Sys2Proof.Laws.Encodes.word _ 4 rfl (by decide)
theorem Sys2Proof.Laws.Encodes.aclr : ∀ x0 x1 x2, Sys2Proof.Laws.Encodes.Statement (.aclr x0 x1 x2) :=
  fun _ _ _ => Sys2Proof.Laws.Encodes.word _ 4 rfl (by decide)
theorem Sys2Proof.Laws.Encodes.ald : ∀ x0 x1 x2 x3 x4, Sys2Proof.Laws.Encodes.Statement (.ald x0 x1 x2 x3 x4) :=
  fun _ _ _ _ _ => Sys2Proof.Laws.Encodes.word _ 4 rfl (by decide)
theorem Sys2Proof.Laws.Encodes.ast : ∀ x0 x1 x2 x3 x4, Sys2Proof.Laws.Encodes.Statement (.ast x0 x1 x2 x3 x4) :=
  fun _ _ _ _ _ => Sys2Proof.Laws.Encodes.word _ 4 rfl (by decide)
theorem Sys2Proof.Laws.Encodes.acpy : ∀ x0 x1 x2 x3 x4 x5 x6 x7 x8 x9 x10 x11, Sys2Proof.Laws.Encodes.Statement (.acpy x0 x1 x2 x3 x4 x5 x6 x7 x8 x9 x10 x11) :=
  fun _ _ _ _ _ _ _ _ _ _ _ _ => Sys2Proof.Laws.Encodes.word _ 4 rfl (by decide)
theorem Sys2Proof.Laws.Encodes.setaw : ∀ x0 x1 x2, Sys2Proof.Laws.Encodes.Statement (.setaw x0 x1 x2) :=
  fun _ _ _ => Sys2Proof.Laws.Encodes.word _ 4 rfl (by decide)
theorem Sys2Proof.Laws.Encodes.cgrp : ∀ x0 x1 x2, Sys2Proof.Laws.Encodes.Statement (.cgrp x0 x1 x2) :=
  fun _ _ _ => Sys2Proof.Laws.Encodes.word _ 5 rfl (by decide)
theorem Sys2Proof.Laws.Encodes.cput : ∀ x0 x1 x2 x3 x4 x5 x6, Sys2Proof.Laws.Encodes.Statement (.cput x0 x1 x2 x3 x4 x5 x6) :=
  fun _ _ _ _ _ _ _ => Sys2Proof.Laws.Encodes.word _ 5 rfl (by decide)
theorem Sys2Proof.Laws.Encodes.cget : ∀ x0 x1 x2 x3 x4 x5 x6, Sys2Proof.Laws.Encodes.Statement (.cget x0 x1 x2 x3 x4 x5 x6) :=
  fun _ _ _ _ _ _ _ => Sys2Proof.Laws.Encodes.word _ 5 rfl (by decide)
theorem Sys2Proof.Laws.Encodes.csig : ∀ x0 x1 x2 x3, Sys2Proof.Laws.Encodes.Statement (.csig x0 x1 x2 x3) :=
  fun _ _ _ _ => Sys2Proof.Laws.Encodes.word _ 5 rfl (by decide)
theorem Sys2Proof.Laws.Encodes.cgath : ∀ x0 x1 x2 x3 x4 x5 x6 x7 x8, Sys2Proof.Laws.Encodes.Statement (.cgath x0 x1 x2 x3 x4 x5 x6 x7 x8) :=
  fun _ _ _ _ _ _ _ _ _ => Sys2Proof.Laws.Encodes.word _ 5 rfl (by decide)
theorem Sys2Proof.Laws.Encodes.crsc : ∀ x0 x1 x2 x3 x4 x5 x6 x7 x8 x9, Sys2Proof.Laws.Encodes.Statement (.crsc x0 x1 x2 x3 x4 x5 x6 x7 x8 x9) :=
  fun _ _ _ _ _ _ _ _ _ _ => Sys2Proof.Laws.Encodes.word _ 5 rfl (by decide)
theorem Sys2Proof.Laws.Encodes.card : ∀ x0 x1 x2 x3 x4 x5 x6 x7 x8 x9, Sys2Proof.Laws.Encodes.Statement (.card x0 x1 x2 x3 x4 x5 x6 x7 x8 x9) :=
  fun _ _ _ _ _ _ _ _ _ _ => Sys2Proof.Laws.Encodes.word _ 5 rfl (by decide)
theorem Sys2Proof.Laws.Encodes.cbcst : ∀ x0 x1 x2 x3 x4 x5 x6 x7 x8, Sys2Proof.Laws.Encodes.Statement (.cbcst x0 x1 x2 x3 x4 x5 x6 x7 x8) :=
  fun _ _ _ _ _ _ _ _ _ => Sys2Proof.Laws.Encodes.word _ 5 rfl (by decide)
theorem Sys2Proof.Laws.Encodes.trap : ∀ x0 x1, Sys2Proof.Laws.Encodes.Statement (.trap x0 x1) :=
  fun _ _ => Sys2Proof.Laws.Encodes.word _ 6 rfl (by decide)
theorem Sys2Proof.Laws.Encodes.tres : ∀ x0 x1, Sys2Proof.Laws.Encodes.Statement (.tres x0 x1) :=
  fun _ _ => Sys2Proof.Laws.Encodes.word _ 6 rfl (by decide)
theorem Sys2Proof.Laws.Encodes.tkill : ∀ x0, Sys2Proof.Laws.Encodes.Statement (.tkill x0) :=
  fun _ => Sys2Proof.Laws.Encodes.word _ 6 rfl (by decide)
theorem Sys2Proof.Laws.Encodes.tesc : ∀ x0 x1, Sys2Proof.Laws.Encodes.Statement (.tesc x0 x1) :=
  fun _ _ => Sys2Proof.Laws.Encodes.word _ 6 rfl (by decide)
theorem Sys2Proof.Laws.Encodes.csrr : ∀ x0 x1 x2, Sys2Proof.Laws.Encodes.Statement (.csrr x0 x1 x2) :=
  fun _ _ _ => Sys2Proof.Laws.Encodes.word _ 6 rfl (by decide)
theorem Sys2Proof.Laws.Encodes.csrw : ∀ x0 x1 x2, Sys2Proof.Laws.Encodes.Statement (.csrw x0 x1 x2) :=
  fun _ _ _ => Sys2Proof.Laws.Encodes.word _ 6 rfl (by decide)
theorem Sys2Proof.Laws.Encodes.setmode : ∀ x0 x1 x2, Sys2Proof.Laws.Encodes.Statement (.setmode x0 x1 x2) :=
  fun _ _ _ => Sys2Proof.Laws.Encodes.word _ 6 rfl (by decide)
theorem Sys2Proof.Laws.Encodes.gettime : ∀ x0 x1 x2, Sys2Proof.Laws.Encodes.Statement (.gettime x0 x1 x2) :=
  fun _ _ _ => Sys2Proof.Laws.Encodes.word _ 6 rfl (by decide)
theorem Sys2Proof.Laws.Encodes.clauseIssue : ∀ x0 x1 x2, Sys2Proof.Laws.Encodes.Statement (.clauseIssue x0 x1 x2) :=
  fun _ _ _ => Sys2Proof.Laws.Encodes.step _ rfl
theorem Sys2Proof.Laws.Encodes.pageWalk : ∀ x0 x1 x2 x3, Sys2Proof.Laws.Encodes.Statement (.pageWalk x0 x1 x2 x3) :=
  fun _ _ _ _ => Sys2Proof.Laws.Encodes.step _ rfl
theorem Sys2Proof.Laws.Encodes.globalLoadPerform : ∀ x0 x1, Sys2Proof.Laws.Encodes.Statement (.globalLoadPerform x0 x1) :=
  fun _ _ => Sys2Proof.Laws.Encodes.step _ rfl
theorem Sys2Proof.Laws.Encodes.loadReturn : ∀ x0 x1, Sys2Proof.Laws.Encodes.Statement (.loadReturn x0 x1) :=
  fun _ _ => Sys2Proof.Laws.Encodes.step _ rfl
theorem Sys2Proof.Laws.Encodes.writePerform : ∀ x0 x1, Sys2Proof.Laws.Encodes.Statement (.writePerform x0 x1) :=
  fun _ _ => Sys2Proof.Laws.Encodes.step _ rfl
theorem Sys2Proof.Laws.Encodes.atomicPerform : ∀ x0 x1, Sys2Proof.Laws.Encodes.Statement (.atomicPerform x0 x1) :=
  fun _ _ => Sys2Proof.Laws.Encodes.step _ rfl
theorem Sys2Proof.Laws.Encodes.lineFill : ∀ x0 x1 x2, Sys2Proof.Laws.Encodes.Statement (.lineFill x0 x1 x2) :=
  fun _ _ _ => Sys2Proof.Laws.Encodes.step _ rfl
theorem Sys2Proof.Laws.Encodes.leaseWaitEnd : ∀ x0, Sys2Proof.Laws.Encodes.Statement (.leaseWaitEnd x0) :=
  fun _ => Sys2Proof.Laws.Encodes.step _ rfl
theorem Sys2Proof.Laws.Encodes.scratchpadBankAccess : ∀ x0 x1, Sys2Proof.Laws.Encodes.Statement (.scratchpadBankAccess x0 x1) :=
  fun _ _ => Sys2Proof.Laws.Encodes.step _ rfl
theorem Sys2Proof.Laws.Encodes.ratomPerform : ∀ x0 x1, Sys2Proof.Laws.Encodes.Statement (.ratomPerform x0 x1) :=
  fun _ _ => Sys2Proof.Laws.Encodes.step _ rfl
theorem Sys2Proof.Laws.Encodes.copyCommandComplete : ∀ x0, Sys2Proof.Laws.Encodes.Statement (.copyCommandComplete x0) :=
  fun _ => Sys2Proof.Laws.Encodes.step _ rfl
theorem Sys2Proof.Laws.Encodes.platenStart : ∀ x0 x1, Sys2Proof.Laws.Encodes.Statement (.platenStart x0 x1) :=
  fun _ _ => Sys2Proof.Laws.Encodes.step _ rfl
theorem Sys2Proof.Laws.Encodes.platenComplete : ∀ x0, Sys2Proof.Laws.Encodes.Statement (.platenComplete x0) :=
  fun _ => Sys2Proof.Laws.Encodes.step _ rfl
theorem Sys2Proof.Laws.Encodes.mantisRegistration : ∀ x0 x1, Sys2Proof.Laws.Encodes.Statement (.mantisRegistration x0 x1) :=
  fun _ _ => Sys2Proof.Laws.Encodes.step _ rfl
theorem Sys2Proof.Laws.Encodes.mantisTimeout : ∀ x0, Sys2Proof.Laws.Encodes.Statement (.mantisTimeout x0) :=
  fun _ => Sys2Proof.Laws.Encodes.step _ rfl
theorem Sys2Proof.Laws.Encodes.spillSweep : ∀ x0, Sys2Proof.Laws.Encodes.Statement (.spillSweep x0) :=
  fun _ => Sys2Proof.Laws.Encodes.step _ rfl
theorem Sys2Proof.Laws.Encodes.spillReclaim : ∀ x0, Sys2Proof.Laws.Encodes.Statement (.spillReclaim x0) :=
  fun _ => Sys2Proof.Laws.Encodes.step _ rfl
theorem Sys2Proof.Laws.Encodes.contextReevaluation : ∀ x0, Sys2Proof.Laws.Encodes.Statement (.contextReevaluation x0) :=
  fun _ => Sys2Proof.Laws.Encodes.step _ rfl
theorem Sys2Proof.Laws.Encodes.streamStart : ∀ x0 x1 x2, Sys2Proof.Laws.Encodes.Statement (.streamStart x0 x1 x2) :=
  fun _ _ _ => Sys2Proof.Laws.Encodes.step _ rfl
theorem Sys2Proof.Laws.Encodes.streamSerialUpdate : ∀ x0 x1 x2, Sys2Proof.Laws.Encodes.Statement (.streamSerialUpdate x0 x1 x2) :=
  fun _ _ _ => Sys2Proof.Laws.Encodes.step _ rfl
theorem Sys2Proof.Laws.Encodes.streamStop : ∀ x0 x1 x2, Sys2Proof.Laws.Encodes.Statement (.streamStop x0 x1 x2) :=
  fun _ _ _ => Sys2Proof.Laws.Encodes.step _ rfl
theorem Sys2Proof.Laws.Encodes.schedulerStreamRead : ∀ x0 x1, Sys2Proof.Laws.Encodes.Statement (.schedulerStreamRead x0 x1) :=
  fun _ _ => Sys2Proof.Laws.Encodes.step _ rfl
theorem Sys2Proof.Laws.Encodes.gateRegistration : ∀ x0, Sys2Proof.Laws.Encodes.Statement (.gateRegistration x0) :=
  fun _ => Sys2Proof.Laws.Encodes.step _ rfl
theorem Sys2Proof.Laws.Encodes.launchAdmit : ∀ x0, Sys2Proof.Laws.Encodes.Statement (.launchAdmit x0) :=
  fun _ => Sys2Proof.Laws.Encodes.step _ rfl
theorem Sys2Proof.Laws.Encodes.blockPlace : ∀ x0 x1, Sys2Proof.Laws.Encodes.Statement (.blockPlace x0 x1) :=
  fun _ _ => Sys2Proof.Laws.Encodes.step _ rfl
theorem Sys2Proof.Laws.Encodes.blockSave : ∀ x0, Sys2Proof.Laws.Encodes.Statement (.blockSave x0) :=
  fun _ => Sys2Proof.Laws.Encodes.step _ rfl
theorem Sys2Proof.Laws.Encodes.blockRestore : ∀ x0, Sys2Proof.Laws.Encodes.Statement (.blockRestore x0) :=
  fun _ => Sys2Proof.Laws.Encodes.step _ rfl
theorem Sys2Proof.Laws.Encodes.blockFlush : ∀ x0, Sys2Proof.Laws.Encodes.Statement (.blockFlush x0) :=
  fun _ => Sys2Proof.Laws.Encodes.step _ rfl
theorem Sys2Proof.Laws.Encodes.launchAppendComplete : ∀ x0, Sys2Proof.Laws.Encodes.Statement (.launchAppendComplete x0) :=
  fun _ => Sys2Proof.Laws.Encodes.step _ rfl
theorem Sys2Proof.Laws.Encodes.launchRetire : ∀ x0, Sys2Proof.Laws.Encodes.Statement (.launchRetire x0) :=
  fun _ => Sys2Proof.Laws.Encodes.step _ rfl
theorem Sys2Proof.Laws.Encodes.handlerWaveForm : ∀ x0 x1, Sys2Proof.Laws.Encodes.Statement (.handlerWaveForm x0 x1) :=
  fun _ _ => Sys2Proof.Laws.Encodes.step _ rfl
theorem Sys2Proof.Laws.Encodes.pcfgResize : ∀ x0 x1 x2, Sys2Proof.Laws.Encodes.Statement (.pcfgResize x0 x1 x2) :=
  fun _ _ _ => Sys2Proof.Laws.Encodes.step _ rfl
theorem Sys2Proof.Laws.Encodes.pcfgCancel : ∀ x0 x1 x2, Sys2Proof.Laws.Encodes.Statement (.pcfgCancel x0 x1 x2) :=
  fun _ _ _ => Sys2Proof.Laws.Encodes.step _ rfl
theorem Sys2Proof.Laws.Encodes.cellRemoval : ∀ x0, Sys2Proof.Laws.Encodes.Statement (.cellRemoval x0) :=
  fun _ => Sys2Proof.Laws.Encodes.step _ rfl
theorem Sys2Proof.Laws.Encodes.sliceRemoval : ∀ x0 x1, Sys2Proof.Laws.Encodes.Statement (.sliceRemoval x0 x1) :=
  fun _ _ => Sys2Proof.Laws.Encodes.step _ rfl
theorem Sys2Proof.Laws.Encodes.channelGroupRemoval : ∀ x0 x1, Sys2Proof.Laws.Encodes.Statement (.channelGroupRemoval x0 x1) :=
  fun _ _ => Sys2Proof.Laws.Encodes.step _ rfl
theorem Sys2Proof.Laws.Encodes.bucketWrite : ∀ x0 x1 x2 x3, Sys2Proof.Laws.Encodes.Statement (.bucketWrite x0 x1 x2 x3) :=
  fun _ _ _ _ => Sys2Proof.Laws.Encodes.step _ rfl
theorem Sys2Proof.Laws.Encodes.bucketRelease : ∀ x0 x1 x2, Sys2Proof.Laws.Encodes.Statement (.bucketRelease x0 x1 x2) :=
  fun _ _ _ => Sys2Proof.Laws.Encodes.step _ rfl
theorem Sys2Proof.Laws.Encodes.shootdownStart : ∀ x0 x1, Sys2Proof.Laws.Encodes.Statement (.shootdownStart x0 x1) :=
  fun _ _ => Sys2Proof.Laws.Encodes.step _ rfl
theorem Sys2Proof.Laws.Encodes.shootdownComplete : ∀ x0, Sys2Proof.Laws.Encodes.Statement (.shootdownComplete x0) :=
  fun _ => Sys2Proof.Laws.Encodes.step _ rfl
theorem Sys2Proof.Laws.Encodes.scSnap : ∀ x0 x1, Sys2Proof.Laws.Encodes.Statement (.scSnap x0 x1) :=
  fun _ _ => Sys2Proof.Laws.Encodes.step _ rfl
theorem Sys2Proof.Laws.Encodes.queueLostClear : ∀ x0 x1 x2, Sys2Proof.Laws.Encodes.Statement (.queueLostClear x0 x1 x2) :=
  fun _ _ _ => Sys2Proof.Laws.Encodes.step _ rfl
theorem Sys2Proof.Laws.Encodes.hmArm : ∀ x0 x1 x2, Sys2Proof.Laws.Encodes.Statement (.hmArm x0 x1 x2) :=
  fun _ _ _ => Sys2Proof.Laws.Encodes.step _ rfl
theorem Sys2Proof.Laws.Encodes.hmDisarm : ∀ x0 x1 x2, Sys2Proof.Laws.Encodes.Statement (.hmDisarm x0 x1 x2) :=
  fun _ _ _ => Sys2Proof.Laws.Encodes.step _ rfl
theorem Sys2Proof.Laws.Encodes.hmStatusClear : ∀ x0 x1 x2, Sys2Proof.Laws.Encodes.Statement (.hmStatusClear x0 x1 x2) :=
  fun _ _ _ => Sys2Proof.Laws.Encodes.step _ rfl
theorem Sys2Proof.Laws.Encodes.replay : ∀ x0, Sys2Proof.Laws.Encodes.Statement (.replay x0) :=
  fun _ => Sys2Proof.Laws.Encodes.step _ rfl
theorem Sys2Proof.Laws.Encodes.killLane : ∀ x0, Sys2Proof.Laws.Encodes.Statement (.killLane x0) :=
  fun _ => Sys2Proof.Laws.Encodes.step _ rfl
theorem Sys2Proof.Laws.Encodes.killLaunch : ∀ x0, Sys2Proof.Laws.Encodes.Statement (.killLaunch x0) :=
  fun _ => Sys2Proof.Laws.Encodes.step _ rfl
theorem Sys2Proof.Laws.Encodes.replayRange : ∀ x0, Sys2Proof.Laws.Encodes.Statement (.replayRange x0) :=
  fun _ => Sys2Proof.Laws.Encodes.step _ rfl
theorem Sys2Proof.Laws.Encodes.ppodCtlWrite : ∀ x0 x1 x2, Sys2Proof.Laws.Encodes.Statement (.ppodCtlWrite x0 x1 x2) :=
  fun _ _ _ => Sys2Proof.Laws.Encodes.step _ rfl
theorem Sys2Proof.Laws.Encodes.ppodFlush : ∀ x0 x1 x2, Sys2Proof.Laws.Encodes.Statement (.ppodFlush x0 x1 x2) :=
  fun _ _ _ => Sys2Proof.Laws.Encodes.step _ rfl
theorem Sys2Proof.Laws.Encodes.podRequestReceive : ∀ x0 x1 x2 x3 x4, Sys2Proof.Laws.Encodes.Statement (.podRequestReceive x0 x1 x2 x3 x4) :=
  fun _ _ _ _ _ => Sys2Proof.Laws.Encodes.step _ rfl
theorem Sys2Proof.Laws.Encodes.podResponse : ∀ x0 x1, Sys2Proof.Laws.Encodes.Statement (.podResponse x0 x1) :=
  fun _ _ => Sys2Proof.Laws.Encodes.step _ rfl
theorem Sys2Proof.Laws.Encodes.podRequestTimeout : ∀ x0, Sys2Proof.Laws.Encodes.Statement (.podRequestTimeout x0) :=
  fun _ => Sys2Proof.Laws.Encodes.step _ rfl
theorem Sys2Proof.Laws.Encodes.ualinkPortDown : ∀ x0, Sys2Proof.Laws.Encodes.Statement (.ualinkPortDown x0) :=
  fun _ => Sys2Proof.Laws.Encodes.step _ rfl
theorem Sys2Proof.Laws.Encodes.collectiveChunkArrival : ∀ x0 x1 x2 x3 x4 x5 x6 x7, Sys2Proof.Laws.Encodes.Statement (.collectiveChunkArrival x0 x1 x2 x3 x4 x5 x6 x7) :=
  fun _ _ _ _ _ _ _ _ => Sys2Proof.Laws.Encodes.step _ rfl
theorem Sys2Proof.Laws.Encodes.collectiveAbort : ∀ x0 x1 x2, Sys2Proof.Laws.Encodes.Statement (.collectiveAbort x0 x1 x2) :=
  fun _ _ _ => Sys2Proof.Laws.Encodes.step _ rfl
theorem Sys2Proof.Laws.Encodes.chaferOperationComplete : ∀ x0, Sys2Proof.Laws.Encodes.Statement (.chaferOperationComplete x0) :=
  fun _ => Sys2Proof.Laws.Encodes.step _ rfl
theorem Sys2Proof.Laws.Encodes.cxlMemRead : ∀ x0 x1, Sys2Proof.Laws.Encodes.Statement (.cxlMemRead x0 x1) :=
  fun _ _ => Sys2Proof.Laws.Encodes.step _ rfl
theorem Sys2Proof.Laws.Encodes.cxlMemWrite : ∀ x0 x1, Sys2Proof.Laws.Encodes.Statement (.cxlMemWrite x0 x1) :=
  fun _ _ => Sys2Proof.Laws.Encodes.step _ rfl
theorem Sys2Proof.Laws.Encodes.hostSnoop : ∀ x0 x1 x2 x3, Sys2Proof.Laws.Encodes.Statement (.hostSnoop x0 x1 x2 x3) :=
  fun _ _ _ _ => Sys2Proof.Laws.Encodes.step _ rfl
theorem Sys2Proof.Laws.Encodes.ownClaim : ∀ x0 x1, Sys2Proof.Laws.Encodes.Statement (.ownClaim x0 x1) :=
  fun _ _ => Sys2Proof.Laws.Encodes.step _ rfl
theorem Sys2Proof.Laws.Encodes.ownBeat : ∀ x0 x1, Sys2Proof.Laws.Encodes.Statement (.ownBeat x0 x1) :=
  fun _ _ => Sys2Proof.Laws.Encodes.step _ rfl
theorem Sys2Proof.Laws.Encodes.ownOffer : ∀ x0 x1, Sys2Proof.Laws.Encodes.Statement (.ownOffer x0 x1) :=
  fun _ _ => Sys2Proof.Laws.Encodes.step _ rfl
theorem Sys2Proof.Laws.Encodes.ownAccept : ∀ x0 x1, Sys2Proof.Laws.Encodes.Statement (.ownAccept x0 x1) :=
  fun _ _ => Sys2Proof.Laws.Encodes.step _ rfl
theorem Sys2Proof.Laws.Encodes.ownershipLapse : Sys2Proof.Laws.Encodes.Statement (.ownershipLapse) :=
  Sys2Proof.Laws.Encodes.step _ rfl
theorem Sys2Proof.Laws.Encodes.attCmd : ∀ x0 x1, Sys2Proof.Laws.Encodes.Statement (.attCmd x0 x1) :=
  fun _ _ => Sys2Proof.Laws.Encodes.step _ rfl
theorem Sys2Proof.Laws.Encodes.attestationComplete : ∀ x0, Sys2Proof.Laws.Encodes.Statement (.attestationComplete x0) :=
  fun _ => Sys2Proof.Laws.Encodes.step _ rfl
theorem Sys2Proof.Laws.Encodes.securityAlarm : ∀ x0, Sys2Proof.Laws.Encodes.Statement (.securityAlarm x0) :=
  fun _ => Sys2Proof.Laws.Encodes.step _ rfl
theorem Sys2Proof.Laws.Encodes.fwLoad : ∀ x0, Sys2Proof.Laws.Encodes.Statement (.fwLoad x0) :=
  fun _ => Sys2Proof.Laws.Encodes.step _ rfl
theorem Sys2Proof.Laws.Encodes.fwUpdate : ∀ x0, Sys2Proof.Laws.Encodes.Statement (.fwUpdate x0) :=
  fun _ => Sys2Proof.Laws.Encodes.step _ rfl
theorem Sys2Proof.Laws.Encodes.fwImageVerified : Sys2Proof.Laws.Encodes.Statement (.fwImageVerified) :=
  Sys2Proof.Laws.Encodes.step _ rfl
theorem Sys2Proof.Laws.Encodes.coldReset : Sys2Proof.Laws.Encodes.Statement (.coldReset) :=
  Sys2Proof.Laws.Encodes.step _ rfl
theorem Sys2Proof.Laws.Encodes.powerFail : Sys2Proof.Laws.Encodes.Statement (.powerFail) :=
  Sys2Proof.Laws.Encodes.step _ rfl
theorem Sys2Proof.Laws.Encodes.functionLevelReset : ∀ x0, Sys2Proof.Laws.Encodes.Statement (.functionLevelReset x0) :=
  fun _ => Sys2Proof.Laws.Encodes.step _ rfl
theorem Sys2Proof.Laws.Encodes.rfmIssue : ∀ x0, Sys2Proof.Laws.Encodes.Statement (.rfmIssue x0) :=
  fun _ => Sys2Proof.Laws.Encodes.step _ rfl
theorem Sys2Proof.Laws.Encodes.periodicRefresh : ∀ x0, Sys2Proof.Laws.Encodes.Statement (.periodicRefresh x0) :=
  fun _ => Sys2Proof.Laws.Encodes.step _ rfl
theorem Sys2Proof.Laws.Encodes.activationHold : ∀ x0, Sys2Proof.Laws.Encodes.Statement (.activationHold x0) :=
  fun _ => Sys2Proof.Laws.Encodes.step _ rfl
theorem Sys2Proof.Laws.Encodes.logRecordProgram : Sys2Proof.Laws.Encodes.Statement (.logRecordProgram) :=
  Sys2Proof.Laws.Encodes.step _ rfl
theorem Sys2Proof.Laws.Encodes.temperatureThreshold : ∀ x0 x1, Sys2Proof.Laws.Encodes.Statement (.temperatureThreshold x0 x1) :=
  fun _ _ => Sys2Proof.Laws.Encodes.step _ rfl
theorem Sys2Proof.Laws.Encodes.voltageDroop : ∀ x0 x1, Sys2Proof.Laws.Encodes.Statement (.voltageDroop x0 x1) :=
  fun _ _ => Sys2Proof.Laws.Encodes.step _ rfl
theorem Sys2Proof.Laws.Encodes.dataRateChange : ∀ x0, Sys2Proof.Laws.Encodes.Statement (.dataRateChange x0) :=
  fun _ => Sys2Proof.Laws.Encodes.step _ rfl
theorem Sys2Proof.Laws.Encodes.coreClockChange : ∀ x0, Sys2Proof.Laws.Encodes.Statement (.coreClockChange x0) :=
  fun _ => Sys2Proof.Laws.Encodes.step _ rfl
theorem Sys2Proof.Laws.Encodes.registerWrite : ∀ x0 x1 x2 x3, Sys2Proof.Laws.Encodes.Statement (.registerWrite x0 x1 x2 x3) :=
  fun _ _ _ _ => Sys2Proof.Laws.Encodes.step _ rfl
theorem Sys2Proof.Laws.Encodes.ualinkPortUp : ∀ x0, Sys2Proof.Laws.Encodes.Statement (.ualinkPortUp x0) :=
  fun _ => Sys2Proof.Laws.Encodes.step _ rfl
theorem Sys2Proof.Laws.Encodes.acceleratorIdAssign : ∀ x0, Sys2Proof.Laws.Encodes.Statement (.acceleratorIdAssign x0) :=
  fun _ => Sys2Proof.Laws.Encodes.step _ rfl
theorem Sys2Proof.Laws.Encodes.lifetimeHistogramUpdate : ∀ x0 x1 x2, Sys2Proof.Laws.Encodes.Statement (.lifetimeHistogramUpdate x0 x1 x2) :=
  fun _ _ _ => Sys2Proof.Laws.Encodes.step _ rfl
end

