-- ==== Sys2Proof/Machine/Assembler.lean ====
section
/-! DEFINITION. What the assembler umas and a loader make of a program (R20, R21, R88, R92 to R98): the values of expressions, the clauses
that statements form with their headers, branch offsets, kernel headers, data and descriptor images, the object, and what a loader makes
of it. A statement stands here with its fields, and each kind of statement can stand only in the sections that Table 4.4 gives it; its
spelling as text is not modelled (log entry 61). `none` is an error, which stops umas or refuses the object. -/

namespace Sys2Proof.Machine

/-! ### Expressions (R88) -/

/-- An identifier, as the bytes of its text. -/
abbrev AsmName := List Byte

inductive AsmExpr where
  | num (x : Word64)
  | symbol (name : AsmName)
  | neg (x : AsmExpr)
  | compl (x : AsmExpr)
  | mul (x y : AsmExpr)
  | div (x y : AsmExpr)
  | rem (x y : AsmExpr)
  | add (x y : AsmExpr)
  | sub (x y : AsmExpr)
  | shl (x y : AsmExpr)
  | shr (x y : AsmExpr)
  | and (x y : AsmExpr)
  | xor (x y : AsmExpr)
  | or (x y : AsmExpr)
  /-- `w0` to `w3` -/
  | part (i : Fin 4) (x : AsmExpr)
  | lo32 (x : AsmExpr)
  | hi32 (x : AsmExpr)
  deriving DecidableEq, Repr

/-- What an expression gives: a number, or the relocation of Table 4.9 that gives it at load time, type 1 where no part is taken. -/
inductive AsmValue where
  | abs (x : Word64)
  | reloc (kind : Nat) (name : AsmName) (addend : Word64)
  deriving DecidableEq, Repr

/-- The number that a value is; a relocatable one stands only where Table 4.9 has a relocation for it. -/
def AsmValue.num? : AsmValue → Option Word64
  | .abs x => some x
  | .reloc _ _ _ => none

/-- A part of a value, which a relocation of the given type takes from a load-time symbol. -/
def AsmValue.piece (v : AsmValue) (kind lo n : Nat) : Option AsmValue :=
  match v with
  | .abs x => some (.abs (BitVec.ofNat 64 (bitsOf x.toNat lo n)))
  | .reloc 1 s a => some (.reloc kind s a)
  | .reloc _ _ _ => none

/-- The sum of two values: one of them may hold a load-time symbol. -/
def AsmValue.plus (v w : AsmValue) : Option AsmValue :=
  match v, w with
  | .abs x, .abs y => some (.abs (x + y))
  | .reloc 1 s a, .abs y => some (.reloc 1 s (a + y))
  | .abs x, .reloc 1 s a => some (.reloc 1 s (x + a))
  | _, _ => none

/-- An operator on two numbers. -/
def asmOp (x y : Option AsmValue) (f : Word64 → Word64 → Option Word64) : Option AsmValue := do
  let a ← (← x).num?
  let b ← (← y).num?
  return .abs (← f a b)

/-- A shift by a natural count; one by a negative count is an error. -/
def asmShift (f : Nat → Nat → Nat) (x y : Word64) : Option Word64 :=
  if y.toInt < 0 then none else some (if 64 ≤ y.toNat then 0 else BitVec.ofNat 64 (f x.toNat y.toNat))

/-- The value of an expression over the symbols that `.equ` defines (R88). Every other symbol is fixed at load time, and the forms that a
relocation can give are that symbol plus or minus a number and the parts of that sum (log entry 61). -/
def AsmExpr.eval (equs : List (AsmName × Word64)) : AsmExpr → Option AsmValue
  | .num x => some (.abs x)
  | .symbol n => some (((equs.find? (fun p => p.1 == n)).map (fun p => AsmValue.abs p.2)).getD (.reloc 1 n 0))
  | .neg x => do return .abs (-(← (← x.eval equs).num?))
  | .compl x => do return .abs (~~~(← (← x.eval equs).num?))
  | .mul x y => asmOp (x.eval equs) (y.eval equs) (fun a b => some (a * b))
  | .div x y => asmOp (x.eval equs) (y.eval equs) (fun a b => if b = 0 then none else some (BitVec.ofInt 64 (Int.tdiv a.toInt b.toInt)))
  | .rem x y => asmOp (x.eval equs) (y.eval equs) (fun a b => if b = 0 then none else some (BitVec.ofInt 64 (Int.tmod a.toInt b.toInt)))
  | .add x y => do (← x.eval equs).plus (← y.eval equs)
  | .sub x y => do (← x.eval equs).plus (.abs (-(← (← y.eval equs).num?)))
  | .shl x y => asmOp (x.eval equs) (y.eval equs) (asmShift (fun a n => a * 2 ^ n))
  | .shr x y => asmOp (x.eval equs) (y.eval equs) (asmShift (fun a n => a / 2 ^ n))
  | .and x y => asmOp (x.eval equs) (y.eval equs) (fun a b => some (a &&& b))
  | .xor x y => asmOp (x.eval equs) (y.eval equs) (fun a b => some (a ^^^ b))
  | .or x y => asmOp (x.eval equs) (y.eval equs) (fun a b => some (a ||| b))
  | .part i x => do (← x.eval equs).piece (4 + i) (16 * i) 16
  | .lo32 x => do (← x.eval equs).piece 2 0 32
  | .hi32 x => do (← x.eval equs).piece 3 32 32

/-- The number that an expression gives; a relocatable one is an error here. -/
def AsmExpr.numOf (e : AsmExpr) (equs : List (AsmName × Word64)) : Option Word64 := do (← e.eval equs).num?

/-- `.equ` statements taken in order; an expression over a load-time symbol and a redefinition are errors. -/
def asmEqus (es : List (AsmName × AsmExpr)) : Option (List (AsmName × Word64)) :=
  es.foldlM (fun equs e => if equs.any (fun p => p.1 == e.1) then none else do return equs ++ [(e.1, ← e.2.numOf equs)]) []

/-- A relocation that umas writes (Table 4.8): where in its section, of which symbol. -/
structure AsmReloc where
  offset : Nat
  name : AsmName
  kind : Nat
  addend : Word64
  deriving DecidableEq, Repr

/-- The off6 field of an address `[base + e]` in units of the access (R92). -/
def asmOff6 (e : Int) (units : Nat) : Option (BitVec 6) :=
  if e % units = 0 ∧ -32 ≤ e / units ∧ e / units ≤ 31 then some (BitVec.ofInt 6 (e / units)) else none

/-- The unit of an address's offset in bytes (R76, R92), for the instructions whose off6 field is one. -/
def asmUnit : Instr → Option Nat
  | .ldB8 .. | .ldS8 .. | .stB8 .. => some 1
  | .ldB16 .. | .ldS16 .. | .stB16 .. => some 2
  | .ldB32 .. | .ldMx .. | .stB32 .. | .stMx .. | .ldsB32 .. | .stsB32 .. | .sldB32 .. | .atomAdd .. | .atomAddf .. | .atomMinS32 ..
  | .atomMaxS32 .. | .atomMinN32 .. | .atomMaxN32 .. | .atomAnd .. | .atomOr .. | .atomXor .. | .atomExch .. | .atomCas .. => some 4
  | .ldB64 .. | .stB64 .. | .ldsB64 .. | .stsB64 .. | .sldB64 .. | .atomAddB64 .. | .atomCasB64 .. => some 8
  | .ldB128 .. | .stB128 .. | .ldsB128 .. | .stsB128 .. | .sldB128 .. => some 16
  | .pref .. => some 128
  | _ => none

/-- Whether an instruction has an imm16 field (FI), and whether a relocation may fill it (R88, Table 4.9). -/
def asmHasImm : Instr → Bool
  | .movi .. | .movh .. | .movl .. | .smovi .. | .smovh .. => true
  | _ => false
def asmHasPiece : Instr → Bool
  | .movh .. | .movl .. | .smovi .. | .smovh .. => true
  | _ => false

/-- Whether an instruction goes to a label (R93). -/
def asmIsJump : Instr → Bool
  | .bra .. | .bru .. | .call .. => true
  | _ => false

/-- The imm16 field of an FI instruction (R91). -/
def asmImm16 (e : Int) : Option (BitVec 16) := if -0x8000 ≤ e ∧ e ≤ 0xFFFF then some (BitVec.ofInt 16 e) else none

/-! ### Clauses (R93 to R95) -/

/-- An instruction as written: its fields, but for `bra`, `bru` and `call` the label it goes to, for an address the offset in bytes (none
is 0) and for an FI instruction the immediate; and `.te` or not. -/
structure AsmInstr where
  instr : Instr
  target : Option AsmName := none
  off : Option AsmExpr := none
  imm : Option AsmExpr := none
  te : Bool := false
  deriving DecidableEq, Repr

/-- A statement of a kernel. -/
inductive AsmItem where
  | label (name : AsmName)
  | instr (i : AsmInstr)
  /-- `.clause class [wait=counter:n] [yield]` -/
  | clause (cls : Nat) (wait : Option (Nat × Nat)) (yields : Bool)
  /-- `.wait counter:n` -/
  | wait (counter n : Nat)
  | align (n : Nat)
  | equ (name : AsmName) (e : AsmExpr)
  | width (w : Nat)
  | vregs (n : Nat)
  | sregs (n : Nat)
  | accrows (n : Nat)
  | scratch (bytes : Nat)
  | cluster (c : Nat)
  /-- `.attr`: bits 0 to 3 are coresident, idempotent, savable and irdan -/
  | attr (mask : BitVec 4)
  | trapentry (label : AsmName)
  | args (bytes : Nat)
  deriving DecidableEq, Repr

/-- A clause as it forms: the class that a `.clause` names, and its instructions. -/
structure AsmClause where
  named : Option Nat
  wait : Option (Nat × Nat)
  yields : Bool
  words : List AsmInstr
  deriving DecidableEq, Repr

inductive AsmPiece where
  | label (name : AsmName)
  | clause (c : AsmClause)
  | align (n : Nat)
  deriving DecidableEq, Repr

/-- The pieces so far and the clause that is open. -/
structure AsmForm where
  done : List AsmPiece
  opened : Option AsmClause
  deriving DecidableEq, Repr

/-- The current clause ended; one that a directive opened and no instruction entered is an error (R95). -/
def AsmForm.close (f : AsmForm) : Option AsmForm :=
  match f.opened with
  | none => some f
  | some c => if c.words.isEmpty then none else some ⟨f.done ++ [.clause c], none⟩

/-- The class of a clause's instructions. -/
def AsmClause.cls (c : AsmClause) : Option Nat := c.words.head?.bind (fun i => classOf i.instr)

/-- Whether a clause ends with its last instruction (R67). -/
def AsmClause.ended (c : AsmClause) : Bool :=
  match c.words.getLast? with
  | some i => endsClause ((classOf i.instr).getD 0) (encodeNat i.instr)
  | none => false

/-- An instruction taken in source order (R94, R95). -/
def AsmForm.take (f : AsmForm) (i : AsmInstr) : Option AsmForm := do
  let k ← classOf i.instr
  let fresh : AsmClause := ⟨none, none, false, [i]⟩
  match f.opened with
  | none => some { f with opened := some fresh }
  | some c =>
    if c.words.isEmpty then
      if c.named.isSome && c.named != some k then none else some { f with opened := some { c with words := [i] } }
    else if c.ended then some ⟨f.done ++ [.clause c], some fresh⟩
    else if c.cls != some k || c.words.length == 15 then
      if c.named.isSome then none else some ⟨f.done ++ [.clause c], some fresh⟩
    else some { f with opened := some { c with words := c.words ++ [i] } }

/-- The counters and thresholds that a wait may name (R95). -/
def asmWaitOk (w : Nat × Nat) : Bool := decide (w.1 ≤ 3) && decide (w.2 ≤ 14)

/-- Whether `.align` takes a number (Table 4.4). -/
def asmAlignOk (n : Nat) : Bool := [4, 8, 16, 32, 64, 128, 256, 512, 1024, 2048, 4096].contains n

/-- A statement taken (R94, R95). -/
def AsmForm.item (f : AsmForm) (i : AsmItem) : Option AsmForm :=
  match i with
  | .label n => f.close.map (fun g => { g with done := g.done ++ [.label n] })
  | .instr x => f.take x
  | .clause cls w y =>
    if decide (cls ≤ 6) && w.all asmWaitOk then f.close.map (fun g => { g with opened := some ⟨some cls, w, y, []⟩ }) else none
  | .wait c n => if asmWaitOk (c, n) then f.close.map (fun g => { g with opened := some ⟨none, some (c, n), false, []⟩ }) else none
  | .align n => if asmAlignOk n then f.close.map (fun g => { g with done := g.done ++ [.align n] }) else none
  | .equ _ _ | .width _ | .vregs _ | .sregs _ | .accrows _ | .scratch _ | .cluster _ | .attr _ | .trapentry _ | .args _ => some f

/-- The pieces of a kernel, ended by `.endk`. -/
def asmForm (items : List AsmItem) : Option (List AsmPiece) := do
  let f ← items.foldlM AsmForm.item ⟨[], none⟩
  return (← f.close).done

/-- The word offset in the text section after a piece that begins at one. -/
def AsmPiece.after (p : AsmPiece) (pos : Nat) : Nat :=
  match p with
  | .label _ => pos
  | .clause c => pos + 1 + c.words.length
  | .align n => (4 * pos + n - 1) / n * n / 4

/-- The word offset of the first clause header. -/
def asmFirst : List AsmPiece → Nat → Option Nat
  | [], _ => none
  | .clause _ :: _, pos => some pos
  | p :: ps, pos => asmFirst ps (p.after pos)

/-- The labels as word offsets of the clause headers they name (R93, R94): the header of the first clause after the label, past padding
that `.align` puts between (log entry 61). A label with no clause after it names no header and is no target. -/
def asmTargets : List AsmPiece → Nat → List (AsmName × Nat)
  | [], _ => []
  | .label n :: ps, pos => ((asmFirst ps pos).map (fun h => (n, h))).toList ++ asmTargets ps pos
  | p :: ps, pos => asmTargets ps (p.after pos)

/-- The word offsets of the labels as symbols: the clause header that a label names, or where the text ends for a label with no clause after
it (DESIGN CHOICE, log entry 61: the spec does not say what such a label's value is). -/
def asmLabels : List AsmPiece → Nat → List (AsmName × Nat)
  | [], _ => []
  | .label n :: ps, pos => (n, (asmFirst ps pos).getD pos) :: asmLabels ps pos
  | p :: ps, pos => asmLabels ps (p.after pos)

/-- An instruction with the offset to its target, in words from its own header (R93). -/
def asmAim (i : Instr) (off : Int) : Option Instr :=
  match i with
  | .bra _ g => if -2 ^ 21 ≤ off ∧ off < 2 ^ 21 then some (.bra (BitVec.ofInt 22 off) g) else none
  | .bru _ g => if -2 ^ 21 ≤ off ∧ off < 2 ^ 21 then some (.bru (BitVec.ofInt 22 off) g) else none
  | .call n _ g => if -2 ^ 15 ≤ off ∧ off < 2 ^ 15 then some (.call n (BitVec.ofInt 16 off) g) else none
  | _ => none

/-- A label's word offset. Of two labels of one name in a kernel the first counts (DESIGN CHOICE, log entry 61: the spec does not say). -/
def asmFind (labels : List (AsmName × Nat)) (n : AsmName) : Option Nat := (labels.find? (fun p => p.1 == n)).map (·.2)

/-- An instruction with its target filled in: a jump has a label in its kernel that names a clause header, and no other instruction has one
(R93). -/
def AsmInstr.aimed (i : AsmInstr) (labels : List (AsmName × Nat)) (hdr : Nat) : Option Instr :=
  match i.target, asmIsJump i.instr with
  | some t, true => (asmFind labels t).bind (fun l => asmAim i.instr ((l : Int) - hdr))
  | none, false => some i.instr
  | _, _ => none

/-- A word with its off6 field filled in from the offset in bytes (R92). -/
def AsmInstr.offset (i : AsmInstr) (equs : List (AsmName × Word64)) (w : Nat) : Option Nat :=
  match asmUnit i.instr with
  | none => if i.off.isSome then none else some w
  | some u => do
    let e ← (i.off.getD (.num 0)).numOf equs
    return setBits w 8 6 (← asmOff6 e.toInt u).toNat

/-- A word at a byte offset with its imm16 field filled in, and the relocation of one that is fixed at load time. -/
def AsmInstr.immediate (i : AsmInstr) (equs : List (AsmName × Word64)) (at' w : Nat) : Option (Nat × List AsmReloc) :=
  match i.imm, asmHasImm i.instr with
  | none, false => some (w, [])
  | some e, true =>
    match e.eval equs with
    | some (.abs x) => (asmImm16 x.toInt).map (fun m => (setBits w 4 16 m.toNat, []))
    | some (.reloc k n a) => if asmHasPiece i.instr && decide (4 ≤ k) then some (setBits w 4 16 0, [⟨at', n, k, a⟩]) else none
    | none => none
  | _, _ => none

/-- The word of an instruction at a word offset in the clause at a header's, with its relocation; umas encodes well-formed instructions
only. -/
def asmWord (equs : List (AsmName × Word64)) (labels : List (AsmName × Nat)) (hdr pos : Nat) (i : AsmInstr) :
    Option (Nat × List AsmReloc) := do
  let j ← i.aimed labels hdr
  if j.wf then i.immediate equs (4 * pos) (← i.offset equs (encodeNat j)) else none

/-- The header of a clause (R64, R94). -/
def AsmClause.header (c : AsmClause) : Nat :=
  let w := c.wait.getD (0, 15)
  let te := maskOf (indicesFrom (fun i : AsmInstr => i.te) 0 c.words)
  2 ^ 31 + (if c.yields then 2 ^ 28 else 0) + 2 ^ 24 * w.2 + 2 ^ 22 * w.1 + 2 ^ 7 * te + 2 ^ 4 * c.cls.getD 0 + c.words.length

/-- The words of instructions from a word offset on, and their relocations. -/
def asmWords (equs : List (AsmName × Word64)) (labels : List (AsmName × Nat)) (hdr : Nat) :
    List AsmInstr → Nat → Option (List Nat × List AsmReloc)
  | [], _ => some ([], [])
  | i :: is, pos => do
    let w ← asmWord equs labels hdr pos i
    let rest ← asmWords equs labels hdr is (pos + 1)
    return (w.1 :: rest.1, w.2 ++ rest.2)

/-- The words of a piece that begins at a word offset: a clause's header and instructions, or zeros. -/
def AsmPiece.words (equs : List (AsmName × Word64)) (labels : List (AsmName × Nat)) (pos : Nat) :
    AsmPiece → Option (List Nat × List AsmReloc)
  | .label _ => some ([], [])
  | .clause c => (asmWords equs labels pos c.words (pos + 1)).map (fun r => (c.header :: r.1, r.2))
  | .align n => some (List.replicate ((AsmPiece.align n).after pos - pos) 0, [])

/-- The words of the pieces from a word offset on, and their relocations. -/
def asmEmit (equs : List (AsmName × Word64)) (labels : List (AsmName × Nat)) :
    List AsmPiece → Nat → Option (List Nat × List AsmReloc)
  | [], _ => some ([], [])
  | p :: ps, pos => do
    let here ← p.words equs labels pos
    let rest ← asmEmit equs labels ps (p.after pos)
    return (here.1 ++ rest.1, here.2 ++ rest.2)

/-- The words of a kernel's statements from a word offset on (R94), and their relocations. -/
def assemble (equs : List (AsmName × Word64)) (items : List AsmItem) (pos : Nat) : Option (List Nat × List AsmReloc) := do
  let ps ← asmForm items
  asmEmit equs (asmTargets ps pos) ps pos

/-! ### Kernel headers (R20, R21) -/

/-- What a kernel's directives and instructions give; `vnamed` and `snamed` are one more than the highest registers that its instructions
name. -/
structure KernelDecl where
  name : Nat
  code : Nat
  entry : Nat
  trapEntry : Option Nat
  width : Option Nat
  cluster : Option Nat
  vregs : Option Nat
  sregs : Option Nat
  accRows : Nat
  scratch : Nat
  attrs : Nat
  vnamed : Nat
  snamed : Nat
  deriving DecidableEq, Repr

/-- A number rounded up to a multiple. -/
def roundUp (n k : Nat) : Nat := (n + k - 1) / k * k

/-- The vector registers of a kernel (R21). -/
def KernelDecl.vcount (k : KernelDecl) : Nat := max 8 (roundUp (k.vregs.getD k.vnamed) 8)

/-- The scalar registers of a kernel (R21). -/
def KernelDecl.scount (k : KernelDecl) : Nat := k.sregs.getD k.snamed

/-- The code of a wave width in the shape word (Table 1.5). -/
def widthCode (w : Nat) : Option Nat := match w with | 8 => some 0 | 16 => some 1 | 32 => some 2 | 64 => some 3 | _ => none

/-- The kernel header's 32 bytes (Table 1.3). A register is named at or above the declared count when it lies at or above the count that
`.vregs` gives once rounded (DESIGN CHOICE, log entry 61: R21 can also be read as the count before rounding). -/
def KernelDecl.bytes (k : KernelDecl) : Option (List Byte) := do
  let w ← widthCode (k.width.getD 64)
  let c := k.cluster.getD 1
  let rows := roundUp k.accRows 128
  if 1 ≤ c ∧ c ≤ 4 ∧ k.vregs.getD 0 ≤ 64 ∧ k.vcount ≤ 64 ∧ k.scount ≤ 48 ∧ k.scratch ≤ 1572864 ∧ k.accRows ≤ 4096 ∧
      k.vnamed ≤ k.vcount ∧ k.snamed ≤ k.scount ∧ k.code % 256 = 0 then
    some (bytesLE 4 k.name ++ bytesLE 4 k.code ++ bytesLE 4 k.entry ++ bytesLE 4 (k.trapEntry.getD 0xFFFFFFFF) ++
      bytesLE 2 (w + 4 * (c - 1)) ++ bytesLE 2 0 ++ bytesLE 4 (k.vcount / 8 + 2 ^ 4 * k.scount + 2 ^ 10 * (rows / 128)) ++
      bytesLE 4 (roundUp k.scratch 256) ++
      bytesLE 4 (k.attrs % 16))
  else none

/-- One more than the highest register that the instructions among statements name, 0 when none is named (R21). -/
def asmNamed (named : Instr → List Nat) (items : List AsmItem) : Nat :=
  items.foldl (fun m i => match i with | .instr x => (named x.instr).foldl (fun m r => max m (r + 1)) m | _ => m) 0

/-- What the directives among statements give a kernel; of two of one kind the later counts (DESIGN CHOICE, log entry 61). -/
def KernelDecl.directive (k : KernelDecl) : AsmItem → KernelDecl
  | .width w => { k with width := some w }
  | .vregs n => { k with vregs := some n }
  | .sregs n => { k with sregs := some n }
  | .accrows n => { k with accRows := n }
  | .scratch n => { k with scratch := n }
  | .cluster c => { k with cluster := some c }
  | .attr m => { k with attrs := m.toNat }
  | .label _ | .instr _ | .clause _ _ _ | .wait _ _ | .align _ | .equ _ _ | .trapentry _ | .args _ => k

/-- The label that `.trapentry` names and the size that `.args` gives. -/
def asmTrapEntry (items : List AsmItem) : Option AsmName :=
  items.foldl (fun r i => match i with | .trapentry n => some n | _ => r) none
def asmArgs (items : List AsmItem) : Nat := items.foldl (fun r i => match i with | .args n => n | _ => r) 0

/-- A target of a kernel as a word offset from its first clause header. -/
def asmEntry (labels : List (AsmName × Nat)) (code : Nat) (n : AsmName) : Option Nat := do
  let p ← asmFind labels n
  if code ≤ p then some (p - code) else none

/-- The header of a kernel whose statements begin at a word offset of the text section; `name` is the offset of its name. The first clause
header stands on a multiple of 256 bytes (Table 1.3), and the entry defaults to it (Table 4.4). -/
def asmKernel (name : Nat) (entry : Option AsmName) (items : List AsmItem) (pos : Nat) : Option KernelDecl := do
  let ps ← asmForm items
  let labels := asmTargets ps pos
  let code ← asmFirst ps pos
  let e ← (match entry with | none => some 0 | some n => asmEntry labels code n)
  let te ← (match asmTrapEntry items with | none => some none | some n => (asmEntry labels code n).map some)
  return items.foldl KernelDecl.directive
    ⟨name, 4 * code, e, te, none, none, none, none, 0, 0, 0, asmNamed namedV items, asmNamed namedS items⟩

/-! ### Data (R96) -/

/-- The 64 bytes of a valid descriptor (Tables 1.10 and 1.11), as `.tensor` emits them. -/
def Desc.toImage (d : Desc) : List Byte :=
  let wide (n : Nat) (xs : List Nat) : List Byte := xs.flatMap (bytesLE n)
  bytesLE 8 d.base ++ bytesLE 8 d.scaleBase ++ wide 4 d.dims ++ wide 6 d.strides ++ wide 2 d.boxes ++
    bytesLE 2 (2 ^ 15 + 2 ^ 11 * d.wrap + 2 ^ 9 * (d.rank - 1) + (if d.scratch then 2 ^ 7 else 0) + (if d.plane then 2 ^ 6 else 0) +
      2 ^ 4 * d.block + d.elem) ++ bytesLE 4 0

/-- The keys of `.tensor`. -/
structure AsmTensor where
  base : Option AsmExpr
  scale : Option AsmExpr
  fmt : Option Nat
  block : Option Nat
  /-- whether `layout=plane` is written, and whether any layout is -/
  plane : Option Bool
  scratch : Option Bool
  dims : List AsmExpr
  strides : List AsmExpr
  box : List AsmExpr
  wrap : List Nat
  deriving DecidableEq, Repr

/-- The block code of a `block` key. -/
def asmBlock : Option Nat → Option Nat
  | none => some 0
  | some 32 => some 1
  | some 64 => some 2
  | some 128 => some 3
  | some _ => none

/-- Whether the keys that Table 4.4's list requires are there, and only where they may be. A wrap list that names a dimension at or beyond
the rank is an error (DESIGN CHOICE, log entry 61: R30, R31 and R33 do not name it). -/
def AsmTensor.keysOk (t : AsmTensor) : Bool :=
  t.base.isSome && t.fmt.isSome && t.scratch.isSome && decide (1 ≤ t.dims.length) && decide (t.dims.length ≤ 4) &&
    t.box.length == t.dims.length && t.strides.length == t.dims.length - 1 && t.scale.isSome == (t.plane == some true) &&
    t.wrap.all (· < t.dims.length)

/-- A base field: its number, 0 for one that is fixed at load time, and the relocation at a byte offset. -/
def asmBase (e : Option AsmExpr) (equs : List (AsmName × Word64)) (at' : Nat) : Option (Nat × List AsmReloc) :=
  match e with
  | none => some (0, [])
  | some e =>
    match e.eval equs with
    | some (.abs x) => some (x.toNat, [])
    | some (.reloc 1 n a) => some (0, [⟨at', n, 1, a⟩])
    | _ => none

/-- The image that `.tensor` emits at a byte offset, and its relocations. A violation of R30, R31 or R33 is an error where constants decide
it: a base that is fixed at load time stands as 0 meanwhile. -/
def AsmTensor.image (t : AsmTensor) (equs : List (AsmName × Word64)) (at' : Nat) : Option (List Byte × List AsmReloc) := do
  let b ← asmBase t.base equs at'
  let sc ← asmBase t.scale equs (at' + 8)
  let nums (es : List AsmExpr) : Option (List Nat) := es.mapM (fun e => (e.numOf equs).map BitVec.toNat)
  let dims ← nums t.dims
  let strides ← nums t.strides
  let box ← nums t.box
  let pad (n fill : Nat) (xs : List Nat) : List Nat := xs ++ List.replicate (n - xs.length) fill
  let d : Desc := { base := b.1, scaleBase := sc.1, dims := pad 4 1 dims, strides := pad 3 0 strides, boxes := pad 4 1 box
                    elem := t.fmt.getD 0, block := ← asmBlock t.block, plane := t.plane == some true, scratch := t.scratch == some true
                    rank := dims.length, wrap := maskOf t.wrap }
  if t.keysOk && parseDesc d.toImage == some d then some (d.toImage, b.2 ++ sc.2) else none

/-- A statement of the data section. -/
inductive AsmData where
  | label (name : AsmName)
  | equ (name : AsmName) (e : AsmExpr)
  /-- `.byte`, `.half`, `.word`, `.dword`: 1, 2, 4 or 8 bytes -/
  | int (bytes : Nat) (e : AsmExpr)
  /-- `.float` and `.double`: the decimal literal m * 10^e -/
  | float (neg : Bool) (m : Nat) (e : Int)
  | double (neg : Bool) (m : Nat) (e : Int)
  | align (n : Nat)
  | tensor (name : AsmName) (t : AsmTensor)
  deriving DecidableEq, Repr

/-- A decimal literal with more bits than either format keeps, and a sticky bit below them. -/
def asmDecimal (neg : Bool) (m : Nat) (e : Int) : Val :=
  if 0 ≤ e then .fin neg (m * 10 ^ e.toNat) 0
  else
    let q := 10 ^ (-e).toNat
    let k : Nat := bitLength q + 80
    jam neg (m * 2 ^ k / q) (-(k : Int)) (m * 2 ^ k % q != 0)

/-- The bytes of an integer statement at a byte offset, and its relocation. A value fits a field of n bytes from -2^(8n-1) to 2^(8n)-1, as
a two's-complement or as an unsigned number (DESIGN CHOICE, log entry 61: R96 only says that one that does not fit is an error). -/
def asmInt (n : Nat) (v : AsmValue) (at' : Nat) : Option (List Byte × List AsmReloc) :=
  match v with
  | .abs x =>
    let i := x.toInt
    if n == 8 || (decide (-2 ^ (8 * n - 1) ≤ i) && decide (i < 2 ^ (8 * n))) then some (bytesLE n x.toNat, []) else none
  | .reloc k s a =>
    if (k == 1 && n == 8) || ((k == 2 || k == 3) && n == 4) then some (bytesLE n 0, [⟨at', s, k, a⟩]) else none

/-- The zero bytes up to a multiple of n. -/
def asmPad (pos n : Nat) : List Byte := List.replicate (roundUp pos n - pos) 0

/-- The bytes that a statement adds at a byte offset of the data section, and their relocations. A `.float` or `.double` literal beyond the
format's range rounds to infinity by RNE (DESIGN CHOICE, log entry 61: R88 could also make it a value that does not fit, an error). -/
def AsmData.bytes (d : AsmData) (equs : List (AsmName × Word64)) (pos : Nat) : Option (List Byte × List AsmReloc) :=
  match d with
  | .label _ | .equ _ _ => some ([], [])
  | .int n e => if [1, 2, 4, 8].contains n then (e.eval equs).bind (fun v => asmInt n v pos) else none
  | .float s m e => some (bytesLE 4 (roundTo fp32 (asmDecimal s m e) .rne false false).1, [])
  | .double s m e => some (bytesLE 8 (roundTo fp64 (asmDecimal s m e) .rne false false).1, [])
  | .align n => if asmAlignOk n then some (asmPad pos n, []) else none
  | .tensor _ t => (t.image equs (roundUp pos 64)).map (fun r => (asmPad pos 64 ++ r.1, r.2))

/-! ### Programs and the object that umas writes (R96, R97) -/

/-- A statement of a source text: a kernel with its statements, a statement of `.text` outside kernels, or one of `.data`. -/
inductive AsmTop where
  | kernel (name : AsmName) (entry : Option AsmName) (items : List AsmItem)
  | label (name : AsmName)
  | align (n : Nat)
  | equ (name : AsmName) (e : AsmExpr)
  | data (d : AsmData)
  deriving DecidableEq, Repr

/-- A symbol (Table 4.7), with the section as umas numbers it: 1 text, 2 data. -/
structure AsmSymbol where
  name : AsmName
  sect : Nat
  kind : Nat
  isGlobal : Bool
  value : Nat
  size : Nat
  deriving DecidableEq, Repr

/-- What umas has emitted: the words of text, the bytes of data, the kernels, the symbols and the relocations. -/
structure AsmObject where
  text : List Nat
  data : List Byte
  kernels : List (AsmName × KernelDecl)
  symbols : List AsmSymbol
  textRelocs : List AsmReloc
  dataRelocs : List AsmReloc
  deriving DecidableEq, Repr

/-- The `.equ` statements of a text in source order. -/
def AsmTop.equs : AsmTop → List (AsmName × AsmExpr)
  | .kernel _ _ items => items.filterMap (fun i => match i with | .equ n e => some (n, e) | _ => none)
  | .equ n e => [(n, e)]
  | .data (.equ n e) => [(n, e)]
  | .label _ | .align _ | .data _ => []

/-- The symbol that a data statement defines at a byte offset. The size of a data symbol, as of a label in text, is 0 (DESIGN CHOICE, log
entry 61: Table 4.7 only says that it is in bytes). -/
def AsmData.symbol (d : AsmData) (pos : Nat) : List AsmSymbol :=
  match d with
  | .label n => [⟨n, 2, 1, false, pos, 0⟩]
  | .tensor n _ => [⟨n, 2, 3, false, roundUp pos 64, 64⟩]
  | .equ _ _ | .int _ _ | .float _ _ _ | .double _ _ _ | .align _ => []

/-- A statement taken. Kernels are global symbols and the other definitions local ones (DESIGN CHOICE, log entry 61). -/
def AsmObject.take (equs : List (AsmName × Word64)) (o : AsmObject) (t : AsmTop) : Option AsmObject :=
  match t with
  | .kernel n e items => do
    let pos := roundUp o.text.length 64
    let ps ← asmForm items
    let k ← asmKernel 0 e items pos
    let w ← assemble equs items pos
    let labels := (asmLabels ps pos).map (fun l => AsmSymbol.mk l.1 1 0 false (4 * l.2) 0)
    return { o with
      text := o.text ++ List.replicate (pos - o.text.length) 0 ++ w.1, kernels := o.kernels ++ [(n, k)]
      symbols := o.symbols ++ [⟨n, 1, 2, true, k.code, asmArgs items⟩] ++ labels, textRelocs := o.textRelocs ++ w.2 }
  | .label n => some { o with symbols := o.symbols ++ [⟨n, 1, 0, false, 4 * o.text.length, 0⟩] }
  | .align n =>
    if asmAlignOk n then
      some { o with text := o.text ++ List.replicate ((AsmPiece.align n).after o.text.length - o.text.length) 0 }
    else none
  | .equ _ _ => some o
  | .data d => do
    let b ← d.bytes equs o.data.length
    return { o with data := o.data ++ b.1, symbols := o.symbols ++ d.symbol o.data.length, dataRelocs := o.dataRelocs ++ b.2 }

/-- The symbols that relocations name and nothing defines: undefined global ones. -/
def AsmObject.undefined (o : AsmObject) : List AsmSymbol :=
  ((o.textRelocs ++ o.dataRelocs).map (·.name)).dedup.filterMap (fun n =>
    if o.symbols.any (fun s => s.name == n) then none else some ⟨n, 0, 0, true, 0, 0⟩)

/-- The object of a source text, none when a statement is in error. A name that `.equ` defines names nothing else. -/
def asmProgram (ts : List AsmTop) : Option AsmObject := do
  let equs ← asmEqus (ts.flatMap AsmTop.equs)
  let o ← ts.foldlM (AsmObject.take equs) ⟨[], [], [], [], [], []⟩
  let consts := equs.map (fun e => AsmSymbol.mk e.1 0xFFFF 4 false e.2.toNat 0)
  if equs.any (fun e => o.symbols.any (fun s => s.name == e.1)) then none
  else some { o with symbols := o.symbols ++ consts ++ o.undefined }

/-- The string section: a zero byte, then each symbol's name with a zero byte after it (DESIGN CHOICE, log entry 61), and where a name
stands in it. -/
def asmStrings (names : List AsmName) : List Byte := names.foldl (fun bs n => bs ++ n ++ [0]) [0]
def asmStringAt : List AsmName → AsmName → Nat → Nat
  | [], _, _ => 0
  | n :: ns, x, at' => if n == x then at' else asmStringAt ns x (at' + n.length + 1)

/-- The sections of an object: type, load alignment, link and contents (Table 4.6). Their order is the model's (DESIGN CHOICE, log entry
61): strings stand first, for a symbol in section 0 is undefined. -/
def AsmObject.sections (o : AsmObject) : Option (List (Nat × Nat × Nat × List Byte)) := do
  let names := o.symbols.map (·.name)
  let str (n : AsmName) : Nat := asmStringAt names n 1
  let symbol (s : AsmSymbol) : List Byte := bytesLE 4 (str s.name) ++ bytesLE 2 s.sect ++ bytesLE 1 s.kind ++
    bytesLE 1 (if s.isGlobal then 1 else 0) ++ bytesLE 8 s.value ++ bytesLE 8 s.size
  let reloc (r : AsmReloc) : List Byte := bytesLE 8 r.offset ++ bytesLE 4 (o.symbols.findIdx (fun s => s.name == r.name)) ++
    bytesLE 2 r.kind ++ bytesLE 2 0 ++ bytesLE 8 r.addend.toNat
  let headers ← o.kernels.mapM (fun k => { k.2 with name := str k.1 }.bytes)
  return [(6, 1, 0, asmStrings names), (1, 256, 0, o.text.flatMap (bytesLE 4)), (2, 4096, 0, o.data), (3, 8, 0, headers.flatten),
    (4, 8, 0, o.symbols.flatMap symbol), (5, 8, 1, o.textRelocs.flatMap reloc), (5, 8, 2, o.dataRelocs.flatMap reloc)]

/-- The file: the header, the section table and each section's contents on a multiple of 8 (Tables 4.5, 4.6). Every section has name offset
0, the empty name (DESIGN CHOICE, log entry 61: the spec names no section). -/
def AsmObject.bytes (o : AsmObject) : Option (List Byte) := do
  let ss ← o.sections
  let start := 64 + 32 * ss.length
  let file := ss.foldl (fun (r : Nat × List Byte × List Byte) s =>
    let pad := asmPad r.1 8
    let at' := r.1 + pad.length
    (at' + s.2.2.2.length,
      r.2.1 ++ bytesLE 4 0 ++ bytesLE 4 s.1 ++ bytesLE 8 at' ++ bytesLE 8 s.2.2.2.length ++ bytesLE 4 s.2.1 ++ bytesLE 4 s.2.2.1,
      r.2.2 ++ pad ++ s.2.2.2)) (start, [], [])
  return bytesLE 4 0x32424F55 ++ bytesLE 2 2 ++ bytesLE 2 ss.length ++ bytesLE 8 64 ++ bytesLE 4 o.kernels.length ++
    List.replicate 44 0 ++ file.2.1 ++ file.2.2

/-! ### Loading an object (R97, R98) -/

structure UobSection where
  name : Nat
  kind : Nat
  offset : Nat
  size : Nat
  align : Nat
  link : Nat
  deriving DecidableEq, Repr

structure UobSymbol where
  name : Nat
  sect : Nat
  kind : Nat
  binding : Nat
  value : Nat
  size : Nat
  deriving DecidableEq, Repr

structure UobReloc where
  offset : Nat
  symbol : Nat
  kind : Nat
  addend : Nat
  deriving DecidableEq, Repr

/-- A section entry at a file offset (Table 4.6). -/
def uobSection (bs : List Byte) (at' : Nat) : UobSection :=
  let n (o k : Nat) : Nat := imageNat bs (at' + o) k
  ⟨n 0 4, n 4 4, n 8 8, n 0x10 8, n 0x18 4, n 0x1C 4⟩

/-- A symbol entry at an offset of its section (Table 4.7). -/
def uobSymbol (bs : List Byte) (at' : Nat) : UobSymbol :=
  let n (o k : Nat) : Nat := imageNat bs (at' + o) k
  ⟨n 0 4, n 4 2, n 6 1, n 7 1, n 8 8, n 0x10 8⟩

/-- A relocation entry at an offset of its section (Table 4.8). -/
def uobReloc (bs : List Byte) (at' : Nat) : UobReloc :=
  let n (o k : Nat) : Nat := imageNat bs (at' + o) k
  ⟨n 0 8, n 8 4, n 0xC 2, n 0x10 8⟩

/-- The entries of a section whose entries have a size. -/
def uobEntries {α : Type} (f : List Byte → Nat → α) (size : Nat) (content : List Byte) : List α :=
  (upTo (content.length / size)).map (fun j => f content (size * j))

/-- Whether a section entry is valid: a type of Table 4.6, a power of two, contents in the file; text on 256 bytes (R97), and kernel headers,
whole ones, on 8 (R20). -/
def UobSection.ok (s : UobSection) (file : Nat) : Bool :=
  decide (1 ≤ s.kind) && decide (s.kind ≤ 6) && (upTo 32).any (fun k => s.align == 2 ^ k) && decide (s.offset + s.size ≤ file) &&
    (s.kind != 1 || s.align == 256) && (s.kind != 3 || (decide (8 ≤ s.align) && s.offset % 8 == 0 && s.size % 32 == 0))

/-- The section table of an object, none when a header or section entry is not valid (Tables 4.5, 4.6). -/
def uobSections (bs : List Byte) : Option (List UobSection) :=
  let count := imageNat bs 6 2
  let table := imageNat bs 8 8
  let ss := (upTo count).map (fun i => uobSection bs (table + 32 * i))
  let headers := ((ss.filter (fun s => s.kind == 3)).map (fun s => s.size / 32)).sum
  if imageNat bs 0 4 == 0x32424F55 && imageNat bs 4 2 == 2 && count != 0 && table % 8 == 0 && decide (table + 32 * count ≤ bs.length) &&
      imageNat bs 0x10 4 == headers && imageNat bs 0x14 44 == 0 && ss.all (fun s => s.ok bs.length) then some ss
  else none

/-- The contents of a section. -/
def UobSection.content (s : UobSection) (bs : List Byte) : List Byte := (bs.drop s.offset).take s.size

/-- A name at an offset of the string section, up to its zero byte. -/
def uobName (strings : List Byte) (at' : Nat) : AsmName := (strings.drop at').takeWhile (· != 0)

/-- Bytes written over others at an offset. -/
def patchAt (bs : List Byte) (off : Nat) (new : List Byte) : List Byte := bs.take off ++ new ++ bs.drop (off + new.length)

/-- The class of each word of a text section in order: that of the clause header before it, none for a header and for a word between
clauses, which is no header (R64, R94). `left` words of the clause of class `cls` are still to come. -/
def textClasses : List Nat → (left cls : Nat) → List (Option Nat)
  | [], _, _ => []
  | _ :: ws, left + 1, cls => some cls :: textClasses ws left cls
  | w :: ws, 0, _ => none :: textClasses ws (if bitsOf w 30 2 = 2 then bitsOf w 0 4 else 0) (bitsOf w 4 3)

/-- The instruction that stands at a byte offset of a text section. -/
def instrAt (bs : List Byte) (off : Nat) : Option Instr :=
  let words := (upTo (bs.length / 4)).map (fun i => imageNat bs (4 * i) 4)
  if off % 4 = 0 then (((textClasses words 0 0)[off / 4]?).join).bind (fun k => (decodeWord k (imageNat bs off 4)).toOption) else none

/-- Whether a relocation patches what it may: data words in a data section, the immediate of an FI instruction in a text section (R98). -/
def UobReloc.aims (r : UobReloc) (kind : Nat) (bs : List Byte) : Bool :=
  let n := if r.kind = 1 then 8 else 4
  decide (r.offset + n ≤ bs.length) && (if r.kind ≤ 3 then kind == 2 else kind == 1 && (instrAt bs r.offset).any asmHasImm)

/-- The bytes of a section after one relocation with symbol address plus addend x (Table 4.9); another type refuses the object. -/
def UobReloc.patch (r : UobReloc) (bs : List Byte) (x : Nat) : Option (List Byte) :=
  match r.kind with
  | 1 => some (patchAt bs r.offset (bytesLE 8 x))
  | 2 => some (patchAt bs r.offset (bytesLE 4 x))
  | 3 => some (patchAt bs r.offset (bytesLE 4 (bitsOf x 32 32)))
  | 4 | 5 | 6 | 7 => some (patchAt bs r.offset (bytesLE 4 (setBits (imageNat bs r.offset 4) 4 16 (bitsOf x (16 * (r.kind - 4)) 16))))
  | _ => none

/-- The load address of a symbol, given the sections' load addresses and what the loader resolves; an undefined one that it cannot resolve
refuses the object (R98). So does an undefined symbol of local binding, used or not (DESIGN CHOICE, log entry 61: R98 names undefined global
symbols only). -/
def UobSymbol.address (s : UobSymbol) (strings : List Byte) (bases : List Nat) (extern : AsmName → Option Nat) : Option Nat :=
  if s.sect = 0xFFFF then some s.value
  else if s.sect = 0 then (if s.binding = 1 then extern (uobName strings s.name) else none)
  else (bases[s.sect]?).map (· + s.value)

/-- A section's contents after the relocations that patch it. -/
def uobPatch (addresses : List Nat) (kind : Nat) (content : List Byte) (rs : List UobReloc) : Option (List Byte) :=
  rs.foldlM (fun out r => do
    let x ← addresses[r.symbol]?
    if r.aims kind out then r.patch out ((x + r.addend) % 2 ^ 64) else none) content

/-- The sections' contents as a loader places them at load addresses, none when it refuses the object (R97, R98): the bases meet the
sections' alignments, each kernel's code lands on a multiple of 256, and each relocation section patches a section of the object. -/
def uobLoad (bs : List Byte) (bases : List Nat) (extern : AsmName → Option Nat) : Option (List (List Byte)) := do
  let ss ← uobSections bs
  let content (s : UobSection) : List Byte := s.content bs
  let ofKind (k : Nat) : List UobSection := ss.filter (fun s => s.kind == k)
  let strings (s : UobSection) : List Byte := ((ss[s.link]?).map content).getD []
  let addresses ← ((ofKind 4).flatMap (fun s => (uobEntries uobSymbol 24 (content s)).map (fun x => (strings s, x)))).mapM
    (fun x => x.2.address x.1 bases extern)
  let text := (ss.findIdx? (fun s => s.kind == 1)).bind (fun i => bases[i]?)
  let codes := (ofKind 3).flatMap (fun s => uobEntries (fun c o => imageNat c (o + 4) 4) 32 (content s))
  let placed := foldIdx (fun ok i (s : UobSection) => ok && bases.getD i 0 % s.align == 0) true 0 ss
  if placed && codes.all (fun c => text.any (fun b => (b + c) % 256 == 0)) && (ofKind 5).all (fun r => decide (r.link < ss.length)) then
    (indicesFrom (fun _ => true) 0 ss).mapM (fun i => do
      let s ← ss[i]?
      uobPatch addresses s.kind (content s)
        ((ofKind 5).flatMap (fun r => if r.link == i then uobEntries uobReloc 24 (content r) else [])))
  else none

/-- The code base that the launch record of a kernel takes: the text section's load address plus the kernel's code field (R97). -/
def uobCodeBase (textBase : Nat) (header : List Byte) : Nat := textBase + imageNat header 4 4

end Sys2Proof.Machine
end

