-- ==== Sys2Proof/Tests/Slice0.lean ====
section
/-! SUPPORT. The model's own tests: words of the spec's encoding tables decoded, ill-formed terms refused, single steps with results taken
from the spec, and, for each statement that has hypotheses, states and operands that meet them. -/

namespace Sys2Proof.Tests

open Sys2Proof Sys2Proof.Machine

set_option Elab.async false

/-! ## Words of the spec decode to the instructions they stand for

Where the spec's tables give an example with its word (Tables 3.16, 6.1, 8.2, 11.1, 12.1, 13.2, 16.3, 18.5, 20.3 and the listings of the
program chapters), that word stands here; the others are written from Tables 3.2 to 3.11. -/

/-- A word of a class decodes to an instruction. -/
abbrev reads (c w : Nat) (i : Instr) : Prop := decodeWord c w = .ok i

theorem test_decode_float : reads 0 0x00104180 (.fadd 1 2 3 0 0) ∧ reads 0 0x0440A340 (.fsub 4 5 6 4 0) ∧
    reads 0 0x087F4400 (.fmul 7 122 8 0 0) ∧ reads 0 0x0C812525 (.ffma 8 9 10 2 5) ∧ reads 0 0x10104180 (.fmin 1 2 3 0 0) ∧
    reads 0 0x141041C0 (.fmax 1 2 3 4 0) ∧ reads 0 0x1850C080 (.ftr 5 6 1 0 0) ∧ reads 0 0x1C302120 (.fcmp 3 1 2 2 0) ∧
    reads 0 0x20208300 (.dadd 2 4 6 0 0) ∧ reads 0 0x24814610 (.dmul 8 10 12 1 0) ∧ reads 0 0x2840C440 (.dfma 4 6 8 4 0) ∧
    reads 0 0x2C208310 (.dmnx 2 4 6 1 0) ∧ reads 0 0x30208100 (.dtr 2 4 2 0 0) ∧ reads 0 0x34208350 (.dcmp 2 4 6 5 0) ∧
    reads 0 0x38104180 (.hadd2 1 2 3 0 0) ∧ reads 0 0x3C104180 (.hmul2 1 2 3 0 0) ∧ reads 0 0x40308290 (.hfma2 3 4 5 1 0) ∧
    reads 0 0x44104180 (.badd2 1 2 3 0 0) ∧ reads 0 0x481041A0 (.bmul2 1 2 3 2 0) ∧ reads 0 0x4C308280 (.bfma2 3 4 5 0 0) ∧
    reads 0 0x50104180 (.hmnx2 1 2 3 0 0) ∧ reads 0 0x54402100 (.hcmp2 4 1 2 0 0) ∧ reads 0 0x58602160 (.bcmp2 6 1 2 6 0) := by
  decide +kernel

theorem test_decode_conversions_and_blocks : reads 0 0x5C206820 (.cvtf 2 3 2 0 0 0 1 0 0) ∧ reads 0 0x6040B980 (.cvtn 4 5 6 3 0 0 0) ∧
    reads 0 0x6460FA80 (.cvti 6 7 1 1 1 0 1 0) ∧ reads 0 0x68308500 (.cvtd 3 4 1 1 0 0 0 0) ∧ reads 0 0x6D414000 (.bamax 20 10 0 0 0 0) ∧
    reads 0 0x71429000 (.bscale 20 20 4 0 0 0) ∧ reads 0 0x74115800 (.mxpk 1 10 6 0 0 0 0 0) ∧ reads 0 0x79E03040 (.mxup 30 1 4 0 2 0 0) ∧
    reads 0 0x7C128C00 (.rail 1 20 3 0 0 0) := by
  decide +kernel

theorem test_decode_integer : reads 0 0x802EC000 (.iadd 2 118 0 0 0) ∧ reads 0 0x84602130 (.imul 6 1 2 3 0) ∧
    reads 0 0x881041A0 (.imnx 1 2 3 2 0) ∧ reads 0 0x8C1041A0 (.ilog 1 2 3 2 0) ∧ reads 0 0x901041A0 (.ish 1 2 3 2 0) ∧
    reads 0 0x94100020 (.ishi 1 0 0 2 0) ∧ reads 0 0x98308000 (.ibit 3 4 0 0) ∧ reads 0 0x9C206210 (.bfe 2 3 4 1 0) ∧
    reads 0 0xA0206200 (.bfi 2 3 4 0 0) ∧ reads 0 0xA4102020 (.icmp 1 1 0 2 0) ∧ reads 0 0xA81041D0 (.icmpn 1 2 3 5 0) ∧
    reads 0 0xAC308292 (.sel 3 4 5 9) ∧ reads 0 0xB01F8000 (.mov 1 124 0) ∧ reads 0 0xB4100000 (.movi 1 0 0) ∧
    reads 0 0xB8112340 (.movh 1 0x1234 0) ∧ reads 0 0xBC156780 (.movl 1 0x5678 0) := by
  decide +kernel

theorem test_decode_scalar_and_lane : reads 0 0xC00E2000 (.sadd 0 113 0 0 0) ∧ reads 0 0xC41841A0 (.smul 1 66 3 2 0) ∧
    reads 0 0xC8184190 (.slog 1 66 3 1 0) ∧ reads 0 0xCC184180 (.ssh 1 66 3 0 0) ∧ reads 0 0xD05FFFF0 (.smovi 5 0xFFFF 0) ∧
    reads 0 0xD4500010 (.smovh 5 1 0) ∧ reads 0 0xD82821C0 (.scmp 2 65 3 4 0) ∧ reads 0 0xDC184000 (.smov 1 66 0) ∧
    reads 0 0xE03E2390 (.shfl 3 113 7 1 0) ∧ reads 0 0xE450C130 (.qxch 5 6 2 3 0) ∧ reads 0 0xE8208000 (.vote 2 4 0 0) ∧
    reads 0 0xEC404080 (.redx 4 2 8 0) ∧ reads 0 0xF030E0A0 (.lane 3 7 5 0 0) ∧ reads 0 0xF4302100 (.plog 3 1 2 0 0) ∧
    reads 0 0xF8908300 (.rand 9 4 6 0) ∧ reads 0 0xFC201020 (.sread 2 1 2 0) := by
  decide +kernel

theorem test_decode_control : reads 1 0x00000003 (.nop 3) ∧ reads 1 0x07FFFFA2 (.bra 0x3FFFFA 2) ∧ reads 1 0x08000050 (.bru 5 0) ∧
    reads 1 0x0C00E000 (.brx 7 0) ∧ reads 1 0x102FFF00 (.call 2 0xFFF0 0) ∧ reads 1 0x14004000 (.ret 2 0) ∧ reads 1 0x18000000 (.exit 0) ∧
    reads 1 0x1C000000 (.join 0 0) ∧ reads 1 0x20000030 (.kset 3 0) ∧ reads 1 0x26200050 (.kop 2 2 5 0) ∧ reads 1 0x28000010 (.ksync 1 0) ∧
    reads 1 0x2C0000D0 (.waitc 3 1 0) ∧ reads 1 0x30000000 (.yield 0) ∧ reads 1 0x34000020 (.bar 2 0) ∧ reads 1 0x38000050 (.bara 5 0) ∧
    reads 1 0x3C000050 (.barw 5 0) ∧ reads 1 0x40086010 (.bari 67 1 0) ∧ reads 1 0x44088090 (.launch 68 9 0) := by
  decide +kernel

theorem test_decode_loads_and_stores : reads 2 0x0010BF00 (.ldB8 1 2 0x3F 0 0 0) ∧ reads 2 0x04108000 (.ldS8 1 2 0 0 0 0) ∧
    reads 2 0x08108000 (.ldB16 1 2 0 0 0 0) ∧ reads 2 0x0C108000 (.ldS16 1 2 0 0 0 0) ∧ reads 2 0x10408200 (.ldB32 4 2 2 0 0 0) ∧
    reads 2 0x14208000 (.ldB64 2 2 0 0 0 0) ∧ reads 2 0x18408000 (.ldB128 4 2 0 0 0 0) ∧ reads 2 0x1C808090 (.ldMx 8 2 0 2 1 0) ∧
    reads 2 0x20108000 (.stB8 1 2 0 0 0 0) ∧ reads 2 0x24108000 (.stB16 1 2 0 0 0 0) ∧ reads 2 0x28E08003 (.stB32 14 2 0 0 0 3) ∧
    reads 2 0x2CA1BED0 (.stB64 10 6 0x3E 3 1 0) ∧ reads 2 0x30408000 (.stB128 4 2 0 0 0 0) ∧ reads 2 0x34C10000 (.stMx 12 4 0 0 0 0) ∧
    reads 2 0x3A17C000 (.ldsB32 33 31 0 0 0) ∧ reads 2 0x3C408000 (.ldsB64 4 2 0 0 0) ∧ reads 2 0x40818220 (.ldsB128 8 6 2 2 0) ∧
    reads 2 0x44204110 (.stsB32 2 1 1 1 0) ∧ reads 2 0x48408000 (.stsB64 4 2 0 0 0) ∧ reads 2 0x4C408000 (.stsB128 4 2 0 0 0) ∧
    reads 2 0x50718010 (.fe 7 6 1 0) ∧ reads 2 0xB4008290 (.pref 2 2 2 1 0) ∧ reads 2 0xB8610100 (.sldB32 6 4 1 0 0 0) ∧
    reads 2 0xBC610100 (.sldB64 6 4 1 0 0 0) ∧ reads 2 0xC0810000 (.sldB128 8 4 0 0 0 0) := by
  decide +kernel

theorem test_decode_atomics_and_waits : reads 2 0x54508090 (.atomAdd 5 2 0 2 1 0) ∧ reads 2 0x58408000 (.atomAddB64 4 2 0 0 0 0) ∧
    reads 2 0x5C508000 (.atomAddf 5 2 0 0 0 0) ∧ reads 2 0x60508000 (.atomMinS32 5 2 0 0 0 0) ∧ reads 2 0x64508000 (.atomMaxS32 5 2 0 0 0 0) ∧
    reads 2 0x68508000 (.atomMinN32 5 2 0 0 0 0) ∧ reads 2 0x6C508000 (.atomMaxN32 5 2 0 0 0 0) ∧ reads 2 0x70508000 (.atomAnd 5 2 0 0 0 0) ∧
    reads 2 0x74508000 (.atomOr 5 2 0 0 0 0) ∧ reads 2 0x78508000 (.atomXor 5 2 0 0 0 0) ∧ reads 2 0x7C508000 (.atomExch 5 2 0 0 0 0) ∧
    reads 2 0x806081E0 (.atomCas 6 2 1 3 2 0) ∧ reads 2 0x84408000 (.atomCasB64 4 2 0 0 0 0) ∧ reads 2 0x88324310 (.satom 3 9 3 1 0) ∧
    reads 2 0x8C408040 (.ratom 4 2 0 0 0) ∧ reads 2 0x90A00300 (.qpush 10 3 0) ∧ reads 2 0x94C00300 (.qpop 12 3 0) ∧
    reads 2 0x99000000 (.qcfg 16 0 0) ∧ reads 2 0x9CC10090 (.waituEqNe 12 4 0 2 0 1 0) ∧ reads 2 0xA0408A90 (.waituSgeSlt 4 2 10 2 0 1 0) ∧
    reads 2 0xA44080E0 (.waituNgeNlt 4 2 0 3 1 0 0) ∧ reads 2 0xA8408010 (.waituAnyAll 4 2 0 0 0 1 0) ∧
    reads 2 0xAC408090 (.waituChgUpd 4 2 0 2 0 1 0) ∧ reads 2 0xB00000D0 (.fence 3 1 0) := by
  decide +kernel

theorem test_decode_copy : reads 3 0x00404000 (.tdset 1 4 0) ∧ reads 3 0x04D14000 (.cpy 3 4 2 1 0 0 0) ∧
    reads 3 0x0848E000 (.cpyq 1 2 1 1 1 0 0 0 0 0 0 0 0) ∧ reads 3 0x0D580200 (.cpyd 5 6 0 0 0 0 1 0 0 0 0 0) ∧
    reads 3 0x10858500 (.cpyt 2 1 3 0 0 0 2 1 0 0 0 0 0) ∧ reads 3 0x144407D0 (.cpyr 1 1 0 0 0 0 0x7D 0) ∧
    reads 3 0x19C28000 (.cpyf 7 5 0 0 0 0 0 0 0 0 0) ∧ reads 3 0x1CE70010 (.cpyg 3 9 6 0 0 1 0) ∧ reads 3 0x20010010 (.cpys 2 1 0) := by
  decide +kernel

theorem test_decode_matrix_and_collective : reads 4 0x00000430 (.qinit 2 3 0) ∧ reads 4 0x04488300 (.mma 1 2 1 0 1 1 0 0 0 0 0) ∧
    reads 4 0x08D10100 (.mmaa 3 4 2 0 0 1 0 0 0 0 0) ∧ reads 4 0x0C018000 (.aclr 3 0 0) ∧ reads 4 0x10484500 (.ald 4 66 10 0 0) ∧
    reads 4 0x14686610 (.ast 6 67 12 1 0) ∧ reads 4 0x19424000 (.acpy 5 0 4 1 0 0 0 0 0 0 0 0) ∧ reads 4 0x1C0EE100 (.setaw 119 2 0) ∧
    reads 5 0x00004200 (.cgrp 4 1 0) ∧ reads 5 0x04C8C200 (.cput 3 2 1 1 1 0 0) ∧ reads 5 0x09150000 (.cget 4 5 2 0 0 0 0) ∧
    reads 5 0x0C010000 (.csig 2 0 0 0) ∧ reads 5 0x1150C490 (.cgath 5 4 1 1 2 0 2 1 0) ∧ reads 5 0x14480060 (.crsc 1 2 0 0 0 0 1 1 0 0) ∧
    reads 5 0x18480040 (.card 1 2 0 0 0 0 1 0 0 0) ∧ reads 5 0x1D9DC600 (.cbcst 6 7 3 1 3 0 0 0 0) := by
  decide +kernel

theorem test_decode_system : reads 6 0x00000012 (.trap 1 2) ∧ reads 6 0x04006000 (.tres 3 0) ∧ reads 6 0x08000000 (.tkill 0) ∧
    reads 6 0x0C000010 (.tesc 1 0) ∧ reads 6 0x10201050 (.csrr 2 0x105 0) ∧ reads 6 0x14005050 (.csrw 2 0x105 0) ∧
    reads 6 0x18086010 (.setmode 67 1 0) ∧ reads 6 0x1C401000 (.gettime 4 1 0) := by
  decide +kernel

/-- A second word for instructions whose example leaves an option at its default: `cgath.mxfp8.sig`, `?p3 atom.add.ar.ret.dev`,
`sts.b32.wesf`, `vote.any`, `plog.andn`, `mma.wf` (chapters 17, 19, 21 and 22). -/
theorem test_decode_listings : reads 5 0x1048C080 (.cgath 1 2 1 1 0 0 2 0 0) ∧ reads 2 0x548080A3 (.atomAdd 8 2 0 2 2 3) ∧
    reads 2 0x44108020 (.stsB32 1 2 0 2 0) ∧ reads 0 0xE890E020 (.vote 9 7 2 0) ∧ reads 0 0xF4204330 (.plog 2 2 6 3 0) ∧
    reads 4 0x0448C000 (.mma 1 2 1 1 0 0 0 0 0 0 0) ∧ reads 0 0xAC6E0306 (.sel 6 112 6 3) ∧ reads 2 0xA70B80E5 (.waituNgeNlt 48 46 0 3 1 0 5) := by
  decide +kernel

/-! ## Ill-formed terms are refused, one for each check of well-formedness (Table 3.15) -/

theorem test_refused_operand_kind_1 : ([
    .fadd 0 112 0 0 0, .fsub 0 112 0 0 0, .fmul 0 112 0 0 0, .ffma 0 112 0 0 0, .fmin 0 112 0 0 0, .fmax 0 112 0 0 0,
    .ftr 0 112 0 0 0, .fcmp 0 112 0 0 0, .dadd 0 1 0 0 0, .dmul 0 1 0 0 0, .dfma 0 1 0 0 0, .dmnx 0 1 0 0 0, .dtr 0 1 0 0 0,
    .dcmp 0 1 0 0 0, .hadd2 0 112 0 0 0, .hmul2 0 112 0 0 0, .hfma2 0 112 0 0 0, .badd2 0 112 0 0 0, .bmul2 0 112 0 0 0,
    .bfma2 0 112 0 0 0, .hmnx2 0 112 0 0 0, .hcmp2 0 112 0 0 0, .bcmp2 0 112 0 0 0, .cvtf 0 112 0 0 0 0 0 0 0,
    .cvtf 0 63 0 2 0 0 0 0 0, .cvtn 0 64 0 0 0 0 0, .cvti 0 112 1 0 0 0 0 0, .cvtd 0 3 1 0 0 0 0 0, .bamax 0 64 0 0 0 0,
    .bscale 0 112 0 0 0 0, .mxpk 0 62 6 0 2 0 0 0, .mxup 0 64 0 0 0 0 0, .rail 0 1 4 0 0 0, .iadd 0 120 0 0 0, .imul 0 120 0 0 0,
    .imnx 0 120 0 0 0, .ilog 0 120 0 0 0, .ish 0 120 0 0 0, .ishi 0 120 0 0 0, .ibit 0 120 0 0] : List Instr).all (fun i => i.reject == some .operandKind && !i.wf) = true := by
  decide +kernel

theorem test_refused_operand_kind_2 : ([
    .bfe 0 120 0 0 0, .bfi 0 120 0 0 0, .icmp 0 120 0 0 0, .icmpn 0 120 0 0 0, .sel 0 127 0 0, .mov 0 127 0, .sadd 0 63 0 0 0,
    .smul 0 63 0 0 0, .slog 0 63 0 0 0, .ssh 0 63 0 0 0, .scmp 0 63 0 0 0, .smov 0 63 0, .shfl 0 120 0 0 0, .qxch 0 64 0 0 0,
    .vote 0 64 0 0, .redx 0 64 0 0, .lane 0 124 0 1 0, .plog 0 64 0 0 0, .rand 0 112 0 0, .brx 64 0, .ret 64 0, .bari 120 0 0,
    .launch 112 0 0, .ald 0 120 0 0 0, .ast 0 120 0 0 0, .setaw 120 0 0, .tres 64 0, .csrw 120 0 0, .setmode 120 0 0] : List Instr).all (fun i => i.reject == some .operandKind && !i.wf) = true := by
  decide +kernel

theorem test_refused_illegal_value_1 : ([
    .ftr 0 0 14 0 0, .dtr 0 0 6 0 0, .cvtf 0 0 6 3 0 0 0 0 0, .cvtf 0 0 2 0 0 0 0 1 0, .cvtn 0 0 2 4 0 0 0, .cvti 0 0 0 0 2 0 0 0,
    .cvti 0 0 0 0 0 0 1 0, .cvtd 0 0 0 2 0 0 0 0, .bamax 0 0 0 3 0 0, .bscale 0 0 6 0 0 0, .bscale 0 0 0 3 0 0,
    .mxpk 0 0 0 0 3 0 0 0, .mxup 0 0 6 0 0 0 0, .mxup 0 0 0 3 0 0 0, .mxup 0 0 5 0 4 0 0, .rail 0 0 5 0 0 0, .rail 0 0 3 1 0 0,
    .imul 0 0 0 4 0, .imnx 0 0 0 6 0, .ilog 0 0 0 7 0, .ish 0 0 0 5 0, .ishi 0 0 5 0 0, .ibit 0 0 5 0, .bfe 0 0 0 2 0,
    .bfi 0 0 0 1 0, .icmp 0 0 0 6 0, .icmpn 0 0 0 6 0, .smul 0 64 0 4 0, .slog 0 64 0 7 0, .ssh 0 64 0 5 0, .scmp 0 64 0 7 0,
    .shfl 0 0 0 4 0, .qxch 0 0 0 4 0, .qxch 0 0 1 2 0, .redx 0 0 12 0, .plog 0 0 0 7 0, .plog 0 0 32 6 0, .waitc 15 0 0,
    .ldsB32 0 0 0 3 0, .ldsB64 0 0 0 3 0] : List Instr).all (fun i => i.reject == some .illegalValue && !i.wf) = true := by
  decide +kernel

theorem test_refused_illegal_value_2 : ([
    .ldsB128 0 0 0 3 0, .stsB32 0 0 0 3 0, .stsB64 0 0 0 3 0, .stsB128 0 0 0 3 0, .fe 0 0 2 0, .satom 0 0 11 0 0, .ratom 0 0 11 0 0,
    .waituEqNe 0 0 41 0 0 0 0, .waituSgeSlt 0 0 41 0 0 0 0, .waituNgeNlt 0 0 41 0 0 0 0, .waituAnyAll 0 0 41 0 0 0 0,
    .waituChgUpd 0 0 41 0 0 0 0, .sldB32 0 0 0 0 2 0, .sldB64 0 0 0 0 2 0, .sldB128 0 0 0 0 2 0, .cpyd 0 0 0 0 0 0 3 0 0 0 0 0,
    .ald 0 0 0 3 0, .ast 0 0 0 3 0, .acpy 0 0 0 0 0 2 0 0 0 0 1 0, .setmode 0 2 0] : List Instr).all (fun i => i.reject == some .illegalValue && !i.wf) = true := by
  decide +kernel

theorem test_refused_odd_register_1 : ([
    .dadd 1 0 0 0 0, .dadd 0 0 1 0 0, .dmul 1 0 0 0 0, .dmul 0 0 1 0 0, .dfma 1 0 0 0 0, .dfma 0 0 1 0 0, .dmnx 1 0 0 0 0,
    .dmnx 0 0 1 0 0, .dtr 1 0 0 0 0, .dcmp 0 0 1 0 0, .cvtd 1 0 0 0 0 0 0 0, .vote 48 0 0 0, .redx 0 1 11 0, .rand 0 65 0 0,
    .launch 65 0 0, .ldB8 0 1 0 0 0 0, .ldS8 0 1 0 0 0 0, .ldB16 0 1 0 0 0 0, .ldS16 0 1 0 0 0 0, .ldB32 0 1 0 0 0 0,
    .ldB64 0 1 0 0 0 0, .ldB64 1 0 0 0 0 0, .ldB128 0 1 0 0 0 0, .ldB128 2 0 0 0 0 0, .ldMx 0 1 0 0 0 0, .stB8 0 1 0 0 0 0,
    .stB16 0 1 0 0 0 0, .stB32 0 1 0 0 0 0, .stB64 0 1 0 0 0 0, .stB64 1 0 0 0 0 0, .stB128 0 1 0 0 0 0, .stB128 2 0 0 0 0 0,
    .stMx 0 1 0 0 0 0, .ldsB64 1 0 0 0 0, .ldsB128 2 0 0 0 0, .stsB64 1 0 0 0 0, .stsB128 2 0 0 0 0, .atomAdd 0 1 0 0 0 0,
    .atomAddB64 0 1 0 0 0 0, .atomAddB64 1 0 0 0 0 0] : List Instr).all (fun i => i.reject == some .oddRegister && !i.wf) = true := by
  decide +kernel

theorem test_refused_odd_register_2 : ([
    .atomAddf 0 1 0 0 0 0, .atomMinS32 0 1 0 0 0 0, .atomMaxS32 0 1 0 0 0 0, .atomMinN32 0 1 0 0 0 0, .atomMaxN32 0 1 0 0 0 0,
    .atomAnd 0 1 0 0 0 0, .atomOr 0 1 0 0 0 0, .atomXor 0 1 0 0 0 0, .atomExch 0 1 0 0 0 0, .atomCas 0 1 0 0 0 0,
    .atomCas 1 0 0 0 0 0, .atomCasB64 0 1 0 0 0 0, .atomCasB64 2 0 0 0 0 0, .satom 1 0 10 0 0, .ratom 0 1 0 0 0, .ratom 1 0 10 0 0,
    .waituEqNe 0 1 0 0 0 0 0, .waituEqNe 1 0 0 0 1 0 0, .waituSgeSlt 0 1 0 0 0 0 0, .waituSgeSlt 1 0 0 0 1 0 0,
    .waituNgeNlt 0 1 0 0 0 0 0, .waituNgeNlt 1 0 0 0 1 0 0, .waituAnyAll 0 1 0 0 0 0 0, .waituAnyAll 1 0 0 0 1 0 0,
    .waituChgUpd 0 1 0 0 0 0 0, .waituChgUpd 1 0 0 0 1 0 0, .pref 1 0 0 0 0, .sldB32 0 48 0 0 0 0, .sldB64 0 48 0 0 0 0,
    .sldB64 1 0 0 0 0 0, .sldB128 0 48 0 0 0 0, .sldB128 2 0 0 0 0 0, .tdset 0 48 0, .ald 1 0 0 1 0, .ald 2 0 0 2 0, .ast 1 0 0 1 0,
    .ast 2 0 0 2 0, .cgrp 48 0 0, .gettime 1 0 0] : List Instr).all (fun i => i.reject == some .oddRegister && !i.wf) = true := by
  decide +kernel

theorem test_refused_group_past_end : ([
    .hcmp2 63 0 0 0 0, .bcmp2 63 0 0 0 0, .sadd 48 64 0 0 0, .sadd 0 64 48 0 0, .smul 48 64 0 0 0, .smul 0 64 48 0 0,
    .slog 48 64 0 0 0, .slog 0 64 48 0 0, .ssh 48 64 0 0 0, .ssh 0 64 48 0 0, .smovi 48 0 0, .smovh 48 0 0, .scmp 0 64 48 0 0,
    .smov 48 64 0, .vote 48 0 1 0, .redx 48 0 0 0, .lane 48 0 0 0 0, .sread 48 1 2 0, .sldB32 48 0 0 0 0 0, .sldB64 48 0 0 0 0 0,
    .sldB128 48 0 0 0 0 0, .gettime 48 1 0] : List Instr).all (fun i => i.reject == some .groupPastEnd && !i.wf) = true := by
  decide +kernel

theorem test_refused_reserved_bits : ([
    .imnx 0 0 1 4 0, .ilog 0 0 1 6 0, .slog 0 64 1 6 0, .plog 0 0 1 4 0] : List Instr).all (fun i => i.reject == some .reservedBits && !i.wf) = true := by
  decide +kernel

theorem test_refused_bad_number : ([
    .sread 0 0 31 0, .sread 0 1 32 0, .csrr 0 323 0, .csrw 0 323 0] : List Instr).all (fun i => i.reject == some .badNumber && !i.wf) = true := by
  decide +kernel

/-- Words that no instruction has: class 7, an unassigned major, and a bit that must be zero (`mov` with m = 1, `sel` with bit 0 set,
`exit` with d = 1, `fe` with sc = 1). -/
theorem test_refused_words : decodeWord 7 0 = .error .illegalClass ∧ decodeWord 1 0x48000000 = .error .unassignedMajor ∧
    decodeWord 0 0xB01F8010 = .error .reservedBits ∧ decodeWord 0 0xAC308293 = .error .reservedBits ∧
    decodeWord 1 0x18100000 = .error .reservedBits ∧ decodeWord 2 0x50718050 = .error .reservedBits := by
  decide +kernel

/-! ## States that meet the hypotheses of the statements -/

/-- A wave of eight lanes as at launch executes the one word of a clause, alone, with the issue in hand. -/
def one : State := (State.reset.withWord 0).takeIssue 2

/-- That wave. -/
abbrev wr : WaveRef := .blk 1 0

/-- Its part in the clause issue. -/
def ctx : Ctx := ⟨wr, upTo 8, 0, 0, 1, false⟩

/-- A wave as it stands in a state. -/
def waveAt (s : State) (r : WaveRef) : Wave := (s.wave? r).getD (Wave.atLaunch 8 64 48 8 0 false)

/-- The wave of `ctx` as it stands in a state. -/
def theWave (s : State) : Wave := waveAt s wr

/-- Whether the context of a member executes alone. -/
def aloneB (s : State) (c : Ctx) : Bool :=
  match s.curIssue with
  | none => false
  | some i =>
    match i.members with
    | [m] => i.ctx m == c && !c.x.isEmpty && (s.wave? c.r).isSome
    | _ => false

theorem alone_of {s : State} {c : Ctx} (h : aloneB s c = true) : Alone s c (waveAt s c.r) := by
  unfold aloneB at h
  cases hi : s.curIssue with
  | none => simp [hi] at h
  | some i =>
    simp only [hi] at h
    split at h
    · next m hm =>
      simp only [Bool.and_eq_true, beq_iff_eq, Bool.not_eq_true', List.isEmpty_eq_false_iff] at h
      refine ⟨⟨i, m, hi, hm, h.1.1⟩, h.1.2, ?_⟩
      cases hw : s.wave? c.r with
      | none => simp [hw] at h
      | some w => simp [waveAt, hw]
    · simp at h

theorem legal_of {i : Instr} {vr sr : List Nat} {w : Wave} (h : (i.wf && w.declares vr sr) = true) : LegalFor i vr sr w := by
  simp only [Wave.declares, Bool.and_eq_true, List.all_eq_true, decide_eq_true_eq] at h
  exact ⟨h.1, h.2.1, h.2.2⟩

/-- Whether registers of lanes are full. -/
def fullB (w : Wave) (ls rs : List Nat) : Bool :=
  ls.all (fun l => match w.lanes[l]? with | some x => rs.all x.isFull | none => true)

theorem full_of {w : Wave} {ls rs : List Nat} (h : fullB w ls rs = true) : w.allFull ls rs := by
  intro l hl x hx r hr
  have := List.all_eq_true.1 h l hl
  simp only [hx, List.all_eq_true] at this
  exact this r hr

/-- Whether what lanes depend on is full. -/
def needsB (w : Wave) (ts : List Nat) (needs : Nat → List (Nat × Nat)) : Bool :=
  ts.all (fun l => (needs l).all (fun n => match w.lanes[n.1]? with | some x => x.isFull n.2 | none => true))

theorem needs_of {w : Wave} {ts : List Nat} {needs : Nat → List (Nat × Nat)} (h : needsB w ts needs = true) : w.needsMet ts needs := by
  intro l hl n hn x hx
  have := List.all_eq_true.1 (List.all_eq_true.1 h l hl) n hn
  simpa [hx] using this

/-- Instructions with their guards, vector registers and scalar registers. -/
abbrev Cases := List (Instr × BitVec 4 × List Nat × List Nat)

/-- A context executes alone in a state, and there each instruction of a list is legal, its registers are full in the lanes of T, and T is
not empty. -/
def MetBy (s : State) (c : Ctx) (l : Cases) : Prop :=
  Alone s c (waveAt s c.r) ∧ ∀ p ∈ l, LegalFor p.1 p.2.2.1 p.2.2.2 (waveAt s c.r) ∧
    (waveAt s c.r).allFull (c.t (waveAt s c.r) p.2.1) p.2.2.1 ∧ c.t (waveAt s c.r) p.2.1 ≠ []

/-- The same, computed. -/
def metB (s : State) (c : Ctx) (l : Cases) : Bool :=
  let w := waveAt s c.r
  aloneB s c && l.all (fun p => (p.1.wf && w.declares p.2.2.1 p.2.2.2) && fullB w (c.t w p.2.1) p.2.2.1 && !(c.t w p.2.1).isEmpty)

theorem met_of {s : State} {c : Ctx} {l : Cases} (h : metB s c l = true) : MetBy s c l := by
  simp only [metB, Bool.and_eq_true, List.all_eq_true, Bool.not_eq_true', List.isEmpty_eq_false_iff] at h
  refine ⟨alone_of h.1, fun p hp => ?_⟩
  obtain ⟨⟨⟨h1, h2⟩, h3⟩, h4⟩ := h.2 p hp
  exact ⟨legal_of (by simp [h1, h2]), full_of h3, h4⟩

theorem next_of {o : Host.Outcome State Fault Refusal} (h : (match o with | .next _ => true | _ => false) = true) : ∃ t, o = .next t := by
  cases o with
  | next t => exact ⟨t, rfl⟩
  | fault f => cases f
  | refused f => simp at h

/-! ### Encoding and stepping -/

theorem wit_DecodeOfEncode : (Instr.iadd 2 118 0 0 0).wf = true ∧ classOf (.iadd 2 118 0 0 0) = some 0 := by decide

theorem wit_EncodeOfDecode : 0x802EC000 < 2 ^ 32 ∧ decodeWord 0 0x802EC000 = .ok (.iadd 2 118 0 0 0) := by decide +kernel

/-- Each clause of the refused encodings, at the least and the greatest major it names. -/
theorem wit_ReservedEncodingsRefused :
    (∀ p ∈ [(1, 0x12), (1, 63), (2, 0x31), (2, 63), (3, 9), (3, 63), (4, 8), (5, 8), (6, 8), (6, 63)],
      let w := p.2 * 2 ^ 26
      w < 2 ^ 32 ∧ ((p.1 = 1 ∧ 0x12 ≤ w / 2 ^ 26) ∨ (p.1 = 2 ∧ 0x31 ≤ w / 2 ^ 26) ∨ (p.1 = 3 ∧ 9 ≤ w / 2 ^ 26) ∨
        ((p.1 = 4 ∨ p.1 = 5 ∨ p.1 = 6) ∧ 8 ≤ w / 2 ^ 26))) ∧
    (∀ m ∈ [0, 44, 48, 51, 54, 63], let w := m * 2 ^ 26 + 127 * 2 ^ 13
      w / 2 ^ 13 % 2 ^ 7 = 127 ∧ (w / 2 ^ 26 % 64 < 45 ∨ (48 ≤ w / 2 ^ 26 % 64 ∧ w / 2 ^ 26 % 64 < 52) ∨ (54 ≤ w / 2 ^ 26 % 64))) ∧
    ∀ m ∈ [1, 3, 4, 5, 6, 7, 16, 17], let w := m * 2 ^ 26 + 127 * 2 ^ 13
      w / 2 ^ 13 % 2 ^ 7 = 127 ∧ (w / 2 ^ 26 % 64 ∈ [3, 5, 16, 17] ∨ w / 2 ^ 26 % 64 ∈ [4, 5, 7] ∨ w / 2 ^ 26 % 64 ∈ [1, 5, 6]) := by
  decide

/-- The machine after reset with the word of `fadd v1, v2, v3` placed where it fetches. -/
def placed : State := State.reset.withFetchWord 32 0x00104180

/-- The issue that it takes in hand. -/
def placedIssue : Issue := ⟨2, 0, 0, [(wr, upTo 8)], [(wr, upTo 8)], false, 0, 1, 0, 0, false, [0x00104180], 1⟩

theorem wit_StepRunsDecodedInstruction :
    placed.turns = [] ∧ placed.candidates placed.focus.1 placed.focus.2 = [wr] ∧ placed.issueOf wr = some placedIssue ∧
    ((placed.partHeld placedIssue).takeIssue 2).curIssue = some placedIssue ∧
    decodeWord placedIssue.cls (placedIssue.words.getD (placedIssue.pos - 1) 0) = .ok (.fadd 1 2 3 0 0) ∧
    ∃ t, exec (.fadd 1 2 3 0 0) ((placed.partHeld placedIssue).takeIssue 2) = .next t := by
  refine ⟨by decide +kernel, by decide +kernel, by decide +kernel, by decide +kernel, by decide +kernel, next_of (by decide +kernel)⟩

theorem wit_StepTakesNextTurn :
    ({ State.reset with turns := [.cycle 159 3] } : State).turns = .cycle 159 3 :: [] ∧
    (({ State.reset with turns := [.event (.coreClockChange 0)] } : State).turns = .event (.coreClockChange 0) :: [] ∧
      ∃ t, exec (.coreClockChange 0) State.reset = .next t) ∧
    ({ State.reset with turns := [.elapse 1] } : State).turns = .elapse 1 :: [] := by
  refine ⟨rfl, ⟨rfl, next_of (by decide +kernel)⟩, rfl⟩

theorem wit_StepKeepsStorageCanonical : State.reset.canonical ∧ ∃ t, step State.reset = .next t := by
  refine ⟨⟨rfl, rfl, by simp [State.reset]⟩, next_of (by decide +kernel)⟩

theorem wit_OnlyWaveFrame : OnlyWave one (one.modWave wr (fun w => w.setS 0 1)) wr := ⟨_, rfl⟩

/-! ### Lanes and scalars -/

theorem wit_FloatArithmetic : MetBy one ctx [
    (.fadd 1 2 3 0 0, 0, [1, 3, 2], []), (.fsub 1 2 3 0 0, 0, [1, 3, 2], []), (.fmul 1 122 3 0 0, 0, [1, 3], []),
    (.ffma 1 2 3 7 0, 0, [1, 3, 2], []), (.fmin 1 111 3 0 0, 0, [1, 3], [47]), (.fmax 63 63 63 0 0, 0, [63, 63, 63], []),
    (.ftr 1 2 13 0 0, 0, [1, 2], []), (.dadd 62 62 62 0 0, 0, [62, 63, 62, 63, 62, 63], []), (.dmul 2 110 4 0 0, 0, [2, 3, 4, 5], [46, 47]),
    (.dfma 2 4 6 0 0, 0, [2, 3, 6, 7, 4, 5], []), (.dmnx 2 4 6 1 0, 0, [2, 3, 6, 7, 4, 5], []), (.dtr 2 4 13 0 0, 0, [2, 3, 4, 5], []),
    (.hadd2 1 2 3 0 0, 0, [1, 3, 2], []), (.hmul2 1 2 3 0 0, 0, [1, 3, 2], []), (.hfma2 1 2 3 0 0, 0, [1, 3, 2], []),
    (.badd2 1 2 3 0 0, 0, [1, 3, 2], []), (.bmul2 1 2 3 0 0, 0, [1, 3, 2], []), (.bfma2 1 2 3 0 0, 0, [1, 3, 2], []),
    (.hmnx2 1 123 3 1 0, 0, [1, 3], [])] := met_of (by decide +kernel)

theorem wit_FloatComparisons : MetBy one ctx [
    (.fcmp 63 2 3 7 0, 0, [3, 2], []), (.dcmp 1 2 4 0 0, 0, [4, 5, 2, 3], []), (.hcmp2 62 2 3 6 0, 0, [3, 2], []),
    (.bcmp2 1 64 3 0 0, 0, [3], [0])] := met_of (by decide +kernel)

theorem wit_Conversions : MetBy one ctx [
    (.cvtf 1 62 2 2 0 0 1 0 0, 0, [1, 62, 63], []), (.cvtf 1 2 0 0 0 0 0 1 0, 0, [1, 2], []), (.cvtn 1 2 6 7 0 0 0, 0, [1, 2], []),
    (.cvti 1 64 0 1 1 0 0 0, 0, [1], [0]), (.cvti 1 2 1 0 0 1 1 0, 0, [1, 2], []), (.cvtd 2 3 0 0 0 0 0 0, 0, [2, 3, 3], []),
    (.cvtd 3 4 1 1 0 0 1 0, 0, [3, 4, 5], []), (.cvtd 62 62 7 0 0 0 0 0, 0, [62, 63, 62, 63], [])] := met_of (by decide +kernel)

theorem wit_IntegerArithmetic : MetBy one ctx [
    (.iadd 1 2 3 7 0, 0, [1, 3, 2], []), (.imul 1 119 3 3 0, 0, [1, 3], []), (.imnx 1 2 3 3 0, 0, [1, 3, 2], []),
    (.imnx 1 2 0 5 0, 0, [1, 2], []), (.ilog 1 2 3 5 0, 0, [1, 3, 2], []), (.ilog 1 126 0 6 0, 0, [1], []),
    (.ish 1 2 3 4 0, 0, [1, 3, 2], []), (.ishi 1 2 4 31 0, 0, [1, 2], []), (.ibit 1 2 4 0, 0, [1, 2], []),
    (.bfe 1 2 3 1 0, 0, [1, 3, 2], []), (.bfi 1 2 3 0 0, 0, [1, 3, 2], [])] := met_of (by decide +kernel)

/-- Shift amounts below, at and above the width (R131). -/
theorem wit_IntegerSubOperations : (31 : Nat) < 32 ∧ (32 : Nat) ≤ 32 ∧ (32 : Nat) ≤ 2 ^ 32 - 1 := by decide

theorem wit_MovesAndComparisons : MetBy one ctx [
    (.mov 1 126 0, 0, [1], []), (.movi 1 0x8000 0, 0, [1], []), (.movh 1 1 0, 0, [1], []), (.movl 1 1 0, 0, [1], []),
    (.sel 1 2 3 63, 0, [1, 3, 2], []), (.icmp 63 2 3 5 0, 0, [3, 2], []), (.icmpn 0 2 3 0 0, 0, [3, 2], [])] := met_of (by decide +kernel)

theorem wit_PredicateLogicAndRandom : MetBy one ctx [
    (.plog 1 63 63 0 0, 0, [], []), (.plog 1 2 3 1 0, 0, [], []), (.plog 1 2 3 2 0, 0, [], []), (.plog 1 2 3 3 0, 0, [], []),
    (.plog 1 2 0 4 0, 0, [], []), (.plog 1 2 0 5 0, 0, [], []), (.plog 1 63 31 6 0, 0, [63], []),
    (.rand 1 62 3 0, 0, [1, 3, 62, 63], [])] := met_of (by decide +kernel)

theorem wit_ScalarInstructions : MetBy one ctx [
    (.sadd 47 111 0 7 0, 0, [], [47, 0, 47]), (.smul 0 112 1 3 0, 0, [], [0, 1]), (.slog 0 64 1 5 0, 0, [], [0, 1, 0]),
    (.slog 0 64 0 6 0, 0, [], [0, 0]), (.ssh 0 126 1 4 0, 0, [], [0, 1]), (.smovi 47 1 0, 0, [], [47]), (.smovh 0 1 0, 0, [], [0]),
    (.smov 0 119 0, 0, [], [0]), (.scmp 63 64 47 6 0, 0, [], [47, 0])] ∧
    (LegalFor (.scmp 1 64 0 0 1) [] [0, 0] (theWave one) ∧ ctx.t (theWave one) 1 = []) :=
  ⟨met_of (by decide +kernel), legal_of (by decide +kernel), by decide +kernel⟩

/-- Home-scoped instructions with what each lane of T depends on. -/
abbrev CrossCases := List (Instr × List Nat × List Nat × (Wave → List Nat → Nat → List (Nat × Nat)))

/-- Each instruction of a list is legal for the wave of `ctx`, and what its lanes of T, which is not empty, depend on is full. -/
def CrossMet (s : State) (l : CrossCases) : Prop :=
  Alone s ctx (theWave s) ∧ ctx.t (theWave s) 0 ≠ [] ∧ ∀ p ∈ l, LegalFor p.1 p.2.1 p.2.2.1 (theWave s) ∧
    (theWave s).needsMet (ctx.t (theWave s) 0) (p.2.2.2 (theWave s) (ctx.t (theWave s) 0))

theorem crossMet_of {s : State} {l : CrossCases}
    (h : (aloneB s ctx && !(ctx.t (theWave s) 0).isEmpty && l.all (fun p => (p.1.wf && (theWave s).declares p.2.1 p.2.2.1) &&
      needsB (theWave s) (ctx.t (theWave s) 0) (p.2.2.2 (theWave s) (ctx.t (theWave s) 0)))) = true) : CrossMet s l := by
  simp only [Bool.and_eq_true, List.all_eq_true, Bool.not_eq_true', List.isEmpty_eq_false_iff] at h
  exact ⟨alone_of h.1.1, h.1.2, fun p hp => ⟨legal_of (by simp [h.2 p hp]), needs_of (h.2 p hp).2⟩⟩

theorem wit_LaneExchangesAndVotes : CrossMet one [
    (.shfl 1 113 7 1 0, [1, 7], [], fun w _ l => [(l, 1), (shflSource 1 w.width l (w.opA l 113).toNat, 7)]),
    (.qxch 5 6 3 3 0, [5, 6], [], fun _ _ l => [(l, 5), (quadPartner 3 3 l, 6)]),
    (.vote 46 63 0 0, [], [46, 47], fun _ _ _ => []), (.vote 47 0 1 0, [], [47], fun _ _ _ => []),
    (.vote 63 0 2 0, [], [], fun _ _ _ => []), (.vote 0 0 3 0, [], [], fun _ _ _ => []),
    (.lane 47 63 7 0 0, [63], [47], fun _ _ _ => [(7, 63)]), (.lane 63 123 0 1 0, [63], [], fun _ _ _ => [(0, 63)])] ∧
    7 < (theWave one).width := ⟨crossMet_of (by decide +kernel), by decide +kernel⟩

theorem wit_CrossLaneReduction : CrossMet one [
    (.redx 47 63 0 0, [63], [47], fun _ ts _ => ts.flatMap (fun m => [(m, 63)])),
    (.redx 46 62 11 0, [62, 63], [46, 47], fun _ ts _ => ts.flatMap (fun m => [(m, 62), (m, 63)]))] ∧
    redxRegs 63 0 = [63] ∧ redxRegs 62 11 = [62, 63] ∧ (theWave one).widthOk :=
  ⟨crossMet_of (by decide +kernel), by decide, by decide, .inl (by decide +kernel)⟩

theorem wit_BlockMagnitudeAndScale : CrossMet one [
    (.bamax 1 2 0 2 1 0, [1, 2], [], fun _ ts l => (l, 1) :: (groupOfLane ts (groupLanes 0) l).map (fun m => (m, 2))),
    (.bscale 1 2 4 0 1 0, [1, 2], [], fun _ ts x => (x, 1) :: [(supplier ts (blockLanes true 0) x, 2)] ++ octetDests true 0 1 x)] ∧
    groupLanes 0 ≤ (theWave one).width ∧ (theWave one).widthOk ∧ blockLanes true 0 ≤ (theWave one).width :=
  ⟨crossMet_of (by decide +kernel), by decide +kernel, .inl (by decide +kernel), by decide +kernel⟩

theorem wit_PackAndUnpack : MetBy one ctx [
    (.mxpk 1 61 6 3 2 0 0 0, 0, [1, 61, 62, 63], []), (.mxpk 1 63 7 0 3 0 0 0, 0, [1, 63], [])] ∧
    CrossMet one [(.mxup 1 2 4 0 7 0 0, [1, 2], [], fun _ _ l => [(l, 1), (l, 2), (8 * (leadSlot true 0 l).1, 2)])] ∧
    blockLanes true 0 ≤ (theWave one).width :=
  ⟨met_of (by decide +kernel), crossMet_of (by decide +kernel), by decide +kernel⟩

theorem wit_RailOperations : CrossMet one [
    (.rail 1 2 0 1 0 0, [1, 2], [], fun _ ts x => railNeeds 1 2 0 true 0 ts x),
    (.rail 1 2 1 1 0 0, [1, 2], [], fun _ ts x => railNeeds 1 2 1 true 0 ts x),
    (.rail 1 113 2 1 0 0, [1], [], fun _ ts x => railNeeds 1 113 2 true 0 ts x),
    (.rail 1 2 3 0 0 0, [1, 2], [], fun _ ts x => railNeeds 1 2 3 false 0 ts x),
    (.rail 1 0 4 0 0 0, [1], [], fun _ ts x => railNeeds 1 0 4 false 0 ts x)] ∧
    (theWave one).widthOk ∧ blockLanes true 0 ≤ (theWave one).width :=
  ⟨crossMet_of (by decide +kernel), .inl (by decide +kernel), by decide +kernel⟩

/-! ### Registers of the wave and control -/

/-- `one` with predicate p1 true in lane 0 alone. -/
def solo : State := one.modLane wr 0 (fun x => x.setPred 1 true)

theorem wit_SpecialRegisterReads : MetBy one ctx [
    (.sread 63 0 0x26 0, 0, [63], []), (.sread 1 0 0x10 0, 0, [1], []), (.sread 47 1 0x1E 0, 0, [], [47]), (.sread 1 0 0x11 0, 0, [1], []),
    (.sread 47 1 0x12 0, 0, [], [47]), (.gettime 62 0 0, 0, [62, 63], []), (.gettime 46 1 0, 0, [], [46, 47])] ∧
    ctx.t (theWave one) 1 = [] ∧ (∃ b la, one.block? 1 = some b ∧ one.launch? b.launch = some la) :=
  ⟨met_of (by decide +kernel), by decide +kernel, _, _, rfl, rfl⟩

theorem wit_SystemRegisters : MetBy one ctx [
    (.csrr 63 0 0, 0, [63], []), (.csrr 1 3 0, 0, [1], []), (.csrw 63 0 0, 0, [63], []), (.csrw 119 1 0, 0, [], []), (.csrw 111 3 0, 0, [], [47]),
    (.setmode 2 0 0, 0, [2], []), (.setmode 112 1 0, 0, [], [])] := met_of (by decide +kernel)

/-- A trap as taken at vpc 7, position 3. -/
def trapped (p : TrapPhase) : TrapInfo := ⟨0x0E, 1, 0, 7, 2, 0, 0, p⟩

/-- The handler lane's part in a clause issue of its own. -/
def ctxH : Ctx := ⟨.hdl 0 0, [0], 0, 0, 1, false⟩

/-- A handler wave whose lane 0 handles the trap of lane 3 of the block's wave executes alone; its v3 holds a word. -/
def handled (target : Word) : State :=
  let w := Wave.atLaunch 64 16 48 1 0 false
  let w := { w with lanes := modifyAt w.lanes 0 (fun x => { x.writeV 3 target with origin := some ⟨1, 0, 3⟩ }) }
  let s := { one with
    cores := modifyAt one.cores 0 (fun c => { c with handlers := setAt c.handlers 0 (some ⟨0, w⟩) })
    issues := [⟨2, 0, 0, [(.hdl 0 0, [0])], [(.hdl 0 0, [0])], false, 0, 1, 6, 0, false, [0], 1⟩] }
  s.modLane wr 3 (fun x => { x with state := .trapped, trap := some (trapped (.handled 0 0 0)) })

theorem wit_OriginRegisters : MetBy (handled 9) ctxH [
    (.csrr 15 0x100 0, 0, [15], []), (.csrr 1 0x13F 0, 0, [1], []), (.csrr 1 0x140 0, 0, [1], []), (.csrr 1 0x142 0, 0, [1], []),
    (.csrw 3 0x100 0, 0, [3], []), (.csrw 119 0x140 0, 0, [], []), (.csrw 3 0x141 0, 0, [3], []), (.csrw 3 0x142 0, 0, [3], [])] ∧
    ctxH.t (waveAt (handled 9) (.hdl 0 0)) 0 = [0] ∧
    ∃ h x la, (waveAt (handled 9) (.hdl 0 0)).lanes[0]? = some h ∧ h.origin = some ⟨1, 0, 3⟩ ∧
      (handled 9).lane? (.blk 1 0) 3 = some x ∧ x.trap = some (trapped (.handled 0 0 0)) ∧
      (handled 9).launchOf (.hdl 0 0) = some la ∧ 63 < la.record.vregs ∧ x.isFull 0 = true ∧ x.isFull 63 = true := by
  refine ⟨met_of (by decide +kernel), by decide +kernel, _, _, _, rfl, rfl, rfl, rfl, rfl, ?_, ?_, ?_⟩ <;> decide +kernel

/-- Branches with T all of X, with T empty, and with T one lane. -/
theorem wit_Branches : MetBy one ctx [
    (.bra 0x3FFFFF 0, 0, [], []), (.bru 1 0, 0, [], []), (.brx 63 0, 0, [63], []), (.ret 2 0, 0, [2], []), (.call 63 0x8000 0, 0, [63], []),
    (.nop 0, 0, [], [])] ∧ ctx.t (theWave one) 0 = ctx.x ∧ (LegalFor (.bru 1 1) [] [] (theWave one) ∧ ctx.t (theWave one) 1 = []) ∧
    MetBy solo ctx [(.bra 1 1, 1, [], []), (.bru 1 1, 1, [], []), (.call 0 1 1, 1, [0], [])] ∧ ctx.t (theWave solo) 1 = [0] ∧
    ctx.t (theWave solo) 1 ≠ ctx.x :=
  ⟨met_of (by decide +kernel), by decide +kernel, ⟨legal_of (by decide +kernel), by decide +kernel⟩, met_of (by decide +kernel),
    by decide +kernel, by decide +kernel⟩

/-- `one` with a failed pod request recorded. -/
def podFailed : State := one.modWave wr (fun w => { w with podError := some 64 })

theorem wit_ExitAndYield : MetBy one ctx [(.exit 0, 0, [], []), (.yield 0, 0, [], [])] ∧ isHandler ctx.r = false ∧
    (theWave one).podError = none ∧ MetBy solo ctx [(.exit 1, 1, [], []), (.yield 1, 1, [], [])] ∧
    MetBy podFailed ctx [(.exit 0, 0, [], [])] ∧ (theWave podFailed).podError = some 64 :=
  ⟨met_of (by decide +kernel), rfl, by decide +kernel, met_of (by decide +kernel), met_of (by decide +kernel), by decide +kernel⟩

theorem wit_MasksAndJoins : MetBy solo ctx [
    (.join 0 1, 1, [], []), (.ksync 15 0, 0, [], []), (.kset 15 1, 1, [], []), (.kop 3 15 0 0, 0, [], [])] ∧
    15 < (theWave solo).k.length ∧ ctx.t (theWave one) 1 = [] ∧ LegalFor (.kset 0 1) [] [] (theWave one) ∧
    LegalFor (.kop 0 0 1 1) [] [] (theWave one) :=
  ⟨met_of (by decide +kernel), by decide +kernel, by decide +kernel, legal_of (by decide +kernel), legal_of (by decide +kernel)⟩

theorem wit_WaveHolds : MetBy one ctx [(.waitc 14 3 0, 0, [], []), (.fence 3 3 0, 0, [], [])] ∧ (theWave one).podError = none ∧
    (LegalFor (.waitc 0 0 1) [] [] (theWave one) ∧ LegalFor (.fence 0 0 1) [] [] (theWave one) ∧ ctx.t (theWave one) 1 = []) ∧
    (MetBy podFailed ctx [(.fence 3 3 0, 0, [], [])] ∧ (theWave podFailed).podError = some 64) ∧
    ∃ w, (one.holdWave wr (.counter 0 0)).wave? wr = some w ∧ w.holds ≠ [] :=
  ⟨met_of (by decide +kernel), by decide +kernel, ⟨legal_of (by decide +kernel), legal_of (by decide +kernel), by decide +kernel⟩,
    ⟨met_of (by decide +kernel), by decide +kernel⟩, _, rfl, by decide +kernel⟩

/-- The record of a block of two waves. -/
def duoRecord : LaunchRecord := { placedRecord with blockDim := [16, 1, 1] }

/-- `one` in a block of two waves, with a change of the block. -/
def duo (f : Block → Block) : State :=
  { one with
    launches := [{ placedLaunch 0 with record := duoRecord }]
    blocks := [f (Block.atLaunch duoRecord 1 0 0 0 0 0 0 0)] }

/-- A barrier of a block of two waves. -/
def barrierOf (n a : Nat) (x y : BarState) : Barrier := ⟨n, a, [x, y]⟩

/-- A block of two waves with barrier 15 as given, at which wave 1's lane 0 waits when it has arrived. -/
def atBarrier (b : Barrier) (waits : Bool) : State := duo (fun k => { k with
  barriers := setAt k.barriers 15 b
  waves := modifyAt k.waves 1 (fun w => { w with lanes := modifyAt w.lanes 0 (fun x =>
    if waits then { x with state := .waitBarrier 15 } else x) }) })

/-- An unconfigured barrier; `barw` with no arrival; `bari` while a wave waits and has arrived, and with a count of none and of three of two. -/
theorem wit_BarrierTraps :
    (MetBy (atBarrier (barrierOf 0 0 .none .none) false) ctx [(.bar 15 0, 0, [], []), (.bara 15 0, 0, [], []), (.barw 15 0, 0, [], []),
        (.bari 112 15 0, 0, [], []), (.bari 115 15 0, 0, [], [])] ∧
      ∃ k, (atBarrier (barrierOf 0 0 .none .none) false).block? 1 = some k ∧ k.barriers[15]? = some (barrierOf 0 0 .none .none) ∧
        ((theWave one).opA 0 112).toNat = 0 ∧ k.waves.length < ((theWave one).opA 0 115).toNat) ∧
    (MetBy (atBarrier (barrierOf 2 0 .none .none) false) ctx [(.barw 15 0, 0, [], [])] ∧ (barrierOf 2 0 .none .none).of 0 = .none) ∧
    (MetBy (atBarrier (barrierOf 2 1 .none .arrived) true) ctx [(.bari 113 15 0, 0, [], [])] ∧
      ∃ k x, (atBarrier (barrierOf 2 1 .none .arrived) true).block? 1 = some k ∧ k.barriers[15]? = some x ∧ k.waitsAt 15 = true ∧ 0 < x.a) := by
  refine ⟨⟨met_of ?_, _, rfl, rfl, ?_, ?_⟩, ⟨met_of ?_, ?_⟩, met_of ?_, _, _, rfl, rfl, ?_, ?_⟩ <;> decide +kernel

/-- A state with its launch's record changed. -/
def recorded (s : State) (f : LaunchRecord → LaunchRecord) : State :=
  { s with launches := s.launches.map (fun l => { l with record := f l.record }) }

/-- A block of two waves in a native launch with a trap entry: wave 0 has retired, and lane 0 of wave 1 waits at barrier 15 for both. -/
def short : State :=
  { (recorded (atBarrier (barrierOf 2 1 .none .arrived) true) (fun _ => { duoRecord with trapEntry := 64 })).modWave wr (fun w =>
      { w with retired := true }) with issues := [] }

theorem wit_BarrierShortfall : ∃ k la, short.block? 1 = some k ∧ k.uid = 1 ∧ k.barriers[15]? = some (barrierOf 2 1 .none .arrived) ∧
    short.launch? k.launch = some la ∧ la.record.irdan = false ∧ la.record.entryOfTraps.isSome = true ∧
    ((upTo k.waves.length).filter (fun j => ((k.waves[j]?).map (fun w => !w.retired)).getD false &&
      (barrierOf 2 1 .none .arrived).of j != .arrived)).length < 2 - 1 ∧
    (∀ m ∈ upTo 16, m ≠ 15 → ∀ y ∈ k.barriers[m]?, y.n = 0) ∧ k.barriers.length = 16 ∧ (∀ q ∈ k.quires, q.n = 0) ∧
    ∃ y, short.lane? (.blk 1 1) 0 = some y ∧ y.state = .waitBarrier 15 :=
  ⟨_, _, rfl, rfl, rfl, rfl, by decide +kernel, by decide +kernel, by decide +kernel, by decide +kernel, by decide +kernel, by decide +kernel,
    _, rfl, by decide +kernel⟩

/-- Configuring with counts 1 and all waves; an arrival short of the count and one that completes it; `barw` of a wave that has arrived and
of one that has passed. -/
theorem wit_Barriers :
    (MetBy (atBarrier (barrierOf 0 0 .none .none) false) ctx [(.bari 113 15 0, 0, [], []), (.bari 114 15 0, 0, [], [])] ∧
      ∃ k, (atBarrier (barrierOf 0 0 .none .none) false).block? 1 = some k ∧ k.barriers[15]? = some (barrierOf 0 0 .none .none) ∧
        k.waitsAt 15 = false ∧ 1 ≤ ((theWave one).opA 0 113).toNat ∧ ((theWave one).opA 0 114).toNat ≤ k.waves.length) ∧
    (MetBy (atBarrier (barrierOf 2 0 .none .none) false) ctx [(.bar 15 0, 0, [], []), (.bara 15 0, 0, [], [])] ∧
      ∃ k x, (atBarrier (barrierOf 2 0 .none .none) false).block? 1 = some k ∧ k.barriers[15]? = some x ∧ 0 < x.st.length ∧ x.n ≠ 0 ∧
        x.of 0 ≠ .arrived ∧ x.a + 1 ≠ x.n) ∧
    (MetBy (atBarrier (barrierOf 2 1 .none .arrived) true) ctx [(.bar 15 0, 0, [], []), (.bara 15 0, 0, [], [])] ∧
      ∃ k x, (atBarrier (barrierOf 2 1 .none .arrived) true).block? 1 = some k ∧ k.barriers[15]? = some x ∧ x.of 0 ≠ .arrived ∧
        x.a + 1 = x.n) ∧
    (MetBy (atBarrier (barrierOf 2 1 .arrived .none) false) ctx [(.barw 15 0, 0, [], []), (.bar 15 0, 0, [], [])] ∧
      ∃ k x, (atBarrier (barrierOf 2 1 .arrived .none) false).block? 1 = some k ∧ k.barriers[15]? = some x ∧ x.of 0 = .arrived ∧ x.a ≠ x.n) ∧
    (MetBy (atBarrier (barrierOf 2 0 .passed .passed) false) ctx [(.barw 15 0, 0, [], [])] ∧
      ∃ k x, (atBarrier (barrierOf 2 0 .passed .passed) false).block? 1 = some k ∧ k.barriers[15]? = some x ∧ x.of 0 = .passed) := by
  refine ⟨⟨met_of ?_, _, rfl, rfl, ?_, ?_, ?_⟩, ⟨met_of ?_, _, _, rfl, rfl, ?_, ?_, ?_, ?_⟩, ⟨met_of ?_, _, _, rfl, rfl, ?_, ?_⟩,
    ⟨met_of ?_, _, _, rfl, rfl, ?_, ?_⟩, ⟨met_of ?_, _, _, rfl, rfl, ?_⟩⟩ <;> decide +kernel

/-! ### Traps -/

/-- The context of `one` with the trap-on-empty bit of its position set. -/
def ctxTe : Ctx := { ctx with te := true }

/-- `one` with the trap-on-empty bit of its clause as given and v2 of lanes 0 to n - 1 empty. -/
def lacking (te : Bool) (n : Nat) : State :=
  { (one.modWave wr (fun w => w.modLanes (upTo n) (fun x => x.markEmpty 2))) with
    issues := [⟨2, 0, 0, [(wr, upTo 8)], [(wr, upTo 8)], false, 0, 1, 0, if te then 1 else 0, false, [0], 1⟩] }

/-- `solo` with v2 of lane 0 empty and marked. -/
def marked (m : Mark) : State := solo.modLane wr 0 (fun x => { x.markEmpty 2 with marks := [(2, m)] })

/-- Whether an instruction is legal for the wave of a state. -/
abbrev legalHere (s : State) (i : Instr) (vr sr : List Nat) : Prop := LegalFor i vr sr (theWave s)

theorem wit_EmptyOperands :
    (Alone (lacking false 1) ctx (theWave (lacking false 1)) ∧ legalHere (lacking false 1) (.fadd 1 2 3 0 0) [1, 3, 2] [] ∧
      ∀ x ∈ (theWave (lacking false 1)).lanes, x.marks = []) ∧
    (Alone (lacking true 8) ctxTe (theWave (lacking true 8)) ∧ legalHere (lacking true 8) (.fadd 1 2 3 0 0) [1, 3, 2] [] ∧
      (∀ x ∈ (theWave (lacking true 8)).lanes, x.marks = []) ∧
      ∀ l ∈ ctxTe.t (theWave (lacking true 8)) 0, [1, 3, 2].filter (fun r =>
        (((theWave (lacking true 8)).lanes[l]?).map (fun x => !x.isFull r)).getD false) ≠ []) ∧
    ∀ m ∈ [Mark.poisoned 128, .podFailed 128], Alone (marked m) ctx (theWave (marked m)) ∧
      legalHere (marked m) (.fadd 1 2 3 0 1) [1, 3, 2] [] ∧ ctx.t (theWave (marked m)) 1 = [0] ∧
      ∃ x, (theWave (marked m)).lanes[0]? = some x ∧ x.isFull 2 = false ∧ x.mark? 2 = some m ∧ x.isFull 1 = true ∧ x.isFull 3 = true := by
  refine ⟨⟨alone_of ?_, legal_of ?_, ?_⟩, ⟨alone_of ?_, legal_of ?_, ?_, ?_⟩, ?_⟩
  · decide +kernel
  · decide +kernel
  · decide +kernel
  · decide +kernel
  · decide +kernel
  · decide +kernel
  · decide +kernel
  · intro m hm
    fin_cases hm
    · exact ⟨alone_of (by decide +kernel), legal_of (by decide +kernel), by decide +kernel, _, rfl, by decide +kernel⟩
    · exact ⟨alone_of (by decide +kernel), legal_of (by decide +kernel), by decide +kernel, _, rfl, by decide +kernel⟩

/-- `one` whose wave declares eight vector and eight scalar registers. -/
def small : State := one.modWave wr (fun w => { w with nv := 8, ns := 8 })

/-- The wave of a state of one handler lane, its bar a word of the clause (R396). -/
theorem wit_IllegalEncodingsTrap :
    (∃ i, ({ one with issues := [⟨2, 0, 0, [(wr, upTo 8)], [(wr, upTo 8)], false, 0, 1, 0, 0, false, [0xB01F8010], 1⟩] } : State).curIssue
        = some i ∧ i.members = [(wr, upTo 8)] ∧ upTo 8 ≠ [] ∧ decodeWord i.cls (i.words.getD (i.pos - 1) 0) = .error .reservedBits) ∧
    (Alone small ctx (theWave small) ∧
      (∀ i ∈ [Instr.fadd 8 0 0 0 0, .stB128 8 2 0 0 0 0, .atomCasB64 4 8 0 0 0 1, .cpy 0 1 1 0 0 0 0, .csrw 8 0 0],
        (classOf i).isSome = true ∧ ∃ r ∈ namedV i, (theWave small).nv ≤ r) ∧
      ∀ i ∈ [Instr.fadd 0 72 0 0 0, .sldB64 6 8 0 0 0 0, .launch 71 0 0, .gettime 7 1 0, .bari 72 0 1],
        (classOf i).isSome = true ∧ ∃ r ∈ namedS i, (theWave small).ns ≤ r) ∧
    (Alone (handled 9) ctxH (waveAt (handled 9) ctxH.r) ∧ isHandler ctxH.r = true ∧
      ∀ i ∈ [Instr.bar 15 0, .bari 0 0 1, .ldsB32 0 0 0 0 0, .ratom 0 0 0 0 0, .qpop 0 0 0, .tdset 0 0 0, .qinit 0 0 0, .csig 0 0 0 0],
        refusedToHandlers i = true) ∧ ∃ la, one.launchOf ctx.r = some la := by
  refine ⟨⟨_, rfl, rfl, by decide, by decide +kernel⟩, ⟨alone_of (by decide +kernel), by decide +kernel, by decide +kernel⟩,
    ⟨alone_of (by decide +kernel), rfl, by decide +kernel⟩, _, rfl⟩

/-- A launch with a trap entry, in native mode and in Irdan-mode, with T all lanes and T empty. -/
theorem wit_SoftwareTrap : ∀ irdan ∈ [false, true],
    let s := recorded one (fun r => { r with trapEntry := 64, irdan := irdan })
    MetBy s ctx [(.trap 255 0, 0, [], [])] ∧ (LegalFor (.trap 0 1) [] [] (theWave s) ∧ ctx.t (theWave s) 1 = []) ∧ ctx.x.Nodup ∧
      (∃ la, s.launchOf ctx.r = some la ∧ la.record.entryOfTraps = some 64 ∧ la.record.irdan = irdan) ∧
      ∀ x ∈ (theWave s).lanes, x.inTrap = none := by
  intro irdan h
  fin_cases h
  · exact ⟨met_of (by decide +kernel), ⟨legal_of (by decide +kernel), by decide +kernel⟩, by decide +kernel, ⟨_, rfl, by decide +kernel⟩,
      by decide +kernel⟩
  · exact ⟨met_of (by decide +kernel), ⟨legal_of (by decide +kernel), by decide +kernel⟩, by decide +kernel, ⟨_, rfl, by decide +kernel⟩,
      by decide +kernel⟩

/-- The context of one lane of a wave. -/
def ctx1 : Ctx := ⟨wr, [0], 0, 0, 1, false⟩

/-- An Irdan-mode lane in trap executes alone; its v3 holds a word. -/
def inTrap (target : Word) : State :=
  { ((recorded one (fun r => { r with trapEntry := 64, irdan := true })).modLane wr 0 (fun x =>
      { x.writeV 3 target with inTrap := some (trapped .awaiting) })) with
    issues := [⟨2, 0, 0, [(wr, [0])], [(wr, [0])], false, 0, 1, 6, 0, false, [0], 1⟩] }

theorem wit_EscalatedTrap : MetBy solo ctx [(.trap 1 1, 1, [], [])] ∧ ctx.t (theWave solo) 1 = [0] ∧
    (∃ la, solo.launchOf ctx.r = some la ∧ la.record.entryOfTraps = none ∧ la.part < solo.parts.length ∧
      (solo.part la.part).vf.fq.enabled = false) ∧
    (∃ x, (theWave solo).lanes[0]? = some x ∧ x.state = .active) ∧ solo.device.serial + 1 < 2 ^ 32 ∧ solo.device.fenced = false ∧
    (∃ b, solo.block? 1 = some b) ∧
    (MetBy (inTrap 9) ctx1 [(.tesc 255 0, 0, [], [])] ∧ ctx1.x = [0] ∧ (theWave (inTrap 9)).pred 0 0 = true ∧
      (∃ x b la lb, (theWave (inTrap 9)).lanes[0]? = some x ∧ x.inTrap = some (trapped .awaiting) ∧ (inTrap 9).block? 1 = some b ∧
        (inTrap 9).launch? b.launch = some lb ∧ (inTrap 9).launchOf wr = some la ∧ lb.part < (inTrap 9).parts.length) ∧
      (inTrap 9).device.serial + 1 < 2 ^ 32 ∧ (inTrap 9).device.fenced = false) ∧
    (MetBy (handled 9) ctxH [(.tesc 255 0, 0, [], []), (.exit 0, 0, [], [])] ∧ isHandler ctxH.r = true ∧
      (waveAt (handled 9) ctxH.r).podError = none ∧ ∃ x y b la lb, (waveAt (handled 9) (.hdl 0 0)).lanes[0]? = some x ∧ x.origin = some ⟨1, 0, 3⟩ ∧
        (handled 9).lane? (.blk 1 0) 3 = some y ∧ y.trap = some (trapped (.handled 0 0 0)) ∧ (handled 9).block? 1 = some b ∧
        (handled 9).launch? b.launch = some lb ∧ (handled 9).launchOf (.hdl 0 0) = some la ∧ lb.part < (handled 9).parts.length) :=
  ⟨met_of (by decide +kernel), by decide +kernel, ⟨_, rfl, by decide +kernel⟩, ⟨_, rfl, by decide +kernel⟩, by decide +kernel,
    by decide +kernel, ⟨_, rfl⟩, ⟨met_of (by decide +kernel), rfl, by decide +kernel, ⟨_, _, _, _, rfl, rfl, rfl, rfl, rfl, by decide +kernel⟩,
      by decide +kernel, by decide +kernel⟩,
    ⟨met_of (by decide +kernel), rfl, by decide +kernel, _, _, _, _, _, rfl, rfl, rfl, rfl, rfl, rfl, rfl, by decide +kernel⟩⟩

/-- Space 0 of partition 0 enabled and its first 2 MiB mapped as they stand, and core 0's bucket empty at rate 1: a fetch waits there. -/
def starved (s : State) : State :=
  ((s.modCore 0 (fun c => { c with tlb := [⟨0, 0, 0, 0, 21, { PageAttr.plain with executable := true }⟩], bucket := ⟨0, 0⟩ })).modPart 0 (fun p =>
    { p with bktCore := 1 + 4 * 2 ^ 32 })).modVF 0 (fun v => { v with aspRoot := v.aspRoot.set 0 1 })

/-- Returns past the trapping instruction whose header has still to be fetched, and others that need no header. -/
theorem wit_TrapReturnWaits :
    (let s := starved (handled 0xFFFFFFFF)
     MetBy s ctxH [(.tres 3 0, 0, [3], [])] ∧ ∃ la, s.launchOf ctxH.r = some la ∧ (s.fetchWaits (s.coreOf ctxH.r) la 7).1 = true) ∧
    (let s := starved (inTrap 0xFFFFFFFF)
     MetBy s ctx1 [(.tres 3 0, 0, [3], [])] ∧ ∃ la, s.launchOf wr = some la ∧ (s.fetchWaits (s.coreOf wr) la 7).1 = true) ∧
    ∀ s ∈ [handled 0xFFFFFFFF, inTrap 0xFFFFFFFF], ∃ la, s.launchOf wr = some la ∧ (s.fetchWaits (s.coreOf wr) la 7).1 = false := by
  refine ⟨⟨met_of ?_, _, rfl, ?_⟩, ⟨met_of ?_, _, rfl, ?_⟩, fun s h => ?_⟩
  · decide +kernel
  · decide +kernel
  · decide +kernel
  · decide +kernel
  · fin_cases h <;> exact ⟨_, rfl, by decide +kernel⟩

/-- Returns of a handler lane and of an Irdan-mode lane, with each of the three targets that R405 tells apart. -/
theorem wit_TrapReturn : ∀ target ∈ [(7 : Word), 0xFFFFFFFF, 9],
    (MetBy (handled target) ctxH [(.tres 3 0, 0, [3], []), (.tkill 0, 0, [], []), (.tesc 255 0, 0, [], []), (.exit 0, 0, [], [])] ∧
      ∃ x y la, (waveAt (handled target) (.hdl 0 0)).lanes[0]? = some x ∧ x.state = .active ∧ x.reg 3 = target ∧ x.origin = some ⟨1, 0, 3⟩ ∧
        (handled target).lane? (.blk 1 0) 3 = some y ∧ y.state = .trapped ∧ y.trap = some (trapped (.handled 0 0 0)) ∧
        (handled target).launchOf (.hdl 0 0) = some la) ∧
    (MetBy (inTrap target) ctx1 [(.tres 3 0, 0, [3], []), (.tkill 0, 0, [], []), (.tesc 255 0, 0, [], [])] ∧
      ∃ x la, (waveAt (inTrap target) wr).lanes[0]? = some x ∧ x.state = .active ∧ x.reg 3 = target ∧ x.inTrap = some (trapped .awaiting) ∧
        (inTrap target).launchOf wr = some la) := by
  intro t h
  fin_cases h <;> refine ⟨⟨met_of ?_, _, _, _, rfl, ?_, ?_, ?_, rfl, ?_, ?_, rfl⟩, ⟨met_of ?_, _, _, rfl, ?_, ?_, ?_, rfl⟩⟩ <;> decide +kernel

/-! ### Global memory and launches -/

/-- The attributes of an ordinary writable page. -/
def open_ : PageAttr := { PageAttr.plain with executable := true }

/-- A translation of the first 2 MiB of space 0 of partition 0, to physical addresses from a base. -/
def pageAt (base : Nat) (a : PageAttr) : TlbEntry := ⟨0, 0, 0, base, 21, a⟩

/-- A state whose space 0 of partition 0 is enabled and whose core 0 holds one translation. -/
def mappedIn (s : State) (e : TlbEntry) : State :=
  (s.modCore 0 (fun c => { c with tlb := [e] })).modVF 0 (fun v => { v with aspRoot := v.aspRoot.set 0 1 })

/-- `one` with the first 2 MiB mapped as they stand. -/
def mapped : State := mappedIn one (pageAt 0 open_)

/-- A state in which v2:v3 of each lane hold an address. -/
def pointing (s : State) (va : Nat → Nat) : State :=
  s.modWave wr (fun w => { w with lanes := mapIdx' (fun l x =>
    (x.writeV 2 (BitVec.ofNat 32 (va l))).writeV 3 (BitVec.ofNat 32 (va l / 2 ^ 32))) w.lanes })

/-- The lane address of R244. -/
abbrev laneAddr (w : Wave) (b : Nat) (off : Int) (l : Nat) : Nat :=
  (((w.reg l b).toNat + 2 ^ 32 * (w.reg l (b + 1)).toNat + off : Int) % 2 ^ 64).toNat

theorem check_cached {s : State} {core part space va : Nat} {kind : AccessKind} {e : TlbEntry} (hv : va < 2 ^ 57)
    (hb : bitOf ((s.part part).vf.aspRoot.getD space 0) 0 = true) (hc : s.cachedXlat core part space va = some e) (hr : (s.part part).reaches (e.pa va) = true)
    (hw : (e.attr.writable && e.attr.executable) = true) : s.checkAccess core part space va kind = (.ok e, s) := by
  simp only [Bool.and_eq_true] at hw
  simp only [TlbEntry.pa] at hr
  have ht : s.translate core part space va = (.ok e, s) := by
    rw [State.translate, if_neg (by simp only [hb, Nat.not_le.2 hv]; decide), hc]
  simp [State.checkAccess, ht, hr, hw]

theorem memFree_of {w : Wave} (h : (w.acquires.isEmpty && w.groups.all (fun y => !y.delivers) && decide (w.ocMem < 15)) = true) :
    w.memFree := by
  simp only [Bool.and_eq_true, List.isEmpty_iff, List.all_eq_true, Bool.not_eq_true', decide_eq_true_eq] at h
  exact ⟨h.1.1, h.1.2, h.2⟩

/-- The states of the clauses of the address checks, each with v2:v3 and the page that lane 0 meets: a misaligned address, one past 2^57,
an untranslated one, one of a disabled space, an unreachable page, a page that is not writable, the pod range. -/
theorem wit_AddressChecks :
    (∀ p ∈ [(2, pageAt 0 open_), (2 ^ 57, pageAt 0 open_), (2 ^ 64 - 4, pageAt 0 open_), (0x200000, pageAt 0 open_),
        (0, pageAt (2 ^ 33) open_), (0, pageAt 0 { open_ with writable := false }), (0, pageAt (2 ^ 50) open_)],
      let s := mappedIn (pointing solo (fun _ => p.1)) p.2
      MetBy s ctx [(.ldB32 1 2 0 0 0 1, 1, [1, 2, 3], []), (.stB32 1 2 0 0 0 1, 1, [1, 2, 3], [])] ∧ ctx.t (theWave s) 1 = [0] ∧
      (theWave s).memFree ∧ laneAddr (theWave s) 2 0 0 = p.1) ∧
    ((2 : Nat) % 4 ≠ 0 ∧ 2 ^ 57 % 4 = 0 ∧ (2 ^ 64 - 4) % 4 = 0 ∧ 2 ^ 57 ≤ 2 ^ 64 - 4) ∧
    (let s := mappedIn (pointing solo (fun _ => 0x200000)) (pageAt 0 open_)
     s.cachedXlat 0 0 0 0x200000 = none ∧ ((s.part 0).vf.aspRoot.getD 0 0) % 2 = 1 ∧
       ((solo.part 0).vf.aspRoot.getD 0 0) % 2 = 0) ∧
    (let s := pointing solo (fun _ => 0x200000)
     MetBy s ctx [(.ldB32 1 2 0 0 0 1, 1, [1, 2, 3], []), (.stB32 1 2 0 0 0 1, 1, [1, 2, 3], [])] ∧ ctx.t (theWave s) 1 = [0] ∧
       (theWave s).memFree ∧ laneAddr (theWave s) 2 0 0 = 0x200000) ∧
    (let s := mappedIn (pointing solo (fun _ => 0)) (pageAt (2 ^ 33) open_)
     s.cachedXlat (s.coreOf wr) (s.partOf wr) (s.spaceOf wr) 0 = some (pageAt (2 ^ 33) open_) ∧
       (s.part (s.partOf wr)).reaches ((pageAt (2 ^ 33) open_).pa 0) = false ∧ (s.part (s.partOf wr)).gone = 0) ∧
    (let s := mappedIn (pointing solo (fun _ => 0)) (pageAt 0 { open_ with writable := false })
     (s.part (s.partOf wr)).reaches 0 = true ∧ s.cachedXlat (s.coreOf wr) (s.partOf wr) (s.spaceOf wr) 0 =
       some (pageAt 0 { open_ with writable := false })) ∧
    (let s := mappedIn (pointing solo (fun _ => 0)) (pageAt (2 ^ 50) open_)
     (s.part (s.partOf wr)).reaches (2 ^ 50) = true ∧ isPod (2 ^ 50) = true ∧ (s.part (s.partOf wr)).podEnable = false ∧
       s.cachedXlat (s.coreOf wr) (s.partOf wr) (s.spaceOf wr) 0 = some (pageAt (2 ^ 50) open_)) := by
  refine ⟨fun p hp => ?_, by decide, by decide +kernel,
    ⟨met_of (by decide +kernel), by decide +kernel, memFree_of (by decide +kernel), by decide +kernel⟩, by decide +kernel, by decide +kernel,
    by decide +kernel⟩
  fin_cases hp <;> exact ⟨met_of (by decide +kernel), by decide +kernel, memFree_of (by decide +kernel), by decide +kernel⟩

/-- A mapped wave whose loads are served in every lane, an unmapped one whose loads are served in none, and waves held back by an acquire,
by a `waitu` and by `oc.mem`. -/
theorem wit_GlobalLoads :
    MetBy mapped ctx [(.ldB8 1 2 0x20 0 0 0, 0, [1, 2, 3], []), (.ldS8 1 2 0 0 1 0, 0, [1, 2, 3], []), (.ldB16 1 2 0 3 2 0, 0, [1, 2, 3], []),
      (.ldS16 1 2 0 0 3 0, 0, [1, 2, 3], []), (.ldB32 63 62 31 0 0 0, 0, [63, 62, 63], []), (.ldB64 62 2 0 0 0 0, 0, [62, 63, 2, 3], []),
      (.ldB128 60 2 0 0 0 0, 0, [60, 61, 62, 63, 2, 3], [])] ∧ (theWave mapped).memFree ∧
    (∀ n ∈ [1, 2, 4, 8, 16], (mapped.admitLanes ctx n .read (some 0) (laneAddr (theWave mapped) 2 0) (ctx.t (theWave mapped) 0)).1.length =
        (ctx.t (theWave mapped) 0).length ∧
      (one.admitLanes ctx n .read (some 0) (laneAddr (theWave one) 2 0) (ctx.t (theWave one) 0)).1 = []) ∧
    (theWave (mapped.modWave wr (fun w => { w with acquires := [0] }))).acquires ≠ [] ∧
    (∃ y ∈ (theWave (mapped.modWave wr (fun w => { w with groups := [⟨0, [0], 1, false, 0, .atSlice, true, 2, 0⟩] }))).groups,
      y.delivers = true) ∧
    15 ≤ (theWave (mapped.modWave wr (fun w => { w with ocMem := 15 }))).ocMem := by
  refine ⟨met_of (by decide +kernel), memFree_of (by decide +kernel), fun n hn => ?_, by decide +kernel, ⟨_, List.mem_singleton.2 rfl, rfl⟩,
    by decide +kernel⟩
  fin_cases hn <;> exact ⟨by decide +kernel, by decide +kernel⟩

theorem wit_GlobalStoresAndAtomics :
    MetBy mapped ctx [(.stB8 1 2 0 0 0 0, 0, [1, 2, 3], []), (.stB16 1 2 0 0 1 0, 0, [1, 2, 3], []), (.stB32 1 2 0 3 2 0, 0, [1, 2, 3], []),
      (.stB64 62 2 0 0 3 0, 0, [62, 63, 2, 3], []), (.stB128 60 2 0 0 0 0, 0, [60, 61, 62, 63, 2, 3], []),
      (.atomAdd 1 2 0 0 0 0, 0, [1, 2, 3], []), (.atomAddB64 62 2 0 0 1 0, 0, [62, 63, 2, 3], []), (.atomAddf 1 2 0 0 2 0, 0, [1, 2, 3], []),
      (.atomMinS32 1 2 0 0 3 0, 0, [1, 2, 3], []), (.atomMaxS32 1 2 0 0 0 0, 0, [1, 2, 3], []), (.atomMinN32 1 2 0 0 0 0, 0, [1, 2, 3], []),
      (.atomMaxN32 1 2 0 0 0 0, 0, [1, 2, 3], []), (.atomAnd 1 2 0 0 0 0, 0, [1, 2, 3], []), (.atomOr 1 2 0 0 0 0, 0, [1, 2, 3], []),
      (.atomXor 1 2 0 0 0 0, 0, [1, 2, 3], []), (.atomExch 1 2 0 0 0 0, 0, [1, 2, 3], []), (.atomCas 62 2 0 0 2 0, 0, [62, 63, 2, 3], []),
      (.atomCasB64 60 2 0 0 2 0, 0, [60, 61, 62, 63, 2, 3], [])] ∧ (theWave mapped).memFree ∧
    (∀ n ∈ [1, 2, 4, 8, 16], ∀ k ∈ [1, 2],
      (mapped.admitLanes ctx n .write (some k) (laneAddr (theWave mapped) 2 0) (ctx.t (theWave mapped) 0)).1 ≠ [] ∧
      (one.admitLanes ctx n .write (some k) (laneAddr (theWave one) 2 0) (ctx.t (theWave one) 0)).1 = []) ∧
    mapped.l1Copy 0 0 0 = none := by
  refine ⟨met_of (by decide +kernel), memFree_of (by decide +kernel), fun n hn k hk => ?_, by decide +kernel⟩
  fin_cases hn <;> fin_cases hk <;> exact ⟨by decide +kernel, by decide +kernel⟩

/-- A tolerant page of eight-bit elements in blocks of 32, and lanes that stand at their places in one block. -/
def mxState : State := mappedIn (pointing one (fun l => 4 * l)) (pageAt 0 { open_ with bound := true, tolerant := true })

theorem wit_MxAccesses :
    MetBy mxState ctx [(.ldMx 1 2 0 0 0 0, 0, [1, 2, 3], []), (.stMx 1 2 0 0 1 0, 0, [1, 2, 3], [])] ∧ (theWave mxState).memFree ∧
    (ctx.t (theWave mxState) 0).length ≤ 64 ∧
    (∀ k ∈ [AccessKind.read, .write],
      let v := (mxState.admitLanes ctx 4 k none (laneAddr (theWave mxState) 2 0) (ctx.t (theWave mxState) 0)).1
      v ≠ [] ∧ (∀ x ∈ v, x.entry.attr.bound = true ∧ x.entry.attr.tolerant = true ∧
        blockLanes (x.entry.attr.bfmt == 3) x.entry.attr.bk ≤ (theWave mxState).width) ∧
      (∀ y ∈ mxGroups 64 v, (mxAnchor y).isSome = true) ∧
      (∀ y ∈ mxGroups 64 v, ∀ m ∈ y.head?, ∀ l ∈ mxOctetLanes m, l < 8) ∧
      (one.admitLanes ctx 4 k none (laneAddr (theWave one) 2 0) (ctx.t (theWave one) 0)).1 = []) ∧
    ∀ x ∈ (theWave mxState).lanes, x.isFull 1 = true := by
  refine ⟨met_of (by decide +kernel), memFree_of (by decide +kernel), by decide +kernel, fun k hk => ?_, by decide +kernel⟩
  fin_cases hk <;> exact ⟨by decide +kernel, by decide +kernel, by decide +kernel, by decide +kernel, by decide +kernel⟩

theorem wit_ScalarReadsAndPrefetch :
    MetBy mapped ctx [(.sldB32 47 46 0 0 0 0, 0, [], [47, 46, 47]), (.sldB64 46 0 0 0 1 0, 0, [], [46, 47, 0, 1]),
      (.sldB128 44 0 0 0 3 0, 0, [], [44, 45, 46, 47, 0, 1]), (.tdset 15 46 0, 0, [], [46, 47]), (.pref 2 0 3 3 0, 0, [2, 3], [])] ∧
    (theWave mapped).memFree ∧ isHandler ctx.r = false ∧
    mapped.checkAccess (mapped.coreOf wr) (mapped.partOf wr) (mapped.spaceOf wr) 0 .read = (.ok (pageAt 0 open_), mapped) ∧
    isPod ((pageAt 0 open_).pa 0) = false ∧
    (mapped.prefLanes ctx (laneAddr (theWave mapped) 2 0) (ctx.t (theWave mapped) 0)).1 ≠ [] ∧
    (one.prefLanes ctx (laneAddr (theWave one) 2 0) (ctx.t (theWave one) 0)).1 = [] := by
  refine ⟨met_of ?_, memFree_of ?_, rfl, check_cached ?_ ?_ ?_ ?_ ?_, ?_, ?_, ?_⟩ <;> decide +kernel

/-- `mapped` with stream 9 of partition 0, of 2^n records, its ring at 0x400 and its control pair at 0x300 with the tail as given, and
s4:s5 holding an image's address. -/
def streaming (n tail image : Nat) : State :=
  { ((mapped.modStream 0 9 (fun t => { t with ring := 0x400, pair := 0x300, order := n })).modWave wr (fun w =>
      w.setS 4 (BitVec.ofNat 32 image))) with
    mem := if tail = 0 then [] else [(0x300, BitVec.ofNat 8 tail)] }

theorem ring_one {s : State} {c : Ctx} {ts : List Nat} {space va : Nat} {e : TlbEntry}
    (h : s.checkAccess (s.coreOf c.r) (s.partOf c.r) space va .write = (.ok e, s)) (hp : isPod (e.pa va) = false) :
    s.launchRing c ts space [va] = (true, s) := by
  simp [State.launchRing, State.launchCheck, h, hp]

/-- An image in the pod range of a partition that the pod map lets read. -/
theorem wit_PodImage : let s := (mappedIn one (pageAt (2 ^ 50) open_)).modPart 0 (fun p =>
      { p with podCtl := 2 ^ 31 + 2 * 2 ^ 16, podCache := [(0, 2 ^ 63 + 2 ^ 62)] })
    isPod ((pageAt (2 ^ 50) open_).pa 0x200) = true ∧ (s.podCheck 0 ((pageAt (2 ^ 50) open_).pa 0x200) 0).1 = true := by decide +kernel

/-- A misaligned image; a ring of two with none and with one record, which have room; and a full one. -/
theorem wit_LaunchAppends :
    (MetBy (streaming 1 0 1) ctx [(.launch 68 9 0, 0, [], [4, 5])] ∧ (theWave (streaming 1 0 1)).memFree ∧
      (theWave (streaming 1 0 1)).opA64 0 68 % 128 ≠ 0) ∧
    ∀ tail ∈ [0, 1, 2],
      let s := streaming 1 tail 0x200
      let t := s.stream (s.partOf wr) 9
      MetBy s ctx [(.launch 68 9 0, 0, [], [4, 5])] ∧ (theWave s).memFree ∧ (theWave s).opA64 0 68 = 0x200 ∧
      s.checkAccess (s.coreOf wr) (s.partOf wr) (s.spaceOf wr) 0x200 .read = (.ok (pageAt 0 open_), s) ∧
      s.checkAccess (s.coreOf wr) (s.partOf wr) t.space t.pair .write = (.ok (pageAt 0 open_), s) ∧
      t.ringPages = [0x400] ∧ s.launchRing ctx (ctx.t (theWave s) 0) t.space [0x400] = (true, s) ∧
      t.orderOk = true ∧ t.error = false ∧ s.homeNat (s.partOf wr) 0x300 8 = tail ∧ s.homeNat (s.partOf wr) 0x308 8 = 0 ∧
      s.checkAccess (s.coreOf wr) (s.partOf wr) t.space (t.ring + 128 * (tail % 2)) .write = (.ok (pageAt 0 open_), s) ∧
      t.reserved = 0 := by
  refine ⟨⟨met_of (by decide +kernel), memFree_of (by decide +kernel), by decide +kernel⟩, fun tail h => ?_⟩
  fin_cases h <;> refine ⟨met_of ?_, memFree_of ?_, ?_, check_cached ?_ ?_ ?_ ?_ ?_, check_cached ?_ ?_ ?_ ?_ ?_, ?_,
    ring_one (e := pageAt 0 open_) (check_cached ?_ ?_ ?_ ?_ ?_) ?_, ?_, ?_, ?_, ?_, check_cached ?_ ?_ ?_ ?_ ?_, ?_⟩ <;> decide +kernel

/-! ### The scratchpad -/

/-- A state in which v2 of each lane holds a word. -/
def offsets (s : State) (f : Nat → Nat) : State :=
  s.modWave wr (fun w => { w with lanes := mapIdx' (fun l x => x.writeV 2 (BitVec.ofNat 32 (f l))) w.lanes })

/-- A state with its block changed. -/
abbrev blocked (s : State) (f : Block → Block) : State := s.modBlock 1 f

/-- The loads and the stores of the scratchpad, at an offset of v2. -/
def padOps (q : BitVec 2) (g : BitVec 4) : Cases :=
  [(.ldsB32 1 2 0 q g, g, [2, 1], []), (.ldsB64 62 2 0 q g, g, [2, 62, 63], []), (.ldsB128 60 2 0 q g, g, [2, 60, 61, 62, 63], []),
   (.stsB32 1 2 0 q g, g, [2, 1], []), (.stsB64 62 2 0 q g, g, [2, 62, 63], []), (.stsB128 60 2 0 q g, g, [2, 60, 61, 62, 63], [])]

/-- What the statements about the scratchpad assume of the wave: its block, its launch, no acquire and no wait group. -/
def padB (s : State) : Bool :=
  s.curIssue.isSome && (match s.block? 1, s.launchOf wr with | some _, some la => la.record.scratch == 4096 | _, _ => false) &&
    (theWave s).acquires.isEmpty && (theWave s).groups.all (fun y => !y.delivers) && decide ((theWave s).ocMem < 15)

/-- The block of the wave. -/
def blk (s : State) : Block := (s.block? 1).getD (Block.atLaunch placedRecord 1 0 0 0 0 0 0 0)

/-- Lanes that end at the allocation's last byte, all granules full; one lane at an empty granule; one at a misaligned offset; one past the
allocation. -/
theorem wit_ScratchpadLoads :
    (let s := offsets one (fun l => 4080 - 16 * l)
     MetBy s ctx (padOps 2 0) ∧ padB s = true ∧ ∀ l ∈ ctx.t (theWave s) 0, ∀ n ∈ [1, 2, 4],
       ((theWave s).reg l 2).toNat % (4 * n) = 0 ∧ ((theWave s).reg l 2).toNat + 4 * n ≤ 4096 ∧
       (blk s).granuleFull (((theWave s).reg l 2).toNat / 16) = true ∧ ((theWave s).reg l 2).toNat / 16 ∉ (blk s).poisonG) ∧
    (∀ p ∈ [(0, 4), (2, 4), (4096, 16)],
      let s := blocked (offsets solo (fun _ => p.1)) (fun k => { k with feEmpty := [0] })
      MetBy s ctx (padOps 1 1) ∧ padB s = true ∧ ctx.t (theWave s) 1 = [0] ∧ (blk s).granuleFull 0 = false ∧
        ((theWave s).reg 0 2).toNat = p.1) := by
  refine ⟨⟨met_of (by decide +kernel), by decide +kernel, by decide +kernel⟩, fun p hp => ?_⟩
  fin_cases hp <;> exact ⟨met_of (by decide +kernel), by decide +kernel⟩

/-- Lanes that store at their own offsets, and `.wesf` lanes of which all granules are empty; one lane whose granule is full; `fe` over two
granules of each lane. -/
theorem wit_ScratchpadStores :
    (∀ e ∈ [[], upTo 256], let s := blocked (offsets one (fun l => 16 * l)) (fun k => { k with feEmpty := e, poisonG := [0] })
      let q : BitVec 2 := if e = [] then 0 else 2
      MetBy s ctx (padOps q 0) ∧ padB s = true ∧ cellsWf 0 (blk s).scratch = true ∧ ∀ l ∈ ctx.t (theWave s) 0,
        (q = 2 → (blk s).granuleFull (((theWave s).reg l 2).toNat / 16) = false) ∧ ((theWave s).reg l 2).toNat = 16 * l) ∧
    (let s := offsets solo (fun _ => 0)
     MetBy s ctx (padOps 2 1) ∧ padB s = true ∧ ctx.t (theWave s) 1 = [0] ∧ (blk s).granuleFull 0 = true) ∧
    (let s := pointing one (fun l => 32 * l + 2 ^ 32 * 32)
     MetBy s ctx [(.fe 3 2 1 0, 0, [2, 3], []), (.fe 3 2 0 0, 0, [2, 3], [])] ∧ padB s = true ∧ ∀ l ∈ ctx.t (theWave s) 0,
       ((theWave s).reg l 2).toNat = 32 * l ∧ ((theWave s).reg l 3).toNat = 32) := by
  refine ⟨fun e he => ?_, ⟨met_of (by decide +kernel), by decide +kernel⟩, ⟨met_of (by decide +kernel), by decide +kernel⟩⟩
  fin_cases he <;> exact ⟨met_of (by decide +kernel), by decide +kernel⟩

/-- Each sub-operation on one lane; messages of all lanes to rank 0, and of one lane to a rank that the cluster does not have. -/
theorem wit_ScratchpadAtomics :
    (let s := offsets solo (fun _ => 4092)
     (∀ q : BitVec 2, MetBy s ctx ((upTo 11).map (fun o => (.satom 0 2 (BitVec.ofNat 4 o) q 1, 1, [2, 0, 1], [])))) ∧ padB s = true ∧
       cellsWf 0 (blk s).scratch = true ∧ ctx.t (theWave s) 1 = [0] ∧ ((theWave s).reg 0 2).toNat = 4092 ∧
       s.writesMade wr 0 s.next = true) ∧
    (let s := pointing one (fun l => 4 * l)
     (∀ q : BitVec 2, MetBy s ctx ((upTo 11).map (fun o => (.ratom 0 2 (BitVec.ofNat 4 o) q 0, 0, [2, 3, 0, 1], [])))) ∧ padB s = true ∧
       ∀ l ∈ ctx.t (theWave s) 0, (s.clusterBlock wr ((theWave s).reg l 3).toNat).isSome = true ∧ ((theWave s).reg l 2).toNat = 4 * l) ∧
    (let s := pointing solo (fun _ => 2 ^ 32)
     MetBy s ctx [(.ratom 0 2 0 1 1, 1, [2, 3, 0, 1], [])] ∧ padB s = true ∧ ctx.t (theWave s) 1 = [0] ∧
       ((theWave s).reg 0 2).toNat = 0 ∧ s.clusterBlock wr ((theWave s).reg 0 3).toNat = none) := by
  refine ⟨⟨fun q => met_of ?_, by decide +kernel⟩, ⟨fun q => met_of ?_, by decide +kernel⟩,
    ⟨met_of (by decide +kernel), by decide +kernel⟩⟩ <;> (revert q; decide +kernel)

/-- `one` whose v0:v3 of every lane hold a queue's words, with queue 15 of its block as given. -/
def queued (v0 v1 v2 v3 : Nat) (x : Queue) : State :=
  blocked (one.modWave wr (fun w => w.modLanes (upTo 8) (fun y =>
    ((((y.writeV 0 (BitVec.ofNat 32 v0)).writeV 1 (BitVec.ofNat 32 v1)).writeV 2 (BitVec.ofNat 32 v2)).writeV 3 (BitVec.ofNat 32 v3)))))
    (fun k => { k with queues := setAt k.queues 15 x })

/-- A queue of two slots of 32 bytes whose producer is wave 0. -/
def queueOf (filled allow : Nat) : Queue := ⟨0, 2, 32, 1, 2, 0, filled % 2, filled, [allow], [0, 0]⟩

/-- A queue that is not configured. -/
def noQueue : Queue := ⟨0, 0, 0, 0, 0, 0, 0, 0, [0], []⟩

theorem wit_NamedQueues :
    (∀ p ∈ [(8, 1), (4064, 1)], let s := queued p.1 (2 ^ 16 + 2) 16 p.2 noQueue
      MetBy s ctx [(.qcfg 0 15 0, 0, rangeFrom 0 4, []), (.qpush 0 15 0, 0, [0], []), (.qpop 0 15 0, 0, [0], [])] ∧ padB s = true ∧
      (blk s).queues[15]? = some noQueue ∧ (ctx.t (theWave s) 0).headD 0 = 0 ∧ (rangeFrom 0 4).map (fun i => ((theWave s).reg 0 i).toNat) =
        [p.1, 2 ^ 16 + 2, 16, 1] ∧ 4064 + 2 * 16 ≤ 4096 ∧ 1 * popCount 32 1 ≤ 2 ∧ 16 ≤ 4 * (theWave s).width ∧
        1 < 2 ^ (blk s).waves.length ∧ (blk s).waitsQueue 15 = false) ∧
    (∀ p ∈ [(0, 2), (1, 1), (2, 0)], let s := queued 7 0 0 0 (queueOf p.1 p.2)
      MetBy s ctx [(.qpush 0 15 0, 0, [0], []), (.qpop 0 15 0, 0, [0], [])] ∧ padB s = true ∧ (blk s).queues[15]? = some (queueOf p.1 p.2) ∧
      (queueOf p.1 p.2).producers.testBit 0 = true ∧ (queueOf p.1 p.2).size % 16 = 0 ∧ (ctx.t (theWave s) 0).Nodup ∧
      cellsWf 0 (blk s).scratch = true) := by
  refine ⟨fun p hp => ?_, fun p hp => ?_⟩ <;> fin_cases hp <;>
    exact ⟨met_of (by decide +kernel), by decide +kernel⟩

/-- Lanes that all watch the word at address 8. -/
theorem wit_WaitForMemory : let s := mappedIn (pointing one (fun _ => 8)) (pageAt 0 open_)
    MetBy s ctx [(.waituEqNe 0 2 4 0 0 1 0, 0, [0, 2, 3], []), (.waituSgeSlt 0 2 4 1 1 0 0, 0, [0, 1, 2, 3], []),
      (.waituNgeNlt 0 2 4 2 0 0 0, 0, [0, 2, 3], []), (.waituAnyAll 62 2 4 3 1 1 0, 0, [62, 63, 2, 3], []),
      (.waituChgUpd 63 2 4 0 0 1 0, 0, [63, 2, 3], [])] ∧ padB s = true ∧ (theWave s).groups.length < 64 ∧
    (∀ n ∈ [4, 8], let v := (s.admitLanes ctx n .read none (fun l => ((theWave s).reg l 2).toNat + 2 ^ 32 * ((theWave s).reg l 3).toNat)
        (ctx.t (theWave s) 0)).1
      v.map (·.lane) = ctx.t (theWave s) 0 ∧ ∀ x ∈ v, x.va = 8) ∧
    ∀ l ∈ ctx.t (theWave s) 0, ∀ r ∈ [0, 1, 62, 63], (theWave s).reg l r = 0 := by
  refine ⟨met_of (by decide +kernel), by decide +kernel, by decide +kernel, fun n hn => ?_, by decide +kernel⟩
  fin_cases hn <;> exact ⟨by decide +kernel, by decide +kernel⟩

/-! ### Engine commands -/

/-- A scratchpad tensor of four rows of four FP32 elements, at a base. -/
def square (base : Nat) : Desc := ⟨base, 0, [4, 4, 1, 1], [16, 0, 0], [4, 4, 1, 1], 0, 0, false, true, 2, 0⟩

/-- 32 FP32 elements at 128 of scratchpad. -/
def floats : Desc := ⟨128, 0, [32, 1, 1, 1], [0, 0, 0], [32, 1, 1, 1], 0, 0, false, true, 1, 0⟩

/-- A block of 32 FP8 elements at 512 of scratchpad, its scale at 1024. -/
def mxVector : Desc := ⟨512, 1024, [32, 1, 1, 1], [0, 0, 0], [32, 1, 1, 1], 4, 1, true, true, 1, 0⟩

/-- `one` with descriptors in registers 0 to 4 of its block; the fourth square begins where the allocation ends. -/
def tensored : State := blocked one (fun k => { k with
  desc := [some (square 0), some (square 64), some floats, some mxVector, some (square 4096)] ++ List.replicate 11 none })

/-- What a copy command's statement assumes of its descriptors: the format check, MX origins, and the boxes. -/
def boxesB (s : State) (op : Nat) (o : EngOpts) (D S : Desc) : Bool :=
  let w := theWave s
  let v := w.groupVals (ctx.t w 0) 0 (copyRegs op 0 D S)
  let e := s.newEng ctx s.next .compositor op o (some D) (if op = 6 then none else some S) v (ctx.t w 0) []
  let e := if op = 7 then { e with coords := v ++ (rangeFrom 0 (D.box 1)).map (fun y => (blk s).scratchNat (v.getD 5 0 + 4 * y) 4) } else e
  copyFormatOk op o D S && (D.misplaced (v.take 4)).isNone && (S.misplaced (v.drop 4)).isNone &&
    (match s.boxChecks e.core e.part e.space (s.scratchSize wr) (e.copyBoxes D S) with
     | (.ok _, u) => decide (u.copiesOn e.core < 64)
     | _ => false)

/-- Each copy command on descriptors that pass; one with an unloaded descriptor, with formats that do not match, past the allocation. -/
theorem wit_CopyCommands :
    MetBy tensored ctx [(.cpy 1 0 0 1 1 0 0, 0, rangeFrom 0 8, []), (.cpyq 3 2 0 0 1 1 0 0 0 0 1 0 0, 0, rangeFrom 0 8, []),
      (.cpyd 2 3 0 0 0 0 0 0 0 0 0 0, 0, rangeFrom 0 8, []), (.cpyt 1 0 0 0 0 1 0 0 0 0 0 0 0, 0, rangeFrom 0 8, []),
      (.cpyr 1 0 0 0 0 0 5 0, 0, rangeFrom 0 8, []), (.cpyf 1 0 0 0 0 0 0 0 0 0 0, 0, rangeFrom 0 8, []),
      (.cpyg 1 0 0 0 0 1 0, 0, rangeFrom 0 8, []), (.cpys 7 1 0, 0, rangeFrom 56 8, []), (.cpy 15 0 0 0 0 0 0, 0, rangeFrom 0 8, []),
      (.cpyd 1 0 0 0 0 0 0 0 0 0 0 0, 0, rangeFrom 0 8, [])] ∧ padB tensored = true ∧ (theWave tensored).ocCpy < 15 ∧
    isHandler ctx.r = false ∧
    (∀ l ∈ ctx.t (theWave tensored) 0, ∀ r ∈ rangeFrom 0 8, (theWave tensored).reg l r = 0) ∧
    (boxesB tensored 1 { sf := true } (square 64) (square 0) && boxesB tensored 2 { sat := true } mxVector floats &&
      boxesB tensored 3 {} floats mxVector && boxesB tensored 4 {} (square 64) (square 0) &&
      boxesB tensored 5 { exp := 5 } (square 64) (square 0) && boxesB tensored 6 {} (square 64) (square 64) &&
      boxesB tensored 7 { wf := true } (square 64) (square 0)) = true ∧
    (∀ y < 4, (blk tensored).granuleFull y = true) ∧
    tensored.descOf ctx.r 15 = none ∧ copyFormatOk 3 {} (square 64) (square 0) = false ∧
    (∃ u, tensored.boxChecks 0 0 0 (tensored.scratchSize wr)
      ((tensored.newEng ctx tensored.next .compositor 1 {} (some (square 4096)) (some (square 0)) [] [] []).copyBoxes (square 4096) (square 0)) =
      (.error (0x0B, 0, 4096), u)) := by
  refine ⟨met_of (by decide +kernel), by decide +kernel, by decide +kernel, rfl, by decide +kernel, by decide +kernel, by decide +kernel,
    by decide +kernel, by decide +kernel, _, rfl⟩

/-- `tensored` whose register n of each lane holds a word. -/
def tensoredAt (n : Nat) (f : Nat → Nat) : State :=
  tensored.modWave wr (fun w => { w with lanes := mapIdx' (fun l x => x.writeV n (BitVec.ofNat 32 (f l))) w.lanes })

/-- The values of a copy command's coordinate group. -/
def copyVals (s : State) (op : Nat) (D S : Desc) : List Nat := (theWave s).groupVals (ctx.t (theWave s) 0) 0 (copyRegs op 0 D S)

/-- The later checks of the copy commands: lanes that differ under `.u`, a misplaced MX origin, an index offset that is not a multiple of
four, one past the allocation, an index list at an empty granule; a full Compositor. -/
theorem wit_CopyCommandChecks :
    (let s := tensoredAt 0 (fun l => l)
     MetBy s ctx [(.cpy 1 0 0 0 1 0 0, 0, rangeFrom 0 8, []), (.cpyf 1 0 0 0 1 0 0 0 0 0 0, 0, rangeFrom 0 8, [])] ∧ padB s = true ∧
       ∃ n ∈ copyRegs 1 0 (square 64) (square 0), ∃ m ∈ ctx.t (theWave s) 0, (theWave s).reg m n ≠ (theWave s).reg 0 n) ∧
    (let s := tensoredAt 0 (fun _ => 1)
     MetBy s ctx [(.cpyq 3 2 0 0 0 0 0 0 0 0 0 0 0, 0, rangeFrom 0 8, []), (.cpyf 3 0 0 0 0 0 0 0 0 0 0, 0, rangeFrom 0 8, [])] ∧ padB s = true ∧
       copyFormatOk 2 {} mxVector floats = true ∧ copyFormatOk 6 {} mxVector mxVector = true ∧
       (mxVector.misplaced ((copyVals s 2 mxVector floats).take 4)).isSome = true ∧
       (mxVector.misplaced ((copyVals s 6 mxVector mxVector).take 4)).isSome = true) ∧
    (∀ p ∈ [(2, []), (4092, []), (0, [0])], let s := blocked (tensoredAt 5 (fun _ => p.1)) (fun k => { k with feEmpty := p.2 })
     MetBy s ctx [(.cpyg 1 0 0 0 0 1 0, 0, rangeFrom 0 8, [])] ∧ padB s = true ∧ copyFormatOk 7 { wf := true } (square 64) (square 0) = true ∧
       (copyVals s 7 (square 64) (square 0)).getD 5 0 = p.1 ∧ (square 64).box 1 = 4 ∧
       ((blk s).granuleFull 0 = decide (p.2 = []))) ∧
    (let s := { tensored with engOps := List.replicate 64 (tensored.newEng ctx 9 .compositor 6 {} none none [] [] []) }
     MetBy s ctx [(.cpys 7 1 0, 0, rangeFrom 56 8, []), (.cpy 1 0 0 0 0 0 0, 0, rangeFrom 0 8, [])] ∧ padB s = true ∧
       64 ≤ s.copiesOn (s.coreOf wr)) := by
  refine ⟨⟨met_of (by decide +kernel), by decide +kernel, by decide +kernel⟩, ⟨met_of (by decide +kernel), by decide +kernel⟩,
    fun p hp => ?_, ⟨met_of (by decide +kernel), by decide +kernel⟩⟩
  fin_cases hp <;> exact ⟨met_of (by decide +kernel), by decide +kernel⟩

/-- An FP64 operand of sixteen columns of which one row is in bounds. -/
def wideTile (rows : Nat) : Desc := ⟨0, 0, [16, 1, 1, 1], [128, 0, 0], [16, rows, 1, 1], 3, 0, false, true, 2, 0⟩

/-- An FP8 operand of 256 columns of which one row is in bounds. -/
def mxTile (block rows : Nat) : Desc := ⟨0, 2048, [256, 1, 1, 1], [256, 0, 0], [256, rows, 1, 1], 4, block, true, true, 2, 0⟩

/-- An operand of 32-bit integers. -/
def integers : Desc := { square 0 with elem := 10 }

/-- `one` with these descriptors and a square in registers 0 to 5, quire 7 as given, and the coordinate group of every lane. -/
def matrices (q : Quire) (coords : List Nat) : State :=
  (blocked one (fun k => { k with
    desc := [some (wideTile 128), some (wideTile 64), some (mxTile 1 128), some (mxTile 3 128), some (square 0), some integers] ++
      List.replicate 10 none
    quires := setAt k.quires 7 q })).modWave wr (fun w =>
      { w.modLanes (upTo 8) (fun x => foldIdx (fun x i v => x.writeV i (BitVec.ofNat 32 v)) x 0 coords) with awLimit := 128 })

/-- What the statement about the Platen assumes of the wave. -/
def mtxB (s : State) : Bool := padB s && decide ((theWave s).ocMtx < 15) && cellsWf 0 (blk s).acc

/-- An open quire of one wave, of two, an unset one, and one with a signer. -/
def quireOf (n : Nat) (signers : List Nat) : Quire := ⟨n, none, signers.map (fun j => ⟨j, [0], 0, 0, 0⟩)⟩

theorem wit_AccumulatorInstructions :
    (∀ q ∈ [quireOf 0 [], quireOf 1 [], quireOf 2 [], quireOf 2 [0]], let s := matrices q [0, 0, 0, 0]
      MetBy s ctx [(.qinit 7 0 0, 0, [], []), (.qinit 7 1 0, 0, [], []), (.mma 0 1 0 0 7 0 0 0 0 0 0, 0, rangeFrom 0 8, [])] ∧
      mtxB s = true ∧ (blk s).quires.getD 7 ⟨0, none, []⟩ = q ∧ (blk s).waves.length = 1 ∧
      (theWave s).signatureFault false (wideTile 128) (wideTile 64) ((theWave s).groupVals (ctx.t (theWave s) 0) 0 (rangeFrom 0 6)) 4096 = none) ∧
    (∀ q ∈ [quireOf 1 [], quireOf 2 []], let s := matrices q [0, 0, 0, 128]
      MetBy s ctx [(.mmaa 2 3 0 0 7 0 0 0 0 0 0, 0, rangeFrom 0 8, [])] ∧ mtxB s = true ∧
      (theWave s).signatureFault true (mxTile 1 128) (mxTile 3 128) ((theWave s).groupVals (ctx.t (theWave s) 0) 0 (rangeFrom 0 6)) 4096 =
        none) ∧
    (∀ v ∈ [[0, 0, 0, 4], [127, 2, 0, 4], [126, 2, 508, 4]], let s := matrices (quireOf 0 []) v
      MetBy s ctx [(.aclr 0 0 0, 0, rangeFrom 0 8, []), (.aclr 0 1 0, 0, rangeFrom 0 8, [])] ∧ mtxB s = true ∧
      (rangeFrom 0 4).map (fun i => ((theWave s).reg 0 i).toNat) = v ∧ (theWave s).awBase = 0 ∧ (theWave s).awLimit = 128 ∧
      s.rowsBusy ctx.r [(126, 2)] = false) ∧
    (let s := offsets (one.modWave wr (fun w => { w with awLimit := 128 })) (fun l => 8 * l)
     MetBy s ctx [(.ald 8 113 2 2 0, 0, 2 :: rangeFrom 8 4, []), (.ast 8 113 2 2 0, 0, 2 :: rangeFrom 8 4, []),
       (.ald 8 113 2 0 0, 0, [2, 8], []), (.ast 8 113 2 0 0, 0, [2, 8], [])] ∧ mtxB s = true ∧ (blk s).accBad = [] ∧
       (∀ l ∈ ctx.t (theWave s) 0, ((theWave s).opA l 113).toNat = 1 ∧ ((theWave s).reg l 2).toNat = 8 * l) ∧
       s.rowsBusy ctx.r ((ctx.t (theWave s) 0).map (fun _ => (1, 1))) = false) ∧
    (∀ v ∈ [8 + 2 ^ 16 * 16, 8 + 2 ^ 16 * 4, 2 ^ 16 * 129], let s := offsets one (fun _ => v)
      MetBy s ctx [(.setaw 112 2 0, 0, [2], []), (.setaw 119 2 0, 0, [2], [])] ∧ mtxB s = true ∧ ((theWave s).reg 0 2).toNat = v ∧
        ((theWave s).opA 0 112).toNat = 0) ∧
    (let c : Ctx := { ctx with r := .blk 1 1 }
     let s := { duo id with issues := [⟨2, 0, 0, [(.blk 1 1, upTo 8)], [(.blk 1 1, upTo 8)], false, 0, 1, 5, 0, false, [0], 1⟩] }
     MetBy s c [(.setaw 112 2 0, 0, [2], [])] ∧ (s.launchOf c.r).isSome = true ∧ (s.block? 1).isSome = true) ∧
    (let s := matrices (quireOf 0 []) []
     let w := theWave s
     MetBy s ctx [(.acpy 4 0 0 0 0 0 0 0 0 0 0 0, 0, rangeFrom 0 8, []), (.acpy 0 4 0 0 1 0 0 0 0 0 1 0, 0, rangeFrom 0 8, []),
       (.acpy 5 0 0 0 0 0 0 0 0 0 0 0, 0, rangeFrom 0 8, [])] ∧ mtxB s = true ∧ (∀ l ∈ ctx.t w 0, ∀ r ∈ rangeFrom 0 8, w.reg l r = 0) ∧
       s.descOf ctx.r 4 = some (square 0) ∧ s.descOf ctx.r 5 = some integers ∧ acpyFormatOk {} integers = false ∧
       ∀ i ∈ [true, false], let o : EngOpts := { dirIn := i }
         let e := s.newEng ctx s.next .platen 6 o none none (List.replicate 8 0) (ctx.t w 0) []
         acpyFormatOk o (square 0) = true ∧
           (match s.boxChecks e.core e.part e.space (s.scratchSize wr) [⟨square 0, e.acpyPlace (square 0), (square 0).items, !i⟩] with
            | (.ok _, _) => true
            | _ => false) = true) := by
  refine ⟨fun q hq => ?_, fun q hq => ?_, fun v hv => ?_, ⟨met_of (by decide +kernel), by decide +kernel⟩, fun v hv => ?_,
    ⟨met_of (by decide +kernel), by decide +kernel⟩, ⟨met_of (by decide +kernel), by decide +kernel⟩⟩
  · fin_cases hq <;> exact ⟨met_of (by decide +kernel), by decide +kernel⟩
  · fin_cases hq <;> exact ⟨met_of (by decide +kernel), by decide +kernel⟩
  · fin_cases hv <;> exact ⟨met_of (by decide +kernel), by decide +kernel⟩
  · fin_cases hv <;> exact ⟨met_of (by decide +kernel), by decide +kernel⟩

/-- A state with an accumulator copy in flight whose rows begin at the given one. -/
def busyAt (s : State) (row : Nat) : State :=
  { s with engOps := [s.newEng ctx 99 .platen 6 {} (some (square 0)) none [row, 0, 0, 0, 0, 0] [] []], next := s.next + 100 }

/-- Lanes whose columns are every second one, with a window of the given rows. -/
def strided (rows : Nat) : State := offsets (one.modWave wr (fun w => { w with awLimit := rows })) (fun l => 2 * l)

/-- The other paths of the accumulator instructions: a signature that is not the record's, one whose descriptors or place fail; a region
that lanes give differently, and busy rows; columns that are misaligned in some lanes, outside the window, or busy; accumulator copies with
a descriptor that is not loaded, or a region outside the window. -/
theorem wit_AccumulatorChecks :
    (let q : Quire := ⟨2, some ⟨true, 0, 1, 0, []⟩, [⟨1, [0], 0, 0, 0⟩]⟩
     let s := matrices q [0, 0, 0, 0]
     MetBy s ctx [(.mma 0 1 0 0 7 0 0 0 0 0 0, 0, rangeFrom 0 8, [])] ∧ mtxB s = true ∧ (blk s).quires.getD 7 ⟨0, none, []⟩ = q) ∧
    (∀ p ∈ [([1, 0, 0, 0], some (0x06, some 0)), ([0, 64, 0, 0], some (0x0A, none))], let s := matrices (quireOf 1 []) p.1
     MetBy s ctx [(.mma 0 1 0 0 7 0 0 0 0 0 0, 0, rangeFrom 0 8, []), (.mma 15 1 0 0 7 0 0 0 0 0 0, 0, rangeFrom 0 8, [])] ∧
       mtxB s = true ∧ s.descOf ctx.r 15 = none ∧
       (theWave s).signatureFault false (wideTile 128) (wideTile 64) ((theWave s).groupVals (ctx.t (theWave s) 0) 0
         (matrixRegs false 0 (wideTile 128) (wideTile 64))) 4096 = p.2) ∧
    (let s := offsets (matrices (quireOf 0 []) [126, 2, 508, 4]) (fun l => l)
     MetBy s ctx [(.aclr 0 1 0, 0, rangeFrom 0 8, [])] ∧ mtxB s = true ∧ (theWave s).reg 1 2 ≠ (theWave s).reg 0 2) ∧
    (let s := busyAt (matrices (quireOf 0 []) [126, 2, 508, 4]) 124
     MetBy s ctx [(.aclr 0 0 0, 0, rangeFrom 0 8, [])] ∧ mtxB s = true ∧ s.rowsBusy ctx.r [(126, 2)] = true) ∧
    (∀ s ∈ [strided 128, strided 1, busyAt (strided 128) 0],
     MetBy s ctx [(.ald 8 113 2 2 0, 0, 2 :: rangeFrom 8 4, []), (.ast 8 113 2 2 0, 0, 2 :: rangeFrom 8 4, [])] ∧ mtxB s = true ∧
       (ctx.t (theWave s) 0).filter (fun l => decide (((theWave s).reg l 2).toNat % 4 = 0)) = [0, 2, 4, 6]) ∧
    (busyAt (strided 128) 0).rowsBusy ctx.r [(1, 1)] = true ∧ (strided 128).rowsBusy ctx.r [(1, 1)] = false ∧
    (let s := matrices (quireOf 0 []) [0, 509, 0, 0]
     MetBy s ctx [(.acpy 4 0 0 0 0 0 0 0 0 0 0 0, 0, rangeFrom 0 8, []), (.acpy 15 0 0 0 0 0 0 0 0 0 0 0, 0, rangeFrom 0 8, [])] ∧
       mtxB s = true ∧ s.descOf ctx.r 15 = none ∧ s.descOf ctx.r 4 = some (square 0) ∧ ((theWave s).reg 0 1).toNat + (square 0).box 0 = 513) := by
  refine ⟨⟨met_of (by decide +kernel), by decide +kernel⟩, fun p hp => ?_, ⟨met_of (by decide +kernel), by decide +kernel⟩,
    ⟨met_of (by decide +kernel), by decide +kernel⟩, fun s hs => ?_, by decide +kernel, by decide +kernel,
    ⟨met_of (by decide +kernel), by decide +kernel⟩⟩
  · fin_cases hp <;> exact ⟨met_of (by decide +kernel), by decide +kernel⟩
  · fin_cases hs <;> exact ⟨met_of (by decide +kernel), by decide +kernel⟩

/-- A row of FP32 elements in memory at a base. -/
def row (n base : Nat) : Desc := ⟨base, 0, [n, 1, 1, 1], [0, 0, 0], [n, 1, 1, 1], 0, 0, false, false, 1, 0⟩

/-- `mapped` in a pod of two ranks that exports 1 MiB: rows in descriptor registers 0 to 3, the group of both ranks in group register 7, and
its image at 0x300, which s4:s5 name. -/
def podded (enable : Bool) : State :=
  { (blocked ((mapped.modPart 0 (fun p => { p with
      podCtl := if enable then 2 ^ 31 + 2 * 2 ^ 16 else 0, podExpSize := 2 ^ 20, podCache := [(0, 2 ^ 63), (1, 2 ^ 63)] })).modWave wr (fun w => w.setS 4 0x300)) (fun k => { k with
        desc := [some (row 256 0x1000), some (row 256 0x2000), some (row 128 0x1000), some (row 128 0x2000)] ++ List.replicate 12 none
        gps := List.replicate 7 none ++ [some ⟨[0, 1], 0, 5, []⟩] })) with
    mem := [(0x300, 2), (0x30A, 1)] }

/-- The collective commands with descriptors that fit, and their numbers. -/
def commands : List (Instr × Nat × Nat × Nat × EngOpts) :=
  [(.cput 0 1 0 1 7 0 0, 1, 0, 1, { sig := true }), (.cget 1 0 0 0 7 1 0, 2, 1, 0, {}), (.csig 0 7 0 0, 3, 0, 0, {}),
   (.cgath 0 3 0 1 7 0 0 0 0, 4, 0, 3, { sig := true }), (.crsc 2 1 0 0 7 0 2 1 0 0, 5, 2, 1, { wire := 2, acc16 := true }),
   (.card 0 1 0 0 7 0 1 0 1 0, 6, 0, 1, { wire := 1, round := 2 }), (.cbcst 0 1 0 1 7 0 0 0 0, 7, 0, 1, { sig := true })]

/-- What a collective command's statement assumes of its descriptors. -/
def chaferB (s : State) (op d e : Nat) (o : EngOpts) : Bool :=
  match s.descOf wr d, s.descOf wr e, s.podGroup wr 7 with
  | some D, some S, some y =>
    (op == 3 || (chaferFormatOk op 2 true D S && (if op = 2 then S else D).base % 128 == 0)) && decide (D.reach ≤ 2 ^ 20) &&
      y == ⟨[0, 1], 0, 5, []⟩ && !(o.sig && decide (2 ^ 20 < 16)) &&
      (match s.boxChecks 0 0 0 0 (if op = 3 then [] else chaferBoxes op true D S) with
       | (.ok _, u) => u.engOps.isEmpty
       | _ => false)
  | _, _, _ => false

/-- The commands with pod enable 1 and 0; an undefined group register and an unloaded descriptor. -/
theorem wit_CollectiveCommands :
    (∀ e ∈ [true, false], let s := podded e
      MetBy s ctx ((commands.map (fun p => (p.1, 0, rangeFrom 0 8, []))) ++ [(.cput 0 1 0 1 6 0 0, 0, rangeFrom 0 8, []),
        (.cput 0 15 0 1 7 0 0, 0, rangeFrom 0 8, []), (.csig 0 6 0 0, 0, rangeFrom 0 8, [])]) ∧ padB s = true ∧ (theWave s).ocCol < 15 ∧
      (s.part 0).podEnable = e ∧ s.podGroup wr 6 = none ∧ s.descOf wr 15 = none ∧
      (∀ l ∈ ctx.t (theWave s) 0, ∀ r ∈ rangeFrom 0 8, (theWave s).reg l r = 0) ∧
      ∀ p ∈ commands, chaferB s p.2.1 p.2.2.1 p.2.2.2.1 p.2.2.2.2 = true) ∧
    (∀ va ∈ [0x300, 0x304], let s := (podded true).modWave wr (fun w => w.setS 4 (BitVec.ofNat 32 va))
      MetBy s ctx [(.cgrp 4 7 0, 0, [], [4, 5])] ∧ padB s = true ∧
        ((theWave s).sreg 4).toNat + 2 ^ 32 * ((theWave s).sreg 5).toNat = va) ∧
    (let s := podded true
     let ps := [pageAt 0 open_]
     let lines := pagedLines 0 0 ps 0x300
     let v := (s.takeImage 0 0 0 ps 0x300 12).getD s
     s.admitRun 0 0 0 0x300 8 [] = (.ok ps, s) ∧ s.admitRun 0 0 0 0x300 12 ps = (.ok ps, s) ∧
       State.imageLines 0 0 (lines 8) s = (.ok true, s) ∧ State.imageLines 0 0 (lines 12) s = (.ok true, s) ∧
       (∀ l ∈ lines 12, s.writeOpen 0 0 (true, l.1) (wr, s.next) = false ∧ (!isPod (128 * l.1) && (v.homeLine 0 l.1).2.2) = false) ∧
       (s.takeImage 0 0 0 ps 0x300 8).isSome = true ∧ (s.takeImage 0 0 0 ps 0x300 12).isSome = true ∧
       (starved s).takeImage 0 0 0 ps 0x300 12 = none ∧
       ofBytesLE ((s.readPaged 0 0 0 ps 0x300 8).take 4) = 2 ∧ ofBytesLE ((s.readPaged 0 0 0 ps 0x300 8).drop 4) = 0 ∧
       (rangeFrom 0 2).map (fun y => ofBytesLE (((v.readPaged 0 0 0 ps 0x300 (10 + 2 * y)).drop (8 + 2 * y)).take 2)) = [0, 1] ∧
       hasRepeat [0, 1] = false ∧ ((v.dropPodCode 0).part 0).podRank ∈ [0, 1] ∧ (v.dropPodCode 0).groupBusy wr 7 = false ∧
       ((v.dropPodCode 0).part 0).podEnable = true ∧ ((v.dropPodCode 0).ranksValid 0 [0, 1]).1 = true) := by
  refine ⟨fun e he => ?_, fun va hv => ?_, rfl, rfl, ?_, ?_, ?_, ?_, ?_, ?_, ?_, ?_, ?_, ?_, ?_, ?_, ?_, ?_⟩
  · fin_cases he <;> exact ⟨met_of (by decide +kernel), by decide +kernel⟩
  · fin_cases hv <;> exact ⟨met_of (by decide +kernel), by decide +kernel⟩
  · rfl
  · rfl
  all_goals decide +kernel

/-! ### Operations that go on -/

/-- An operation of the wave, as issued, of one group. -/
def opOf (k : MemKind) (q : Nat) (g : OpGroup) : MemOp :=
  { id := 1, kind := k, wave := wr, core := 0, part := 0, space := 0, launch := 0, scope := 1, qual := q, acquire := false, release := false
    relDone := false, vpc := 0, slot := 0, groups := [g], completion := 0, counted := true, ended := false, groupNo := 0 }

/-- A group of lane 3, whose word at 0x204 goes to v5. -/
def groupOf3 (data swap : Nat) : OpGroup := .open_ 4 .plain [⟨3, 0x204, 0x204, 4, data, swap, [5]⟩]

/-- A home tag of line 4 over plate 9, dirty, its lease at 40. -/
def tag4 : Tag := ⟨.priv, 4, 0, some 9, true, false, false, 40, none, 0, false, false, 0, 0, []⟩

/-- `one` with one operation in flight, and the line at home where a tag is given. -/
def flying (o : MemOp) (t : List Tag) : State :=
  { one with
    memOps := [o]
    slices := modifyAt one.slices 0 (fun sl => { sl with
      tags := t, plates := if t = [] then [] else [(9, ⟨List.replicate 128 7, List.replicate 16 0, 1⟩)] }) }

/-- Whether a line is held alone at its home, in plate 9. -/
def heldB (s : State) (line : Nat) (t : Tag) : Bool :=
  s.homeOf 0 line == some 0 && (s.slice 0).homeTag line == some t && t.state != .blank && !t.poison && t.plate == some 9 &&
    (cellGet (⟨[], [], 0⟩ : Plate) (s.slice 0).plates 9).count == 1 && (s.homeLine 0 line).1.length == 128 &&
    (s.otherTags 0 line).isEmpty && s.entries.all (fun e => e.recs.isEmpty)

theorem held_of {s : State} {line : Nat} {t : Tag} (h : heldB s line t = true) : HeldAlone s 0 line 0 t := by
  simp only [heldB, Bool.and_eq_true, beq_iff_eq, bne_iff_ne, ne_eq, Bool.not_eq_true', List.isEmpty_iff, List.all_eq_true] at h
  obtain ⟨⟨⟨⟨⟨⟨⟨⟨h1, h2⟩, h3⟩, h4⟩, h5⟩, h6⟩, h7⟩, h8⟩, h9⟩ := h
  exact ⟨h1, h2, ⟨h3, h4, 9, h5, h6⟩, h7, h8, fun e he _ _ => h9 e he⟩

/-- A copy of line 4 in core 0's L1. -/
def copy4 : L1Line := ⟨0, 4, List.replicate 128 6, List.replicate 16 0, 10000, false⟩

theorem l1_of {s : State} {core : Nat} {x : L1Line} (h : (s.core core).l1 = [x]) (he : s.clock + 64 ≤ x.expiry) :
    s.l1Copy core x.part x.line = some x := by
  have hd := (Config.dieSkew (dieOfCore core)).isLt
  have : s.leaseNow (dieOfCore core) < x.expiry := by rw [State.leaseNow]; omega
  simp [State.l1Copy, h, this]

/-- The kinds that read. -/
def readers : List MemKind := [.load false, .load true, .loadMx, .sload 4, .tdset 2]

/-- A message of lane 3 to its own block's word at 8. -/
def messageOf : OpGroup := .open_ 3 .plain [⟨3, 8, 2 ^ 22 + 8, 4, 5, 6, [5]⟩]

/-- A core bucket of rate 1 and burst 4, with a level, which holds the operation. -/
def bucketed (level : Nat) : State :=
  let s := flying (opOf (.load false) 0 { groupOf3 0 0 with points := 8 }) []
  (s.modPart 0 (fun p => { p with bktCore := 1 + 4 * 2 ^ 32 })).modCore 0 (fun c => { c with bucket := ⟨level, 0⟩ })

/-- Tables that map the first 2 MiB of an enabled space 0. -/
def tabled (leaf : Byte) : State :=
  { (one.modPart 0 (fun p => { p with vf := { p.vf with aspRoot := setAt p.vf.aspRoot 0 (1 + 2 ^ 21) } })) with
    mem := [(0x200000, 1), (0x200002, 0x30), (0x300000, 1), (0x300002, 0x40), (0x400000, leaf)] }

/-- A copy in flight between squares of scratchpad. -/
def copying : EngOp :=
  { tensored.newEng ctx 1 .compositor 1 { sf := true } (some (square 64)) (some (square 0)) (List.replicate 8 0) (upTo 8) [] with waves := [(wr, 1)] }

/-- A fence held until its waits are over, and until its wave's clock has passed; a completion that must wait and one that is due. -/
theorem wit_LeaseWaitEnds :
    (let s := one.holdWave wr (.fence 1 1 0)
     (s.wave? wr).isSome = true ∧ (theWave s).holds = [.fence 1 1 0] ∧ s.fenceMade wr 1 1 0 = true ∧ fenceLeases 1 1 = true) ∧
    ∀ c ∈ [0, 100], ∀ p ∈ [none, some 5], let w : PendingWrite := ⟨7, 50, 0, p, []⟩
      let s : State := { one with pendingWrites := [w], clock := c }
      s.pendingWrites.find? (fun q => q.id == 7) = some w ∧ (c = 0 → s.leaseNow 0 ≤ 50) ∧ (c = 100 → 50 < s.leaseNow 0) := by
  have hd := (Config.dieSkew 0).isLt
  refine ⟨by decide +kernel, fun c hc p hp => ?_⟩
  fin_cases hc <;> fin_cases hp <;> refine ⟨by decide +kernel, fun h => ?_, fun h => ?_⟩ <;> first
    | exact absurd h (by decide)
    | (simp only [State.leaseNow]; omega)

theorem wit_MemoryPerforms :
    (isPod (128 * 4) = false ∧ (groupOf3 0 0).attr.scopeCheck = false ∧ isPod (128 * 3) = false ∧ messageOf.attr.scopeCheck = false) ∧
    (∀ k ∈ readers, let o := opOf k 0 (groupOf3 0 0)
      let s := (flying o []).modCore 0 (fun c => { c with l1 := [copy4] })
      s.memOp? 1 = some o ∧ (s.wave? wr).isSome = true ∧ o.groupAt 4 (fun h => !h.performed) = some (0, groupOf3 0 0) ∧ o.acquire = false ∧
      s.l1Copy 0 0 4 = some copy4 ∧ s.earlierOpen o (groupOf3 0 0) true = false) ∧
    (∀ k ∈ readers, ∀ q ∈ [0, 3], let o := opOf k q (groupOf3 0 0)
      let s := flying o [tag4]
      s.memOp? 1 = some o ∧ (s.wave? wr).isSome = true ∧ o.groupAt 4 (fun h => !h.performed) = some (0, groupOf3 0 0) ∧
      s.l1Copy 0 0 4 = none ∧ s.earlierOpen o (groupOf3 0 0) false = false ∧ s.coreStoreOpen 0 0 1 (groupOf3 0 0) = false ∧
      (∀ p ∈ s.groupPoints o (groupOf3 0 0), s.throttled p = false) ∧ s.homeOf 0 4 = some 0 ∧ (s.slice 0).homeTag 4 = some tag4) ∧
    (∀ p ∈ [false, true], let g := { groupOf3 0 0 with performed := true, poison := p, vals := [(3, 9)] }
      let o := opOf (.load false) 0 g
      let s := flying o []
      s.memOp? 1 = some o ∧ (s.wave? wr).isSome = true ∧ o.groupAt 4 (fun h => h.performed && !h.returned) = some (0, g) ∧
      (g.lanes.map (·.lane)).Nodup ∧ (∀ l ∈ g.lanes, l.dest.Nodup ∧ l.size ≠ 0 ∧ g.failed = none) ∧ o.groups = [g] ∧
      s.memOps.find? (fun p => p.wave == o.wave && p.counted) = some o ∧
      ∃ x, (theWave s).lanes[3]? = some x ∧ x.state = .active) ∧
    (∀ k ∈ [.store, .atomic 0 false true, .atomic 10 false false], let g := groupOf3 7 8
      let g := if k = MemKind.atomic 10 false false then groupOf3 0x07070707 8 else g
      let o := opOf k 0 g
      let s := flying o [tag4]
      s.memOp? 1 = some o ∧ (s.wave? wr).isSome = true ∧ o.groupAt 4 (fun h => !h.performed) = some (0, g) ∧ s.released o = true ∧
      s.writeOrdered o g = true ∧ (∀ p ∈ s.groupPoints o g, s.throttled p = false) ∧ HeldAlone s 0 4 0 tag4 ∧
      isFullLine (s.layoutAt 0 4 g.attr) g.writes g.scaleWrites = false ∧ s.homeNat 0 0x204 4 = 0x07070707 ∧
      (atomNew 0 false 0x07070707 7 8).isSome = true ∧ (atomNew 10 false 0x07070707 7 8) = none ∧ (atomNew 10 false 0x07070707 0x07070707 8).isSome = true) ∧
    (∀ sub ∈ [0, 10], let o := opOf (.ratom sub true) 0 messageOf
      let s := flying o []
      s.memOp? 1 = some o ∧ (s.wave? wr).isSome = true ∧ o.groupAt 3 (fun h => !h.performed) = some (0, messageOf) ∧
      s.released o = true ∧ (∀ l ∈ messageOf.lanes, s.ratomEarlier o l = false ∧ l.target = (1, 8)) ∧ (s.block? 1).isSome = true ∧
      (blk s).place = .resident ∧ cellsWf 0 (blk s).scratch = true ∧ (atomNew 0 false 0 5 6).isSome = true ∧
      atomNew 10 false 0 5 6 = none) ∧
    (let o := opOf (.load false) 0 (groupOf3 0 0)
     let s := flying o []
     o.groupAt 4 (fun h => !h.performed) = some (0, groupOf3 0 0) ∧ s.homeOf 0 4 = some 0 ∧ (s.slice 0).homeTag 4 = none ∧
     s.bankHolds 0 4 = false ∧ s.otherTags 0 4 = [] ∧ (s.slice 0).plates.length < 32768 ∧ (s.slice 0).tags.length < 65536 ∧ 0 < s.slices.length ∧
     o.groups.find? (fun h => h.line == 4) = some (groupOf3 0 0) ∧ codeSymbols .plain [] = [] ∧ (codeSymbols .plain [(0, 1)]).length = 1 ∧
     correctable false false 0 0 < (codeSymbols .plain [(0, 1), (1, 1), (2, 1)]).length) ∧
    (∀ level ∈ [1023, 2048], let g := { groupOf3 0 0 with points := 8 }
      let s := bucketed level
      let o := opOf (.load false) 0 g
      s.memOp? 1 = some o ∧ (s.wave? wr).isSome = true ∧ o.groupAt 4 (fun h => !h.performed && h.points.testBit 3) = some (0, g) ∧
      g.points.testBit 0 = false ∧ s.throttled (.core 0) = true ∧ s.heldBefore o (.core 0) = false ∧ o.payload g = 128) ∧
    ((∀ leaf ∈ [2, 3], (tabled leaf).cachedXlat 0 0 0 0x1000 = none) ∧ (mapped.cachedXlat 0 0 0 0x1000).isSome = true ∧
      (match (tabled 2).walk 0 0 0x1000 with | .error _ => true | .ok _ => false) = true ∧
      (match (tabled 3).walk 0 0 0x1000 with | .ok e => e.pbase == 0 | .error _ => false) = true) ∧
    (let s := { tensored with engOps := [copying] }
     (s.block? 1).isSome = true ∧ (s.launch? (blk s).launch).isSome = true ∧ (blk s).place = .resident ∧ (blk s).accBad = [] ∧
     ((([(0, 1)] : LineErrors).map (fun e => popCount 8 e.2.toNat)).sum = 1 ∧
       2 ≤ (([(0, 3)] : LineErrors).map (fun e => popCount 8 e.2.toNat)).sum) ∧
     s.engOp? 1 = some copying ∧ (s.block? copying.uid).isSome = true ∧ (false, 0) ∈ copying.sources ∧ copying.captured (false, 0) = none ∧
       s.engGoes copying = true ∧ s.readable copying (false, 0) = true) := by
  refine ⟨by decide, fun k hk => ?_, fun k hk q hq => ?_, fun p hp => ?_, fun k hk => ?_, fun sub hs => ?_, by decide +kernel, fun v hv => ?_,
    by decide +kernel, by decide +kernel⟩
  · fin_cases hk <;> exact ⟨by decide +kernel, by decide +kernel, by decide +kernel, rfl, l1_of (x := copy4) rfl (by decide +kernel), by decide +kernel⟩
  · fin_cases hk <;> fin_cases hq <;> decide +kernel
  · fin_cases hp <;> exact ⟨by decide +kernel, by decide +kernel, by decide +kernel, by decide +kernel, by decide +kernel, rfl,
      by decide +kernel, _, rfl, by decide +kernel⟩
  · fin_cases hk <;> exact ⟨by decide +kernel, by decide +kernel, by decide +kernel, by decide +kernel, by decide +kernel, by decide +kernel,
      held_of (by decide +kernel), by decide +kernel⟩
  · fin_cases hs <;> decide +kernel
  · fin_cases hv <;> decide +kernel

/-- A state with engine operations in flight. -/
abbrev engines (s : State) (es : List EngOp) : State := { s with engOps := es }

/-- What the statement about engines assumes of an operation of the wave. -/
def engB (s : State) (e : EngOp) : Bool :=
  s.engOp? e.id == some e && (s.wave? wr).isSome && (s.block? e.uid).isSome && !s.device.fenced && cellsWf 0 (blk s).scratch &&
    cellsWf 0 (blk s).acc

/-- A `cpys` in flight. -/
def statistics (clear : Bool) : EngOp :=
  { tensored.newEng ctx 1 .compositor 8 { sf := clear } none none [8] (upTo 8) [] with waves := [(wr, 1)] }

/-- A matrix operation in flight, started or not. -/
def multiplying (op : Nat) (a b : Desc) (started : Option Nat) (id : Nat) : EngOp :=
  { (matrices (quireOf 1 []) []).newEng ctx id .platen op {} (some a) (some b) (if op = 2 then [0, 0, 0, 128] else []) [] [] with
    waves := [(wr, id)], started := started }

/-- An FP16 operand of 128 columns of which one row is in bounds. -/
def halfTile : Desc := ⟨0, 0, [128, 1, 1, 1], [256, 0, 0], [128, 128, 1, 1], 1, 0, false, true, 2, 0⟩

/-- The ring state of a command in a group of three ranks, the next member ready or not. -/
def ringOf (target : Nat) (ready : Bool) : RingState := ⟨7, ⟨[0, 1, 2], 0, 5, []⟩, target, 8, 3, [], [], [], ready, [], 0⟩

/-- A command of Chafer in flight in a group of three ranks, with its stage and its ring state's target. -/
def ringing (op target stage : Nat) (failed : Option Nat) : EngOp :=
  { (podded true).newEng ctx 1 .chafer op {} (some (row 384 0x1000)) (some (row 128 0x2000)) [] (upTo 8) [] with
    waves := [(wr, 1)], stage := stage, failed := failed
    ring := some (ringOf target false) }

/-- The state of the pod in which such a command is in flight, its clock past the wave's writes or not. -/
def inPod (e : EngOp) (clock : Nat) : State :=
  { engines ((podded true).modPart 0 (fun p => { p with podCache := (upTo 3).map (fun i => (i, 2 ^ 63 + 2 ^ 61 + 2 ^ 60 + i * 2 ^ 48)) })) [e] with
    clock := clock }

theorem wit_EngineSteps :
    (∀ op ∈ [1, 6], let e := { copying with op := op }
      let s := engines tensored [e]
      engB s e = true ∧ e.stage = 0 ∧ s.unitsOpen e.id = false ∧ s.engOps = [e] ∧ s.engRuns e = true ∧ s.firstCopy e = true ∧ e.descs = some (square 64, square 0) ∧ (square 64).scratch = true ∧
      (square 0).scratch = true ∧ e.done = [] ∧
      ((square 64).items.flatMap (e.copySources (square 64) (square 0))).all (s.readable e) = true ∧
      let bs := (square 64).items.flatMap (fun m =>
        e.itemBytes (square 64) .scratch (e.destPlace (square 64) m) (e.copyItem (s.look e) (square 64) (square 0) m))
      ∀ x ∈ bs, ∀ y ∈ bs, x.unit = y.unit → x.off = y.off → x.byte = y.byte ∧ x.mask = 0xFF) ∧
    (∀ c ∈ [true, false], let s := engines tensored [statistics c]
      engB s (statistics c) = true ∧ (statistics c).stage = 0 ∧ s.unitsOpen 1 = false ∧ s.engOps = [statistics c] ∧ s.engRuns (statistics c) = true ∧ s.firstCopy (statistics c) = true ∧
      (statistics c).lanes.Nodup) ∧
    (∀ others ∈ [[], [2, 3]], let e := multiplying 1 (wideTile 128) (wideTile 64) none 1
      let s := engines (matrices (quireOf 1 []) []) (e :: others.map (multiplying 2 (mxTile 1 128) (mxTile 3 128) (some 0)))
      engB s e = true ∧ s.engRuns e = true ∧ s.rowsEarlier e = false ∧ s.startsAfter e = false ∧
      e.matrixSources.all (s.readable e) = true ∧ (∀ u ∈ e.matrixSources, u.1 = false) ∧
      (s.engOps.filter (fun x => x.engine == .platen && x.op != 6 && x.core == e.core && x.stage == 0 && x.started.isSome)).length =
        others.length) ∧
    (∀ p ∈ [(1, halfTile, halfTile, 128), (2, mxTile 1 128, mxTile 3 128, 256)], let e := multiplying p.1 p.2.1 p.2.2.1 (some 0) 1
      let s := engines (matrices (quireOf 1 []) []) [e]
      engB s e = true ∧ s.engOps.filter (fun x => x.engine == e.engine) = [e] ∧ s.engRuns e = true ∧
      matrixK p.2.1.elem p.2.1.block p.2.2.1.elem p.2.2.1.block = some p.2.2.2 ∧ p.2.1.elem ≠ 3 ∧ (blk s).accBad = [] ∧
      e.coords.getD 1 0 + matrixN p.2.1.elem ≤ 512) ∧
    (∀ f ∈ [none, some 0x40], let e := ringing 1 1 2 f
      let s := inPod e 0
      engB s e = true ∧ s.engOps.filter (fun x => x.engine == e.engine) = [e] ∧ e.pend = [] ∧ s.reqsOpen e.id = false) ∧
    (∀ c ∈ [0, 100], let e := ringing 3 1 0 none
      let s := (inPod e c).modWave wr (fun w => { w with ltc := 50 })
      engB s e = true ∧ s.reqsOpen e.id = false ∧ (s.part e.part).podCache.find? (fun x => x.1 == 1) = some (1, 2 ^ 63 + 2 ^ 61 + 2 ^ 60 + 2 ^ 48) ∧
      podValid (2 ^ 63 + 2 ^ 61 + 2 ^ 60 + 2 ^ 48) = true ∧ podGrants (2 ^ 63 + 2 ^ 61 + 2 ^ 60 + 2 ^ 48) 2 = true ∧
      s.writesMade wr 3 1 = true ∧ (theWave s).ltc = 50 ∧ s.clock = c ∧ (c = 0 → s.nowOf wr ≤ 50) ∧ (c = 100 → 50 < s.nowOf wr)) ∧
    (∀ op ∈ [4, 7], ∀ ready ∈ [true, false], let r := ringOf 2 ready
      let e := { ringing op 2 1 none with ring := some r }
      let s := inPod e 0
      engB s e = true ∧ s.engOps.filter (fun x => x.engine == e.engine) = [e] ∧ 1 + 1 < [0, 1, 2].length ∧
      s.admitsChunk e r 2 0 = true ∧ s.admitsChunk e r 2 1 = false ∧ e.nextArrival r = (2, 1, false) ∧ r.nextRank = 1 ∧
      (s.part e.part).podCache.find? (fun x => x.1 == 1) = some (1, 2 ^ 63 + 2 ^ 61 + 2 ^ 60 + 2 ^ 48) ∧
      podGrants (2 ^ 63 + 2 ^ 61 + 2 ^ 60 + 2 ^ 48) 1 = true ∧ (e.wireBytes ⟨2, 2, [], [], [], false⟩).length < 2 ^ 40 ∧ s.podReqs = [] ∧ e.failed = none ∧
      bucketRate (s.part 0).bktPort = 0 ∧
      e.t1.isSome = true ∧ e.t2.isSome = true ∧ (⟨9, 128, 0, false, 0⟩ : ChunkSender) ≠ e.sender r) ∧
    (let s := engines (podded true) [copying]
     engB s copying = true ∧ (∀ x ∈ s.engOps, x.engine ≠ .chafer) ∧ (blk s).gps[7]? = some (some ⟨[0, 1], 0, 5, []⟩)) := by
  have hd := (Config.dieSkew 0).isLt
  refine ⟨fun op h => ?_, fun c h => ?_, fun o h => ?_, fun p h => ?_, fun f h => ?_, fun c h => ?_, fun op h => ?_, by decide +kernel⟩
  · fin_cases h <;> decide +kernel
  · fin_cases h <;> decide +kernel
  · fin_cases h <;> decide +kernel
  · fin_cases h <;> decide +kernel
  · fin_cases h <;> decide +kernel
  · fin_cases h
    · refine ⟨?_, ?_, ?_, ?_, ?_, ?_, ?_, rfl, fun _ => ?_, fun h => absurd h (by decide)⟩ <;> first
        | decide +kernel
        | (show 0 + (Config.dieSkew 0).val ≤ 50; omega)
    · refine ⟨?_, ?_, ?_, ?_, ?_, ?_, ?_, rfl, fun h => absurd h (by decide), fun _ => ?_⟩ <;> first
        | decide +kernel
        | (show 50 < 100 + (Config.dieSkew 0).val; omega)
  · fin_cases h <;> (intro ready hr; fin_cases hr <;> decide +kernel)

/-! ### Wait entries, streams and launches -/

/-- The wait group of lane 2, number 3, whose v5 receives the word. -/
def group3 : WaitGroup := ⟨3, [2], 5, false, 1, .atSlice, true, 9, 0x200⟩

/-- Its entry on the word at 0x200. -/
def entry3 (cond deadline : Nat) (p : EntryPlace) : Entry := ⟨5, .wave wr, 0, cond, false, 0x200, 7, deadline, 3, p, 0, false, []⟩

/-- `tabled` with the page writable, lane 2 waiting in the group, entries, a clock, and the word at 0x200. -/
def waiting (es : List Entry) (clock : Nat) (word : Byte) : State :=
  { ((tabled 3).modWave wr (fun w => { w with
      groups := [group3], lanes := modifyAt w.lanes 2 (fun x => { x.markEmpty 5 with state := .waitMantis 3 }) })) with
    mem := (if word = 0 then [] else [(0x200, word)]) ++ [(0x200000, 1), (0x200002, 0x30), (0x300000, 1), (0x300002, 0x40), (0x400000, 3), (0x400006, 0x10)]
    entries := es, clock := clock }

/-- A registration of lane 2 in flight, with its line at home. -/
def registering (cond data : Nat) (ticks : Nat) : State :=
  { waiting [] 0 0 with
    memOps := [{ opOf (.wait cond false ticks) 0 (.open_ 4 .plain [⟨2, 0x204, 0x204, 4, data, 0, [5]⟩]) with groupNo := 3, counted := false }]
    slices := modifyAt one.slices 0 (fun sl => { sl with tags := [tag4], plates := [(9, ⟨List.replicate 128 7, List.replicate 16 0, 1⟩)] }) }

/-- The page that `waiting` maps. -/
def page1 : TlbEntry := ⟨0, 0, 0, 0, 21, attrOf (3 + 2 ^ 52)⟩

/-- Monitor 15 of partition 0 watches an address. -/
def watched (addr : Nat) (armed : Bool) (es : List Entry) : State :=
  (waiting es 0 7).modMonitor 0 15 (fun x => { x with addr := addr, operand := 7, armed := armed })

theorem leaseNow_lt (s : State) (d : Nat) : s.clock ≤ s.leaseNow d ∧ s.leaseNow d < s.clock + 3 := by
  have := (Config.dieSkew d).isLt
  rw [State.leaseNow]
  omega

theorem wit_WaitEntries :
    ((waiting [] 0 0).wave? wr).isSome = true ∧ (theWave (waiting [] 0 0)).groups.find? (fun g => g.group == 3) = some group3 ∧
    (∀ c ∈ [10, 100], let e := entry3 0 50 (.slice 0)
      let s := waiting [e] c 0
      s.entries.find? (fun x => x.key == 5) = some e ∧ e.deadline ≠ 0 ∧ 0 < s.parts.length ∧ s.clock = c) ∧
    (∀ p ∈ [(0, 0x07070707, 0, true), (0, 8, 0, false), (8, 0, 5, false), (9, 0, 0, false)], let s := registering p.1 p.2.1 p.2.2.1
      ∀ o ∈ s.memOps, ∀ g ∈ o.groups, s.memOp? o.id = some o ∧ o.wave = wr ∧ o.groupAt 4 (fun h => !h.performed) = some (0, g) ∧
        o.kind = .wait p.1 false p.2.2.1 ∧ s.earlierOpen o g false = false ∧ s.coreStoreOpen 0 0 o.id g = false ∧ g.attr.scopeCheck = false ∧
        (∀ p ∈ s.groupPoints o g, s.throttled p = false) ∧
        (∀ l ∈ g.lanes.head?, l.pa / 128 = 4 ∧ waitHolds p.1 false (s.homeNat 0 l.pa 4) l.data false = (p.2.2.2 || p.1 == 8)) ∧
        s.homeOf 0 4 = some 0 ∧ (s.slice 0).homeTag 4 = some tag4 ∧ s.entries = [] ∧
        (theWave s).groups.find? (fun h => h.group == o.groupNo) = some group3 ∧ s.tableCount 0 < 2048) ∧
    (let s := waiting [entry3 0 50 .spilled] 100 0
     (s.entries.map (·.key)).Nodup ∧ s.tableCount 0 + (s.spilledAt 0).length ≤ 2048 ∧ s.spilledAt 0 ≠ []) ∧
    (∀ p ∈ [(10, 0), (5000, 0), (5000, 7)], let e := entry3 0 0 .held
      let s := waiting [e] p.1 (BitVec.ofNat 8 p.2)
      s.entries.find? (fun x => x.key == 5) = some e ∧ e.place = .held ∧ e.cond < 8 ∧ e.deadline = 0 ∧ s.clock = p.1 ∧
        waitHolds e.cond e.wide (s.entryWord e) e.operand false = decide (p.2 = 7)) ∧
    (∀ a ∈ [true, false], let s := watched 0x200 a [{ entry3 8 0 (.slice 0) with owner := .monitor 0 15 }]
      s.vfWritable 0 = true ∧ 0 < s.parts.length ∧ 15 < (s.part 0).vf.monitors.length ∧ (s.monitor 0 15).armed = a ∧
      (∀ y ∈ s.entries, y.deadline = 0 ∧ y.key ≠ s.next) ∧ bitOf 7 0 = true ∧ bitOf 6 0 = false) ∧
    (∀ p ∈ [(0x200, 1 + 10 * 16), (0x201, 1), (0x200000, 1), (0x200, 1), (0x200, 1 + 16), (0x200, 1 + 8 * 16)], let s := watched p.1 false []
      let x := (s.monitor 0 15).control p.2
      let s1 := s.modMonitor 0 15 (fun x => x.control p.2)
      bitOf p.2 0 = true ∧ (x.cond ≤ 9 → x.addr = 0x200 → x.addr % 4 = 0 ∧ x.wide = false ∧ (s1.schedPage 0 x.space x.addr .read).1 = some page1 ∧
        s.homeOf 0 (page1.pa x.addr / 128) = some 0 ∧ s.homeNat 0 (page1.pa x.addr) 4 = 7 ∧ s.tableCount 0 < 2048) ∧
      (x.addr = 0x200000 → (s1.schedPage 0 x.space x.addr .read).1 = none)) := by
  refine ⟨by decide +kernel, by decide +kernel, fun c h => ?_, fun p h => ?_, by decide +kernel, fun p h => ?_, fun a h => ?_, fun p h => ?_⟩
  · fin_cases h <;> decide +kernel
  · fin_cases h <;> decide +kernel
  · fin_cases h <;> decide +kernel
  · fin_cases h <;> decide +kernel
  · fin_cases h <;> refine ⟨by decide +kernel, fun h1 h2 => ?_, fun h1 => ?_⟩ <;> first
      | exact absurd h1 (by decide +kernel)
      | exact absurd h2 (by decide +kernel)
      | exact ⟨by decide +kernel, by decide +kernel, by decide +kernel⟩
      | decide +kernel

/-- The tables of `waiting` after cells at lower addresses. -/
def tables : List (Nat × Byte) := [(0x200000, 1), (0x200002, 0x30), (0x300000, 1), (0x300002, 0x40), (0x400000, 3), (0x400006, 0x10)]

/-- `tabled` with cells of memory, line 4 alone at its home. -/
def paged (cells : List (Nat × Byte)) : State :=
  { tabled 3 with
    mem := cells ++ tables
    slices := modifyAt one.slices 0 (fun sl => { sl with tags := [tag4], plates := [(9, ⟨List.replicate 128 7, List.replicate 16 0, 1⟩)] }) }

/-- A stream of order 1 with its ring at 0x400 and its control pair at an address; it is watched, and woken, or not. -/
def streamOf (pair : Nat) (watching : Bool) : Machine.Stream :=
  { Machine.Stream.reset with ring := 0x400, pair := pair, order := 1, watching := watching, wokeAt := if watching then some 0 else none }

/-- `paged` with that stream as stream 9. -/
def streamed (pair : Nat) (watching : Bool) (cells : List (Nat × Byte)) : State :=
  (paged cells).modStream 0 9 (fun _ => streamOf pair watching)

/-- The record of a launch of stream 9 whose image is well formed, at 0x400. -/
def image9 : List (Nat × Byte) :=
  [(0x410, 1), (0x414, 1), (0x418, 1), (0x41C, 8), (0x41E, 1), (0x420, 1), (0x424, 1), (0x42C, 72)]

/-- `paged` with a launch beside that of the wave. -/
def launched (l : Launch) (clock : Nat) : State := { paged [] with launches := [placedLaunch 0, l], clock := clock }

/-- A launch of stream 9, with its stage and a change of its record. -/
def launch9 (st : Stage) (f : LaunchRecord → LaunchRecord) : Launch :=
  { placedLaunch 7 with stream := 9, stage := st, record := f { placedRecord with stream := 9, colophon := 0x200, notify := true, vector := 3 }, maxLtc := 50 }

/-- A gate on the word at 0x200. -/
def gated (cond : Nat) (addr : Nat) (r : LaunchRecord) : LaunchRecord :=
  { r with gateEnable := true, gateAddr := addr, gateCond := cond, gateOperand := 0x07070707 }

/-- An append of the image at 0x200 to the slot of a line, or of its tail at 0x210, as written or not. -/
def appending (written : Bool) (slot pair : Nat) : MemOp :=
  let g (n : Nat) : OpGroup := { OpGroup.open_ n .plain [] with performed := written }
  { opOf (.append 0x200 slot pair 0) 0 (g 4) with groups := [g 4, g (slot / 128), g (pair / 128)], completion := 50, groupNo := 9 }

/-- An append whose image lies in the pod range, before and after it is asked for. -/
theorem wit_PodAppend : ∀ req ∈ [none, some 2], let o : MemOp := { appending false 0x200 0x300 with
      kind := .append (2 ^ 50) 0x200 0x300 0
      groups := (appending false 0x200 0x300).groups.map (fun g => { g with req := req }) }
    let s : State := { paged [] with memOps := [o] }
    s.memOp? 1 = some o ∧ s.device.fenced = false ∧ o.ended = false ∧ s.storesPerformed o = true ∧ s.firstAppend o = true ∧
      isPod (2 ^ 50) = true ∧ (∃ g gs, o.groups = g :: gs ∧ g.performed = false ∧ g.vals = [] ∧ g.req = req) ∧
      bucketRate (s.part 0).bktCore = 0 ∧ bucketRate (s.part 0).bktPort = 0 := by
  intro r h
  fin_cases h <;> refine ⟨?_, ?_, ?_, ?_, ?_, ?_, ⟨_, _, rfl, rfl, rfl, rfl⟩, ?_, ?_⟩ <;> decide +kernel

theorem wit_StreamsAndLaunches :
    (∀ p ∈ [(0x300, true, 0, 0), (0x300, false, 0, 0), (0x200000, false, 0, 0), (0x300, false, 1, 0), (0x300, false, 1, 1)],
      let s := streamed p.1 p.2.1 (if p.2.2.1 = 0 then [] else if p.2.2.2 = 0 then [(0x300, 1)] else [(0x300, 1), (0x308, 1)])
      s.writable = true ∧ 0 < s.parts.length ∧ 9 < (s.part 0).vf.streams.length ∧ (s.stream 0 9).watching = p.2.1 ∧ s.entries = [] ∧
      cfgEnable 33 = true ∧ cfgEnable 32 = true ∧ cfgEnable 1 = false ∧ cfgOrder 33 = 1 ∧ cfgOrder 32 = 0 ∧
      let s2 := (s.modStream 0 9 (fun t => { t with order := cfgOrder 33, serial := cfgSerial 33, enable := true })).modStream 0 9
        (fun t => { t with error := false })
      (p.1 = 0x200000 → (s2.schedPage 0 (s.stream 0 9).space (s.stream 0 9).pair .write).1 = none) ∧
      (p.1 = 0x300 → (s2.schedPage 0 (s.stream 0 9).space (s.stream 0 9).pair .write).1 = some page1) ∧
      s.homeNat 0 0x300 8 = p.2.2.1 ∧ s.homeNat 0 0x308 8 = p.2.2.2 ∧ s.homeOf 0 6 = some 0 ∧ s.tableCount 0 < 2048) ∧
    (∀ p ∈ [(3, []), (0, []), (1, []), (1, image9)], let s := streamed 0x300 true ((if p.1 = 0 then [] else [(0x300, BitVec.ofNat 8 p.1)]) ++ p.2)
      s.device.fenced = false ∧ 0 < s.parts.length ∧ 9 < (s.part 0).vf.streams.length ∧ s.entries = [] ∧ (∀ l ∈ s.launches, l.lid ≠ s.next) ∧
      (s.part 0).vf.resetting = false ∧ (s.stream 0 9).reading = none ∧ isHost 0x300 = false ∧
      (s.stream 0 9).watching = true ∧ s.firstWoken 0 9 = true ∧ (s.schedPage 0 0 0x300 .write).1 = some page1 ∧
      ((s.schedPage 0 0 0x300 .write).2.schedPage 0 0 0x400 .read).1 = some page1 ∧ (s.stream 0 9).size = 2 ∧ (s.homeNat 0 0x300 8 + 2 ^ 64 - (s.stream 0 9).head) % 2 ^ 64 = p.1 ∧
      (p.2 = image9 → (recordReservedOk (s.readRun 0 0x400 128) && (LaunchRecord.ofImage (s.readRun 0 0x400 128)).valuesOk 9) = true)) ∧
    (∀ p ∈ [(0, 0x200, 0), (1, 0x200, 0), (0, 0x200000, 0), (0, 0x280, 5)], let l := launch9 .queued (gated p.1 p.2.1)
      let s := { launched l 0 with poisonMem := if p.2.2 = 0 then [] else [p.2.2] }
      s.launch? 7 = some l ∧ s.device.fenced = false ∧ s.mayStart l = true ∧ l.record.gateEnable = true ∧ l.killing = none ∧ s.entries = [] ∧
      (p.2.1 = 0x200000 → (s.schedPage 0 0 p.2.1 .read).1 = none) ∧ (p.2.1 ≠ 0x200000 → (s.schedPage 0 0 p.2.1 .read).1 = some page1) ∧
      (s.homeLine 0 5).2.2 = decide (p.2.2 = 5) ∧ (s.homeLine 0 4).2.2 = false ∧ s.homeOf 0 4 = some 0 ∧ s.tableCount 0 < 2048 ∧
      s.homeNat 0 0x200 4 = 0x07070707) ∧
    (∀ c ∈ [false, true], let l := launch9 .ready (fun r => { r with coresident := c, grid := if c then [64, 1, 1] else [1, 1, 1], scratch := 1572864 })
      let s := launched l 0
      s.launch? 7 = some l ∧ s.takenNow l = true ∧ (∀ x ∈ s.launches, x.lid ≠ 7 → s.takenNow x = false) ∧ l.record.coresident = c ∧
      (c = true → s.couldReside l = false)) ∧
    (∀ c ∈ [0, 100], let l := launch9 (.ending 0) id
      let s := launched l c
      s.launch? 7 = some l ∧ s.device.fenced = false ∧ s.launchBusy 7 = false ∧ s.clock = c ∧ l.maxLtc = 50 ∧ l.record.colophon % 64 = 0 ∧
      (s.schedPage 0 0 l.record.colophon .write).1 = some page1 ∧ HeldAlone s 0 4 0 tag4 ∧
      (∀ i ∈ sliceList (s.part 0).slices, ∀ x ∈ (s.slice i).tags, x.state ≠ .replica)) ∧
    (∀ cells ∈ [[], image9], let s := (streamed 0x300 true ((0x300, 1) :: cells)).modStream 0 9 (fun t =>
        { t with reading := some (1, words64 16 0 ((streamed 0x300 true [(0x300, 1)]).readRun 0 0x400 128)) })
      s.device.fenced = false ∧ (s.part 0).vf.resetting = false ∧ s.entries = [] ∧ (∀ l ∈ s.launches, l.lid ≠ s.next) ∧
      (s.stream 0 9).watching = true ∧ s.firstWoken 0 9 = true ∧ (s.stream 0 9).slotAddr = 0x400 ∧ (s.stream 0 9).reading.isSome = true ∧
      (∀ p ∈ s.hostPoints 0 (0x400 / 128) ++ s.hostPoints 0 (0x308 / 128), s.throttled p = false) ∧
      (s.schedPage 0 0 0x300 .write).1 = some page1 ∧ ((s.schedPage 0 0 0x300 .write).2.schedPage 0 0 0x400 .read).1 = some page1) ∧
    (∀ vals ∈ [[], [(0, 7)]], let o := { appending false 0x200 0x300 with groups := (appending false 0x200 0x300).groups.map (fun g => { g with vals := vals }) }
     let s := { paged [] with memOps := [o] }
     s.memOp? 1 = some o ∧ s.device.fenced = false ∧ o.ended = false ∧ s.storesPerformed o = true ∧ s.firstAppend o = true ∧
     (∃ g gs, o.groups = g :: gs ∧ g.performed = false ∧ g.vals = vals) ∧ isPod 0x200 = false ∧ HeldAlone s 0 4 0 tag4 ∧
     (∀ p ∈ s.linePoints 0 0 4, s.throttled p = false) ∧ 0x200 / 128 = 4 ∧ 0x200 % 128 = 0 ∧
     (s.slice 0).plates.length < 32768 ∧ (s.slice 0).tags.length < 65536) ∧
    ∀ c ∈ [0, 100], let o := appending true 0x400 0x200
     let s := { paged [] with memOps := [o], clock := c }
     s.memOp? 1 = some o ∧ s.device.fenced = false ∧ o.ended = false ∧ s.storesPerformed o = true ∧ s.firstAppend o = true ∧
     (∀ g ∈ o.groups, g.performed = true) ∧ s.writesMade wr 3 1 = true ∧ s.ltcOf wr 0 = 0 ∧ (∀ p ∈ s.linePoints 0 0 4, s.throttled p = false) ∧ HeldAlone s 0 4 0 tag4 ∧
     s.clock = c ∧ o.completion = 50 ∧ 0x200 % 128 + 16 ≤ 128 ∧ 0 < s.parts.length ∧ 9 < (s.part 0).vf.streams.length := by
  refine ⟨fun p h => ?_, fun p h => ?_, fun p h => ?_, fun c h => ?_, fun c h => ?_, fun c h => ?_, fun v h => ?_, fun c h => ?_⟩
  · fin_cases h <;> refine ⟨?_, ?_, ?_, ?_, ?_, ?_, ?_, ?_, ?_, ?_, fun hp => ?_, fun hp => ?_, ?_⟩ <;> first
      | decide +kernel
      | exact absurd hp (by decide)
  · fin_cases h <;> refine ⟨?_, ?_, ?_, ?_, ?_, ?_, ?_, ?_, ?_, ?_, ?_, ?_, ?_, ?_, ?_⟩ <;> decide +kernel
  · fin_cases h <;> refine ⟨?_, ?_, ?_, ?_, ?_, ?_, fun hp => ?_, fun hp => ?_, ?_⟩ <;> first
      | decide +kernel
      | exact absurd hp (by decide)
  · fin_cases h <;> decide +kernel
  · fin_cases h <;> refine ⟨?_, ?_, ?_, rfl, rfl, ?_, ?_, held_of ?_, ?_⟩ <;> decide +kernel
  · fin_cases h <;> refine ⟨?_, ?_, ?_, ?_, ?_, ?_, ?_, ?_, ?_, ?_, ?_⟩ <;> decide +kernel
  · fin_cases h <;> refine ⟨?_, ?_, rfl, ?_, ?_, ⟨_, _, rfl, rfl, rfl⟩, ?_, held_of ?_, ?_⟩ <;> decide +kernel
  · fin_cases h <;> refine ⟨?_, ?_, rfl, ?_, ?_, ?_, ?_, ?_, ?_, held_of ?_, rfl, rfl, ?_⟩ <;> decide +kernel

/-! ### Placement and issue -/

/-- `mapped` with no clause issue in progress and a clause of one word at the entry; lanes stand at a position of it. -/
def idle (s : State) (slot : Nat) : State :=
  { (s.modWave wr (fun w => { w with lanes := mapIdx' (fun l x => { x with slot := if l = 3 then 1 else slot }) w.lanes })) with
    issues := [], mem := [(0, 0x11), (3, 0x8F)] }

/-- `one` with no issue in progress, its block changed. -/
def standing (f : Block → Block) : State := blocked { one with issues := [] } f

/-- An admitted launch of one block, not placed. -/
def launch9New : Launch := { launch9 .admitted id with nextLin := 0 }

/-- `one` with that launch. -/
def placing : State := { one with launches := [placedLaunch 0, launch9New] }

/-- `one` with a native trap entry, lanes 3 and 5 awaiting a handler, and quarter 2 of its core handling or not. -/
def awaiting (busy : Bool) : State :=
  let s := recorded one (fun r => { r with trapEntry := 64 })
  let t (x : Lane) : Lane := { x with state := .trapped, trap := some (trapped .awaiting) }
  { ((s.modLane wr 3 t).modLane wr 5 t) with
    cores := modifyAt one.cores 0 (fun c => { c with handlers := if busy then setAt c.handlers 2 (some ⟨0, theWave one⟩) else c.handlers }) }

theorem wit_PlacementAndIssue :
    (∀ slot ∈ [0, 1], let s := idle mapped slot
      s.issues = [] ∧ s.candidates 0 0 = [wr] ∧ (s.wave? wr).isSome = true ∧ (s.block? 1).isSome = true ∧ (s.launchOf wr).isSome = true ∧
      (theWave s).lowKey = some slot ∧ (theWave s).fairDue slot = false ∧
      (∃ t, s.fetchClause 0 0 0 0 0 = (.ok (⟨false, 15, 0, 0, 1, 1⟩, [0]), t)) ∧ (theWave s).waitMet ⟨false, 15, 0, 0, 1, 1⟩ = true) ∧
    (let s := idle one 0
     s.candidates 0 0 = [wr] ∧ (theWave s).lowKey = some 0 ∧ (theWave s).fairDue 0 = false ∧
      s.fetchClause 0 0 0 0 0 = (.error (8, 0, 0), s) ∧ (s.launchOf wr).map (·.record.irdan) = some false) ∧
    (let s := placing
     let l := launch9New
     s.launch? 7 = some l ∧ s.places l = true ∧ l.record.coresident = false ∧ s.wakeFirst 0 l.record.priority = false ∧
      l.record.cluster = 1 ∧ l.nextLin < l.record.blocks ∧ (∀ b ∈ s.blocks, b.launch ≠ 7) ∧
      (placeOne (s.rooms (s.part l.part).placeCells (fun _ => false)) l.record none).isSome = true) ∧
    (∀ k ∈ [0, 1], let s0 := standing (fun b => { b with treatment := some .save })
      let s := { s0 with device := { s0.device with ratePending := k } }
      s.block? 1 = some (blk s) ∧ (s.launch? (blk s).launch).isSome = true ∧ s.device.fenced = false ∧ (blk s).treatment = some .save ∧
      (blk s).place = .resident ∧ s.stackOpen (blk s) = decide (k = 0)) ∧
    (let s := standing (fun b => { b with treatment := some .save, place := .saving })
     (blk s).place = .saving ∧ s.atRest 1 = true ∧
      (blk s).waves.all (fun w => w.lanes.all (fun x => decide (x.trap = none))) = true ∧
      (∀ q < 4, s.wave? (.hdl (blk s).core q) = none) ∧ 0 < s.parts.length) ∧
    (let s := standing (fun b => { b with place := .saved, woken := some 0 })
     (blk s).place = .saved ∧ (blk s).woken.isSome = true ∧ (∀ l ∈ s.launches, s.places l = true) ∧ s.stackOpen (blk s) = true ∧
      ∃ core start, s.returnPlan (blk s) = some [(1, core, start)]) ∧
    (let s := standing (fun b => { b with treatment := some .flush, place := .saving })
     (blk s).treatment = some .flush ∧ (blk s).place = .saving ∧ s.chaferOpen 1 = false ∧ s.convenedOpen 1 = false) ∧
    ∀ b ∈ [true, false], let s := awaiting b
      s.device.fenced = false ∧ (s.awaitingOn 0).length = 2 ∧ (∀ a ∈ s.awaitingOn 0, a.launch = 0) ∧
      (s.launch? 0).bind (·.record.entryOfTraps) = some 64 ∧ 0 < s.cores.length ∧ (s.core 0).handlers.length = 4 ∧
      ((s.core 0).handlers.getD 2 none).isSome = b := by
  refine ⟨fun slot h => ?_, ?_, ?_, fun k h => ?_, ?_, ?_, ?_, fun b h => ?_⟩
  · fin_cases h <;> refine ⟨rfl, ?_, ?_, ?_, ?_, ?_, ?_, ⟨_, rfl⟩, ?_⟩ <;> decide +kernel
  · refine ⟨?_, ?_, ?_, rfl, ?_⟩ <;> decide +kernel
  · decide +kernel
  · fin_cases h <;> refine ⟨rfl, ?_⟩ <;> decide +kernel
  · decide +kernel
  · refine ⟨?_, ?_, ?_, ?_, _, _, rfl⟩ <;> decide +kernel
  · decide +kernel
  · fin_cases h <;> decide +kernel

/-! ### Partitions, the pod and the host -/

/-- `one` owned by the host, with partition 0 changed. -/
def parted (f : Machine.Partition → Machine.Partition) : State := (one.modDevice (fun d => { d with owner := 1 })).modPart 0 f

/-- A partition in a resize to a goal. -/
def resizing (cells slices groups : Nat) (goal : Nat × Nat × Nat) (p : Machine.Partition) : Machine.Partition :=
  { p with cells := cells, slices := slices, groups := groups, goal := goal, state := 1 }

/-- A load in flight on a line of channel group 1. -/
def groupOne : MemOp := opOf (.load false) 0 (.open_ (2 ^ 33 / 128) .plain [⟨3, 0, 2 ^ 33, 4, 0, 0, [5]⟩])

/-- A store of lane 3 not performed. -/
def storing : MemOp := opOf .store 0 (groupOf3 1 0)

/-- Whether the host owns the device at a state, well before a lapse. -/
def pathB (s : State) : Bool := s.device.owner == 1 && s.awake && decide (s.clock + 3 ≤ s.device.beatAt + 4200000000)

/-- What the statement about partitions assumes of a state. -/
def ownB (s : State) : Bool := pathB s && decide (0 < s.parts.length) && s.vfWritable 0 && !s.device.locked

theorem owner_is {s : State} (h : s.clock + 3 ≤ s.device.beatAt + 4200000000) : s.ownerNow = s.device.owner := by
  have hl := (Config.dieSkew hubDie).isLt
  have : ¬ s.device.beatAt + 4200000000 ≤ s.leaseNow hubDie := by rw [State.leaseNow]; omega
  simp [State.ownerNow, State.beatOverdue, this]

theorem owner_of {s : State} (h : pathB s = true) : s.ownerPath .host = true ∧ s.ownerPath .bmc = false := by
  simp only [pathB, Bool.and_eq_true, decide_eq_true_eq, beq_iff_eq] at h
  have ho : s.ownerNow = 1 := (owner_is h.2).trans h.1.1
  constructor <;> simp [State.ownerPath, h.1.2, ho, masterId]

theorem wit_PartitionControl :
    ownB (parted id) = true ∧ (parted id).ownerPath .host = true ∧ (parted id).ownerPath .bmc = false ∧
    (∀ v ∈ [1 + 5 * 16 + 1024, 1], bitsOf v 0 4 = 1) ∧ bitsOf 2 0 4 = 2 ∧
    (∀ f ∈ [fun (p : Machine.Partition) => { p with state := 1 }, fun p => { p with state := 2 }], ownB (parted f) = true ∧ ((parted f).part 0).state ≠ 0) ∧
    (let s := (parted (fun p => { p with nextCells := 3 })).modPart 1 (fun p => { p with cells := 2 })
     ownB s = true ∧ (s.part 0).state = 0 ∧ s.pcfgConflict 0 = true) ∧
    (let s := parted (fun p => { p with nextCells := 3, nextSlices := 1, nextGroups := 5 })
     let p := s.part 0
     ownB s = true ∧ p.state = 0 ∧ s.pcfgConflict 0 = false ∧ p.nextSlices = p.slices ∧ setMinus p.cells p.nextCells = 0 ∧
       setMinus p.groups p.nextGroups = 0) ∧
    (∀ pins ∈ [(0, 0, 0), (0, 0, 1)], let s0 := parted (fun p => { p with nextCells := 0, nextSlices := 1, nextGroups := 2 })
     let s := { s0 with launches := [{ placedLaunch 0 with pins := pins }] }
     let p := s.part 0
     ownB s = true ∧ p.state = 0 ∧ s.pcfgConflict 0 = false ∧ setMinus p.nextSlices p.slices = 0 ∧ setMinus p.cells p.nextCells ≠ 0 ∧
       (s.blocks.map (·.uid)).Nodup ∧
       (s.modPart 0 (fun _ => { p with goal := (0, 1, 2), groups := p.groups ||| 2 })).pinned 0 = (pins.2.2 == 1)) ∧
    (let s := parted (resizing 3 1 1 (1, 1, 1))
     ((s.part 0).state = 1 ∧ (membersOf 40 (setMinus 3 1)).filter s.cellEmpty = [1] ∧ setMinus (setMinus 3 (maskOf [1])) 1 = 0)) ∧
    (∀ p ∈ [(3, 1, 1), (1, 0, 0)], let s := parted (resizing 1 p.1 1 (1, p.2.1, 1))
     (s.part 0).state = 1 ∧ (setMinus p.1 p.2.1).testBit p.2.2 = true ∧ s.slices.length = 64) ∧
    ((one.slice 0).lastLease = 0 ∧ one.clock = 0) ∧
    (∀ o ∈ [[], [groupOne]], let s := { parted (resizing 1 1 3 (1, 1, 1)) with memOps := o }
     (s.part 0).state = 1 ∧ (setMinus 3 1).testBit 1 = true ∧ s.channelBusy 0 1 = !o.isEmpty ∧ s.entries = []) ∧
    ((∀ c ∈ coresOf (one.part 0).cells, c < one.cores.length ∧ one.coreOwner c = some 0) ∧ one.hasAdmitted 0 = true) ∧
    (({ one with launches := [] } : State).hasAdmitted 0 = false) ∧
    (∀ p ∈ [(2, 0, none), (1, 1, none), (1, 0, some (⟨0, 65536, 0, 9⟩ : Shootdown)), (1, 0, none)],
      let s := one.modVF 0 (fun v => { v with sdBase := p.2.1, sdLen := 65536, shootdown := p.2.2 })
      s.vfWritable 0 = true ∧ bitsOf p.1 17 15 = 0 ∧ bitsOf p.1 4 2 = 0 ∧ (s.part 0).vf.shootdown = p.2.2 ∧ (s.part 0).vf.sdBase = p.2.1) ∧
    (∀ o ∈ [[], [storing]], let s := { one.modVF 0 (fun v => { v with shootdown := some ⟨0, 65536, 0, 9⟩ }) with memOps := o }
      (s.part 0).vf.shootdown = some ⟨0, 65536, 0, 9⟩ ∧ s.engOps = [] ∧ ∀ x ∈ s.memOps, x.part = 0 ∧ s.opInShootdown ⟨0, 65536, 0, 9⟩ x = true) := by
  refine ⟨?_, (owner_of ?_).1, (owner_of ?_).2, ?_, ?_, ?_, ?_, ?_, ?_, ?_, ?_, ?_, ?_, ?_, ?_, ?_, ?_⟩ <;> decide +kernel

/-- A lane's trap escalated under serial 9: an unmapped address. -/
def escalated9 : TrapInfo := ⟨8, 0, 0x10000, 5, 2, 0, 0, .escalated 9⟩

/-- `one` with lane 3 escalated, and the post registers. -/
def posting (serial base len : Nat) : State :=
  (one.modLane wr 3 (fun x => { x with state := .trapped, trap := some escalated9 })).modVF 0 (fun v =>
    { v with frSerial := serial, frBase := base, frLen := len })

/-- `paged` exporting its first 64 KiB, to partition 2 of device 5 with all rights. -/
def exporting : State :=
  (paged []).modPart 0 (fun p => { p with
    podCtl := 2 ^ 31 + 8 * 2 ^ 16, podExpSize := 0x10000, podCache := [(0, 2 ^ 63 + 7 * 2 ^ 60 + 5 * 2 ^ 48 + 2 * 2 ^ 44)] })

/-- `exporting` with line 4 at no home and a hold on its bank. -/
def banked : State :=
  { exporting with slices := modifyAt one.slices 0 (fun sl => { sl with tags := [] }) }.modDevice (fun d =>
    { d with banks := [(bankOf 4, ⟨128, true, false, 0⟩)] })

/-- A group of lane 3 that a pod request serves. -/
def remoteGroup : OpGroup := { OpGroup.open_ (2 ^ 43) .plain [⟨3, 0x1000, 2 ^ 50, 4, 8, 0, [5]⟩] with req := some 2 }

/-- The request in flight for it, and the state in which it is. -/
def remote (k : MemKind) (clock : Nat) : State :=
  { one with
    memOps := [opOf k 0 remoteGroup]
    podReqs := [⟨2, .mem 1 (2 ^ 43), 0, 0, 5, 2, 0, .read 4, 3, 0, none⟩]
    clock := clock }

/-- The first line of the host range. -/
def hostLine : Nat := 2 ^ 44

/-- Its home tag, dirty or clean. -/
def hostTag (dirty : Bool) : Tag := { tag4 with line := hostLine, dirty := dirty }

/-- `one` with that line alone at its home, or not at home, at a clock. -/
def snooped (t : Option Bool) (clock : Nat) : State :=
  { one with
    clock := clock
    slices := modifyAt one.slices 0 (fun sl => match t with
      | none => sl
      | some d => { sl with tags := [hostTag d], plates := [(9, ⟨List.replicate 128 7, List.replicate 16 0, 1⟩)] }) }

/-- Whether a snoop of the line must still wait, and whether none of its leases is open (R335), for every skew of the dies. -/
theorem snoop_waits {s : State} {line : Nat} {i : Nat} (hh : s.homeOf 0 line = some i) (h : s.clock ≤ s.leaseField 0 line) :
    ∃ q < 16, ∃ i, s.homeOf q line = some i ∧ s.leaseNow (dieOfSlice i) ≤ s.leaseField q line + 2 := by
  refine ⟨0, by omega, i, hh, ?_⟩
  have hd := (Config.dieSkew (dieOfSlice i)).isLt
  rw [State.leaseNow]; omega

theorem snoop_passes {s : State} {line : Nat} (h : ∀ q < 16, s.homeOf q line ≠ none → s.leaseField q line + 2 < s.clock) :
    ¬ ∃ q < 16, ∃ i, s.homeOf q line = some i ∧ s.leaseNow (dieOfSlice i) ≤ s.leaseField q line + 2 := by
  rintro ⟨q, hq, i, hi, hl⟩
  have := h q hq (by simp [hi])
  rw [State.leaseNow] at hl; omega

theorem wit_PostsPodAndHost :
    (∀ p ∈ [(8, 0, 65536), (9, 0, 65536), (9, 0, 0x20000), (9, 2 ^ 57, 0), (9, 2 ^ 56, 2 ^ 57)], let s := posting p.1 p.2.1 p.2.2
      s.vfWritable 0 = true ∧ 0 < s.parts.length ∧ ((s.part 0).vf.frSerial, (s.part 0).vf.frBase, (s.part 0).vf.frLen) = p ∧
      s.escalatedLane 0 p.1 = (if p.1 = 8 then none else some (⟨1, 0, 3⟩, escalated9)) ∧ (s.wave? wr).isSome = true ∧ (s.block? 1).isSome = true ∧
      (s.launch? 0).map (fun l => (l.killing, l.stage)) = some (none, .admitted) ∧ s.entries = [] ∧ (s.blocks.map (·.uid)).Nodup) ∧
    (∀ a ∈ [PodAsk.read 0, .read 4, .write [1, 2, 3, 4] false], let s := exporting
      s.admitsPeer 5 2 0 0x204 a = decide (a ≠ .read 0) ∧ ((s.part 0).expBase + 0x204) / 128 = 4 ∧
      s.throttled (.port (s.podPort 5 4) 0) = false ∧ (∀ k ∈ runLines 0x204 4, s.bankHolds 0 k = false ∧
        ∀ p ∈ s.hostPoints 0 k, s.throttled p = false) ∧ HeldAlone s 0 4 0 tag4) ∧
    (∀ a ∈ [PodAsk.read 4, .write [1, 2, 3, 4] false], banked.admitsPeer 5 2 0 0x204 a = true ∧
      (runLines 0x204 (podLen a)).any (banked.bankHolds 0) = true) ∧
    (∀ k ∈ [MemKind.load true, .load false, .store], ∀ c ∈ [100, 2000000], let s := remote k c
      let o := opOf k 0 remoteGroup
      (∀ q ∈ s.podReqs, s.podReqs.find? (fun x => x.id == q.id) = some q ∧ q.held = none ∧ q.owner = .mem 1 (2 ^ 43) ∧ q.part < s.parts.length ∧ q.sentAt = 0) ∧
      s.memOp? 1 = some o ∧ o.groupOfReq 2 = some (0, remoteGroup) ∧ remoteGroup.returned = false ∧ o.groups[0]? = some remoteGroup ∧
      s.clock = c) ∧
    (one.device.unpowered = false ∧ (∀ u ∈ [0, 8], let s := one.modDevice (fun d => { d with portsUp := u })
      s.device.unpowered = false ∧ s.device.portsUp.testBit 3 = decide (u = 8) ∧ s.device.staging.length < 4096)) ∧
    (∀ l ∈ [true, false], let s := (paged []).modDevice (fun d => { d with locked := l })
      s.device.unpowered = false ∧ s.device.locked = l ∧ oneLine 0x204 4 = true ∧ oneLine (2 ^ 45) 4 = true ∧ s.hostPart 0x204 = 0 ∧
      (isBacked 0x204 && isBacked (0x204 + 3)) = true ∧ (isBacked (2 ^ 45) && isBacked (2 ^ 45 + 3)) = false ∧
      (∀ q ∈ s.hostPoints 0 4, s.throttled q = false) ∧ s.bankHolds 0 4 = false ∧ HeldAlone s 0 4 0 tag4) ∧
    ∀ t ∈ [none, some true, some false], ∀ c ∈ [0, 100], let s := snooped t c
      isHost (128 * hostLine) = true ∧ s.device.unpowered = false ∧ s.entries = [] ∧ Memory.wf s.mem = true ∧
      (if c = 0 then (s.homeOf 0 hostLine = some 0 ∧ s.clock ≤ s.leaseField 0 hostLine)
       else ∀ q < 16, s.homeOf q hostLine ≠ none → s.leaseField q hostLine + 2 < s.clock) ∧
      s.hostTags hostLine = (match t with | none => [] | some d => [(0, hostTag d)]) ∧
      (∀ d, t = some d → heldB s hostLine (hostTag d) = true) := by
  refine ⟨fun p h => ?_, fun a ha => ?_, ?_, fun k h c hc => ?_, ?_, fun l h => ?_, fun t h c hc => ?_⟩
  · fin_cases h <;> decide +kernel
  · have hp : ∀ i, exporting.throttled (.port i 0) = false := fun i => show (bucketRate (exporting.part 0).bktPort != 0) = false by decide +kernel
    fin_cases ha <;> refine ⟨?_, ?_, hp _, ?_, held_of ?_⟩ <;> decide +kernel
  · have hb : (banked.bank (bankOf 4)).held = true := by simp [banked, State.bank, State.modDevice, cellGet]
    have hl : ∀ a ∈ [PodAsk.read 4, .write [1, 2, 3, 4] false], banked.admitsPeer 5 2 0 0x204 a = true ∧ runLines 0x204 (podLen a) = [4] := by
      decide +kernel
    have hh : ((banked.homeOf 0 4).bind (fun i => (banked.slice i).homeTag 4)).isNone = true := by decide +kernel
    exact fun a ha => ⟨(hl a ha).1, by simp [(hl a ha).2, State.bankHolds, hb, hh]⟩
  · fin_cases h <;> fin_cases hc <;> decide +kernel
  · decide +kernel
  · fin_cases h <;> refine ⟨?_, ?_, ?_, ?_, ?_, ?_, ?_, ?_, ?_, held_of ?_⟩ <;> decide +kernel
  · fin_cases h <;> fin_cases hc <;> decide +kernel

/-- The device at reset, with changes. -/
def device (f : Device → Device) : State := one.modDevice f

/-- A claim of a free device and of an owned one; a heartbeat and an offer with the nonce and without; an accepted offer; a lapse; reports
with and without the keys; the alarm; loads and updates in recovery and out of it; images in each phase. -/
theorem wit_OwnershipAndFirmware :
    (one.awake = true ∧ one.ownerNow = 0 ∧ bitsOf (7 * 2 ^ 32 + 1) 32 32 ≠ 0 ∧ bitsOf (7 * 2 ^ 32 + 1) 0 4 = masterId .host) ∧
    (let s := device (fun d => { d with owner := 1, nonce := 7 })
     ownB s = true ∧ s.ownerPath .host = true ∧ s.ownerPath .bmc = false ∧ s.ownerNow ≠ 0 ∧ 7 % 2 ^ 32 = s.device.nonce ∧ 8 % 2 ^ 32 ≠ s.device.nonce) ∧
    (let s := device (fun d => { d with owner := 1, offerTarget := 2, offerNonce := 5 })
     s.awake = true ∧ s.ownerNow ≠ 0 ∧ s.device.offerTarget = masterId .bmc ∧ 5 % 2 ^ 32 = s.device.offerNonce) ∧
    (∀ c ∈ [0, 4200000000], let s := { device (fun d => { d with owner := 1 }) with clock := c }
     s.device.owner ≠ 0 ∧ s.device.beatAt = 0 ∧ s.clock = c) ∧
    (∀ a ∈ [0, 1], ∀ l ∈ [true, false], let s := (device (fun d => { d with locked := l })).modVF 0 (fun v => { v with attStatus := a })
     0 < s.parts.length ∧ (s.part 0).vf.attStatus = a ∧ s.vfWritable 0 = !l ∧ s.device.unpowered = false ∧ s.device.locked = l ∧
       s.device.keysErased = false ∧ s.device.staging.length < 4096) ∧
    (∀ n ∈ [1, 2], let s := device (fun d => { d with owner := 1, fwStatus := n })
     s.ownerPath .host = true ∧ s.device.fwBusy = 0 ∧ s.device.fwStatus % 4 = n) ∧
    ∀ n ∈ [1, 2, 3, 4], let s := device (fun d => { d with fwBusy := n })
     s.device.unpowered = false ∧ s.device.fwBusy = n := by
  refine ⟨by decide +kernel, ?_, ?_, fun c h => ?_, fun a ha l hl => ?_, fun n h => ?_, fun n h => ?_⟩
  · refine ⟨?_, (owner_of ?_).1, (owner_of ?_).2, ?_, ?_, ?_⟩
    · decide +kernel
    · decide +kernel
    · decide +kernel
    · rw [owner_is] <;> decide +kernel
    · decide +kernel
    · decide +kernel
  · refine ⟨?_, ?_, ?_, ?_⟩
    · decide +kernel
    · rw [owner_is] <;> decide +kernel
    · decide +kernel
    · decide +kernel
  · fin_cases h <;> exact ⟨by decide +kernel, by decide +kernel, rfl⟩
  · fin_cases ha <;> fin_cases hl <;> decide +kernel
  · fin_cases h <;> exact ⟨(owner_of (by decide +kernel)).1, by decide +kernel⟩
  · fin_cases h <;> decide +kernel

/-- Banks below the refresh count, at it, at twice it, held, and held with an event logged and activations waiting; an empty log and one with
a record; groups that no partition owns; a function being reset, its launch alive and ended. -/
theorem wit_DeviceCare :
    (one.device.unpowered = false ∧ one.device.staging = [] ∧ (one.launches.map (·.lid)).Nodup ∧ 0 < one.parts.length ∧ one.entries = [] ∧
      Memory.wf one.mem = true ∧ cellsWf .idle one.device.banks = true ∧ cellsWf 0 one.device.histTemp = true ∧
      cellsWf 0 one.device.histDroop = true) ∧
    (∀ ls ∈ [[], one.launches], let s := one.modVF 0 (fun v => { v with resetting := true, frLen := 5 })
      let u : State := { s with launches := ls }
      (u.part 0).vf.resetting = true ∧ (u.part 0).vf ≠ .reset ∧
      ((∃ l ∈ u.launches, l.part = 0 ∧ l.stage ≠ .retired) ↔ ls ≠ []) ∧ ((∀ l ∈ u.launches, l.part = 0 → l.stage = .retired) ↔ ls = [])) ∧
    (∀ b ∈ [(⟨63, false, false, 0⟩ : Bank), ⟨64, false, false, 0⟩, ⟨128, true, false, 0⟩, ⟨128, true, true, 3⟩],
      let s := State.reset.modDevice (fun d => { d with memRfm := 64, banks := [(5, b)] })
      s.device.unpowered = false ∧ s.bank 5 = b ∧ s.device.memRfm = 64 ∧ s.device.staging.length < 4096 ∧ cellsWf .idle s.device.banks = true ∧
      (∀ k < 16, (s.part k).groups = 0)) ∧
    (device (fun d => { d with staging := [⟨0, 0, 0, 0, 0, 0⟩] })).device.staging ≠ [] := by
  refine ⟨by decide +kernel, fun ls h => ?_, fun b h => ?_, by decide +kernel⟩
  · fin_cases h <;> decide +kernel
  · fin_cases h <;> decide +kernel

/-! ### Single steps with results the spec gives

Each result stands in the spec as a worked example or a table, or follows by hand from the rule named. -/

/-- The wave of `one` with words in registers of lanes. -/
def poked (ps : List (Nat × Nat × Word)) : State :=
  one.modWave wr (fun w => ps.foldl (fun w p => w.modLane p.1 (fun x => x.writeV p.2.1 p.2.2)) w)

/-- That wave after an instruction. -/
def after (i : Instr) (s : State) : Wave :=
  match exec i s with
  | .next t => theWave t
  | _ => theWave State.reset

/-- Register 1 of lane 0 and the flags after an instruction on registers 2, 3 and 1, the same in every lane. -/
def lane0 (i : Instr) (b c d : Word) : Word × Flags :=
  let w := after i (poked ((upTo 8).flatMap (fun l => [(l, 1, d), (l, 2, b), (l, 3, c)])))
  (w.reg 0 1, w.fflags)

/-- R163, R182: 2^24 + 1 ties to even, inexact; infinities of both signs give the canonical NaN, invalid. -/
theorem test_fadd : lane0 (.fadd 1 2 3 0 0) 0x4B800000 0x3F800000 0 = (0x4B800000, flInexact) ∧
    lane0 (.fadd 1 2 3 0 0) 0x7F800000 0xFF800000 0 = (0x7FC00000, flInvalid) := by decide +kernel

/-- R182: the difference 1.0 - 2.0. -/
theorem test_fsub : lane0 (.fsub 1 2 3 0 0) 0x3F800000 0x40000000 0 = (0xBF800000, flNone) := by decide +kernel

/-- R164, R182: an overflow under sat gives the largest finite value. -/
theorem test_fmul : lane0 (.fmul 1 2 3 1 0) 0x7F000000 0xC0000000 0 = (0xFF7FFFFF, flOverflow ||| flInexact) := by decide +kernel

/-- R182: (1 + 2^-23)^2 - 1 = 2^-22 + 2^-46 is rounded once, at 2^-22. -/
theorem test_ffma : lane0 (.ffma 1 2 3 0 0) 0x3F800001 0x3F800001 0xBF800000 = (0x34800000, flInexact) := by decide +kernel

/-- R182: -0 lies below +0; a NaN operand yields the other. -/
theorem test_fmin : lane0 (.fmin 1 2 3 0 0) 0x00000000 0x80000000 0 = (0x80000000, flNone) ∧
    lane0 (.fmax 1 2 3 0 0) 0x7FC00000 0xBF800000 0 = (0xBF800000, flNone) := by decide +kernel

/-- Table 8.4: special operands; log2 of 1; exp2 of 1. -/
theorem test_ftr : lane0 (.ftr 1 2 0 0 0) 0x80000000 0 0 = (0xFF800000, flDivZero) ∧
    lane0 (.ftr 1 2 1 0 0) 0xBF800000 0 0 = (0x7FC00000, flInvalid) ∧ lane0 (.ftr 1 2 4 0 0) 0x3F800000 0 0 = (0, flNone) ∧
    lane0 (.ftr 1 2 3 0 0) 0x3F800000 0 0 = (0x40000000, flNone) ∧ lane0 (.ftr 1 2 13 0 0) 0x80000000 0 0 = (0, flNone) := by
  decide +kernel

/-- R186: the correctly rounded roots and reciprocals: sqrt 2, 1 / 3, floor -0.5. -/
theorem test_ftr_rounded : lane0 (.ftr 1 2 2 0 0) 0x40000000 0 0 = (0x3FB504F3, flInexact) ∧
    lane0 (.ftr 1 2 0 0 0) 0x40400000 0 0 = (0x3EAAAAAB, flInexact) ∧ (lane0 (.ftr 1 2 9 0 0) 0xBF000000 0 0).1 = 0xBF800000 := by
  decide +kernel

/-- R134, R185: -1.0 < 1.0; -1 < 1 signed, not natural. -/
theorem test_compare : (after (.fcmp 3 2 3 2 0) (poked [(0, 2, 0xBF800000), (0, 3, 0x3F800000)])).pred 0 3 = true ∧
    (after (.icmp 3 2 3 2 0) (poked [(0, 2, 0xFFFFFFFF), (0, 3, 1)])).pred 0 3 = true ∧
    (after (.icmpn 3 2 3 2 0) (poked [(0, 2, 0xFFFFFFFF), (0, 3, 1)])).pred 0 3 = false := by decide +kernel

/-- R183: 1.0 + 2^-53 ties to 1.0 in FP64. -/
theorem test_dadd : (let w := after (.dadd 2 4 6 0 0) (poked [(0, 5, 0x3FF00000), (0, 7, 0x3CA00000)])
    (w.reg 0 2, w.reg 0 3, w.fflags)) = (0, 0x3FF00000, flInexact) := by decide +kernel

/-- R184: each half apart: 1.0 + 1.0 and 65504 + 65504. -/
theorem test_hadd2 : lane0 (.hadd2 1 2 3 0 0) 0x3C007BFF 0x3C007BFF 0 = (0x40007C00, flOverflow ||| flInexact) := by decide +kernel

/-- R191: 3e9 clamps to the signed range, invalid; natural -0.5 rounds to 0 in range, inexact. -/
theorem test_cvti : lane0 (.cvti 1 2 1 1 1 0 1 0) 0x4F32D05E 0 0 = (0x7FFFFFFF, flInvalid) ∧
    lane0 (.cvti 1 2 1 0 0 0 0 0) 0xBF000000 0 0 = (0, flInexact) := by decide +kernel

/-- R190: nibble 3 of E2M1 holds 6.0. -/
theorem test_cvtn : (lane0 (.cvtn 1 2 6 3 0 0 0) 0x00007000 0 0).1 = 0x40C00000 := by decide +kernel

/-- The SR example of R165: 1.25 to E2M1 takes 1.5 under R = 0x5D13 and 1.0 under R = 0x85EF. -/
theorem test_mxpk : (after (.mxpk 1 2 6 0 2 0 0 0) (poked [(0, 2, 0x3FA00000), (0, 3, 0x3FA00000), (0, 4, 0x5D1385EF)])).reg 0 1 = 0x23 := by
  decide +kernel

/-- Table 7.4: amax 7.0 takes scale 0x7F under the floor rule and 0x80 under the ceil rule, in slot 0 of the rail. -/
theorem test_bscale : (let w := after (.bscale 1 2 4 0 0 0) (poked [(0, 2, 0x40E00000)]); (w.railSlot 1 0 0, w.reg 0 1)) = (0x7F, 0x3F800000) ∧
    (let w := after (.bscale 1 2 4 0 1 0) (poked [(0, 2, 0x40E00000)]); (w.railSlot 1 0 0, w.reg 0 1)) = (0x80, 0x3F000000) := by decide +kernel

/-- The values of Table 7.4. -/
def workedBlock : List Val := (decodeFmt fp32 0x40E00000) :: (decodeFmt fp32 0xBE99999A) :: (decodeFmt fp32 0x3FA00000) :: List.replicate 29 (.fin false 0 0)

/-- Table 7.4: the scale code and the element codes under both rules. -/
theorem test_worked_block :
    quantBlock e2m1 false (List.replicate 32 .rne) false false workedBlock = (0x7F, [7, 9, 2] ++ List.replicate 29 0) ∧
    quantBlock e2m1 true (List.replicate 32 .rne) false false workedBlock = (0x80, [6, 8, 1] ++ List.replicate 29 0) := by decide +kernel

/-- Table 6.6, through `rand`. -/
theorem test_rand : (after (.rand 1 4 6 0) (poked [(0, 4, 0), (0, 5, 0), (0, 6, 1)])).reg 0 1 = 0x5D139822 ∧
    scarab 0x100000000 0 = 0x85EFE529 := by decide +kernel

/-- R287: the key of the SR draws in the example of R286. -/
theorem test_draw_key : Nat.xor 0x000000015EED0001 (3 * 2 ^ 56) % 2 ^ 64 = 0x030000015EED0001 := by decide

/-- R130: a wrap, and a saturating sum. -/
theorem test_iadd : (lane0 (.iadd 1 2 3 0 0) 0xFFFFFFFF 1 0).1 = 0 ∧ (lane0 (.iadd 1 2 3 2 0) 0x7FFFFFFF 1 0).1 = 0x7FFFFFFF := by decide +kernel

/-- R130: the high halves of (-1) * (-1), signed and natural. -/
theorem test_imul : (lane0 (.imul 1 2 3 1 0) 0xFFFFFFFF 0xFFFFFFFF 0).1 = 0 ∧
    (lane0 (.imul 1 2 3 2 0) 0xFFFFFFFF 0xFFFFFFFF 0).1 = 0xFFFFFFFE := by decide +kernel

/-- R131: shifts by the width and above; a rotation by 33. -/
theorem test_ish : (lane0 (.ish 1 2 3 0 0) 0xFFFFFFFF 32 0).1 = 0 ∧ (lane0 (.ish 1 2 3 2 0) 0x80000000 40 0).1 = 0xFFFFFFFF ∧
    (lane0 (.ish 1 2 3 3 0) 0x80000001 33 0).1 = 3 := by decide +kernel

/-- R132: clz of zero; bytes reversed. -/
theorem test_ibit : (lane0 (.ibit 1 2 1 0) 0 0 0).1 = 32 ∧ (lane0 (.ibit 1 2 4 0) 0x11223344 0 0).1 = 0x44332211 := by decide +kernel

/-- R133: a signed field of four bits at 4; an insertion of eight bits at 8. -/
theorem test_fields : (lane0 (.bfe 1 2 3 1 0) 0x000000F0 0x404 0).1 = 0xFFFFFFFF ∧
    (lane0 (.bfi 1 2 3 0 0) 0xABCD 0x808 0x11111111).1 = 0x1111CD11 := by decide +kernel

/-- R78: `movi` sign-extends its immediate. -/
theorem test_movi : (lane0 (.movi 1 0x8000 0) 0 0 0).1 = 0xFFFF8000 := by decide +kernel

/-- R142: lane 7 has no partner above and keeps its own. -/
theorem test_shfl : (let w := after (.shfl 1 2 3 3 0) (poked [(6, 2, 1), (7, 2, 1), (6, 3, 6), (7, 3, 7)])
    (w.reg 6 1, w.reg 7 1)) = (7, 7) := by decide +kernel

/-- The exchange of R143: v1 holds ten times the lane. -/
theorem test_qxch : (let w := after (.qxch 2 1 0 0 0) (poked [(1, 1, 10), (2, 1, 20), (3, 1, 30), (4, 1, 40), (5, 1, 50)])
    (upTo 6).map (fun l => w.reg l 2)) = [10, 0, 30, 20, 50, 40] := by decide +kernel

/-- The reduction tree of R146: 2^24 and seven ones sum to 16,777,222.0, inexact. -/
theorem test_redx : (let w := after (.redx 4 2 8 0) (poked ((0, 2, 0x4B800000) :: (rangeFrom 1 7).map (fun l => (l, 2, 0x3F800000))))
    (w.sreg 4, w.fflags)) = (0x4B800003, flInexact) := by decide +kernel

/-- R147: a scalar written to lane 5. -/
theorem test_lane : (after (.lane 3 71 5 1 0) (one.modWave wr (fun w => w.setS 7 99))).reg 5 3 = 99 := by decide +kernel

/-- R148, Table 6.5: the lane and the width. -/
theorem test_sread : (after (.sread 1 0 0 0) one).reg 6 1 = 6 ∧ (after (.sread 1 0 3 0) one).reg 0 1 = 8 := by decide +kernel

/-- Table 5.3: of eight lanes, those with p1 true go back three words and the others go on. -/
theorem test_bra : (let s := one.modWave wr (fun w => w.modLanes (rangeFrom 2 6) (fun x => x.setPred 1 true))
    let w := after (.bra 3 1) s; w.lanes.map (fun x => x.vpc)) = [2, 2, 3, 3, 3, 3, 3, 3] := by decide +kernel

/-- R117: `exit` under a guard ends its lanes only. -/
theorem test_exit : (let w := after (.exit 1) (one.modWave wr (fun w => w.modLanes [4] (fun x => x.setPred 1 true)))
    w.lanes.map Lane.isGone) = [false, false, false, false, true, false, false, false] := by decide +kernel

/-- R393: a software trap 1 leaves its lanes trapped with cause 0x0E and detail 1. -/
theorem test_trap : (let w := after (.trap 1 0) one
    w.lanes.all (fun x => x.state == .trapped && (x.trap.map (fun t => (t.cause, t.detail))) == some (0x0E, 1))) = true := by decide +kernel

/-- The headers of the assembled clauses (Table 3.16 and the branch after it), and the two words that are none. -/
theorem test_headers : headerOf 0x81400102 = some ⟨false, 1, 1, 2, 0, 2⟩ ∧ headerOf 0x8F000011 = some ⟨false, 15, 0, 0, 1, 1⟩ ∧
    headerOf 0x80104180 = none ∧ headerOf 0 = none := by decide

/-- Table 2.4: rate 10,240 adds ten tokens a tick, 640 bytes. -/
theorem test_bucket : (Bucket.accrue ⟨0, 0⟩ (10240 + 64 * 2 ^ 32) 1).level = 10 * 1024 ∧
    ((Bucket.mk 0 0).take (10240 + 64 * 2 ^ 32) 1 640).isSome = true ∧
    ((Bucket.mk 0 0).take (10240 + 64 * 2 ^ 32) 1 641).isSome = false := by decide

/-- The image of the choice worked with Table 20.9: 1,441,792 bytes. -/
theorem test_image_bytes : ({ placedRecord with width := 64, vregs := 32, blockDim := [256, 1, 1], scratch := 262144, accRows := 512 } :
    LaunchRecord).imageBytes = 1441792 := by decide +kernel

/-- The convening worked with Table 13: a block's 32 products of 1.0 and 0.5 sum to 16, exactly; D[0][0] = 145.0. -/
theorem test_dot : roundTo fp32 (dotExact (List.replicate 32 (decodeFmt e4m3 0x38)) (List.replicate 32 (decodeFmt e4m3 0x30))) .rne false false =
      (0x41800000, flNone) ∧
    (roundTo fp32 (exactSum [decodeFmt fp32 0x3F800000, .fin false (7 * 16) 0, .fin false 32 0]) .rne false false).1 = 0x43110000 := by
  decide +kernel

/-- Table 18.8: 1 + 2^-8 ties to 1.0 in BF16; 1 + 2^-7 is exact. -/
theorem test_wire : roundTo bf16 (.fin false 257 (-8)) .rne false false = (0x3F80, flInexact) ∧
    roundTo bf16 (.fin false 129 (-7)) .rne false false = (0x3F81, flNone) := by decide +kernel

/-- The block of the test wave after an instruction. -/
def blkAfter (i : Instr) (s : State) : Block :=
  match exec i s with
  | .next t => blk t
  | _ => blk State.reset

/-- R249, R260: lanes 0 and 1 store to one word, and the higher lane's value stays; low bytes first. -/
theorem test_sts : (blkAfter (.stsB32 3 2 0 0 0) (offsets (poked [(0, 3, 0x11), (1, 3, 0x11223344)]) (fun l => if l < 2 then 8 else 64 * l))).scratchNat 8 4 =
    0x11223344 ∧ (blkAfter (.stsB32 3 2 0 0 0) (offsets (poked [(0, 3, 0x11223344)]) (fun l => 64 * l))).scratchNat 0 1 = 0x44 := by decide +kernel

/-- R259, R261: `.wfc` empties the granules it reads. -/
theorem test_lds : (let k := blkAfter (.ldsB32 1 2 0 2 0) (offsets one (fun l => 32 * l)); (upTo 5).map k.granuleFull) =
    [false, true, false, true, false] := by decide +kernel

/-- R405: a resume address takes the trapped lane to it, and to its slot 0. -/
theorem test_tres : (match exec (.tres 3 0) (handled 9) with
    | .next t => (t.lane? (.blk 1 0) 3).map (fun x => (x.state == .active, x.vpc, x.slot))
    | _ => none) = some (true, 9, 0) := by decide +kernel

/-! ### The assembler

The words and headers that the spec's listings give. -/

/-- A statement that is an instruction without `.te` and without a label. -/
def stmt (i : Instr) : AsmItem := .instr { instr := i }

/-- The words of statements at the start of the text section. -/
def asmOf (items : List AsmItem) : Option (List Nat) := (assemble [] items 0).map (·.1)

/-- The statements of `fill`: its first label, and each instruction as the listing writes it. -/
def fillItems : List AsmItem :=
  [.width 64, .vregs 8, .sregs 2, .scratch 256, .label [0x66], stmt (.sread 0 0 4 0), stmt (.ishi 1 0 0 2 0), stmt (.iadd 2 118 0 0 0),
    stmt (.stsB32 2 1 0 0 0), stmt (.exit 0)]

/-- Table 4.10: the words of `fill`. -/
theorem test_assemble_fill : asmOf fillItems =
    some [0x8F000003, 0xFC000040, 0x94100020, 0x802EC000, 0x8F000021, 0x44204000, 0x8F000011, 0x18000000] := by decide +kernel

/-- The kernel header of `fill`; without its directives it would take 8 vector registers, and 0 scalar ones. -/
theorem test_kernel_header :
    ((asmKernel 0 (some [0x66]) fillItems 0).bind KernelDecl.bytes) =
      some (bytesLE 4 0 ++ bytesLE 4 0 ++ bytesLE 4 0 ++ bytesLE 4 0xFFFFFFFF ++ bytesLE 2 0x0003 ++ bytesLE 2 0 ++ bytesLE 4 0x21 ++
        bytesLE 4 0x100 ++ bytesLE 4 0) ∧
    (asmKernel 0 none (fillItems.drop 4) 0).map (fun k => (k.vnamed, k.vcount, k.scount)) = some (3, 8, 0) := by decide +kernel

/-- Table 3.16 and the clause of one branch after it: a wait, a trap-on-empty bit, a label six words back. -/
theorem test_assemble_clauses :
    asmOf [.clause 0 (some (1, 1)) false, stmt (.ffma 8 9 10 2 5), .instr { instr := .iadd 1 2 3 0 0, te := true }] =
      some [0x81400102, 0x0C812525, 0x80104180] ∧
    asmOf [.label [7], stmt (.nop 0), stmt (.iadd 1 2 3 0 0), stmt (.nop 0), .instr { instr := .bra 0 2, target := some [7] }] =
      some [0x8F000011, 0, 0x8F000001, 0x80104180, 0x8F000012, 0, 0x07FFFFC2] ∧
    asmOf [stmt (.bra 0 2)] = none ∧
    asmOf [.instr { instr := .bra 0 2, target := some [7] }, .label [7]] = none ∧
    asmOf [.clause 0 none false, .label [3], stmt (.nop 0)] = none ∧ asmOf [.clause 0 none false, stmt (.nop 0)] = none := by decide +kernel

/-- R88: division truncates towards zero and the remainder takes the sign of the dividend; a load-time symbol stands under `w2` only with a
number added. -/
theorem test_expressions : (AsmExpr.div (.num (-7)) (.num 2)).eval [] = some (.abs (-3)) ∧
    (AsmExpr.rem (.num (-7)) (.num 2)).eval [] = some (.abs (-1)) ∧
    (AsmExpr.div (.num 1) (.num 0)).eval [] = none ∧ (AsmExpr.shl (.num 1) (.num 64)).eval [] = some (.abs 0) ∧
    (AsmExpr.shr (.num 1) (.num (-1))).eval [] = none ∧
    (AsmExpr.part 2 (.add (.symbol [1]) (.num 8))).eval [] = some (.reloc 6 [1] 8) ∧
    (AsmExpr.mul (.symbol [1]) (.num 8)).eval [] = none ∧ (AsmExpr.mul (.symbol [1]) (.num 8)).eval [([1], 3)] = some (.abs 24) := by
  decide +kernel

/-- R92: an offset is written in bytes, in units of the access. -/
theorem test_offset : (asmWord [] [] 0 0 { instr := .stsB64 2 1 0 0 0, off := some (.num (-8)) }).map (·.1) = some (encodeNat (.stsB64 2 1 63 0 0)) ∧
    asmWord [] [] 0 0 { instr := .stsB64 2 1 0 0 0, off := some (.num 4) } = none ∧
    (asmWord [] [] 0 0 { instr := .pref 2 0 0 0 0, off := some (.num 256) }).map (·.1) = some (encodeNat (.pref 2 2 0 0 0)) := by decide +kernel

/-- R96: decimal literals round to nearest even, and a value that does not fit is an error. -/
theorem test_data : (AsmData.float false 1 (-1)).bytes [] 0 = some (bytesLE 4 0x3DCCCCCD, []) ∧
    (AsmData.double true 15 (-1)).bytes [] 0 = some (bytesLE 8 0xBFF8000000000000, []) ∧
    (AsmData.int 1 (.num 256)).bytes [] 0 = none ∧ (AsmData.int 4 (.hi32 (.symbol [9]))).bytes [] 8 = some (bytesLE 4 0, [⟨8, [9], 3, 0⟩]) := by
  decide +kernel

/-- An object of a kernel and a data word that holds the kernel's address. -/
def smallObject : Option (List Byte) :=
  (asmProgram [.data (.int 8 (.symbol [0x6B])), .kernel [0x6B] none [stmt (.exit 0)]]).bind AsmObject.bytes

/-- The object loads with text at 0x1000: the data word becomes the kernel's address; at 0x1080 it is refused (R97, R98). -/
theorem test_object : ((smallObject.bind (fun bs => uobLoad bs [0, 0x1000, 0x4000, 0, 0, 0, 0] (fun _ => none))).bind (fun cs => cs[2]?)) =
      some (bytesLE 8 0x1000) ∧
    (smallObject.bind (fun bs => uobLoad bs [0, 0x1080, 0x4000, 0, 0, 0, 0] (fun _ => none))) = none := by decide +kernel

/-- Table 1.13: the descriptor's fields, and the image read back. -/
theorem test_descriptor : (let d : Desc := ⟨0x200000000000, 0x200100000000, [4096, 1024, 1, 1], [4096, 0, 0], [256, 128, 1, 1], 4, 1, true, false, 2, 0⟩
    imageNat d.toImage 0x3A 2 = 0x8254 ∧ d.toImage.length = 64 ∧ parseDesc d.toImage = some d) := by decide +kernel

/-- R98: the four pieces of an address in `movl` and `movh`, and a word under `hi32`. -/
theorem test_relocations : (UobReloc.mk 0 0 5 0).patch (bytesLE 4 0xB9000003) 0x12345678 = some (bytesLE 4 0xB9012343) ∧
    (UobReloc.mk 2 0 3 0).patch (bytesLE 8 0) 0x0123456789ABCDEF = some (bytesLE 2 0 ++ bytesLE 4 0x01234567 ++ bytesLE 2 0) := by decide +kernel

end Sys2Proof.Tests
end

section

namespace Sys2Proof.Proofs

open Sys2Proof.Machine

/-- Settles O10: every field of the state after reset is as listed. -/
theorem resetState : Obligations.ResetState := by
  refine ⟨rfl, fun p hp => ?_, fun a _ => rfl, rfl, rfl, rfl, rfl, rfl, rfl, rfl, rfl⟩
  rw [List.eq_of_mem_replicate (show p ∈ List.replicate 16 Partition.reset from hp)]
  exact ⟨rfl, rfl, rfl⟩

end Sys2Proof.Proofs
end

section
/-! SUPPORT. What an instruction of a lane's own does when registers that it names are empty (R9, R74, R251, R376). -/

namespace Sys2Proof.Machine

/-- The registers among `vr` that are empty in a lane of a wave. -/
def Wave.lacking (w : Wave) (vr : List Nat) (l : Nat) : List Nat :=
  vr.filter (fun r => ((w.lanes[l]?).map (fun x => !x.isFull r)).getD false)

theorem Wave.mem_lacking {w : Wave} {vr : List Nat} {l r : Nat} {x : Lane} (hx : w.lanes[l]? = some x) :
    r ∈ w.lacking vr l ↔ r ∈ vr ∧ x.isFull r = false := by simp [Wave.lacking, hx]

/-- A lane that the wave does not have lacks nothing. -/
theorem Wave.lacking_none {w : Wave} {vr : List Nat} {l : Nat} (hx : w.lanes[l]? = none) : w.lacking vr l = [] := by
  simp [Wave.lacking, hx]

/-- The needs of a lane that the gate finds missing are its empty registers. -/
theorem Wave.missing_eq_lacking (w : Wave) (vr : List Nat) (l : Nat) :
    (vr.map (fun r => (l, r))).filter (fun n => !(((w.lanes[n.1]?).map (·.isFull n.2)).getD true)) =
      (w.lacking vr l).map (fun r => (l, r)) := by
  rw [List.filter_map, Wave.lacking]
  congr 2
  funext r
  cases hx : w.lanes[l]? <;> simp [hx]

theorem findSome?_congr {α β : Type} {l : List α} {f g : α → Option β} (h : ∀ a ∈ l, f a = g a) : l.findSome? f = l.findSome? g := by
  induction l with
  | nil => rfl
  | cons a l ih => simp [List.findSome?_cons, h a, ih fun b hb => h b (List.mem_cons_of_mem a hb)]

/-- The mark that the gate sees in a lane's empty registers is the first among them. -/
theorem Wave.firstMark_lacking {w : Wave} {vr : List Nat} {l : Nat} {x : Lane} (hx : w.lanes[l]? = some x) :
    w.firstMark ((w.lacking vr l).map (fun r => (l, r))) = (w.lacking vr l).findSome? x.mark? := by
  rw [Wave.firstMark, List.findSome?_map]
  apply findSome?_congr
  intro r hr
  simp [hx, ((Wave.mem_lacking hx).1 hr).2]

/-- A lane none of whose empty registers is marked goes on, traps under the trap-on-empty bit, or waits for exactly these registers. -/
theorem Wave.gate_unmarked {w : Wave} {te : Bool} {vr : List Nat} {l : Nat}
    (hm : ∀ x : Lane, w.lanes[l]? = some x → ∀ r ∈ vr, x.mark? r = none) :
    w.gate te (vr.map (fun r => (l, r))) =
      if (w.lacking vr l).isEmpty then .go
      else if te then .trap 0x03 0
      else .wait ((w.lacking vr l).map (fun r => ⟨false, l, r⟩)) := by
  have hf : w.firstMark ((w.lacking vr l).map (fun r => (l, r))) = none := by
    cases hx : w.lanes[l]? with
    | none => simp [Wave.lacking_none hx, Wave.firstMark]
    | some x =>
      rw [Wave.firstMark_lacking hx, List.findSome?_eq_none_iff]
      exact fun r hr => hm x hx r ((Wave.mem_lacking hx).1 hr).1
  simp only [Wave.gate, Wave.missing_eq_lacking, hf, List.isEmpty_map, List.map_map]
  rfl

/-- A lane with a marked empty register traps as its mark says, whatever the trap-on-empty bit, when no other empty register has another
mark. -/
theorem Wave.gate_marked {w : Wave} {te : Bool} {vr : List Nat} {l r : Nat} {x : Lane} {k : Mark} (hx : w.lanes[l]? = some x)
    (hr : r ∈ vr) (he : x.isFull r = false) (hk : x.mark? r = some k)
    (ho : ∀ q ∈ vr, x.isFull q = false → x.mark? q = none ∨ x.mark? q = some k) :
    w.gate te (vr.map (fun r => (l, r))) = k.gate := by
  have hf : w.firstMark ((w.lacking vr l).map (fun r => (l, r))) = some k := by
    rw [Wave.firstMark_lacking hx]
    have hs : ((w.lacking vr l).findSome? x.mark?).isSome :=
      List.findSome?_isSome_iff.2 ⟨r, (Wave.mem_lacking hx).2 ⟨hr, he⟩, by simp [hk]⟩
    obtain ⟨m, hm⟩ := Option.isSome_iff_exists.1 hs
    obtain ⟨q, hq, hqm⟩ := List.exists_of_findSome?_eq_some hm
    obtain ⟨hqv, hqe⟩ := (Wave.mem_lacking hx).1 hq
    rcases ho q hqv hqe with h | h <;> simp_all
  simp only [Wave.gate, Wave.missing_eq_lacking, hf]

/-- Lanes passed through their gates one after the other: those that go on change nothing, so the others alone count. -/
theorem foldl_passGate_stopped (s : State) (c : Ctx) (gate : Nat → Gate) (ts : List Nat) (go : Nat → Bool)
    (h : ∀ l ∈ ts, go l = true → gate l = .go) :
    ts.foldl (fun s l => s.passGate c l (gate l)) s = (ts.filter (fun l => !go l)).foldl (fun s l => s.passGate c l (gate l)) s := by
  rw [List.foldl_filter]
  apply List.foldl_ext
  intro t l hl
  cases hg : go l with
  | false => simp
  | true => simp [h l hl hg, State.passGate]

/-- The wait of a lane of a wave that stops for the registers among `vr` that it lacks. -/
def Wave.waitFor (w : Wave) (vr : List Nat) (l : Nat) : LaneState := .waitReg ((w.lacking vr l).map (fun r => ⟨false, l, r⟩))

/-- A lane instruction of a wave executing alone: its lanes pass their gates, and those that go on have their effects. -/
theorem laneOp_gates {s : State} {c : Ctx} {w : Wave} (h : Alone s c w) {i : Instr} {g : BitVec 4} {vr sr : List Nat}
    (hi : LegalFor i vr sr w) (f : Wave → Nat → LaneEff) :
    s.laneOp i g vr sr f = .next ((s.gates c w (fun l => vr.map (fun r => (l, r))) (c.t w g)).2.modWave c.r
      (fun v => v.applyEffs (s.gates c w (fun l => vr.map (fun r => (l, r))) (c.t w g)).1 (f w))) := by
  rw [State.laneOp, execWord_alone h hi rfl]

theorem modifyAt_id {α : Type} (l : List α) (i : Nat) : modifyAt l i (fun x => x) = l := by
  apply List.ext_getElem?
  intro j
  rw [getElem?_modifyAt]
  split <;> simp

/-- A wave passed through the identity leaves the state. -/
theorem modWave_id (s : State) (r : WaveRef) : s.modWave r (fun w => w) = s := by
  cases r with
  | blk u j => simp [State.modWave, State.modBlock, modifyAt_id]
  | hdl k q =>
    have hh : (Option.map (fun h : Handler => { h with wave := h.wave })) = fun o => o := by
      funext o; cases o <;> rfl
    simp only [State.modWave, State.modCore, hh, modifyAt_id]

@[simp] theorem Wave.applyEffs_none (w : Wave) (f : Nat → LaneEff) : w.applyEffs [] f = w := by
  have hl : mapIdx' (fun (_ : Nat) (x : Lane) => x) w.lanes = w.lanes := by
    apply List.ext_getElem?
    intro j
    simp [getElem?_mapIdx']
  simp [Wave.applyEffs, hl]

/-- A lane instruction no lane of which goes on: the lanes pass their gates, and nothing else happens. -/
theorem laneOp_noneGoes {s : State} {c : Ctx} {w : Wave} (h : Alone s c w) {i : Instr} {g : BitVec 4} {vr sr : List Nat}
    (hi : LegalFor i vr sr w) (f : Wave → Nat → LaneEff) (k : Gate) (hk : k ≠ .go)
    (hg : ∀ l ∈ c.t w g, w.gate c.te (vr.map (fun r => (l, r))) = k) :
    s.laneOp i g vr sr f = .next ((c.t w g).foldl (fun s l => s.passGate c l k) s) := by
  have hgo : (c.t w g).filter (fun l => w.gate c.te (vr.map (fun r => (l, r))) == .go) = [] := by
    rw [List.filter_eq_nil_iff]
    intro l hl
    simp [hg l hl, hk]
  rw [laneOp_gates h hi]
  simp only [State.gates, hgo, Wave.applyEffs_none, modWave_id]
  congr 1
  exact List.foldl_ext _ _ _ (fun t l hl => by rw [hg l hl])

/-- A lane instruction all of whose lanes trap alike. -/
theorem laneOp_traps {s : State} {c : Ctx} {w : Wave} (h : Alone s c w) {i : Instr} {g : BitVec 4} {vr sr : List Nat}
    (hi : LegalFor i vr sr w) (f : Wave → Nat → LaneEff) {cause addr : Nat}
    (hg : ∀ l ∈ c.t w g, w.gate c.te (vr.map (fun r => (l, r))) = .trap cause addr) :
    s.laneOp i g vr sr f = .next (s.takeTraps c.r (c.t w g) c.hdr c.slot cause 0 addr) :=
  laneOp_noneGoes h hi f _ (by simp) hg

/-- A wave of which some lanes have stopped at an instruction and others had their effects: the stopped ones wait in their states, the
others' effects and flags are those of the wave before, and all else of it is as before. -/
structure StoppedAndWritten (w v : Wave) (c : Ctx) (waits goes : List Nat) (st : Nat → LaneState) (eff : Nat → LaneEff) : Prop where
  rest : v = { w with lanes := v.lanes, fflags := v.fflags }
  flags : FlagsRaised w v goes eff
  stopped : ∀ l ∈ waits, v.lanes[l]? = (w.lanes[l]?).map (fun x => { x with state := st l, vpc := c.hdr, slot := c.slot })
  written : ∀ (l : Nat) (x y : Lane), l ∈ goes → w.lanes[l]? = some x → v.lanes[l]? = some y → LaneWritten x y (eff l)
  outside : ∀ l, l ∉ waits → l ∉ goes → v.lanes[l]? = w.lanes[l]?

/-- Effects applied to a wave after other lanes of it have stopped. -/
theorem applyEffs_stopped {w u : Wave} {c : Ctx} {waits goes : List Nat} {st : Nat → LaneState} {eff : Nat → LaneEff}
    (hu : LanesMapped w u (fun l x => if l ∈ waits then { x with state := st l, vpc := c.hdr, slot := c.slot } else x))
    (hd : ∀ l ∈ waits, l ∉ goes)
    (hr : ∀ l, ((eff l).regs.map Prod.fst).Nodup) (hp : ∀ l, ((eff l).preds.map Prod.fst).Nodup) :
    StoppedAndWritten w (u.applyEffs goes eff) c waits goes st eff := by
  obtain ⟨hrest, hlanes⟩ := hu
  obtain ⟨-, hflags, -, hin, hout⟩ := applyEffs_written u goes eff hr hp
  refine ⟨?_, ?_, fun l hl => ?_, fun l x y hl hx hy => ?_, fun l hw hg => ?_⟩
  · rw [hrest]; rfl
  · rw [hrest] at hflags ⊢; exact hflags
  · rw [hout l (hd l hl), hlanes]; simp [hl]
  · have hw : l ∉ waits := fun h => hd l h hl
    exact hin l x y hl (by simp [hlanes, hx, hw]) hy
  · rw [hout l hg, hlanes]; simp [hw]

/-- A lane instruction without the trap-on-empty bit, over unmarked registers: the lanes whose registers are full have their effects, and
the others leave the clause issue and wait for exactly what they lack (R9, R74). -/
theorem laneOp_waits {s : State} {c : Ctx} {w : Wave} (h : Alone s c w) {i : Instr} {g : BitVec 4} {vr sr : List Nat}
    (hi : LegalFor i vr sr w) (f : Wave → Nat → LaneEff)
    (hr : ∀ l, ((f w l).regs.map Prod.fst).Nodup) (hp : ∀ l, ((f w l).preds.map Prod.fst).Nodup) (hte : c.te = false)
    (hm : ∀ l ∈ c.t w g, ∀ x : Lane, w.lanes[l]? = some x → ∀ r ∈ vr, x.mark? r = none) :
    let goes := (c.t w g).filter (fun l => (w.lacking vr l).isEmpty)
    let waits := (c.t w g).filter (fun l => !(w.lacking vr l).isEmpty)
    ∃ k : Wave → Wave, s.laneOp i g vr sr f = .next ((s.modWave c.r k).dropFromIssues c.r waits) ∧
      StoppedAndWritten w (k w) c waits goes (w.waitFor vr) (f w) := by
  intro goes waits
  have hgate (l : Nat) (hl : l ∈ c.t w g) := Wave.gate_unmarked (te := c.te) (hm l hl)
  have hgo : (c.t w g).filter (fun l => w.gate c.te (vr.map (fun r => (l, r))) == .go) = goes := by
    apply List.filter_congr
    intro l hl
    rw [hgate l hl]
    cases (w.lacking vr l).isEmpty <;> simp [hte]
  have hstop : (c.t w g).foldl (fun s l => s.passGate c l (w.gate c.te (vr.map (fun r => (l, r))))) s =
      waits.foldl (fun s l => s.stopLane c.r l c.hdr c.slot (w.waitFor vr l)) s := by
    rw [foldl_passGate_stopped s c _ _ (fun l => (w.lacking vr l).isEmpty) (fun l hl he => by simp [hgate l hl, he])]
    apply List.foldl_ext
    intro t l hl
    obtain ⟨hl, he⟩ := List.mem_filter.1 hl
    simp only [Bool.not_eq_true'] at he
    rw [hgate l hl, he, hte]
    rfl
  obtain ⟨k, hk, hmap⟩ := foldl_stopLane s c.r c.hdr c.slot (w.waitFor vr) waits
  refine ⟨fun v => (k v).applyEffs goes (f w), ?_, applyEffs_stopped (hmap w) (fun l hl => ?_) hr hp⟩
  · rw [laneOp_gates h hi]
    simp only [State.gates, hgo, hstop, hk, modWave_dropFromIssues, modWave_modWave]
  · simp only [waits, goes, List.mem_filter] at hl ⊢
    simp_all

/-- What `fadd` writes in a lane (R182). -/
def faddEff (d : BitVec 6) (a : BitVec 7) (b : BitVec 6) (m : BitVec 3) (w : Wave) (l : Nat) : LaneEff :=
  eff32 d (arith2 fp32 w.rnd m (addOp w.rnd) (w.opA l a).toNat (w.reg l b.toNat).toNat)

theorem exec_fadd (d : BitVec 6) (a : BitVec 7) (b : BitVec 6) (m : BitVec 3) (g : BitVec 4) (s : State) :
    exec (.fadd d a b m g) s =
      s.laneOp (.fadd d a b m g) g ([d.toNat, b.toNat] ++ aVec a false) (aScal a false) (faddEff d a b m) := rfl

theorem faddEff_nodup (d : BitVec 6) (a : BitVec 7) (b : BitVec 6) (m : BitVec 3) (w : Wave) (l : Nat) :
    ((faddEff d a b m w l).regs.map Prod.fst).Nodup ∧ ((faddEff d a b m w l).preds.map Prod.fst).Nodup := by
  simp [faddEff, eff32]

end Sys2Proof.Machine

namespace Sys2Proof.Proofs

open Sys2Proof.Machine

/-- Settles O33: `fadd` is a lane instruction, and each lane of T goes on, waits or traps as its gate decides from the registers it lacks. -/
theorem emptyOperands : Obligations.EmptyOperands := by
  intro d a b m g s c w h vr T lacks waits goes eff hi
  rw [exec_fadd]
  refine ⟨fun hm => ⟨fun hte => ?waits, fun hte hl => ?traps⟩, fun l r addr x hT hx hr he ho => ?marked⟩
  case waits =>
    obtain ⟨k, hk, hrest, hflags, hstop, hin, hout⟩ := laneOp_waits h hi (faddEff d a b m)
      (fun l => (faddEff_nodup d a b m w l).1) (fun l => (faddEff_nodup d a b m w l).2) hte hm
    refine ⟨k, hk, hrest, hflags, hstop, hin, fun l hl => hout l ?_ ?_⟩ <;> exact fun hw => hl (List.mem_filter.1 hw).1
  case traps =>
    refine laneOp_traps h hi _ fun l hT => ?_
    have hne : (w.lacking vr l).isEmpty = false := List.isEmpty_eq_false_iff.2 (hl l hT)
    rw [Wave.gate_unmarked (hm l hT), hne, hte]
    rfl
  case marked =>
    have hgate (k : Mark) (hk : x.mark? r = some k) (q : Nat) (hq : q ∈ c.t w g) :
        w.gate c.te (vr.map (fun r => (q, r))) = k.gate := by
      obtain rfl : q = l := List.mem_singleton.1 (hT ▸ hq : q ∈ [l])
      exact Wave.gate_marked hx hr he hk (fun p hp hpe => hk ▸ ho p hp hpe)
    rw [← hT]
    exact ⟨fun hk => laneOp_traps h hi _ (hgate _ hk), fun hk => laneOp_traps h hi _ (hgate _ hk)⟩

end Sys2Proof.Proofs
end

section
/-! SUPPORT. A launch whose gate has been spilled, and the write that frees its record (R350). -/

namespace Sys2Proof.Machine

/-- A launch record that asks for nothing, with a gate. -/
def gatedRecord : LaunchRecord where
  codeBase := 0
  entry := 0
  trapEntry := 0xFFFFFFFF
  grid := [1, 1, 1]
  blockDim := [32, 1, 1]
  width := 32
  cluster := 1
  vregs := 8
  sregs := 0
  accRows := 0
  scratch := 0
  priority := 0
  stream := 0
  coresident := false
  idempotent := false
  savable := false
  irdan := false
  notify := false
  vector := 0
  gateAddr := 0x1000
  gateOperand := 1
  gateCond := 0
  gateWide := false
  gateEnable := true
  seed := 0
  arg := 0
  colophon := 0x2000

/-- A launch of partition 0 whose gate is registered (R51). -/
def gatedLaunch : Launch where
  lid := 0
  id := 1
  part := 0
  space := 0
  stream := 0
  position := 0
  record := gatedRecord
  stage := .gated
  readyAt := 0
  order := 0
  nextLin := 0
  retiredBlocks := 0
  retiredLins := []
  killing := none
  started := none
  endTime := 0
  run := 0
  restarted := 0
  saved := 0
  traps := 0
  spills := 0
  escalations := 0
  maxLtc := 0
  doneIssues := 0
  doneBlocks := 0
  pins := (0, 0, 0)

/-- The gate of that launch, spilled into record 0 of the partition's spill area (R350). -/
def spilledGate : Entry where
  key := 0
  owner := .gate 0
  part := 0
  cond := 0
  wide := false
  addr := 0x1000
  operand := 1
  deadline := 0
  group := 0
  place := .spilled
  checked := 0
  touched := false
  recs := [0]

/-- A blank home tag of line 0: the line holds zeros and no plate (R224). -/
def blankTag : Tag where
  state := .blank
  line := 0
  domain := 0
  plate := none
  dirty := false
  poison := false
  noshare := false
  lease := 0
  scope := none
  launch := 0
  bound := false
  tolerant := false
  bfmt := 0
  bk := 0
  barred := []

/-- The machine with one partition, of slice 0 and channel group 0, whose spill area starts at address 0; its one launch waits at a gate
that has been spilled to that area's first line, which slice 0 holds blank. -/
def spilledGateState : State :=
  { State.reset with
    parts := setAt State.reset.parts 0 { Partition.reset with cells := 1, slices := 1, groups := 1, mspSize := 0x10000 }
    slices := setAt State.reset.slices 0 { Slice.reset with tags := [blankTag] }
    launches := [gatedLaunch]
    entries := [spilledGate] }

/-- Freeing the record of the gate writes to the blank line, which takes a plate of its own, and the partition's SC_UNSHARE counts it
(R350, Table 10.2). -/
theorem spilledGateState_freeRecords_unshare : ((spilledGateState.freeRecords spilledGate).part 0).sc.unshare = 1 := by decide +kernel

/-- The reset cancels the gate of the launch, and so frees its record. -/
theorem spilledGateState_resetLaunch_parts :
    (spilledGateState.resetLaunch 0).parts = (spilledGateState.freeRecords spilledGate).parts := rfl

theorem spilledGateState_functionLevelReset : exec (.functionLevelReset 0) spilledGateState =
    .next ((spilledGateState.resetLaunch 0).modVF 0 (fun v => { v with resetting := true })) := rfl

/-- A change of a virtual function leaves the Stereotype counters of every partition. -/
theorem part_modVF_sc (s : State) (p q : Nat) (f : VF → VF) : ((s.modVF p f).part q).sc = (s.part q).sc := by
  simp only [State.part, State.modVF_parts, List.getD_eq_getElem?_getD, getElem?_modifyAt]
  by_cases h : p = q
  · cases s.parts[q]? <;> simp [h]
  · simp [h]

end Sys2Proof.Machine

namespace Sys2Proof.Proofs

open Sys2Proof.Machine

/-- Refutes O60: a function-level reset does not leave the partition as it was but for `resetting`. Where the gate of one of its launches has
been spilled, cancelling it frees its record by a write, and a write to a line held blank counts in the partition's SC_UNSHARE. -/
theorem not_deviceCare : ¬ Obligations.DeviceCare := by
  intro h
  obtain ⟨-, -, hreset, -⟩ := h spilledGateState
  obtain ⟨u, hu, -, -, hpart, -⟩ := hreset 0 (by decide) (by decide) rfl (by decide)
  rw [spilledGateState_functionLevelReset] at hu
  cases hu
  have hsame : ((spilledGateState.resetLaunch 0).part 0).sc.unshare = 0 := by
    rw [← part_modVF_sc, hpart]; rfl
  have hfreed : ((spilledGateState.resetLaunch 0).part 0).sc.unshare = 1 := by
    rw [State.part, spilledGateState_resetLaunch_parts]
    exact spilledGateState_freeRecords_unshare
  omega

end Sys2Proof.Proofs
end

section
/-! SUPPORT. When an instruction word of a wave executing alone is an illegal encoding (R18, R87, R396). -/

namespace Sys2Proof.Machine

/-- The address of an instruction word: past its clause's header, by positions of 4 bytes, in 32 bits (R64, Table 20.1). -/
theorem wordAddr_of_launch {s : State} {c : Ctx} {la : Launch} (h : s.launchOf c.r = some la) :
    s.wordAddr c = la.record.codeBase + 4 * ((c.hdr.toNat + c.slot + 1) % 2 ^ 32) := by
  simp [State.wordAddr, codeAddr, h]

/-- A word that does not decode traps the executing lanes of the one member of the issue in hand. -/
theorem runWord_undecodable {s : State} {i : Issue} {m : WaveRef × List Nat} {e : Reject} (hi : s.curIssue = some i)
    (hm : i.members = [m]) (hl : m.2 ≠ []) (hw : i.instr = .error e) : runWord s = .next (s.illegal (i.ctx m)) := by
  simp [runWord, State.execIllegal, hi, hw, hm, hl]

/-- A wave that does not have a register among those that an instruction names does not declare them all. -/
theorem Wave.declares_false {w : Wave} {vr sr : List Nat} (h : (∃ r ∈ vr, w.nv ≤ r) ∨ ∃ r ∈ sr, w.ns ≤ r) :
    w.declares vr sr = false := by
  rw [Wave.declares, Bool.and_eq_false_iff, List.all_eq_false, List.all_eq_false]
  simpa using h

/-- An instruction that handler lanes may not execute does nothing in a handler wave but trap. -/
theorem exec_blockOnly (i : Instr) (h : refusedToHandlers i = true) (s : State) :
    ∃ (j : Instr) (home : Bool) (vr sr : List Nat) (legal : Wave → Bool) (f : Ctx → Wave → State → State),
      exec i s = s.execWord j home vr sr legal (fun c w s => s.blockOnly c (f c w s)) := by
  cases i
  all_goals first
    | exact absurd h Bool.false_ne_true
    | exact ⟨_, _, _, _, _, _, rfl⟩

/-- What a handler wave executing alone does in place of an instruction that only a block's waves have. -/
theorem execWord_blockOnly_handler {s : State} {c : Ctx} {w : Wave} (h : Alone s c w) (hh : isHandler c.r = true) (i : Instr)
    (home : Bool) (vr sr : List Nat) (legal : Wave → Bool) (f : Ctx → Wave → State → State) :
    s.execWord i home vr sr legal (fun c w s => s.blockOnly c (f c w s)) = .next (s.illegal c) := by
  rw [execWord_member h, execMember_wave h]
  simp only [State.blockOnly, hh, if_true, ite_self]

end Sys2Proof.Machine

namespace Sys2Proof.Proofs

open Sys2Proof.Machine

/-- Settles O34: `State.illegal` is what the word does in each case; which word it is decides only how the case is recognised. -/
theorem illegalEncodingsTrap : Obligations.IllegalEncodingsTrap := by
  refine ⟨fun s i m w e hi hm hl hw he => ?undecodable, fun i s c w h hc hr => ?undeclared, fun i s c w h hh hi => ?refused,
    fun s c la => wordAddr_of_launch⟩
  case undecodable => exact runWord_undecodable hi hm hl (show decodeWord _ _ = _ from hw ▸ he)
  case undeclared =>
    obtain ⟨home, legal, f, hx⟩ := Sys2Proof.Laws.exec_names i hc s
    rw [hx]
    exact execWord_illegal h (by simp [Wave.declares_false hr])
  case refused =>
    obtain ⟨j, home, vr, sr, legal, f, hx⟩ := exec_blockOnly i hi s
    rw [hx]
    exact execWord_blockOnly_handler h hh j home vr sr legal f

end Sys2Proof.Proofs
end

section
/-! SUPPORT. A stream's stop where an entry of another owner has the key of the stream's own (R48, R340). -/

namespace Sys2Proof.Machine

/-- Stopping a stream that the scheduler may be told to stop: its tail's entries are cancelled, then its fields set (R48). -/
theorem exec_streamStop {s : State} {part n value : Nat} (hw : s.writable = true) (he : cfgEnable value = false) :
    exec (.streamStop part n value) s = .next ((s.cancelTail part n).modStream part n (fun t =>
      { t with order := cfgOrder value, serial := cfgSerial value, enable := false, watching := false, wokeAt := none, reading := none })) := by
  simp [exec, execStreamStop, hw, he]

/-- An entry that has taken no spill records leaves with every entry of its key. -/
theorem dropEntry_entries {s : State} {e : Entry} (h : e.recs = []) : (s.dropEntry e).entries = s.entries.filter (fun x => x.key != e.key) := by
  rw [State.dropEntry, State.freeRecords, h, List.foldl_nil]

/-- The entry of key 0 that watches the tail word of stream 0 of partition 0, at slice 0. -/
def tailEntry : Entry where
  key := 0
  owner := .tail 0 0
  part := 0
  cond := 8
  wide := true
  addr := 0x1000
  operand := 0
  deadline := 0
  group := 0
  place := .slice 0
  checked := 0
  touched := false
  recs := []

/-- An entry of the same key that watches a word for the gate of launch 0. -/
def gateEntry : Entry := { tailEntry with owner := .gate 0, cond := 0, wide := false, addr := 0x2000, operand := 1 }

/-- The machine after reset, with these two entries. -/
def sharedKeyState : State := { State.reset with entries := [tailEntry, gateEntry] }

/-- Cancelling the entry of the stream's tail takes the gate's with it. -/
theorem sharedKeyState_cancelTail_entries : (sharedKeyState.cancelTail 0 0).entries = [] := by
  have hown : sharedKeyState.entries.filter (fun e => e.owner == .tail 0 0) = [tailEntry] := by decide
  rw [State.cancelTail, State.dropEntries, hown, List.foldl_cons, List.foldl_nil, dropEntry_entries rfl]
  decide

end Sys2Proof.Machine

namespace Sys2Proof.Proofs

open Sys2Proof.Machine

/-- Refutes O55: a stop does not keep every entry that is not of the stream's tail. The entries it cancels are taken out by their keys, and the
statement, unlike where it speaks of a start or a gate, does not ask that no other entry has such a key: the gate's entry goes too. -/
theorem not_streamsAndLaunches : ¬ Obligations.StreamsAndLaunches := by
  rintro ⟨hconfig, -⟩
  obtain ⟨-, -, -, hstop⟩ := hconfig sharedKeyState 0 0 0 (by decide) (by decide) (by decide)
  obtain ⟨u, hu, -, hentries, -⟩ := hstop (by decide) (by decide)
  rw [exec_streamStop (by decide) (by decide)] at hu
  cases hu
  have hkept : gateEntry ∈ (sharedKeyState.cancelTail 0 0).entries := (hentries gateEntry).2 (by decide)
  simp [sharedKeyState_cancelTail_entries] at hkept

end Sys2Proof.Proofs
end

section
/-! SUPPORT. How an attempt of a cycle runs the instruction that its issue stands at (R60, R63, R87). -/

namespace Sys2Proof.Machine

/-- A word that decodes is executed. -/
theorem runWord_decodes {s : State} {i : Issue} {ins : Instr} (hi : s.curIssue = some i) (hd : i.instr = .ok ins) :
    runWord s = exec ins s := by
  simp [runWord, hi, hd]

/-- An attempt whose instruction has a next state closes the issue in hand there. -/
theorem attempt_next {s t : State} {i j : Issue} {ins : Instr} (hj : ((s.partHeld i).takeIssue i.id).curIssue = some j)
    (hd : j.instr = .ok ins) (ht : exec ins ((s.partHeld i).takeIssue i.id) = .next t) : attempt i s = .next t.afterWord := by
  simp only [attempt, runWord_decodes hj hd, ht]

/-- A cycle whose first wave is in a clause issue attempts that issue: a wave held back leaves its place to the next, and the pack-mates of
another issue with it. -/
theorem cycleWith_attempt {s v : State} {core quarter : Nat} {r : WaveRef} {rs : List WaveRef} {i : Issue} (hi : s.issueOf r = some i)
    (hv : attempt i s = .next v) :
    cycleWith core quarter (r :: rs) s =
      if v.heldBack i.id then cycleWith core quarter rs v
      else coIssue i.addr (s.packMates core quarter r)
        ((v.noteIssue core quarter r).beginMates core quarter i.addr (s.packMates core quarter r)) := by
  simp only [cycleWith, hi, hv]

end Sys2Proof.Machine

namespace Sys2Proof.Proofs

open Sys2Proof.Machine

/-- Settles O5: with the schedule empty a step is a cycle of the quarter in focus, and its first wave's attempt executes what its word decodes
to. -/
theorem stepRunsDecodedInstruction : Obligations.StepRunsDecodedInstruction := by
  intro s u t r rs i j ins hturns hcand hissue hu hcur hdec hexec
  subst hu
  simp only [step, hturns, cycle, hcand]
  exact cycleWith_attempt hissue (attempt_next hcur hdec hexec)

end Sys2Proof.Proofs
end

section
/-! SUPPORT. Instructions that hold their wave, and why a held wave is no candidate (R59, R60, R99). -/

namespace Sys2Proof.Machine

theorem mem_insertRanked {x y : WaveRef × List Nat} {l : List (WaveRef × List Nat)} : y ∈ insertRanked x l ↔ y = x ∨ y ∈ l := by
  induction l with
  | nil => simp [insertRanked]
  | cons h t ih =>
    rw [insertRanked]
    split
    · simp
    · simp [ih, or_left_comm]

theorem mem_foldr_insertRanked {y : WaveRef × List Nat} {l : List (WaveRef × List Nat)} : y ∈ l.foldr insertRanked [] ↔ y ∈ l := by
  induction l with
  | nil => simp
  | cons x l ih => simp [mem_insertRanked, ih]

/-- Ranking waves loses none and adds none. -/
theorem State.mem_ranked {s : State} {r : WaveRef} {rs : List WaveRef} : r ∈ s.ranked rs ↔ r ∈ rs := by
  simp [State.ranked, mem_foldr_insertRanked]

/-- Every candidate of a quarter is unheld. -/
theorem State.unheld_of_mem_candidates {s : State} {core quarter : Nat} {r : WaveRef} (h : r ∈ s.candidates core quarter) :
    s.unheld r = true := by
  have hall (q : WaveRef) (hq : q ∈ s.ranked ((s.wavesOf core quarter).filter s.unheld)) : s.unheld q = true :=
    (List.mem_filter.1 (State.mem_ranked.1 hq)).2
  rw [State.candidates] at h
  split at h
  · simp at h
  · simp only at h
    split at h
    · exact hall r h
    · next last _ =>
      split at h
      · next hlast =>
        rcases List.mem_cons.1 h with rfl | h
        · exact hall r (by simp_all)
        · exact hall r (List.mem_of_mem_filter h)
      · exact hall r h

/-- A wave with a hold is held. -/
theorem State.unheld_of_holds {s : State} {r : WaveRef} {w : Wave} (hw : s.wave? r = some w) (hh : w.holds ≠ []) : s.unheld r = false := by
  simp [State.unheld, hw, hh]

theorem exec_waitc {s : State} {c : Ctx} {w : Wave} (h : Alone s c w) {th g : BitVec 4} {k : BitVec 2} (hi : LegalFor (.waitc th k g) [] [] w) :
    exec (.waitc th k g) s = .next (if (c.t w g).isEmpty then s else s.holdWave c.r (.counter k.toNat th.toNat)) :=
  execWord_alone h hi rfl

theorem exec_fence {s : State} {c : Ctx} {w : Wave} (h : Alone s c w) {sc q : BitVec 2} {g : BitVec 4} (hi : LegalFor (.fence sc q g) [] [] w) :
    exec (.fence sc q g) s = .next (if (c.t w g).isEmpty then s
      else (s.podErrorTrap c (c.t w g)).getD (s.holdWave c.r (.fence sc.toNat q.toNat s.next))) := by
  refine (execWord_alone h hi rfl).trans ?_
  cases hp : s.podErrorTrap c (c.t w g) <;> simp [hp]

/-- No failed pod request recorded: none is reported (R376). -/
theorem podErrorTrap_none {s : State} {c : Ctx} {w : Wave} (h : Alone s c w) (hp : w.podError = none) (ts : List Nat) :
    s.podErrorTrap c ts = none := by
  simp [State.podErrorTrap, h.wave, hp]

/-- A failed pod request recorded: lanes trap with cause 0x10 at its address, and the record is cleared (R376). -/
theorem podErrorTrap_some {s : State} {c : Ctx} {w : Wave} (h : Alone s c w) {addr : Nat} (hp : w.podError = some addr) {ts : List Nat}
    (ht : ts ≠ []) : s.podErrorTrap c ts =
      some ((s.modWave c.r (fun v => { v with podError := none })).takeTraps c.r ts c.hdr c.slot 0x10 0 addr) := by
  simp [State.podErrorTrap, h.wave, hp, ht, State.trapAt]

end Sys2Proof.Machine

namespace Sys2Proof.Proofs

open Sys2Proof.Machine

/-- Settles O31: both instructions are one change of the wave's holds or the trap of a failed request, and a candidate is unheld. -/
theorem waveHolds : Obligations.WaveHolds := by
  refine ⟨fun g th k sc q s c w h => ⟨fun hi => ?waitc, fun hi => ?fence⟩, fun s core quarter r w hw hh hr => ?candidate⟩
  case waitc =>
    rw [exec_waitc h hi]
    exact ⟨fun ht => by simp [ht], fun ht => ⟨_, by rw [if_neg (by simpa using ht)]; rfl, rfl⟩⟩
  case fence =>
    rw [exec_fence h hi]
    refine ⟨fun ht => by simp [ht], fun ht hp => ⟨fun v => { v with holds := v.holds ++ [.fence sc.toNat q.toNat s.next] }, ?_, rfl⟩,
      fun addr ht hp => ?_⟩
    · rw [if_neg (by simpa using ht), podErrorTrap_none h hp]; rfl
    · rw [if_neg (by simpa using ht), podErrorTrap_some h hp ht]; rfl
  case candidate =>
    exact Bool.false_ne_true ((State.unheld_of_holds hw hh).symm.trans (State.unheld_of_mem_candidates hr))

end Sys2Proof.Proofs
end

section
/-! SUPPORT. The issue of a global memory instruction of a wave executing alone: what holds it back, its lanes' addresses, and what their
checks leave unchanged (R59, R244, R246). -/

namespace Sys2Proof.Machine

/-- What each step of a fold keeps, the fold keeps. -/
theorem foldl_keeps {α β : Type} (get : State → β) {f : State → α → State} (h : ∀ s a, get (f s a) = get s) (l : List α) (s : State) :
    get (l.foldl f s) = get s := by
  induction l generalizing s with
  | nil => rfl
  | cons a l ih => rw [List.foldl_cons, ih, h]

@[simp] theorem State.setBucket_mem (s : State) (b : Bucket) (p : BucketPoint) : (s.setBucket b p).mem = s.mem := by
  cases p <;> rfl

@[simp] theorem State.debitAll_mem (s : State) (n : Nat) (ps : List BucketPoint) : (s.debitAll n ps).mem = s.mem :=
  foldl_keeps State.mem (fun s p => by split <;> simp) ps s

@[simp] theorem State.ownRead_mem (s : State) (part pa n : Nat) : (s.ownRead part pa n).mem = s.mem := by
  simp [State.ownRead]

@[simp] theorem State.readWalk_mem (s : State) (part space va : Nat) : (s.readWalk part space va).mem = s.mem := by
  simp only [State.readWalk]
  split
  · rfl
  · exact foldl_keeps State.mem (fun s a => State.ownRead_mem s part a 8) _ s

@[simp] theorem State.fillTlb_mem (s : State) (core : Nat) (e : TlbEntry) : (s.fillTlb core e).mem = s.mem := by
  simp only [State.fillTlb]
  split <;> rfl

/-- A translation writes no memory. -/
@[simp] theorem State.translate_mem (s : State) (core part space va : Nat) : (s.translate core part space va).2.mem = s.mem := by
  rw [State.translate]
  split
  · rfl
  · split
    · rfl
    · split <;> simp

/-- An access that passes its checks writes no memory. -/
theorem State.checkAccess_mem {s t : State} {core part space va : Nat} {kind : AccessKind} {e : TlbEntry}
    (h : s.checkAccess core part space va kind = (.ok e, t)) : t.mem = s.mem := by
  have ht := s.translate_mem core part space va
  rw [State.checkAccess] at h
  generalize s.translate core part space va = x at h ht
  obtain ⟨_ | _, u⟩ := x
  · simp at h
  · simp only at h
    split at h
    · simp at h
    · split at h
      · simp at h
      · split at h
        · simp at h
        · cases h; exact ht

@[simp] theorem State.podCheck_mem (s : State) (part pa kind : Nat) : (s.podCheck part pa kind).2.mem = s.mem := by
  rw [State.podCheck]
  split
  · rfl
  · simp only [State.podEntry]
    split <;> simp

/-- A lane that is served has written no memory by its checks. -/
theorem State.admitLane_mem {s : State} {c : Ctx} {align : Nat} {kind : AccessKind} {pod : Option Nat} {l va : Nat}
    (h : (s.admitLane c align kind pod l va).1.isSome) : (s.admitLane c align kind pod l va).2.mem = s.mem := by
  rw [State.admitLane] at h ⊢
  split
  · simp_all
  · next ha =>
    rw [if_neg ha] at h
    split
    · next hx => simp [hx] at h
    · next hx =>
      have hm := State.checkAccess_mem hx
      simp only [hx] at h
      split
      · next hp =>
        simp only [hp, if_true] at h
        cases pod with
        | none => simp at h
        | some k =>
          simp only at h ⊢
          split
          · simp [hm]
          · next hk => simp [hk] at h
      · exact hm

theorem State.length_admitLanes_le (s : State) (c : Ctx) (align : Nat) (kind : AccessKind) (pod : Option Nat) (va : Nat → Nat)
    (ls : List Nat) : (s.admitLanes c align kind pod va ls).1.length ≤ ls.length := by
  induction ls generalizing s with
  | nil => simp [State.admitLanes]
  | cons l ls ih =>
    have := ih (s.admitLane c align kind pod l (va l)).2
    have h1 : (s.admitLane c align kind pod l (va l)).1.toList.length ≤ 1 := by
      cases (s.admitLane c align kind pod l (va l)).1 <;> simp
    simp only [State.admitLanes, List.length_append, List.length_cons]
    omega

/-- Lanes that are all served have written no memory by their checks. -/
theorem State.admitLanes_mem {s : State} {c : Ctx} {align : Nat} {kind : AccessKind} {pod : Option Nat} {va : Nat → Nat} {ls : List Nat}
    (h : (s.admitLanes c align kind pod va ls).1.length = ls.length) : (s.admitLanes c align kind pod va ls).2.mem = s.mem := by
  induction ls generalizing s with
  | nil => rfl
  | cons l ls ih =>
    have hle := State.length_admitLanes_le (s.admitLane c align kind pod l (va l)).2 c align kind pod va ls
    simp only [State.admitLanes, List.length_append, List.length_cons] at h
    cases hx : (s.admitLane c align kind pod l (va l)).1 with
    | none => simp only [hx, Option.toList_none, List.length_nil] at h; omega
    | some x =>
      simp only [hx, Option.toList_some, List.length_singleton] at h
      exact (ih (by omega)).trans (State.admitLane_mem (by simp [hx]))

/-- The six bits of an offset field as a signed number. -/
theorem signExt_toNat (o : BitVec 6) : signExt o.toNat 6 = o.toInt := by
  have ho := o.isLt
  simp only [signExt, BitVec.toInt, Nat.mod_eq_of_lt ho]
  split <;> split <;> omega

/-- A lane's global address: the base pair and the offset, modulo 2^64 (R244). -/
theorem Wave.globalAddr_eq (w : Wave) (b o : BitVec 6) (size l : Nat) : w.globalAddr b.toNat (offBytes o size) l =
    (((w.reg l b.toNat).toNat + 2 ^ 32 * (w.reg l (b.toNat + 1)).toNat + size * o.toInt : Int) % 2 ^ 64).toNat := by
  simp [Wave.globalAddr, offBytes, signExt_toNat, natOfInt, Wave.reg64, pair64, Int.mul_comm]

/-- What holds a wave back from a counted memory instruction (R59, R329, R348). -/
theorem Wave.memBlocked_iff (w : Wave) :
    w.memBlocked true = true ↔ w.acquires ≠ [] ∨ (∃ y ∈ w.groups, y.delivers = true) ∨ 15 ≤ w.ocMem := by
  simp [Wave.memBlocked, or_assoc]

theorem Wave.memFree.memBlocked {w : Wave} (h : w.memFree) : w.memBlocked true = false := by
  rw [← Bool.not_eq_true, Wave.memBlocked_iff]
  rintro (ha | ⟨y, hy, hd⟩ | hc)
  · exact ha h.acquires
  · simp [h.waits y hy] at hd
  · exact absurd h.count (by omega)

/-- Lanes whose registers are full pass the gates of an instruction that may have emptied some of them itself. -/
theorem gates_ownNeeds {s : State} {c : Ctx} {w : Wave} {rs ts : List Nat} (h : w.allFull ts rs) :
    s.gates c w (w.ownNeeds c rs) ts = (ts, s) := by
  refine gates_go fun l hl => gate_go fun n hn x hx => ?_
  obtain ⟨r, hr, rfl⟩ := List.mem_map.1 hn
  exact h l hl x hx r (List.mem_of_mem_filter hr)

/-- A lane after its own faulting instruction: the registers are empty, and it remembers that the instruction emptied them. -/
theorem faulted_empty (x : Lane) (c : Ctx) (rs : List Nat) :
    x.faulted c rs = (if rs ≠ [] then { x with full := (x.faulted c rs).full, ldsOwn := some (c.hdr, c.slot, rs) } else x) ∧
      ∀ r, (x.faulted c rs).isFull r = (x.isFull r && !decide (r ∈ rs)) := by
  cases rs with
  | nil => exact ⟨rfl, by simp [Lane.faulted]⟩
  | cons q rs =>
    obtain ⟨h1, h2⟩ := foldl_markEmpty { x with ldsOwn := some (c.hdr, c.slot, q :: rs) } (q :: rs)
    exact ⟨by simp only [Lane.faulted, List.isEmpty_cons, Bool.false_eq_true, if_false]; rw [h1]; simp, fun r => h2 r⟩

/-- Faulting lanes keep their destinations empty, and nothing else differs (R109, R250). -/
theorem faultDests_kept (u : State) (c : Ctx) (passed served rs : List Nat) :
    DestsKept u (u.faultDests c passed served rs) c (passed.filter (fun l => !served.contains l)) rs := by
  refine ⟨_, rfl, fun w => ⟨rfl, by simp [Wave.modLanes], fun l x y hx hy => ?_⟩⟩
  generalize passed.filter (fun l => !served.contains l) = ls at hy ⊢
  simp only [Wave.modLanes, getElem?_mapIdx', hx, Option.map_some, Option.some.injEq, List.contains_iff_mem] at hy
  obtain ⟨h1, h2⟩ := faulted_empty x c rs
  by_cases hl : l ∈ ls
  · rw [if_pos hl] at hy
    subst hy
    exact ⟨by simpa [hl] using h1, fun r => by simp [h2, hl]⟩
  · rw [if_neg hl] at hy
    subst hy
    exact ⟨by simp [hl], fun r => by simp [hl]⟩

/-- A held-back wave stays at its instruction. -/
theorem unlessBlocked_stall {s : State} {c : Ctx} {ts : List Nat} {b : Bool} (ht : ts ≠ []) (hb : b = true) (t : State) :
    s.unlessBlocked c ts b t = s.stall c.r := by
  simp [State.unlessBlocked, ht, hb]

theorem unlessBlocked_free {s : State} {c : Ctx} {ts : List Nat} {b : Bool} (hb : b = false) (t : State) : s.unlessBlocked c ts b t = t := by
  simp [State.unlessBlocked, hb]

end Sys2Proof.Machine
end

section
/-! SUPPORT. What a global load, a global store and a global atomic put in flight (R252, R254, R263). -/

namespace Sys2Proof.Machine

/-- The address that a lane of a global instruction accesses, `unit` bytes to a step of the offset (R244). -/
def Wave.accessAddr (w : Wave) (b o : BitVec 6) (unit l : Nat) : Nat :=
  (((w.reg l b.toNat).toNat + 2 ^ 32 * (w.reg l (b.toNat + 1)).toNat + unit * o.toInt : Int) % 2 ^ 64).toNat

theorem Wave.globalAddr_accessAddr (w : Wave) (b o : BitVec 6) (unit : Nat) :
    w.globalAddr b.toNat (offBytes o unit) = w.accessAddr b o unit := funext fun l => w.globalAddr_eq b o unit l

/-- A global load of a wave held back stays at the instruction. -/
theorem globalLoad_stalls {s : State} {c : Ctx} {w : Wave} (h : Alone s c w) {i : Instr} {d b o : BitVec 6} {sc q : BitVec 2}
    {g : BitVec 4} {size n : Nat} {signed : Bool} (ht : c.t w g ≠ []) (hi : LegalFor i (regRun d n ++ basePair b) [] w)
    (hb : w.memBlocked true = true) : s.globalLoad i d b o sc q g size n signed = .next (s.stall c.r) :=
  (execWord_alone h hi rfl).trans (congrArg Host.Outcome.next (unlessBlocked_stall ht hb _))

/-- A global load of a wave that is free and whose registers are full: the lanes' addresses are checked, those that fail keep their
destinations empty, and one operation is put in flight for the others. -/
theorem globalLoad_runs {s : State} {c : Ctx} {w : Wave} (h : Alone s c w) {i : Instr} {d b o : BitVec 6} {sc q : BitVec 2}
    {g : BitVec 4} {size n : Nat} {signed : Bool} (hi : LegalFor i (regRun d n ++ basePair b) [] w) (hm : w.memFree)
    (hf : w.allFull (c.t w g) (regRun d n ++ basePair b)) :
    s.globalLoad i d b o sc q g size n signed = .next (
      let v := s.admitLanes c size .read (some 0) (w.accessAddr b o size) (c.t w g)
      let u := v.2.faultDests c (c.t w g) (v.1.map (·.lane)) (regRun d n)
      if v.1.isEmpty then u
      else (u.emptyDests c (v.1.map (·.lane)) (regRun d n)).launchOp c (.load signed) sc.toNat q.toNat (q == 1) false (q == 1)
        (groupServed v.1 (fun x => x.opLane size 0 0 (regRun d n)))) := by
  refine (execWord_alone h hi rfl).trans ?_
  simp only [unlessBlocked_free hm.memBlocked, gates_ownNeeds hf, Wave.globalAddr_accessAddr]

/-- What a global load that has served lanes leaves in flight: the clauses of GlobalLoads for one instruction, of `n` destinations and `size`
bytes. -/
theorem globalLoad_issues {i : Instr} {d b o : BitVec 6} {sc q : BitVec 2} {g : BitVec 4} {size n : Nat} {signed : Bool}
    (he : ∀ s, exec i s = s.globalLoad i d b o sc q g size n signed) {s : State} {c : Ctx} {w : Wave} (h : Alone s c w)
    (ht : c.t w g ≠ []) :
    let rs := rangeFrom d.toNat n
    let v := s.admitLanes c size .read (some 0) (w.accessAddr b o size) (c.t w g)
    LegalFor i (rs ++ [b.toNat, b.toNat + 1]) [] w →
    (w.acquires ≠ [] ∨ (∃ y ∈ w.groups, y.delivers = true) ∨ 15 ≤ w.ocMem → exec i s = .next (s.stall c.r)) ∧
    (w.memFree → w.allFull (c.t w g) (rs ++ [b.toNat, b.toNat + 1]) →
      (v.1.length = (c.t w g).length → v.2.mem = s.mem) ∧
      ∃ u : State, DestsKept v.2 u c ((c.t w g).filter (fun l => !(v.1.map (·.lane)).contains l)) rs ∧
        (v.1 = [] → exec i s = .next u) ∧
        (v.1 ≠ [] → ∃ op : MemOp,
          PutsInFlight i s u c op (v.1.map (·.lane)) rs (decide (q = 1) && checksScope op.groups) ∧
          OpAt u c op (.load signed) sc.toNat q.toNat true ∧ op.acquire = decide (q = 1) ∧ op.release = false ∧
          op.groups = groupServed v.1 (fun x => ⟨x.lane, x.va, x.pa, size, 0, 0, rs⟩))) := by
  intro rs v hi
  refine ⟨fun hb => (he s).trans (globalLoad_stalls h ht hi (w.memBlocked_iff.2 hb)), fun hm hf =>
    ⟨State.admitLanes_mem, _, faultDests_kept v.2 c (c.t w g) (v.1.map (·.lane)) rs, fun hv => ?none, fun hv => ?some⟩⟩
  all_goals have hx := (he s).trans (globalLoad_runs (o := o) (sc := sc) (q := q) (size := size) (signed := signed) h hi hm hf)
  case none => rw [hx]; simp only [v, rs, regRun] at hv ⊢; simp [hv]
  case some =>
    have hne : v.1.isEmpty = false := by simpa using hv
    simp only [v] at hne
    simp only [hne, Bool.false_eq_true, if_false] at hx
    refine ⟨_, emptyDests_putOp_inFlight hx rfl, ?_⟩
    simp only [State.emptyDests, newOp_modWave]
    exact ⟨newOp_opAt _ _ _ _ _ _ _ _ _, rfl, rfl, rfl⟩

@[simp] theorem State.l1Store_mem (s : State) (core part line : Nat) (a : PageAttr) (ws scales : List (Nat × Byte)) (last : Bool) :
    (s.l1Store core part line a ws scales last).mem = s.mem := rfl

@[simp] theorem State.l1Store_memOps (s : State) (core part line : Nat) (a : PageAttr) (ws scales : List (Nat × Byte)) (last : Bool) :
    (s.l1Store core part line a ws scales last).memOps = s.memOps := rfl

/-- A store's update of the L1 changes no memory and no operation in flight, and marks groups only. -/
theorem State.storeL1_keeps (s : State) (c : Ctx) (qual : Nat) (gs : List OpGroup) :
    (s.storeL1 c qual gs).2.mem = s.mem ∧ (s.storeL1 c qual gs).2.memOps = s.memOps ∧
      (s.storeL1 c qual gs).1.map (fun y => { y with l1 := false }) = gs.map (fun y => { y with l1 := false }) := by
  induction gs generalizing s with
  | nil => exact ⟨rfl, rfl, rfl⟩
  | cons g gs ih =>
    simp only [State.storeL1, List.map_cons]
    split
    all_goals
      obtain ⟨hm, ho, hg⟩ := ih _
      exact ⟨hm, ho, congrArg _ hg⟩

/-- A store whose lines the L1 does not hold changes nothing there (R254). -/
theorem State.storeL1_uncached {s : State} {c : Ctx} (qual : Nat) {gs : List OpGroup}
    (h : ∀ y ∈ gs, s.l1Copy (s.coreOf c.r) (s.partOf c.r) y.line = none) :
    s.storeL1 c qual gs = (gs.map (fun y => { y with l1 := false }), s) := by
  induction gs with
  | nil => rfl
  | cons g gs ih =>
    simp [State.storeL1, h g (by simp), ih (fun y hy => h y (by simp [hy]))]

/-- Groups that have not been performed are not marked as held by the L1. -/
theorem groupServed_l1 (sv : List Served) (mk : Served → OpLane) :
    (groupServed sv mk).map (fun y => { y with l1 := false }) = groupServed sv mk := by
  simp [groupServed, OpGroup.open_]

/-- A global store of a wave that is free and whose registers are full: the lanes' addresses are checked, and for those that are served the L1
is updated and one operation put in flight. -/
theorem globalStore_runs {s : State} {c : Ctx} {w : Wave} (h : Alone s c w) {i : Instr} {d b o : BitVec 6} {sc q : BitVec 2}
    {g : BitVec 4} {size n : Nat} (hi : LegalFor i (regRun d n ++ basePair b) [] w) (hm : w.memFree)
    (hf : w.allFull (c.t w g) (regRun d n ++ basePair b)) :
    s.globalStore i d b o sc q g size n = .next (
      let v := s.admitLanes c size .write (some 1) (w.accessAddr b o size) (c.t w g)
      let gs := groupServed v.1 (fun x => x.opLane size (w.regs x.lane d.toNat n % 2 ^ (8 * size)) 0 [])
      let r := v.2.storeL1 c q.toNat gs
      if v.1.isEmpty then v.2 else r.2.launchOp c .store sc.toNat q.toNat false (q == 1) (q == 1) r.1) := by
  refine (execWord_alone h hi rfl).trans ?_
  simp only [unlessBlocked_free hm.memBlocked, gates_full hf, Wave.globalAddr_accessAddr]

/-- What a global store leaves in flight: the clauses of GlobalStoresAndAtomics for one store, of `n` data registers and `size` bytes. -/
theorem globalStore_issues {i : Instr} {d b o : BitVec 6} {sc q : BitVec 2} {g : BitVec 4} {size n : Nat}
    (he : ∀ s, exec i s = s.globalStore i d b o sc q g size n) {s : State} {c : Ctx} {w : Wave} (h : Alone s c w) (hm : w.memFree) :
    let v := s.admitLanes c size .write (some 1) (w.accessAddr b o size) (c.t w g)
    let data (l : Nat) : Nat := w.regs l d.toNat n % 2 ^ (8 * size)
    let gs := groupServed v.1 (fun x => ⟨x.lane, x.va, x.pa, size, data x.lane, 0, []⟩)
    LegalFor i (rangeFrom d.toNat n ++ [b.toNat, b.toNat + 1]) [] w →
    w.allFull (c.t w g) (rangeFrom d.toNat n ++ [b.toNat, b.toNat + 1]) →
    (v.1 = [] → exec i s = .next v.2) ∧
    (v.1 ≠ [] → ∃ (op : MemOp) (u : State), PutsInFlight i s u c op [] [] (decide (q = 1) && checksScope op.groups) ∧
      OpAt u c op .store sc.toNat q.toNat true ∧ op.acquire = false ∧ op.release = decide (q = 1) ∧
      op.groups.map (fun y => { y with l1 := false }) = gs ∧ u.mem = v.2.mem ∧ u.memOps = v.2.memOps ∧
      ((∀ y ∈ gs, v.2.l1Copy (v.2.coreOf c.r) (v.2.partOf c.r) y.line = none) → u = v.2 ∧ op.groups = gs)) := by
  intro v data gs hi hf
  have hx := (he s).trans (globalStore_runs (o := o) (sc := sc) (q := q) (size := size) h hi hm hf)
  refine ⟨fun hv => ?none, fun hv => ?some⟩
  case none => rw [hx]; simp only [v] at hv ⊢; simp [hv]
  case some =>
    have hne : v.1.isEmpty = false := by simpa using hv
    simp only [v] at hne
    simp only [hne, Bool.false_eq_true, if_false] at hx
    obtain ⟨hmem, hops, hgs⟩ := v.2.storeL1_keeps c q.toNat gs
    refine ⟨_, _, putOp_inFlight hx rfl, newOp_opAt _ _ _ _ _ _ _ _ _, rfl, rfl, hgs.trans (groupServed_l1 _ _), hmem, hops, fun hn => ?_⟩
    have hu := State.storeL1_uncached q.toNat hn
    exact ⟨congrArg Prod.snd hu, (congrArg Prod.fst hu).trans (groupServed_l1 _ _)⟩

/-- A global atomic of a wave that is free and whose registers are full: as a load, with its operands (R263). -/
theorem globalAtomic_runs {s : State} {c : Ctx} {w : Wave} (h : Alone s c w) {i : Instr} {d b o : BitVec 6} {sc q : BitVec 2}
    {g : BitVec 4} {size nd sub : Nat} (hi : LegalFor i (regRun d nd ++ basePair b) [] w) (hm : w.memFree)
    (hf : w.allFull (c.t w g) (regRun d nd ++ basePair b)) :
    s.globalAtomic i d b o sc q g size nd sub = .next (
      let n := size / 4
      let back := if q == 1 || q == 2 then regRun d n else []
      let v := s.admitLanes c size .write (some 2) (w.accessAddr b o size) (c.t w g)
      let u := v.2.faultDests c (c.t w g) (v.1.map (·.lane)) back
      if v.1.isEmpty then u
      else (u.emptyDests c (v.1.map (·.lane)) back).launchOp c (.atomic sub (size == 8) (q == 1 || q == 2)) sc.toNat q.toNat
        (q == 2 || q == 3) (q == 2 || q == 3) true
        (groupAtoms v.1 (fun x => x.opLane size (w.regs x.lane d.toNat n) (w.regs x.lane (d.toNat + n) n) back))) := by
  refine (execWord_alone h hi rfl).trans ?_
  simp only [unlessBlocked_free hm.memBlocked, gates_ownNeeds hf, Wave.globalAddr_accessAddr]

/-- What a global atomic leaves in flight: the clauses of GlobalStoresAndAtomics for one atomic, of `nd` operand registers and `size` bytes. -/
theorem globalAtomic_issues {i : Instr} {d b o : BitVec 6} {sc q : BitVec 2} {g : BitVec 4} {size nd sub : Nat}
    (he : ∀ s, exec i s = s.globalAtomic i d b o sc q g size nd sub) {s : State} {c : Ctx} {w : Wave} (h : Alone s c w) (hm : w.memFree) :
    let n := size / 4
    let v := s.admitLanes c size .write (some 2) (w.accessAddr b o size) (c.t w g)
    let back := if q = 1 ∨ q = 2 then rangeFrom d.toNat n else []
    LegalFor i (rangeFrom d.toNat nd ++ [b.toNat, b.toNat + 1]) [] w →
    w.allFull (c.t w g) (rangeFrom d.toNat nd ++ [b.toNat, b.toNat + 1]) →
    let lane (x : Served) : OpLane := ⟨x.lane, x.va, x.pa, size, w.regs x.lane d.toNat n, w.regs x.lane (d.toNat + n) n, back⟩
    ∃ u : State, DestsKept v.2 u c ((c.t w g).filter (fun l => !(v.1.map (·.lane)).contains l)) back ∧
      (v.1 = [] → exec i s = .next u) ∧
      (v.1 ≠ [] → ∃ op : MemOp, PutsInFlight i s u c op (v.1.map (·.lane)) back (checksScope op.groups) ∧
        OpAt u c op (.atomic sub (decide (size = 8)) (decide (q = 1 ∨ q = 2))) sc.toNat q.toNat true ∧
        op.acquire = decide (q = 2 ∨ q = 3) ∧ op.release = decide (q = 2 ∨ q = 3) ∧
        op.groups = groupServed (v.1.filter (fun x => !isPod x.pa)) lane ++
          (v.1.filter (fun x => isPod x.pa)).map (fun x => OpGroup.open_ (x.pa / 128) x.entry.attr [lane x])) := by
  intro n v back hi hf lane
  have hx := (he s).trans (globalAtomic_runs (o := o) (sc := sc) (q := q) (size := size) (sub := sub) h hi hm hf)
  have hor (a b : BitVec 2) : (q == a || q == b) = decide (q = a ∨ q = b) := (Bool.decide_or _ _).symm
  simp only [hor, decide_eq_true_eq] at hx
  refine ⟨_, faultDests_kept v.2 c (c.t w g) (v.1.map (·.lane)) back, fun hv => ?none, fun hv => ?some⟩
  case none => rw [hx]; simp only [v] at hv ⊢; simp [hv]; rfl
  case some =>
    have hne : v.1.isEmpty = false := by simpa using hv
    simp only [v] at hne
    simp only [hne, Bool.false_eq_true, if_false] at hx
    refine ⟨_, emptyDests_putOp_inFlight hx rfl, ?_⟩
    simp only [State.emptyDests, newOp_modWave]
    exact ⟨newOp_opAt _ _ _ _ _ _ _ _ _, rfl, rfl, rfl⟩

end Sys2Proof.Machine

namespace Sys2Proof.Proofs

open Sys2Proof.Machine

/-- Settles O39: each width is one global load. -/
theorem globalLoads : Obligations.GlobalLoads := by
  intro d b o sc q g s c w h ht
  refine ⟨?_, ?_, ?_, ?_, ?_, ?_, ?_⟩
  all_goals exact globalLoad_issues (fun _ => rfl) h ht

/-- Settles O40: each width is one global store, and each operation one global atomic. -/
theorem globalStoresAndAtomics : Obligations.GlobalStoresAndAtomics := by
  intro d b o sc q g s c w h _ hm
  refine ⟨?_, ?_, ?_, ?_, ?_, ?_⟩
  iterate 5 exact globalStore_issues (fun _ => rfl) h hm
  refine ⟨?_, ?_, ?_, ?_, ?_, ?_, ?_, ?_, ?_, ?_, ?_, ?_, ?_⟩
  all_goals exact globalAtomic_issues (fun _ => rfl) h hm

end Sys2Proof.Proofs
end

section
/-! SUPPORT. What a write at a line's home leaves of the waves: it moves tags, plates and memory, and only the entries it delivers change
lanes, those that wait for them (R229, R355). -/

namespace Sys2Proof.Machine

@[simp] theorem State.activate_blocks (s : State) (line : Nat) : (s.activate line).blocks = s.blocks := by
  unfold State.activate; split <;> rfl

@[simp] theorem State.writeBack_blocks (s : State) (line : Nat) (bytes side : List Byte) (poison : Bool) :
    (s.writeBack line bytes side poison).blocks = s.blocks := s.activate_blocks line

@[simp] theorem State.askHost_blocks (s : State) (line : Nat) (q : CacheReq) : (s.askHost line q).blocks = s.blocks := by
  unfold State.askHost; split <;> rfl

@[simp] theorem State.dropTag_blocks (s : State) (i : Nat) (t : Tag) : (s.dropTag i t).blocks = s.blocks := by
  simp only [State.dropTag, State.modSlice_blocks]
  split <;> simp

@[simp] theorem State.evict_blocks (s : State) (i : Nat) (t : Tag) : (s.evict i t).blocks = s.blocks := by
  simp only [State.evict]
  split <;> simp

@[simp] theorem State.makeRoom_blocks (i keep : Nat) (plate : Bool) (n : Nat) (s : State) :
    (State.makeRoom i keep plate n s).blocks = s.blocks := by
  induction n generalizing s with
  | zero => rfl
  | succ n ih =>
    simp only [State.makeRoom]
    split
    · rfl
    · split
      · rfl
      · rw [ih, State.evict_blocks]

@[simp] theorem State.placeAt_blocks (s : State) (part i : Nat) (t : Tag) (bytes side : List Byte) :
    (s.placeAt part i t bytes side).blocks = s.blocks := by
  simp [State.placeAt]

@[simp] theorem State.cleanTag_blocks (s : State) (i : Nat) (t : Tag) : (s.cleanTag i t).blocks = s.blocks := by
  simp only [State.cleanTag, State.modSlice_blocks]
  split <;> simp

@[simp] theorem State.takeHost_blocks (s : State) (part line : Nat) (owned : Bool) (q : CacheReq) :
    (s.takeHost part line owned q).blocks = s.blocks := by
  simp only [State.takeHost]
  split
  · rfl
  · rw [State.askHost_blocks]
    exact foldl_keeps State.blocks (fun s x => by split <;> simp) _ s

@[simp] theorem State.fillAs_blocks (s : State) (part space line : Nat) (a : PageAttr) (poison owned : Bool) :
    (s.fillAs part space line a poison owned).blocks = s.blocks := by
  simp only [State.fillAs]
  split
  · rfl
  · split <;> simp

@[simp] theorem State.applyWrite_blocks (s : State) (part space line : Nat) (a : PageAttr) (ws scales : List (Nat × Byte))
    (whole poison : Bool) : (s.applyWrite part space line a ws scales whole poison).blocks = s.blocks := by
  simp only [State.applyWrite]
  split
  case h_1 => simp
  case h_2 =>
    split
    case isTrue => split <;> simp
    case isFalse =>
      generalize hs : State.fillAs _ part space line a false true = s0
      have hb : s0.blocks = s.blocks := by rw [← hs, State.fillAs_blocks]; split <;> simp
      split
      · exact hb
      · simp [apply_ite State.blocks, hb]

@[simp] theorem State.dropEntry_blocks (s : State) (e : Entry) : (s.dropEntry e).blocks = s.blocks :=
  foldl_keeps State.blocks (fun s i => by unfold State.putRecord; dsimp only; split <;> simp) e.recs s

/-- Every lane of a block that no Mantis entry holds is in the second state as in the first. -/
def KeepsLanes (s t : State) : Prop :=
  ∀ (uid j l : Nat) (x : Lane), s.lane? (.blk uid j) l = some x → (∀ n, x.state ≠ .waitMantis n) → t.lane? (.blk uid j) l = some x

theorem KeepsLanes.refl (s : State) : KeepsLanes s s := fun _ _ _ _ h _ => h

theorem KeepsLanes.trans {s t u : State} (h : KeepsLanes s t) (k : KeepsLanes t u) : KeepsLanes s u :=
  fun uid j l x hx hn => k uid j l x (h uid j l x hx hn) hn

theorem KeepsLanes.of_blocks {s t : State} (h : t.blocks = s.blocks) : KeepsLanes s t := by
  intro uid j l x hx _
  simpa only [State.lane?, State.wave?, State.block?, h] using hx

theorem KeepsLanes.foldl {α : Type} {f : State → α → State} (h : ∀ s a, KeepsLanes s (f s a)) (l : List α) (s : State) :
    KeepsLanes s (l.foldl f s) := by
  induction l generalizing s with
  | nil => exact .refl s
  | cons a l ih => exact (h s a).trans (ih (f s a))

theorem KeepsLanes.ite {s t u : State} {p : Prop} [Decidable p] (ht : KeepsLanes s t) (hu : KeepsLanes s u) :
    KeepsLanes s (if p then t else u) := by
  split
  · exact ht
  · exact hu

/-- A change of one wave that leaves its lanes outside Mantis waits. -/
theorem KeepsLanes.modWave (s : State) (r : WaveRef) {f : Wave → Wave}
    (h : ∀ (w : Wave) (l : Nat) (x : Lane), w.lanes[l]? = some x → (∀ n, x.state ≠ .waitMantis n) → (f w).lanes[l]? = some x) :
    KeepsLanes s (s.modWave r f) := by
  intro uid j l x hx hn
  rw [State.lane?] at hx ⊢
  by_cases hr : WaveRef.blk uid j = r
  · subst hr
    obtain ⟨w, hw, hl⟩ := Option.bind_eq_some_iff.1 hx
    rw [State.wave?_modWave, hw]
    exact h w l x hl hn
  · rwa [State.wave?_modWave_ne s r _ f hr]

/-- Waking a block changes no wave. -/
theorem KeepsLanes.wake (s : State) (r : WaveRef) : KeepsLanes s (s.wake r) := by
  cases r with
  | hdl c q => exact .refl s
  | blk uid j =>
    intro u k l x hx _
    simp only [State.lane?, State.wave?, State.block?, State.wake] at hx ⊢
    rw [List.find?_map]
    have hp : ((fun b : Block => b.uid == u) ∘ fun b : Block =>
        if (b.uid == uid && b.place == .saved && b.woken.isNone) = true then { b with woken := some s.next } else b) = fun b => b.uid == u := by
      funext b
      simp only [Function.comp]
      split <;> rfl
    rw [hp]
    cases hb : s.blocks.find? (fun b => b.uid == u) with
    | none => simp [hb] at hx
    | some b =>
      rw [hb] at hx
      simp only [Option.map_some, Option.bind_some] at hx ⊢
      split <;> exact hx

/-- Delivering an entry changes only the lanes that wait for it (R345, R355). -/
theorem KeepsLanes.deliver (s : State) (e : Entry) (value : Nat) (met : Bool) : KeepsLanes s (s.deliver e value met) := by
  have hdrop : KeepsLanes s (s.dropEntry e) := .of_blocks (by simp)
  refine hdrop.trans ?_
  rw [State.deliver]
  cases e.owner with
  | wave r =>
    refine (KeepsLanes.modWave (s.dropEntry e) r fun w l x hx hn => ?_).trans (.wake _ r)
    split
    · exact hx
    · next g _ => simp [Wave.modLanes, getElem?_mapIdx', hx, hn g.group]
  | ring r =>
    refine (KeepsLanes.modWave (s.dropEntry e) r fun w l x hx hn => ?_).trans (.wake _ r)
    simp [hx, hn e.group]
  | tail p n => exact .of_blocks rfl
  | gate lid => exact .of_blocks rfl
  | monitor p m => exact .of_blocks rfl

theorem KeepsLanes.fire (s : State) (e : Entry) : KeepsLanes s (s.fire e) := (KeepsLanes.deliver s e _ _).trans (.of_blocks rfl)

theorem KeepsLanes.fireOverdue (s : State) (part line : Nat) : KeepsLanes s (s.fireOverdue part line) := .foldl .fire _ s

theorem KeepsLanes.checkEntries (s : State) (part line : Nat) (wrote : List Nat) : KeepsLanes s (s.checkEntries part line wrote) := by
  unfold State.checkEntries
  refine KeepsLanes.trans (.of_blocks ?_) (.foldl (fun s e => ?_) _ _)
  · split <;> split <;> rfl
  · exact .ite (.deliver s e _ _) (.refl s)

theorem KeepsLanes.rereadOthers (s : State) (qs : List Nat) (line : Nat) : KeepsLanes s (s.rereadOthers qs line) := by
  refine .foldl (fun s q => ?_) _ s
  exact .ite (KeepsLanes.trans (.of_blocks (by simp [State.fillLine])) (.checkEntries _ _ _ _)) (.refl s)

theorem KeepsLanes.performWrite (s : State) (part space line : Nat) (a : PageAttr) (ws scales : List (Nat × Byte)) (whole poison : Bool) :
    KeepsLanes s (s.performWrite part space line a ws scales whole poison).1 :=
  (KeepsLanes.fireOverdue s part line).trans
    ((KeepsLanes.of_blocks (by simp)).trans ((KeepsLanes.checkEntries _ _ _ _).trans (.rereadOthers _ _ _)))

/-- A run of bytes is written line by line. -/
theorem State.writeRun_fst (s : State) (part pa : Nat) (a : PageAttr) (bs : List Byte) :
    (s.writeRun part pa a bs).1 =
      (splitLines pa bs).foldl (fun s l => (s.performWrite part 16 l.1 a l.2 [] false false).1) s :=
  (List.foldl_hom Prod.fst (fun _ _ => rfl)).symm

theorem KeepsLanes.writeRun (s : State) (part pa : Nat) (a : PageAttr) (bs : List Byte) : KeepsLanes s (s.writeRun part pa a bs).1 := by
  rw [State.writeRun_fst]
  refine KeepsLanes.foldl (fun s l => ?_) _ s
  exact KeepsLanes.performWrite s part 16 l.1 a l.2 [] false false

/-- A queue record changes only the lanes that wait for entries of its line. -/
theorem KeepsLanes.queueRecord (s : State) (p : Nat) (fault : Bool) (bytes : List Byte) : KeepsLanes s (s.queueRecord p fault bytes).2 := by
  unfold State.queueRecord
  cases fault
  all_goals
    dsimp only
    split
    · exact .of_blocks (by simp)
    · simp only [apply_ite Prod.snd]
      refine .ite (.refl s) (.ite (.of_blocks (by simp)) (.ite (.of_blocks (by simp)) ?_))
      exact (KeepsLanes.writeRun s _ _ _ _).trans (.of_blocks rfl)

end Sys2Proof.Machine
end

section
/-! SUPPORT. A write to a line that its home holds in a plate of its own, and the fault queue record made of one (R47, R229, R399). -/

namespace Sys2Proof.Machine

/-- A value written to a key reads back, whatever the other entries, when it is not the value of an unlisted key. -/
theorem cellGet_cellSet_self {α : Type} [DecidableEq α] (d : α) (l : Cells α) (a : Nat) {x : α} (hx : x ≠ d) :
    cellGet d (cellSet d l a x) a = x := by
  induction l with
  | nil => simp [cellSet, hx, cellGet]
  | cons c t ih =>
    obtain ⟨k, y⟩ := c
    rw [cellSet]
    split
    · simp [cellGet]
    · next h =>
      split
      · simp [cellGet]
      · next hk => simp [cellGet, hk, ih]

theorem State.part_modPart (s : State) (p q : Nat) (f : Partition → Partition) :
    (s.modPart p f).part q = if p = q ∧ q < s.parts.length then f (s.part q) else s.part q := by
  simp only [State.part, State.modPart, List.getD_eq_getElem?_getD, getElem?_modifyAt]
  by_cases h : p = q <;> by_cases k : q < s.parts.length <;> simp [h, k]

/-- A state has every line's content at its home and in memory as another has it, and no entry of Mantis that the other has not. -/
structure HomesKept (s t : State) : Prop where
  tags : ∀ i, (t.slice i).tags = (s.slice i).tags
  plates : ∀ i, (t.slice i).plates = (s.slice i).plates
  mem : t.mem = s.mem
  side : t.side = s.side
  poison : t.poisonMem = s.poisonMem
  parts : t.parts.length = s.parts.length
  sets : ∀ p, (t.part p).slices = (s.part p).slices
  entries : ∀ e ∈ t.entries, ∃ d ∈ s.entries, d.part = e.part ∧ d.addr = e.addr ∧ d.recs = e.recs

theorem HomesKept.trans {s t u : State} (h : HomesKept s t) (k : HomesKept t u) : HomesKept s u where
  tags i := (k.tags i).trans (h.tags i)
  plates i := (k.plates i).trans (h.plates i)
  mem := k.mem.trans h.mem
  side := k.side.trans h.side
  poison := k.poison.trans h.poison
  parts := k.parts.trans h.parts
  sets p := (k.sets p).trans (h.sets p)
  entries e he := by
    obtain ⟨d, hd, h1, h2, h3⟩ := k.entries e he
    obtain ⟨b, hb, k1, k2, k3⟩ := h.entries d hd
    exact ⟨b, hb, k1.trans h1, k2.trans h2, k3.trans h3⟩

/-- Two states whose partitions, slices, memory and entries are the same. -/
structure SameHomes (s t : State) : Prop where
  parts : t.parts = s.parts
  slices : t.slices = s.slices
  mem : t.mem = s.mem
  side : t.side = s.side
  poison : t.poisonMem = s.poisonMem
  entries : t.entries = s.entries

theorem SameHomes.symm {s t : State} (h : SameHomes s t) : SameHomes t s :=
  ⟨h.parts.symm, h.slices.symm, h.mem.symm, h.side.symm, h.poison.symm, h.entries.symm⟩

theorem SameHomes.part {s t : State} (h : SameHomes s t) (p : Nat) : t.part p = s.part p := by rw [State.part, State.part, h.parts]

theorem SameHomes.kept {s t : State} (h : SameHomes s t) : HomesKept s t where
  tags i := by rw [State.slice, State.slice, h.slices]
  plates i := by rw [State.slice, State.slice, h.slices]
  mem := h.mem
  side := h.side
  poison := h.poison
  parts := by rw [h.parts]
  sets p := by rw [h.part]
  entries e he := ⟨e, h.entries ▸ he, rfl, rfl, rfl⟩

theorem HomesKept.refl (s : State) : HomesKept s s := SameHomes.kept ⟨rfl, rfl, rfl, rfl, rfl, rfl⟩

theorem HomesKept.ite {s t u : State} {p : Prop} [Decidable p] (ht : HomesKept s t) (hu : HomesKept s u) :
    HomesKept s (if p then t else u) := by
  split
  · exact ht
  · exact hu

theorem SameHomes.modWave (s : State) (r : WaveRef) (f : Wave → Wave) : SameHomes s (s.modWave r f) := by constructor <;> simp

theorem SameHomes.wake (s : State) (r : WaveRef) : SameHomes s (s.wake r) := by
  cases r <;> constructor <;> rfl

/-- A change of a partition that leaves its slices. -/
theorem HomesKept.modPart (s : State) (p : Nat) {f : Partition → Partition} (hf : ∀ q, (f q).slices = q.slices) :
    HomesKept s (s.modPart p f) where
  tags _ := rfl
  plates _ := rfl
  mem := rfl
  side := rfl
  poison := rfl
  parts := by simp
  sets q := by rw [State.part_modPart]; split <;> simp [hf]
  entries e he := ⟨e, he, rfl, rfl, rfl⟩

theorem HomesKept.modVF (s : State) (p : Nat) (f : VF → VF) : HomesKept s (s.modVF p f) := .modPart s p fun _ => rfl

theorem SameHomes.emit (s : State) (o : Output) : SameHomes s (s.emit o) := ⟨rfl, rfl, rfl, rfl, rfl, rfl⟩

/-- A change of a slice that leaves its tags and plates. -/
theorem HomesKept.modSlice (s : State) (i : Nat) {f : Slice → Slice} (ht : ∀ sl, (f sl).tags = sl.tags)
    (hp : ∀ sl, (f sl).plates = sl.plates) : HomesKept s (s.modSlice i f) where
  tags j := by rw [State.slice_modSlice]; split <;> simp [ht]
  plates j := by rw [State.slice_modSlice]; split <;> simp [hp]
  mem := rfl
  side := rfl
  poison := rfl
  parts := rfl
  sets _ := rfl
  entries e he := ⟨e, he, rfl, rfl, rfl⟩

section Homes

variable {s t : State} (h : HomesKept s t)
include h

theorem HomesKept.homeOf (part line : Nat) : t.homeOf part line = s.homeOf part line := State.homeOf_congr (h.sets part)

theorem HomesKept.homeTag (i line : Nat) : (t.slice i).homeTag line = (s.slice i).homeTag line := by
  rw [Slice.homeTag, Slice.homeTag, h.tags]

theorem HomesKept.homeLine (part line : Nat) : t.homeLine part line = s.homeLine part line := by
  simp only [State.homeLine, h.homeOf, h.homeTag, State.memLine, Slice.content, h.mem, h.side, h.poison, h.plates]

theorem HomesKept.otherTags (part line : Nat) : t.otherTags part line = s.otherTags part line := by
  simp only [State.otherTags, h.homeOf, h.homeTag]

theorem HomesKept.otherHolders (part line : Nat) : t.otherHolders part line = s.otherHolders part line := by
  simp only [State.otherHolders, h.homeOf, h.homeTag]

/-- Entries of a line that have taken no spill records in the one state have taken none in the other. -/
theorem HomesKept.unspilled {part line : Nat} (hu : ∀ e ∈ s.entries, e.part = part → e.addr / 128 = line → e.recs = []) :
    ∀ e ∈ t.entries, e.part = part → e.addr / 128 = line → e.recs = [] := by
  intro e he hp hl
  obtain ⟨d, hd, h1, h2, h3⟩ := h.entries e he
  exact h3 ▸ hu d hd (h1.trans hp) (by rw [h2, hl])

theorem HomesKept.heldAlone {part line j : Nat} {x : Tag} (hs : HeldAlone s part line j x) : HeldAlone t part line j x where
  home := (h.homeOf part line).trans hs.home
  tag := (h.homeTag j line).trans hs.tag
  own := by rw [h.plates]; exact hs.own
  size := by rw [h.homeLine]; exact hs.size
  others := (h.otherTags part line).trans hs.others
  unspilled := h.unspilled hs.unspilled

end Homes

/-- An entry that has taken no spill records leaves no more than itself. -/
theorem HomesKept.dropEntry {s : State} {e : Entry} (h : e.recs = []) : HomesKept s (s.dropEntry e) := by
  have hf : s.freeRecords e = s := by rw [State.freeRecords, h]; rfl
  rw [State.dropEntry, hf]
  exact ⟨fun _ => rfl, fun _ => rfl, rfl, rfl, rfl, rfl, fun _ => rfl, fun d hd => ⟨d, (List.mem_filter.1 hd).1, rfl, rfl, rfl⟩⟩

/-- An entry that has taken no spill records is delivered without a write. -/
theorem HomesKept.deliver {s : State} {e : Entry} (h : e.recs = []) (value : Nat) (met : Bool) : HomesKept s (s.deliver e value met) := by
  refine (HomesKept.dropEntry h).trans ?_
  rw [State.deliver]
  cases e.owner with
  | wave r => exact (SameHomes.modWave _ r _).kept.trans (SameHomes.wake _ r).kept
  | ring r => exact (SameHomes.modWave _ r _).kept.trans (SameHomes.wake _ r).kept
  | tail p n => exact .modVF _ p _
  | gate lid => exact SameHomes.kept ⟨rfl, rfl, rfl, rfl, rfl, rfl⟩
  | monitor p m => exact (HomesKept.modVF _ p _).trans (SameHomes.emit _ _).kept

theorem HomesKept.fire {s : State} {e : Entry} (h : e.recs = []) : HomesKept s (s.fire e) :=
  (HomesKept.deliver h _ _).trans (.modPart _ _ fun _ => rfl)

theorem HomesKept.foldl {α : Type} {f : State → α → State} {l : List α} (h : ∀ s, ∀ a ∈ l, HomesKept s (f s a)) (s : State) :
    HomesKept s (l.foldl f s) := by
  induction l generalizing s with
  | nil => exact .refl s
  | cons a l ih => exact (h s a (by simp)).trans (ih (fun s b hb => h s b (by simp [hb])) (f s a))

section Unspilled

variable {s : State} {part line : Nat} (h : ∀ e ∈ s.entries, e.part = part → e.addr / 128 = line → e.recs = [])
include h

/-- Overdue entries fire without a write where none of the line's has been spilled. -/
theorem HomesKept.fireOverdue : HomesKept s (s.fireOverdue part line) := by
  refine .foldl (fun s e he => .fire ?_) s
  obtain ⟨he, hp⟩ := List.mem_filter.1 he
  simp only [Bool.and_eq_true, beq_iff_eq] at hp
  exact h e he hp.1.1.1.1 hp.1.1.1.2

theorem HomesKept.checkEntries (wrote : List Nat) : HomesKept s (s.checkEntries part line wrote) := by
  unfold State.checkEntries
  extract_lets s1 filtered s2 mine
  have h1 : HomesKept s s1 := by
    simp only [s1]
    split
    · exact .refl s
    · exact .modSlice s _ (fun sl => by split <;> rfl) (fun sl => by split <;> rfl)
  have h2 : HomesKept s1 s2 := by
    simp only [s2]
    split
    · exact .refl s1
    · refine ⟨fun _ => rfl, fun _ => rfl, rfl, rfl, rfl, rfl, fun _ => rfl, fun e he => ?_⟩
      obtain ⟨d, hd, rfl⟩ := List.mem_map.1 he
      exact ⟨d, hd, by split <;> simp⟩
  refine (h1.trans h2).trans (.foldl (fun t e he => ?_) s2)
  obtain ⟨he, hp⟩ := List.mem_filter.1 he
  simp only [Bool.and_eq_true, beq_iff_eq] at hp
  have hr : e.recs = [] := (h1.trans h2).unspilled h e he hp.1.1 hp.1.2
  exact .ite (.deliver hr _ _) (.refl t)

end Unspilled

/-- Asking the host for a line writes nothing. -/
theorem SameHomes.askHost (s : State) (line : Nat) (q : CacheReq) : SameHomes s (s.askHost line q) := by
  unfold State.askHost
  split
  · exact .emit s _
  · exact ⟨rfl, rfl, rfl, rfl, rfl, rfl⟩

/-- A line that no other partition holds is asked for without a write. -/
theorem SameHomes.takeHost {s : State} {part line : Nat} (h : s.otherTags part line = []) (owned : Bool) (q : CacheReq) :
    SameHomes s (s.takeHost part line owned q) := by
  simp only [State.takeHost, h, List.foldl_nil]
  split
  · exact ⟨rfl, rfl, rfl, rfl, rfl, rfl⟩
  · exact .askHost s line q

/-- A line held at its home becomes the most recently used when it is filled. -/
theorem fillAs_held {s : State} {part line j : Nat} {x : Tag} (hh : s.homeOf part line = some j) (ht : (s.slice j).homeTag line = some x)
    (space : Nat) (a : PageAttr) (poison owned : Bool) :
    s.fillAs part space line a poison owned = s.modSlice j (fun sl => sl.putTag x) := by
  simp [State.fillAs, hh, ht]

/-- A home tag put in a slice is the home tag of its line. -/
theorem Slice.homeTag_putTag_self (sl : Slice) {t : Tag} (h : t.state ≠ .replica) : (sl.putTag t).homeTag t.line = some t := by
  simp [Slice.homeTag, Slice.putTag, h]

/-- A slice that holds a line is one of the device's. -/
theorem lt_of_homeTag {s : State} {i line : Nat} {x : Tag} (h : (s.slice i).homeTag line = some x) : i < s.slices.length := by
  by_contra hi
  rw [State.slice, List.getD_eq_getElem?_getD, List.getElem?_eq_none (by omega)] at h
  simp [Slice.homeTag, Slice.reset] at h

end Sys2Proof.Machine
end

section
/-! SUPPORT. A partial write of a line that its home holds in a plate of its own (R229, Table 10.2). -/

namespace Sys2Proof.Machine

/-- A slice whose plate `p` has taken a content and left its slot, with the tag `t` that names it. -/
def Slice.rewrite (sl : Slice) (p : Nat) (bytes side : List Byte) (t : Tag) : Slice :=
  ({ sl.unregister p with plates := cellSet ⟨[], [], 0⟩ sl.plates p ⟨bytes, side, 1⟩ }).putTag t

theorem Slice.homeTag_rewrite (sl : Slice) (p : Nat) (bytes side : List Byte) {t : Tag} (h : t.state ≠ .replica) :
    (sl.rewrite p bytes side t).homeTag t.line = some t := Slice.homeTag_putTag_self _ h

theorem Slice.content_rewrite (sl : Slice) (p : Nat) (bytes side : List Byte) {t : Tag} (h : t.plate = some p) :
    (sl.rewrite p bytes side t).content t = (bytes, side) := by
  have hne : (⟨bytes, side, 1⟩ : Plate) ≠ ⟨[], [], 0⟩ := by simp
  simp only [Slice.content, h, Slice.rewrite, Slice.putTag, cellGet_cellSet_self _ _ _ hne]

/-- What a home holds of a line that it has a tag for. -/
theorem State.homeLine_of_homeTag {s : State} {part line j : Nat} {x : Tag} (hh : s.homeOf part line = some j)
    (ht : (s.slice j).homeTag line = some x) :
    s.homeLine part line = (((s.slice j).content x).1, ((s.slice j).content x).2, x.poison) := by
  simp [State.homeLine, hh, ht]

/-- A home tag is a tag of its line and no replica. -/
theorem Slice.of_homeTag {sl : Slice} {line : Nat} {x : Tag} (h : sl.homeTag line = some x) : x.line = line ∧ x.state ≠ .replica := by
  simpa using List.find?_some h

/-- The tag of a line held alone after a partial write. -/
def Tag.written (x : Tag) (poison : Bool) : Tag := { x with state := .priv, dirty := true, poison := x.poison || poison }

section Held

variable {s : State} {part line j : Nat} {x : Tag} (h : HeldAlone s part line j x) (space : Nat) (a : PageAttr)
  (ws scales : List (Nat × Byte)) (poison : Bool)
include h

/-- A partial write of a line held alone rewrites its plate: its tag is then in state `priv` and dirty. -/
theorem applyWrite_heldAlone :
    ∃ (u : State) (p : Nat) (side : List Byte), SameHomes s u ∧ x.plate = some p ∧
      s.applyWrite part space line a ws scales false poison = (u.modSlice j (fun sl => sl.putTag x)).modSlice j (fun sl =>
        sl.rewrite p (writeOffsets (s.homeLine part line).1 ws) side (x.written poison)) := by
  obtain ⟨hblank, -, p, hp, hcount⟩ := h.own
  obtain ⟨u, hu, he⟩ : ∃ u, SameHomes s u ∧
      (if ((s.slice j).homeTag line).any (fun t => !t.dirty) then s.takeHost part line true .rdOwn else s) = u := by
    refine ⟨_, ?_, rfl⟩
    split
    · exact .takeHost h.others _ _
    · exact ⟨rfl, rfl, rfl, rfl, rfl, rfl⟩
  refine ⟨u, p, sideFor x.bound x.tolerant x.bfmt x.bk (writeOffsets (s.homeLine part line).1 ws)
    (writeOffsets (s.homeLine part line).2.1 scales), hu, hp, ?_⟩
  unfold State.applyWrite
  simp only [h.home, Bool.false_and, Bool.false_eq_true, if_false, he]
  have hk := hu.kept
  have htag := (hk.homeTag j line).trans h.tag
  obtain ⟨hline, hstate⟩ := Slice.of_homeTag h.tag
  rw [fillAs_held ((hk.homeOf part line).trans h.home) htag]
  have hslice : (u.modSlice j (fun sl => sl.putTag x)).slice j = (u.slice j).putTag x := by
    rw [State.slice_modSlice, if_pos ⟨rfl, lt_of_homeTag htag⟩]
  have hput : ((u.slice j).putTag x).homeTag line = some x := hline ▸ Slice.homeTag_putTag_self _ hstate
  have hplates : ((u.slice j).putTag x).plates = (s.slice j).plates := hk.plates j
  have hcontent : ((u.slice j).putTag x).content x = ((s.homeLine part line).1, (s.homeLine part line).2.1) := by
    simp [State.homeLine_of_homeTag h.home h.tag, Slice.content, hplates]
  simp [hslice, hput, hplates, hcontent, hp, hcount, hblank, Slice.rewrite, Slice.unregister, Tag.written]

/-- What such a write leaves: the bytes in the line, and memory, partitions and entries as they were. -/
theorem applyWrite_heldAlone_homeLine :
    let t := s.applyWrite part space line a ws scales false poison
    t.parts = s.parts ∧ t.mem = s.mem ∧ t.entries = s.entries ∧
      (t.homeLine part line).1 = writeOffsets (s.homeLine part line).1 ws := by
  obtain ⟨u, p, side, hu, hp, he⟩ := applyWrite_heldAlone h space a ws scales poison
  obtain ⟨hline, -⟩ := Slice.of_homeTag h.tag
  have hj := lt_of_homeTag ((hu.kept.homeTag j line).trans h.tag)
  intro t
  have hparts : t.parts = s.parts := by simp only [t, he]; exact hu.parts
  have hslice : t.slice j = ((u.slice j).putTag x).rewrite p (writeOffsets (s.homeLine part line).1 ws) side (x.written poison) := by
    simp only [t, he]
    rw [State.slice_modSlice, if_pos ⟨rfl, by simpa using hj⟩, State.slice_modSlice, if_pos ⟨rfl, hj⟩]
  have htag : (t.slice j).homeTag line = some (x.written poison) := by
    rw [hslice, ← hline]
    exact Slice.homeTag_rewrite _ p _ side (t := x.written poison) (by simp [Tag.written])
  refine ⟨hparts, by simp only [t, he]; exact hu.mem, by simp only [t, he]; exact hu.entries, ?_⟩
  have hhome : t.homeOf part line = some j := (State.homeOf_congr (by simp [State.part, hparts])).trans h.home
  rw [State.homeLine_of_homeTag hhome htag, hslice, Slice.content_rewrite _ p _ side (t := x.written poison) hp]

end Held

end Sys2Proof.Machine
end

section
/-! SUPPORT. A record of a fault queue: the write of one line that it is, and what it leaves when it is lost (R47, R399). -/

namespace Sys2Proof.Machine

/-- A line that no other partition holds has no other holders. -/
theorem State.otherHolders_nil {s : State} {part line : Nat} (h : s.otherTags part line = []) : s.otherHolders part line = [] := by
  simp only [State.otherTags] at h
  simp only [State.otherHolders]
  split
  · rfl
  · next hh =>
    rw [if_neg hh, List.flatMap_eq_nil_iff] at h
    rw [List.filter_eq_nil_iff]
    intro q hq hs
    simp only [Bool.and_eq_true] at hs
    obtain ⟨hne, hsome⟩ := hs
    have := h q (List.mem_filter.2 ⟨hq, hne⟩)
    obtain ⟨t, ht⟩ := Option.isSome_iff_exists.1 hsome
    obtain ⟨i, hi, hit⟩ := Option.bind_eq_some_iff.1 ht
    simp [hi, hit] at this

/-- A partial write performed at the home of a line held alone: the bytes stand in the line, and memory is as it was. -/
theorem performWrite_heldAlone {s : State} {part line j : Nat} {x : Tag} (h : HeldAlone s part line j x) (space : Nat) (a : PageAttr)
    (ws scales : List (Nat × Byte)) (poison : Bool) :
    let t := (s.performWrite part space line a ws scales false poison).1
    t.parts.length = s.parts.length ∧ t.mem = s.mem ∧ (t.homeLine part line).1 = writeOffsets (s.homeLine part line).1 ws := by
  have h1 := HomesKept.fireOverdue h.unspilled
  have hs1 := h1.heldAlone h
  obtain ⟨hparts, hmem, hentries, hline⟩ := applyWrite_heldAlone_homeLine hs1 space a ws scales poison
  have h2 := HomesKept.checkEntries (hentries ▸ hs1.unspilled) (ws.map (·.1))
  simp only [State.performWrite, State.otherHolders_nil hs1.others, State.rereadOthers, List.filter_nil, List.foldl_nil]
  refine ⟨?_, ?_, ?_⟩
  · rw [h2.parts, hparts, h1.parts]
  · rw [h2.mem, hmem, h1.mem]
  · rw [h2.homeLine, hline, h1.homeLine]

theorem sortDedup_const {l : List Nat} {k : Nat} (h : ∀ x ∈ l, x = k) (hl : l ≠ []) : sortDedup l = [k] := by
  induction l with
  | nil => exact absurd rfl hl
  | cons y l ih =>
    obtain rfl : y = k := h y (by simp)
    cases l with
    | nil => rfl
    | cons z l =>
      have := ih (fun x hx => h x (by simp [hx])) (by simp)
      rw [sortDedup, List.foldr_cons, ← sortDedup, this]
      simp [insertSorted]

theorem mem_mapIdx' {α β : Type} {f : Nat → α → β} {l : List α} {y : β} (h : y ∈ mapIdx' f l) : ∃ i x, l[i]? = some x ∧ y = f i x := by
  obtain ⟨i, hi⟩ := List.mem_iff_getElem?.1 h
  rw [getElem?_mapIdx'] at hi
  obtain ⟨x, hx, rfl⟩ := Option.map_eq_some_iff.1 hi
  exact ⟨i, x, hx, rfl⟩

/-- A run of bytes inside one line is one write to it. -/
theorem splitLines_inside {pa : Nat} {bs : List Byte} (h : pa % 128 + bs.length ≤ 128) (hb : bs ≠ []) :
    splitLines pa bs = [(pa / 128, mapIdx' (fun i b => (pa % 128 + i, b)) bs)] := by
  have hcell (c : Nat × Byte) (hc : c ∈ mapIdx' (fun i b => (pa + i, b)) bs) : c.1 / 128 = pa / 128 := by
    obtain ⟨i, b, hi, rfl⟩ := mem_mapIdx' hc
    have := (List.getElem?_eq_some_iff.1 hi).1
    simp only
    omega
  have hne : mapIdx' (fun i b => (pa + i, b)) bs ≠ [] := by
    rw [← List.length_pos_iff_ne_nil] at hb ⊢
    simpa using hb
  simp only [splitLines]
  rw [sortDedup_const (k := pa / 128) (List.forall_mem_map.2 hcell) (by simpa using hne), List.map_singleton,
    List.filter_eq_self.2 (fun c hc => by simp [hcell c hc])]
  congr 2
  apply List.ext_getElem?
  intro i
  simp only [List.getElem?_map, getElem?_mapIdx', Option.map_map]
  cases hi : bs[i]? with
  | none => rfl
  | some b =>
    have := (List.getElem?_eq_some_iff.1 hi).1
    simp only [Option.map_some, Function.comp, Option.some.injEq, Prod.mk.injEq, and_true]
    omega

@[simp] theorem length_bytesLE (k n : Nat) : (bytesLE k n).length = k := by
  induction k generalizing n with
  | zero => rfl
  | succ k ih => simp [bytesLE, ih]

/-- A fault queue that takes no record counts it lost. -/
theorem queueRecord_lost {s : State} {p : Nat} (hf : s.device.fenced = false)
    (h : (s.part p).vf.fq.enabled = false ∨ (s.part p).vf.fq.entries = none ∨
      ∃ n, (s.part p).vf.fq.entries = some n ∧ ((s.part p).vf.fq.prod + 2 ^ 32 - (s.part p).vf.fq.cons) % 2 ^ 32 = n)
    (bytes : List Byte) :
    s.queueRecord p true bytes = (false, s.modVF p (fun v => { v with fq := (s.part p).vf.fq.lose })) := by
  unfold State.queueRecord
  simp only [if_true, hf, Bool.false_eq_true, if_false]
  cases hn : (s.part p).vf.fq.entries with
  | none => rfl
  | some n =>
    refine if_pos ?_
    rcases h with h | h | ⟨m, hm, h⟩
    · simp [h]
    · simp [h] at hn
    · simp_all

/-- A fault queue with room writes the record at its next place and raises the vector. -/
theorem queueRecord_written {s : State} {p n : Nat} (hf : s.device.fenced = false) (hn : (s.part p).vf.fq.entries = some n)
    (he : (s.part p).vf.fq.enabled = true) (hroom : ((s.part p).vf.fq.prod + 2 ^ 32 - (s.part p).vf.fq.cons) % 2 ^ 32 ≠ n)
    (hr : (s.part p).reachesRam ((s.part p).vf.fq.base + 32 * ((s.part p).vf.fq.prod % n)) = true) (bytes : List Byte) :
    s.queueRecord p true bytes = (true,
      ((s.writeRun p ((s.part p).vf.fq.base + 32 * ((s.part p).vf.fq.prod % n)) .plain bytes).1.modVF p (fun v =>
        { v with fq := { (s.part p).vf.fq with prod := ((s.part p).vf.fq.prod + 1) % 2 ^ 32 } })).emit
        (.interrupt false p (bitsOf (s.part p).vf.fq.cfg 16 6))) := by
  have hfull : (((s.part p).vf.fq.prod + 2 ^ 32 - (s.part p).vf.fq.cons) % 2 ^ 32 == n) = false := by simpa using hroom
  unfold State.queueRecord
  simp only [if_true, hf, hn, he, hfull, hr, Bool.not_true, Bool.or_self, Bool.false_eq_true, if_false]

/-- A fault queue record is recorded (R47). -/
theorem queueRecord_recorded {s : State} {p : Nat} (hp : p < s.parts.length) (hf : s.device.fenced = false) {bytes : List Byte}
    (hb : bytes.length = 32) : FaultRecorded s (s.queueRecord p true bytes).2 p bytes := by
  intro n j x q pa hn he hroom hbase hr hheld
  have hin : pa % 128 + bytes.length ≤ 128 := by omega
  have hne : bytes ≠ [] := by rw [← List.length_pos_iff_ne_nil]; omega
  have hrun : (s.writeRun p pa .plain bytes).1 =
      (s.performWrite p 16 (pa / 128) .plain (mapIdx' (fun i b => (pa % 128 + i, b)) bytes) [] false false).1 := by
    rw [State.writeRun_fst, splitLines_inside hin hne]; rfl
  obtain ⟨hparts, hmem, hline⟩ := performWrite_heldAlone hheld 16 .plain (mapIdx' (fun i b => (pa % 128 + i, b)) bytes) [] false
  rw [queueRecord_written hf hn he hroom hr, hrun]
  refine ⟨?_, ?_, List.mem_append_right _ (List.mem_singleton_self _), hmem⟩
  · rw [((HomesKept.modVF _ p _).trans (SameHomes.emit _ _).kept).homeLine, hline]
  · rw [(SameHomes.emit _ _).part, State.modVF, State.part_modPart, if_pos ⟨rfl, hparts ▸ hp⟩]

/-- Whether a record is recorded depends on the homes, memory and entries before, and on those and the outputs after. -/
theorem FaultRecorded.congr {s s' t t' : State} {p : Nat} {bytes : List Byte} (hs : SameHomes s s') (ht : SameHomes t t')
    (ho : t'.outputs = t.outputs) (h : FaultRecorded s t p bytes) : FaultRecorded s' t' p bytes := by
  intro n j x
  simp only [hs.part, ht.part, hs.kept.homeLine, ht.kept.homeLine, ho, hs.mem, ht.mem]
  exact fun hn he hroom hbase hr hheld => h n j x hn he hroom hbase hr (hs.symm.kept.heldAlone hheld)

end Sys2Proof.Machine
end

section
/-! SUPPORT. Escalation of a lane: its state, and its record in the fault queue of its partition (R394, R399, R406). -/

namespace Sys2Proof.Machine

/-- The serial number of the next event (R434). -/
def State.eventSerial (s : State) : Nat := s.device.boots * 2 ^ 32 + s.device.serial + 1

/-- The 32 bytes of a fault queue record (Table 20.4). -/
def faultBytes (serial part handle wave lane slot : Nat) (vpc : Word) (cause addr : Nat) : List Byte :=
  bytesLE 8 serial ++ bytesLE 4 (part * 2 ^ 28 + handle) ++ bytesLE 4 (wave * 2 ^ 27 + lane * 2 ^ 21 + slot * 2 ^ 17) ++
    bytesLE 4 vpc.toNat ++ bytesLE 4 cause ++ bytesLE 8 addr

theorem length_faultBytes (serial part handle wave lane slot : Nat) (vpc : Word) (cause addr : Nat) :
    (faultBytes serial part handle wave lane slot vpc cause addr).length = 32 := by
  simp [faultBytes]

theorem SameHomes.modLane (s : State) (r : WaveRef) (l : Nat) (f : Lane → Lane) : SameHomes s (s.modLane r l f) := .modWave s r _

theorem SameHomes.modLaunch (s : State) (n : Nat) (f : Launch → Launch) : SameHomes s (s.modLaunch n f) := ⟨rfl, rfl, rfl, rfl, rfl, rfl⟩

theorem SameHomes.modDevice (s : State) (f : Device → Device) : SameHomes s (s.modDevice f) := ⟨rfl, rfl, rfl, rfl, rfl, rfl⟩

theorem SameHomes.dropFromIssues (s : State) (r : WaveRef) (ls : List Nat) : SameHomes s (s.dropFromIssues r ls) :=
  ⟨rfl, rfl, rfl, rfl, rfl, rfl⟩

theorem SameHomes.trans {s t u : State} (h : SameHomes s t) (k : SameHomes t u) : SameHomes s u :=
  ⟨k.parts.trans h.parts, k.slices.trans h.slices, k.mem.trans h.mem, k.side.trans h.side, k.poison.trans h.poison,
    k.entries.trans h.entries⟩

/-- The state in which the next event's serial has been taken (R434). -/
def State.serialTaken (s : State) : State := s.modDevice (fun d => { d with serial := d.serial + 1 })

theorem takeSerial_eq {s : State} (h : s.device.serial + 1 < 2 ^ 32) : s.takeSerial = (s.eventSerial, s.serialTaken) := by
  simp only [State.takeSerial, if_pos h]
  rfl

/-- The fault queue record of a lane of a block: the serial it bears, and the queue that takes or loses it. -/
theorem faultRecord_eq {s : State} {o : Origin} {b : Block} {la : Launch} (hb : s.block? o.uid = some b)
    (hl : s.launch? b.launch = some la) (hs : s.device.serial + 1 < 2 ^ 32) (vpc : Word) (slot cause addr : Nat) :
    s.faultRecord o vpc slot cause addr =
      let w := s.serialTaken.queueRecord la.part true (faultBytes s.eventSerial la.part b.handle o.wave o.lane slot vpc cause addr)
      (s.eventSerial, if w.1 then w.2.modLaunch b.launch (fun l => { l with escalations := sat32 (l.escalations + 1) }) else w.2) := by
  simp only [State.faultRecord, takeSerial_eq hs, State.originWords, hb, hl, Option.map_some, Option.getD_some, faultBytes,
    List.getD_cons_zero, List.getD_cons_succ]
  rfl

section Escalation

variable {s : State} {o : Origin} {b : Block} {la : Launch} (hb : s.block? o.uid = some b) (hl : s.launch? b.launch = some la)
  (hs : s.device.serial + 1 < 2 ^ 32) (info : TrapInfo) (cause addr : Nat)
include hb hl hs

/-- The lane after its escalation is trapped at the trap point under the serial. -/
theorem escalateLane_lane {x : Lane} (hx : s.lane? (.blk o.uid o.wave) o.lane = some x) (hw : ∀ n, x.state ≠ .waitMantis n) :
    (s.escalateLane o info cause addr).lane? (.blk o.uid o.wave) o.lane = some { x with
      state := .trapped, vpc := info.vpc, slot := info.slot, trap := some { info with phase := .escalated s.eventSerial } } := by
  have hserial : (s.faultRecord o info.vpc info.slot cause addr).1 = s.eventSerial := by rw [faultRecord_eq hb hl hs]
  have hk : KeepsLanes s (s.faultRecord o info.vpc info.slot cause addr).2 := by
    rw [faultRecord_eq hb hl hs]
    generalize faultBytes s.eventSerial la.part b.handle o.wave o.lane info.slot info.vpc cause addr = bytes
    have hq : KeepsLanes s (s.serialTaken.queueRecord la.part true bytes).2 :=
      KeepsLanes.trans (t := s.serialTaken) (.of_blocks rfl) (.queueRecord _ la.part true bytes)
    exact .ite (hq.trans (.of_blocks rfl)) hq
  simp only [State.escalateLane, State.lane?_modLane, if_true, hk _ _ _ x hx hw, Option.map_some, hserial]

/-- The record of the lane is recorded in its partition's fault queue. -/
theorem escalateLane_recorded (hp : la.part < s.parts.length) (hf : s.device.fenced = false) :
    FaultRecorded s (s.escalateLane o info cause addr) la.part
      (faultBytes s.eventSerial la.part b.handle o.wave o.lane info.slot info.vpc cause addr) := by
  have hrec := queueRecord_recorded (s := s.serialTaken) hp hf
    (length_faultBytes s.eventSerial la.part b.handle o.wave o.lane info.slot info.vpc cause addr)
  simp only [State.escalateLane, faultRecord_eq hb hl hs]
  refine hrec.congr (SameHomes.modDevice s _).symm ?_ ?_
  · refine SameHomes.trans ?_ (.modLane _ _ _ _)
    split
    · exact .modLaunch _ _ _
    · exact ⟨rfl, rfl, rfl, rfl, rfl, rfl⟩
  · rw [State.modLane_outputs]
    split <;> rfl

/-- A record that the queue does not take is counted lost, and nothing else of memory and device differs but the serial. -/
theorem escalateLane_lost (hp : la.part < s.parts.length) (hf : s.device.fenced = false)
    (h : let q := (s.part la.part).vf.fq
      q.enabled = false ∨ q.entries = none ∨ ∃ n, q.entries = some n ∧ (q.prod + 2 ^ 32 - q.cons) % 2 ^ 32 = n) :
    let t := s.escalateLane o info cause addr
    t.mem = s.mem ∧ t.outputs = s.outputs ∧ t.device = { s.device with serial := s.device.serial + 1 } ∧
      (t.part la.part).vf.fq =
        { (s.part la.part).vf.fq with lost := min ((s.part la.part).vf.fq.lost + 1) (2 ^ 32 - 1) } := by
  have hq := queueRecord_lost (s := s.serialTaken) hf h
    (faultBytes s.eventSerial la.part b.handle o.wave o.lane info.slot info.vpc cause addr)
  simp only [State.escalateLane, faultRecord_eq hb hl hs, hq, Bool.false_eq_true, if_false]
  refine ⟨by simp; rfl, by simp; rfl, by simp; rfl, ?_⟩
  rw [(SameHomes.modLane _ _ _ _).part, State.modVF, State.part_modPart, if_pos ⟨rfl, hp⟩]
  rfl

end Escalation

end Sys2Proof.Machine
end

section
/-! SUPPORT. The instructions that escalate a lane: `trap` where no trap entry is given, `tesc`, and `exit` of a handler lane (R394, R398,
R406). -/

namespace Sys2Proof.Machine

theorem SameHomes.refl (s : State) : SameHomes s s := ⟨rfl, rfl, rfl, rfl, rfl, rfl⟩

theorem SameHomes.exitLanes (s : State) (r : WaveRef) (ls : List Nat) : SameHomes s (s.exitLanes r ls) :=
  (SameHomes.modWave s r _).trans (.dropFromIssues _ r ls)

@[simp] theorem State.exitLanes_outputs (s : State) (r : WaveRef) (ls : List Nat) : (s.exitLanes r ls).outputs = s.outputs := by
  simp [State.exitLanes]

/-- The fields of the cause word of a block's lane, from the lowest (Table 20.4). -/
theorem causeWord_eq (cause detail code : Nat) (noEntry irdan byTesc : Bool) :
    causeWord cause detail code noEntry irdan false byTesc = cause + detail * 2 ^ 8 + (if byTesc then 2 ^ 16 else 0) +
      (if irdan then 2 ^ 18 else 0) + (if noEntry then 2 ^ 19 else 0) + code * 2 ^ 24 := by
  simp only [causeWord, Bool.false_eq_true, if_false]
  ring

/-- A launch passed through `f` is found passed through `f`, and every other launch as before. -/
theorem State.launch?_modLaunch (s : State) (n m : Nat) (f : Launch → Launch) (hf : ∀ l, (f l).lid = l.lid) :
    (s.modLaunch n f).launch? m = (s.launch? m).map (fun l => if l.lid == n then f l else l) := by
  simp only [State.launch?, State.modLaunch, List.find?_map]
  congr 1
  apply List.find?_congr
  intro l _
  simp only [Function.comp]
  split <;> simp [hf]

/-- The launch of a block's wave is the one that the block names. -/
theorem State.launch?_of_launchOf {s : State} {uid j : Nat} {b : Block} {la : Launch} (hb : s.block? uid = some b)
    (h : s.launchOf (.blk uid j) = some la) : s.launch? b.launch = some la := by
  simpa [State.launchOf, State.launchKey, hb] using h

/-- The lane of a wave that a context names. -/
theorem Alone.lane? {s : State} {c : Ctx} {w : Wave} (h : Alone s c w) (l : Nat) : s.lane? c.r l = w.lanes[l]? := by
  simp [State.lane?, h.wave, Wave.lane?]

/-- The state in which a trap of a lane has been counted and numbered, and the lane has left its clause issue (R393). -/
def State.trapCounted (s : State) (la : Launch) (r : WaveRef) (l : Nat) : State :=
  (s.fresh.2.modLaunch la.lid (fun x => { x with traps := sat32 (x.traps + 1) })).dropFromIssues r [l]

theorem SameHomes.trapCounted (s : State) (la : Launch) (r : WaveRef) (l : Nat) : SameHomes s (s.trapCounted la r l) :=
  ⟨rfl, rfl, rfl, rfl, rfl, rfl⟩

/-- The launch of a key, where a trap has been counted, is of the same partition. -/
theorem launch?_trapCounted {s : State} {n : Nat} {lb : Launch} (h : s.launch? n = some lb) (la : Launch) (r : WaveRef) (l : Nat) :
    ∃ lc, (s.trapCounted la r l).launch? n = some lc ∧ lc.part = lb.part := by
  have hl := State.launch?_modLaunch s.fresh.2 la.lid n (fun x => { x with traps := sat32 (x.traps + 1) }) (fun _ => rfl)
  rw [show s.fresh.2.launch? n = some lb from h] at hl
  exact ⟨_, hl, by dsimp only; split <;> rfl⟩

/-- A trap that a block's lane takes in a launch without a trap entry escalates it (R394). -/
theorem takeTrap_noEntry {s : State} {uid j : Nat} {la : Launch} (hla : s.launchOf (.blk uid j) = some la)
    (he : la.record.entryOfTraps = none) (l : Nat) (vpc : Word) (slot cause detail addr : Nat) :
    s.takeTrap (.blk uid j) l vpc slot cause detail addr = (s.trapCounted la (.blk uid j) l).escalateLane ⟨uid, j, l⟩
      ⟨cause, detail, addr, vpc, slot, s.nowOf (.blk uid j), s.next, .awaiting⟩ (causeWord cause detail 0 true la.record.irdan false false)
      addr := by
  simp only [State.takeTrap, hla, he, Option.isNone_none, Bool.or_true, Bool.true_or, if_true]
  rfl

section NoEntry

variable {s : State} {uid j l : Nat} {b : Block} {la : Launch} (hb : s.block? uid = some b) (hla : s.launchOf (.blk uid j) = some la)
  (he : la.record.entryOfTraps = none) (hs : s.device.serial + 1 < 2 ^ 32) (vpc : Word) (slot cause detail addr : Nat)
include hb hla he hs

/-- A lane that takes a trap without a trap entry is trapped at the trap point under the next serial (R399). -/
theorem takeTrap_noEntry_lane {x : Lane} (hx : s.lane? (.blk uid j) l = some x) (ha : x.state = .active) :
    (s.takeTrap (.blk uid j) l vpc slot cause detail addr).lane? (.blk uid j) l = some { x with
      state := .trapped, vpc := vpc, slot := slot, trap := some {
        cause := cause, detail := detail, addr := addr, vpc := vpc, slot := slot, time := s.nowOf (.blk uid j), order := s.next,
        phase := .escalated s.eventSerial } } := by
  obtain ⟨lc, hlc, -⟩ := launch?_trapCounted (State.launch?_of_launchOf hb hla) la (.blk uid j) l
  rw [takeTrap_noEntry hla he]
  exact escalateLane_lane (s := s.trapCounted la (.blk uid j) l) (o := ⟨uid, j, l⟩) hb hlc hs _ _ addr hx (by simp [ha])

variable (hp : la.part < s.parts.length) (hf : s.device.fenced = false)
include hp hf

/-- Its record, of serial, origin, cause and address, is recorded (R399). -/
theorem takeTrap_noEntry_recorded : FaultRecorded s (s.takeTrap (.blk uid j) l vpc slot cause detail addr) la.part
    (faultBytes s.eventSerial la.part b.handle j l slot vpc (causeWord cause detail 0 true la.record.irdan false false) addr) := by
  obtain ⟨lc, hlc, hpart⟩ := launch?_trapCounted (State.launch?_of_launchOf hb hla) la (.blk uid j) l
  rw [takeTrap_noEntry hla he, ← hpart]
  exact (escalateLane_recorded (s := s.trapCounted la (.blk uid j) l) (o := ⟨uid, j, l⟩) hb hlc hs _ _ addr (hpart ▸ hp) hf).congr
    (SameHomes.trapCounted s la _ l).symm (.refl _) rfl

/-- A record that the queue does not take is counted lost (R47). -/
theorem takeTrap_noEntry_lost (h : let q := (s.part la.part).vf.fq
      q.enabled = false ∨ q.entries = none ∨ ∃ n, q.entries = some n ∧ (q.prod + 2 ^ 32 - q.cons) % 2 ^ 32 = n) :
    let t := s.takeTrap (.blk uid j) l vpc slot cause detail addr
    t.mem = s.mem ∧ t.outputs = s.outputs ∧ t.device = { s.device with serial := s.device.serial + 1 } ∧
      (t.part la.part).vf.fq =
        { (s.part la.part).vf.fq with lost := min ((s.part la.part).vf.fq.lost + 1) (2 ^ 32 - 1) } := by
  obtain ⟨lc, hlc, hpart⟩ := launch?_trapCounted (State.launch?_of_launchOf hb hla) la (.blk uid j) l
  rw [takeTrap_noEntry hla he]
  rw [← hpart] at h ⊢
  exact escalateLane_lost (s := s.trapCounted la (.blk uid j) l) (o := ⟨uid, j, l⟩) hb hlc hs _ _ addr (hpart ▸ hp) hf h

end NoEntry

theorem exec_trap {s : State} {c : Ctx} {w : Wave} (h : Alone s c w) {k : BitVec 8} {g : BitVec 4} (hi : LegalFor (.trap k g) [] [] w) :
    exec (.trap k g) s = .next (s.takeTraps c.r (c.t w g) c.hdr c.slot 0x0E k.toNat 0) := execWord_alone h hi rfl

section OneLane

variable {s : State} {c : Ctx} {w : Wave} (h : Alone s c w) {l : Nat} (hc : c.x = [l]) {g : BitVec 4} (hg : w.pred l g.toNat = true)
include h hc hg

/-- `tesc` of one lane that handles a trap. -/
theorem exec_tesc {k : BitVec 8} (hi : LegalFor (.tesc k g) [] [] w) {x : Lane} (hx : w.lanes[l]? = some x)
    (hh : x.handles (isHandler c.r) = true) : exec (.tesc k g) s = .next (s.escalateBy c.r l k.toNat) := by
  refine (execWord_alone h hi rfl).trans ?_
  simp [State.handlers, hc, hx, hh, hg, State.trapAt, State.takeTraps]

/-- `exit` of one handler lane acts as `tesc` with code 0xFF (R398). -/
theorem exec_exit_handler (hi : LegalFor (.exit g) [] [] w) (hh : isHandler c.r = true) (hp : w.podError = none) :
    exec (.exit g) s = .next (s.escalateBy c.r l 0xFF) := by
  refine (execWord_alone h hi rfl).trans ?_
  simp [podErrorTrap_none h hp, Ctx.t, Ctx.rest, hc, hg, hh, State.moveLanes]

end OneLane

section EscalateBy

variable {s : State} {r : WaveRef} {l : Nat} {x : Lane} {la lb : Launch} {o : Origin} {b : Block} {i : TrapInfo} (code : Nat)
  (hla : s.launchOf r = some la) (hx : s.lane? r l = some x) (hb : s.block? o.uid = some b) (hlb : s.launch? b.launch = some lb)
  (hp : lb.part < s.parts.length) (hs : s.device.serial + 1 < 2 ^ 32) (hf : s.device.fenced = false)
include hla hx hb hlb hp hs hf

/-- The record of a lane that ends its own trap by escalation: its trap's own cause, detail and address (R406). -/
theorem escalateBy_recorded_inTrap (hr : r = .blk o.uid o.wave) (ho : o.lane = l) (hi : x.inTrap = some i) :
    FaultRecorded s (s.escalateBy r l code) lb.part (faultBytes s.eventSerial lb.part b.handle o.wave o.lane i.slot i.vpc
      (causeWord i.cause i.detail code la.record.entryOfTraps.isNone la.record.irdan false true) i.addr) := by
  subst hr ho
  have hb' := (State.block?_modWave s o.uid o.uid o.wave (fun w => w.modLane o.lane (fun y => { y with inTrap := none }))).trans
    (by rw [if_pos rfl, hb])
  simp only [State.escalateBy, hla, hx, hi]
  exact (escalateLane_recorded hb' hlb hs i _ i.addr hp hf).congr (SameHomes.modLane s _ _ _).symm (.dropFromIssues _ _ _) rfl

/-- The record of an origin that its handler lane escalates. -/
theorem escalateBy_recorded_handler {y : Lane} (hr : isHandler r = true) (ho : x.origin = some o)
    (hy : s.lane? (.blk o.uid o.wave) o.lane = some y) (hi : y.trap = some i) :
    FaultRecorded s (s.escalateBy r l code) lb.part (faultBytes s.eventSerial lb.part b.handle o.wave o.lane i.slot i.vpc
      (causeWord i.cause i.detail code la.record.entryOfTraps.isNone la.record.irdan false true) i.addr) := by
  cases r with
  | blk uid j => simp [isHandler] at hr
  | hdl core q =>
    simp only [State.escalateBy, hla, hx, ho, hy, Option.bind_some, hi]
    exact (escalateLane_recorded hb hlb hs i _ i.addr hp hf).congr (.refl s) (.exitLanes _ _ _) (by simp)

end EscalateBy

end Sys2Proof.Machine

namespace Sys2Proof.Proofs

open Sys2Proof.Machine

/-- Settles O36: each instruction is an escalation, whose record is one partial write of a line. -/
theorem escalatedTrap : Obligations.EscalatedTrap := by
  refine ⟨?trap, ?escalation⟩
  case trap =>
    intro k g s c w uid j l b la x h hi hr hb hla he ht hx hact hp hs hf
    have hexec := exec_trap h hi
    rw [ht] at hexec
    have hl := (h.lane? l).trans hx
    rw [hr] at hla hl hexec ⊢
    have hcause : causeWord 0x0E k.toNat 0 true la.record.irdan false false =
        0x0E + k.toNat * 2 ^ 8 + (if la.record.irdan then 2 ^ 18 else 0) + 2 ^ 19 := by simp [causeWord_eq]
    refine ⟨_, hexec, takeTrap_noEntry_lane hb hla he hs _ _ _ _ 0 hl hact, ?_, takeTrap_noEntry_lost hb hla he hs _ _ _ _ 0 hp hf⟩
    simp only [← hcause]
    exact takeTrap_noEntry_recorded hb hla he hs _ _ _ _ 0 hp hf
  case escalation =>
    intro e k g s c w l x y o i b la lb h he hi hc hg hx hla hb hlb hp hs hf ho
    have hexec : exec e s = .next (s.escalateBy c.r l k.toNat) := by
      rcases he with rfl | ⟨rfl, rfl, hh, hpod⟩
      · refine exec_tesc h hc hg hi hx ?_
        rcases ho with ⟨-, -, hin⟩ | ⟨hh, -⟩
        · simp [Lane.handles, hin]
        · simp [Lane.handles, hh]
      · exact exec_exit_handler h hc hg hi hh hpod
    have hcause : causeWord i.cause i.detail k.toNat la.record.entryOfTraps.isNone la.record.irdan false true =
        i.cause + i.detail * 2 ^ 8 + 2 ^ 16 + (if la.record.irdan then 2 ^ 18 else 0) +
          (if la.record.entryOfTraps = none then 2 ^ 19 else 0) + k.toNat * 2 ^ 24 := by simp [causeWord_eq]
    have hl := (h.lane? l).trans hx
    refine ⟨_, hexec, ?_⟩
    simp only [← hcause]
    rcases ho with ⟨hr, hol, hin⟩ | ⟨hh, hor, hy, hyi⟩
    · exact escalateBy_recorded_inTrap k.toNat hla hl hb hlb hp hs hf hr hol hin
    · exact escalateBy_recorded_handler k.toNat hla hl hb hlb hp hs hf hh hor hy hyi

end Sys2Proof.Proofs
end

section
/-! SUPPORT. The fields of a word put back in their places, and what the decoder of each class accepts (R63, R70). -/

namespace Sys2Proof

/-- A decoder's result, when it accepts, has a property. -/
def OkHas (r : Except Reject Instr) (P : Instr → Prop) : Prop := ∀ i, r = .ok i → P i

@[simp] theorem okHas_ok (x : Instr) (P : Instr → Prop) : OkHas (.ok x) P ↔ P x :=
  ⟨fun h => h x rfl, fun h _ hi => Except.ok.inj hi ▸ h⟩

@[simp] theorem okHas_error (r : Reject) (P : Instr → Prop) : OkHas (.error r) P ↔ True :=
  ⟨fun _ => trivial, fun _ _ hi => nomatch hi⟩

/-- A guarded result has a property when it has it under the guard. -/
@[simp] theorem okHas_guard (p : Prop) [Decidable p] (x : Instr) (r : Reject) (P : Instr → Prop) :
    OkHas (if p then .ok x else .error r) P ↔ (p → P x) := by
  split <;> simp_all

theorem fld_toNat (w lo n : Nat) : (fld w lo n).toNat = w / 2 ^ lo % 2 ^ n := BitVec.toNat_ofNat ..

@[simp] theorem fld_lowest_toNat (w n : Nat) : (fld w 0 n).toNat = w % 2 ^ n := by rw [fld_toNat, Nat.pow_zero, Nat.div_one]

/-- A field at its place, on top of the bits below it. -/
@[simp] theorem fld_above {w lo n k : Nat} (hk : 2 ^ lo = k) : (fld w lo n).toNat * k + w % k = w % (k * 2 ^ n) := by
  subst hk
  rw [fld_toNat, Nat.mod_mul, Nat.mul_comm, Nat.add_comm]

/-- A field that holds the value required of it stands on top of the bits below it with that value. -/
theorem fixedIs_iff (w lo n v : Nat) : fixedIs w lo n v = true ↔ v * 2 ^ lo + w % 2 ^ lo = w % 2 ^ (lo + n) := by
  rw [fixedIs, beq_iff_eq, Nat.pow_add, Nat.mod_mul, Nat.mul_comm, Nat.add_comm, Nat.add_left_cancel_iff,
    Nat.mul_right_inj (Nat.two_pow_pos lo).ne', eq_comm]

/-- A field that holds zero as required adds nothing to the bits below it. -/
@[simp] theorem fixedIs_zero (w lo n : Nat) : fixedIs w lo n 0 = true ↔ w % 2 ^ lo = w % 2 ^ (lo + n) := by
  rw [fixedIs_iff, Nat.zero_mul, Nat.zero_add]

/-- An instruction of class `c` whose word holds major `op` and below it the low 26 bits of `w`. -/
def HasWord (c op w : Nat) (i : Instr) : Prop := classOf i = some c ∧ encodeNat i = op * 2 ^ 26 + w % 2 ^ 26

/-- `sel` has no guard field: its lowest field stands at bit 1 (R71). -/
theorem hasWord_sel {w : Nat} (h : fixedIs w 0 1 0 = true) :
    HasWord 0 43 w (.sel (fld w 20 6) (fld w 13 7) (fld w 7 6) (fld w 1 6)) := by
  have hp : (fld w 1 6).toNat * 2 = w % 128 := by rw [fld_toNat]; rw [fixedIs_zero] at h; omega
  refine ⟨rfl, ?_⟩
  simp only [encodeNat, Nat.add_assoc, hp, fld_above, Nat.reducePow, Nat.reduceMul]

/-- `ratom` holds the value 1 in a field required to be so. -/
theorem hasWord_ratom {w : Nat} (h : (fixedIs w 6 2 1 && fixedIs w 12 2 0) = true) :
    HasWord 2 35 w (.ratom (fld w 20 6) (fld w 14 6) (fld w 8 4) (fld w 4 2) (fld w 0 4)) := by
  obtain ⟨hone, hzero⟩ := Bool.and_eq_true_iff.1 h
  have hlow : w % 64 + 64 = w % 256 := (Nat.add_comm ..).trans ((fixedIs_iff ..).1 hone)
  have hgap : w % 4096 = w % 16384 := (fixedIs_zero ..).1 hzero
  refine ⟨rfl, ?_⟩
  simp only [encodeNat, Nat.add_assoc, fld_lowest_toNat, hlow, hgap, fld_above, Nat.reducePow, Nat.reduceMul]

theorem decodeAlu_hasWord (op w : Nat) : OkHas (decodeAlu op w) (HasWord 0 op w) := by
  unfold decodeAlu
  split
  case h_44 => exact (okHas_guard ..).2 hasWord_sel
  all_goals simp +contextual [HasWord, classOf, encodeNat, Nat.add_assoc]

theorem decodeCtrl_hasWord (op w : Nat) : OkHas (decodeCtrl op w) (HasWord 1 op w) := by
  unfold decodeCtrl
  split <;> simp +contextual [HasWord, classOf, encodeNat, Nat.add_assoc]

theorem decodeMem_hasWord (op w : Nat) : OkHas (decodeMem op w) (HasWord 2 op w) := by
  unfold decodeMem
  split
  case h_36 => exact (okHas_guard ..).2 hasWord_ratom
  all_goals simp +contextual [HasWord, classOf, encodeNat, Nat.add_assoc]

theorem decodeCopy_hasWord (op w : Nat) : OkHas (decodeCopy op w) (HasWord 3 op w) := by
  unfold decodeCopy
  split <;> simp +contextual [HasWord, classOf, encodeNat, Nat.add_assoc]

theorem decodeMtx_hasWord (op w : Nat) : OkHas (decodeMtx op w) (HasWord 4 op w) := by
  unfold decodeMtx
  split <;> simp +contextual [HasWord, classOf, encodeNat, Nat.add_assoc]

theorem decodeColl_hasWord (op w : Nat) : OkHas (decodeColl op w) (HasWord 5 op w) := by
  unfold decodeColl
  split <;> simp +contextual [HasWord, classOf, encodeNat, Nat.add_assoc]

theorem decodeSys_hasWord (op w : Nat) : OkHas (decodeSys op w) (HasWord 6 op w) := by
  unfold decodeSys
  split <;> simp +contextual [HasWord, classOf, encodeNat, Nat.add_assoc]

theorem decodeFields_hasWord (c w : Nat) : OkHas (decodeFields c w) (HasWord c (w / 2 ^ 26 % 64) w) := by
  unfold decodeFields
  split
  · exact decodeAlu_hasWord _ w
  · exact decodeCtrl_hasWord _ w
  · exact decodeMem_hasWord _ w
  · exact decodeCopy_hasWord _ w
  · exact decodeMtx_hasWord _ w
  · exact decodeColl_hasWord _ w
  · exact decodeSys_hasWord _ w
  · exact (okHas_error ..).2 trivial

/-- The decoder accepts the fields of a word when they are those of a well-formed instruction. -/
theorem decodeWord_ok {c w : Nat} {i : Instr} : decodeWord c w = .ok i ↔ decodeFields c w = .ok i ∧ i.wf = true := by
  constructor
  · intro h
    unfold decodeWord at h
    split at h
    · cases h
    · next hf =>
      split at h
      · cases h
      · next hr => cases h; exact ⟨hf, Option.isNone_iff_eq_none.2 hr⟩
  · rintro ⟨hf, hwf⟩
    simp only [decodeWord, hf, Option.isNone_iff_eq_none.1 hwf]

end Sys2Proof

namespace Sys2Proof.Proofs

/-- Settles O2: the fields of an accepted word, put back in their places over the major, are the word. -/
theorem encodeOfDecode : Obligations.EncodeOfDecode := by
  intro c w i hw h
  obtain ⟨hf, hwf⟩ := decodeWord_ok.1 h
  obtain ⟨hc, hword⟩ := decodeFields_hasWord c w i hf
  refine ⟨hwf, hc, hword.trans ?_⟩
  rw [Nat.mod_eq_of_lt (show w / 2 ^ 26 < 64 by omega)]
  exact Nat.div_add_mod' w (2 ^ 26)

end Sys2Proof.Proofs
end

section
/-! SUPPORT. Operand value 127, the unassigned majors, and what the decoder refuses for them (Table 3.15). -/

namespace Sys2Proof

theorem firstReject_eq_none (l : List (Option Reject)) : firstReject l = none ↔ ∀ x ∈ l, x = none := by
  induction l with
  | nil => simp [firstReject]
  | cons x xs ih => cases x <;> simp [firstReject, ih]

theorem need_eq_none (ok : Bool) (r : Reject) : need ok r = none ↔ ok = true := by cases ok <;> simp [need]

/-- No kind of operand admits the value 127 (Table 3.3). -/
@[simp] theorem intOperand_127 : intOperand 127#7 = false := rfl
@[simp] theorem anyOperand_127 : anyOperand 127#7 = false := rfl
@[simp] theorem floatOperand_127 : floatOperand 127#7 = false := rfl
@[simp] theorem doubleOperand_127 : doubleOperand 127#7 = false := rfl
@[simp] theorem vectorOperand_127 : vectorOperand 127#7 = false := rfl
@[simp] theorem scalarOperand_127 : scalarOperand 127#7 = false := rfl
@[simp] theorem cvtdSource_127 (o : BitVec 3) : cvtdSource o 127#7 = false := by revert o; decide

theorem decodeWord_error {c w : Nat} {r : Reject} (h : decodeFields c w = .error r) : decodeWord c w = .error r := by
  rw [decodeWord, h]

/-- A word is refused when whatever its fields give is ill-formed. -/
theorem decodeWord_refused {c w : Nat} (h : OkHas (decodeFields c w) (fun i => i.reject ≠ none)) : ∃ r, decodeWord c w = .error r := by
  cases hw : decodeWord c w with
  | error r => exact ⟨r, rfl⟩
  | ok i =>
    obtain ⟨hf, hwf⟩ := decodeWord_ok.1 hw
    exact absurd (Option.isNone_iff_eq_none.1 hwf) (h i hf)

theorem fld_a_eq_127 {w : Nat} (h : w / 2 ^ 13 % 2 ^ 7 = 127) : fld w 13 7 = 127#7 := BitVec.eq_of_toNat_eq ((fld_toNat ..).trans h)

theorem decodeCtrl_unassigned {op : Nat} (h : 0x12 ≤ op) (w : Nat) : decodeCtrl op w = .error .unassignedMajor := by
  unfold decodeCtrl
  split
  case h_19 => rfl
  all_goals omega

theorem decodeMem_unassigned {op : Nat} (h : 0x31 ≤ op) (w : Nat) : decodeMem op w = .error .unassignedMajor := by
  unfold decodeMem
  split
  case h_50 => rfl
  all_goals omega

theorem decodeCopy_unassigned {op : Nat} (h : 9 ≤ op) (w : Nat) : decodeCopy op w = .error .unassignedMajor := by
  unfold decodeCopy
  split
  case h_10 => rfl
  all_goals omega

theorem decodeMtx_unassigned {op : Nat} (h : 8 ≤ op) (w : Nat) : decodeMtx op w = .error .unassignedMajor := by
  unfold decodeMtx
  split
  case h_9 => rfl
  all_goals omega

theorem decodeColl_unassigned {op : Nat} (h : 8 ≤ op) (w : Nat) : decodeColl op w = .error .unassignedMajor := by
  unfold decodeColl
  split
  case h_9 => rfl
  all_goals omega

theorem decodeSys_unassigned {op : Nat} (h : 8 ≤ op) (w : Nat) : decodeSys op w = .error .unassignedMajor := by
  unfold decodeSys
  split
  case h_9 => rfl
  all_goals omega

/-- Every ALU form but the five with an immediate refuses operand value 127: `sread` (major 63) has zero required there, `mxpk` (major 29)
its own bound on the register number, and the others a kind of operand. -/
theorem decodeAlu_operand127 {op w : Nat} (h : w / 2 ^ 13 % 2 ^ 7 = 127) (hop : op < 45 ∨ 48 ≤ op ∧ op < 52 ∨ 54 ≤ op) :
    OkHas (decodeAlu op w) (fun i => i.reject ≠ none) := by
  have ha := fld_a_eq_127 h
  unfold decodeAlu
  split
  case h_46 | h_47 | h_48 | h_53 | h_54 => omega
  case h_64 => exact (okHas_guard ..).2 fun hz => absurd (h.symm.trans (beq_iff_eq.1 hz)) (by decide)
  case h_65 => exact (okHas_error ..).2 trivial
  case h_30 =>
    refine (okHas_ok ..).2 (mt (firstReject_eq_none _).1 ?_)
    simp only [need_eq_none, ha, List.mem_cons, forall_eq_or_imp, BitVec.toNat_ofNat, decide_eq_true_eq]
    omega
  all_goals
    simp only [okHas_ok, okHas_guard]
    intros
    refine mt (firstReject_eq_none _).1 ?_
    simp [need_eq_none, ha]

theorem decodeCtrl_operand127 {op w : Nat} (h : w / 2 ^ 13 % 2 ^ 7 = 127) (hop : op ∈ [3, 5, 16, 17]) :
    OkHas (decodeCtrl op w) (fun i => i.reject ≠ none) := by
  have ha := fld_a_eq_127 h
  fin_cases hop
  all_goals
    refine (okHas_guard ..).2 fun _ => mt (firstReject_eq_none _).1 ?_
    simp [need_eq_none, ha]

theorem decodeMtx_operand127 {op w : Nat} (h : w / 2 ^ 13 % 2 ^ 7 = 127) (hop : op ∈ [4, 5, 7]) :
    OkHas (decodeMtx op w) (fun i => i.reject ≠ none) := by
  have ha := fld_a_eq_127 h
  fin_cases hop
  · exact (okHas_ok ..).2 (mt (firstReject_eq_none _).1 (by simp [need_eq_none, ha]))
  · exact (okHas_ok ..).2 (mt (firstReject_eq_none _).1 (by simp [need_eq_none, ha]))
  · exact (okHas_guard ..).2 fun _ => mt (firstReject_eq_none _).1 (by simp [need_eq_none, ha])

theorem decodeSys_operand127 {op w : Nat} (h : w / 2 ^ 13 % 2 ^ 7 = 127) (hop : op ∈ [1, 5, 6]) :
    OkHas (decodeSys op w) (fun i => i.reject ≠ none) := by
  have ha := fld_a_eq_127 h
  fin_cases hop
  all_goals
    refine (okHas_guard ..).2 fun _ => mt (firstReject_eq_none _).1 ?_
    simp [need_eq_none, ha]

end Sys2Proof

namespace Sys2Proof.Proofs

/-- Settles O3: class by class, no row of the decoder has the major, and no kind of operand admits the value 127. -/
theorem reservedEncodingsRefused : Obligations.ReservedEncodingsRefused := by
  refine ⟨fun _ => rfl, fun c w hw hop => decodeWord_error ?majors, fun w h => ?operands⟩
  case majors =>
    have hm : w / 2 ^ 26 % 64 = w / 2 ^ 26 := Nat.mod_eq_of_lt (by omega)
    rcases hop with ⟨rfl, hop⟩ | ⟨rfl, hop⟩ | ⟨rfl, hop⟩ | ⟨rfl | rfl | rfl, hop⟩ <;> rw [decodeFields, hm]
    · exact decodeCtrl_unassigned hop w
    · exact decodeMem_unassigned hop w
    · exact decodeCopy_unassigned hop w
    · exact decodeMtx_unassigned hop w
    · exact decodeColl_unassigned hop w
    · exact decodeSys_unassigned hop w
  case operands =>
    exact ⟨fun hop => decodeWord_refused (decodeAlu_operand127 h hop), fun hop => decodeWord_refused (decodeCtrl_operand127 h hop),
      fun hop => decodeWord_refused (decodeMtx_operand127 h hop), fun hop => decodeWord_refused (decodeSys_operand127 h hop)⟩

end Sys2Proof.Proofs
end

section
/-! SUPPORT. Lane instructions by the kind of their effect: one word, one pair or predicates (R75, R78, R80). -/

namespace Sys2Proof.Machine

section OneEffect

variable {i : Instr} {d : BitVec 6} {g : BitVec 4} {vr sr : List Nat}

theorem laneInstr_eff32 (f : Wave → Nat → Nat × Flags) (he : ∀ s, exec i s = s.laneOp i g vr sr (fun w l => eff32 d (f w l))) :
    LaneInstr i g vr sr (fun w l => eff32 d (f w l)) := laneInstr_of _ he fun _ _ => by simp [eff32]

theorem laneInstr_eff64 (f : Wave → Nat → Nat × Flags) (he : ∀ s, exec i s = s.laneOp i g vr sr (fun w l => eff64 d (f w l))) :
    LaneInstr i g vr sr (fun w l => eff64 d (f w l)) := laneInstr_of _ he fun _ _ => by simp [eff64]

theorem laneInstr_effW (f : Wave → Nat → Word) (he : ∀ s, exec i s = s.laneOp i g vr sr (fun w l => effW d (f w l))) :
    LaneInstr i g vr sr (fun w l => effW d (f w l)) := laneInstr_of _ he fun _ _ => by simp [effW]

end OneEffect

theorem bitsOf_low (x n : Nat) : bitsOf x 0 n = x % 2 ^ n := by rw [bitsOf, Nat.pow_zero, Nat.div_one]

end Sys2Proof.Machine

namespace Sys2Proof.Proofs

open Sys2Proof.Machine

/-- Settles O12: each form is a lane instruction that writes one word or one pair with the rounded result and its flags. -/
theorem floatArithmetic : Obligations.FloatArithmetic := by
  refine ⟨fun d a b m g => ?single, fun d a b m g => ?double, fun d a b m g => ?packed⟩
  case single =>
    exact ⟨laneInstr_eff32 _ fun _ => rfl, laneInstr_eff32 _ fun _ => rfl, laneInstr_eff32 _ fun _ => rfl, laneInstr_eff32 _ fun _ => rfl,
      laneInstr_eff32 _ fun _ => rfl, laneInstr_eff32 _ fun _ => rfl, laneInstr_eff32 _ fun _ => rfl⟩
  case double =>
    exact ⟨laneInstr_eff64 _ fun _ => rfl, laneInstr_eff64 _ fun _ => rfl, laneInstr_eff64 _ fun _ => rfl, laneInstr_eff64 _ fun _ => rfl,
      laneInstr_eff64 _ fun _ => rfl⟩
  case packed =>
    exact ⟨laneInstr_eff32 _ fun _ => rfl, laneInstr_eff32 _ fun _ => rfl, laneInstr_eff32 _ fun _ => rfl, laneInstr_eff32 _ fun _ => rfl,
      laneInstr_eff32 _ fun _ => rfl, laneInstr_eff32 _ fun _ => rfl, laneInstr_eff32 _ fun _ => rfl⟩

end Sys2Proof.Proofs
end

section
/-! SUPPORT. Comparisons: what they write is predicates and flags (R80, R134, R185). -/

namespace Sys2Proof.Machine

theorem laneInstr_pred {i : Instr} {p : BitVec 6} {g : BitVec 4} {vr sr : List Nat} (f : Wave → Nat → Bool × Flags)
    (he : ∀ s, exec i s = s.laneOp i g vr sr (fun w l => { preds := [(p.toNat, (f w l).1)], flags := (f w l).2 })) :
    LaneInstr i g vr sr (fun w l => { preds := [(p.toNat, (f w l).1)], flags := (f w l).2 }) :=
  laneInstr_of _ he fun _ _ => by simp

/-- A packed comparison: the two predicates are distinct, and each half is compared by itself. -/
theorem laneInstr_f16Cmp {i : Instr} {f : Fmt} {p b : BitVec 6} {a : BitVec 7} {c : BitVec 3} {g : BitVec 4}
    (he : ∀ s, exec i s = s.f16Cmp f i p b a c g) :
    LaneInstr i g ([b.toNat] ++ aVec a false) (aScal a false) (fun w l =>
      let x := w.opAH f l a
      let y := (w.reg l b.toNat).toNat
      let lo := floatCond f c.toNat (x % 2 ^ 16) (y % 2 ^ 16)
      let hi := floatCond f c.toNat (x / 2 ^ 16 % 2 ^ 16) (y / 2 ^ 16 % 2 ^ 16)
      { preds := [(p.toNat, lo.1), (p.toNat + 1, hi.1)], flags := lo.2 ||| hi.2 }) :=
  laneInstr_of _ (fun s => by rw [he]; simp only [State.f16Cmp, bitsOf_low]; rfl) fun _ _ => by simp

end Sys2Proof.Machine

namespace Sys2Proof.Proofs

open Sys2Proof.Machine

/-- Settles O13: each comparison is a lane instruction whose effect is predicates and flags alone. -/
theorem floatComparisons : Obligations.FloatComparisons := fun _ _ _ _ _ =>
  ⟨laneInstr_pred _ fun _ => rfl, laneInstr_pred _ fun _ => rfl, laneInstr_f16Cmp fun _ => rfl, laneInstr_f16Cmp fun _ => rfl⟩

end Sys2Proof.Proofs
end

section
/-! SUPPORT. Integer instructions of a lane: the registers they name and the word they write (R79, R130 to R136). -/

namespace Sys2Proof.Machine

/-- An integer operation whose second operand is unused under a condition names that register only without it. -/
theorem intOp_eq (s : State) (i : Instr) (d b : BitVec 6) (a : BitVec 7) (g : BitVec 4) (p : Prop) [Decidable p]
    (op : Word → Word → Word → Word) :
    s.intOp i d b a g (decide p) op =
      s.laneOp i g (if p then [d.toNat] ++ aVec a false else [d.toNat, b.toNat] ++ aVec a false) (aScal a false)
        (fun w l => effW d (op (w.opA l a) (w.reg l b.toNat) (w.reg l d.toNat))) := by
  by_cases h : p <;> simp [State.intOp, h]

theorem withHigh_eq (k : BitVec 16) (x : Word) : withHigh k x = BitVec.ofNat 32 (2 ^ 16 * k.toNat + x.toNat % 2 ^ 16) := by
  have hx : x.toNat / 2 ^ 32 = 0 := Nat.div_eq_of_lt x.isLt
  rw [withHigh, setBits, Nat.mod_eq_of_lt k.isLt, hx, Nat.zero_mul, Nat.zero_add, Nat.mul_comm]

theorem withLow_eq (k : BitVec 16) (x : Word) : withLow k x = BitVec.ofNat 32 (x.toNat / 2 ^ 16 * 2 ^ 16 + k.toNat) := by
  simp [withLow, setBits, Nat.mod_one, Nat.mod_eq_of_lt k.isLt]

end Sys2Proof.Machine

namespace Sys2Proof.Proofs

open Sys2Proof.Machine

/-- Settles O15: each form is an integer operation of a lane; those of one operand do not name v b. -/
theorem integerArithmetic : Obligations.IntegerArithmetic := by
  refine ⟨fun d a b m g => ⟨?_, ?_, ?imnx, ?ilog⟩, fun d a b m o n g => ⟨?_, ?_, ?_, ?_, ?_⟩⟩
  case imnx => exact laneInstr_effW _ fun s => intOp_eq s _ d b a g (4 ≤ m.toNat) (fun x y _ => minMaxSub m.toNat x y)
  case ilog => exact laneInstr_effW _ fun s => intOp_eq s _ d b a g (m.toNat = 6) (fun x y _ => logicSub m.toNat x y)
  all_goals exact laneInstr_effW _ fun _ => rfl

/-- Settles O17: moves and the selection write one word, comparisons one predicate. -/
theorem movesAndComparisons : Obligations.MovesAndComparisons := by
  refine fun d a b p k c g => ⟨laneInstr_effW _ fun _ => rfl, laneInstr_effW _ fun _ => rfl, ?movh, ?movl, laneInstr_effW _ fun _ => rfl,
    laneInstr_pred (fun _ _ => (_, 0)) fun _ => rfl, laneInstr_pred (fun _ _ => (_, 0)) fun _ => rfl⟩
  case movh => simp only [← withHigh_eq]; exact laneInstr_effW _ fun _ => rfl
  case movl => simp only [← withLow_eq]; exact laneInstr_effW _ fun _ => rfl

end Sys2Proof.Proofs
end

section
/-! SUPPORT. Scalar-class instructions (R137 to R139). -/

namespace Sys2Proof.Machine

/-- A scalar operation whose second operand is unused under a condition names that register only without it. -/
theorem sclOp_eq (s : State) (i : Instr) (d b : BitVec 6) (a : BitVec 7) (g : BitVec 4) (p : Prop) [Decidable p]
    (op : Word → Word → Word → Word) :
    s.sclOp i d b a g (decide p) op =
      s.scalarOp i g (if p then [d.toNat] ++ aScal a false else [d.toNat, b.toNat] ++ aScal a false)
        (fun w => w.setS d.toNat (op (w.opS a) (w.sreg b.toNat) (w.sreg d.toNat))) := by
  by_cases h : p <;> simp [State.sclOp, h]

theorem Lane.isGone_iff (x : Lane) : x.isGone = true ↔ x.state = .helper ∨ x.state = .exited := by
  simp [Lane.isGone]

/-- A lane with one predicate set. -/
theorem setPred_written (x : Lane) (p : Nat) (b : Bool) : LaneWritten x (x.setPred p b) { preds := [(p, b)] } :=
  lane_apply x { preds := [(p, b)] } (by simp) (by simp)

end Sys2Proof.Machine

namespace Sys2Proof.Proofs

open Sys2Proof.Machine

/-- Settles O19: each form is a scalar operation of the wave, and `scmp` sets one predicate of every lane that is not gone. -/
theorem scalarInstructions : Obligations.ScalarInstructions := by
  refine ⟨fun d a b m k g => ⟨scalarInstr_of _ fun _ => rfl, scalarInstr_of _ fun _ => rfl, ?slog, scalarInstr_of _ fun _ => rfl,
    scalarInstr_of _ fun _ => rfl, ?smovh, scalarInstr_of _ fun _ => rfl⟩, fun p a b k g s c w h hi => ?scmp⟩
  case slog => exact scalarInstr_of _ fun s => sclOp_eq s _ d b a g (m.toNat = 6) (fun x y _ => logicSub m.toNat x y)
  case smovh => simp only [← withHigh_eq]; exact scalarInstr_of _ fun _ => rfl
  case scmp =>
    have hexec : exec (.scmp p a b k g) s = _ := scalarOp_completes h hi _
    refine ⟨fun ht => hexec.trans (congrArg _ (if_pos (by simp [ht]))),
      fun ht => ⟨_, hexec.trans (congrArg _ (if_neg (by simpa using ht))), rfl, by simp, fun l x y hx hy => ?_⟩⟩
    simp only [List.getElem?_map, hx, Option.map_some, Option.some.injEq] at hy
    subst hy
    refine ⟨fun hg => by simp [(Lane.isGone_iff x).2 hg], fun hh hx => ?_⟩
    have hg : ¬ x.isGone = true := by simp [Lane.isGone_iff, hh, hx]
    rw [if_neg hg]
    exact setPred_written x p.toNat _

end Sys2Proof.Proofs
end

section
/-! SUPPORT. Reads of special registers and of the lease clock (R85, R148, R149, R410). -/

namespace Sys2Proof.Machine

theorem bit_cases (k : BitVec 1) : k = 0 ∨ k = 1 := by revert k; decide

/-- Registers that are named under a condition are full when they are full under it. -/
theorem allFull_ite {w : Wave} {ls rs : List Nat} {p : Prop} [Decidable p] (h : p → w.allFull ls rs) :
    w.allFull ls (if p then rs else []) := by
  split
  · next hp => exact h hp
  · exact fun _ _ _ _ _ hr => nomatch hr

/-- The scalar destinations of a read, by its bit s. -/
theorem scalarDests_eq (k : BitVec 1) (rs : List Nat) : (if k = 1 then rs else []) = if k = 0 then [] else rs := by
  rcases bit_cases k with rfl | rfl <;> rfl

/-- `sread` of a wave whose named registers are full: all lanes of T go on. -/
theorem exec_sread {s : State} {c : Ctx} {w : Wave} (h : Alone s c w) {d : BitVec 6} {k : BitVec 1} {r : BitVec 8} {g : BitVec 4}
    (hi : LegalFor (.sread d k r g) (if k = 0 then [d.toNat] else []) (if k = 0 then [] else [d.toNat]) w)
    (hf : k = 0 → w.allFull (c.t w g) [d.toNat]) :
    exec (.sread d k r g) s = .next (
      if r.toNat = 0x11 ∨ r.toNat = 0x12 then
        s.readClock c (c.t w g) [d.toNat] (k == 1) (if r.toNat = 0x11 then s.nowOf c.r % 2 ^ 32 else s.nowOf c.r / 2 ^ 32 % 2 ^ 32)
      else if k = 1 then
        if (c.t w g).isEmpty then s else s.modWave c.r (fun v => v.setS d.toNat (lo32 (s.special c w 0 r.toNat)))
      else s.modWave c.r (fun v => v.applyEffs (c.t w g) (fun l => effW d (lo32 (s.special c w l r.toNat))))) := by
  rw [← scalarDests_eq] at hi
  exact (execWord_alone h hi rfl).trans (by simp only [gates_full (allFull_ite hf)])

/-- `gettime` of a wave whose named registers are full: all lanes of T go on. -/
theorem exec_gettime {s : State} {c : Ctx} {w : Wave} (h : Alone s c w) {d : BitVec 6} {k : BitVec 1} {g : BitVec 4}
    (hi : LegalFor (.gettime d k g) (if k = 0 then regRun d 2 else []) (if k = 0 then [] else regRun d 2) w)
    (hf : k = 0 → w.allFull (c.t w g) (regRun d 2)) :
    exec (.gettime d k g) s = .next (s.readClock c (c.t w g) (regRun d 2) (k == 1) (s.nowOf c.r % 2 ^ 64)) := by
  rw [← scalarDests_eq] at hi
  exact (execWord_alone h hi rfl).trans (by simp only [gates_full (allFull_ite hf)])

/-- A read of the lease clock by a context's lanes is in flight: its operation is listed, and of the wave nothing changes but that it is
held, or that the destinations of those lanes are empty. -/
def ClockReadInFlight (s t : State) (c : Ctx) (w : Wave) (ls rs : List Nat) (scalar : Bool) (value : Nat) : Prop :=
  ∃ (op : MemOp) (f : Wave → Wave),
    t = ({ s with next := s.next + 1, memOps := s.memOps ++ [op] } : State).modWave c.r f ∧
    op.id = s.next ∧ op.wave = c.r ∧ op.kind = .clock value (if scalar then some rs else none) ∧
    (op.groups.flatMap (fun y => y.lanes.map (·.lane))) = ls ∧
    f w = if scalar then { w with holds := w.holds ++ [.op s.next] } else w.modLanes ls (fun x => rs.foldl (fun x r => x.markEmpty r) x)

theorem readClock_inFlight (s : State) (c : Ctx) (w : Wave) {ls : List Nat} (rs : List Nat) (scalar : Bool) (value : Nat) (hl : ls ≠ []) :
    ClockReadInFlight s (s.readClock c ls rs scalar value) c w ls rs scalar value := by
  have hne : ls.isEmpty = false := by simpa using hl
  cases scalar <;> simp only [State.readClock, hne, Bool.false_eq_true, if_false, if_true]
  · exact ⟨_, _, rfl, rfl, rfl, rfl, by simp [Function.comp_def], rfl⟩
  · exact ⟨_, _, rfl, rfl, rfl, rfl, by simp [Function.comp_def], rfl⟩

/-- Registers of lanes of a wave marked empty, and nothing else of it changed. -/
theorem modLanes_markEmpty (w : Wave) (ls rs : List Nat) :
    let v := w.modLanes ls (fun x => rs.foldl (fun x r => x.markEmpty r) x)
    v = { w with lanes := v.lanes } ∧ (∀ l, l ∉ ls → v.lanes[l]? = w.lanes[l]?) ∧
      ∀ l ∈ ls, ∀ x y : Lane, w.lanes[l]? = some x → v.lanes[l]? = some y →
        y = { x with full := y.full } ∧ ∀ r, y.isFull r = (x.isFull r && !rs.contains r) := by
  refine ⟨rfl, fun l hl => ?_, fun l hl x y hx hy => ?_⟩
  · simp [Wave.modLanes, getElem?_mapIdx', hl]
  · simp only [Wave.modLanes, getElem?_mapIdx', hx, Option.map_some, Option.some.injEq, List.contains_iff_mem, hl, if_true] at hy
    subst hy
    simpa using foldl_markEmpty x rs

/-- What an instruction has done that puts a read of the lease clock in flight, by whether its destinations are vector or scalar. -/
theorem clockRead_completes {i : Instr} {s : State} {c : Ctx} {w : Wave} {ls rs : List Nat} {k : BitVec 1} {value : Nat} (hl : ls ≠ [])
    (he : exec i s = .next (s.readClock c ls rs (k == 1) value)) :
    ∃ (op : MemOp) (f : Wave → Wave),
      exec i s = .next (({ s with next := s.next + 1, memOps := s.memOps ++ [op] } : State).modWave c.r f) ∧
      op.id = s.next ∧ op.wave = c.r ∧ op.kind = .clock value (if k = 0 then none else some rs) ∧
      (op.groups.flatMap (fun y => y.lanes.map (·.lane))) = ls ∧
      (k ≠ 0 → f w = { w with holds := w.holds ++ [.op s.next] }) ∧
      (k = 0 → f w = { w with lanes := (f w).lanes } ∧ (∀ l, l ∉ ls → (f w).lanes[l]? = w.lanes[l]?) ∧
        ∀ l ∈ ls, ∀ x y : Lane, w.lanes[l]? = some x → (f w).lanes[l]? = some y →
          y = { x with full := y.full } ∧ ∀ r, y.isFull r = (x.isFull r && !rs.contains r)) := by
  obtain ⟨op, f, ht, hid, hwave, hkind, hlanes, hf⟩ := readClock_inFlight s c w rs (k == 1) value hl
  refine ⟨op, f, he.trans (congrArg _ ht), hid, hwave, ?_⟩
  rcases bit_cases k with rfl | rfl
  · refine ⟨hkind, hlanes, fun h => absurd rfl h, fun _ => ?_⟩
    rw [show f w = w.modLanes ls _ from hf]
    exact modLanes_markEmpty w ls rs
  · exact ⟨hkind, hlanes, fun _ => hf, fun h => absurd h (by decide)⟩

section BlockWave

variable {s : State} {c : Ctx} {uid j : Nat} {b : Block} {la : Launch} (hr : c.r = .blk uid j) (hb : s.block? uid = some b)
  (hl : s.launch? b.launch = some la)

include hr hb hl

theorem launchOf_blk : s.launchOf c.r = some la := by
  simp [hr, State.launchOf, State.launchKey, hb, hl]

/-- Special registers of a lane of a block's wave (Table 6.5). -/
theorem special_blk (w : Wave) (l : Nat) :
    s.special c w l 0x02 = j ∧ s.special c w l 0x04 = j * w.width + l ∧ s.special c w l 0x0B = b.lin ∧ s.special c w l 0x0D = b.core ∧
      s.special c w l 0x0F = la.part ∧ s.special c w l 0x10 = la.id ∧
      s.special c w l 0x13 = la.record.seed % 2 ^ 32 ∧ s.special c w l 0x14 = la.record.seed / 2 ^ 32 ∧
      s.special c w l 0x15 = la.record.arg % 2 ^ 32 ∧ s.special c w l 0x16 = la.record.arg / 2 ^ 32 := by
  have hla := launchOf_blk hr hb hl
  simp only [State.special, State.partOf, hla]
  simp [hr, isHandler, waveIndex, State.blockOf, State.coreOf, hb]

end BlockWave

end Sys2Proof.Machine

namespace Sys2Proof.Proofs

open Sys2Proof.Machine

/-- Settles O25: a read writes the value at once, and one of the lease clock puts an operation in flight. -/
theorem specialRegisterReads : Obligations.SpecialRegisterReads := by
  refine ⟨⟨fun d r g s c w h h11 h12 => ⟨fun hi hf => ?vector, fun hi => ?scalar⟩, ?values⟩, ?clock⟩
  case vector =>
    have hx := exec_sread (k := 0) h hi fun _ => hf
    rw [if_neg (by simp [h11, h12]), if_neg (by decide)] at hx
    exact ⟨_, hx, applyEffs_written w _ _ (fun _ => by simp [effW]) fun _ => by simp [effW]⟩
  case scalar =>
    have hx := exec_sread (k := 1) h hi fun hk => absurd hk (by decide)
    rw [if_neg (by simp [h11, h12]), if_pos rfl] at hx
    exact ⟨fun ht => hx.trans (congrArg _ (if_pos (by simp [ht]))),
      fun ht => ⟨_, hx.trans (congrArg _ (if_neg (by simpa using ht))), rfl, .one w d.toNat _⟩⟩
  case values =>
    intro s c w l uid j b la hr hb hl
    obtain ⟨hindex, hthread, hlin, hcore, hpart, hid, hseed, hseedHigh, harg, hargHigh⟩ := special_blk hr hb hl w l
    have hcell : s.special c w l 0x0E = b.core / 4 := congrArg (· / 4) hcore
    refine ⟨rfl, rfl, hindex, rfl, hthread, hlin, hcore, hcell, hpart, hid, ?_, ?_, rfl, rfl⟩
    · rw [hseed, hseedHigh]; exact Nat.mod_add_div ..
    · rw [harg, hargHigh]; exact Nat.mod_add_div ..
  case clock =>
    intro d k g s c w h ht
    exact ⟨fun hi hf => clockRead_completes ht (exec_sread h hi hf), fun hi hf => clockRead_completes ht (exec_sread h hi hf),
      fun hi hf => clockRead_completes ht (exec_gettime h hi hf)⟩

end Sys2Proof.Proofs
end

section
/-! SUPPORT. Lanes that leave their clause, one group after the other: the wave they leave it in, and the lanes as each group leaves them
(R101, R111). -/

namespace Sys2Proof.Machine

/-- The state `t` comes from `s` by lanes of one wave leaving their clause issue, those of `ls`, and by changes of that wave, which take `w`
to a wave of `w'` with each lane passed through `h`. -/
def Departs (s t : State) (r : WaveRef) (ls : List Nat) (w w' : Wave) (h : Nat → Lane → Lane) : Prop :=
  ∃ f : Wave → Wave, t = (s.modWave r f).dropFromIssues r ls ∧ LanesMapped w' (f w) h

theorem LanesMapped.refl (w : Wave) : LanesMapped w w (fun _ x => x) := ⟨rfl, fun l => by simp⟩

theorem LanesMapped.trans {u v w : Wave} {h k : Nat → Lane → Lane} (hv : LanesMapped u v h) (hw : LanesMapped v w k) :
    LanesMapped u w (fun l x => k l (h l x)) where
  rest := by rw [hw.rest, hv.rest]
  lanes l := by rw [hw.lanes, hv.lanes, Option.map_map]; rfl

/-- What lanes become matters for the lanes that the wave has. -/
theorem LanesMapped.congr {v w : Wave} {h k : Nat → Lane → Lane} (hw : LanesMapped v w h) (hk : ∀ l x, v.lanes[l]? = some x → h l x = k l x) :
    LanesMapped v w k where
  rest := hw.rest
  lanes l := by
    rw [hw.lanes]
    cases hx : v.lanes[l]? with
    | none => rfl
    | some x => simp [hk l x hx]

/-- A vote remembered leaves the lanes. -/
theorem LanesMapped.voted {v w : Wave} {h : Nat → Lane → Lane} (hw : LanesMapped v w h) (c : Ctx) (votes : Bool) (ts : List Nat) :
    LanesMapped (c.voted v votes ts) (c.voted w votes ts) h where
  rest := by rw [Ctx.voted, hw.rest]; rfl
  lanes := hw.lanes

/-- Several lanes of a wave passed through one function. -/
theorem modLanes_mapped (w : Wave) (ls : List Nat) (f : Lane → Lane) :
    LanesMapped w (w.modLanes ls f) (fun l x => if l ∈ ls then f x else x) where
  rest := rfl
  lanes l := by simp [Wave.modLanes, getElem?_mapIdx']

theorem Ctx.voted_false (c : Ctx) (w : Wave) (ts : List Nat) : c.voted w false ts = w := by simp [Ctx.voted]

/-- The executing lanes are those of T and the rest. -/
theorem Ctx.mem_append_rest {c : Ctx} {ts : List Nat} (hs : ts ⊆ c.x) (l : Nat) : l ∈ ts ++ c.rest ts ↔ l ∈ c.x := by
  have := @hs l
  simp only [Ctx.rest, List.mem_append, List.mem_filter, Bool.not_eq_true', List.contains_eq_mem, decide_eq_false_iff_not]
  tauto

theorem Ctx.mem_rest {c : Ctx} {ts : List Nat} {l : Nat} : l ∈ c.rest ts ↔ l ∈ c.x ∧ l ∉ ts := by simp [Ctx.rest]

theorem Ctx.rest_eq_nil {c : Ctx} {ts : List Nat} : c.rest ts = [] ↔ c.x ⊆ ts := by
  simp [Ctx.rest, List.filter_eq_nil_iff, List.subset_def]

theorem Ctx.t_subset (c : Ctx) (w : Wave) (g : BitVec 4) : c.t w g ⊆ c.x := List.filter_subset_self _

/-- T holds all of the executing lanes exactly when none is left over. -/
theorem Ctx.t_eq_x {c : Ctx} {w : Wave} {g : BitVec 4} : c.t w g = c.x ↔ c.rest (c.t w g) = [] := by
  simp +contextual [Ctx.rest_eq_nil, Ctx.t, List.filter_eq_self, List.subset_def]

namespace Departs

variable {s t u : State} {c : Ctx} {r : WaveRef} {ls ms ts : List Nat} {w w' : Wave} {h k : Nat → Lane → Lane}

theorem refl (s : State) (r : WaveRef) (w : Wave) : Departs s s r [] w w (fun _ x => x) :=
  ⟨fun v => v, by rw [modWave_id, dropFromIssues_nil], .refl w⟩

theorem congr (hd : Departs s t r ls w w' h) (hk : ∀ l x, w'.lanes[l]? = some x → h l x = k l x) : Departs s t r ls w w' k := by
  obtain ⟨f, ht, hf⟩ := hd
  exact ⟨f, ht, hf.congr hk⟩

/-- More lanes leave, each changed. -/
theorem leave (hd : Departs s t r ls w w' h) (hu : ∃ f : Wave → Wave, u = (t.modWave r f).dropFromIssues r ms ∧ ∀ v, LanesMapped v (f v) k) :
    Departs s u r (ls ++ ms) w w' (fun l x => k l (h l x)) := by
  obtain ⟨f, rfl, hf⟩ := hd
  obtain ⟨f', rfl, hf'⟩ := hu
  exact ⟨fun v => f' (f v), by rw [modWave_dropFromIssues, modWave_modWave, dropFromIssues_append], hf.trans (hf' _)⟩

/-- Lanes go on at one header. -/
theorem moveLanes (hd : Departs s t r ls w w' h) (ms : List Nat) (vpc : Word) :
    Departs s (t.moveLanes r ms vpc) r (ls ++ ms) w w' (fun l x => if l ∈ ms then (h l x).goTo vpc else h l x) :=
  hd.leave (foldl_moveLane t r (fun _ => vpc) ms)

/-- Lanes stop at the context's instruction in a waiting state. -/
theorem stopLanes (hd : Departs s t c.r ls w w' h) (ms : List Nat) (st : LaneState) : Departs s (t.stopLanes c ms st) c.r (ls ++ ms) w w'
    (fun l x => if l ∈ ms then { h l x with state := st, vpc := c.hdr, slot := c.slot } else h l x) :=
  hd.leave (foldl_stopLane t c.r c.hdr c.slot (fun _ => st) ms)

/-- Lanes become exited (R118). -/
theorem exitLanes (hd : Departs s t r ls w w' h) (ms : List Nat) : Departs s (t.exitLanes r ms) r (ls ++ ms) w w'
    (fun l x => if l ∈ ms then { h l x with state := .exited } else h l x) :=
  hd.leave (k := fun l x => if l ∈ ms then { x with state := .exited } else x) ⟨_, rfl, fun v => modLanes_mapped v ms _⟩

/-- Lanes change without leaving. -/
theorem modLanes (hd : Departs s t r ls w w' h) (ms : List Nat) (f : Lane → Lane) :
    Departs s (t.modWave r (fun v => v.modLanes ms f)) r ls w w' (fun l x => if l ∈ ms then f (h l x) else h l x) := by
  have := hd.leave (ms := []) (k := fun l x => if l ∈ ms then f x else x)
    ⟨_, (dropFromIssues_nil (t.modWave r (fun v => v.modLanes ms f)) r).symm, fun v => modLanes_mapped v ms f⟩
  rwa [List.append_nil] at this

/-- A vote of the executing lanes over `ts`, remembered when it is divergent (R104). -/
theorem noteVote (hd : Departs s t c.r ls w w' h) (ts : List Nat) :
    Departs s (t.noteVote c ts (c.rest ts)) c.r ls w (c.voted w' true ts) h := by
  obtain ⟨f, rfl, hf⟩ := hd
  by_cases hv : ts ≠ [] ∧ ∃ l ∈ c.x, l ∉ ts
  case pos =>
    have hn : (ts.isEmpty || (c.rest ts).isEmpty) = false := by
      obtain ⟨hts, l, hl, hlt⟩ := hv
      simpa [hts] using List.ne_nil_of_mem (Ctx.mem_rest.2 ⟨hl, hlt⟩)
    refine ⟨fun v => c.voted (f v) true ts, ?_, hf.voted c true ts⟩
    rw [State.noteVote, hn, if_neg Bool.false_ne_true, modWave_dropFromIssues, modWave_modWave]
    simp [Ctx.voted, hv]
  case neg =>
    have hn : (ts.isEmpty || (c.rest ts).isEmpty) = true := by
      simp only [Bool.or_eq_true, List.isEmpty_iff, Ctx.rest_eq_nil]
      by_contra hc
      exact hv ⟨fun he => hc (.inl he), by simpa [List.subset_def] using fun hx => hc (.inr hx)⟩
    refine ⟨f, by rw [State.noteVote, if_pos hn], ?_⟩
    have : c.voted w' true ts = w' := by simp only [Ctx.voted, hv, decide_false, Bool.and_false, Bool.or_false]
    rwa [this]

/-- All the executing lanes have left: the lanes of `ts` each its own way, the rest to the next header (R111). -/
theorem rest_goOn (hd : Departs s t c.r ls w w' (fun l x => if l ∈ ts then k l x else x)) (hs : ts ⊆ c.x) (hl : ls = ts) {i : Instr}
    (he : exec i s = .next (t.moveLanes c.r (c.rest ts) c.next)) : ∃ f : Wave → Wave,
      exec i s = .next ((s.modWave c.r f).dropFromIssues c.r c.x) ∧
        LanesMapped w' (f w) (fun l x => if l ∈ ts then k l x else if l ∈ c.x then x.goTo c.next else x) := by
  obtain ⟨f, ht, hf⟩ := hd.moveLanes (c.rest ts) c.next
  refine ⟨f, ?_, hf.congr fun l x _ => ?_⟩
  · rw [he, ht, hl, dropFromIssues_congr _ _ (Ctx.mem_append_rest hs)]
  · by_cases h1 : l ∈ ts <;> by_cases h2 : l ∈ c.x <;> simp [Ctx.mem_rest, h1, h2]

end Departs

/-- The signed number that a field's bits encode. -/
theorem signExt_eq_toInt {n : Nat} (o : BitVec n) : signExt o.toNat n = o.toInt := by
  cases n with
  | zero => rw [BitVec.eq_nil o]; rfl
  | succ n =>
    rw [signExt, if_neg (Nat.succ_ne_zero n), Nat.mod_eq_of_lt o.isLt, BitVec.toInt]
    have hp : 2 ^ (n + 1) = 2 * 2 ^ n := Nat.pow_succ'
    simp only [Nat.add_sub_cancel, hp, Nat.mul_lt_mul_left (show 0 < 2 by decide)]

/-- The target of a relative transfer (R111). -/
theorem Ctx.target_toNat (c : Ctx) {n : Nat} (o : BitVec n) : c.target o.toNat n = c.hdr + BitVec.ofInt 32 o.toInt := by
  rw [Ctx.target, signExt_eq_toInt]

/-- Lanes of T whose register is full go to the offset it holds (R115, R117). -/
theorem jumpLanes_leaves {i : Instr} {a : BitVec 7} {g : BitVec 4} (he : ∀ s, exec i s =
    s.execWord i false [a.toNat] [] (fun _ => true) (fun c w s => s.jumpLanes c w a g)) :
    LeavesClause i g [a.toNat] false (fun _ _ _ => True) (fun c _ ts l x =>
      if l ∈ ts then x.goTo (x.reg a.toNat) else if l ∈ c.x then x.goTo c.next else x) := by
  intro s c w h hi hf _
  have hg : s.gates c w (fun l => [(l, a.toNat)]) (c.t w g) = (c.t w g, s) := gates_full hf
  have hx : exec i s = .next (((c.t w g).foldl (fun s l => s.moveLane c.r l (w.reg l a.toNat)) s).moveLanes c.r (c.rest (c.t w g)) c.next) := by
    rw [he, execWord_alone h hi rfl, State.jumpLanes, hg]
  rw [Ctx.voted_false]
  refine Departs.rest_goOn (((Departs.refl s c.r w).leave (foldl_moveLane s c.r (fun l => w.reg l a.toNat) (c.t w g))).congr (k := fun l x =>
    if l ∈ c.t w g then x.goTo (x.reg a.toNat) else x) fun l x hl => ?_) (c.t_subset w g) rfl hx
  simp only [Wave.reg, hl, Option.map_some, Option.getD_some]

end Sys2Proof.Machine

namespace Sys2Proof.Proofs

open Sys2Proof.Machine

/-- Settles O28: each transfer is a vote, where it votes, and lanes that leave their clause in two groups. -/
theorem branches : Obligations.Branches := by
  refine ⟨fun o k a n g => ⟨?bra, ?bru, jumpLanes_leaves fun _ => rfl, jumpLanes_leaves fun _ => rfl, ?call⟩,
    fun o g s c w h hi ht hx => ?disagree, fun g s c w h hi => execWord_alone h hi rfl⟩
  case bra =>
    intro s c w h hi _ _
    exact (((Departs.refl s c.r w).noteVote (c.t w g)).moveLanes (c.t w g) _).rest_goOn (c.t_subset w g) rfl
      ((execWord_alone h hi rfl).trans (by rw [Ctx.target_toNat]))
  case bru =>
    intro s c w h hi _ hv
    have hn : (!(c.t w g).isEmpty && !(c.rest (c.t w g)).isEmpty) = false := by
      rw [Ctx.t_eq_x] at hv
      rcases hv with hv | hv <;> simp [hv]
    rw [Ctx.voted_false]
    exact ((Departs.refl s c.r w).moveLanes (c.t w g) _).rest_goOn (c.t_subset w g) rfl
      ((execWord_alone h hi rfl).trans (by simp only [hn, Bool.false_eq_true, if_false, Ctx.target_toNat]))
  case call =>
    intro s c w h hi hf _
    have hg : s.gates c w (fun l => [(l, n.toNat)]) (c.t w g) = (c.t w g, s) := gates_full hf
    have hd := (((Departs.refl s c.r w).modLanes (c.t w g) (fun x => x.writeV n.toNat c.next)).noteVote (c.t w g)).moveLanes (c.t w g)
      (c.hdr + BitVec.ofInt 32 k.toInt)
    refine (hd.congr (k := fun l x => if l ∈ c.t w g then (x.writeV n.toNat c.next).goTo (c.hdr + BitVec.ofInt 32 k.toInt) else x)
      fun l x _ => ?_).rest_goOn (c.t_subset w g) rfl ((execWord_alone h hi rfl).trans (by simp only [hg, Ctx.target_toNat]))
    by_cases hl : l ∈ c.t w g <;> simp only [hl, if_true, if_false]
  case disagree =>
    refine (execWord_alone h hi rfl).trans (congrArg _ (if_pos ?_))
    rw [Ne, Ctx.t_eq_x] at hx
    simp [ht, hx]

end Sys2Proof.Proofs
end

section
/-! SUPPORT. Masks of a wave (R108, R121, R122), the lanes they hold (R119, R120), and the instructions that end a clause without a transfer
(R118, R124). -/

namespace Sys2Proof.Machine

theorem testBit_foldl_bits (l : List Nat) (m j : Nat) : (l.foldl (fun m i => m ||| 2 ^ i) m).testBit j = (m.testBit j || decide (j ∈ l)) := by
  induction l generalizing m with
  | nil => simp
  | cons i l ih => simp [ih, Nat.testBit_two_pow, Bool.or_assoc, eq_comm (a := i)]

/-- The bits of a mask are its lanes. -/
@[simp] theorem testBit_maskOf (l : List Nat) (j : Nat) : (maskOf l).testBit j = decide (j ∈ l) := by
  simp [maskOf, testBit_foldl_bits]

/-- A mask written reads back, where the wave has it, and the others are as before. -/
theorem Wave.mask_setAt (w : Wave) (n m x : Nat) :
    ({ w with k := setAt w.k n x } : Wave).mask m = if n = m ∧ m < w.k.length then x else w.mask m :=
  getD_setAt ..

/-- What `kop` combines, lane by lane (R122). -/
theorem testBit_maskOp (o : BitVec 2) (x y l : Nat) : (maskOp o.toNat x y).testBit l =
    if o = 0 then x.testBit l && y.testBit l else if o = 1 then x.testBit l || y.testBit l
    else if o = 2 then x.testBit l && !y.testBit l else y.testBit l := by
  have ho : o = 0 ∨ o = 1 ∨ o = 2 ∨ o = 3 := by revert o; decide
  rcases ho with rfl | rfl | rfl | rfl
  · exact Nat.testBit_and ..
  · exact Nat.testBit_or ..
  · refine (Nat.testBit_and ..).trans ?_
    rw [Nat.testBit_xor]
    cases x.testBit l <;> cases y.testBit l <;> rfl
  · rfl

/-- An instruction that writes one mask when T is not empty changes that mask alone. -/
theorem writesMask {i : Instr} {s : State} {c : Ctx} {w : Wave} {ts : List Nat} {n : Nat} {x : Wave → Nat}
    (he : exec i s = .next (if ts.isEmpty then s else s.modWave c.r (fun v => { v with k := setAt v.k n (x v) }))) :
    (ts = [] → exec i s = .next s) ∧
    (ts ≠ [] → ∃ f : Wave → Wave, exec i s = .next (s.modWave c.r f) ∧ f w = { w with k := (f w).k } ∧
      (∀ m, m ≠ n → (f w).mask m = w.mask m) ∧ (n < w.k.length → ∀ l, ((f w).mask n).testBit l = (x w).testBit l)) := by
  refine ⟨fun ht => by rw [he, ht]; rfl, fun ht => ⟨_, by rw [he, if_neg (by simpa using ht)], rfl, fun m hm => ?_, fun hn l => ?_⟩⟩
  · exact (w.mask_setAt n m _).trans (if_neg fun h => hm h.1.symm)
  · exact congrArg (Nat.testBit · l) ((w.mask_setAt n n _).trans (if_pos ⟨rfl, hn⟩))

theorem exec_kset {s : State} {c : Ctx} {w : Wave} (h : Alone s c w) {k g : BitVec 4} (hi : LegalFor (.kset k g) [] [] w) :
    exec (.kset k g) s = .next (if (c.t w g).isEmpty then s
      else s.modWave c.r (fun v => { v with k := setAt v.k k.toNat (maskOf (c.t w g)) })) :=
  execWord_alone h hi rfl

theorem exec_kop {s : State} {c : Ctx} {w : Wave} (h : Alone s c w) {o : BitVec 2} {d e g : BitVec 4} (hi : LegalFor (.kop o d e g) [] [] w) :
    exec (.kop o d e g) s = .next (if (c.t w g).isEmpty then s
      else s.modWave c.r (fun v => { v with k := setAt v.k d.toNat (maskOp o.toNat (v.mask d.toNat) (v.mask e.toNat)) })) :=
  execWord_alone h hi rfl

/-- Lanes of T in a mask wait at the instruction, and the others go on (R119, R120). -/
theorem maskWait_leaves {i : Instr} {k g : BitVec 4} {st : LaneState} (he : ∀ s, exec i s =
    s.execWord i true [] [] (fun _ => true) (fun c w s => s.maskWait c w k g st)) :
    LeavesClause i g [] false (fun _ _ _ => True) (fun c w ts l x =>
      if l ∈ ts ∧ (w.mask k.toNat).testBit l = true then { x with state := st, vpc := c.hdr, slot := c.slot }
      else if l ∈ c.x then x.goTo c.next else x) := by
  intro s c w h hi _ _
  have hs : (c.t w g).filter (fun l => (w.mask k.toNat).testBit l) ⊆ c.x :=
    List.Subset.trans (List.filter_subset_self _) (c.t_subset w g)
  have hd := ((Departs.refl s c.r w).stopLanes ((c.t w g).filter (fun l => (w.mask k.toNat).testBit l)) st).rest_goOn hs rfl
    ((he s).trans (execWord_alone h hi rfl))
  rw [Ctx.voted_false]
  simpa only [List.mem_filter] using hd

end Sys2Proof.Machine

namespace Sys2Proof.Proofs

open Sys2Proof.Machine

/-- Settles O29: the lanes of T leave as exited or trap for the failed request, and a yielding wave's lanes all go on. -/
theorem exitAndYield : Obligations.ExitAndYield := by
  refine fun g => ⟨fun s c w h hi _ hp => ?exit, fun s c w addr h hi hp ht => ?podFailed, fun s c w h hi => ?yield⟩
  case exit =>
    obtain ⟨hh, hp⟩ := hp
    rw [Ctx.voted_false]
    exact ((Departs.refl s c.r w).exitLanes (c.t w g)).rest_goOn (c.t_subset w g) rfl
      ((execWord_alone h hi rfl).trans (by simp only [podErrorTrap_none h hp, hh, Bool.false_eq_true, if_false]))
  case podFailed =>
    refine (execWord_alone h hi rfl).trans ?_
    simp only [podErrorTrap_some h hp ht]
    rfl
  case yield =>
    have hy : ∃ f : Wave → Wave, (if (c.t w g).isEmpty then s else s.modWave c.r (fun v => { v with yielded := true })) = s.modWave c.r f ∧
        f w = { w with yielded := w.yielded || decide (c.t w g ≠ []) } := by
      by_cases ht : c.t w g = []
      · exact ⟨fun v => v, by simp [ht, modWave_id], by simp [ht]⟩
      · exact ⟨_, by rw [if_neg (by simpa using ht)], by simp [ht]⟩
    obtain ⟨f, hf, hw⟩ := hy
    obtain ⟨m, hm, hl⟩ := foldl_moveLane (s.modWave c.r f) c.r (fun _ => c.next) c.x
    refine ⟨fun v => m (f v), (execWord_alone h hi rfl).trans (congrArg _ ?_), hw ▸ hl (f w)⟩
    rw [← modWave_modWave, ← hm, ← hf]
    rfl

/-- Settles O30: the joins are one wait of the lanes that the mask names, and the others write one mask of the wave. -/
theorem masksAndJoins : Obligations.MasksAndJoins := by
  refine fun k d e o g => ⟨maskWait_leaves fun _ => rfl, maskWait_leaves fun _ => rfl, fun s c w h hi => ?kset, fun s c w h hi => ?kop⟩
  case kset => simpa only [testBit_maskOf] using writesMask (w := w) (exec_kset h hi)
  case kop => simpa only [testBit_maskOp] using writesMask (w := w) (exec_kop h hi)

end Sys2Proof.Proofs
end

section
/-! SUPPORT. What the checks of addresses leave unchanged, and `launch` for a wave executing alone: its checks passed one after the other, a
slot reserved, or the lanes of T waiting for one (R125, R209). -/

namespace Sys2Proof.Machine

/-- A state after addresses have been checked: blocks, handlers, launches, virtual functions and memory are as before. -/
structure ChecksKept (s t : State) : Prop where
  blocks : t.blocks = s.blocks
  launches : t.launches = s.launches
  handlers : ∀ k, (t.core k).handlers = (s.core k).handlers
  vf : ∀ p, (t.part p).vf = (s.part p).vf
  mem : t.mem = s.mem

namespace ChecksKept

theorem refl (s : State) : ChecksKept s s := ⟨rfl, rfl, fun _ => rfl, fun _ => rfl, rfl⟩

theorem trans {s t u : State} (h : ChecksKept s t) (k : ChecksKept t u) : ChecksKept s u where
  blocks := k.blocks.trans h.blocks
  launches := k.launches.trans h.launches
  handlers c := (k.handlers c).trans (h.handlers c)
  vf p := (k.vf p).trans (h.vf p)
  mem := k.mem.trans h.mem

theorem foldl {α : Type} {f : State → α → State} (h : ∀ s a, ChecksKept s (f s a)) (l : List α) (s : State) : ChecksKept s (l.foldl f s) := by
  induction l generalizing s with
  | nil => exact refl s
  | cons a l ih => exact (h s a).trans (ih _)

theorem modSlice (s : State) (i : Nat) (f : Slice → Slice) : ChecksKept s (s.modSlice i f) := ⟨rfl, rfl, fun _ => rfl, fun _ => rfl, rfl⟩

/-- A change of a core that leaves its handlers. -/
theorem modCore (s : State) (c : Nat) {f : Core → Core} (hf : ∀ k, (f k).handlers = k.handlers) : ChecksKept s (s.modCore c f) where
  blocks := rfl
  launches := rfl
  handlers k := by rw [core_modCore]; split <;> simp [hf]
  vf _ := rfl
  mem := rfl

/-- A change of a partition that leaves its virtual function. -/
theorem modPart (s : State) (p : Nat) {f : Partition → Partition} (hf : ∀ q, (f q).vf = q.vf) : ChecksKept s (s.modPart p f) where
  blocks := rfl
  launches := rfl
  handlers _ := rfl
  vf q := by rw [State.part_modPart]; split <;> simp [hf]
  mem := rfl

theorem useLine (s : State) (part line : Nat) : ChecksKept s (s.useLine part line) := by
  rw [State.useLine]
  split
  · exact refl s
  · split
    · exact refl s
    · exact modSlice s _ _

theorem setBucket (s : State) (b : Bucket) (p : BucketPoint) : ChecksKept s (s.setBucket b p) := by
  cases p with
  | core c => exact modCore s c fun _ => rfl
  | slice i => exact modSlice s i _
  | port i p => exact ⟨rfl, rfl, fun _ => rfl, fun _ => rfl, rfl⟩

theorem ownRead (s : State) (part pa n : Nat) : ChecksKept s (s.ownRead part pa n) := by
  refine trans (foldl (fun s p => ?_) _ s) (useLine _ part _)
  split
  · exact setBucket s _ p
  · exact refl s

theorem readWalk (s : State) (part space va : Nat) : ChecksKept s (s.readWalk part space va) := by
  simp only [State.readWalk]
  split
  · exact refl s
  · exact foldl (fun s a => ownRead s part a 8) _ s

theorem fillTlb (s : State) (core : Nat) (e : TlbEntry) : ChecksKept s (s.fillTlb core e) := by
  simp only [State.fillTlb]
  split
  · exact modCore s core fun _ => rfl
  · refine trans ?_ (modSlice _ _ _)
    exact modCore s core fun _ => rfl

theorem translate (s : State) (core part space va : Nat) : ChecksKept s (s.translate core part space va).2 := by
  rw [State.translate]
  split
  · exact refl s
  · split
    · exact refl s
    · split
      · exact (readWalk s part space va).trans (fillTlb _ core _)
      · exact readWalk s part space va

/-- An access that passes its checks. -/
theorem checkAccess {s t : State} {core part space va : Nat} {kind : AccessKind} {e : TlbEntry}
    (h : s.checkAccess core part space va kind = (.ok e, t)) : ChecksKept s t := by
  have ht := translate s core part space va
  rw [State.checkAccess] at h
  split at h
  · simp at h
  · next hx =>
    rw [hx] at ht
    simp only at h
    split_ifs at h
    all_goals simp only [Prod.mk.injEq, reduceCtorEq, false_and] at h
    exact h.2 ▸ ht

theorem podCheck (s : State) (part pa kind : Nat) : ChecksKept s (s.podCheck part pa kind).2 := by
  rw [State.podCheck]
  split
  · exact refl s
  · simp only [State.podEntry]
    split
    · exact refl s
    · exact (ownRead s part _ 8).trans (modPart _ part fun _ => rfl)

/-- An access of `launch` that is granted. -/
theorem launchCheck {s t : State} {c : Ctx} {ts : List Nat} {space va : Nat} {kind : AccessKind} {x : Served}
    (h : s.launchCheck c ts space va kind = (some x, t)) : ChecksKept s t := by
  rw [State.launchCheck] at h
  split at h
  · simp at h
  · next e u hu =>
    split at h
    · cases h; exact checkAccess hu
    · refine (checkAccess hu).trans ?_
      generalize hr : (if kind == .read then u.podCheck (u.partOf c.r) (e.pa va) 0 else (false, u)) = r at h
      have hk : ChecksKept u r.2 := by
        rw [← hr]
        split
        · exact podCheck u _ _ _
        · exact refl u
      by_cases hg : r.1 = true
      · simp only [hg, if_true, Prod.mk.injEq] at h
        exact h.2 ▸ hk
      · simp [hg] at h

/-- A ring whose pages are all granted. -/
theorem launchRing {c : Ctx} {ts : List Nat} {space : Nat} {vas : List Nat} {u v : State} (h : u.launchRing c ts space vas = (true, v)) :
    ChecksKept u v := by
  induction vas generalizing u with
  | nil => cases h; exact refl _
  | cons va vas ih =>
    rw [State.launchRing] at h
    split at h
    · simp at h
    · next hc => exact (launchCheck hc).trans (ih h)

variable {s t : State} (h : ChecksKept s t)
include h

theorem block? (uid : Nat) : t.block? uid = s.block? uid := by rw [State.block?, State.block?, h.blocks]

theorem wave? (r : WaveRef) : t.wave? r = s.wave? r := by
  cases r with
  | blk uid j => simp only [State.wave?, h.block?]
  | hdl core q => simp only [State.wave?, h.handlers]

theorem launchOf (r : WaveRef) : t.launchOf r = s.launchOf r := by
  have hl : t.launch? = s.launch? := by funext n; rw [State.launch?, State.launch?, h.launches]
  cases r with
  | blk uid j => simp only [State.launchOf, State.launchKey, h.block?, hl]
  | hdl core q => simp only [State.launchOf, State.launchKey, h.handlers, hl]

theorem partOf (r : WaveRef) : t.partOf r = s.partOf r := by rw [State.partOf, State.partOf, h.launchOf]

theorem stream (part n : Nat) : t.stream part n = s.stream part n := by rw [State.stream, State.stream, h.vf]

end ChecksKept

/-- An access of `launch` to a page at home, or an image in the pod range that the pod map grants. -/
theorem launchCheck_granted {s t u : State} {c : Ctx} {space va : Nat} {kind : AccessKind} {e : TlbEntry}
    (h : s.checkAccess (s.coreOf c.r) (s.partOf c.r) space va kind = (.ok e, t))
    (hp : (isPod (e.pa va) = false ∧ u = t) ∨ (isPod (e.pa va) = true ∧ kind = .read ∧ t.podCheck (t.partOf c.r) (e.pa va) 0 = (true, u)))
    (ts : List Nat) : s.launchCheck c ts space va kind = (some ⟨ts.headD 0, va, e⟩, u) := by
  rcases hp with ⟨hp, rfl⟩ | ⟨hp, rfl, hk⟩
  · simp [State.launchCheck, h, hp]
  · simp [State.launchCheck, h, hp, hk]

/-- The stream's part of `launch` with its checks passed: a slot where the ring has room, a wait where it has none (R125). -/
theorem launchStream_granted {s u2 u3 u4 : State} {c : Ctx} {ts : List Nat} {n q head i : Nat} {t : Stream} {image pair slot : Served}
    (hq : s.partOf c.r = q) (ht : s.stream q n = t) (hpair : s.launchCheck c ts t.space t.pair .write = (some pair, u2))
    (hring : u2.launchRing c ts t.space t.ringPages = (true, u3)) (ho : t.orderOk = true) (he : t.error = false)
    (hh : u3.homeNat q (pair.pa + 8) 8 = head) (hi : (u3.homeNat q pair.pa 8 + t.reserved) % 2 ^ 64 = i)
    (hslot : u3.launchCheck c ts t.space (t.ring + 128 * (i % t.size)) .write = (some slot, u4)) :
    s.launchStream c ts n image = if t.size ≤ (i + 2 ^ 64 - head) % 2 ^ 64 then
      (u4.useLine q (pair.pa / 128)).waitRing c ts pair ((i + 1 + 2 ^ 64 - t.size) % 2 ^ 64) t.space
      else (u4.useLine q (pair.pa / 128)).reserveSlot c n image slot pair i t.space := by
  subst hq ht hh hi
  simp only [State.launchStream, hpair, hring, ho, he, hslot, Bool.not_true, Bool.or_self, Bool.false_eq_true, if_false]

section Unblocked

variable {s : State} {c : Ctx} {w : Wave} {a : BitVec 7} {n : BitVec 6} {g : BitVec 4} (h : Alone s c w) (ht : c.t w g ≠ []) (hm : w.memFree)
  (hi : LegalFor (.launch a n g) [] (aScal a true) w)
include h ht hm hi

/-- `launch` of an image at an address that is not one of a line. -/
theorem exec_launch_misaligned (hv : w.opA64 0 a % 128 ≠ 0) :
    exec (.launch a n g) s = .next (s.takeTraps c.r (c.t w g) c.hdr c.slot 0x0A 0 (w.opA64 0 a)) := by
  refine (execWord_alone h hi rfl).trans ?_
  rw [unlessBlocked_free hm.memBlocked]
  simp [ht, hv, State.trapAt]

/-- `launch` of an image that is reached. -/
theorem exec_launch_image {u : State} {image : Served} (hv : w.opA64 0 a % 128 = 0) (hb : w.opA64 0 a < 2 ^ 57)
    (hc : s.launchCheck c (c.t w g) (s.spaceOf c.r) (w.opA64 0 a) .read = (some image, u)) :
    exec (.launch a n g) s = .next (u.launchStream c (c.t w g) n.toNat image) := by
  refine (execWord_alone h hi rfl).trans ?_
  rw [unlessBlocked_free hm.memBlocked]
  have hg : (w.opA64 0 a % 128 != 0 || decide (2 ^ 57 ≤ w.opA64 0 a)) = false := by simpa [hv] using hb
  simp only [List.isEmpty_iff, ht, if_false, hg, Bool.false_eq_true, hc]

end Unblocked

end Sys2Proof.Machine
end

section
/-! SUPPORT. The two ways `launch` ends once its checks are passed: a slot reserved, or lanes of T waiting for room in the ring (R125). -/

namespace Sys2Proof.Machine

@[simp] theorem State.wave?_dropFromIssues (s : State) (r q : WaveRef) (ls : List Nat) : (s.dropFromIssues r ls).wave? q = s.wave? q := rfl

@[simp] theorem State.useLine_memOps (s : State) (part line : Nat) : (s.useLine part line).memOps = s.memOps := by
  rw [State.useLine]
  split
  · rfl
  · split <;> rfl

@[simp] theorem State.putOp_mem (s : State) (c : Ctx) (mk : Nat → MemOp) (held : Bool) : (s.putOp c mk held).mem = s.mem :=
  State.modWave_mem ..

@[simp] theorem State.putOp_memOps (s : State) (c : Ctx) (mk : Nat → MemOp) (held : Bool) :
    (s.putOp c mk held).memOps = s.memOps ++ [mk s.next] := memOps_modWave ..

/-- The wave of an operation put in flight. -/
theorem State.putOp_wave? {s : State} {c : Ctx} {w : Wave} (hw : s.wave? c.r = some w) (mk : Nat → MemOp) (held : Bool) :
    (s.putOp c mk held).wave? c.r = some { w with
      ocMem := if (mk s.next).counted then w.ocMem + 1 else w.ocMem
      acquires := if (mk s.next).acquire then w.acquires ++ [s.next] else w.acquires
      holds := if held then w.holds ++ [.op s.next] else w.holds } :=
  (State.wave?_modWave _ c.r _).trans (congrArg _ hw)

/-- Lanes that wait for ring space stop in a wait group of the wave, and the group's registration is in flight, uncounted. -/
theorem waitRing_waits {s : State} {c : Ctx} {w : Wave} (hw : s.wave? c.r = some w) (ts : List Nat) (pair : Served) (operand space : Nat) :
    ∃ (op : MemOp) (v : Wave), (s.waitRing c ts pair operand space).wave? c.r = some v ∧ (s.waitRing c ts pair operand space).mem = s.mem ∧
      (s.waitRing c ts pair operand space).memOps = s.memOps ++ [op] ∧ op.kind = .ringWait operand ∧ op.counted = false ∧
      ∀ l, v.lanes[l]? = (w.lanes[l]?).map (fun x =>
        if l ∈ ts then { x with state := .waitMantis op.groupNo, vpc := c.hdr, slot := c.slot } else x) := by
  obtain ⟨f, hf, hl⟩ := (Departs.refl s c.r w).stopLanes ts (.waitMantis w.freeGroup)
  simp only [State.waitRing, hw, hf]
  have h1 : ((s.modWave c.r f).dropFromIssues c.r ([] ++ ts)).wave? c.r = some (f w) := by simp [State.wave?_modWave, hw]
  refine ⟨_, _, State.putOp_wave? ((State.wave?_modWave _ c.r _).trans (congrArg _ h1)) _ false, by simp,
    (State.putOp_memOps ..).trans (congrArg (· ++ _) ((memOps_modWave ..).trans (memOps_modWave ..))), rfl, rfl, hl.lanes⟩

/-- A slot reserved puts the append in flight, counted, as a release of the wave (R125, R126). -/
theorem reserveSlot_inFlight {ins : Instr} {s u : State} {c : Ctx} {n index space : Nat} {image slot pair : Served}
    (he : exec ins s = .next (u.reserveSlot c n image slot pair index space)) : ∃ op : MemOp,
      PutsInFlight ins s (u.modStream (u.partOf c.r) n (fun t => { t with reserved := t.reserved + 1 })) c op [] [] false ∧
        op.kind = .append image.pa slot.pa pair.pa index ∧ op.groupNo = n ∧ op.release = true ∧ op.acquire = false ∧ op.counted = true ∧
        op.wave = c.r := by
  rw [State.reserveSlot] at he
  exact ⟨_, putOp_inFlight he rfl, rfl, rfl, rfl, rfl, rfl, rfl⟩

end Sys2Proof.Machine

namespace Sys2Proof.Proofs

open Sys2Proof.Machine

/-- Settles O43: the checks leave the wave, its partition and the stream as they were, so what follows them is a slot reserved or a wait. -/
theorem launchAppends : Obligations.LaunchAppends := by
  intro a n g s c w h ht hm hi va t
  refine ⟨fun hv => exec_launch_misaligned h ht hm hi hv, ?_⟩
  intro e p r u0 u1 u2 u3 u4 hv hb hread himage hpair hpairHome hring ho he tail head i slot hslot hslotHome
  have hc1 := launchCheck_granted hread (himage.imp id fun ⟨hp, hk⟩ => ⟨hp, rfl, hk⟩) (c.t w g)
  have k1 : ChecksKept s u1 := .launchCheck hc1
  have hc2 := launchCheck_granted hpair (.inl ⟨hpairHome, rfl⟩) (c.t w g)
  have k2 : ChecksKept u1 u2 := .launchCheck hc2
  have k3 : ChecksKept u2 u3 := .launchRing hring
  have hc3 := launchCheck_granted hslot (.inl ⟨hslotHome, rfl⟩) (c.t w g)
  have k4 : ChecksKept u3 u4 := .launchCheck hc3
  have k : ChecksKept s u4 := k1.trans (k2.trans (k3.trans k4))
  have hpart : u1.partOf c.r = u4.partOf c.r := ((k2.trans (k3.trans k4)).partOf c.r).symm
  have hstream : u1.stream (u4.partOf c.r) n.toNat = t := by rw [k.partOf, k1.stream]
  have hx := (exec_launch_image h ht hm hi hv hb hc1).trans (congrArg _ (launchStream_granted (i := i) (head := head) hpart hstream hc2
    hring ho he (by rw [k4.partOf]; rfl) (by rw [k4.partOf]; rfl) hc3))
  have kl : ChecksKept u4 (u4.useLine (u4.partOf c.r) (p.pa t.pair / 128)) := .useLine ..
  refine ⟨fun hroom => ?room, fun hfull => ?full⟩
  case room =>
    obtain ⟨op, hop, hwhat⟩ := reserveSlot_inFlight (hx.trans (congrArg _ (if_neg (Nat.not_le.2 hroom))))
    simp only [Served.pa, kl.partOf] at hop
    obtain ⟨hkind, hno, hrel, hacq, hcount, hwave⟩ := hwhat
    exact ⟨op, hop, hkind, hno, hrel, hacq, hcount, hwave, k.mem⟩
  case full =>
    obtain ⟨op, v, hv, hmem, hops, hkind, hcount, hlanes⟩ := waitRing_waits (((k.trans kl).wave? c.r).trans h.wave) (c.t w g)
      ⟨(c.t w g).headD 0, t.pair, p⟩ ((i + 1 + 2 ^ 64 - t.size) % 2 ^ 64) t.space
    rw [State.useLine_memOps] at hops
    refine ⟨op, _, v, hx.trans (congrArg _ (if_pos hfull)), hv, hmem.trans (k.trans kl).mem, hops, hkind, hcount,
      fun l hl x y hx hy => ?_, fun l hl => ?_⟩
    · rw [hlanes, hx, Option.map_some, if_pos hl] at hy
      exact (Option.some.inj hy).symm
    · rw [hlanes]
      simp [hl]

end Sys2Proof.Proofs
end

section
/-! SUPPORT. The integers that the sub-operations of integer instructions compute (R130, R131, Table 6.2). -/

namespace Sys2Proof.Machine

/-- A word is signed between -2^31 and 2^31 - 1. -/
theorem toInt_range (x : Word) : -2147483648 ≤ x.toInt ∧ x.toInt ≤ 2147483647 :=
  ⟨x.le_toInt, Int.le_of_lt_add_one x.toInt_lt⟩

/-- An integer of the signed range is the signed reading of its word. -/
theorem toInt_word {i : Int} (h : -2147483648 ≤ i ∧ i ≤ 2147483647) : (word i).toInt = i :=
  BitVec.toInt_ofInt_eq_self (by decide) h.1 (Int.lt_add_one_of_le h.2)

/-- An integer of the natural range is the natural reading of its word. -/
theorem toNat_word {n : Nat} (h : n < 2 ^ 32) : (word n).toNat = n := by
  rw [word, BitVec.ofInt_natCast, BitVec.toNat_ofNat, Nat.mod_eq_of_lt h]

theorem toInt_clampWord (i : Int) : (clampWord true i).toInt = max (-2 ^ 31) (min (2 ^ 31 - 1) i) :=
  toInt_word (by omega)

/-- Clamped to the natural range, a negative integer counts as 0. -/
theorem toNat_clampWord (i : Int) : (clampWord false i).toNat = min (2 ^ 32 - 1) i.toNat := by
  have hi : max 0 (min 4294967295 i) = ((min (2 ^ 32 - 1) i.toNat : Nat) : Int) := by omega
  rw [clampWord, if_neg (by decide), hi]
  exact toNat_word (by omega)

/-- The high word of a product of signed words is in the signed range. -/
theorem mul_div_range (x y : Word) :
    -2147483648 ≤ x.toInt * y.toInt / 4294967296 ∧ x.toInt * y.toInt / 4294967296 ≤ 2147483647 := by
  have hx := toInt_range x
  have hy := toInt_range y
  have habs : |x.toInt * y.toInt| ≤ 2147483648 * 2147483648 := by
    rw [abs_mul]
    exact mul_le_mul (abs_le.2 (by omega)) (abs_le.2 (by omega)) (abs_nonneg _) (by decide)
  have := abs_le.1 habs
  omega

/-- The high word of a product of natural words is a natural word. -/
theorem mul_div_lt (x y : Word) : x.toNat * y.toNat / 2 ^ 32 < 2 ^ 32 :=
  Nat.div_lt_of_lt_mul (Nat.mul_lt_mul'' x.isLt y.isLt)

/-- A sum less one of its words is the other, modulo 2^32. -/
theorem toNat_sub_add_mod (x y : Word) : ((x - y).toNat + y.toNat) % 2 ^ 32 = x.toNat := by
  rw [← BitVec.toNat_add, BitVec.sub_add_cancel]

/-- The mean of two words rounded up, signed and natural (Table 6.2). -/
theorem toInt_addSub_mean (x y : Word) : (addSub 6 x y).toInt = (x.toInt + y.toInt + 1) / 2 := by
  have hx := toInt_range x
  have hy := toInt_range y
  exact toInt_word (by simp only [readWord, if_true]; omega)

theorem toNat_addSub_mean (x y : Word) : (addSub 7 x y).toNat = (x.toNat + y.toNat + 1) / 2 := by
  have hx := x.isLt
  have hy := y.isLt
  exact toNat_word (show (x.toNat + y.toNat + 1) / 2 < 2 ^ 32 by omega)

/-- A left or a right shift by 32 or more is a shift too: nothing of the word remains. -/
theorem shiftSub_shl (x : Word) (n : Nat) : shiftSub 0 x n = x <<< n := by
  simp only [shiftSub]
  split
  · next h => exact (BitVec.shiftLeft_eq_zero h).symm
  · rfl

theorem shiftSub_shr (x : Word) (n : Nat) : shiftSub 1 x n = x >>> n := by
  simp only [shiftSub]
  split
  · next h => exact (BitVec.ushiftRight_eq_zero h).symm
  · rfl

/-- A signed word divided by 2^32 or more is its sign. -/
theorem toInt_div_two_pow (x : Word) {n : Nat} (h : 32 ≤ n) : x.toInt / 2 ^ n = if x.msb then -1 else 0 := by
  have hx := toInt_range x
  have hpow : (4294967296 : Int) ≤ 2 ^ n := pow_le_pow_right₀ (a := (2 : Int)) (by decide) h
  rw [BitVec.msb_eq_toInt]
  by_cases hs : x.toInt < 0
  · rw [if_pos (by simpa using hs), Int.ediv_eq_neg_one_of_neg_of_le hs (by omega)]
  · rw [if_neg (by simpa using hs), Int.ediv_eq_zero_of_lt (by omega) (by omega)]

theorem toInt_shiftSub_sar (x : Word) (n : Nat) : (shiftSub 2 x n).toInt = x.toInt / 2 ^ n := by
  simp only [shiftSub]
  split
  · next h => rw [toInt_div_two_pow x h]; cases x.msb <;> decide
  · rw [BitVec.toInt_sshiftRight, Int.shiftRight_eq_div_pow]; norm_cast

/-- A rotation left moves bit k to bit k + n, modulo 32. -/
theorem getLsbD_rotateLeft_add (x : Word) (n : Nat) {k : Nat} (hk : k < 32) :
    (x.rotateLeft (n % 32)).getLsbD ((k + n) % 32) = x.getLsbD k := by
  rw [BitVec.getLsbD_rotateLeft, Nat.mod_mod]
  by_cases h : (k + n) % 32 < n % 32
  · have : 32 - n % 32 + (k + n) % 32 = k := by omega
    simp [h, this]
  · have : (k + n) % 32 - n % 32 = k := by omega
    simp [h, this, Nat.mod_lt]

/-- A rotation right moves bit k + n, modulo 32, to bit k. -/
theorem getLsbD_rotateRight_add (x : Word) (n : Nat) {k : Nat} (hk : k < 32) :
    (x.rotateRight (n % 32)).getLsbD k = x.getLsbD ((k + n) % 32) := by
  rw [BitVec.getLsbD_rotateRight, Nat.mod_mod]
  by_cases h : k < 32 - n % 32
  · have : n % 32 + k = (k + n) % 32 := by omega
    simp [h, this]
  · have : k - (32 - n % 32) = (k + n) % 32 := by omega
    simp [h, this, hk]

end Sys2Proof.Machine

namespace Sys2Proof.Proofs

open Sys2Proof.Machine

/-- Settles O16: an exact integer of a word's range is that word's reading, so only the ranges are to show; a shift by 32 or more and a
rotation by 32 or more are shown to be the shift and the rotation that they say. -/
theorem integerSubOperations : Obligations.IntegerSubOperations := by
  refine ⟨fun x y z => ?sums, fun x n => ?shifts⟩
  case sums =>
    refine ⟨BitVec.toNat_add x y, toNat_sub_add_mod x y, toInt_clampWord _, ?satAdd, toInt_clampWord _, ?satSub, toInt_addSub_mean x y,
      toNat_addSub_mean x y, BitVec.toNat_mul x y, toInt_word (mul_div_range x y), toNat_word (mul_div_lt x y), ?mulAdd⟩
    case satAdd => exact toNat_clampWord _
    case satSub =>
      have hx := x.isLt
      refine (toNat_clampWord _).trans ?_
      simp only [readWord, Bool.false_eq_true, if_false]
      omega
    case mulAdd =>
      rw [show mulSub 3 x y z = x * y + z from rfl, BitVec.toNat_add, BitVec.toNat_mul, Nat.mod_add_mod]
  case shifts =>
    refine ⟨?_, ?_, toInt_shiftSub_sar x n, fun k hk => getLsbD_rotateLeft_add x n hk, fun k hk => getLsbD_rotateRight_add x n hk⟩
    · rw [shiftSub_shl, BitVec.toNat_shiftLeft, Nat.shiftLeft_eq]
    · rw [shiftSub_shr, BitVec.toNat_ushiftRight, Nat.shiftRight_eq_div_pow]

end Sys2Proof.Proofs
end

section
/-! SUPPORT. Predicate logic and random words (R140, R150, R151). -/

namespace Sys2Proof.Machine

/-- A bit of a word, read from its number. -/
theorem bitOf_toNat (x : Word) (i : Nat) : bitOf x.toNat i = x.getLsbD i := by
  rw [← BitVec.testBit_toNat, Nat.testBit_eq_decide_div_mod_eq]
  rfl

end Sys2Proof.Machine

namespace Sys2Proof.Proofs

open Sys2Proof.Machine

/-- Settles O18: `plog` writes one predicate, `rand` one word. -/
theorem predicateLogicAndRandom : Obligations.PredicateLogicAndRandom := by
  refine fun d a b q o g => ⟨?plog, laneInstr_effW _ fun _ => rfl⟩
  case plog =>
    simp only [← bitOf_toNat]
    exact laneInstr_pred (fun w l => (plogResult w l a q o, 0)) fun _ => rfl

end Sys2Proof.Proofs
end

section
/-! SUPPORT. Exchanges between lanes, votes, and one lane by number (R141 to R144, R147). -/

namespace Sys2Proof.Machine

/-- A home-scoped instruction completes all the more when its lanes need fewer registers. -/
theorem CrossInstr.of_subset {i : Instr} {g : BitVec 4} {vr sr : List Nat} {legal : Wave → Prop}
    {needs less : Wave → List Nat → Nat → List (Nat × Nat)} {post : Wave → List Nat → Wave → Prop}
    (h : CrossInstr i g vr sr legal less post) (hs : ∀ w ts l, less w ts l ⊆ needs w ts l) : CrossInstr i g vr sr legal needs post :=
  fun s c w ha hi hl hn => h s c w ha hi hl fun l hlt n hm => hn l hlt n (hs w _ l hm)

/-- A lane of `shfl` depends on its destination, its selector and its partner's source at most. -/
theorem shflNeeds_subset (w : Wave) (d : BitVec 6) (a : BitVec 7) (b : BitVec 6) (src : Nat → Nat) (l : Nat) :
    w.shflNeeds d a b src l ⊆ (l, d.toNat) :: (aVec a false).map (fun r => (l, r)) ++ [(src l, b.toNat)] := by
  rw [Wave.shflNeeds]
  split
  · exact List.Subset.refl _
  · exact List.append_subset.2 ⟨List.subset_append_left _ _, List.nil_subset _⟩

/-- A home-scoped instruction each of whose lanes writes one word. -/
theorem crossInstr_effW {i : Instr} {d : BitVec 6} {g : BitVec 4} {vr sr : List Nat}
    {needs : Wave → List Nat → Nat → List (Nat × Nat)} (f : Wave → Nat → Word)
    (he : ∀ s, exec i s = s.crossOp i g vr sr (fun _ => true) needs (fun w _ go v => v.applyEffs go (fun l => effW d (f w l)))) :
    CrossInstr i g vr sr (fun _ => True) needs (fun w ts v => LanesWritten w v ts (fun l => effW d (f w l))) :=
  crossInstr_of _ he (fun _ _ => rfl) fun w ts _ => applyEffs_written w ts _ (fun _ => by simp [effW]) (fun _ => by simp [effW])

/-- One predicate set in lanes of a wave, as an effect of theirs. -/
theorem modLanes_setPred (w : Wave) (ts : List Nat) (p : Nat) (b : Bool) :
    w.modLanes ts (fun x => x.setPred p b) = w.applyEffs ts (fun _ => { preds := [(p, b)] }) := by
  have hf : ts.foldl (fun fl _ => fl ||| 0) w.fflags = w.fflags := by simp
  rw [Wave.applyEffs, hf]
  rfl

section Vote

variable (w : Wave) (d : BitVec 6) (a : BitVec 7) (t : BitVec 2) (ts : List Nat)

theorem voteEffect_none : w.voteEffect d a t [] = w := rfl

/-- `vote.any` and `vote.all` set one predicate of every lane of T. -/
theorem voteEffect_any :
    w.voteEffect d a 2 ts = w.applyEffs ts (fun _ => { preds := [(d.toNat, decide (∃ l ∈ ts, w.pred l a.toNat = true))] }) := by
  have hany : (!(ts.filter (fun l => w.pred l a.toNat)).isEmpty) = decide (∃ l ∈ ts, w.pred l a.toNat = true) := by
    rw [Bool.eq_iff_iff]
    simp
  rw [← hany, ← modLanes_setPred]
  cases ts with
  | nil => rw [voteEffect_none, modLanes_setPred, Wave.applyEffs_none]
  | cons l ls => rfl

theorem voteEffect_all :
    w.voteEffect d a 3 ts = w.applyEffs ts (fun _ => { preds := [(d.toNat, decide (∀ l ∈ ts, w.pred l a.toNat = true))] }) := by
  have hall : ((ts.filter (fun l => w.pred l a.toNat)).length == ts.length) = decide (∀ l ∈ ts, w.pred l a.toNat = true) := by
    rw [Bool.eq_iff_iff]
    simp [List.length_filter_eq_length_iff]
  rw [← hall, ← modLanes_setPred]
  cases ts with
  | nil => rw [voteEffect_none, modLanes_setPred, Wave.applyEffs_none]
  | cons l ls => rfl

/-- `vote.ballot` and `vote.count` write scalars of the wave, when T is not empty. -/
theorem voteEffect_ballot :
    let m := maskOf (ts.filter (fun l => w.pred l a.toNat))
    w.voteEffect d a 0 ts = { w with s := (w.voteEffect d a 0 ts).s } ∧ ScalarsHave w (w.voteEffect d a 0 ts)
      (if ts = [] then [] else [(d.toNat, BitVec.ofNat 32 m), (d.toNat + 1, BitVec.ofNat 32 (m / 2 ^ 32))]) := by
  cases ts with
  | nil => exact ⟨rfl, .none w⟩
  | cons l ls => exact ⟨rfl, .pair w d.toNat _ _⟩

theorem voteEffect_count :
    w.voteEffect d a 1 ts = { w with s := (w.voteEffect d a 1 ts).s } ∧ ScalarsHave w (w.voteEffect d a 1 ts)
      (if ts = [] then [] else [(d.toNat, BitVec.ofNat 32 (ts.filter (fun l => w.pred l a.toNat)).length)]) := by
  cases ts with
  | nil => exact ⟨rfl, .none w⟩
  | cons l ls => exact ⟨rfl, .one w d.toNat _⟩

/-- The four votes. -/
theorem twoBits_cases : t = 0 ∨ t = 1 ∨ t = 2 ∨ t = 3 := by revert t; decide

end Vote

/-- A wave with one lane, not gone, written and its other lanes as before. -/
theorem modLane_writeV (w : Wave) (n r : Nat) (z : Word) {x y : Lane} (hx : w.lanes[n]? = some x)
    (hy : (w.modLane n (fun l => if l.isGone then l else l.writeV r z)).lanes[n]? = some y) :
    (x.state = .helper ∨ x.state = .exited → y = x) ∧
      (x.state ≠ .helper → x.state ≠ .exited → LaneWritten x y { regs := [(r, z)] }) := by
  simp only [Wave.modLane_lanes, getElem?_modifyAt, hx, Option.map_some, if_true, Option.some.injEq] at hy
  subst hy
  refine ⟨fun hg => if_pos ((Lane.isGone_iff x).2 hg), fun hh he => ?_⟩
  rw [if_neg (by simp [Lane.isGone_iff, hh, he])]
  exact lane_apply x { regs := [(r, z)] } (by simp) (by simp)

end Sys2Proof.Machine

namespace Sys2Proof.Proofs

open Sys2Proof.Machine

/-- Settles O20: an exchange writes one word of each lane of T, a vote scalars of the wave or one predicate of each lane of T, and `lane` one
scalar or one lane. -/
theorem laneExchangesAndVotes : Obligations.LaneExchangesAndVotes := by
  refine ⟨fun d a b m t i g => ⟨?shfl, ?qxch⟩, fun d a t g => ?vote, fun d a n g => ⟨?read, ?write⟩⟩
  case shfl =>
    exact (crossInstr_effW (fun w l => w.reg (shflSource m.toNat w.width l (w.opA l a).toNat) b.toNat) fun _ => rfl).of_subset
      fun w _ l => shflNeeds_subset w d a b (fun l => shflSource m.toNat w.width l (w.opA l a).toNat) l
  case qxch => exact crossInstr_effW _ fun _ => rfl
  case vote =>
    refine crossInstr_of (fun _ ts _ v => v.voteEffect d a t ts) (fun _ => rfl) (fun _ _ => rfl) fun w ts _ => ?_
    rcases twoBits_cases t with rfl | rfl | rfl | rfl
    · exact voteEffect_ballot w d a ts
    · exact voteEffect_count w d a ts
    · exact voteEffect_any w d a ts ▸ applyEffs_written w ts _ (fun _ => by simp) (fun _ => by simp)
    · exact voteEffect_all w d a ts ▸ applyEffs_written w ts _ (fun _ => by simp) (fun _ => by simp)
  case read =>
    refine crossInstr_of (fun w _ go v => if go.isEmpty then v else v.setS d.toNat (w.reg n.toNat a.toNat)) (fun _ => rfl)
      (fun _ h => decide_eq_true h) fun w ts _ => ?_
    cases ts with
    | nil => exact ⟨rfl, .none w⟩
    | cons l ls => exact ⟨rfl, .one w d.toNat _⟩
  case write =>
    refine crossInstr_of
      (fun w _ go v => if go.isEmpty then v else v.modLane n.toNat (fun l => if l.isGone then l else l.writeV d.toNat (w.opA 0 a)))
      (fun _ => rfl) (fun _ h => decide_eq_true h) fun w ts _ => ?_
    cases ts with
    | nil => exact ⟨rfl, rfl, fun _ _ => rfl, fun h => absurd rfl h⟩
    | cons l ls =>
      refine ⟨rfl, length_modifyAt .., fun k hk => ?_, fun _ x y hx hy => modLane_writeV w n.toNat d.toNat _ hx hy⟩
      have hne : ¬ n.toNat = k := fun h => hk.elim (fun h' => h' h.symm) (List.cons_ne_nil _ _)
      exact (getElem?_modifyAt ..).trans (if_neg hne)

end Sys2Proof.Proofs
end

section
/-! SUPPORT. The reduction of lanes over the tree of neighbours (R145, R146). -/

namespace Sys2Proof.Machine

theorem length_rangeFrom (lo n : Nat) : (rangeFrom lo n).length = n := by
  induction n generalizing lo with
  | zero => rfl
  | succ n ih => simp [rangeFrom, ih]

/-- A level of the tree has half as many nodes as the one below it. -/
theorem length_redxLevel (o : Nat) (mode : Rnd) (l : List (Option Nat)) : (redxLevel o mode l).1.length = (l.length + 1) / 2 := by
  induction l using redxLevel.induct o mode with
  | case1 x y t ih | case2 x t ih | case3 y t ih => simp only [redxLevel, List.length_cons, ih]; omega
  | case4 x => simp [redxLevel]
  | case5 => rfl

/-- A level of the tree has a value exactly when the one below it has one. -/
theorem any_isSome_redxLevel (o : Nat) (mode : Rnd) (l : List (Option Nat)) :
    (redxLevel o mode l).1.any Option.isSome = l.any Option.isSome := by
  induction l using redxLevel.induct o mode with
  | case1 x y t ih | case2 x t ih => simp [redxLevel]
  | case3 y t ih => simp [redxLevel, ih]
  | case4 | case5 => simp [redxLevel]

/-- A tree over a power of two of leaves has one root, with a value exactly when a leaf has one. -/
theorem redxTree_root (o : Nat) (mode : Rnd) (n : Nat) (l : List (Option Nat)) (fl : Flags) (hl : l.length = 2 ^ n) :
    ∃ r, (redxTree o mode n l fl).1 = [r] ∧ r.isSome = l.any Option.isSome := by
  induction n generalizing l fl with
  | zero =>
    obtain ⟨r, rfl⟩ := List.length_eq_one_iff.1 hl
    exact ⟨r, rfl, by simp⟩
  | succ n ih =>
    have hlen : (redxLevel o mode l).1.length = 2 ^ n := by rw [length_redxLevel, hl, Nat.pow_succ]; omega
    rw [← any_isSome_redxLevel o mode l]
    exact ih _ _ hlen

/-- The leaves of the tree of `redx`: the values of the lanes of T, absent for the other lanes. -/
def Wave.redxLeaves (w : Wave) (a : BitVec 7) (o : BitVec 4) (ts : List Nat) : List (Option Nat) :=
  (upTo w.width).map (fun l => if l ∈ ts then some (if o.toNat = 11 then w.reg64 l a.toNat else (w.reg l a.toNat).toNat) else none)

/-- The root and the flags of the tree of `redx` over the lanes of T. -/
def Wave.redxRoot (w : Wave) (a : BitVec 7) (o : BitVec 4) (ts : List Nat) : List (Option Nat) × Flags :=
  redxTree o.toNat w.rnd (Nat.log2 w.width) (w.redxLeaves a o ts) flNone

/-- A wave with the result of `redx` written, one word or a pair, and flags raised. -/
def Wave.writeReduced (w : Wave) (d : BitVec 6) (o : BitVec 4) (x : Nat) (fl : Flags) : Wave :=
  let v := if o.toNat = 11 then (w.setS d.toNat (lo32 x)).setS (d.toNat + 1) (hi32 x) else w.setS d.toNat (lo32 x)
  { v with fflags := v.fflags ||| fl }

section Redx

variable {w : Wave} (d : BitVec 6) {a : BitVec 7} {o : BitVec 4} {ts : List Nat}

theorem two_pow_log2_width (hw : w.widthOk) : 2 ^ Nat.log2 w.width = w.width := by
  rcases hw with h | h | h | h <;> rw [h] <;> decide

theorem any_isSome_redxLeaves : (w.redxLeaves a o ts).any Option.isSome = true ↔ ∃ l ∈ ts, l < w.width := by
  simp only [Wave.redxLeaves, List.any_map, List.any_eq_true, mem_upTo, Function.comp_apply]
  refine exists_congr fun l => ?_
  by_cases h : l ∈ ts <;> simp [h]

/-- The tree of `redx` has one root, with a value exactly when T holds a lane of the wave. -/
theorem redxRoot_single (hw : w.widthOk) (a : BitVec 7) (o : BitVec 4) (ts : List Nat) :
    ∃ r, (w.redxRoot a o ts).1 = [r] ∧ (r.isSome = true ↔ ∃ l ∈ ts, l < w.width) := by
  have hlen : (w.redxLeaves a o ts).length = 2 ^ Nat.log2 w.width := by
    rw [two_pow_log2_width hw, Wave.redxLeaves, List.length_map, upTo, length_rangeFrom]
  obtain ⟨r, hr, hs⟩ := redxTree_root o.toNat w.rnd _ (w.redxLeaves a o ts) flNone hlen
  exact ⟨r, hr, by rw [hs, any_isSome_redxLeaves]⟩

/-- What `redx` does to its wave when the tree's root is absent, and when it has a value. -/
theorem redxEffect_none (d : BitVec 6) (v : Wave) (hr : (w.redxRoot a o ts).1 = [none]) : w.redxEffect d a o ts v = v := by
  simp only [Wave.redxRoot, Wave.redxLeaves, Wave.rnd] at hr
  simp only [Wave.redxEffect, List.contains_iff_mem, hr]
  rfl

theorem redxEffect_some (d : BitVec 6) (v : Wave) {x : Nat} (hr : (w.redxRoot a o ts).1 = [some x]) :
    w.redxEffect d a o ts v = v.writeReduced d o x (w.redxRoot a o ts).2 := by
  simp only [Wave.redxRoot, Wave.redxLeaves, Wave.rnd] at hr
  simp only [Wave.redxEffect, Wave.redxRoot, Wave.redxLeaves, Wave.rnd, List.contains_iff_mem, hr]
  rfl

theorem writeReduced_rest (w : Wave) (x : Nat) (fl : Flags) :
    let v := w.writeReduced d o x fl
    v = { w with s := v.s, fflags := v.fflags } ∧ v.fflags = w.fflags ||| fl := by
  by_cases ho : o.toNat = 11 <;> simp only [Wave.writeReduced, ho, if_true, if_false] <;> exact ⟨rfl, rfl⟩

/-- Scalars written are seen in the scalars alone. -/
theorem ScalarsHave.of_s_eq {w u v : Wave} {ws : List (Nat × Word)} (h : ScalarsHave w u ws) (hs : v.s = u.s) : ScalarsHave w v ws := by
  obtain ⟨hsize, hwritten, hkept⟩ := h
  simp only [Wave.sreg, ← hs] at hsize hwritten hkept
  exact ⟨hsize, hwritten, hkept⟩

theorem writeReduced_scalars (w : Wave) (x : Nat) (fl : Flags) :
    ScalarsHave w (w.writeReduced d o x fl) (if o.toNat = 11 then [(d.toNat, BitVec.ofNat 32 x), (d.toNat + 1, BitVec.ofNat 32 (x / 2 ^ 32))]
      else [(d.toNat, BitVec.ofNat 32 x)]) := by
  by_cases ho : o.toNat = 11 <;> simp only [Wave.writeReduced, ho, if_true, if_false]
  · exact (ScalarsHave.pair w d.toNat _ _).of_s_eq rfl
  · exact (ScalarsHave.one w d.toNat _).of_s_eq rfl

end Redx

end Sys2Proof.Machine

namespace Sys2Proof.Proofs

open Sys2Proof.Machine

/-- Settles O21: the tree over a wave's lanes has one root, whose value, where it has one, is what the instruction writes. -/
theorem crossLaneReduction : Obligations.CrossLaneReduction := by
  intro d a o g
  refine crossInstr_of (fun w ts go v => if go.isEmpty then v else w.redxEffect d a o ts v) (fun _ => rfl) (fun _ _ => rfl)
    fun w ts hw => ?_
  obtain ⟨r, hr, hsome⟩ := redxRoot_single hw a o ts
  cases r with
  | none =>
    have hnone : ¬ ∃ l ∈ ts, l < w.width := fun h => Bool.false_ne_true (hsome.2 h)
    rw [redxEffect_none d w hr, ite_self]
    exact ⟨rfl, fun _ => rfl, fun h => absurd h hnone⟩
  | some x =>
    obtain ⟨l, hl, hlt⟩ := hsome.1 rfl
    obtain ⟨hrest, hflags⟩ := writeReduced_rest d w x (w.redxRoot a o ts).2 (o := o)
    have hne : ¬ ts.isEmpty = true := by simpa using List.ne_nil_of_mem hl
    rw [if_neg hne, redxEffect_some d w hr]
    exact ⟨hrest, fun h => absurd (h l hl) (Nat.not_le.2 hlt), fun _ => ⟨x, hr, fun k => by rw [hflags, BitVec.getLsbD_or]; rfl,
      writeReduced_scalars d w x _⟩⟩

end Sys2Proof.Proofs
end

section
/-! SUPPORT. Conversions between number formats (R188 to R192). -/

namespace Sys2Proof.Proofs

open Sys2Proof.Machine

/-- Settles O14: each conversion writes one word, or one pair where `cvtd` has a 64-bit result. -/
theorem conversions : Obligations.Conversions := by
  refine fun d a t r i o s h v n q g => ⟨?cvtf, laneInstr_eff32 _ fun _ => rfl, ?cvti, ?cvtd⟩
  case cvtf => exact laneInstr_eff32 _ fun _ => by simp only [apply_ite (eff32 d)]; rfl
  case cvti => exact laneInstr_eff32 _ fun _ => by simp only [apply_ite (eff32 d)]; rfl
  case cvtd => exact laneInstr_of _ (fun _ => rfl) fun _ _ => by dsimp only; split <;> simp [eff32, eff64]

end Sys2Proof.Proofs
end

section
/-! SUPPORT. Slots of scale rails written one after the other: each holds the code it was given, and no other slot differs (R174). -/

namespace Sys2Proof.Machine

/-- A wave with slots of its rails written, each given as register, octet, slot and code. -/
def Wave.setRailSlots (w : Wave) (ws : List (Nat × Nat × Nat × Nat)) : Wave :=
  ws.foldl (fun w x => w.setRailSlot x.1 x.2.1 x.2.2.1 x.2.2.2) w

theorem setRailSlots_cons (w : Wave) (n o t c : Nat) (ws : List (Nat × Nat × Nat × Nat)) :
    w.setRailSlots ((n, o, t, c) :: ws) = (w.setRailSlot n o t c).setRailSlots ws := rfl

theorem setRailSlots_rest (w : Wave) (ws : List (Nat × Nat × Nat × Nat)) :
    w.setRailSlots ws = { w with rails := (w.setRailSlots ws).rails } ∧ (w.setRailSlots ws).rails.length = w.rails.length := by
  induction ws generalizing w with
  | nil => exact ⟨rfl, rfl⟩
  | cons x ws ih =>
    obtain ⟨hrest, hsize⟩ := ih (w.setRailSlot x.1 x.2.1 x.2.2.1 x.2.2.2)
    exact ⟨hrest, hsize.trans (by simp)⟩

/-- Octets of a wave's rails, all within its width. -/
def Wave.octetsOk (w : Wave) (ws : List (Nat × Nat × Nat × Nat)) : Prop := ∀ x ∈ ws, x.2.1 < w.width / 8

theorem railSlot_setRailSlots_kept {w : Wave} {ws : List (Nat × Nat × Nat × Nat)} (hin : w.octetsOk ws) {n o t : Nat}
    (ho : o < w.width / 8) (hno : ∀ c, (n, o, t, c) ∉ ws) : (w.setRailSlots ws).railSlot n o t = w.railSlot n o t := by
  induction ws generalizing w with
  | nil => rfl
  | cons x ws ih =>
    obtain ⟨m, p, u, e⟩ := x
    have hp : p < w.width / 8 := (List.forall_mem_cons.1 hin).1
    have hin : (w.setRailSlot m p u e).octetsOk ws := (List.forall_mem_cons.1 hin).2
    have hne : ¬ (m * (w.width / 8) + p = n * (w.width / 8) + o ∧ u = t ∧ m * (w.width / 8) + p < w.rails.length) := by
      rintro ⟨hidx, rfl, -⟩
      obtain ⟨rfl, rfl⟩ := octet_index hp ho hidx
      exact hno e (by simp)
    rw [setRailSlots_cons, ih hin ho fun c hc => hno c (by simp [hc]), railSlot_setRailSlot, if_neg hne]

/-- Slots written with one code each hold their codes. -/
theorem railsHave_setRailSlots {w : Wave} {ws : List (Nat × Nat × Nat × Nat)} (hin : w.octetsOk ws)
    (hone : ∀ n o t c e, (n, o, t, c) ∈ ws → (n, o, t, e) ∈ ws → c = e) : RailsHave w (w.setRailSlots ws) ws := by
  refine ⟨(setRailSlots_rest w ws).2, ?written, fun n o t ho _ => railSlot_setRailSlots_kept hin ho⟩
  case written =>
    intro n o t c hmem ho hidx
    induction ws generalizing w with
    | nil => cases hmem
    | cons x ws ih =>
      obtain ⟨m, p, u, e⟩ := x
      have hin : (w.setRailSlot m p u e).octetsOk ws := (List.forall_mem_cons.1 hin).2
      rw [setRailSlots_cons]
      by_cases hlater : ∃ f, (n, o, t, f) ∈ ws
      · obtain ⟨f, hf⟩ := hlater
        obtain rfl := hone n o t c f hmem (by simp [hf])
        exact ih hin (fun n o t c e hc he => hone n o t c e (by simp [hc]) (by simp [he])) hf ho (by simpa using hidx)
      · have hno : ∀ f, (n, o, t, f) ∉ ws := not_exists.1 hlater
        obtain ⟨rfl, rfl, rfl, rfl⟩ : n = m ∧ o = p ∧ t = u ∧ c = e := by simpa [hno c] using hmem
        rw [railSlot_setRailSlots_kept hin ho hno, railSlot_setRailSlot, if_pos ⟨rfl, rfl, hidx⟩]

/-- Rails written are seen in the rails alone. -/
theorem RailsHave.of_rails_eq {w u v : Wave} {ws : List (Nat × Nat × Nat × Nat)} (h : RailsHave w u ws) (hw : v.width = u.width)
    (hr : v.rails = u.rails) : RailsHave w v ws := by
  obtain ⟨hsize, hwritten, hkept⟩ := h
  simp only [Wave.railSlot, Wave.rail, ← hr, ← hw] at hsize hwritten hkept
  exact ⟨hsize, hwritten, hkept⟩

end Sys2Proof.Machine
end

section
/-! SUPPORT. Scale codes of blocks: a slot belongs to one block, so the blocks of T, each with its own code, write every slot with one code
(R174, R175, R194). -/

namespace Sys2Proof.Machine

theorem setBlockScale_eq (w : Wave) (four : Bool) (kc r l code : Nat) :
    w.setBlockScale four kc r l code = w.setRailSlots (blockWrites four kc r l code) := by
  simp [Wave.setBlockScale, Wave.setRailSlots, blockWrites, List.foldl_append, List.foldl_map]

theorem foldl_setBlockScale_eq (w : Wave) (four : Bool) (kc r : Nat) (code : Nat → Nat) (ts : List Nat) :
    ts.foldl (fun v x => v.setBlockScale four kc r x (code x)) w =
      w.setRailSlots (ts.flatMap (fun x => blockWrites four kc r x (code x))) := by
  simp only [setBlockScale_eq, Wave.setRailSlots, List.foldl_flatMap]

theorem blockLanes_eq (four : Bool) (kc : Nat) : blockLanes four kc = 2 ^ ((if four then 2 else 3) + kc) := by
  cases four <;> simp [blockLanes, Nat.pow_add]

theorem blockLanes_dvd_width {w : Wave} {four : Bool} {kc : Nat} (hw : w.widthOk) (hn : blockLanes four kc ≤ w.width) :
    blockLanes four kc ∣ w.width := by
  rw [blockLanes_eq, ← two_pow_log2_width hw] at *
  exact Nat.pow_dvd_pow 2 ((Nat.pow_le_pow_iff_right (by decide)).1 hn)

/-- A lane of the block whose scale a slot holds: the octet's first, or, for slot 1 of the blocks of four lanes, its fifth (Table 7.6). -/
def slotLane (four : Bool) (kc o t : Nat) : Nat := 8 * o + if four = true ∧ kc = 0 then 4 * t else 0

/-- The octets of the block that holds lane l. -/
def blockOctets (four : Bool) (kc l : Nat) : List Nat :=
  rangeFrom (l / blockLanes four kc * blockLanes four kc / 8) (max 1 (blockLanes four kc / 8))

/-- The octets of a block that fills whole octets hold lanes of that block. -/
theorem of_mem_blockOctets {four : Bool} {kc l j o : Nat} (hn : blockLanes four kc = 8 * 2 ^ j) (h : o ∈ blockOctets four kc l) :
    8 * o / blockLanes four kc = l / blockLanes four kc := by
  have hpos : 0 < 2 ^ j := Nat.two_pow_pos j
  rw [blockOctets, mem_rangeFrom, hn] at h
  rw [hn]
  generalize l / (8 * 2 ^ j) = q at *
  have hq : q * (8 * 2 ^ j) / 8 = q * 2 ^ j := by rw [Nat.mul_left_comm, Nat.mul_div_cancel_left _ (by decide)]
  rw [hq, Nat.mul_div_cancel_left _ (by decide), Nat.max_eq_right hpos, ← Nat.succ_mul] at h
  rw [Nat.mul_div_mul_left _ _ (by decide)]
  exact Nat.div_eq_of_lt_le h.1 h.2

section BlockSlots

variable (l : Nat)

/-- The slots of a block in its three layouts: of 8-bit and 6-bit elements, of E2M1 with k = 32, and of E2M1 with a larger k (R175). -/
theorem blockSlots_bytes (kc : Nat) :
    blockSlots false kc l = ((blockOctets false kc l).map (fun o => (o, 0)), (blockOctets false kc l).map (fun o => (o, 1))) := rfl

theorem blockSlots_halfOctet : blockSlots true 0 l = ([leadSlot true 0 l], []) := rfl

theorem blockSlots_octets (j : Nat) :
    blockSlots true (j + 1) l = ((blockOctets true (j + 1) l).flatMap (fun o => [(o, 0), (o, 1)]), []) := rfl

end BlockSlots

/-- The slots that writing a block's code fills: each belongs to that block, and its code follows from its slot. -/
theorem of_mem_blockWrites {four : Bool} {kc r l code n o t c : Nat} (h : (n, o, t, c) ∈ blockWrites four kc r l code) :
    slotLane four kc o t / blockLanes four kc = l / blockLanes four kc ∧ c = if four = true ∨ t = 0 then code else 0 := by
  cases four with
  | false =>
    have hn : blockLanes false kc = 8 * 2 ^ kc := rfl
    simp only [blockWrites, blockSlots_bytes, List.map_map, List.mem_append, List.mem_map] at h
    obtain ⟨p, hp, he⟩ | ⟨p, hp, he⟩ := h <;> cases he <;> exact ⟨of_mem_blockOctets hn hp, rfl⟩
  | true =>
    cases kc with
    | zero =>
      simp only [blockWrites, blockSlots_halfOctet, leadSlot, List.map_cons, List.map_nil, List.append_nil, List.mem_singleton] at h
      cases h
      refine ⟨?_, rfl⟩
      simp only [slotLane, blockLanes, ↓reduceIte, pow_zero, mul_one, and_self, BEq.rfl, Bool.and_self, Bool.true_and, beq_iff_eq, mul_ite,
        mul_zero]
      split <;> omega
    | succ j =>
      have hn : blockLanes true (j + 1) = 8 * 2 ^ j := by rw [blockLanes, if_pos rfl, Nat.pow_succ']; omega
      simp only [blockWrites, blockSlots_octets, List.map_nil, List.append_nil, List.mem_map, List.mem_flatMap] at h
      obtain ⟨x, ⟨p, hp, hx⟩, he⟩ := h
      cases he
      obtain rfl : x.1 = p := by obtain rfl | rfl := List.mem_pair.1 hx <;> rfl
      exact ⟨of_mem_blockOctets hn hp, rfl⟩

/-- The lane that supplies a block's value is the same for each lane of the block in T. -/
theorem supplier_congr {ts : List Nat} {n l m : Nat} (hl : l ∈ ts) (hb : l / n = m / n) : supplier ts n l = supplier ts n m := by
  have hg : groupOfLane ts n l = groupOfLane ts n m := by rw [groupOfLane, groupOfLane, hb]
  have hmem : l ∈ groupOfLane ts n l := List.mem_filter.2 ⟨hl, by simp⟩
  rw [supplier, supplier, ← hg]
  cases hs : groupOfLane ts n l with
  | nil => rw [hs] at hmem; cases hmem
  | cons k ks => rfl

section Blocks

variable {w : Wave} {four : Bool} {kc : Nat} {ts : List Nat} (r : Nat) (code : Nat → Nat)

/-- Blocks within a wave have their scales in octets of the wave. -/
theorem octetsOk_blockWrites (hd : blockLanes four kc ∣ w.width) (h8 : 8 ∣ w.width) (hts : ∀ l ∈ ts, l < w.width) :
    w.octetsOk (ts.flatMap (fun x => blockWrites four kc r x (code x))) := by
  rintro ⟨n, o, t, c⟩ hmem
  obtain ⟨l, hl, hb⟩ := List.mem_flatMap.1 hmem
  obtain ⟨hblock, -⟩ := of_mem_blockWrites hb
  have hlt : slotLane four kc o t < w.width := by
    by_contra hge
    have hle := Nat.div_le_div_right (c := blockLanes four kc) (Nat.not_lt.1 hge)
    have := Nat.div_lt_div_of_lt_of_dvd hd (hts l hl)
    omega
  have : 8 * o ≤ slotLane four kc o t := Nat.le_add_right ..
  show o < w.width / 8
  omega

/-- Blocks whose lanes of T agree on their code write each slot with one code. -/
theorem blockWrites_unique (hcode : ∀ l ∈ ts, ∀ m ∈ ts, l / blockLanes four kc = m / blockLanes four kc → code l = code m)
    (n o t c e : Nat) (hc : (n, o, t, c) ∈ ts.flatMap (fun x => blockWrites four kc r x (code x)))
    (he : (n, o, t, e) ∈ ts.flatMap (fun x => blockWrites four kc r x (code x))) : c = e := by
  obtain ⟨l, hl, hlb⟩ := List.mem_flatMap.1 hc
  obtain ⟨m, hm, hmb⟩ := List.mem_flatMap.1 he
  obtain ⟨hlblock, rfl⟩ := of_mem_blockWrites hlb
  obtain ⟨hmblock, rfl⟩ := of_mem_blockWrites hmb
  rw [hcode l hl m hm (hlblock.symm.trans hmblock)]

/-- Scale codes written for the blocks of T, one code for each block (R175). -/
theorem railsHave_blockWrites (hw : w.widthOk) (hn : blockLanes four kc ≤ w.width) (hts : ∀ l ∈ ts, l < w.width)
    (hcode : ∀ l ∈ ts, ∀ m ∈ ts, l / blockLanes four kc = m / blockLanes four kc → code l = code m) :
    RailsHave w (ts.foldl (fun v x => v.setBlockScale four kc r x (code x)) w)
      (ts.flatMap (fun x => blockWrites four kc r x (code x))) := by
  have h8 : 8 ∣ w.width := by rcases hw with h | h | h | h <;> rw [h] <;> decide
  rw [foldl_setBlockScale_eq]
  exact railsHave_setRailSlots (octetsOk_blockWrites r code (blockLanes_dvd_width hw hn) h8 hts) (blockWrites_unique r code hcode)

end Blocks

end Sys2Proof.Machine
end

section
/-! SUPPORT. `bamax` and `bscale`: words of lanes, and slots of rails beside them (R195, R196). -/

namespace Sys2Proof.Machine

/-- A home-scoped instruction each of whose lanes writes one word with flags. -/
theorem crossInstr_eff32 {i : Instr} {d : BitVec 6} {g : BitVec 4} {vr sr : List Nat} {legal : Wave → Bool} {legal' : Wave → Prop}
    {needs : Wave → List Nat → Nat → List (Nat × Nat)} (f : Wave → List Nat → Nat → Nat × Flags)
    (he : ∀ s, exec i s = s.crossOp i g vr sr legal needs (fun w ts go v => v.applyEffs go (fun l => eff32 d (f w ts l))))
    (hl : ∀ w, legal' w → legal w = true) :
    CrossInstr i g vr sr legal' needs (fun w ts v => LanesWritten w v ts (fun l => eff32 d (f w ts l))) :=
  crossInstr_of _ he hl fun w ts _ => applyEffs_written w ts _ (fun _ => by simp [eff32]) (fun _ => by simp [eff32])

/-- Effects that raise no flag, on a wave with other rails, leave all of it but the lanes and the rails. -/
theorem applyEffs_otherRails {w u : Wave} (hu : u = { w with rails := u.rails }) (ts : List Nat) {f : Nat → LaneEff}
    (hf : ∀ l, (f l).flags = flNone) :
    let v := u.applyEffs ts f
    v = { w with lanes := v.lanes, rails := v.rails } := by
  have hflags : ts.foldl (fun fl l => fl ||| (f l).flags) w.fflags = w.fflags := by simp [hf, flNone]
  rw [hu]
  simp only [Wave.applyEffs, hflags]

/-- Lanes written are seen in the lanes alone. -/
theorem LanesHave.of_lanes_eq {w u v : Wave} {ts : List Nat} {f : Nat → LaneEff} (h : LanesHave u v ts f) (hu : u.lanes = w.lanes) :
    LanesHave w v ts f := by
  obtain ⟨hsize, hinside, houtside⟩ := h
  simp only [hu] at hsize hinside houtside
  exact ⟨hsize, hinside, houtside⟩

/-- What `bscale` chooses for the block of lane x: its scale code and factor. -/
def Wave.scaleChoice (w : Wave) (a : BitVec 7) (f : BitVec 3) (k : BitVec 2) (e : BitVec 1) (ts : List Nat) (x : Nat) : Nat × Nat :=
  chooseScale (blockFmt f.toNat) (e == 1) (decodeFmt fp32 (w.opA (supplier ts (blockLanes (f.toNat == 4) k.toNat) x) a).toNat)

/-- The wave with the scale codes that `bscale` chooses written to the rails of v d. -/
def Wave.writeScales (v : Wave) (d : BitVec 6) (f : BitVec 3) (k : BitVec 2) (ts : List Nat) (code : Nat → Nat) : Wave :=
  ts.foldl (fun v x => v.setBlockScale (f.toNat == 4) k.toNat d.toNat x (code x)) v

theorem writeScales_rest (v : Wave) (d : BitVec 6) (f : BitVec 3) (k : BitVec 2) (ts : List Nat) (code : Nat → Nat) :
    v.writeScales d f k ts code = { v with rails := (v.writeScales d f k ts code).rails } := by
  rw [Wave.writeScales, foldl_setBlockScale_eq]
  exact (setRailSlots_rest v _).1

end Sys2Proof.Machine

namespace Sys2Proof.Proofs

open Sys2Proof.Machine

/-- Settles O22: `bamax` writes one word of each lane of T; `bscale` does so beside its blocks' slots, whose codes the lanes of a block agree
on, since one lane supplies them all. -/
theorem blockMagnitudeAndScale : Obligations.BlockMagnitudeAndScale := by
  refine fun d a k i f e fm g => ⟨crossInstr_eff32 _ (fun _ => rfl) fun _ h => decide_eq_true h, ?bscale⟩
  case bscale =>
    refine crossInstr_of (fun w ts go v => (v.writeScales d fm k go fun x => (w.scaleChoice a fm k e ts x).1).applyEffs go
      fun x => eff32 d ((w.scaleChoice a fm k e ts x).2, flNone)) (fun _ => rfl) (fun _ h => decide_eq_true h.2) fun w ts ⟨hw, hn⟩ => ?_
    have hrest := writeScales_rest w d fm k ts fun x => (w.scaleChoice a fm k e ts x).1
    have hlanes := congrArg Wave.lanes hrest
    have hcode : ∀ l ∈ ts, ∀ m ∈ ts, l / blockLanes (fm.toNat == 4) k.toNat = m / blockLanes (fm.toNat == 4) k.toNat →
        (w.scaleChoice a fm k e ts l).1 = (w.scaleChoice a fm k e ts m).1 := fun l hl m _ hb => by
      rw [Wave.scaleChoice, Wave.scaleChoice, supplier_congr hl hb]
    exact ⟨applyEffs_otherRails hrest ts fun _ => rfl,
      (applyEffs_written _ ts _ (fun _ => by simp [eff32]) fun _ => by simp [eff32]).lanes.of_lanes_eq hlanes,
      fun hts => (railsHave_blockWrites d.toNat _ hw hn hts hcode).of_rails_eq rfl rfl⟩

end Sys2Proof.Proofs
end

section
/-! SUPPORT. `mxpk` and `mxup`: elements packed into a byte of a word, and unpacked under the scale of their block (R197, R198). -/

namespace Sys2Proof.Machine

/-- The effects of lanes that each write one word with flags. -/
theorem applyEffs_eff32_written (w : Wave) (d : BitVec 6) (ts : List Nat) (f : Nat → Nat × Flags) :
    LanesWritten w (w.applyEffs ts fun l => eff32 d (f l)) ts fun l => eff32 d (f l) :=
  applyEffs_written w ts _ (fun _ => by simp [eff32]) fun _ => by simp [eff32]

/-- A vector instruction whose lanes each pass a gate for their own needs is a `CrossInstr`, home-scoped or not. -/
theorem crossInstr_of_execWord {i : Instr} {g : BitVec 4} {home : Bool} {vr sr : List Nat} {legal : Wave → Bool} {legal' : Wave → Prop}
    {needs : Wave → List Nat → Nat → List (Nat × Nat)} (f : Wave → List Nat → Wave → Wave) {post : Wave → List Nat → Wave → Prop}
    (he : ∀ s, exec i s = s.execWord i home vr sr legal (fun c w s =>
      let r := s.gates c w (needs w (c.t w g)) (c.t w g)
      r.2.modWave c.r (f w r.1)))
    (hl : ∀ w, legal' w → legal w = true) (hp : ∀ w ts, legal' w → post w ts (f w ts w)) : CrossInstr i g vr sr legal' needs post := by
  intro s c w ha hi hlw hn
  refine ⟨f w (c.t w g), ?_, hp w _ hlw⟩
  rw [he, execWord_alone ha hi (hl w hlw)]
  simp only [gates_go fun l hlt => gate_go (hn l hlt)]

end Sys2Proof.Machine

namespace Sys2Proof.Proofs

open Sys2Proof.Machine

/-- Settles O23: each of the two writes one word of each lane of T; `mxup` is not home-scoped, but reads the rail of another lane's octet. -/
theorem packAndUnpack : Obligations.PackAndUnpack := by
  refine fun d a f j r k i o q g => ⟨?mxpk, ?mxup⟩
  case mxpk =>
    refine laneInstr_eff32 _ fun s => (rfl : _ = execMxpk d a f j r i o g s).trans ?_
    simp only [execMxpk, bitsOf_low]
    rfl
  case mxup =>
    exact crossInstr_of_execWord (fun w go v => v.applyEffs go fun l => eff32 d (unpackElement (blockFmt f.toNat) (i == 1)
        (w.blockScale (f.toNat == 4) k.toNat a.toNat l) (slotCode (blockFmt f.toNat) (w.opA l a).toNat q.toNat)))
      (fun _ => rfl) (fun _ h => decide_eq_true h)
      fun w ts _ => applyEffs_eff32_written w d ts _

end Sys2Proof.Proofs
end

section
/-! SUPPORT. `rail`: codes read into lanes, and slots of blocks or of whole octets written (R193, R199). -/

namespace Sys2Proof.Machine

theorem eight_dvd_width {w : Wave} (hw : w.widthOk) : 8 ∣ w.width := by rcases hw with h | h | h | h <;> rw [h] <;> decide

/-- Both slots of the octet of lane l, with codes that octet and slot give. -/
def octetWrites (r : Nat) (code : Nat → Nat → Nat) (l : Nat) : List (Nat × Nat × Nat × Nat) :=
  [(r, l / 8, 0, code (l / 8) 0), (r, l / 8, 1, code (l / 8) 1)]

theorem mem_octetWrites {r : Nat} {code : Nat → Nat → Nat} {l n o t c : Nat} (h : (n, o, t, c) ∈ octetWrites r code l) :
    o = l / 8 ∧ c = code o t := by
  obtain h | h := List.mem_pair.1 h <;> cases h <;> exact ⟨rfl, rfl⟩

theorem setRailSlots_octetWrites (w : Wave) (r : Nat) (code : Nat → Nat → Nat) (ts : List Nat) :
    w.setRailSlots (ts.flatMap (octetWrites r code)) = ts.foldl (fun v l =>
      (v.setRailSlot r (l / 8) 0 (code (l / 8) 0)).setRailSlot r (l / 8) 1 (code (l / 8) 1)) w := by
  rw [Wave.setRailSlots, List.foldl_flatMap]
  rfl

/-- A wave after slots of its rails were written for the lanes of T: nothing but the rails differs, and there only those slots. -/
def RailsWritten (w v : Wave) (ts : List Nat) (ws : List (Nat × Nat × Nat × Nat)) : Prop :=
  v = { w with rails := v.rails } ∧ ((∀ l ∈ ts, l < w.width) → RailsHave w v ws)

section Rails

variable {w : Wave} {ts : List Nat} (r : Nat)

/-- Whole octets written, each slot with the code of its place (R199). -/
theorem railsWritten_octets (hw : w.widthOk) (code : Nat → Nat → Nat) :
    RailsWritten w (ts.foldl (fun v l => (v.setRailSlot r (l / 8) 0 (code (l / 8) 0)).setRailSlot r (l / 8) 1 (code (l / 8) 1)) w) ts
      (ts.flatMap (octetWrites r code)) := by
  rw [← setRailSlots_octetWrites]
  refine ⟨(setRailSlots_rest w _).1, fun hts => railsHave_setRailSlots ?inside ?unique⟩
  case inside =>
    rintro ⟨n, o, t, c⟩ hmem
    obtain ⟨l, hl, hlo⟩ := List.mem_flatMap.1 hmem
    exact (mem_octetWrites hlo).1 ▸ Nat.div_lt_div_of_lt_of_dvd (eight_dvd_width hw) (hts l hl)
  case unique =>
    intro n o t c e hc he
    obtain ⟨_, _, hc⟩ := List.mem_flatMap.1 hc
    obtain ⟨_, _, he⟩ := List.mem_flatMap.1 he
    exact (mem_octetWrites hc).2.trans (mem_octetWrites he).2.symm

/-- The blocks of T written, each with the code that its supplying lane gives (R194, R199). -/
theorem railsWritten_blocks {four : Bool} {kc : Nat} (hw : w.widthOk) (hn : blockLanes four kc ≤ w.width) (code : Nat → Nat) :
    RailsWritten w (ts.foldl (fun v l => v.setBlockScale four kc r l (code (supplier ts (blockLanes four kc) l))) w) ts
      (ts.flatMap (fun l => blockWrites four kc r l (code (supplier ts (blockLanes four kc) l)))) := by
  refine ⟨?rest, fun hts => railsHave_blockWrites r _ hw hn hts fun l hl m _ hb => by rw [supplier_congr hl hb]⟩
  case rest =>
    rw [foldl_setBlockScale_eq]
    exact (setRailSlots_rest w _).1

end Rails

end Sys2Proof.Machine

namespace Sys2Proof.Proofs

open Sys2Proof.Machine

/-- Settles O24: two operations write one word of each lane of T, one the slots of blocks, and two the slots of whole octets, whose codes
come from the wave as it stood. -/
theorem railOperations : Obligations.RailOperations := by
  intro d a o e k g
  refine crossInstr_of (fun w ts go v => w.railEffect d a o (e == 1) k.toNat ts go v) (fun _ => rfl) (fun _ h => by simpa using h.2)
    fun w ts ⟨hw, hn⟩ => ?_
  simp only [Wave.railEffect]
  generalize o.toNat = op at hn ⊢
  match op with
  | 0 => exact applyEffs_eff32_written w d ts fun l => (w.blockScale (e == 1) k.toNat a.toNat l, flNone)
  | 1 => exact applyEffs_eff32_written w d ts fun l => (railFactor (w.blockScale (e == 1) k.toNat a.toNat l), flNone)
  | 2 =>
    simp only [bitsOf_low]
    exact railsWritten_blocks d.toNat hw (hn.resolve_left (by decide)) fun m => (w.opA m a).toNat % 256
  | 3 => exact railsWritten_octets d.toNat hw (w.railSlot a.toNat)
  | op + 4 => exact railsWritten_octets d.toNat hw fun _ _ => 0

end Sys2Proof.Proofs
end

section
/-! SUPPORT. How the checks of a lane's address fail, in their order (R204, R209, R244, R246, R374). -/

namespace Sys2Proof.Machine

section OneAddress

variable {s : State} {core part space va : Nat} {kind : AccessKind} {e : TlbEntry}

/-- An address at or above 2^57, or one of a space whose enable bit is 0, has no translation (R204, R244). -/
theorem State.checkAccess_untranslated (h : 2 ^ 57 ≤ va ∨ (s.part part).vf.aspRoot.getD space 0 % 2 = 0) :
    s.checkAccess core part space va kind = (.error (0x08, 0), s) := by
  have ht : s.translate core part space va = (.error (0x08, 0), s) := by
    rw [State.translate, if_pos (by simpa [bitOf] using h)]
  rw [State.checkAccess, ht]

/-- An address of an enabled space whose page is cached is translated by the entry (R208). -/
theorem State.translate_cached (hv : va < 2 ^ 57) (hb : (s.part part).vf.aspRoot.getD space 0 % 2 = 1)
    (hc : s.cachedXlat core part space va = some e) : s.translate core part space va = (.ok e, s) := by
  rw [State.translate, if_neg (by simpa [bitOf] using ⟨hv, hb⟩), hc]

section Translated

variable (ht : s.translate core part space va = (.ok e, s))
include ht

/-- A page that the partition does not reach (R209); with no group removed, nothing is reported of one (R44). -/
theorem State.checkAccess_unreached (hr : (s.part part).reaches (e.pa va) = false) (hg : (s.part part).gone = 0) :
    s.checkAccess core part space va kind = (.error (0x09, 4), s) := by
  rw [TlbEntry.pa] at hr
  simp [State.checkAccess, ht, hr, hg]

/-- A write to a page that is not writable (R209). -/
theorem State.checkAccess_unwritable (hr : (s.part part).reaches (e.pa va) = true) (hw : e.attr.writable = false) :
    s.checkAccess core part space va .write = (.error (0x09, 2), s) := by
  rw [TlbEntry.pa] at hr
  simp [State.checkAccess, ht, hr, hw]

/-- A read of a page that the partition reaches, or a write to one that is writable too (R209). -/
theorem State.checkAccess_granted (hr : (s.part part).reaches (e.pa va) = true) (hw : kind = .write → e.attr.writable = true)
    (hf : kind ≠ .fetch) : s.checkAccess core part space va kind = (.ok e, s) := by
  rw [TlbEntry.pa] at hr
  cases kind <;> simp_all [State.checkAccess]

end Translated

end OneAddress

section OneLane

variable {s : State} {c : Ctx} {align l va : Nat} {kind : AccessKind}

theorem State.admitLane_misaligned (h : va % align ≠ 0) (pod : Option Nat) :
    s.admitLane c align kind pod l va = (none, s.takeTraps c.r [l] c.hdr c.slot 0x0A 0 va) := by
  simp [State.admitLane, h, State.trapAt]

theorem State.admitLane_refused (h : va % align = 0) {cause detail : Nat} {t : State}
    (hx : s.checkAccess (s.coreOf c.r) (s.partOf c.r) (s.spaceOf c.r) va kind = (.error (cause, detail), t)) (pod : Option Nat) :
    s.admitLane c align kind pod l va = (none, t.takeTraps c.r [l] c.hdr c.slot cause detail va) := by
  simp [State.admitLane, h, hx, State.trapAt]

/-- An access to the pod range of a partition whose pod enable is 0 (R374). -/
theorem State.admitLane_podDisabled (h : va % align = 0) {e : TlbEntry}
    (hx : s.checkAccess (s.coreOf c.r) (s.partOf c.r) (s.spaceOf c.r) va kind = (.ok e, s)) (hp : isPod (e.pa va) = true)
    (hd : (s.part (s.partOf c.r)).podEnable = false) (pod : Option Nat) :
    s.admitLane c align kind pod l va = (none, s.takeTraps c.r [l] c.hdr c.slot 0x10 0 va) := by
  cases pod <;> simp [State.admitLane, h, hx, hp, State.podCheck, hd, State.trapAt]

theorem State.admitLanes_refused {va : Nat → Nat} {pod : Option Nat} {u : State} (hx : s.admitLane c align kind pod l (va l) = (none, u)) :
    s.admitLanes c align kind pod va [l] = ([], u) := by
  simp [State.admitLanes, hx]

end OneLane

/-- Lanes that keep no destination empty leave the state. -/
theorem DestsKept.noDests (u : State) (c : Ctx) (ls : List Nat) : DestsKept u u c ls [] :=
  ⟨fun w => w, (modWave_id u c.r).symm, fun w => ⟨rfl, rfl, fun l x y hx hy => by
    obtain rfl : x = y := Option.some.inj (hx.symm.trans hy)
    simp⟩⟩

/-- `ld.b32` or `st.b32`. -/
def access32 (store : Bool) (d b o : BitVec 6) (sc q : BitVec 2) (g : BitVec 4) : Instr :=
  if store then .stB32 d b o sc q g else .ldB32 d b o sc q g

/-- What `ld.b32` and `st.b32` need of a page. -/
def access32Kind (store : Bool) : AccessKind := if store then .write else .read

/-- `ld.b32` or `st.b32` of one lane that fails its checks: nothing happens but what the checks did, and a load's destination is empty
(R246, R250). -/
theorem access32_refused {s u : State} {c : Ctx} {w : Wave} {l : Nat} {store : Bool} {d b o : BitVec 6} {sc q : BitVec 2} {g : BitVec 4}
    (h : Alone s c w) (ht : c.t w g = [l]) (hm : w.memFree)
    (hi : LegalFor (access32 store d b o sc q g) [d.toNat, b.toNat, b.toNat + 1] [] w)
    (hf : w.allFull [l] [d.toNat, b.toNat, b.toNat + 1])
    (hx : ∀ pod, s.admitLane c 4 (access32Kind store) pod l (w.accessAddr b o 4 l) = (none, u)) :
    ∃ v : State, exec (access32 store d b o sc q g) s = .next v ∧ DestsKept u v c [l] (if store then [] else [d.toNat]) := by
  rw [← ht] at hf
  cases store with
  | true =>
    have hv : s.admitLanes c 4 .write (some 1) (w.accessAddr b o 4) [l] = ([], u) := State.admitLanes_refused (hx _)
    exact ⟨u, (globalStore_runs h hi hm hf).trans (by simp [ht, hv]), .noDests u c [l]⟩
  | false =>
    have hv : s.admitLanes c 4 .read (some 0) (w.accessAddr b o 4) [l] = ([], u) := State.admitLanes_refused (hx _)
    exact ⟨_, (globalLoad_runs h hi hm hf).trans (by simp [ht, hv, regRun, rangeFrom]), faultDests_kept u c [l] [] [d.toNat]⟩

end Sys2Proof.Machine

namespace Sys2Proof.Proofs

open Sys2Proof.Machine

/-- Settles O38: each check that fails, in its order, refuses the one lane with its cause. -/
theorem addressChecks : Obligations.AddressChecks := by
  intro d b o sc q g s c w l store i va traps p enable h ht hm hi hf
  have refused (cause detail : Nat)
      (hx : ∀ pod, s.admitLane c 4 (access32Kind store) pod l va = (none, s.takeTraps c.r [l] c.hdr c.slot cause detail va)) :
      traps cause detail := access32_refused h ht hm hi hf hx
  refine ⟨fun ha => ?misaligned, fun ha hv => ?beyond, fun ha hv => ⟨fun hb => ?disabled, fun e hb hc => ?cached⟩⟩
  case misaligned => exact refused _ _ (State.admitLane_misaligned ha)
  case beyond => exact refused _ _ (State.admitLane_refused ha (State.checkAccess_untranslated (.inl hv)))
  case disabled => exact refused _ _ (State.admitLane_refused ha (State.checkAccess_untranslated (.inr hb)))
  case cached =>
    have hx := State.translate_cached hv hb hc
    refine ⟨fun hr hg => ?unreached, fun hr hs hw => ?unwritable, fun hr hw hp hd => ?pod⟩
    case unreached => exact refused _ _ (State.admitLane_refused ha (State.checkAccess_unreached hx hr hg))
    case unwritable =>
      subst hs
      exact refused _ _ (State.admitLane_refused ha (State.checkAccess_unwritable hx hr hw))
    case pod =>
      refine refused _ _ (State.admitLane_podDisabled ha (State.checkAccess_granted hx hr (fun hk => hw ?_) ?_) hp hd)
      all_goals cases store <;> simp_all [access32Kind]

end Sys2Proof.Proofs
end

section
/-! SUPPORT. The bytes of a block's scratchpad and the F/E bits and poison marks of its granules: what is read after stores of several lanes,
and what making granules full or empty changes (R3, R213, R215, R281). -/

namespace Sys2Proof.Machine

theorem ofBytesLE_cellRun_lt (l : Cells Byte) (a n : Nat) : ofBytesLE (cellRun 0 l a n) < 256 ^ n := by
  induction n generalizing a with
  | zero => simp [cellRun, ofBytesLE]
  | succ n ih =>
    have := ih (a + 1)
    have := (cellGet 0 l a).isLt
    simp only [cellRun, ofBytesLE, pow_succ]
    omega

/-- The number that a run of bytes holds, cut in two. -/
theorem ofBytesLE_cellRun_add (l : Cells Byte) (a m n : Nat) :
    ofBytesLE (cellRun 0 l a (m + n)) = ofBytesLE (cellRun 0 l a m) + 256 ^ m * ofBytesLE (cellRun 0 l (a + m) n) := by
  induction m generalizing a with
  | zero => simp [cellRun, ofBytesLE]
  | succ m ih =>
    rw [Nat.add_right_comm, cellRun, ofBytesLE, ih, cellRun, ofBytesLE, Nat.add_right_comm a 1 m, ← Nat.add_assoc a m 1]
    ring

/-- A word of a longer number in the scratchpad is the word at its own offset. -/
theorem Block.scratchNat_word (k : Block) (off : Nat) {m n : Nat} (h : m < n) :
    BitVec.ofNat 32 (k.scratchNat off (4 * n) / 2 ^ (32 * m)) = BitVec.ofNat 32 (k.scratchNat (off + 4 * m) 4) := by
  obtain ⟨r, rfl⟩ := Nat.exists_eq_add_of_lt h
  have hp : 2 ^ (32 * m) = 256 ^ (4 * m) := by rw [show 256 = 2 ^ 8 by rfl, ← pow_mul]; congr 1; omega
  rw [Block.scratchNat, Block.scratchBytes, show 4 * (m + r + 1) = 4 * m + (4 + 4 * r) by omega, ofBytesLE_cellRun_add, hp,
    Nat.add_mul_div_left _ _ (by positivity), Nat.div_eq_of_lt (ofBytesLE_cellRun_lt ..), Nat.zero_add, ofBytesLE_cellRun_add]
  apply BitVec.eq_of_toNat_eq
  simp only [BitVec.toNat_ofNat, Block.scratchNat, Block.scratchBytes, show 256 ^ 4 = 2 ^ 32 by rfl, Nat.add_mul_mod_self_left]

/-- A byte among the little-endian bytes of a number. -/
theorem getD_bytesLE {i k : Nat} (h : i < k) (x : Nat) : (bytesLE k x).getD i 0 = BitVec.ofNat 8 (x / 256 ^ i) := by
  induction k generalizing i x with
  | zero => omega
  | succ k ih =>
    cases i with
    | zero => simp [bytesLE]
    | succ i => rw [bytesLE, List.getD_cons_succ, ih (by omega), Nat.div_div_eq_div_mul, pow_succ']

/-- Numbers stored in order, each at an offset of its own: a byte reads the last that covers it (R249, R260). -/
theorem cellGet_foldl_cellPut {c : Cells Byte} (hc : cellsWf 0 c = true) (m : Nat) (off value : Nat → Nat) (ls : List Nat) (a : Nat) :
    cellGet 0 (ls.foldl (fun c l => cellPut 0 c (off l) (bytesLE m (value l))) c) a =
      ((ls.filter (fun l => decide (off l ≤ a ∧ a < off l + m))).getLast?).elim (cellGet 0 c a)
        (fun l => BitVec.ofNat 8 (value l / 256 ^ (a - off l))) := by
  induction ls using List.reverseRecOn with
  | nil => rfl
  | append_singleton ls l ih =>
    have hw : cellsWf 0 (ls.foldl (fun c l => cellPut 0 c (off l) (bytesLE m (value l))) c) = true :=
      List.foldlRecOn (motive := fun c => cellsWf 0 c = true) ls _ hc fun c hc l _ => cellPut_wf 0 c _ _ hc
    rw [List.foldl_append, List.foldl_cons, List.foldl_nil, cellGet_cellPut 0 _ _ _ _ hw, length_bytesLE, List.filter_append]
    by_cases ha : off l ≤ a ∧ a < off l + m
    · rw [if_pos ha, getD_bytesLE (by omega)]
      simp [ha]
    · rw [if_neg ha, ih]
      simp [ha]

theorem mem_insertSorted {x a : Nat} {l : List Nat} : a ∈ insertSorted x l ↔ a = x ∨ a ∈ l := by
  induction l with
  | nil => simp [insertSorted]
  | cons h t ih =>
    simp only [insertSorted]
    split
    · simp
    · split
      · next hx => simp [beq_iff_eq.1 hx]
      · simp only [List.mem_cons, ih]; tauto

/-- Granules made empty one after the other (R215). -/
theorem foldl_emptyGranule (k : Block) (gs : List Nat) :
    let t := gs.foldl (fun k x => k.emptyGranule x) k
    t = { k with feEmpty := t.feEmpty } ∧ ∀ x, x ∈ t.feEmpty ↔ x ∈ k.feEmpty ∨ x ∈ gs := by
  induction gs generalizing k with
  | nil => exact ⟨rfl, by simp⟩
  | cons g gs ih =>
    obtain ⟨hrest, hmem⟩ := ih (k.emptyGranule g)
    refine ⟨by rw [List.foldl_cons, hrest]; rfl, fun x => (hmem x).trans ?_⟩
    simp only [Block.emptyGranule, mem_insertSorted, List.mem_cons]
    tauto

/-- Granules made full one after the other (R215). -/
theorem foldl_fillGranule (k : Block) (gs : List Nat) :
    let t := gs.foldl (fun k x => k.fillGranule x) k
    t = { k with feEmpty := t.feEmpty } ∧ ∀ x, x ∈ t.feEmpty ↔ x ∈ k.feEmpty ∧ x ∉ gs := by
  induction gs generalizing k with
  | nil => exact ⟨rfl, by simp⟩
  | cons g gs ih =>
    obtain ⟨hrest, hmem⟩ := ih (k.fillGranule g)
    refine ⟨by rw [List.foldl_cons, hrest]; rfl, fun x => (hmem x).trans ?_⟩
    simp only [Block.fillGranule, List.mem_filter, bne_iff_ne, List.mem_cons, not_or]
    tauto

/-- Writes applied in order change the bytes and the poison marks, and nothing else of the block. -/
theorem Block.writeAll_eq (k : Block) (ws : List (Nat × List Byte)) :
    k.writeAll ws = { k with
      scratch := ws.foldl (fun c w => cellPut 0 c w.1 w.2) k.scratch
      poisonG := k.poisonG.filter
        (fun g => !(rangeFrom (16 * g) 16).all (fun o => (ws.flatMap (fun w => rangeFrom w.1 w.2.length)).contains o)) } := by
  have hf (ws : List (Nat × List Byte)) (k : Block) : ws.foldl (fun b w => b.putScratch w.1 w.2) k =
      { k with scratch := ws.foldl (fun c w => cellPut 0 c w.1 w.2) k.scratch } := by
    induction ws generalizing k with
    | nil => rfl
    | cons w ws ih => exact ih _
  rw [Block.writeAll, hf]
  rfl

theorem Block.writeAll_nil (k : Block) : k.writeAll [] = k := by
  simp [Block.writeAll_eq, rangeFrom]

/-- A poison mark outlives writes exactly when they do not cover its granule whole (R281). -/
theorem Block.mem_poisonG_writeAll {k : Block} {ws : List (Nat × List Byte)} {x : Nat} :
    x ∈ (k.writeAll ws).poisonG ↔ x ∈ k.poisonG ∧ ¬ ∀ a, 16 * x ≤ a → a < 16 * x + 16 → ∃ w ∈ ws, w.1 ≤ a ∧ a < w.1 + w.2.length := by
  simp only [Block.writeAll_eq, List.mem_filter, Bool.not_eq_true', ← Bool.not_eq_true, List.all_eq_true, mem_rangeFrom,
    List.contains_iff_mem, List.mem_flatMap, and_imp]

end Sys2Proof.Machine
end

section
/-! SUPPORT. A scratchpad instruction in a block's wave executing alone: its lanes' offsets, their checks, and the changes of the wave and of
the block that it is made of (R213, R244, R246). -/

namespace Sys2Proof.Machine

theorem modBlock_id (s : State) (u : Nat) : s.modBlock u (fun k => k) = s := by simp [State.modBlock]

theorem modBlockOf_id (s : State) (r : WaveRef) : s.modBlockOf r (fun k => k) = s := by
  cases r with
  | blk u j => exact modBlock_id s u
  | hdl k q => rfl

/-- A change of a block's wave and then of the block are one change of the block. -/
theorem modBlockOf_modWave (s : State) (u j : Nat) (f : Wave → Wave) (g : Block → Block) :
    (s.modWave (.blk u j) f).modBlockOf (.blk u j) g = s.modBlock u (fun k => g { k with waves := modifyAt k.waves j f }) :=
  modBlock_modBlock s u (fun k => { k with waves := modifyAt k.waves j f }) g fun _ => rfl

/-- Two changes of one lane are one. -/
theorem modLane_modLane (s : State) (r : WaveRef) (l : Nat) (f g : Lane → Lane) :
    (s.modLane r l f).modLane r l g = s.modLane r l (fun x => g (f x)) := by
  simp only [State.modLane, modWave_modWave, Wave.modLane, modifyAt_modifyAt]

/-- Changes of lanes one after the other are one change of their wave. -/
theorem foldl_modLane_eq_modWave (s : State) (r : WaveRef) (h : Nat → Lane → Lane) (ls : List Nat) :
    ls.foldl (fun s l => s.modLane r l (h l)) s = s.modWave r (fun w => ls.foldl (fun w l => w.modLane l (h l)) w) := by
  induction ls generalizing s with
  | nil => exact (modWave_id s r).symm
  | cons l ls ih => rw [List.foldl_cons, ih, State.modLane, modWave_modWave]; rfl

/-- An entry that a list has, passed through `f`, is the entry replaced. -/
theorem modifyAt_eq_setAt {α : Type} {l : List α} {i : Nat} {x : α} (h : l[i]? = some x) (f : α → α) : modifyAt l i f = setAt l i (f x) := by
  apply List.ext_getElem?
  intro n
  rw [getElem?_modifyAt, getElem?_setAt]
  split
  · next hn => subst hn; simp [h]
  · rfl

/-- What each change of a lane establishes and further ones keep, holds of the lanes changed one after the other, however often; the other
lanes are as before. -/
theorem foldl_modLane_establishes {R : Nat → Lane → Lane → Prop} {h : Nat → Lane → Lane} (hone : ∀ l x, R l x (h l x))
    (hmore : ∀ l x y, R l x y → R l x (h l y)) (w : Wave) (ls : List Nat) :
    let v := ls.foldl (fun w l => w.modLane l (h l)) w
    v = { w with lanes := v.lanes } ∧ (∀ l, l ∉ ls → v.lanes[l]? = w.lanes[l]?) ∧
      ∀ (l : Nat) (x y : Lane), l ∈ ls → w.lanes[l]? = some x → v.lanes[l]? = some y → R l x y := by
  induction ls using List.reverseRecOn with
  | nil => exact ⟨rfl, fun _ _ => rfl, fun _ _ _ hl => absurd hl List.not_mem_nil⟩
  | append_singleton ls m ih =>
    obtain ⟨hrest, hout, hin⟩ := ih
    rw [List.foldl_append, List.foldl_cons, List.foldl_nil]
    generalize ls.foldl (fun w l => w.modLane l (h l)) w = v at hrest hout hin ⊢
    refine ⟨by rw [hrest]; rfl, fun l hl => ?_, fun l x y hl hx hy => ?_⟩
    · have hne : m ≠ l := by rintro rfl; simp at hl
      rw [Wave.modLane_lanes, getElem?_modifyAt, if_neg hne, hout l fun hm => hl (by simp [hm])]
    · rw [Wave.modLane_lanes, getElem?_modifyAt] at hy
      by_cases hm : m = l
      · subst hm
        rw [if_pos rfl] at hy
        obtain ⟨z, hz, rfl⟩ := Option.map_eq_some_iff.1 hy
        by_cases hls : m ∈ ls
        · exact hmore m x z (hin m x z hls hx hz)
        · obtain rfl : x = z := Option.some.inj (hx.symm.trans ((hout m hls).symm.trans hz))
          exact hone m x
      · rw [if_neg hm] at hy
        have hls : l ∈ ls := by simpa [Ne.symm hm] using hl
        exact hin l x y hls hx hy

/-- One effect written over another of the same registers and predicates is written. -/
theorem LaneWritten.again {x y z : Lane} {e : LaneEff} (h : LaneWritten x y e) (k : LaneWritten y z e) : LaneWritten x z e where
  rest := by rw [k.rest, h.rest]
  size := k.size.trans h.size
  written r u hr := ⟨fun hl => (k.written r u hr).1 (by rw [h.size]; exact hl), (k.written r u hr).2⟩
  kept r hr := by
    obtain ⟨hreg, hfull, hmark⟩ := h.kept r hr
    obtain ⟨kreg, kfull, kmark⟩ := k.kept r hr
    exact ⟨kreg.trans hreg, kfull.trans hfull, kmark.trans hmark⟩
  predWritten := k.predWritten
  predKept p hp := (k.predKept p hp).trans (h.predKept p hp)

/-- Lanes that are all served keep no destination empty. -/
theorem faultDests_served (s : State) (c : Ctx) (ls rs : List Nat) : s.faultDests c ls ls rs = s := by
  have hw (w : Wave) : w.modLanes [] (fun x => x.faulted c rs) = w := by
    have hl : mapIdx' (fun (_ : Nat) (x : Lane) => x) w.lanes = w.lanes := by
      apply List.ext_getElem?
      simp [getElem?_mapIdx']
    simp [Wave.modLanes, hl]
  rw [State.faultDests, List.filter_eq_nil_iff.2 (by simp)]
  simp only [hw, modWave_id]

/-- The offset that a lane of a scratchpad instruction of `n` registers accesses (R244). -/
def Wave.padAddr (w : Wave) (b o : BitVec 6) (n l : Nat) : Nat :=
  (((w.reg l b.toNat).toNat + (4 * n : Nat) * o.toInt : Int) % 2 ^ 32).toNat

theorem Wave.scratchAddr_eq_padAddr (w : Wave) (b o : BitVec 6) (n : Nat) :
    w.scratchAddr b.toNat (offBytes o (4 * n)) = w.padAddr b o n := by
  funext l
  simp [Wave.scratchAddr, Wave.padAddr, offBytes, signExt_toNat, natOfInt, Int.mul_comm]

section Checks

variable {s : State} {c : Ctx} {size : Nat} {off : Nat → Nat}

/-- Lanes that are aligned and inside the allocation are all served (R213). -/
theorem scratchLanes_served {ls : List Nat} (h : ∀ l ∈ ls, off l % size = 0 ∧ off l + size ≤ s.scratchSize c.r) :
    s.scratchLanes c size off ls = (ls, s) := by
  rw [State.scratchLanes, Prod.mk.injEq, List.filter_eq_self]
  refine ⟨fun l hl => ?_, List.foldlRecOn (motive := fun t => t = s) ls _ rfl fun t ht l hl => ?_⟩
  · simp [(h l hl).1, Nat.not_lt.2 (h l hl).2]
  · simp [(h l hl).1, Nat.not_lt.2 (h l hl).2, ht]

theorem scratchLanes_misaligned {l : Nat} (h : off l % size ≠ 0) :
    s.scratchLanes c size off [l] = ([], s.takeTraps c.r [l] c.hdr c.slot 0x0A 0 (off l)) := by
  simp [State.scratchLanes, h, State.trapAt]

theorem scratchLanes_beyond {l : Nat} (h : off l % size = 0) (hb : s.scratchSize c.r < off l + size) :
    s.scratchLanes c size off [l] = ([], s.takeTraps c.r [l] c.hdr c.slot 0x0B 0 (off l)) := by
  simp [State.scratchLanes, h, hb, State.trapAt]

end Checks

/-- Wave `j` of a block executes alone, and nothing holds it back from its scratchpad. -/
structure PadWave (s : State) (c : Ctx) (w : Wave) (uid j : Nat) (k : Block) (la : Launch) : Prop where
  alone : Alone s c w
  ref : c.r = .blk uid j
  block : s.block? uid = some k
  launch : s.launchOf c.r = some la
  acquires : w.acquires = []
  waits : ∀ y ∈ w.groups, y.delivers = false

namespace PadWave

variable {s : State} {c : Ctx} {w : Wave} {uid j : Nat} {k : Block} {la : Launch} (p : PadWave s c w uid j k la)
include p

theorem free : w.memBlocked false = false := by
  simpa [Wave.memBlocked, p.acquires] using p.waits

theorem blockOnly (t : State) : s.blockOnly c t = t := by simp [State.blockOnly, p.ref, isHandler]

theorem blockOf : s.blockOf c.r = some k := by rw [p.ref]; exact p.block

theorem wave : k.waves[j]? = some w := by
  have := p.alone.wave
  rwa [p.ref, State.wave?, p.block] at this

theorem scratchSize : s.scratchSize c.r = la.record.scratch := by simp [State.scratchSize, p.launch]

end PadWave

end Sys2Proof.Machine
end

section
/-! SUPPORT. Scratchpad loads: lanes that read, a lane that waits for its granule, and a lane that its checks refuse (R213, R215, R246, R259). -/

namespace Sys2Proof.Machine

/-- What a scratchpad load of `n` registers from `d` reads at an offset (R259). -/
def Block.padEff (k : Block) (d n off : Nat) : LaneEff :=
  { regs := (rangeFrom 0 n).map (fun m => (d + m, BitVec.ofNat 32 (k.scratchNat (off + 4 * m) 4))) }

theorem Block.padEff_nodup (k : Block) (d n off : Nat) : ((k.padEff d n off).regs.map Prod.fst).Nodup := by
  have hn (lo n : Nat) : (rangeFrom lo n).Nodup := by
    induction n generalizing lo with
    | zero => simp [rangeFrom]
    | succ n ih => simp [rangeFrom, ih]
  rw [Block.padEff, List.map_map]
  exact (hn 0 n).map fun a b h => Nat.add_left_cancel h

/-- Registers written in turn with the words of a number. -/
theorem foldIdx_writeV (f : Nat → Word) (d i n : Nat) (x : Lane) :
    foldIdx (fun x i r => x.writeV r (f i)) x i (rangeFrom (d + i) n) =
      ((rangeFrom i n).map (fun m => (d + m, f m))).foldl (fun x p => x.writeV p.1 p.2) x := by
  induction n generalizing i x with
  | zero => rfl
  | succ n ih => exact ih (i + 1) _

/-- A lane that reads full granules that are not poisoned writes its registers and forgets an earlier wait (R259). -/
theorem ldsRead_clean {k : Block} {d n off : Nat} (hp : off / 16 ∉ k.poisonG) (s : State) (c : Ctx) (l : Nat) :
    s.ldsRead c k l off (4 * n) (rangeFrom d n) =
      s.modLane c.r l (fun x => Lane.apply { x with ldsOwn := none } (k.padEff d n off)) := by
  have hw : (rangeFrom 0 n).map (fun m => (d + m, BitVec.ofNat 32 (k.scratchNat off (4 * n) / 2 ^ (32 * m)))) =
      (k.padEff d n off).regs :=
    List.map_congr_left fun m hm => by rw [k.scratchNat_word off (by simpa using hm)]
  rw [State.ldsRead, if_neg (by simpa using hp), modLane_modLane]
  congr 1
  funext x
  exact (foldIdx_writeV _ d 0 n _).trans (by rw [hw]; rfl)

/-- The wave after lanes of it have read a block's scratchpad at their offsets. -/
def Wave.readPad (w : Wave) (k : Block) (d n : Nat) (off : Nat → Nat) (ls : List Nat) : Wave :=
  ls.foldl (fun w l => w.modLane l (fun x => Lane.apply { x with ldsOwn := none } (k.padEff d n (off l)))) w

theorem readPad_lanes (w : Wave) (k : Block) (d n : Nat) (off : Nat → Nat) (ls : List Nat) :
    let v := w.readPad k d n off ls
    v = { w with lanes := v.lanes } ∧ (∀ l, l ∉ ls → v.lanes[l]? = w.lanes[l]?) ∧
      ∀ (l : Nat) (x y : Lane), l ∈ ls → w.lanes[l]? = some x → v.lanes[l]? = some y →
        LaneWritten { x with ldsOwn := none } y (k.padEff d n (off l)) := by
  have hone (l : Nat) (x : Lane) : LaneWritten x (x.apply (k.padEff d n (off l))) (k.padEff d n (off l)) :=
    lane_apply x _ (k.padEff_nodup ..) List.nodup_nil
  refine foldl_modLane_establishes (R := fun l x y => LaneWritten { x with ldsOwn := none } y (k.padEff d n (off l)))
    (fun l x => hone l _) (fun l x y h => ?_) w ls
  have hy : { y with ldsOwn := none } = y := by rw [h.rest]
  rw [hy]
  exact h.again (hone l y)

/-- The lane of a scratchpad load that waits for its granule: its destinations are empty (R259). -/
def Lane.waitsPad (x : Lane) (c : Ctx) (gran : Nat) (ds : List Nat) : Lane :=
  { ds.foldl (fun x r => x.markEmpty r) { x with ldsOwn := some (c.hdr, c.slot, ds) } with
    state := .waitGranule (.full gran), vpc := c.hdr, slot := c.slot }

theorem ldsWait_eq (s : State) (c : Ctx) (l gran : Nat) (ds : List Nat) :
    s.ldsWait c l gran ds = (s.modLane c.r l (fun x => x.waitsPad c gran ds)).dropFromIssues c.r [l] := by
  rw [State.ldsWait, State.stopLane, modLane_modLane]
  rfl

theorem waitsPad_empty (x : Lane) (c : Ctx) (gran : Nat) (ds : List Nat) :
    x.waitsPad c gran ds =
      { x with full := (x.waitsPad c gran ds).full, ldsOwn := some (c.hdr, c.slot, ds), state := .waitGranule (.full gran),
               vpc := c.hdr, slot := c.slot } ∧
      ∀ r, (x.waitsPad c gran ds).isFull r = (x.isFull r && !decide (r ∈ ds)) := by
  obtain ⟨h1, h2⟩ := foldl_markEmpty { x with ldsOwn := some (c.hdr, c.slot, ds) } ds
  exact ⟨by rw [Lane.waitsPad, h1], fun r => h2 r⟩

section Load

variable {s : State} {c : Ctx} {w : Wave} {uid j : Nat} {k : Block} {la : Launch} (p : PadWave s c w uid j k la)
  {i : Instr} {d b o : BitVec 6} {q : BitVec 2} {g : BitVec 4} {n : Nat} (hi : LegalFor i (b.toNat :: regRun d n) [] w)
  (hf : w.allFull (c.t w g) (b.toNat :: regRun d n))
include p hi hf

/-- A scratchpad load whose lanes pass their checks: those that need not wait for their granules read, the others wait. -/
theorem scratchLoad_served
    (hin : ∀ l ∈ c.t w g, w.padAddr b o n l % (4 * n) = 0 ∧ w.padAddr b o n l + 4 * n ≤ la.record.scratch) {reads waiting : List Nat}
    (hr : (c.t w g).filter (fun l => !(q != 0 && !k.granuleFull (w.padAddr b o n l / 16))) = reads)
    (hw : (c.t w g).filter (fun l => q != 0 && !k.granuleFull (w.padAddr b o n l / 16)) = waiting) :
    s.scratchLoad i d b o q g n = .next (
      let s1 := reads.foldl (fun s l => s.ldsRead c k l (w.padAddr b o n l) (4 * n) (regRun d n)) s
      let s2 := waiting.foldl (fun s l => s.ldsWait c l (w.padAddr b o n l / 16) (regRun d n)) s1
      if q == 2 then
        let taken := (reads.map (fun l => w.padAddr b o n l / 16)).filter (fun x => !k.poisonG.contains x)
        s2.modBlockOf c.r (fun k => taken.foldl (fun k x => k.emptyGranule x) k)
      else s2) := by
  refine (execWord_alone p.alone hi rfl).trans ?_
  rw [← p.scratchSize] at hin
  subst hr hw
  simp only [p.blockOnly, unlessBlocked_free p.free, gates_ownNeeds hf, Wave.scratchAddr_eq_padAddr, scratchLanes_served hin,
    faultDests_served, p.blockOf]

/-- A scratchpad load all of whose lanes read: their registers are written, and with `.wfc` their granules made empty (R259). -/
theorem scratchLoad_reads
    (hin : ∀ l ∈ c.t w g, w.padAddr b o n l % (4 * n) = 0 ∧ w.padAddr b o n l + 4 * n ≤ la.record.scratch)
    (hq : ∀ l ∈ c.t w g, q ≠ 0 → k.granuleFull (w.padAddr b o n l / 16) = true)
    (hp : ∀ l ∈ c.t w g, w.padAddr b o n l / 16 ∉ k.poisonG) :
    s.scratchLoad i d b o q g n = .next (s.modBlock uid (fun k' =>
      (if q = 2 then (c.t w g).map (fun l => w.padAddr b o n l / 16) else []).foldl (fun k x => k.emptyGranule x)
        { k' with waves := modifyAt k'.waves j (fun v => v.readPad k d.toNat n (w.padAddr b o n) (c.t w g)) })) := by
  have hgo (l : Nat) (hl : l ∈ c.t w g) : (q != 0 && !k.granuleFull (w.padAddr b o n l / 16)) = false := by
    by_cases h0 : q = 0
    · rw [h0]; rfl
    · rw [hq l hl h0, Bool.not_true, Bool.and_false]
  have hreads : (c.t w g).foldl (fun s l => s.ldsRead c k l (w.padAddr b o n l) (4 * n) (regRun d n)) s =
      s.modWave c.r (fun v => v.readPad k d.toNat n (w.padAddr b o n) (c.t w g)) :=
    (List.foldl_ext _ _ _ fun s l hl => ldsRead_clean (hp l hl) s c l).trans (foldl_modLane_eq_modWave ..)
  have htaken : ((c.t w g).map (fun l => w.padAddr b o n l / 16)).filter (fun x => !k.poisonG.contains x) = _ :=
    List.filter_eq_self.2 (List.forall_mem_map.2 fun l hl => by simpa using hp l hl)
  rw [scratchLoad_served p hi hf hin (List.filter_eq_self.2 fun l hl => by rw [hgo l hl]; rfl)
    (List.filter_eq_nil_iff.2 fun l hl => by rw [hgo l hl]; exact Bool.false_ne_true)]
  simp only [hreads, htaken, List.foldl_nil, beq_iff_eq, p.ref]
  split
  · exact congrArg _ (modBlockOf_modWave ..)
  · rfl

/-- A scratchpad load of one lane that waits for its granule. -/
theorem scratchLoad_waits {l : Nat} (ht : c.t w g = [l])
    (hin : w.padAddr b o n l % (4 * n) = 0 ∧ w.padAddr b o n l + 4 * n ≤ la.record.scratch)
    (hq : q ≠ 0) (he : k.granuleFull (w.padAddr b o n l / 16) = false) :
    s.scratchLoad i d b o q g n =
      .next ((s.modLane c.r l (fun x => x.waitsPad c (w.padAddr b o n l / 16) (regRun d n))).dropFromIssues c.r [l]) := by
  have hW : (q != 0 && !k.granuleFull (w.padAddr b o n l / 16)) = true := by rw [he]; simpa using hq
  rw [scratchLoad_served p hi hf (by simpa [ht] using hin) (reads := []) (waiting := [l]) (by rw [ht, List.filter_singleton, hW]; rfl)
    (by rw [ht, List.filter_singleton, hW]; rfl)]
  simp [modBlockOf_id, ldsWait_eq]

/-- A scratchpad load of one lane that its checks refuse: its destinations are empty (R250). -/
theorem scratchLoad_refused {l : Nat} (ht : c.t w g = [l]) {u : State}
    (hx : s.scratchLanes c (4 * n) (w.padAddr b o n) [l] = ([], u)) :
    s.scratchLoad i d b o q g n = .next (u.faultDests c [l] [] (regRun d n)) := by
  refine (execWord_alone p.alone hi rfl).trans ?_
  rw [ht] at hf
  simp only [p.blockOnly, unlessBlocked_free p.free, ht, gates_ownNeeds hf, Wave.scratchAddr_eq_padAddr, hx]
  split <;> simp [modBlockOf_id]

/-- What a scratchpad load does whose lanes pass their checks and find full granules that are not poisoned: it writes the registers of its
lanes, `.wfc` empties their granules, and nothing else changes. -/
theorem scratchLoad_completes (he : ∀ s, exec i s = s.scratchLoad i d b o q g n)
    (hT : ∀ l ∈ c.t w g, (w.padAddr b o n l % (4 * n) = 0 ∧ w.padAddr b o n l + 4 * n ≤ la.record.scratch) ∧
      (q ≠ 0 → k.granuleFull (w.padAddr b o n l / 16) = true) ∧ w.padAddr b o n l / 16 ∉ k.poisonG) :
    ∃ (f : Block → Block) (v : Wave), exec i s = .next (s.modBlock uid f) ∧
      f k = { k with waves := setAt k.waves j v, feEmpty := (f k).feEmpty } ∧ v = { w with lanes := v.lanes } ∧
      (∀ l, l ∉ c.t w g → v.lanes[l]? = w.lanes[l]?) ∧
      (∀ (l : Nat) (x y : Lane), l ∈ c.t w g → w.lanes[l]? = some x → v.lanes[l]? = some y →
        LaneWritten { x with ldsOwn := none } y (k.padEff d.toNat n (w.padAddr b o n l))) ∧
      ∀ x, x ∈ (f k).feEmpty ↔ x ∈ k.feEmpty ∨ (q = 2 ∧ ∃ l ∈ c.t w g, w.padAddr b o n l / 16 = x) := by
  obtain ⟨hrest, hout, hin⟩ := readPad_lanes w k d.toNat n (w.padAddr b o n) (c.t w g)
  obtain ⟨hblock, hgran⟩ := foldl_emptyGranule
    { k with waves := modifyAt k.waves j (fun v => v.readPad k d.toNat n (w.padAddr b o n) (c.t w g)) }
    (if q = 2 then (c.t w g).map (fun l => w.padAddr b o n l / 16) else [])
  refine ⟨_, _, (he s).trans (scratchLoad_reads p hi hf (fun l hl => (hT l hl).1) (fun l hl => (hT l hl).2.1) fun l hl => (hT l hl).2.2),
    ?_, hrest, hout, hin, fun x => (hgran x).trans ?_⟩
  · rw [hblock, modifyAt_eq_setAt p.wave]
  · by_cases hq : q = 2 <;> simp [hq]

/-- What a scratchpad load of one lane does whose granule the qualifier tests and finds empty (R259). -/
theorem scratchLoad_waits_lane (he : ∀ s, exec i s = s.scratchLoad i d b o q g n) {l : Nat} {x : Lane} (ht : c.t w g = [l])
    (hx : w.lanes[l]? = some x) (hin : w.padAddr b o n l % (4 * n) = 0 ∧ w.padAddr b o n l + 4 * n ≤ la.record.scratch)
    (hq : q ≠ 0) (hg : k.granuleFull (w.padAddr b o n l / 16) = false) :
    ∃ (f : Wave → Wave) (y : Lane), exec i s = .next ((s.modWave c.r f).dropFromIssues c.r [l]) ∧
      f w = { w with lanes := setAt w.lanes l y } ∧
      y = { x with full := y.full, ldsOwn := some (c.hdr, c.slot, rangeFrom d.toNat n),
                   state := .waitGranule (.full (w.padAddr b o n l / 16)), vpc := c.hdr, slot := c.slot } ∧
      ∀ r, y.isFull r = (x.isFull r && !decide (r ∈ rangeFrom d.toNat n)) :=
  ⟨_, x.waitsPad c _ (regRun d n), (he s).trans (scratchLoad_waits p hi hf ht hin hq hg), by rw [Wave.modLane, modifyAt_eq_setAt hx],
    waitsPad_empty x c _ (regRun d n)⟩

/-- What a scratchpad load of one lane does that its checks refuse. -/
theorem scratchLoad_faults (he : ∀ s, exec i s = s.scratchLoad i d b o q g n) {l : Nat} (ht : c.t w g = [l]) {u : State}
    (hx : s.scratchLanes c (4 * n) (w.padAddr b o n) [l] = ([], u)) :
    ∃ v : State, exec i s = .next v ∧ DestsKept u v c [l] (rangeFrom d.toNat n) :=
  ⟨_, (he s).trans (scratchLoad_refused p hi hf ht hx), faultDests_kept u c [l] [] (rangeFrom d.toNat n)⟩

end Load

end Sys2Proof.Machine

namespace Sys2Proof.Proofs

open Sys2Proof.Machine

/-- Settles O44: each width is one scratchpad load, whose lanes read, or whose one lane waits for its granule or is refused by its checks. -/
theorem scratchpadLoads : Obligations.ScratchpadLoads := by
  intro d b o q g s c w uid j k la h hr hk hl ha hg load
  have p : PadWave s c w uid j k la := ⟨h, hr, hk, hl, ha, hg⟩
  have one {i : Instr} {n : Nat} (he : ∀ s, exec i s = s.scratchLoad i d b o q g n) : load i n := by
    intro hi hf
    refine ⟨scratchLoad_completes p hi hf he, fun l x ht hx => ⟨scratchLoad_waits_lane p hi hf he ht hx, fun ha => ?misaligned,
      fun ha hb => ?beyond⟩⟩
    case misaligned => exact scratchLoad_faults p hi hf he ht (scratchLanes_misaligned ha)
    case beyond => exact scratchLoad_faults p hi hf he ht (scratchLanes_beyond ha (p.scratchSize ▸ hb))
  exact ⟨one fun _ => rfl, one fun _ => rfl, one fun _ => rfl⟩

end Sys2Proof.Proofs
end

section
/-! SUPPORT. Scratchpad stores, and `fe` over ranges of granules (R214, R215, R260, R262, R281). -/

namespace Sys2Proof.Machine

/-- A block after the lanes `ls` of a wave have stored `n` registers from `d` each, at their offsets (R260). -/
def Block.storePad (k : Block) (w : Wave) (d n : Nat) (q : BitVec 2) (off : Nat → Nat) (ls : List Nat) : Block :=
  let k1 := k.writeAll (ls.map (fun l => (off l, bytesLE (4 * n) (w.regs l d n))))
  if q == 0 then k1 else ls.foldl (fun k l => k.fillGranule (off l / 16)) k1

/-- What stores change of a block: bytes, F/E bits unless the qualifier is plain, and poison marks. -/
theorem storePad_eq (k : Block) (w : Wave) (d n : Nat) (q : BitVec 2) (off : Nat → Nat) (ls : List Nat) :
    let t := k.storePad w d n q off ls
    t = { k with scratch := t.scratch, feEmpty := t.feEmpty, poisonG := t.poisonG } ∧
      t.scratch = ls.foldl (fun c l => cellPut 0 c (off l) (bytesLE (4 * n) (w.regs l d n))) k.scratch ∧
      (∀ x, x ∈ t.feEmpty ↔ x ∈ k.feEmpty ∧ ¬ (q ≠ 0 ∧ ∃ l ∈ ls, off l / 16 = x)) ∧
      t.poisonG = (k.writeAll (ls.map (fun l => (off l, bytesLE (4 * n) (w.regs l d n))))).poisonG := by
  have hs : (k.writeAll (ls.map (fun l => (off l, bytesLE (4 * n) (w.regs l d n))))).scratch = _ :=
    (congrArg Block.scratch (k.writeAll_eq _)).trans List.foldl_map
  have hw := k.writeAll_eq (ls.map (fun l => (off l, bytesLE (4 * n) (w.regs l d n))))
  simp only [Block.storePad]
  generalize k.writeAll (ls.map (fun l => (off l, bytesLE (4 * n) (w.regs l d n)))) = k1 at hs hw ⊢
  by_cases hq : q = 0
  · subst hq
    rw [if_pos (beq_self_eq_true _)]
    exact ⟨by rw [hw], hs, by simp [hw], rfl⟩
  · obtain ⟨hrest, hmem⟩ := foldl_fillGranule k1 (ls.map (fun l => off l / 16))
    rw [List.foldl_map] at hrest hmem
    rw [if_neg (by simpa using hq)]
    refine ⟨by rw [hrest, hw], by rw [hrest, hs], fun x => (hmem x).trans ?_, by rw [hrest]⟩
    simp only [hw, ne_eq, hq, not_false_eq_true, true_and, List.mem_map]

section Store

variable {s : State} {c : Ctx} {w : Wave} {uid j : Nat} {k : Block} {la : Launch} (p : PadWave s c w uid j k la)
  {i : Instr} {d b o : BitVec 6} {q : BitVec 2} {g : BitVec 4} {n : Nat} (hi : LegalFor i (b.toNat :: regRun d n) [] w)
  (hf : w.allFull (c.t w g) (b.toNat :: regRun d n)) (he : ∀ s, exec i s = s.scratchStore i d b o q g n)
include p hi hf he

/-- A scratchpad store whose lanes pass their checks: those that need not wait for their granules write, the others wait. -/
theorem scratchStore_served
    (hin : ∀ l ∈ c.t w g, w.padAddr b o n l % (4 * n) = 0 ∧ w.padAddr b o n l + 4 * n ≤ la.record.scratch) {writes waiting : List Nat}
    (hr : (c.t w g).filter (fun l => !(q == 2 && k.granuleFull (w.padAddr b o n l / 16))) = writes)
    (hw : (c.t w g).filter (fun l => q == 2 && k.granuleFull (w.padAddr b o n l / 16)) = waiting) :
    exec i s = .next (waiting.foldl (fun s l => s.stopLane c.r l c.hdr c.slot (.waitGranule (.empty (w.padAddr b o n l / 16))))
      (s.modBlock uid (fun k => k.storePad w d.toNat n q (w.padAddr b o n) writes))) := by
  refine (he s).trans ((execWord_alone p.alone hi rfl).trans ?_)
  rw [← p.scratchSize] at hin
  subst hr hw
  simp only [p.blockOnly, unlessBlocked_free p.free, gates_full hf, Wave.scratchAddr_eq_padAddr, scratchLanes_served hin, p.blockOf]
  rw [p.ref]
  rfl

/-- A scratchpad store all of whose lanes write: the last lane that covers a byte gives it, the qualifiers fill granules, and a granule
written whole loses its poison mark. -/
theorem scratchStore_completes (hwf : cellsWf 0 k.scratch = true)
    (hT : ∀ l ∈ c.t w g, (w.padAddr b o n l % (4 * n) = 0 ∧ w.padAddr b o n l + 4 * n ≤ la.record.scratch) ∧
      (q = 2 → k.granuleFull (w.padAddr b o n l / 16) = false)) :
    let covers (a l : Nat) : Bool := decide (w.padAddr b o n l ≤ a ∧ a < w.padAddr b o n l + 4 * n)
    ∃ f : Block → Block, exec i s = .next (s.modBlock uid f) ∧
      f k = { k with scratch := (f k).scratch, feEmpty := (f k).feEmpty, poisonG := (f k).poisonG } ∧
      (∀ a l, ((c.t w g).filter (covers a)).getLast? = some l →
        cellGet 0 (f k).scratch a = BitVec.ofNat 8 (w.regs l d.toNat n / 256 ^ (a - w.padAddr b o n l))) ∧
      (∀ a, ((c.t w g).filter (covers a)).getLast? = none → cellGet 0 (f k).scratch a = cellGet 0 k.scratch a) ∧
      (∀ x, x ∈ (f k).feEmpty ↔ x ∈ k.feEmpty ∧ ¬ (q ≠ 0 ∧ ∃ l ∈ c.t w g, w.padAddr b o n l / 16 = x)) ∧
      ∀ x, x ∈ (f k).poisonG ↔ x ∈ k.poisonG ∧ ¬ ∀ a, 16 * x ≤ a → a < 16 * x + 16 → ∃ l ∈ c.t w g, covers a l = true := by
  intro covers
  have hgo (l : Nat) (hl : l ∈ c.t w g) : (q == 2 && k.granuleFull (w.padAddr b o n l / 16)) = false := by
    by_cases h2 : q = 2
    · rw [(hT l hl).2 h2, Bool.and_false]
    · rw [beq_false_of_ne h2, Bool.false_and]
  obtain ⟨hrest, hscratch, hgran, hpoison⟩ := storePad_eq k w d.toNat n q (w.padAddr b o n) (c.t w g)
  have hbyte (a : Nat) := cellGet_foldl_cellPut hwf (4 * n) (w.padAddr b o n) (fun l => w.regs l d.toNat n) (c.t w g) a
  rw [← hscratch] at hbyte
  refine ⟨_, scratchStore_served p hi hf he (fun l hl => (hT l hl).1) (List.filter_eq_self.2 fun l hl => by rw [hgo l hl]; rfl)
    (List.filter_eq_nil_iff.2 fun l hl => by rw [hgo l hl]; exact Bool.false_ne_true), hrest, fun a l hl => ?_, fun a hn => ?_, hgran,
    fun x => ?_⟩
  · exact (hbyte a).trans (by rw [hl]; rfl)
  · exact (hbyte a).trans (by rw [hn]; rfl)
  · rw [hpoison, Block.mem_poisonG_writeAll]
    simp [covers]

/-- A `.wesf` store of one lane whose granule is full waits for it to be empty (R260). -/
theorem scratchStore_waits {l : Nat} {x : Lane} (ht : c.t w g = [l]) (hx : w.lanes[l]? = some x)
    (hin : w.padAddr b o n l % (4 * n) = 0 ∧ w.padAddr b o n l + 4 * n ≤ la.record.scratch) (hq : q = 2)
    (hg : k.granuleFull (w.padAddr b o n l / 16) = true) :
    ∃ f : Wave → Wave, exec i s = .next ((s.modWave c.r f).dropFromIssues c.r [l]) ∧
      f w = { w with
        lanes := setAt w.lanes l { x with state := .waitGranule (.empty (w.padAddr b o n l / 16)), vpc := c.hdr, slot := c.slot } } := by
  have hW : (q == 2 && k.granuleFull (w.padAddr b o n l / 16)) = true := by rw [hg, hq]; rfl
  have hnone : (fun k : Block => k.storePad w d.toNat n q (w.padAddr b o n) []) = fun k => k := by
    funext k
    simp [Block.storePad, Block.writeAll_nil]
  have hrun := scratchStore_served p hi hf he (by simpa [ht] using hin) (writes := []) (waiting := [l])
    (by rw [ht, List.filter_singleton, hW]; rfl) (by rw [ht, List.filter_singleton, hW]; rfl)
  rw [hnone, modBlock_id] at hrun
  exact ⟨_, hrun, by rw [Wave.modLane, modifyAt_eq_setAt hx]⟩

end Store

/-- A block with granules made full by `fe` of qualifier 1, empty by another (R262). -/
def Block.feGranules (k : Block) (q : BitVec 2) (gs : List Nat) : Block :=
  gs.foldl (fun k x => if q == 1 then k.fillGranule x else k.emptyGranule x) k

theorem feGranules_eq (k : Block) (q : BitVec 2) (gs : List Nat) :
    let t := k.feGranules q gs
    t = { k with feEmpty := t.feEmpty } ∧ ∀ x, x ∈ t.feEmpty ↔ if q = 1 then x ∈ k.feEmpty ∧ x ∉ gs else x ∈ k.feEmpty ∨ x ∈ gs := by
  simp only [Block.feGranules, beq_iff_eq]
  by_cases hq : q = 1
  · simp only [hq, if_true]; exact foldl_fillGranule k gs
  · simp only [hq, if_false]; exact foldl_emptyGranule k gs

/-- The granules of a range that starts and ends at granules. -/
theorem mem_rangeFrom_granules {lo len : Nat} (hlo : lo % 16 = 0) (hlen : len % 16 = 0) (x : Nat) :
    x ∈ rangeFrom (lo / 16) (len / 16) ↔ lo / 16 ≤ x ∧ x < (lo + len) / 16 := by
  rw [mem_rangeFrom]
  omega

section Fe

variable {s : State} {c : Ctx} {w : Wave} {uid j : Nat} {k : Block} {la : Launch} (p : PadWave s c w uid j k la) {d b : BitVec 6} {q : BitVec 2}
  {g : BitVec 4} (hi : LegalFor (.fe d b q g) [b.toNat, d.toNat] [] w) (hf : w.allFull (c.t w g) [b.toNat, d.toNat])
  (hT : ∀ l ∈ c.t w g, (w.reg l b.toNat).toNat % 16 = 0 ∧ (w.reg l d.toNat).toNat % 16 = 0 ∧
    (w.reg l b.toNat).toNat + (w.reg l d.toNat).toNat ≤ la.record.scratch)
include p hi hf hT

/-- `fe` whose lanes' ranges are aligned and inside the allocation acts on their granules. -/
theorem exec_fe : exec (.fe d b q g) s = .next (s.modBlock uid (fun k => k.feGranules q
    ((c.t w g).flatMap (fun l => rangeFrom ((w.reg l b.toNat).toNat / 16) ((w.reg l d.toNat).toNat / 16))))) := by
  have hg : s.gates c w (fun l => [(l, b.toNat), (l, d.toNat)]) (c.t w g) = (c.t w g, s) := gates_full hf
  refine (execWord_alone p.alone hi rfl).trans ?_
  simp only [p.blockOnly, unlessBlocked_free p.free, hg, p.scratchSize]
  rw [List.filter_eq_self.2 fun l hl => by
    obtain ⟨ha, hn, hb⟩ := hT l hl
    simp [ha, hn, Nat.not_lt.2 hb]]
  refine congrArg Host.Outcome.next ((congrArg (State.modBlockOf · c.r _) ?_).trans (by rw [p.ref]; rfl))
  refine List.foldlRecOn (motive := fun t => t = s) _ _ rfl fun t ht l hl => ?_
  obtain ⟨ha, hn, hb⟩ := hT l hl
  simp [ha, hn, Nat.not_lt.2 hb, ht]

/-- Each granule after `fe`: those of the lanes' ranges are full, or empty, and nothing else of the block changes (R262). -/
theorem fe_completes :
    let lo (l : Nat) : Nat := (w.reg l b.toNat).toNat
    let len (l : Nat) : Nat := (w.reg l d.toNat).toNat
    ∃ f : Block → Block, exec (.fe d b q g) s = .next (s.modBlock uid f) ∧ f k = { k with feEmpty := (f k).feEmpty } ∧
      ∀ x, let named : Prop := ∃ l ∈ c.t w g, lo l / 16 ≤ x ∧ x < (lo l + len l) / 16
        (x ∈ (f k).feEmpty ↔ if q = 1 then x ∈ k.feEmpty ∧ ¬ named else x ∈ k.feEmpty ∨ named) := by
  intro lo len
  obtain ⟨hrest, hgran⟩ := feGranules_eq k q ((c.t w g).flatMap (fun l => rangeFrom (lo l / 16) (len l / 16)))
  refine ⟨_, exec_fe p hi hf hT, hrest, fun x => ?_⟩
  have hnamed : x ∈ (c.t w g).flatMap (fun l => rangeFrom (lo l / 16) (len l / 16)) ↔
      ∃ l ∈ c.t w g, lo l / 16 ≤ x ∧ x < (lo l + len l) / 16 :=
    List.mem_flatMap.trans (exists_congr fun l => and_congr_right fun hl => mem_rangeFrom_granules (hT l hl).1 (hT l hl).2.1 x)
  have hx := hgran x
  rwa [hnamed] at hx

end Fe

end Sys2Proof.Machine

namespace Sys2Proof.Proofs

open Sys2Proof.Machine

/-- Settles O45: each width is one scratchpad store, whose lanes write or whose one lane waits for its granule; `fe` acts on the granules of
the lanes' ranges. -/
theorem scratchpadStores : Obligations.ScratchpadStores := by
  intro d b o q g s c w uid j k la h hr hk hl ha hg store hwf
  have p : PadWave s c w uid j k la := ⟨h, hr, hk, hl, ha, hg⟩
  have one {i : Instr} {n : Nat} (he : ∀ s, exec i s = s.scratchStore i d b o q g n) : store i n := by
    intro hi hf
    refine ⟨fun hT => ?writes, fun l x ht hx => scratchStore_waits p hi hf he ht hx⟩
    obtain ⟨f, hx, hrest, hstored, hkept, hgran, hpoison⟩ := scratchStore_completes p hi hf he hwf hT
    refine ⟨f, hx, hrest, fun a => ?_, hgran, hpoison⟩
    split
    · next l hl => exact hstored a l hl
    · next hn => exact hkept a hn
  exact ⟨one fun _ => rfl, one fun _ => rfl, one fun _ => rfl, fun hi hf hT => fe_completes p hi hf hT⟩

end Sys2Proof.Proofs
end

section
/-! SUPPORT. Reads that a wave makes once, at its scalar base, and reads in the background (R269, R270, R272). -/

namespace Sys2Proof.Machine

/-- The address that a scalar load reads, `unit` bytes to a step of the offset (R244). -/
def Wave.scalarAccess (w : Wave) (b o : BitVec 6) (unit : Nat) : Nat :=
  (((w.sreg b.toNat).toNat + 2 ^ 32 * (w.sreg (b.toNat + 1)).toNat + unit * o.toInt : Int) % 2 ^ 64).toNat

theorem Wave.scalarAddr_scalarAccess (w : Wave) (b o : BitVec 6) (unit : Nat) :
    w.scalarAddr b.toNat (offBytes o unit) = w.scalarAccess b o unit := by
  simp [Wave.scalarAddr, Wave.scalarAccess, offBytes, signExt_toNat, natOfInt, Wave.sreg64, pair64, Int.mul_comm]

/-- A lane whose named registers are full passes its gate. -/
theorem Wave.allFull.gate {w : Wave} {ts rs : List Nat} (h : w.allFull ts rs) {l : Nat} (hl : l ∈ ts) (te : Bool) :
    w.gate te (rs.map (fun r => (l, r))) = .go := by
  refine gate_go fun n hn x hx => ?_
  obtain ⟨r, hr, rfl⟩ := List.mem_map.1 hn
  exact h l hl x hx r hr

/-- Lanes whose registers are full all go on. -/
theorem quietGates_full {s : State} {c : Ctx} {w : Wave} {ts rs : List Nat} (h : w.allFull ts rs) :
    s.quietGates c w (fun l => rs.map (fun r => (l, r))) ts = (ts, s) := by
  rw [State.quietGates, Prod.mk.injEq, List.filter_eq_self]
  refine ⟨fun l hl => ?_, List.foldlRecOn (motive := fun t => t = s) ts _ rfl fun t ht l hl => ?_⟩
  · simp [h.gate hl]
  · simp [h.gate hl, ht]

/-- What leaves a wave free for a counted access leaves it free for one that is not counted. -/
theorem Wave.memFree.memBlocked_uncounted {w : Wave} (h : w.memFree) : w.memBlocked false = false := by
  simpa [Wave.memBlocked, h.acquires] using h.waits

section HomeRead

variable {s u : State} {c : Ctx} {w : Wave} {e : TlbEntry} {g : BitVec 4} {va : Nat} (h : Alone s c w) (ht : c.t w g ≠ []) (hm : w.memFree)
  (hx : s.checkAccess (s.coreOf c.r) (s.partOf c.r) (s.spaceOf c.r) va .read = (.ok e, u)) (hp : isPod (e.pa va) = false)
include h ht hm hx hp

/-- A scalar load of an aligned address whose page is at home puts one read in flight that holds the wave (R270). -/
theorem scalarLoad_reads {i : Instr} {d b o : BitVec 6} {sc q : BitVec 2} {size n : Nat}
    (hi : LegalFor i [] (regRun d n ++ basePair b) w) (hva : w.scalarAccess b o size = va) (hv : va % size = 0) :
    s.scalarLoad i d b o sc q g size n = .next (u.launchOp c (.sload d.toNat) sc.toNat q.toNat (q == 1) false (q == 1)
      [OpGroup.open_ (e.pa va / 128) e.attr ((c.t w g).map (fun l => ⟨l, va, e.pa va, size, 0, 0, regRun d n⟩))]) := by
  refine (execWord_alone h hi rfl).trans ?_
  simp only [unlessBlocked_free hm.memBlocked, Wave.scalarAddr_scalarAccess, hva]
  cases hT : c.t w g with
  | nil => exact absurd hT ht
  | cons l ls => simp [hv, hx, hp]

/-- What a scalar load leaves in flight: the clauses of ScalarReadsAndPrefetch for one load, of `n` destinations and `size` bytes. -/
theorem scalarLoad_issues {i : Instr} {d b o : BitVec 6} {sc q : BitVec 2} {size n : Nat}
    (he : ∀ s, exec i s = s.scalarLoad i d b o sc q g size n) (hi : LegalFor i [] (rangeFrom d.toNat n ++ [b.toNat, b.toNat + 1]) w)
    (hva : w.scalarAccess b o size = va) (hv : va % size = 0) :
    ∃ op : MemOp, PutsInFlight i s u c op [] [] true ∧ OpAt u c op (.sload d.toNat) sc.toNat q.toNat true ∧
      op.acquire = decide (q = 1) ∧ op.release = false ∧
      op.groups = [OpGroup.open_ (e.pa va / 128) e.attr
        ((c.t w g).map (fun l => ⟨l, va, e.pa va, size, 0, 0, rangeFrom d.toNat n⟩))] ∧ u.mem = s.mem :=
  ⟨_, putOp_inFlight ((he s).trans (scalarLoad_reads h ht hm hx hp hi hva hv)) rfl, newOp_opAt _ _ _ _ _ _ _ _ _, rfl, rfl, rfl,
    State.checkAccess_mem hx⟩

/-- `tdset` of an image at an aligned address whose page is at home puts one uncounted read in flight that holds the wave (R272). -/
theorem exec_tdset_reads {t : BitVec 4} {b : BitVec 6} (hi : LegalFor (.tdset t b g) [] [b.toNat, b.toNat + 1] w)
    (hh : isHandler c.r = false) (hva : w.sreg64 b.toNat = va) (hv : va % 64 = 0) :
    exec (.tdset t b g) s = .next (u.putOp c (fun id => s.newOp c id (.tdset t.toNat) 3 0 false false
      [OpGroup.open_ (e.pa va / 128) e.attr ((c.t w g).map (fun l => ⟨l, va, e.pa va, 64, 0, 0, []⟩))] false) true) := by
  refine (execWord_alone h hi rfl).trans ?_
  simp [State.blockOnly, hh, unlessBlocked_free hm.memBlocked_uncounted, hva, ht, hv, hx, hp]

end HomeRead

/-- `pref` with full base registers: its lanes' reads, where there are any, are in flight in one uncounted operation (R269). -/
theorem exec_pref_reads {s : State} {c : Ctx} {w : Wave} (h : Alone s c w) (hm : w.memFree) {b o : BitVec 6} {sc q : BitVec 2}
    {g : BitVec 4} (hi : LegalFor (.pref b o sc q g) (basePair b) [] w) (hf : w.allFull (c.t w g) (basePair b)) :
    exec (.pref b o sc q g) s = .next (
      let v := s.prefLanes c (w.accessAddr b o 128) (c.t w g)
      if v.1.isEmpty then v.2
      else { v.2 with next := v.2.next + 1, memOps := v.2.memOps ++ [v.2.newOp c v.2.next (.prefetch (if sc.toNat < 2 then 1 else 2)) 0
        q.toNat false false (groupServed v.1 (fun x => x.opLane 0 0 0 [])) false] }) := by
  refine (execWord_alone h hi rfl).trans ?_
  simp only [unlessBlocked_free hm.memBlocked_uncounted, quietGates_full hf, Wave.globalAddr_accessAddr]
  rfl

end Sys2Proof.Machine

namespace Sys2Proof.Proofs

open Sys2Proof.Machine

/-- Settles O42: each width of `sld` is one scalar load, `tdset` another read at the scalar base, and `pref` an operation that no wave counts. -/
theorem scalarReadsAndPrefetch : Obligations.ScalarReadsAndPrefetch := by
  intro d b o sc q t g s c w h ht hm near sload
  have one {i : Instr} {size n : Nat} (he : ∀ s, exec i s = s.scalarLoad i d b o sc q g size n) : sload i size n :=
    fun hi hv _ _ ⟨hx, hp⟩ => scalarLoad_issues h ht hm hx hp he hi rfl hv
  refine ⟨one fun _ => rfl, one fun _ => rfl, one fun _ => rfl, fun hi hh hv e u ⟨hx, hp⟩ => ?tdset, fun hi hf => ?pref⟩
  case tdset =>
    exact ⟨_, putOp_inFlight (exec_tdset_reads h ht hm hx hp hi hh rfl hv) rfl, rfl, rfl, rfl, rfl, rfl, rfl,
      State.checkAccess_mem hx, rfl⟩
  case pref =>
    have hrun := exec_pref_reads (o := o) (sc := sc) (q := q) h hm hi hf
    exact ⟨fun hv => hrun.trans (congrArg _ (if_pos (List.isEmpty_iff.2 hv))), fun hv =>
      ⟨_, hrun.trans (congrArg _ (if_neg (mt List.isEmpty_iff.1 hv))), newOp_opAt _ _ _ _ _ _ _ _ _, rfl, rfl, rfl⟩⟩

end Sys2Proof.Proofs
end

section
/-! SUPPORT. The groups of an MX access: those that stand at their places in one block, and the lanes and blocks of the lines they make
(R193, R256, R257, R258). -/

namespace Sys2Proof.Machine

theorem mem_sortDedup {a : Nat} {l : List Nat} : a ∈ sortDedup l ↔ a ∈ l := by
  induction l with
  | nil => simp [sortDedup]
  | cons x l ih => rw [sortDedup, List.foldr_cons, ← sortDedup, mem_insertSorted, ih, List.mem_cons]

/-- The groups of an MX access that some served lanes form: those of lanes whose page is bound and tolerant with a block that fits (R256). -/
def Wave.mxFormed (w : Wave) (sv : List Served) : List (List Served) := mxGroups 64 (sv.filter (fun x => w.mxPageOk x.entry.attr))

/-- The groups that stand at their places in one block (R256). -/
def Wave.mxPlaced (w : Wave) (sv : List Served) : List (List Served) := (w.mxFormed sv).filter (fun y => (mxAnchor y).isSome)

/-- The traps of an MX access: the lanes of other pages, then the lanes of the other groups (R246, R256). -/
def State.mxTrapped (u : State) (c : Ctx) (w : Wave) (sv : List Served) : State :=
  (((w.mxFormed sv).filter (fun y => (mxAnchor y).isNone)).flatten).foldl (fun u x => u.takeTraps c.r [x.lane] c.hdr c.slot 0x0A 0 x.va)
    ((sv.filter (fun x => !w.mxPageOk x.entry.attr)).foldl (fun u x => u.takeTraps c.r [x.lane] c.hdr c.slot 0x0F 0 0) u)

/-- Groups each with its anchor. -/
def mxAnchored (gs : List (List Served)) : List (List Served × Nat) := gs.filterMap (fun y => (mxAnchor y).map (fun a => (y, a)))

theorem mem_mxAnchored {gs : List (List Served)} {p : List Served × Nat} : p ∈ mxAnchored gs ↔ p.1 ∈ gs ∧ mxAnchor p.1 = some p.2 := by
  simp only [mxAnchored, List.mem_filterMap, Option.map_eq_some_iff]
  constructor
  · rintro ⟨y, hy, a, ha, rfl⟩
    exact ⟨hy, ha⟩
  · rintro ⟨hy, ha⟩
    exact ⟨p.1, hy, p.2, ha, rfl⟩

/-- A group that stands at its place is anchored. -/
theorem anchored_of_placed {gs : List (List Served)} {y : List Served} (hy : y ∈ gs.filter (fun y => (mxAnchor y).isSome)) :
    (y, (mxAnchor y).getD 0) ∈ mxAnchored gs := by
  obtain ⟨hg, hs⟩ := List.mem_filter.1 hy
  obtain ⟨a, ha⟩ := Option.isSome_iff_exists.1 hs
  exact mem_mxAnchored.2 ⟨hg, by simp [ha]⟩

theorem placed_of_anchored {gs : List (List Served)} {p : List Served × Nat} (hp : p ∈ mxAnchored gs) :
    p.1 ∈ gs.filter (fun y => (mxAnchor y).isSome) := by
  obtain ⟨hg, ha⟩ := mem_mxAnchored.1 hp
  exact List.mem_filter.2 ⟨hg, by simp [ha]⟩

/-- No group is anchored exactly when none stands at its place. -/
theorem mxAnchored_isEmpty (gs : List (List Served)) : (mxAnchored gs).isEmpty = true ↔ gs.filter (fun y => (mxAnchor y).isSome) = [] := by
  rw [List.isEmpty_iff]
  exact ⟨fun h => List.eq_nil_iff_forall_not_mem.2 fun y hy => by simpa [h] using anchored_of_placed hy,
    fun h => List.eq_nil_iff_forall_not_mem.2 fun p hp => by simpa [h] using placed_of_anchored hp⟩

/-- With the registers of the placed groups' octets full, these groups are the ones that take effect, and the lanes of the others trap with
cause 0x0A (R256). -/
theorem mxPass_full {c : Ctx} {w : Wave} {needs : Served → List (Nat × Nat)} {gs : List (List Served)}
    (h : ∀ y ∈ gs, (mxAnchor y).isSome → ∀ m ∈ y.head?, w.gate c.te (needs m) = .go) (s : State) :
    s.mxPass c w needs gs = (mxAnchored gs, ((gs.filter (fun y => (mxAnchor y).isNone)).flatten).foldl
      (fun u x => u.takeTraps c.r [x.lane] c.hdr c.slot 0x0A 0 x.va) s) := by
  induction gs generalizing s with
  | nil => rfl
  | cons y gs ih =>
    have ih := ih fun z hz => h z (List.mem_cons_of_mem y hz)
    cases ha : mxAnchor y with
    | none =>
      have hrun : s.mxPass c w needs (y :: gs) = (y.foldl (fun s x => s.trapAt c [x.lane] 0x0A 0 x.va) s).mxPass c w needs gs := by
        cases y <;> simp [State.mxPass, ha]
      rw [hrun, ih]
      simp [mxAnchored, ha, State.trapAt]
    | some a =>
      obtain ⟨m, y, rfl⟩ : ∃ m z, y = m :: z := by
        cases y with
        | nil => cases ha
        | cons m z => exact ⟨m, z, rfl⟩
      have hgo : w.gate c.te (needs m) = .go := h (m :: y) (by simp) (by simp [ha]) m (by simp)
      have hsame (t : State) (l : List Served) : l.foldl (fun s x => s.passGate c x.lane .go) t = t :=
        List.foldlRecOn (motive := fun u => u = t) l _ rfl fun u hu _ _ => hu
      simp only [State.mxPass, ha, hgo, hsame, ih]
      simp [mxAnchored, ha]

/-- A group's line: the entry of its number has the parts of all its lanes, and its block. -/
theorem mxLines_of_group (ps : List (List Served × Nat)) (mk : Served → OpLane) (code : Served → Nat) (extra : Served → List OpLane)
    {p : List Served × Nat} (hp : p ∈ ps) {m : Served} (hm : m ∈ p.1.head?) :
    ∃ z ∈ mxLines ps mk code extra, z.line = m.pa / 128 ∧ (∀ x ∈ p.1, mk x ∈ z.lanes) ∧ mxBlock m p.2 (code m) ∈ z.blocks := by
  have hline : ((p.1.head?).map (fun x => x.pa / 128)).getD 0 = m.pa / 128 := by simp [Option.mem_def.1 hm]
  have hmine : p ∈ ps.filter (fun g => ((g.1.head?).map (fun x => x.pa / 128)).getD 0 == m.pa / 128) :=
    List.mem_filter.2 ⟨hp, by simp [hline]⟩
  refine ⟨_, List.mem_map.2 ⟨m.pa / 128, mem_sortDedup.2 (List.mem_map.2 ⟨p, hp, hline⟩), rfl⟩, rfl, fun x hx => ?_, ?_⟩
  · exact List.mem_flatMap.2 ⟨p, hmine, List.mem_append_left _ (List.mem_map_of_mem hx)⟩
  · exact List.mem_flatMap.2 ⟨p, hmine, by simp [Option.mem_def.1 hm]⟩

end Sys2Proof.Machine
end

section
/-! SUPPORT. What `ld.mx` and `st.mx` put in flight (R256, R257, R258). -/

namespace Sys2Proof.Machine

/-- The lanes of groups. -/
def mxServed (ps : List (List Served × Nat)) : List Nat := ps.flatMap (fun p => p.1.map (·.lane))

/-- The lanes that head the octets of groups' rail slots and are in no group (R193, R257). -/
def mxHeads (ps : List (List Served × Nat)) : List Nat :=
  (sortDedup (ps.flatMap (fun p => ((p.1.head?).map mxOctetLanes).getD []))).filter (fun l => !(mxServed ps).contains l)

/-- The parts of lanes that only head an octet of a group's rail slots: of no bytes, to be made full when the operation returns. -/
def mxKept (ps : List (List Served × Nat)) (d : Nat) (x : Served) : List OpLane :=
  ((mxOctetLanes x).filter (fun l => (mxHeads ps).contains l)).map (fun l => ⟨l, x.va, 0, 0, 0, 0, [d]⟩)

/-- The lanes whose destination an `ld.mx` leaves empty until it returns: those of its groups, and those that head their rails' octets. -/
theorem mem_mxServed_mxHeads {gs : List (List Served)} {l : Nat} :
    l ∈ mxServed (mxAnchored gs) ++ mxHeads (mxAnchored gs) ↔
      ∃ y ∈ gs.filter (fun y => (mxAnchor y).isSome), (∃ x ∈ y, x.lane = l) ∨ ∃ m ∈ y.head?, l ∈ mxOctetLanes m := by
  have hserved : l ∈ mxServed (mxAnchored gs) ↔ ∃ p ∈ mxAnchored gs, ∃ x ∈ p.1, x.lane = l := by simp [mxServed]
  have hoctets (y : List Served) : l ∈ ((y.head?).map mxOctetLanes).getD [] ↔ ∃ m ∈ y.head?, l ∈ mxOctetLanes m := by
    cases y <;> simp
  have hunion : l ∈ mxServed (mxAnchored gs) ++ mxHeads (mxAnchored gs) ↔
      l ∈ mxServed (mxAnchored gs) ∨ ∃ p ∈ mxAnchored gs, ∃ m ∈ p.1.head?, l ∈ mxOctetLanes m := by
    simp only [List.mem_append, mxHeads, List.mem_filter, mem_sortDedup, List.mem_flatMap, hoctets, Bool.not_eq_true',
      ← Bool.not_eq_true, List.contains_iff_mem]
    tauto
  rw [hunion, hserved]
  constructor
  · rintro (⟨p, hp, hx⟩ | ⟨p, hp, hm⟩)
    · exact ⟨p.1, placed_of_anchored hp, .inl hx⟩
    · exact ⟨p.1, placed_of_anchored hp, .inr hm⟩
  · rintro ⟨y, hy, hx | hm⟩
    · exact .inl ⟨_, anchored_of_placed hy, hx⟩
    · exact .inr ⟨_, anchored_of_placed hy, hm⟩

section Issue

variable {s : State} {c : Ctx} {w : Wave} {d b o : BitVec 6} {sc q : BitVec 2} {g : BitVec 4} (h : Alone s c w) (hm : w.memFree)
  (hf : w.allFull (c.t w g) (d.toNat :: basePair b))
include h hm hf

/-- `ld.mx` of a wave that is free, whose registers are full and those of the placed groups' octets too (R257). -/
theorem exec_ldMx (hi : LegalFor (.ldMx d b o sc q g) (d.toNat :: basePair b) [] w) {v : List Served × State}
    (hv : s.admitLanes c 4 .read none (w.accessAddr b o 4) (c.t w g) = v)
    (hrail : ∀ y ∈ w.mxPlaced v.1, ∀ m ∈ y.head?, ∀ l ∈ mxOctetLanes m, ∀ x : Lane, w.lanes[l]? = some x → x.isFull d.toNat = true) :
    exec (.ldMx d b o sc q g) s = .next (
      let ps := mxAnchored (w.mxFormed v.1)
      let u := (v.2.mxTrapped c w v.1).faultDests c (c.t w g) ((w.mxPlaced v.1).flatMap (fun y => y.map (·.lane))) [d.toNat]
      if ps.isEmpty then u
      else (u.emptyDests c (mxServed ps ++ mxHeads ps) [d.toNat]).launchOp c .loadMx sc.toNat q.toNat (q == 1) false (q == 1)
        (mxLines ps (fun x => x.opLane 4 0 0 [d.toNat]) (fun _ => 0) (mxKept ps d.toNat))) := by
  have hgate : ∀ y ∈ w.mxFormed v.1, (mxAnchor y).isSome → ∀ m ∈ y.head?, w.gate c.te
      (((mxOctetLanes m).filter (fun l => !(w.ldsMarks c l).contains d.toNat)).map (fun l => (l, d.toNat))) = .go := by
    refine fun y hy ha m hm => gate_go fun n hn x hx => ?_
    obtain ⟨l, hl, rfl⟩ := List.mem_map.1 hn
    exact hrail y (List.mem_filter.2 ⟨hy, ha⟩) m hm l (List.mem_of_mem_filter hl) x hx
  refine (execWord_alone h hi rfl).trans ?_
  simp only [unlessBlocked_free hm.memBlocked, gates_ownNeeds hf, Wave.globalAddr_accessAddr, hv, State.mxAdmit]
  rw [show mxGroups 64 (v.1.filter (fun x => w.mxPageOk x.entry.attr)) = w.mxFormed v.1 from rfl, mxPass_full hgate]
  rfl

/-- `st.mx` of a wave that is free, whose registers are full and those that hold the placed groups' scale codes too (R258). -/
theorem exec_stMx (hi : LegalFor (.stMx d b o sc q g) (d.toNat :: basePair b) [] w) {v : List Served × State}
    (hv : s.admitLanes c 4 .write none (w.accessAddr b o 4) (c.t w g) = v)
    (hrail : ∀ y ∈ w.mxPlaced v.1, ∀ m ∈ y.head?, ∀ x : Lane,
      w.lanes[8 * (leadSlot (m.entry.attr.bfmt == 3) m.entry.attr.bk m.lane).1]? = some x → x.isFull d.toNat = true) :
    exec (.stMx d b o sc q g) s = .next (
      let ps := mxAnchored (w.mxFormed v.1)
      let u := v.2.mxTrapped c w v.1
      let r := u.storeL1 c q.toNat (mxLines ps (fun x => x.opLane 4 (w.reg x.lane d.toNat).toNat 0 [])
        (fun x => w.blockScale (x.entry.attr.bfmt == 3) x.entry.attr.bk d.toNat x.lane) (fun _ => []))
      if ps.isEmpty then u
      else r.2.launchOp c .storeMx sc.toNat q.toNat false (q == 1) (q == 1) r.1) := by
  have hgate : ∀ y ∈ w.mxFormed v.1, (mxAnchor y).isSome → ∀ m ∈ y.head?,
      w.gate c.te [(8 * (leadSlot (m.entry.attr.bfmt == 3) m.entry.attr.bk m.lane).1, d.toNat)] = .go := by
    refine fun y hy ha m hm => gate_go fun n hn x hx => ?_
    obtain rfl := List.mem_singleton.1 hn
    exact hrail y (List.mem_filter.2 ⟨hy, ha⟩) m hm x hx
  refine (execWord_alone h hi rfl).trans ?_
  simp only [unlessBlocked_free hm.memBlocked, gates_full hf, Wave.globalAddr_accessAddr, hv, State.mxAdmit]
  rw [show mxGroups 64 (v.1.filter (fun x => w.mxPageOk x.entry.attr)) = w.mxFormed v.1 from rfl, mxPass_full hgate]
  rfl

end Issue

/-- A group that a store has taken to the L1 differs from its own in the mark alone. -/
theorem State.mem_storeL1 (s : State) (c : Ctx) (qual : Nat) {gs : List OpGroup} {z : OpGroup} (hz : z ∈ gs) :
    ∃ y ∈ (s.storeL1 c qual gs).1, ∃ k, z = { y with l1 := k } := by
  obtain ⟨-, -, hgs⟩ := s.storeL1_keeps c qual gs
  have hmem : { z with l1 := false } ∈ (s.storeL1 c qual gs).1.map (fun y => { y with l1 := false }) :=
    hgs ▸ List.mem_map_of_mem hz
  obtain ⟨y, hy, he⟩ := List.mem_map.1 hmem
  exact ⟨y, hy, z.l1, congrArg (fun x : OpGroup => { x with l1 := z.l1 }) he.symm⟩

/-- Lanes in none of some groups keep their destinations empty. -/
theorem faultDests_ungrouped (u : State) (c : Ctx) (ts : List Nat) (gs : List (List Served)) (rs : List Nat) :
    DestsKept u (u.faultDests c ts (gs.flatMap (fun y => y.map (·.lane))) rs) c
      (ts.filter (fun l => !gs.any (fun y => y.any (fun x => x.lane == l)))) rs := by
  have hf : ts.filter (fun l => !(gs.flatMap (fun y => y.map (·.lane))).contains l) =
      ts.filter (fun l => !gs.any (fun y => y.any (fun x => x.lane == l))) :=
    List.filter_congr fun l _ => congrArg not (Bool.eq_iff_iff.2 (by simp))
  exact hf ▸ faultDests_kept u c ts _ rs

end Sys2Proof.Machine

namespace Sys2Proof.Proofs

open Sys2Proof.Machine

/-- Settles O41: the placed groups are the anchored ones, whose lines bear their lanes and blocks; a store's lines lose at most the mark of the
L1. -/
theorem mxAccesses : Obligations.MxAccesses := by
  intro d b o sc q g s c w h ht hm vr T addr admitted fits groups placed trapped four side hf
  refine ⟨?load, ?store⟩
  case load =>
    intro hi v gs hrail
    have hrun := exec_ldMx h hm hf hi (v := v) rfl hrail
    refine ⟨_, faultDests_ungrouped (trapped v.1 v.2) c T gs [d.toNat], fun hgs => ?none, fun hgs => ?some⟩
    case none => exact hrun.trans (congrArg _ (if_pos ((mxAnchored_isEmpty _).2 hgs)))
    case some =>
      have he := hrun.trans (congrArg _ (if_neg (mt (mxAnchored_isEmpty _).1 hgs)))
      refine ⟨_, _, emptyDests_putOp_inFlight he rfl, ?_⟩
      simp only [State.emptyDests, newOp_modWave]
      refine ⟨newOp_opAt _ _ _ _ _ _ _ _ _, rfl, rfl, fun l => mem_mxServed_mxHeads, fun y hy m hm => ?_⟩
      obtain ⟨z, hz, hline, hlanes, hblock⟩ := mxLines_of_group _ _ _ _ (anchored_of_placed hy) hm
      exact ⟨z, hz, hline, hlanes, _, hblock, rfl⟩
  case store =>
    intro hi v gs hrail
    have hrun := exec_stMx h hm hf hi (v := v) rfl hrail
    refine ⟨fun hgs => ?none, fun hgs => ?some⟩
    case none => exact hrun.trans (congrArg _ (if_pos ((mxAnchored_isEmpty _).2 hgs)))
    case some =>
      have he := hrun.trans (congrArg _ (if_neg (mt (mxAnchored_isEmpty _).1 hgs)))
      obtain ⟨hmem, hops, -⟩ := (trapped v.1 v.2).storeL1_keeps c q.toNat _
      refine ⟨_, _, putOp_inFlight he rfl, newOp_opAt _ _ _ _ _ _ _ _ _, rfl, rfl, hmem, hops, fun y hy m hm => ?_⟩
      obtain ⟨z, hz, hline, hlanes, hblock⟩ := mxLines_of_group _ _ _ _ (anchored_of_placed hy) hm
      obtain ⟨x, hx, _, rfl⟩ := State.mem_storeL1 _ c q.toNat hz
      exact ⟨x, hx, hline, hlanes, _, hblock, rfl, rfl⟩

end Sys2Proof.Proofs
end

section
/-! SUPPORT. What a 32-bit atomic leaves in a scratchpad, and atomics of several lanes made in order (R266, Table 11.4). -/

namespace Sys2Proof.Machine

/-- A number written as little-endian bytes reads back as far as they hold it. -/
theorem ofBytesLE_cellPut {c : Cells Byte} (hc : cellsWf 0 c = true) (a n x : Nat) :
    ofBytesLE (cellRun 0 (cellPut 0 c a (bytesLE n x)) a n) = x % 256 ^ n := by
  induction n generalizing c a x with
  | zero => simp [cellRun, ofBytesLE, Nat.mod_one]
  | succ n ih =>
    have hset := cellSet_wf 0 c a (BitVec.ofNat 8 x) hc
    have hhead : cellGet 0 (cellPut 0 (cellSet 0 c a (BitVec.ofNat 8 x)) (a + 1) (bytesLE n (x / 256))) a = BitVec.ofNat 8 x := by
      rw [cellGet_cellPut 0 _ _ _ _ hset, if_neg (by omega), cellGet_cellSet 0 c a a _ hc, if_pos rfl]
    simp only [bytesLE, cellPut, cellRun, ofBytesLE, hhead, ih hset, BitVec.toNat_ofNat, pow_succ']
    exact (Nat.mod_mul).symm

theorem Block.scratchNat_lt (k : Block) (off : Nat) : k.scratchNat off 4 < 2 ^ 32 := ofBytesLE_cellRun_lt k.scratch off 4

/-- A word put into a scratchpad reads back. -/
theorem Block.scratchNat_putScratch {k : Block} (hk : cellsWf 0 k.scratch = true) (off x : Nat) :
    BitVec.ofNat 32 ((k.putScratch off (bytesLE 4 x)).scratchNat off 4) = BitVec.ofNat 32 x := by
  apply BitVec.eq_of_toNat_eq
  rw [Block.scratchNat, Block.scratchBytes, Block.putScratch, ofBytesLE_cellPut hk, BitVec.toNat_ofNat, BitVec.toNat_ofNat]
  exact Nat.mod_mod x _

/-- The 32 bits of a word as a signed number. -/
theorem signExt_word (x : Word) : signExt x.toNat 32 = x.toInt := by
  have hx := x.isLt
  simp only [signExt, BitVec.toInt, Nat.mod_eq_of_lt hx]
  split <;> split <;> omega

/-- The word that a 32-bit atomic writes, none when it writes nothing (Table 11.4). -/
def atomWord (sub : Nat) (old x y : Word) : Option Word :=
  match sub with
  | 0 => some (old + x)
  | 1 => some (BitVec.ofNat 32 (roundResult fp32 ((decodeFmt fp32 old.toNat).add false (decodeFmt fp32 x.toNat)) .rne false false).1)
  | 2 => some (if old.toInt ≤ x.toInt then old else x)
  | 3 => some (if old.toInt ≤ x.toInt then x else old)
  | 4 => some (if old.toNat ≤ x.toNat then old else x)
  | 5 => some (if old.toNat ≤ x.toNat then x else old)
  | 6 => some (old &&& x)
  | 7 => some (old ||| x)
  | 8 => some (old ^^^ x)
  | 9 => some x
  | _ => if old = x then some y else none

/-- The greater of two words is either when they are equal. -/
theorem ite_le_comm {β : Type} [LinearOrder β] {f : Word → β} (hf : Function.Injective f) (x y : Word) :
    (if f x ≤ f y then y else x) = if f y ≤ f x then x else y := by
  rcases lt_trichotomy (f x) (f y) with h | h | h
  · rw [if_pos h.le, if_neg h.not_ge]
  · rw [hf h, if_pos le_rfl]
  · rw [if_neg h.not_ge, if_pos h.le]

/-- The model's atomic on numbers is the one on words. -/
theorem atomNew_word (sub : Nat) (old x y : Word) :
    (atomNew sub false old.toNat x.toNat y.toNat).map (BitVec.ofNat 32) = atomWord sub old x y := by
  have hif (p : Prop) [Decidable p] (a b : Word) : BitVec.ofNat 32 (if p then a.toNat else b.toNat) = if p then a else b := by
    split <;> simp
  match sub with
  | 0 => exact congrArg some (BitVec.eq_of_toNat_eq (by simp [BitVec.toNat_add]))
  | 1 => rfl
  | 2 => simp [atomNew, atomWord, signExt_word, hif]
  | 3 => simp [atomNew, atomWord, signExt_word, hif, ite_le_comm (fun _ _ => BitVec.eq_of_toInt_eq) old x]
  | 4 => simp [atomNew, atomWord, hif]
  | 5 => simp [atomNew, atomWord, hif, ite_le_comm (fun _ _ => BitVec.eq_of_toNat_eq) old x]
  | 6 => simp [atomNew, atomWord]
  | 7 => simp [atomNew, atomWord]
  | 8 => simp [atomNew, atomWord]
  | 9 => simp [atomNew, atomWord]
  | sub + 10 =>
    simp only [atomNew, atomWord, BitVec.toNat_inj]
    split <;> simp

section OneAtomic

variable (k : Block) (sub off x y : Nat)

/-- An atomic gives the word that stood at its offset. -/
theorem Block.scratchAtom_old : (k.scratchAtom sub off x y).2 = k.scratchNat off 4 := by
  rw [Block.scratchAtom]
  split <;> rfl

/-- An atomic puts the word that it makes, if it makes one. -/
theorem Block.scratchAtom_block : (k.scratchAtom sub off x y).1 =
    ((atomNew sub false (k.scratchNat off 4) x y).map (fun z => k.putScratch off (bytesLE 4 z))).getD k := by
  cases h : atomNew sub false (k.scratchNat off 4) x y <;> simp [Block.scratchAtom, h]

/-- The bytes outside its word are as before an atomic. -/
theorem Block.scratchAtom_outside (hk : cellsWf 0 k.scratch = true) {a : Nat} (ha : a < off ∨ off + 4 ≤ a) :
    cellGet 0 (k.scratchAtom sub off x y).1.scratch a = cellGet 0 k.scratch a := by
  rw [Block.scratchAtom_block]
  cases atomNew sub false (k.scratchNat off 4) x y with
  | none => rfl
  | some z =>
    refine (cellGet_cellPut 0 _ _ _ _ hk).trans (if_neg ?_)
    rw [length_bytesLE]
    omega

/-- The word at an atomic's offset after it: the one it makes, or the old one. -/
theorem Block.scratchAtom_word (hk : cellsWf 0 k.scratch = true) (x y : Word) :
    BitVec.ofNat 32 ((k.scratchAtom sub off x.toNat y.toNat).1.scratchNat off 4) =
      (atomWord sub (BitVec.ofNat 32 (k.scratchNat off 4)) x y).getD (BitVec.ofNat 32 (k.scratchNat off 4)) := by
  have hold : k.scratchNat off 4 = (BitVec.ofNat 32 (k.scratchNat off 4)).toNat :=
    (Nat.mod_eq_of_lt (k.scratchNat_lt off)).symm
  have hnew := atomNew_word sub (BitVec.ofNat 32 (k.scratchNat off 4)) x y
  rw [← hold] at hnew
  rw [Block.scratchAtom_block, ← hnew]
  cases atomNew sub false (k.scratchNat off 4) x.toNat y.toNat with
  | none => rfl
  | some z => exact Block.scratchNat_putScratch hk off z

end OneAtomic

/-- The lanes of atomics made in order, each with its old word. -/
theorem Block.scratchAtoms_lanes (k : Block) (sub : Nat) (arg : Nat → Nat × Nat × Nat) (ls : List Nat) :
    (k.scratchAtoms sub arg ls).2.map Prod.fst = ls := by
  induction ls generalizing k with
  | nil => rfl
  | cons l ls ih => exact congrArg (l :: ·) (ih _)

/-- The first of atomics made in order, and those after it. -/
theorem Block.scratchAtoms_cons (k : Block) (sub : Nat) (arg : Nat → Nat × Nat × Nat) (l : Nat) (ls : List Nat) :
    k.scratchAtoms sub arg (l :: ls) = (((k.scratchAtoms sub arg [l]).1.scratchAtoms sub arg ls).1,
      (l, k.scratchNat (arg l).1 4) :: ((k.scratchAtoms sub arg [l]).1.scratchAtoms sub arg ls).2) := by
  rw [← k.scratchAtom_old sub (arg l).1 (arg l).2.1 (arg l).2.2]
  rfl

/-- An old word is found for the lanes of the atomics and for no others. -/
theorem Block.scratchAtoms_find? (k : Block) (sub : Nat) (arg : Nat → Nat × Nat × Nat) (ls : List Nat) (l : Nat) :
    ((k.scratchAtoms sub arg ls).2.find? (fun x => x.1 == l)).isSome = true ↔ l ∈ ls := by
  conv_rhs => rw [← k.scratchAtoms_lanes sub arg ls]
  simp [List.find?_isSome]

end Sys2Proof.Machine
end

section
/-! SUPPORT. `satom` and `ratom` of a block's wave executing alone: what acts at once and what is in flight (R248, R249, R261, R266, R267). -/

namespace Sys2Proof.Machine

/-- What is read of a block and does not speak of its scratchpad is as before the scratchpad changed. -/
theorem block?_scratch (s : State) (uid u : Nat) (cells : Cells Byte) {β : Type} {f : Block → β}
    (hf : ∀ k : Block, f { k with scratch := cells } = f k) :
    ((s.modBlock uid (fun k => { k with scratch := cells })).block? u).map f = (s.block? u).map f := by
  rw [s.block?_modBlock uid u (fun k => { k with scratch := cells }) fun _ => rfl]
  split
  · next hu =>
    subst hu
    rw [Option.map_map]
    exact congrArg (Option.map · _) (funext hf)
  · rfl

/-- An operation bears nothing of a block's scratchpad. -/
theorem newOp_scratch (s : State) (c : Ctx) (uid : Nat) (cells : Cells Byte) (id : Nat) (kind : MemKind) (scope qual : Nat)
    (acq rel : Bool) (gs : List OpGroup) (counted : Bool) :
    (s.modBlock uid (fun k => { k with scratch := cells })).newOp c id kind scope qual acq rel gs counted =
      s.newOp c id kind scope qual acq rel gs counted := by
  have hcore (r : WaveRef) : (s.modBlock uid (fun k => { k with scratch := cells })).coreOf r = s.coreOf r := by
    cases r with
    | hdl c q => rfl
    | blk u j => exact congrArg (·.getD 0) (block?_scratch s uid u cells (f := (·.core)) fun _ => rfl)
  have hkey (r : WaveRef) : (s.modBlock uid (fun k => { k with scratch := cells })).launchKey r = s.launchKey r := by
    cases r with
    | hdl c q => rfl
    | blk u j => exact block?_scratch s uid u cells (f := (·.launch)) fun _ => rfl
  have hlaunch (r : WaveRef) : (s.modBlock uid (fun k => { k with scratch := cells })).launchOf r = s.launchOf r := by
    rw [State.launchOf, hkey]
    rfl
  simp only [State.newOp, hcore, hkey, State.partOf, State.spaceOf, hlaunch]

/-- A fold whose steps leave a value leaves it. -/
theorem foldl_eq_self {α β : Type} {f : β → α → β} {x : β} {l : List α} (h : ∀ a ∈ l, f x a = x) : l.foldl f x = x :=
  List.foldlRecOn (motive := fun y => y = x) l f rfl fun _ hy a ha => hy ▸ h a ha

/-- A lane's offset, operand and swap word for a scratchpad atomic. -/
def Wave.atomArgs (w : Wave) (d b : BitVec 6) (l : Nat) : Nat × Nat × Nat :=
  ((w.reg l b.toNat).toNat, (w.reg l d.toNat).toNat, (w.reg l (d.toNat + 1)).toNat)

/-- The register to which an atomic returns the old word (R250). -/
def atomBack (d : BitVec 6) (q : BitVec 2) : List Nat := if q = 1 ∨ q = 2 then [d.toNat] else []

theorem atomBack_eq (d : BitVec 6) (q : BitVec 2) : (if (q == 1 || q == 2) = true then [d.toNat] else []) = atomBack d q := by
  simp [atomBack]

/-- A returning atomic with order is one of qualifier 2. -/
theorem order_of_atomBack {d : BitVec 6} {q : BitVec 2} (h : atomBack d q ≠ []) : (q == 2 || q == 3) = decide (q = 2) := by
  have hq : q = 1 ∨ q = 2 := by
    by_contra hn
    exact h (if_neg hn)
  rcases hq with rfl | rfl <;> rfl

/-- The block that a lane of `ratom` names. -/
def State.atomTarget (s : State) (c : Ctx) (w : Wave) (b : BitVec 6) (l : Nat) : Option Block :=
  s.clusterBlock c.r (w.reg l (b.toNat + 1)).toNat

/-- A lane of `ratom` that acts at once: without order, it names its own block (R249). -/
def State.atomNear (s : State) (c : Ctx) (w : Wave) (b : BitVec 6) (q : BitVec 2) (uid l : Nat) : Bool :=
  decide (q ≠ 2 ∧ q ≠ 3) && (s.atomTarget c w b l).map (·.uid) == some uid

/-- A lane's address in `ratom`: the block that it names above the offset. -/
def State.atomPlace (s : State) (c : Ctx) (w : Wave) (b : BitVec 6) (l : Nat) : Nat :=
  ((s.atomTarget c w b l).map (·.uid)).getD 0 * 2 ^ 22 + (w.reg l b.toNat).toNat

/-- A lane's message of `ratom`: performed with the old word that is given for the lane, or open when none is. -/
def State.ratomGroup (s : State) (c : Ctx) (w : Wave) (d b : BitVec 6) (q : BitVec 2) (olds : List (Nat × Nat)) (l : Nat) : OpGroup :=
  let a := w.atomArgs d b l
  match olds.find? (fun x => x.1 == l) with
  | some x => .doneAt l a.1 (s.atomPlace c w b l) a.2.1 a.2.2 (atomBack d q) x.2
  | none => .open_ l .plain [⟨l, a.1, s.atomPlace c w b l, 4, a.2.1, a.2.2, atomBack d q⟩]

/-- The messages of lanes of which some have acted at once: performed for these, and open for the others. -/
theorem ratomGroup_near (s : State) (c : Ctx) (w : Wave) (d b : BitVec 6) (q : BitVec 2) (k : Block) (sub : Nat) {ts : List Nat} {l : Nat}
    (hl : l ∈ ts) (near : Nat → Bool) :
    let a := w.atomArgs d b l
    let olds := (k.scratchAtoms sub (w.atomArgs d b) (ts.filter near)).2
    s.ratomGroup c w d b q olds l =
      if near l then .doneAt l a.1 (s.atomPlace c w b l) a.2.1 a.2.2 (atomBack d q) (((olds.find? (fun x => x.1 == l)).map (·.2)).getD 0)
      else .open_ l .plain [⟨l, a.1, s.atomPlace c w b l, 4, a.2.1, a.2.2, atomBack d q⟩] := by
  intro a olds
  have hsome : (olds.find? (fun x => x.1 == l)).isSome = near l := by
    rw [Bool.eq_iff_iff, k.scratchAtoms_find? sub (w.atomArgs d b), List.mem_filter, and_iff_right hl]
  rw [State.ratomGroup, ← hsome]
  cases olds.find? (fun x => x.1 == l) <;> rfl

section Issue

variable {s : State} {c : Ctx} {w : Wave} {uid j : Nat} {k : Block} {la : Launch} (p : PadWave s c w uid j k la)
  {d b : BitVec 6} {o : BitVec 4} {q : BitVec 2} {g : BitVec 4}
include p

theorem PadWave.uid_eq : k.uid = uid := by simpa using List.find?_some p.block

theorem PadWave.modBlockOf (t : State) (f : Block → Block) : t.modBlockOf c.r f = t.modBlock uid f := by rw [p.ref]; rfl

/-- `satom` whose lanes pass their checks, with the wave's earlier writes made when it has order: its atomics act in order, and the old words
are in flight to the lanes' registers (R266). -/
theorem exec_satom (ht : c.t w g ≠ []) (hi : LegalFor (.satom d b o q g) (b.toNat :: atomRegs d o.toNat) [] w)
    (hf : w.allFull (c.t w g) (b.toNat :: atomRegs d o.toNat))
    (hin : ∀ l ∈ c.t w g, (w.reg l b.toNat).toNat % 4 = 0 ∧ (w.reg l b.toNat).toNat + 4 ≤ la.record.scratch)
    (hq : q = 2 ∨ q = 3 → s.writesMade c.r 0 s.next = true) :
    exec (.satom d b o q g) s = .next (
      let a := k.scratchAtoms o.toNat (w.atomArgs d b) (c.t w g)
      let u := s.modBlock uid (fun k => { k with scratch := a.1.scratch })
      if (atomBack d q).isEmpty then u
      else (u.emptyDests c (c.t w g) (atomBack d q)).putOp c (fun id => u.newOp c id (.ratom o.toNat true) 0 q.toNat (q == 2 || q == 3) false
        (a.2.map (fun x => .doneAt x.1 (w.atomArgs d b x.1).1 (w.atomArgs d b x.1).1 (w.atomArgs d b x.1).2.1 (w.atomArgs d b x.1).2.2
          (atomBack d q) x.2)) false) false) := by
  refine (execWord_alone p.alone hi rfl).trans ?_
  have hb : (w.memBlocked false || ((q == 2 || q == 3) && !s.writesMade c.r 0 s.next)) = false := by
    by_cases h : q = 2 ∨ q = 3
    · simp [p.free, hq h]
    · simpa [p.free, not_or] using fun h' => absurd h' h
  rw [← p.scratchSize] at hin
  simp only [p.blockOnly, unlessBlocked_free hb, gates_ownNeeds hf, scratchLanes_served hin, faultDests_served, p.blockOf, atomBack_eq]
  have hne : (c.t w g).isEmpty = false := by simpa using ht
  simp only [hne, Bool.or_false, p.modBlockOf]
  rfl

/-- `ratom` whose lanes pass their checks: the atomics of the lanes that act at once are made in order, and one message of each lane is in
flight (R267). -/
theorem exec_ratom (ht : c.t w g ≠ []) (hm : w.memFree) (hi : LegalFor (.ratom d b o q g) (basePair b ++ atomRegs d o.toNat) [] w)
    (hf : w.allFull (c.t w g) (basePair b ++ atomRegs d o.toNat))
    (hin : ∀ l ∈ c.t w g, (s.atomTarget c w b l).isSome ∧ (w.reg l b.toNat).toNat % 4 = 0 ∧
      (w.reg l b.toNat).toNat + 4 ≤ la.record.scratch) :
    exec (.ratom d b o q g) s = .next (
      let a := k.scratchAtoms o.toNat (w.atomArgs d b) ((c.t w g).filter (s.atomNear c w b q uid))
      let u := s.modBlock uid (fun k => { k with scratch := a.1.scratch })
      (u.emptyDests c (c.t w g) (atomBack d q)).putOp c (fun id => u.newOp c id (.ratom o.toNat (q == 1 || q == 2)) 1 q.toNat
        (q == 2 || q == 3) (q == 2 || q == 3) ((c.t w g).map (s.ratomGroup c w d b q a.2)) true) false) := by
  refine (execWord_alone p.alone hi rfl).trans ?_
  have hne : (c.t w g).isEmpty = false := by simpa using ht
  have hgood (l : Nat) (hl : l ∈ c.t w g) : (if ((w.reg l b.toNat).toNat % 4 != 0) = true then some 0x0A else
      if ((s.clusterBlock c.r (w.reg l (b.toNat + 1)).toNat).isNone ||
        decide (s.scratchSize c.r < (w.reg l b.toNat).toNat + 4)) = true then some 0x0B else none) = (none : Option Nat) := by
    obtain ⟨hs, ha, hb⟩ := hin l hl
    rw [State.atomTarget] at hs
    simp [ha, Option.ne_none_iff_isSome.2 hs, p.scratchSize, hb]
  have hnear : (fun l => !(q == 2 || q == 3) && (s.clusterBlock c.r (w.reg l (b.toNat + 1)).toNat).map (·.uid) == some k.uid) =
      s.atomNear c w b q uid := by
    have hq : (!(q == 2 || q == 3)) = decide (q ≠ 2 ∧ q ≠ 3) := Bool.eq_iff_iff.2 (by simp)
    rw [hq, p.uid_eq]
    rfl
  simp only [p.blockOnly, unlessBlocked_free hm.memBlocked, gates_ownNeeds hf, atomBack_eq]
  rw [List.filter_eq_self.2 fun l hl => by rw [hgood l hl]; rfl, foldl_eq_self fun l hl => by rw [hgood l hl], faultDests_served, hne, p.blockOf]
  simp only [hnear, p.modBlockOf]
  rfl

/-- `ratom` of one lane that names a rank without a block traps, and the lane's destination is empty (R250, R267). -/
theorem exec_ratom_absent (hm : w.memFree) (hi : LegalFor (.ratom d b o q g) (basePair b ++ atomRegs d o.toNat) [] w) {l : Nat}
    (ht : c.t w g = [l]) (hf : w.allFull [l] (basePair b ++ atomRegs d o.toNat)) (ha : (w.reg l b.toNat).toNat % 4 = 0)
    (hn : s.atomTarget c w b l = none) :
    exec (.ratom d b o q g) s = .next
      ((s.takeTraps c.r [l] c.hdr c.slot 0x0B 0 (w.reg l b.toNat).toNat).faultDests c [l] [] (atomBack d q)) := by
  rw [State.atomTarget] at hn
  refine (execWord_alone p.alone hi rfl).trans ?_
  simp [p.blockOnly, unlessBlocked_free hm.memBlocked, ht, gates_ownNeeds hf, atomBack, ha, hn, State.trapAt]

end Issue

end Sys2Proof.Machine

namespace Sys2Proof.Proofs

open Sys2Proof.Machine

/-- Settles O46: each atomic writes the word that Table 11.4 gives, or nothing; `satom` makes its lanes' atomics in order, and `ratom` those of
the lanes that name their own block. -/
theorem scratchpadAtomics : Obligations.ScratchpadAtomics := by
  intro d b o q g s c w uid j k la h hr hk hl ht hm hwf T ops off value swap back new acts done
  have p : PadWave s c w uid j k la := ⟨h, hr, hk, hl, hm.acquires, hm.waits⟩
  have hor (a b : BitVec 2) : (q == a || q == b) = decide (q = a ∨ q = b) := (Bool.decide_or _ _).symm
  refine ⟨fun l ls => ⟨?old, ?word, ?outside, ?rest⟩, fun hi hf hin hq => ?satom, ?ratom⟩
  case old => exact congrArg (fun y => [(l, y)]) (k.scratchAtom_old ..)
  case word =>
    have hword (r : Nat) : BitVec.ofNat 32 (w.reg l r).toNat = w.reg l r := by simp
    simp only [value, swap, hword]
    exact k.scratchAtom_word o.toNat (off l) hwf (w.reg l d.toNat) (w.reg l (d.toNat + 1))
  case outside => exact fun x hx => k.scratchAtom_outside _ _ _ _ hwf hx
  case rest => exact k.scratchAtoms_cons ..
  case satom =>
    have hrun := exec_satom p ht hi hf hin hq
    refine ⟨fun k' => { k' with scratch := (acts k T).1.scratch }, rfl, fun hb => ?none, fun hb => ?some⟩
    case none => exact hrun.trans (congrArg _ (if_pos (List.isEmpty_iff.2 hb)))
    case some =>
      have he := hrun.trans (congrArg _ (if_neg (mt List.isEmpty_iff.1 hb)))
      refine ⟨_, emptyDests_putOp_inFlight he rfl, ?_⟩
      simp only [newOp_scratch]
      exact ⟨newOp_opAt _ _ _ _ _ _ _ _ _, order_of_atomBack hb, rfl, rfl⟩
  case ratom =>
    intro hi hf target pa near a
    refine ⟨fun hin => ?sent, fun l hl ha hn => ?absent⟩
    case sent =>
      have he := exec_ratom p ht hm hi hf hin
      refine ⟨fun k' => { k' with scratch := a.1.scratch }, _, rfl, emptyDests_putOp_inFlight he rfl, ?_⟩
      simp only [newOp_scratch, hor]
      exact ⟨newOp_opAt _ _ _ _ _ _ _ _ _, rfl, rfl, List.map_congr_left fun l hl => ratomGroup_near s c w d b q k o.toNat hl _⟩
    case absent =>
      exact ⟨_, exec_ratom_absent p hm hi hl (hl ▸ hf) ha hn, faultDests_kept _ c [l] [] back⟩

end Sys2Proof.Proofs
end

section
/-! SUPPORT. The disarming of a host monitor where an entry of another owner has the key of the monitor's own (R340, R360). -/

namespace Sys2Proof.Machine

/-- A disarming write of a monitor's control register that the function takes: the monitor's entries are cancelled, then its fields set (R360). -/
theorem exec_hmDisarm {s : State} {part m value : Nat} (hw : s.vfWritable part = true) (hb : bitOf value 0 = false) :
    exec (.hmDisarm part m value) s = .next ((s.dropEntries (fun e => e.owner == EntryOwner.monitor part m)).modMonitor part m
      (fun x => { x.control value with armed := false })) := by
  simp [exec, execHmDisarm, hw, hb]

/-- The entry of key 0 that watches a word for monitor 0 of partition 0, at slice 0. -/
def monitorEntry : Entry := { tailEntry with owner := .monitor 0 0 }

/-- The machine after reset, with that entry, the gate's of the same key, and a handler wave in quarter 0 of core 0. -/
def monitorKeyState : State :=
  { State.reset with
    cores := setAt State.reset.cores 0 { Core.reset with handlers := [some ⟨0, Wave.atLaunch 8 8 0 8 0 false⟩, none, none, none] }
    entries := [monitorEntry, gateEntry] }

/-- Cancelling the entry of the monitor takes the gate's with it. -/
theorem monitorKeyState_dropEntries :
    (monitorKeyState.dropEntries (fun e => e.owner == EntryOwner.monitor 0 0)).entries = [] := by
  have hown : monitorKeyState.entries.filter (fun e => e.owner == EntryOwner.monitor 0 0) = [monitorEntry] := by decide
  rw [State.dropEntries, hown, List.foldl_cons, List.foldl_nil, dropEntry_entries rfl]
  decide

end Sys2Proof.Machine

namespace Sys2Proof.Proofs

open Sys2Proof.Machine

/-- Refutes O54: a disarming does not keep every entry of another owner. The monitor's entry is taken out by its key, and the statement, unlike
where it speaks of a registration or a reclaim, does not ask that no other entry has that key: the gate's entry goes too. -/
theorem not_waitEntries : ¬ Obligations.WaitEntries := by
  intro h
  obtain ⟨-, -, -, -, -, hmonitor⟩ := h monitorKeyState (.hdl 0 0) (Wave.atLaunch 8 8 0 8 0 false)
    ⟨0, [], 0, false, 0, .registering, true, 0, 0⟩ (by decide)
  obtain ⟨-, -, hdisarm, -⟩ := hmonitor 0 0 0 (by decide) (by decide) (by decide) (by decide)
  obtain ⟨u, hu, -, hentries, -⟩ := hdisarm (by decide) (by decide)
  rw [exec_hmDisarm (by decide) (by decide)] at hu
  cases hu
  have hkept : gateEntry ∈ (monitorKeyState.dropEntries (fun e => e.owner == EntryOwner.monitor 0 0)).entries :=
    (hentries gateEntry).2 (by decide)
  simp [monitorKeyState_dropEntries] at hkept

end Sys2Proof.Proofs
end

section
/-! SUPPORT. Lanes that are all served have left what they act on by their checks as it was: the waves and the operations in flight (R209,
R246). -/

namespace Sys2Proof.Machine

section Keeps

variable {β : Type} {get : State → β} (hslice : ∀ s i f, get (State.modSlice s i f) = get s)
  (hcore : ∀ s k f, get (State.modCore s k f) = get s) (hdevice : ∀ s f, get (State.modDevice s f) = get s)
include hslice hcore hdevice

/-- The device's own read at a line's home changes slices, cores and buckets alone (R39, R231). -/
theorem ownRead_keeps (s : State) (part pa n : Nat) : get (s.ownRead part pa n) = get s := by
  have hbucket (s : State) (b : Bucket) (p : BucketPoint) : get (s.setBucket b p) = get s := by
    cases p with
    | core k => exact hcore s k _
    | slice i => exact hslice s i _
    | port i p => exact hdevice s (fun d => { d with portBucket := cellSet ⟨0, 0⟩ d.portBucket (16 * i + p) b })
  have huse (s : State) : get (s.useLine part (pa / 128)) = get s := by
    rw [State.useLine]
    split
    · rfl
    · split
      · rfl
      · exact hslice s _ _
  rw [State.ownRead, huse]
  refine foldl_keeps get (fun s p => ?_) _ s
  split
  · exact hbucket s _ p
  · rfl

/-- A translation changes slices, cores and buckets alone (R207, R208). -/
theorem translate_keeps (s : State) (core part space va : Nat) : get (s.translate core part space va).2 = get s := by
  have hwalk : get (s.readWalk part space va) = get s := by
    simp only [State.readWalk]
    split
    · rfl
    · exact foldl_keeps get (fun s a => ownRead_keeps hslice hcore hdevice s part a 8) _ s
  have hfill (s : State) (e : TlbEntry) : get (s.fillTlb core e) = get s := by
    simp only [State.fillTlb]
    split
    · exact hcore s core _
    · rw [hslice, hcore]
  rw [State.translate]
  split
  · rfl
  · split
    · rfl
    · split
      · exact (hfill _ _).trans hwalk
      · exact hwalk

/-- An access that passes its checks changes no more than its translation does. -/
theorem checkAccess_keeps {s t : State} {core part space va : Nat} {kind : AccessKind} {e : TlbEntry}
    (h : s.checkAccess core part space va kind = (.ok e, t)) : get t = get s := by
  have ht := translate_keeps hslice hcore hdevice s core part space va
  rw [State.checkAccess] at h
  split at h
  · simp at h
  · next hx =>
    rw [hx] at ht
    simp only at h
    split_ifs at h
    all_goals simp only [Prod.mk.injEq, reduceCtorEq, false_and] at h
    exact h.2 ▸ ht

end Keeps

variable {s : State} {c : Ctx} {align : Nat} {kind : AccessKind} {va : Nat → Nat}

/-- A lane served by an instruction that the pod range refuses has passed the check of its access. -/
theorem State.admitLane_served {l a : Nat} {x : Served} {u : State} (h : s.admitLane c align kind none l a = (some x, u)) :
    s.checkAccess (s.coreOf c.r) (s.partOf c.r) (s.spaceOf c.r) a kind = (.ok x.entry, u) := by
  rw [State.admitLane] at h
  split at h
  · simp at h
  · split at h
    · simp at h
    · next hx =>
      split at h
      · simp at h
      · cases h; exact hx

/-- Lanes that are all served leave the waves, the launches, memory and the operations in flight as they were. -/
theorem State.admitLanes_kept {ls : List Nat} (h : (s.admitLanes c align kind none va ls).1.length = ls.length) :
    ChecksKept s (s.admitLanes c align kind none va ls).2 ∧ (s.admitLanes c align kind none va ls).2.memOps = s.memOps := by
  induction ls generalizing s with
  | nil => exact ⟨.refl s, rfl⟩
  | cons l ls ih =>
    have hle := State.length_admitLanes_le (s.admitLane c align kind none l (va l)).2 c align kind none va ls
    simp only [State.admitLanes, List.length_append, List.length_cons] at h
    cases hx : (s.admitLane c align kind none l (va l)).1 with
    | none => simp only [hx, Option.toList_none, List.length_nil] at h; omega
    | some x =>
      simp only [hx, Option.toList_some, List.length_singleton] at h
      obtain ⟨hk, ho⟩ := ih (s := (s.admitLane c align kind none l (va l)).2) (by omega)
      have hc := State.admitLane_served (Prod.ext hx rfl)
      exact ⟨(ChecksKept.checkAccess hc).trans hk,
        ho.trans (checkAccess_keeps (get := State.memOps) (fun _ _ _ => rfl) (fun _ _ _ => rfl) (fun _ _ => rfl) hc)⟩

end Sys2Proof.Machine
end

section
/-! SUPPORT. `waitu`: the wait group that lanes form, its number, and its registration in flight (R341, R347, R348). -/

namespace Sys2Proof.Machine

theorem rangeFrom_eq_range' (lo n : Nat) : rangeFrom lo n = List.range' lo n := by
  induction n generalizing lo with
  | zero => rfl
  | succ n ih => rw [rangeFrom, ih, List.range'_succ]

theorem upTo_eq_range (n : Nat) : upTo n = List.range n := (rangeFrom_eq_range' 0 n).trans List.range_eq_range'.symm

/-- A wave with fewer than 64 groups has a number free, and its free number is the least one that none of them bears (R341). -/
theorem Wave.freeGroup_least {w : Wave} (h : w.groups.length < 64) :
    (∀ y ∈ w.groups, y.group ≠ w.freeGroup) ∧ ∀ n < w.freeGroup, ∃ y ∈ w.groups, y.group = n := by
  obtain ⟨n, hn⟩ : ∃ n, (List.range 64).find? (fun n => w.groups.all (fun g => g.group != n)) = some n := by
    by_contra hnone
    have hall : List.range 64 ⊆ w.groups.map (·.group) := by
      intro n hn
      have := List.find?_eq_none.1 (Option.eq_none_iff_forall_ne_some.2 fun m hm => hnone ⟨m, hm⟩) n hn
      simpa using this
    have := (List.subperm_of_subset List.nodup_range hall).length_le
    simp only [List.length_range, List.length_map] at this
    omega
  obtain ⟨hfree, -, hleast⟩ := List.find?_range_eq_some.1 hn
  rw [Wave.freeGroup, upTo_eq_range, hn, Option.getD_some]
  exact ⟨by simpa using hfree, fun m hm => by simpa using hleast m hm⟩

/-- Lanes that watch one address for one operand are one wait group (R341). -/
theorem waitGroups_alike (n : Nat) {x : Served × Nat} {xs : List (Served × Nat)} (h : ∀ y ∈ xs, y.1.va = x.1.va ∧ y.2 = x.2) :
    waitGroups (n + 1) (x :: xs) = [x :: xs] := by
  have hall : xs.filter (fun y => y.1.va == x.1.va && y.2 == x.2) = xs :=
    List.filter_eq_self.2 fun y hy => by simp [h y hy]
  have hnone : xs.filter (fun y => !(y.1.va == x.1.va && y.2 == x.2)) = [] :=
    List.filter_eq_nil_iff.2 fun y hy => by simp [h y hy]
  rw [waitGroups]
  simp only [hall, hnone]
  cases n <;> rfl

/-- The address at a base pair without an offset (R244). -/
theorem Wave.globalAddr_base (w : Wave) (b : Nat) :
    w.globalAddr b 0 = fun l => (w.reg l b).toNat + 2 ^ 32 * (w.reg l (b + 1)).toNat := by
  funext l
  have h0 := (w.reg l b).isLt
  have h1 := (w.reg l (b + 1)).isLt
  simp only [Wave.globalAddr, natOfInt, Wave.reg64, pair64]
  omega

/-- What `formWait` makes of a state for lanes that watch one word for one operand, the first of them `m`: a group of the wave with its least
free number, the lanes waiting in it with their destinations empty, and its registration in flight, uncounted (R341, R348). -/
structure WaitFormed (s u : State) (c : Ctx) (w : Wave) (d : BitVec 6) (cond : Nat) (wide : Bool) (ticks scope : Nat) (m : Served × Nat)
    (ms : List (Served × Nat)) (op : MemOp) (z : Wave) : Prop where
  wave : u.wave? c.r = some z
  mem : u.mem = s.mem
  ops : u.memOps = s.memOps ++ [op]
  what : op.kind = .wait cond wide ticks ∧ op.scope = scope ∧ op.wave = c.r ∧ op.counted = false
  number : op.groupNo = w.freeGroup
  parts : op.groups = [OpGroup.open_ (m.1.pa / 128) m.1.entry.attr
    ((m :: ms).map (fun x => x.1.opLane (if wide then 8 else 4) x.2 0 (regRun d (if wide then 2 else 1))))]
  rest : z = { w with
    lanes := z.lanes, holds := z.holds
    groups := w.groups ++
      [⟨w.freeGroup, (m :: ms).map (·.1.lane), d.toNat, wide, scope, .registering, true, c.next, m.1.va⟩] }
  lanes : ∀ l, z.lanes[l]? = (w.lanes[l]?).map (fun x => if l ∈ (m :: ms).map (·.1.lane) then
    { x.awaits (regRun d (if wide then 2 else 1)) with state := .waitMantis w.freeGroup, vpc := c.hdr, slot := c.slot } else x)

theorem formWait_formed {s : State} {c : Ctx} {w : Wave} (hw : s.wave? c.r = some w) (d : BitVec 6) (cond : Nat) (wide : Bool)
    (ticks scope : Nat) (m : Served × Nat) (ms : List (Served × Nat)) :
    ∃ (op : MemOp) (z : Wave), WaitFormed s (s.formWait c d cond wide ticks scope (m :: ms)) c w d cond wide ticks scope m ms op z := by
  obtain ⟨f, hf, hl⟩ := ((Departs.refl s c.r w).modLanes ((m :: ms).map (·.1.lane))
    (fun x => x.awaits (regRun d (if wide then 2 else 1)))).stopLanes ((m :: ms).map (·.1.lane)) (.waitMantis w.freeGroup)
  have h1 : ((s.modWave c.r f).dropFromIssues c.r ([] ++ (m :: ms).map (·.1.lane))).wave? c.r = some (f w) := by
    simp [State.wave?_modWave, hw]
  simp only [State.formWait, hw, State.emptyDests, hf]
  refine ⟨_, _, State.putOp_wave? ((State.wave?_modWave _ c.r _).trans (congrArg _ h1)) _ _, by simp,
    (State.putOp_memOps ..).trans (congrArg (· ++ _) ((memOps_modWave ..).trans (memOps_modWave ..))), ⟨rfl, rfl, rfl, rfl⟩, rfl, rfl, ?_, ?_⟩
  · obtain ⟨ls, hls⟩ : ∃ ls, f w = { w with lanes := ls } := ⟨_, hl.rest⟩
    simp only [hls]
    rfl
  · intro l
    refine (hl.lanes l).trans (congrArg (Option.map · _) (funext fun x => ?_))
    by_cases h : l ∈ (m :: ms).map (·.1.lane) <;> simp only [h, if_true, if_false]

section Until

variable {s : State} {c : Ctx} {w : Wave} (h : Alone s c w) {i : Instr} {d b t : BitVec 6} {sc : BitVec 2} {wide : Bool} {cond : Nat}
  {g : BitVec 4} (ha : w.acquires = []) (hg : ∀ y ∈ w.groups, y.delivers = false)

/-- The operand of a lane of `waitu` (R348). -/
def Wave.waitOperand (w : Wave) (d : BitVec 6) (wide : Bool) (l : Nat) : Nat :=
  (w.reg l d.toNat).toNat + if wide then 2 ^ 32 * (w.reg l (d.toNat + 1)).toNat else 0

include h ha hg

/-- `waitu` whose lanes are all served, and watch one word for one operand: one group is formed, and the other executing lanes go on. -/
theorem waitUntil_alike (hi : LegalFor i (regRun d (if wide then 2 else 1) ++ basePair b) [] w)
    (hf : w.allFull (c.t w g) (regRun d (if wide then 2 else 1) ++ basePair b)) {v : List Served × State}
    (hv : s.admitLanes c (if wide then 8 else 4) .read none (w.globalAddr b.toNat 0) (c.t w g) = v) {m : Served} {ms : List Served}
    (hm : v.1 = m :: ms) (hT : v.1.map (·.lane) = c.t w g)
    (hone : ∀ x ∈ v.1, x.va = m.va ∧ w.waitOperand d wide x.lane = w.waitOperand d wide m.lane) :
    s.waitUntil i d b t sc wide cond g = .next ((v.2.formWait c d cond wide t.toNat sc.toNat
      (v.1.map (fun x => (x, w.waitOperand d wide x.lane)))).moveLanes c.r (c.rest (c.t w g)) c.next) := by
  have hx (l : Nat) : (if wide then w.reg64 l d.toNat else (w.reg l d.toNat).toNat) = w.waitOperand d wide l := by
    cases wide <;> rfl
  have hgroups : waitGroups 64 (v.1.map (fun x => (x, w.waitOperand d wide x.lane))) =
      [v.1.map (fun x => (x, w.waitOperand d wide x.lane))] := by
    rw [hm, List.map_cons]
    refine waitGroups_alike 63 fun y hy => ?_
    obtain ⟨x, hx, rfl⟩ := List.mem_map.1 hy
    exact hone x (hm ▸ List.mem_cons_of_mem _ hx)
  refine (execWord_alone h hi rfl).trans ?_
  have hfree : w.memBlocked false = false := by simpa [Wave.memBlocked, ha] using hg
  simp only [unlessBlocked_free hfree, gates_ownNeeds hf, hv, hx, hgroups, hT, faultDests_served, List.foldl_cons, List.foldl_nil]

/-- What a `waitu` that forms one group makes of a state: `v` is what the checks of the lanes of T give, the lanes `ts` (R341, R348). -/
structure WaitIssued (i : Instr) (s : State) (c : Ctx) (w : Wave) (d : BitVec 6) (cond : Nat) (wide : Bool) (ticks scope : Nat) (ts : List Nat)
    (v : List Served) (u : State) (op : MemOp) (z : Wave) (m : Served) : Prop where
  runs : exec i s = .next u
  first : m ∈ v.head?
  wave : u.wave? c.r = some z
  mem : u.mem = s.mem
  ops : u.memOps = s.memOps ++ [op]
  what : op.kind = .wait cond wide ticks ∧ op.scope = scope ∧ op.wave = c.r ∧ op.counted = false
  number : op.groupNo = w.freeGroup
  parts : op.groups = [OpGroup.open_ (m.pa / 128) m.entry.attr
    (v.map (fun x => x.opLane (if wide then 8 else 4) (w.waitOperand d wide x.lane) 0 (regRun d (if wide then 2 else 1))))]
  rest : z = { w with
    lanes := z.lanes, holds := z.holds
    groups := w.groups ++ [⟨w.freeGroup, ts, d.toNat, wide, scope, .registering, true, c.next, m.va⟩] }
  lanes : ∀ l, z.lanes[l]? = (w.lanes[l]?).map (fun x => if l ∈ ts then
    { x.awaits (regRun d (if wide then 2 else 1)) with state := .waitMantis w.freeGroup, vpc := c.hdr, slot := c.slot }
    else if l ∈ c.x then x.goTo c.next else x)

/-- `waitu` whose lanes are all served and watch one word for one operand issues the registration of one wait group (R341, R348). -/
theorem exec_waitu {cond : Nat} (he : exec i s = s.waitUntil i d b t sc wide cond g)
    (hi : LegalFor i (regRun d (if wide then 2 else 1) ++ basePair b) [] w)
    (hf : w.allFull (c.t w g) (regRun d (if wide then 2 else 1) ++ basePair b)) (hT : c.t w g ≠ []) {v : List Served × State}
    (hv : s.admitLanes c (if wide then 8 else 4) .read none (w.globalAddr b.toNat 0) (c.t w g) = v) (hl : v.1.map (·.lane) = c.t w g)
    (hone : ∀ x ∈ v.1, ∀ y ∈ v.1, x.va = y.va ∧ w.waitOperand d wide x.lane = w.waitOperand d wide y.lane) :
    ∃ u op z m, WaitIssued i s c w d cond wide t.toNat sc.toNat (c.t w g) v.1 u op z m := by
  obtain ⟨m, ms, hm⟩ : ∃ m ms, v.1 = m :: ms := List.exists_cons_of_ne_nil fun h => hT (by rw [← hl, h, List.map_nil])
  obtain ⟨hk, ho⟩ := State.admitLanes_kept (s := s) (c := c) (align := if wide then 8 else 4) (kind := .read)
    (va := w.globalAddr b.toNat 0) (ls := c.t w g) (by rw [hv, ← hl, List.length_map])
  rw [hv] at hk ho
  obtain ⟨op, z, hz⟩ := formWait_formed ((hk.wave? c.r).trans h.wave) d cond wide t.toNat sc.toNat (m, w.waitOperand d wide m.lane)
    (ms.map (fun x => (x, w.waitOperand d wide x.lane)))
  have hlanes : ((m, w.waitOperand d wide m.lane) :: ms.map (fun x => (x, w.waitOperand d wide x.lane))).map (·.1.lane) = c.t w g := by
    rw [← hl, hm]
    simp
  obtain ⟨f, hmove, hmap⟩ := foldl_moveLane (v.2.formWait c d cond wide t.toNat sc.toNat (v.1.map (fun x => (x, w.waitOperand d wide x.lane)))) c.r
    (fun _ => c.next) (c.rest (c.t w g))
  have hrun := he.trans (waitUntil_alike h ha hg hi hf hv hm hl fun x hx => hone x hx m (hm ▸ List.mem_cons_self))
  rw [State.moveLanes, hmove, hm, List.map_cons] at hrun
  refine ⟨_, op, f z, m, hrun, by simp [hm], by simp [State.wave?_modWave, hz.wave], (State.modWave_mem ..).trans (hz.mem.trans hk.mem),
    ((memOps_modWave ..).trans hz.ops).trans (congrArg (· ++ [op]) ho), hz.what, hz.number, ?_, ?_, fun l => ?_⟩
  · simpa [hm, Function.comp_def] using hz.parts
  · obtain ⟨ls, hls⟩ : ∃ ls, f z = { z with lanes := ls } := ⟨_, (hmap z).rest⟩
    rw [hls, ← hlanes]
    exact congrArg (fun z : Wave => { z with lanes := ls }) hz.rest
  · rw [(hmap z).lanes, hz.lanes, hlanes, Option.map_map]
    refine congrArg (Option.map · _) (funext fun x => ?_)
    simp only [Function.comp_apply, Ctx.mem_rest]
    by_cases hin : l ∈ c.t w g
    · simp [hin]
    · simp [hin]

end Until

end Sys2Proof.Machine

namespace Sys2Proof.Proofs

open Sys2Proof.Machine

/-- Settles O48: lanes that are all served are, by the checks, the lanes of T in order (`State.admitLanes_kept`), lanes that watch one word for
one operand are one group (`waitGroups_alike`), and the number of a group is the least free one (`Wave.freeGroup_least`). -/
theorem waitForMemory : Obligations.WaitForMemory := by
  intro d b t sc wd cd g s c w h hT ha hg hroom wide size rs operand v waits
  have hwide : (wd == 1) = wide := by rcases bit_cases wd with rfl | rfl <;> rfl
  have hwaits (i : Instr) (cond : Nat) (he : exec i s = s.waitUntil i d b t sc (wd == 1) cond g) : waits i cond := by
    intro hi hf hl hone
    have hrs : regRun d (if wide then 2 else 1) = rs := by rcases bit_cases wd with rfl | rfl <;> rfl
    have hsize : (if wide then 8 else 4) = size := by rcases bit_cases wd with rfl | rfl <;> rfl
    have hoperand : w.waitOperand d wide = operand := by rcases bit_cases wd with rfl | rfl <;> rfl
    obtain ⟨u, op, z, m, hw⟩ := exec_waitu h ha hg (hwide ▸ he) (hrs ▸ hi) (hrs ▸ hf) hT (v := v) (by rw [hsize, w.globalAddr_base]) hl
      (hoperand ▸ hone)
    obtain ⟨hkind, hscope, hwave, hcounted⟩ := hw.what
    have hparts := hw.parts
    have hz := hw.rest
    have hlanes := hw.lanes
    obtain ⟨hfree, hleast⟩ := Wave.freeGroup_least hroom
    rw [hsize, hoperand, hrs] at hparts
    rw [← hw.number] at hz hfree hleast
    refine ⟨u, op, z, m, hw.runs, hw.first, hw.wave, hw.mem, hw.ops, hkind, hscope, hwave, hcounted, hparts, hfree, hleast,
      (congrArg Wave.groups hz : _), (congrArg Wave.ocMem hz : _), (congrArg Wave.s hz : _), (congrArg Wave.k hz : _),
      (congrArg Wave.ltc hz : _), (congrArg Wave.rails hz : _), fun l x y hx hy => ?_⟩
    rw [hlanes, hx, Option.map_some, Option.some.injEq, hrs, ← hw.number] at hy
    split
    · next hin =>
      obtain ⟨hrest, hfull⟩ := awaits_empty x rs
      rw [if_pos hin] at hy
      rw [if_pos (by rcases bit_cases wd with rfl | rfl <;> simp [rs])] at hrest
      subst hy
      exact ⟨by rw [hrest], hfull⟩
    · next hin => rw [← hy, if_neg hin]
  exact ⟨hwaits _ _ rfl, hwaits _ _ rfl, hwaits _ _ rfl, hwaits _ _ rfl, hwaits _ _ rfl⟩

end Sys2Proof.Proofs
end

section
/-! SUPPORT. A barrier that falls short: its waiters trap one after the other, and it is unconfigured (R363). -/

namespace Sys2Proof.Machine

theorem mem_indicesFrom {α : Type} {p : α → Bool} {xs : List α} {i l : Nat} :
    l ∈ indicesFrom p i xs ↔ ∃ m x, l = i + m ∧ xs[m]? = some x ∧ p x = true := by
  induction xs generalizing i with
  | nil => simp [indicesFrom]
  | cons x xs ih =>
    have hhead : (∃ m y, l = i + m ∧ (x :: xs)[m]? = some y ∧ p y = true) ↔
        (l = i ∧ p x = true) ∨ ∃ m y, l = i + 1 + m ∧ xs[m]? = some y ∧ p y = true := by
      constructor
      · rintro ⟨_ | m, y, rfl, hy, hp⟩
        · exact .inl ⟨rfl, by simp_all⟩
        · exact .inr ⟨m, y, by omega, hy, hp⟩
      · rintro (⟨rfl, hp⟩ | ⟨m, y, rfl, hy, hp⟩)
        · exact ⟨0, x, rfl, rfl, hp⟩
        · exact ⟨m + 1, y, by omega, hy, hp⟩
    rw [indicesFrom, hhead, ← ih]
    split <;> simp_all

theorem Wave.mem_lanesWhere {w : Wave} {p : Lane → Bool} {l : Nat} : l ∈ w.lanesWhere p ↔ ∃ x, w.lanes[l]? = some x ∧ p x = true := by
  simp only [Wave.lanesWhere, mem_indicesFrom, Nat.zero_add]
  exact ⟨fun ⟨_, x, hm, hx⟩ => ⟨x, hm ▸ hx⟩, fun ⟨x, hx⟩ => ⟨l, x, rfl, hx⟩⟩

/-- A fold over a list that does nothing at its elements. -/
theorem foldIdx_idle {α σ : Type} {f : σ → Nat → α → σ} (s : σ) {i : Nat} {xs : List α}
    (h : ∀ m x, xs[m]? = some x → ∀ s, f s (i + m) x = s) : foldIdx f s i xs = s := by
  induction xs generalizing i with
  | nil => rfl
  | cons x xs ih =>
    rw [foldIdx, show f s i x = s from h 0 x rfl s]
    exact ih fun m y hy s => (Nat.succ_add_eq_add_succ i m) ▸ h (m + 1) y hy s

/-- A fold over a list that does something at one of its elements alone. -/
theorem foldIdx_only {α σ : Type} {f : σ → Nat → α → σ} (s : σ) {i n : Nat} {xs : List α} {x : α} (hx : xs[n]? = some x)
    (h : ∀ m y, m ≠ n → xs[m]? = some y → ∀ s, f s (i + m) y = s) : foldIdx f s i xs = f s (i + n) x := by
  induction xs generalizing i n s with
  | nil => simp at hx
  | cons y ys ih =>
    rw [foldIdx]
    cases n with
    | zero =>
      obtain rfl : y = x := by simpa using hx
      exact foldIdx_idle _ fun m z hz s => (Nat.succ_add_eq_add_succ i m) ▸ h (m + 1) z (by simp) hz s
    | succ n =>
      rw [show f s i y = s from h 0 y (by simp) rfl s, ih s hx, Nat.succ_add_eq_add_succ]
      exact fun m z hm hz s => (Nat.succ_add_eq_add_succ i m) ▸ h (m + 1) z (by simpa using hm) hz s

/-- A trap of a block's lane in a native launch with a trap entry stops the lane at the trap point (R393). -/
theorem takeTrap_native {s : State} {uid j : Nat} {la : Launch} (hla : s.launchOf (.blk uid j) = some la) (hn : la.record.irdan = false)
    (he : la.record.entryOfTraps.isSome = true) (l : Nat) (vpc : Word) (slot : Nat) {cause : Nat} (hc : cause ≠ 0x08) (detail addr : Nat) :
    s.takeTrap (.blk uid j) l vpc slot cause detail addr = (s.trapCounted la (.blk uid j) l).modLane (.blk uid j) l (fun x => { x with
      state := .trapped, vpc := vpc, slot := slot
      trap := some ⟨cause, detail, addr, vpc, slot, s.nowOf (.blk uid j), s.next, .awaiting⟩ }) := by
  have hsome : la.record.entryOfTraps.isNone = false := by simpa [← Option.not_isSome] using he
  simp only [State.takeTrap, hla, hn, hsome, beq_eq_false_iff_ne.2 hc, Bool.or_false, Bool.false_and, Bool.false_eq_true, if_false]
  rfl

/-- The launch of a key, where a trap has been counted, has the same record. -/
theorem launch?_trapCounted_record {s : State} {n : Nat} {lb : Launch} (h : s.launch? n = some lb) (la : Launch) (r : WaveRef) (l : Nat) :
    ∃ lc, (s.trapCounted la r l).launch? n = some lc ∧ lc.record = lb.record := by
  have hl := State.launch?_modLaunch s.fresh.2 la.lid n (fun x => { x with traps := sat32 (x.traps + 1) }) (fun _ => rfl)
  rw [show s.fresh.2.launch? n = some lb from h] at hl
  exact ⟨_, hl, by dsimp only; split <;> rfl⟩

/-- A lane that waited at a barrier that falls short, in a native launch with a trap entry: it has trapped with cause 0x0D where it stands. -/
def Lane.barrierFailed (y : Lane) (time order : Nat) : Lane :=
  { y with state := .trapped, trap := some ⟨0x0D, 0, 0, y.vpc, y.slot, time, order, .awaiting⟩ }

/-- Some lanes of a block have trapped with the barrier at which they waited; the rest of the block is as before. -/
structure WaitersTrapped (s : State) (k : Block) (rec : LaunchRecord) (ps : List (Nat × Nat)) (t : State) : Prop where
  clock : t.clock = s.clock
  block : ∃ b, t.block? k.uid = some b ∧ b.launch = k.launch ∧ b.core = k.core ∧ b.barriers = k.barriers
  launch : ∃ la, t.launch? k.launch = some la ∧ la.record = rec
  trapped : ∀ j l y, (j, l) ∈ ps → s.lane? (.blk k.uid j) l = some y →
    ∃ o, t.lane? (.blk k.uid j) l = some (y.barrierFailed (s.nowOf (.blk k.uid j)) o)
  others : ∀ j l, (j, l) ∉ ps → t.lane? (.blk k.uid j) l = s.lane? (.blk k.uid j) l

/-- The lanes of a list of waves, numbered from `i`, that wait at a barrier. -/
def waitersFrom (n : Nat) : Nat → List Wave → List (Nat × Nat)
  | _, [] => []
  | i, w :: ws => (w.lanesWhere (fun x => x.state == .waitBarrier n)).map (fun l => (i, l)) ++ waitersFrom n (i + 1) ws

theorem mem_waitersFrom {n i j l : Nat} {ws : List Wave} :
    (j, l) ∈ waitersFrom n i ws ↔ ∃ m w x, j = i + m ∧ ws[m]? = some w ∧ w.lanes[l]? = some x ∧ x.state = .waitBarrier n := by
  induction ws generalizing i with
  | nil => simp [waitersFrom]
  | cons w ws ih =>
    simp only [waitersFrom, List.mem_append, List.mem_map, Prod.mk.injEq, Wave.mem_lanesWhere, beq_iff_eq, ih]
    constructor
    · rintro (⟨l, ⟨x, hx⟩, rfl, rfl⟩ | ⟨m, v, x, rfl, hv, hx⟩)
      · exact ⟨0, w, x, rfl, rfl, hx⟩
      · exact ⟨m + 1, v, x, by omega, hv, hx⟩
    · rintro ⟨_ | m, v, x, rfl, hv, hx⟩
      · obtain rfl : w = v := by simpa using hv
        exact .inl ⟨l, ⟨x, hx⟩, rfl, rfl⟩
      · exact .inr ⟨m, v, x, by omega, hv, hx⟩

/-- The trap of a lane of wave `w`, number j of a block, that waits at a barrier which falls short. -/
def trapWaiter (uid j : Nat) (w : Wave) (t : State) (l : Nat) : State :=
  match w.lanes[l]? with
  | none => t
  | some x => t.takeTrap (.blk uid j) l x.vpc x.slot 0x0D 0 0

/-- The traps of the lanes of a wave that wait at barrier `n`. -/
def trapWaiters (uid n : Nat) (t : State) (j : Nat) (w : Wave) : State :=
  (w.lanesWhere (fun x => x.state == .waitBarrier n)).foldl (trapWaiter uid j w) t

section Waiters

variable {s t : State} {k : Block} {rec : LaunchRecord} {ps : List (Nat × Nat)} (hk : s.block? k.uid = some k) (hn : rec.irdan = false)
  (he : rec.entryOfTraps.isSome = true)
include hk hn he

/-- One more waiter traps. -/
theorem WaitersTrapped.takeTrap (h : WaitersTrapped s k rec ps t) {j l : Nat} {x : Lane} (hx : s.lane? (.blk k.uid j) l = some x) :
    WaitersTrapped s k rec (ps ++ [(j, l)]) (t.takeTrap (.blk k.uid j) l x.vpc x.slot 0x0D 0 0) := by
  obtain ⟨b, hb, hbl, hbc, hbb⟩ := h.block
  obtain ⟨la, hla, hrec⟩ := h.launch
  have hof : t.launchOf (.blk k.uid j) = some la := by simp [State.launchOf, State.launchKey, hb, hbl, hla]
  have hnow : t.nowOf (.blk k.uid j) = s.nowOf (.blk k.uid j) := by
    simp [State.nowOf, State.leaseNow, State.coreOf, h.clock, hb, hk, hbc]
  rw [takeTrap_native hof (hrec ▸ hn) (hrec ▸ he) l x.vpc x.slot (by decide), hnow]
  have hlanes (r : WaveRef) (m : Nat) : (t.trapCounted la (.blk k.uid j) l).lane? r m = t.lane? r m := rfl
  have hlanes (r : WaveRef) (m : Nat) : (t.trapCounted la (.blk k.uid j) l).lane? r m = t.lane? r m := rfl
  refine ⟨h.clock, ⟨_, (State.block?_modWave ..).trans ((if_pos rfl).trans (congrArg (Option.map _) hb)), hbl, hbc, hbb⟩, ?_, ?_, ?_⟩
  · obtain ⟨lc, hlc, hr⟩ := launch?_trapCounted_record hla la (.blk k.uid j) l
    exact ⟨lc, by rwa [State.launch?, State.modLane_launches], hr.trans hrec⟩
  · intro i m y hin hy
    by_cases hi : i = j
    · subst hi
      rw [State.lane?_modLane, hlanes]
      split
      · next hm =>
        obtain rfl : x = y := Option.some.inj (hx.symm.trans (hm ▸ hy))
        by_cases hps : (i, l) ∈ ps
        · obtain ⟨o, ho⟩ := h.trapped i l x hps hx
          exact ⟨t.next, by rw [← hm, ho]; rfl⟩
        · exact ⟨t.next, by rw [← hm, h.others i l hps, hx]; rfl⟩
      · next hm => exact h.trapped i m y (by simpa [Ne.symm hm] using hin) hy
    · rw [State.lane?, State.modLane, State.wave?_modWave_ne _ _ _ _ (by simpa using hi)]
      exact h.trapped i m y (by simpa [hi] using hin) hy
  · intro i m hin
    have hout : (i, m) ∉ ps ∧ ¬ (i = j ∧ m = l) := by simpa using hin
    by_cases hi : i = j
    · subst hi
      rw [State.lane?_modLane, if_neg fun hm => hout.2 ⟨rfl, hm.symm⟩]
      exact h.others i m hout.1
    · rw [State.lane?, State.modLane, State.wave?_modWave_ne _ _ _ _ (by simpa using hi)]
      exact h.others i m hout.1

/-- The waiters of one wave trap. -/
theorem WaitersTrapped.wave {j : Nat} {w : Wave} (hw : s.wave? (.blk k.uid j) = some w) {ls : List Nat} (h : WaitersTrapped s k rec ps t) :
    WaitersTrapped s k rec (ps ++ (ls.filter (fun l => (w.lanes[l]?).isSome)).map (fun l => (j, l))) (ls.foldl (trapWaiter k.uid j w) t) := by
  induction ls generalizing t ps with
  | nil => simpa using h
  | cons l ls ih =>
    rw [List.foldl_cons]
    cases hx : w.lanes[l]? with
    | none => simpa [hx, trapWaiter] using ih h
    | some x =>
      have hlane : s.lane? (.blk k.uid j) l = some x := by simpa [State.lane?, hw, Wave.lane?] using hx
      simpa [hx, trapWaiter] using ih (h.takeTrap hk hn he hlane)

/-- The waiters of the waves of a block trap. -/
theorem WaitersTrapped.waves {n i : Nat} {ws : List Wave} (hw : ∀ m w, ws[m]? = some w → s.wave? (.blk k.uid (i + m)) = some w)
    (h : WaitersTrapped s k rec ps t) :
    WaitersTrapped s k rec (ps ++ waitersFrom n i ws) (foldIdx (trapWaiters k.uid n) t i ws) := by
  induction ws generalizing i t ps with
  | nil => simpa [waitersFrom, foldIdx] using h
  | cons w ws ih =>
    have hall : (w.lanesWhere (fun x => x.state == .waitBarrier n)).filter (fun l => (w.lanes[l]?).isSome) =
        w.lanesWhere (fun x => x.state == .waitBarrier n) := List.filter_eq_self.2 fun l hl => by
      obtain ⟨x, hx, -⟩ := Wave.mem_lanesWhere.1 hl
      simp [hx]
    have hone := h.wave hk hn he (hw 0 w rfl) (ls := w.lanesWhere (fun x => x.state == .waitBarrier n))
    rw [hall] at hone
    rw [waitersFrom, ← List.append_assoc, foldIdx]
    exact ih (fun m v hv => Nat.succ_add_eq_add_succ i m ▸ hw (m + 1) v hv) hone

/-- A barrier that falls short is unconfigured again, and what waited at it has trapped (R363). -/
theorem failBarrier_native {la : Launch} (hla : s.launch? k.launch = some la) (hrec : la.record = rec) (n : Nat) :
    ∃ t, WaitersTrapped s k rec (waitersFrom n 0 k.waves) t ∧
      s.failBarrier k.uid n = t.modBlock k.uid (fun b => { b with barriers := setAt b.barriers n ⟨0, 0, []⟩ }) := by
  have h0 : WaitersTrapped s k rec [] s := ⟨rfl, ⟨k, hk, rfl, rfl, rfl⟩, ⟨la, hla, hrec⟩, by simp, fun _ _ _ => rfl⟩
  refine ⟨_, (WaitersTrapped.waves hk hn he (n := n) (i := 0) (ws := k.waves) ?_ h0), ?_⟩
  · intro m w hw
    simpa [State.wave?, hk] using hw
  · rw [State.failBarrier, hk]
    rfl

end Waiters

/-- Where only barrier `n` of a block falls short, and no quire does, the shortfalls of the block are its failure. -/
theorem shortfalls_only (s : State) {k : Block} {n : Nat} {x : Barrier} (hx : k.barriers[n]? = some x) (hshort : k.barrierShort x = true)
    (hothers : ∀ m y, m ≠ n → k.barriers[m]? = some y → y.n = 0) (hq : ∀ q ∈ k.quires, q.n = 0) :
    s.shortfalls k = s.failBarrier k.uid n := by
  rw [State.shortfalls, foldIdx_only s hx fun m y hm hy t => by simp [Block.barrierShort, hothers m y hm hy], Nat.zero_add, if_pos hshort]
  exact foldIdx_idle _ fun m q hm t => by simp [Block.quireShort, hq q (List.mem_of_getElem? hm)]

/-- A configured barrier falls short when the waves that could still arrive are fewer than the arrivals it lacks (R363). -/
theorem barrierShort_of_lacks {k : Block} {x : Barrier} (hn : x.n ≠ 0)
    (h : ((upTo k.waves.length).filter (fun j => ((k.waves[j]?).map (fun w => !w.retired)).getD false && x.of j != .arrived)).length <
      x.n - x.a) : k.barrierShort x = true := by
  have hable : k.able (fun j => x.of j == .arrived) =
      ((upTo k.waves.length).filter (fun j => ((k.waves[j]?).map (fun w => !w.retired)).getD false && x.of j != .arrived)).length := by
    rw [Block.able]
    congr 2
    funext j
    cases k.waves[j]? <;> rfl
  simp only [Block.barrierShort, hable, Bool.and_eq_true, bne_iff_ne, decide_eq_true_eq]
  exact ⟨hn, by omega⟩

/-- The shortfall of one barrier, in a native launch with a trap entry: it is unconfigured again, and exactly the lanes that waited at it have
trapped with cause 0x0D where they stand (R363). -/
theorem shortfalls_barrier {s : State} {n : Nat} {k : Block} {x : Barrier} {la : Launch} (hk : s.block? k.uid = some k)
    (hx : k.barriers[n]? = some x) (hla : s.launch? k.launch = some la) (hirdan : la.record.irdan = false)
    (hentry : la.record.entryOfTraps.isSome = true) (hshort : k.barrierShort x = true)
    (hothers : ∀ m y, m ≠ n → k.barriers[m]? = some y → y.n = 0) (hq : ∀ q ∈ k.quires, q.n = 0) :
    ∃ k' : Block, (s.shortfalls k).block? k.uid = some k' ∧ k'.barriers = setAt k.barriers n { n := 0, a := 0, st := [] } ∧
      ∀ (j l : Nat) (w : Wave) (y : Lane), k.waves[j]? = some w → w.lanes[l]? = some y →
        (y.state ≠ .waitBarrier n → (s.shortfalls k).lane? (.blk k.uid j) l = some y) ∧
        (y.state = .waitBarrier n →
          ∃ o, (s.shortfalls k).lane? (.blk k.uid j) l = some (y.barrierFailed (s.nowOf (.blk k.uid j)) o)) := by
  obtain ⟨t, ht, hs⟩ := failBarrier_native hk hirdan hentry hla rfl n
  obtain ⟨b, hb, -, -, hbarriers⟩ := ht.block
  have hblock : (s.shortfalls k).block? k.uid = some { b with barriers := setAt k.barriers n ⟨0, 0, []⟩ } := by
    rw [shortfalls_only s hx hshort hothers hq, hs, State.block?_modBlock, if_pos rfl, hb, Option.map_some, hbarriers]
    exact fun _ => rfl
  have hkept (j l : Nat) : (s.shortfalls k).lane? (.blk k.uid j) l = t.lane? (.blk k.uid j) l := by
    simp [State.lane?, State.wave?, hblock, hb]
  refine ⟨_, hblock, rfl, fun j l w y hw hy => ?_⟩
  have hlane : s.lane? (.blk k.uid j) l = some y := by simp [State.lane?, State.wave?, hk, hw, Wave.lane?, hy]
  have hmem : (j, l) ∈ waitersFrom n 0 k.waves ↔ y.state = .waitBarrier n := by
    rw [mem_waitersFrom]
    constructor
    · rintro ⟨m, v, z, rfl, hv, hz, hwait⟩
      simp_all
    · exact fun hwait => ⟨j, w, y, by simp, hw, hy, hwait⟩
  rw [hkept]
  exact ⟨fun hne => (ht.others j l fun hin => hne (hmem.1 hin)).trans hlane, fun hwait => ht.trapped j l y (hmem.2 hwait) hlane⟩

end Sys2Proof.Machine
end

section
/-! SUPPORT. `bari`, `bar`, `bara` and `barw` of a block's wave: the block after an arrival, and after the phase has changed (R362). -/

namespace Sys2Proof.Machine

/-- Wave `j` of a block executes alone; its block's barrier `n` is `x`. -/
structure BarrierWave (s : State) (c : Ctx) (w : Wave) (uid j : Nat) (k : Block) (n : Nat) (x : Barrier) : Prop where
  alone : Alone s c w
  ref : c.r = .blk uid j
  block : s.block? uid = some k
  barrier : k.barriers[n]? = some x

/-- The lanes of a wave, those of `ts` waiting at a barrier. -/
def Ctx.atBarrier (c : Ctx) (n : Nat) (ts : List Nat) (l : Nat) (y : Lane) : Lane :=
  if l ∈ ts then { y with state := .waitBarrier n, vpc := c.hdr, slot := c.slot } else y

/-- A wave with its lanes that wait at a barrier released (R362). -/
def Wave.released (n : Nat) (w : Wave) : Wave :=
  { w with lanes := w.lanes.map (fun y => if y.state == .waitBarrier n then y.release else y) }

/-- The barrier as the phase change leaves it (R362). -/
def Barrier.changed (x : Barrier) : Barrier := ⟨x.n, 0, x.st.map (fun y => if y == .arrived then .passed else y)⟩

theorem Wave.released_state {n : Nat} {w : Wave} : ∀ y ∈ (w.released n).lanes, y.state ≠ .waitBarrier n := by
  intro y hy
  obtain ⟨z, -, rfl⟩ := List.mem_map.1 hy
  split
  · simp [Lane.release, Lane.activate]
  · next h => simpa using h

section Phase

variable {k : Block} {n : Nat} {x : Barrier} (hx : k.barriers[n]? = some x)
include hx

/-- Short of its count a barrier's phase goes on. -/
theorem Block.changePhase_short (ha : x.a ≠ x.n) : k.changePhase n = k := by
  simp [Block.changePhase, List.getD_eq_getElem?_getD, hx, ha]

/-- At its count a barrier's phase changes. -/
theorem Block.changePhase_full (hn : x.n ≠ 0) (ha : x.a = x.n) :
    k.changePhase n = { k with barriers := setAt k.barriers n x.changed, waves := k.waves.map (Wave.released n) } := by
  simp only [Block.changePhase, List.getD_eq_getElem?_getD, hx, Option.getD_some, ha, hn, decide_false, bne_self_eq_false, Bool.or_self,
    Bool.false_eq_true, if_false]
  rfl

end Phase

theorem setAt_setAt {α : Type} (l : List α) (i : Nat) (x y : α) : setAt (setAt l i x) i y = setAt l i y := by
  induction l generalizing i with
  | nil => rfl
  | cons a l ih => cases i <;> simp [setAt, ih]

/-- The block of a wave that changed, some lanes of a wave leaving their issue. -/
theorem block?_modWave_drop {t : State} {uid j : Nat} {k : Block} {w : Wave} (hk : t.block? uid = some k) (hw : k.waves[j]? = some w)
    (f : Wave → Wave) (r : WaveRef) (ls : List Nat) :
    ((t.modWave (.blk uid j) f).dropFromIssues r ls).block? uid = some { k with waves := setAt k.waves j (f w) } := by
  refine (State.block?_modWave t uid uid j f).trans ?_
  rw [if_pos rfl, hk, Option.map_some, modifyAt_eq_setAt hw]

/-- A lane of an arrival that made up the count, having waited at the barrier for it alone. -/
def Lane.passedAt (y : Lane) (c : Ctx) : Lane :=
  { y with state := .active, starve := 0, vpc := c.hdr + BitVec.ofNat 32 (c.slot + 2), slot := 0 }

theorem Barrier.arrive_eq (x : Barrier) (j : Nat) :
    x.arrive j = if x.of j = .arrived then x else { x with st := setAt x.st j .arrived, a := x.a + 1 } := by
  simp only [Barrier.arrive, beq_iff_eq]

theorem Barrier.arrive_n (x : Barrier) (j : Nat) : (x.arrive j).n = x.n := by
  rw [Barrier.arrive]
  split <;> rfl

theorem setAt_self {α : Type} {l : List α} {i : Nat} {x : α} (h : l[i]? = some x) : setAt l i x = l :=
  (modifyAt_eq_setAt h fun x => x).symm.trans (modifyAt_id l i)

/-- A wave none of whose lanes differs is the wave. -/
theorem LanesMapped.eq_of_id {w v : Wave} {h : Nat → Lane → Lane} (hm : LanesMapped w v h) (hid : ∀ l x, h l x = x) : v = w := by
  have hl : v.lanes = w.lanes := List.ext_getElem? fun l => by
    rw [hm.lanes]
    cases w.lanes[l]? <;> simp [hid]
  rw [hm.rest, hl]

theorem Wave.released_lane {n : Nat} {v : Wave} {l : Nat} {y : Lane} (h : v.lanes[l]? = some y) (hy : y.state = .waitBarrier n) :
    (v.released n).lanes[l]? = some y.release := by simp [Wave.released, h, hy]

/-- Lanes that go on at a header keep their states. -/
theorem moved_state {w v : Wave} {ls : List Nat} {target : Word} (hm : LanesMapped w v (fun l x => if l ∈ ls then x.goTo target else x))
    {st : LaneState} (h : ∀ y ∈ w.lanes, y.state ≠ st) : ∀ y ∈ v.lanes, y.state ≠ st := by
  intro y hy
  obtain ⟨l, hl⟩ := List.mem_iff_getElem?.1 hy
  rw [hm.lanes] at hl
  obtain ⟨z, hz, rfl⟩ := Option.map_eq_some_iff.1 hl
  have hstate : (if l ∈ ls then z.goTo target else z).state = z.state := by split <;> rfl
  exact hstate ▸ h z (List.mem_of_getElem? hz)

theorem mem_setAt {α : Type} {l : List α} {i : Nat} {x y : α} (h : y ∈ setAt l i x) : y = x ∨ y ∈ l := by
  obtain ⟨n, hn⟩ := List.mem_iff_getElem?.1 h
  rw [getElem?_setAt] at hn
  split at hn
  · exact .inl (by cases h : l[n]? <;> simp_all)
  · exact .inr (List.mem_of_getElem? hn)

namespace BarrierWave

variable {s : State} {c : Ctx} {w : Wave} {uid j : Nat} {k : Block} {n : Nat} {x : Barrier} (p : BarrierWave s c w uid j k n x)
include p

theorem blockOnly (t : State) : s.blockOnly c t = t := by simp [State.blockOnly, p.ref, isHandler]

theorem blockOf : s.blockOf c.r = some k := by rw [p.ref]; exact p.block

theorem barrierOf : s.barrier c.r n = x := by simp [State.barrier, p.blockOf, p.barrier]

theorem wave : k.waves[j]? = some w := by
  have := p.alone.wave
  rwa [p.ref, State.wave?, p.block] at this

theorem index : waveIndex c.r = j := by rw [p.ref]; rfl

/-- The block's barrier changed. -/
theorem modBarrier (f : Barrier → Barrier) :
    (s.modBarrier c.r n f).block? uid = some { k with barriers := setAt k.barriers n (f x) } := by
  rw [p.ref, State.modBarrier, State.block?_modBlock, if_pos rfl, p.block, Option.map_some, modifyAt_eq_setAt p.barrier]
  exact fun _ => rfl

/-- The block when its wave has arrived, and some lanes of the wave wait: the phase changes if it can. -/
theorem arriveAt (ts : List Nat) : ∃ v, LanesMapped w v (c.atBarrier n ts) ∧ (s.arriveAt c n ts).block? uid =
    some (({ k with barriers := setAt k.barriers n (x.arrive j), waves := setAt k.waves j v } : Block).changePhase n) := by
  obtain ⟨f, hf, hm⟩ := foldl_stopLane (s.modBarrier c.r n (fun x => x.arrive (waveIndex c.r))) c.r c.hdr c.slot (fun _ => .waitBarrier n) ts
  refine ⟨f w, hm w, ?_⟩
  have hb : ((s.modBarrier c.r n (fun x => x.arrive (waveIndex c.r))).stopLanes c ts (.waitBarrier n)).block? uid =
      some { k with barriers := setAt k.barriers n (x.arrive j), waves := setAt k.waves j (f w) } := by
    have := block?_modWave_drop (p.modBarrier (fun x => x.arrive (waveIndex c.r))) p.wave f c.r ts
    rw [← p.ref, ← hf, p.index] at this
    rw [p.index]
    exact this
  have he : s.arriveAt c n ts = State.modBlock ((s.modBarrier c.r n (fun x => x.arrive (waveIndex c.r))).stopLanes c ts (.waitBarrier n)) uid
      (fun k => k.changePhase n) := by simp only [State.arriveAt, p.ref]
  rw [he, State.block?_modBlock, if_pos rfl, hb, Option.map_some]
  intro k
  simp only [Block.changePhase]
  split <;> rfl

/-- `bari` (R362): the barrier configured, or a trap. -/
theorem exec_bari {a : BitVec 7} {b g : BitVec 4} (hb : n = b.toNat) (hi : LegalFor (.bari a b g) [] (aScal a false) w) (hT : c.t w g ≠ []) :
    exec (.bari a b g) s = .next (
      if k.waitsAt n = true ∨ 0 < x.a ∨ (w.opA 0 a).toNat = 0 ∨ k.waves.length < (w.opA 0 a).toNat then s.trapAt c (c.t w g) 0x0D 0 0
      else s.modBarrier c.r n (fun _ => ⟨(w.opA 0 a).toNat, 0, List.replicate k.waves.length .none⟩)) := by
  subst hb
  refine (execWord_alone p.alone hi rfl).trans ?_
  simp only [p.blockOnly, p.blockOf, p.barrierOf, List.isEmpty_eq_false_iff.2 hT, Option.map_some, Option.getD_some, Bool.false_eq_true,
    if_false, Bool.or_eq_true, decide_eq_true_eq, or_assoc, Nat.lt_one_iff]

/-- `bara` (R362): an arrival, or a trap. -/
theorem exec_bara {b g : BitVec 4} (hb : n = b.toNat) (hi : LegalFor (.bara b g) [] [] w) (hT : c.t w g ≠ []) :
    exec (.bara b g) s = .next (if x.n = 0 then s.trapAt c (c.t w g) 0x0D 0 0 else s.arriveAt c n []) := by
  subst hb
  refine (execWord_alone p.alone hi rfl).trans ?_
  simp only [p.blockOnly, p.barrierOf, List.isEmpty_eq_false_iff.2 hT, Bool.false_eq_true, if_false]

/-- `bar` (R362): an arrival whose lanes of T wait, or a trap; the rest goes on. -/
theorem exec_bar {b g : BitVec 4} (hb : n = b.toNat) (hi : LegalFor (.bar b g) [] [] w) (hT : c.t w g ≠ []) :
    exec (.bar b g) s = .next (State.moveLanes (if x.n = 0 then s.trapAt c (c.t w g) 0x0D 0 0 else s.arriveAt c n (c.t w g)) c.r
      (c.rest (c.t w g)) c.next) := by
  subst hb
  refine (execWord_alone p.alone hi rfl).trans ?_
  simp only [p.blockOnly, p.barrierOf, List.isEmpty_eq_false_iff.2 hT, Bool.false_eq_true, if_false]

/-- `barw` (R362): a trap, a wait, or going on; the rest goes on. -/
theorem exec_barw {b g : BitVec 4} (hb : n = b.toNat) (hi : LegalFor (.barw b g) [] [] w) (hT : c.t w g ≠ []) :
    exec (.barw b g) s = .next (State.moveLanes (if x.n = 0 ∨ x.of j = .none then s.trapAt c (c.t w g) 0x0D 0 0
      else if x.of j = .arrived then s.stopLanes c (c.t w g) (.waitBarrier n)
      else s.moveLanes c.r (c.t w g) c.next) c.r (c.rest (c.t w g)) c.next) := by
  subst hb
  refine (execWord_alone p.alone hi rfl).trans ?_
  simp only [p.blockOnly, p.barrierOf, List.isEmpty_eq_false_iff.2 hT, Bool.false_eq_true, if_false, Bool.or_eq_true, decide_eq_true_eq,
    beq_iff_eq, p.index]

/-- An arrival short of the count: the block counts it, and the lanes of `ts` wait. -/
theorem arriveAt_short (ha : (x.arrive j).a ≠ (x.arrive j).n) (ts : List Nat) : ∃ v, LanesMapped w v (c.atBarrier n ts) ∧
    (s.arriveAt c n ts).block? uid = some { k with barriers := setAt k.barriers n (x.arrive j), waves := setAt k.waves j v } := by
  obtain ⟨v, hv, hb⟩ := p.arriveAt ts
  have hx : (setAt k.barriers n (x.arrive j))[n]? = some (x.arrive j) := by simp [getElem?_setAt, p.barrier]
  exact ⟨v, hv, by rw [hb, Block.changePhase_short hx ha]⟩

/-- The arrival that makes up the count: the phase changes. -/
theorem arriveAt_full (h0 : (x.arrive j).n ≠ 0) (ha : (x.arrive j).a = (x.arrive j).n) (ts : List Nat) : ∃ v, LanesMapped w v (c.atBarrier n ts) ∧
    (s.arriveAt c n ts).block? uid = some { k with
      barriers := setAt k.barriers n (x.arrive j).changed, waves := (setAt k.waves j v).map (Wave.released n) } := by
  obtain ⟨v, hv, hb⟩ := p.arriveAt ts
  have hx : (setAt k.barriers n (x.arrive j))[n]? = some (x.arrive j) := by simp [getElem?_setAt, p.barrier]
  exact ⟨v, hv, by rw [hb, Block.changePhase_full hx h0 ha, setAt_setAt]⟩

/-- `bara` short of the count: the arrival is counted, and no lane of the block changes. -/
theorem bara_short {b g : BitVec 4} (hb : n = b.toNat) (hi : LegalFor (.bara b g) [] [] w) (hT : c.t w g ≠ []) (h0 : x.n ≠ 0)
    (ha : (x.arrive j).a ≠ x.n) :
    ∃ t, exec (.bara b g) s = .next t ∧ t.block? uid = some { k with barriers := setAt k.barriers n (x.arrive j) } := by
  obtain ⟨v, hv, hblock⟩ := p.arriveAt_short (by rwa [x.arrive_n]) []
  rw [hv.eq_of_id fun l x => by simp [Ctx.atBarrier], setAt_self p.wave] at hblock
  exact ⟨_, p.exec_bara hb hi hT, by rwa [if_neg h0]⟩

/-- `bara` that makes up the count: the phase changes. -/
theorem bara_full {b g : BitVec 4} (hb : n = b.toNat) (hi : LegalFor (.bara b g) [] [] w) (hT : c.t w g ≠ []) (h0 : x.n ≠ 0)
    (ha : (x.arrive j).a = x.n) :
    ∃ t, exec (.bara b g) s = .next t ∧ t.block? uid = some { k with
      barriers := setAt k.barriers n (x.arrive j).changed, waves := k.waves.map (Wave.released n) } := by
  obtain ⟨v, hv, hblock⟩ := p.arriveAt_full (by rwa [x.arrive_n]) (by rwa [x.arrive_n]) []
  rw [hv.eq_of_id fun l x => by simp [Ctx.atBarrier], setAt_self p.wave] at hblock
  exact ⟨_, p.exec_bara hb hi hT, by rwa [if_neg h0]⟩

/-- `bar` short of the count: the arrival is counted, the lanes of T wait, and the rest goes on. -/
theorem bar_short {b g : BitVec 4} (hb : n = b.toNat) (hi : LegalFor (.bar b g) [] [] w) (hT : c.t w g ≠ []) (h0 : x.n ≠ 0)
    (ha : (x.arrive j).a ≠ x.n) :
    ∃ t v, exec (.bar b g) s = .next t ∧ LanesMapped w v (fun l y =>
      if l ∈ c.rest (c.t w g) then (c.atBarrier n (c.t w g) l y).goTo c.next else c.atBarrier n (c.t w g) l y) ∧
      t.block? uid = some { k with barriers := setAt k.barriers n (x.arrive j), waves := setAt k.waves j v } := by
  obtain ⟨v, hv, hblock⟩ := p.arriveAt_short (by rwa [x.arrive_n]) (c.t w g)
  obtain ⟨f, hf, hm⟩ := foldl_moveLane (s.arriveAt c n (c.t w g)) c.r (fun _ => c.next) (c.rest (c.t w g))
  have hj : (setAt k.waves j v)[j]? = some v := by simp [getElem?_setAt, p.wave]
  refine ⟨_, f v, p.exec_bar hb hi hT, hv.trans (hm v), ?_⟩
  have hmoved := block?_modWave_drop hblock hj f c.r (c.rest (c.t w g))
  rw [if_neg h0, State.moveLanes, hf]
  rwa [← p.ref, setAt_setAt] at hmoved

/-- `bar` that makes up the count: the phase changes, and each lane that waits at the barrier goes on. -/
theorem bar_full {b g : BitVec 4} (hb : n = b.toNat) (hi : LegalFor (.bar b g) [] [] w) (hT : c.t w g ≠ []) (h0 : x.n ≠ 0)
    (ha : (x.arrive j).a = x.n) :
    ∃ t k', exec (.bar b g) s = .next t ∧ t.block? uid = some k' ∧ k'.barriers = setAt k.barriers n (x.arrive j).changed ∧
      (∀ v ∈ k'.waves, ∀ y ∈ v.lanes, y.state ≠ .waitBarrier n) ∧
      ∀ v l y, k'.waves[j]? = some v → w.lanes[l]? = some y → l ∈ c.t w g → v.lanes[l]? = some (y.passedAt c) := by
  obtain ⟨v, hv, hblock⟩ := p.arriveAt_full (by rwa [x.arrive_n]) (by rwa [x.arrive_n]) (c.t w g)
  obtain ⟨f, hf, hm⟩ := foldl_moveLane (s.arriveAt c n (c.t w g)) c.r (fun _ => c.next) (c.rest (c.t w g))
  have hj : ((setAt k.waves j v).map (Wave.released n))[j]? = some (v.released n) := by simp [getElem?_setAt, p.wave]
  have hmoved := block?_modWave_drop hblock hj f c.r (c.rest (c.t w g))
  refine ⟨_, { k with
    barriers := setAt k.barriers n (x.arrive j).changed
    waves := setAt ((setAt k.waves j v).map (Wave.released n)) j (f (v.released n)) }, p.exec_bar hb hi hT, ?_, rfl, ?_, ?_⟩
  · rw [if_neg h0, State.moveLanes, hf]
    rwa [← p.ref] at hmoved
  · intro u hu
    rcases mem_setAt hu with rfl | hu
    · exact moved_state (hm _) Wave.released_state
    · obtain ⟨z, -, rfl⟩ := List.mem_map.1 hu
      exact Wave.released_state
  · intro u l y hu hy hl
    rw [getElem?_setAt, if_pos rfl, hj, Option.map_some, Option.some.injEq] at hu
    rw [← hu, (hm _).lanes, Wave.released_lane (n := n) (by rw [hv.lanes, hy]; rfl) (by simp [Ctx.atBarrier, hl])]
    simp [Ctx.mem_rest, Ctx.atBarrier, hl, Lane.release, Lane.activate, Lane.passedAt]

end BarrierWave

end Sys2Proof.Machine

namespace Sys2Proof.Proofs

open Sys2Proof.Machine

/-- Settles O32: a shortfall traps the barrier's waiters one after the other (`WaitersTrapped`), and an arrival leaves the block as
`BarrierWave.arriveAt` says, with the phase changed when it makes up the count. -/
theorem barriers : Obligations.Barriers := by
  refine ⟨fun s n k x la hk hx hla hirdan hentry h0 hlacks hothers hq =>
    shortfalls_barrier hk hx hla hirdan hentry (barrierShort_of_lacks h0 hlacks) hothers hq, ?_⟩
  intro b g a s c w uid j k x h hr hk hx hj arrived waiting
  have p : BarrierWave s c w uid j k b.toNat x := ⟨h, hr, hk, hx⟩
  have harr : arrived = x.arrive j := (x.arrive_eq j).symm
  have hchanged : (⟨x.n, 0, arrived.st.map (fun y => if y == .arrived then .passed else y)⟩ : Barrier) = (x.arrive j).changed := by
    rw [harr, Barrier.changed, x.arrive_n]
  refine ⟨fun hi hT hwaits ha h1 hn => ?_, fun hi hT h0 ha => ?_, fun hi hT h0 ha => ?_, fun hT => ⟨fun h0 => ⟨fun hi => ?_, fun hi => ?_⟩,
    fun h0 hi => ?_, fun hbad hi => ?_⟩, fun hi hT h0 ha => ?_, fun hi hT h0 ha => ?_, fun hi hT h0 => ⟨fun hof => ?_, fun hof => ?_⟩⟩
  · exact ⟨_, p.exec_bari rfl hi hT, by rw [if_neg (by simp [hwaits, ha]; omega), p.modBarrier]⟩
  · rw [harr] at ha ⊢
    exact p.bara_short rfl hi hT h0 ha
  · rw [hchanged]
    exact p.bara_full rfl hi hT h0 (harr ▸ ha)
  · rw [p.exec_bar rfl hi hT, if_pos h0]
    rfl
  · rw [p.exec_bara rfl hi hT, if_pos h0]
    rfl
  · rw [p.exec_barw rfl hi hT, if_pos h0]
    rfl
  · rw [p.exec_bari rfl hi hT, if_pos hbad]
    rfl
  · obtain ⟨t, v, ht, hv, hblock⟩ := p.bar_short rfl hi hT h0 (harr ▸ ha)
    refine ⟨t, v, ht, hv.congr fun l y _ => ?_, harr ▸ hblock⟩
    by_cases hl : l ∈ c.t w g <;> simp [waiting, Ctx.atBarrier, Ctx.mem_rest, hl]
  · rw [hchanged]
    exact p.bar_full rfl hi hT h0 (harr ▸ ha)
  · refine Departs.rest_goOn ((Departs.refl s c.r w).stopLanes (c.t w g) (.waitBarrier b.toNat)) (c.t_subset w g) rfl ?_
    rw [p.exec_barw rfl hi hT, if_neg (by simp [h0, hof]), if_pos hof]
  · obtain ⟨f, hf, hm⟩ := Departs.rest_goOn ((Departs.refl s c.r w).moveLanes (c.t w g) c.next) (c.t_subset w g) rfl
      (by rw [p.exec_barw rfl hi hT, if_neg (by simp [h0, hof]), if_neg (by simp [hof])])
    refine ⟨f, hf, hm.congr fun l y _ => ?_⟩
    by_cases hl : l ∈ c.t w g
    · rw [if_pos hl, if_pos (c.t_subset w g hl)]
    · rw [if_neg hl]

end Sys2Proof.Proofs
end

section
/-! SUPPORT. Words of several lanes put side by side into a scratchpad, and what a push or a pop changes of a block (R3, R366, R367). -/

namespace Sys2Proof.Machine

theorem cellRun_congr {c e : Cells Byte} {a n : Nat} (h : ∀ i < n, cellGet 0 c (a + i) = cellGet 0 e (a + i)) : cellRun 0 c a n = cellRun 0 e a n := by
  induction n generalizing a with
  | zero => rfl
  | succ n ih =>
    rw [cellRun, cellRun, show cellGet 0 c a = cellGet 0 e a from h 0 (Nat.succ_pos n)]
    exact congrArg _ (ih fun i hi => by simpa [Nat.add_assoc, Nat.add_comm 1 i] using h (i + 1) (by omega))

/-- Words of lanes, each at its lane's place: each reads back. -/
theorem ofBytesLE_foldl_words {c : Cells Byte} (hc : cellsWf 0 c = true) (base : Nat) (value : Nat → Nat) {ls : List Nat} {l : Nat} (hl : l ∈ ls) :
    ofBytesLE (cellRun 0 (ls.foldl (fun c l => cellPut 0 c (base + 4 * l) (bytesLE 4 (value l))) c) (base + 4 * l) 4) = value l % 256 ^ 4 := by
  rw [← ofBytesLE_cellPut hc (base + 4 * l) 4 (value l)]
  refine congrArg ofBytesLE (cellRun_congr fun i hi => ?_)
  rw [cellGet_foldl_cellPut hc 4 (fun l => base + 4 * l) value, cellGet_cellPut 0 _ _ _ _ hc, length_bytesLE, if_pos (by omega),
    getD_bytesLE (by omega)]
  cases hlast : (ls.filter (fun m => decide (base + 4 * m ≤ base + 4 * l + i ∧ base + 4 * l + i < base + 4 * m + 4))).getLast? with
  | none =>
    have := List.filter_eq_nil_iff.1 (List.getLast?_eq_none_iff.1 hlast) l hl
    simp at this
    omega
  | some m =>
    have hm := (List.mem_filter.1 (List.mem_of_getLast? hlast)).2
    obtain rfl : m = l := by simp at hm; omega
    rfl

/-- Outside the words of the lanes every byte is as before. -/
theorem cellGet_foldl_words {c : Cells Byte} (hc : cellsWf 0 c = true) (base : Nat) (value : Nat → Nat) {ls : List Nat} {a : Nat}
    (ha : ∀ l ∈ ls, a < base + 4 * l ∨ base + 4 * l + 4 ≤ a) :
    cellGet 0 (ls.foldl (fun c l => cellPut 0 c (base + 4 * l) (bytesLE 4 (value l))) c) a = cellGet 0 c a := by
  rw [cellGet_foldl_cellPut hc 4 (fun l => base + 4 * l) value, List.filter_eq_nil_iff.2 fun l hl => by have := ha l hl; simp; omega]
  rfl

/-- Releasing a waiting `qpop` changes waves alone, and depends on the waves alone. -/
theorem Block.releasePop_eq (k : Block) (n : Nat) : k.releasePop n = { k with waves := (k.releasePop n).waves } := by
  rw [Block.releasePop]
  split <;> rfl

theorem Block.releasePop_waves {k t : Block} (h : t.waves = k.waves) (n : Nat) : (t.releasePop n).waves = (k.releasePop n).waves := by
  have ha : t.popArrivals n = k.popArrivals n := by rw [Block.popArrivals, h]; rfl
  rw [Block.releasePop, Block.releasePop, ha]
  split
  · exact h
  · simp only [h]

/-- The queue after a push of wave `me` (R367). -/
def Queue.pushed (x : Queue) (me : Nat) : Queue :=
  { x with tail := (x.tail + 1) % x.slots, filled := x.filled + 1, allow := modifyAt x.allow me (· - 1), owners := setAt x.owners x.tail me }

/-- The queue after a pop (R367). -/
def Queue.popped (x : Queue) : Queue :=
  { x with head := (x.head + 1) % x.slots, filled := x.filled - 1, allow := modifyAt x.allow (x.owners.getD x.head 0) (· + 1) }

/-- A block with the slot at the tail of queue `n` filled by the words of the lanes `ls` (R367). -/
def Block.pushSlot (k : Block) (x : Queue) (n me : Nat) (ls : List Nat) (value : Nat → Nat) : Block :=
  ((rangeFrom ((x.base + x.size * x.tail) / 16) (x.size / 16)).foldl (fun k y => k.fillGranule y)
    (Block.writeAll { k with queues := setAt k.queues n (x.pushed me) } ((ls.filter (fun l => decide (4 * l < x.size))).map
      (fun l => (x.base + x.size * x.tail + 4 * l, bytesLE 4 (value l)))))).releasePop n

/-- A block with the slot at the head of queue `n` taken (R367). -/
def Block.popSlot (k : Block) (x : Queue) (n : Nat) : Block :=
  (rangeFrom ((x.base + x.size * x.head) / 16) (x.size / 16)).foldl (fun k y => k.emptyGranule y) { k with queues := setAt k.queues n x.popped }

/-- Writes applied in order and granules then made full. -/
theorem Block.writeFill_eq (k : Block) (ws : List (Nat × List Byte)) (gs : List Nat) :
    let t := gs.foldl (fun k y => k.fillGranule y) (k.writeAll ws)
    t = { k with scratch := t.scratch, feEmpty := t.feEmpty, poisonG := t.poisonG } ∧
      t.scratch = ws.foldl (fun c w => cellPut 0 c w.1 w.2) k.scratch ∧ ∀ y, y ∈ t.feEmpty ↔ y ∈ k.feEmpty ∧ y ∉ gs := by
  obtain ⟨hfill, hgran⟩ := foldl_fillGranule (k.writeAll ws) gs
  rw [Block.writeAll_eq] at hfill hgran ⊢
  exact ⟨by rw [hfill], by rw [hfill], hgran⟩

theorem Block.pushSlot_eq (k : Block) (x : Queue) (n me : Nat) (ls : List Nat) (value : Nat → Nat) :
    let t := k.pushSlot x n me ls value
    let at_ := x.base + x.size * x.tail
    t = { k with
      queues := setAt k.queues n (x.pushed me), waves := (k.releasePop n).waves, scratch := t.scratch, feEmpty := t.feEmpty
      poisonG := t.poisonG } ∧
    t.scratch = (ls.filter (fun l => decide (4 * l < x.size))).foldl (fun c l => cellPut 0 c (at_ + 4 * l) (bytesLE 4 (value l))) k.scratch ∧
    ∀ y, y ∈ t.feEmpty ↔ y ∈ k.feEmpty ∧ ¬ (at_ / 16 ≤ y ∧ y < at_ / 16 + x.size / 16) := by
  intro t at_
  obtain ⟨hrest, hscratch, hgran⟩ := Block.writeFill_eq { k with queues := setAt k.queues n (x.pushed me) }
    ((ls.filter (fun l => decide (4 * l < x.size))).map (fun l => (at_ + 4 * l, bytesLE 4 (value l)))) (rangeFrom (at_ / 16) (x.size / 16))
  rw [List.foldl_map] at hscratch
  have ht : t = Block.releasePop _ n := rfl
  rw [Block.releasePop_eq, Block.releasePop_waves (k := k) (congrArg Block.waves hrest :), hrest] at ht
  exact ⟨by rw [ht], by rw [ht]; exact hscratch, fun y => by rw [ht]; exact (hgran y).trans (by rw [mem_rangeFrom])⟩

theorem Block.popSlot_eq (k : Block) (x : Queue) (n : Nat) :
    let t := k.popSlot x n
    let at_ := x.base + x.size * x.head
    t = { k with queues := setAt k.queues n x.popped, feEmpty := t.feEmpty } ∧
      ∀ y, y ∈ t.feEmpty ↔ y ∈ k.feEmpty ∨ (at_ / 16 ≤ y ∧ y < at_ / 16 + x.size / 16) := by
  intro t at_
  obtain ⟨hempty, hgran⟩ := foldl_emptyGranule { k with queues := setAt k.queues n x.popped } (rangeFrom (at_ / 16) (x.size / 16))
  exact ⟨hempty, fun y => (hgran y).trans (by rw [mem_rangeFrom])⟩

/-- What a lane reads in the slot at the head of a queue (R367). -/
def Block.slotEff (k : Block) (x : Queue) (d : Nat) (l : Nat) : LaneEff :=
  { regs := [(d, if 4 * l < x.size then BitVec.ofNat 32 (k.scratchNat (x.base + x.size * x.head + 4 * l) 4) else 0)] }

/-- A wave whose lanes `ls` have read the slot at the head of a queue. -/
def Wave.readSlot (w : Wave) (k : Block) (x : Queue) (d : Nat) (ls : List Nat) : Wave :=
  { w with lanes := (w.applyEffs ls (k.slotEff x d)).lanes }

theorem Wave.readSlot_have (w : Wave) (k : Block) (x : Queue) (d : Nat) (ls : List Nat) :
    LanesHave w (w.readSlot k x d ls) ls (k.slotEff x d) := by
  obtain ⟨hsize, hin, hout⟩ := (applyEffs_written w ls (k.slotEff x d) (fun l => by simp [Block.slotEff]) (fun l => by simp [Block.slotEff])).lanes
  exact ⟨hsize, hin, hout⟩

/-- The queue that the four configuration words `v` give a block of so many waves (R366). -/
def Queue.configured (v : Nat → Nat) (waves : Nat) : Queue where
  base := v 0
  slots := v 1 % 2 ^ 16
  size := v 2
  producers := v 3
  allowance := v 1 / 2 ^ 16
  head := 0
  tail := 0
  filled := 0
  allow := (rangeFrom 0 waves).map (fun i => if (v 3).testBit i then v 1 / 2 ^ 16 else 0)
  owners := List.replicate (v 1 % 2 ^ 16) 0

/-- A block with queue `n` set, its slots' granules empty (R366). -/
def Block.setQueue (k : Block) (n : Nat) (q : Queue) : Block :=
  (rangeFrom (q.base / 16) (q.slots * q.size / 16)).foldl (fun k y => k.emptyGranule y) { k with queues := setAt k.queues n q }

theorem Block.setQueue_eq (k : Block) (n : Nat) {q : Queue} (hb : q.base % 16 = 0) (hs : q.size % 16 = 0) :
    let t := k.setQueue n q
    t = { k with queues := setAt k.queues n q, feEmpty := t.feEmpty } ∧
      ∀ y, y ∈ t.feEmpty ↔ y ∈ k.feEmpty ∨ (q.base / 16 ≤ y ∧ y < (q.base + q.slots * q.size) / 16) := by
  intro t
  obtain ⟨hempty, hgran⟩ := foldl_emptyGranule { k with queues := setAt k.queues n q } (rangeFrom (q.base / 16) (q.slots * q.size / 16))
  exact ⟨hempty, fun y => (hgran y).trans (or_congr_right (mem_rangeFrom_granules hb (by rw [Nat.mul_mod, hs, Nat.mul_zero, Nat.zero_mod]) y))⟩

/-- Configuration words inside the limits of a queue (R366). -/
theorem Block.qcfgBad_none {k : Block} {n bound base sa size mask width : Nat} {x : Queue} (hx : k.queues[n]? = some x) (hbase : base % 16 = 0)
    (hbound : base + sa % 2 ^ 16 * size ≤ bound) (h1 : 1 ≤ sa % 2 ^ 16) (h256 : sa % 2 ^ 16 ≤ 256) (ha : 1 ≤ sa / 2 ^ 16)
    (hslots : sa / 2 ^ 16 * popCount 32 mask ≤ sa % 2 ^ 16) (hsize : size % 16 = 0) (h16 : 16 ≤ size) (hwidth : size ≤ 4 * width)
    (hmask : mask ≠ 0) (hwaves : mask < 2 ^ k.waves.length) (hfilled : x.filled = 0) (hwaits : k.waitsQueue n = false) :
    k.qcfgBad n bound base sa size mask width = none := by
  have hlimits : (decide (sa % 2 ^ 16 < 1) || decide (256 < sa % 2 ^ 16) || decide (sa / 2 ^ 16 < 1) ||
      decide (sa % 2 ^ 16 < sa / 2 ^ 16 * popCount 32 mask) || size % 16 != 0 || decide (size < 16) || decide (4 * width < size) || mask == 0 ||
      mask / 2 ^ k.waves.length != 0) = false := by
    simp only [Nat.not_lt.2 h1, Nat.not_lt.2 h256, Nat.not_lt.2 ha, Nat.not_lt.2 hslots, Nat.not_lt.2 h16, Nat.not_lt.2 hwidth, hsize,
      Nat.div_eq_of_lt hwaves, decide_false, bne_self_eq_false, beq_eq_false_iff_ne.2 hmask, Bool.or_self]
  simp only [Block.qcfgBad, hbase, hlimits, Nat.not_lt.2 hbound, List.getD_eq_getElem?_getD, hx, Option.getD_some, hfilled, hwaits,
    bne_self_eq_false, Bool.false_eq_true, if_false, Nat.lt_irrefl, decide_false, Bool.or_self]

section Configure

variable {s : State} {c : Ctx} {w : Wave} {uid j : Nat} {k : Block} {la : Launch} (p : PadWave s c w uid j k la) {d : BitVec 6} {n g : BitVec 4}
  (hT : c.t w g ≠ []) (hi : LegalFor (.qcfg d n g) (rangeFrom d.toNat 4) [] w) (hf : w.allFull [(c.t w g).headD 0] (rangeFrom d.toNat 4))
  {v : Nat → Nat} (hv : ∀ i, (w.reg ((c.t w g).headD 0) (d.toNat + i)).toNat = v i)
include p hT hi hf hv

/-- `qcfg` (R366): a trap, or the queue configured with the words of the elected lane. -/
theorem exec_qcfg : exec (.qcfg d n g) s = .next (
    match k.qcfgBad n.toNat la.record.scratch (v 0) (v 1) (v 2) (v 3) w.width with
    | some cause => s.trapAt c (c.t w g) cause 0 (if cause = 0x0C then 0 else v 0)
    | none => s.modBlock uid (fun k' => k'.setQueue n.toNat (.configured v k.waves.length))) := by
  have hg : s.gates c w (fun _ => (regRun d 4).map (fun x => ((c.t w g).headD 0, x))) (c.t w g) = (c.t w g, s) :=
    gates_go fun _ _ => gate_go fun m hm x hx => by
      obtain ⟨r, hr, rfl⟩ := List.mem_map.1 hm
      exact hf _ (List.mem_singleton_self _) x hx r hr
  refine (execWord_alone p.alone hi rfl).trans ?_
  simp only [p.blockOnly, unlessBlocked_free p.free, hg, p.blockOf, p.scratchSize, hv, List.isEmpty_eq_false_iff.2 hT, p.modBlockOf]
  cases k.qcfgBad n.toNat la.record.scratch (v 0) (v 1) (v 2) (v 3) w.width <;> rfl

end Configure

section Exec

variable {s : State} {c : Ctx} {w : Wave} {uid j : Nat} {k : Block} {la : Launch} (p : PadWave s c w uid j k la) {d : BitVec 6} {n g : BitVec 4}
  (hT : c.t w g ≠ []) {x : Queue} (hx : k.queues[n.toNat]? = some x)
include p hx

theorem PadWave.queueOf : s.queueOf c.r n.toNat = x := by simp [State.queueOf, p.blockOf, hx]

include hT

/-- `qpush` (R367): a trap, a wait, or the slot at the tail filled. -/
theorem exec_qpush (hi : LegalFor (.qpush d n g) [d.toNat] [] w) (hf : w.allFull (c.t w g) [d.toNat]) :
    exec (.qpush d n g) s = .next (
      if x.slots = 0 ∨ x.producers.testBit j = false then s.trapAt c (c.t w g) 0x0C 0 0
      else if x.allow.getD j 0 = 0 then s.stopLanes c (c.t w g) (.waitGranule (.push n.toNat))
      else s.modBlock uid (fun k => k.pushSlot x n.toNat j (c.t w g) (fun l => (w.reg l d.toNat).toNat))) := by
  have hg : s.gates c w (fun l => [(l, d.toNat)]) (c.t w g) = (c.t w g, s) := gates_full hf
  have hme : waveIndex c.r = j := by rw [p.ref]; rfl
  refine (execWord_alone p.alone hi rfl).trans ?_
  simp only [p.blockOnly, unlessBlocked_free p.free, hg, p.queueOf hx, hme, List.isEmpty_eq_false_iff.2 hT, Bool.false_eq_true, if_false,
    Bool.or_eq_true, beq_iff_eq, Bool.not_eq_true', p.modBlockOf]
  rfl

/-- `qpop` (R367): a trap, a wait, or the slot at the head taken. -/
theorem exec_qpop (hi : LegalFor (.qpop d n g) [d.toNat] [] w) (hf : w.allFull (c.t w g) [d.toNat]) :
    exec (.qpop d n g) s = .next (
      if x.slots = 0 then s.trapAt c (c.t w g) 0x0C 0 0
      else if x.filled = 0 then s.fresh.2.stopLanes c (c.t w g) (.waitGranule (.pop n.toNat s.next))
      else s.modBlock uid (fun k' =>
        Block.popSlot { k' with waves := modifyAt k'.waves j (fun v => v.readSlot k x d.toNat (c.t w g)) } x n.toNat)) := by
  have hg : s.gates c w (fun l => [(l, d.toNat)]) (c.t w g) = (c.t w g, s) := gates_full hf
  refine (execWord_alone p.alone hi rfl).trans ?_
  simp only [p.blockOnly, unlessBlocked_free p.free, hg, p.queueOf hx, List.isEmpty_eq_false_iff.2 hT, Bool.false_eq_true, if_false,
    beq_iff_eq, p.blockOf, Option.map_some, Option.getD_some]
  refine congrArg Host.Outcome.next (congrArg (ite _ _) (congrArg (ite _ _) ?_))
  rw [p.ref]
  exact modBlockOf_modWave ..

end Exec

end Sys2Proof.Machine

namespace Sys2Proof.Proofs

open Sys2Proof.Machine

/-- Settles O47: each word of a pushed slot is its lane's alone (`ofBytesLE_foldl_words`), and the slot's granules, its queue and the released
`qpop` are separate parts of the block (`Block.pushSlot_eq`, `Block.popSlot_eq`, `Block.setQueue_eq`). -/
theorem namedQueues : Obligations.NamedQueues := by
  intro d n g s c w uid j k la x h hr hk hla hT hacq hgroups hx waiting
  have p : PadWave s c w uid j k la := ⟨h, hr, hk, hla, hacq, hgroups⟩
  refine ⟨?_, fun hi hf => ⟨fun hbad => ?_, fun h0 hprod hallow => ?_, fun h0 hprod hallow _ _ hwf => ?_⟩,
    fun hi hf => ⟨fun h0 => ?_, fun h0 hempty => ?_, fun h0 hfilled => ?_⟩⟩
  · intro e v slots allowance hi hf
    have hrun := exec_qcfg p hT hi hf (v := v) fun _ => rfl
    refine ⟨fun hbase => ?_, fun hbase hbound h1 h256 ha hslots hsize h16 hwidth hmask hwaves hfilled hwaits => ?_⟩
    · have hbad : k.qcfgBad n.toNat la.record.scratch (v 0) (v 1) (v 2) (v 3) w.width = some 0x0A := by simp [Block.qcfgBad, hbase]
      rw [hbad] at hrun
      exact hrun
    · rw [Block.qcfgBad_none hx hbase hbound h1 h256 ha hslots hsize h16 hwidth hmask hwaves hfilled hwaits] at hrun
      obtain ⟨hrest, hgran⟩ := k.setQueue_eq n.toNat (q := .configured v k.waves.length) hbase hsize
      exact ⟨_, hrun, hrest, hgran⟩
  · rw [exec_qpush p hT hx hi hf, if_pos hbad]
    rfl
  · obtain ⟨f, hstop, hmap⟩ := foldl_stopLane s c.r c.hdr c.slot (fun _ => .waitGranule (.push n.toNat)) (c.t w g)
    exact ⟨f, by rw [exec_qpush p hT hx hi hf, if_neg (by simp [h0, hprod]), if_pos hallow, State.stopLanes, hstop], hmap w⟩
  · intro at_
    obtain ⟨hrest, hscratch, hgran⟩ := k.pushSlot_eq x n.toNat j (c.t w g) (fun l => (w.reg l d.toNat).toNat)
    refine ⟨_, by rw [exec_qpush p hT hx hi hf, if_neg (by simp [h0, hprod]), if_neg hallow], hrest, fun l hl hin => ?_, fun a ha => ?_, hgran⟩
    · rw [Block.scratchNat, Block.scratchBytes, hscratch,
        ofBytesLE_foldl_words hwf at_ (fun l => (w.reg l d.toNat).toNat) (List.mem_filter.2 ⟨hl, by simpa using hin⟩)]
      exact Nat.mod_eq_of_lt (w.reg l d.toNat).isLt
    · rw [hscratch]
      refine cellGet_foldl_words hwf at_ _ fun l hl => ?_
      obtain ⟨hl, hin⟩ := List.mem_filter.1 hl
      exact ha l hl (by simpa using hin)
  · rw [exec_qpop p hT hx hi hf, if_pos h0]
    rfl
  · obtain ⟨f, hstop, hmap⟩ := foldl_stopLane s.fresh.2 c.r c.hdr c.slot (fun _ => .waitGranule (.pop n.toNat s.next)) (c.t w g)
    refine ⟨_, f w, by rw [exec_qpop p hT hx hi hf, if_neg h0, if_pos hempty, State.stopLanes, hstop], ?_, hmap w, ?_⟩
    · rw [State.wave?_dropFromIssues, State.wave?_modWave]
      exact congrArg (Option.map f) h.wave
    · exact State.modWave_mem ..
  · intro at_
    obtain ⟨hrest, hgran⟩ := Block.popSlot_eq
      { k with waves := modifyAt k.waves j (fun v => v.readSlot k x d.toNat (c.t w g)) } x n.toNat
    refine ⟨_, w.readSlot k x d.toNat (c.t w g), by rw [exec_qpop p hT hx hi hf, if_neg h0, if_neg hfilled], ?_, w.readSlot_have .., rfl, hgran⟩
    rw [← modifyAt_eq_setAt p.wave fun v => v.readSlot k x d.toNat (c.t w g)]
    exact hrest

end Sys2Proof.Proofs
end

section
/-! The proofs from here on are elaborated one after the other: side by side, those that wait for each other hold more threads than the memory of
the check has room for. -/

set_option Elab.async false

section
/-! SUPPORT. What a change of one wave leaves of the cores, and the turns of the schedule (R60, log entry 1). -/

namespace Sys2Proof.Machine

/-- A change of one wave leaves what a core holds of memory and of translations. -/
theorem State.core_modWave (s : State) (r : WaveRef) (f : Wave → Wave) (c : Nat) :
    ((s.modWave r f).core c).l1 = (s.core c).l1 ∧ ((s.modWave r f).core c).tlb = (s.core c).tlb := by
  cases r with
  | blk u w => exact ⟨rfl, rfl⟩
  | hdl d q =>
    simp only [State.modWave, core_modCore]
    split <;> exact ⟨rfl, rfl⟩

end Sys2Proof.Machine

namespace Sys2Proof.Proofs

open Sys2Proof.Machine

/-- Settles O4: each word's fields, read in its class, are the operands, and the instruction is well-formed. -/
theorem sampleWordsDecode : Obligations.SampleWordsDecode := by
  unfold Obligations.SampleWordsDecode
  decide +kernel

/-- Settles O6: the kind of the turn that comes first is what `step` branches on. -/
theorem stepTakesNextTurn : Obligations.StepTakesNextTurn := by
  refine ⟨fun s c q ts hturns => ?cycle, fun s t e ts hturns hexec => ?event, fun s n ts hturns => ?elapse⟩
  case cycle => simp only [step, hturns]
  case event => simp only [step, hturns, settled, hexec]
  case elapse => simp only [step, hturns]

/-- Settles O9: nothing is stored at reset. -/
theorem resetStorageCanonical : Obligations.ResetStorageCanonical := ⟨rfl, rfl, fun _ hb => nomatch hb⟩

/-- Settles O11: a wave of a block changes the blocks alone, a handler wave the cores alone, and neither changes another wave. -/
theorem onlyWaveFrame : Obligations.OnlyWaveFrame := by
  rintro s t r ⟨f, rfl⟩
  have hwaves (q : WaveRef) (hq : q ≠ r) := State.wave?_modWave_ne s r q f hq
  simpa using ⟨hwaves, State.core_modWave s r f⟩

end Sys2Proof.Proofs
end

section
/-! SUPPORT. Every field of a well-formed instruction's word reads back (R63, R70 to R84). -/

namespace Sys2Proof

theorem fld_eq {w lo n : Nat} {x : BitVec n} (h : w / 2 ^ lo % 2 ^ n = x.toNat) : fld w lo n = x :=
  BitVec.eq_of_toNat_eq ((fld_toNat ..).trans h)

/-- The major stands above the 26 bits that hold the operands. -/
theorem major_add {k r : Nat} (hk : k % 2 ^ 26 = 0) (hr : r < 2 ^ 26) : (k + r) / 2 ^ 26 % 64 = k / 2 ^ 26 % 64 := by omega

/-- A word below 2^26 has major 0. -/
theorem major_zero {r : Nat} (hr : r < 2 ^ 26) : r / 2 ^ 26 % 64 = 0 := by omega

/-- An instruction's word is one of 32 bits, and its class gives its fields back. -/
def Decodes (i : Instr) : Prop := ∀ c, classOf i = some c → encodeNat i < 2 ^ 32 ∧ decodeFields c (encodeNat i) = .ok i

theorem decodes_of_class {i : Instr} {c : Nat} (hc : classOf i = some c) (hw : encodeNat i < 2 ^ 32)
    (hd : decodeFields c (encodeNat i) = .ok i) : Decodes i := fun c' h => by
  cases hc.symm.trans h
  exact ⟨hw, hd⟩

/-- A row accepts a word whose required bits hold, when its fields are the operands. -/
theorem accepts {p : Prop} [Decidable p] {i j : Instr} {r : Reject} (hp : p) (h : i = j) :
    (if p then .ok i else .error r : Except Reject Instr) = .ok j := by rw [if_pos hp, h]

/-- What the decoder of a class makes of a word under a major. -/
def decodeRow (c op w : Nat) : Except Reject Instr :=
  match c with
  | 0 => decodeAlu op w
  | 1 => decodeCtrl op w
  | 2 => decodeMem op w
  | 3 => decodeCopy op w
  | 4 => decodeMtx op w
  | 5 => decodeColl op w
  | 6 => decodeSys op w
  | _ => .error .illegalClass

theorem decodeFields_eq (c w : Nat) : decodeFields c w = decodeRow c (w / 2 ^ 26 % 64) w := by
  unfold decodeFields decodeRow
  rfl

/-- A word of a major above 26 bits of operands decodes when the major's row gives the operands back. -/
theorem decodes_of_row {i : Instr} {c k low : Nat} (hc : classOf i = some c) (he : encodeNat i = k + low)
    (hk : k % 2 ^ 26 = 0 ∧ k < 2 ^ 32) (hlow : low < 2 ^ 26) (hd : decodeRow c (k / 2 ^ 26) (k + low) = .ok i) : Decodes i := by
  refine decodes_of_class hc (by omega) ?_
  rw [decodeFields_eq, he, show (k + low) / 2 ^ 26 % 64 = k / 2 ^ 26 by omega]
  exact hd

/-! Forms that several rows share: a row of the form gives back every operand of its words. -/

/-- Three operands and a sub-operation. -/
theorem decodes_threeOperands {c k : Nat} {F : BitVec 6 → BitVec 7 → BitVec 6 → BitVec 3 → BitVec 4 → Instr}
    {d : BitVec 6} {a : BitVec 7} {b : BitVec 6} {m : BitVec 3} {g : BitVec 4}
    (hc : classOf (F d a b m g) = some c) (he : encodeNat (F d a b m g) = k + (d.toNat * 1048576 + a.toNat * 8192 + b.toNat * 128 + m.toNat * 16 + g.toNat))
    (hk : k % 2 ^ 26 = 0 ∧ k < 2 ^ 32)
    (hd : ∀ w, decodeRow c (k / 2 ^ 26) w = .ok (F (fld w 20 6) (fld w 13 7) (fld w 7 6) (fld w 4 3) (fld w 0 4))) : Decodes (F d a b m g) := by
  refine decodes_of_row hc he hk (by omega) ((hd _).trans ?_)
  obtain ⟨hk, -⟩ := hk
  congr 2 <;> exact fld_eq (by omega)

/-- A register and 16 bits of immediate or offset. -/
theorem decodes_immediate {c k : Nat} {F : BitVec 6 → BitVec 16 → BitVec 4 → Instr}
    {d : BitVec 6} {i : BitVec 16} {g : BitVec 4}
    (hc : classOf (F d i g) = some c) (he : encodeNat (F d i g) = k + (d.toNat * 1048576 + i.toNat * 16 + g.toNat))
    (hk : k % 2 ^ 26 = 0 ∧ k < 2 ^ 32)
    (hd : ∀ w, decodeRow c (k / 2 ^ 26) w = .ok (F (fld w 20 6) (fld w 4 16) (fld w 0 4))) : Decodes (F d i g) := by
  refine decodes_of_row hc he hk (by omega) ((hd _).trans ?_)
  obtain ⟨hk, -⟩ := hk
  congr 2 <;> exact fld_eq (by omega)

/-- A guard alone. -/
theorem decodes_guardOnly {c k : Nat} {F : BitVec 4 → Instr}
    {g : BitVec 4}
    (hc : classOf (F g) = some c) (he : encodeNat (F g) = k + (g.toNat))
    (hk : k % 2 ^ 26 = 0 ∧ k < 2 ^ 32)
    (hd : ∀ w, decodeRow c (k / 2 ^ 26) w = if fixedIs w 4 22 0 then .ok (F (fld w 0 4)) else .error .reservedBits) : Decodes (F g) := by
  refine decodes_of_row hc he hk (by omega) ((hd _).trans ?_)
  obtain ⟨hk, -⟩ := hk
  refine accepts (by simp only [fixedIs, beq_iff_eq]; omega) ?_
  exact congrArg F (fld_eq (by omega))

/-- One operand. -/
theorem decodes_oneOperand {c k : Nat} {F : BitVec 7 → BitVec 4 → Instr}
    {a : BitVec 7} {g : BitVec 4}
    (hc : classOf (F a g) = some c) (he : encodeNat (F a g) = k + (a.toNat * 8192 + g.toNat))
    (hk : k % 2 ^ 26 = 0 ∧ k < 2 ^ 32)
    (hd : ∀ w, decodeRow c (k / 2 ^ 26) w = if fixedIs w 4 9 0 && fixedIs w 20 6 0 then .ok (F (fld w 13 7) (fld w 0 4)) else .error .reservedBits) : Decodes (F a g) := by
  refine decodes_of_row hc he hk (by omega) ((hd _).trans ?_)
  obtain ⟨hk, -⟩ := hk
  refine accepts (by simp only [fixedIs, Bool.and_eq_true, beq_iff_eq]; omega) ?_
  congr 1 <;> exact fld_eq (by omega)

/-- A number of four bits. -/
theorem decodes_fourBits {c k : Nat} {F : BitVec 4 → BitVec 4 → Instr}
    {n : BitVec 4} {g : BitVec 4}
    (hc : classOf (F n g) = some c) (he : encodeNat (F n g) = k + (n.toNat * 16 + g.toNat))
    (hk : k % 2 ^ 26 = 0 ∧ k < 2 ^ 32)
    (hd : ∀ w, decodeRow c (k / 2 ^ 26) w = if fixedIs w 8 18 0 then .ok (F (fld w 4 4) (fld w 0 4)) else .error .reservedBits) : Decodes (F n g) := by
  refine decodes_of_row hc he hk (by omega) ((hd _).trans ?_)
  obtain ⟨hk, -⟩ := hk
  refine accepts (by simp only [fixedIs, beq_iff_eq]; omega) ?_
  congr 1 <;> exact fld_eq (by omega)

/-- A global access. -/
theorem decodes_memory {c k : Nat} {F : BitVec 6 → BitVec 6 → BitVec 6 → BitVec 2 → BitVec 2 → BitVec 4 → Instr}
    {d : BitVec 6} {b : BitVec 6} {o : BitVec 6} {x : BitVec 2} {q : BitVec 2} {g : BitVec 4}
    (hc : classOf (F d b o x q g) = some c) (he : encodeNat (F d b o x q g) = k + (d.toNat * 1048576 + b.toNat * 16384 + o.toNat * 256 + x.toNat * 64 + q.toNat * 16 + g.toNat))
    (hk : k % 2 ^ 26 = 0 ∧ k < 2 ^ 32)
    (hd : ∀ w, decodeRow c (k / 2 ^ 26) w = .ok (F (fld w 20 6) (fld w 14 6) (fld w 8 6) (fld w 6 2) (fld w 4 2) (fld w 0 4))) : Decodes (F d b o x q g) := by
  refine decodes_of_row hc he hk (by omega) ((hd _).trans ?_)
  obtain ⟨hk, -⟩ := hk
  congr 2 <;> exact fld_eq (by omega)

/-- A scratchpad access. -/
theorem decodes_scratch {c k : Nat} {F : BitVec 6 → BitVec 6 → BitVec 6 → BitVec 2 → BitVec 4 → Instr}
    {d : BitVec 6} {b : BitVec 6} {o : BitVec 6} {q : BitVec 2} {g : BitVec 4}
    (hc : classOf (F d b o q g) = some c) (he : encodeNat (F d b o q g) = k + (d.toNat * 1048576 + b.toNat * 16384 + o.toNat * 256 + q.toNat * 16 + g.toNat))
    (hk : k % 2 ^ 26 = 0 ∧ k < 2 ^ 32)
    (hd : ∀ w, decodeRow c (k / 2 ^ 26) w = if fixedIs w 6 2 0 then .ok (F (fld w 20 6) (fld w 14 6) (fld w 8 6) (fld w 4 2) (fld w 0 4)) else .error .reservedBits) : Decodes (F d b o q g) := by
  refine decodes_of_row hc he hk (by omega) ((hd _).trans ?_)
  obtain ⟨hk, -⟩ := hk
  refine accepts (by simp only [fixedIs, beq_iff_eq]; omega) ?_
  congr 1 <;> exact fld_eq (by omega)

/-- A queue. -/
theorem decodes_queue {c k : Nat} {F : BitVec 6 → BitVec 4 → BitVec 4 → Instr}
    {d : BitVec 6} {n : BitVec 4} {g : BitVec 4}
    (hc : classOf (F d n g) = some c) (he : encodeNat (F d n g) = k + (d.toNat * 1048576 + n.toNat * 256 + g.toNat))
    (hk : k % 2 ^ 26 = 0 ∧ k < 2 ^ 32)
    (hd : ∀ w, decodeRow c (k / 2 ^ 26) w = if fixedIs w 4 4 0 && fixedIs w 12 8 0 then .ok (F (fld w 20 6) (fld w 8 4) (fld w 0 4)) else .error .reservedBits) : Decodes (F d n g) := by
  refine decodes_of_row hc he hk (by omega) ((hd _).trans ?_)
  obtain ⟨hk, -⟩ := hk
  refine accepts (by simp only [fixedIs, Bool.and_eq_true, beq_iff_eq]; omega) ?_
  congr 1 <;> exact fld_eq (by omega)

/-- A wait on memory. -/
theorem decodes_waits {c k : Nat} {F : BitVec 6 → BitVec 6 → BitVec 6 → BitVec 2 → BitVec 1 → BitVec 1 → BitVec 4 → Instr}
    {d : BitVec 6} {b : BitVec 6} {t : BitVec 6} {x : BitVec 2} {w : BitVec 1} {y : BitVec 1} {g : BitVec 4}
    (hc : classOf (F d b t x w y g) = some c) (he : encodeNat (F d b t x w y g) = k + (d.toNat * 1048576 + b.toNat * 16384 + t.toNat * 256 + x.toNat * 64 + w.toNat * 32 + y.toNat * 16 + g.toNat))
    (hk : k % 2 ^ 26 = 0 ∧ k < 2 ^ 32)
    (hd : ∀ w, decodeRow c (k / 2 ^ 26) w = .ok (F (fld w 20 6) (fld w 14 6) (fld w 8 6) (fld w 6 2) (fld w 5 1) (fld w 4 1) (fld w 0 4))) : Decodes (F d b t x w y g) := by
  refine decodes_of_row hc he hk (by omega) ((hd _).trans ?_)
  obtain ⟨hk, -⟩ := hk
  congr 2 <;> exact fld_eq (by omega)

/-! Rows of a form of their own. -/

/-- The rows of major 0 that require fields to be zero. -/
theorem decodes_firstRows :
    (∀ d c g, Decodes (.tdset d c g)) ∧
    (∀ q n g, Decodes (.qinit q n g)) ∧
    (∀ c p g, Decodes (.cgrp c p g)) ∧
    (∀ c g, Decodes (.trap c g)) := by
  refine ⟨?_, ?_, ?_, ?_⟩
  all_goals
    intros
    refine decodes_of_class rfl ?_ ?_ <;> simp only [decodeFields, encodeNat, Nat.add_assoc]
    · omega
    · rw [major_zero (by omega)]
      simp only [decodeCopy, decodeMtx, decodeColl, decodeSys]
      refine accepts (by simp only [fixedIs, Bool.and_eq_true, beq_iff_eq]; omega) ?_
      congr 1 <;> exact fld_eq (by omega)

/-- Rows of a form of their own in which every bit is an operand. -/
theorem decodes_unchecked :
    (∀ d a t r i o s h g, Decodes (.cvtf d a t r i o s h g)) ∧
    (∀ d a f j r i o g, Decodes (.mxpk d a f j r i o g)) ∧
    (∀ d a f k s i g, Decodes (.mxup d a f k s i g)) ∧
    (∀ o g, Decodes (.bra o g)) ∧
    (∀ o g, Decodes (.bru o g)) := by
  refine ⟨?_, ?_, ?_, ?_, ?_⟩
  all_goals
    intros
    refine decodes_of_class rfl ?_ ?_ <;> simp only [decodeFields, encodeNat, Nat.add_assoc]
    · omega
    · rw [major_add (by decide) (by omega)]
      simp only [Nat.reducePow, Nat.reduceDiv, Nat.reduceMod, decodeAlu, decodeCtrl]
      congr 2 <;> exact fld_eq (by omega)

/-- Conversions between formats and `bamax`. -/
theorem decodes_converts :
    (∀ d a s l i f g, Decodes (.cvtn d a s l i f g)) ∧
    (∀ d a v n r i s g, Decodes (.cvti d a v n r i s g)) ∧
    (∀ d a o r i f s g, Decodes (.cvtd d a o r i f s g)) ∧
    (∀ d a k i f g, Decodes (.bamax d a k i f g)) := by
  refine ⟨?_, ?_, ?_, ?_⟩
  all_goals
    intros
    refine decodes_of_class rfl ?_ ?_ <;> simp only [decodeFields, encodeNat, Nat.add_assoc]
    · omega
    · rw [major_add (by decide) (by omega)]
      simp only [Nat.reducePow, Nat.reduceDiv, Nat.reduceMod, decodeAlu]
      refine accepts (by simp only [fixedIs, beq_iff_eq]; omega) ?_
      congr 1 <;> exact fld_eq (by omega)

/-- Blocks, rails, shifts by a constant, bits and moves. -/
theorem decodes_blocksAndShifts :
    (∀ d a f k l g, Decodes (.bscale d a f k l g)) ∧
    (∀ d a o l k g, Decodes (.rail d a o l k g)) ∧
    (∀ d a o n g, Decodes (.ishi d a o n g)) ∧
    (∀ d a m g, Decodes (.ibit d a m g)) ∧
    (∀ d a b p, Decodes (.sel d a b p)) ∧
    (∀ d a g, Decodes (.mov d a g)) := by
  refine ⟨?_, ?_, ?_, ?_, ?_, ?_⟩
  all_goals
    intros
    refine decodes_of_class rfl ?_ ?_ <;> simp only [decodeFields, encodeNat, Nat.add_assoc]
    · omega
    · rw [major_add (by decide) (by omega)]
      simp only [Nat.reducePow, Nat.reduceDiv, Nat.reduceMod, decodeAlu]
      refine accepts (by simp only [fixedIs, beq_iff_eq]; omega) ?_
      congr 1 <;> exact fld_eq (by omega)

/-- Exchanges between lanes and single-lane reads. -/
theorem decodes_laneExchanges :
    (∀ d a g, Decodes (.smov d a g)) ∧
    (∀ d a i t g, Decodes (.qxch d a i t g)) ∧
    (∀ d a t g, Decodes (.vote d a t g)) ∧
    (∀ d a o g, Decodes (.redx d a o g)) ∧
    (∀ d a n w g, Decodes (.lane d a n w g)) ∧
    (∀ d a b g, Decodes (.rand d a b g)) ∧
    (∀ d s r g, Decodes (.sread d s r g)) := by
  refine ⟨?_, ?_, ?_, ?_, ?_, ?_, ?_⟩
  all_goals
    intros
    refine decodes_of_class rfl ?_ ?_ <;> simp only [decodeFields, encodeNat, Nat.add_assoc]
    · omega
    · rw [major_add (by decide) (by omega)]
      simp only [Nat.reducePow, Nat.reduceDiv, Nat.reduceMod, decodeAlu]
      refine accepts (by simp only [fixedIs, beq_iff_eq]; omega) ?_
      congr 1 <;> exact fld_eq (by omega)

/-- Masks, counters, barriers and appends. -/
theorem decodes_control :
    (∀ o d s g, Decodes (.kop o d s g)) ∧
    (∀ t c g, Decodes (.waitc t c g)) ∧
    (∀ a b g, Decodes (.bari a b g)) ∧
    (∀ a s g, Decodes (.launch a s g)) := by
  refine ⟨?_, ?_, ?_, ?_⟩
  all_goals
    intros
    refine decodes_of_class rfl ?_ ?_ <;> simp only [decodeFields, encodeNat, Nat.add_assoc]
    · omega
    · rw [major_add (by decide) (by omega)]
      simp only [Nat.reducePow, Nat.reduceDiv, Nat.reduceMod, decodeCtrl]
      refine accepts (by simp only [fixedIs, Bool.and_eq_true, beq_iff_eq]; omega) ?_
      congr 1 <;> exact fld_eq (by omega)

/-- Scratchpad atomics, fences and prefetches. -/
theorem decodes_scratchpad :
    (∀ d b q g, Decodes (.fe d b q g)) ∧
    (∀ d b o q g, Decodes (.satom d b o q g)) ∧
    (∀ d b o q g, Decodes (.ratom d b o q g)) ∧
    (∀ s q g, Decodes (.fence s q g)) ∧
    (∀ b o s q g, Decodes (.pref b o s q g)) := by
  refine ⟨?_, ?_, ?_, ?_, ?_⟩
  all_goals
    intros
    refine decodes_of_class rfl ?_ ?_ <;> simp only [decodeFields, encodeNat, Nat.add_assoc]
    · omega
    · rw [major_add (by decide) (by omega)]
      simp only [Nat.reducePow, Nat.reduceDiv, Nat.reduceMod, decodeMem]
      refine accepts (by simp only [fixedIs, Bool.and_eq_true, beq_iff_eq]; omega) ?_
      congr 1 <;> exact fld_eq (by omega)

/-- Copies. -/
theorem decodes_copyAndQuantise :
    (∀ d s k f u w g, Decodes (.cpy d s k f u w g)) ∧
    (∀ d s k f t u r l i o a w g, Decodes (.cpyq d s k f t u r l i o a w g)) := by
  refine ⟨?_, ?_⟩
  all_goals
    intros
    refine decodes_of_class rfl ?_ ?_ <;> simp only [decodeFields, encodeNat, Nat.add_assoc]
    · omega
    · rw [major_add (by decide) (by omega)]
      simp only [Nat.reducePow, Nat.reduceDiv, Nat.reduceMod, decodeCopy]
      refine accepts (by simp only [fixedIs, Bool.and_eq_true, beq_iff_eq]; omega) ?_
      congr 1 <;> exact fld_eq (by omega)

/-- Copies that convert or transpose. -/
theorem decodes_convertAndTranspose :
    (∀ d s k f t u r i o a w g, Decodes (.cpyd d s k f t u r i o a w g)) ∧
    (∀ d s k f t u r l i o a w g, Decodes (.cpyt d s k f t u r l i o a w g)) := by
  refine ⟨?_, ?_⟩
  all_goals
    intros
    refine decodes_of_class rfl ?_ ?_ <;> simp only [decodeFields, encodeNat, Nat.add_assoc]
    · omega
    · rw [major_add (by decide) (by omega)]
      simp only [Nat.reducePow, Nat.reduceDiv, Nat.reduceMod, decodeCopy]
      refine accepts (by simp only [fixedIs, Bool.and_eq_true, beq_iff_eq]; omega) ?_
      congr 1 <;> exact fld_eq (by omega)

/-- The other copies. -/
theorem decodes_otherCopies :
    (∀ d s k f t u e g, Decodes (.cpyr d s k f t u e g)) ∧
    (∀ d k f t u r l i o a g, Decodes (.cpyf d k f t u r l i o a g)) ∧
    (∀ d s k f u w g, Decodes (.cpyg d s k f u w g)) ∧
    (∀ k c g, Decodes (.cpys k c g)) := by
  refine ⟨?_, ?_, ?_, ?_⟩
  all_goals
    intros
    refine decodes_of_class rfl ?_ ?_ <;> simp only [decodeFields, encodeNat, Nat.add_assoc]
    · omega
    · rw [major_add (by decide) (by omega)]
      simp only [Nat.reducePow, Nat.reduceDiv, Nat.reduceMod, decodeCopy]
      refine accepts (by simp only [fixedIs, Bool.and_eq_true, beq_iff_eq]; omega) ?_
      congr 1 <;> exact fld_eq (by omega)

/-- Matrix products and `aclr`. -/
theorem decodes_products :
    (∀ a b k w q c i o s n g, Decodes (.mma a b k w q c i o s n g)) ∧
    (∀ a b k w q c i o s n g, Decodes (.mmaa a b k w q c i o s n g)) ∧
    (∀ k u g, Decodes (.aclr k u g)) := by
  refine ⟨?_, ?_, ?_⟩
  all_goals
    intros
    refine decodes_of_class rfl ?_ ?_ <;> simp only [decodeFields, encodeNat, Nat.add_assoc]
    · omega
    · rw [major_add (by decide) (by omega)]
      simp only [Nat.reducePow, Nat.reduceDiv, Nat.reduceMod, decodeMtx]
      refine accepts (by simp only [fixedIs, Bool.and_eq_true, beq_iff_eq]; omega) ?_
      congr 1 <;> exact fld_eq (by omega)

/-- Accumulator copies and windows. -/
theorem decodes_accumulator :
    (∀ d s k f u r l i o sat v g, Decodes (.acpy d s k f u r l i o sat v g)) ∧
    (∀ a b g, Decodes (.setaw a b g)) := by
  refine ⟨?_, ?_⟩
  all_goals
    intros
    refine decodes_of_class rfl ?_ ?_ <;> simp only [decodeFields, encodeNat, Nat.add_assoc]
    · omega
    · rw [major_add (by decide) (by omega)]
      simp only [Nat.reducePow, Nat.reduceDiv, Nat.reduceMod, decodeMtx]
      refine accepts (by simp only [fixedIs, Bool.and_eq_true, beq_iff_eq]; omega) ?_
      congr 1 <;> exact fld_eq (by omega)

/-- One-sided commands and gathers. -/
theorem decodes_oneSided :
    (∀ d s k z p u g, Decodes (.cput d s k z p u g)) ∧
    (∀ d s k z p u g, Decodes (.cget d s k z p u g)) ∧
    (∀ k p u g, Decodes (.csig k p u g)) ∧
    (∀ d s k z p u w r g, Decodes (.cgath d s k z p u w r g)) := by
  refine ⟨?_, ?_, ?_, ?_⟩
  all_goals
    intros
    refine decodes_of_class rfl ?_ ?_ <;> simp only [decodeFields, encodeNat, Nat.add_assoc]
    · omega
    · rw [major_add (by decide) (by omega)]
      simp only [Nat.reducePow, Nat.reduceDiv, Nat.reduceMod, decodeColl]
      refine accepts (by simp only [fixedIs, Bool.and_eq_true, beq_iff_eq]; omega) ?_
      congr 1 <;> exact fld_eq (by omega)

/-- Reductions and broadcasts. -/
theorem decodes_reductions :
    (∀ d s k z p u w c r g, Decodes (.crsc d s k z p u w c r g)) ∧
    (∀ d s k z p u w c r g, Decodes (.card d s k z p u w c r g)) ∧
    (∀ d s k z p u w r g, Decodes (.cbcst d s k z p u w r g)) := by
  refine ⟨?_, ?_, ?_⟩
  all_goals
    intros
    refine decodes_of_class rfl ?_ ?_ <;> simp only [decodeFields, encodeNat, Nat.add_assoc]
    · omega
    · rw [major_add (by decide) (by omega)]
      simp only [Nat.reducePow, Nat.reduceDiv, Nat.reduceMod, decodeColl]
      refine accepts (by simp only [fixedIs, Bool.and_eq_true, beq_iff_eq]; omega) ?_
      congr 1 <;> exact fld_eq (by omega)

/-- System instructions. -/
theorem decodes_system :
    (∀ c g, Decodes (.tesc c g)) ∧
    (∀ d x g, Decodes (.csrr d x g)) ∧
    (∀ a x g, Decodes (.csrw a x g)) ∧
    (∀ a s g, Decodes (.setmode a s g)) ∧
    (∀ d s g, Decodes (.gettime d s g)) := by
  refine ⟨?_, ?_, ?_, ?_, ?_⟩
  all_goals
    intros
    refine decodes_of_class rfl ?_ ?_ <;> simp only [decodeFields, encodeNat, Nat.add_assoc]
    · omega
    · rw [major_add (by decide) (by omega)]
      simp only [Nat.reducePow, Nat.reduceDiv, Nat.reduceMod, decodeSys]
      refine accepts (by simp only [fixedIs, Bool.and_eq_true, beq_iff_eq]; omega) ?_
      congr 1 <;> exact fld_eq (by omega)

/-- The word of every instruction decodes to it, row by row. -/
theorem decodes (i : Instr) : Decodes i := by
  cases i
  case fsub | fmul | ffma | fmin | fmax | ftr | fcmp | dadd | dmul | dfma | dmnx | dtr | dcmp | hadd2 | hmul2 | hfma2 |
      badd2 | bmul2 | bfma2 | hmnx2 | hcmp2 | bcmp2 | iadd | imul | imnx | ilog | ish | bfe | bfi | icmp | icmpn | sadd | smul
      | slog | ssh | scmp | shfl | plog | ald | ast =>
    exact decodes_threeOperands rfl (by simp only [encodeNat, Nat.add_assoc]; rfl) (by decide) fun _ => rfl
  case fadd =>
    exact decodes_threeOperands (k := 0) rfl (Nat.zero_add _).symm (by decide) fun _ => rfl
  case movi | movh | movl | smovi | smovh | call =>
    exact decodes_immediate rfl (by simp only [encodeNat, Nat.add_assoc]; rfl) (by decide) fun _ => rfl
  case exit | yield | tkill =>
    exact decodes_guardOnly rfl rfl (by decide) fun _ => rfl
  case nop =>
    exact decodes_guardOnly (k := 0) rfl (Nat.zero_add _).symm (by decide) fun _ => rfl
  case brx | ret | tres =>
    exact decodes_oneOperand rfl (by simp only [encodeNat, Nat.add_assoc]; rfl) (by decide) fun _ => rfl
  case join | kset | ksync | bar | bara | barw =>
    exact decodes_fourBits rfl (by simp only [encodeNat, Nat.add_assoc]; rfl) (by decide) fun _ => rfl
  case ldS8 | ldB16 | ldS16 | ldB32 | ldB64 | ldB128 | ldMx | stB8 | stB16 | stB32 | stB64 | stB128 | stMx | atomAdd |
      atomAddB64 | atomAddf | atomMinS32 | atomMaxS32 | atomMinN32 | atomMaxN32 | atomAnd | atomOr | atomXor | atomExch |
      atomCas | atomCasB64 | sldB32 | sldB64 | sldB128 =>
    exact decodes_memory rfl (by simp only [encodeNat, Nat.add_assoc]; rfl) (by decide) fun _ => rfl
  case ldB8 =>
    exact decodes_memory (k := 0) rfl (Nat.zero_add _).symm (by decide) fun _ => rfl
  case ldsB32 | ldsB64 | ldsB128 | stsB32 | stsB64 | stsB128 =>
    exact decodes_scratch rfl (by simp only [encodeNat, Nat.add_assoc]; rfl) (by decide) fun _ => rfl
  case qpush | qpop | qcfg =>
    exact decodes_queue rfl (by simp only [encodeNat, Nat.add_assoc]; rfl) (by decide) fun _ => rfl
  case waituEqNe | waituSgeSlt | waituNgeNlt | waituAnyAll | waituChgUpd =>
    exact decodes_waits rfl (by simp only [encodeNat, Nat.add_assoc]; rfl) (by decide) fun _ => rfl
  case tdset => apply decodes_firstRows.1
  case qinit => apply decodes_firstRows.2.1
  case cgrp => apply decodes_firstRows.2.2.1
  case trap => apply decodes_firstRows.2.2.2
  case cvtf => apply decodes_unchecked.1
  case mxpk => apply decodes_unchecked.2.1
  case mxup => apply decodes_unchecked.2.2.1
  case bra => apply decodes_unchecked.2.2.2.1
  case bru => apply decodes_unchecked.2.2.2.2
  case cvtn => apply decodes_converts.1
  case cvti => apply decodes_converts.2.1
  case cvtd => apply decodes_converts.2.2.1
  case bamax => apply decodes_converts.2.2.2
  case bscale => apply decodes_blocksAndShifts.1
  case rail => apply decodes_blocksAndShifts.2.1
  case ishi => apply decodes_blocksAndShifts.2.2.1
  case ibit => apply decodes_blocksAndShifts.2.2.2.1
  case sel => apply decodes_blocksAndShifts.2.2.2.2.1
  case mov => apply decodes_blocksAndShifts.2.2.2.2.2
  case smov => apply decodes_laneExchanges.1
  case qxch => apply decodes_laneExchanges.2.1
  case vote => apply decodes_laneExchanges.2.2.1
  case redx => apply decodes_laneExchanges.2.2.2.1
  case lane => apply decodes_laneExchanges.2.2.2.2.1
  case rand => apply decodes_laneExchanges.2.2.2.2.2.1
  case sread => apply decodes_laneExchanges.2.2.2.2.2.2
  case kop => apply decodes_control.1
  case waitc => apply decodes_control.2.1
  case bari => apply decodes_control.2.2.1
  case launch => apply decodes_control.2.2.2
  case fe => apply decodes_scratchpad.1
  case satom => apply decodes_scratchpad.2.1
  case ratom => apply decodes_scratchpad.2.2.1
  case fence => apply decodes_scratchpad.2.2.2.1
  case pref => apply decodes_scratchpad.2.2.2.2
  case cpy => apply decodes_copyAndQuantise.1
  case cpyq => apply decodes_copyAndQuantise.2
  case cpyd => apply decodes_convertAndTranspose.1
  case cpyt => apply decodes_convertAndTranspose.2
  case cpyr => apply decodes_otherCopies.1
  case cpyf => apply decodes_otherCopies.2.1
  case cpyg => apply decodes_otherCopies.2.2.1
  case cpys => apply decodes_otherCopies.2.2.2
  case mma => apply decodes_products.1
  case mmaa => apply decodes_products.2.1
  case aclr => apply decodes_products.2.2
  case acpy => apply decodes_accumulator.1
  case setaw => apply decodes_accumulator.2
  case cput => apply decodes_oneSided.1
  case cget => apply decodes_oneSided.2.1
  case csig => apply decodes_oneSided.2.2.1
  case cgath => apply decodes_oneSided.2.2.2
  case crsc => apply decodes_reductions.1
  case card => apply decodes_reductions.2.1
  case cbcst => apply decodes_reductions.2.2
  case tesc => apply decodes_system.1
  case csrr => apply decodes_system.2.1
  case csrw => apply decodes_system.2.2.1
  case setmode => apply decodes_system.2.2.2.1
  case gettime => apply decodes_system.2.2.2.2
  all_goals exact fun _ h => nomatch h

end Sys2Proof

namespace Sys2Proof.Proofs

/-- Settles O1: the word's fields are the operands, and the instruction passes the checks of well-formedness by hypothesis. -/
theorem decodeOfEncode : Obligations.DecodeOfEncode := by
  intro i c hwf hc
  obtain ⟨hlt, hd⟩ := decodes i c hc
  exact ⟨by simp only [encode, hc], hlt, decodeWord_ok.2 ⟨hd, hwf⟩⟩

end Sys2Proof.Proofs
end

section
/-! SUPPORT. No instruction word and no step of the device stops the machine (R87, log entry 4): each has a next state, and with it each turn. -/

namespace Sys2Proof.Machine

/-- An outcome that is a next state. -/
def HasNext (o : Host.Outcome State Fault Refusal) : Prop := ∃ t, o = .next t

theorem State.execWord_hasNext (s : State) (i : Instr) (home : Bool) (vr sr : List Nat) (legal : Wave → Bool)
    (f : Ctx → Wave → State → State) : HasNext (s.execWord i home vr sr legal f) := by
  unfold State.execWord
  split <;> exact ⟨_, rfl⟩

/-- An instruction word runs through `execWord`; a step of the device is written as its next state. -/
theorem exec_hasNext (i : Instr) (s : State) : HasNext (exec i s) := by
  by_cases h : (classOf i).isSome = true
  · obtain ⟨home, legal, f, hf⟩ := Laws.exec_names i h s
    exact hf ▸ State.execWord_hasNext ..
  · cases i
    all_goals first | exact absurd rfl h | exact ⟨_, rfl⟩

theorem runWord_hasNext (s : State) : HasNext (runWord s) := by
  unfold runWord
  split
  · exact ⟨_, rfl⟩
  · split
    · exact exec_hasNext ..
    · exact ⟨_, rfl⟩

theorem attempt_hasNext (i : Issue) (s : State) : HasNext (attempt i s) := by
  obtain ⟨t, ht⟩ := runWord_hasNext ((s.partHeld i).takeIssue i.id)
  exact ⟨t.afterWord, by rw [attempt, ht]⟩

theorem coIssue_hasNext (addr : Nat) (ms : List WaveRef) (s : State) : HasNext (coIssue addr ms s) := by
  induction ms generalizing s with
  | nil => exact ⟨s, rfl⟩
  | cons m ms ih =>
    unfold coIssue
    split
    · exact ih s
    · next i _ =>
      obtain ⟨t, ht⟩ := attempt_hasNext i s
      rw [ht]
      exact ih t

theorem cycleWith_hasNext (core quarter : Nat) (rs : List WaveRef) (s : State) : HasNext (cycleWith core quarter rs s) := by
  induction rs generalizing s with
  | nil => exact ⟨s.settle, rfl⟩
  | cons r rs ih =>
    unfold cycleWith
    split
    · next i _ =>
      obtain ⟨t, ht⟩ := attempt_hasNext i s
      simp only [ht]
      split
      · exact ih t
      · exact coIssue_hasNext ..
    · split
      · exact ⟨_, rfl⟩
      · exact ih _

theorem step_hasNext (s : State) : HasNext (step s) := by
  unfold step
  split
  · exact cycleWith_hasNext ..
  · exact cycleWith_hasNext ..
  · next e ts _ =>
    obtain ⟨t, ht⟩ := exec_hasNext e { s with turns := ts, cur := none }
    exact ⟨t.settle, by rw [ht]; rfl⟩
  · exact ⟨_, rfl⟩

end Sys2Proof.Machine

namespace Sys2Proof.Proofs

open Sys2Proof.Machine

/-- Settles O7: instruction words and steps of the device have next states, and so, by induction on the waves that may issue, has a cycle. -/
theorem everyStepHasNextState : Obligations.EveryStepHasNextState := step_hasNext

end Sys2Proof.Proofs
end

section
/-! SUPPORT. Storage in canonical form (O8): what of a state it looks at, and what keeps it. -/
namespace Sys2Proof.Machine

/-- The scratchpad and the accumulator of a block are in canonical form. -/
def Block.stored (b : Block) : Prop := cellsWf 0 b.scratch = true ∧ cellsWf 0 b.acc = true

/-- A next state in canonical form. -/
def CanonicalNext (o : Host.Outcome State Fault Refusal) : Prop := ∃ t, o = .next t ∧ t.canonical

theorem CanonicalNext.next {t : State} (h : t.canonical) : CanonicalNext (.next t) := ⟨t, rfl, h⟩

/-- Nothing but memory, side bytes and blocks counts. -/
theorem State.canonical.update {s : State} (h : s.canonical) {clock poisonMem parts slices cores launches remains issues memOps engOps entries
    podReqs pendingWrites device outputs turns focus cur stay next draws} :
    State.canonical ⟨clock, s.mem, s.side, poisonMem, parts, slices, cores, launches, s.blocks, remains, issues, memOps, engOps, entries,
      podReqs, pendingWrites, device, outputs, turns, focus, cur, stay, next, draws⟩ := h

theorem State.canonical.foldl {α : Type} {f : State → α → State} {s : State} {l : List α} (h : s.canonical)
    (hf : ∀ s x, s.canonical → (f s x).canonical) : (l.foldl f s).canonical := by
  induction l generalizing s with
  | nil => exact h
  | cons x xs ih => exact ih (hf s x h)

theorem State.canonical.foldIdx {α : Type} {f : State → Nat → α → State} {s : State} {n : Nat} {l : List α} (h : s.canonical)
    (hf : ∀ s n x, s.canonical → (f s n x).canonical) : (foldIdx f s n l).canonical := by
  induction l generalizing s n with
  | nil => exact h
  | cons x xs ih => exact ih (hf s n x h)

theorem canonicalFoldl2 {α β : Type} {f : β × State → α → β × State} {a : β × State} {l : List α} (h : a.2.canonical)
    (hf : ∀ a x, a.2.canonical → (f a x).2.canonical) : (l.foldl f a).2.canonical := by
  induction l generalizing a with
  | nil => exact h
  | cons x xs ih => exact ih (hf a x h)

theorem canonicalFoldl1 {α β : Type} {f : State × β → α → State × β} {a : State × β} {l : List α} (h : a.1.canonical)
    (hf : ∀ a x, a.1.canonical → (f a x).1.canonical) : (l.foldl f a).1.canonical := by
  induction l generalizing a with
  | nil => exact h
  | cons x xs ih => exact ih (hf a x h)

theorem canonicalOf2 {β : Type} {p : β × State} {b : β} {t : State} (e : p = (b, t)) (h : p.2.canonical) : t.canonical := by
  rw [e] at h
  exact h

theorem canonicalOf1 {β : Type} {p : State × β} {b : β} {t : State} (e : p = (t, b)) (h : p.1.canonical) : t.canonical := by
  rw [e] at h
  exact h

theorem canonicalOf22 {α β : Type} {p : α × β × State} {a : α} {b : β} {t : State} (e : p = (a, b, t)) (h : p.2.2.canonical) : t.canonical := by
  rw [e] at h
  exact h

theorem State.canonical.ite {c : Prop} [Decidable c] {s t : State} (hs : s.canonical) (ht : t.canonical) : (if c then s else t).canonical := by
  split
  · exact hs
  · exact ht

theorem State.canonical.modBlock {s : State} {uid : Nat} {f : Block → Block} (h : s.canonical)
    (hf : ∀ b, b.stored → (f b).stored := by exact fun _ hb => hb) : (s.modBlock uid f).canonical := by
  obtain ⟨hmem, hside, hblocks⟩ := h
  refine ⟨hmem, hside, fun b hb => ?_⟩
  obtain ⟨a, ha, rfl⟩ := List.mem_map.1 hb
  split
  · exact hf a (hblocks a ha)
  · exact hblocks a ha

theorem State.canonical.modWave {s : State} {r : WaveRef} {f : Wave → Wave} (h : s.canonical) : (s.modWave r f).canonical := by
  cases r with
  | blk u w => exact h.modBlock
  | hdl c q => exact h

/-- A state in canonical form, where there is one. -/
def CanonicalIfSome (o : Option State) : Prop := ∀ t, o = some t → t.canonical

theorem CanonicalIfSome.none : CanonicalIfSome none := fun _ h => nomatch h

theorem CanonicalIfSome.some {t : State} (h : t.canonical) : CanonicalIfSome (some t) := fun _ e => Option.some.inj e ▸ h

theorem CanonicalIfSome.map {o : Option State} {f : State → State} (h : CanonicalIfSome o) (hf : ∀ s, s.canonical → (f s).canonical) :
    CanonicalIfSome (o.map f) := fun t e => by
  obtain ⟨s, hs, rfl⟩ := Option.map_eq_some_iff.1 e
  exact hf s (h s hs)

theorem CanonicalIfSome.bind {o : Option State} {f : State → Option State} (h : CanonicalIfSome o)
    (hf : ∀ s, s.canonical → CanonicalIfSome (f s)) : CanonicalIfSome (o.bind f) := fun t e => by
  obtain ⟨s, hs, ht⟩ := Option.bind_eq_some_iff.1 e
  exact hf s (h s hs) t ht

theorem CanonicalIfSome.mapOf {α : Type} {o : Option α} {f : α → State} (hf : ∀ a, (f a).canonical) : CanonicalIfSome (o.map f) := fun t e => by
  obtain ⟨a, -, rfl⟩ := Option.map_eq_some_iff.1 e
  exact hf a

theorem CanonicalIfSome.getD {o : Option State} {s : State} (h : CanonicalIfSome o) (hs : s.canonical) : (o.getD s).canonical := by
  cases o with
  | none => exact hs
  | some t => exact h t rfl

/-- Nothing but scratchpad and accumulator counts. -/
theorem Block.stored.update {b : Block} (h : b.stored) {uid launch lin handle place core startQuarter placed waves desc quires barriers queues gps
    feEmpty poisonG accBad issued everIssued since elapsed treatment waitSince woken saveUnits} :
    Block.stored ⟨uid, launch, lin, handle, place, core, startQuarter, placed, waves, desc, quires, barriers, queues, gps, b.scratch, feEmpty,
      poisonG, b.acc, accBad, issued, everIssued, since, elapsed, treatment, waitSince, woken, saveUnits⟩ := h

theorem Block.stored.foldl {α : Type} {f : Block → α → Block} {b : Block} {l : List α} (h : b.stored)
    (hf : ∀ b x, b.stored → (f b x).stored) : (l.foldl f b).stored := by
  induction l generalizing b with
  | nil => exact h
  | cons x xs ih => exact ih (hf b x h)

theorem Block.stored.foldIdx {α : Type} {f : Block → Nat → α → Block} {b : Block} {n : Nat} {l : List α} (h : b.stored)
    (hf : ∀ b n x, b.stored → (f b n x).stored) : (foldIdx f b n l).stored := by
  induction l generalizing b n with
  | nil => exact h
  | cons x xs ih => exact ih (hf b n x h)

/-- Blocks each passed through a function that keeps their storage. -/
theorem State.canonical.mapBlocks {s : State} (h : s.canonical) {f : Block → Block}
    (hf : ∀ b, b.stored → (f b).stored := by exact fun _ hb => hb) {clock poisonMem parts
    slices cores launches remains issues memOps engOps entries podReqs pendingWrites device outputs turns focus cur stay next draws} :
    State.canonical ⟨clock, s.mem, s.side, poisonMem, parts, slices, cores, launches, s.blocks.map f, remains, issues, memOps, engOps, entries,
      podReqs, pendingWrites, device, outputs, turns, focus, cur, stay, next, draws⟩ := by
  obtain ⟨hmem, hside, hblocks⟩ := h
  refine ⟨hmem, hside, fun b hb => ?_⟩
  obtain ⟨a, ha, rfl⟩ := List.mem_map.1 hb
  exact hf a (hblocks a ha)

/-- Some of the blocks alone left. -/
theorem State.canonical.filterBlocks {s : State} (h : s.canonical) {p : Block → Bool} {clock poisonMem parts
    slices cores launches remains issues memOps engOps entries podReqs pendingWrites device outputs turns focus cur stay next draws} :
    State.canonical ⟨clock, s.mem, s.side, poisonMem, parts, slices, cores, launches, s.blocks.filter p, remains, issues, memOps, engOps, entries,
      podReqs, pendingWrites, device, outputs, turns, focus, cur, stay, next, draws⟩ := by
  obtain ⟨hmem, hside, hblocks⟩ := h
  exact ⟨hmem, hside, fun b hb => hblocks b (List.mem_filter.1 hb).1⟩

end Sys2Proof.Machine
end

section
/-! SUPPORT. Canonical storage is kept: the state at reset. -/

namespace Sys2Proof.Machine

theorem State.canonical.reset : State.reset.canonical := ⟨rfl, rfl, fun _ hb => nomatch hb⟩

end Sys2Proof.Machine
end

section
/-! SUPPORT. Canonical storage is kept: the accessors of the state. -/

namespace Sys2Proof.Machine

theorem State.canonical.modLaunch {s : State} {lid : Nat} {f : Launch → Launch} (h : s.canonical) : (s.modLaunch lid f).canonical :=
  h.update

theorem State.canonical.modPart {s : State} {p : Nat} {f : Partition → Partition} (h : s.canonical) : (s.modPart p f).canonical :=
  h.update

theorem State.canonical.modVF {s : State} {p : Nat} {f : VF → VF} (h : s.canonical) : (s.modVF p f).canonical :=
  h.modPart

theorem State.canonical.modCore {s : State} {c : Nat} {f : Core → Core} (h : s.canonical) : (s.modCore c f).canonical :=
  h.update

theorem State.canonical.modSlice {s : State} {i : Nat} {f : Slice → Slice} (h : s.canonical) : (s.modSlice i f).canonical :=
  h.update

theorem State.canonical.modDevice {s : State} {f : Device → Device} (h : s.canonical) : (s.modDevice f).canonical :=
  h.update

theorem State.canonical.modLane {s : State} {r : WaveRef} {l : Nat} {f : Lane → Lane} (h : s.canonical) : (s.modLane r l f).canonical :=
  h.modWave

theorem State.canonical.fresh {s : State} (h : s.canonical) : s.fresh.2.canonical :=
  h.update

theorem State.canonical.emit {s : State} {o : Output} (h : s.canonical) : (s.emit o).canonical :=
  h.update

theorem State.canonical.modMemOp {s : State} {id : Nat} {f : MemOp → MemOp} (h : s.canonical) : (s.modMemOp id f).canonical :=
  h.update

theorem State.canonical.dropMemOp {s : State} {id : Nat} (h : s.canonical) : (s.dropMemOp id).canonical :=
  h.update

theorem State.canonical.modEngOp {s : State} {id : Nat} {f : EngOp → EngOp} (h : s.canonical) : (s.modEngOp id f).canonical :=
  h.update

theorem State.canonical.dropEngOp {s : State} {id : Nat} (h : s.canonical) : (s.dropEngOp id).canonical :=
  h.update

theorem State.canonical.modIssue {s : State} {id : Nat} {f : Issue → Issue} (h : s.canonical) : (s.modIssue id f).canonical :=
  h.update

theorem State.canonical.dropFromIssues {s : State} {r : WaveRef} {ls : List Nat} (h : s.canonical) : (s.dropFromIssues r ls).canonical :=
  h.update

end Sys2Proof.Machine
end

section
/-! SUPPORT. Canonical storage is kept: memory at home. -/

namespace Sys2Proof.Machine

theorem State.canonical.modBank {s : State} {b : Nat} {f : Bank → Bank} (h : s.canonical) : (s.modBank b f).canonical :=
  h.modDevice

theorem State.canonical.activate {s : State} {line : Nat} (h : s.canonical) : (s.activate line).canonical := by
  unfold State.activate
  split
  · exact h.modBank.update
  · exact h

theorem State.canonical.writeBack {s0 : State} {line : Nat} {bytes side : List Byte} {poison : Bool} (h : s0.canonical) :
    (s0.writeBack line bytes side poison).canonical := by
  obtain ⟨hmem, hside, hblocks⟩ := h.activate (line := line)
  exact ⟨Memory.writeRun_wf _ _ _ hmem, cellPut_wf _ _ _ _ hside, hblocks⟩

theorem State.canonical.askHost {s : State} {line : Nat} {q : CacheReq} (h : s.canonical) : (s.askHost line q).canonical := by
  unfold State.askHost
  split
  · exact h.emit
  · exact h

theorem State.canonical.dropTag {s : State} {i : Nat} {t : Tag} (h : s.canonical) : (s.dropTag i t).canonical := by
  unfold State.dropTag
  refine State.canonical.modSlice ?_
  split
  · exact h.writeBack
  · exact h

theorem State.canonical.evict {s : State} {i : Nat} {t : Tag} (h : s.canonical) : (s.evict i t).canonical := by
  unfold State.evict
  dsimp only
  split
  · exact h.dropTag
  · exact h.dropTag.askHost

theorem State.canonical.makeRoom {i keep : Nat} {plate : Bool} {fuel : Nat} {s : State} (h : s.canonical) :
    (State.makeRoom i keep plate fuel s).canonical := by
  induction fuel generalizing s with
  | zero => exact h
  | succ n ih =>
    unfold State.makeRoom
    dsimp only
    split
    · exact h
    · split
      · exact h
      · exact ih h.evict

theorem State.canonical.useLine {s : State} {part line : Nat} (h : s.canonical) : (s.useLine part line).canonical := by
  unfold State.useLine
  split
  · exact h
  · split
    · exact h
    · exact h.modSlice

theorem State.canonical.touchMemory {s : State} {part line : Nat} (h : s.canonical) : (s.touchMemory part line).canonical := by
  unfold State.touchMemory
  split
  · exact h.useLine
  · exact h.activate

theorem State.canonical.placeAt {s : State} {part i : Nat} {t : Tag} {bytes side : List Byte} (h : s.canonical) :
    (s.placeAt part i t bytes side).canonical :=
  h.makeRoom.modSlice.modPart

theorem State.canonical.cleanTag {s : State} {i : Nat} {t : Tag} (h : s.canonical) : (s.cleanTag i t).canonical := by
  unfold State.cleanTag
  refine State.canonical.modSlice ?_
  split
  · exact h.writeBack
  · exact h

theorem State.canonical.takeHost {s : State} {part line : Nat} {owned : Bool} {q : CacheReq} (h : s.canonical) :
    (s.takeHost part line owned q).canonical := by
  unfold State.takeHost
  split
  · exact h
  · refine State.canonical.askHost ?_
    refine h.foldl ?_
    intro s1 x h1
    split
    · exact h1.dropTag
    · exact h1.cleanTag

theorem State.canonical.fillAs {s : State} {part space line : Nat} {a : PageAttr} {poison owned : Bool} (h : s.canonical) :
    (s.fillAs part space line a poison owned).canonical := by
  unfold State.fillAs
  split
  · exact h
  · split
    · exact h.modSlice
    · exact h.takeHost.activate.placeAt

theorem State.canonical.fillLine {s : State} {part space line : Nat} {a : PageAttr} {poison : Bool} (h : s.canonical) :
    (s.fillLine part space line a poison).canonical :=
  h.fillAs

theorem State.canonical.grant {s : State} {part line expiry : Nat} (h : s.canonical) : (s.grant part line expiry).canonical := by
  unfold State.grant
  split
  · exact h
  · exact h.modSlice

theorem State.canonical.applyWrite {s : State} {part space line : Nat} {a : PageAttr} {ws scales : List (Nat × Byte)} {whole poison : Bool}
    (h : s.canonical) : (s.applyWrite part space line a ws scales whole poison).canonical := by
  unfold State.applyWrite
  dsimp only
  split
  · exact h.writeBack
  · split
    · refine State.canonical.placeAt ?_
      refine State.canonical.modSlice ?_
      split
      · exact h
      · exact h.takeHost
    · split
      · refine State.canonical.fillAs ?_
        split
        · exact h.takeHost
        · exact h
      · split
        · split
          · exact h.takeHost.fillAs.makeRoom.modSlice.modPart
          · exact h.takeHost.fillAs.modSlice
        · split
          · exact h.fillAs.makeRoom.modSlice.modPart
          · exact h.fillAs.modSlice

theorem State.canonical.wake {s : State} {r : WaveRef} (h : s.canonical) : (s.wake r).canonical := by
  unfold State.wake
  split
  · exact h
  · refine h.mapBlocks ?_
    intro b h1
    split
    · exact h1.update
    · exact h1

theorem State.canonical.putRecord {s : State} {part rec : Nat} {bs : List Byte} (h : s.canonical) : (s.putRecord part rec bs).canonical := by
  unfold State.putRecord
  dsimp only
  split
  · exact h
  · exact h.applyWrite

theorem State.canonical.freeRecords {s : State} {e : Entry} (h : s.canonical) : (s.freeRecords e).canonical :=
  h.foldl fun _ _ h1 => h1.putRecord

theorem State.canonical.dropEntry {s : State} {e : Entry} (h : s.canonical) : (s.dropEntry e).canonical :=
  h.freeRecords.update

theorem State.canonical.dropEntries {s : State} {p : Entry → Bool} (h : s.canonical) : (s.dropEntries p).canonical :=
  h.foldl fun _ _ h1 => h1.dropEntry

theorem State.canonical.deliver {s : State} {e : Entry} {value : Nat} {met : Bool} (h : s.canonical) : (s.deliver e value met).canonical := by
  unfold State.deliver
  dsimp only
  split
  · exact h.dropEntry.modWave.wake
  · exact h.dropEntry.modWave.wake
  · exact h.dropEntry.modVF
  · exact h.dropEntry.modLaunch
  · exact h.dropEntry.modVF.emit

theorem State.canonical.fire {s : State} {e : Entry} (h : s.canonical) : (s.fire e).canonical :=
  h.deliver.modPart

theorem State.canonical.fireOverdue {s : State} {part line : Nat} (h : s.canonical) : (s.fireOverdue part line).canonical :=
  h.foldl fun _ _ h1 => h1.fire

theorem State.canonical.checkEntries {s : State} {part line : Nat} {wrote : List Nat} (h : s.canonical) :
    (s.checkEntries part line wrote).canonical := by
  unfold State.checkEntries
  refine State.canonical.foldl ?_ ?_
  · split
    · split
      · exact h
      · exact h.modSlice
    · refine State.canonical.update ?_
      split
      · exact h
      · exact h.modSlice
  · intro s1 x h1
    dsimp only
    split
    · split
      · exact h1.deliver
      · exact h1
    · split
      · exact h1.deliver
      · exact h1

theorem State.canonical.reread {s : State} {part line : Nat} (h : s.canonical) : (s.reread part line).canonical := by
  unfold State.reread
  split
  · exact h.fillLine.checkEntries
  · exact h

theorem State.canonical.rereadOthers {s : State} {qs : List Nat} {line : Nat} (h : s.canonical) : (s.rereadOthers qs line).canonical :=
  h.foldl fun _ _ h1 => h1.reread

theorem State.canonical.performWrite {s : State} {part space line : Nat} {a : PageAttr} {ws scales : List (Nat × Byte)} {whole poison : Bool}
    (h : s.canonical) : (s.performWrite part space line a ws scales whole poison).1.canonical :=
  h.fireOverdue.applyWrite.checkEntries.rereadOthers

theorem State.canonical.touchWrite {s : State} {part space line : Nat} {a : PageAttr} (h : s.canonical) :
    (s.touchWrite part space line a).canonical :=
  h.fireOverdue.applyWrite.rereadOthers

theorem State.canonical.writeRun {s : State} {part pa : Nat} {a : PageAttr} {bs : List Byte} (h : s.canonical) :
    (s.writeRun part pa a bs).1.canonical :=
  canonicalFoldl1 h fun _ _ h1 => h1.performWrite

theorem State.canonical.touchRun {s : State} {part pa n : Nat} (h : s.canonical) : (s.touchRun part pa n).canonical :=
  h.foldl fun _ _ h1 => h1.touchMemory

end Sys2Proof.Machine
end

section
/-! SUPPORT. Canonical storage is kept: tokens and buckets. -/

namespace Sys2Proof.Machine

theorem State.canonical.setBucket {s : State} {b : Bucket} {a : BucketPoint} (h : s.canonical) : (s.setBucket b a).canonical := by
  unfold State.setBucket
  split
  · exact h.modCore
  · exact h.modSlice
  · exact h.modDevice

theorem State.canonical.takeTokens {s : State} {p : BucketPoint} {bytes : Nat} (h : s.canonical) : CanonicalIfSome (s.takeTokens p bytes) := by
  unfold State.takeTokens
  split
  · exact CanonicalIfSome.mapOf fun x => h.setBucket
  · exact .some h

theorem State.canonical.takeAll {s : State} {bytes : Nat} {l : List BucketPoint} (h : s.canonical) : CanonicalIfSome (s.takeAll bytes l) := by
  induction l generalizing s with
  | nil => exact .some h
  | cons p ps ih => exact h.takeTokens.bind fun _ ht => ih ht

theorem State.canonical.debitAll {s : State} {bytes : Nat} {ps : List BucketPoint} (h : s.canonical) : (s.debitAll bytes ps).canonical := by
  unfold State.debitAll
  refine h.foldl ?_
  intro s1 x h1
  split
  · exact h1.setBucket
  · exact h1

theorem State.canonical.passPoint {s : State} {o : MemOp} {g : OpGroup} {bytes : Nat} {p : BucketPoint} (h : s.canonical) :
    (s.passPoint o g bytes p).2.2.canonical := by
  unfold State.passPoint
  split
  · exact h
  · split
    · rename_i hne a t heq
      have ht : t.canonical := by
        refine (?_ : CanonicalIfSome _) _ heq
        split
        · exact .none
        · exact h.takeTokens
      exact ht
    · exact h

theorem State.canonical.passPoints {o : MemOp} {bytes : Nat} {l : List BucketPoint} {g : OpGroup} {s : State} (h : s.canonical) :
    (State.passPoints o bytes l g s).2.2.canonical := by
  induction l generalizing g s with
  | nil => exact h
  | cons p ps ih =>
    unfold State.passPoints
    split
    · next g1 t heq => exact ih (canonicalOf22 heq h.passPoint)
    · next g1 t heq => exact canonicalOf22 heq h.passPoint

theorem State.canonical.settleBucket {s : State} {new : Nat} {p : BucketPoint} (h : s.canonical) : (s.settleBucket new p).canonical :=
  h.setBucket

end Sys2Proof.Machine
end

section
/-! SUPPORT. Canonical storage is kept: the log. -/

namespace Sys2Proof.Machine

theorem State.canonical.takeSerial {s : State} (h : s.canonical) : s.takeSerial.2.canonical := by
  unfold State.takeSerial
  dsimp only
  split
  · exact h.modDevice
  · exact h.modDevice

theorem State.canonical.logEvent {s : State} {unit kind : Nat} {value addr : Option Nat} (h : s.canonical) :
    (s.logEvent unit kind value addr).2.canonical :=
  h.takeSerial.modDevice

theorem State.canonical.queueRecord {s : State} {p : Nat} {fault : Bool} {bytes : List Byte} (h : s.canonical) :
    (s.queueRecord p fault bytes).2.canonical := by
  unfold State.queueRecord
  dsimp only
  split
  · exact h.modVF
  · split
    · exact h
    · split
      · split
        · exact h.modVF
        · split
          · exact h.modVF
          · exact h.writeRun.modVF.emit
      · split
        · exact h.modVF
        · split
          · exact h.modVF
          · exact h.writeRun.modVF.emit

theorem State.canonical.errorRecord {s : State} {p serial code stream position addr : Nat} (h : s.canonical) :
    (s.errorRecord p serial code stream position addr).canonical :=
  h.queueRecord

theorem State.canonical.errorEvent {s : State} {p code stream position addr : Nat} (h : s.canonical) :
    (s.errorEvent p code stream position addr).canonical :=
  h.takeSerial.errorRecord

theorem State.canonical.logUncorrectedLine {s : State} {part line : Nat} (h : s.canonical) : (s.logUncorrectedLine part line).canonical := by
  unfold State.logUncorrectedLine
  dsimp only
  split
  · exact h.logEvent.errorRecord
  · exact h.logEvent

end Sys2Proof.Machine
end

section
/-! SUPPORT. Canonical storage is kept: walks and TLBs. -/

namespace Sys2Proof.Machine

theorem State.canonical.ownRead {s : State} {part pa n : Nat} (h : s.canonical) : (s.ownRead part pa n).canonical :=
  h.debitAll.useLine

theorem State.canonical.readWalk {s : State} {part space va : Nat} (h : s.canonical) : (s.readWalk part space va).canonical := by
  unfold State.readWalk
  dsimp only
  split
  · exact h
  · exact h.foldl fun s1 x h1 => h1.ownRead

theorem State.canonical.fillTlb {s : State} {core : Nat} {e : TlbEntry} (h : s.canonical) : (s.fillTlb core e).canonical := by
  unfold State.fillTlb
  dsimp only
  split
  · exact h.modCore
  · exact h.modCore.modSlice

theorem State.canonical.translate {s : State} {core part space va : Nat} (h : s.canonical) : (s.translate core part space va).2.canonical := by
  unfold State.translate
  split
  · exact h
  · split
    · exact h
    · split
      · exact h.readWalk.fillTlb
      · exact h.readWalk

theorem State.canonical.checkAccess {s : State} {core part space va : Nat} {kind : AccessKind} (h : s.canonical) :
    (s.checkAccess core part space va kind).2.canonical := by
  unfold State.checkAccess
  split
  · rename_i a f t heq
    have ht : t.canonical := canonicalOf2 heq h.translate
    exact ht
  · rename_i a e t heq
    have ht : t.canonical := canonicalOf2 heq h.translate
    dsimp only
    split
    · dsimp only
      split
      · exact ht.errorEvent
      · exact ht
    · split
      · exact ht
      · split
        · exact ht
        · exact ht

theorem State.canonical.podEntry {s : State} {part rank : Nat} (h : s.canonical) : (s.podEntry part rank).2.canonical := by
  unfold State.podEntry
  split
  · exact h
  · exact h.ownRead.modPart

theorem State.canonical.podCheck {s : State} {part pa kind : Nat} (h : s.canonical) : (s.podCheck part pa kind).2.canonical := by
  unfold State.podCheck
  split
  · exact h
  · exact h.podEntry

theorem State.canonical.newPod {s : State} {owner : PodOwner} {part pa : Nat} {ask : PodAsk} {die : Nat} (h : s.canonical) :
    (s.newPod owner part pa ask die).2.canonical :=
  h.podEntry.fresh

theorem State.canonical.sendPod {s : State} {owner : PodOwner} {part pa : Nat} {ask : PodAsk} {die : Nat} (h : s.canonical) :
    (s.sendPod owner part pa ask die).2.canonical :=
  h.newPod.update.emit

theorem State.canonical.postPod {s : State} {owner : PodOwner} {part pa : Nat} {ask : PodAsk} {withIt : List Output} (h : s.canonical) :
    (s.postPod owner part pa ask withIt).canonical := by
  unfold State.postPod
  dsimp only
  split
  · exact h.newPod.update
  · split
    · exact h.newPod.update
    · rename_i hne a t heq
      have ht : t.canonical := h.newPod.takeTokens _ heq
      exact ht.update.foldl fun s1 x h1 => h1.emit

theorem State.canonical.releasePod {s : State} {port part : Nat} (h : s.canonical) : (s.releasePod port part).canonical := by
  unfold State.releasePod
  split
  · exact h
  · split
    · exact h
    · rename_i a q heq a1 t heq1
      have ht : t.canonical := h.takeTokens _ heq1
      exact ht.update.foldl fun s1 x h1 => h1.emit

theorem State.canonical.codePut {s : State} {core : Nat} {x : CodeLine} (h : s.canonical) : (s.codePut core x).canonical :=
  h.modCore

theorem State.canonical.codeDrop {s : State} {core part line : Nat} (h : s.canonical) : (s.codeDrop core part line).canonical :=
  h.modCore

theorem State.canonical.fetchPod {s : State} {core part va pa : Nat} (h : s.canonical) : (s.fetchPod core part va pa).2.canonical := by
  unfold State.fetchPod
  split
  · split
    · exact h.codeDrop
    · exact h
  · dsimp only
    split
    · exact h.podCheck
    · split
      · exact h.podCheck
      · split
        · exact h.podCheck
        · rename_i a heq hne hne1 a1 t heq1
          have ht : t.canonical := h.podCheck.takeAll _ heq1
          exact ht.sendPod

theorem State.canonical.fetchLine {s : State} {core part space line : Nat} {a : PageAttr} {r : CodeLine × State} (h : s.canonical)
    (hr : s.fetchLine core part space line a = some r) : r.2.canonical := by
  unfold State.fetchLine at hr
  obtain ⟨u, hu, rfl⟩ := Option.map_eq_some_iff.1 hr
  split at hu
  · exact nomatch hu
  · exact (h.takeAll _ hu).fillLine.codePut

theorem State.canonical.fetchWordAt {s : State} {core part space va : Nat} (h : s.canonical) :
    (s.fetchWordAt core part space va).2.canonical := by
  unfold State.fetchWordAt
  split
  · next f t heq => exact canonicalOf2 heq h.checkAccess
  · next e t heq =>
    have ht : t.canonical := canonicalOf2 heq h.checkAccess
    dsimp only
    split
    · exact ht.fetchPod
    · split
      · split
        · exact ht
        · next r hr => exact ht.fetchLine hr
      · split
        · exact ht
        · split
          · exact ht.update
          · split
            · exact ht.update
            · next r hr => exact State.canonical.fetchLine ht.update hr

theorem State.canonical.fetchWords {core part space n : Nat} {s : State} {va : Nat} (h : s.canonical) :
    (State.fetchWords core part space n s va).2.canonical := by
  induction n generalizing s va with
  | zero => exact h
  | succ n ih =>
    unfold State.fetchWords
    split
    · next f t heq => exact canonicalOf2 heq h.fetchWordAt
    · next w t heq =>
      have ht : t.canonical := canonicalOf2 heq h.fetchWordAt
      split
      · next f u hu => exact canonicalOf2 hu (ih ht)
      · next ws u hu => exact canonicalOf2 hu (ih ht)

theorem State.canonical.dropPodCode {s : State} {core : Nat} (h : s.canonical) : (s.dropPodCode core).canonical := by
  unfold State.dropPodCode
  split
  · exact h.modCore
  · exact h

theorem State.canonical.fetchClause {s : State} {core part space codeBase hdr : Nat} (h : s.canonical) :
    (s.fetchClause core part space codeBase hdr).2.canonical := by
  unfold State.fetchClause
  dsimp only
  split
  · rename_i a f t heq
    have ht : t.canonical := canonicalOf2 heq h.fetchWordAt
    exact ht
  · rename_i a w t heq
    have ht : t.canonical := canonicalOf2 heq h.fetchWordAt
    split
    · rename_i a1 f t1 heq1
      have ht1 : t1.canonical := canonicalOf2 heq1 ht.fetchWords
      exact ht1
    · rename_i a1 ws t1 heq1
      have ht1 : t1.canonical := canonicalOf2 heq1 ht.fetchWords
      split
      · exact ht1.dropPodCode
      · split
        · exact ht1.dropPodCode
        · exact ht1.dropPodCode

end Sys2Proof.Machine
end

section
/-! SUPPORT. Canonical storage is kept: traps, returns and releases of a wave. -/

namespace Sys2Proof.Machine

theorem State.canonical.faultRecord {s : State} {o : Origin} {vpc : Word} {slot cause addr : Nat} (h : s.canonical) :
    (s.faultRecord o vpc slot cause addr).2.canonical := by
  unfold State.faultRecord
  dsimp only
  split
  · exact h.takeSerial.queueRecord.modLaunch
  · exact h.takeSerial.queueRecord

theorem State.canonical.escalateLane {s : State} {o : Origin} {info : TrapInfo} {cause addr : Nat} (h : s.canonical) :
    (s.escalateLane o info cause addr).canonical :=
  h.faultRecord.modLane

theorem State.canonical.exitLanes {s : State} {r : WaveRef} {ls : List Nat} (h : s.canonical) : (s.exitLanes r ls).canonical :=
  h.modWave.dropFromIssues

theorem State.canonical.takeTrap {s : State} {r : WaveRef} {l : Nat} {vpc : Word} {slot cause detail addr : Nat} (h : s.canonical) :
    (s.takeTrap r l vpc slot cause detail addr).canonical := by
  unfold State.takeTrap
  split
  · exact h
  · dsimp only
    split
    · split
      · exact h.fresh.modLaunch.dropFromIssues.exitLanes
      · split
        · exact h.fresh.modLaunch.dropFromIssues.exitLanes
        · exact h.fresh.modLaunch.dropFromIssues.escalateLane.exitLanes
    · split
      · exact h.fresh.modLaunch.dropFromIssues.escalateLane
      · split
        · exact h.fresh.modLaunch.dropFromIssues.modLane
        · exact h.fresh.modLaunch.dropFromIssues.modLane

theorem State.canonical.takeTraps {s : State} {r : WaveRef} {ls : List Nat} {vpc : Word} {slot cause detail addr : Nat} (h : s.canonical) :
    (s.takeTraps r ls vpc slot cause detail addr).canonical :=
  h.foldl fun _ _ h1 => h1.takeTrap

theorem State.canonical.resumeLane {s : State} {o : Origin} {vpc : Word} {slot : Nat} (h : s.canonical) :
    (s.resumeLane o vpc slot).canonical :=
  h.modLane

theorem State.canonical.fetchWaits {s : State} {core : Nat} {la : Launch} {off : Word} (h : s.canonical) :
    (s.fetchWaits core la off).2.canonical := by
  unfold State.fetchWaits
  split
  · rename_i a f t heq
    have ht : t.canonical := canonicalOf2 heq h.fetchWordAt
    exact ht
  · rename_i a w t heq
    have ht : t.canonical := canonicalOf2 heq h.fetchWordAt
    exact ht

theorem State.canonical.headerAt {s : State} {core : Nat} {la : Launch} {off : Word} (h : s.canonical) :
    (s.headerAt core la off).2.canonical := by
  unfold State.headerAt
  split
  · rename_i a f t heq
    have ht : t.canonical := canonicalOf2 heq h.fetchWordAt
    exact ht
  · rename_i a w t heq
    have ht : t.canonical := canonicalOf2 heq h.fetchWordAt
    exact ht

theorem State.canonical.resumePoint {s : State} {core : Nat} {la : Launch} {t pv : Word} {ps : Nat} (h : s.canonical) :
    (s.resumePoint core la t pv ps).2.canonical := by
  unfold State.resumePoint
  split
  · split
    · rename_i heq a t1 heq1
      have ht1 : t1.canonical := canonicalOf2 heq1 h.headerAt
      exact ht1
    · rename_i heq a h1 t1 heq1
      have ht1 : t1.canonical := canonicalOf2 heq1 h.headerAt
      exact ht1
  · split
    · exact h
    · exact h

theorem State.canonical.returnWaits {s : State} {r : WaveRef} {l : List Nat} (h : s.canonical) : (s.returnWaits r l).2.canonical := by
  induction l generalizing s with
  | nil => exact h
  | cons l ls ih =>
    unfold State.returnWaits
    split
    · exact ih h.fetchWaits
    · exact ih h

theorem State.canonical.returnTrap {s : State} {r : WaveRef} {l : Nat} {t : Word} (h : s.canonical) : (s.returnTrap r l t).canonical := by
  unfold State.returnTrap
  split
  · split
    · split
      · exact h.exitLanes
      · split
        · exact h.exitLanes
        · exact h.resumePoint.resumeLane.exitLanes
    · split
      · exact h
      · exact h.resumePoint.modLane.dropFromIssues
  · exact h

theorem State.canonical.escalateBy {s : State} {r : WaveRef} {l code : Nat} (h : s.canonical) : (s.escalateBy r l code).canonical := by
  unfold State.escalateBy
  split
  · dsimp only
    split
    · split
      · exact h.exitLanes
      · split
        · exact h.exitLanes
        · exact h.escalateLane.exitLanes
    · split
      · exact h
      · exact h.modLane.escalateLane.dropFromIssues
  · exact h

theorem State.canonical.killBy {s : State} {r : WaveRef} {l : Nat} (h : s.canonical) : (s.killBy r l).canonical := by
  unfold State.killBy
  split
  · exact h
  · split
    · split
      · exact h.exitLanes
      · exact h.modLane.exitLanes
    · exact h.modLane.exitLanes

theorem State.canonical.replayLane {s : State} {o : Origin} {i : TrapInfo} (h : s.canonical) : (s.replayLane o i).canonical :=
  h.resumeLane.wake

theorem State.canonical.arrive {s : State} {r : WaveRef} {l reg : Nat} {x : Word} (h : s.canonical) : (s.arrive r l reg x).canonical :=
  h.modLane

theorem State.canonical.stopLane {s : State} {r : WaveRef} {l : Nat} {vpc : Word} {slot : Nat} {st : LaneState} (h : s.canonical) :
    (s.stopLane r l vpc slot st).canonical :=
  h.modLane.dropFromIssues

theorem State.canonical.moveLane {s : State} {r : WaveRef} {l : Nat} {vpc : Word} (h : s.canonical) : (s.moveLane r l vpc).canonical :=
  h.modLane.dropFromIssues

theorem State.canonical.holdWave {s : State} {r : WaveRef} {h : Hold} (hs : s.canonical) : (s.holdWave r h).canonical :=
  hs.modWave

end Sys2Proof.Machine
end

section
/-! SUPPORT. Canonical storage is kept: the execution of an instruction word. -/

namespace Sys2Proof.Machine

theorem State.canonical.trapAt {s : State} {c : Ctx} {ls : List Nat} {cause detail addr : Nat} (h : s.canonical) :
    (s.trapAt c ls cause detail addr).canonical :=
  h.takeTraps

theorem State.canonical.illegal {s : State} {c : Ctx} (h : s.canonical) : (s.illegal c).canonical :=
  h.trapAt

theorem State.canonical.passGate {s : State} {c : Ctx} {l : Nat} {a : Gate} (h : s.canonical) : (s.passGate c l a).canonical := by
  unfold State.passGate
  split
  · exact h
  · exact h.trapAt
  · exact h.stopLane

theorem State.canonical.gates {s : State} {c : Ctx} {w : Wave} {needs : Nat → List (Nat × Nat)} {ts : List Nat} (h : s.canonical) :
    (s.gates c w needs ts).2.canonical :=
  h.foldl fun _ _ h1 => h1.passGate

theorem State.canonical.execMember {s : State} {c : Ctx} {legal : Wave → Bool} {f : Ctx → Wave → State → State} (h : s.canonical)
    (hf : ∀ c w s, s.canonical → (f c w s).canonical) : (s.execMember c legal f).canonical := by
  unfold State.execMember
  split
  · exact h
  · split
    · exact h
    · split
      · exact hf _ _ _ h
      · exact h.illegal

theorem State.canonical.execWord {s : State} {i : Instr} {home : Bool} {vr sr : List Nat} {legal : Wave → Bool}
    {f : Ctx → Wave → State → State} (h : s.canonical) (hf : ∀ c w s, s.canonical → (f c w s).canonical) :
    CanonicalNext (s.execWord i home vr sr legal f) := by
  unfold State.execWord
  split
  · exact .next h
  · exact .next ((h.modPart.ite h).foldl fun _ _ h => h.execMember hf)

theorem State.canonical.execIllegal {s : State} (h : s.canonical) : s.execIllegal.canonical := by
  unfold State.execIllegal
  split
  · exact h
  · refine h.foldl ?_
    intro s1 x h1
    split
    · exact h1
    · exact h1.illegal

theorem State.canonical.laneOp {s : State} {i : Instr} {g : BitVec 4} {vr sr : List Nat} {f : Wave → Nat → LaneEff} (h : s.canonical) :
    CanonicalNext (s.laneOp i g vr sr f) :=
  h.execWord fun _ _ _ h1 => h1.gates.modWave

theorem State.canonical.crossOp {s : State} {i : Instr} {g : BitVec 4} {vr sr : List Nat} {legal : Wave → Bool}
    {needs : Wave → List Nat → Nat → List (Nat × Nat)} {f : Wave → List Nat → List Nat → Wave → Wave}
    (h : s.canonical) : CanonicalNext (s.crossOp i g vr sr legal needs f) :=
  h.execWord fun _ _ _ h1 => h1.gates.modWave

theorem State.canonical.scalarOp {s : State} {i : Instr} {g : BitVec 4} {sr : List Nat} {f : Wave → Wave} (h : s.canonical) :
    CanonicalNext (s.scalarOp i g sr f) := by
  unfold State.scalarOp
  refine h.execWord ?_
  intro c w s1 h1
  split
  · exact h1
  · exact h1.modWave

end Sys2Proof.Machine
end

section
/-! SUPPORT. Canonical storage is kept: the float operations. -/

namespace Sys2Proof.Machine

theorem State.canonical.f32Op {s : State} {i : Instr} {d b : BitVec 6} {a : BitVec 7} {g : BitVec 4} {op : Wave → Nat → Nat → Nat → Nat × Flags}
    (h : s.canonical) : CanonicalNext (s.f32Op i d b a g op) :=
  h.laneOp

theorem State.canonical.f64Op {s : State} {i : Instr} {d b : BitVec 6} {a : BitVec 7} {g : BitVec 4} {op : Wave → Nat → Nat → Nat → Nat × Flags}
    (h : s.canonical) : CanonicalNext (s.f64Op i d b a g op) :=
  h.laneOp

theorem State.canonical.f16Op {s : State} {f : Fmt} {i : Instr} {d b : BitVec 6} {a : BitVec 7} {g : BitVec 4}
    {op : Wave → Nat → Nat → Nat → Nat × Flags}
    (h : s.canonical) : CanonicalNext (s.f16Op f i d b a g op) :=
  h.laneOp

theorem State.canonical.f16Cmp {s : State} {f : Fmt} {i : Instr} {p b : BitVec 6} {a : BitVec 7} {c : BitVec 3} {g : BitVec 4} (h : s.canonical) :
    CanonicalNext (s.f16Cmp f i p b a c g) :=
  h.laneOp

end Sys2Proof.Machine
end

section
/-! SUPPORT. Canonical storage is kept: the conversions. -/

namespace Sys2Proof.Machine

theorem execBscale_canonical {d : BitVec 6} {a : BitVec 7} {f : BitVec 3} {k : BitVec 2} {l : BitVec 1} {g : BitVec 4} {s : State} (h : s.canonical) :
    CanonicalNext (execBscale d a f k l g s) := by
  unfold execBscale
  exact h.crossOp

end Sys2Proof.Machine
end

section
/-! SUPPORT. Canonical storage is kept: the integer operations. -/

namespace Sys2Proof.Machine

theorem State.canonical.intOp {s : State} {i : Instr} {d b : BitVec 6} {a : BitVec 7} {g : BitVec 4} {unary : Bool} {op : Word → Word → Word → Word}
    (h : s.canonical) : CanonicalNext (s.intOp i d b a g unary op) :=
  h.laneOp

theorem State.canonical.intCmp {s : State} {i : Instr} {p b : BitVec 6} {a : BitVec 7} {c : BitVec 3} {g : BitVec 4} {signed : Bool}
    (h : s.canonical) : CanonicalNext (s.intCmp i p b a c g signed) :=
  h.laneOp

end Sys2Proof.Machine
end

section
/-! SUPPORT. Canonical storage is kept: the cross-lane operations. -/

namespace Sys2Proof.Machine

theorem execShfl_canonical {d : BitVec 6} {a : BitVec 7} {b : BitVec 6} {m : BitVec 3} {g : BitVec 4} {s : State} (h : s.canonical) :
    CanonicalNext (execShfl d a b m g s) := by
  unfold execShfl
  exact h.crossOp

theorem execLane_canonical {d : BitVec 6} {a : BitVec 7} {n : BitVec 6} {w : BitVec 1} {g : BitVec 4} {s : State} (h : s.canonical) :
    CanonicalNext (execLane d a n w g s) := by
  unfold execLane
  split
  · exact h.crossOp
  · exact h.crossOp

theorem State.canonical.readClock {s : State} {c : Ctx} {ls dest : List Nat} {scalar : Bool} {value : Nat} (h : s.canonical) :
    (s.readClock c ls dest scalar value).canonical := by
  unfold State.readClock
  split
  · exact h
  · dsimp only
    split
    · exact h.fresh.update.holdWave
    · exact h.fresh.update.modWave

theorem execSread_canonical {d : BitVec 6} {s : BitVec 1} {r : BitVec 8} {g : BitVec 4} {sx : State} (h : sx.canonical) :
    CanonicalNext (execSread d s r g sx) := by
  unfold execSread
  refine h.execWord ?_
  intro c w s1 h1
  dsimp only
  split
  · exact h1.gates.readClock
  · split
    · split
      · split
        · exact h1.gates
        · exact h1.gates.modWave
      · split
        · exact h1.gates
        · exact h1.gates.modWave
    · exact h1.gates.modWave

end Sys2Proof.Machine
end

section
/-! SUPPORT. Canonical storage is kept: the scalar operations. -/

namespace Sys2Proof.Machine

theorem State.canonical.sclOp {s : State} {i : Instr} {d b : BitVec 6} {a : BitVec 7} {g : BitVec 4} {unary : Bool} {op : Word → Word → Word → Word}
    (h : s.canonical) : CanonicalNext (s.sclOp i d b a g unary op) :=
  h.scalarOp

end Sys2Proof.Machine
end

section
/-! SUPPORT. Canonical storage is kept: control. -/

namespace Sys2Proof.Machine

theorem State.canonical.moveLanes {s : State} {r : WaveRef} {ls : List Nat} {vpc : Word} (h : s.canonical) :
    (s.moveLanes r ls vpc).canonical :=
  h.foldl fun _ _ h1 => h1.moveLane

theorem State.canonical.stopLanes {s : State} {c : Ctx} {ls : List Nat} {st : LaneState} (h : s.canonical) : (s.stopLanes c ls st).canonical :=
  h.foldl fun _ _ h1 => h1.stopLane

theorem State.canonical.blockOnly {s : State} {c : Ctx} {t : State} (h : s.canonical) (h2 : t.canonical) : (s.blockOnly c t).canonical := by
  unfold State.blockOnly
  split
  · exact h.illegal
  · exact h2

theorem State.canonical.noteVote {s : State} {c : Ctx} {takers others : List Nat} (h : s.canonical) : (s.noteVote c takers others).canonical := by
  unfold State.noteVote
  split
  · exact h
  · exact h.modWave

theorem execBru_canonical {o : BitVec 22} {g : BitVec 4} {s : State} (h : s.canonical) : CanonicalNext (execBru o g s) := by
  unfold execBru
  refine h.execWord ?_
  intro c w s1 h1
  dsimp only
  split
  · exact h1.trapAt
  · exact h1.moveLanes.moveLanes

theorem State.canonical.jumpLanes {s : State} {c : Ctx} {w : Wave} {a : BitVec 7} {g : BitVec 4} (h : s.canonical) :
    (s.jumpLanes c w a g).canonical :=
  (h.gates.foldl fun _ _ h1 => h1.moveLane).moveLanes

theorem State.canonical.podErrorTrap {s : State} {c : Ctx} {ts : List Nat} (h : s.canonical) : CanonicalIfSome (s.podErrorTrap c ts) := by
  unfold State.podErrorTrap
  split
  · exact .none
  · split
    · exact .none
    · exact .some h.modWave.trapAt

theorem execExit_canonical {g : BitVec 4} {s : State} (h : s.canonical) : CanonicalNext (execExit g s) := by
  unfold execExit
  refine h.execWord ?_
  intro c w s1 h1
  refine State.canonical.moveLanes ?_
  split
  · rename_i a t heq
    have ht : t.canonical := h1.podErrorTrap _ heq
    exact ht
  · split
    · exact h1.foldl fun s2 x h2 => h2.escalateBy
    · exact h1.exitLanes

theorem State.canonical.maskWait {s : State} {c : Ctx} {w : Wave} {k g : BitVec 4} {st : LaneState} (h : s.canonical) :
    (s.maskWait c w k g st).canonical :=
  h.stopLanes.moveLanes

theorem execKset_canonical {k g : BitVec 4} {s : State} (h : s.canonical) : CanonicalNext (execKset k g s) := by
  unfold execKset
  refine h.execWord ?_
  intro c w s1 h1
  dsimp only
  split
  · exact h1
  · exact h1.modWave

theorem execKop_canonical {o : BitVec 2} {d s g : BitVec 4} {sx : State} (h : sx.canonical) : CanonicalNext (execKop o d s g sx) := by
  unfold execKop
  refine h.execWord ?_
  intro c w s1 h1
  split
  · exact h1
  · exact h1.modWave

theorem execWaitc_canonical {t : BitVec 4} {c : BitVec 2} {g : BitVec 4} {s : State} (h : s.canonical) : CanonicalNext (execWaitc t c g s) := by
  unfold execWaitc
  refine h.execWord ?_
  intro c1 w s1 h1
  split
  · exact h1
  · exact h1.holdWave

theorem execYield_canonical {g : BitVec 4} {s : State} (h : s.canonical) : CanonicalNext (execYield g s) := by
  unfold execYield
  refine h.execWord ?_
  intro c w s1 h1
  refine State.canonical.moveLanes ?_
  split
  · exact h1
  · exact h1.modWave

theorem State.canonical.modBarrier {s : State} {r : WaveRef} {b : Nat} {f : Barrier → Barrier} (h : s.canonical) :
    (s.modBarrier r b f).canonical := by
  unfold State.modBarrier
  split
  · exact h.modBlock
  · exact h

theorem Block.stored.changePhase {k : Block} {b : Nat} (h : k.stored) : (k.changePhase b).stored := by
  unfold Block.changePhase
  dsimp only
  split
  · exact h
  · exact h.update

theorem State.canonical.arriveAt {s : State} {c : Ctx} {b : Nat} {waiting : List Nat} (h : s.canonical) : (s.arriveAt c b waiting).canonical := by
  unfold State.arriveAt
  dsimp only
  split
  · refine h.modBarrier.stopLanes.modBlock ?_
    exact fun b1 h1 => h1.changePhase
  · exact h.modBarrier.stopLanes

theorem execBar_canonical {b g : BitVec 4} {s : State} (h : s.canonical) : CanonicalNext (execBar b g s) := by
  unfold execBar
  refine h.execWord ?_
  intro c w s1 h1
  refine h1.blockOnly ?_
  refine State.canonical.moveLanes ?_
  split
  · exact h1
  · split
    · exact h1.trapAt
    · exact h1.arriveAt

theorem execBara_canonical {b g : BitVec 4} {s : State} (h : s.canonical) : CanonicalNext (execBara b g s) := by
  unfold execBara
  refine h.execWord ?_
  intro c w s1 h1
  refine h1.blockOnly ?_
  dsimp only
  split
  · exact h1
  · split
    · exact h1.trapAt
    · exact h1.arriveAt

theorem execBarw_canonical {b g : BitVec 4} {s : State} (h : s.canonical) : CanonicalNext (execBarw b g s) := by
  unfold execBarw
  refine h.execWord ?_
  intro c w s1 h1
  refine h1.blockOnly ?_
  refine State.canonical.moveLanes ?_
  split
  · exact h1
  · split
    · exact h1.trapAt
    · split
      · exact h1.stopLanes
      · exact h1.moveLanes

theorem execBari_canonical {a : BitVec 7} {b g : BitVec 4} {s : State} (h : s.canonical) : CanonicalNext (execBari a b g s) := by
  unfold execBari
  refine h.execWord ?_
  intro c w s1 h1
  refine h1.blockOnly ?_
  dsimp only
  split
  · exact h1
  · split
    · exact h1.trapAt
    · exact h1.modBarrier

end Sys2Proof.Machine
end

section
/-! SUPPORT. Canonical storage is kept: the order of issue and the gates of a wave. -/

namespace Sys2Proof.Machine

theorem State.canonical.planKey {s : State} {r : WaveRef} {w : Wave} {key : Nat} (h : s.canonical) : (s.planKey r w key).2.canonical := by
  unfold State.planKey
  dsimp only
  split
  · rename_i a f t heq
    have ht : t.canonical := canonicalOf2 heq h.fetchClause
    exact ht
  · rename_i a c t heq
    have ht : t.canonical := canonicalOf2 heq h.fetchClause
    exact ht

theorem State.canonical.plan {s : State} {r : WaveRef} (h : s.canonical) : (s.plan r).2.canonical := by
  unfold State.plan
  split
  · exact h
  · split
    · exact h
    · dsimp only
      split
      · split
        · rename_i a w heq a1 p heq1 heq2 a2 f t heq3
          have ht : t.canonical := canonicalOf2 heq3 h.planKey
          exact ht
        · rename_i a w heq a1 p heq1 heq2 a2 snd t heq3
          have ht : t.canonical := canonicalOf2 heq3 h.planKey
          exact ht.planKey
      · exact h.planKey

theorem State.canonical.countIssue {s : State} {r : WaveRef} (h : s.canonical) : (s.countIssue r).canonical := by
  unfold State.countIssue
  split
  · exact h
  · dsimp only
    split
    · exact h.modLaunch
    · refine State.canonical.modBlock ?_
      split
      · exact h.modLaunch
      · exact h.modLaunch.modLaunch

theorem State.canonical.clearYields {s : State} {core quarter : Nat} {r : WaveRef} (h : s.canonical) :
    (s.clearYields core quarter r).canonical :=
  h.foldl fun _ _ h1 => h1.modWave

theorem State.canonical.endIssue {s : State} {i : Issue} (h : s.canonical) : (s.endIssue i).canonical :=
  ((h.foldl fun _ _ h1 => h1.foldl fun _ _ h2 => h2.modLane).foldl fun _ _ h1 => h1.modWave).update

theorem State.canonical.beginIssue {s : State} {core quarter : Nat} {r : WaveRef} {p : Plan} {mates : List WaveRef} (h : s.canonical) :
    (s.beginIssue core quarter r p mates).canonical := by
  unfold State.beginIssue
  dsimp only
  split
  · refine State.canonical.modWave ?_
    refine State.canonical.takeTraps ?_
    split
    · exact h.countIssue.clearYields.modWave.modCore.modBlock
    · exact h.countIssue.clearYields.modWave.modCore
  · refine State.canonical.update ?_
    refine State.canonical.fresh ?_
    split
    · split
      · split
        · split
          · split
            · exact h.countIssue.clearYields.modWave.modCore.modBlock.foldl fun s1 x h1 => h1.modWave
            · exact (h.countIssue.clearYields.modWave.modCore.modBlock.foldl fun s1 x h1 => h1.modWave).modPart
          · split
            · exact h.countIssue.clearYields.modWave.modCore.modBlock.foldl fun s1 x h1 => h1.modWave
            · exact (h.countIssue.clearYields.modWave.modCore.modBlock.foldl fun s1 x h1 => h1.modWave).modPart
        · split
          · exact h.countIssue.clearYields.modWave.modCore.modBlock.foldl fun s1 x h1 => h1.modWave
          · exact (h.countIssue.clearYields.modWave.modCore.modBlock.foldl fun s1 x h1 => h1.modWave).modPart
      · split
        · split
          · split
            · exact h.countIssue.clearYields.modWave.modCore.modBlock.foldl fun s1 x h1 => h1.modWave
            · exact (h.countIssue.clearYields.modWave.modCore.modBlock.foldl fun s1 x h1 => h1.modWave).modPart
          · split
            · exact h.countIssue.clearYields.modWave.modCore.modBlock.foldl fun s1 x h1 => h1.modWave
            · exact (h.countIssue.clearYields.modWave.modCore.modBlock.foldl fun s1 x h1 => h1.modWave).modPart
        · split
          · exact h.countIssue.clearYields.modWave.modCore.modBlock.foldl fun s1 x h1 => h1.modWave
          · exact (h.countIssue.clearYields.modWave.modCore.modBlock.foldl fun s1 x h1 => h1.modWave).modPart
    · split
      · split
        · split
          · split
            · exact h.countIssue.clearYields.modWave.modCore.foldl fun s1 x h1 => h1.modWave
            · exact (h.countIssue.clearYields.modWave.modCore.foldl fun s1 x h1 => h1.modWave).modPart
          · split
            · exact h.countIssue.clearYields.modWave.modCore.foldl fun s1 x h1 => h1.modWave
            · exact (h.countIssue.clearYields.modWave.modCore.foldl fun s1 x h1 => h1.modWave).modPart
        · split
          · exact h.countIssue.clearYields.modWave.modCore.foldl fun s1 x h1 => h1.modWave
          · exact (h.countIssue.clearYields.modWave.modCore.foldl fun s1 x h1 => h1.modWave).modPart
      · split
        · split
          · split
            · exact h.countIssue.clearYields.modWave.modCore.foldl fun s1 x h1 => h1.modWave
            · exact (h.countIssue.clearYields.modWave.modCore.foldl fun s1 x h1 => h1.modWave).modPart
          · split
            · exact h.countIssue.clearYields.modWave.modCore.foldl fun s1 x h1 => h1.modWave
            · exact (h.countIssue.clearYields.modWave.modCore.foldl fun s1 x h1 => h1.modWave).modPart
        · split
          · exact h.countIssue.clearYields.modWave.modCore.foldl fun s1 x h1 => h1.modWave
          · exact (h.countIssue.clearYields.modWave.modCore.foldl fun s1 x h1 => h1.modWave).modPart

theorem State.canonical.beginFirst {core quarter : Nat} {mates l : List WaveRef} {s : State} (h : s.canonical) :
    CanonicalIfSome (State.beginFirst core quarter mates l s) := by
  induction l generalizing s with
  | nil => exact .none
  | cons r rs ih =>
    unfold State.beginFirst
    split
    · next p t heq => exact .some (canonicalOf2 heq h.plan).beginIssue
    · next t heq => exact ih (canonicalOf2 heq h.plan)

theorem State.canonical.beginMates {core quarter addr : Nat} {l : List WaveRef} {s : State} (h : s.canonical) :
    (State.beginMates core quarter addr l s).canonical := by
  induction l generalizing s with
  | nil => exact h
  | cons m ms ih =>
    unfold State.beginMates
    split
    · exact ih h
    · split
      · next p t heq =>
        have ht : t.canonical := canonicalOf2 heq h.plan
        exact ih (ht.beginIssue.ite ht)
      · next t heq => exact ih (canonicalOf2 heq h.plan)

theorem State.canonical.noteIssue {s : State} {core quarter : Nat} {r : WaveRef} (h : s.canonical) : (s.noteIssue core quarter r).canonical :=
  h.clearYields.modCore

theorem State.canonical.partHeld {s : State} {i : Issue} (h : s.canonical) : (s.partHeld i).canonical := by
  unfold State.partHeld
  dsimp only
  split
  · exact h
  · exact h.fresh.update

theorem State.canonical.stall {s : State} {r : WaveRef} (h : s.canonical) : (s.stall r).canonical := by
  unfold State.stall
  split
  · exact h
  · split
    · exact h.fresh.update
    · exact h.update

theorem State.canonical.advance {s : State} (h : s.canonical) : s.advance.canonical := by
  unfold State.advance
  split
  · exact h.update
  · dsimp only
    split
    · exact h.update.modIssue
    · split
      · exact h.update.endIssue
      · exact h.update.modIssue

theorem State.canonical.clauseIssueStep {s : State} {core quarter : Nat} {mates : List WaveRef} (h : s.canonical) :
    (s.clauseIssueStep core quarter mates).canonical := by
  unfold State.clauseIssueStep
  dsimp only
  split
  · exact h.beginFirst.getD h
  · exact h

theorem State.canonical.parkBlock {s : State} {uid : Nat} (h : s.canonical) : (s.parkBlock uid).canonical :=
  (h.foldl fun _ _ h1 => h1.foldl fun _ _ h2 => h2.foldl fun _ _ h3 => h3.modLane).update

end Sys2Proof.Machine
end

section
/-! SUPPORT. Canonical storage is kept: leases. -/

namespace Sys2Proof.Machine

theorem State.canonical.l1Drop {s : State} {core part line : Nat} (h : s.canonical) : (s.l1Drop core part line).canonical :=
  h.modCore

theorem State.canonical.l1Put {s : State} {core : Nat} {x : L1Line} (h : s.canonical) : (s.l1Put core x).canonical :=
  h.modCore

theorem State.canonical.l1Store {s : State} {core part line : Nat} {a : PageAttr} {ws scales : List (Nat × Byte)} {last : Bool} (h : s.canonical) :
    (s.l1Store core part line a ws scales last).canonical :=
  h.modCore

theorem State.canonical.barReplica {s : State} {core part line : Nat} (h : s.canonical) : (s.barReplica core part line).canonical := by
  unfold State.barReplica
  split
  · exact h
  · exact h.modSlice

theorem State.canonical.makeReplica {s : State} {i part space line launch length : Nat} {a : PageAttr} (h : s.canonical) :
    (s.makeReplica i part space line launch length a).canonical := by
  unfold State.makeReplica
  refine State.canonical.placeAt ?_
  split
  · exact h.fillLine.grant
  · exact h.fillLine.grant.evict

theorem State.canonical.serveLine {s : State} {core part space line launch : Nat} {a : PageAttr} {rep long : Bool} (h : s.canonical) :
    (s.serveLine core part space line launch a rep long).2.canonical := by
  unfold State.serveLine
  dsimp only
  split
  · exact h.fillLine.grant.barReplica
  · split
    · exact h
    · split
      · exact h.fillLine.grant.barReplica
      · split
        · exact h.makeReplica.fillLine.grant.barReplica
        · exact h.makeReplica

theorem State.canonical.loadLine {s : State} {core part space line launch : Nat} {a : PageAttr} {rep long : Bool} (h : s.canonical) :
    (s.loadLine core part space line launch a rep long).2.canonical := by
  unfold State.loadLine
  split
  · exact h
  · dsimp only
    split
    · exact h.serveLine.l1Put
    · exact h.serveLine

theorem State.canonical.setScope {s : State} {part line : Nat} {r : ScopeRecord} (h : s.canonical) : (s.setScope part line r).canonical := by
  unfold State.setScope
  split
  · exact h
  · exact h.modSlice

theorem State.canonical.checkScope {s : State} {o : MemOp} {a : PageAttr} {line lane va : Nat} (h : s.canonical) :
    (s.checkScope o a line lane va).2.canonical := by
  unfold State.checkScope
  split
  · exact h
  · dsimp only
    split
    · exact h.fillLine.setScope
    · exact h.fillLine.takeTrap

theorem State.canonical.checkScopes {s : State} {o : MemOp} {a : PageAttr} {line : Nat} {l : List OpLane} (h : s.canonical) :
    (s.checkScopes o a line l).2.canonical := by
  induction l generalizing s with
  | nil => exact h
  | cons l ls ih => exact ih h.checkScope

end Sys2Proof.Machine
end

section
/-! SUPPORT. Canonical storage is kept: memory instructions at issue. -/

namespace Sys2Proof.Machine

theorem State.canonical.unlessBlocked {s : State} {c : Ctx} {ts : List Nat} {blocked : Bool} {t : State} (h : s.canonical) (h2 : t.canonical) :
    (s.unlessBlocked c ts blocked t).canonical := by
  unfold State.unlessBlocked
  split
  · exact h.stall
  · exact h2

theorem State.canonical.admitLane {s : State} {c : Ctx} {align : Nat} {kind : AccessKind} {pod : Option Nat} {l va : Nat} (h : s.canonical) :
    (s.admitLane c align kind pod l va).2.canonical := by
  unfold State.admitLane
  dsimp only
  split
  · exact h.trapAt
  · split
    · rename_i hne a f t heq
      have ht : t.canonical := canonicalOf2 heq h.checkAccess
      exact ht.trapAt
    · rename_i hne a e t heq
      have ht : t.canonical := canonicalOf2 heq h.checkAccess
      split
      · split
        · exact ht.trapAt
        · split
          · exact ht.podCheck
          · exact ht.podCheck.trapAt
      · exact ht

theorem State.canonical.admitLanes {s : State} {c : Ctx} {align : Nat} {kind : AccessKind} {pod : Option Nat} {va : Nat → Nat} {l : List Nat}
    (h : s.canonical) : (s.admitLanes c align kind pod va l).2.canonical := by
  induction l generalizing s with
  | nil => exact h
  | cons l ls ih => exact ih h.admitLane

theorem State.canonical.putOp {s : State} {c : Ctx} {mk : Nat → MemOp} {held : Bool} (h : s.canonical) : (s.putOp c mk held).canonical :=
  h.fresh.update.modWave

theorem State.canonical.launchOp {s : State} {c : Ctx} {kind : MemKind} {scope qual : Nat} {acq rel sync : Bool} {groups : List OpGroup}
    (h : s.canonical) : (s.launchOp c kind scope qual acq rel sync groups).canonical :=
  h.putOp

theorem State.canonical.emptyDests {s : State} {c : Ctx} {ls rs : List Nat} (h : s.canonical) : (s.emptyDests c ls rs).canonical :=
  h.modWave

theorem State.canonical.faultDests {s : State} {c : Ctx} {passed served rs : List Nat} (h : s.canonical) :
    (s.faultDests c passed served rs).canonical :=
  h.modWave

theorem State.canonical.globalLoad {s : State} {i : Instr} {d b o : BitVec 6} {sc q : BitVec 2} {g : BitVec 4} {size n : Nat} {signed : Bool}
    (h : s.canonical) : CanonicalNext (s.globalLoad i d b o sc q g size n signed) := by
  unfold State.globalLoad
  refine h.execWord ?_
  intro c w s1 h1
  refine h1.unlessBlocked ?_
  dsimp only
  split
  · exact h1.gates.admitLanes.faultDests
  · exact h1.gates.admitLanes.faultDests.emptyDests.launchOp

theorem State.canonical.storeL1 {s : State} {c : Ctx} {qual : Nat} {l : List OpGroup} (h : s.canonical) :
    (s.storeL1 c qual l).2.canonical := by
  induction l generalizing s with
  | nil => exact h
  | cons g gs ih => exact ih (h.l1Store.ite h)

theorem State.canonical.globalStore {s : State} {i : Instr} {d b o : BitVec 6} {sc q : BitVec 2} {g : BitVec 4} {size n : Nat} (h : s.canonical) :
    CanonicalNext (s.globalStore i d b o sc q g size n) := by
  unfold State.globalStore
  refine h.execWord ?_
  intro c w s1 h1
  refine h1.unlessBlocked ?_
  dsimp only
  split
  · exact h1.gates.admitLanes
  · exact h1.gates.admitLanes.storeL1.launchOp

theorem State.canonical.globalAtomic {s : State} {i : Instr} {d b o : BitVec 6} {sc q : BitVec 2} {g : BitVec 4} {size nd sub : Nat}
    (h : s.canonical) : CanonicalNext (s.globalAtomic i d b o sc q g size nd sub) := by
  unfold State.globalAtomic
  refine h.execWord ?_
  intro c w s1 h1
  refine h1.unlessBlocked ?_
  dsimp only
  split
  · exact h1.gates.admitLanes.faultDests
  · exact h1.gates.admitLanes.faultDests.emptyDests.launchOp

theorem State.canonical.mxAdmit {s : State} {c : Ctx} {w : Wave} {sv : List Served} (h : s.canonical) : (s.mxAdmit c w sv).2.canonical :=
  h.foldl fun _ _ h1 => h1.trapAt

theorem State.canonical.mxPass {s : State} {c : Ctx} {w : Wave} {needs : Served → List (Nat × Nat)} {l : List (List Served)}
    (h : s.canonical) : (s.mxPass c w needs l).2.canonical := by
  induction l generalizing s with
  | nil => exact h
  | cons grp gs ih =>
    unfold State.mxPass
    split
    · exact ih (h.foldl fun _ _ h => h.passGate)
    · exact ih (h.foldl fun _ _ h => h.trapAt)

theorem execLdMx_canonical {d b o : BitVec 6} {s q : BitVec 2} {g : BitVec 4} {sx : State} (h : sx.canonical) :
    CanonicalNext (execLdMx d b o s q g sx) := by
  unfold execLdMx
  refine h.execWord ?_
  intro c w s1 h1
  refine h1.unlessBlocked ?_
  dsimp only
  split
  · exact h1.gates.admitLanes.mxAdmit.mxPass.faultDests
  · exact h1.gates.admitLanes.mxAdmit.mxPass.faultDests.emptyDests.launchOp

theorem execStMx_canonical {d b o : BitVec 6} {s q : BitVec 2} {g : BitVec 4} {sx : State} (h : sx.canonical) :
    CanonicalNext (execStMx d b o s q g sx) := by
  unfold execStMx
  refine h.execWord ?_
  intro c w s1 h1
  refine h1.unlessBlocked ?_
  dsimp only
  split
  · exact h1.gates.admitLanes.mxAdmit.mxPass
  · exact h1.gates.admitLanes.mxAdmit.mxPass.storeL1.launchOp

theorem State.canonical.prefLanes {s : State} {c : Ctx} {va : Nat → Nat} {l : List Nat} (h : s.canonical) :
    (s.prefLanes c va l).2.canonical := by
  induction l generalizing s with
  | nil => exact h
  | cons l ls ih => exact ih h.translate

theorem State.canonical.quietGates {s : State} {c : Ctx} {w : Wave} {needs : Nat → List (Nat × Nat)} {ts : List Nat} (h : s.canonical) :
    (s.quietGates c w needs ts).2.canonical := by
  unfold State.quietGates
  refine h.foldl ?_
  intro s1 x h1
  split
  · exact h1.passGate
  · exact h1

theorem execPref_canonical {b o : BitVec 6} {s q : BitVec 2} {g : BitVec 4} {sx : State} (h : sx.canonical) :
    CanonicalNext (execPref b o s q g sx) := by
  unfold execPref
  refine h.execWord ?_
  intro c w s1 h1
  refine h1.unlessBlocked ?_
  dsimp only
  split
  · exact h1.quietGates.prefLanes
  · exact h1.quietGates.prefLanes.fresh.update

theorem State.canonical.scalarLoad {s : State} {i : Instr} {d b o : BitVec 6} {sc q : BitVec 2} {g : BitVec 4} {size n : Nat} (h : s.canonical) :
    CanonicalNext (s.scalarLoad i d b o sc q g size n) := by
  unfold State.scalarLoad
  refine h.execWord ?_
  intro c w s1 h1
  refine h1.unlessBlocked ?_
  split
  · exact h1
  · dsimp only
    split
    · exact h1.trapAt
    · split
      · rename_i a h2 t heq hne a1 f t1 heq1
        have ht1 : t1.canonical := canonicalOf2 heq1 h1.checkAccess
        exact ht1.trapAt
      · rename_i a h2 t heq hne a1 e t1 heq1
        have ht1 : t1.canonical := canonicalOf2 heq1 h1.checkAccess
        split
        · split
          · exact ht1.podCheck.trapAt
          · exact ht1.podCheck.launchOp
        · split
          · exact ht1.trapAt
          · exact ht1.launchOp

end Sys2Proof.Machine
end

section
/-! SUPPORT. Canonical storage is kept: the scratchpad. -/

namespace Sys2Proof.Machine

theorem Block.stored.putScratch {b : Block} {off : Nat} {bs : List Byte} (h : b.stored) : (b.putScratch off bs).stored :=
  ⟨cellPut_wf _ _ _ _ h.1, h.2⟩

theorem Block.stored.fillGranule {b : Block} {g : Nat} (h : b.stored) : (b.fillGranule g).stored :=
  h.update

theorem Block.stored.emptyGranule {b : Block} {g : Nat} (h : b.stored) : (b.emptyGranule g).stored :=
  h.update

theorem Block.stored.poisonGranule {b : Block} {g : Nat} (h : b.stored) : (b.poisonGranule g).stored :=
  h.update

theorem Block.stored.clearPoison {b : Block} {offs : List Nat} (h : b.stored) : (b.clearPoison offs).stored :=
  h.update

theorem Block.stored.writeAll {b : Block} {ws : List (Nat × List Byte)} (h : b.stored) : (b.writeAll ws).stored :=
  (h.foldl fun _ _ h1 => h1.putScratch).clearPoison

theorem State.canonical.modBlockOf {s : State} {r : WaveRef} {f : Block → Block} (h : s.canonical)
    (hf : ∀ b, b.stored → (f b).stored := by exact fun _ hb => hb) : (s.modBlockOf r f).canonical := by
  unfold State.modBlockOf
  split
  · exact h.modBlock hf
  · exact h

theorem State.canonical.scratchLanes {s : State} {c : Ctx} {size : Nat} {off : Nat → Nat} {ls : List Nat} (h : s.canonical) :
    (s.scratchLanes c size off ls).2.canonical := by
  unfold State.scratchLanes
  refine h.foldl ?_
  intro s1 x h1
  split
  · exact h1
  · exact h1.trapAt

theorem State.canonical.ldsWait {s : State} {c : Ctx} {l gran : Nat} {ds : List Nat} (h : s.canonical) : (s.ldsWait c l gran ds).canonical :=
  h.modLane.stopLane

theorem State.canonical.ldsRead {s : State} {c : Ctx} {b : Block} {l off size : Nat} {ds : List Nat} (h : s.canonical) :
    (s.ldsRead c b l off size ds).canonical := by
  unfold State.ldsRead
  dsimp only
  split
  · exact h.modLane.modLane.trapAt
  · exact h.modLane.modLane

theorem State.canonical.scratchLoad {s : State} {i : Instr} {d b o : BitVec 6} {q : BitVec 2} {g : BitVec 4} {n : Nat} (h : s.canonical) :
    CanonicalNext (s.scratchLoad i d b o q g n) := by
  unfold State.scratchLoad
  refine h.execWord ?_
  intro c w s1 h1
  refine h1.blockOnly ?_
  refine h1.unlessBlocked ?_
  dsimp only
  split
  · exact h1.gates.scratchLanes.faultDests
  · split
    · refine ((h1.gates.scratchLanes.faultDests.foldl fun s2 x h2 => h2.ldsRead).foldl fun s2 x h2 => h2.ldsWait).modBlockOf ?_
      exact fun b1 h2 => h2.foldl fun b2 x h3 => h3.emptyGranule
    · exact (h1.gates.scratchLanes.faultDests.foldl fun s2 x h2 => h2.ldsRead).foldl fun s2 x h2 => h2.ldsWait

theorem State.canonical.scratchStore {s : State} {i : Instr} {d b o : BitVec 6} {q : BitVec 2} {g : BitVec 4} {n : Nat} (h : s.canonical) :
    CanonicalNext (s.scratchStore i d b o q g n) := by
  unfold State.scratchStore
  refine h.execWord ?_
  intro c w s1 h1
  refine h1.blockOnly ?_
  refine h1.unlessBlocked ?_
  dsimp only
  split
  · exact h1.gates.scratchLanes
  · refine State.canonical.foldl ?_ fun s2 x h2 => h2.stopLane
    refine h1.gates.scratchLanes.modBlockOf ?_
    intro b1 h2
    split
    · exact h2.writeAll
    · exact h2.writeAll.foldl fun b2 x h3 => h3.fillGranule

theorem execFe_canonical {d b : BitVec 6} {q : BitVec 2} {g : BitVec 4} {s : State} (h : s.canonical) : CanonicalNext (execFe d b q g s) := by
  unfold execFe
  refine h.execWord ?_
  intro c w s1 h1
  refine h1.blockOnly ?_
  refine h1.unlessBlocked ?_
  refine State.canonical.modBlockOf ?_ ?_
  · refine h1.gates.foldl ?_
    intro s2 x h2
    split
    · exact h2
    · exact h2.trapAt
  · intro b1 h2
    refine h2.foldl ?_
    intro b2 x h3
    split
    · exact h3.fillGranule
    · exact h3.emptyGranule

theorem Block.stored.scratchAtom {b : Block} {sub off operand swap : Nat} (h : b.stored) : (b.scratchAtom sub off operand swap).1.stored := by
  unfold Block.scratchAtom
  dsimp only
  split
  · exact h.putScratch
  · exact h

theorem Block.stored.scratchAtoms {b : Block} {sub : Nat} {at_ : Nat → Nat × Nat × Nat} {l : List Nat} (h : b.stored) :
    (b.scratchAtoms sub at_ l).1.stored := by
  induction l generalizing b with
  | nil => exact h
  | cons l ls ih => exact ih h.scratchAtom

/-- A block of a state in canonical form. -/
theorem State.canonical.blockOf {s : State} {r : WaveRef} {b : Block} (h : s.canonical) (hb : s.blockOf r = some b) : b.stored := by
  cases r with
  | blk uid w => exact h.2.2 b (List.mem_of_find?_eq_some hb)
  | hdl c q => exact nomatch hb

/-- A block's scratchpad after atomics of it, put in its place. -/
theorem State.canonical.putAtoms {s : State} {r : WaveRef} {k : Block} {sub : Nat} {at_ : Nat → Nat × Nat × Nat} {ls : List Nat} (h : s.canonical)
    (hk : s.blockOf r = some k) : (s.modBlockOf r fun b => { b with scratch := (k.scratchAtoms sub at_ ls).1.scratch }).canonical :=
  h.modBlockOf fun _ hb => ⟨(h.blockOf hk).scratchAtoms.1, hb.2⟩

theorem execSatom_canonical {d b : BitVec 6} {o : BitVec 4} {q : BitVec 2} {g : BitVec 4} {s : State} (h : s.canonical) :
    CanonicalNext (execSatom d b o q g s) := by
  unfold execSatom
  refine h.execWord fun c w s h => h.blockOnly (h.unlessBlocked ?_)
  dsimp only
  split
  · exact h.gates.scratchLanes.faultDests
  · next k hk =>
    refine State.canonical.ite ?_ (State.canonical.putOp (State.canonical.emptyDests ?_))
    all_goals exact h.gates.scratchLanes.faultDests.putAtoms hk

theorem execRatom_canonical {d b : BitVec 6} {o : BitVec 4} {q : BitVec 2} {g : BitVec 4} {s : State} (h : s.canonical) :
    CanonicalNext (execRatom d b o q g s) := by
  unfold execRatom
  refine h.execWord fun c w s h => h.blockOnly (h.unlessBlocked ?_)
  dsimp only
  have hkeep {bad : Nat → Option Nat} {served : List Nat} {off : Nat → Nat} {rs back : List Nat} {t : State} (ht : t.canonical) :
      ((rs.foldl (fun s l => match bad l with
        | none => s
        | some cause => s.trapAt c [l] cause 0 (off l)) t).faultDests c rs served back).canonical := by
    refine State.canonical.faultDests (ht.foldl fun s l hs => ?_)
    split
    · exact hs
    · exact hs.trapAt
  split
  · next k _ hk => exact ((hkeep h.gates).putAtoms hk).emptyDests.putOp
  · exact hkeep h.gates

theorem execQcfg_canonical {d : BitVec 6} {n g : BitVec 4} {s : State} (h : s.canonical) : CanonicalNext (execQcfg d n g s) := by
  unfold execQcfg
  refine h.execWord ?_
  intro c w s1 h1
  refine h1.blockOnly ?_
  refine h1.unlessBlocked ?_
  dsimp only
  split
  · split
    · exact h1.gates.trapAt
    · refine h1.gates.modBlockOf ?_
      exact fun b h2 => h2.update.foldl fun b1 x h3 => h3.emptyGranule
  · exact h1.gates

theorem Block.stored.releasePop {b : Block} {n : Nat} (h : b.stored) : (b.releasePop n).stored := by
  unfold Block.releasePop
  split
  · exact h
  · exact h.update

theorem execQpush_canonical {d : BitVec 6} {n g : BitVec 4} {s : State} (h : s.canonical) : CanonicalNext (execQpush d n g s) := by
  unfold execQpush
  refine h.execWord ?_
  intro c w s1 h1
  refine h1.blockOnly ?_
  refine h1.unlessBlocked ?_
  dsimp only
  split
  · exact h1.gates
  · split
    · exact h1.gates.trapAt
    · split
      · exact h1.gates.stopLanes
      · refine h1.gates.modBlockOf ?_
        exact fun b h2 => (h2.update.writeAll.foldl fun b1 x h3 => h3.fillGranule).releasePop

theorem execQpop_canonical {d : BitVec 6} {n g : BitVec 4} {s : State} (h : s.canonical) : CanonicalNext (execQpop d n g s) := by
  unfold execQpop
  refine h.execWord ?_
  intro c w s1 h1
  refine h1.blockOnly ?_
  refine h1.unlessBlocked ?_
  dsimp only
  split
  · exact h1.gates
  · split
    · exact h1.gates.trapAt
    · split
      · exact h1.gates.fresh.stopLanes
      · refine h1.gates.modWave.modBlockOf ?_
        exact fun b h2 => h2.update.foldl fun b1 x h3 => h3.emptyGranule

end Sys2Proof.Machine
end

section
/-! SUPPORT. Canonical storage is kept: wait groups. -/

namespace Sys2Proof.Machine

theorem State.canonical.formWait {s : State} {c : Ctx} {d : BitVec 6} {cond : Nat} {wide : Bool} {ticks scope : Nat} {grp : List (Served × Nat)}
    (h : s.canonical) : (s.formWait c d cond wide ticks scope grp).canonical := by
  unfold State.formWait
  split
  · exact h.emptyDests.stopLanes.modWave.putOp
  · exact h

theorem State.canonical.waitUntil {s : State} {i : Instr} {d b t : BitVec 6} {sc : BitVec 2} {wide : Bool} {cond : Nat} {g : BitVec 4}
    (h : s.canonical) : CanonicalNext (s.waitUntil i d b t sc wide cond g) :=
  h.execWord fun _ _ _ h1 => h1.unlessBlocked ((h1.gates.admitLanes.faultDests.foldl fun _ _ h2 => h2.formWait).moveLanes)

theorem execFence_canonical {s q : BitVec 2} {g : BitVec 4} {sx : State} (h : sx.canonical) : CanonicalNext (execFence s q g sx) := by
  unfold execFence
  refine h.execWord ?_
  intro c w s1 h1
  dsimp only
  split
  · exact h1
  · split
    · rename_i hne a t heq
      have ht : t.canonical := h1.podErrorTrap _ heq
      exact ht
    · exact h1.holdWave

end Sys2Proof.Machine
end

section
/-! SUPPORT. Canonical storage is kept: appended launch records. -/

namespace Sys2Proof.Machine

theorem State.canonical.foldLaunch {s : State} {r : WaveRef} {lid completion : Nat} (h : s.canonical) :
    (s.foldLaunch r lid completion).canonical := by
  unfold State.foldLaunch
  split
  · exact h
  · exact h.modLaunch

theorem State.canonical.countOut {s : State} {r : WaveRef} {counter completion : Nat} (h : s.canonical) :
    (s.countOut r counter completion).canonical :=
  h.modWave

theorem State.canonical.drainMem {r : WaveRef} {fuel : Nat} {s : State} (h : s.canonical) : (State.drainMem r fuel s).canonical := by
  induction fuel generalizing s with
  | zero => exact h
  | succ n ih =>
    unfold State.drainMem
    split
    · exact h
    · split
      · refine ih ?_
        split
        · exact h.countOut.foldLaunch.dropMemOp
        · exact h.countOut.foldLaunch.modMemOp
      · exact h

theorem State.canonical.endOp {s : State} {o : MemOp} (h : s.canonical) : (s.endOp o).canonical := by
  unfold State.endOp
  split
  · exact h.dropMemOp
  · exact h.modMemOp.drainMem

theorem State.canonical.modStream {s : State} {part n : Nat} {f : Stream → Stream} (h : s.canonical) : (s.modStream part n f).canonical :=
  h.modVF

theorem State.canonical.waitRing {s : State} {c : Ctx} {ts : List Nat} {pair : Served} {operand space : Nat} (h : s.canonical) :
    (s.waitRing c ts pair operand space).canonical := by
  unfold State.waitRing
  split
  · exact h
  · exact h.stopLanes.modWave.putOp

theorem State.canonical.launchCheck {s : State} {c : Ctx} {ts : List Nat} {space va : Nat} {kind : AccessKind} (h : s.canonical) :
    (s.launchCheck c ts space va kind).2.canonical := by
  unfold State.launchCheck
  split
  · rename_i a f t heq
    have ht : t.canonical := canonicalOf2 heq h.checkAccess
    exact ht.trapAt
  · rename_i a e t heq
    have ht : t.canonical := canonicalOf2 heq h.checkAccess
    split
    · exact ht
    · dsimp only
      split
      · split
        · exact ht.podCheck
        · exact ht.podCheck.trapAt
      · split
        · exact ht
        · exact ht.trapAt

theorem State.canonical.launchRing {s : State} {c : Ctx} {ts : List Nat} {space : Nat} {l : List Nat} (h : s.canonical) :
    (s.launchRing c ts space l).2.canonical := by
  induction l generalizing s with
  | nil => exact h
  | cons va vas ih =>
    unfold State.launchRing
    split
    · next t heq => exact canonicalOf2 heq h.launchCheck
    · next e t heq => exact ih (canonicalOf2 heq h.launchCheck)

theorem State.canonical.reserveSlot {s : State} {c : Ctx} {n : Nat} {image slot pair : Served} {index space : Nat} (h : s.canonical) :
    (s.reserveSlot c n image slot pair index space).canonical :=
  h.modStream.putOp

theorem State.canonical.launchStream {s : State} {c : Ctx} {ts : List Nat} {n : Nat} {image : Served} (h : s.canonical) :
    (s.launchStream c ts n image).canonical := by
  unfold State.launchStream
  dsimp only
  split
  · rename_i a t heq
    have ht : t.canonical := canonicalOf2 heq h.launchCheck
    exact ht
  · rename_i a val t heq
    have ht : t.canonical := canonicalOf2 heq h.launchCheck
    split
    · rename_i a1 t1 heq1
      have ht1 : t1.canonical := canonicalOf2 heq1 ht.launchRing
      exact ht1
    · rename_i a1 t1 heq1
      have ht1 : t1.canonical := canonicalOf2 heq1 ht.launchRing
      split
      · exact ht1.trapAt
      · split
        · rename_i hne a2 t2 heq2
          have ht2 : t2.canonical := canonicalOf2 heq2 ht1.launchCheck
          exact ht2
        · rename_i hne a2 val1 t2 heq2
          have ht2 : t2.canonical := canonicalOf2 heq2 ht1.launchCheck
          split
          · exact ht2.useLine.waitRing
          · exact ht2.useLine.reserveSlot

theorem execLaunch_canonical {a : BitVec 7} {s : BitVec 6} {g : BitVec 4} {sx : State} (h : sx.canonical) :
    CanonicalNext (execLaunch a s g sx) := by
  unfold execLaunch
  refine h.execWord ?_
  intro c w s1 h1
  refine h1.unlessBlocked ?_
  dsimp only
  split
  · exact h1
  · split
    · exact h1.trapAt
    · split
      · rename_i hne hne1 a1 t heq
        have ht : t.canonical := canonicalOf2 heq h1.launchCheck
        exact ht
      · rename_i hne hne1 a1 val t heq
        have ht : t.canonical := canonicalOf2 heq h1.launchCheck
        exact ht.launchStream

theorem State.canonical.appendTokens {s : State} {o : MemOp} {bytes line : Nat} (h : s.canonical) :
    CanonicalIfSome (s.appendTokens o bytes line) := by
  unfold State.appendTokens
  split
  · exact .none
  · exact h.takeAll

theorem State.canonical.readImage {s : State} {o : MemOp} {image : Nat} (h : s.canonical) : (s.readImage o image).canonical := by
  unfold State.readImage
  dsimp only
  split
  · exact h
  · split
    · exact h
    · rename_i hne a t heq
      have ht : t.canonical := h.appendTokens _ heq
      split
      · exact ht.sendPod.modMemOp
      · exact ht.fillLine.modMemOp

theorem execLaunchAppendComplete_canonical {op : Nat} {s : State} (h : s.canonical) : CanonicalNext (execLaunchAppendComplete op s) := by
  unfold execLaunchAppendComplete
  refine .next ?_
  split
  · exact h
  · split
    · split
      · exact h
      · split
        · exact h.readImage
        · split
          · split
            · exact h
            · rename_i a o heq a1 image slot pair index heq1 hne hne1 heq2 a2 t heq3
              have ht : t.canonical := h.appendTokens _ heq3
              exact ht.update.performWrite.modMemOp
          · split
            · split
              · exact h
              · rename_i a o heq a1 image slot pair index heq1 hne hne1 hne2 heq2 a2 t heq3
                have ht : t.canonical := h.appendTokens _ heq3
                exact ht.performWrite.modStream.endOp
            · exact h
    · exact h

end Sys2Proof.Machine
end

section
/-! SUPPORT. Canonical storage is kept: the storage of a block. -/

namespace Sys2Proof.Machine

theorem Block.stored.atLaunch {r : LaunchRecord} {uid lid lin handle core start placed now : Nat} :
    (Block.atLaunch r uid lid lin handle core start placed now).stored := ⟨rfl, rfl⟩

end Sys2Proof.Machine
end

section
/-! SUPPORT. Canonical storage is kept: memory operations that go on. -/

namespace Sys2Proof.Machine

theorem State.canonical.setGroup {s : State} {op i : Nat} {g : OpGroup} (h : s.canonical) : (s.setGroup op i g).canonical :=
  h.modMemOp

theorem State.canonical.regulated {s : State} {o : MemOp} {i : Nat} {g : OpGroup} {f : OpGroup → State → State}
    (h : s.canonical) (hf : ∀ (a : OpGroup) (a_1 : State), a_1.canonical → (f a a_1).canonical) : (s.regulated o i g f).canonical := by
  unfold State.regulated
  split
  · rename_i a g1 t heq
    have ht : t.canonical := canonicalOf22 heq h.passPoints
    split
    · exact ht.setGroup
    · exact hf _ _ ht
  · rename_i a g1 t heq
    have ht : t.canonical := canonicalOf22 heq h.passPoints
    exact ht.setGroup

theorem execBucketRelease_canonical {point : BucketPoint} {op line : Nat} {s : State} (h : s.canonical) :
    CanonicalNext (execBucketRelease point op line s) := by
  unfold execBucketRelease
  refine .next ?_
  split
  · split
    · split
      · exact h
      · exact h.releasePod
    · exact h
  · split
    · exact h
    · split
      · exact h.passPoint.setGroup
      · exact h

theorem State.canonical.sendGroup {s : State} {o : MemOp} {i : Nat} {g : OpGroup} (h : s.canonical) : (s.sendGroup o i g).canonical := by
  unfold State.sendGroup
  split
  · exact h
  · refine h.regulated ?_
    intro x x1 h1
    split
    · exact h1.setGroup
    · exact h1.sendPod.setGroup

theorem State.canonical.loadChecks {s : State} {o : MemOp} {g : OpGroup} (h : s.canonical) : (s.loadChecks o g).2.canonical := by
  unfold State.loadChecks
  split
  · exact h
  · split
    · dsimp only
      split
      · exact h.checkScope
      · exact h.checkScope.foldl fun s1 x h1 => h1.takeTrap
    · exact h.checkScopes

theorem State.canonical.prefetchLine {s : State} {o : MemOp} {g : OpGroup} {level : Nat} (h : s.canonical) :
    (s.prefetchLine o g level).canonical := by
  unfold State.prefetchLine
  dsimp only
  split
  · exact h.loadLine
  · exact h.serveLine

theorem State.canonical.loadNow {s : State} {o : MemOp} {i : Nat} {g : OpGroup} (h : s.canonical) : (s.loadNow o i g).canonical := by
  unfold State.loadNow
  dsimp only
  split
  · exact h.loadChecks.setGroup
  · exact h.loadChecks.loadLine.setGroup

theorem State.canonical.loadPerform {s : State} {o : MemOp} {i : Nat} {g : OpGroup} (h : s.canonical) : (s.loadPerform o i g).canonical := by
  unfold State.loadPerform
  split
  · refine h.regulated ?_
    intro x x1 h1
    dsimp only
    split
    · exact h1.prefetchLine.setGroup.dropMemOp
    · exact h1.prefetchLine.setGroup
  · split
    · exact h.sendGroup
    · dsimp only
      split
      · exact h
      · split
        · exact h.loadNow
        · exact h.regulated fun x x1 h1 => h1.loadNow

theorem State.canonical.tagLast {s : State} {part line : Nat} (h : s.canonical) : (s.tagLast part line).canonical := by
  unfold State.tagLast
  split
  · exact h
  · exact h.modSlice

theorem State.canonical.afterStore {s : State} {o : MemOp} {g : OpGroup} (h : s.canonical) : (s.afterStore o g).canonical := by
  unfold State.afterStore
  split
  · exact h.tagLast
  · dsimp only
    split
    · exact h.serveLine.l1Put
    · exact h.serveLine
  · exact h

theorem State.canonical.settleOp {s : State} {op : Nat} (h : s.canonical) : (s.settleOp op).canonical := by
  unfold State.settleOp
  split
  · exact h
  · split
    · split
      · exact h.endOp
      · exact h.endOp
      · dsimp only
        split
        · split
          · exact h.endOp
          · exact h
        · split
          · refine State.canonical.dropMemOp ?_
            split
            · exact h.endOp
            · exact h
          · split
            · exact h.endOp
            · exact h
      · split
        · exact h.endOp
        · exact h
      · split
        · exact h.endOp
        · exact h
      · split
        · exact h.endOp
        · exact h
      · split
        · exact h.endOp
        · exact h
      · split
        · exact h.endOp
        · exact h
      · split
        · exact h.dropMemOp
        · exact h
      · exact h
    · exact h

theorem State.canonical.storeNow {s : State} {o : MemOp} {i : Nat} {g : OpGroup} (h : s.canonical) : (s.storeNow o i g).canonical := by
  unfold State.storeNow
  dsimp only
  split
  · split
    · exact h.checkScopes.setGroup.settleOp
    · refine State.canonical.settleOp ?_
      refine State.canonical.afterStore ?_
      refine State.canonical.barReplica ?_
      split
      · exact h.checkScopes.performWrite.setGroup.modMemOp
      · exact h.checkScopes.performWrite.setGroup.modMemOp.l1Drop
  · split
    · exact h.setGroup.settleOp
    · refine State.canonical.settleOp ?_
      refine State.canonical.afterStore ?_
      refine State.canonical.barReplica ?_
      split
      · exact h.performWrite.setGroup.modMemOp
      · exact h.performWrite.setGroup.modMemOp.l1Drop

theorem State.canonical.storePerform {s : State} {o : MemOp} {i : Nat} {g : OpGroup} (h : s.canonical) : (s.storePerform o i g).canonical := by
  unfold State.storePerform
  split
  · exact h
  · split
    · exact h.sendGroup
    · split
      · exact h
      · exact h.regulated fun x x1 h1 => h1.storeNow

theorem State.canonical.atomLane {s : State} {o : MemOp} {a : PageAttr} {line sub : Nat} {wide : Bool} {l : OpLane} (h : s.canonical) :
    (s.atomLane o a line sub wide l).2.2.canonical := by
  unfold State.atomLane
  dsimp only
  split
  · exact h.checkScope
  · split
    · exact h.checkScope.touchWrite
    · exact h.checkScope.performWrite

theorem State.canonical.atomLanes {o : MemOp} {a : PageAttr} {line sub : Nat} {wide : Bool} {l : List OpLane} {s : State} (h : s.canonical) :
    (State.atomLanes o a line sub wide l s).2.2.canonical := by
  induction l generalizing s with
  | nil => exact h
  | cons l ls ih => exact ih h.atomLane

theorem State.canonical.atomNow {s : State} {o : MemOp} {i : Nat} {g : OpGroup} {sub : Nat} {wide : Bool} (h : s.canonical) :
    (s.atomNow o i g sub wide).canonical := by
  unfold State.atomNow
  dsimp only
  split
  · exact h.fillLine.checkScopes.logUncorrectedLine.setGroup.settleOp
  · exact h.fillLine.atomLanes.setGroup.modMemOp.l1Drop.barReplica.settleOp

theorem State.canonical.atomPerform {s : State} {o : MemOp} {i : Nat} {g : OpGroup} {sub : Nat} {wide : Bool} (h : s.canonical) :
    (s.atomPerform o i g sub wide).canonical := by
  unfold State.atomPerform
  split
  · exact h
  · split
    · exact h.sendGroup
    · split
      · exact h
      · exact h.regulated fun x x1 h1 => h1.atomNow

theorem State.canonical.writeEvent {s : State} {o : MemOp} {line : Nat} (h : s.canonical) : (s.writeEvent o line).canonical := by
  unfold State.writeEvent
  split
  · split
    · exact h.storePerform
    · exact h
  · split
    · exact h.storePerform
    · exact h
  · exact h

theorem execAtomicPerform_canonical {op line : Nat} {s : State} (h : s.canonical) : CanonicalNext (execAtomicPerform op line s) := by
  unfold execAtomicPerform
  refine .next ?_
  split
  · exact h
  · split
    · split
      · exact h.atomPerform
      · exact h
    · exact h

theorem State.canonical.returnLane {s : State} {r : WaveRef} {g : OpGroup} {l : OpLane} {v : Nat} (h : s.canonical) :
    (s.returnLane r g l v).canonical :=
  h.modLane

theorem State.canonical.returnGroup {s : State} {o : MemOp} {i : Nat} {g : OpGroup} (h : s.canonical) : (s.returnGroup o i g).canonical := by
  unfold State.returnGroup
  refine State.canonical.setGroup ?_
  split
  · split
    · exact h.foldl fun s1 x h1 => h1.returnLane
    · exact (h.foldl fun s1 x h1 => h1.returnLane).modWave
  · exact h.foldl fun s1 x h1 => h1.returnLane

theorem State.canonical.returnScalar {s : State} {o : MemOp} {g : OpGroup} {d : Nat} (h : s.canonical) : (s.returnScalar o g d).canonical := by
  unfold State.returnScalar
  refine State.canonical.modMemOp ?_
  split
  · exact h.foldl fun s1 x h1 => h1.takeTrap
  · split
    · exact h.foldl fun s1 x h1 => h1.takeTrap
    · split
      · exact h.modWave
      · exact h

theorem State.canonical.returnDesc {s : State} {o : MemOp} {g : OpGroup} {t : Nat} (h : s.canonical) : (s.returnDesc o g t).canonical := by
  unfold State.returnDesc
  refine State.canonical.modMemOp ?_
  split
  · exact h.foldl fun s1 x h1 => h1.takeTrap
  · split
    · exact h.foldl fun s1 x h1 => h1.takeTrap
    · split
      · exact h.foldl fun s1 x h1 => h1.takeTrap
      · exact h.modBlockOf

theorem State.canonical.returnClock {s : State} {o : MemOp} {value : Nat} {scalar : Option (List Nat)} (h : s.canonical) :
    (s.returnClock o value scalar).canonical := by
  unfold State.returnClock
  refine State.canonical.modMemOp ?_
  split
  · exact h.modWave
  · exact h.foldl fun s1 x h1 => h1.foldIdx fun s2 n x1 h2 => h2.arrive

theorem execLoadReturn_canonical {op line : Nat} {s : State} (h : s.canonical) : CanonicalNext (execLoadReturn op line s) := by
  unfold execLoadReturn
  refine .next ?_
  split
  · exact h
  · split
    · exact h
    · split
      · exact h.returnGroup.settleOp
      · split
        · exact (h.foldIdx fun s1 n x h1 => h1.returnGroup).settleOp
        · exact h
      · split
        · exact h.returnGroup.settleOp
        · exact h
      · split
        · exact h.returnGroup.settleOp
        · exact h
      · exact h.returnScalar.settleOp
      · exact h.returnDesc.settleOp
      · exact h.returnClock.settleOp
      · exact h

theorem execRatomPerform_canonical {op lane : Nat} {s : State} (h : s.canonical) : CanonicalNext (execRatomPerform op lane s) := by
  unfold execRatomPerform
  refine .next ?_
  split
  · exact h
  · split
    · split
      · exact h
      · dsimp only
        split
        · exact h
        · split
          · exact h.passPoint.setGroup
          · refine State.canonical.settleOp ?_
            refine State.canonical.setGroup ?_
            refine h.passPoint.modBlock ?_
            exact fun b h1 => h1.scratchAtom
    · exact h.settleOp
    · exact h

theorem execLeaseWaitEnd_canonical {what : LeaseWait} {s : State} (h : s.canonical) : CanonicalNext (execLeaseWaitEnd what s) := by
  unfold execLeaseWaitEnd
  refine .next ?_
  split
  · exact h.modWave
  · split
    · exact h
    · split
      · exact h.modMemOp
      · exact h
  · split
    · exact h
    · split
      · exact h.update.emit
      · exact h

end Sys2Proof.Machine
end

section
/-! SUPPORT. Canonical storage is kept: barriers and queues. -/

namespace Sys2Proof.Machine

theorem State.canonical.noteGroup {s : State} {e : Entry} {p : GroupPlace} (h : s.canonical) : (s.noteGroup e p).canonical := by
  unfold State.noteGroup
  dsimp only
  split
  · exact h.modWave
  · exact h.modWave
  · exact h
  · exact h
  · exact h

theorem State.canonical.watchLine {s : State} {part line : Nat} (h : s.canonical) : (s.watchLine part line).canonical := by
  unfold State.watchLine
  split
  · exact h
  · exact h.modSlice

theorem State.canonical.moveEntry {s : State} {key : Nat} {p : EntryPlace} {now : Nat} {recs : List Nat} (h : s.canonical) :
    (s.moveEntry key p now recs).canonical :=
  h.update

theorem State.canonical.countSpill {s : State} {e : Entry} (h : s.canonical) : (s.countSpill e).canonical := by
  unfold State.countSpill
  split
  · exact h.modLaunch
  · exact h

theorem State.canonical.holdEntry {s : State} {e : Entry} (h : s.canonical) : (s.holdEntry e).canonical :=
  h.moveEntry.modPart.countSpill.noteGroup

theorem State.canonical.displace {s : State} {e : Entry} (h : s.canonical) : (s.displace e).canonical := by
  unfold State.displace
  dsimp only
  split
  · exact ((h.watchLine.moveEntry.modPart.foldl fun s1 x h1 => h1.putRecord).countSpill).noteGroup
  · exact h.watchLine.holdEntry

theorem State.canonical.tableRoom {s : State} {i : Nat} (h : s.canonical) : (s.tableRoom i).canonical := by
  unfold State.tableRoom
  split
  · exact h
  · split
    · exact h.displace
    · exact h

theorem State.canonical.placeEntry {s : State} {e : Entry} (h : s.canonical) : (s.placeEntry e).canonical := by
  unfold State.placeEntry
  split
  · exact h.holdEntry
  · exact h.tableRoom.moveEntry.noteGroup

theorem State.canonical.installEntry {s : State} {e : Entry} (h : s.canonical) : (s.installEntry e).canonical :=
  h.update.placeEntry

theorem State.canonical.register {s : State} {owner : EntryOwner} {part cond : Nat} {wide : Bool} {addr operand deadline group : Nat}
    (h : s.canonical) : (s.register owner part cond wide addr operand deadline group).canonical := by
  unfold State.register
  dsimp only
  split
  · split
    · split
      · exact h.fireOverdue.fillLine.fresh.deliver
      · exact h.fireOverdue.fillLine.fresh.installEntry
    · split
      · exact h.fireOverdue.fillLine.fresh.deliver
      · exact h.fireOverdue.fillLine.fresh.installEntry
  · split
    · split
      · exact h.fireOverdue.useLine.fresh.deliver
      · exact h.fireOverdue.useLine.fresh.installEntry
    · split
      · exact h.fireOverdue.useLine.fresh.deliver
      · exact h.fireOverdue.useLine.fresh.installEntry

theorem State.canonical.leaveGroup {s : State} {r : WaveRef} {no : Nat} {ls : List Nat} (h : s.canonical) : (s.leaveGroup r no ls).canonical :=
  h.modWave

theorem State.canonical.registerWait {s : State} {o : MemOp} {g : OpGroup} {cond : Nat} {wide : Bool} {ticks : Nat} (h : s.canonical) :
    (s.registerWait o g cond wide ticks).canonical := by
  unfold State.registerWait
  dsimp only
  split
  · exact h.fillLine.checkScopes.leaveGroup.dropMemOp
  · split
    · exact (h.fillLine.checkScopes.leaveGroup.dropMemOp.foldl fun s1 x h1 => h1.takeTrap).leaveGroup
    · exact h.fillLine.checkScopes.leaveGroup.dropMemOp.register

theorem execMantisRegistration_canonical {op line : Nat} {s : State} (h : s.canonical) : CanonicalNext (execMantisRegistration op line s) := by
  unfold execMantisRegistration
  refine .next ?_
  split
  · exact h
  · split
    · exact h
    · split
      · exact h
      · split
        · exact h.regulated fun x x1 h1 => h1.registerWait
        · exact h.regulated fun x x1 h1 => h1.fillLine.dropMemOp.register
        · exact h

theorem execMantisTimeout_canonical {entry : Nat} {s : State} (h : s.canonical) : CanonicalNext (execMantisTimeout entry s) := by
  unfold execMantisTimeout
  refine .next ?_
  split
  · exact h
  · split
    · split
      · exact h.fire
      · exact h
    · exact h

theorem State.canonical.tidyFilter {s : State} {i : Nat} (h : s.canonical) : (s.tidyFilter i).canonical := by
  unfold State.tidyFilter
  split
  · exact h.modSlice
  · exact h

theorem State.canonical.reclaim {i : Nat} {l : List Entry} {s : State} (h : s.canonical) : (State.reclaim i l s).canonical := by
  induction l generalizing s with
  | nil => exact h
  | cons e es ih =>
    unfold State.reclaim
    split
    · exact ih h.freeRecords.moveEntry.noteGroup
    · exact h

theorem execContextReevaluation_canonical {entry : Nat} {s : State} (h : s.canonical) : CanonicalNext (execContextReevaluation entry s) := by
  unfold execContextReevaluation
  refine .next ?_
  split
  · exact h
  · dsimp only
    split
    · exact h
    · split
      · exact h.watchLine.deliver
      · split
        · exact h.watchLine.fire
        · exact h.watchLine.update

end Sys2Proof.Machine
end

section
/-! SUPPORT. Canonical storage is kept: engine operations. -/

namespace Sys2Proof.Machine

theorem State.canonical.capture {s : State} {id : Nat} {u : Bool × Nat} (h : s.canonical) : (s.capture id u).canonical := by
  unfold State.capture
  split
  · exact h
  · split
    · exact h
    · dsimp only
      split
      · split
        · exact h.fillLine.modEngOp.logEvent
        · exact h.fillLine.modEngOp
      · split
        · exact h.modEngOp.logEvent
        · exact h.modEngOp

theorem State.canonical.captureAll {s : State} {id : Nat} {us : List (Bool × Nat)} (h : s.canonical) : (s.captureAll id us).canonical :=
  h.foldl fun _ _ h1 => h1.capture

theorem State.canonical.putLine {s : State} {e : EngOp} {line : Nat} {bs : List DestByte} (h : s.canonical) :
    (s.putLine e line bs).canonical :=
  h.performWrite.modEngOp.l1Drop.barReplica

theorem Block.stored.putGranule {b : Block} {g : Nat} {bs : List DestByte} {sf : Bool} (h : b.stored) : (b.putGranule g bs sf).stored := by
  unfold Block.putGranule
  dsimp only
  split
  · refine Block.stored.fillGranule ?_
    split
    · exact ((h.foldl fun b1 x h1 => h1.putScratch).clearPoison).poisonGranule
    · exact (h.foldl fun b1 x h1 => h1.putScratch).clearPoison
  · split
    · exact ((h.foldl fun b1 x h1 => h1.putScratch).clearPoison).poisonGranule
    · exact (h.foldl fun b1 x h1 => h1.putScratch).clearPoison

theorem State.canonical.askUnit {s : State} {e : EngOp} {line : Nat} (h : s.canonical) : (s.askUnit e line).canonical := by
  unfold State.askUnit
  split
  · exact h
  · exact h.sendPod

theorem State.canonical.sendUnit {s0 : State} {e : EngOp} {line : Nat} {bs : List DestByte} (h : s0.canonical) :
    (s0.sendUnit e line bs).canonical :=
  h.update.sendPod

theorem State.canonical.putUnit {s : State} {e : EngOp} {u : Bool × Nat} {bs : List DestByte} (h : s.canonical) :
    (s.putUnit e u bs).canonical := by
  unfold State.putUnit
  refine State.canonical.modEngOp ?_
  split
  · exact h.sendUnit
  · split
    · exact h.putLine
    · refine h.modBlock ?_
      exact fun b h1 => h1.putGranule

theorem State.canonical.putBytes {s : State} {e : EngOp} {bs : List DestByte} (h : s.canonical) : (s.putBytes e bs).canonical := by
  unfold State.putBytes
  refine h.foldl ?_
  intro s1 x h1
  split
  · exact h1
  · exact h1.putUnit

theorem State.canonical.translateAll {s : State} {core part space : Nat} {l : List Nat} {acc : List TlbEntry} (h : s.canonical) :
    (s.translateAll core part space l acc).2.canonical := by
  induction l generalizing s acc with
  | nil => exact h
  | cons va vas ih =>
    unfold State.translateAll
    split
    · exact ih h
    · split
      · next f t heq => exact canonicalOf2 heq h.translate
      · next e t heq => exact ih (canonicalOf2 heq h.translate)

theorem State.canonical.goneEvent {s : State} {part space va : Nat} {pages : List TlbEntry} (h : s.canonical) :
    (s.goneEvent part space va pages).canonical := by
  unfold State.goneEvent
  split
  · exact h
  · split
    · exact h.errorEvent
    · exact h

theorem State.canonical.boxChecks {s : State} {core part space bound : Nat} {bs : List Box} (h : s.canonical) :
    (s.boxChecks core part space bound bs).2.canonical := by
  unfold State.boxChecks
  split
  · exact h
  · split
    · rename_i a heq a1 f t heq1
      have ht : t.canonical := canonicalOf2 heq1 h.translateAll
      exact ht
    · rename_i a heq a1 pages t heq1
      have ht : t.canonical := canonicalOf2 heq1 h.translateAll
      split
      · dsimp only
        split
        · exact ht.goneEvent
        · exact ht
      · split
        · exact ht
        · exact ht

theorem State.canonical.drawFault {s : State} (h : s.canonical) : s.drawFault.2.canonical :=
  h.update

theorem State.canonical.trapFree {s : State} {c : Ctx} {ts : List Nat} {cause : Nat} (h : s.canonical) : (s.trapFree c ts cause).canonical :=
  h.drawFault.trapAt

theorem State.canonical.readGroup {s : State} {c : Ctx} {w : Wave} {ts : List Nat} {u : Bool} {regs : List Nat} (h : s.canonical) :
    (s.readGroup c w ts u regs).2.canonical := by
  unfold State.readGroup
  dsimp only
  split
  · split
    · exact h.gates
    · split
      · exact h.gates.trapAt
      · exact h.gates
  · split
    · exact h.gates
    · split
      · exact h.gates.trapAt
      · exact h.gates

theorem State.canonical.putEng {s : State} {r : WaveRef} {counter : Nat} {e : EngOp} (h : s.canonical) : (s.putEng r counter e).canonical :=
  h.update.modWave

end Sys2Proof.Machine
end

section
/-! SUPPORT. Canonical storage is kept: the Compositor. -/

namespace Sys2Proof.Machine

theorem execTdset_canonical {d : BitVec 4} {c : BitVec 6} {g : BitVec 4} {s : State} (h : s.canonical) : CanonicalNext (execTdset d c g s) := by
  unfold execTdset
  refine h.execWord ?_
  intro c1 w s1 h1
  refine h1.blockOnly ?_
  refine h1.unlessBlocked ?_
  dsimp only
  split
  · exact h1
  · split
    · exact h1.trapAt
    · split
      · rename_i hne hne1 a f t heq
        have ht : t.canonical := canonicalOf2 heq h1.checkAccess
        exact ht.trapAt
      · rename_i hne hne1 a e t heq
        have ht : t.canonical := canonicalOf2 heq h1.checkAccess
        split
        · split
          · exact ht.podCheck.trapAt
          · exact ht.podCheck.putOp
        · split
          · exact ht.trapAt
          · exact ht.putOp

theorem State.canonical.runCopy {s : State} {e : EngOp} {d src : Desc} {items : List Nat} (h : s.canonical) :
    (s.runCopy e d src items).canonical := by
  unfold State.runCopy
  dsimp only
  split
  · exact h.captureAll
  · exact h.captureAll.putBytes

theorem State.canonical.copyStats {s : State} {e : EngOp} {d src : Desc} (h : s.canonical) : (s.copyStats e d src).canonical := by
  unfold State.copyStats
  split
  · exact h
  · exact h.foldl fun s1 x h1 => h1.modWave

theorem State.canonical.endEng {s : State} {e : EngOp} {counter : Nat} (h : s.canonical) : (s.endEng e counter).canonical :=
  (h.foldl fun _ _ h1 => h1.countOut).dropEngOp

theorem State.canonical.copyStatistics {s : State} {e : EngOp} (h : s.canonical) : (s.copyStatistics e).canonical := by
  unfold State.copyStatistics
  refine State.canonical.endEng ?_
  refine h.foldl ?_
  intro s1 x h1
  split
  · exact h1
  · dsimp only
    split
    · exact (h1.foldl fun s2 x1 h2 => h2.foldIdx fun s3 n x2 h3 => h3.arrive).modWave
    · exact h1.foldl fun s2 x1 h2 => h2.foldIdx fun s3 n x2 h3 => h3.arrive

theorem State.canonical.drainCopies {s : State} (h : s.canonical) : s.drainCopies.canonical := by
  unfold State.drainCopies
  refine h.foldl ?_
  intro s1 x h1
  split
  · exact h1
  · split
    · exact h1
    · split
      · exact h1
      · exact h1.copyStats.endEng

theorem execCopyCommandComplete_canonical {op : Nat} {s : State} (h : s.canonical) : CanonicalNext (execCopyCommandComplete op s) := by
  unfold execCopyCommandComplete
  refine .next ?_
  split
  · exact h
  · split
    · exact h
    · split
      · split
        · exact h.copyStatistics.drainCopies
        · exact h
      · split
        · exact h
        · split
          · exact h
          · dsimp only
            split
            · exact h.runCopy
            · split
              · exact h.runCopy
              · exact h.runCopy.modEngOp.drainCopies

theorem State.canonical.issueCopy {s : State} {c : Ctx} {ts : List Nat} {e : EngOp} {d src : Desc} (h : s.canonical) :
    (s.issueCopy c ts e d src).canonical := by
  unfold State.issueCopy
  split
  · rename_i a f t heq
    have ht : t.canonical := canonicalOf2 heq h.boxChecks
    exact ht.trapAt
  · rename_i a pages t heq
    have ht : t.canonical := canonicalOf2 heq h.boxChecks
    split
    · exact ht.stall
    · exact ht.update.putEng

theorem State.canonical.issueGather {s : State} {c : Ctx} {ts : List Nat} {e : EngOp} {d src : Desc} (h : s.canonical) :
    (s.issueGather c ts e d src).canonical := by
  unfold State.issueGather
  dsimp only
  split
  · exact h
  · split
    · exact h.trapAt
    · split
      · exact h.trapAt
      · split
        · exact h.stall
        · split
          · exact h.stall
          · exact h.issueCopy

theorem State.canonical.copyCommand {s : State} {i : Instr} {op t1 t2 k : Nat} {u : Bool} {o : EngOpts} {g : BitVec 4} (h : s.canonical) :
    CanonicalNext (s.copyCommand i op t1 t2 k u o g) := by
  unfold State.copyCommand
  refine h.execWord ?_
  intro c w s1 h1
  refine h1.blockOnly ?_
  refine h1.unlessBlocked ?_
  split
  · exact h1
  · split
    · dsimp only
      split
      · rename_i hne a a1 d src heq heq1 a2 t heq2
        have ht : t.canonical := canonicalOf2 heq2 h1.readGroup
        exact ht
      · rename_i hne a a1 d src heq heq1 a2 t heq2
        have ht : t.canonical := canonicalOf2 heq2 h1.readGroup
        split
        · exact ht.trapAt
        · split
          · exact ht.trapAt
          · split
            · exact ht.issueGather
            · exact ht.issueCopy
    · exact h1.trapAt

theorem execCpys_canonical {k : BitVec 3} {c : BitVec 1} {g : BitVec 4} {s : State} (h : s.canonical) : CanonicalNext (execCpys k c g s) := by
  unfold execCpys
  refine h.execWord ?_
  intro c1 w s1 h1
  refine h1.blockOnly ?_
  refine h1.unlessBlocked ?_
  dsimp only
  split
  · exact h1.gates
  · split
    · exact h1.gates.stall
    · exact h1.gates.emptyDests.update.putEng

end Sys2Proof.Machine
end

section
/-! SUPPORT. Canonical storage is kept: the accumulator. -/

namespace Sys2Proof.Machine

theorem Block.stored.putCell {b : Block} {n : Nat} {x : Word} (h : b.stored) : (b.putCell n x).stored :=
  ⟨h.1, cellSet_wf _ _ _ _ h.2⟩

theorem State.canonical.logCells {s : State} {uid core : Nat} {cells : List Nat} (h : s.canonical) : (s.logCells uid core cells).canonical := by
  unfold State.logCells
  split
  · exact h
  · dsimp only
    split
    · exact h
    · refine State.canonical.modBlock ?_
      refine h.foldl ?_
      intro s1 x h1
      split
      · exact h1.logEvent.errorRecord
      · exact h1.logEvent

theorem State.canonical.accLanes {s : State} {c : Ctx} {w : Wave} {n : Nat} {row col : Nat → Nat} {ls : List Nat} (h : s.canonical) :
    (s.accLanes c w n row col ls).2.canonical := by
  unfold State.accLanes
  dsimp only
  split
  · exact h.foldl fun s1 x h1 => h1.trapFree
  · exact (h.foldl fun s1 x h1 => h1.trapFree).trapAt

theorem State.canonical.emptyOwn {s : State} {c : Ctx} {ls rs : List Nat} (h : s.canonical) : (s.emptyOwn c ls rs).canonical :=
  h.modWave

theorem execAld_canonical {d : BitVec 6} {a : BitVec 7} {b : BitVec 6} {m : BitVec 3} {g : BitVec 4} {s : State} (h : s.canonical) :
    CanonicalNext (execAld d a b m g s) := by
  unfold execAld
  refine h.execWord ?_
  intro c w s1 h1
  refine h1.blockOnly ?_
  dsimp only
  split
  · exact h1.gates.accLanes.emptyOwn.stall
  · split
    · exact h1.gates.accLanes
    · refine State.canonical.foldl ?_ fun s2 x h2 => h2.modLane
      split
      · exact h1.gates.accLanes.logCells.drawFault
      · exact h1.gates.accLanes.logCells

theorem execAst_canonical {d : BitVec 6} {a : BitVec 7} {b : BitVec 6} {m : BitVec 3} {g : BitVec 4} {s : State} (h : s.canonical) :
    CanonicalNext (execAst d a b m g s) := by
  unfold execAst
  refine h.execWord ?_
  intro c w s1 h1
  refine h1.blockOnly ?_
  dsimp only
  split
  · exact h1.gates.accLanes.stall
  · refine h1.gates.accLanes.modBlockOf ?_
    exact fun b1 h2 => h2.foldl fun b2 x h3 => h3.foldl fun b3 x1 h4 => h4.putCell

theorem execAclr_canonical {k : BitVec 3} {u : BitVec 1} {g : BitVec 4} {s : State} (h : s.canonical) : CanonicalNext (execAclr k u g s) := by
  unfold execAclr
  refine h.execWord ?_
  intro c w s1 h1
  refine h1.blockOnly ?_
  dsimp only
  split
  · exact h1
  · split
    · rename_i hne a t heq
      have ht : t.canonical := canonicalOf2 heq h1.readGroup
      exact ht
    · rename_i hne a t heq
      have ht : t.canonical := canonicalOf2 heq h1.readGroup
      split
      · exact ht
      · split
        · exact ht.trapAt
        · split
          · exact ht.stall
          · refine ht.modBlockOf ?_
            exact fun b h2 => h2.foldl fun b1 x h3 => h3.putCell

theorem execSetaw_canonical {a : BitVec 7} {b : BitVec 6} {g : BitVec 4} {s : State} (h : s.canonical) : CanonicalNext (execSetaw a b g s) := by
  unfold execSetaw
  refine h.execWord ?_
  intro c w s1 h1
  refine h1.blockOnly ?_
  dsimp only
  split
  · exact h1
  · split
    · rename_i hne a1 t heq
      have ht : t.canonical := canonicalOf2 heq h1.readGroup
      exact ht
    · rename_i hne a1 t heq
      have ht : t.canonical := canonicalOf2 heq h1.readGroup
      split
      · exact ht.trapAt
      · split
        · exact ht
        · split
          · exact ht.trapAt
          · exact ht.modBlockOf

theorem State.canonical.modQuire {s : State} {r : WaveRef} {q : Nat} {f : Quire → Quire} (h : s.canonical) : (s.modQuire r q f).canonical :=
  h.modBlockOf

theorem execQinit_canonical {q : BitVec 3} {n : BitVec 5} {g : BitVec 4} {s : State} (h : s.canonical) : CanonicalNext (execQinit q n g s) := by
  unfold execQinit
  refine h.execWord ?_
  intro c w s1 h1
  refine h1.blockOnly ?_
  dsimp only
  split
  · exact h1
  · split
    · exact h1.trapAt
    · exact h1.modQuire

theorem State.canonical.failQuire {s : State} {uid q : Nat} (h : s.canonical) : (s.failQuire uid q).canonical :=
  (h.foldl fun s1 x h1 => h1.modWave.takeTraps).modBlock

theorem State.canonical.convene {s : State} {c : Ctx} {q : Nat} {isMmaa : Bool} {o : EngOpts} {t1 t2 : Nat} {coords : List Nat}
    {signers : List Signer}
    (h : s.canonical) : (s.convene c q isMmaa o t1 t2 coords signers).canonical := by
  unfold State.convene
  split
  · exact h
  · exact h.update.modQuire.foldl fun s1 x h1 => h1.modWave

theorem State.canonical.sign {s : State} {c : Ctx} {ts : List Nat} {q : Nat} {isMmaa : Bool} {o : EngOpts} {opts t1 t2 : Nat} {coords : List Nat}
    (h : s.canonical) : (s.sign c ts q isMmaa o opts t1 t2 coords).canonical := by
  unfold State.sign
  dsimp only
  split
  · exact h
  · split
    · exact h.failQuire.trapAt
    · split
      · exact h.convene
      · exact h.modQuire.holdWave

theorem State.canonical.matrixCommand {s : State} {i : Instr} {isMmaa : Bool} {t1 t2 k q opts : Nat} {o : EngOpts} {g : BitVec 4} (h : s.canonical) :
    CanonicalNext (s.matrixCommand i isMmaa t1 t2 k q opts o g) := by
  unfold State.matrixCommand
  refine h.execWord ?_
  intro c w s1 h1
  refine h1.blockOnly ?_
  refine h1.unlessBlocked ?_
  split
  · exact h1
  · split
    · exact h1.trapAt
    · split
      · dsimp only
        split
        · rename_i hne hne1 a a1 d src heq heq1 a2 t heq2
          have ht : t.canonical := canonicalOf2 heq2 h1.readGroup
          exact ht
        · rename_i hne hne1 a a1 d src heq heq1 a2 t heq2
          have ht : t.canonical := canonicalOf2 heq2 h1.readGroup
          split
          · exact ht.trapAt
          · exact ht.trapFree
          · exact ht.sign
      · exact h1.trapAt

theorem Block.stored.engOpMatrixWrite {e : EngOp} {look : Look} {a b : Desc} {k : Nat} {blk : Block} (h : blk.stored) :
    (e.matrixWrite look a b k blk).stored := by
  unfold EngOp.matrixWrite
  refine h.foldIdx ?_
  intro b1 n x h1
  refine h1.foldIdx ?_
  intro b2 n1 x1 h2
  dsimp only
  split
  · exact h2.putCell.putCell
  · exact h2.putCell

theorem execPlatenStart_canonical {core op : Nat} {s : State} (h : s.canonical) : CanonicalNext (execPlatenStart core op s) := by
  unfold execPlatenStart
  refine .next ?_
  split
  · exact h
  · dsimp only
    split
    · exact h
    · exact h.captureAll.modEngOp

theorem State.canonical.countMatrix {s : State} (h : s.canonical) : s.countMatrix.canonical := by
  unfold State.countMatrix
  refine h.foldl ?_
  intro s1 x h1
  split
  · exact h1
  · split
    · exact h1
    · dsimp only
      split
      · exact (h1.foldl fun s2 x1 h2 => h2.countOut).dropEngOp
      · exact (h1.foldl fun s2 x1 h2 => h2.countOut).modEngOp

theorem State.canonical.matrixComplete {s : State} {e : EngOp} (h : s.canonical) : (s.matrixComplete e).canonical := by
  unfold State.matrixComplete
  split
  · split
    · exact h
    · refine State.canonical.countMatrix ?_
      refine State.canonical.modEngOp ?_
      refine h.logCells.modBlock ?_
      exact fun b h1 => h1.engOpMatrixWrite
  · exact h

theorem State.canonical.runAcpyOut {s : State} {e : EngOp} {d : Desc} {items : List Nat} (h : s.canonical) :
    (s.runAcpyOut e d items).canonical := by
  unfold State.runAcpyOut
  split
  · exact h
  · exact h.logCells.putBytes

theorem State.canonical.runAcpyIn {s : State} {e : EngOp} {d : Desc} (h : s.canonical) : (s.runAcpyIn e d).canonical := by
  unfold State.runAcpyIn
  refine h.modBlock ?_
  intro b h1
  refine h1.foldl ?_
  intro b1 x h2
  dsimp only
  split
  · exact h2.putCell.putCell
  · exact h2.putCell

theorem State.canonical.acpyComplete {s : State} {e : EngOp} (h : s.canonical) : (s.acpyComplete e).canonical := by
  unfold State.acpyComplete
  split
  · exact h
  · dsimp only
    split
    · split
      · exact h
      · split
        · exact h.captureAll
        · split
          · exact h.captureAll.runAcpyIn
          · exact h.captureAll.runAcpyIn.modEngOp.countMatrix
    · split
      · exact h
      · split
        · exact h.captureAll
        · split
          · exact h.captureAll.runAcpyOut
          · exact h.captureAll.runAcpyOut.modEngOp.countMatrix

theorem execPlatenComplete_canonical {op : Nat} {s : State} (h : s.canonical) : CanonicalNext (execPlatenComplete op s) := by
  unfold execPlatenComplete
  refine .next ?_
  split
  · exact h
  · split
    · exact h
    · split
      · exact h.acpyComplete
      · split
        · exact h.matrixComplete
        · exact h

theorem execAcpy_canonical {d s : BitVec 4} {k : BitVec 3} {f u : BitVec 1} {r : BitVec 2} {l i o sat v : BitVec 1} {g : BitVec 4} {sx : State}
    (h : sx.canonical) : CanonicalNext (execAcpy d s k f u r l i o sat v g sx) := by
  unfold execAcpy
  refine h.execWord ?_
  intro c w s1 h1
  refine h1.blockOnly ?_
  refine h1.unlessBlocked ?_
  split
  · exact h1
  · split
    · exact h1.trapAt
    · dsimp only
      split
      · rename_i hne a d1 heq a1 t heq1
        have ht : t.canonical := canonicalOf2 heq1 h1.readGroup
        exact ht
      · rename_i hne a d1 heq a1 t heq1
        have ht : t.canonical := canonicalOf2 heq1 h1.readGroup
        split
        · exact ht.trapAt
        · split
          · exact ht.trapAt
          · split
            · exact ht.trapFree
            · split
              · split
                · exact ht.trapAt
                · split
                  · rename_i hne1 a2 heq2 hne2 heq3 hne3 a3 f1 t1 heq4
                    have ht1 : t1.canonical := canonicalOf2 heq4 ht.boxChecks
                    exact ht1.trapAt
                  · rename_i hne1 a2 heq2 hne2 heq3 hne3 a3 pages t1 heq4
                    have ht1 : t1.canonical := canonicalOf2 heq4 ht.boxChecks
                    exact ht1.update.putEng
              · split
                · exact ht.trapAt
                · split
                  · rename_i hne1 a2 heq2 hne2 hne3 hne4 a3 f1 t1 heq3
                    have ht1 : t1.canonical := canonicalOf2 heq3 ht.boxChecks
                    exact ht1.trapAt
                  · rename_i hne1 a2 heq2 hne2 hne3 hne4 a3 pages t1 heq3
                    have ht1 : t1.canonical := canonicalOf2 heq3 ht.boxChecks
                    exact ht1.update.putEng

end Sys2Proof.Machine
end

section
/-! SUPPORT. Canonical storage is kept: the collectives. -/

namespace Sys2Proof.Machine

theorem State.canonical.ranksValid {s : State} {part : Nat} {l : List Nat} (h : s.canonical) : (s.ranksValid part l).2.canonical := by
  induction l generalizing s with
  | nil => exact h
  | cons r rs ih =>
    unfold State.ranksValid
    dsimp only
    split
    · exact ih h.podEntry
    · exact h.podEntry

theorem State.canonical.imageLines {core part : Nat} {l : List (Nat × Nat)} {s : State} (h : s.canonical) :
    (State.imageLines core part l s).2.canonical := by
  induction l generalizing s with
  | nil => exact h
  | cons l ls ih =>
    unfold State.imageLines
    split
    · exact ih h
    · split
      · next x t heq => exact ih (canonicalOf2 heq h.fetchPod)
      · next f t heq =>
        have ht : t.canonical := canonicalOf2 heq h.fetchPod
        split
        · split
          · next u hu => exact canonicalOf2 hu (ih ht)
          · next a u hu => exact canonicalOf2 hu (ih ht)
        · exact ht

theorem State.canonical.admitRun {s : State} {core part space va n : Nat} {pages : List TlbEntry} (h : s.canonical) :
    (s.admitRun core part space va n pages).2.canonical := by
  unfold State.admitRun
  dsimp only
  split
  · rename_i a f t heq
    have ht : t.canonical := canonicalOf2 heq h.translateAll
    exact ht
  · rename_i a pages1 t heq
    have ht : t.canonical := canonicalOf2 heq h.translateAll
    split
    · dsimp only
      split
      · exact ht.goneEvent
      · exact ht
    · exact ht

theorem State.canonical.takeImage {s : State} {core part space : Nat} {pages : List TlbEntry} {va n : Nat} (h : s.canonical) :
    CanonicalIfSome (s.takeImage core part space pages va n) := by
  unfold State.takeImage
  dsimp only
  split
  · exact .some h
  · refine CanonicalIfSome.map ?_ fun s1 h1 => (h1.foldl fun s2 x h2 => h2.debitAll).foldl fun s2 x h2 => h2.fillLine
    split
    · exact .none
    · exact h.takeAll

theorem State.canonical.defineGroup {s : State} {c : Ctx} {ts : List Nat} {gp reserved : Nat} {ranks : List Nat} (h : s.canonical) :
    (s.defineGroup c ts gp reserved ranks).canonical := by
  unfold State.defineGroup
  dsimp only
  split
  · exact h.trapAt
  · split
    · exact h.trapFree
    · split
      · exact h.ranksValid.trapFree
      · exact h.ranksValid.modBlockOf

theorem execCgrp_canonical {c : BitVec 6} {p : BitVec 3} {g : BitVec 4} {s : State} (h : s.canonical) : CanonicalNext (execCgrp c p g s) := by
  unfold execCgrp
  refine h.execWord ?_
  intro c1 w s1 h1
  refine h1.blockOnly ?_
  refine h1.unlessBlocked ?_
  dsimp only
  split
  · exact h1
  · split
    · exact h1.trapAt
    · split
      · rename_i hne hne1 a f t heq
        have ht : t.canonical := canonicalOf2 heq h1.admitRun
        exact ht.trapAt
      · rename_i hne hne1 a pages t heq
        have ht : t.canonical := canonicalOf2 heq h1.admitRun
        split
        · exact ht.stall
        · split
          · rename_i hne2 a1 a2 t1 heq1
            have ht1 : t1.canonical := canonicalOf2 heq1 ht.imageLines
            exact ht1.trapAt
          · rename_i hne2 a1 t1 heq1
            have ht1 : t1.canonical := canonicalOf2 heq1 ht.imageLines
            exact ht1.stall
          · rename_i hne2 a1 t1 heq1
            have ht1 : t1.canonical := canonicalOf2 heq1 ht.imageLines
            split
            · split
              · exact ht1.stall
              · rename_i heq2 a2 t2 heq3
                have ht2 : t2.canonical := ht1.takeImage _ heq3
                exact ht2.trapAt
            · split
              · rename_i hne3 a2 f t2 heq2
                have ht2 : t2.canonical := canonicalOf2 heq2 ht1.admitRun
                exact ht2.trapAt
              · rename_i hne3 a2 pages1 t2 heq2
                have ht2 : t2.canonical := canonicalOf2 heq2 ht1.admitRun
                split
                · exact ht2.stall
                · split
                  · rename_i hne4 a3 a4 t3 heq3
                    have ht3 : t3.canonical := canonicalOf2 heq3 ht2.imageLines
                    exact ht3.trapAt
                  · rename_i hne4 a3 t3 heq3
                    have ht3 : t3.canonical := canonicalOf2 heq3 ht2.imageLines
                    exact ht3.stall
                  · rename_i hne4 a3 t3 heq3
                    have ht3 : t3.canonical := canonicalOf2 heq3 ht2.imageLines
                    split
                    · exact ht3.stall
                    · rename_i a4 t4 heq4
                      have ht4 : t4.canonical := ht3.takeImage _ heq4
                      split
                      · exact ht4.trapAt
                      · exact ht4.dropPodCode.defineGroup

theorem State.canonical.issueChafer {s : State} {c : Ctx} {op gp : Nat} {grp : PodGroup} {e : EngOp} (h : s.canonical) :
    (s.issueChafer c op gp grp e).canonical := by
  unfold State.issueChafer
  split
  · exact h.stall
  · dsimp only
    split
    · refine State.canonical.modBlockOf ?_
      split
      · exact h.update.putEng.update
      · exact h.update.putEng
    · split
      · exact h.update.putEng.update
      · exact h.update.putEng

theorem State.canonical.chaferCommand {s : State} {i : Instr} {op t1 t2 k gp : Nat} {u : Bool} {o : EngOpts} {g : BitVec 4} (h : s.canonical) :
    CanonicalNext (s.chaferCommand i op t1 t2 k gp u o g) := by
  unfold State.chaferCommand
  refine h.execWord ?_
  intro c w s1 h1
  refine h1.blockOnly ?_
  refine h1.unlessBlocked ?_
  dsimp only
  split
  · exact h1
  · split
    · split
      · rename_i hne a a1 a2 grp d src heq heq1 heq2 a3 t heq3
        have ht : t.canonical := canonicalOf2 heq3 h1.readGroup
        exact ht
      · rename_i hne a a1 a2 grp d src heq heq1 heq2 a3 t heq3
        have ht : t.canonical := canonicalOf2 heq3 h1.readGroup
        split
        · exact ht.trapAt
        · split
          · split
            · exact ht.trapFree
            · split
              · exact ht.trapFree
              · split
                · rename_i hne1 heq4 hne2 hne3 a4 f t3 heq5
                  have ht3 : t3.canonical := canonicalOf2 heq5 ht.boxChecks
                  exact ht3.trapAt
                · rename_i hne1 heq4 hne2 hne3 a4 pages t3 heq5
                  have ht3 : t3.canonical := canonicalOf2 heq5 ht.boxChecks
                  exact ht3.issueChafer
          · split
            · exact ht.trapFree
            · split
              · exact ht.trapFree
              · split
                · rename_i hne1 hne2 hne3 hne4 a4 f t3 heq4
                  have ht3 : t3.canonical := canonicalOf2 heq4 ht.boxChecks
                  exact ht3.trapAt
                · rename_i hne1 hne2 hne3 hne4 a4 pages t3 heq4
                  have ht3 : t3.canonical := canonicalOf2 heq4 ht.boxChecks
                  exact ht3.issueChafer
    · exact h1.trapAt

theorem State.canonical.markFailed {s : State} {id : Nat} {addr : Option Nat} (h : s.canonical) : (s.markFailed id addr).canonical := by
  unfold State.markFailed
  split
  · exact h
  · split
    · exact h
    · exact h.modEngOp
    · exact h.drawFault.modEngOp

theorem State.canonical.failChafer {s : State} {e : EngOp} {addr : Nat} (h : s.canonical) : (s.failChafer e addr).canonical :=
  h.modPart.markFailed

theorem State.canonical.drainChafer {s : State} (h : s.canonical) : s.drainChafer.canonical := by
  unfold State.drainChafer
  refine h.foldl ?_
  intro s1 x h1
  split
  · exact h1
  · dsimp only
    split
    · exact h1
    · refine State.canonical.endEng ?_
      split
      · exact h1
      · exact h1.foldl fun s2 x1 h2 => h2.modWave

theorem State.canonical.endChafer {s : State} {id : Nat} (h : s.canonical) : (s.endChafer id).canonical :=
  h.modEngOp.drainChafer

theorem State.canonical.askPeer {s : State} {e : EngOp} {rank off : Nat} {ask : PodAsk} (h : s.canonical) :
    (s.askPeer e rank off ask).canonical := by
  unfold State.askPeer
  dsimp only
  split
  · exact h.podEntry.postPod
  · exact h.podEntry.failChafer

theorem State.canonical.ownSignal {s : State} {e : EngOp} {off operand : Nat} (h : s.canonical) :
    CanonicalIfSome (s.ownSignal e off operand) := by
  unfold State.ownSignal
  refine CanonicalIfSome.map ?_ ?_
  · split
    · exact .none
    · exact h.takeAll
  · intro s1 h1
    split
    · exact h1.logUncorrectedLine
    · exact h1.performWrite.modEngOp.l1Drop.barReplica

theorem State.canonical.oneSignal {s : State} {e : EngOp} {r : RingState} (h : s.canonical) : CanonicalIfSome (s.oneSignal e r) := by
  unfold State.oneSignal
  dsimp only
  split
  · split
    · exact h.podEntry.ownSignal
    · exact .some h.podEntry.failChafer
  · exact .some h.askPeer

theorem State.canonical.putOrPend {s : State} {e : EngOp} {bs : List DestByte} (h : s.canonical) : (s.putOrPend e bs).canonical := by
  unfold State.putOrPend
  refine h.foldl ?_
  intro s1 x h1
  dsimp only
  split
  · exact h1.modEngOp
  · exact h1.putUnit

theorem State.canonical.ownAdmits {s : State} {e : EngOp} {r : RingState} {d : Desc} {kind : Nat} (h : s.canonical) :
    (s.ownAdmits e r d kind).2.canonical :=
  h.podEntry

theorem State.canonical.sendBytes {s : State} {e : EngOp} {rank : Nat} {bs : List DestByte} (h : s.canonical) :
    (s.sendBytes e rank bs).canonical :=
  h.foldl fun _ _ h1 => h1.update.foldl fun _ _ h2 => h2.askPeer

theorem State.canonical.sendReads {s : State} {e : EngOp} {rank : Nat} {spans : List (Nat × Nat)} (h : s.canonical) :
    (s.sendReads e rank spans).canonical :=
  h.foldl fun _ _ h1 => h1.foldl fun _ _ h2 => h2.askPeer

theorem State.canonical.putBegin {s : State} {e : EngOp} {r : RingState} {d src : Desc} (h : s.canonical) : (s.putBegin e r d src).canonical := by
  unfold State.putBegin
  dsimp only
  split
  · exact h
  · split
    · exact h.captureAll
    · refine State.canonical.modEngOp ?_
      split
      · split
        · exact h.captureAll.ownAdmits.putOrPend
        · exact h.captureAll.ownAdmits.failChafer
      · exact h.captureAll.sendBytes

theorem State.canonical.getBegin {s : State} {e : EngOp} {r : RingState} {src : Desc} (h : s.canonical) : (s.getBegin e r src).canonical := by
  unfold State.getBegin
  dsimp only
  split
  · split
    · exact h.ownAdmits.failChafer.modEngOp
    · split
      · exact h.ownAdmits.captureAll.modEngOp
      · exact h
  · split
    · exact h
    · exact h.sendReads.modEngOp

theorem State.canonical.getWrite {s : State} {e : EngOp} {r : RingState} {d src : Desc} (h : s.canonical) : (s.getWrite e r d src).canonical :=
  h.putOrPend

theorem State.canonical.oneSided {s : State} {e : EngOp} {r : RingState} (h : s.canonical) : (s.oneSided e r).canonical := by
  unfold State.oneSided
  dsimp only
  split
  · exact h
  · split
    · exact h.endChafer
    · split
      · split
        · split
          · exact (h.oneSignal.map fun s1 h1 => h1.modEngOp).getD h
          · exact h
        · split
          · split
            · exact h.putBegin
            · exact h.getBegin
          · exact h
      · split
        · exact h
        · refine CanonicalIfSome.getD ?_ h
          refine CanonicalIfSome.map ?_ fun s1 h1 => h1.modEngOp
          split
          · refine State.canonical.oneSignal ?_
            split
            · exact h.getWrite
            · exact h
          · refine .some ?_
            split
            · exact h.getWrite
            · exact h
      · split
        · exact h.endChafer
        · exact h

theorem State.canonical.writeChunk {s : State} {e : EngOp} {d : Desc} {i : Nat} {xs : List Val} {bad : List Bool} (h : s.canonical) :
    (s.writeChunk e d i xs bad).canonical :=
  h.putOrPend

theorem State.canonical.chunkWritten {s : State} {e : EngOp} {origin : Nat} (h : s.canonical) : (s.chunkWritten e origin).canonical :=
  h.modEngOp

theorem State.canonical.emitChunk {s : State} {e : EngOp} {r : RingState} {m : ChunkMsg} (h : s.canonical) : (s.emitChunk e r m).canonical := by
  unfold State.emitChunk
  dsimp only
  split
  · split
    · exact h.podEntry.modEngOp.emit
    · exact h.podEntry.modEngOp.foldIdx fun s1 n x h1 => h1.postPod
  · exact h.podEntry.modEngOp.failChafer

theorem State.canonical.sendChunk {s : State} {e : EngOp} {r : RingState} {chunk hop : Nat} {codes scales bad : List Nat} {last : Bool}
    (h : s.canonical) : (s.sendChunk e r chunk hop codes scales bad last).canonical := by
  unfold State.sendChunk
  dsimp only
  split
  · exact h.emitChunk
  · exact h.modEngOp

theorem State.canonical.openRing {s : State} {e : EngOp} {r : RingState} (h : s.canonical) : (s.openRing e r).canonical := by
  unfold State.openRing
  split
  · exact h
  · exact h.modEngOp.foldl fun s1 x h1 => h1.emitChunk

theorem State.canonical.originate {s : State} {e : EngOp} {r : RingState} {d : Desc} {chunk dest ctr h : Nat} {last : Bool} {xs : List Val}
    {bad : List Bool}
    (hs : s.canonical) : (s.originate e r d chunk dest ctr h last xs bad).canonical := by
  unfold State.originate
  dsimp only
  split
  · exact hs.writeChunk.chunkWritten.sendChunk
  · exact hs.writeChunk.chunkWritten

theorem State.canonical.ringBegin {s : State} {e : EngOp} {r : RingState} (h : s.canonical) : (s.ringBegin e r).canonical := by
  unfold State.ringBegin
  dsimp only
  split
  · split
    · split
      · exact h
      · split
        · exact h.captureAll.modEngOp
        · split
          · exact h.captureAll.modEngOp.originate
          · split
            · exact h.captureAll.modEngOp.originate
            · exact h.captureAll.modEngOp
          · split
            · exact h.captureAll.modEngOp.sendChunk
            · split
              · exact h.captureAll.modEngOp.writeChunk.chunkWritten
              · exact h.captureAll.modEngOp.originate
    · split
      · exact h
      · split
        · exact h.captureAll.modEngOp
        · split
          · exact h.captureAll.modEngOp.originate
          · split
            · exact h.captureAll.modEngOp.originate
            · exact h.captureAll.modEngOp
          · split
            · exact h.captureAll.modEngOp.sendChunk
            · split
              · exact h.captureAll.modEngOp.writeChunk.chunkWritten
              · exact h.captureAll.modEngOp.originate
  · exact h

theorem State.canonical.passChunk {s : State} {e : EngOp} {r : RingState} {d : Desc} {chunk hop dest : Nat} {codes scales bad : List Nat}
    {last : Bool}
    (h : s.canonical) : (s.passChunk e r d chunk hop dest codes scales bad last).canonical := by
  unfold State.passChunk
  dsimp only
  split
  · exact h.writeChunk.chunkWritten.sendChunk
  · exact h.writeChunk.chunkWritten

theorem State.canonical.reduceChunk {s : State} {e : EngOp} {r : RingState} {d src : Desc} {chunk hop : Nat} {codes scales bad : List Nat}
    (h : s.canonical) : (s.reduceChunk e r d src chunk hop codes scales bad).canonical := by
  unfold State.reduceChunk
  dsimp only
  split
  · split
    · exact h.writeChunk.chunkWritten
    · exact h.originate
  · exact h.sendChunk

theorem State.canonical.dropHeld {s : State} {id : Nat} (h : s.canonical) : (s.dropHeld id).canonical :=
  h.update

theorem State.canonical.abortRing {s : State} {e : EngOp} {r : RingState} (h : s.canonical) : (s.abortRing e r).canonical :=
  h.markFailed.dropHeld.emit.endChafer

theorem execCollectiveChunkArrival_canonical {op chunk hop : Nat} {codes scales bad : List Nat} {last : Bool} {source : ChunkOrigin} {s : State}
    (h : s.canonical) : CanonicalNext (execCollectiveChunkArrival op chunk hop codes scales bad last source s) := by
  unfold execCollectiveChunkArrival
  refine .next ?_
  split
  · exact h
  · split
    · exact h
    · split
      · exact h
      · split
        · exact h.emit
        · split
          · exact h.abortRing
          · split
            · exact h
            · dsimp only
              split
              · split
                · exact h.ringBegin
                · exact h
              · split
                · exact h
                · split
                  · split
                    · refine State.canonical.passChunk ?_
                      refine State.canonical.modEngOp ?_
                      split
                      · exact h.ringBegin
                      · exact h
                    · refine State.canonical.passChunk ?_
                      refine State.canonical.modEngOp ?_
                      split
                      · exact h.ringBegin
                      · exact h
                    · refine State.canonical.reduceChunk ?_
                      refine State.canonical.modEngOp ?_
                      split
                      · exact h.ringBegin
                      · exact h
                    · split
                      · refine State.canonical.passChunk ?_
                        refine State.canonical.modEngOp ?_
                        split
                        · exact h.ringBegin
                        · exact h
                      · refine State.canonical.reduceChunk ?_
                        refine State.canonical.modEngOp ?_
                        split
                        · exact h.ringBegin
                        · exact h
                  · refine State.canonical.modEngOp ?_
                    split
                    · exact h.ringBegin
                    · exact h

theorem execCollectiveAbort_canonical {uid gp seq : Nat} {s : State} (h : s.canonical) : CanonicalNext (execCollectiveAbort uid gp seq s) := by
  unfold execCollectiveAbort
  refine .next ?_
  split
  · exact h.markFailed.dropHeld.endChafer
  · exact h.modBlock

theorem State.canonical.ringSignals {s : State} {e : EngOp} {r : RingState} (h : s.canonical) : (s.ringSignals e r).canonical := by
  unfold State.ringSignals
  split
  · exact h
  · exact h.foldl fun s1 x h1 => (h1.ownSignal.map fun s2 h2 => h2.modEngOp).getD h1

theorem State.canonical.ringStep {s : State} {e : EngOp} {r : RingState} (h : s.canonical) : (s.ringStep e r).canonical := by
  unfold State.ringStep
  split
  · split
    · exact h.endChafer
    · exact h.abortRing
  · split
    · exact h.ringBegin
    · dsimp only
      split
      · exact h.ringSignals
      · split
        · exact h.ringSignals.endChafer
        · exact h.ringSignals

theorem execChaferOperationComplete_canonical {step : ChaferStep} {s : State} (h : s.canonical) :
    CanonicalNext (execChaferOperationComplete step s) := by
  unfold execChaferOperationComplete
  refine .next ?_
  split
  · exact h
  · split
    · exact h
    · split
      · exact h
      · split
        · dsimp only
          split
          · split
            · exact h.openRing
            · exact h
          · refine State.canonical.ringStep ?_
            split
            · exact h.openRing
            · exact h
        · exact h.oneSided

end Sys2Proof.Machine
end

section
/-! SUPPORT. Canonical storage is kept: wait entries and monitors. -/

namespace Sys2Proof.Machine

theorem State.canonical.readUnit {s : State} {e : EngOp} {u : Bool × Nat} (h : s.canonical) : (s.readUnit e u).canonical := by
  unfold State.readUnit
  split
  · split
    · split
      · exact h
      · exact (h.takeAll.map fun s1 h1 => h1.askUnit).getD h
    · split
      · exact h
      · exact (h.takeAll.map fun s1 h1 => h1.capture).getD h
  · exact h

theorem State.canonical.writePend {s : State} {e : EngOp} {u : Bool × Nat} (h : s.canonical) : (s.writePend e u).canonical := by
  unfold State.writePend
  dsimp only
  split
  · exact h
  · split
    · exact h
    · rename_i hne a t heq
      have ht : t.canonical := h.takeAll _ heq
      exact ht.putUnit.modEngOp

theorem State.canonical.writeUnit {s : State} {e : EngOp} {u : Bool × Nat} (h : s.canonical) : (s.writeUnit e u).canonical := by
  unfold State.writeUnit
  dsimp only
  split
  · exact h
  · split
    · exact h.captureAll
    · split
      · exact h.captureAll
      · split
        · rename_i hne a e1 heq hne1 a1 t heq1
          have ht : t.canonical := h.captureAll.takeAll _ heq1
          exact ht.putUnit
        · exact h.captureAll

theorem execGlobalLoadPerform_canonical {op line : Nat} {s : State} (h : s.canonical) : CanonicalNext (execGlobalLoadPerform op line s) := by
  unfold execGlobalLoadPerform
  refine .next ?_
  split
  · split
    · exact h
    · split
      · exact h.loadPerform
      · exact h.loadPerform
      · exact h.loadPerform
      · exact h.loadPerform
      · exact h.loadPerform
      · exact h
  · split
    · exact h.readUnit
    · exact h

theorem execWritePerform_canonical {op line : Nat} {s : State} (h : s.canonical) : CanonicalNext (execWritePerform op line s) := by
  unfold execWritePerform
  refine .next ?_
  split
  · exact h
  · split
    · exact h.writeEvent
    · split
      · split
        · exact h.writePend
        · exact h.writeUnit
      · exact h

theorem execScratchpadBankAccess_canonical {op granule : Nat} {s : State} (h : s.canonical) :
    CanonicalNext (execScratchpadBankAccess op granule s) := by
  unfold execScratchpadBankAccess
  refine .next ?_
  split
  · exact h
  · dsimp only
    split
    · exact h.readUnit
    · exact h.writeUnit

theorem State.canonical.fillWithErrors {s : State} {part space line : Nat} {a : PageAttr} {errs : LineErrors} (h : s.canonical) :
    (s.fillWithErrors part space line a errs).canonical := by
  unfold State.fillWithErrors
  split
  · exact h
  · dsimp only
    split
    · refine State.canonical.logUncorrectedLine ?_
      split
      · exact h.takeHost.activate.update
      · exact h.takeHost.activate.placeAt
    · split
      · split
        · exact h.takeHost.activate
        · exact h.takeHost.activate.placeAt
      · refine State.canonical.logEvent ?_
        split
        · exact h.takeHost.activate
        · exact h.takeHost.activate.placeAt

theorem State.canonical.cellErrors {s : State} {uid cell : Nat} {errs : LineErrors} (h : s.canonical) :
    (s.cellErrors uid cell errs).canonical := by
  unfold State.cellErrors
  split
  · exact h
  · dsimp only
    split
    · exact h
    · split
      · exact h.logEvent
      · exact h.modBlock

theorem execLineFill_canonical {reader : FillReader} {line : Nat} {errors : LineErrors} {s : State} (h : s.canonical) :
    CanonicalNext (execLineFill reader line errors s) := by
  unfold execLineFill
  refine .next ?_
  split
  · exact h.cellErrors
  · split
    · exact h.fillWithErrors
    · exact h
  · split
    · split
      · exact h.fillWithErrors
      · exact h
    · split
      · exact h.fillWithErrors
      · exact h
    · exact h

end Sys2Proof.Machine
end

section
/-! SUPPORT. Canonical storage is kept: the pod attachment. -/

namespace Sys2Proof.Machine

theorem State.canonical.dropReq {s : State} {id : Nat} (h : s.canonical) : (s.dropReq id).canonical :=
  h.update

theorem State.canonical.failGroup {s : State} {o : MemOp} {i : Nat} {g : OpGroup} (h : s.canonical) : (s.failGroup o i g).canonical := by
  unfold State.failGroup
  dsimp only
  split
  · exact h.setGroup
  · split
    · exact h.setGroup.settleOp
    · exact h.modWave.setGroup.settleOp

theorem State.canonical.failUnit {s : State} {q : PodReq} {op : Nat} (h : s.canonical) : (s.failUnit q op).canonical := by
  unfold State.failUnit
  split
  · exact h
  · dsimp only
    split
    · exact h.markFailed
    · split
      · exact h.modEngOp
      · exact h.foldl fun s1 x h1 => h1.modWave

theorem State.canonical.failReq {s : State} {q : PodReq} (h : s.canonical) : (s.failReq q).canonical := by
  unfold State.failReq
  dsimp only
  split
  · exact h.dropReq.modPart.markFailed
  · exact h.dropReq.modPart.failUnit
  · exact h.dropReq.modPart.codePut
  · split
    · exact h.dropReq.modPart
    · split
      · exact h.dropReq.modPart.failGroup
      · exact h.dropReq.modPart

theorem State.canonical.answerGroup {s : State} {o : MemOp} {i : Nat} {g : OpGroup} {bytes : List Byte} {poison : Bool} (h : s.canonical) :
    (s.answerGroup o i g bytes poison).canonical := by
  unfold State.answerGroup
  split
  · exact h.setGroup
  · exact h.setGroup.settleOp

theorem State.canonical.ackGroup {s : State} {o : MemOp} {i : Nat} {g : OpGroup} (h : s.canonical) : (s.ackGroup o i g).canonical :=
  h.setGroup.modMemOp.settleOp

theorem execPodResponse_canonical {req : Nat} {answer : PodAnswer} {s : State} (h : s.canonical) :
    CanonicalNext (execPodResponse req answer s) := by
  unfold execPodResponse
  refine .next ?_
  split
  · exact h
  · split
    · exact h.failReq
    · split
      · exact h.dropReq.modEngOp
      · dsimp only
        split
        · exact h.dropReq.modEngOp
        · split
          · exact h.dropReq.modEngOp.logEvent
          · exact h.dropReq.modEngOp
      · exact h.dropReq.codePut
      · split
        · exact h.dropReq
        · split
          · exact h.dropReq
          · dsimp only
            split
            · exact h.dropReq.modMemOp
            · exact h.dropReq.modMemOp.answerGroup
    · split
      · exact h.dropReq.modEngOp
      · split
        · exact h
        · exact h.dropReq.modEngOp
      · exact h
      · split
        · exact h.dropReq
        · split
          · exact h.dropReq
          · split
            · exact h
            · exact h.dropReq.ackGroup

theorem execPodRequestTimeout_canonical {req : Nat} {s : State} (h : s.canonical) : CanonicalNext (execPodRequestTimeout req s) := by
  unfold execPodRequestTimeout
  refine .next ?_
  split
  · exact h
  · split
    · exact h.failReq
    · exact h

theorem State.canonical.errorToAll {s : State} {parts : List Nat} {serial code addr : Nat} (h : s.canonical) :
    (s.errorToAll parts serial code addr).canonical :=
  h.foldl fun _ _ h1 => h1.errorRecord

theorem execUalinkPortDown_canonical {port : Nat} {s : State} (h : s.canonical) : CanonicalNext (execUalinkPortDown port s) := by
  unfold execUalinkPortDown
  refine .next ?_
  split
  · exact h
  · exact ((h.modDevice.foldl fun s1 x h1 => h1.failReq).logEvent).errorToAll

theorem execUalinkPortUp_canonical {port : Nat} {s : State} (h : s.canonical) : CanonicalNext (execUalinkPortUp port s) := by
  unfold execUalinkPortUp
  refine .next ?_
  split
  · exact h
  · exact h.modDevice

theorem execAcceleratorIdAssign_canonical {id : Nat} {s : State} (h : s.canonical) : CanonicalNext (execAcceleratorIdAssign id s) := by
  unfold execAcceleratorIdAssign
  refine .next ?_
  split
  · exact h
  · exact h.modDevice

theorem execPpodCtlWrite_canonical {path : Master} {part value : Nat} {s : State} (h : s.canonical) :
    CanonicalNext (execPpodCtlWrite path part value s) := by
  unfold execPpodCtlWrite
  refine .next ?_
  split
  · exact h
  · exact h.modPart

theorem execPpodFlush_canonical {path : Master} {part value : Nat} {s : State} (h : s.canonical) :
    CanonicalNext (execPpodFlush path part value s) := by
  unfold execPpodFlush
  refine .next ?_
  split
  · exact h.modPart
  · exact h

theorem State.canonical.writeOutside {s : State} {part pa : Nat} {bs : List Byte} {poison : Bool} (h : s.canonical) :
    (s.writeOutside part pa bs poison).1.canonical :=
  canonicalFoldl1 h fun _ _ h1 => h1.performWrite

theorem State.canonical.pend {s : State} {completion die : Nat} {peer : Option Nat} {reply : List Byte} (h : s.canonical) :
    (s.pend completion die peer reply).canonical :=
  h.fresh.update

theorem State.canonical.peerAtomic {s : State} {device part pa op operand swap n : Nat} (h : s.canonical) :
    (s.peerAtomic device part pa op operand swap n).canonical := by
  unfold State.peerAtomic
  split
  · exact h.logUncorrectedLine.emit
  · dsimp only
    split
    · exact h.touchWrite.pend
    · exact h.performWrite.pend

theorem State.canonical.writeCells {s : State} {part pa : Nat} {cells : List (Nat × Byte)} (h : s.canonical) :
    (s.writeCells part pa cells).1.canonical :=
  canonicalFoldl1 h fun _ _ h1 => h1.performWrite

theorem CanonicalIfSome.foldlBind {α : Type} {f : State → α → Option State} {o : Option State} {l : List α} (h : CanonicalIfSome o)
    (hf : ∀ s a, s.canonical → CanonicalIfSome (f s a)) : CanonicalIfSome (l.foldl (fun o a => o.bind fun t => f t a) o) := by
  induction l generalizing o with
  | nil => exact h
  | cons a l ih => exact ih (h.bind fun t ht => hf t a ht)

theorem State.canonical.peerTokens {s : State} {device target pa n : Nat} (h : s.canonical) :
    CanonicalIfSome (s.peerTokens device target pa n) :=
  h.takeTokens.foldlBind fun _ _ ht => ht.takeTokens

theorem execPodRequestReceive_canonical {device sender target offset : Nat} {ask : PodAsk} {s : State} (h : s.canonical) :
    CanonicalNext (execPodRequestReceive device sender target offset ask s) := by
  unfold execPodRequestReceive
  refine .next ?_
  split
  · exact h.emit
  · dsimp only
    split
    · exact h
    · rename_i hne a t heq
      have ht : t.canonical := by
        refine (?_ : CanonicalIfSome _) _ heq
        split
        · exact .none
        · exact h.peerTokens
      split
      · exact ht.touchRun.emit
      · exact ht.writeOutside.pend
      · exact ht.writeCells.pend
      · exact ht.peerAtomic

end Sys2Proof.Machine
end

section
/-! SUPPORT. Canonical storage is kept: streams. -/

namespace Sys2Proof.Machine

theorem State.canonical.schedPage {s0 : State} {part space va : Nat} {kind : AccessKind} (h : s0.canonical) :
    (s0.schedPage part space va kind).2.canonical := by
  unfold State.schedPage
  split
  · exact h
  · dsimp only
    split
    · exact h.readWalk
    · split
      · dsimp only
        split
        · exact h.readWalk.errorEvent
        · exact h.readWalk
      · split
        · exact h.readWalk
        · exact h.readWalk

theorem State.canonical.writeColophon {s : State} {lid status : Nat} (h : s.canonical) : (s.writeColophon lid status).canonical := by
  unfold State.writeColophon
  split
  · exact h
  · dsimp only
    split
    · exact h.errorEvent
    · split
      · rename_i a la heq hne a1 t heq1
        have ht : t.canonical := canonicalOf2 heq1 h.schedPage
        exact ht.errorEvent
      · rename_i a la heq hne a1 e t heq1
        have ht : t.canonical := canonicalOf2 heq1 h.schedPage
        split
        · exact ht.performWrite.emit
        · exact ht.performWrite

theorem State.canonical.colophonTokens {s : State} {lid : Nat} (h : s.canonical) : CanonicalIfSome (s.colophonTokens lid) := by
  unfold State.colophonTokens
  split
  · exact .some h
  · split
    · exact .some h
    · dsimp only
      split
      · exact .none
      · exact h.takeAll

theorem State.canonical.refuse {s : State} {lid status : Nat} (h : s.canonical) : (s.refuse lid status).canonical := by
  unfold State.refuse
  dsimp only
  split
  · rename_i a t heq
    have ht : t.canonical := h.modLaunch.colophonTokens _ heq
    exact ht.writeColophon.modLaunch
  · exact h.modLaunch.modLaunch

theorem State.canonical.cancelTail {s : State} {part n : Nat} (h : s.canonical) : (s.cancelTail part n).canonical :=
  h.dropEntries

theorem State.canonical.stopStream {s : State} {part n code position addr : Nat} (h : s.canonical) :
    (s.stopStream part n code position addr).canonical :=
  h.cancelTail.modStream.errorEvent

theorem State.canonical.watchTail {s : State} {part n pa : Nat} (h : s.canonical) : (s.watchTail part n pa).canonical :=
  h.register

theorem execStreamStart_canonical {part stream value : Nat} {s : State} (h : s.canonical) :
    CanonicalNext (execStreamStart part stream value s) := by
  unfold execStreamStart
  refine .next ?_
  dsimp only
  split
  · exact h
  · split
    · exact h.modStream
    · split
      · rename_i hne hne1 a t heq
        have ht : t.canonical := canonicalOf2 heq h.modStream.modStream.schedPage
        exact ht.stopStream
      · rename_i hne hne1 a e t heq
        have ht : t.canonical := canonicalOf2 heq h.modStream.modStream.schedPage
        split
        · exact ht.useLine.modStream.watchTail
        · exact ht.useLine.modStream

theorem execStreamSerialUpdate_canonical {part stream value : Nat} {s : State} (h : s.canonical) :
    CanonicalNext (execStreamSerialUpdate part stream value s) := by
  unfold execStreamSerialUpdate
  refine .next ?_
  split
  · exact h.modStream
  · exact h

theorem execStreamStop_canonical {part stream value : Nat} {s : State} (h : s.canonical) :
    CanonicalNext (execStreamStop part stream value s) := by
  unfold execStreamStop
  refine .next ?_
  split
  · exact h
  · exact h.cancelTail.modStream

theorem State.canonical.takeRecord {s : State} {part n position : Nat} {bs : List Byte} (h : s.canonical) :
    (s.takeRecord part n position bs).canonical := by
  unfold State.takeRecord
  dsimp only
  split
  · exact h.fresh.update.modPart
  · exact h.fresh.update.modPart.refuse

theorem State.canonical.advanceHead {s : State} {part n pair : Nat} {a : PageAttr} {head : Nat} (h : s.canonical) :
    (s.advanceHead part n pair a head).canonical :=
  h.performWrite.modStream

theorem State.canonical.nextRecord {s : State} {part n pair left : Nat} (h : s.canonical) : (s.nextRecord part n pair left).canonical := by
  unfold State.nextRecord
  dsimp only
  split
  · split
    · exact h.modStream.watchTail
    · exact h.modStream
  · split
    · rename_i hne a t heq
      have ht : t.canonical := canonicalOf2 heq h.schedPage
      exact ht.stopStream
    · rename_i hne a e t heq
      have ht : t.canonical := canonicalOf2 heq h.schedPage
      exact ht.useLine.modStream

theorem State.canonical.readRecord {s : State} {part n pair : Nat} {a : PageAttr} {left : Nat} {old : List (Nat × Nat)} (h : s.canonical) :
    (s.readRecord part n pair a left old).canonical := by
  unfold State.readRecord
  dsimp only
  split
  · rename_i a1 t heq
    have ht : t.canonical := canonicalOf2 heq h.schedPage
    exact ht.stopStream
  · rename_i a1 e t heq
    have ht : t.canonical := canonicalOf2 heq h.schedPage
    split
    · exact ht
    · rename_i a2 t1 heq1
      have ht1 : t1.canonical := (ht.takeAll.bind fun s1 h1 => h1.takeAll) _ heq1
      exact ht1.useLine.update.takeRecord.advanceHead.nextRecord

theorem execSchedulerStreamRead_canonical {part stream : Nat} {s : State} (h : s.canonical) :
    CanonicalNext (execSchedulerStreamRead part stream s) := by
  unfold execSchedulerStreamRead
  refine .next ?_
  dsimp only
  split
  · exact h
  · split
    · rename_i hne a t heq
      have ht : t.canonical := canonicalOf2 heq h.schedPage
      exact ht.stopStream
    · rename_i hne a e t heq
      have ht : t.canonical := canonicalOf2 heq h.schedPage
      split
      · exact ht.readRecord
      · split
        · exact ht.stopStream
        · exact ht.nextRecord

theorem State.canonical.promote {s : State} (h : s.canonical) : s.promote.canonical := by
  unfold State.promote
  refine h.foldl ?_
  intro s1 x h1
  split
  · exact h1
  · split
    · exact h1.modLaunch
    · exact h1

theorem State.canonical.refuseGate {s : State} {l : Launch} (h : s.canonical) : (s.refuseGate l).canonical :=
  h.refuse.errorEvent

theorem execGateRegistration_canonical {launch : Nat} {s : State} (h : s.canonical) : CanonicalNext (execGateRegistration launch s) := by
  unfold execGateRegistration
  refine .next ?_
  split
  · exact h
  · split
    · exact h
    · split
      · rename_i a la heq hne a1 t heq1
        have ht : t.canonical := canonicalOf2 heq1 h.schedPage
        exact ht.refuseGate
      · rename_i a la heq hne a1 e t heq1
        have ht : t.canonical := canonicalOf2 heq1 h.schedPage
        dsimp only
        split
        · exact ht
        · rename_i a2 t1 heq2
          have ht1 : t1.canonical := ht.takeAll _ heq2
          split
          · exact ht1.refuseGate
          · exact ht1.modLaunch.register

end Sys2Proof.Machine
end

section
/-! SUPPORT. Canonical storage is kept: placement. -/

namespace Sys2Proof.Machine

theorem State.canonical.preempt {s : State} {uid : Nat} (h : s.canonical) : (s.preempt uid).canonical := by
  unfold State.preempt
  split
  · exact h
  · split
    · exact h
    · dsimp only
      split
      · exact h.modBlock.modPart
      · exact h.modBlock

theorem State.canonical.preemptAll {s : State} {uids : List Nat} (h : s.canonical) : (s.preemptAll uids).canonical :=
  h.foldl fun _ _ h1 => h1.preempt

theorem State.canonical.saveWaiting {s : State} {l : Launch} (h : s.canonical) : (s.saveWaiting l).canonical := by
  unfold State.saveWaiting
  split
  · exact h
  · split
    · exact h
    · split
      · exact h.modBlock
      · exact h

theorem State.canonical.clearRemains {s : State} {core : Nat} (h : s.canonical) : (s.clearRemains core).canonical :=
  h.update

theorem State.canonical.startBlock {s : State} {l : Launch} {lin core start : Nat} (h : s.canonical) :
    (s.startBlock l lin core start).canonical := by
  obtain ⟨hmem, hside, hblocks⟩ := h.clearRemains (core := core)
  refine ⟨hmem, hside, fun b hb => ?_⟩
  rcases List.mem_append.1 hb with hb | hb
  · exact hblocks b hb
  · obtain rfl := List.mem_singleton.1 hb
    exact ⟨rfl, rfl⟩

theorem State.canonical.startBlocks {s : State} {lid lin : Nat} {l : List (Nat × Nat)} (h : s.canonical) :
    (s.startBlocks lid lin l).canonical := by
  induction l generalizing s lin with
  | nil => exact h
  | cons p ps ih =>
    unfold State.startBlocks
    split
    · exact h
    · exact ih h.startBlock.modLaunch

theorem State.canonical.restartBlock {s : State} {uid core start : Nat} (h : s.canonical) : (s.restartBlock uid core start).canonical := by
  unfold State.restartBlock
  split
  · exact h
  · refine h.clearRemains.fresh.modBlock ?_
    exact fun b h1 => Block.stored.atLaunch.update.update

theorem State.canonical.moveEngOps {s : State} {uid core : Nat} (h : s.canonical) : (s.moveEngOps uid core).canonical :=
  h.update

theorem State.canonical.restoreBlock {s : State} {uid core start : Nat} (h : s.canonical) : (s.restoreBlock uid core start).canonical := by
  unfold State.restoreBlock
  split
  · exact h
  · exact h.clearRemains.moveEngOps.fresh.modBlock

theorem State.canonical.returnBlocks {s : State} {plan : List (Nat × Nat × Nat)} (h : s.canonical) : (s.returnBlocks plan).canonical := by
  unfold State.returnBlocks
  refine h.foldl ?_
  intro s1 x h1
  split
  · exact h1
  · split
    · exact h1.restoreBlock
    · split
      · exact h1.restartBlock
      · exact h1

theorem State.canonical.makeWay {s : State} {l : Launch} {n : Nat} (h : s.canonical) : (s.makeWay l n).canonical := by
  unfold State.makeWay
  split
  · split
    · exact h.preemptAll
    · split
      · exact h
      · exact h.saveWaiting
  · exact h.saveWaiting

theorem State.canonical.makeWayBack {s : State} {l : Launch} {b : Block} (h : s.canonical) : (s.makeWayBack l b).canonical := by
  unfold State.makeWayBack
  split
  · exact h.saveWaiting
  · exact h.makeWay

theorem execLaunchAdmit_canonical {launch : Nat} {s : State} (h : s.canonical) : CanonicalNext (execLaunchAdmit launch s) := by
  unfold execLaunchAdmit
  refine .next ?_
  split
  · exact h
  · split
    · exact h
    · dsimp only
      split
      · exact h.fresh.modLaunch
      · split
        · exact h.refuse
        · split
          · exact h
          · exact h.fresh.modLaunch.modLaunch.startBlocks

theorem State.canonical.placeNext {s : State} {l : Launch} {lin : Nat} (h : s.canonical) : (s.placeNext l lin).canonical := by
  unfold State.placeNext
  split
  · exact h
  · split
    · split
      · exact h
      · exact h.startBlocks
    · split
      · exact h.saveWaiting
      · exact h.makeWay

theorem execBlockPlace_canonical {launch lin : Nat} {s : State} (h : s.canonical) : CanonicalNext (execBlockPlace launch lin s) := by
  unfold execBlockPlace
  refine .next ?_
  split
  · exact h
  · split
    · exact h
    · split
      · split
        · exact h.preemptAll
        · exact h
      · split
        · exact h
        · split
          · dsimp only
            split
            · split
              · exact h
              · exact h.returnBlocks
            · split
              · exact h.saveWaiting
              · exact h.makeWayBack
          · exact h.placeNext

end Sys2Proof.Machine
end

section
/-! SUPPORT. Canonical storage is kept: saving and restoring. -/

namespace Sys2Proof.Machine

theorem State.canonical.stopBlock {s : State} {uid : Nat} (h : s.canonical) : (s.stopBlock uid).canonical :=
  h.parkBlock.modBlock

theorem State.canonical.endWaits {s : State} {r : WaveRef} {ls : List Nat} (h : s.canonical) : (s.endWaits r ls).canonical := by
  unfold State.endWaits
  split
  · exact h
  · exact ((h.foldl fun s1 x h1 => h1.leaveGroup).dropEntries).update

theorem State.canonical.cancelHandling {s : State} {uid : Nat} (h : s.canonical) : (s.cancelHandling uid).canonical := by
  unfold State.cancelHandling
  split
  · exact h
  · refine State.canonical.modBlock ?_
    refine h.foldl ?_
    intro s1 x h1
    dsimp only
    split
    · exact h1
    · split
      · exact h1
      · exact h1.endWaits.exitLanes

theorem State.canonical.writeImage {s : State} {part : Nat} {units : List Nat} (h : s.canonical) : (s.writeImage part units).canonical :=
  h.foldl fun _ _ h1 => h1.update.writeRun

theorem State.canonical.finishSave {s : State} {b : Block} (h : s.canonical) : (s.finishSave b).canonical := by
  unfold State.finishSave
  dsimp only
  split
  · exact h.cancelHandling.writeImage.modBlock.modLaunch.modPart.wake
  · exact h.cancelHandling.writeImage.modBlock.modLaunch.modPart

theorem execBlockSave_canonical {uid : Nat} {s : State} (h : s.canonical) : CanonicalNext (execBlockSave uid s) := by
  unfold execBlockSave
  refine .next ?_
  split
  · exact h
  · split
    · exact h
    · split
      · split
        · exact h.stopBlock
        · exact h
      · split
        · exact h.finishSave
        · exact h

theorem execBlockRestore_canonical {uid : Nat} {s : State} (h : s.canonical) : CanonicalNext (execBlockRestore uid s) := by
  unfold execBlockRestore
  refine .next ?_
  split
  · exact h
  · split
    · exact h
    · split
      · exact h
      · split
        · split
          · exact h.returnBlocks
          · exact h
        · exact h.makeWayBack

theorem State.canonical.orphan {s : State} {uid dead waves : Nat} (h : s.canonical) : (s.orphan uid dead waves).canonical :=
  h.update.foldl fun _ _ h1 => h1.drainMem

theorem State.canonical.discard {s : State} {uid : Nat} {restart : Bool} (h : s.canonical) : (s.discard uid restart).canonical := by
  unfold State.discard
  split
  · exact h
  · dsimp only
    split
    · refine h.parkBlock.cancelHandling.fresh.dropEntries.update.modLaunch.orphan.modBlock ?_
      exact fun b h1 => Block.stored.atLaunch.update
    · exact h.parkBlock.cancelHandling.fresh.dropEntries.update.modLaunch.orphan.filterBlocks

theorem execBlockFlush_canonical {uid : Nat} {s : State} (h : s.canonical) : CanonicalNext (execBlockFlush uid s) := by
  unfold execBlockFlush
  refine .next ?_
  split
  · exact h
  · split
    · exact h
    · dsimp only
      split
      · split
        · exact h.stopBlock
        · exact h.stopBlock.discard.modLaunch.modPart
      · split
        · exact h
        · exact h.discard.modLaunch.modPart

theorem State.canonical.killLaunch {s : State} {lid status : Nat} (h : s.canonical) : (s.killLaunch lid status).canonical := by
  unfold State.killLaunch
  split
  · exact h
  · split
    · split
      · exact h
      · exact h.dropEntries.modLaunch
    · split
      · exact h
      · exact h.dropEntries.modLaunch
    · split
      · exact h
      · exact h.dropEntries.modLaunch

theorem State.canonical.killBlock {s : State} {b : Block} (h : s.canonical) : (s.killBlock b).canonical := by
  unfold State.killBlock
  dsimp only
  split
  · split
    · exact h.stopBlock
    · exact h.stopBlock.discard
  · split
    · exact h
    · exact h.discard

theorem execHandlerWaveForm_canonical {core quarter : Nat} {s : State} (h : s.canonical) :
    CanonicalNext (execHandlerWaveForm core quarter s) := by
  unfold execHandlerWaveForm
  refine .next ?_
  split
  · exact h
  · dsimp only
    split
    · exact h
    · split
      · exact h
      · split
        · exact h
        · exact h.modCore.foldIdx fun s1 n x h1 => h1.modLane

theorem State.canonical.dropReplicas {s : State} {part id : Nat} (h : s.canonical) : (s.dropReplicas part id).canonical :=
  h.foldl fun _ _ h1 => h1.foldl fun _ _ h2 => h2.evict

theorem State.canonical.dropPrefetches {s : State} {lid : Nat} (h : s.canonical) : (s.dropPrefetches lid).canonical :=
  h.update

theorem execLaunchRetire_canonical {launch : Nat} {s : State} (h : s.canonical) : CanonicalNext (execLaunchRetire launch s) := by
  unfold execLaunchRetire
  refine .next ?_
  split
  · exact h
  · split
    · split
      · exact h
      · split
        · exact h
        · rename_i a la heq a1 status heq1 hne a2 t heq2
          have ht : t.canonical := h.dropPrefetches.dropReplicas.colophonTokens _ heq2
          exact ht.writeColophon.modLaunch
    · exact h

end Sys2Proof.Machine
end

section
/-! SUPPORT. Canonical storage is kept: resizes. -/

namespace Sys2Proof.Machine

theorem State.canonical.pcfgResult {s : State} {part result : Nat} {notify : Bool} {vector : Nat} (h : s.canonical) :
    (s.pcfgResult part result notify vector).canonical := by
  unfold State.pcfgResult
  dsimp only
  split
  · exact h.modPart.emit
  · exact h.modPart

theorem State.canonical.unhome {s : State} {part i : Nat} {leaves : Bool} (h : s.canonical) : (s.unhome part i leaves).canonical :=
  h.foldl fun _ _ h1 => h1.evict

theorem State.canonical.rehomeEntry {s : State} {e : Entry} (h : s.canonical) : (s.rehomeEntry e).canonical := by
  unfold State.rehomeEntry
  dsimp only
  split
  · refine State.canonical.fillLine ?_
    split
    · split
      · exact h
      · exact h.placeEntry
    · exact h.watchLine
    · exact h
  · split
    · split
      · exact h
      · exact h.placeEntry
    · exact h.watchLine
    · exact h

theorem State.canonical.setSlices {s : State} {part new : Nat} (h : s.canonical) : (s.setSlices part new).canonical :=
  (((h.modPart.foldl fun _ _ h1 => h1.unhome).foldl fun _ _ h1 => h1.modSlice).foldl fun _ _ h1 => h1.modSlice).foldl fun _ _ h1 => h1.rehomeEntry

theorem State.canonical.finishResize {s : State} {part : Nat} (h : s.canonical) : (s.finishResize part).canonical := by
  unfold State.finishResize
  dsimp only
  split
  · exact h.modPart.pcfgResult
  · exact h

theorem State.canonical.beginRemovals {s : State} {part : Nat} (h : s.canonical) : (s.beginRemovals part).canonical :=
  h.modPart.preemptAll.finishResize

theorem State.canonical.startResize {s : State} {part : Nat} (h : s.canonical) : (s.startResize part).canonical := by
  unfold State.startResize
  dsimp only
  split
  · split
    · exact h.modPart.modPart.pcfgResult
    · exact h.modPart.beginRemovals
  · split
    · exact h.modPart.setSlices.modPart.pcfgResult
    · exact h.modPart.setSlices.beginRemovals

theorem State.canonical.pcfgCmd {s : State} {path : Master} {part value : Nat} (h : s.canonical) : (s.pcfgCmd path part value).canonical := by
  unfold State.pcfgCmd
  split
  · exact h
  · dsimp only
    split
    · split
      · exact h.pcfgResult
      · split
        · exact h.modPart.pcfgResult
        · exact h.modPart.startResize
    · split
      · exact h.modPart.modPart.pcfgResult
      · exact h.pcfgResult
    · exact h.pcfgResult

theorem State.canonical.resumeResize {s : State} (h : s.canonical) : s.resumeResize.canonical := by
  unfold State.resumeResize
  refine h.foldl ?_
  intro s1 x h1
  split
  · exact h1.beginRemovals
  · exact h1

theorem execCellRemoval_canonical {part : Nat} {s : State} (h : s.canonical) : CanonicalNext (execCellRemoval part s) := by
  unfold execCellRemoval
  refine .next ?_
  dsimp only
  split
  · exact h
  · exact (h.modPart.foldl fun s1 x h1 => h1.modCore.clearRemains).finishResize

theorem execSliceRemoval_canonical {part slice : Nat} {s : State} (h : s.canonical) : CanonicalNext (execSliceRemoval part slice s) := by
  unfold execSliceRemoval
  refine .next ?_
  dsimp only
  split
  · exact h
  · split
    · exact h
    · exact h.setSlices.finishResize

theorem State.canonical.zeroGroup {s : State} {group : Nat} (h : s.canonical) : (s.zeroGroup group).canonical := by
  obtain ⟨hmem, hside, hblocks⟩ := h
  exact ⟨Memory.filter_wf _ _ hmem, filter_wf _ _ _ hside, hblocks⟩

theorem State.canonical.groupEntry {s : State} {e : Entry} (h : s.canonical) : (s.groupEntry e).canonical := by
  unfold State.groupEntry
  dsimp only
  split
  · split
    · exact h.dropEntry
    · refine State.canonical.wake ?_
      refine h.dropEntry.leaveGroup.foldl ?_
      intro s1 x h1
      split
      · exact h1
      · exact h1.takeTrap
  · split
    · exact h.dropEntry
    · refine State.canonical.wake ?_
      refine h.dropEntry.leaveGroup.foldl ?_
      intro s1 x h1
      split
      · exact h1
      · exact h1.takeTrap
  · exact h.dropEntry

theorem execChannelGroupRemoval_canonical {part group : Nat} {s : State} (h : s.canonical) :
    CanonicalNext (execChannelGroupRemoval part group s) := by
  unfold execChannelGroupRemoval
  refine .next ?_
  dsimp only
  split
  · exact h
  · exact (((((h.foldl fun s1 x h1 => h1.foldl fun s2 x1 h2 => h2.evict).update).zeroGroup).modPart).foldl fun s1 x h1 => h1.groupEntry).finishResize

theorem execBucketWrite_canonical {path : Master} {part reg value : Nat} {s : State} (h : s.canonical) :
    CanonicalNext (execBucketWrite path part reg value s) := by
  unfold execBucketWrite
  refine .next ?_
  split
  · exact h
  · exact (h.foldl fun s1 x h1 => h1.settleBucket).modPart

end Sys2Proof.Machine
end

section
/-! SUPPORT. Canonical storage is kept: the control of a partition. -/

namespace Sys2Proof.Machine

theorem State.canonical.shootTlbs {s : State} {part : Nat} {d : Shootdown} (h : s.canonical) : (s.shootTlbs part d).canonical :=
  h.update

theorem execShootdownStart_canonical {part value : Nat} {s : State} (h : s.canonical) : CanonicalNext (execShootdownStart part value s) := by
  unfold execShootdownStart
  refine .next ?_
  dsimp only
  split
  · exact h
  · split
    · exact h.modVF
    · split
      · exact h.modVF
      · exact h.modVF.shootTlbs

theorem execShootdownComplete_canonical {part : Nat} {s : State} (h : s.canonical) : CanonicalNext (execShootdownComplete part s) := by
  unfold execShootdownComplete
  refine .next ?_
  dsimp only
  split
  · exact h
  · split
    · exact h
    · split
      · exact h.modVF.emit
      · exact h.modVF

theorem execScSnap_canonical {part value : Nat} {s : State} (h : s.canonical) : CanonicalNext (execScSnap part value s) := by
  unfold execScSnap
  refine .next ?_
  split
  · exact h.modVF
  · exact h

theorem execQueueLostClear_canonical {part : Nat} {fault : Bool} {value : Nat} {s : State} (h : s.canonical) :
    CanonicalNext (execQueueLostClear part fault value s) := by
  unfold execQueueLostClear
  refine .next ?_
  split
  · exact h
  · exact h.modVF

theorem State.canonical.modMonitor {s : State} {part m : Nat} {f : Monitor → Monitor} (h : s.canonical) : (s.modMonitor part m f).canonical :=
  h.modVF

theorem State.canonical.monitorError {s : State} {part m : Nat} (h : s.canonical) : (s.monitorError part m).canonical :=
  h.modMonitor.emit

theorem execHmArm_canonical {part monitor value : Nat} {s : State} (h : s.canonical) : CanonicalNext (execHmArm part monitor value s) := by
  unfold execHmArm
  refine .next ?_
  split
  · exact h
  · dsimp only
    split
    · split
      · exact h.modMonitor.monitorError
      · split
        · rename_i hne heq hne1 a t heq1
          have ht : t.canonical := canonicalOf2 heq1 h.modMonitor.schedPage
          exact ht.monitorError
        · rename_i hne heq hne1 a e t heq1
          have ht : t.canonical := canonicalOf2 heq1 h.modMonitor.schedPage
          exact ht.modMonitor.register
    · split
      · exact h.modMonitor.monitorError
      · split
        · rename_i hne hne1 hne2 a t heq
          have ht : t.canonical := canonicalOf2 heq h.modMonitor.schedPage
          exact ht.monitorError
        · rename_i hne hne1 hne2 a e t heq
          have ht : t.canonical := canonicalOf2 heq h.modMonitor.schedPage
          exact ht.modMonitor.register

theorem execHmDisarm_canonical {part monitor value : Nat} {s : State} (h : s.canonical) : CanonicalNext (execHmDisarm part monitor value s) := by
  unfold execHmDisarm
  refine .next ?_
  split
  · exact h
  · exact h.dropEntries.modMonitor

theorem execHmStatusClear_canonical {part monitor value : Nat} {s : State} (h : s.canonical) :
    CanonicalNext (execHmStatusClear part monitor value s) := by
  unfold execHmStatusClear
  refine .next ?_
  split
  · exact h
  · exact h.modMonitor

theorem State.canonical.postResult {s : State} {part result : Nat} (h : s.canonical) : (s.postResult part result).canonical :=
  h.modVF

theorem State.canonical.post {s : State} {part : Nat} {act : Origin → TrapInfo → State → State}
    (h : s.canonical) (hact : ∀ (a : Origin) (a_1 : TrapInfo) (a_2 : State), a_2.canonical → (act a a_1 a_2).canonical) :
    (s.post part act).canonical := by
  unfold State.post
  split
  · exact h
  · split
    · exact h.postResult
    · exact (hact _ _ _ h).postResult

theorem State.canonical.killLane {s : State} {o : Origin} (h : s.canonical) : (s.killLane o).canonical :=
  h.modLane.wake

theorem execReplayRange_canonical {part : Nat} {s : State} (h : s.canonical) : CanonicalNext (execReplayRange part s) := by
  unfold execReplayRange
  refine .next ?_
  dsimp only
  split
  · exact h
  · split
    · exact h.postResult
    · exact (h.foldl fun s1 x h1 => h1.replayLane).postResult

end Sys2Proof.Machine
end

section
/-! SUPPORT. Canonical storage is kept: configuration registers. -/

namespace Sys2Proof.Machine

theorem State.canonical.writeConfig {s : State} {part r value : Nat} (h : s.canonical) : (s.writeConfig part r value).canonical := by
  unfold State.writeConfig
  dsimp only
  split
  · exact h.modPart
  · exact h.modPart
  · exact h.modPart
  · exact h.modPart
  · exact h.modPart
  · exact h.modPart
  · split
    · exact h
    · exact h.modPart
  · split
    · exact h
    · exact h.modPart
  · split
    · exact h
    · exact h.modPart
  · split
    · exact h
    · exact h.modPart
  · exact h.modPart
  · split
    · exact h
    · exact h.modPart
  · split
    · exact h
    · exact h.modPart
  · split
    · exact h
    · exact h.modPart
  · exact h

theorem execRegisterWrite_canonical {path : Master} {window : Window} {offset value : Nat} {s : State} (h : s.canonical) :
    CanonicalNext (execRegisterWrite path window offset value s) := by
  unfold execRegisterWrite
  refine .next ?_
  split
  · split
    · exact h
    · split
      · exact h.writeConfig
      · exact h.modDevice
  · split
    · exact h.modVF
    · exact h
  · split
    · exact h.modVF
    · exact h

end Sys2Proof.Machine
end

section
/-! SUPPORT. Canonical storage is kept: the host link. -/

namespace Sys2Proof.Machine

theorem execCxlMemRead_canonical {addr len : Nat} {s : State} (h : s.canonical) : CanonicalNext (execCxlMemRead addr len s) := by
  unfold execCxlMemRead
  refine .next ?_
  split
  · exact h
  · split
    · exact h.emit
    · split
      · exact h.logEvent.emit
      · dsimp only
        split
        · exact h
        · rename_i hne hne1 hne2 a t heq
          have ht : t.canonical := by
            refine (?_ : CanonicalIfSome _) _ heq
            split
            · exact .none
            · exact h.takeAll
          exact ht.touchMemory.emit

theorem execCxlMemWrite_canonical {addr : Nat} {bytes : List Byte} {s : State} (h : s.canonical) :
    CanonicalNext (execCxlMemWrite addr bytes s) := by
  unfold execCxlMemWrite
  refine .next ?_
  split
  · exact h
  · split
    · exact h.logEvent
    · dsimp only
      split
      · exact h
      · rename_i hne hne1 a t heq
        have ht : t.canonical := by
          refine (?_ : CanonicalIfSome _) _ heq
          split
          · exact .none
          · exact h.takeAll
        exact ht.writeOutside.pend

theorem State.canonical.hostBytes {s : State} {line : Nat} {bytes : List (Nat × Byte)} (h : s.canonical) :
    (s.hostBytes line bytes).canonical := by
  obtain ⟨hmem, hside, hblocks⟩ := h
  refine ⟨List.foldlRecOn (motive := fun m => Memory.wf m = true) _ _ hmem fun m hm b _ => ?_, hside, hblocks⟩
  split
  · exact Memory.write_wf _ _ _ hm
  · exact hm

theorem State.canonical.fireLine {s : State} {line : Nat} (h : s.canonical) : (s.fireLine line).canonical :=
  h.foldl fun _ _ h1 => h1.fireOverdue

theorem State.canonical.downgrade {s : State} {line : Nat} (h : s.canonical) : (s.downgrade line).canonical :=
  (h.foldl fun _ _ h1 => h1.cleanTag).emit

theorem State.canonical.surrender {s : State} {line : Nat} {bytes : List (Nat × Byte)} (h : s.canonical) :
    (s.surrender line bytes).canonical :=
  (((h.foldl fun _ _ h1 => h1.dropTag).emit).hostBytes).foldl fun _ _ h1 => h1.reread

theorem execHostSnoop_canonical {part line : Nat} {kind : Snoop} {bytes : List (Nat × Byte)} {s : State} (h : s.canonical) :
    CanonicalNext (execHostSnoop part line kind bytes s) := by
  unfold execHostSnoop
  refine .next ?_
  split
  · exact h
  · split
    · exact h.fireLine.downgrade
    · split
      · exact h
      · exact h.fireLine.surrender

end Sys2Proof.Machine
end

section
/-! SUPPORT. Canonical storage is kept: device care. -/

namespace Sys2Proof.Machine

theorem State.canonical.ownerChanged {s : State} (h : s.canonical) : s.ownerChanged.canonical :=
  h.takeSerial.errorToAll

theorem State.canonical.setOwner {s : State} {owner nonce : Nat} (h : s.canonical) : (s.setOwner owner nonce).canonical :=
  h.modDevice.ownerChanged

theorem State.canonical.lapse {s : State} (h : s.canonical) : s.lapse.canonical := by
  unfold State.lapse
  split
  · exact h.setOwner
  · exact h

theorem execOwnClaim_canonical {path : Master} {value : Nat} {s : State} (h : s.canonical) : CanonicalNext (execOwnClaim path value s) := by
  unfold execOwnClaim
  refine .next ?_
  split
  · exact h
  · exact h.lapse.setOwner

theorem execOwnBeat_canonical {path : Master} {value : Nat} {s : State} (h : s.canonical) : CanonicalNext (execOwnBeat path value s) := by
  unfold execOwnBeat
  refine .next ?_
  split
  · exact h.modDevice
  · exact h

theorem execOwnOffer_canonical {path : Master} {value : Nat} {s : State} (h : s.canonical) : CanonicalNext (execOwnOffer path value s) := by
  unfold execOwnOffer
  refine .next ?_
  split
  · exact h.modDevice
  · exact h

theorem execOwnAccept_canonical {path : Master} {value : Nat} {s : State} (h : s.canonical) : CanonicalNext (execOwnAccept path value s) := by
  unfold execOwnAccept
  refine .next ?_
  split
  · exact h
  · exact h.setOwner

theorem execAttCmd_canonical {part value : Nat} {s : State} (h : s.canonical) : CanonicalNext (execAttCmd part value s) := by
  unfold execAttCmd
  refine .next ?_
  split
  · exact h.modVF
  · exact h

theorem execAttestationComplete_canonical {part : Nat} {s : State} (h : s.canonical) : CanonicalNext (execAttestationComplete part s) := by
  unfold execAttestationComplete
  refine .next ?_
  split
  · exact h
  · split
    · exact h.modVF
    · exact h.modVF

theorem execSecurityAlarm_canonical {sensors : Nat} {s : State} (h : s.canonical) : CanonicalNext (execSecurityAlarm sensors s) := by
  unfold execSecurityAlarm
  refine .next ?_
  split
  · exact h
  · refine State.canonical.foldl ?_ ?_
    · refine State.canonical.modDevice ?_
      split
      · exact h.modDevice.logEvent
      · exact h.modDevice.logEvent.errorToAll
    · intro s1 x h1
      split
      · exact h1.modVF
      · exact h1

theorem execRfmIssue_canonical {bank : Nat} {s : State} (h : s.canonical) : CanonicalNext (execRfmIssue bank s) := by
  unfold execRfmIssue
  refine .next ?_
  split
  · exact h.modBank
  · exact h

theorem execPeriodicRefresh_canonical {bank : Nat} {s : State} (h : s.canonical) : CanonicalNext (execPeriodicRefresh bank s) := by
  unfold execPeriodicRefresh
  refine .next ?_
  split
  · exact h
  · exact h.modBank

theorem execActivationHold_canonical {bank : Nat} {s : State} (h : s.canonical) : CanonicalNext (execActivationHold bank s) := by
  unfold execActivationHold
  refine .next ?_
  dsimp only
  split
  · exact h
  · exact h.modBank.logEvent.errorToAll

theorem execLogRecordProgram_canonical {s : State} (h : s.canonical) : CanonicalNext (execLogRecordProgram s) := by
  unfold execLogRecordProgram
  refine .next ?_
  split
  · exact h
  · split
    · exact h
    · exact h.modDevice

theorem execTemperatureThreshold_canonical {unit value : Nat} {s : State} (h : s.canonical) :
    CanonicalNext (execTemperatureThreshold unit value s) := by
  unfold execTemperatureThreshold
  refine .next ?_
  split
  · exact h
  · exact h.logEvent

theorem execVoltageDroop_canonical {unit value : Nat} {s : State} (h : s.canonical) : CanonicalNext (execVoltageDroop unit value s) := by
  unfold execVoltageDroop
  refine .next ?_
  split
  · exact h
  · exact h.logEvent

theorem execDataRateChange_canonical {stack : Nat} {s : State} (h : s.canonical) : CanonicalNext (execDataRateChange stack s) := by
  unfold execDataRateChange
  refine .next ?_
  split
  · exact h
  · exact h.modDevice

theorem execLifetimeHistogramUpdate_canonical {unit temperature droop : Nat} {s : State} (h : s.canonical) :
    CanonicalNext (execLifetimeHistogramUpdate unit temperature droop s) := by
  unfold execLifetimeHistogramUpdate
  refine .next ?_
  split
  · exact h
  · exact h.modDevice

theorem execFwLoad_canonical {path : Master} {s : State} (h : s.canonical) : CanonicalNext (execFwLoad path s) := by
  unfold execFwLoad
  refine .next ?_
  split
  · exact h.modDevice
  · exact h

theorem execFwUpdate_canonical {path : Master} {s : State} (h : s.canonical) : CanonicalNext (execFwUpdate path s) := by
  unfold execFwUpdate
  refine .next ?_
  split
  · exact h.modDevice
  · exact h

theorem execFwImageVerified_canonical {s : State} (h : s.canonical) : CanonicalNext (execFwImageVerified s) := by
  unfold execFwImageVerified
  refine .next ?_
  dsimp only
  split
  · exact h
  · split
    · split
      · exact h.modDevice
      · exact h.modDevice
    · split
      · exact h.modDevice
      · exact h.modDevice
    · exact h.modDevice
    · exact h.modDevice
    · exact h

theorem State.canonical.resetLaunch {s : State} {lid : Nat} (h : s.canonical) : (s.resetLaunch lid).canonical := by
  unfold State.resetLaunch
  split
  · exact h
  · split
    · exact h.modLaunch
    · exact h
    · exact h.dropEntries.modLaunch

theorem execFunctionLevelReset_canonical {part : Nat} {s : State} (h : s.canonical) : CanonicalNext (execFunctionLevelReset part s) := by
  unfold execFunctionLevelReset
  refine .next ?_
  split
  · exact h
  · exact (h.foldl fun s1 x h1 => h1.resetLaunch).modVF

end Sys2Proof.Machine
end

section
/-! SUPPORT. Canonical storage is kept: system instructions. -/

namespace Sys2Proof.Machine

theorem State.canonical.handlers {s : State} {c : Ctx} {w : Wave} (h : s.canonical) : (s.handlers c w).2.canonical :=
  h.trapAt

theorem execTres_canonical {a : BitVec 7} {g : BitVec 4} {s : State} (h : s.canonical) : CanonicalNext (execTres a g s) := by
  unfold execTres
  refine h.execWord ?_
  intro c w s1 h1
  dsimp only
  split
  · exact h1.handlers.gates.returnWaits.stall
  · exact h1.handlers.gates.foldl fun s2 x h2 => h2.returnTrap

theorem execCsrr_canonical {d : BitVec 6} {x : BitVec 9} {g : BitVec 4} {s : State} (h : s.canonical) : CanonicalNext (execCsrr d x g s) := by
  unfold execCsrr
  refine h.execWord ?_
  intro c w s1 h1
  split
  · exact h1.illegal
  · dsimp only
    split
    · exact h1.gates.modWave
    · exact (h1.gates.foldl fun s2 x1 h2 => h2.passGate).modWave

theorem State.canonical.writeOrigin {s : State} {c : Ctx} {l n : Nat} {v : Word} (h : s.canonical) : (s.writeOrigin c l n v).canonical := by
  unfold State.writeOrigin
  split
  · exact h
  · exact h.modLane

theorem execCsrw_canonical {a : BitVec 7} {x : BitVec 9} {g : BitVec 4} {s : State} (h : s.canonical) : CanonicalNext (execCsrw a x g s) := by
  unfold execCsrw
  refine h.execWord ?_
  intro c w s1 h1
  dsimp only
  split
  · exact h1.illegal
  · split
    · split
      · exact h1.gates
      · exact h1.gates.modWave
    · refine h1.gates.foldl ?_
      intro s2 x1 h2
      split
      · split
        · exact h2.writeOrigin
        · exact h2.passGate
      · split
        · exact h2.writeOrigin
        · exact h2.passGate

theorem execSetmode_canonical {a : BitVec 7} {s : BitVec 2} {g : BitVec 4} {sx : State} (h : sx.canonical) :
    CanonicalNext (execSetmode a s g sx) := by
  unfold execSetmode
  refine h.execWord ?_
  intro c w s1 h1
  dsimp only
  split
  · exact h1.gates
  · exact h1.gates.modWave

end Sys2Proof.Machine
end

section
/-! SUPPORT. Canonical storage is kept: what settles after a turn. -/

namespace Sys2Proof.Machine

theorem State.canonical.settleWaves {s : State} (h : s.canonical) : s.settleWaves.canonical :=
  h.mapBlocks

theorem State.canonical.failBarrier {s : State} {uid n : Nat} (h : s.canonical) : (s.failBarrier uid n).canonical := by
  unfold State.failBarrier
  split
  · exact h
  · refine State.canonical.modBlock ?_
    refine h.foldIdx ?_
    intro s1 n1 x h1
    refine h1.foldl ?_
    intro s2 x1 h2
    split
    · exact h2
    · exact h2.takeTrap

theorem State.canonical.shortfalls {s : State} {b : Block} (h : s.canonical) : (s.shortfalls b).canonical := by
  unfold State.shortfalls
  refine State.canonical.foldIdx ?_ ?_
  · refine h.foldIdx ?_
    intro s1 n x h1
    split
    · exact h1.failBarrier
    · exact h1
  · intro s1 n x h1
    split
    · exact h1.failQuire
    · exact h1

theorem State.canonical.retireBlock {s : State} {b : Block} (h : s.canonical) : (s.retireBlock b).canonical :=
  h.filterBlocks.modLaunch

theorem State.canonical.settleKill {s : State} {l : Launch} (h : s.canonical) : (s.settleKill l).canonical := by
  unfold State.settleKill
  split
  · exact h
  · exact h
  · exact h
  · dsimp only
    split
    · exact h.foldl fun s1 x h1 => h1.killBlock
    · exact (h.foldl fun s1 x h1 => h1.killBlock).modLaunch

theorem State.canonical.freeHandlers {s : State} (h : s.canonical) : s.freeHandlers.canonical := by
  unfold State.freeHandlers
  refine h.foldIdx ?_
  intro s1 n x h1
  refine h1.foldIdx ?_
  intro s2 n1 x1 h2
  split
  · exact h2
  · split
    · exact h2.modLaunch.modCore
    · exact h2

theorem State.canonical.noteWaits {s : State} (h : s.canonical) : s.noteWaits.canonical :=
  h.mapBlocks

theorem State.canonical.settleReset {s : State} {part : Nat} (h : s.canonical) : (s.settleReset part).canonical := by
  unfold State.settleReset
  split
  · exact h.dropEntries.modVF
  · exact h

theorem State.canonical.endEmpty {s : State} (h : s.canonical) : s.endEmpty.canonical :=
  h.foldl fun _ _ h1 => h1.endIssue

theorem State.canonical.settle {s : State} (h : s.canonical) : s.settle.canonical := by
  unfold State.settle
  refine State.canonical.foldl ?_ fun s1 x h1 => h1.settleReset
  refine State.canonical.resumeResize ?_
  refine State.canonical.promote ?_
  refine State.canonical.noteWaits ?_
  refine State.canonical.endEmpty ?_
  refine State.canonical.freeHandlers ?_
  refine State.canonical.foldl ?_ fun s1 x h1 => h1.settleKill
  refine (h.settleWaves.foldl fun s1 x h1 => h1.shortfalls).foldl ?_
  intro s1 x h1
  split
  · exact h1.retireBlock
  · exact h1

end Sys2Proof.Machine
end

section
/-! SUPPORT. Canonical storage is kept: attempts. -/

namespace Sys2Proof.Machine

theorem State.canonical.takeIssue {s : State} {id : Nat} (h : s.canonical) : (s.takeIssue id).canonical :=
  h.update

theorem State.canonical.afterWord {s : State} (h : s.canonical) : s.afterWord.canonical :=
  h.advance.settle

end Sys2Proof.Machine
end

section
/-! SUPPORT. Every instruction word and every step of the device keeps storage canonical, and with them each turn. -/

namespace Sys2Proof.Machine

theorem exec_canonical {i : Instr} {s : State} (h : s.canonical) : CanonicalNext (exec i s) := by
  cases i with dsimp only [exec]
  | fadd | fsub | fmul | ffma | fmin | fmax => exact h.f32Op
  | ftr | fcmp | dtr | dcmp | cvtf | cvtn | cvti | cvtd | mxpk | sel | movi | movh | movl | plog | rand => exact h.laneOp
  | dadd | dmul | dfma | dmnx => exact h.f64Op
  | hadd2 | hmul2 | hfma2 | badd2 | bmul2 | bfma2 | hmnx2 => exact h.f16Op
  | hcmp2 | bcmp2 => exact h.f16Cmp
  | bamax | rail | qxch | vote | redx => exact h.crossOp
  | mxup => exact h.execWord fun c w s1 h1 => h1.gates.modWave
  | iadd | imul | imnx | ilog | ish | ishi | ibit | bfe | bfi | mov => exact h.intOp
  | icmp | icmpn => exact h.intCmp
  | sadd | smul | slog | ssh => exact h.sclOp
  | smovi | smovh | scmp | smov => exact h.scalarOp
  | nop => exact h.execWord fun c w s1 h1 => h1
  | bra => exact h.execWord fun c w s1 h1 => h1.noteVote.moveLanes.moveLanes
  | brx | ret => exact h.execWord fun c w s1 h1 => h1.jumpLanes
  | call => exact h.execWord fun c w s1 h1 => h1.gates.modWave.noteVote.moveLanes.moveLanes
  | join | ksync => exact h.execWord fun c w s1 h1 => h1.maskWait
  | ldB8 | ldS8 | ldB16 | ldS16 | ldB32 | ldB64 | ldB128 => exact h.globalLoad
  | stB8 | stB16 | stB32 | stB64 | stB128 => exact h.globalStore
  | atomAdd | atomAddB64 | atomAddf | atomMinS32 | atomMaxS32 | atomMinN32 | atomMaxN32 | atomAnd | atomOr | atomXor | atomExch | atomCas
  | atomCasB64 => exact h.globalAtomic
  | sldB32 | sldB64 | sldB128 => exact h.scalarLoad
  | ldsB32 | ldsB64 | ldsB128 => exact h.scratchLoad
  | stsB32 | stsB64 | stsB128 => exact h.scratchStore
  | waituEqNe | waituSgeSlt | waituNgeNlt | waituAnyAll | waituChgUpd => exact h.waitUntil
  | spillSweep => exact .next ((h.foldl fun s1 x h1 => h1.fire).tidyFilter)
  | spillReclaim => exact .next h.reclaim.tidyFilter
  | cpy | cpyq | cpyd | cpyt | cpyr | cpyf | cpyg => exact h.copyCommand
  | mma | mmaa => exact h.matrixCommand
  | cput | cget | csig | cgath | crsc | card | cbcst => exact h.chaferCommand
  | clauseIssue => exact .next h.clauseIssueStep
  | pageWalk => exact .next h.translate
  | pcfgResize | pcfgCancel => exact .next h.pcfgCmd
  | replay => exact .next (h.post fun x _ s1 h1 => h1.replayLane)
  | killLane => exact .next (h.post fun x _ s1 h1 => h1.killLane)
  | killLaunch => exact .next (h.post fun x _ s1 h1 => h1.killLaunch)
  | ownershipLapse => exact .next h.lapse
  | coreClockChange => exact .next h
  | powerFail => exact .next h.modDevice
  | coldReset => exact .next ⟨Memory.filter_wf _ _ h.1, filter_wf _ _ _ h.2.1, fun _ hb => nomatch hb⟩
  | trap => exact h.execWord fun c1 w s1 h1 => h1.trapAt
  | tkill => exact h.execWord fun c w s1 h1 => h1.handlers.foldl fun s2 x h2 => h2.killBy
  | tesc => exact h.execWord fun c1 w s1 h1 => h1.handlers.foldl fun s2 x h2 => h2.escalateBy
  | gettime => exact h.execWord fun c w s1 h1 => h1.gates.readClock
  | bscale => exact execBscale_canonical h
  | shfl => exact execShfl_canonical h
  | lane => exact execLane_canonical h
  | sread => exact execSread_canonical h
  | bru => exact execBru_canonical h
  | exit => exact execExit_canonical h
  | kset => exact execKset_canonical h
  | kop => exact execKop_canonical h
  | waitc => exact execWaitc_canonical h
  | yield => exact execYield_canonical h
  | bar => exact execBar_canonical h
  | bara => exact execBara_canonical h
  | barw => exact execBarw_canonical h
  | bari => exact execBari_canonical h
  | ldMx => exact execLdMx_canonical h
  | stMx => exact execStMx_canonical h
  | pref => exact execPref_canonical h
  | fe => exact execFe_canonical h
  | satom => exact execSatom_canonical h
  | ratom => exact execRatom_canonical h
  | qcfg => exact execQcfg_canonical h
  | qpush => exact execQpush_canonical h
  | qpop => exact execQpop_canonical h
  | fence => exact execFence_canonical h
  | launch => exact execLaunch_canonical h
  | launchAppendComplete => exact execLaunchAppendComplete_canonical h
  | bucketRelease => exact execBucketRelease_canonical h
  | atomicPerform => exact execAtomicPerform_canonical h
  | loadReturn => exact execLoadReturn_canonical h
  | ratomPerform => exact execRatomPerform_canonical h
  | leaseWaitEnd => exact execLeaseWaitEnd_canonical h
  | mantisRegistration => exact execMantisRegistration_canonical h
  | mantisTimeout => exact execMantisTimeout_canonical h
  | contextReevaluation => exact execContextReevaluation_canonical h
  | tdset => exact execTdset_canonical h
  | copyCommandComplete => exact execCopyCommandComplete_canonical h
  | cpys => exact execCpys_canonical h
  | ald => exact execAld_canonical h
  | ast => exact execAst_canonical h
  | aclr => exact execAclr_canonical h
  | setaw => exact execSetaw_canonical h
  | qinit => exact execQinit_canonical h
  | platenStart => exact execPlatenStart_canonical h
  | platenComplete => exact execPlatenComplete_canonical h
  | acpy => exact execAcpy_canonical h
  | cgrp => exact execCgrp_canonical h
  | collectiveChunkArrival => exact execCollectiveChunkArrival_canonical h
  | collectiveAbort => exact execCollectiveAbort_canonical h
  | chaferOperationComplete => exact execChaferOperationComplete_canonical h
  | globalLoadPerform => exact execGlobalLoadPerform_canonical h
  | writePerform => exact execWritePerform_canonical h
  | scratchpadBankAccess => exact execScratchpadBankAccess_canonical h
  | lineFill => exact execLineFill_canonical h
  | podResponse => exact execPodResponse_canonical h
  | podRequestTimeout => exact execPodRequestTimeout_canonical h
  | ualinkPortDown => exact execUalinkPortDown_canonical h
  | ualinkPortUp => exact execUalinkPortUp_canonical h
  | acceleratorIdAssign => exact execAcceleratorIdAssign_canonical h
  | ppodCtlWrite => exact execPpodCtlWrite_canonical h
  | ppodFlush => exact execPpodFlush_canonical h
  | podRequestReceive => exact execPodRequestReceive_canonical h
  | streamStart => exact execStreamStart_canonical h
  | streamSerialUpdate => exact execStreamSerialUpdate_canonical h
  | streamStop => exact execStreamStop_canonical h
  | schedulerStreamRead => exact execSchedulerStreamRead_canonical h
  | gateRegistration => exact execGateRegistration_canonical h
  | launchAdmit => exact execLaunchAdmit_canonical h
  | blockPlace => exact execBlockPlace_canonical h
  | blockSave => exact execBlockSave_canonical h
  | blockRestore => exact execBlockRestore_canonical h
  | blockFlush => exact execBlockFlush_canonical h
  | handlerWaveForm => exact execHandlerWaveForm_canonical h
  | launchRetire => exact execLaunchRetire_canonical h
  | cellRemoval => exact execCellRemoval_canonical h
  | sliceRemoval => exact execSliceRemoval_canonical h
  | channelGroupRemoval => exact execChannelGroupRemoval_canonical h
  | bucketWrite => exact execBucketWrite_canonical h
  | shootdownStart => exact execShootdownStart_canonical h
  | shootdownComplete => exact execShootdownComplete_canonical h
  | scSnap => exact execScSnap_canonical h
  | queueLostClear => exact execQueueLostClear_canonical h
  | hmArm => exact execHmArm_canonical h
  | hmDisarm => exact execHmDisarm_canonical h
  | hmStatusClear => exact execHmStatusClear_canonical h
  | replayRange => exact execReplayRange_canonical h
  | registerWrite => exact execRegisterWrite_canonical h
  | cxlMemRead => exact execCxlMemRead_canonical h
  | cxlMemWrite => exact execCxlMemWrite_canonical h
  | hostSnoop => exact execHostSnoop_canonical h
  | ownClaim => exact execOwnClaim_canonical h
  | ownBeat => exact execOwnBeat_canonical h
  | ownOffer => exact execOwnOffer_canonical h
  | ownAccept => exact execOwnAccept_canonical h
  | attCmd => exact execAttCmd_canonical h
  | attestationComplete => exact execAttestationComplete_canonical h
  | securityAlarm => exact execSecurityAlarm_canonical h
  | rfmIssue => exact execRfmIssue_canonical h
  | periodicRefresh => exact execPeriodicRefresh_canonical h
  | activationHold => exact execActivationHold_canonical h
  | logRecordProgram => exact execLogRecordProgram_canonical h
  | temperatureThreshold => exact execTemperatureThreshold_canonical h
  | voltageDroop => exact execVoltageDroop_canonical h
  | dataRateChange => exact execDataRateChange_canonical h
  | lifetimeHistogramUpdate => exact execLifetimeHistogramUpdate_canonical h
  | fwLoad => exact execFwLoad_canonical h
  | fwUpdate => exact execFwUpdate_canonical h
  | fwImageVerified => exact execFwImageVerified_canonical h
  | functionLevelReset => exact execFunctionLevelReset_canonical h
  | tres => exact execTres_canonical h
  | csrr => exact execCsrr_canonical h
  | csrw => exact execCsrw_canonical h
  | setmode => exact execSetmode_canonical h

theorem runWord_canonical {s : State} (h : s.canonical) : CanonicalNext (runWord s) := by
  unfold runWord
  split
  · exact .next h
  · split
    · exact exec_canonical h
    · exact .next h.execIllegal

theorem attempt_canonical {i : Issue} {s : State} (h : s.canonical) : CanonicalNext (attempt i s) := by
  obtain ⟨t, ht, hc⟩ := runWord_canonical (h.partHeld (i := i) |>.takeIssue (id := i.id))
  exact ⟨t.afterWord, by rw [attempt, ht], hc.afterWord⟩

theorem coIssue_canonical {addr : Nat} {ms : List WaveRef} {s : State} (h : s.canonical) : CanonicalNext (coIssue addr ms s) := by
  induction ms generalizing s with
  | nil => exact .next h
  | cons m ms ih =>
    unfold coIssue
    split
    · exact ih h
    · next i _ =>
      obtain ⟨t, ht, hc⟩ := attempt_canonical (i := i) h
      rw [ht]
      exact ih hc

theorem cycleWith_canonical {core quarter : Nat} {rs : List WaveRef} {s : State} (h : s.canonical) :
    CanonicalNext (cycleWith core quarter rs s) := by
  induction rs generalizing s with
  | nil => exact .next h.settle
  | cons r rs ih =>
    unfold cycleWith
    split
    · next i _ =>
      obtain ⟨t, ht, hc⟩ := attempt_canonical (i := i) h
      simp only [ht]
      split
      · exact ih hc
      · exact coIssue_canonical hc.noteIssue.beginMates
    · have hp : (s.plan r).2.canonical := h.plan
      split
      · next e => exact .next (canonicalOf2 e hp).beginIssue.beginMates.settle
      · next e => exact ih (canonicalOf2 e hp)

theorem step_canonical {s : State} (h : s.canonical) : CanonicalNext (step s) := by
  unfold step
  split
  · exact cycleWith_canonical h
  · exact cycleWith_canonical h.update
  · next e ts _ =>
    obtain ⟨t, ht, hc⟩ := exec_canonical (i := e) (h.update : State.canonical { s with turns := ts, cur := none })
    exact ⟨t.settle, by rw [ht]; rfl, hc.settle⟩
  · exact .next (h.update : State.canonical { s with clock := _, turns := _ }).settle

end Sys2Proof.Machine

namespace Sys2Proof.Proofs

open Sys2Proof.Machine

/-- Settles O8: each operation that writes memory, side bytes, a scratchpad or an accumulator keeps the one it writes in canonical form; every
instruction, every step of the device and every turn is made of such operations. -/
theorem stepKeepsStorageCanonical : Obligations.StepKeepsStorageCanonical := by
  intro s t h ht
  obtain ⟨u, hu, hc⟩ := step_canonical h
  exact Host.Outcome.next.inj (hu.symm.trans ht) ▸ hc

end Sys2Proof.Proofs
end

section
/-! SUPPORT. The system registers of a wave (R407 to R409). -/

namespace Sys2Proof.Machine

/-- The gates of the elected lane alone, whose registers are full. -/
theorem gates_elected {s : State} {c : Ctx} {w : Wave} {e : Nat} {vr ts : List Nat} (h : w.allFull [e] vr) :
    s.gates c w (fun _ => vr.map (fun n => (e, n))) ts = (ts, s) := by
  refine gates_go fun _ _ => gate_go fun n hn x hx => ?_
  obtain ⟨r, hr, rfl⟩ := List.mem_map.1 hn
  exact h e (by simp) x hx r hr

/-- The wave's own system registers are reachable from every wave. -/
theorem sysReachable_own {s : State} {c : Ctx} {n : Nat} (h : n < 4) : s.sysReachable c n = true := by
  simp [State.sysReachable, h]

theorem ownRegister_cases {n : BitVec 9} (hn : n.toNat < 4) : n = 0 ∨ n = 1 ∨ n = 2 ∨ n = 3 := by
  bv_omega

/-- The system registers of a wave, by their fields (Tables 3.13 and 3.14). -/
theorem sysValue_eq (w : Wave) {n : BitVec 9} (hn : n.toNat < 4) : w.sysValue n.toNat =
    if n = 0 then w.round + 4 * w.fair + (if w.irdan then 2 ^ 19 else 0)
    else if n = 1 then w.fflags.toNat
    else if n = 2 then 2 ^ 16 * w.awLimit + w.awBase
    else 2 ^ 12 * w.ocCol + 2 ^ 8 * w.ocMtx + 2 ^ 4 * w.ocCpy + w.ocMem := by
  rcases ownRegister_cases hn with rfl | rfl | rfl | rfl <;> simp [Wave.sysValue, Wave.modeWord, Nat.mul_comm]

/-- What a write changes: MODE and FFLAGS, and nothing in a read-only register. -/
theorem writeSys_eq (w : Wave) {n : BitVec 9} (hn : n.toNat < 4) (v : Word) : w.writeSys n.toNat v =
    if n = 0 then { w with round := v.toNat % 4, fair := max 16 (min 65536 (v.toNat / 4 % 2 ^ 17)) }
    else if n = 1 then { w with fflags := BitVec.ofNat 5 v.toNat }
    else w := by
  rcases ownRegister_cases hn with rfl | rfl | rfl | rfl <;> simp [Wave.writeSys, bitsOf, clampFair]

section Alone

variable {s : State} {c : Ctx} {w : Wave} (h : Alone s c w) {g : BitVec 4}

include h

/-- `csrr` of a system register of the wave itself. -/
theorem exec_csrr_own {d : BitVec 6} {n : BitVec 9} (hn : n.toNat < 4) (hi : LegalFor (.csrr d n g) [d.toNat] [] w)
    (hf : w.allFull (c.t w g) [d.toNat]) :
    exec (.csrr d n g) s =
      .next (s.modWave c.r (fun v => v.applyEffs (c.t w g) (fun _ => effW d (BitVec.ofNat 32 (w.sysValue n.toNat))))) := by
  have hg : s.gates c w (fun l => [(l, d.toNat)]) (c.t w g) = (c.t w g, s) := gates_full (vr := [d.toNat]) hf
  refine (execWord_alone h hi rfl).trans ?_
  simp [sysReachable_own hn, hg, hn]

/-- `csrw` of a system register of the wave itself, by the elected lane. -/
theorem exec_csrw_own {a : BitVec 7} {n : BitVec 9} (hn : n.toNat < 4) (hi : LegalFor (.csrw a n g) (aVec a false) (aScal a false) w)
    (ht : c.t w g ≠ []) (hf : w.allFull [(c.t w g).headD 0] (aVec a false)) :
    exec (.csrw a n g) s = .next (s.modWave c.r (fun v => v.writeSys n.toNat (w.opA ((c.t w g).headD 0) a))) := by
  refine (execWord_alone h hi rfl).trans ?_
  simp only [sysReachable_own hn, gates_elected hf, hn, List.isEmpty_iff, ht, Bool.not_true, Bool.false_eq_true, if_false, if_true]

/-- `setmode`, by the elected lane. -/
theorem exec_setmode {a : BitVec 7} {k : BitVec 2} (hi : LegalFor (.setmode a k g) (aVec a false) (aScal a false) w)
    (ht : c.t w g ≠ []) (hf : w.allFull [(c.t w g).headD 0] (aVec a false)) :
    exec (.setmode a k g) s = .next (s.modWave c.r (fun v =>
      if k = 0 then { v with round := bitsOf (w.opA ((c.t w g).headD 0) a).toNat 0 2 }
      else { v with fair := clampFair (w.opA ((c.t w g).headD 0) a).toNat })) := by
  refine (execWord_alone h hi rfl).trans ?_
  simp only [gates_elected hf, List.isEmpty_iff, ht, if_false]

end Alone

end Sys2Proof.Machine

namespace Sys2Proof.Proofs

open Sys2Proof.Machine

/-- Settles O26: `csrr` is a lane instruction on the wave's own register; `csrw` and `setmode` change the wave as the elected lane's operand
says. -/
theorem systemRegisters : Obligations.SystemRegisters := by
  intro s c w d a n g h hn
  refine ⟨fun hi hf => ?read, fun hi ht hf => ?write, fun k hi ht hf => ?mode⟩
  case read =>
    refine ⟨_, exec_csrr_own h hn hi hf, ?_⟩
    rw [sysValue_eq w hn]
    exact applyEffs_written w _ _ (fun _ => by simp [effW]) fun _ => by simp [effW]
  case write => exact ⟨_, exec_csrw_own h hn hi ht hf, writeSys_eq w hn _⟩
  case mode => exact ⟨_, exec_setmode h hi ht hf, by simp [bitsOf, clampFair]⟩

end Sys2Proof.Proofs
end

section
/-! SUPPORT. The registers of a handler lane's origin (R407, R408). -/

namespace Sys2Proof.Machine

/-- Effects that agree on the lanes of T are the same effect. -/
theorem applyEffs_congr {w : Wave} {ts : List Nat} {f g : Nat → LaneEff} (h : ∀ l ∈ ts, f l = g l) :
    w.applyEffs ts f = w.applyEffs ts g := by
  have hl : (fun i (x : Lane) => if ts.contains i then x.apply (f i) else x) = fun i x => if ts.contains i then x.apply (g i) else x := by
    funext i x
    split
    · next hi => rw [h i (by simpa using hi)]
    · rfl
  have hf : ∀ a : Flags, ts.foldl (fun fl l => fl ||| (f l).flags) a = ts.foldl (fun fl l => fl ||| (g l).flags) a :=
    fun a => List.foldl_ext _ _ _ fun b l hl => by rw [h l hl]
  simp only [Wave.applyEffs, hl, hf]

theorem testBit_evenPart (n p : Nat) : (n / 2 * 2).testBit p = (decide (1 ≤ p) && n.testBit p) := by
  cases p with
  | zero => simp [Nat.testBit_zero]
  | succ p => simp [Nat.testBit_succ]

/-- The low half of a lane's predicates written, but for p0 (Table 3.13). -/
theorem pred_lowWritten (x : Lane) (v : Word) (p : Nat) :
    ({ x with preds := setBits x.preds 0 32 (v.toNat / 2 * 2) } : Lane).pred p = if 1 ≤ p ∧ p < 32 then v.getLsbD p else x.pred p := by
  simp only [Lane.pred, testBit_setBits, testBit_evenPart, Nat.zero_le, true_and, Nat.zero_add, Nat.sub_zero, BitVec.testBit_toNat]
  cases p with
  | zero => simp
  | succ p => by_cases hp : p + 1 < 32 <;> simp [hp]

/-- The high half of a lane's predicates written (Table 3.13). -/
theorem pred_highWritten (x : Lane) (v : Word) (p : Nat) :
    ({ x with preds := setBits x.preds 32 32 v.toNat } : Lane).pred p = if 32 ≤ p ∧ p < 64 then v.getLsbD (p - 32) else x.pred p := by
  simp only [Lane.pred, testBit_setBits, BitVec.testBit_toNat]
  by_cases hp : 32 ≤ p ∧ p < 64
  · simp [hp, show p ≠ 0 by omega]
  · simp [hp]

/-- A register of a lane written. -/
theorem writeV_written (x : Lane) (r : Nat) (z : Word) : LaneWritten x (x.writeV r z) { regs := [(r, z)] } :=
  lane_apply x { regs := [(r, z)] } (by simp) (by simp)

/-- The origin registers of a lane, by their numbers (Table 3.13). -/
def originRead (x : Lane) (i : TrapInfo) (n : BitVec 9) : Word :=
  if n.toNat < 0x140 then x.reg (n.toNat - 0x100)
  else if n = 0x140 then BitVec.ofNat 32 (x.preds ||| 1)
  else if n = 0x141 then BitVec.ofNat 32 (x.preds / 2 ^ 32)
  else i.vpc

/-- What a write of an origin register makes of the origin (R408). -/
def originWritten (n : Nat) (v : Word) (x : Lane) : Lane :=
  if n < 0x140 then x.writeV (n - 0x100) v
  else if n = 0x140 then { x with preds := setBits x.preds 0 32 (v.toNat / 2 * 2) }
  else if n = 0x141 then { x with preds := setBits x.preds 32 32 v.toNat }
  else { x with vpc := v, slot := 0, trap := x.trap.map (fun i => { i with vpc := v, slot := 0 }) }

section Origin

variable {s : State} {c : Ctx} {w : Wave} {core q l : Nat} {h x : Lane} {o : Origin} {i : TrapInfo} {la : Launch} {n : BitVec 9} {g : BitVec 4}
  (ha : Alone s c w) (hr : c.r = .hdl core q) (hw : w.lanes[l]? = some h) (ho : h.origin = some o)
  (hx : s.lane? (.blk o.uid o.wave) o.lane = some x) (hl : s.launchOf c.r = some la) (hlo : 0x100 ≤ n.toNat) (hhi : n.toNat ≤ 0x142)
  (hreg : n.toNat < 0x140 → n.toNat - 0x100 < la.record.vregs ∧ x.isFull (n.toNat - 0x100) = true)

include ha hw ho hx in
theorem originLane_eq : s.originLane c.r l = some (o, x) := by
  have hlane : s.lane? c.r l = some h := by simp [State.lane?, ha.wave, Wave.lane?, hw]
  simp [State.originLane, hlane, ho, hx]

include hr hl hlo hhi hreg in
/-- Each of its origin's registers is reachable from a handler lane. -/
theorem sysReachable_origin : s.sysReachable c n.toNat = true := by
  have hn : 0x140 ≤ n.toNat ∨ n.toNat - 0x100 < la.record.vregs := (Nat.lt_or_ge n.toNat 0x140).symm.imp id fun hn => (hreg hn).1
  have hh : isHandler c.r = true := by rw [hr]; rfl
  simp [State.sysReachable, hh, hlo, hhi, hl, hn]

include ha hw ho hx hreg in
/-- A full register of the origin holds no access back. -/
theorem originGate_full (reads : Bool) :
    (if n.toNat < 0x140 then s.originGate c l (n.toNat - 0x100) reads else .go) = .go := by
  split
  · next hn => simp [State.originGate, originLane_eq ha hw ho hx, (hreg hn).2]
  · rfl

theorem originRegister_cases (hn : ¬ n.toNat < 0x140) (hhi : n.toNat ≤ 0x142) : n = 0x140 ∨ n = 0x141 ∨ n = 0x142 := by
  bv_omega

include ha hw ho hx hhi in
theorem originValue_eq (hi : x.trap = some i) : BitVec.ofNat 32 (s.originValue c l n.toNat) = originRead x i n := by
  simp only [State.originValue, originLane_eq ha hw ho hx, originRead]
  split
  · simp
  · next hn =>
    rcases originRegister_cases hn hhi with rfl | rfl | rfl
    · exact BitVec.eq_of_toNat_eq (by simp [Lane.predBits, -BitVec.ofNat_or])
    · have hp : (x.preds ||| 1) / 4294967296 = x.preds / 4294967296 := by
        rw [show 4294967296 = 2 ^ 32 from rfl, Nat.or_div_two_pow]; simp
      exact BitVec.eq_of_toNat_eq (by simp [Lane.predBits, -BitVec.ofNat_or, hp])
    · simp [hi]

include ha hw ho hx in
theorem writeOrigin_eq (v : Word) :
    s.writeOrigin c l n.toNat v = s.modLane (.blk o.uid o.wave) o.lane (originWritten n.toNat v) := by
  simp only [State.writeOrigin, originLane_eq ha hw ho hx]
  rfl

include ha hr hw ho hx hl hlo hhi hreg

/-- `csrr` of a register of the origin, by the one lane of T. -/
theorem exec_csrr_origin (ht : c.t w g = [l]) (hi : x.trap = some i) {d : BitVec 6} (hlegal : LegalFor (.csrr d n g) [d.toNat] [] w)
    (hd : h.isFull d.toNat = true) :
    exec (.csrr d n g) s = .next (s.modWave c.r (fun v => v.applyEffs [l] (fun _ => effW d (originRead x i n)))) := by
  have hf : w.allFull [l] [d.toNat] := by
    intro m hm y hy r hrd
    cases List.mem_singleton.1 hm
    cases List.mem_singleton.1 hrd
    cases hw.symm.trans hy
    exact hd
  have hg : s.gates c w (fun l => [(l, d.toNat)]) [l] = ([l], s) := gates_full (vr := [d.toNat]) hf
  have hgate := originGate_full ha hw ho hx hreg true
  refine (execWord_alone ha hlegal rfl).trans ?_
  have hn : ¬ n.toNat < 4 := by omega
  simp only [sysReachable_origin hr hl hlo hhi hreg, ht, hg, hn, Bool.not_true, Bool.false_eq_true, if_false, List.filter_cons, hgate,
    List.filter_nil, List.foldl_cons, List.foldl_nil, State.passGate, beq_self_eq_true, if_true]
  refine congrArg _ (congrArg _ (funext fun v => applyEffs_congr fun m hm => ?_))
  rw [List.mem_singleton.1 hm, originValue_eq ha hw ho hx hhi hi]

/-- `csrw` of a register of the origin, by the one lane of T. -/
theorem exec_csrw_origin (ht : c.t w g = [l]) {a : BitVec 7} (hlegal : LegalFor (.csrw a n g) (aVec a false) (aScal a false) w)
    (hf : w.allFull [l] (aVec a false)) :
    exec (.csrw a n g) s = .next (s.modLane (.blk o.uid o.wave) o.lane (originWritten n.toNat (w.opA l a))) := by
  have hg := gates_full (s := s) (c := c) hf
  have hgate := originGate_full ha hw ho hx hreg false
  have hn : ¬ n.toNat < 4 := by omega
  refine (execWord_alone ha hlegal rfl).trans ?_
  simp only [sysReachable_origin hr hl hlo hhi hreg, ht, hg, hn, Bool.not_true, Bool.false_eq_true, if_false, hgate, List.foldl_cons,
    List.foldl_nil, beq_self_eq_true, if_true, writeOrigin_eq ha hw ho hx]

end Origin

end Sys2Proof.Machine

namespace Sys2Proof.Proofs

open Sys2Proof.Machine

/-- Settles O27: the handler lane's gate on the full register lets both go on; a read is an effect on the handler lane, a write one change of
the origin lane. -/
theorem originRegisters : Obligations.OriginRegisters := by
  intro s c w core q l h x o i d n a g la ha hr ht hw ho hx hi hl hlo hhi hreg
  refine ⟨fun hlegal hd => ?read, fun hlegal hf => ?write⟩
  case read =>
    exact ⟨_, exec_csrr_origin ha hr hw ho hx hl hlo hhi hreg ht hi hlegal hd,
      applyEffs_written w _ _ (fun _ => by simp [effW]) fun _ => by simp [effW]⟩
  case write =>
    refine ⟨_, originWritten n.toNat (w.opA l a) x, exec_csrw_origin ha hr hw ho hx hl hlo hhi hreg ht hlegal hf, ⟨_, rfl⟩, fun m hm => ?_,
      ?_, fun hn => ?_, ?_, ?_, ?_⟩
    · rw [State.lane?_modLane, if_neg (Ne.symm hm)]
    · rw [State.lane?_modLane, if_pos rfl, hx]; rfl
    · rw [originWritten, if_pos hn]; exact writeV_written ..
    · rintro rfl; exact ⟨rfl, pred_lowWritten x _⟩
    · rintro rfl; exact ⟨rfl, pred_highWritten x _⟩
    · rintro rfl; simp [originWritten, hi]

end Sys2Proof.Proofs
end

section
/-! SUPPORT. Traps that lanes of a block's wave take in a launch with a trap entry (R393, R394, R402, R404). -/

namespace Sys2Proof.Machine

/-- A lane that takes a trap, natively or in Irdan-mode (R394, R402). -/
def Lane.trapEntered (irdan : Bool) (entry : Word) (i : TrapInfo) (x : Lane) : Lane :=
  if irdan then { x with state := .active, inTrap := some i, vpc := entry, slot := 0 }
  else { x with state := .trapped, vpc := i.vpc, slot := i.slot, trap := some i }

/-- The launch of a wave, where a trap of the wave has been counted. -/
theorem launchOf_trapCounted {s : State} {r : WaveRef} {la : Launch} (h : s.launchOf r = some la) (l : Nat) :
    (s.trapCounted la r l).launchOf r = some { la with traps := sat32 (la.traps + 1) } := by
  obtain ⟨n, hn, hla⟩ := Option.bind_eq_some_iff.1 h
  have hl := State.launch?_modLaunch s.fresh.2 la.lid n (fun x => { x with traps := sat32 (x.traps + 1) }) (fun _ => rfl)
  rw [show s.fresh.2.launch? n = some la from hla] at hl
  have hk : (s.trapCounted la r l).launchKey r = some n := by rw [← hn]; cases r <;> rfl
  simp only [State.launchOf, hk, Option.bind_some]
  exact hl.trans (by simp)

theorem nowOf_modWave (s : State) (r q : WaveRef) (f : Wave → Wave) : (s.modWave r f).nowOf q = s.nowOf q := by
  simp only [State.nowOf, State.leaseNow, coreOf_modWave, State.modWave_clock]

theorem nowOf_trapCounted (s : State) (la : Launch) (r : WaveRef) (l : Nat) : (s.trapCounted la r l).nowOf r = s.nowOf r := by
  cases r <;> rfl

/-- A trap that a block's lane takes in a launch with a trap entry: it is counted, and the lane is trapped or, in Irdan-mode, at the entry. -/
theorem takeTrap_entry {s : State} {uid j l : Nat} {la : Launch} {entry : Word} (hla : s.launchOf (.blk uid j) = some la)
    (he : la.record.entryOfTraps = some entry) {cause : Nat} (hc : cause ≠ 0x08)
    (hin : la.record.irdan = true → ∀ x, s.lane? (.blk uid j) l = some x → x.inTrap = none) (vpc : Word) (slot detail addr : Nat) :
    s.takeTrap (.blk uid j) l vpc slot cause detail addr =
      (s.trapCounted la (.blk uid j) l).modLane (.blk uid j) l (Lane.trapEntered la.record.irdan entry
        ⟨cause, detail, addr, vpc, slot, s.nowOf (.blk uid j), s.next, .awaiting⟩) := by
  have hagain : (la.record.irdan && (((s.trapCounted la (.blk uid j) l).lane? (.blk uid j) l).map (·.inTrap.isSome)).getD false) = false := by
    change (la.record.irdan && ((s.lane? (.blk uid j) l).map (·.inTrap.isSome)).getD false) = false
    by_cases hi : la.record.irdan = true
    · cases hx : s.lane? (.blk uid j) l with
      | none => simp
      | some x => simp [hin hi x hx]
    · simp [hi]
  unfold State.takeTrap
  simp only [hla, he, Option.isNone_some, Bool.or_false, beq_eq_false_iff_ne.2 hc, Bool.false_or, Option.getD_some]
  rw [if_neg (by simpa [State.trapCounted, State.fresh] using hagain)]
  by_cases hi : la.record.irdan = true
  · simp only [hi, if_true]
    rfl
  · simp only [hi]
    rfl

/-- Lanes of a wave have taken the trap `info` one after the other, each under an order of its own. -/
structure TrapsTaken (s t : State) (r : WaveRef) (w : Wave) (la : Launch) (entry : Word) (info : Nat → TrapInfo) (ls : List Nat) : Prop where
  wave : ∃ v, t.wave? r = some v ∧ v = { w with lanes := v.lanes } ∧ (∀ l, l ∉ ls → v.lanes[l]? = w.lanes[l]?) ∧
    ∀ l ∈ ls, ∀ x, w.lanes[l]? = some x → ∃ n, s.next ≤ n ∧ v.lanes[l]? = some (x.trapEntered la.record.irdan entry (info n))
  others : ∀ q, q ≠ r → t.wave? q = s.wave? q
  issues : t.issues = (s.dropFromIssues r ls).issues
  counted : (t.launchOf r).map (·.traps) = some (if ls = [] then la.traps else min (la.traps + ls.length) (2 ^ 32 - 1))
  rest : t.mem = s.mem ∧ t.parts = s.parts ∧ t.device = s.device ∧ t.memOps = s.memOps ∧ t.engOps = s.engOps ∧ t.outputs = s.outputs

theorem takeTraps_entry {s : State} {uid j : Nat} {w : Wave} {la : Launch} {entry : Word} (hw : s.wave? (.blk uid j) = some w)
    (hla : s.launchOf (.blk uid j) = some la) (he : la.record.entryOfTraps = some entry) {cause : Nat} (hc : cause ≠ 0x08) {ls : List Nat}
    (hn : ls.Nodup) (hin : la.record.irdan = true → ∀ l ∈ ls, ∀ x, w.lanes[l]? = some x → x.inTrap = none) (vpc : Word)
    (slot detail addr : Nat) :
    TrapsTaken s (s.takeTraps (.blk uid j) ls vpc slot cause detail addr) (.blk uid j) w la entry
      (fun n => ⟨cause, detail, addr, vpc, slot, s.nowOf (.blk uid j), n, .awaiting⟩) ls := by
  induction ls generalizing s w la with
  | nil =>
    exact ⟨⟨w, hw, rfl, fun _ _ => rfl, fun l hl => nomatch hl⟩, fun _ _ => rfl, congrArg State.issues (dropFromIssues_nil s _).symm,
      by simp [State.takeTraps, hla], rfl, rfl, rfl, rfl, rfl, rfl⟩
  | cons l ls ih =>
    obtain ⟨hl, hn⟩ := List.nodup_cons.1 hn
    have hstep := takeTrap_entry hla he hc (l := l) (fun hi x hx => hin hi l (by simp) x (by simpa [State.lane?, hw, Wave.lane?] using hx))
      vpc slot detail addr
    generalize hF : Lane.trapEntered la.record.irdan entry ⟨cause, detail, addr, vpc, slot, s.nowOf (.blk uid j), s.next, .awaiting⟩ = F at hstep
    set s1 := s.takeTrap (.blk uid j) l vpc slot cause detail addr with hs1
    have hw1 : s1.wave? (.blk uid j) = some (w.modLane l F) := by
      rw [hstep, State.modLane, State.wave?_modWave]
      exact congrArg (Option.map _) hw
    have hla1 : s1.launchOf (.blk uid j) = some { la with traps := sat32 (la.traps + 1) } := by
      rw [hstep, State.modLane, launchOf_modWave, launchOf_trapCounted hla]
    have hnow : s1.nowOf (.blk uid j) = s.nowOf (.blk uid j) := by
      rw [hstep, State.modLane, nowOf_modWave, nowOf_trapCounted]
    have hin1 : la.record.irdan = true → ∀ m ∈ ls, ∀ x, (w.modLane l F).lanes[m]? = some x → x.inTrap = none := by
      intro hi m hm x hx
      rw [Wave.modLane_lanes, getElem?_modifyAt, if_neg (fun e : l = m => hl (e ▸ hm))] at hx
      exact hin hi m (by simp [hm]) x hx
    obtain ⟨⟨v, hv, hvrest, hout, hinside⟩, hothers, hissues, hcount, hrest⟩ := ih hw1 hla1 he hn hin1
    rw [hnow] at hinside
    refine ⟨⟨v, hv, hvrest.trans rfl, fun m hm => ?_, fun m hm x hx => ?_⟩, fun q hq => ?_, ?_, ?_, ?_⟩
    · rw [hout m (fun h => hm (by simp [h])), Wave.modLane_lanes, getElem?_modifyAt, if_neg (fun e => hm (by simp [e]))]
    · by_cases hml : m = l
      · subst hml
        refine ⟨s.next, le_refl _, ?_⟩
        rw [hout m hl, Wave.modLane_lanes, getElem?_modifyAt, if_pos rfl, hx, hF]
        rfl
      · obtain ⟨n, hle, hy⟩ := hinside m (by simpa [hml] using hm) x (by
          rw [Wave.modLane_lanes, getElem?_modifyAt, if_neg (Ne.symm hml), hx])
        refine ⟨n, le_trans ?_ hle, hy⟩
        rw [hstep, State.modLane_next]
        exact Nat.le_succ _
    · refine (hothers q hq).trans ?_
      rw [hstep, State.modLane, State.wave?_modWave_ne _ _ _ _ hq]
      cases q <;> rfl
    · have h1 : s1.issues = (s.dropFromIssues (.blk uid j) [l]).issues := by rw [hstep, State.modLane_issues]; rfl
      rw [← List.singleton_append, ← dropFromIssues_append]
      refine hissues.trans ?_
      simp only [State.dropFromIssues_issues, h1]
    · refine hcount.trans ?_
      simp only [sat32, List.length_cons]
      split
      · next h => simp [h]
      · simp; omega
    · obtain ⟨hmem, hparts, hdevice, hmemOps, hengOps, houtputs⟩ := hrest
      exact ⟨hmem.trans ((congrArg State.mem hstep).trans (State.modLane_mem ..)),
        hparts.trans ((congrArg State.parts hstep).trans (State.modLane_parts ..)),
        hdevice.trans ((congrArg State.device hstep).trans (State.modLane_device ..)),
        hmemOps.trans ((congrArg State.memOps hstep).trans (State.modLane_memOps ..)),
        hengOps.trans ((congrArg State.engOps hstep).trans (State.modLane_engOps ..)),
        houtputs.trans ((congrArg State.outputs hstep).trans (State.modLane_outputs ..))⟩

end Sys2Proof.Machine

namespace Sys2Proof.Proofs

open Sys2Proof.Machine

/-- Settles O35: `trap` takes the trap in the lanes of T one after the other, and each is the same change of a lane and one count more. -/
theorem softwareTrap : Obligations.SoftwareTrap := by
  intro k g s c w uid j la entry h hi hr hn hla he hin
  have hw := h.wave
  have hexec := exec_trap h hi
  rw [hr] at hw hla hexec ⊢
  obtain ⟨⟨v, hv, hrest, hout, hinside⟩, hothers, hissues, hcount, hmem, hparts, hdevice, hmemOps, hengOps, houtputs⟩ :=
    takeTraps_entry hw hla he (cause := 0x0E) (by decide) (hn.filter _) hin c.hdr c.slot k.toNat 0
  exact ⟨_, v, hexec, hv, hrest, hout, hinside, hothers, hissues, hcount, hmem, hparts, hdevice, hmemOps, hengOps, houtputs⟩

end Sys2Proof.Proofs
end

section
/-! SUPPORT. Lanes that no Mantis entry holds, of blocks and of handler waves, are kept by what memory, its walks and its queues do. -/

namespace Sys2Proof.Machine

/-- Every lane of a state that no Mantis entry holds is in another as it was, and so are the clause issues and the record of every wave's
launch. -/
structure State.Awake (s0 s : State) : Prop where
  lanes : ∀ (r : WaveRef) (l : Nat) (x : Lane), s0.lane? r l = some x → (∀ n, x.state ≠ .waitMantis n) → s.lane? r l = some x
  issues : s.issues = s0.issues
  record : ∀ r, (s.launchOf r).map (·.record) = (s0.launchOf r).map (·.record)

theorem State.Awake.refl (s : State) : s.Awake s := ⟨fun _ _ _ h _ => h, rfl, fun _ => rfl⟩

/-- Nothing but blocks, cores, launches and clause issues counts. -/
theorem State.Awake.update {s0 s : State} (h : s0.Awake s) {clock mem side poisonMem parts slices remains memOps engOps entries
    podReqs pendingWrites device outputs turns focus cur stay next draws} :
    s0.Awake ⟨clock, mem, side, poisonMem, parts, slices, s.cores, s.launches, s.blocks, remains, s.issues, memOps, engOps, entries,
      podReqs, pendingWrites, device, outputs, turns, focus, cur, stay, next, draws⟩ where
  lanes r l x hx hn := by cases r <;> exact h.lanes _ l x hx hn
  issues := h.issues
  record r := by
    rw [← h.record r]
    cases r <;> rfl

theorem State.Awake.foldl {α : Type} {f : State → α → State} {s0 s : State} {l : List α} (h : s0.Awake s)
    (hf : ∀ s x, s0.Awake s → s0.Awake (f s x)) : s0.Awake (l.foldl f s) := by
  induction l generalizing s with
  | nil => exact h
  | cons x xs ih => exact ih (hf s x h)

theorem awakeFoldl2 {α β : Type} {f : β × State → α → β × State} {s0 : State} {a : β × State} {l : List α} (h : s0.Awake a.2)
    (hf : ∀ a x, s0.Awake a.2 → s0.Awake (f a x).2) : s0.Awake (l.foldl f a).2 := by
  induction l generalizing a with
  | nil => exact h
  | cons x xs ih => exact ih (hf a x h)

theorem awakeFoldl1 {α β : Type} {f : State × β → α → State × β} {s0 : State} {a : State × β} {l : List α} (h : s0.Awake a.1)
    (hf : ∀ a x, s0.Awake a.1 → s0.Awake (f a x).1) : s0.Awake (l.foldl f a).1 := by
  induction l generalizing a with
  | nil => exact h
  | cons x xs ih => exact ih (hf a x h)

theorem awakeOf2 {β : Type} {s0 : State} {p : β × State} {b : β} {t : State} (e : p = (b, t)) (h : s0.Awake p.2) : s0.Awake t := by
  rw [e] at h
  exact h

theorem awakeOf1 {β : Type} {s0 : State} {p : State × β} {b : β} {t : State} (e : p = (t, b)) (h : s0.Awake p.1) : s0.Awake t := by
  rw [e] at h
  exact h

/-- A change of a core that leaves its handler waves. -/
theorem State.Awake.modCore {s0 s : State} {c : Nat} {f : Core → Core} (h : s0.Awake s)
    (hf : ∀ k, (f k).handlers = k.handlers := by exact fun _ => rfl) : s0.Awake (s.modCore c f) := by
  have hk (d : Nat) : ((s.modCore c f).core d).handlers = (s.core d).handlers := by
    rw [core_modCore]
    split
    · exact hf _
    · rfl
  refine ⟨fun r l x hx hn => ?_, h.issues, fun r => ?_⟩
  · have hs := h.lanes r l x hx hn
    cases r with
    | blk u w => exact hs
    | hdl d q => simpa only [State.lane?, State.wave?, hk] using hs
  · rw [← h.record r]
    cases r with
    | blk u w => rfl
    | hdl d q =>
      simp only [State.launchOf, State.launchKey, hk]
      rfl

/-- A change of one wave that leaves its lanes outside Mantis waits. -/
theorem State.Awake.modWave {s0 s : State} {r : WaveRef} {f : Wave → Wave} (h : s0.Awake s)
    (hf : ∀ (w : Wave) (l : Nat) (x : Lane), w.lanes[l]? = some x → (∀ n, x.state ≠ .waitMantis n) → (f w).lanes[l]? = some x) :
    s0.Awake (s.modWave r f) := by
  refine ⟨fun q l x hx hn => ?_, (State.modWave_issues ..).trans h.issues, fun q => by rw [launchOf_modWave]; exact h.record q⟩
  have hs := h.lanes q l x hx hn
  rw [State.lane?] at hs ⊢
  by_cases hr : q = r
  · subst hr
    obtain ⟨w, hw, hl⟩ := Option.bind_eq_some_iff.1 hs
    rw [State.wave?_modWave, hw]
    exact hf w l x hl hn
  · rwa [State.wave?_modWave_ne s r q f hr]

/-- Waking a block changes no wave. -/
theorem State.Awake.wake {s0 s : State} {r : WaveRef} (h : s0.Awake s) : s0.Awake (s.wake r) := by
  cases r with
  | hdl c q => exact h
  | blk uid j =>
    refine ⟨fun q l x hx hn => ?_, h.issues, fun q => ?_⟩
    · have hs := h.lanes q l x hx hn
      cases q with
      | hdl c p => exact hs
      | blk u k => exact KeepsLanes.wake s (.blk uid j) u k l x hs hn
    · rw [← h.record q]
      cases q with
      | hdl c p => rfl
      | blk u k =>
        have hl : ((s.wake (.blk uid j)).block? u).map (·.launch) = (s.block? u).map (·.launch) := by
          simp only [State.block?, State.wake, List.find?_map, Option.map_map]
          rw [List.find?_congr (p₂ := fun b : Block => b.uid == u) (fun b _ => by simp only [Function.comp]; split <;> rfl)]
          exact congrFun (congrArg Option.map (funext fun b => by simp only [Function.comp]; split <;> rfl)) _
        simp only [State.launchOf, State.launchKey, hl]
        rfl

/-- A state, where there is one, that keeps the lanes. -/
def AwakeIfSome (s0 : State) (o : Option State) : Prop := ∀ t, o = some t → s0.Awake t

theorem AwakeIfSome.none {s0 : State} : AwakeIfSome s0 none := fun _ h => nomatch h

theorem AwakeIfSome.some {s0 t : State} (h : s0.Awake t) : AwakeIfSome s0 (some t) := fun _ e => Option.some.inj e ▸ h

theorem AwakeIfSome.map {s0 : State} {o : Option State} {f : State → State} (h : AwakeIfSome s0 o) (hf : ∀ s, s0.Awake s → s0.Awake (f s)) :
    AwakeIfSome s0 (o.map f) := fun t e => by
  obtain ⟨s, hs, rfl⟩ := Option.map_eq_some_iff.1 e
  exact hf s (h s hs)

theorem AwakeIfSome.bind {s0 : State} {o : Option State} {f : State → Option State} (h : AwakeIfSome s0 o)
    (hf : ∀ s, s0.Awake s → AwakeIfSome s0 (f s)) : AwakeIfSome s0 (o.bind f) := fun t e => by
  obtain ⟨s, hs, ht⟩ := Option.bind_eq_some_iff.1 e
  exact hf s (h s hs) t ht

theorem AwakeIfSome.mapOf {s0 : State} {α : Type} {o : Option α} {f : α → State} (hf : ∀ a, s0.Awake (f a)) : AwakeIfSome s0 (o.map f) :=
  fun t e => by
    obtain ⟨a, -, rfl⟩ := Option.map_eq_some_iff.1 e
    exact hf a

theorem AwakeIfSome.getD {s0 s : State} {o : Option State} (h : AwakeIfSome s0 o) (hs : s0.Awake s) : s0.Awake (o.getD s) := by
  cases o with
  | none => exact hs
  | some t => exact h t rfl

theorem State.Awake.modSlice {u0 : State} {s : State} {i : Nat} {f : Slice → Slice} (h : u0.Awake s) : u0.Awake (s.modSlice i f) :=
  h.update

theorem State.Awake.fillTlb {u0 : State} {s : State} {core : Nat} {e : TlbEntry} (h : u0.Awake s) : u0.Awake (s.fillTlb core e) := by
  unfold State.fillTlb
  dsimp only
  split
  · exact h.modCore
  · exact h.modCore.modSlice

theorem State.Awake.useLine {u0 : State} {s : State} {part line : Nat} (h : u0.Awake s) : u0.Awake (s.useLine part line) := by
  unfold State.useLine
  split
  · exact h
  · split
    · exact h
    · exact h.modSlice

theorem State.Awake.modDevice {u0 : State} {s : State} {f : Device → Device} (h : u0.Awake s) : u0.Awake (s.modDevice f) :=
  h.update

theorem State.Awake.setBucket {u0 : State} {s : State} {b : Bucket} {a : BucketPoint} (h : u0.Awake s) : u0.Awake (s.setBucket b a) := by
  unfold State.setBucket
  split
  · exact h.modCore
  · exact h.modSlice
  · exact h.modDevice

theorem State.Awake.debitAll {u0 : State} {s : State} {bytes : Nat} {ps : List BucketPoint} (h : u0.Awake s) :
    u0.Awake (s.debitAll bytes ps) := by
  unfold State.debitAll
  refine h.foldl ?_
  intro s1 x h1
  split
  · exact h1.setBucket
  · exact h1

theorem State.Awake.ownRead {u0 : State} {s : State} {part pa n : Nat} (h : u0.Awake s) : u0.Awake (s.ownRead part pa n) :=
  h.debitAll.useLine

theorem State.Awake.readWalk {u0 : State} {s : State} {part space va : Nat} (h : u0.Awake s) : u0.Awake (s.readWalk part space va) := by
  unfold State.readWalk
  dsimp only
  split
  · exact h
  · exact h.foldl fun s1 x h1 => h1.ownRead

theorem State.Awake.translate {u0 : State} {s : State} {core part space va : Nat} (h : u0.Awake s) :
    u0.Awake (s.translate core part space va).2 := by
  unfold State.translate
  split
  · exact h
  · split
    · exact h
    · split
      · exact h.readWalk.fillTlb
      · exact h.readWalk

/-- A serial number taken changes the count of serials alone. -/
theorem takeSerial_modDevice (s : State) : ∃ boots serial, s.takeSerial.2 = s.modDevice fun d => { d with boots := boots, serial := serial } := by
  unfold State.takeSerial
  dsimp only
  split
  · exact ⟨s.device.boots, _, rfl⟩
  · exact ⟨_, _, rfl⟩

theorem State.Awake.takeSerial {u0 : State} {s : State} (h : u0.Awake s) : u0.Awake s.takeSerial.2 := by
  obtain ⟨boots, serial, hs⟩ := takeSerial_modDevice s
  rw [hs]
  exact h.modDevice

theorem State.Awake.modPart {u0 : State} {s : State} {p : Nat} {f : Partition → Partition} (h : u0.Awake s) : u0.Awake (s.modPart p f) :=
  h.update

theorem State.Awake.modVF {u0 : State} {s : State} {p : Nat} {f : VF → VF} (h : u0.Awake s) : u0.Awake (s.modVF p f) :=
  h.modPart

theorem State.Awake.modBank {u0 : State} {s : State} {b : Nat} {f : Bank → Bank} (h : u0.Awake s) : u0.Awake (s.modBank b f) :=
  h.modDevice

theorem State.Awake.activate {u0 : State} {s : State} {line : Nat} (h : u0.Awake s) : u0.Awake (s.activate line) := by
  unfold State.activate
  split
  · exact h.modBank.update
  · exact h

theorem State.Awake.writeBack {u0 : State} {s0 : State} {line : Nat} {bytes side : List Byte} {poison : Bool} (h : u0.Awake s0) :
    u0.Awake (s0.writeBack line bytes side poison) :=
  h.activate.update

theorem State.Awake.emit {u0 : State} {s : State} {o : Output} (h : u0.Awake s) : u0.Awake (s.emit o) :=
  h.update

theorem State.Awake.askHost {u0 : State} {s : State} {line : Nat} {q : CacheReq} (h : u0.Awake s) : u0.Awake (s.askHost line q) := by
  unfold State.askHost
  split
  · exact h.emit
  · exact h

theorem State.Awake.dropTag {u0 : State} {s : State} {i : Nat} {t : Tag} (h : u0.Awake s) : u0.Awake (s.dropTag i t) := by
  unfold State.dropTag
  refine State.Awake.modSlice ?_
  split
  · exact h.writeBack
  · exact h

theorem State.Awake.cleanTag {u0 : State} {s : State} {i : Nat} {t : Tag} (h : u0.Awake s) : u0.Awake (s.cleanTag i t) := by
  unfold State.cleanTag
  refine State.Awake.modSlice ?_
  split
  · exact h.writeBack
  · exact h

theorem State.Awake.takeHost {u0 : State} {s : State} {part line : Nat} {owned : Bool} {q : CacheReq} (h : u0.Awake s) :
    u0.Awake (s.takeHost part line owned q) := by
  unfold State.takeHost
  split
  · exact h
  · refine State.Awake.askHost ?_
    refine h.foldl ?_
    intro s1 x h1
    split
    · exact h1.dropTag
    · exact h1.cleanTag

theorem State.Awake.evict {u0 : State} {s : State} {i : Nat} {t : Tag} (h : u0.Awake s) : u0.Awake (s.evict i t) := by
  unfold State.evict
  dsimp only
  split
  · exact h.dropTag
  · exact h.dropTag.askHost

theorem State.Awake.makeRoom {u0 : State} {i keep : Nat} {plate : Bool} {fuel : Nat} {s : State} (h : u0.Awake s) :
    u0.Awake (State.makeRoom i keep plate fuel s) := by
  induction fuel generalizing s with
  | zero => exact h
  | succ n ih =>
    unfold State.makeRoom
    dsimp only
    split
    · exact h
    · split
      · exact h
      · exact ih h.evict

theorem State.Awake.placeAt {u0 : State} {s : State} {part i : Nat} {t : Tag} {bytes side : List Byte} (h : u0.Awake s) :
    u0.Awake (s.placeAt part i t bytes side) :=
  h.makeRoom.modSlice.modPart

theorem State.Awake.fillAs {u0 : State} {s : State} {part space line : Nat} {a : PageAttr} {poison owned : Bool} (h : u0.Awake s) :
    u0.Awake (s.fillAs part space line a poison owned) := by
  unfold State.fillAs
  split
  · exact h
  · split
    · exact h.modSlice
    · exact h.takeHost.activate.placeAt

theorem State.Awake.applyWrite {u0 : State} {s : State} {part space line : Nat} {a : PageAttr} {ws scales : List (Nat × Byte)} {whole poison : Bool}
    (h : u0.Awake s) : u0.Awake (s.applyWrite part space line a ws scales whole poison) := by
  unfold State.applyWrite
  dsimp only
  split
  · exact h.writeBack
  · split
    · refine State.Awake.placeAt ?_
      refine State.Awake.modSlice ?_
      split
      · exact h
      · exact h.takeHost
    · split
      · refine State.Awake.fillAs ?_
        split
        · exact h.takeHost
        · exact h
      · split
        · split
          · exact h.takeHost.fillAs.makeRoom.modSlice.modPart
          · exact h.takeHost.fillAs.modSlice
        · split
          · exact h.fillAs.makeRoom.modSlice.modPart
          · exact h.fillAs.modSlice

theorem State.Awake.putRecord {u0 : State} {s : State} {part rec : Nat} {bs : List Byte} (h : u0.Awake s) :
    u0.Awake (s.putRecord part rec bs) := by
  unfold State.putRecord
  dsimp only
  split
  · exact h
  · exact h.applyWrite

theorem State.Awake.freeRecords {u0 : State} {s : State} {e : Entry} (h : u0.Awake s) : u0.Awake (s.freeRecords e) :=
  h.foldl fun _ _ h1 => h1.putRecord

theorem State.Awake.dropEntry {u0 : State} {s : State} {e : Entry} (h : u0.Awake s) : u0.Awake (s.dropEntry e) :=
  h.freeRecords.update

theorem State.Awake.modLaunch {u0 : State} {s : State} {lid : Nat} {f : Launch → Launch} (h : u0.Awake s)
    (hf : ∀ l, (f l).lid = l.lid ∧ (f l).record = l.record := by exact fun _ => ⟨rfl, rfl⟩) : u0.Awake (s.modLaunch lid f) where
  lanes r l x hx hn := by cases r <;> exact h.lanes _ l x hx hn
  issues := h.issues
  record r := by
    have hk : (s.modLaunch lid f).launchKey r = s.launchKey r := by cases r <;> rfl
    rw [← h.record r, State.launchOf, State.launchOf, hk]
    cases s.launchKey r with
    | none => rfl
    | some n =>
      rw [Option.bind_some, Option.bind_some, State.launch?_modLaunch s lid n f fun l => (hf l).1, Option.map_map]
      refine congrFun (congrArg Option.map (funext fun l => ?_)) _
      simp only [Function.comp]
      split
      · exact (hf l).2
      · rfl

/-- Delivering an entry changes only the lanes that wait for it (R345, R355). -/
theorem State.Awake.deliver {u0 s : State} {e : Entry} {value : Nat} {met : Bool} (h : u0.Awake s) : u0.Awake (s.deliver e value met) := by
  unfold State.deliver
  dsimp only
  split
  · refine (h.dropEntry.modWave fun w l x hx hn => ?_).wake
    split
    · exact hx
    · next g _ => simp [Wave.modLanes, getElem?_mapIdx', hx, hn g.group]
  · refine (h.dropEntry.modWave fun w l x hx hn => ?_).wake
    simp [hx, hn e.group]
  · exact h.dropEntry.modVF
  · exact h.dropEntry.modLaunch fun l => by split <;> exact ⟨rfl, rfl⟩
  · exact h.dropEntry.modVF.emit

theorem State.Awake.fire {u0 : State} {s : State} {e : Entry} (h : u0.Awake s) : u0.Awake (s.fire e) :=
  h.deliver.modPart

theorem State.Awake.fireOverdue {u0 : State} {s : State} {part line : Nat} (h : u0.Awake s) : u0.Awake (s.fireOverdue part line) :=
  h.foldl fun _ _ h1 => h1.fire

theorem State.Awake.checkEntries {u0 : State} {s : State} {part line : Nat} {wrote : List Nat} (h : u0.Awake s) :
    u0.Awake (s.checkEntries part line wrote) := by
  unfold State.checkEntries
  refine State.Awake.foldl ?_ ?_
  · split
    · split
      · exact h
      · exact h.modSlice
    · refine State.Awake.update ?_
      split
      · exact h
      · exact h.modSlice
  · intro s1 x h1
    dsimp only
    split
    · split
      · exact h1.deliver
      · exact h1
    · split
      · exact h1.deliver
      · exact h1

theorem State.Awake.fillLine {u0 : State} {s : State} {part space line : Nat} {a : PageAttr} {poison : Bool} (h : u0.Awake s) :
    u0.Awake (s.fillLine part space line a poison) :=
  h.fillAs

theorem State.Awake.reread {u0 : State} {s : State} {part line : Nat} (h : u0.Awake s) : u0.Awake (s.reread part line) := by
  unfold State.reread
  split
  · exact h.fillLine.checkEntries
  · exact h

theorem State.Awake.rereadOthers {u0 : State} {s : State} {qs : List Nat} {line : Nat} (h : u0.Awake s) : u0.Awake (s.rereadOthers qs line) :=
  h.foldl fun _ _ h1 => h1.reread

theorem State.Awake.performWrite {u0 : State} {s : State} {part space line : Nat} {a : PageAttr} {ws scales : List (Nat × Byte)} {whole poison : Bool}
    (h : u0.Awake s) : u0.Awake (s.performWrite part space line a ws scales whole poison).1 :=
  h.fireOverdue.applyWrite.checkEntries.rereadOthers

theorem State.Awake.writeRun {u0 : State} {s : State} {part pa : Nat} {a : PageAttr} {bs : List Byte} (h : u0.Awake s) :
    u0.Awake (s.writeRun part pa a bs).1 :=
  awakeFoldl1 h fun _ _ h1 => h1.performWrite

theorem State.Awake.queueRecord {u0 : State} {s : State} {p : Nat} {fault : Bool} {bytes : List Byte} (h : u0.Awake s) :
    u0.Awake (s.queueRecord p fault bytes).2 := by
  have hput {t : State} {q : Ring} (h : u0.Awake t) :
      u0.Awake (t.modVF p (fun v => if fault = true then { v with fq := q } else { v with eq := q })) := h.modVF
  unfold State.queueRecord
  extract_lets v q put
  split
  · exact hput h
  · split
    · exact h
    · split
      · exact hput h
      · extract_lets pa
        split
        · exact hput h
        · exact (hput h.writeRun).emit

theorem State.Awake.errorRecord {u0 : State} {s : State} {p serial code stream position addr : Nat} (h : u0.Awake s) :
    u0.Awake (s.errorRecord p serial code stream position addr) :=
  h.queueRecord

theorem State.Awake.errorEvent {u0 : State} {s : State} {p code stream position addr : Nat} (h : u0.Awake s) :
    u0.Awake (s.errorEvent p code stream position addr) :=
  h.takeSerial.errorRecord

theorem State.Awake.checkAccess {u0 : State} {s : State} {core part space va : Nat} {kind : AccessKind} (h : u0.Awake s) :
    u0.Awake (s.checkAccess core part space va kind).2 := by
  unfold State.checkAccess
  split
  · rename_i a f t heq
    have ht : u0.Awake t := awakeOf2 heq h.translate
    exact ht
  · rename_i a e t heq
    have ht : u0.Awake t := awakeOf2 heq h.translate
    dsimp only
    split
    · dsimp only
      split
      · exact ht.errorEvent
      · exact ht
    · split
      · exact ht
      · split
        · exact ht
        · exact ht

theorem State.Awake.codeDrop {u0 : State} {s : State} {core part line : Nat} (h : u0.Awake s) : u0.Awake (s.codeDrop core part line) :=
  h.modCore

theorem State.Awake.podEntry {u0 : State} {s : State} {part rank : Nat} (h : u0.Awake s) : u0.Awake (s.podEntry part rank).2 := by
  unfold State.podEntry
  split
  · exact h
  · exact h.ownRead.modPart

theorem State.Awake.podCheck {u0 : State} {s : State} {part pa kind : Nat} (h : u0.Awake s) : u0.Awake (s.podCheck part pa kind).2 := by
  unfold State.podCheck
  split
  · exact h
  · exact h.podEntry

theorem State.Awake.takeTokens {u0 : State} {s : State} {p : BucketPoint} {bytes : Nat} (h : u0.Awake s) :
    AwakeIfSome u0 (s.takeTokens p bytes) := by
  unfold State.takeTokens
  split
  · exact AwakeIfSome.mapOf fun x => h.setBucket
  · exact .some h

theorem State.Awake.takeAll {u0 : State} {s : State} {bytes : Nat} {l : List BucketPoint} (h : u0.Awake s) : AwakeIfSome u0 (s.takeAll bytes l) := by
  induction l generalizing s with
  | nil => exact .some h
  | cons p ps ih => exact h.takeTokens.bind fun _ ht => ih ht

theorem State.Awake.fresh {u0 : State} {s : State} (h : u0.Awake s) : u0.Awake s.fresh.2 :=
  h.update

theorem State.Awake.newPod {u0 : State} {s : State} {owner : PodOwner} {part pa : Nat} {ask : PodAsk} {die : Nat} (h : u0.Awake s) :
    u0.Awake (s.newPod owner part pa ask die).2 :=
  h.podEntry.fresh

theorem State.Awake.sendPod {u0 : State} {s : State} {owner : PodOwner} {part pa : Nat} {ask : PodAsk} {die : Nat} (h : u0.Awake s) :
    u0.Awake (s.sendPod owner part pa ask die).2 :=
  h.newPod.update.emit

theorem State.Awake.fetchPod {u0 : State} {s : State} {core part va pa : Nat} (h : u0.Awake s) : u0.Awake (s.fetchPod core part va pa).2 := by
  unfold State.fetchPod
  split
  · split
    · exact h.codeDrop
    · exact h
  · dsimp only
    split
    · exact h.podCheck
    · split
      · exact h.podCheck
      · split
        · exact h.podCheck
        · rename_i a heq hne hne1 a1 t heq1
          have ht : u0.Awake t := h.podCheck.takeAll _ heq1
          exact ht.sendPod

theorem State.Awake.codePut {u0 : State} {s : State} {core : Nat} {x : CodeLine} (h : u0.Awake s) : u0.Awake (s.codePut core x) :=
  h.modCore

theorem State.Awake.fetchLine {u0 : State} {s : State} {core part space line : Nat} {a : PageAttr} {r : CodeLine × State} (h : u0.Awake s)
    (hr : s.fetchLine core part space line a = some r) : u0.Awake r.2 := by
  unfold State.fetchLine at hr
  obtain ⟨u, hu, rfl⟩ := Option.map_eq_some_iff.1 hr
  split at hu
  · exact nomatch hu
  · exact (h.takeAll _ hu).fillLine.codePut

theorem State.Awake.fetchWordAt {u0 : State} {s : State} {core part space va : Nat} (h : u0.Awake s) :
    u0.Awake (s.fetchWordAt core part space va).2 := by
  unfold State.fetchWordAt
  split
  · next f t heq => exact awakeOf2 heq h.checkAccess
  · next e t heq =>
    have ht : u0.Awake t := awakeOf2 heq h.checkAccess
    dsimp only
    split
    · exact ht.fetchPod
    · split
      · split
        · exact ht
        · next r hr => exact ht.fetchLine hr
      · split
        · exact ht
        · split
          · exact ht.update
          · split
            · exact ht.update
            · next r hr => exact State.Awake.fetchLine ht.update hr

theorem State.Awake.headerAt {u0 : State} {s : State} {core : Nat} {la : Launch} {off : Word} (h : u0.Awake s) :
    u0.Awake (s.headerAt core la off).2 := by
  unfold State.headerAt
  split
  · rename_i a f t heq
    have ht : u0.Awake t := awakeOf2 heq h.fetchWordAt
    exact ht
  · rename_i a w t heq
    have ht : u0.Awake t := awakeOf2 heq h.fetchWordAt
    exact ht

theorem State.Awake.faultRecord {u0 : State} {s : State} {o : Origin} {vpc : Word} {slot cause addr : Nat} (h : u0.Awake s) :
    u0.Awake (s.faultRecord o vpc slot cause addr).2 := by
  unfold State.faultRecord
  dsimp only
  split
  · exact h.takeSerial.queueRecord.modLaunch
  · exact h.takeSerial.queueRecord

end Sys2Proof.Machine
end

section
/-! SUPPORT. `tres`, `tkill` and `tesc` of one lane: what it, and its origin, becomes (R398, R405, R406). -/

namespace Sys2Proof.Machine

theorem lane?_modWave_ne (s : State) {r q : WaveRef} (f : Wave → Wave) (h : q ≠ r) (m : Nat) : (s.modWave r f).lane? q m = s.lane? q m := by
  simp only [State.lane?, State.wave?_modWave_ne s r q f h]

theorem lane?_modLane_ne (s : State) {r q : WaveRef} (l : Nat) (f : Lane → Lane) (h : q ≠ r) (m : Nat) :
    (s.modLane r l f).lane? q m = s.lane? q m := lane?_modWave_ne s _ h m

theorem lane?_modLane_self (s : State) (r : WaveRef) (l : Nat) (f : Lane → Lane) : (s.modLane r l f).lane? r l = (s.lane? r l).map f := by
  rw [State.lane?_modLane, if_pos rfl]

@[simp] theorem lane?_dropFromIssues (s : State) (r q : WaveRef) (ls : List Nat) (m : Nat) :
    (s.dropFromIssues r ls).lane? q m = s.lane? q m := by cases q <;> rfl

/-- A lane that leaves as exited. -/
theorem lane?_exitLanes_self (s : State) (r : WaveRef) (l : Nat) :
    (s.exitLanes r [l]).lane? r l = (s.lane? r l).map (fun x => { x with state := .exited }) := by
  rw [State.exitLanes, lane?_dropFromIssues]
  simp only [State.lane?, State.wave?_modWave]
  cases s.wave? r with
  | none => rfl
  | some w => simp [Wave.lane?, Wave.modLanes, getElem?_mapIdx']

theorem lane?_exitLanes_ne (s : State) {r q : WaveRef} (ls : List Nat) (h : q ≠ r) (m : Nat) : (s.exitLanes r ls).lane? q m = s.lane? q m := by
  rw [State.exitLanes, lane?_dropFromIssues, lane?_modWave_ne s _ h]

/-- Where `tres` with target `t` resumes a lane that trapped with record `i` (R405). -/
def State.resumeAt (s : State) (core : Nat) (la : Launch) (t : Word) (i : TrapInfo) : Word × Nat :=
  if t = 0xFFFFFFFF then
    match (s.headerAt core la i.vpc).1 with
    | none => (i.vpc, 0)
    | some h => if i.slot + 1 = h.count then (i.vpc + BitVec.ofNat 32 (h.count + 1), 0) else (i.vpc, i.slot + 1)
  else if t = i.vpc then (i.vpc, i.slot) else (t, 0)

theorem resumePoint_fst (s : State) (core : Nat) (la : Launch) (t : Word) (i : TrapInfo) :
    (s.resumePoint core la t i.vpc i.slot).1 = s.resumeAt core la t i := by
  unfold State.resumePoint State.resumeAt
  split
  · rcases s.headerAt core la i.vpc with ⟨_ | h, u⟩ <;> rfl
  · split <;> rfl

/-- The clause's header is fetched only for a return after the trapping instruction. -/
theorem resumePoint_snd (s : State) (core : Nat) (la : Launch) {t : Word} (ht : t ≠ 0xFFFFFFFF) (i : TrapInfo) :
    (s.resumePoint core la t i.vpc i.slot).2 = s := by
  rw [State.resumePoint, if_neg ht]
  split <;> rfl

theorem State.Awake.resumePoint {u0 s : State} {core : Nat} {la : Launch} {t : Word} {i : TrapInfo} (h : u0.Awake s) :
    u0.Awake (s.resumePoint core la t i.vpc i.slot).2 := by
  unfold State.resumePoint
  split
  · have hh : u0.Awake (s.headerAt core la i.vpc).2 := h.headerAt
    revert hh
    rcases s.headerAt core la i.vpc with ⟨_ | x, u⟩ <;> exact id
  · split <;> exact h

/-- Whether a return with a target waits for its clause's header (R39). -/
def State.returnHeld (s : State) (core : Nat) (la : Launch) (t : Word) (i : TrapInfo) : Prop :=
  t = 0xFFFFFFFF ∧ (s.fetchWaits core la i.vpc).1 = true

section OneLane

variable {s : State} {c : Ctx} {w : Wave} {l : Nat} {x : Lane} {la : Launch} {i : TrapInfo} {g : BitVec 4} (h : Alone s c w) (hc : c.x = [l])
  (hg : w.pred l g.toNat = true) (hx : w.lanes[l]? = some x)

include h hc hg hx

/-- `tkill` of one lane that handles a trap. -/
theorem exec_tkill (hi : LegalFor (.tkill g) [] [] w) (hh : x.handles (isHandler c.r) = true) : exec (.tkill g) s = .next (s.killBy c.r l) := by
  refine (execWord_alone h hi rfl).trans ?_
  simp [State.handlers, hc, hx, hh, hg, State.trapAt, State.takeTraps]

variable {a : BitVec 7} (hi : LegalFor (.tres a g) [a.toNat] [] w) (hh : x.handles (isHandler c.r) = true) (hf : x.isFull a.toNat = true)

include hi hh hf in
/-- `tres` of one lane that handles a trap: it waits or returns. -/
theorem exec_tres : exec (.tres a g) s = .next (
    let q := s.returnWaits c.r (if x.reg a.toNat = 0xFFFFFFFF then [l] else [])
    if q.1 then q.2.stall c.r else s.returnTrap c.r l (x.reg a.toNat)) := by
  have hfull : w.allFull [l] [a.toNat] := by
    intro m hm y hy r hr
    cases List.mem_singleton.1 hm
    cases List.mem_singleton.1 hr
    cases hx.symm.trans hy
    exact hf
  have hgates : s.gates c w (fun l => [(l, a.toNat)]) [l] = ([l], s) := gates_full (vr := [a.toNat]) hfull
  have hreg : w.reg l a.toNat = x.reg a.toNat := by simp [Wave.reg, hx]
  have hpast : [l].filter (fun l => w.reg l a.toNat == 4294967295#32) = if x.reg a.toNat = 4294967295#32 then [l] else [] := by
    simp [List.filter_cons, hreg]
  refine (execWord_alone h hi rfl).trans ?_
  simp [State.handlers, hc, hx, hh, hg, State.trapAt, State.takeTraps, hgates, hreg, hpast]

variable (hla : s.launchOf c.r = some la) (hp : s.trapClause c.r l = some i.vpc)

include hi hh hf hla hp

theorem exec_tres_held (hw : s.returnHeld (s.coreOf c.r) la (x.reg a.toNat) i) :
    exec (.tres a g) s = .next ((s.fetchWaits (s.coreOf c.r) la i.vpc).2.stall c.r) := by
  rw [exec_tres h hc hg hx hi hh hf, if_pos hw.1]
  simp [State.returnWaits, hla, hp, hw.2]

theorem exec_tres_returns (hw : ¬ s.returnHeld (s.coreOf c.r) la (x.reg a.toNat) i) :
    exec (.tres a g) s = .next (s.returnTrap c.r l (x.reg a.toNat)) := by
  rw [exec_tres h hc hg hx hi hh hf]
  split
  · next ht =>
    have hno : (s.fetchWaits (s.coreOf c.r) la i.vpc).1 = false := by simpa using fun hq => hw ⟨ht, hq⟩
    simp [State.returnWaits, hla, hp, hno]
  · rfl

end OneLane

section Handler

variable {s : State} {core q l : Nat} {x y : Lane} {o : Origin} {i : TrapInfo} {la : Launch} (hla : s.launchOf (.hdl core q) = some la)
  (hx : s.lane? (.hdl core q) l = some x) (ho : x.origin = some o) (hy : s.lane? (.blk o.uid o.wave) o.lane = some y) (hi : y.trap = some i)

include hx ho hy hi in
theorem trapClause_handler : s.trapClause (.hdl core q) l = some i.vpc := by
  simp [State.trapClause, hx, ho, hy, hi]

include hx ho in
/-- `tkill` of a handler lane (R406). -/
theorem killBy_handler : s.killBy (.hdl core q) l =
    (s.modLane (.blk o.uid o.wave) o.lane (fun y => { y with state := .exited, trap := none })).exitLanes (.hdl core q) [l] := by
  simp only [State.killBy, hx, ho]

include hla hx ho hy hi in
/-- `tres` of a handler lane (R405). -/
theorem returnTrap_handler (t : Word) : s.returnTrap (.hdl core q) l t =
    ((s.resumePoint (s.coreOf (.hdl core q)) la t i.vpc i.slot).2.resumeLane o (s.resumeAt (s.coreOf (.hdl core q)) la t i).1
      (s.resumeAt (s.coreOf (.hdl core q)) la t i).2).exitLanes (.hdl core q) [l] := by
  simp only [State.returnTrap, hla, hx, ho, hy, Option.bind_some, hi, resumePoint_fst]

include hla hx ho hy hi in
/-- `tesc` of a handler lane (R406). -/
theorem escalateBy_handler (code : Nat) : s.escalateBy (.hdl core q) l code = (s.escalateLane o i
    (causeWord i.cause i.detail code la.record.entryOfTraps.isNone la.record.irdan false true) i.addr).exitLanes (.hdl core q) [l] := by
  simp only [State.escalateBy, hla, hx, ho, hy, Option.bind_some, hi]

end Handler

section Irdan

variable {s : State} {uid j l : Nat} {x : Lane} {i : TrapInfo} {la : Launch} (hla : s.launchOf (.blk uid j) = some la)
  (hx : s.lane? (.blk uid j) l = some x) (hi : x.inTrap = some i)

include hx in
/-- `tkill` of an Irdan-mode lane. -/
theorem killBy_irdan : s.killBy (.blk uid j) l = (s.modLane (.blk uid j) l (fun y => { y with inTrap := none })).exitLanes (.blk uid j) [l] := by
  simp only [State.killBy, hx]

include hla hx hi

/-- `tres` of an Irdan-mode lane (R405). -/
theorem returnTrap_irdan (t : Word) : s.returnTrap (.blk uid j) l t =
    ((s.resumePoint (s.coreOf (.blk uid j)) la t i.vpc i.slot).2.modLane (.blk uid j) l (fun y => { y with
      vpc := (s.resumeAt (s.coreOf (.blk uid j)) la t i).1
      slot := (s.resumeAt (s.coreOf (.blk uid j)) la t i).2
      inTrap := none })).dropFromIssues (.blk uid j) [l] := by
  simp only [State.returnTrap, hla, hx, hi, resumePoint_fst]

/-- `tesc` of an Irdan-mode lane. -/
theorem escalateBy_irdan (code : Nat) : s.escalateBy (.blk uid j) l code =
    ((s.modLane (.blk uid j) l (fun y => { y with inTrap := none })).escalateLane ⟨uid, j, l⟩ i
      (causeWord i.cause i.detail code la.record.entryOfTraps.isNone la.record.irdan false true) i.addr).dropFromIssues (.blk uid j) [l] := by
  simp only [State.escalateBy, hla, hx, hi]

end Irdan

/-- A lane escalated: a change of it alone, in a state in which its record stands. -/
theorem escalateLane_eq (s : State) (o : Origin) (i : TrapInfo) (cause addr : Nat) : ∃ (u : State) (n : Nat), s.Awake u ∧
    s.escalateLane o i cause addr = u.modLane (.blk o.uid o.wave) o.lane
      (fun x => { x with state := .trapped, vpc := i.vpc, slot := i.slot, trap := some { i with phase := .escalated n } }) :=
  ⟨_, _, (State.Awake.refl s).faultRecord, rfl⟩

section Lanes

variable {u : State} {core q uid j l : Nat} {x y : Lane} {o : Origin}

/-- The handler lane and its origin, when the origin has changed and the handler lane exits. -/
theorem lanes_exitHandler (hx : u.lane? (.hdl core q) l = some x) (hy : u.lane? (.blk o.uid o.wave) o.lane = some y) (f : Lane → Lane) :
    let t := (u.modLane (.blk o.uid o.wave) o.lane f).exitLanes (.hdl core q) [l]
    t.lane? (.blk o.uid o.wave) o.lane = some (f y) ∧ t.lane? (.hdl core q) l = some { x with state := .exited } := by
  refine ⟨?_, ?_⟩
  · rw [lane?_exitLanes_ne _ _ (by simp), lane?_modLane_self, hy]; rfl
  · rw [lane?_exitLanes_self, lane?_modLane_ne _ _ _ (by simp), hx]; rfl

end Lanes

end Sys2Proof.Machine

namespace Sys2Proof.Proofs

open Sys2Proof.Machine

/-- Settles O37: each instruction is one change of the origin, or of the Irdan-mode lane, in a state in which the fetch of a header or the
record of an escalation has left the lane as it was; a handler lane then exits. -/
theorem trapReturn : Obligations.TrapReturn := by
  intro a k g s c w l x la h hc hg hx hact hla
  have hlane := (h.lane? l).trans hx
  have hawake : ∀ n, x.state ≠ .waitMantis n := by simp [hact]
  refine ⟨fun core q o y i hr ho hy htrapped hi => ?handler, fun uid j i hr hin => ?irdan⟩
  case handler =>
    have hisH : isHandler c.r = true := by rw [hr]; rfl
    have hh : x.handles (isHandler c.r) = true := by simp [Lane.handles, hisH]
    have hawakeY : ∀ n, y.state ≠ .waitMantis n := by simp [htrapped]
    have hlaneH := hr ▸ hlane
    have hlaH := hr ▸ hla
    have hclause : s.trapClause c.r l = some i.vpc := hr ▸ trapClause_handler hlaneH ho hy hi
    have hescalated (code : Nat) : ∃ n, (s.escalateBy c.r l code).lane? (.blk o.uid o.wave) o.lane =
        some { y with state := .trapped, vpc := i.vpc, slot := i.slot, trap := some { i with phase := .escalated n } } ∧
        (s.escalateBy c.r l code).lane? c.r l = some { x with state := .exited } := by
      obtain ⟨u, n, hkept, he⟩ := escalateLane_eq s o i
        (causeWord i.cause i.detail code la.record.entryOfTraps.isNone la.record.irdan false true) i.addr
      rw [hr, escalateBy_handler hlaH hlaneH ho hy hi, he]
      exact ⟨n, lanes_exitHandler (hkept.lanes _ _ _ hlaneH hawake) (hkept.lanes _ _ _ hy hawakeY) _⟩
    refine ⟨fun hlegal hf hw => exec_tres_held h hc hg hx hlegal hh hf hla hclause hw, fun hlegal hf hw => ?tres, fun hlegal => ?tkill,
      fun hlegal hpod => ?exit, fun hlegal => ?tesc⟩
    case tres =>
      have hexec := exec_tres_returns h hc hg hx hlegal hh hf hla hclause hw
      rw [hr] at hexec ⊢
      rw [returnTrap_handler hlaH hlaneH ho hy hi] at hexec
      have hkept := (State.Awake.refl s).resumePoint (core := s.coreOf (.hdl core q)) (la := la) (t := x.reg a.toNat) (i := i)
      obtain ⟨horigin, hhandler⟩ := lanes_exitHandler (hkept.lanes _ _ _ hlaneH hawake) (hkept.lanes _ _ _ hy hawakeY)
        (fun x => { x.activate with vpc := _, slot := _, trap := none })
      exact ⟨_, hexec, horigin, hhandler, fun ht => by simp [State.exitLanes, State.resumeLane, resumePoint_snd _ _ _ ht]⟩
    case tkill =>
      have hexec := exec_tkill h hc hg hx hlegal hh
      rw [hr, killBy_handler hlaneH ho] at hexec
      rw [hr]
      obtain ⟨horigin, hhandler⟩ := lanes_exitHandler hlaneH hy (fun y => { y with state := .exited, trap := none })
      exact ⟨_, hexec, horigin, hhandler, by simp [State.exitLanes]⟩
    case exit =>
      obtain ⟨n, hn⟩ := hescalated 0xFF
      exact ⟨_, n, exec_exit_handler h hc hg hlegal hisH hpod, hn⟩
    case tesc =>
      obtain ⟨n, hn⟩ := hescalated k.toNat
      exact ⟨_, n, exec_tesc h hc hg hlegal hx hh, hn⟩
  case irdan =>
    have hh : x.handles (isHandler c.r) = true := by simp [Lane.handles, hin]
    have hlaneB := hr ▸ hlane
    have hlaB := hr ▸ hla
    have hclause : s.trapClause c.r l = some i.vpc := by rw [hr]; simp [State.trapClause, hlaneB, hin]
    refine ⟨fun hlegal hf hw => exec_tres_held h hc hg hx hlegal hh hf hla hclause hw, fun hlegal hf hw => ?tres, fun hlegal => ?tkill,
      fun hlegal => ?tesc⟩
    case tres =>
      have hexec := exec_tres_returns h hc hg hx hlegal hh hf hla hclause hw
      rw [hr] at hexec ⊢
      rw [returnTrap_irdan hlaB hlaneB hin] at hexec
      have hkept := (State.Awake.refl s).resumePoint (core := s.coreOf (.blk uid j)) (la := la) (t := x.reg a.toNat) (i := i)
      refine ⟨_, hexec, ?_, fun ht => by simp [resumePoint_snd _ _ _ ht]⟩
      rw [lane?_dropFromIssues, lane?_modLane_self, hkept.lanes _ _ _ hlaneB hawake]
      rfl
    case tkill =>
      have hexec := exec_tkill h hc hg hx hlegal hh
      rw [hr, killBy_irdan hlaneB] at hexec
      rw [hr]
      refine ⟨_, hexec, ?_, by simp [State.exitLanes]⟩
      rw [lane?_exitLanes_self, lane?_modLane_self, hlaneB]
      rfl
    case tesc =>
      have hexec := exec_tesc h hc hg hlegal hx hh
      rw [hr, escalateBy_irdan hlaB hlaneB hin] at hexec
      rw [hr]
      obtain ⟨u, n, hkept, he⟩ := escalateLane_eq (s.modLane (.blk uid j) l (fun y => { y with inTrap := none })) ⟨uid, j, l⟩ i
        (causeWord i.cause i.detail k.toNat la.record.entryOfTraps.isNone la.record.irdan false true) i.addr
      have hout : (s.modLane (.blk uid j) l (fun y => { y with inTrap := none })).lane? (.blk uid j) l = some { x with inTrap := none } := by
        rw [lane?_modLane_self, hlaneB]
        rfl
      refine ⟨_, n, hexec, ?_⟩
      rw [lane?_dropFromIssues, he, lane?_modLane_self, hkept.lanes _ _ _ hout hawake]
      rfl

end Sys2Proof.Proofs
end

section
/-! SUPPORT. Where a wave stands: its core, partition and space are kept by what memory and its requests do. -/

namespace Sys2Proof.Machine

/-- Each wave has in a state the core, the partition and the space that it has in another. -/
def State.SamePlace (s0 s : State) : Prop := ∀ r, s.coreOf r = s0.coreOf r ∧ s.partOf r = s0.partOf r ∧ s.spaceOf r = s0.spaceOf r

theorem State.SamePlace.refl (s : State) : s.SamePlace s := fun _ => ⟨rfl, rfl, rfl⟩

/-- Nothing but blocks, cores and launches counts. -/
theorem State.SamePlace.update {s0 s : State} (h : s0.SamePlace s) {clock mem side poisonMem parts slices remains issues memOps engOps entries
    podReqs pendingWrites device outputs turns focus cur stay next draws} :
    s0.SamePlace ⟨clock, mem, side, poisonMem, parts, slices, s.cores, s.launches, s.blocks, remains, issues, memOps, engOps, entries,
      podReqs, pendingWrites, device, outputs, turns, focus, cur, stay, next, draws⟩ :=
  fun r => by
    cases r with
    | blk u w => exact h (.blk u w)
    | hdl c q => exact h (.hdl c q)

theorem State.SamePlace.foldl {α : Type} {f : State → α → State} {s0 s : State} {l : List α} (h : s0.SamePlace s)
    (hf : ∀ s x, s0.SamePlace s → s0.SamePlace (f s x)) : s0.SamePlace (l.foldl f s) := by
  induction l generalizing s with
  | nil => exact h
  | cons x xs ih => exact ih (hf s x h)

theorem samePlaceFoldl2 {α β : Type} {f : β × State → α → β × State} {s0 : State} {a : β × State} {l : List α} (h : s0.SamePlace a.2)
    (hf : ∀ a x, s0.SamePlace a.2 → s0.SamePlace (f a x).2) : s0.SamePlace (l.foldl f a).2 := by
  induction l generalizing a with
  | nil => exact h
  | cons x xs ih => exact ih (hf a x h)

theorem samePlaceFoldl1 {α β : Type} {f : State × β → α → State × β} {s0 : State} {a : State × β} {l : List α} (h : s0.SamePlace a.1)
    (hf : ∀ a x, s0.SamePlace a.1 → s0.SamePlace (f a x).1) : s0.SamePlace (l.foldl f a).1 := by
  induction l generalizing a with
  | nil => exact h
  | cons x xs ih => exact ih (hf a x h)

theorem samePlaceOf2 {β : Type} {s0 : State} {p : β × State} {b : β} {t : State} (e : p = (b, t)) (h : s0.SamePlace p.2) :
    s0.SamePlace t := by
  rw [e] at h
  exact h

theorem samePlaceOf1 {β : Type} {s0 : State} {p : State × β} {b : β} {t : State} (e : p = (t, b)) (h : s0.SamePlace p.1) :
    s0.SamePlace t := by
  rw [e] at h
  exact h

theorem State.SamePlace.modCore {s0 s : State} {c : Nat} {f : Core → Core} (h : s0.SamePlace s)
    (hf : ∀ k, (f k).handlers = k.handlers := by exact fun _ => rfl) : s0.SamePlace (s.modCore c f) := by
  have hk (d : Nat) : ((s.modCore c f).core d).handlers = (s.core d).handlers := by
    rw [core_modCore]
    split
    · exact hf _
    · rfl
  have hl (r : WaveRef) : (s.modCore c f).launchOf r = s.launchOf r := by
    cases r with
    | blk u w => rfl
    | hdl d q => simp only [State.launchOf, State.launchKey, hk]; rfl
  intro r
  obtain ⟨hcore, hpart, hspace⟩ := h r
  refine ⟨?_, ?_, ?_⟩
  · rw [← hcore]; cases r <;> rfl
  · rw [← hpart, State.partOf, hl, State.partOf]
  · rw [← hspace, State.spaceOf, hl, State.spaceOf]

theorem State.SamePlace.modWave {s0 s : State} {r : WaveRef} {f : Wave → Wave} (h : s0.SamePlace s) : s0.SamePlace (s.modWave r f) := by
  intro q
  simpa only [coreOf_modWave, State.partOf, State.spaceOf, launchOf_modWave] using h q

/-- A change of a launch that leaves its partition and space. -/
theorem State.SamePlace.modLaunch {s0 s : State} {n : Nat} {f : Launch → Launch} (h : s0.SamePlace s)
    (hf : ∀ l, (f l).lid = l.lid ∧ (f l).part = l.part ∧ (f l).space = l.space := by exact fun _ => ⟨rfl, rfl, rfl⟩) :
    s0.SamePlace (s.modLaunch n f) := by
  have hl (r : WaveRef) : (s.modLaunch n f).launchOf r = (s.launchOf r).map (fun l => if l.lid == n then f l else l) := by
    have hk : (s.modLaunch n f).launchKey r = s.launchKey r := by cases r <;> rfl
    rw [State.launchOf, State.launchOf, hk]
    cases s.launchKey r with
    | none => rfl
    | some k => exact State.launch?_modLaunch s n k f fun l => (hf l).1
  intro r
  obtain ⟨hcore, hpart, hspace⟩ := h r
  refine ⟨?_, ?_, ?_⟩
  · rw [← hcore]; cases r <;> rfl
  · rw [← hpart, State.partOf, hl, State.partOf]
    cases s.launchOf r with
    | none => rfl
    | some l => simp only [Option.map_some, Option.getD_some]; split <;> simp [(hf l).2.1]
  · rw [← hspace, State.spaceOf, hl, State.spaceOf]
    cases s.launchOf r with
    | none => rfl
    | some l => simp only [Option.map_some, Option.getD_some]; split <;> simp [(hf l).2.2]

/-- A change of blocks that leaves their keys, launches and cores. -/
theorem State.SamePlace.mapBlocks {s0 s : State} {f : Block → Block} (h : s0.SamePlace s)
    (hf : ∀ b, (f b).uid = b.uid ∧ (f b).launch = b.launch ∧ (f b).core = b.core := by exact fun _ => ⟨rfl, rfl, rfl⟩) {clock mem side poisonMem
    parts slices remains issues memOps engOps entries podReqs pendingWrites device outputs turns focus cur stay next draws} :
    s0.SamePlace ⟨clock, mem, side, poisonMem, parts, slices, s.cores, s.launches, s.blocks.map f, remains, issues, memOps, engOps, entries,
      podReqs, pendingWrites, device, outputs, turns, focus, cur, stay, next, draws⟩ := by
  have hb (u : Nat) : (s.blocks.map f).find? (fun b => b.uid == u) = (s.blocks.find? (fun b => b.uid == u)).map f := by
    rw [List.find?_map]
    congr 1
    apply List.find?_congr
    intro b _
    simp [Function.comp, (hf b).1]
  intro r
  obtain ⟨hcore, hpart, hspace⟩ := h r
  cases r with
  | hdl d q => exact ⟨hcore, hpart, hspace⟩
  | blk u w =>
    simp only [State.coreOf, State.partOf, State.spaceOf, State.launchOf, State.launchKey, State.block?, hb, Option.map_map] at hcore hpart hspace ⊢
    have h1 : Block.core ∘ f = Block.core := funext fun b => (hf b).2.2
    have h2 : Block.launch ∘ f = Block.launch := funext fun b => (hf b).2.1
    exact ⟨by rw [← hcore]; exact congrArg (fun k => Option.getD (Option.map k _) 0) h1,
      by rw [← hpart]; exact congrArg (fun k => Option.getD (Option.map _ (Option.bind (Option.map k _) _)) 0) h2,
      by rw [← hspace]; exact congrArg (fun k => Option.getD (Option.map _ (Option.bind (Option.map k _) _)) 0) h2⟩

/-- A state, where there is one, in which waves stand as before. -/
def SamePlaceIfSome (s0 : State) (o : Option State) : Prop := ∀ t, o = some t → s0.SamePlace t

theorem SamePlaceIfSome.none {s0 : State} : SamePlaceIfSome s0 none := fun _ h => nomatch h

theorem SamePlaceIfSome.some {s0 t : State} (h : s0.SamePlace t) : SamePlaceIfSome s0 (some t) := fun _ e => Option.some.inj e ▸ h

theorem SamePlaceIfSome.map {s0 : State} {o : Option State} {f : State → State} (h : SamePlaceIfSome s0 o)
    (hf : ∀ s, s0.SamePlace s → s0.SamePlace (f s)) : SamePlaceIfSome s0 (o.map f) := fun t e => by
  obtain ⟨s, hs, rfl⟩ := Option.map_eq_some_iff.1 e
  exact hf s (h s hs)

theorem SamePlaceIfSome.bind {s0 : State} {o : Option State} {f : State → Option State} (h : SamePlaceIfSome s0 o)
    (hf : ∀ s, s0.SamePlace s → SamePlaceIfSome s0 (f s)) : SamePlaceIfSome s0 (o.bind f) := fun t e => by
  obtain ⟨s, hs, ht⟩ := Option.bind_eq_some_iff.1 e
  exact hf s (h s hs) t ht

theorem SamePlaceIfSome.mapOf {s0 : State} {α : Type} {o : Option α} {f : α → State} (hf : ∀ a, s0.SamePlace (f a)) :
    SamePlaceIfSome s0 (o.map f) := fun t e => by
  obtain ⟨a, -, rfl⟩ := Option.map_eq_some_iff.1 e
  exact hf a

theorem SamePlaceIfSome.getD {s0 s : State} {o : Option State} (h : SamePlaceIfSome s0 o) (hs : s0.SamePlace s) :
    s0.SamePlace (o.getD s) := by
  cases o with
  | none => exact hs
  | some t => exact h t rfl

theorem State.SamePlace.codeDrop {u0 : State} {s : State} {core part line : Nat} (h : u0.SamePlace s) :
    u0.SamePlace (s.codeDrop core part line) :=
  h.modCore

theorem State.SamePlace.modPart {u0 : State} {s : State} {p : Nat} {f : Partition → Partition} (h : u0.SamePlace s) :
    u0.SamePlace (s.modPart p f) :=
  h.update

theorem State.SamePlace.modSlice {u0 : State} {s : State} {i : Nat} {f : Slice → Slice} (h : u0.SamePlace s) : u0.SamePlace (s.modSlice i f) :=
  h.update

theorem State.SamePlace.useLine {u0 : State} {s : State} {part line : Nat} (h : u0.SamePlace s) : u0.SamePlace (s.useLine part line) := by
  unfold State.useLine
  split
  · exact h
  · split
    · exact h
    · exact h.modSlice

theorem State.SamePlace.modDevice {u0 : State} {s : State} {f : Device → Device} (h : u0.SamePlace s) : u0.SamePlace (s.modDevice f) :=
  h.update

theorem State.SamePlace.setBucket {u0 : State} {s : State} {b : Bucket} {a : BucketPoint} (h : u0.SamePlace s) :
    u0.SamePlace (s.setBucket b a) := by
  unfold State.setBucket
  split
  · exact h.modCore
  · exact h.modSlice
  · exact h.modDevice

theorem State.SamePlace.debitAll {u0 : State} {s : State} {bytes : Nat} {ps : List BucketPoint} (h : u0.SamePlace s) :
    u0.SamePlace (s.debitAll bytes ps) := by
  unfold State.debitAll
  refine h.foldl ?_
  intro s1 x h1
  split
  · exact h1.setBucket
  · exact h1

theorem State.SamePlace.ownRead {u0 : State} {s : State} {part pa n : Nat} (h : u0.SamePlace s) : u0.SamePlace (s.ownRead part pa n) :=
  h.debitAll.useLine

theorem State.SamePlace.podEntry {u0 : State} {s : State} {part rank : Nat} (h : u0.SamePlace s) : u0.SamePlace (s.podEntry part rank).2 := by
  unfold State.podEntry
  split
  · exact h
  · exact h.ownRead.modPart

theorem State.SamePlace.podCheck {u0 : State} {s : State} {part pa kind : Nat} (h : u0.SamePlace s) :
    u0.SamePlace (s.podCheck part pa kind).2 := by
  unfold State.podCheck
  split
  · exact h
  · exact h.podEntry

theorem State.SamePlace.takeTokens {u0 : State} {s : State} {p : BucketPoint} {bytes : Nat} (h : u0.SamePlace s) :
    SamePlaceIfSome u0 (s.takeTokens p bytes) := by
  unfold State.takeTokens
  split
  · exact SamePlaceIfSome.mapOf fun x => h.setBucket
  · exact .some h

theorem State.SamePlace.takeAll {u0 : State} {s : State} {bytes : Nat} {l : List BucketPoint} (h : u0.SamePlace s) : SamePlaceIfSome u0
    (s.takeAll bytes l) := by
  induction l generalizing s with
  | nil => exact .some h
  | cons p ps ih => exact h.takeTokens.bind fun _ ht => ih ht

theorem State.SamePlace.fresh {u0 : State} {s : State} (h : u0.SamePlace s) : u0.SamePlace s.fresh.2 :=
  h.update

theorem State.SamePlace.newPod {u0 : State} {s : State} {owner : PodOwner} {part pa : Nat} {ask : PodAsk} {die : Nat} (h : u0.SamePlace s) :
    u0.SamePlace (s.newPod owner part pa ask die).2 :=
  h.podEntry.fresh

theorem State.SamePlace.emit {u0 : State} {s : State} {o : Output} (h : u0.SamePlace s) : u0.SamePlace (s.emit o) :=
  h.update

theorem State.SamePlace.sendPod {u0 : State} {s : State} {owner : PodOwner} {part pa : Nat} {ask : PodAsk} {die : Nat} (h : u0.SamePlace s) :
    u0.SamePlace (s.sendPod owner part pa ask die).2 :=
  h.newPod.update.emit

theorem State.SamePlace.fetchPod {u0 : State} {s : State} {core part va pa : Nat} (h : u0.SamePlace s) :
    u0.SamePlace (s.fetchPod core part va pa).2 := by
  unfold State.fetchPod
  split
  · split
    · exact h.codeDrop
    · exact h
  · dsimp only
    split
    · exact h.podCheck
    · split
      · exact h.podCheck
      · split
        · exact h.podCheck
        · rename_i a heq hne hne1 a1 t heq1
          have ht : u0.SamePlace t := h.podCheck.takeAll _ heq1
          exact ht.sendPod

theorem State.SamePlace.askHost {u0 : State} {s : State} {line : Nat} {q : CacheReq} (h : u0.SamePlace s) : u0.SamePlace (s.askHost line q) := by
  unfold State.askHost
  split
  · exact h.emit
  · exact h

theorem State.SamePlace.modBank {u0 : State} {s : State} {b : Nat} {f : Bank → Bank} (h : u0.SamePlace s) : u0.SamePlace (s.modBank b f) :=
  h.modDevice

theorem State.SamePlace.activate {u0 : State} {s : State} {line : Nat} (h : u0.SamePlace s) : u0.SamePlace (s.activate line) := by
  unfold State.activate
  split
  · exact h.modBank.update
  · exact h

theorem State.SamePlace.writeBack {u0 : State} {s0 : State} {line : Nat} {bytes side : List Byte} {poison : Bool} (h : u0.SamePlace s0) :
    u0.SamePlace (s0.writeBack line bytes side poison) :=
  h.activate.update

theorem State.SamePlace.dropTag {u0 : State} {s : State} {i : Nat} {t : Tag} (h : u0.SamePlace s) : u0.SamePlace (s.dropTag i t) := by
  unfold State.dropTag
  refine State.SamePlace.modSlice ?_
  split
  · exact h.writeBack
  · exact h

theorem State.SamePlace.cleanTag {u0 : State} {s : State} {i : Nat} {t : Tag} (h : u0.SamePlace s) : u0.SamePlace (s.cleanTag i t) := by
  unfold State.cleanTag
  refine State.SamePlace.modSlice ?_
  split
  · exact h.writeBack
  · exact h

theorem State.SamePlace.takeHost {u0 : State} {s : State} {part line : Nat} {owned : Bool} {q : CacheReq} (h : u0.SamePlace s) :
    u0.SamePlace (s.takeHost part line owned q) := by
  unfold State.takeHost
  split
  · exact h
  · refine State.SamePlace.askHost ?_
    refine h.foldl ?_
    intro s1 x h1
    split
    · exact h1.dropTag
    · exact h1.cleanTag

theorem State.SamePlace.evict {u0 : State} {s : State} {i : Nat} {t : Tag} (h : u0.SamePlace s) : u0.SamePlace (s.evict i t) := by
  unfold State.evict
  dsimp only
  split
  · exact h.dropTag
  · exact h.dropTag.askHost

theorem State.SamePlace.makeRoom {u0 : State} {i keep : Nat} {plate : Bool} {fuel : Nat} {s : State} (h : u0.SamePlace s) :
    u0.SamePlace (State.makeRoom i keep plate fuel s) := by
  induction fuel generalizing s with
  | zero => exact h
  | succ n ih =>
    unfold State.makeRoom
    dsimp only
    split
    · exact h
    · split
      · exact h
      · exact ih h.evict

theorem State.SamePlace.placeAt {u0 : State} {s : State} {part i : Nat} {t : Tag} {bytes side : List Byte} (h : u0.SamePlace s) :
    u0.SamePlace (s.placeAt part i t bytes side) :=
  h.makeRoom.modSlice.modPart

theorem State.SamePlace.fillAs {u0 : State} {s : State} {part space line : Nat} {a : PageAttr} {poison owned : Bool} (h : u0.SamePlace s) :
    u0.SamePlace (s.fillAs part space line a poison owned) := by
  unfold State.fillAs
  split
  · exact h
  · split
    · exact h.modSlice
    · exact h.takeHost.activate.placeAt

theorem State.SamePlace.fillLine {u0 : State} {s : State} {part space line : Nat} {a : PageAttr} {poison : Bool} (h : u0.SamePlace s) :
    u0.SamePlace (s.fillLine part space line a poison) :=
  h.fillAs

theorem State.SamePlace.takeImage {u0 : State} {s : State} {core part space : Nat} {pages : List TlbEntry} {va n : Nat} (h : u0.SamePlace s) :
    SamePlaceIfSome u0 (s.takeImage core part space pages va n) := by
  unfold State.takeImage
  dsimp only
  split
  · exact .some h
  · refine SamePlaceIfSome.map ?_ fun s1 h1 => (h1.foldl fun s2 x h2 => h2.debitAll).foldl fun s2 x h2 => h2.fillLine
    split
    · exact .none
    · exact h.takeAll

theorem State.SamePlace.dropPodCode {u0 : State} {s : State} {core : Nat} (h : u0.SamePlace s) : u0.SamePlace (s.dropPodCode core) := by
  unfold State.dropPodCode
  split
  · exact h.modCore
  · exact h

theorem State.SamePlace.imageLines {u0 : State} {core part : Nat} {l : List (Nat × Nat)} {s : State} (h : u0.SamePlace s) :
    u0.SamePlace (State.imageLines core part l s).2 := by
  induction l generalizing s with
  | nil => exact h
  | cons l ls ih =>
    unfold State.imageLines
    split
    · exact ih h
    · split
      · next x t heq => exact ih (samePlaceOf2 heq h.fetchPod)
      · next f t heq =>
        have ht : u0.SamePlace t := samePlaceOf2 heq h.fetchPod
        split
        · split
          · next u hu => exact samePlaceOf2 hu (ih ht)
          · next a u hu => exact samePlaceOf2 hu (ih ht)
        · exact ht

end Sys2Proof.Machine
end

section
/-! SUPPORT. Commands to an engine at their issue: the coordinate group that they read, what the checks of their boxes leave as it was, and
the operation put in flight (R274, R275, Table 12.4). -/

namespace Sys2Proof.Machine

/-- Lanes hold the same values in registers. -/
def Wave.alike (w : Wave) (ls rs : List Nat) : Prop := ∀ l ∈ ls, ∀ r ∈ rs, w.reg l r = w.reg (ls.headD 0) r

section ReadGroup

variable {s : State} {c : Ctx} {w : Wave} {ts : List Nat} (ht : ts ≠ []) {u : Bool} {regs : List Nat}
  (hf : w.allFull (if u then ts else [ts.headD 0]) regs)
include ht hf

theorem readGroup_gates :
    s.gates c w (fun _ => (if u then ts else ts.take 1).flatMap (fun l => regs.map (fun r => (l, r)))) ts = (ts, s) := by
  have hread : (if u then ts else ts.take 1) = if u then ts else [ts.headD 0] := by
    cases ts with
    | nil => exact absurd rfl ht
    | cons t ts => simp
  refine gates_go fun _ _ => gate_go fun n hn x hx => ?_
  obtain ⟨l, hl, hn⟩ := List.mem_flatMap.1 hn
  obtain ⟨r, hr, rfl⟩ := List.mem_map.1 hn
  exact hf l (hread ▸ hl) x hx r hr

theorem readGroup_eq : s.readGroup c w ts u regs =
    if regs.any (fun n => (if u then ts else ts.take 1).any (fun l => w.reg l n != w.reg (ts.headD 0) n)) then
      (false, s.takeTraps c.r ts c.hdr c.slot 0x13 0 0) else (true, s) := by
  simp only [State.readGroup, readGroup_gates ht hf, List.isEmpty_iff, ht, if_false]
  rfl

/-- The registers of the group are full and do not differ: they are read. -/
theorem readGroup_alike (ha : u = true → w.alike ts regs) : s.readGroup c w ts u regs = (true, s) := by
  rw [readGroup_eq ht hf, if_neg]
  simp only [List.any_eq_true, not_exists, not_and, bne_iff_ne, ne_eq, not_not]
  intro n hn l hl
  cases u with
  | true => exact ha rfl l hl n hn
  | false =>
    cases ts with
    | nil => exact absurd rfl ht
    | cons t ts => simp at hl; simp [hl]

/-- Lanes of T that differ under `.u` trap with cause 0x13 (R274). -/
theorem readGroup_differ (hu : u = true) (ha : ¬ w.alike ts regs) :
    s.readGroup c w ts u regs = (false, s.takeTraps c.r ts c.hdr c.slot 0x13 0 0) := by
  rw [readGroup_eq ht hf, if_pos]
  subst hu
  by_contra hn
  refine ha fun l hl r hr => ?_
  by_contra hne
  exact hn (by simp only [List.any_eq_true, if_true, bne_iff_ne]; exact ⟨r, hr, l, hl, hne⟩)

end ReadGroup

namespace ChecksKept

variable {s t : State} (h : ChecksKept s t)
include h

theorem blockOf (r : WaveRef) : t.blockOf r = s.blockOf r := by
  cases r with
  | blk uid j => exact h.block? uid
  | hdl core q => rfl

theorem coreOf (r : WaveRef) : t.coreOf r = s.coreOf r := by
  cases r with
  | blk uid j => simp only [State.coreOf, h.block?]
  | hdl core q => rfl

theorem spaceOf (r : WaveRef) : t.spaceOf r = s.spaceOf r := by rw [State.spaceOf, State.spaceOf, h.launchOf]

/-- An operation made after the checks is the one made before them. -/
theorem newEng (c : Ctx) (id : Nat) (engine : Engine) (op : Nat) (o : EngOpts) (t1 t2 : Option Desc) (coords lanes : List Nat)
    (pages : List TlbEntry) :
    t.newEng c id engine op o t1 t2 coords lanes pages = s.newEng c id engine op o t1 t2 coords lanes pages := by
  simp only [State.newEng, h.blockOf, h.coreOf, h.partOf, h.spaceOf, h.launchOf]

end ChecksKept

theorem ChecksKept.translateAll (s : State) (core part space : Nat) (vas : List Nat) (acc : List TlbEntry) :
    ChecksKept s (s.translateAll core part space vas acc).2 := by
  induction vas generalizing s acc with
  | nil => exact .refl s
  | cons va vas ih =>
    rw [State.translateAll]
    split
    · exact ih s acc
    · have ht := ChecksKept.translate s core part space va
      split
      · next he => rw [he] at ht; exact ht
      · next he => rw [he] at ht; exact ht.trans (ih ..)

theorem translateAll_keeps {β : Type} {get : State → β} (hslice : ∀ s i f, get (State.modSlice s i f) = get s)
    (hcore : ∀ s k f, get (State.modCore s k f) = get s) (hdevice : ∀ s f, get (State.modDevice s f) = get s) (s : State)
    (core part space : Nat) (vas : List Nat) (acc : List TlbEntry) : get (s.translateAll core part space vas acc).2 = get s := by
  induction vas generalizing s acc with
  | nil => rfl
  | cons va vas ih =>
    rw [State.translateAll]
    split
    · exact ih s acc
    · have ht := translate_keeps hslice hcore hdevice s core part space va
      split
      · next he => rw [he] at ht; exact ht
      · next he => rw [he] at ht; exact (ih ..).trans ht

/-- Boxes that pass their checks: nothing has changed but what their translations change. -/
theorem boxChecks_translated {s u : State} {core part space bound : Nat} {bs : List Box} {pages : List TlbEntry}
    (h : s.boxChecks core part space bound bs = (.ok pages, u)) : ∃ vas, (s.translateAll core part space vas []).2 = u := by
  unfold State.boxChecks at h
  split at h
  · simp at h
  · split at h
    · simp at h
    · next he =>
      split at h
      · simp at h
      · split_ifs at h
        · cases h
          exact ⟨_, congrArg Prod.snd he⟩
        · simp at h

theorem boxChecks_kept {s u : State} {core part space bound : Nat} {bs : List Box} {pages : List TlbEntry}
    (h : s.boxChecks core part space bound bs = (.ok pages, u)) : ChecksKept s u ∧ u.next = s.next := by
  obtain ⟨vas, rfl⟩ := boxChecks_translated h
  exact ⟨.translateAll .., translateAll_keeps (get := State.next) (fun _ _ _ => rfl) (fun _ _ _ => rfl) (fun _ _ => rfl) ..⟩

/-- A wave of a block executes alone, with lanes in T, and neither an acquire nor a `waitu` holds it back. -/
structure EngineWave (s : State) (c : Ctx) (w : Wave) (g : BitVec 4) : Prop where
  alone : Alone s c w
  notHandler : isHandler c.r = false
  lanes : c.t w g ≠ []
  acquires : w.acquires = []
  waits : ∀ y ∈ w.groups, y.delivers = false

namespace EngineWave

variable {s : State} {c : Ctx} {w : Wave} {g : BitVec 4} (p : EngineWave s c w g)
include p

theorem free : w.memBlocked false = false := by
  simpa [Wave.memBlocked, p.acquires] using p.waits

theorem blockOnly (t : State) : s.blockOnly c t = t := by simp [State.blockOnly, p.notHandler]

/-- An instruction of such a wave that acts on its block, with its counter below its greatest value. -/
theorem execWord {i : Instr} {home : Bool} {vr sr : List Nat} (hi : LegalFor i vr sr w) {blocked : Wave → Bool} (hb : blocked w = false)
    (f : Ctx → Wave → State → State) :
    s.execWord i home vr sr (fun _ => true) (fun c w s => s.blockOnly c (s.unlessBlocked c (c.t w g) (blocked w) (f c w s))) =
      .next (f c w s) := by
  rw [execWord_alone p.alone hi rfl, p.blockOnly, unlessBlocked_free hb]

end EngineWave

end Sys2Proof.Machine
end

section
/-! SUPPORT. Commands to Chafer at their issue (R377, R381). -/

namespace Sys2Proof.Machine

/-- The checks that a Chafer command makes once its group is read, and its issue (R381). -/
def State.chaferChecked (s : State) (c : Ctx) (ts : List Nat) (op gp : Nat) (y : PodGroup) (D S : Desc) (o : EngOpts) (v : List Nat) : State :=
  let n := y.members.length
  let target := v.getD 0 0
  let sigOff := v.getD 1 0 + 2 ^ 32 * v.getD 2 0
  let isRoot := op != 7 || target == y.own
  let p := s.part (s.partOf c.r)
  let remote := if op = 2 then S else D
  let bounded := !isCollective op || (decide (D.reach ≤ p.expSize) && (!o.sig || decide (sigOff + 8 * n ≤ p.expSize)))
  if op != 3 && !chaferFormatOk op n isRoot D S then s.takeTraps c.r ts c.hdr c.slot 0x0F 0 0
  else if (op != 3 && remote.base % 128 != 0) || ((o.sig || op == 3) && sigOff % 8 != 0) then s.trapFree c ts 0x0A
  else if ((op ≤ 3 || op = 7) && decide (n ≤ target)) || !bounded || !p.podEnable then s.trapFree c ts 0x10
  else
    match s.boxChecks (s.coreOf c.r) (s.partOf c.r) (s.spaceOf c.r) 0 (if op = 3 then [] else chaferBoxes op isRoot D S) with
    | (.error f, u) => u.takeTraps c.r ts c.hdr c.slot f.1 f.2.1 f.2.2
    | (.ok pages, u) =>
      u.issueChafer c op gp y { u.newEng c u.next .chafer op o (if op = 3 then none else some D) (if op = 3 then none else some S) v ts pages with
        ring := some ⟨gp, y, target, sigOff, v.getD 3 0 + 2 ^ 32 * v.getD 4 0, [], [], [], false, [], 0⟩ }

section Command

variable {s : State} {c : Ctx} {w : Wave} {g : BitVec 4} (p : EngineWave s c w g) (hoc : w.ocCol < 15) {i : Instr} {op t1 t2 k gp : Nat}
  {u : Bool} {o : EngOpts} (hi : LegalFor i (rangeFrom (8 * k) 8) [] w)
include p hoc hi

/-- A command on a group register that is not defined, or with an unloaded descriptor (R381). -/
theorem chaferCommand_undefined
    (h : s.podGroup c.r gp = none ∨ (op ≠ 3 ∧ (s.descOf c.r t1 = none ∨ s.descOf c.r t2 = none))) :
    s.chaferCommand i op t1 t2 k gp u o g = .next (s.takeTraps c.r (c.t w g) c.hdr c.slot 0x0F 0 0) := by
  have hb : (w.memBlocked false || decide (15 ≤ w.ocCol)) = false := by simp [p.free]; omega
  refine (p.execWord hi (blocked := fun w => w.memBlocked false || decide (15 ≤ w.ocCol)) hb _).trans ?_
  simp only [List.isEmpty_iff, p.lanes, if_false]
  congr 1
  split
  · next hy hd hs =>
    rcases h with h | ⟨hop, h | h⟩
    · simp [h] at hy
    · simp [hop, h] at hd
    · simp [hop, h] at hs
  · rfl

variable {y : PodGroup} {D S : Desc} (hy : s.podGroup c.r gp = some y) (hD : op ≠ 3 → s.descOf c.r t1 = some D ∧ s.descOf c.r t2 = some S)
  (hf : w.allFull (if u then c.t w g else [(c.t w g).headD 0]) (chaferRegs op (8 * k) o.sig))
include hy hD hf

theorem chaferCommand_differ (hu : u = true) (ha : ¬ w.alike (c.t w g) (chaferRegs op (8 * k) o.sig)) :
    s.chaferCommand i op t1 t2 k gp u o g = .next (s.takeTraps c.r (c.t w g) c.hdr c.slot 0x13 0 0) := by
  have hb : (w.memBlocked false || decide (15 ≤ w.ocCol)) = false := by simp [p.free]; omega
  refine (p.execWord hi (blocked := fun w => w.memBlocked false || decide (15 ≤ w.ocCol)) hb _).trans ?_
  by_cases hop : op = 3
  · simp only [List.isEmpty_iff, p.lanes, if_false, hy, hop, if_true]
    subst hop
    rw [readGroup_differ p.lanes hf hu ha]
  · simp only [List.isEmpty_iff, p.lanes, if_false, hy, hop, (hD hop).1, (hD hop).2, readGroup_differ p.lanes hf hu ha]

theorem chaferCommand_alike (ha : u = true → w.alike (c.t w g) (chaferRegs op (8 * k) o.sig)) :
    s.chaferCommand i op t1 t2 k gp u o g =
      .next (s.chaferChecked c (c.t w g) op gp y D S o (w.groupVals (c.t w g) (8 * k) (chaferRegs op (8 * k) o.sig))) := by
  have hb : (w.memBlocked false || decide (15 ≤ w.ocCol)) = false := by simp [p.free]; omega
  refine (p.execWord hi (blocked := fun w => w.memBlocked false || decide (15 ≤ w.ocCol)) hb _).trans ?_
  by_cases hop : op = 3
  · subst hop
    simp only [List.isEmpty_iff, p.lanes, if_false, hy, if_true, readGroup_alike p.lanes hf ha]
    rfl
  · simp only [List.isEmpty_iff, p.lanes, if_false, hy, hop, (hD hop).1, (hD hop).2, readGroup_alike p.lanes hf ha, State.chaferChecked]
    rfl

end Command

/-- What a command in flight makes of the block of its wave `j`: the wave counts it, and a collective has taken its sequence number. -/
def Block.commandTaken (j op gp : Nat) (y : PodGroup) (b : Block) : Block :=
  { b with
    waves := modifyAt b.waves j (fun w => { w with ocCol := w.ocCol + 1 })
    gps := if 4 ≤ op then setAt b.gps gp (some { y with seq := y.seq + 1, aborted := y.aborted.filter (· != y.seq) }) else b.gps }

/-- A command that has passed its checks is in flight in the engine and counts in its wave; a collective takes its sequence number (R377,
R385). -/
theorem issueChafer_issued {u : State} {c : Ctx} {uid j : Nat} (hr : c.r = .blk uid j) {op gp : Nat} {y : PodGroup} {e : EngOp}
    (hroom : (u.engOps.filter (fun x => x.engine == .chafer)).length < 512) :
    u.issueChafer c op gp y e = ({ u with
      next := e.id + 1
      engOps := u.engOps ++ [if 4 ≤ op ∧ y.seq ∈ y.aborted then { e with failed := some u.drawFault.1 } else e]
      draws := if 4 ≤ op ∧ y.seq ∈ y.aborted then u.draws + 1 else u.draws } : State).modBlock uid (Block.commandTaken j op gp y) := by
  unfold State.issueChafer
  rw [if_neg (by omega), hr]
  by_cases hop : 4 ≤ op
  · have hnumbered (v : State) := modBlock_modBlock v uid
      (fun b => { b with waves := modifyAt b.waves j (fun w => { w with ocCol := w.ocCol + 1 }) })
      (fun b => { b with gps := setAt b.gps gp (some { y with seq := y.seq + 1, aborted := y.aborted.filter (· != y.seq) }) }) (fun _ => rfl)
    have htaken : Block.commandTaken j op gp y = fun b => { b with
        waves := modifyAt b.waves j (fun w => { w with ocCol := w.ocCol + 1 })
        gps := setAt b.gps gp (some { y with seq := y.seq + 1, aborted := y.aborted.filter (· != y.seq) }) } := by
      funext b
      rw [Block.commandTaken, if_pos hop]
    by_cases hl : y.seq ∈ y.aborted
    · simp only [isCollective, hop, decide_true, List.contains_eq_mem, hl, Bool.and_self, if_true, and_self, htaken]
      exact hnumbered { u with
        next := e.id + 1, engOps := u.engOps ++ [{ e with failed := some u.drawFault.1 }], draws := u.draws + 1 }
    · simp only [isCollective, hop, decide_true, List.contains_eq_mem, hl, decide_false, Bool.and_false, Bool.false_eq_true, if_false, if_true,
        and_false, htaken]
      exact hnumbered _
  · have htaken : Block.commandTaken j op gp y = fun b => { b with waves := modifyAt b.waves j (fun w => { w with ocCol := w.ocCol + 1 }) } := by
      funext b
      rw [Block.commandTaken, if_neg hop]
    simp only [isCollective, hop, decide_false, Bool.false_and, Bool.false_eq_true, if_false, false_and, htaken]
    rfl

/-- The formats of a command fit (check 2 of R381). -/
def chaferFits (op n : Nat) (isRoot : Bool) (D S : Desc) : Prop := op ≠ 3 → chaferFormatOk op n isRoot D S = true

/-- The remote box and the signal of a command are aligned (R381). -/
def chaferAligned (op : Nat) (o : EngOpts) (D S : Desc) (sigOff : Nat) : Prop :=
  (op ≠ 3 → (if op = 2 then S else D).base % 128 = 0) ∧ (o.sig = true ∨ op = 3 → sigOff % 8 = 0)

/-- The target, the box and the signals of a command lie within the group's windows, and the pod is enabled (R381). -/
def chaferWithin (op n : Nat) (o : EngOpts) (D : Desc) (p : Partition) (target sigOff : Nat) : Prop :=
  (op ≤ 3 ∨ op = 7 → target < n) ∧ (4 ≤ op → D.reach ≤ p.expSize ∧ (o.sig = true → sigOff + 8 * n ≤ p.expSize)) ∧ p.podEnable = true

/-- The offset of a command's signal. -/
def signalOffset (v : List Nat) : Nat := v.getD 1 0 + 2 ^ 32 * v.getD 2 0

theorem chaferFits_iff {op n : Nat} {isRoot : Bool} {D S : Desc} :
    chaferFits op n isRoot D S ↔ (op != 3 && !chaferFormatOk op n isRoot D S) = false := by
  simp [chaferFits]

theorem chaferAligned_iff {op : Nat} {o : EngOpts} {D S : Desc} {sigOff : Nat} : chaferAligned op o D S sigOff ↔
    ((op != 3 && (if op = 2 then S else D).base % 128 != 0) || ((o.sig || op == 3) && sigOff % 8 != 0)) = false := by
  simp only [chaferAligned, Bool.or_eq_false_iff, Bool.and_eq_false_imp, bne_iff_ne, ne_eq, bne_eq_false_iff_eq, Bool.or_eq_true, beq_iff_eq]

theorem chaferWithin_iff {op n : Nat} {o : EngOpts} {D : Desc} {p : Partition} {target sigOff : Nat} :
    chaferWithin op n o D p target sigOff ↔ (((op ≤ 3 || op = 7) && decide (n ≤ target)) ||
      !(!isCollective op || (decide (D.reach ≤ p.expSize) && (!o.sig || decide (sigOff + 8 * n ≤ p.expSize)))) || !p.podEnable) = false := by
  by_cases hop : 4 ≤ op
  · simp [chaferWithin, isCollective, hop, and_assoc, Bool.or_eq_true]
  · simp [chaferWithin, isCollective, hop]

section Checked

variable {s : State} {c : Ctx} {ts : List Nat} {op gp : Nat} {y : PodGroup} {D S : Desc} {o : EngOpts} {v : List Nat}

theorem chaferChecked_unfit (h : ¬ chaferFits op y.members.length (op != 7 || v.getD 0 0 == y.own) D S) :
    s.chaferChecked c ts op gp y D S o v = s.takeTraps c.r ts c.hdr c.slot 0x0F 0 0 :=
  if_pos (by simpa [chaferFits_iff] using h)

variable (hfit : chaferFits op y.members.length (op != 7 || v.getD 0 0 == y.own) D S)
include hfit

theorem chaferChecked_misaligned (h : ¬ chaferAligned op o D S (signalOffset v)) :
    s.chaferChecked c ts op gp y D S o v = s.trapFree c ts 0x0A := by
  rw [chaferFits_iff] at hfit
  rw [chaferAligned_iff, Bool.not_eq_false] at h
  exact (if_neg (ne_true_of_eq_false hfit)).trans (if_pos h)

variable (hal : chaferAligned op o D S (signalOffset v))
include hal

theorem chaferChecked_outside (h : ¬ chaferWithin op y.members.length o D (s.part (s.partOf c.r)) (v.getD 0 0) (signalOffset v)) :
    s.chaferChecked c ts op gp y D S o v = s.trapFree c ts 0x10 := by
  rw [chaferFits_iff] at hfit
  rw [chaferAligned_iff] at hal
  rw [chaferWithin_iff, Bool.not_eq_false] at h
  exact (if_neg (ne_true_of_eq_false hfit)).trans ((if_neg (ne_true_of_eq_false hal)).trans (if_pos h))

variable (hin : chaferWithin op y.members.length o D (s.part (s.partOf c.r)) (v.getD 0 0) (signalOffset v))
include hin

theorem chaferChecked_boxes : s.chaferChecked c ts op gp y D S o v =
    match s.boxChecks (s.coreOf c.r) (s.partOf c.r) (s.spaceOf c.r) 0
      (if op = 3 then [] else chaferBoxes op (op != 7 || v.getD 0 0 == y.own) D S) with
    | (.error f, u) => u.takeTraps c.r ts c.hdr c.slot f.1 f.2.1 f.2.2
    | (.ok pages, u) =>
      u.issueChafer c op gp y { u.newEng c u.next .chafer op o (if op = 3 then none else some D) (if op = 3 then none else some S) v ts pages with
        ring := some ⟨gp, y, v.getD 0 0, signalOffset v, v.getD 3 0 + 2 ^ 32 * v.getD 4 0, [], [], [], false, [], 0⟩ } := by
  rw [chaferFits_iff] at hfit
  rw [chaferAligned_iff] at hal
  rw [chaferWithin_iff] at hin
  exact (if_neg (ne_true_of_eq_false hfit)).trans ((if_neg (ne_true_of_eq_false hal)).trans (if_neg (ne_true_of_eq_false hin)))

end Checked

/-- A command to Chafer of a wave that nothing holds back, from its group register to its place in the engine (R377, R381, R383 to R385). -/
theorem chafer_issues {s : State} {c : Ctx} {w : Wave} {uid j : Nat} {k : Block} {g : BitVec 4} (p : EngineWave s c w g) (hr : c.r = .blk uid j)
    (hk : s.block? uid = some k) (hoc : w.ocCol < 15) {i : Instr} {op t1 t2 kg gp : Nat} {u : BitVec 1} {o : EngOpts}
    (he : exec i s = s.chaferCommand i op t1 t2 kg gp (u == 1) o g) (hi : LegalFor i (rangeFrom (8 * kg) 8) [] w) :
    let T := c.t w g
    let traps (v : State) (cause detail addr : Nat) : Prop := exec i s = .next (v.takeTraps c.r T c.hdr c.slot cause detail addr)
    let freeTraps (v : State) (cause : Nat) : Prop := traps v.drawFault.2 cause 0 v.drawFault.1
    (s.podGroup c.r gp = none ∨ (op ≠ 3 ∧ (s.descOf c.r t1 = none ∨ s.descOf c.r t2 = none)) → traps s 0x0F 0 0) ∧
    ∀ (y : PodGroup) (D S : Desc), s.podGroup c.r gp = some y →
      (op ≠ 3 → s.descOf c.r t1 = some D ∧ s.descOf c.r t2 = some S) →
      let regs := chaferRegs op (8 * kg) o.sig
      let v := w.groupVals T (8 * kg) regs
      let isRoot := op != 7 || v.getD 0 0 == y.own
      let alike : Prop := u = 1 → w.alike T regs
      let fits : Prop := chaferFits op y.members.length isRoot D S
      let aligned : Prop := chaferAligned op o D S (signalOffset v)
      let within : Prop := chaferWithin op y.members.length o D (s.part (s.partOf c.r)) (v.getD 0 0) (signalOffset v)
      let boxes := s.boxChecks (s.coreOf c.r) (s.partOf c.r) (s.spaceOf c.r) 0 (if op = 3 then [] else chaferBoxes op isRoot D S)
      w.allFull (if u = 1 then T else [T.headD 0]) regs →
      (¬ alike → traps s 0x13 0 0) ∧ (alike → ¬ fits → traps s 0x0F 0 0) ∧ (alike → fits → ¬ aligned → freeTraps s 0x0A) ∧
      (alike → fits → aligned → ¬ within → freeTraps s 0x10) ∧
      (∀ (f : Nat × Nat × Nat) (u1 : State), alike → fits → aligned → within → boxes = (.error f, u1) → traps u1 f.1 f.2.1 f.2.2) ∧
      (∀ (pages : List TlbEntry) (u1 : State), alike → fits → aligned → within → boxes = (.ok pages, u1) →
        let held := (u1.engOps.filter (fun x => x.engine == .chafer)).length
        let late : Prop := 4 ≤ op ∧ y.seq ∈ y.aborted
        let e : EngOp := { s.newEng c s.next .chafer op o (if op = 3 then none else some D) (if op = 3 then none else some S) v T pages
          with ring := some ⟨gp, y, v.getD 0 0, signalOffset v, v.getD 3 0 + 2 ^ 32 * v.getD 4 0, [], [], [], false, [], 0⟩ }
        let issued (e : EngOp) (draws : Nat) : Prop := ∃ f : Block → Block,
          exec i s = .next (({ u1 with next := s.next + 1, engOps := u1.engOps ++ [e], draws := draws } : State).modBlock uid f) ∧
          f k = { k with
            waves := setAt k.waves j { w with ocCol := w.ocCol + 1 }
            gps := if 4 ≤ op then setAt k.gps gp (some { y with seq := y.seq + 1, aborted := y.aborted.filter (· != y.seq) }) else k.gps }
        (512 ≤ held → exec i s = .next (u1.stall c.r)) ∧
        (held < 512 → ¬ late → issued e u1.draws) ∧
        (held < 512 → late → issued { e with failed := some u1.drawFault.1 } (u1.draws + 1))) := by
  intro T traps freeTraps
  refine ⟨fun h => he.trans (chaferCommand_undefined p hoc hi h), ?_⟩
  intro y D S hy hD regs v isRoot alike fits aligned within boxes hf
  have hu : (u == 1) = true ↔ u = 1 := beq_iff_eq
  have hfull : w.allFull (if (u == 1) = true then T else [T.headD 0]) regs := by simpa only [hu] using hf
  have hchecked (ha : alike) : exec i s = .next (s.chaferChecked c T op gp y D S o v) :=
    he.trans (chaferCommand_alike p hoc hi hy hD hfull fun h => ha (hu.1 h))
  refine ⟨fun ha => ?_, fun ha hfit => ?_, fun ha hfit hal => ?_, fun ha hfit hal hin => ?_, fun f u1 ha hfit hal hin hbox => ?_,
    fun pages u1 ha hfit hal hin hbox => ?_⟩
  · obtain ⟨h1, h2⟩ := Classical.not_imp.1 ha
    exact he.trans (chaferCommand_differ p hoc hi hy hD hfull (hu.2 h1) h2)
  · exact (hchecked ha).trans (congrArg _ (chaferChecked_unfit hfit))
  · exact (hchecked ha).trans (congrArg _ (chaferChecked_misaligned hfit hal))
  · exact (hchecked ha).trans (congrArg _ (chaferChecked_outside hfit hal hin))
  · have h := (hchecked ha).trans (congrArg _ (chaferChecked_boxes hfit hal hin))
    rwa [show s.boxChecks _ _ _ 0 _ = (.error f, u1) from hbox] at h
  · have h := (hchecked ha).trans (congrArg _ (chaferChecked_boxes hfit hal hin))
    rw [show s.boxChecks _ _ _ 0 _ = (.ok pages, u1) from hbox] at h
    obtain ⟨hkept, hnext⟩ := boxChecks_kept hbox
    simp only [hkept.newEng, hnext] at h
    have hwave : k.waves[j]? = some w := by
      have := p.alone.wave
      rwa [hr, State.wave?, hk] at this
    have htaken : Block.commandTaken j op gp y k = { k with
        waves := setAt k.waves j { w with ocCol := w.ocCol + 1 }
        gps := if 4 ≤ op then setAt k.gps gp (some { y with seq := y.seq + 1, aborted := y.aborted.filter (· != y.seq) }) else k.gps } := by
      rw [Block.commandTaken, modifyAt_eq_setAt hwave]
    refine ⟨fun hheld => h.trans (congrArg _ (if_pos hheld)), fun hroom hlate => ⟨_, ?_, htaken⟩, fun hroom hlate => ⟨_, ?_, htaken⟩⟩
    · rw [issueChafer_issued hr hroom, if_neg hlate, if_neg hlate] at h
      exact h
    · rw [issueChafer_issued hr hroom, if_pos hlate, if_pos hlate] at h
      exact h

end Sys2Proof.Machine
end

section
/-! SUPPORT. `cgrp`: the image of a group read and checked (R380). -/

namespace Sys2Proof.Machine

/-- A part of a run of bytes read at virtual addresses. -/
theorem readPaged_slice (s : State) (core part space : Nat) (ps : List TlbEntry) (va : Nat) {off n m : Nat} (h : off + n ≤ m) :
    ((s.readPaged core part space ps va m).drop off).take n = s.readPaged core part space ps (va + off) n := by
  have hrun : ((rangeFrom va m).drop off).take n = rangeFrom (va + off) n := by
    rw [rangeFrom_eq_range', rangeFrom_eq_range', List.drop_range', Nat.mul_one, List.take_range'_of_length_ge (by omega)]
  rw [State.readPaged, State.readPaged, ← List.map_drop, ← List.map_take, hrun]

/-- A number in an image, however much of the image is read. -/
theorem imageNat_readPaged (s : State) (core part space : Nat) (ps : List TlbEntry) (va : Nat) {off n m : Nat} (h : off + n ≤ m) :
    imageNat (s.readPaged core part space ps va m) off n = ofBytesLE (((s.readPaged core part space ps va (off + n)).drop off).take n) := by
  rw [imageNat, readPaged_slice _ _ _ _ _ _ h, readPaged_slice _ _ _ _ _ _ (le_refl _)]

theorem ChecksKept.samePlace {s t : State} (h : ChecksKept s t) : s.SamePlace t := fun r => ⟨h.coreOf r, h.partOf r, h.spaceOf r⟩

theorem State.SamePlace.trans {s t u : State} (h : s.SamePlace t) (k : t.SamePlace u) : s.SamePlace u := fun r => by
  obtain ⟨hc, hp, hs⟩ := h r
  obtain ⟨kc, kp, ks⟩ := k r
  exact ⟨kc.trans hc, kp.trans hp, ks.trans hs⟩

/-- A run of bytes that may be read leaves each wave in its place. -/
theorem admitRun_samePlace {s u : State} {core part space va n : Nat} {acc ps : List TlbEntry}
    (h : s.admitRun core part space va n acc = (.ok ps, u)) : s.SamePlace u := by
  unfold State.admitRun at h
  dsimp only at h
  split at h
  · simp at h
  · next he =>
    split at h
    · simp at h
    · have hk := (ChecksKept.translateAll s core part space (rangeFrom va n) acc).samePlace
      rw [he] at hk
      cases h
      exact hk

/-- A rank in an image. -/
theorem imageNat_rank {s : State} {core part space : Nat} {ps : List TlbEntry} {va m n : Nat} (h : m + 2 ≤ n) :
    imageNat (s.readPaged core part space ps (va + 8) n) m 2 =
      ofBytesLE (((s.readPaged core part space ps va (8 + m + 2)).drop (8 + m)).take 2) := by
  rw [imageNat, readPaged_slice _ _ _ _ _ _ h, readPaged_slice _ _ _ _ _ _ (le_refl _), Nat.add_assoc]

section Image

variable {s : State} {c : Ctx} {w : Wave} {g : BitVec 4} (p : EngineWave s c w g) {cb : BitVec 6} {gp : BitVec 3}
  (hi : LegalFor (.cgrp cb gp g) [] [cb.toNat, cb.toNat + 1] w) {va : Nat} (hva : w.sreg64 cb.toNat = va)

/-- Whether an earlier write of the wave to the image is open (R249). -/
def State.imageOpen (s : State) (c : Ctx) (part space va : Nat) (ps : List TlbEntry) (n : Nat) : Bool :=
  (pagedLines part space ps va n).any (fun l => s.writeOpen part 0 (true, l.1) (c.r, s.next))

include p hi hva

theorem exec_cgrp_misaligned (h : va % 8 ≠ 0) : exec (.cgrp cb gp g) s = .next (s.takeTraps c.r (c.t w g) c.hdr c.slot 0x0A 0 va) := by
  refine (p.execWord hi (blocked := fun w => w.memBlocked false) p.free _).trans ?_
  simp [p.lanes, hva, h, State.trapAt]

variable (hal : va % 8 = 0)
include hal

theorem exec_cgrp_fault {f : Nat × Nat × Nat} {u : State}
    (hrun : s.admitRun (s.coreOf c.r) (s.partOf c.r) (s.spaceOf c.r) va 8 [] = (.error f, u)) :
    exec (.cgrp cb gp g) s = .next (u.takeTraps c.r (c.t w g) c.hdr c.slot f.1 f.2.1 f.2.2) := by
  refine (p.execWord hi (blocked := fun w => w.memBlocked false) p.free _).trans ?_
  simp [p.lanes, hva, hal, hrun, State.trapAt]

variable {ps : List TlbEntry} {u1 : State} (hrun : s.admitRun (s.coreOf c.r) (s.partOf c.r) (s.spaceOf c.r) va 8 [] = (.ok ps, u1))
include hrun

/-- The wave waits for an earlier write of its own to the image's header (R249). -/
theorem exec_cgrp_open (ho : u1.imageOpen c (s.partOf c.r) (s.spaceOf c.r) va ps 8 = true) :
    exec (.cgrp cb gp g) s = .next (u1.stall c.r) := by
  refine (p.execWord hi (blocked := fun w => w.memBlocked false) p.free _).trans ?_
  unfold State.imageOpen at ho
  simp [p.lanes, hva, hal, hrun, ho]

variable (ho : u1.imageOpen c (s.partOf c.r) (s.spaceOf c.r) va ps 8 = false)
include ho

theorem exec_cgrp_unreadable {a : Nat} {v : State}
    (hl : State.imageLines (s.coreOf c.r) (s.partOf c.r) (pagedLines (s.partOf c.r) (s.spaceOf c.r) ps va 8) u1 = (.error a, v)) :
    exec (.cgrp cb gp g) s = .next (v.takeTraps c.r (c.t w g) c.hdr c.slot 0x10 0 a) := by
  refine (p.execWord hi (blocked := fun w => w.memBlocked false) p.free _).trans ?_
  unfold State.imageOpen at ho
  simp [p.lanes, hva, hal, hrun, ho, hl, State.trapAt]

theorem exec_cgrp_awaits {v : State}
    (hl : State.imageLines (s.coreOf c.r) (s.partOf c.r) (pagedLines (s.partOf c.r) (s.spaceOf c.r) ps va 8) u1 = (.ok false, v)) :
    exec (.cgrp cb gp g) s = .next (v.stall c.r) := by
  refine (p.execWord hi (blocked := fun w => w.memBlocked false) p.free _).trans ?_
  unfold State.imageOpen at ho
  simp [p.lanes, hva, hal, hrun, ho, hl]

variable {v1 : State}
  (hl : State.imageLines (s.coreOf c.r) (s.partOf c.r) (pagedLines (s.partOf c.r) (s.spaceOf c.r) ps va 8) u1 = (.ok true, v1))
  {n : Nat} (hn : imageNat (v1.readPaged (s.coreOf c.r) (s.partOf c.r) (s.spaceOf c.r) ps va 8) 0 4 = n)
include hl hn

/-- An image that names no rank, or more than a pod has, read as far as its header. -/
theorem exec_cgrp_size (hz : n = 0 ∨ 1024 < n) : exec (.cgrp cb gp g) s = .next (
    match v1.takeImage (s.coreOf c.r) (s.partOf c.r) (s.spaceOf c.r) ps va 8 with
    | none => v1.stall c.r
    | some v => v.takeTraps c.r (c.t w g) c.hdr c.slot 0x0F 0 0) := by
  refine (p.execWord hi (blocked := fun w => w.memBlocked false) p.free _).trans ?_
  unfold State.imageOpen at ho
  have hz' : (decide (n = 0) || decide (1024 < n)) = true := by simpa using hz
  simp only [List.isEmpty_iff, p.lanes, if_false, hva, hal, hrun, ho, hl, hn, hz', if_true, bne_self_eq_false, Bool.false_eq_true]
  rfl

variable (h1 : 1 ≤ n) (h2 : n ≤ 1024) {qs : List TlbEntry} {u2 v : State}
  (hrun2 : v1.admitRun (s.coreOf c.r) (s.partOf c.r) (s.spaceOf c.r) va (8 + 2 * n) ps = (.ok qs, u2))
  (ho2 : u2.imageOpen c (s.partOf c.r) (s.spaceOf c.r) va qs (8 + 2 * n) = false)
  (hl2 : State.imageLines (s.coreOf c.r) (s.partOf c.r) (pagedLines (s.partOf c.r) (s.spaceOf c.r) qs va (8 + 2 * n)) u2 = (.ok true, v))
include h1 h2 hrun2 ho2 hl2

/-- An image whose lines are all here: it is read, and checked (R380). -/
theorem exec_cgrp_read : exec (.cgrp cb gp g) s = .next (
    match v.takeImage (s.coreOf c.r) (s.partOf c.r) (s.spaceOf c.r) qs va (8 + 2 * n) with
    | none => v.stall c.r
    | some v2 =>
      match (pagedLines (s.partOf c.r) (s.spaceOf c.r) qs va (8 + 2 * n)).find?
        (fun l => !isPod (128 * l.1) && (v2.homeLine (s.partOf c.r) l.1).2.2) with
      | some l => v2.takeTraps c.r (c.t w g) c.hdr c.slot 0x11 0 l.2
      | none => (v2.dropPodCode (s.coreOf c.r)).defineGroup c (c.t w g) gp.toNat
          (imageNat (v1.readPaged (s.coreOf c.r) (s.partOf c.r) (s.spaceOf c.r) ps va 8) 4 4)
          ((upTo n).map (fun i => imageNat (v2.readPaged (s.coreOf c.r) (s.partOf c.r) (s.spaceOf c.r) qs (va + 8) (2 * n)) (2 * i) 2))) := by
  refine (p.execWord hi (blocked := fun w => w.memBlocked false) p.free _).trans ?_
  unfold State.imageOpen at ho ho2
  have hz : (decide (n = 0) || decide (1024 < n)) = false := by simp; omega
  simp only [List.isEmpty_iff, p.lanes, if_false, hva, hal, hrun, ho, hl, hn, hz, bne_self_eq_false, Bool.false_eq_true, hrun2, ho2, hl2]
  rfl

end Image

section DefineGroup

variable {s : State} {c : Ctx} {ts : List Nat} {gp reserved : Nat} {ranks : List Nat}

/-- A block with a group register defined. -/
def Block.defineGroup (gp : Nat) (y : PodGroup) (b : Block) : Block := { b with gps := setAt b.gps gp (some y) }

/-- A group image that is well formed, for the own rank and a group register without commands (R380). -/
def State.imageOk (s : State) (c : Ctx) (gp reserved : Nat) (ranks : List Nat) : Prop :=
  reserved = 0 ∧ hasRepeat ranks = false ∧ (s.part (s.partOf c.r)).podRank ∈ ranks ∧ s.groupBusy c.r gp = false

theorem imageOk_iff : s.imageOk c gp reserved ranks ↔ (reserved != 0 || hasRepeat ranks || !ranks.contains (s.part (s.partOf c.r)).podRank ||
    s.groupBusy c.r gp) = false := by
  simp [State.imageOk, and_assoc]

theorem defineGroup_malformed (h : ¬ s.imageOk c gp reserved ranks) :
    s.defineGroup c ts gp reserved ranks = s.takeTraps c.r ts c.hdr c.slot 0x0F 0 0 := by
  rw [imageOk_iff, Bool.not_eq_false] at h
  exact if_pos h

variable (h : s.imageOk c gp reserved ranks)
include h

theorem defineGroup_noPod (he : (s.part (s.partOf c.r)).podEnable = false) : s.defineGroup c ts gp reserved ranks = s.trapFree c ts 0x10 :=
  (if_neg (ne_true_of_eq_false (imageOk_iff.1 h))).trans (if_pos (by simp [he]))

variable (he : (s.part (s.partOf c.r)).podEnable = true)
include he

theorem defineGroup_invalid {v : State} (hv : s.ranksValid (s.partOf c.r) ranks = (false, v)) :
    s.defineGroup c ts gp reserved ranks = v.trapFree c ts 0x10 := by
  refine (if_neg (ne_true_of_eq_false (imageOk_iff.1 h))).trans ((if_neg (by simp [he])).trans ?_)
  rw [hv]
  rfl

theorem defineGroup_defines {uid j : Nat} (hr : c.r = .blk uid j) {v : State} (hv : s.ranksValid (s.partOf c.r) ranks = (true, v)) :
    s.defineGroup c ts gp reserved ranks =
      v.modBlock uid (Block.defineGroup gp ⟨ranks, ranks.findIdx (· == (s.part (s.partOf c.r)).podRank), 0, []⟩) := by
  refine (if_neg (ne_true_of_eq_false (imageOk_iff.1 h))).trans ((if_neg (by simp [he])).trans ?_)
  rw [hv, hr]
  rfl

end DefineGroup

end Sys2Proof.Machine

namespace Sys2Proof.Proofs

open Sys2Proof.Machine

/-- Settles O51: the image of `cgrp` is followed line by line through its reads and checks; the other commands are one command with its
options. -/
theorem collectiveCommands : Obligations.CollectiveCommands := by
  intro d4 s4 cb kg gp z u c1 r1 wr g s c w uid j k ha hr hk ht hacq hwaits hoc
  have p : EngineWave s c w g := ⟨ha, by rw [hr]; rfl, ht, hacq, hwaits⟩
  refine ⟨fun hi => ?group, ?commands⟩
  case group =>
    intro va i stalls lines written reads image
    have hva : w.sreg64 cb.toNat = va := rfl
    have hopen (v : State) (ps : List TlbEntry) (n : Nat) :
        written v ps n ↔ v.imageOpen c (s.partOf c.r) (s.spaceOf c.r) va ps n = false := by
      simp only [State.imageOpen, List.any_eq_false, Bool.not_eq_true]
      rfl
    refine ⟨exec_cgrp_misaligned p hi hva, fun f u1 hal hrun => exec_cgrp_fault p hi hva hal hrun, fun ps u1 hal hrun => ⟨fun hw => ?_,
      fun a v hw hl => exec_cgrp_unreadable p hi hva hal hrun ((hopen ..).1 hw) hl,
      fun v hw hl => exec_cgrp_awaits p hi hva hal hrun ((hopen ..).1 hw) hl, fun v1 ⟨hw, hl⟩ => ?_⟩⟩
    · rw [hopen, Bool.not_eq_false] at hw
      exact exec_cgrp_open p hi hva hal hrun hw
    · intro n
      have hn : imageNat (v1.readPaged (s.coreOf c.r) (s.partOf c.r) (s.spaceOf c.r) ps va 8) 0 4 = n := imageNat_readPaged _ _ _ _ _ _ (by omega)
      have hw := (hopen ..).1 hw
      refine ⟨fun hz => ?_, fun qs u2 v h1 h2 hrun2 ⟨hw2, hl2⟩ => ?_⟩
      · have hx := exec_cgrp_size p hi hva hal hrun hw hl hn hz
        refine ⟨fun ht => ?_, fun v ht => ?_⟩ <;> rw [ht] at hx <;> exact hx
      · have hx := exec_cgrp_read p hi hva hal hrun hw hl hn h1 h2 hrun2 ((hopen ..).1 hw2) hl2
        refine ⟨fun ht => ?_, fun v2 ht => ?_⟩
        · rw [ht] at hx
          exact hx
        rw [ht] at hx
        intro bad ranks v3 wellFormed
        have hranks : (upTo n).map (fun i => imageNat (v2.readPaged (s.coreOf c.r) (s.partOf c.r) (s.spaceOf c.r) qs (va + 8) (2 * n)) (2 * i) 2)
            = ranks := by
          refine List.map_congr_left fun m hm => ?_
          have hm : m < n := (mem_upTo n m).1 hm
          exact imageNat_rank (by omega)
        have hplace : v3.partOf c.r = s.partOf c.r := (((admitRun_samePlace hrun).trans
          (samePlaceOf2 hl (State.SamePlace.refl u1).imageLines)).trans ((admitRun_samePlace hrun2).trans
          ((samePlaceOf2 hl2 (State.SamePlace.refl u2).imageLines).trans (((State.SamePlace.refl v).takeImage v2 ht).dropPodCode))) c.r).2.1
        have hwell : wellFormed ↔ v3.imageOk c gp.toNat (image v1 ps 4 4) ranks := by
          rw [State.imageOk, hplace]
        refine ⟨fun l hf => ?_, fun hf => ?_⟩
        · dsimp only at hx
          rw [show List.find? _ _ = some l from hf] at hx
          exact hx
        · have hdef : exec (.cgrp cb gp g) s = .next (v3.defineGroup c (c.t w g) gp.toNat (image v1 ps 4 4) ranks) := by
            dsimp only at hx
            rw [show List.find? _ _ = none from List.find?_eq_none.2 fun l hl => Bool.not_eq_true _ ▸ hf l hl, hranks,
              imageNat_readPaged _ _ _ _ _ _ (by omega)] at hx
            exact hx
          refine ⟨fun h => hdef.trans (congrArg _ (defineGroup_malformed (hwell.not.1 h))), fun h he => ?_, fun v4 h he hv => ?_,
            fun v4 h he hv => ?_⟩
          · exact hdef.trans (congrArg _ (defineGroup_noPod (hwell.1 h) (hplace ▸ he)))
          · exact hdef.trans (congrArg _ (defineGroup_invalid (hwell.1 h) (hplace ▸ he) (hplace ▸ hv)))
          · exact ⟨_, hdef.trans (congrArg _ (defineGroup_defines (hwell.1 h) (hplace ▸ he) hr (hplace ▸ hv))), by rw [hplace]; rfl⟩
  case commands =>
    exact ⟨fun hi => chafer_issues p hr hk hoc rfl hi, fun hi => chafer_issues p hr hk hoc rfl hi, fun hi => chafer_issues p hr hk hoc rfl hi,
      fun hi => chafer_issues p hr hk hoc rfl hi, fun hi => chafer_issues p hr hk hoc rfl hi, fun hi => chafer_issues p hr hk hoc rfl hi,
      fun hi => chafer_issues p hr hk hoc rfl hi⟩

end Sys2Proof.Proofs
end


section
/-! SUPPORT. Copy commands at their issue (R274 to R276, R290, R291). -/

namespace Sys2Proof.Machine

section IssueCopy

variable {i : Instr} {s : State} {c : Ctx} {ts : List Nat} {e : EngOp} {D S : Desc}

/-- An operation of a wave in flight in the Compositor (R275). -/
def CopyInFlight (i : Instr) (s : State) (c : Ctx) (v : State) (e : EngOp) : Prop :=
  ∃ h : Wave → Wave, exec i s = .next (({ v with next := s.next + 1, engOps := v.engOps ++ [e] } : State).modWave c.r h) ∧
    ∀ z, h z = { z with ocCpy := z.ocCpy + 1 }

/-- A command whose origins are in place: checks 4 to 7 of Table 12.4, and its issue when the Compositor has room (R275, R276). -/
def BoxesChecked (i : Instr) (s : State) (c : Ctx) (ts : List Nat) (e : EngOp) (D S : Desc) : Prop :=
  (∀ (p : Nat × Nat × Nat) (v : State), s.boxChecks e.core e.part e.space (s.scratchSize c.r) (e.copyBoxes D S) = (.error p, v) →
    exec i s = .next (v.takeTraps c.r ts c.hdr c.slot p.1 p.2.1 p.2.2)) ∧
  (∀ (pages : List TlbEntry) (v : State), s.boxChecks e.core e.part e.space (s.scratchSize c.r) (e.copyBoxes D S) = (.ok pages, v) →
    (v.copiesOn e.core < 64 → CopyInFlight i s c v { e with pages := pages }) ∧
    (64 ≤ v.copiesOn e.core → exec i s = .next (v.stall c.r)))

theorem issueCopy_checked (hid : e.id = s.next) (he : exec i s = .next (s.issueCopy c ts e D S)) : BoxesChecked i s c ts e D S := by
  refine ⟨fun p v h => he.trans ?_, fun pages v h => ⟨fun hc => ⟨_, he.trans ?_, fun _ => rfl⟩, fun hc => he.trans ?_⟩⟩
  · rw [State.issueCopy, h]
    rfl
  · rw [State.issueCopy, h]
    dsimp only
    rw [if_neg (by omega), hid]
    rfl
  · rw [State.issueCopy, h]
    exact congrArg _ (if_pos hc)

/-- The granules that hold the index list of a `cpyg` (R290). -/
def indexRows (off n : Nat) : List Nat := rangeFrom (off / 16) ((off + n + 15) / 16 - off / 16)

/-- The index list of a `cpyg` read at its issue, or waited for (R290). -/
theorem issueGather_gathers {b : Block} (hb : s.blockOf c.r = some b) (hid : e.id = s.next)
    (he : exec i s = .next (s.issueGather c ts e D S)) {off : Nat} (hoff : e.coords.getD 5 0 = off) :
    let rows := indexRows off (4 * D.box 1)
    let waits : Prop := (∃ y ∈ rows, s.writeOpen (s.partOf c.r) b.uid (false, y) (c.r, s.next) = true) ∨
      (e.opts.wf = true ∧ ∃ y ∈ rows, b.granuleFull y = false)
    (off % 4 ≠ 0 → exec i s = .next (s.takeTraps c.r ts c.hdr c.slot 0x0A 0 off)) ∧
    (off % 4 = 0 → s.scratchSize c.r < off + 4 * D.box 1 → exec i s = .next (s.takeTraps c.r ts c.hdr c.slot 0x0B 0 off)) ∧
    (off % 4 = 0 → off + 4 * D.box 1 ≤ s.scratchSize c.r →
      (waits → exec i s = .next (s.stall c.r)) ∧

    (¬ waits → BoxesChecked i s c ts { e with coords := e.coords ++ (rangeFrom 0 (D.box 1)).map (fun y => b.scratchNat (off + 4 * y) 4) } D S)) := by
  intro rows waits
  unfold State.issueGather at he
  simp only [hb, hoff] at he
  refine ⟨fun h => ?_, fun h hb => ?_, fun h hb => ?_⟩
  · rwa [if_pos (by simpa using h)] at he
  · rwa [if_neg (by simpa using h), if_pos (by simpa using hb)] at he
  · rw [if_neg (by simpa using h), if_neg (by simpa using hb)] at he
    change exec i s = .next (if rows.any _ then _ else if e.opts.wf && !rows.all b.granuleFull then _ else _) at he
    by_cases hopen : ∃ y ∈ rows, s.writeOpen (s.partOf c.r) b.uid (false, y) (c.r, s.next) = true
    · rw [if_pos (List.any_eq_true.2 hopen)] at he
      exact ⟨fun _ => he, fun hw => absurd (.inl hopen) hw⟩
    rw [if_neg (fun h => hopen (List.any_eq_true.1 h))] at he
    by_cases hfull : e.opts.wf = true ∧ ∃ y ∈ rows, b.granuleFull y = false
    · rw [if_pos (by simpa using hfull)] at he
      exact ⟨fun _ => he, fun hw => absurd (.inr hfull) hw⟩
    · rw [if_neg (by simpa using hfull)] at he
      exact ⟨fun hw => (hw.elim hopen hfull).elim, fun _ => issueCopy_checked (e := { e with coords := _ }) hid he⟩

end IssueCopy

/-- Check 2 and 3 of a copy command whose operands are read, and what follows (Table 12.4). -/
def State.copyChecked (s : State) (c : Ctx) (ts : List Nat) (op : Nat) (o : EngOpts) (coords : List Nat) (D S : Desc) : State :=
  let e := s.newEng c s.next .compositor op o (some D) (if op = 6 then none else some S) coords ts []
  if !copyFormatOk op o D S then s.takeTraps c.r ts c.hdr c.slot 0x0F 0 0
  else
    match (D.misplaced (coords.take 4)).or
      (if op = 6 then none else S.misplaced (if op = 7 then [coords.getD 4 0, 0, coords.getD 6 0, coords.getD 7 0] else coords.drop 4)) with
    | some a => s.takeTraps c.r ts c.hdr c.slot 0x0A 0 a
    | none => if op = 7 then s.issueGather c ts e D S else s.issueCopy c ts e D S

section CopyCommand

variable {s : State} {c : Ctx} {w : Wave} {g : BitVec 4} (p : EngineWave s c w g) (hoc : w.ocCpy < 15) {i : Instr} {op t1 t2 k : Nat}
  {u : Bool} {o : EngOpts} (hi : LegalFor i (rangeFrom (8 * k) 8) [] w)
include p hoc hi

theorem copyCommand_undefined (h : s.descOf c.r t1 = none ∨ (op ≠ 6 ∧ s.descOf c.r t2 = none)) :
    s.copyCommand i op t1 t2 k u o g = .next (s.takeTraps c.r (c.t w g) c.hdr c.slot 0x0F 0 0) := by
  have hb : (w.memBlocked false || decide (15 ≤ w.ocCpy)) = false := by simp [p.free]; omega
  refine (p.execWord hi (blocked := fun w => w.memBlocked false || decide (15 ≤ w.ocCpy)) hb _).trans ?_
  simp only [List.isEmpty_iff, p.lanes, if_false]
  congr 1
  split
  · next hd hs =>
    rcases h with h | ⟨hop, h⟩
    · simp [h] at hd
    · simp [hop, h] at hs
  · rfl

variable {D S : Desc} (hD : s.descOf c.r t1 = some D) (hS : (if op = 6 then s.descOf c.r t1 else s.descOf c.r t2) = some S)
  (hf : w.allFull (if u then c.t w g else [(c.t w g).headD 0]) (copyRegs op (8 * k) D S))
include hD hS hf

theorem copyCommand_differ (hu : u = true) (ha : ¬ w.alike (c.t w g) (copyRegs op (8 * k) D S)) :
    s.copyCommand i op t1 t2 k u o g = .next (s.takeTraps c.r (c.t w g) c.hdr c.slot 0x13 0 0) := by
  have hb : (w.memBlocked false || decide (15 ≤ w.ocCpy)) = false := by simp [p.free]; omega
  refine (p.execWord hi (blocked := fun w => w.memBlocked false || decide (15 ≤ w.ocCpy)) hb _).trans ?_
  simp only [List.isEmpty_iff, p.lanes, if_false, hS]
  rw [hD]
  dsimp only
  rw [readGroup_differ p.lanes hf hu ha]

theorem copyCommand_alike (ha : u = true → w.alike (c.t w g) (copyRegs op (8 * k) D S)) :
    s.copyCommand i op t1 t2 k u o g =
      .next (s.copyChecked c (c.t w g) op o (w.groupVals (c.t w g) (8 * k) (copyRegs op (8 * k) D S)) D S) := by
  have hb : (w.memBlocked false || decide (15 ≤ w.ocCpy)) = false := by simp [p.free]; omega
  refine (p.execWord hi (blocked := fun w => w.memBlocked false || decide (15 ≤ w.ocCpy)) hb _).trans ?_
  simp only [List.isEmpty_iff, p.lanes, if_false, hS]
  rw [hD]
  dsimp only
  rw [readGroup_alike p.lanes hf ha]
  rfl

end CopyCommand

section CopyChecked

variable {i : Instr} {s : State} {c : Ctx} {ts : List Nat} {op : Nat} {o : EngOpts} {coords : List Nat} {D S : Desc}

theorem copyChecked_unfit (h : copyFormatOk op o D S = false) :
    s.copyChecked c ts op o coords D S = s.takeTraps c.r ts c.hdr c.slot 0x0F 0 0 := if_pos (by simp [h])

variable (h : copyFormatOk op o D S = true)
include h

theorem copyChecked_destMisplaced {a : Nat} (hd : D.misplaced (coords.take 4) = some a) :
    s.copyChecked c ts op o coords D S = s.takeTraps c.r ts c.hdr c.slot 0x0A 0 a := by
  simp only [State.copyChecked, h, hd, Bool.not_true, Bool.false_eq_true, if_false, Option.some_or]

variable (hd : D.misplaced (coords.take 4) = none)
include hd

/-- A fill whose destination is in place; it has no source. -/
theorem copyChecked_fill (hop : op = 6) :
    s.copyChecked c ts op o coords D S = s.issueCopy c ts (s.newEng c s.next .compositor 6 o (some D) none coords ts []) D S := by
  subst hop
  simp only [State.copyChecked, h, hd, Bool.not_true, Bool.false_eq_true, if_false, Option.none_or, if_true, Nat.reduceEqDiff]

variable (hop : op ≠ 6)
include hop

theorem copyChecked_sourceMisplaced {a : Nat}
    (hs : S.misplaced (if op = 7 then [coords.getD 4 0, 0, coords.getD 6 0, coords.getD 7 0] else coords.drop 4) = some a) :
    s.copyChecked c ts op o coords D S = s.takeTraps c.r ts c.hdr c.slot 0x0A 0 a := by
  simp only [State.copyChecked, h, hd, hop, hs, Bool.not_true, Bool.false_eq_true, if_false, Option.none_or]

theorem copyChecked_issues
    (hs : S.misplaced (if op = 7 then [coords.getD 4 0, 0, coords.getD 6 0, coords.getD 7 0] else coords.drop 4) = none) :
    s.copyChecked c ts op o coords D S =
      if op = 7 then s.issueGather c ts (s.newEng c s.next .compositor op o (some D) (some S) coords ts []) D S
      else s.issueCopy c ts (s.newEng c s.next .compositor op o (some D) (some S) coords ts []) D S := by
  simp only [State.copyChecked, h, hd, hop, hs, Bool.not_true, Bool.false_eq_true, if_false, Option.none_or]

end CopyChecked

/-- Lanes whose destinations become empty are no other thing to an engine operation put in flight. -/
theorem newEng_modWave (s : State) (c : Ctx) (r : WaveRef) (f : Wave → Wave) (id : Nat) (engine : Engine) (op : Nat) (o : EngOpts)
    (t1 t2 : Option Desc) (coords lanes : List Nat) (pages : List TlbEntry) :
    (s.modWave r f).newEng c id engine op o t1 t2 coords lanes pages = s.newEng c id engine op o t1 t2 coords lanes pages := by
  have huid : ((s.modWave r f).blockOf c.r).map (·.uid) = (s.blockOf c.r).map (·.uid) := by
    cases hc : c.r with
    | hdl core q => rfl
    | blk u j =>
      cases r with
      | hdl core q => rfl
      | blk v m =>
        simp only [State.blockOf, State.block?_modWave]
        split
        · next h => subst h; cases s.block? u <;> rfl
        · rfl
  simp only [State.newEng, huid, coreOf_modWave, State.partOf, State.spaceOf, launchOf_modWave]

/-- What the lanes and the wave of a `cpys` in flight keep. -/
theorem modWave_engOps (s : State) (r : WaveRef) (f : Wave → Wave) (n : Nat) (ops : List EngOp) :
    ({ s.modWave r f with next := n, engOps := ops } : State) = ({ s with next := n, engOps := ops } : State).modWave r f := by
  cases r <;> rfl

theorem engOps_modWave (s : State) (r : WaveRef) (f : Wave → Wave) : (s.modWave r f).engOps = s.engOps := by cases r <;> rfl

section CopyStatistics

variable {s : State} {c : Ctx} {w : Wave} {g : BitVec 4} (p : EngineWave s c w g) (hoc : w.ocCpy < 15) {kg : BitVec 3} {u : BitVec 1}
  (hi : LegalFor (.cpys kg u g) (rangeFrom (8 * kg.toNat) 8) [] w) (hf : w.allFull (c.t w g) (rangeFrom (8 * kg.toNat) 6))
include p hoc hi hf

theorem exec_cpys : exec (.cpys kg u g) s = .next (
    if 64 ≤ s.copiesOn (s.coreOf c.r) then s.stall c.r
    else
      let s1 := s.emptyDests c (c.t w g) (rangeFrom (8 * kg.toNat) 6)
      { s1 with next := s1.next + 1 }.putEng c.r 1
        (s1.newEng c s1.next .compositor 8 { sf := u == 1 } none none [8 * kg.toNat] (c.t w g) [])) := by
  have hb : (w.memBlocked false || decide (15 ≤ w.ocCpy)) = false := by simp [p.free]; omega
  refine (p.execWord hi (blocked := fun w => w.memBlocked false || decide (15 ≤ w.ocCpy)) hb _).trans ?_
  rw [gates_full hf]
  simp only [List.isEmpty_iff, p.lanes, if_false]
  rfl

/-- A `cpys` that issues: its registers are empty, and it counts (R276, R291). -/
theorem exec_cpys_issues (hroom : s.copiesOn (s.coreOf c.r) < 64) : exec (.cpys kg u g) s = .next (({ s with
    next := s.next + 1
    engOps := s.engOps ++ [s.newEng c s.next .compositor 8 { sf := u == 1 } none none [8 * kg.toNat] (c.t w g) []] } : State).modWave c.r
      (fun z => (z.modLanes (c.t w g) (fun x => x.awaits (rangeFrom (8 * kg.toNat) 6))).modCounter 1 (· + 1))) := by
  refine (exec_cpys p hoc hi hf).trans (congrArg _ ((if_neg (by omega)).trans ?_))
  dsimp only [State.putEng, State.emptyDests]
  simp only [next_modWave, engOps_modWave, newEng_modWave]
  rw [modWave_engOps s c.r _ (s.next + 1), modWave_modWave]

end CopyStatistics

theorem blockOf_of_descOf {s : State} {r : WaveRef} {n : Nat} {D : Desc} (h : s.descOf r n = some D) : ∃ b, s.blockOf r = some b := by
  cases hb : s.blockOf r with
  | none => simp [State.descOf, hb] at h
  | some b => exact ⟨b, rfl⟩

end Sys2Proof.Machine

namespace Sys2Proof.Proofs

open Sys2Proof.Machine

/-- Settles O49: each copy command is one command with its options; its checks are followed in the order of Table 12.4. -/
theorem copyCommands : Obligations.CopyCommands := by
  intro d s' kg f t u r l i o a w' x g s c w ha ht hh hacq hwaits hoc T k traps inFlight full alike checked gathers copy
  have p : EngineWave s c w g := ⟨ha, hh, ht, hacq, hwaits⟩
  have hu : (u == 1) = true ↔ u = 1 := beq_iff_eq
  have hcopy (ins : Instr) (op : Nat) (opts : EngOpts) (hop : op ≠ 6)
      (he : exec ins s = s.copyCommand ins op d.toNat s'.toNat kg.toNat (u == 1) opts g) : copy ins op opts := by
    intro hi
    refine ⟨fun h => he.trans (copyCommand_undefined p hoc hi (h.imp_right fun h => ⟨hop, h⟩)), fun D S hD hS hf => ?_⟩
    have hS' : (if op = 6 then s.descOf c.r d.toNat else s.descOf c.r s'.toNat) = some S := (if_neg hop).trans hS
    have hf' : w.allFull (if (u == 1) = true then T else [T.headD 0]) (copyRegs op k D S) := by simpa only [hu] using hf
    refine ⟨fun h => ?_, fun h => ?_⟩
    · obtain ⟨h1, h2⟩ := Classical.not_imp.1 h
      exact he.trans (copyCommand_differ p hoc hi hD hS' hf' (hu.2 h1) h2)
    intro coords e origin
    have hx := he.trans (copyCommand_alike p hoc hi hD hS' hf' fun hu1 => h (hu.1 hu1))
    refine ⟨fun hfit => hx.trans (congrArg _ (copyChecked_unfit hfit)), fun hfit => ⟨fun at_ hm => ?_, fun hd hs => ?_⟩⟩
    · obtain hd | ⟨hd, hs⟩ := hm
      · exact hx.trans (congrArg _ (copyChecked_destMisplaced hfit hd))
      · exact hx.trans (congrArg _ (copyChecked_sourceMisplaced hfit hd hop hs))
    · have hx := hx.trans (congrArg _ (copyChecked_issues hfit hd hop hs))
      refine ⟨fun h7 => issueCopy_checked rfl (hx.trans (congrArg _ (if_neg h7))), fun h7 => ?_⟩
      have hx := hx.trans (congrArg _ (if_pos h7))
      obtain ⟨b, hb⟩ := blockOf_of_descOf hD
      obtain ⟨halign, hover, hgather⟩ := issueGather_gathers hb rfl hx rfl
      refine ⟨halign, hover, fun b' hb' h4 hin => ?_⟩
      obtain rfl : b = b' := Option.some.inj (hb.symm.trans hb')
      exact hgather h4 hin
  refine ⟨hcopy _ _ _ (by decide) rfl, hcopy _ _ _ (by decide) rfl, hcopy _ _ _ (by decide) rfl, hcopy _ _ _ (by decide) rfl,
    hcopy _ _ _ (by decide) rfl, hcopy _ _ _ (by decide) rfl, ?fill, ?statistics⟩
  case fill =>
    intro fill opts hi
    have he : exec fill s = s.copyCommand fill 6 d.toNat 0 kg.toNat (u == 1) opts g := rfl
    refine ⟨fun h => he.trans (copyCommand_undefined p hoc hi (.inl h)), fun D hD hf => ?_⟩
    have hf' : w.allFull (if (u == 1) = true then T else [T.headD 0]) (copyRegs 6 k D D) := by simpa only [hu] using hf
    refine ⟨fun h => ?_, fun h => ?_⟩
    · obtain ⟨h1, h2⟩ := Classical.not_imp.1 h
      exact he.trans (copyCommand_differ p hoc hi hD hD hf' (hu.2 h1) h2)
    · intro coords
      have hx := he.trans (copyCommand_alike p hoc hi hD hD hf' fun hu1 => h (hu.1 hu1))
      exact ⟨fun hfit => hx.trans (congrArg _ (copyChecked_unfit hfit)), fun hfit =>
        ⟨fun at_ hd => hx.trans (congrArg _ (copyChecked_destMisplaced hfit hd)), fun hd =>
          issueCopy_checked rfl (hx.trans (congrArg _ (copyChecked_fill hfit hd rfl)))⟩⟩
  case statistics =>
    intro hi hf
    refine ⟨fun h => (exec_cpys p hoc hi hf).trans (congrArg _ (if_pos h)), fun h => ⟨_, exec_cpys_issues p hoc hi hf h, fun z => ⟨?_, rfl⟩⟩⟩
    exact ⟨(modLanes_empty z _ _).size, (modLanes_empty z _ _).lanes⟩

end Sys2Proof.Proofs
end

section
/-! SUPPORT. Accumulator cells written one after the other, and lanes of `ald` and `ast` (R294 to R298, R316, R317). -/

namespace Sys2Proof.Machine

/-- Cells written in turn, each with the value of its number. -/
def Block.putCells (b : Block) (ns : List Nat) (v : Nat → Word) : Block := ns.foldl (fun b n => b.putCell n (v n)) b

theorem putCells_eq {b : Block} (hb : cellsWf 0 b.acc = true) (ns : List Nat) (v : Nat → Word) :
    let t := b.putCells ns v
    t = { b with acc := t.acc, accBad := t.accBad } ∧ cellsWf 0 t.acc = true ∧
      (∀ y, cellGet 0 t.acc y = if y ∈ ns then v y else cellGet 0 b.acc y) ∧ t.accBad = b.accBad.filter (fun z => !ns.contains z.1) := by
  induction ns using List.reverseRecOn with
  | nil => exact ⟨rfl, hb, fun _ => rfl, (List.filter_eq_self.2 fun _ _ => rfl).symm⟩
  | append_singleton ns n ih =>
    obtain ⟨hrest, hwf, hget, hbad⟩ := ih
    have hlast : b.putCells (ns ++ [n]) v = (b.putCells ns v).putCell n (v n) := by simp [Block.putCells]
    rw [hlast]
    generalize b.putCells ns v = t at hrest hwf hget hbad ⊢
    refine ⟨by rw [hrest]; rfl, cellSet_wf 0 _ _ _ hwf, fun y => ?_, ?_⟩
    · refine (cellGet_cellSet 0 t.acc n y (v n) hwf).trans ?_
      rw [hget]
      by_cases hy : y = n <;> simp [hy]
    · refine (congrArg (List.filter _) hbad).trans ((List.filter_filter ..).trans (List.filter_congr fun z _ => ?_))
      by_cases hz : z.1 = n <;> simp [hz]

/-- A region's cells, by row and column. -/
theorem mem_regionCells {row rows col cols y : Nat} (h : col + cols ≤ 512) :
    y ∈ regionCells row rows col cols ↔ row ≤ y / 512 ∧ y / 512 < row + rows ∧ col ≤ y % 512 ∧ y % 512 < col + cols := by
  simp only [regionCells, List.mem_flatMap, List.mem_map, mem_rangeFrom, cellAt]
  constructor
  · rintro ⟨r, hr, x, hx, rfl⟩
    omega
  · rintro ⟨h1, h2, h3, h4⟩
    exact ⟨y / 512, ⟨h1, h2⟩, y % 512, ⟨h3, h4⟩, by omega⟩

/-- The cells that a lane of `ast` writes. -/
theorem foldl_putCell_run {b : Block} (hb : cellsWf 0 b.acc = true) (base n : Nat) (value : Nat → Word) :
    let t := (upTo n).foldl (fun k i => k.putCell (base + i) (value i)) b
    t = { b with acc := t.acc, accBad := t.accBad } ∧ cellsWf 0 t.acc = true ∧
      ∀ y, cellGet 0 t.acc y = if base ≤ y ∧ y < base + n then value (y - base) else cellGet 0 b.acc y := by
  have hrun : (upTo n).foldl (fun k i => k.putCell (base + i) (value i)) b =
      b.putCells ((upTo n).map (base + ·)) (fun y => value (y - base)) := by
    rw [Block.putCells, List.foldl_map]
    simp only [Nat.add_sub_cancel_left]
  intro t
  obtain ⟨hrest, hwf, hget, -⟩ := putCells_eq hb ((upTo n).map (base + ·)) (fun y => value (y - base))
  rw [← hrun] at hrest hwf hget
  refine ⟨hrest, hwf, fun y => (hget y).trans ?_⟩
  have hmem : y ∈ (upTo n).map (base + ·) ↔ base ≤ y ∧ y < base + n := by
    simp only [List.mem_map, mem_upTo]
    exact ⟨fun ⟨i, hi, he⟩ => by omega, fun h => ⟨y - base, by omega, by omega⟩⟩
  simp only [hmem]

/-- Runs of cells that lanes write in turn: the last lane that covers a cell gives it (R317). -/
theorem foldl_lanes_putCell {b : Block} (hb : cellsWf 0 b.acc = true) (n : Nat) (base : Nat → Nat) (value : Nat → Nat → Word) (ls : List Nat) :
    let t := ls.foldl (fun k l => (upTo n).foldl (fun k i => k.putCell (base l + i) (value l i)) k) b
    t = { b with acc := t.acc, accBad := t.accBad } ∧ cellsWf 0 t.acc = true ∧
      ∀ y, cellGet 0 t.acc y = match (ls.filter (fun l => decide (base l ≤ y ∧ y < base l + n))).getLast? with
        | some l => value l (y - base l)
        | none => cellGet 0 b.acc y := by
  induction ls using List.reverseRecOn with
  | nil => exact ⟨rfl, hb, fun _ => rfl⟩
  | append_singleton ls l ih =>
    obtain ⟨hrest, hwf, hget⟩ := ih
    rw [List.foldl_append, List.foldl_cons, List.foldl_nil]
    generalize ls.foldl (fun k l => (upTo n).foldl (fun k i => k.putCell (base l + i) (value l i)) k) b = t at hrest hwf hget ⊢
    obtain ⟨krest, kwf, kget⟩ := foldl_putCell_run hwf (base l) n (value l)
    refine ⟨by rw [krest, hrest], kwf, fun y => (kget y).trans ?_⟩
    rw [List.filter_append]
    by_cases hy : base l ≤ y ∧ y < base l + n
    · simp [hy]
    · rw [if_neg hy, hget]
      simp [hy]

/-- Lanes that wait with their destinations empty, and do not wait for them themselves (R298). -/
theorem emptyOwn_keeps (s : State) (c : Ctx) (ls rs : List Nat) : DestsKept s (s.emptyOwn c ls rs) c ls rs := by
  have h := faultDests_kept s c ls [] rs
  rwa [State.faultDests, show ls.filter (fun l => !([] : List Nat).contains l) = ls from List.filter_eq_self.2 fun _ _ => rfl] at h

/-- What a lane of `ald` reads. -/
def Block.cellEff (b : Block) (d n base : Nat) : LaneEff := { regs := (rangeFrom 0 n).map (fun i => (d + i, cellGet 0 b.acc (base + i))) }

theorem rangeFrom_nodup (lo n : Nat) : (rangeFrom lo n).Nodup := by
  rw [rangeFrom_eq_range']
  exact List.nodup_range'

theorem Block.cellEff_nodup (b : Block) (d n base : Nat) : ((b.cellEff d n base).regs.map Prod.fst).Nodup := by
  rw [Block.cellEff, List.map_map]
  exact (rangeFrom_nodup 0 n).map fun a b h => Nat.add_left_cancel h

theorem mem_rangeFrom_add {d n r : Nat} : r ∈ rangeFrom d n ↔ ∃ i < n, d + i = r := by
  rw [mem_rangeFrom]
  exact ⟨fun h => ⟨r - d, by omega, by omega⟩, fun ⟨i, hi, he⟩ => by omega⟩

/-- Registers emptied and then written are written. -/
theorem awaits_apply {x : Lane} {rs : List Nat} {e : LaneEff} (hrs : rs ≠ []) (hregs : ∀ r ∈ rs, ∃ z, (r, z) ∈ e.regs)
    (hr : (e.regs.map Prod.fst).Nodup) (hp : (e.preds.map Prod.fst).Nodup) :
    LaneWritten { x with ldsOwn := none } ((x.awaits rs).apply e) e := by
  obtain ⟨hrest, hfull⟩ := awaits_empty x rs
  have h := lane_apply (x.awaits rs) e hr hp
  generalize (x.awaits rs).apply e = y at h
  generalize x.awaits rs = t at h hrest hfull
  rw [if_pos hrs] at hrest
  refine ⟨by rw [h.rest, hrest], by rw [h.size, hrest], fun r z hz => ?_, fun r hr => ?_, fun q b hq => h.predWritten q b hq,
    fun q hq => by rw [h.predKept q hq, hrest]; rfl⟩
  · obtain ⟨h1, h2⟩ := h.written r z hz
    exact ⟨fun hl => h1 (by rw [hrest]; exact hl), h2⟩
  · obtain ⟨h1, h2, h3⟩ := h.kept r hr
    have hnot : r ∉ rs := fun hm => by
      obtain ⟨z, hz⟩ := hregs r hm
      exact hr z hz
    refine ⟨by rw [h1, hrest]; rfl, ?_, by rw [h3, hrest]; rfl⟩
    rw [h2, hfull]
    simp [hnot, Lane.isFull]

/-- Lanes that read their cells one after the other. -/
theorem ald_writes {b : Block} {d n : Nat} (hn : n ≠ 0) (base : Nat → Nat) (w : Wave) (ls : List Nat) :
    LanesWritten (w.modLanes ls (fun x => { x with ldsOwn := none }))
      (ls.foldl (fun w l => w.modLane l (fun x => (x.awaits (rangeFrom d n)).apply (b.cellEff d n (base l)))) w) ls
      (fun l => b.cellEff d n (base l)) := by
  have hone (l : Nat) (x : Lane) : LaneWritten { x with ldsOwn := none } ((x.awaits (rangeFrom d n)).apply (b.cellEff d n (base l)))
      (b.cellEff d n (base l)) := by
    refine awaits_apply ?_ (fun r hr => ?_) (b.cellEff_nodup ..) List.nodup_nil
    · cases n with
      | zero => exact absurd rfl hn
      | succ n => simp [rangeFrom]
    · obtain ⟨i, hi, rfl⟩ := mem_rangeFrom_add.1 hr
      exact ⟨_, List.mem_map.2 ⟨i, by simpa using hi, rfl⟩⟩
  obtain ⟨hrest, hout, hin⟩ := foldl_modLane_establishes
    (R := fun l x y => LaneWritten { x with ldsOwn := none } y (b.cellEff d n (base l)))
    (h := fun l x => (x.awaits (rangeFrom d n)).apply (b.cellEff d n (base l))) hone
    (fun l x y hxy => by
      have hy : { y with ldsOwn := none } = y := by rw [hxy.rest]
      have := hone l y
      rw [hy] at this
      exact hxy.again this) w ls
  have hsize : (ls.foldl (fun w l => w.modLane l (fun x => (x.awaits (rangeFrom d n)).apply (b.cellEff d n (base l)))) w).lanes.length =
      w.lanes.length := List.foldlRecOn (motive := fun v => v.lanes.length = w.lanes.length) ls _ rfl fun (v : Wave) hv l _ => by simp [hv]
  generalize ls.foldl (fun w l => w.modLane l (fun x => (x.awaits (rangeFrom d n)).apply (b.cellEff d n (base l)))) w = v at hrest hout hin hsize ⊢
  have hget (l : Nat) : (w.modLanes ls (fun x => { x with ldsOwn := none })).lanes[l]? =
      (w.lanes[l]?).map (fun x => if ls.contains l then { x with ldsOwn := none } else x) := getElem?_mapIdx' ..
  refine ⟨by rw [hrest]; rfl, fun k => by rw [hrest]; simp [Block.cellEff, Wave.modLanes], ?size, fun l x y hl hx hy => ?_, fun l hl => ?_⟩
  case size => simp [Wave.modLanes, hsize]
  · rw [hget] at hx
    obtain ⟨z, hz, rfl⟩ := Option.map_eq_some_iff.1 hx
    rw [if_pos (by simpa using hl)]
    exact hin l z y hl hz hy
  · exact (hout l hl).trans ((hget l).trans (by simp [hl])).symm

end Sys2Proof.Machine
end

section
/-! SUPPORT. `qinit`, `aclr`, `ald`, `ast` and `setaw` in a block's wave that executes alone (R296, R298, R299, R307, R316 to R318). -/

namespace Sys2Proof.Machine

/-- Wave `j` of a block executes alone, with lanes in T, and nothing holds it back from the Platen. -/
structure AccWave (s : State) (c : Ctx) (w : Wave) (g : BitVec 4) (uid j : Nat) (k : Block) (la : Launch) : Prop extends EngineWave s c w g where
  ref : c.r = .blk uid j
  block : s.block? uid = some k
  launch : s.launchOf c.r = some la
  room : w.ocMtx < 15

namespace AccWave

variable {s : State} {c : Ctx} {w : Wave} {g : BitVec 4} {uid j : Nat} {k : Block} {la : Launch} (p : AccWave s c w g uid j k la)
include p

theorem blockOf : s.blockOf c.r = some k := by rw [p.ref]; exact p.block

theorem wave : k.waves[j]? = some w := by
  have := p.alone.wave
  rwa [p.ref, State.wave?, p.block] at this

theorem scratchSize : s.scratchSize c.r = la.record.scratch := by simp [State.scratchSize, p.launch]

theorem waveIndex : waveIndex c.r = j := by rw [p.ref]; rfl

/-- An instruction that acts on its block. -/
theorem execBlock {i : Instr} {home : Bool} {vr sr : List Nat} (hi : LegalFor i vr sr w) (f : Ctx → Wave → State → State) :
    s.execWord i home vr sr (fun _ => true) (fun c w s => s.blockOnly c (f c w s)) = .next (f c w s) := by
  rw [execWord_alone p.alone hi rfl, p.blockOnly]

/-- An instruction that issues to the Platen. -/
theorem execPlaten {i : Instr} {home : Bool} {vr sr : List Nat} (hi : LegalFor i vr sr w) (f : Ctx → Wave → State → State) :
    s.execWord i home vr sr (fun _ => true)
      (fun c w s => s.blockOnly c (s.unlessBlocked c (c.t w g) (w.memBlocked false || decide (15 ≤ w.ocMtx)) (f c w s))) = .next (f c w s) := by
  have hb : (w.memBlocked false || decide (15 ≤ w.ocMtx)) = false := by simp [p.free]; exact p.room
  exact p.execWord hi (blocked := fun w => w.memBlocked false || decide (15 ≤ w.ocMtx)) hb f

theorem quireOf (q : Nat) : s.quireOf c.r q = k.quires.getD q ⟨0, none, []⟩ := by
  rw [State.quireOf, p.blockOf, List.getD_eq_getElem?_getD]
  rfl

/-- A block's quire replaced. -/
theorem modQuire (u : State) (q : Nat) (f : Quire → Quire) :
    u.modQuire c.r q f = u.modBlock uid (fun b => { b with quires := modifyAt b.quires q f }) := by rw [State.modQuire, p.ref]; rfl

theorem modBlockOf (u : State) (f : Block → Block) : u.modBlockOf c.r f = u.modBlock uid f := by rw [p.ref]; rfl

end AccWave

theorem modifyAt_const {α : Type} (l : List α) (i : Nat) (x : α) : modifyAt l i (fun _ => x) = setAt l i x := by
  induction l generalizing i with
  | nil => rfl
  | cons h t ih => cases i with
    | zero => rfl
    | succ i => exact congrArg (h :: ·) (ih i)

/-- An entry passed through `f` is the entry replaced, whether the list has it or not. -/
theorem modifyAt_eq_setAt_getD {α : Type} (l : List α) (i : Nat) (d : α) (f : α → α) : modifyAt l i f = setAt l i (f (l.getD i d)) := by
  induction l generalizing i with
  | nil => rfl
  | cons h t ih => cases i with
    | zero => rfl
    | succ i => exact congrArg (h :: ·) (ih i)

/-- A register of the coordinate group that is read. -/
theorem groupVals_getD (w : Wave) (ts : List Nat) (g : Nat) {regs : List Nat} {n : Nat} (hn : n < 8) (h : g + n ∈ regs) :
    (w.groupVals ts g regs).getD n 0 = (w.reg (ts.headD 0) (g + n)).toNat := by
  simp [Wave.groupVals, upTo_eq_range, List.getD_eq_getElem?_getD, List.getElem?_range hn, h]

theorem inWindow_iff {w : Wave} {row rows col cols : Nat} :
    w.inWindow row rows col cols = true ↔ w.awBase ≤ row ∧ row + rows ≤ w.awLimit ∧ col + cols ≤ 512 := by
  simp [Wave.inWindow, and_assoc]

/-- Cells that are not uncorrectable, read into registers in turn. -/
theorem foldIdx_cells {k : Block} {d base lo n : Nat} {mark : Mark} (h : ∀ i, lo ≤ i → i < lo + n → (k.cell (base + i)).2 = false) (x : Lane) :
    foldIdx (fun x i cell => if (k.cell cell).2 then x.setMark (d + i) mark else x.writeV (d + i) (k.cell cell).1) x lo
      ((rangeFrom lo n).map (base + ·)) =
      ((rangeFrom lo n).map (fun i => (d + i, cellGet 0 k.acc (base + i)))).foldl (fun x p => x.writeV p.1 p.2) x := by
  induction n generalizing lo x with
  | zero => rfl
  | succ n ih =>
    simp only [rangeFrom, List.map_cons, foldIdx, List.foldl_cons, h lo (le_refl _) (by omega), Bool.false_eq_true, if_false]
    exact ih (fun i h1 h2 => h i (by omega) (by omega)) _

section Instructions

variable {s : State} {c : Ctx} {w : Wave} {g : BitVec 4} {uid j : Nat} {k : Block} {la : Launch} (p : AccWave s c w g uid j k la)
include p

theorem exec_qinit {q : BitVec 3} {n : BitVec 5} (hi : LegalFor (.qinit q n g) [] [] w) : exec (.qinit q n g) s = .next (
    if k.waves.length < n.toNat + 1 ∨ (k.quires.getD q.toNat ⟨0, none, []⟩).signers ≠ [] then s.takeTraps c.r (c.t w g) c.hdr c.slot 0x05 0 0
    else s.modBlock uid (fun b => { b with quires := setAt b.quires q.toNat ⟨n.toNat + 1, none, []⟩ })) := by
  refine (p.execBlock hi _).trans (congrArg _ ?_)
  simp only [List.isEmpty_iff, p.lanes, if_false, p.quireOf, p.modQuire, p.blockOf, Option.map_some, Option.getD_some, modifyAt_const,
    Bool.or_eq_true, decide_eq_true_eq, Bool.not_eq_true', List.isEmpty_eq_false_iff]
  rfl

section Clear

variable {kg : BitVec 3} {u : BitVec 1} (hi : LegalFor (.aclr kg u g) (rangeFrom (8 * kg.toNat) 8) [] w)
  (hf : w.allFull (if u = 1 then c.t w g else [(c.t w g).headD 0]) (rangeFrom (8 * kg.toNat) 4))
include hi hf

theorem exec_aclr_differ (hu : u = 1) (ha : ¬ w.alike (c.t w g) (rangeFrom (8 * kg.toNat) 4)) :
    exec (.aclr kg u g) s = .next (s.takeTraps c.r (c.t w g) c.hdr c.slot 0x13 0 0) := by
  refine (p.execBlock hi _).trans (congrArg _ ?_)
  simp only [List.isEmpty_iff, p.lanes, if_false]
  rw [readGroup_differ p.lanes (by simpa using hf) (by simpa using hu) ha]

theorem exec_aclr_alike (ha : u = 1 → w.alike (c.t w g) (rangeFrom (8 * kg.toNat) 4)) : exec (.aclr kg u g) s = .next (
    let v (n : Nat) : Nat := (w.reg ((c.t w g).headD 0) (8 * kg.toNat + n)).toNat
    if v 1 = 0 ∨ v 3 = 0 then s
    else if ¬ (w.awBase ≤ v 0 ∧ v 0 + v 1 ≤ w.awLimit ∧ v 2 + v 3 ≤ 512) then s.takeTraps c.r (c.t w g) c.hdr c.slot 0x06 0 0
    else if s.rowsBusy c.r [(v 0, v 1)] = true then s.stall c.r
    else s.modBlock uid (fun b => b.putCells (regionCells (v 0) (v 1) (v 2) (v 3)) (fun _ => 0))) := by
  refine (p.execBlock hi _).trans (congrArg _ ?_)
  simp only [List.isEmpty_iff, p.lanes, if_false]
  rw [readGroup_alike p.lanes (by simpa using hf) (by simpa using ha)]
  have hv (n : Nat) (hn : n < 4) : (w.groupVals (c.t w g) (8 * kg.toNat) (rangeFrom (8 * kg.toNat) 4)).getD n 0 =
      (w.reg ((c.t w g).headD 0) (8 * kg.toNat + n)).toNat := groupVals_getD w _ _ (by omega) (by rw [mem_rangeFrom]; omega)
  simp only [hv 0 (by omega), hv 1 (by omega), hv 2 (by omega), hv 3 (by omega), Bool.or_eq_true, decide_eq_true_eq, Bool.not_eq_true',
    ← inWindow_iff, Bool.not_eq_true, State.trapAt, p.ref]
  rfl

end Clear

section Lanes

variable {d b : BitVec 6} {a : BitVec 7} {m : BitVec 3}

/-- The row and the column of a lane of `ald` or `ast`, and its first cell (R316). -/
def Wave.accRowOf (w : Wave) (a : BitVec 7) (l : Nat) : Nat := (w.opA l a).toNat
def Wave.accColOf (w : Wave) (b : BitVec 6) (l : Nat) : Nat := (w.reg l b.toNat).toNat

/-- The lanes whose columns are aligned (R316). -/
def Wave.accAligned (w : Wave) (b : BitVec 6) (m : BitVec 3) (ts : List Nat) : List Nat :=
  ts.filter (fun l => decide (w.accColOf b l % 2 ^ m.toNat = 0))

/-- The misaligned lanes have trapped, each with a fault address of its own (R316; log entry 24). -/
def State.accTraps (s : State) (c : Ctx) (w : Wave) (b : BitVec 6) (m : BitVec 3) (ts : List Nat) : State :=
  (ts.filter (fun l => decide (w.accColOf b l % 2 ^ m.toNat ≠ 0))).foldl (fun v l => v.trapFree c [l] 0x0A) s

/-- The cells of the aligned lanes lie in the window (R296). -/
def Wave.accInside (w : Wave) (a : BitVec 7) (b : BitVec 6) (m : BitVec 3) (ls : List Nat) : Prop :=
  ∀ l ∈ ls, w.awBase ≤ w.accRowOf a l ∧ w.accRowOf a l + 1 ≤ w.awLimit ∧ w.accColOf b l + 2 ^ m.toNat ≤ 512

omit p in
theorem accLanes_eq (ts : List Nat) : s.accLanes c w (cellCount m) (w.accRowOf a) (w.accColOf b) ts =
    if (w.accAligned b m ts).all (fun l => w.inWindow (w.accRowOf a l) 1 (w.accColOf b l) (2 ^ m.toNat)) then
      (w.accAligned b m ts, s.accTraps c w b m ts)
    else ([], (s.accTraps c w b m ts).takeTraps c.r (w.accAligned b m ts) c.hdr c.slot 0x06 0 0) := by
  have hal : ts.filter (fun l => w.accColOf b l % cellCount m == 0) = w.accAligned b m ts :=
    List.filter_congr fun l _ => by simp [cellCount, beq_eq_decide]
  have hno : ts.filter (fun l => !(w.accColOf b l % cellCount m == 0)) = ts.filter (fun l => decide (w.accColOf b l % 2 ^ m.toNat ≠ 0)) :=
    List.filter_congr fun l _ => by simp [cellCount, beq_eq_decide]
  simp only [State.accLanes, hal, hno]
  rfl

omit p in
theorem accLanes_inside {ts : List Nat} (h : w.accInside a b m (w.accAligned b m ts)) :
    s.accLanes c w (cellCount m) (w.accRowOf a) (w.accColOf b) ts = (w.accAligned b m ts, s.accTraps c w b m ts) := by
  rw [accLanes_eq, if_pos (List.all_eq_true.2 fun l hl => inWindow_iff.2 (h l hl))]

omit p in
theorem accLanes_outside {ts : List Nat} (h : ¬ w.accInside a b m (w.accAligned b m ts)) :
    s.accLanes c w (cellCount m) (w.accRowOf a) (w.accColOf b) ts =
      ([], (s.accTraps c w b m ts).takeTraps c.r (w.accAligned b m ts) c.hdr c.slot 0x06 0 0) := by
  rw [accLanes_eq, if_neg fun hall => h fun l hl => inWindow_iff.1 (List.all_eq_true.1 hall l hl)]

omit p in
theorem rowsBusy_nil (s : State) (r : WaveRef) : s.rowsBusy r [] = false := by
  unfold State.rowsBusy
  split
  · rfl
  · simp [rowsMeet]

omit p in
theorem logCells_clean {s : State} {uid core : Nat} {cells : List Nat} {k : Block} (hk : s.block? uid = some k)
    (h : ∀ n ∈ cells, ∀ y ∈ k.accBad, y.1 ≠ n) : s.logCells uid core cells = s := by
  have hf : k.accBad.filter (fun x => !x.2 && cells.contains x.1) = [] := by
    rw [List.filter_eq_nil_iff]
    intro y hy hc
    simp only [Bool.and_eq_true, List.contains_iff_mem] at hc
    exact h y.1 hc.2 y hy rfl
  simp only [State.logCells, hk, hf]
  rfl

section Ast

variable (hi : LegalFor (.ast d a b m g) (b.toNat :: (rangeFrom d.toNat (2 ^ m.toNat) ++ aVec a false)) (aScal a false) w)
  (hf : w.allFull (c.t w g) (b.toNat :: (rangeFrom d.toNat (2 ^ m.toNat) ++ aVec a false)))
include hi hf

theorem exec_ast : exec (.ast d a b m g) s = .next (
    let v := s.accLanes c w (cellCount m) (w.accRowOf a) (w.accColOf b) (c.t w g)
    if v.2.rowsBusy c.r (v.1.map (fun l => (w.accRowOf a l, 1))) then v.2.stall c.r
    else v.2.modBlock uid (fun k => v.1.foldl (fun k l =>
      (upTo (2 ^ m.toNat)).foldl (fun k i => k.putCell (cellAt (w.accRowOf a l) (w.accColOf b l) + i) (w.reg l (d.toNat + i))) k) k)) := by
  have hcell (l i : Nat) : cellAt (w.accRowOf a l) (w.accColOf b l + i) = cellAt (w.accRowOf a l) (w.accColOf b l) + i :=
    (Nat.add_assoc _ _ _).symm
  refine (p.execBlock hi _).trans (congrArg _ ?_)
  have hg : s.gates c w (fun l => (b.toNat :: regRun d (cellCount m) ++ aVec a false).map (fun x => (l, x))) (c.t w g) = (c.t w g, s) :=
    gates_full hf
  simp only [hg, p.ref, ← hcell]
  rfl

theorem exec_ast_outside (h : ¬ w.accInside a b m (w.accAligned b m (c.t w g))) : exec (.ast d a b m g) s =
    .next ((s.accTraps c w b m (c.t w g)).takeTraps c.r (w.accAligned b m (c.t w g)) c.hdr c.slot 0x06 0 0) := by
  refine (exec_ast p hi hf).trans (congrArg _ ?_)
  rw [accLanes_outside h]
  exact (if_neg (by rw [List.map_nil, rowsBusy_nil]; exact Bool.false_ne_true)).trans (modBlock_id _ _)

theorem exec_ast_inside (h : w.accInside a b m (w.accAligned b m (c.t w g))) : exec (.ast d a b m g) s = .next (
    if (s.accTraps c w b m (c.t w g)).rowsBusy c.r ((w.accAligned b m (c.t w g)).map (fun l => (w.accRowOf a l, 1))) then
      (s.accTraps c w b m (c.t w g)).stall c.r
    else (s.accTraps c w b m (c.t w g)).modBlock uid (fun k => (w.accAligned b m (c.t w g)).foldl (fun k l =>
      (upTo (2 ^ m.toNat)).foldl (fun k i => k.putCell (cellAt (w.accRowOf a l) (w.accColOf b l) + i) (w.reg l (d.toNat + i))) k) k)) :=
  (exec_ast p hi hf).trans (congrArg _ (by rw [accLanes_inside h]))

end Ast

section Ald

variable (hi : LegalFor (.ald d a b m g) (b.toNat :: (rangeFrom d.toNat (2 ^ m.toNat) ++ aVec a false)) (aScal a false) w)
  (hf : w.allFull (c.t w g) (b.toNat :: (rangeFrom d.toNat (2 ^ m.toNat) ++ aVec a false)))
include hi hf

theorem exec_ald : exec (.ald d a b m g) s = .next (
    let v := s.accLanes c w (cellCount m) (w.accRowOf a) (w.accColOf b) (c.t w g)
    if v.2.rowsBusy c.r (v.1.map (fun l => (w.accRowOf a l, 1))) then (v.2.emptyOwn c v.1 (regRun d (cellCount m))).stall c.r
    else
      match v.2.blockOf c.r with
      | none => v.2
      | some k =>
        let cells (l : Nat) : List Nat := (upTo (cellCount m)).map (fun i => cellAt (w.accRowOf a l) (w.accColOf b l + i))
        let bad := (v.1.flatMap cells).any (fun n => (k.cell n).2)
        let s1 := v.2.logCells k.uid k.core (v.1.flatMap cells)
        let f := if bad then s1.drawFault else (0, s1)
        v.1.foldl (fun s l => s.modLane c.r l (fun x => foldIdx (fun x i cell =>
          if (k.cell cell).2 then x.setMark (d.toNat + i) (.poisoned f.1) else x.writeV (d.toNat + i) (k.cell cell).1)
          (x.awaits (regRun d (cellCount m))) 0 (cells l))) f.2) := by
  refine (p.execBlock hi _).trans (congrArg _ ?_)
  have hg : s.gates c w (w.accNeeds c d a b (cellCount m)) (c.t w g) = (c.t w g, s) := gates_ownNeeds hf
  simp only [hg]
  rfl

theorem exec_ald_outside (h : ¬ w.accInside a b m (w.accAligned b m (c.t w g))) : exec (.ald d a b m g) s =
    .next ((s.accTraps c w b m (c.t w g)).takeTraps c.r (w.accAligned b m (c.t w g)) c.hdr c.slot 0x06 0 0) := by
  refine (exec_ald p hi hf).trans (congrArg _ ?_)
  rw [accLanes_outside h]
  refine (if_neg (by rw [List.map_nil, rowsBusy_nil]; exact Bool.false_ne_true)).trans ?_
  split
  · rfl
  · next k' hk' =>
    have hlog (v : State) : v.logCells k'.uid k'.core [] = v := by
      unfold State.logCells
      split
      · rfl
      · simp
    exact hlog _

theorem exec_ald_busy (h : w.accInside a b m (w.accAligned b m (c.t w g)))
    (hb : (s.accTraps c w b m (c.t w g)).rowsBusy c.r ((w.accAligned b m (c.t w g)).map (fun l => (w.accRowOf a l, 1))) = true) :
    exec (.ald d a b m g) s =
      .next (((s.accTraps c w b m (c.t w g)).emptyOwn c (w.accAligned b m (c.t w g)) (rangeFrom d.toNat (2 ^ m.toNat))).stall c.r) :=
  (exec_ald p hi hf).trans (congrArg _ (by rw [accLanes_inside h]; exact if_pos hb))

theorem exec_ald_reads (h : w.accInside a b m (w.accAligned b m (c.t w g)))
    (hb : (s.accTraps c w b m (c.t w g)).rowsBusy c.r ((w.accAligned b m (c.t w g)).map (fun l => (w.accRowOf a l, 1))) = false) {k' : Block}
    (hk' : (s.accTraps c w b m (c.t w g)).block? uid = some k')
    (hgood : ∀ l ∈ w.accAligned b m (c.t w g), ∀ i < 2 ^ m.toNat, ∀ y ∈ k'.accBad, y.1 ≠ cellAt (w.accRowOf a l) (w.accColOf b l) + i) :
    exec (.ald d a b m g) s = .next ((s.accTraps c w b m (c.t w g)).modWave c.r (fun v => (w.accAligned b m (c.t w g)).foldl
      (fun v l => v.modLane l (fun x => (x.awaits (rangeFrom d.toNat (2 ^ m.toNat))).apply
        (k'.cellEff d.toNat (2 ^ m.toNat) (cellAt (w.accRowOf a l) (w.accColOf b l))))) v)) := by
  have hu : k'.uid = uid := by simpa using List.find?_some hk'
  have hcell (l : Nat) (hl : l ∈ w.accAligned b m (c.t w g)) (i : Nat) (h : i < 2 ^ m.toNat) :
      (k'.cell (cellAt (w.accRowOf a l) (w.accColOf b l) + i)).2 = false := by
    simpa [Block.cell] using fun y z hy => hgood l hl i h (y, z) hy
  have hcells (n : Nat) (hn : n ∈ (w.accAligned b m (c.t w g)).flatMap (fun l => (upTo (cellCount m)).map (fun i =>
      cellAt (w.accRowOf a l) (w.accColOf b l + i)))) :
      ∃ l ∈ w.accAligned b m (c.t w g), ∃ i < 2 ^ m.toNat, cellAt (w.accRowOf a l) (w.accColOf b l) + i = n := by
    obtain ⟨l, hl, hn⟩ := List.mem_flatMap.1 hn
    obtain ⟨i, hi, rfl⟩ := List.mem_map.1 hn
    exact ⟨l, hl, i, (mem_upTo _ _).1 hi, Nat.add_assoc ..⟩
  have hbad : ((w.accAligned b m (c.t w g)).flatMap (fun l => (upTo (cellCount m)).map (fun i =>
      cellAt (w.accRowOf a l) (w.accColOf b l + i)))).any (fun n => (k'.cell n).2) = false := List.any_eq_false.2 fun n hn => by
    obtain ⟨l, hl, i, hi, rfl⟩ := hcells n hn
    exact Bool.eq_false_iff.1 (hcell l hl i hi)
  have hlog := logCells_clean (core := k'.core) (hu ▸ hk') fun n hn => by
    obtain ⟨l, hl, i, hi, rfl⟩ := hcells n hn
    exact hgood l hl i hi
  refine (exec_ald p hi hf).trans (congrArg _ ?_)
  rw [accLanes_inside h]
  refine (if_neg (by rw [hb]; exact Bool.false_ne_true)).trans ?_
  rw [show State.blockOf _ c.r = some k' by rw [p.ref]; exact hk']
  simp only [hbad, hlog, Bool.false_eq_true, if_false]
  refine (List.foldl_ext _ _ _ fun v l hl => ?_).trans (foldl_modLane_eq_modWave _ _ _ _)
  congr 1
  funext x
  have hassoc (i : Nat) : cellAt (w.accRowOf a l) (w.accColOf b l + i) = cellAt (w.accRowOf a l) (w.accColOf b l) + i :=
    (Nat.add_assoc ..).symm
  simp only [hassoc]
  exact foldIdx_cells (d := d.toNat) (lo := 0) (n := 2 ^ m.toNat) (mark := .poisoned 0) (fun i _ h => hcell l hl i (by omega))
    (x.awaits (rangeFrom d.toNat (2 ^ m.toNat)))

end Ald

end Lanes

end Instructions

end Sys2Proof.Machine
end

section
/-! SUPPORT. `setaw`, the signatures of `mma` and `mmaa`, and `acpy` (R300 to R302, R307, R319). -/

namespace Sys2Proof.Machine

section Setaw

variable {s : State} {c : Ctx} {w : Wave} {g : BitVec 4} {uid j : Nat} {k : Block} {la : Launch} (p : AccWave s c w g uid j k la)
  {a : BitVec 7} {b : BitVec 6} (hi : LegalFor (.setaw a b g) [b.toNat] (aScal a false) w) (hf : w.allFull [(c.t w g).headD 0] [b.toNat])

/-- A block's waves with the windows that a `setaw` sets (R307). -/
def Block.setWindows (a : BitVec 7) (target base limit : Nat) (k : Block) : Block :=
  { k with
    waves := mapIdx' (fun j v => if (a.toNat = 119 || j = target) && !v.retired then { v with awBase := base, awLimit := limit } else v) k.waves }

include p hi hf

theorem exec_setaw_misused (hj : j ≠ 0) : exec (.setaw a b g) s = .next (s.takeTraps c.r (c.t w g) c.hdr c.slot 0x12 0 0) := by
  refine (p.execBlock hi _).trans (congrArg _ ?_)
  simp only [List.isEmpty_iff, p.lanes, if_false]
  rw [readGroup_alike p.lanes (by simpa using hf) (by simp)]
  exact if_pos (by simpa [p.waveIndex] using hj)

/-- A `setaw` of the leading wave sets windows inside the launch's rows, of waves that there are (R307). -/
theorem exec_setaw_leader (hj : j = 0) : exec (.setaw a b g) s = .next (
    let v := (w.reg ((c.t w g).headD 0) b.toNat).toNat
    if bitsOf v 16 13 < bitsOf v 0 13 || la.record.accRows < bitsOf v 16 13 ||
        (a.toNat != 119 && decide (k.waves.length ≤ (w.opA 0 a).toNat)) then s.takeTraps c.r (c.t w g) c.hdr c.slot 0x06 0 0
    else s.modBlock uid (Block.setWindows a (w.opA 0 a).toNat (bitsOf v 0 13) (bitsOf v 16 13))) := by
  refine (p.execBlock hi _).trans (congrArg _ ?_)
  simp only [List.isEmpty_iff, p.lanes, if_false]
  rw [readGroup_alike p.lanes (by simpa using hf) (by simp)]
  simp only [p.waveIndex, hj, p.blockOf, p.launch, Option.map_some, Option.getD_some, p.modBlockOf]
  rfl

end Setaw

section Sign

variable {s : State} {c : Ctx} {w : Wave} {g : BitVec 4} {uid j : Nat} {k : Block} {la : Launch} (p : AccWave s c w g uid j k la)
  {i : Instr} {isMmaa : Bool} {t1 t2 kg q opts : Nat} {o : EngOpts} (hi : LegalFor i (rangeFrom (8 * kg) 8) [] w)
include p hi

/-- A signature on a quire that is not open, or that its wave has signed (R300). -/
theorem matrixCommand_misused
    (h : (k.quires.getD q ⟨0, none, []⟩).n = 0 ∨ ∃ y ∈ (k.quires.getD q ⟨0, none, []⟩).signers, y.wave = j) :
    s.matrixCommand i isMmaa t1 t2 kg q opts o g = .next (s.takeTraps c.r (c.t w g) c.hdr c.slot 0x05 0 0) := by
  refine (p.execPlaten hi _).trans (congrArg _ ?_)
  simp only [List.isEmpty_iff, p.lanes, if_false, p.quireOf, p.waveIndex]
  exact if_pos (by simpa using h)

variable (hn : (k.quires.getD q ⟨0, none, []⟩).n ≠ 0) (hs : ∀ y ∈ (k.quires.getD q ⟨0, none, []⟩).signers, y.wave ≠ j)
include hn hs

theorem matrixCommand_unloaded (h : s.descOf c.r t1 = none ∨ s.descOf c.r t2 = none) :
    s.matrixCommand i isMmaa t1 t2 kg q opts o g = .next (s.takeTraps c.r (c.t w g) c.hdr c.slot 0x0F 0 0) := by
  refine (p.execPlaten hi _).trans (congrArg _ ?_)
  simp only [List.isEmpty_iff, p.lanes, if_false, p.quireOf, p.waveIndex]
  refine (if_neg (by simpa using And.intro hn hs)).trans ?_
  split
  · next hd he =>
    rcases h with h | h
    · simp [h] at hd
    · simp [h] at he
  · rfl

/-- A signature whose operands are read: its checks, and the quire (R301, Table 13.6). -/
theorem matrixCommand_checked {A B : Desc} (hA : s.descOf c.r t1 = some A) (hB : s.descOf c.r t2 = some B)
    (hf : w.allFull [(c.t w g).headD 0] (matrixRegs isMmaa (8 * kg) A B)) :
    s.matrixCommand i isMmaa t1 t2 kg q opts o g = .next (
      let v := w.groupVals (c.t w g) (8 * kg) (matrixRegs isMmaa (8 * kg) A B)
      match w.signatureFault isMmaa A B v la.record.scratch with
      | some (cause, some addr) => s.takeTraps c.r (c.t w g) c.hdr c.slot cause 0 addr
      | some (cause, none) => s.trapFree c (c.t w g) cause
      | none => s.sign c (c.t w g) q isMmaa o opts t1 t2 v) := by
  refine (p.execPlaten hi _).trans (congrArg _ ?_)
  simp only [List.isEmpty_iff, p.lanes, if_false, p.quireOf, p.waveIndex, hA, hB]
  refine (if_neg (by simpa using And.intro hn hs)).trans ?_
  rw [readGroup_alike p.lanes (by simpa using hf) (by simp)]
  dsimp only
  rw [p.scratchSize]
  rfl

end Sign

section Record

variable {s : State} {c : Ctx} {w : Wave} {g : BitVec 4} {uid j : Nat} {k : Block} {la : Launch} (p : AccWave s c w g uid j k la)
  {ts : List Nat} {q opts t1 t2 : Nat} {isMmaa : Bool} {o : EngOpts} {coords : List Nat}
include p

theorem sign_eq : s.sign c ts q isMmaa o opts t1 t2 coords =
    let x := k.quires.getD q ⟨0, none, []⟩
    if (x.record.map (· != ⟨isMmaa, t1, t2, opts, coords⟩)).getD false then (s.failQuire uid q).takeTraps c.r ts c.hdr c.slot 0x05 0 0
    else if x.signers.length + 1 = x.n then s.convene c q isMmaa o t1 t2 coords (x.signers ++ [⟨j, ts, c.hdr, c.slot, s.next⟩])
    else (s.modQuire c.r q (fun y => { y with
        record := some ⟨isMmaa, t1, t2, opts, coords⟩
        signers := y.signers ++ [⟨j, ts, c.hdr, c.slot, s.next⟩] })).holdWave c.r (.quire q) := by
  have hq := p.quireOf q
  have hr := p.ref
  unfold State.sign
  rw [hq]
  split
  · next h => rw [hr] at h; cases h
  · next h => rw [hr] at h; cases h; rw [p.waveIndex]; rfl

/-- A signature that is not the quire's record (R301, R303). -/
theorem sign_differs {z : QuireRecord} (hz : (k.quires.getD q ⟨0, none, []⟩).record = some z) (hne : z ≠ ⟨isMmaa, t1, t2, opts, coords⟩) :
    s.sign c ts q isMmaa o opts t1 t2 coords = (s.failQuire uid q).takeTraps c.r ts c.hdr c.slot 0x05 0 0 := by
  rw [sign_eq p]
  exact if_pos (by rw [hz]; simpa using hne)

/-- A block whose wave `j` has signed a quire and waits (R301). -/
def Block.signed (q j : Nat) (z : QuireRecord) (me : Signer) (k : Block) : Block :=
  { k with
    quires := modifyAt k.quires q (fun y => { y with record := some z, signers := y.signers ++ [me] })
    waves := modifyAt k.waves j (fun w => { w with holds := w.holds ++ [.quire q] }) }

variable (hz : (k.quires.getD q ⟨0, none, []⟩).record = none ∨ (k.quires.getD q ⟨0, none, []⟩).record = some ⟨isMmaa, t1, t2, opts, coords⟩)
include hz

theorem sign_waits (hn : (k.quires.getD q ⟨0, none, []⟩).signers.length + 1 ≠ (k.quires.getD q ⟨0, none, []⟩).n) :
    s.sign c ts q isMmaa o opts t1 t2 coords =
      s.modBlock uid (Block.signed q j ⟨isMmaa, t1, t2, opts, coords⟩ ⟨j, ts, c.hdr, c.slot, s.next⟩) := by
  rw [sign_eq p]
  refine (if_neg (by rcases hz with hz | hz <;> rw [hz] <;> simp)).trans ((if_neg hn).trans ?_)
  rw [p.modQuire, State.holdWave, p.ref]
  exact modBlock_modBlock s uid _ (fun k => { k with waves := modifyAt k.waves j (fun w => { w with holds := w.holds ++ [.quire q] }) }) fun _ => rfl

theorem sign_convenes (hn : (k.quires.getD q ⟨0, none, []⟩).signers.length + 1 = (k.quires.getD q ⟨0, none, []⟩).n) :
    s.sign c ts q isMmaa o opts t1 t2 coords =
      s.convene c q isMmaa o t1 t2 coords ((k.quires.getD q ⟨0, none, []⟩).signers ++ [⟨j, ts, c.hdr, c.slot, s.next⟩]) := by
  rw [sign_eq p]
  exact (if_neg (by rcases hz with hz | hz <;> rw [hz] <;> simp)).trans (if_pos hn)

end Record

section Convene

/-- A wave that has signed a quire, when its operation is convened (R302). -/
def Wave.convened (q n : Nat) (w : Wave) : Wave :=
  { w with ocMtx := w.ocMtx + n, holds := if n = 0 then w.holds else w.holds.filter (· != .quire q) }

/-- A block's waves when the operation of a quire's signers is convened (R302). -/
def Block.convened (q : Nat) (signers : List Signer) (k : Block) : Block :=
  { k with
    quires := modifyAt k.quires q (fun y => { y with record := none, signers := [] })
    waves := mapIdx' (fun y z => z.convened q (signers.filter (fun t => t.wave == y)).length) k.waves }

/-- A wave counted for one of the signatures, and going on. -/
def Wave.countSign (q : Nat) (w : Wave) : Wave := { w with ocMtx := w.ocMtx + 1, holds := w.holds.filter (· != .quire q) }

/-- The waves of a block counted, each for its signatures. -/
def Block.countSigns (q : Nat) (signers : List Signer) (k : Block) : Block :=
  { k with waves := mapIdx' (fun y z => z.convened q (signers.filter (fun t => t.wave == y)).length) k.waves }

theorem countSign_convened (q n : Nat) (w : Wave) : (w.convened q n).countSign q = w.convened q (n + 1) := by
  by_cases hn : n = 0
  · simp [Wave.convened, Wave.countSign, hn]
  · simp [Wave.convened, Wave.countSign, hn, Nat.add_assoc]

theorem countSigns_append (q : Nat) (ss : List Signer) (x : Signer) (k : Block) :
    k.countSigns q (ss ++ [x]) = { k.countSigns q ss with waves := modifyAt (k.countSigns q ss).waves x.wave (Wave.countSign q) } := by
  unfold Block.countSigns
  congr 1
  apply List.ext_getElem?
  intro y
  rw [getElem?_modifyAt, getElem?_mapIdx', getElem?_mapIdx', List.filter_append]
  by_cases hy : x.wave = y
  · simp [hy, countSign_convened, Function.comp_def]
  · simp [hy]

/-- Signers counted one after the other are counted together. -/
theorem foldl_countSign (s : State) (uid q : Nat) (signers : List Signer) :
    signers.foldl (fun s x => s.modWave (.blk uid x.wave) (Wave.countSign q)) s = s.modBlock uid (Block.countSigns q signers) := by
  induction signers using List.reverseRecOn with
  | nil =>
    have hk : Block.countSigns q [] = fun k => k := by
      funext k
      unfold Block.countSigns
      congr 1
      apply List.ext_getElem?
      simp [getElem?_mapIdx', Wave.convened]
    rw [List.foldl_nil, hk, modBlock_id]
  | append_singleton ss x ih =>
    rw [List.foldl_append, List.foldl_cons, List.foldl_nil, ih, funext (countSigns_append q ss x)]
    exact modBlock_modBlock s uid (Block.countSigns q ss) (fun k => { k with waves := modifyAt k.waves x.wave (Wave.countSign q) }) fun _ => rfl

variable {s : State} {c : Ctx} {w : Wave} {g : BitVec 4} {uid j : Nat} {k : Block} {la : Launch} (p : AccWave s c w g uid j k la)
include p

theorem convene_eq (q : Nat) (isMmaa : Bool) (o : EngOpts) (t1 t2 : Nat) (coords : List Nat) (signers : List Signer) :
    s.convene c q isMmaa o t1 t2 coords signers = ({ s with
      next := s.next + 1
      engOps := s.engOps ++ [{ s.newEng c s.next .platen (if isMmaa then 2 else 1) o (s.descOf c.r t1) (s.descOf c.r t2) coords [] [] with
        waves := signers.map (fun x => (WaveRef.blk uid x.wave, x.upTo)) }] } : State).modBlock uid (Block.convened q signers) := by
  have huid : k.uid = uid := by simpa using List.find?_some p.block
  unfold State.convene
  rw [p.blockOf]
  dsimp only
  rw [List.foldl_map, huid, p.modQuire]
  refine (foldl_countSign _ uid q signers).trans ?_
  exact modBlock_modBlock _ uid _ (Block.countSigns q signers) fun _ => rfl

end Convene

end Sys2Proof.Machine
end

section
/-! SUPPORT. `acpy` at its issue (R319). -/

namespace Sys2Proof.Machine

/-- The options of an `acpy` (R319). -/
def acpyOpts (f : BitVec 1) (r : BitVec 2) (l i o sat v : BitVec 1) : EngOpts :=
  { round := r.toNat, ceil := l == 1, fi := i == 1, fo := o == 1, sat := sat == 1
    wf := v == 1 && f == 1, sf := !(v == 1) && f == 1, dirIn := v == 1 }

/-- The checks of an `acpy` whose operands are read, and its place in accumulator order (R319). -/
def State.acpyChecked (s : State) (c : Ctx) (w : Wave) (ts : List Nat) (o : EngOpts) (t : Desc) (v : List Nat) : State :=
  let e := s.newEng c s.next .platen 6 o (if o.dirIn then none else some t) (if o.dirIn then some t else none) v ts []
  if !acpyFormatOk o t then s.takeTraps c.r ts c.hdr c.slot 0x0F 0 0
  else
    match t.misplaced ((v.drop 2).take 4) with
    | some a => s.takeTraps c.r ts c.hdr c.slot 0x0A 0 a
    | none =>
      if t.elem = 3 && v.getD 1 0 % 2 != 0 then s.trapFree c ts 0x0A
      else if !w.inWindow (v.getD 0 0) (t.box 1) (v.getD 1 0) (if t.elem = 3 then 2 * t.box 0 else t.box 0) then
        s.takeTraps c.r ts c.hdr c.slot 0x06 0 0
      else
        match s.boxChecks e.core e.part e.space (s.scratchSize c.r) [⟨t, e.acpyPlace t, t.items, !o.dirIn⟩] with
        | (.error x, u) => u.takeTraps c.r ts c.hdr c.slot x.1 x.2.1 x.2.2
        | (.ok pages, u) => { u with next := e.id + 1 }.putEng c.r 2 { e with pages := pages }

section Acpy

variable {s : State} {c : Ctx} {w : Wave} {g : BitVec 4} {uid j : Nat} {k : Block} {la : Launch} (p : AccWave s c w g uid j k la)
  {d4 s4 : BitVec 4} {kg : BitVec 3} {f u : BitVec 1} {r : BitVec 2} {l i o sat v : BitVec 1}
  (hi : LegalFor (.acpy d4 s4 kg f u r l i o sat v g) (rangeFrom (8 * kg.toNat) 8) [] w)
include p hi

theorem exec_acpy_unloaded (h : s.descOf c.r (if v = 1 then s4.toNat else d4.toNat) = none) :
    exec (.acpy d4 s4 kg f u r l i o sat v g) s = .next (s.takeTraps c.r (c.t w g) c.hdr c.slot 0x0F 0 0) := by
  refine (p.execPlaten hi _).trans (congrArg _ ?_)
  simp only [List.isEmpty_iff, p.lanes, if_false, beq_iff_eq, h]
  rfl

variable {t : Desc} (ht : s.descOf c.r (if v = 1 then s4.toNat else d4.toNat) = some t)
  (hf : w.allFull (if u = 1 then c.t w g else [(c.t w g).headD 0]) (rangeFrom (8 * kg.toNat) (2 + t.rank)))
include ht hf

theorem exec_acpy_differ (hu : u = 1) (ha : ¬ w.alike (c.t w g) (rangeFrom (8 * kg.toNat) (2 + t.rank))) :
    exec (.acpy d4 s4 kg f u r l i o sat v g) s = .next (s.takeTraps c.r (c.t w g) c.hdr c.slot 0x13 0 0) := by
  refine (p.execPlaten hi _).trans (congrArg _ ?_)
  have hd : s.descOf c.r (if (v == 1) = true then s4.toNat else d4.toNat) = some t := by simpa only [beq_iff_eq] using ht
  simp only [List.isEmpty_iff, p.lanes, if_false, hd]
  rw [readGroup_differ p.lanes (by simpa using hf) (by simpa using hu) ha]

theorem exec_acpy_alike (ha : u = 1 → w.alike (c.t w g) (rangeFrom (8 * kg.toNat) (2 + t.rank))) :
    exec (.acpy d4 s4 kg f u r l i o sat v g) s = .next (s.acpyChecked c w (c.t w g) (acpyOpts f r l i o sat v) t
      (w.groupVals (c.t w g) (8 * kg.toNat) (rangeFrom (8 * kg.toNat) (2 + t.rank)))) := by
  refine (p.execPlaten hi _).trans (congrArg _ ?_)
  have hd : s.descOf c.r (if (v == 1) = true then s4.toNat else d4.toNat) = some t := by simpa only [beq_iff_eq] using ht
  simp only [List.isEmpty_iff, p.lanes, if_false, hd]
  rw [readGroup_alike p.lanes (by simpa using hf) (by simpa using ha)]
  rfl

end Acpy

section Checked

variable {s : State} {c : Ctx} {w : Wave} {ts : List Nat} {o : EngOpts} {t : Desc} {v : List Nat}

theorem acpyChecked_unfit (h : acpyFormatOk o t = false) : s.acpyChecked c w ts o t v = s.takeTraps c.r ts c.hdr c.slot 0x0F 0 0 :=
  if_pos (by simp [h])

variable (hfit : acpyFormatOk o t = true)
include hfit

theorem acpyChecked_misplaced {a : Nat} (h : t.misplaced ((v.drop 2).take 4) = some a) :
    s.acpyChecked c w ts o t v = s.takeTraps c.r ts c.hdr c.slot 0x0A 0 a := by
  simp only [State.acpyChecked, hfit, h, Bool.not_true, Bool.false_eq_true, if_false]

variable (hplace : t.misplaced ((v.drop 2).take 4) = none)
include hplace

theorem acpyChecked_odd (h : ¬ (t.elem = 3 → v.getD 1 0 % 2 = 0)) : s.acpyChecked c w ts o t v = s.trapFree c ts 0x0A := by
  simp only [State.acpyChecked, hfit, hplace, Bool.not_true, Bool.false_eq_true, if_false]
  exact if_pos (by simpa using h)

variable (heven : t.elem = 3 → v.getD 1 0 % 2 = 0)
include heven

theorem acpyChecked_outside (hw : w.inWindow (v.getD 0 0) (t.box 1) (v.getD 1 0) (if t.elem = 3 then 2 * t.box 0 else t.box 0) = false) :
    s.acpyChecked c w ts o t v = s.takeTraps c.r ts c.hdr c.slot 0x06 0 0 := by
  simp only [State.acpyChecked, hfit, hplace, hw, Bool.not_true, Bool.not_false, Bool.false_eq_true, if_false, if_true]
  exact if_neg (by simpa using heven)

theorem acpyChecked_boxes (hw : w.inWindow (v.getD 0 0) (t.box 1) (v.getD 1 0) (if t.elem = 3 then 2 * t.box 0 else t.box 0) = true) {e : EngOp}
    (he : s.newEng c s.next .platen 6 o (if o.dirIn then none else some t) (if o.dirIn then some t else none) v ts [] = e) :
    s.acpyChecked c w ts o t v =
      match s.boxChecks e.core e.part e.space (s.scratchSize c.r) [⟨t, e.acpyPlace t, t.items, !o.dirIn⟩] with
      | (.error x, u) => u.takeTraps c.r ts c.hdr c.slot x.1 x.2.1 x.2.2
      | (.ok pages, u) => { u with next := e.id + 1 }.putEng c.r 2 { e with pages := pages } := by
  subst he
  simp only [State.acpyChecked, hfit, hplace, hw, Bool.not_true, Bool.false_eq_true, if_false]
  exact if_neg (by simpa using heven)

end Checked

end Sys2Proof.Machine

namespace Sys2Proof.Proofs

open Sys2Proof.Machine

/-- Settles O50: each instruction is run once, as far as its checks and its wait for busy rows; what follows is a change of the block, of the
wave or of the Platen's queue. -/
theorem accumulatorInstructions : Obligations.AccumulatorInstructions := by
  intro d b d4 s4 a m kg q n b1 b2 b3 b4 b5 b6 b7 rd g s c w uid j k la ha hr hk hla ht hacq hwaits hoc hwf T e0 grp traps alike freeTrap x
    fits row col vr cells aligned u inside busy dest
  have p : AccWave s c w g uid j k la := ⟨⟨ha, by rw [hr]; rfl, ht, hacq, hwaits⟩, hr, hk, hla, hoc⟩
  refine ⟨fun hi => ?qinit, fun isMmaa => ?matrix, fun hi hf => ?aclr, fun hi hf => ?ald, fun hi hf => ?ast, fun hi => ?setaw, ?acpy⟩
  case qinit =>
    refine ⟨fun hn hs => ⟨_, (exec_qinit p hi).trans (congrArg _ (if_neg ?_)), rfl⟩, fun h => (exec_qinit p hi).trans (congrArg _ (if_pos h))⟩
    exact fun h => h.elim (by omega) fun h => h hs
  case matrix =>
    intro i hi
    have he : exec i s = s.matrixCommand i isMmaa d4.toNat s4.toNat kg.toNat q.toNat (matrixOpts b1 b2 b3 b4 b5 b6)
        { fi := b3 == 1, fo := b4 == 1, sat := b5 == 1, wf := b1 == 1, accumulate := b2 == 1, negate := b6 == 1 } g := by
      cases isMmaa <;> rfl
    refine ⟨fun h => he.trans (matrixCommand_misused p hi h), fun hn hs h => he.trans (matrixCommand_unloaded p hi hn hs h),
      ?_⟩
    intro A B hn hs hA hB regs v rec_ me hf
    have hx := he.trans (matrixCommand_checked p hi hn hs hA hB hf)
    have hsigned (h : w.signatureFault isMmaa A B v la.record.scratch = none) : exec i s = .next (s.sign c T q.toNat isMmaa
        { fi := b3 == 1, fo := b4 == 1, sat := b5 == 1, wf := b1 == 1, accumulate := b2 == 1, negate := b6 == 1 }
        (matrixOpts b1 b2 b3 b4 b5 b6) d4.toNat s4.toNat v) := by
      dsimp only at hx
      rwa [h] at hx
    refine ⟨fun cause addr h => ?_, fun h => ?_, fun h ⟨z, hz, hne⟩ => (hsigned h).trans (congrArg _ (sign_differs p hz hne)), fun h hz =>
      ⟨fun hlast => ⟨Block.signed q.toNat j rec_ me, (hsigned h).trans (congrArg _ (sign_waits p hz hlast)), ?_⟩, fun hlast =>
      ⟨Block.convened q.toNat (x.signers ++ [me]), ?_, ?_, by simp [Block.convened], fun y z hyz => ?_⟩⟩⟩
    · dsimp only at hx
      rwa [h] at hx
    · dsimp only at hx
      rwa [h] at hx
    · rw [Block.signed, modifyAt_eq_setAt p.wave, modifyAt_eq_setAt_getD]
    · refine (hsigned h).trans (congrArg _ ((sign_convenes p hz hlast).trans ((convene_eq p ..).trans ?_)))
      rw [hA, hB]
    · rw [Block.convened, modifyAt_eq_setAt_getD]
    · exact (getElem?_mapIdx' _ _ _).trans (by rw [hyz]; rfl)
  case aclr =>
    refine ⟨fun hu hal => exec_aclr_differ p hi hf hu hal, fun hal => ?_⟩
    have hx := exec_aclr_alike p hi hf hal
    refine ⟨fun h0 => hx.trans (congrArg _ (if_pos h0)), fun h1 h3 hw => ?_, fun h1 h3 hw hb => ?_, fun h1 h3 hw hb =>
      ⟨fun k => k.putCells (regionCells (grp 0) (grp 1) (grp 2) (grp 3)) (fun _ => 0), ?_, ?_⟩⟩
    · exact hx.trans (congrArg _ ((if_neg (not_or.2 ⟨h1, h3⟩)).trans (if_pos hw)))
    · exact hx.trans (congrArg _ ((if_neg (not_or.2 ⟨h1, h3⟩)).trans ((if_neg (not_not.2 hw)).trans (if_pos hb))))
    · exact hx.trans (congrArg _ ((if_neg (not_or.2 ⟨h1, h3⟩)).trans ((if_neg (not_not.2 hw)).trans
        (if_neg (Bool.eq_false_iff.1 hb)))))
    · obtain ⟨hrest, -, hget, hbad⟩ := putCells_eq hwf (regionCells (grp 0) (grp 1) (grp 2) (grp 3)) (fun _ => 0)
      refine ⟨hrest, fun y => ?_⟩
      have hmem := mem_regionCells (row := grp 0) (rows := grp 1) (y := y) hw.2.2
      refine ⟨fun hy => ⟨(hget y).trans (if_pos (hmem.2 hy)), fun z hz hzy => ?_⟩, fun hy => (hget y).trans (if_neg fun h => hy (hmem.1 h))⟩
      rw [hbad, List.mem_filter] at hz
      exact absurd (hmem.2 hy) (by simpa [hzy] using hz.2)
  case ald =>
    refine ⟨fun h => exec_ald_outside p hi hf h, fun h hb => ⟨_, emptyOwn_keeps .., exec_ald_busy p hi hf h hb⟩, fun h hb k' hk' hgood =>
      ⟨_, exec_ald_reads p hi hf h hb hk' hgood, fun v _ => ?_⟩⟩
    exact ald_writes (Nat.pos_iff_ne_zero.1 (Nat.two_pow_pos _)) (fun l => cellAt (row l) (col l)) v aligned
  case ast =>
    refine ⟨fun h => exec_ast_outside p hi hf h, fun h hb => (exec_ast_inside p hi hf h).trans (congrArg _ (if_pos hb)), fun h hb =>
      ⟨_, (exec_ast_inside p hi hf h).trans (congrArg _ (if_neg (Bool.eq_false_iff.1 hb))), fun k' hk' => ?_⟩⟩
    obtain ⟨hrest, -, hget⟩ := foldl_lanes_putCell hk' (2 ^ m.toNat) (fun l => cellAt (row l) (col l)) (fun l i => w.reg l (d.toNat + i)) aligned
    exact ⟨hrest, hget⟩
  case setaw =>
    refine ⟨fun hj hf => exec_setaw_misused p hi hf hj, ?_⟩
    intro hj hf base limit target outside
    have hx := exec_setaw_leader p hi hf hj
    dsimp only at hx
    rw [show bitsOf _ 0 13 = base by simp [bitsOf, base, e0, T], show bitsOf _ 16 13 = limit from rfl] at hx
    have hout : outside ↔
        (decide (limit < base) || decide (la.record.accRows < limit) || (a.toNat != 119 && decide (k.waves.length ≤ target))) = true := by
      simp [outside, or_assoc, BitVec.toNat_eq]
    refine ⟨fun h => hx.trans (congrArg _ (if_pos (hout.1 h))), fun h => ⟨Block.setWindows a target base limit,
      hx.trans (congrArg _ (if_neg (hout.not.1 h))), rfl, by simp [Block.setWindows], fun y z hyz => ?_⟩⟩
    refine (getElem?_mapIdx' _ _ _).trans ?_
    rw [hyz]
    simp [BitVec.toNat_eq]
  case acpy =>
    intro i opts hi
    refine ⟨fun h => exec_acpy_unloaded p hi h, ?_⟩
    intro t htd regs v e within boxes even hf
    refine ⟨fun hu hal => exec_acpy_differ p hi htd hf hu hal, fun hal => ?_⟩
    have hx := exec_acpy_alike p hi htd hf hal
    have hwin : within ↔ w.inWindow (v.getD 0 0) (t.box 1) (v.getD 1 0) (if t.elem = 3 then 2 * t.box 0 else t.box 0) = true :=
      inWindow_iff.symm
    rw [show acpyOpts b1 rd b3 b4 b5 b6 b7 = opts from rfl] at hx
    have he : s.newEng c s.next .platen 6 opts (if opts.dirIn then none else some t) (if opts.dirIn then some t else none) v T [] = e := by
      simp only [opts, beq_iff_eq]
      rfl
    have hroom (hfit : acpyFormatOk opts t = true) (hm : t.misplaced ((v.drop 2).take 4) = none) (heven : even) (hw : within) :=
      hx.trans (congrArg _ (acpyChecked_boxes hfit hm heven (hwin.1 hw) he))
    refine ⟨fun hfit => hx.trans (congrArg _ (acpyChecked_unfit hfit)), fun at_ hfit hm => hx.trans (congrArg _ (acpyChecked_misplaced hfit hm)),
      fun hfit hm he => hx.trans (congrArg _ (acpyChecked_odd hfit hm he)), fun hfit hm he hw => ?_, fun z y hfit hm he hw hb => ?_,
      fun pages y hfit hm he hw hb => ?_⟩
    · exact hx.trans (congrArg _ (acpyChecked_outside hfit hm he (Bool.eq_false_iff.2 (hwin.not.1 hw))))
    · have h := hroom hfit hm he hw
      rwa [show (!opts.dirIn) = (b7 != 1) from rfl, show s.boxChecks _ _ _ _ _ = (.error z, y) from hb] at h
    · have h := hroom hfit hm he hw
      rw [show (!opts.dirIn) = (b7 != 1) from rfl, show s.boxChecks _ _ _ _ _ = (.ok pages, y) from hb] at h
      exact ⟨_, h, fun z => rfl⟩

end Sys2Proof.Proofs
end

section
/-! SUPPORT. What a write to memory leaves of the device-wide state and of the attestation of each partition (R429 to R433). -/

namespace Sys2Proof.Machine

/-- What a partition keeps for its attestation and for its way to the pod. -/
def Partition.care (p : Partition) : Nat × List (Nat × Nat) × Nat := (p.vf.attStatus, p.podCache, p.bktPort)

theorem wave?_wake (s : State) (r q : WaveRef) : (s.wake r).wave? q = s.wave? q := by
  cases r with
  | hdl c p => rfl
  | blk uid j =>
    cases q with
    | hdl c p => rfl
    | blk u k =>
      simp only [State.wave?, State.block?, State.wake, List.find?_map]
      rw [List.find?_congr (p₂ := fun b : Block => b.uid == u) (fun b _ => by simp only [Function.comp]; split <;> rfl)]
      cases s.blocks.find? (fun b => b.uid == u) with
      | none => rfl
      | some b =>
        simp only [Option.map_some, Option.bind_some]
        split <;> rfl

/-- The clock, the operations in flight, the requests to peers, the writes of host and peers under way, the device-wide state but for the
banks' activation counts, what each partition keeps for its attestation and its way to the pod, and which waves there are, are as in another
state, whose outputs come first. -/
structure State.SameCare (s0 s : State) : Prop where
  clock : s.clock = s0.clock
  memOps : s.memOps = s0.memOps
  engOps : s.engOps = s0.engOps
  podReqs : s.podReqs = s0.podReqs
  pendingWrites : s.pendingWrites = s0.pendingWrites
  device : ∃ b, s.device = { s0.device with banks := b }
  outputs : s0.outputs <+: s.outputs
  length : s.parts.length = s0.parts.length
  care : ∀ p, (s.part p).care = (s0.part p).care
  waves : ∀ r, (s.wave? r).isSome = (s0.wave? r).isSome

/-- The waves of a state with the same blocks and cores. -/
theorem State.SameCare.wavesOf {s0 s t : State} (h : s0.SameCare s) (hb : t.blocks = s.blocks) (hc : t.cores = s.cores) (r : WaveRef) :
    (t.wave? r).isSome = (s0.wave? r).isSome := by
  rw [← h.waves r]
  cases r <;> simp only [State.wave?, State.block?, State.core, hb, hc]

theorem State.SameCare.status {s0 s : State} (h : s0.SameCare s) (p : Nat) : (s.part p).vf.attStatus = (s0.part p).vf.attStatus :=
  congrArg (·.1) (h.care p)

theorem State.SameCare.refl (s : State) : s.SameCare s := ⟨rfl, rfl, rfl, rfl, rfl, ⟨_, rfl⟩, List.prefix_rfl, rfl, fun _ => rfl, fun _ => rfl⟩

theorem State.SameCare.update {s0 s : State} (h : s0.SameCare s) {mem side poisonMem slices launches remains issues entries turns
    focus cur stay next draws} :
    s0.SameCare ⟨s.clock, mem, side, poisonMem, s.parts, slices, s.cores, launches, s.blocks, remains, issues, s.memOps, s.engOps, entries,
      s.podReqs, s.pendingWrites, s.device, s.outputs, turns, focus, cur, stay, next, draws⟩ :=
  ⟨h.clock, h.memOps, h.engOps, h.podReqs, h.pendingWrites, h.device, h.outputs, h.length, h.care, h.wavesOf rfl rfl⟩

theorem State.SameCare.foldl {α : Type} {f : State → α → State} {s0 s : State} {l : List α} (h : s0.SameCare s)
    (hf : ∀ s x, s0.SameCare s → s0.SameCare (f s x)) : s0.SameCare (l.foldl f s) := by
  induction l generalizing s with
  | nil => exact h
  | cons x xs ih => exact ih (hf s x h)

theorem sameCareFoldl2 {α β : Type} {f : β × State → α → β × State} {s0 : State} {a : β × State} {l : List α} (h : s0.SameCare a.2)
    (hf : ∀ a x, s0.SameCare a.2 → s0.SameCare (f a x).2) : s0.SameCare (l.foldl f a).2 := by
  induction l generalizing a with
  | nil => exact h
  | cons x xs ih => exact ih (hf a x h)

theorem sameCareFoldl1 {α β : Type} {f : State × β → α → State × β} {s0 : State} {a : State × β} {l : List α} (h : s0.SameCare a.1)
    (hf : ∀ a x, s0.SameCare a.1 → s0.SameCare (f a x).1) : s0.SameCare (l.foldl f a).1 := by
  induction l generalizing a with
  | nil => exact h
  | cons x xs ih => exact ih (hf a x h)

theorem sameCareOf2 {β : Type} {s0 : State} {p : β × State} {b : β} {t : State} (e : p = (b, t)) (h : s0.SameCare p.2) :
    s0.SameCare t := by
  rw [e] at h
  exact h

theorem sameCareOf1 {β : Type} {s0 : State} {p : State × β} {b : β} {t : State} (e : p = (t, b)) (h : s0.SameCare p.1) :
    s0.SameCare t := by
  rw [e] at h
  exact h

theorem State.SameCare.modDevice {s0 s : State} {f : Device → Device} (h : s0.SameCare s)
    (hf : ∀ d, ∃ b, f d = { d with banks := b } := by exact fun _ => ⟨_, rfl⟩) : s0.SameCare (s.modDevice f) where
  clock := h.clock
  memOps := h.memOps
  engOps := h.engOps
  podReqs := h.podReqs
  pendingWrites := h.pendingWrites
  device := by
    obtain ⟨b, hb⟩ := h.device
    obtain ⟨b', hb'⟩ := hf s.device
    exact ⟨b', hb'.trans (by rw [hb])⟩
  outputs := h.outputs
  length := h.length
  care := h.care
  waves := h.wavesOf rfl rfl

theorem State.SameCare.modPart {s0 s : State} {p : Nat} {f : Partition → Partition} (h : s0.SameCare s)
    (hf : ∀ q, (f q).care = q.care := by exact fun _ => rfl) : s0.SameCare (s.modPart p f) where
  clock := h.clock
  memOps := h.memOps
  engOps := h.engOps
  podReqs := h.podReqs
  pendingWrites := h.pendingWrites
  device := h.device
  outputs := h.outputs
  length := (length_modifyAt ..).trans h.length
  care q := by
    rw [← h.care q, part_modPart]
    split
    · exact hf _
    · rfl
  waves := h.wavesOf rfl rfl

theorem State.SameCare.modVF {s0 s : State} {p : Nat} {f : VF → VF} (h : s0.SameCare s)
    (hf : ∀ v, (f v).attStatus = v.attStatus := by exact fun _ => rfl) : s0.SameCare (s.modVF p f) :=
  h.modPart fun q => congrArg (·, q.podCache, q.bktPort) (hf q.vf)

theorem State.SameCare.modWave {s0 s : State} {r : WaveRef} {f : Wave → Wave} (h : s0.SameCare s) : s0.SameCare (s.modWave r f) := by
  have hw (q : WaveRef) : ((s.modWave r f).wave? q).isSome = (s0.wave? q).isSome := by
    by_cases hq : q = r
    · subst hq
      rw [State.wave?_modWave, Option.isSome_map]
      exact h.waves q
    · rw [State.wave?_modWave_ne _ _ _ _ hq]
      exact h.waves q
  cases r <;> exact { h with waves := hw }

/-- A state, where there is one, that keeps them. -/
def SameCareIfSome (s0 : State) (o : Option State) : Prop := ∀ t, o = some t → s0.SameCare t

theorem SameCareIfSome.none {s0 : State} : SameCareIfSome s0 none := fun _ h => nomatch h

theorem SameCareIfSome.some {s0 t : State} (h : s0.SameCare t) : SameCareIfSome s0 (some t) := fun _ e => Option.some.inj e ▸ h

theorem SameCareIfSome.map {s0 : State} {o : Option State} {f : State → State} (h : SameCareIfSome s0 o)
    (hf : ∀ s, s0.SameCare s → s0.SameCare (f s)) : SameCareIfSome s0 (o.map f) := fun t e => by
  obtain ⟨s, hs, rfl⟩ := Option.map_eq_some_iff.1 e
  exact hf s (h s hs)

theorem SameCareIfSome.bind {s0 : State} {o : Option State} {f : State → Option State} (h : SameCareIfSome s0 o)
    (hf : ∀ s, s0.SameCare s → SameCareIfSome s0 (f s)) : SameCareIfSome s0 (o.bind f) := fun t e => by
  obtain ⟨s, hs, ht⟩ := Option.bind_eq_some_iff.1 e
  exact hf s (h s hs) t ht

theorem SameCareIfSome.mapOf {s0 : State} {α : Type} {o : Option α} {f : α → State} (hf : ∀ a, s0.SameCare (f a)) :
    SameCareIfSome s0 (o.map f) := fun t e => by
  obtain ⟨a, -, rfl⟩ := Option.map_eq_some_iff.1 e
  exact hf a

theorem SameCareIfSome.getD {s0 s : State} {o : Option State} (h : SameCareIfSome s0 o) (hs : s0.SameCare s) :
    s0.SameCare (o.getD s) := by
  cases o with
  | none => exact hs
  | some t => exact h t rfl

end Sys2Proof.Machine
end

section
/-! SUPPORT. Each of the operations on memory under which the device-wide state and the attestations stay (R429 to R433). -/

namespace Sys2Proof.Machine
theorem State.SameCare.modBank {u0 : State} {s : State} {b : Nat} {f : Bank → Bank} (h : u0.SameCare s) : u0.SameCare (s.modBank b f) :=
  h.modDevice

theorem State.SameCare.activate {u0 : State} {s : State} {line : Nat} (h : u0.SameCare s) : u0.SameCare (s.activate line) := by
  unfold State.activate
  split
  · exact h.modBank.update
  · exact h

theorem State.SameCare.writeBack {u0 : State} {s0 : State} {line : Nat} {bytes side : List Byte} {poison : Bool} (h : u0.SameCare s0) :
    u0.SameCare (s0.writeBack line bytes side poison) :=
  h.activate.update

theorem State.SameCare.emit {u0 : State} {s : State} {o : Output} (h : u0.SameCare s) : u0.SameCare (s.emit o) :=
  ⟨h.clock, h.memOps, h.engOps, h.podReqs, h.pendingWrites, h.device, h.outputs.trans (List.prefix_append ..), h.length, h.care,
    h.wavesOf rfl rfl⟩

theorem State.SameCare.askHost {u0 : State} {s : State} {line : Nat} {q : CacheReq} (h : u0.SameCare s) : u0.SameCare (s.askHost line q) := by
  unfold State.askHost
  split
  · exact h.emit
  · exact h

theorem State.SameCare.modSlice {u0 : State} {s : State} {i : Nat} {f : Slice → Slice} (h : u0.SameCare s) : u0.SameCare (s.modSlice i f) :=
  h.update

theorem State.SameCare.dropTag {u0 : State} {s : State} {i : Nat} {t : Tag} (h : u0.SameCare s) : u0.SameCare (s.dropTag i t) := by
  unfold State.dropTag
  refine State.SameCare.modSlice ?_
  split
  · exact h.writeBack
  · exact h

theorem State.SameCare.cleanTag {u0 : State} {s : State} {i : Nat} {t : Tag} (h : u0.SameCare s) : u0.SameCare (s.cleanTag i t) := by
  unfold State.cleanTag
  refine State.SameCare.modSlice ?_
  split
  · exact h.writeBack
  · exact h

theorem State.SameCare.takeHost {u0 : State} {s : State} {part line : Nat} {owned : Bool} {q : CacheReq} (h : u0.SameCare s) :
    u0.SameCare (s.takeHost part line owned q) := by
  unfold State.takeHost
  split
  · exact h
  · refine State.SameCare.askHost ?_
    refine h.foldl ?_
    intro s1 x h1
    split
    · exact h1.dropTag
    · exact h1.cleanTag

theorem State.SameCare.evict {u0 : State} {s : State} {i : Nat} {t : Tag} (h : u0.SameCare s) : u0.SameCare (s.evict i t) := by
  unfold State.evict
  dsimp only
  split
  · exact h.dropTag
  · exact h.dropTag.askHost

theorem State.SameCare.makeRoom {u0 : State} {i keep : Nat} {plate : Bool} {fuel : Nat} {s : State} (h : u0.SameCare s) :
    u0.SameCare (State.makeRoom i keep plate fuel s) := by
  induction fuel generalizing s with
  | zero => exact h
  | succ n ih =>
    unfold State.makeRoom
    dsimp only
    split
    · exact h
    · split
      · exact h
      · exact ih h.evict

theorem State.SameCare.placeAt {u0 : State} {s : State} {part i : Nat} {t : Tag} {bytes side : List Byte} (h : u0.SameCare s) :
    u0.SameCare (s.placeAt part i t bytes side) :=
  h.makeRoom.modSlice.modPart

theorem State.SameCare.fillAs {u0 : State} {s : State} {part space line : Nat} {a : PageAttr} {poison owned : Bool} (h : u0.SameCare s) :
    u0.SameCare (s.fillAs part space line a poison owned) := by
  unfold State.fillAs
  split
  · exact h
  · split
    · exact h.modSlice
    · exact h.takeHost.activate.placeAt

theorem State.SameCare.applyWrite {u0 : State} {s : State} {part space line : Nat} {a : PageAttr} {ws scales : List (Nat × Byte)}
    {whole poison : Bool}
    (h : u0.SameCare s) : u0.SameCare (s.applyWrite part space line a ws scales whole poison) := by
  unfold State.applyWrite
  dsimp only
  split
  · exact h.writeBack
  · split
    · refine State.SameCare.placeAt ?_
      refine State.SameCare.modSlice ?_
      split
      · exact h
      · exact h.takeHost
    · split
      · refine State.SameCare.fillAs ?_
        split
        · exact h.takeHost
        · exact h
      · split
        · split
          · exact h.takeHost.fillAs.makeRoom.modSlice.modPart
          · exact h.takeHost.fillAs.modSlice
        · split
          · exact h.fillAs.makeRoom.modSlice.modPart
          · exact h.fillAs.modSlice

theorem State.SameCare.putRecord {u0 : State} {s : State} {part rec : Nat} {bs : List Byte} (h : u0.SameCare s) :
    u0.SameCare (s.putRecord part rec bs) := by
  unfold State.putRecord
  dsimp only
  split
  · exact h
  · exact h.applyWrite

theorem State.SameCare.freeRecords {u0 : State} {s : State} {e : Entry} (h : u0.SameCare s) : u0.SameCare (s.freeRecords e) :=
  h.foldl fun _ _ h1 => h1.putRecord

theorem State.SameCare.dropEntry {u0 : State} {s : State} {e : Entry} (h : u0.SameCare s) : u0.SameCare (s.dropEntry e) :=
  h.freeRecords.update

theorem State.SameCare.wake {u0 : State} {s : State} {r : WaveRef} (h : u0.SameCare s) : u0.SameCare (s.wake r) := by
  have hw (q : WaveRef) : ((s.wake r).wave? q).isSome = (u0.wave? q).isSome := by rw [wave?_wake]; exact h.waves q
  cases r <;> exact { h with waves := hw }

theorem State.SameCare.modLaunch {u0 : State} {s : State} {lid : Nat} {f : Launch → Launch} (h : u0.SameCare s) :
    u0.SameCare (s.modLaunch lid f) :=
  h.update

theorem State.SameCare.deliver {u0 : State} {s : State} {e : Entry} {value : Nat} {met : Bool} (h : u0.SameCare s) :
    u0.SameCare (s.deliver e value met) := by
  unfold State.deliver
  dsimp only
  split
  · exact h.dropEntry.modWave.wake
  · exact h.dropEntry.modWave.wake
  · exact h.dropEntry.modVF
  · exact h.dropEntry.modLaunch
  · exact h.dropEntry.modVF.emit

theorem State.SameCare.fire {u0 : State} {s : State} {e : Entry} (h : u0.SameCare s) : u0.SameCare (s.fire e) :=
  h.deliver.modPart

theorem State.SameCare.fireOverdue {u0 : State} {s : State} {part line : Nat} (h : u0.SameCare s) : u0.SameCare (s.fireOverdue part line) :=
  h.foldl fun _ _ h1 => h1.fire

theorem State.SameCare.checkEntries {u0 : State} {s : State} {part line : Nat} {wrote : List Nat} (h : u0.SameCare s) :
    u0.SameCare (s.checkEntries part line wrote) := by
  unfold State.checkEntries
  refine State.SameCare.foldl ?_ ?_
  · split
    · split
      · exact h
      · exact h.modSlice
    · refine State.SameCare.update ?_
      split
      · exact h
      · exact h.modSlice
  · intro s1 x h1
    dsimp only
    split
    · split
      · exact h1.deliver
      · exact h1
    · split
      · exact h1.deliver
      · exact h1

theorem State.SameCare.fillLine {u0 : State} {s : State} {part space line : Nat} {a : PageAttr} {poison : Bool} (h : u0.SameCare s) :
    u0.SameCare (s.fillLine part space line a poison) :=
  h.fillAs

theorem State.SameCare.reread {u0 : State} {s : State} {part line : Nat} (h : u0.SameCare s) : u0.SameCare (s.reread part line) := by
  unfold State.reread
  split
  · exact h.fillLine.checkEntries
  · exact h

theorem State.SameCare.rereadOthers {u0 : State} {s : State} {qs : List Nat} {line : Nat} (h : u0.SameCare s) :
    u0.SameCare (s.rereadOthers qs line) :=
  h.foldl fun _ _ h1 => h1.reread

theorem State.SameCare.performWrite {u0 : State} {s : State} {part space line : Nat} {a : PageAttr} {ws scales : List (Nat × Byte)}
    {whole poison : Bool}
    (h : u0.SameCare s) : u0.SameCare (s.performWrite part space line a ws scales whole poison).1 :=
  h.fireOverdue.applyWrite.checkEntries.rereadOthers

theorem State.SameCare.writeRun {u0 : State} {s : State} {part pa : Nat} {a : PageAttr} {bs : List Byte} (h : u0.SameCare s) :
    u0.SameCare (s.writeRun part pa a bs).1 :=
  sameCareFoldl1 h fun _ _ h1 => h1.performWrite


theorem State.SameCare.queueRecord {u0 : State} {s : State} {p : Nat} {fault : Bool} {bytes : List Byte} (h : u0.SameCare s) :
    u0.SameCare (s.queueRecord p fault bytes).2 := by
  have hput {t : State} {q : Ring} (h : u0.SameCare t) :
      u0.SameCare (t.modVF p (fun v => if fault = true then { v with fq := q } else { v with eq := q })) := h.modVF fun v => by split <;> rfl
  unfold State.queueRecord
  extract_lets v q put
  split
  · exact hput h
  · split
    · exact h
    · split
      · exact hput h
      · extract_lets pa
        split
        · exact hput h
        · exact (hput h.writeRun).emit

theorem State.SameCare.errorToAll {u0 s : State} {parts : List Nat} {serial code addr : Nat} (h : u0.SameCare s) :
    u0.SameCare (s.errorToAll parts serial code addr) := h.foldl fun _ _ h => h.queueRecord

end Sys2Proof.Machine
end

section
/-! SUPPORT. What taking and losing the device, and the security alarm, leave (R429, R430, R433). -/

namespace Sys2Proof.Machine

/-- A device owned from a given tick, with no offer. -/
def State.Owned (s : State) (owner nonce now : Nat) : Prop :=
  s.device.owner = owner ∧ s.device.nonce = nonce ∧ s.device.offerNonce = 0 ∧ s.device.offerTarget = 0 ∧ s.device.beatAt = now

theorem State.SameCare.owned {s0 s : State} {owner nonce now : Nat} (h : s0.SameCare s) (h0 : s0.Owned owner nonce now) :
    s.Owned owner nonce now := by
  obtain ⟨b, hb⟩ := h.device
  unfold State.Owned
  rw [hb]
  exact h0

theorem clock_setOwner (s : State) (owner nonce : Nat) : (s.setOwner owner nonce).clock = s.clock := by
  unfold State.setOwner State.ownerChanged
  obtain ⟨boots, serial, h⟩ := takeSerial_modDevice
    (s.modDevice (fun d => { d with owner := owner, nonce := nonce, offerNonce := 0, offerTarget := 0, beatAt := s.leaseNow hubDie }))
  refine (State.SameCare.refl _).errorToAll.clock.trans ?_
  rw [h]
  rfl

theorem setOwner_owned (s : State) (owner nonce : Nat) : (s.setOwner owner nonce).Owned owner nonce (s.leaseNow hubDie) := by
  unfold State.setOwner State.ownerChanged
  obtain ⟨boots, serial, h⟩ := takeSerial_modDevice
    (s.modDevice (fun d => { d with owner := owner, nonce := nonce, offerNonce := 0, offerTarget := 0, beatAt := s.leaseNow hubDie }))
  refine (State.SameCare.refl _).errorToAll.owned ?_
  rw [h]
  exact ⟨rfl, rfl, rfl, rfl, rfl⟩

theorem clock_lapse (s : State) : s.lapse.clock = s.clock := by
  unfold State.lapse
  split
  · exact clock_setOwner ..
  · rfl

theorem beatOverdue_iff (s : State) : s.beatOverdue = true ↔ s.device.owner ≠ 0 ∧ s.device.beatAt + 4200000000 ≤ s.leaseNow hubDie := by
  simp [State.beatOverdue]

theorem length_reportBody (s : State) (part : Nat) : (s.reportBody part).length = 144 := by
  simp [State.reportBody]

/-- An event logged while the staging buffer has room stands in it, and all else of the device but serials and counters is as before. -/
theorem logEvent_stages (s : State) (unit kind : Nat) (h : s.device.staging.length < 4096) :
    (s.logEvent unit kind none none).2.parts = s.parts ∧
      (s.logEvent unit kind none none).2.device.alarm = s.device.alarm ∧
      (s.logEvent unit kind none none).2.device.keysErased = s.device.keysErased ∧
      ∃ r ∈ (s.logEvent unit kind none none).2.device.staging, r.unit = unit ∧ r.kind = kind := by
  obtain ⟨boots, serial, hs⟩ := takeSerial_modDevice s
  have hd : s.takeSerial.2.device = { s.device with boots := boots, serial := serial } := congrArg State.device hs
  unfold State.logEvent
  dsimp only [State.modDevice]
  rw [if_pos (by rw [hd]; exact h), hd]
  exact ⟨(congrArg State.parts hs).trans rfl, rfl, rfl, _, List.mem_append_right _ (List.mem_singleton_self _), rfl, rfl⟩

/-- The attestations under way failed, as the alarm does (R433). -/
def State.failReport (s : State) (p : Nat) : State :=
  if (s.part p).vf.attStatus = 1 then s.modVF p (fun v => { v with attStatus := 3 }) else s

theorem device_failReports (ps : List Nat) (s : State) : (ps.foldl State.failReport s).device = s.device := by
  induction ps generalizing s with
  | nil => rfl
  | cons p ps ih =>
    refine (ih _).trans ?_
    unfold State.failReport
    split <;> rfl

theorem length_failReport (s : State) (p : Nat) : (s.failReport p).parts.length = s.parts.length := by
  unfold State.failReport
  split
  · exact length_modifyAt ..
  · rfl

theorem attStatus_failReport (s : State) (p q : Nat) : ((s.failReport p).part q).vf.attStatus =
    if p = q ∧ (s.part q).vf.attStatus = 1 ∧ q < s.parts.length then 3 else (s.part q).vf.attStatus := by
  unfold State.failReport State.modVF
  by_cases hp : p = q
  · subst hp
    by_cases h1 : (s.part p).vf.attStatus = 1 <;> by_cases hl : p < s.parts.length <;> simp [h1, hl, State.part_modPart]
  · by_cases h1 : (s.part p).vf.attStatus = 1 <;> simp [h1, hp, State.part_modPart]

theorem attStatus_failReports (ps : List Nat) (s : State) (q : Nat) : ((ps.foldl State.failReport s).part q).vf.attStatus =
    if q ∈ ps ∧ (s.part q).vf.attStatus = 1 ∧ q < s.parts.length then 3 else (s.part q).vf.attStatus := by
  induction ps generalizing s with
  | nil => simp
  | cons p ps ih =>
    rw [List.foldl_cons, ih, attStatus_failReport, length_failReport]
    by_cases h1 : (s.part q).vf.attStatus = 1 <;> by_cases hp : p = q <;> by_cases hl : q < s.parts.length <;>
      simp [h1, hp, hl, eq_comm (a := q) (b := p)]

/-- The state in which the alarm has been logged and reported, before it fences and locks the device (R433). -/
def State.alarmed (s : State) (sensors : Nat) : State :=
  let r := (s.modDevice (fun d => { d with alarm := d.alarm ||| sensors % 16, keysErased := true })).logEvent 248 9 none none
  if s.device.fenced then r.2 else r.2.errorToAll (upTo 16) r.1 0x0013 0

theorem alarmed_device (s : State) (sensors : Nat) (h : s.device.staging.length < 4096) :
    (s.alarmed sensors).device.alarm = s.device.alarm ||| sensors % 16 ∧ (s.alarmed sensors).device.keysErased = true ∧
      (∃ r ∈ (s.alarmed sensors).device.staging, r.unit = 248 ∧ r.kind = 9) ∧
      (s.alarmed sensors).parts.length = s.parts.length ∧
      ∀ q, ((s.alarmed sensors).part q).vf.attStatus = (s.part q).vf.attStatus := by
  obtain ⟨hparts, halarm, hkeys, hrec⟩ := logEvent_stages
    (s.modDevice (fun d => { d with alarm := d.alarm ||| sensors % 16, keysErased := true })) 248 9 h
  have hcare : (State.logEvent (s.modDevice (fun d => { d with alarm := d.alarm ||| sensors % 16, keysErased := true })) 248 9 none
      none).2.SameCare (s.alarmed sensors) := by
    unfold State.alarmed
    dsimp only
    split
    · exact .refl _
    · exact (State.SameCare.refl _).errorToAll
  obtain ⟨b, hb⟩ := hcare.device
  rw [hb]
  refine ⟨halarm, hkeys, hrec, hcare.length.trans (congrArg _ hparts), fun q => (hcare.status q).trans ?_⟩
  rw [State.part, hparts]
  rfl

theorem securityAlarm_eq (s : State) (sensors : Nat) (h : sensors % 16 ≠ 0) (hp : s.device.unpowered = false) :
    execSecurityAlarm sensors s = .next ((upTo 16).foldl State.failReport
      ((s.alarmed sensors).modDevice (fun d => { d with fenced := true, locked := true }))) := by
  simp only [execSecurityAlarm, h, hp]
  rfl

end Sys2Proof.Machine
end

section
namespace Sys2Proof.Proofs
open Sys2Proof.Machine

/-- Settles O59: a change of hands sets the device's ownership and then reports it, and a report changes neither the device-wide state nor an
attestation (`State.SameCare`). -/
theorem ownershipAndFirmware : Obligations.OwnershipAndFirmware := by
  unfold Obligations.OwnershipAndFirmware
  intro s path value
  dsimp only
  refine ⟨?_, ?_, ?_, ?_, ?_, ?_, ?_, ?_, ?_, ?_, ?_, ?_⟩
  · intro h
    refine congrArg Host.Outcome.next (if_pos ?_)
    simp only [Bool.or_eq_true, bne_iff_ne, ne_eq, decide_eq_true_eq, Bool.not_eq_true']
    tauto
  · intro ha ho hn hi
    refine ⟨_, congrArg Host.Outcome.next (if_neg ?_), ?_⟩
    · simp [ha, ho, hn, hi]
    · have h := setOwner_owned s.lapse (masterId path) (bitsOf value 32 32)
      rw [show s.lapse.leaseNow hubDie = s.leaseNow hubDie from congrArg (· + _) (clock_lapse s)] at h
      exact h
  · intro hpath
    refine ⟨fun h => congrArg Host.Outcome.next (if_pos ?_), fun h => congrArg Host.Outcome.next (if_neg ?_),
      congrArg Host.Outcome.next (if_pos hpath)⟩
    · rw [hpath, beq_iff_eq.2 h]; rfl
    · rw [hpath, beq_eq_false_iff_ne.2 h]; decide
  · intro hpath
    refine ⟨congrArg Host.Outcome.next (if_neg ?_), congrArg Host.Outcome.next (if_neg ?_), congrArg Host.Outcome.next (if_neg ?_),
      congrArg Host.Outcome.next (if_neg ?_)⟩ <;> simp [hpath]
  · intro h
    refine congrArg Host.Outcome.next (if_pos ?_)
    simp only [Bool.or_eq_true, bne_iff_ne, ne_eq, beq_iff_eq, Bool.not_eq_true']
    tauto
  · intro ha ho ht hv
    refine ⟨_, congrArg Host.Outcome.next (if_neg ?_), setOwner_owned ..⟩
    simp only [ha, beq_eq_false_iff_ne.2 ho, ht, hv, bne_self_eq_false]
    decide
  · intro h
    refine congrArg Host.Outcome.next (if_neg ?_)
    rw [beatOverdue_iff]
    omega
  · intro ho hb
    exact ⟨_, congrArg Host.Outcome.next (if_pos ((beatOverdue_iff s).2 ⟨ho, hb⟩)), setOwner_owned ..⟩
  · intro part hpart
    refine ⟨fun hw hv => ⟨fun h => congrArg Host.Outcome.next (if_pos ?_), fun h => congrArg Host.Outcome.next (if_neg ?_)⟩,
      fun h1 hp => ⟨fun hk => congrArg Host.Outcome.next ?_, fun hl hk => ⟨_, congrArg Host.Outcome.next
        ((if_neg (by simp [h1, hp])).trans (if_neg (by simp [hl, hk]))), ?_⟩⟩⟩
    · rw [hw, beq_iff_eq.2 hv, bne_iff_ne.2 h]
      decide
    · simp [h]
    · rw [if_neg (by simp [h1, hp]), if_pos (by simpa using hk)]
    · dsimp only [State.modVF]
      rw [State.part_modPart, if_pos ⟨rfl, hpart⟩]
      have hlen := length_reportBody s part
      exact ⟨rfl, by simp [hlen], by rw [← hlen, List.take_left' rfl], by rw [← hlen, List.drop_left' rfl]⟩
  · intro sensors hp
    refine ⟨fun h => congrArg Host.Outcome.next (if_pos (by simp [h])), fun h hs => ?_⟩
    obtain ⟨halarm, hkeys, hrec, hlen, hstatus⟩ := alarmed_device s sensors hs
    refine ⟨_, securityAlarm_eq s sensors h hp, ?_, ?_, ?_, ?_, ?_, fun part hpart => ?_⟩
    · rw [device_failReports]; exact halarm
    · rw [device_failReports]; exact hkeys
    · rw [device_failReports]; rfl
    · rw [device_failReports]; rfl
    · rw [device_failReports]; exact hrec
    · rw [attStatus_failReports]
      simp only [upTo_eq_range, List.mem_range, hpart, true_and]
      rw [← hlen, ← hstatus part]
      rfl
  · intro hpath hb
    refine ⟨fun h => ⟨congrArg Host.Outcome.next (if_pos ?_), congrArg Host.Outcome.next (if_neg ?_)⟩,
      fun h => ⟨congrArg Host.Outcome.next (if_neg ?_), congrArg Host.Outcome.next (if_pos ?_)⟩⟩ <;> simp [hpath, hb, h]
  · intro hp
    have hexec : exec .fwImageVerified s = execFwImageVerified s := rfl
    simp only [hexec, execFwImageVerified, hp, Bool.false_eq_true, if_false]
    refine ⟨?_, fun h => ?_, fun h => ?_⟩
    · rintro (h | h) <;> exact ⟨fun hi => by simp [h, hi], fun hi => by simp [h, hi]⟩
    · simp [h]
    · simp [h]

end Sys2Proof.Proofs
end

section
/-! SUPPORT. Posts that end an escalation (R400, R401): each changes one lane, or marks a launch to be killed, and then reports. -/

namespace Sys2Proof.Machine

theorem frStatus_postResult {s : State} {part n : Nat} (h : part < s.parts.length) : ((s.postResult part n).part part).vf.frStatus = n := by
  rw [State.postResult, State.modVF, State.part_modPart, if_pos ⟨rfl, h⟩]

/-- A post that finds no escalated lane reports 1. -/
theorem post_none {s : State} {part : Nat} (hw : s.vfWritable part = true) (h : s.escalatedLane part (s.part part).vf.frSerial = none)
    (act : Origin → TrapInfo → State → State) : s.post part act = s.postResult part 1 := by
  simp only [State.post, hw, h]
  rfl

/-- A post that finds one acts on it and reports 0. -/
theorem post_some {s : State} {part : Nat} {o : Origin} {i : TrapInfo} (hw : s.vfWritable part = true)
    (h : s.escalatedLane part (s.part part).vf.frSerial = some (o, i)) (act : Origin → TrapInfo → State → State) :
    s.post part act = (act o i s).postResult part 0 := by
  simp only [State.post, hw, h]
  rfl

/-- A lane of a wave passed through a function. -/
theorem lanesMapped_modLane (w : Wave) (l : Nat) (f : Lane → Lane) :
    LanesMapped w (w.modLane l f) (fun k x => if k = l then f x else x) where
  rest := rfl
  lanes k := by
    simp only [Wave.modLane_lanes, getElem?_modifyAt]
    by_cases h : l = k
    · simp [h]
    · simp [h, Ne.symm h]

/-- A lane changed, its wave woken and the result of the post reported. -/
theorem laneChanged_posted {s : State} {part : Nat} {o : Origin} {w : Wave} (hp : part < s.parts.length)
    (hw : s.wave? (.blk o.uid o.wave) = some w) (f : Lane → Lane) :
    let u := ((s.modLane (.blk o.uid o.wave) o.lane f).wake (.blk o.uid o.wave)).postResult part 0
    (u.part part).vf.frStatus = 0 ∧ u.mem = s.mem ∧
      ∃ z, u.wave? (.blk o.uid o.wave) = some z ∧ LanesMapped w z (fun k x => if k = o.lane then f x else x) := by
  intro u
  refine ⟨frStatus_postResult hp, rfl, w.modLane o.lane f, ?_, lanesMapped_modLane w o.lane f⟩
  have h : u.wave? (.blk o.uid o.wave) = (s.modLane (.blk o.uid o.wave) o.lane f).wave? (.blk o.uid o.wave) :=
    wave?_wake (s.modLane (.blk o.uid o.wave) o.lane f) (.blk o.uid o.wave) (.blk o.uid o.wave)
  rw [h, State.modLane, State.wave?_modWave, hw]
  rfl

/-- The lanes of the blocks of a partition's launches that are trapped as `p` says. -/
theorem mem_trappedLanes {s : State} {part : Nat} {p : TrapInfo → Bool} {o : Origin} {i : TrapInfo} :
    (o, i) ∈ s.trappedLanes part p ↔ ∃ b ∈ s.blocks, b.uid = o.uid ∧ ((s.launch? b.launch).map (·.part)).getD 16 = part ∧
      ∃ w x, b.waves[o.wave]? = some w ∧ w.lanes[o.lane]? = some x ∧ x.trap = some i ∧ x.state = .trapped ∧ p i = true := by
  have hmem {α β : Type} {f : Nat → α → List β} {l : List α} {y : β} :
      y ∈ (mapIdx' f l).flatten ↔ ∃ k x, l[k]? = some x ∧ y ∈ f k x := by
    rw [List.mem_flatten]
    constructor
    · rintro ⟨ys, hys, hy⟩
      obtain ⟨k, x, hk, rfl⟩ := mem_mapIdx' hys
      exact ⟨k, x, hk, hy⟩
    · rintro ⟨k, x, hk, hy⟩
      exact ⟨f k x, List.mem_of_getElem? (i := k) (by rw [getElem?_mapIdx', hk]; rfl), hy⟩
  simp only [State.trappedLanes, List.mem_flatMap, List.mem_filter, hmem, beq_iff_eq]
  constructor
  · rintro ⟨b, ⟨hb, hpart⟩, j, w, hj, l, x, hl, hx⟩
    split at hx
    · next k hk =>
      split at hx
      · next hc =>
        obtain ⟨rfl, rfl⟩ : o = ⟨b.uid, j, l⟩ ∧ i = k := by simpa using hx
        simp only [Bool.and_eq_true, beq_iff_eq] at hc
        exact ⟨b, hb, rfl, hpart, w, x, hj, hl, hk, hc.1, hc.2⟩
      · simp at hx
    · simp at hx
  · rintro ⟨b, hb, huid, hpart, w, x, hj, hl, hk, hs, hp⟩
    refine ⟨b, ⟨hb, hpart⟩, o.wave, w, hj, o.lane, x, hl, ?_⟩
    simp [hk, hs, hp, huid]

theorem lane?_wake (s : State) (r q : WaveRef) (l : Nat) : (s.wake r).lane? q l = s.lane? q l := by
  rw [State.lane?, State.lane?, wave?_wake]

/-- The state in which every one of some escalated lanes is replayed. -/
def State.replayAll (s : State) (ls : List (Origin × TrapInfo)) : State := ls.foldl (fun s x => s.replayLane x.1 x.2) s

theorem replayLane_keeps (s : State) (o : Origin) (i : TrapInfo) :
    (s.replayLane o i).parts = s.parts ∧ (s.replayLane o i).mem = s.mem := ⟨rfl, rfl⟩

theorem replayAll_keeps (s : State) (ls : List (Origin × TrapInfo)) :
    (s.replayAll ls).parts = s.parts ∧ (s.replayAll ls).mem = s.mem := by
  induction ls generalizing s with
  | nil => exact ⟨rfl, rfl⟩
  | cons x xs ih => exact ih _

/-- A lane replayed takes its trap point; every other lane is as before. -/
theorem lane?_replayLane (s : State) (o : Origin) (i : TrapInfo) (uid j k : Nat) :
    (s.replayLane o i).lane? (.blk uid j) k = if o = ⟨uid, j, k⟩ then
      (s.lane? (.blk uid j) k).map (fun x => { x with state := .active, starve := 0, vpc := i.vpc, slot := i.slot, trap := none })
    else s.lane? (.blk uid j) k := by
  obtain ⟨a, b, c⟩ := o
  rw [State.replayLane, lane?_wake, State.resumeLane]
  by_cases hr : WaveRef.blk uid j = .blk a b
  · obtain ⟨rfl, rfl⟩ : uid = a ∧ j = b := by simpa using hr
    rw [State.lane?_modLane]
    by_cases hc : c = k <;> simp [hc, Lane.activate]
  · have hne : ¬ ((⟨a, b, c⟩ : Origin) = ⟨uid, j, k⟩) := by
      rintro h
      simp_all
    rw [if_neg hne, State.lane?, State.modLane, State.wave?_modWave_ne _ _ _ _ hr]
    rfl

/-- A lane that is not among those replayed is as before. -/
theorem lane?_replayAll_of_not_mem {uid j k : Nat} {ls : List (Origin × TrapInfo)} (h : ∀ i, (⟨uid, j, k⟩, i) ∉ ls) (s : State) :
    (s.replayAll ls).lane? (.blk uid j) k = s.lane? (.blk uid j) k := by
  induction ls generalizing s with
  | nil => rfl
  | cons x xs ih =>
    refine (ih (fun i hi => h i (by simp [hi])) _).trans ?_
    rw [lane?_replayLane, if_neg]
    intro hx
    exact h x.2 (by simp [← hx])

/-- A lane that is among those replayed, with one trap alone, stands at its trap point. -/
theorem lane?_replayAll_of_mem {uid j k : Nat} {i : TrapInfo} {ls : List (Origin × TrapInfo)} (hm : (⟨uid, j, k⟩, i) ∈ ls)
    (h : ∀ n, (⟨uid, j, k⟩, n) ∈ ls → n = i) (s : State) :
    (s.replayAll ls).lane? (.blk uid j) k =
      (s.lane? (.blk uid j) k).map (fun x => { x with state := .active, starve := 0, vpc := i.vpc, slot := i.slot, trap := none }) := by
  induction ls generalizing s with
  | nil => simp at hm
  | cons x xs ih =>
    have hrest (n : TrapInfo) (hn : (⟨uid, j, k⟩, n) ∈ xs) : n = i := h n (by simp [hn])
    have hhead : (s.replayLane x.1 x.2).lane? (.blk uid j) k = if x.1 = ⟨uid, j, k⟩ then
        (s.lane? (.blk uid j) k).map (fun x => { x with state := .active, starve := 0, vpc := i.vpc, slot := i.slot, trap := none })
        else s.lane? (.blk uid j) k := by
      rw [lane?_replayLane]
      split
      · next hx => rw [h x.2 (by simp [← hx])]
      · rfl
    by_cases hx : (⟨uid, j, k⟩, i) ∈ xs
    · refine (ih hx hrest _).trans ?_
      rw [hhead]
      split
      · cases s.lane? (.blk uid j) k <;> rfl
      · rfl
    · have hnot (n : TrapInfo) : (⟨uid, j, k⟩, n) ∉ xs := fun hn => hx (hrest n hn ▸ hn)
      refine (lane?_replayAll_of_not_mem hnot _).trans ?_
      rw [hhead, if_pos]
      exact (congrArg Prod.fst ((List.mem_cons.1 hm).resolve_right hx)).symm

/-- Blocks whose handles are all different are found by them. -/
theorem block?_of_mem_nodup {s : State} (h : (s.blocks.map (·.uid)).Nodup) {b : Block} (hb : b ∈ s.blocks) : s.block? b.uid = some b := by
  have hf : (s.blocks.find? (fun k => k.uid == b.uid)).isSome := by
    rw [List.find?_isSome]
    exact ⟨b, hb, by simp⟩
  obtain ⟨k, hk⟩ := Option.isSome_iff_exists.1 hf
  have hkb : k = b := List.inj_on_of_nodup_map h (List.mem_of_find?_eq_some hk) hb (by simpa using List.find?_some hk)
  rw [State.block?, hk, hkb]

/-- Entries that have taken no spill records are dropped without any other effect. -/
theorem dropEntries_unspilled {p : Entry → Bool} {s : State} (h : ∀ e ∈ s.entries, p e = true → e.recs = []) :
    ∃ es, s.dropEntries p = { s with entries := es } := by
  have hl : ∀ (l : List Entry) (t : State), (∀ e ∈ l, e.recs = []) →
      ∃ es, l.foldl (fun s e => s.dropEntry e) t = { t with entries := es } := by
    intro l
    induction l with
    | nil => exact fun t _ => ⟨t.entries, rfl⟩
    | cons e l ih =>
      intro t ht
      obtain ⟨es, he⟩ := ih (t.dropEntry e) (fun d hd => ht d (by simp [hd]))
      refine ⟨es, he.trans ?_⟩
      rw [State.dropEntry, State.freeRecords, ht e (by simp)]
      rfl
  refine hl _ s fun e he => ?_
  obtain ⟨hm, hp⟩ := List.mem_filter.1 he
  exact h e hm hp

end Sys2Proof.Machine
end

section
/-! SUPPORT. The clauses about posts. -/

namespace Sys2Proof.Proofs
open Sys2Proof.Machine

/-- A post that kills a launch marks it, and reports 0. -/
theorem killLaunch_posted {s : State} {part : Nat} {o : Origin} {i : TrapInfo} {b : Block} {l : Launch} (hw : s.vfWritable part = true)
    (hp : part < s.parts.length) (he : s.escalatedLane part (s.part part).vf.frSerial = some (o, i)) (hb : s.block? o.uid = some b)
    (hl : s.launch? b.launch = some l) (hk : l.killing = none) (ha : l.stage = .admitted)
    (hr : ∀ e ∈ s.entries, e.owner = .gate b.launch → e.recs = []) :
    ∃ u : State, exec (.killLaunch part) s = .next u ∧ (u.part part).vf.frStatus = 0 ∧ u.mem = s.mem ∧ u.blocks = s.blocks ∧
      u.launch? b.launch = some { l with killing := some 4 } := by
  obtain ⟨es, hes⟩ := dropEntries_unspilled (p := fun e => e.owner == EntryOwner.gate b.launch) (s := s)
    (fun e he hg => hr e he (by simpa using hg))
  have hlid : l.lid = b.launch := by simpa [State.launch?] using List.find?_some hl
  have hkill : s.killLaunch b.launch 4 = ({ s with entries := es } : State).modLaunch b.launch (fun l => { l with killing := some 4 }) := by
    simp only [State.killLaunch, hl, hk, ha, hes]
    rfl
  refine ⟨_, congrArg Host.Outcome.next (post_some hw he _), ?_⟩
  simp only [hb, Option.map_some, Option.getD_some, hkill]
  refine ⟨frStatus_postResult hp, rfl, rfl, ?_⟩
  have h : (({ s with entries := es } : State).modLaunch b.launch (fun l => { l with killing := some 4 })).launch? b.launch =
      some { l with killing := some 4 } := by
    rw [State.launch?_modLaunch _ _ _ (fun l => { l with killing := some 4 }) (fun _ => rfl),
      show ({ s with entries := es } : State).launch? b.launch = some l from hl]
    simp [hlid]
  exact h

/-- A range replay resumes the lanes whose translation fault lies in the range, and no other escalated lane. -/
theorem replayRange_resumes {s : State} {part : Nat} (hw : s.vfWritable part = true) (hp : part < s.parts.length)
    (hb : (s.part part).vf.frBase < 2 ^ 57) (hl : (s.part part).vf.frBase + (s.part part).vf.frLen ≤ 2 ^ 57)
    (hn : (s.blocks.map (·.uid)).Nodup) : ∃ u : State, exec (.replayRange part) s = .next u ∧ (u.part part).vf.frStatus = 0 ∧ u.mem = s.mem ∧
      ∀ (uid j k n : Nat) (x : Lane) (i : TrapInfo) (b : Block), s.block? uid = some b → ((s.launch? b.launch).map (·.part)).getD 16 = part →
        s.lane? (.blk uid j) k = some x → x.state = .trapped → x.trap = some i → i.phase = .escalated n →
        u.lane? (.blk uid j) k = some (
          if i.cause = 8 ∧ (s.part part).vf.frBase ≤ i.addr ∧ i.addr < (s.part part).vf.frBase + (s.part part).vf.frLen then
            { x with state := .active, starve := 0, vpc := i.vpc, slot := i.slot, trap := none }
          else x) := by
  let inRange (i : TrapInfo) : Bool := (match i.phase with | .escalated _ => true | _ => false) && i.cause == 0x08 &&
    decide ((s.part part).vf.frBase ≤ i.addr) && decide (i.addr < (s.part part).vf.frBase + (s.part part).vf.frLen)
  have hexec : exec (.replayRange part) s = .next ((s.replayAll (s.trappedLanes part inRange)).postResult part 0) := by
    refine congrArg Host.Outcome.next ((if_neg (by simp [hw])).trans (if_neg ?_))
    simp only [Bool.or_eq_true, decide_eq_true_eq]
    omega
  obtain ⟨hparts, hmem⟩ := replayAll_keeps s (s.trappedLanes part inRange)
  refine ⟨_, hexec, frStatus_postResult (hparts ▸ hp), hmem, ?_⟩
  intro uid j k n x i b huid hpart hx hs ht hph
  have hlane (t : State) : (t.postResult part 0).lane? (.blk uid j) k = t.lane? (.blk uid j) k := rfl
  rw [hlane]
  have honly (m : TrapInfo) : (⟨uid, j, k⟩, m) ∈ s.trappedLanes part inRange → m = i ∧ inRange m = true := by
    rw [mem_trappedLanes]
    rintro ⟨b', hb', hu', -, w', x', hw', hx', hm, -, hr⟩
    have hfound := block?_of_mem_nodup hn hb'
    rw [hu'] at hfound
    have hlane' : s.lane? (.blk uid j) k = some x' := by
      simp only [State.lane?, State.wave?, hfound, Option.bind_some, hw', Wave.lane?]
      exact hx'
    obtain rfl : x = x' := Option.some.inj (hx.symm.trans hlane')
    exact ⟨Option.some.inj (hm.symm.trans ht), hr⟩
  have hrange : inRange i = true ↔
      i.cause = 8 ∧ (s.part part).vf.frBase ≤ i.addr ∧ i.addr < (s.part part).vf.frBase + (s.part part).vf.frLen := by
    simp only [inRange, hph, Bool.true_and, Bool.and_eq_true, beq_iff_eq, decide_eq_true_eq, and_assoc]
  split
  · next hc =>
    have hm : (⟨uid, j, k⟩, i) ∈ s.trappedLanes part inRange := by
      rw [mem_trappedLanes]
      obtain ⟨w, hwave, hlane⟩ := Option.bind_eq_some_iff.1 hx
      obtain ⟨b', hb', hwb⟩ := Option.bind_eq_some_iff.1 hwave
      obtain rfl : b = b' := Option.some.inj (huid.symm.trans hb')
      exact ⟨b, List.mem_of_find?_eq_some huid, by simpa using List.find?_some huid, hpart, w, x, hwb, hlane, ht, hs, hrange.2 hc⟩
    rw [lane?_replayAll_of_mem hm (fun m h => (honly m h).1), hx]
    rfl
  · next hc =>
    rw [lane?_replayAll_of_not_mem, hx]
    intro m hm
    obtain ⟨rfl, hr⟩ := honly m hm
    exact hc (hrange.1 hr)

end Sys2Proof.Proofs
end
section
/-! SUPPORT. A write from outside the cores, of less than a line, to a line held alone (R335, R336). -/

namespace Sys2Proof.Machine

/-- A run of fewer than 128 bytes inside a line does not fill it. -/
theorem isFullLine_run {pa : Nat} {bs : List Byte} (h : bs.length < 128) (a : PageAttr) (scales : List (Nat × Byte)) :
    isFullLine a (mapIdx' (fun i b => (pa % 128 + i, b)) bs) scales = false := by
  have hcover (n : Nat) (hc : (mapIdx' (fun i b => (pa % 128 + i, b)) bs).any (fun w => w.1 == n) = true) :
      pa % 128 ≤ n ∧ n < pa % 128 + bs.length := by
    obtain ⟨w, hw, hn⟩ := List.any_eq_true.1 hc
    obtain ⟨i, b, hi, rfl⟩ := mem_mapIdx' hw
    have := (List.getElem?_eq_some_iff.1 hi).1
    have hn : pa % 128 + i = n := by simpa using hn
    omega
  have hall : (upTo 128).all (fun i => (mapIdx' (fun i b => (pa % 128 + i, b)) bs).any (fun w => w.1 == i)) = false := by
    refine Bool.eq_false_iff.2 fun hall => ?_
    rw [List.all_eq_true] at hall
    have h0 := hcover 0 (hall 0 (by simp))
    have h127 := hcover 127 (hall 127 (by simp))
    omega
  rw [isFullLine, hall, Bool.false_and]

/-- Such a run is performed as a partial write. -/
theorem performWrite_run {pa : Nat} {bs : List Byte} (h : bs.length < 128) (s : State) (part space line : Nat) (a : PageAttr) (poison : Bool) :
    s.performWrite part space line a (mapIdx' (fun i b => (pa % 128 + i, b)) bs) [] true poison =
      s.performWrite part space line a (mapIdx' (fun i b => (pa % 128 + i, b)) bs) [] false poison := by
  have happly (t : State) : t.applyWrite part space line a (mapIdx' (fun i b => (pa % 128 + i, b)) bs) [] true poison =
      t.applyWrite part space line a (mapIdx' (fun i b => (pa % 128 + i, b)) bs) [] false poison := by
    simp only [State.applyWrite, isFullLine_run h, Bool.and_false]
  simp only [State.performWrite, happly]

/-- The completion time of a write performed at the home of a line held alone. -/
theorem performWrite_completion {s : State} {part line j : Nat} {x : Tag} (h : HeldAlone s part line j x) (space : Nat) (a : PageAttr)
    (ws scales : List (Nat × Byte)) (whole poison : Bool) :
    (s.performWrite part space line a ws scales whole poison).2 = max (s.leaseNow (s.homeDie part line)) x.lease + 2 := by
  have h1 := HomesKept.fireOverdue h.unspilled
  have hs1 := h1.heldAlone h
  have hclock : (s.fireOverdue part line).clock = s.clock := (State.SameCare.refl s).fireOverdue.clock
  have hlease : (s.fireOverdue part line).leaseField part line = x.lease := by
    simp only [State.leaseField, hs1.home, hs1.tag, Option.map_some, Option.getD_some]
  have hdie : (s.fireOverdue part line).homeDie part line = s.homeDie part line := by
    simp only [State.homeDie, h1.homeOf]
  simp only [State.performWrite, hs1.others, List.foldl_nil, hlease, hdie]
  rw [State.leaseNow, hclock]
  rfl

/-- A write of a run inside a line held alone, and the write that waits for its completion. -/
theorem writeOutside_heldAlone {s : State} {part pa j : Nat} {x : Tag} {bs : List Byte} (h : HeldAlone s part (pa / 128) j x)
    (hin : pa % 128 + bs.length ≤ 128) (hne : bs ≠ []) (hlen : bs.length < 128) (peer : Option Nat) :
    let r := s.writeOutside part pa bs false
    ∃ y : PendingWrite,
      (r.1.pend r.2 (s.homeDie part (pa / 128)) peer []).mem = s.mem ∧
      ((r.1.pend r.2 (s.homeDie part (pa / 128)) peer []).homeLine part (pa / 128)).1 =
        writeOffsets (s.homeLine part (pa / 128)).1 (mapIdx' (fun i b => (pa % 128 + i, b)) bs) ∧
      (r.1.pend r.2 (s.homeDie part (pa / 128)) peer []).pendingWrites = s.pendingWrites ++ [y] ∧ y.peer = peer ∧ y.reply = [] ∧
      y.die = s.homeDie part (pa / 128) ∧ y.completion = max (s.leaseNow (s.homeDie part (pa / 128))) x.lease + 2 := by
  have hr : s.writeOutside part pa bs false =
      s.performWrite part 16 (pa / 128) .plain (mapIdx' (fun i b => (pa % 128 + i, b)) bs) [] false false := by
    simp only [State.writeOutside, splitLines_inside hin hne, List.foldl_cons, List.foldl_nil, performWrite_run hlen, Nat.zero_max]
  obtain ⟨-, hmem, hline⟩ := performWrite_heldAlone h 16 .plain (mapIdx' (fun i b => (pa % 128 + i, b)) bs) [] false
  have hc := performWrite_completion h 16 .plain (mapIdx' (fun i b => (pa % 128 + i, b)) bs) [] false false
  have hp := (State.SameCare.refl s).performWrite (part := part) (space := 16) (line := pa / 128) (a := .plain)
    (ws := mapIdx' (fun i b => (pa % 128 + i, b)) bs) (scales := []) (whole := false) (poison := false) |>.pendingWrites
  intro r
  simp only [r, hr]
  exact ⟨⟨_, _, _, _, _⟩, hmem, hline, congrArg (· ++ [_]) hp, rfl, rfl, rfl, hc⟩

/-- A point that throttles no request gives its tokens without a record. -/
theorem takeTokens_free {s : State} {p : BucketPoint} (h : s.throttled p = false) (n : Nat) : s.takeTokens p n = some s := by
  rw [State.takeTokens, if_neg (by simp [h])]

theorem takeAll_free {s : State} {ps : List BucketPoint} (h : ∀ p ∈ ps, s.throttled p = false) (n : Nat) : s.takeAll n ps = some s := by
  induction ps with
  | nil => rfl
  | cons p ps ih =>
    rw [State.takeAll, takeTokens_free (h p (by simp))]
    exact ih fun q hq => h q (by simp [hq])

/-- A peer's request takes its tokens at points that do not throttle. -/
theorem peerTokens_free {s : State} {device target pa n : Nat} (hport : s.throttled (.port (s.podPort device (pa / 128)) target) = false)
    (hslices : ∀ k ∈ runLines pa n, ∀ p ∈ s.hostPoints target k, s.throttled p = false) : s.peerTokens device target pa n = some s := by
  have hl : ∀ (l : List Nat) (f : Nat → Nat), (∀ i ∈ l, s.throttled (.slice i) = false) →
      l.foldl (fun (acc : Option State) i => acc.bind (fun t => t.takeTokens (.slice i) (f i))) (some s) = some s := by
    intro l f h
    induction l with
    | nil => rfl
    | cons i l ih =>
      rw [List.foldl_cons, Option.bind_some, takeTokens_free (h i (by simp))]
      exact ih fun k hk => h k (by simp [hk])
  rw [State.peerTokens, takeTokens_free hport]
  refine hl _ _ fun i hi => ?_
  obtain ⟨k, hk, hhome⟩ := List.mem_filterMap.1 (mem_sortDedup.1 hi)
  exact hslices k hk (.slice i) (by simp [State.hostPoints, hhome])

end Sys2Proof.Machine
end
section
/-! SUPPORT. Requests of the partition to its peers: what an answer and a failure leave (R375, R376). -/

namespace Sys2Proof.Machine

theorem memOp?_modMemOp (s : State) (n m : Nat) {f : MemOp → MemOp} (hf : ∀ o, (f o).id = o.id) :
    (s.modMemOp n f).memOp? m = (s.memOp? m).map (fun o => if o.id == n then f o else o) := by
  simp only [State.memOp?, State.modMemOp, List.find?_map]
  congr 1
  refine List.find?_congr fun o _ => ?_
  simp only [Function.comp]
  split <;> simp [hf]

theorem memOp?_id {s : State} {n : Nat} {o : MemOp} (h : s.memOp? n = some o) : o.id = n := by
  simpa using List.find?_some h

/-- The operation found under its own number, changed. -/
theorem memOp?_modMemOp_self {s : State} {n : Nat} {o : MemOp} (h : s.memOp? n = some o) {f : MemOp → MemOp} (hf : ∀ o, (f o).id = o.id) :
    (s.modMemOp n f).memOp? n = some (f o) := by
  rw [memOp?_modMemOp s n n hf, h, Option.map_some, if_pos (by simp [memOp?_id h])]

theorem memOp?_setGroup {s : State} {n i : Nat} {o : MemOp} {g : OpGroup} (h : s.memOp? n = some o) :
    (s.setGroup n i g).memOp? n = some { o with groups := setAt o.groups i g } := memOp?_modMemOp_self h fun _ => rfl

/-- What a state leaves of another outside operations, waves and launches; and every operation still in flight has its groups and its
completion time. -/
structure OpsEnded (s t : State) : Prop where
  mem : t.mem = s.mem
  podReqs : t.podReqs = s.podReqs
  device : t.device = s.device
  parts : t.parts = s.parts
  ops : ∀ n p, t.memOp? n = some p → ∃ q, s.memOp? n = some q ∧ p.groups = q.groups ∧ p.completion = q.completion

theorem OpsEnded.refl (s : State) : OpsEnded s s := ⟨rfl, rfl, rfl, rfl, fun _ p h => ⟨p, h, rfl, rfl⟩⟩

theorem OpsEnded.trans {s t u : State} (h : OpsEnded s t) (k : OpsEnded t u) : OpsEnded s u where
  mem := k.mem.trans h.mem
  podReqs := k.podReqs.trans h.podReqs
  device := k.device.trans h.device
  parts := k.parts.trans h.parts
  ops n p hp := by
    obtain ⟨q, hq, h1, h2⟩ := k.ops n p hp
    obtain ⟨r, hr, h3, h4⟩ := h.ops n q hq
    exact ⟨r, hr, h1.trans h3, h2.trans h4⟩

theorem OpsEnded.modMemOp (s : State) (n : Nat) {f : MemOp → MemOp} (hf : ∀ o, (f o).id = o.id)
    (hg : ∀ o, s.memOp? n = some o → (f o).groups = o.groups ∧ (f o).completion = o.completion) : OpsEnded s (s.modMemOp n f) where
  mem := rfl
  podReqs := rfl
  device := rfl
  parts := rfl
  ops m p hp := by
    rw [memOp?_modMemOp s n m hf] at hp
    obtain ⟨o, ho, rfl⟩ := Option.map_eq_some_iff.1 hp
    refine ⟨o, ho, ?_⟩
    split
    · next hid =>
      have hid : o.id = n := by simpa using hid
      exact hg o ((memOp?_id ho).symm.trans hid ▸ ho)
    · exact ⟨rfl, rfl⟩

theorem OpsEnded.dropMemOp (s : State) (n : Nat) : OpsEnded s (s.dropMemOp n) where
  mem := rfl
  podReqs := rfl
  device := rfl
  parts := rfl
  ops m p hp := by
    refine ⟨p, ?_, rfl, rfl⟩
    have hid := memOp?_id hp
    have hm : p ∈ s.memOps.filter (fun o => o.id != n) := List.mem_of_find?_eq_some hp
    have hne : m ≠ n := by
      have := (List.mem_filter.1 hm).2
      simpa [hid] using this
    rw [State.memOp?, State.dropMemOp, List.find?_filter] at hp
    rw [State.memOp?, ← hp]
    refine List.find?_congr fun o _ => ?_
    by_cases h : o.id = m <;> simp [h, hne]

theorem OpsEnded.modWave (s : State) (r : WaveRef) (f : Wave → Wave) : OpsEnded s (s.modWave r f) := by
  cases r <;> exact ⟨rfl, rfl, rfl, rfl, fun _ p h => ⟨p, h, rfl, rfl⟩⟩

theorem OpsEnded.foldLaunch (s : State) (r : WaveRef) (lid completion : Nat) : OpsEnded s (s.foldLaunch r lid completion) := by
  unfold State.foldLaunch
  split
  · exact .refl s
  · exact ⟨rfl, rfl, rfl, rfl, fun _ p h => ⟨p, h, rfl, rfl⟩⟩

theorem OpsEnded.drainMem (r : WaveRef) (fuel : Nat) (s : State) : OpsEnded s (State.drainMem r fuel s) := by
  induction fuel generalizing s with
  | zero => exact .refl s
  | succ n ih =>
    unfold State.drainMem
    split
    · exact .refl s
    · next o _ =>
      split
      · extract_lets s1
        have hs1 : OpsEnded s s1 := (OpsEnded.modWave s r _).trans (.foldLaunch _ r _ _)
        refine (hs1.trans ?_).trans (ih _)
        split
        · exact .dropMemOp _ _
        · exact .modMemOp _ _ (fun _ => rfl) fun _ _ => ⟨rfl, rfl⟩
      · exact .refl s

theorem OpsEnded.endOp {s : State} {n : Nat} {o : MemOp} (h : s.memOp? n = some o) : OpsEnded s (s.endOp o) := by
  unfold State.endOp
  split
  · exact .dropMemOp _ _
  · extract_lets s1
    have hs1 : OpsEnded s s1 := .modMemOp _ _ (fun _ => rfl) fun p hp => ⟨rfl, by rw [memOp?_id h, h] at hp; rw [Option.some.inj hp]⟩
    exact hs1.trans (.drainMem _ _ _)

theorem OpsEnded.settleOp (s : State) (n : Nat) : OpsEnded s (s.settleOp n) := by
  unfold State.settleOp
  split
  · exact .refl s
  · next o ho =>
    have hend := OpsEnded.endOp ho
    have hif {c : Prop} [Decidable c] {t : State} (h : OpsEnded s t) : OpsEnded s (if c then t else s) := by
      split
      · exact h
      · exact .refl s
    refine hif ?_
    split
    · exact hend
    · exact hend
    · extract_lets s1
      have hs1 : OpsEnded s s1 := hif hend
      split
      · exact hs1
      · split
        · exact hs1.trans (.dropMemOp _ _)
        · exact hs1
    · exact hif hend
    · exact hif hend
    · exact hif hend
    · exact hif hend
    · exact hif hend
    · exact hif (.dropMemOp _ _)
    · exact .refl s

/-- A load whose values have not all gone to their registers is not over. -/
theorem settleOp_load {s : State} {n : Nat} {o : MemOp} {b : Bool} (h : s.memOp? n = some o) (hk : o.kind = .load b)
    (hr : ∃ g ∈ o.groups, g.returned = false) : s.settleOp n = s := by
  have hall : o.groups.all (·.returned) = false := by
    obtain ⟨g, hg, hgr⟩ := hr
    exact List.all_eq_false.2 ⟨g, hg, by simp [hgr]⟩
  simp only [State.settleOp, h, hk, hall]
  split <;> rfl

/-- The group that a request serves stands in its operation. -/
theorem getElem?_of_groupOfReq {o : MemOp} {req i : Nat} {g : OpGroup} (h : o.groupOfReq req = some (i, g)) : o.groups[i]? = some g := by
  have hf : ∀ (l : List OpGroup) (n : Nat) (acc : Option (Nat × OpGroup)),
      foldIdx (fun acc i g => acc.or (if g.req == some req && !g.performed then some (i, g) else none)) acc n l = some (i, g) →
        acc = some (i, g) ∨ ∃ k, i = n + k ∧ l[k]? = some g := by
    intro l
    induction l with
    | nil => exact fun n acc h => .inl h
    | cons x l ih =>
      intro n acc h
      rcases ih (n + 1) _ h with h | ⟨k, rfl, hk⟩
      · rcases Option.or_eq_some_iff.1 h with h | ⟨-, h⟩
        · exact .inl h
        · split at h
          · obtain ⟨rfl, rfl⟩ : n = i ∧ x = g := by simpa using h
            exact .inr ⟨0, rfl, rfl⟩
          · simp at h
      · exact .inr ⟨k + 1, by omega, hk⟩
  rcases hf o.groups 0 none h with h | ⟨k, rfl, hk⟩
  · simp at h
  · rwa [Nat.zero_add]

theorem mem_dropReq {s : State} {id : Nat} {x : PodReq} : x ∈ (s.dropReq id).podReqs ↔ x ∈ s.podReqs ∧ x.id ≠ id := by
  simp [State.dropReq]

/-- A group of a load that takes values, and its operation with it. -/
theorem setGroup_settle_load {s : State} {n i : Nat} {o : MemOp} {g h : OpGroup} {b : Bool} (ho : s.memOp? n = some o) (hk : o.kind = .load b)
    (hi : o.groups[i]? = some g) (hr : h.returned = false) :
    (s.setGroup n i h).settleOp n = s.setGroup n i h ∧ ∃ p, (s.setGroup n i h).memOp? n = some p ∧ p.groups[i]? = some h := by
  have hp : (s.setGroup n i h).memOp? n = some { o with groups := setAt o.groups i h } := memOp?_setGroup ho
  have hat : (setAt o.groups i h)[i]? = some h := by rw [getElem?_setAt, if_pos rfl, hi]; rfl
  exact ⟨settleOp_load hp hk ⟨h, List.mem_of_getElem? hat, hr⟩, _, hp, hat⟩

/-- A group of a load whose request has failed. -/
def OpGroup.failedLoad (g : OpGroup) : OpGroup :=
  { g with performed := true, failed := some ((g.lanes.head?.map (·.va)).getD 0), vals := g.lanes.map (fun l => (l.lane, 0)) }

/-- The state in which a failed request is gone and counted (R376). -/
def State.countFailed (s : State) (q : PodReq) : State :=
  (s.dropReq q.id).modPart q.part (fun p => { p with podFaults := wrap64 (p.podFaults + 1) })

/-- A failed request of a load marks its group. -/
theorem failReq_load {s : State} {q : PodReq} {o : MemOp} {line i : Nat} {g : OpGroup} {b : Bool} (hq : q.owner = .mem o.id line)
    (ho : s.memOp? o.id = some o) (hg : o.groupOfReq q.id = some (i, g)) (hr : g.returned = false) (hp : q.part < s.parts.length)
    (hk : o.kind = .load b) :
    (∀ x, x ∈ (s.failReq q).podReqs ↔ x ∈ s.podReqs ∧ x.id ≠ q.id) ∧ (s.failReq q).mem = s.mem ∧
      ((s.failReq q).part q.part).podFaults = wrap64 ((s.part q.part).podFaults + 1) ∧
      ∃ p, (s.failReq q).memOp? o.id = some p ∧ p.groups[i]? = some g.failedLoad := by
  have ho1 : (s.countFailed q).memOp? o.id = some o := ho
  obtain ⟨hsettle, hgroup⟩ := setGroup_settle_load (h := g.failedLoad) ho1 hk (getElem?_of_groupOfReq hg) hr
  have hfail : s.failReq q = (s.countFailed q).setGroup o.id i g.failedLoad := by
    rw [← hsettle]
    have ho2 : State.memOp? ((s.dropReq q.id).modPart q.part (fun p => { p with podFaults := wrap64 (p.podFaults + 1) })) o.id = some o := ho
    simp only [State.failReq, hq, ho2, hg, State.failGroup, hk]
    rfl
  rw [hfail]
  refine ⟨fun x => mem_dropReq, rfl, ?_, hgroup⟩
  have hpart := State.part_modPart (s.dropReq q.id) q.part q.part (fun p => { p with podFaults := wrap64 (p.podFaults + 1) })
  rw [if_pos ⟨rfl, hp⟩] at hpart
  exact congrArg Partition.podFaults hpart

theorem find?_held {s : State} {q : PodReq} (hf : s.podReqs.find? (fun x => x.id == q.id) = some q) (hh : q.held = none) :
    s.podReqs.find? (fun x => x.id == q.id && x.held.isNone) = some q := by
  obtain ⟨hid, as, bs, hl, hno⟩ := List.find?_eq_some_iff_append.1 hf
  refine List.find?_eq_some_iff_append.2 ⟨by simp [hh], as, bs, hl, fun a ha => ?_⟩
  have := hno a ha
  simp_all

/-- A failed request leaves the device-wide state, and all the other requests (R375, R376). -/
theorem failReq_keeps (s : State) (q : PodReq) :
    (s.failReq q).device = s.device ∧ (s.failReq q).podReqs = s.podReqs.filter (fun x => x.id != q.id) := by
  have hwave (t : State) (r : WaveRef) (f : Wave → Wave) : (t.modWave r f).device = t.device ∧ (t.modWave r f).podReqs = t.podReqs := by simp
  have hwaves {α : Type} (ws : List α) (r : α → WaveRef) (f : Wave → Wave) (t : State) :
      (ws.foldl (fun s w => s.modWave (r w) f) t).device = t.device ∧ (ws.foldl (fun s w => s.modWave (r w) f) t).podReqs = t.podReqs := by
    induction ws generalizing t with
    | nil => exact ⟨rfl, rfl⟩
    | cons w ws ih => exact ⟨(ih _).1.trans (hwave t _ _).1, (ih _).2.trans (hwave t _ _).2⟩
  have hsettle (t : State) (n : Nat) : (t.settleOp n).device = t.device ∧ (t.settleOp n).podReqs = t.podReqs :=
    ⟨(OpsEnded.settleOp t n).device, (OpsEnded.settleOp t n).podReqs⟩
  have hmark (t : State) (n : Nat) (a : Option Nat) : (t.markFailed n a).device = t.device ∧ (t.markFailed n a).podReqs = t.podReqs := by
    unfold State.markFailed
    split
    · exact ⟨rfl, rfl⟩
    · split <;> exact ⟨rfl, rfl⟩
  have hunit (t : State) (n : Nat) : (t.failUnit q n).device = t.device ∧ (t.failUnit q n).podReqs = t.podReqs := by
    unfold State.failUnit
    split
    · exact ⟨rfl, rfl⟩
    · extract_lets addr
      split
      · exact hmark t n _
      · split
        · exact ⟨rfl, rfl⟩
        · exact hwaves _ Prod.fst _ t
  have hgroup (t : State) (o : MemOp) (i : Nat) (g : OpGroup) :
      (t.failGroup o i g).device = t.device ∧ (t.failGroup o i g).podReqs = t.podReqs := by
    unfold State.failGroup
    extract_lets va
    split
    · exact ⟨rfl, rfl⟩
    · split
      · exact hsettle _ _
      · obtain ⟨hd, hp⟩ := hsettle ((t.modWave o.wave (fun w => { w with podError := w.podError.or (some va) })).setGroup o.id i
          { g with performed := true }) o.id
        exact ⟨hd.trans (hwave t _ _).1, hp.trans (hwave t _ _).2⟩
  unfold State.failReq
  extract_lets s1
  have hs1 {t : State} (h : t.device = s1.device ∧ t.podReqs = s1.podReqs) :
      t.device = s.device ∧ t.podReqs = s.podReqs.filter (fun x => x.id != q.id) := ⟨h.1, h.2⟩
  refine hs1 ?_
  split
  · exact hmark s1 _ _
  · exact hunit s1 _
  · exact ⟨rfl, rfl⟩
  · split
    · exact ⟨rfl, rfl⟩
    · split
      · exact hgroup s1 _ _ _
      · exact ⟨rfl, rfl⟩

/-- The requests of a port failed when it goes down (R375). -/
def State.failPort (s : State) (qs : List PodReq) : State := qs.foldl (fun s q => s.failReq q) s

theorem failPort_keeps (qs : List PodReq) (s : State) :
    (s.failPort qs).device = s.device ∧ ∀ x, x ∈ (s.failPort qs).podReqs ↔ x ∈ s.podReqs ∧ ∀ q ∈ qs, x.id ≠ q.id := by
  induction qs generalizing s with
  | nil => exact ⟨rfl, fun x => by simp [State.failPort]⟩
  | cons q qs ih =>
    obtain ⟨hd, hp⟩ := failReq_keeps s q
    obtain ⟨hdevice, hreqs⟩ := ih (s.failReq q)
    refine ⟨hdevice.trans hd, fun x => (hreqs x).trans ?_⟩
    simp [hp, and_assoc]

/-- An event logged leaves the requests to peers and the ports. -/
theorem logEvent_pods (s : State) (unit kind : Nat) (h : s.device.staging.length < 4096) :
    (s.logEvent unit kind none none).2.podReqs = s.podReqs ∧
      (s.logEvent unit kind none none).2.device.portsUp = s.device.portsUp ∧
      ∃ r ∈ (s.logEvent unit kind none none).2.device.staging, r.unit = unit ∧ r.kind = kind := by
  obtain ⟨boots, serial, hs⟩ := takeSerial_modDevice s
  have hports : s.takeSerial.2.device.portsUp = s.device.portsUp := (congrArg (fun t : State => t.device.portsUp) hs).trans rfl
  obtain ⟨-, -, -, hrec⟩ := logEvent_stages s unit kind h
  refine ⟨(congrArg State.podReqs hs).trans rfl, ?_, hrec⟩
  unfold State.logEvent
  dsimp only [State.modDevice]
  split <;> exact hports

end Sys2Proof.Machine
end
section
/-! SUPPORT. The host's snoop of a line that one slice alone holds (R241, R335). -/

namespace Sys2Proof.Machine

theorem flatMap_eq_of_only {α β : Type} {l : List α} {a : α} {f : α → List β} (hl : l.Nodup) (ha : a ∈ l)
    (h : ∀ b ∈ l, b ≠ a → f b = []) :
    l.flatMap f = f a := by
  induction l with
  | nil => simp at ha
  | cons b l ih =>
    obtain ⟨hb, hl⟩ := List.nodup_cons.1 hl
    rw [List.flatMap_cons]
    by_cases hab : b = a
    · subst hab
      have hrest : l.flatMap f = [] := List.flatMap_eq_nil_iff.2 fun c hc => h c (by simp [hc]) (by rintro rfl; exact hb hc)
      rw [hrest, List.append_nil]
    · rw [h b (by simp) hab, List.nil_append]
      exact ih hl ((List.mem_cons.1 ha).resolve_left (Ne.symm hab)) fun c hc => h c (by simp [hc])

/-- A host line held alone is held by that slice only. -/
theorem HeldAlone.hostTags {s : State} {part line i : Nat} {t : Tag} (h : HeldAlone s part line i t) (hl : isHost (128 * line) = true)
    (hp : part < 16) : s.hostTags line = [(i, t)] := by
  have hothers := h.others
  simp only [State.hostTags, State.otherTags, hl, Bool.not_true, Bool.false_eq_true, if_false] at hothers ⊢
  refine (flatMap_eq_of_only (a := part) ?_ ?_ ?_).trans ?_
  · exact (rangeFrom_nodup 0 16).filter _
  · simp only [List.mem_filter, mem_upTo, hp, true_and, bne_iff_ne]
    omega
  · intro q hq hne
    have hmem : q ∈ (upTo 16).filter (· != part) := by
      rw [List.mem_filter] at hq ⊢
      exact ⟨hq.1, by simpa using hne⟩
    exact List.flatMap_eq_nil_iff.1 hothers q hmem
  · simp [h.home, h.tag]

/-- A run of bytes written reads back. -/
theorem readRun_writeRun {m : List Host.Cell} (hm : Memory.wf m = true) (a : Nat) (bs : List Byte) :
    Memory.readRun (Memory.writeRun m a bs) a bs.length = bs := by
  have hrun : ∀ (n a : Nat) (l : Cells Byte) (i : Nat),
      (cellRun memDefault l a n)[i]? = if i < n then some (cellGet memDefault l (a + i)) else none := by
    intro n
    induction n with
    | zero => simp [cellRun]
    | succ n ih =>
      intro a l i
      cases i with
      | zero => simp [cellRun]
      | succ i => simp [cellRun, ih, Nat.add_assoc, Nat.add_comm 1 i]
  apply List.ext_getElem?
  intro i
  rw [Memory.readRun, Memory.writeRun, hrun, cellGet_cellPut memDefault m a _ bs hm]
  by_cases hi : i < bs.length
  · simp [hi]
  · simp [hi]

section Unwatched

variable {s : State} {line : Nat} (h : ∀ e ∈ s.entries, e.addr / 128 ≠ line)
include h

theorem fireOverdue_unwatched (q : Nat) : s.fireOverdue q line = s := by
  unfold State.fireOverdue
  dsimp only
  rw [List.filter_eq_nil_iff.2 fun e he => by simp [h e he]]
  rfl

theorem fireLine_unwatched : s.fireLine line = s := by
  rw [State.fireLine]
  induction upTo 16 with
  | nil => rfl
  | cons q qs ih => rw [List.foldl_cons, fireOverdue_unwatched h, ih]

theorem rereads_unwatched (qs : List Nat) : qs.foldl (fun s q => s.reread q line) s = s := by
  induction qs with
  | nil => rfl
  | cons q qs ih =>
    have hw : s.watched q line = false := List.any_eq_false.2 fun e he => by simp [h e he]
    rw [List.foldl_cons, State.reread, hw, if_neg (by decide), ih]

end Unwatched

theorem activate_keeps (s : State) (line : Nat) :
    (s.activate line).entries = s.entries ∧ (s.activate line).outputs = s.outputs ∧ (s.activate line).slices = s.slices ∧
      (s.activate line).mem = s.mem := by
  unfold State.activate
  split <;> exact ⟨rfl, rfl, rfl, rfl⟩

theorem writeBack_keeps (s : State) (line : Nat) (bytes side : List Byte) (poison : Bool) :
    (s.writeBack line bytes side poison).entries = s.entries ∧ (s.writeBack line bytes side poison).outputs = s.outputs ∧
      (s.writeBack line bytes side poison).slices = s.slices ∧
      (s.writeBack line bytes side poison).mem = Memory.writeRun s.mem (128 * line) bytes := by
  obtain ⟨hentries, houtputs, hslices, hmem⟩ := activate_keeps s line
  exact ⟨hentries, houtputs, hslices, congrArg (Memory.writeRun · (128 * line) bytes) hmem⟩

/-- The state in which the dirty content of a tag has gone to memory. -/
def State.flushTag (s : State) (i : Nat) (t : Tag) : State :=
  if t.dirty then s.writeBack t.line ((s.slice i).content t).1 ((s.slice i).content t).2 t.poison else s

theorem flushTag_keeps (s : State) (i : Nat) (t : Tag) :
    (s.flushTag i t).entries = s.entries ∧ (s.flushTag i t).outputs = s.outputs ∧ (s.flushTag i t).slices = s.slices ∧
      (s.flushTag i t).mem = if t.dirty then Memory.writeRun s.mem (128 * t.line) ((s.slice i).content t).1 else s.mem := by
  unfold State.flushTag
  split
  · exact writeBack_keeps ..
  · exact ⟨rfl, rfl, rfl, rfl⟩

theorem tags_releasePlate (sl : Slice) (p : Option Nat) : (sl.releasePlate p).tags = sl.tags := by
  unfold Slice.releasePlate
  split
  · rfl
  · dsimp only
    split <;> rfl

/-- A tag dropped: the line's home tag is gone, and a dirty content has gone to memory. -/
theorem dropTag_home {s : State} {i line : Nat} {t : Tag} (ht : (s.slice i).homeTag line = some t) :
    ((s.dropTag i t).slice i).homeTag line = none ∧ (s.dropTag i t).entries = s.entries ∧ (s.dropTag i t).outputs = s.outputs ∧
      (s.dropTag i t).mem = (s.flushTag i t).mem := by
  obtain ⟨hline, hstate⟩ := Slice.of_homeTag ht
  obtain ⟨hentries, houtputs, hslices, hmem⟩ := flushTag_keeps s i t
  have hhome : (t.state != TagState.replica) = true := by simpa using hstate
  have hdrop : s.dropTag i t = (s.flushTag i t).modSlice i (fun sl =>
      let sl1 := { sl with tags := sl.tags.filter (fun x => !(x.line == t.line && (x.state == TagState.replica) == !true)) }
      let sl2 := sl1.releasePlate t.plate
      { sl2 with floor := if true && decide (s.leaseNow (dieOfSlice i) < t.lease) then max sl2.floor t.lease else sl2.floor }) := by
    simp only [State.dropTag, State.flushTag, hhome, Bool.true_and]
  rw [hdrop]
  refine ⟨?_, hentries, houtputs, rfl⟩
  have hi : i < (s.flushTag i t).slices.length := hslices ▸ lt_of_homeTag ht
  rw [State.slice_modSlice, if_pos ⟨rfl, hi⟩, Slice.homeTag]
  dsimp only
  rw [tags_releasePlate, List.find?_eq_none]
  intro x hx
  obtain ⟨-, hx⟩ := List.mem_filter.1 hx
  intro hc
  obtain ⟨hxl, hxs⟩ : x.line = line ∧ x.state ≠ TagState.replica := by simpa using hc
  simp [hline, hxl, hxs] at hx

/-- A tag cleaned: it stays, clean, and a dirty content has gone to memory. -/
theorem cleanTag_home {s : State} {i line : Nat} {t : Tag} (ht : (s.slice i).homeTag line = some t) :
    ((s.cleanTag i t).slice i).homeTag line = some { t with dirty := false } ∧ (s.cleanTag i t).outputs = s.outputs ∧
      (s.cleanTag i t).mem = (s.flushTag i t).mem := by
  obtain ⟨hline, hstate⟩ := Slice.of_homeTag ht
  obtain ⟨hentries, houtputs, hslices, hmem⟩ := flushTag_keeps s i t
  refine ⟨?_, houtputs, rfl⟩
  have hclean : s.cleanTag i t = (s.flushTag i t).modSlice i (fun k => { k with tags := k.tags.map (fun x =>
    if x.line == t.line && x.state != TagState.replica then { x with dirty := false } else x) }) := rfl
  have hslice : (s.flushTag i t).slice i = s.slice i := by rw [State.slice, hslices]; rfl
  have hi : i < (s.flushTag i t).slices.length := hslices ▸ lt_of_homeTag ht
  rw [hclean, State.slice_modSlice, if_pos ⟨rfl, hi⟩, hslice, Slice.homeTag]
  rw [List.find?_map, List.find?_congr (p₂ := fun x : Tag => x.line == line && x.state != TagState.replica)
    (fun x _ => by simp only [Function.comp]; split <;> rfl)]
  have hfound : (s.slice i).tags.find? (fun x => x.line == line && x.state != TagState.replica) = some t := ht
  rw [hfound, Option.map_some, if_pos (by simp [hstate])]

section Snooped

variable {s : State} {part line i : Nat} {t : Tag} (h : HeldAlone s part line i t) (hl : isHost (128 * line) = true) (hp : part < 16)
include h

/-- What the line's home holds has gone to memory, where it was dirty. -/
theorem flushTag_mem (hm : Memory.wf s.mem = true) :
    (t.dirty = true → Memory.readRun (s.flushTag i t).mem (128 * line) 128 = (s.homeLine part line).1) ∧
      (t.dirty = false → (s.flushTag i t).mem = s.mem) := by
  obtain ⟨-, -, -, hmem⟩ := flushTag_keeps s i t
  have hcontent : (s.homeLine part line).1 = ((s.slice i).content t).1 := by rw [State.homeLine_of_homeTag h.home h.tag]
  refine ⟨fun hd => ?_, fun hd => by rw [hmem, hd]; rfl⟩
  rw [hmem, hd, if_pos rfl, (Slice.of_homeTag h.tag).1, ← hcontent]
  have hsize := h.size
  have hrun := readRun_writeRun hm (128 * line) (s.homeLine part line).1
  rwa [hsize] at hrun

include hl hp

theorem answerSnoop_heldAlone :
    s.answerSnoop line = .snoopAnswer line (if t.dirty then some (s.homeLine part line).1 else none) := by
  rw [State.answerSnoop, h.hostTags hl hp, State.homeLine_of_homeTag h.home h.tag]
  cases hd : t.dirty <;> simp [hd]

/-- A snoop that takes the line: its one tag is dropped, the answer sent, and the host's bytes written. -/
theorem surrender_heldAlone (hu : ∀ e ∈ s.entries, e.addr / 128 ≠ line) (bytes : List (Nat × Byte)) :
    s.surrender line bytes = ((s.dropTag i t).emit (s.answerSnoop line)).hostBytes line bytes := by
  unfold State.surrender
  rw [h.hostTags hl hp]
  refine rereads_unwatched ?_ _
  obtain ⟨-, hentries, -, -⟩ := dropTag_home h.tag
  intro e he
  exact hu e (hentries ▸ he)

/-- A downgrading snoop: its one tag is cleaned, and the answer sent. -/
theorem downgrade_heldAlone : s.downgrade line = (s.cleanTag i t).emit (s.answerSnoop line) := by
  rw [State.downgrade, h.hostTags hl hp]
  rfl

end Snooped

end Sys2Proof.Machine
end
section
/-! SUPPORT. The other clauses about peers and the host. -/

namespace Sys2Proof.Proofs
open Sys2Proof.Machine

/-- A peer's request that no bank and no bucket keeps takes its tokens at once. -/
theorem podTokens_free {s : State} {device target offset : Nat} {ask : PodAsk}
    (hport : s.throttled (.port (s.podPort device (((s.part target).expBase + offset) / 128)) target) = false)
    (hk : ∀ k ∈ runLines ((s.part target).expBase + offset) (podLen ask), s.bankHolds target k = false ∧
      ∀ p ∈ s.hostPoints target k, s.throttled p = false) :
    (if (runLines ((s.part target).expBase + offset) (podLen ask)).any (s.bankHolds target) then none
      else s.peerTokens device target ((s.part target).expBase + offset) (podLen ask)) = some s := by
  rw [if_neg, peerTokens_free hport fun k hm => (hk k hm).2]
  rw [Bool.not_eq_true, List.any_eq_false]
  exact fun k hm => by simp [(hk k hm).1]

theorem length_pos_of_admitsPeer {s : State} {device sender target offset : Nat} {ask : PodAsk}
    (ha : s.admitsPeer device sender target offset ask = true) : 1 ≤ podLen ask := by
  simp only [State.admitsPeer, Bool.and_eq_true, decide_eq_true_eq] at ha
  omega

/-- An answer to a load's request gives its group the values. -/
theorem podResponse_load {s : State} {q : PodReq} {o : MemOp} {line i : Nat} {g : OpGroup} {b : Bool}
    (hf : s.podReqs.find? (fun x => x.id == q.id) = some q) (hh : q.held = none) (hq : q.owner = .mem o.id line)
    (ho : s.memOp? o.id = some o) (hg : o.groupOfReq q.id = some (i, g)) (hr : g.returned = false) (hk : o.kind = .load b)
    (bytes : List Byte) (poison : Bool) : ∃ u : State, exec (.podResponse q.id (.data bytes poison)) s = .next u ∧
      (∀ x, x ∈ u.podReqs ↔ x ∈ s.podReqs ∧ x.id ≠ q.id) ∧ u.mem = s.mem ∧
      ∃ p, u.memOp? o.id = some p ∧ p.groups[i]? = some { g with
        performed := true, poison := poison, vals := g.lanes.map (fun l =>
          let n := ofBytesLE ((bytes.drop (l.pa - g.span.1)).take l.size)
          (l.lane, if b then natOfInt (signExt n (8 * l.size)) 32 else n)) } := by
  let f (p : MemOp) : MemOp := match p.kind with
    | .atomic _ _ _ => { p with completion := max p.completion (s.leaseNow (dieOfCore o.core)) }
    | _ => p
  have hfid (p : MemOp) : (f p).id = p.id := by simp only [f]; split <;> rfl
  have hfo : f o = o := by simp only [f, hk]
  have ho1 : ((s.dropReq q.id).modMemOp o.id f).memOp? o.id = some o :=
    (memOp?_modMemOp_self (s := s.dropReq q.id) ho hfid).trans (congrArg some hfo)
  let v (l : OpLane) : Nat × Nat :=
    let n := ofBytesLE ((bytes.drop (l.pa - g.span.1)).take l.size)
    (l.lane, if b then natOfInt (signExt n (8 * l.size)) 32 else n)
  obtain ⟨hsettle, hgroup⟩ := setGroup_settle_load (h := { g with performed := true, poison := poison, vals := g.lanes.map v })
    ho1 hk (getElem?_of_groupOfReq hg) hr
  have hanswer : ((s.dropReq q.id).modMemOp o.id f).answerGroup o i g bytes poison =
      ((s.dropReq q.id).modMemOp o.id f).setGroup o.id i { g with performed := true, poison := poison, vals := g.lanes.map v } := by
    rw [← hsettle]
    simp only [State.answerGroup, MemKind.isAppend, MemKind.signed, hk]
    rfl
  refine ⟨((s.dropReq q.id).modMemOp o.id f).setGroup o.id i { g with performed := true, poison := poison, vals := g.lanes.map v },
    congrArg Host.Outcome.next ?_, fun x => mem_dropReq (id := q.id), rfl, hgroup⟩
  simp only [find?_held hf hh, hq, ho, hg]
  split
  · next hnone => exact nomatch hnone.symm.trans ho1
  · next p hp =>
    obtain rfl := Option.some.inj (hp.symm.trans ho1)
    exact hanswer

/-- An acknowledgement of a store's request performs its group. -/
theorem podResponse_store {s : State} {q : PodReq} {o : MemOp} {line i : Nat} {g : OpGroup}
    (hf : s.podReqs.find? (fun x => x.id == q.id) = some q) (hh : q.held = none) (hq : q.owner = .mem o.id line)
    (ho : s.memOp? o.id = some o) (hg : o.groupOfReq q.id = some (i, g)) (hk : o.kind = .store) :
    ∃ u : State, exec (.podResponse q.id .ack) s = .next u ∧ (∀ x, x ∈ u.podReqs ↔ x ∈ s.podReqs ∧ x.id ≠ q.id) ∧ u.mem = s.mem ∧
      ∀ p, u.memOp? o.id = some p → p.groups[i]? = some { g with performed := true } ∧ s.leaseNow (dieOfCore o.core) ≤ p.completion := by
  let t := (((s.dropReq q.id).setGroup o.id i { g with performed := true }).modMemOp o.id (fun p =>
    { p with completion := max p.completion (s.leaseNow (dieOfCore o.core)) }))
  have hexec : exec (.podResponse q.id .ack) s = .next (t.settleOp o.id) := by
    refine congrArg Host.Outcome.next ?_
    simp only [find?_held hf hh, hq, ho, hg, hk, MemKind.returns, MemKind.isAppend]
    rfl
  have h := OpsEnded.settleOp t o.id
  have ht : t.memOp? o.id = some _ := memOp?_modMemOp_self (memOp?_setGroup (s := s.dropReq q.id) ho) (fun _ => rfl)
  refine ⟨_, hexec, fun x => ?_, h.mem, fun p hp => ?_⟩
  · rw [h.podReqs]
    exact mem_dropReq
  · obtain ⟨o', ho', hgroups, hcompletion⟩ := h.ops _ p hp
    obtain rfl := Option.some.inj (ht.symm.trans ho')
    refine ⟨?_, ?_⟩
    · rw [hgroups, getElem?_setAt, if_pos rfl, getElem?_of_groupOfReq hg]
      rfl
    · rw [hcompletion]
      exact Nat.le_max_right _ _

/-- A port going down fails its requests, and is logged and reported. -/
theorem portDown_fails {s : State} {port : Nat} (hup : s.device.portsUp.testBit port = true) (hs : s.device.staging.length < 4096) :
    ∃ u : State, exec (.ualinkPortDown port) s = .next u ∧ u.device.portsUp.testBit port = false ∧ (∀ q ∈ u.podReqs, q.port ≠ port) ∧
      ∃ r ∈ u.device.staging, r.unit = 232 + port ∧ r.kind = 11 := by
  let s1 := s.modDevice (fun d => { d with portsUp := setBit d.portsUp port false })
  let s2 := s1.failPort (s1.podReqs.filter (fun q => q.port == port))
  let r := s2.logEvent (232 + port) 11 none none
  obtain ⟨hdevice, hreqs⟩ := failPort_keeps (s1.podReqs.filter (fun q => q.port == port)) s1
  have hstaging : s2.device.staging.length < 4096 := (congrArg (fun d : Device => d.staging.length) hdevice).trans_lt hs
  obtain ⟨hpods, hports, hrec⟩ := logEvent_pods s2 (232 + port) 11 hstaging
  have hcare : r.2.SameCare (r.2.errorToAll ((upTo 16).filter (fun p => (r.2.part p).podEnable)) r.1 0x0014 port) :=
    (State.SameCare.refl _).errorToAll
  obtain ⟨banks, hbanks⟩ := hcare.device
  refine ⟨_, congrArg Host.Outcome.next (if_neg (by simp [hup])), ?_, ?_, ?_⟩
  · refine (congrArg (fun d : Device => d.portsUp.testBit port) hbanks).trans ?_
    refine (congrArg (Nat.testBit · port) (hports.trans (congrArg Device.portsUp hdevice))).trans ?_
    exact (testBit_setBit s.device.portsUp port port false).trans (if_pos rfl)
  · intro q hq hport
    have hq2 : q ∈ s2.podReqs := (hcare.podReqs.trans hpods) ▸ hq
    obtain ⟨hmem, hne⟩ := (hreqs q).1 hq2
    exact hne q (List.mem_filter.2 ⟨hmem, by simp [hport]⟩) rfl
  · obtain ⟨x, hx, hunit, hkind⟩ := hrec
    refine ⟨x, ?_, hunit, hkind⟩
    exact (congrArg Device.staging hbanks) ▸ hx

end Sys2Proof.Proofs
end
section
/-! SUPPORT. Host accesses and snoops as their clauses say (R241, R335, R427). -/

namespace Sys2Proof.Proofs
open Sys2Proof.Machine

/-- A host read of an address that no group backs reads all ones, poisoned. -/
theorem cxlMemRead_unbacked {s : State} {addr len : Nat} (ho : oneLine addr len = true) (hp : s.device.unpowered = false)
    (hl : s.device.locked = false) (hb : (isBacked addr && isBacked (addr + len - 1)) = false) :
    ∃ u : State, exec (.cxlMemRead addr len) s = .next u ∧ u.mem = s.mem ∧
      u.outputs = s.outputs ++ [.hostData addr (List.replicate len 0xFF) true] := by
  have hb' : (!isBacked addr || !isBacked (addr + len - 1)) = true := by rw [← Bool.not_and, hb]; rfl
  obtain ⟨boots, serial, hs⟩ := takeSerial_modDevice s
  refine ⟨_, congrArg Host.Outcome.next ((if_neg (by simp [ho, hp])).trans ((if_neg (by simp [hl])).trans (if_pos hb'))), ?_, ?_⟩
  · exact (congrArg State.mem hs).trans rfl
  · exact congrArg (· ++ [Output.hostData addr (List.replicate len 0xFF) true]) ((congrArg State.outputs hs).trans rfl)

/-- A host access of a line that nothing keeps takes its tokens at once. -/
theorem hostTokens_free {s : State} {p line : Nat} (n : Nat)
    (h : (∀ q ∈ s.hostPoints p line, s.throttled q = false) ∧ s.bankHolds p line = false) :
    (if s.bankHolds p line then none else s.takeAll n (s.hostPoints p line)) = some s := by
  rw [h.2, if_neg (by decide), takeAll_free h.1]

theorem cxlMemRead_backed {s : State} {addr len : Nat} (ho : oneLine addr len = true) (hp : s.device.unpowered = false)
    (hl : s.device.locked = false) (hb : (isBacked addr && isBacked (addr + len - 1)) = true)
    (hfree : (∀ q ∈ s.hostPoints (s.hostPart addr) (addr / 128), s.throttled q = false) ∧ s.bankHolds (s.hostPart addr) (addr / 128) = false) :
    exec (.cxlMemRead addr len) s = .next ((s.touchMemory (s.hostPart addr) (addr / 128)).emit
      (.hostData addr (s.readRun (s.hostPart addr) addr len) (s.runPoisoned (s.hostPart addr) addr len))) := by
  have hb' : ¬ (!isBacked addr || !isBacked (addr + len - 1)) = true := by rw [← Bool.not_and, hb]; decide
  refine congrArg Host.Outcome.next ((if_neg (by simp [ho, hp])).trans ((if_neg (by simp [hl])).trans ((if_neg hb').trans ?_)))
  dsimp only
  rw [hostTokens_free len hfree]

theorem cxlMemWrite_heldAlone {s : State} {addr j : Nat} {t : Tag} {bytes : List Byte} (ho : oneLine addr bytes.length = true)
    (hp : s.device.unpowered = false) (hl : s.device.locked = false) (hb : (isBacked addr && isBacked (addr + bytes.length - 1)) = true)
    (hfree : (∀ q ∈ s.hostPoints (s.hostPart addr) (addr / 128), s.throttled q = false) ∧ s.bankHolds (s.hostPart addr) (addr / 128) = false)
    (hlen : bytes.length < 128) (h : HeldAlone s (s.hostPart addr) (addr / 128) j t) :
    ∃ (u : State) (x : PendingWrite), exec (.cxlMemWrite addr bytes) s = .next u ∧ u.mem = s.mem ∧
      (u.homeLine (s.hostPart addr) (addr / 128)).1 =
        writeOffsets (s.homeLine (s.hostPart addr) (addr / 128)).1 (mapIdx' (fun i b => (addr % 128 + i, b)) bytes) ∧
      u.pendingWrites = s.pendingWrites ++ [x] ∧ x.peer = none ∧ x.die = s.homeDie (s.hostPart addr) (addr / 128) ∧
      x.completion = max (s.leaseNow (s.homeDie (s.hostPart addr) (addr / 128))) t.lease + 2 := by
  have hb' : ¬ (!isBacked addr || !isBacked (addr + bytes.length - 1)) = true := by rw [← Bool.not_and, hb]; decide
  obtain ⟨hone, hline⟩ : 1 ≤ bytes.length ∧ addr / 128 = (addr + bytes.length - 1) / 128 := by simpa [oneLine] using ho
  obtain ⟨y, hmem, hbytes, hpend, hpeer, -, hdie, hc⟩ := writeOutside_heldAlone h (by omega) (List.ne_nil_of_length_pos hone) hlen none
  refine ⟨_, y, congrArg Host.Outcome.next ((if_neg (by simp [ho, hp, hl])).trans ((if_neg hb').trans ?_)), hmem, hbytes, hpend, hpeer, hdie, hc⟩
  dsimp only
  rw [hostTokens_free bytes.length hfree]

theorem snoopWaits_iff (s : State) (line : Nat) : s.snoopWaits line = true ↔
    ∃ q < 16, ∃ i, s.homeOf q line = some i ∧ s.leaseNow (dieOfSlice i) ≤ s.leaseField q line + 2 := by
  simp only [State.snoopWaits, List.any_eq_true, mem_upTo]
  refine exists_congr fun q => and_congr_right fun _ => ?_
  cases s.homeOf q line <;> simp

section Snoops

variable {s : State} {part line : Nat} {kind : Snoop} {bytes : List (Nat × Byte)} (hl : isHost (128 * line) = true) (hp : part < 16)
  (hu : s.device.unpowered = false)
include hl hp hu

theorem hostSnoop_downgrade (hk : kind = .downgrade) :
    exec (.hostSnoop part line kind bytes) s = .next ((s.fireLine line).downgrade line) := by
  subst hk
  exact congrArg Host.Outcome.next (if_neg (by simp [hl, hu, Nat.not_le.2 hp]))

theorem hostSnoop_take (hk : kind ≠ .downgrade) : exec (.hostSnoop part line kind bytes) s =
    .next (if s.snoopWaits line then s else (s.fireLine line).surrender line bytes) := by
  refine congrArg Host.Outcome.next ((if_neg (by simp [hl, hu, Nat.not_le.2 hp])).trans ?_)
  cases kind with
  | downgrade => exact absurd rfl hk
  | invalidate => rfl
  | take => rfl

/-- A snoop of a line that no slice holds. -/
theorem hostSnoop_unheld (hk : kind ≠ .downgrade) (hw : s.snoopWaits line = false) (hn : ∀ e ∈ s.entries, e.addr / 128 ≠ line)
    (ht : s.hostTags line = []) : exec (.hostSnoop part line kind bytes) s = .next ((s.emit (.snoopAnswer line none)).hostBytes line bytes) := by
  rw [hostSnoop_take hl hp hu hk, hw, if_neg (by decide), fireLine_unwatched hn, State.surrender, ht]
  refine congrArg Host.Outcome.next ?_
  have hanswer : s.answerSnoop line = .snoopAnswer line none := by
    rw [State.answerSnoop, ht]
    rfl
  rw [hanswer]
  exact rereads_unwatched (s := (s.emit (.snoopAnswer line none)).hostBytes line bytes) hn _

/-- A snoop that takes a line from the slice that holds it. -/
theorem hostSnoop_takes {i : Nat} {t : Tag} (hk : kind ≠ .downgrade) (hw : s.snoopWaits line = false)
    (hn : ∀ e ∈ s.entries, e.addr / 128 ≠ line) (h : HeldAlone s part line i t) (hm : Memory.wf s.mem = true) :
    ∃ u : State, exec (.hostSnoop part line kind bytes) s = .next u ∧ (u.slice i).homeTag line = none ∧
      u.outputs = s.outputs ++ [.snoopAnswer line (if t.dirty then some (s.homeLine part line).1 else none)] ∧
      (bytes = [] → t.dirty = true → Memory.readRun u.mem (128 * line) 128 = (s.homeLine part line).1) ∧
      (bytes = [] → t.dirty = false → u.mem = s.mem) := by
  obtain ⟨hhome, -, houtputs, hmem⟩ := dropTag_home h.tag
  obtain ⟨hdirty, hclean⟩ := flushTag_mem h hm
  rw [hostSnoop_take hl hp hu hk, hw, if_neg (by decide), fireLine_unwatched hn, surrender_heldAlone h hl hp hn,
    answerSnoop_heldAlone h hl hp]
  refine ⟨_, rfl, hhome, congrArg (· ++ [_]) houtputs, fun hb hd => ?_, fun hb hd => ?_⟩
  · subst hb
    exact (congrArg (Memory.readRun · (128 * line) 128) hmem).trans (hdirty hd)
  · subst hb
    exact hmem.trans (hclean hd)

/-- A downgrading snoop of a line that one slice holds. -/
theorem hostSnoop_downgrades {i : Nat} {t : Tag} (hk : kind = .downgrade) (hn : ∀ e ∈ s.entries, e.addr / 128 ≠ line)
    (h : HeldAlone s part line i t) (hm : Memory.wf s.mem = true) :
    ∃ u : State, exec (.hostSnoop part line kind bytes) s = .next u ∧ (u.slice i).homeTag line = some { t with dirty := false } ∧
      u.outputs = s.outputs ++ [.snoopAnswer line (if t.dirty then some (s.homeLine part line).1 else none)] ∧
      (t.dirty = true → Memory.readRun u.mem (128 * line) 128 = (s.homeLine part line).1) := by
  obtain ⟨hhome, houtputs, hmem⟩ := cleanTag_home h.tag
  obtain ⟨hdirty, -⟩ := flushTag_mem h hm
  rw [hostSnoop_downgrade hl hp hu hk, fireLine_unwatched hn, downgrade_heldAlone h hl hp, answerSnoop_heldAlone h hl hp]
  exact ⟨_, rfl, hhome, congrArg (· ++ [_]) houtputs, fun hd => (congrArg (Memory.readRun · (128 * line) 128) hmem).trans (hdirty hd)⟩

end Snoops

end Sys2Proof.Proofs
end

section
namespace Sys2Proof.Proofs
open Sys2Proof.Machine

/-- Settles O58: each clause by what its post, answer, access or snoop leaves; a write reaches a line held alone by `writeOutside_heldAlone`. -/
theorem postsPodAndHost : Obligations.PostsPodAndHost := by
  unfold Obligations.PostsPodAndHost
  refine ⟨?_, ?_, ?_, ?_, ?_, ?_, ?_⟩
  · intro s part hw hp
    dsimp only
    refine ⟨fun he ins hins => ?_, fun o i w b l he hwave hb hl => ⟨?_, ?_, fun hk ha hr => killLaunch_posted hw hp he hb hl hk ha hr⟩,
      fun h => ?_, fun hb hl hn => replayRange_resumes hw hp hb hl hn⟩
    · simp only [List.mem_cons, List.not_mem_nil, or_false] at hins
      rcases hins with rfl | rfl | rfl <;> exact congrArg Host.Outcome.next (post_none hw he _)
    · obtain ⟨hstatus, hmem, z, hz, hlanes⟩ := laneChanged_posted hp hwave
        (fun x => { x.activate with vpc := i.vpc, slot := i.slot, trap := none })
      exact ⟨_, z, congrArg Host.Outcome.next (post_some hw he _), hstatus, hmem, hz, hlanes⟩
    · obtain ⟨hstatus, hmem, z, hz, hlanes⟩ := laneChanged_posted hp hwave (fun x => { x with state := .exited, trap := none })
      exact ⟨_, z, congrArg Host.Outcome.next (post_some hw he _), hstatus, hmem, hz, hlanes⟩
    · refine congrArg Host.Outcome.next ((if_neg (by simp [hw])).trans (if_pos ?_))
      simpa only [Bool.or_eq_true, decide_eq_true_eq] using h
  · intro s device sender target offset ask
    refine ⟨fun ha => congrArg Host.Outcome.next (if_pos (by simp [ha])), fun ha => ?_, fun ha hany => ?_⟩
    · intro pa line hport hk
      have hfree := podTokens_free hport hk
      refine ⟨fun n hn => ?_, fun bs j t hn hin hlen h => ?_⟩
      · subst hn
        refine congrArg Host.Outcome.next ((if_neg (by simp [ha])).trans ?_)
        dsimp only
        rw [hfree]
      · subst hn
        have hpos : 1 ≤ bs.length := length_pos_of_admitsPeer ha
        obtain ⟨y, hmem, hbytes, hpend, hpeer, hreply, hdie, hc⟩ :=
          writeOutside_heldAlone h hin (List.ne_nil_of_length_pos hpos) hlen (some device)
        refine ⟨_, y, congrArg Host.Outcome.next ((if_neg (by simp [ha])).trans ?_), hmem, hbytes, hpend, hpeer, hreply, hdie, hc⟩
        dsimp only
        rw [hfree]
    · refine congrArg Host.Outcome.next ((if_neg (by simp [ha])).trans ?_)
      dsimp only
      rw [if_pos hany]
  · intro s id answer h
    refine ⟨congrArg Host.Outcome.next ?_, congrArg Host.Outcome.next ?_⟩
    · rw [List.find?_eq_none.2]
      intro q hq hc
      obtain ⟨hid, hheld⟩ : q.id = id ∧ q.held = none := by simpa using hc
      exact h q hq hid hheld
    · split
      · rfl
      · next q hq =>
        refine if_neg ?_
        have hheld := h q (List.mem_of_find?_eq_some hq) (by simpa using List.find?_some hq)
        simp [hheld]
  · intro s q o line i g hf hh hq ho hg hr hp
    refine ⟨fun b bytes poison hk => podResponse_load hf hh hq ho hg hr hk bytes poison, fun hk => podResponse_store hf hh hq ho hg hk,
      fun b hk _ => ?_⟩
    obtain ⟨hgone, hmem, hfaults, hgroup⟩ := failReq_load hq ho hg hr hp hk
    refine ⟨⟨_, congrArg Host.Outcome.next ?_, hgone, hmem, hfaults, hgroup⟩, fun ht => congrArg Host.Outcome.next ?_,
      fun ht => ⟨_, congrArg Host.Outcome.next ?_, hgone, hmem, hfaults, hgroup⟩⟩
    · simp only [find?_held hf hh]
    · simp only [hf]
      exact if_neg (by simp [Nat.not_le.2 ht])
    · simp only [hf]
      exact if_pos (by simp [hh, ht])
  · intro s port id hp
    refine ⟨fun h => congrArg Host.Outcome.next (if_neg ?_), fun h => congrArg Host.Outcome.next (if_pos ?_), portDown_fails,
      fun h => congrArg Host.Outcome.next (if_neg ?_)⟩
    · simp [hp, Nat.not_le.2 h]
    · simp [h]
    · simp [hp, Nat.not_le.2 h]
  · intro s addr len bytes hp
    refine ⟨fun ho => ⟨fun hl => congrArg Host.Outcome.next ((if_neg (by simp [ho, hp])).trans (if_pos hl)),
      fun hl hb => cxlMemRead_unbacked ho hp hl hb, fun hl hb hfree => cxlMemRead_backed ho hp hl hb hfree⟩,
      fun ho => ⟨fun hl => congrArg Host.Outcome.next (if_pos (by simp [hl])),
        fun j t hl hb hfree hlen h => cxlMemWrite_heldAlone ho hp hl hb hfree hlen h⟩⟩
  · intro s part line kind bytes hl hp hu
    refine ⟨fun hk => ⟨fun hw => ?_, fun hw hn ht => ?_, fun i t hw hn h hm => ?_⟩,
      fun i t hk hn h hm => hostSnoop_downgrades hl hp hu hk hn h hm⟩
    · rw [hostSnoop_take hl hp hu hk, if_pos ((snoopWaits_iff s line).2 hw)]
    · exact hostSnoop_unheld hl hp hu hk (Bool.eq_false_iff.2 fun hs => hw ((snoopWaits_iff s line).1 hs)) hn ht
    · exact hostSnoop_takes hl hp hu hk (Bool.eq_false_iff.2 fun hs => hw ((snoopWaits_iff s line).1 hs)) hn h hm

end Sys2Proof.Proofs
end

section
/-! SUPPORT. A state of the model whose list of page-table roots is longer than the registers of Table 9.4. -/

namespace Sys2Proof.Machine

/-- Partition 0 with seventeen page-table roots in its virtual function. The last stands where SD_BASE does. -/
def seventeenRoots : Partition := { Partition.reset with vf := { VF.reset with aspRoot := List.replicate 17 0 } }

/-- The device at reset but for those roots. -/
def seventeenRootsState : State := { State.reset with parts := seventeenRoots :: List.replicate 15 .reset }

theorem seventeenRootsState_vfWritable : seventeenRootsState.vfWritable 0 = true := by decide

/-- The state after 1 has been written to SD_BASE. -/
def seventeenRootsWritten : State := seventeenRootsState.modVF 0 (fun v => { v with sdBase := fieldOf 1 63 0 })

theorem seventeenRootsState_write :
    exec (.registerWrite .host (.vf0 0) 0x0900 1) seventeenRootsState = .next seventeenRootsWritten :=
  congrArg Host.Outcome.next (if_pos seventeenRootsState_vfWritable)

/-- SD_BASE does not read what was written: the seventeenth root stands at its offset. -/
theorem seventeenRootsWritten_reads : seventeenRootsWritten.readReg (.vf0 0) 0x0900 = 0 := by decide

end Sys2Proof.Machine

namespace Sys2Proof.Proofs
open Sys2Proof.Machine

/-- Refutes O57: a write of SD_BASE does not read back in every state. The statement does not ask that a virtual function has sixteen page-table
roots, and with seventeen the last of them reads at the offset of SD_BASE. -/
theorem not_partitionControl : ¬ Obligations.PartitionControl := by
  unfold Obligations.PartitionControl
  intro h
  obtain ⟨-, -, -, -, -, -, -, -, -, -, -, -, hwrite, -, -⟩ := h seventeenRootsState .host 0 1 (by decide) (by decide)
  obtain ⟨u, hu, hread, -⟩ := hwrite seventeenRootsState_vfWritable rfl (0x900, 63, 0) (by decide)
  obtain rfl : seventeenRootsWritten = u := by simpa using seventeenRootsState_write.symm.trans hu
  rw [seventeenRootsWritten_reads] at hread
  exact absurd hread (by decide)

end Sys2Proof.Proofs
end

section
/-! SUPPORT. A state of the model in which an operation of the Platen and a copy command that is not complete have one number. -/

namespace Sys2Proof.Machine

/-- The first wave of the block with which the model places a word. -/
abbrev placedWave : WaveRef := .blk 1 0

/-- An operation of that wave, with its engine, its number and its stage. -/
def placedOp (engine : Engine) (op id stage : Nat) : EngOp :=
  { id := id, engine := engine, op := op, opts := {}, waves := [(placedWave, id)], uid := 1, core := 0, part := 0, space := 0
    t1 := some ⟨0, 0, [1], [], [1], 0, 0, false, true, 1, 0⟩,
    t2 := none, coords := [8], lanes := upTo 8, seed := 0, stream := 0, pages := [], reads := [], done := [], completion := 0, started := none,
    ring := none, stage := stage, failed := none, pend := [] }

/-- A `cpys`, number 1. -/
def statsOp : EngOp := placedOp .compositor 8 1 0

/-- A placed block with that `cpys` in flight, with an operation of the Platen that is complete, and with a copy command that is not and has its
number; two copy commands of the wave are to be counted out. -/
def twinState : State :=
  { (State.reset.withWord 0).modWave placedWave (fun w => { w with ocCpy := 2 }) with
    engOps := [statsOp, placedOp .platen 1 2 1, placedOp .compositor 1 2 0] }

/-- The state after the `cpys` is complete. -/
def twinAfter : State := (twinState.copyStatistics statsOp).drainCopies

theorem twinState_complete : exec (.copyCommandComplete 1) twinState = .next twinAfter := by
  have hf : twinState.engOp? 1 = some statsOp := by decide +kernel
  have hr : twinState.engRuns statsOp = true := by decide +kernel
  have hc : twinState.firstCopy statsOp = true := by decide +kernel
  show execCopyCommandComplete 1 twinState = _
  rw [execCopyCommandComplete, hf]
  simp only [hr, hc]
  rfl

/-- Both copy commands have been counted out: the drain looks the twin's number up, and finds the operation of the Platen. -/
theorem twinAfter_ocCpy : (twinAfter.wave? placedWave).map (·.ocCpy) = some 0 := by decide +kernel

end Sys2Proof.Machine

namespace Sys2Proof.Proofs
open Sys2Proof.Machine

/-- Refutes O53: a `cpys` that completes does not lower `oc.cpy` by one in every state. The statement does not ask that the operations in
flight have different numbers; where an operation of the Platen has the number of another copy command, it is counted out of `oc.cpy` too. -/
theorem not_engineSteps : ¬ Obligations.EngineSteps := by
  unfold Obligations.EngineSteps
  intro h
  obtain ⟨w, hw⟩ := Option.isSome_iff_exists.1 (show (twinState.wave? placedWave).isSome = true by decide +kernel)
  obtain ⟨k, hk⟩ := Option.isSome_iff_exists.1 (show (twinState.block? statsOp.uid).isSome = true by decide +kernel)
  have hcpy : w.ocCpy = 2 := by
    have : (twinState.wave? placedWave).map (·.ocCpy) = some 2 := by decide +kernel
    simpa [hw] using this
  have hscratch : cellsWf 0 k.scratch = true := by
    have : (twinState.block? statsOp.uid).map (fun b => cellsWf 0 b.scratch) = some true := by decide +kernel
    simpa [hk] using this
  have hacc : cellsWf 0 k.acc = true := by
    have : (twinState.block? statsOp.uid).map (fun b => cellsWf 0 b.acc) = some true := by decide +kernel
    simpa [hk] using this
  obtain ⟨-, hstats, -⟩ := h twinState statsOp placedWave 1 w k (by decide +kernel) rfl hw hk (by decide +kernel) hscratch hacc
  obtain ⟨u, v, hu, -, -, hv, hocc, -⟩ := hstats rfl ⟨rfl, by decide +kernel, by decide +kernel⟩ (by decide +kernel) (by decide +kernel) rfl
    (by decide +kernel)
  obtain rfl : twinAfter = u := by simpa using twinState_complete.symm.trans hu
  have hzero := twinAfter_ocCpy
  rw [hv, Option.map_some, Option.some.injEq] at hzero
  omega

end Sys2Proof.Proofs
end

section
/-! SUPPORT. The group that an event of a line finds, and its way past bucket points that hold nothing back (R39, R247). -/

namespace Sys2Proof.Machine

/-- The group that a test finds on a line stands in its operation, lies on the line and passes the test. -/
theorem groupAt_found {o : MemOp} {line i : Nat} {p : OpGroup → Bool} {g : OpGroup} (h : o.groupAt line p = some (i, g)) :
    o.groups[i]? = some g ∧ g.line = line ∧ p g = true := by
  have hf : ∀ (l : List OpGroup) (n : Nat) (acc : Option (Nat × OpGroup)),
      foldIdx (fun acc i g => acc.or (if g.line == line && p g then some (i, g) else none)) acc n l = some (i, g) →
        acc = some (i, g) ∨ (∃ k, i = n + k ∧ l[k]? = some g) ∧ g.line = line ∧ p g = true := by
    intro l
    induction l with
    | nil => exact fun n acc h => .inl h
    | cons x l ih =>
      intro n acc h
      rcases ih (n + 1) _ h with h | ⟨⟨k, rfl, hk⟩, hl⟩
      · rcases Option.or_eq_some_iff.1 h with h | ⟨-, h⟩
        · exact .inl h
        · split at h
          · next hc =>
            obtain ⟨rfl, rfl⟩ : n = i ∧ x = g := by simpa using h
            simp only [Bool.and_eq_true, beq_iff_eq] at hc
            exact .inr ⟨⟨0, rfl, rfl⟩, hc⟩
          · simp at h
      · exact .inr ⟨⟨k + 1, by omega, hk⟩, hl⟩
  rcases hf o.groups 0 none h with h | ⟨⟨k, rfl, hk⟩, hl⟩
  · simp at h
  · exact ⟨by rwa [Nat.zero_add], hl⟩

/-- A request passes points that throttle nothing without a record. -/
theorem passPoints_free {s : State} {ps : List BucketPoint} (h : ∀ p ∈ ps, s.throttled p = false) (o : MemOp) (n : Nat) (g : OpGroup) :
    State.passPoints o n ps g s = (true, g, s) := by
  induction ps with
  | nil => rfl
  | cons p ps ih =>
    rw [State.passPoints, State.passPoint, if_pos (by simp [h p (by simp)])]
    exact ih fun q hq => h q (by simp [hq])

/-- No hold on a bank keeps the request of a line that its home holds. -/
theorem bankHolds_of_homeTag {s : State} {part line j : Nat} {t : Tag} (hh : s.homeOf part line = some j)
    (ht : (s.slice j).homeTag line = some t) : s.bankHolds part line = false := by
  simp [State.bankHolds, hh, ht]

/-- What acts on a group past its points, when no point throttles it and its line is held at home. -/
theorem regulated_held {s : State} {o : MemOp} {i j : Nat} {g : OpGroup} {t : Tag} (hp : ∀ p ∈ s.groupPoints o g, s.throttled p = false)
    (hh : s.homeOf o.part g.line = some j) (ht : (s.slice j).homeTag g.line = some t) (f : OpGroup → State → State) :
    s.regulated o i g f = f g s := by
  rw [State.regulated, passPoints_free hp]
  exact if_neg (by simp [bankHolds_of_homeTag hh ht])

/-- The operations of a state but for one group. -/
theorem memOps_setGroup {s t : State} (h : t.memOps = s.memOps) (n i : Nat) (g : OpGroup) :
    (t.setGroup n i g).memOps = (s.setGroup n i g).memOps := by simp [State.setGroup, State.modMemOp, h]

end Sys2Proof.Machine
end

section
/-! SUPPORT. A load served from the core's copy of a line, or by the line's home, which grants a lease (R247, R253). -/

namespace Sys2Proof.Machine

/-- A group of a load after a line's bytes, side bytes and mark have come to it. -/
def OpGroup.loaded (g : OpGroup) (signed : Bool) (bytes side : List Byte) (poison : Bool) : OpGroup :=
  { g with
    blocks := g.blocksOf g.lanes, performed := true, poison := poison
    vals := g.lanes.map (fun l => (l.lane, l.value bytes signed))
    codes := (g.blocksOf g.lanes).map (fun b => (side.getD b.side 0).toNat) }

/-- The kinds that load as `ld` does. -/
def MemKind.isLoad (k : MemKind) : Prop := (∃ b, k = .load b) ∨ k = .loadMx ∨ (∃ d, k = .sload d) ∨ ∃ t, k = .tdset t

/-- An event of a load's line performs the group that waits there. -/
theorem exec_globalLoadPerform {s : State} {o : MemOp} {i line : Nat} {g : OpGroup} (ho : s.memOp? o.id = some o)
    (hg : o.groupAt line (fun h => !h.performed) = some (i, g)) (hk : o.kind.isLoad) :
    exec (.globalLoadPerform o.id line) s = .next (s.loadPerform o i g) := by
  show execGlobalLoadPerform o.id line s = _
  rcases hk with ⟨b, hk⟩ | hk | ⟨d, hk⟩ | ⟨t, hk⟩ <;> simp only [execGlobalLoadPerform, ho, hg, hk]

/-- What performs a load's group on a line that is no peer's. -/
theorem loadPerform_eq {s : State} {o : MemOp} {i : Nat} {g : OpGroup} (hk : o.kind.isLoad) (hp : isPod (128 * g.line) = false) :
    s.loadPerform o i g =
      if s.earlierOpen o g (s.l1Copy o.core o.part g.line).isSome ||
          (!(s.l1Copy o.core o.part g.line).isSome && s.coreStoreOpen o.core o.part o.id g) then s
      else if (s.l1Copy o.core o.part g.line).isSome then s.loadNow o i g
      else s.regulated o i g (fun g s => s.loadNow o i g) := by
  rcases hk with ⟨b, hk⟩ | hk | ⟨d, hk⟩ | ⟨t, hk⟩ <;> simp [State.loadPerform, hk, hp]

/-- A load that takes no acquire is served whole. -/
theorem loadNow_eq {s : State} {o : MemOp} {i : Nat} {g : OpGroup} (ha : o.acquire = false) (hl : ∃ l ∈ g.lanes, l.size ≠ 0) :
    s.loadNow o i g =
      let r := s.loadLine o.core o.part o.space g.line (((s.launch? o.launch).map (·.id)).getD 0) g.attr (o.qual == 2) (o.qual == 3)
      r.2.setGroup o.id i (g.loaded o.kind.signed r.1.bytes r.1.side r.1.poison) := by
  have hs : g.lanes.all (fun l => l.size == 0) = false := by
    obtain ⟨l, hl, hs⟩ := hl
    exact List.all_eq_false.2 ⟨l, hl, by simpa using hs⟩
  simp only [State.loadNow, State.loadChecks, ha, Bool.not_false, Bool.true_or, if_true, hs]
  rfl

end Sys2Proof.Machine
end
section
/-! SUPPORT. What leaves every line at its home as it is: its use, the marks on its replicas, and a core's copies (R231, R238, R324). -/

namespace Sys2Proof.Machine

/-- Two states with the same clock, partitions, memory, entries, waves and operations in flight, and with the same home tag and plates for every
line. -/
structure LinesKept (s t : State) : Prop where
  clock : t.clock = s.clock
  parts : t.parts = s.parts
  mem : t.mem = s.mem
  side : t.side = s.side
  poison : t.poisonMem = s.poisonMem
  entries : t.entries = s.entries
  memOps : t.memOps = s.memOps
  waves : ∀ r, t.wave? r = s.wave? r
  tags : ∀ i l, (t.slice i).homeTag l = (s.slice i).homeTag l
  plates : ∀ i, (t.slice i).plates = (s.slice i).plates

theorem LinesKept.refl (s : State) : LinesKept s s := ⟨rfl, rfl, rfl, rfl, rfl, rfl, rfl, fun _ => rfl, fun _ _ => rfl, fun _ => rfl⟩

theorem LinesKept.trans {s t u : State} (h : LinesKept s t) (k : LinesKept t u) : LinesKept s u :=
  ⟨k.clock.trans h.clock, k.parts.trans h.parts, k.mem.trans h.mem, k.side.trans h.side, k.poison.trans h.poison, k.entries.trans h.entries,
    k.memOps.trans h.memOps, fun r => (k.waves r).trans (h.waves r), fun i l => (k.tags i l).trans (h.tags i l),
    fun i => (k.plates i).trans (h.plates i)⟩

theorem wave?_modSlice (s : State) (i : Nat) (f : Slice → Slice) (r : WaveRef) : (s.modSlice i f).wave? r = s.wave? r := by cases r <;> rfl

/-- A change of a slice that leaves every line's home tag, and its plates. -/
theorem LinesKept.modSlice {s : State} {i : Nat} {f : Slice → Slice} (ht : ∀ l, (f (s.slice i)).homeTag l = (s.slice i).homeTag l)
    (hp : (f (s.slice i)).plates = (s.slice i).plates) : LinesKept s (s.modSlice i f) := by
  refine ⟨rfl, rfl, rfl, rfl, rfl, rfl, rfl, wave?_modSlice s i f, fun j l => ?_, fun j => ?_⟩ <;> rw [State.slice_modSlice] <;> split
  · next h => obtain ⟨rfl, -⟩ := h; exact ht l
  · rfl
  · next h => obtain ⟨rfl, -⟩ := h; exact hp
  · rfl

/-- A change of a core that leaves its handler waves. -/
theorem LinesKept.modCore (s : State) (c : Nat) {f : Core → Core} (hf : ∀ k, (f k).handlers = k.handlers) : LinesKept s (s.modCore c f) := by
  refine ⟨rfl, rfl, rfl, rfl, rfl, rfl, rfl, fun r => ?_, fun _ _ => rfl, fun _ => rfl⟩
  cases r with
  | blk uid w => rfl
  | hdl d q =>
    simp only [State.wave?, core_modCore]
    split
    · rw [hf]
    · rfl

theorem LinesKept.l1Drop (s : State) (core part line : Nat) : LinesKept s (s.l1Drop core part line) := .modCore s core fun _ => rfl

theorem LinesKept.l1Put (s : State) (core : Nat) (x : L1Line) : LinesKept s (s.l1Put core x) := .modCore s core fun _ => rfl

theorem LinesKept.useLine (s : State) (part line : Nat) : LinesKept s (s.useLine part line) := by
  unfold State.useLine
  split
  · exact .refl s
  · split
    · exact .refl s
    · next ht => exact .modSlice (Slice.homeTag_putTag ht) rfl

/-- A map of tags that moves none to another line, and none between home and replica, keeps which tag is a line's at home. -/
theorem homeTag_map {sl : Slice} {f : Tag → Tag} (hl : ∀ t, (f t).line = t.line) (hs : ∀ t, (f t).state = t.state) (l : Nat) :
    ({ sl with tags := sl.tags.map f } : Slice).homeTag l = (sl.homeTag l).map f := by
  simp only [Slice.homeTag, List.find?_map]
  congr 1
  exact List.find?_congr fun t _ => by simp [hl, hs]

theorem LinesKept.barReplica (s : State) (core part line : Nat) : LinesKept s (s.barReplica core part line) := by
  unfold State.barReplica
  split
  · exact .refl s
  · next i _ =>
    refine .modSlice (fun l => ?_) rfl
    rw [homeTag_map (fun t => by split <;> rfl) (fun t => by split <;> rfl)]
    cases ht : (s.slice i).homeTag l with
    | none => rfl
    | some t => rw [Option.map_some, if_neg (by simp [(Slice.of_homeTag ht).2])]

section Kept

variable {s t : State} (h : LinesKept s t)
include h

theorem LinesKept.part (p : Nat) : t.part p = s.part p := by rw [State.part, State.part, h.parts]

theorem LinesKept.homeOf (part line : Nat) : t.homeOf part line = s.homeOf part line := State.homeOf_congr (by rw [h.part])

theorem LinesKept.memLine (line : Nat) : t.memLine line = s.memLine line := by simp only [State.memLine, h.mem, h.side, h.poison]

theorem LinesKept.homeLine (part line : Nat) : t.homeLine part line = s.homeLine part line :=
  State.homeLine_congr h.parts (funext h.memLine) h.tags h.plates part line

theorem LinesKept.leaseNow (die : Nat) : t.leaseNow die = s.leaseNow die := by rw [State.leaseNow, State.leaseNow, h.clock]

theorem LinesKept.homeDie (part line : Nat) : t.homeDie part line = s.homeDie part line := by rw [State.homeDie, State.homeDie, h.homeOf]

theorem LinesKept.heldAlone {part line j : Nat} {x : Tag} (hs : HeldAlone s part line j x) : HeldAlone t part line j x where
  home := (h.homeOf part line).trans hs.home
  tag := (h.tags j line).trans hs.tag
  own := by rw [h.plates]; exact hs.own
  size := by rw [h.homeLine]; exact hs.size
  others := by rw [← hs.others]; simp only [State.otherTags, h.homeOf, h.tags]
  unspilled := by rw [h.entries]; exact hs.unspilled

end Kept

/-- A line held at its home is used where it would be filled. -/
theorem fillLine_held {s : State} {part line j : Nat} {t : Tag} (hh : s.homeOf part line = some j) (ht : (s.slice j).homeTag line = some t)
    (space : Nat) (a : PageAttr) (poison : Bool) : s.fillLine part space line a poison = s.useLine part line := by
  simp only [State.fillLine, fillAs_held hh ht, State.useLine, hh, ht]

end Sys2Proof.Machine
end
section
/-! SUPPORT. A line served by its home, which grants a lease (R236, R247, R253). -/

namespace Sys2Proof.Machine

section Grant

variable {s : State} {part line j : Nat} {t : Tag} (hh : s.homeOf part line = some j) (ht : (s.slice j).homeTag line = some t)
include hh ht

theorem leaseField_of_homeTag : s.leaseField part line = t.lease := by simp [State.leaseField, hh, ht]

theorem homeTag_grant (expiry : Nat) : ((s.grant part line expiry).slice j).homeTag line = some { t with lease := max t.lease expiry } := by
  obtain ⟨hl, hs⟩ := Slice.of_homeTag ht
  simp only [State.grant, hh]
  rw [State.slice_modSlice, if_pos ⟨rfl, lt_of_homeTag ht⟩, homeTag_map (fun t => by split <;> rfl) (fun t => by split <;> rfl), ht,
    Option.map_some, if_pos (by simp [hl, hs])]

end Grant

theorem grant_keeps (s : State) (part line expiry : Nat) : (s.grant part line expiry).mem = s.mem ∧
    (s.grant part line expiry).memOps = s.memOps ∧ (s.grant part line expiry).parts = s.parts := by
  unfold State.grant
  split <;> exact ⟨rfl, rfl, rfl⟩

section Served

variable {s : State} {part line j : Nat} {t : Tag} (hh : s.homeOf part line = some j) (ht : (s.slice j).homeTag line = some t)
include hh ht

/-- What a load without the replicate hint takes of a line held at home, and the lease that it takes with it. -/
theorem serveLine_home (core space launch : Nat) (a : PageAttr) (long : Bool) :
    let expiry := s.leaseNow (s.homeDie part line) + leaseLength a long
    s.serveLine core part space line launch a false long = (⟨((s.slice j).content t).1, ((s.slice j).content t).2, t.poison, expiry⟩,
      ((s.useLine part line).grant part line expiry).barReplica core part line) := by
  have hk := LinesKept.useLine s part line
  simp only [State.serveLine, Bool.false_and, Bool.false_eq_true, if_false, fillLine_held hh ht, hk.homeLine, hk.homeDie, hk.leaseNow,
    State.homeLine_of_homeTag hh ht]

/-- A load of a line that the core has no copy of, served by the line's home. -/
theorem loadLine_home {core : Nat} (hc : s.l1Copy core part line = none) (space launch : Nat) (a : PageAttr) (long : Bool) :
    let expiry := s.leaseNow (s.homeDie part line) + leaseLength a long
    let r := s.loadLine core part space line launch a false long
    r.1 = ⟨((s.slice j).content t).1, ((s.slice j).content t).2, t.poison, expiry⟩ ∧ r.2.mem = s.mem ∧ r.2.memOps = s.memOps ∧
      r.2.leaseField part line = max t.lease expiry := by
  intro expiry r
  have hk := LinesKept.useLine s part line
  have hu : (s.useLine part line).homeOf part line = some j := (hk.homeOf part line).trans hh
  have hut : ((s.useLine part line).slice j).homeTag line = some t := (hk.tags j line).trans ht
  have key (u : State) (hg : LinesKept ((s.useLine part line).grant part line expiry) u) :
      u.mem = s.mem ∧ u.memOps = s.memOps ∧ u.leaseField part line = max t.lease expiry := by
    obtain ⟨hm, ho, hparts⟩ := grant_keeps (s.useLine part line) part line expiry
    refine ⟨(hg.mem.trans hm).trans hk.mem, (hg.memOps.trans ho).trans hk.memOps, ?_⟩
    have hgh : ((s.useLine part line).grant part line expiry).homeOf part line = some j :=
      (State.homeOf_congr (by simp only [State.part, hparts])).trans hu
    rw [leaseField_of_homeTag ((hg.homeOf part line).trans hgh) ((hg.tags j line).trans (homeTag_grant hu hut expiry))]
  simp only [r, State.loadLine, hc, serveLine_home hh ht]
  split
  · exact ⟨rfl, key _ ((LinesKept.barReplica _ _ _ _).trans (LinesKept.l1Put _ _ _))⟩
  · exact ⟨rfl, key _ (LinesKept.barReplica _ _ _ _)⟩

end Served

section Load

variable {s : State} {o : MemOp} {i line : Nat} {g : OpGroup} (ho : s.memOp? o.id = some o) (hp : isPod (128 * line) = false)
  (hg : o.groupAt line (fun h => !h.performed) = some (i, g)) (hk : o.kind.isLoad) (ha : o.acquire = false) (hl : ∃ l ∈ g.lanes, l.size ≠ 0)
include ho hp hg hk ha hl

/-- A load takes its values from the core's copy. -/
theorem globalLoadPerform_l1 {x : L1Line} (hx : s.l1Copy o.core o.part line = some x) (he : s.earlierOpen o g true = false) :
    exec (.globalLoadPerform o.id line) s = .next (s.setGroup o.id i (g.loaded o.kind.signed x.bytes x.side x.poison)) := by
  obtain ⟨-, rfl, -⟩ := groupAt_found hg
  rw [exec_globalLoadPerform ho hg hk, loadPerform_eq hk hp]
  simp only [hx, Option.isSome_some, he, Bool.not_true, Bool.false_and, Bool.or_false, Bool.false_eq_true, if_false, if_true, loadNow_eq ha hl,
    State.loadLine]

/-- A load takes its values from the line's home. -/
theorem globalLoadPerform_home {j : Nat} {t : Tag} (hx : s.l1Copy o.core o.part line = none) (he : s.earlierOpen o g false = false)
    (hc : s.coreStoreOpen o.core o.part o.id g = false) (hf : ∀ p ∈ s.groupPoints o g, s.throttled p = false) (hq : o.qual ≠ 2)
    (hh : s.homeOf o.part line = some j) (ht : (s.slice j).homeTag line = some t) :
    ∃ u : State, exec (.globalLoadPerform o.id line) s = .next u ∧ u.mem = s.mem ∧
      u.memOps = (s.setGroup o.id i (g.loaded o.kind.signed ((s.slice j).content t).1 ((s.slice j).content t).2 t.poison)).memOps ∧
      u.leaseField o.part line = max t.lease (s.leaseNow (s.homeDie o.part line) + leaseLength g.attr (o.qual == 3)) := by
  obtain ⟨-, rfl, -⟩ := groupAt_found hg
  obtain ⟨hr, hm, hops, hlease⟩ := loadLine_home hh ht hx o.space (((s.launch? o.launch).map (·.id)).getD 0) g.attr (o.qual == 3)
  refine ⟨_, exec_globalLoadPerform ho hg hk, ?_⟩
  have hq2 : (o.qual == 2) = false := by simpa using hq
  have heq : s.loadPerform o i g = (s.loadLine o.core o.part o.space g.line (((s.launch? o.launch).map (·.id)).getD 0) g.attr false
      (o.qual == 3)).2.setGroup o.id i (g.loaded o.kind.signed ((s.slice j).content t).1 ((s.slice j).content t).2 t.poison) := by
    rw [loadPerform_eq hk hp]
    simp only [hx, Option.isSome_none, he, hc, Bool.and_false, Bool.or_false, Bool.false_eq_true, if_false,
      regulated_held hf hh ht, loadNow_eq ha hl, hq2, hr]
  rw [heq]
  exact ⟨hm, memOps_setGroup hops _ _ _, hlease⟩

end Load

end Sys2Proof.Machine
end
section
/-! SUPPORT. What counting operations out of their waves leaves: the lanes of every wave, the scratchpads, and the lines at their homes (R248,
R334). -/

namespace Sys2Proof.Machine

/-- From one state to another, waves keep their lanes and their lease clocks do not fall; blocks keep their scratchpads; memory, lines and the
clock are the same. -/
structure Counted (s t : State) : Prop where
  homes : SameHomes s t
  clock : t.clock = s.clock
  waves : ∀ r w, s.wave? r = some w → ∃ v, t.wave? r = some v ∧ v.lanes = w.lanes ∧ w.ltc ≤ v.ltc
  blocks : ∀ uid b, s.block? uid = some b → ∃ k, t.block? uid = some k ∧ k.scratch = b.scratch

theorem Counted.refl (s : State) : Counted s s :=
  ⟨⟨rfl, rfl, rfl, rfl, rfl, rfl⟩, rfl, fun _ w h => ⟨w, h, rfl, Nat.le_refl _⟩, fun _ b h => ⟨b, h, rfl⟩⟩

theorem Counted.trans {s t u : State} (h : Counted s t) (k : Counted t u) : Counted s u where
  homes := ⟨k.homes.parts.trans h.homes.parts, k.homes.slices.trans h.homes.slices, k.homes.mem.trans h.homes.mem,
    k.homes.side.trans h.homes.side, k.homes.poison.trans h.homes.poison, k.homes.entries.trans h.homes.entries⟩
  clock := k.clock.trans h.clock
  waves r w hw := by
    obtain ⟨v, hv, hl, hc⟩ := h.waves r w hw
    obtain ⟨x, hx, kl, kc⟩ := k.waves r v hv
    exact ⟨x, hx, kl.trans hl, hc.trans kc⟩
  blocks uid b hb := by
    obtain ⟨k1, hk, hs⟩ := h.blocks uid b hb
    obtain ⟨k2, hk2, hs2⟩ := k.blocks uid k1 hk
    exact ⟨k2, hk2, hs2.trans hs⟩

/-- A change of the operations in flight, and of no more. -/
theorem Counted.ops (s : State) (ops : List MemOp) : Counted s { s with memOps := ops } where
  homes := ⟨rfl, rfl, rfl, rfl, rfl, rfl⟩
  clock := rfl
  waves r w h := ⟨w, by cases r <;> exact h, rfl, Nat.le_refl _⟩
  blocks _ b h := ⟨b, h, rfl⟩

theorem Counted.countOut (s : State) (r : WaveRef) (n c : Nat) : Counted s (s.countOut r n c) where
  homes := .modWave s r _
  clock := by simp [State.countOut]
  waves q w h := by
    by_cases hq : q = r
    · subst hq
      rw [State.countOut, State.wave?_modWave, h]
      refine ⟨_, rfl, ?_, ?_⟩ <;> simp only [Wave.fold, Wave.modCounter] <;> split <;> simp
    · exact ⟨w, by rw [State.countOut, State.wave?_modWave_ne _ _ _ _ hq, h], rfl, Nat.le_refl _⟩
  blocks uid b h := by
    cases r with
    | hdl c q => exact ⟨b, h, rfl⟩
    | blk u w =>
      rw [State.countOut, State.block?_modWave]
      split
      · next hu => subst hu; rw [h]; exact ⟨_, rfl, rfl⟩
      · exact ⟨b, h, rfl⟩

theorem Counted.foldLaunch (s : State) (r : WaveRef) (lid c : Nat) : Counted s (s.foldLaunch r lid c) := by
  unfold State.foldLaunch
  split
  · exact .refl s
  · exact ⟨⟨rfl, rfl, rfl, rfl, rfl, rfl⟩, rfl, fun r w h => ⟨w, by cases r <;> exact h, rfl, Nat.le_refl _⟩,
    fun _ b h => ⟨b, h, rfl⟩⟩

theorem Counted.drainMem (r : WaveRef) (fuel : Nat) (s : State) : Counted s (State.drainMem r fuel s) := by
  induction fuel generalizing s with
  | zero => exact .refl s
  | succ n ih =>
    unfold State.drainMem
    split
    · exact .refl s
    · next o _ =>
      split
      · extract_lets s1
        have hs1 : Counted s s1 := (Counted.countOut s r 0 o.completion).trans (.foldLaunch _ r o.launch o.completion)
        refine (hs1.trans ?_).trans (ih _)
        split <;> exact .ops _ _
      · exact .refl s

theorem Counted.endOp (s : State) (o : MemOp) : Counted s (s.endOp o) := by
  unfold State.endOp
  split
  · exact .ops _ _
  · exact (Counted.ops _ _).trans (.drainMem _ _ _)

theorem Counted.settleOp (s : State) (n : Nat) : Counted s (s.settleOp n) := by
  have hif {c : Prop} [Decidable c] {t : State} (h : Counted s t) : Counted s (if c then t else s) := by
    split
    · exact h
    · exact .refl s
  unfold State.settleOp
  split
  · exact .refl s
  · next o _ =>
    have hend := Counted.endOp s o
    refine hif ?_
    split
    · exact hend
    · exact hend
    · extract_lets s1
      have hs1 : Counted s s1 := hif hend
      split
      · exact hs1
      · split
        · exact hs1.trans (.ops _ _)
        · exact hs1
    · exact hif hend
    · exact hif hend
    · exact hif hend
    · exact hif hend
    · exact hif hend
    · exact hif (.ops _ _)
    · exact .refl s

end Sys2Proof.Machine
end

section
/-! SUPPORT. A load returned: the registers of its lanes, and the count of its wave (R248, R251, R252). -/

namespace Sys2Proof.Machine

/-- Registers written one by one, each once, are written. -/
theorem foldIdx_writeV_written {ds : List Nat} (hd : ds.Nodup) (f : Nat → Word) (x : Lane) :
    LaneWritten x (foldIdx (fun x i d => x.writeV d (f i)) x 0 ds) { regs := mapIdx' (fun k d => (d, f k)) ds } := by
  have hfold : ∀ (ds : List Nat) (n : Nat) (x : Lane), foldIdx (fun x i d => x.writeV d (f i)) x n ds =
      (mapIdxFrom (fun k d => (d, f k)) n ds).foldl (fun x p => x.writeV p.1 p.2) x := by
    intro ds
    induction ds with
    | nil => exact fun _ _ => rfl
    | cons d ds ih => exact fun n x => ih (n + 1) _
  have hfst : ∀ (ds : List Nat) (n : Nat), (mapIdxFrom (fun k d => (d, f k)) n ds).map Prod.fst = ds := by
    intro ds
    induction ds with
    | nil => exact fun _ => rfl
    | cons d ds ih => exact fun n => congrArg (d :: ·) (ih (n + 1))
  rw [hfold]
  exact lane_apply x { regs := mapIdx' (fun k d => (d, f k)) ds } (by rw [mapIdx', hfst]; exact hd) List.nodup_nil

/-- Registers marked one by one are empty and have the mark. -/
theorem foldl_setMark (m : Mark) {ds : List Nat} {d : Nat} (h : d ∈ ds) (x : Lane) :
    (ds.foldl (fun x d => x.setMark d m) x).isFull d = false ∧ (ds.foldl (fun x d => x.setMark d m) x).mark? d = some m := by
  induction ds using List.reverseRecOn with
  | nil => simp at h
  | append_singleton ds e ih =>
    rw [List.foldl_append, List.foldl_cons, List.foldl_nil]
    by_cases hd : d = e
    · subst hd
      simp [Lane.isFull, Lane.mark?, testBit_setBit]
    · obtain ⟨hf, hm⟩ := ih (by simpa [hd] using h)
      refine ⟨by simpa [Lane.isFull, testBit_setBit, hd] using hf, ?_⟩
      rw [← hm]
      simp only [Lane.mark?, Lane.setMark_marks]
      rw [List.find?_cons_of_neg (by simpa using Ne.symm hd), List.find?_filter]
      congr 1
      refine List.find?_congr fun y _ => ?_
      by_cases hy : y.1 = d <;> simp [hy, hd]

/-- A lane to which the value of its group comes, or the mark of one that has none (R251, R252, R376). -/
def OpGroup.arrives (g : OpGroup) (l : OpLane) (v : Nat) (x : Lane) : Lane :=
  let mark : Option Mark := match g.failed with
    | some _ => some (.podFailed l.va)
    | none => if g.poison then some (.poisoned (l.va / 128 * 128)) else none
  if x.state == .helper && l.size != 0 then x
  else
    match mark with
    | some m => l.dest.foldl (fun x d => x.setMark d m) x
    | none =>
      if l.size = 0 then l.dest.foldl (fun x d => x.writeV d (x.reg d)) x
      else foldIdx (fun x i d => x.writeV d (BitVec.ofNat 32 (v / 2 ^ (32 * i)))) x 0 l.dest

theorem arrives_written {g : OpGroup} {l : OpLane} {x : Lane} (v : Nat) (hx : x.state ≠ .helper) (hd : l.dest.Nodup) (hs : l.size ≠ 0)
    (hf : g.failed = none) (hp : g.poison = false) :
    LaneWritten x (g.arrives l v x) { regs := mapIdx' (fun k d => (d, BitVec.ofNat 32 (v / 2 ^ (32 * k)))) l.dest } := by
  have he : g.arrives l v x = foldIdx (fun x i d => x.writeV d (BitVec.ofNat 32 (v / 2 ^ (32 * i)))) x 0 l.dest := by
    simp [OpGroup.arrives, hx, hf, hp, hs]
  rw [he]
  exact foldIdx_writeV_written hd _ x

theorem arrives_marked {g : OpGroup} {l : OpLane} {x : Lane} (v : Nat) (hx : x.state ≠ .helper) (hf : g.failed = none)
    (hp : g.poison = true) {d : Nat} (h : d ∈ l.dest) :
    (g.arrives l v x).isFull d = false ∧ (g.arrives l v x).mark? d = some (.poisoned (l.va / 128 * 128)) := by
  have he : g.arrives l v x = l.dest.foldl (fun x d => x.setMark d (.poisoned (l.va / 128 * 128))) x := by
    simp [OpGroup.arrives, hx, hf, hp]
  rw [he]
  exact foldl_setMark _ h x

/-- Lanes of a wave changed one by one, each once: what stands at each, and the wave's count of its operations. -/
theorem foldl_modLane_once {s : State} {r : WaveRef} {w : Wave} (hw : s.wave? r = some w) {α : Type} (lane : α → Nat) (f : α → Lane → Lane)
    {ls : List α} (hn : (ls.map lane).Nodup) :
    ∃ v, (ls.foldl (fun s l => s.modLane r (lane l) (f l)) s).wave? r = some v ∧ v.ocMem = w.ocMem ∧
      (∀ k, k ∉ ls.map lane → v.lanes[k]? = w.lanes[k]?) ∧ ∀ l ∈ ls, v.lanes[lane l]? = (w.lanes[lane l]?).map (f l) := by
  induction ls generalizing s w with
  | nil => exact ⟨w, hw, rfl, fun _ _ => rfl, by simp⟩
  | cons a ls ih =>
    obtain ⟨ha, hn⟩ := List.nodup_cons.1 hn
    have hw1 : (s.modLane r (lane a) (f a)).wave? r = some (w.modLane (lane a) (f a)) := by
      rw [State.modLane, State.wave?_modWave, hw, Option.map_some]
    obtain ⟨v, hv, hc, hout, hin⟩ := ih hw1 hn
    have hat (k : Nat) : (w.modLane (lane a) (f a)).lanes[k]? = if lane a = k then (w.lanes[k]?).map (f a) else w.lanes[k]? :=
      getElem?_modifyAt ..
    refine ⟨v, hv, hc, fun k hk => ?_, fun l hl => ?_⟩
    · have hka : lane a ≠ k ∧ k ∉ ls.map lane := by
        rw [List.map_cons, List.mem_cons, not_or] at hk
        exact ⟨Ne.symm hk.1, hk.2⟩
      rw [hout k hka.2, hat, if_neg hka.1]
    · rcases List.mem_cons.1 hl with rfl | hl
      · rw [hout _ ha, hat, if_pos rfl]
      · have hne : lane a ≠ lane l := fun e => ha (e ▸ List.mem_map_of_mem hl)
        rw [hin l hl, hat, if_neg hne]

/-- A search of the operations after a change that leaves what is searched for. -/
theorem find?_modMemOp (s : State) (n : Nat) {f : MemOp → MemOp} {p : MemOp → Bool} (hp : ∀ o, p (f o) = p o) :
    (s.modMemOp n f).memOps.find? p = (s.memOps.find? p).map (fun o => if o.id == n then f o else o) := by
  simp only [State.modMemOp, List.find?_map]
  congr 1
  refine List.find?_congr fun o _ => ?_
  simp only [Function.comp]
  split <;> simp [hp]

/-- A wave of which no counted operation has ended is counted no further. -/
theorem drainMem_idle {s : State} {r : WaveRef} (h : ∀ p ∈ s.memOps, p.wave = r → p.counted = true → p.ended = false) (n : Nat) :
    State.drainMem r n s = s := by
  cases n with
  | zero => rfl
  | succ n =>
    unfold State.drainMem
    split
    · rfl
    · next o ho =>
      have hc := List.find?_some ho
      simp only [Bool.and_eq_true, beq_iff_eq] at hc
      rw [if_neg (by simp [h o (List.mem_of_find?_eq_some ho) hc.1 hc.2])]

theorem foldLaunch_wave {s : State} {r : WaveRef} {w : Wave} (h : s.wave? r = some w) (lid c : Nat) : s.foldLaunch r lid c = s :=
  if_pos (by rw [h]; rfl)

theorem wave?_modMemOp (s : State) (n : Nat) (f : MemOp → MemOp) (r : WaveRef) : (s.modMemOp n f).wave? r = s.wave? r := by cases r <;> rfl

theorem wave?_dropMemOp (s : State) (n : Nat) (r : WaveRef) : (s.dropMemOp n).wave? r = s.wave? r := by cases r <;> rfl

/-- An operation of which its end has been noted. -/
def MemOp.over (p : MemOp) (c : Nat) : MemOp := { p with ended := true, completion := c }

/-- The first operation of a wave that has ended is counted out, and with none ended behind it no other. -/
theorem drainMem_first {s : State} {o : MemOp} {r : WaveRef} {w : Wave} (hw : s.wave? r = some w)
    (hf : s.memOps.find? (fun p => p.wave == r && p.counted) = some o) (he : o.ended = true)
    (hrest : ∀ p ∈ s.memOps, p.wave = r → p.id ≠ o.id → p.ended = false) (n : Nat) :
    (State.drainMem r (n + 1) s).wave? r = some ((w.modCounter 0 (· - 1)).fold o.completion) := by
  have hw2 : (s.countOut r 0 o.completion).wave? r = some ((w.modCounter 0 (· - 1)).fold o.completion) := by
    rw [State.countOut, State.wave?_modWave, hw, Option.map_some]
  have hops : (s.countOut r 0 o.completion).memOps = s.memOps := by simp [State.countOut]
  rw [State.drainMem, hf]
  simp only [he, if_true]
  rw [foldLaunch_wave hw2]
  split
  · rw [drainMem_idle, wave?_dropMemOp, hw2]
    intro p hp hpr _
    obtain ⟨hp, hne⟩ := List.mem_filter.1 hp
    exact hrest p (hops ▸ hp) hpr (by simpa using hne)
  · rw [drainMem_idle, wave?_modMemOp, hw2]
    intro p hp hpr hpc
    obtain ⟨q, hq, rfl⟩ := List.mem_map.1 hp
    split at hpr
    · next hid => rw [if_pos hid] at hpc; simp at hpc
    · next hid => rw [if_neg hid]; exact hrest q (hops ▸ hq) hpr (by simpa using hid)

/-- An operation that ends as the first of its wave's, with none ended behind it, is counted out alone. -/
theorem endOp_counts {s : State} {o : MemOp} {w : Wave} (hw : s.wave? o.wave = some w) (hc : o.counted = true)
    (hf : s.memOps.find? (fun p => p.wave == o.wave && p.counted) = some o)
    (hrest : ∀ p ∈ s.memOps, p.wave = o.wave → p.id ≠ o.id → p.ended = false) :
    ∃ v, (s.endOp o).wave? o.wave = some v ∧ v.ocMem = w.ocMem - 1 := by
  have hf1 : (s.modMemOp o.id (·.over o.completion)).memOps.find? (fun p => p.wave == o.wave && p.counted) = some (o.over o.completion) := by
    rw [find?_modMemOp (f := (·.over o.completion)) (p := fun p => p.wave == o.wave && p.counted) s o.id fun _ => rfl, hf,
      Option.map_some, if_pos (by simp)]
  obtain ⟨n, hn⟩ : ∃ n, (s.modMemOp o.id (·.over o.completion)).memOps.length = n + 1 :=
    Nat.exists_eq_succ_of_ne_zero (Nat.ne_of_gt (List.length_pos_of_mem (List.mem_of_find?_eq_some hf1)))
  have hend : s.endOp o = State.drainMem o.wave (n + 1) (s.modMemOp o.id (·.over o.completion)) := by
    rw [State.endOp, if_neg (by simp [hc]), ← hn]
    rfl
  refine ⟨_, hend ▸ drainMem_first ((wave?_modMemOp ..).trans hw) hf1 rfl (fun p hp hpr hpi => ?_) n, rfl⟩
  obtain ⟨q, hq, rfl⟩ := List.mem_map.1 hp
  split at hpr
  · next hid => exact absurd (by simpa [hid] using hpi) (by simpa [MemOp.over] using hid)
  · next hid => rw [if_neg hid]; exact hrest q hq hpr (by simpa using hid)

section Return

variable {s : State} {o : MemOp} {i line : Nat} {g : OpGroup} {w : Wave} {b : Bool} (ho : s.memOp? o.id = some o) (hw : s.wave? o.wave = some w)
  (hg : o.groupAt line (fun h => h.performed && !h.returned) = some (i, g)) (hk : o.kind = .load b)

/-- The lanes of a group that return, in a state. -/
def State.returnLanes (s : State) (r : WaveRef) (g : OpGroup) : State :=
  g.lanes.foldl (fun s l => s.modLane r l.lane (g.arrives l (((g.vals.find? (fun v => v.1 == l.lane)).map (·.2)).getD 0))) s

include ho hg hk in
theorem exec_loadReturn : exec (.loadReturn o.id line) s =
    .next (((s.returnLanes o.wave g).setGroup o.id i { g with returned := true }).settleOp o.id) := by
  show execLoadReturn o.id line s = _
  simp only [execLoadReturn, ho, hg, hk]
  rw [State.returnGroup, hk]
  rfl

include ho hk in
/-- The one group of a load returned ends it, the first operation of its wave. -/
theorem settleOp_counts {t : State} {v : Wave} (hgs : o.groups = [g]) (hp : g.performed = true) (hc : o.counted = true)
    (hf : s.memOps.find? (fun p => p.wave == o.wave && p.counted) = some o)
    (hrest : ∀ p ∈ s.memOps, p.wave = o.wave → p.id ≠ o.id → p.ended = false) (hops : t.memOps = s.memOps) (hv : t.wave? o.wave = some v) :
    ∃ v', ((t.setGroup o.id 0 { g with returned := true }).settleOp o.id).wave? o.wave = some v' ∧ v'.ocMem = v.ocMem - 1 := by
  have hset : (t.setGroup o.id 0 { g with returned := true }).memOp? o.id = some { o with groups := [{ g with returned := true }] } := by
    have hto : t.memOp? o.id = some o := by rw [State.memOp?, hops]; exact ho
    rw [memOp?_setGroup hto, hgs]
    rfl
  have hend : (t.setGroup o.id 0 { g with returned := true }).settleOp o.id =
      (t.setGroup o.id 0 { g with returned := true }).endOp { o with groups := [{ g with returned := true }] } := by
    simp only [State.settleOp, hset, hk]
    simp [hp]
  rw [hend]
  refine endOp_counts ((wave?_modMemOp ..).trans hv) hc ?_ fun p hpm hpr hpi => ?_
  · have hfind := find?_modMemOp (f := fun p => { p with groups := setAt p.groups 0 { g with returned := true } })
      (p := fun p => p.wave == o.wave && p.counted) t o.id fun _ => rfl
    rw [hops, hf, Option.map_some, if_pos (by simp), hgs] at hfind
    exact hfind
  · obtain ⟨q, hq, rfl⟩ := List.mem_map.1 hpm
    rw [hops] at hq
    split at hpr
    · next hid => exact absurd (by simpa [hid] using hpi) (by simpa using hid)
    · next hid => rw [if_neg hid]; exact hrest q hq hpr (by simpa using hid)

end Return

end Sys2Proof.Machine
end
section
/-! SUPPORT. A returned load, as the statement about memory operations says it (R248, R251, R252). -/

namespace Sys2Proof.Machine

theorem returnLanes_keeps (s : State) (r : WaveRef) (g : OpGroup) :
    (s.returnLanes r g).mem = s.mem ∧ (s.returnLanes r g).memOps = s.memOps := by
  refine List.foldlRecOn (motive := fun t : State => t.mem = s.mem ∧ t.memOps = s.memOps) g.lanes _ ⟨rfl, rfl⟩ fun t ht l _ => ?_
  simpa using ht

/-- What a group of a load that has returned leaves: its values in the registers of its lanes, or their marks, and its operation counted out
when nothing of the wave's before or behind it is to be. -/
theorem loadReturn_returns {s : State} {o : MemOp} {i line : Nat} {g : OpGroup} {w : Wave} {b : Bool} (ho : s.memOp? o.id = some o)
    (hw : s.wave? o.wave = some w) (hg : o.groupAt line (fun h => h.performed && !h.returned) = some (i, g)) (hk : o.kind = .load b)
    (hn : (g.lanes.map (·.lane)).Nodup) :
    ∃ (u : State) (v : Wave), exec (.loadReturn o.id line) s = .next u ∧ u.wave? o.wave = some v ∧ u.mem = s.mem ∧
      (∀ l ∈ g.lanes, ∀ x : Lane, w.lanes[l.lane]? = some x → x.state ≠ .helper → l.dest.Nodup → l.size ≠ 0 →
        ∃ y : Lane, v.lanes[l.lane]? = some y ∧
          (g.failed = none → g.poison = false →
            let value := ((g.vals.find? (fun p => p.1 == l.lane)).map (·.2)).getD 0
            LaneWritten x y { regs := mapIdx' (fun k d => (d, BitVec.ofNat 32 (value / 2 ^ (32 * k)))) l.dest }) ∧
          (g.failed = none → g.poison = true →
            ∀ d ∈ l.dest, y.isFull d = false ∧ y.mark? d = some (.poisoned (l.va / 128 * 128)))) ∧
      (o.groups = [g] → o.counted = true → s.memOps.find? (fun p => p.wave == o.wave && p.counted) = some o →
        (∀ p ∈ s.memOps, p.wave = o.wave → p.id ≠ o.id → p.ended = false) → v.ocMem = w.ocMem - 1) := by
  obtain ⟨v, hv, hcount, -, hin⟩ := foldl_modLane_once hw (·.lane)
    (fun l => g.arrives l (((g.vals.find? (fun v => v.1 == l.lane)).map (·.2)).getD 0)) hn
  obtain ⟨hmem, hops⟩ := returnLanes_keeps s o.wave g
  have hset : ((s.returnLanes o.wave g).setGroup o.id i { g with returned := true }).wave? o.wave = some v := (wave?_modMemOp ..).trans hv
  have hcounted := Counted.settleOp ((s.returnLanes o.wave g).setGroup o.id i { g with returned := true }) o.id
  obtain ⟨v', hv', hlanes, -⟩ := hcounted.waves o.wave v hset
  refine ⟨_, v', exec_loadReturn ho hg hk, hv', hcounted.homes.mem.trans hmem, fun l hl x hx hhelper hd hs => ?_,
    fun hgs hc hf hrest => ?_⟩
  · refine ⟨g.arrives l (((g.vals.find? (fun v => v.1 == l.lane)).map (·.2)).getD 0) x, ?_, fun hfail hp => ?_, fun hfail hp d hd => ?_⟩
    · rw [hlanes, hin l hl, hx, Option.map_some]
    · exact arrives_written _ hhelper hd hs hfail hp
    · exact arrives_marked _ hhelper hfail hp hd
  · obtain ⟨hi, -, hp⟩ := groupAt_found hg
    simp only [Bool.and_eq_true] at hp
    obtain rfl : i = 0 := by
      have := (List.getElem?_eq_some_iff.1 hi).1
      rw [hgs, List.length_singleton] at this
      omega
    obtain ⟨z, hz, hzc⟩ := settleOp_counts ho hk hgs hp.1 hc hf hrest hops hv
    obtain rfl : z = v' := Option.some.inj (hz.symm.trans hv')
    rw [hzc, hcount]

end Sys2Proof.Machine
end

section
/-! SUPPORT. The completion time of an operation that ends: its own while it is in flight, and its wave's once it is counted out (R334). -/

namespace Sys2Proof.Machine

/-- Two searches, each of which accepts what the other finds, find the same. -/
theorem find?_eq_find? {α : Type} {l : List α} {p q : α → Bool} {a b : α} (hp : l.find? p = some a) (hq : l.find? q = some b)
    (ha : q a = true) (hb : p b = true) : a = b := by
  induction l with
  | nil => simp at hp
  | cons x l ih =>
    by_cases hxp : p x = true
    · obtain rfl : x = a := by simpa [List.find?_cons_of_pos hxp] using hp
      simpa [List.find?_cons_of_pos ha] using hq
    · rw [List.find?_cons_of_neg hxp] at hp
      by_cases hxq : q x = true
      · obtain rfl : x = b := by simpa [List.find?_cons_of_pos hxq] using hq
        exact absurd hb hxp
      · rw [List.find?_cons_of_neg hxq] at hq
        exact ih hp hq

theorem memOp?_dropMemOp_ne (s : State) {n m : Nat} (h : n ≠ m) : (s.dropMemOp n).memOp? m = s.memOp? m := by
  simp only [State.memOp?, State.dropMemOp, List.find?_filter]
  refine List.find?_congr fun o _ => ?_
  by_cases ho : o.id = m <;> simp [ho, Ne.symm h]

/-- An operation of a wave is in flight with at least a completion time, or the wave's clock has it. -/
structure EndsBy (s : State) (r : WaveRef) (n c : Nat) : Prop where
  wave : ∃ w, s.wave? r = some w
  done : (∃ p, s.memOp? n = some p ∧ c ≤ p.completion ∧ p.counted = true ∧ p.wave = r) ∨ ∃ v, s.wave? r = some v ∧ c ≤ v.ltc

theorem EndsBy.drainMem {s : State} {r : WaveRef} {n c : Nat} (h : EndsBy s r n c) (fuel : Nat) : EndsBy (State.drainMem r fuel s) r n c := by
  induction fuel generalizing s with
  | zero => exact h
  | succ k ih =>
    unfold State.drainMem
    split
    · exact h
    · next o ho =>
      split
      · obtain ⟨w, hw⟩ := h.wave
        have hw2 : (s.countOut r 0 o.completion).wave? r = some ((w.modCounter 0 (· - 1)).fold o.completion) := by
          rw [State.countOut, State.wave?_modWave, hw, Option.map_some]
        have hop : (s.countOut r 0 o.completion).memOp? n = s.memOp? n := by simp [State.memOp?, State.countOut]
        simp only [foldLaunch_wave hw2]
        refine ih ?_
        have hwave : (if o.answered then (s.countOut r 0 o.completion).dropMemOp o.id
            else (s.countOut r 0 o.completion).modMemOp o.id (fun p => { p with counted := false })).wave? r =
              some ((w.modCounter 0 (· - 1)).fold o.completion) := by
          split
          · rw [wave?_dropMemOp, hw2]
          · rw [wave?_modMemOp, hw2]
        refine ⟨⟨_, hwave⟩, ?_⟩
        rcases h.done with ⟨p, hp, hc, hcounted, hpr⟩ | ⟨v, hv, hc⟩
        · by_cases hn : o.id = n
          · obtain rfl : p = o := find?_eq_find? hp ho (by simp [hcounted, hpr]) (by simpa using hn)
            exact .inr ⟨_, hwave, Nat.le_trans hc (Nat.le_max_right _ _)⟩
          · refine .inl ⟨p, ?_, hc, hcounted, hpr⟩
            split
            · rw [memOp?_dropMemOp_ne _ hn, hop, hp]
            · refine (memOp?_modMemOp _ _ _ fun _ => by rfl).trans ?_
              rw [hop, hp, Option.map_some, if_neg (by simpa [memOp?_id hp] using Ne.symm hn)]
        · obtain rfl : w = v := Option.some.inj (hw.symm.trans hv)
          exact .inr ⟨_, hwave, Nat.le_trans hc (Nat.le_max_left _ _)⟩
      · exact h

theorem EndsBy.endOp {s : State} {o : MemOp} {c : Nat} (ho : s.memOp? o.id = some o) (hw : ∃ w, s.wave? o.wave = some w)
    (hc : o.counted = true) (hle : c ≤ o.completion) : EndsBy (s.endOp o) o.wave o.id c := by
  rw [State.endOp, if_neg (by simp [hc])]
  have hover : (s.modMemOp o.id (·.over o.completion)).memOp? o.id = some (o.over o.completion) := memOp?_modMemOp_self ho fun _ => rfl
  refine EndsBy.drainMem ⟨?_, .inl ⟨o.over o.completion, hover, hle, hc, rfl⟩⟩ _
  obtain ⟨w, hw⟩ := hw
  exact ⟨w, (wave?_modMemOp ..).trans hw⟩

/-- A store or an atomic that is settled has its completion time, or its wave has. -/
theorem EndsBy.settleOp {s : State} {o : MemOp} {c : Nat} (ho : s.memOp? o.id = some o) (hw : ∃ w, s.wave? o.wave = some w)
    (hc : o.counted = true) (hle : c ≤ o.completion) (hk : o.kind = .store ∨ ∃ sub wide ret, o.kind = .atomic sub wide ret) :
    EndsBy (s.settleOp o.id) o.wave o.id c := by
  have hstay : EndsBy s o.wave o.id c := ⟨hw, .inl ⟨o, ho, hle, hc, rfl⟩⟩
  have hend := EndsBy.endOp ho hw hc hle
  simp only [State.settleOp, ho]
  split
  · rcases hk with hk | ⟨sub, wide, ret, hk⟩
    · simpa only [hk] using hend
    · simp only [hk, hc, Bool.true_and]
      cases o.ended with
      | true => simpa [ho, hc] using hstay
      | false =>
        simp only [Bool.not_false, if_true]
        split
        · exact hend
        · next p hp =>
          split
          · next hd =>
            refine ⟨hend.wave.imp fun w h => (wave?_dropMemOp ..).trans h, .inr ?_⟩
            rcases hend.done with ⟨q, hq, -, hqc, -⟩ | ⟨v, hv, hvc⟩
            · obtain rfl : p = q := Option.some.inj (hp.symm.trans hq)
              simp [hqc] at hd
            · exact ⟨v, (wave?_dropMemOp ..).trans hv, hvc⟩
          · exact hend
  · exact hstay

end Sys2Proof.Machine
end

section
/-! SUPPORT. A store or an atomic performed at the home of a line held alone (R254, R263, R325). -/

namespace Sys2Proof.Machine

/-- A page without scope checks lets every lane pass. -/
theorem checkScopes_unchecked {a : PageAttr} (h : a.scopeCheck = false) (s : State) (o : MemOp) (line : Nat) (ls : List OpLane) :
    s.checkScopes o a line ls = (ls, s) := by
  induction ls with
  | nil => rfl
  | cons l ls ih => simp [State.checkScopes, State.checkScope, h, ih]

/-- An operation with one of its groups performed, and a completion time that its own is at least. -/
def State.groupDone (s : State) (n i : Nat) (g : OpGroup) (c : Nat) : State :=
  (s.setGroup n i g).modMemOp n (fun p => { p with completion := max p.completion c })

theorem memOp?_groupDone {s : State} {o : MemOp} (ho : s.memOp? o.id = some o) (i : Nat) (g : OpGroup) (c : Nat) :
    (s.groupDone o.id i g c).memOp? o.id = some { o with groups := setAt o.groups i g, completion := max o.completion c } :=
  memOp?_modMemOp_self (o := { o with groups := setAt o.groups i g }) (memOp?_setGroup ho) fun _ => rfl

theorem wave?_groupDone (s : State) (n i : Nat) (g : OpGroup) (c : Nat) (r : WaveRef) : (s.groupDone n i g c).wave? r = s.wave? r :=
  (wave?_modMemOp ..).trans (wave?_modMemOp ..)

theorem SameHomes.groupDone (s : State) (n i : Nat) (g : OpGroup) (c : Nat) : SameHomes s (s.groupDone n i g c) := ⟨rfl, rfl, rfl, rfl, rfl, rfl⟩

/-- What a group performed leaves once its operation is settled: memory and the line as they were, the group as it was set, and the completion
time. -/
theorem settle_groupDone {t v : State} {o : MemOp} {i c : Nat} {g h : OpGroup} (ho : t.memOp? o.id = some o)
    (hw : (t.wave? o.wave).isSome = true) (hc : o.counted = true)
    (hk : o.kind = .store ∨ ∃ sub wide ret, o.kind = .atomic sub wide ret) (hg : o.groups[i]? = some g)
    (hv : LinesKept (t.groupDone o.id i h c) v) :
    (v.settleOp o.id).mem = t.mem ∧ (∀ part line, (v.settleOp o.id).homeLine part line = t.homeLine part line) ∧
      (∀ q, (v.settleOp o.id).memOp? o.id = some q → q.groups[i]? = some h) ∧ EndsBy (v.settleOp o.id) o.wave o.id c := by
  have hop : v.memOp? o.id = some { o with groups := setAt o.groups i h, completion := max o.completion c } := by
    rw [← memOp?_groupDone ho, State.memOp?, State.memOp?, hv.memOps]
  have hwave : ∃ w, v.wave? o.wave = some w :=
    Option.isSome_iff_exists.1 (by rw [hv.waves, wave?_groupDone]; exact hw)
  have hsettle := OpsEnded.settleOp v o.id
  refine ⟨hsettle.mem.trans hv.mem, fun part line => ?_, fun q hq => ?_, ?_⟩
  · rw [(Counted.settleOp v o.id).homes.kept.homeLine, hv.homeLine, (SameHomes.groupDone ..).kept.homeLine]
  · obtain ⟨p, hp, hgroups, -⟩ := hsettle.ops _ q hq
    obtain rfl := Option.some.inj (hop.symm.trans hp)
    rw [hgroups, getElem?_setAt, if_pos rfl, hg]
    rfl
  · exact EndsBy.settleOp (o := { o with groups := setAt o.groups i h, completion := max o.completion c }) hop hwave hc
      (Nat.le_max_right ..) hk

theorem EndsBy.ended {s : State} {r : WaveRef} {n c : Nat} (h : EndsBy s r n c) :
    (∃ p, s.memOp? n = some p ∧ c ≤ p.completion) ∨ ∃ v, s.wave? r = some v ∧ c ≤ v.ltc :=
  h.done.imp_left fun ⟨p, hp, hc, _⟩ => ⟨p, hp, hc⟩

/-- A write that is no full-line write of its line is performed as a partial one. -/
theorem performWrite_partial {s : State} {part line j : Nat} {x : Tag} (h : HeldAlone s part line j x) (space : Nat) {a : PageAttr}
    {ws scales : List (Nat × Byte)} (hf : isFullLine (s.layoutAt part line a) ws scales = false) (poison : Bool) :
    s.performWrite part space line a ws scales true poison = s.performWrite part space line a ws scales false poison := by
  have h1 := HomesKept.fireOverdue h.unspilled
  have hl : (s.fireOverdue part line).layoutAt part line a = s.layoutAt part line a := by
    simp only [State.layoutAt, h1.homeOf, h1.homeTag]
  simp only [State.performWrite, State.applyWrite, hl, hf, Bool.and_false]

/-- What a partial write of a line held alone keeps: the operations in flight and which waves there are. -/
theorem performWrite_ops (s : State) (part space line : Nat) (a : PageAttr) (ws scales : List (Nat × Byte)) (whole poison : Bool) (n : Nat)
    (r : WaveRef) : (s.performWrite part space line a ws scales whole poison).1.memOp? n = s.memOp? n ∧
      ((s.performWrite part space line a ws scales whole poison).1.wave? r).isSome = (s.wave? r).isSome := by
  have h := (State.SameCare.refl s).performWrite (part := part) (space := space) (line := line) (a := a) (ws := ws) (scales := scales)
    (whole := whole) (poison := poison)
  exact ⟨by rw [State.memOp?, State.memOp?, h.memOps], h.waves r⟩

/-- An atomic that writes nothing leaves a line held alone, memory, the operations in flight, and which waves there are. -/
theorem touchWrite_heldAlone {s : State} {part line j : Nat} {x : Tag} (h : HeldAlone s part line j x) (space : Nat) (a : PageAttr) (n : Nat)
    (r : WaveRef) :
    let t := s.touchWrite part space line a
    t.mem = s.mem ∧ (t.homeLine part line).1 = (s.homeLine part line).1 ∧ t.memOp? n = s.memOp? n ∧
      (t.wave? r).isSome = (s.wave? r).isSome := by
  have h1 := HomesKept.fireOverdue h.unspilled
  have hs1 := h1.heldAlone h
  obtain ⟨-, hmem, -, hline⟩ := applyWrite_heldAlone_homeLine hs1 space a [] [] false
  have heq : s.touchWrite part space line a = (s.fireOverdue part line).applyWrite part space line a [] [] false false := by
    simp only [State.touchWrite, State.otherHolders_nil hs1.others, State.rereadOthers, List.filter_nil, List.foldl_nil]
  have hcare : s.SameCare (s.touchWrite part space line a) := heq ▸ (State.SameCare.refl s).fireOverdue.applyWrite
  refine ⟨?_, ?_, by rw [State.memOp?, State.memOp?, hcare.memOps], hcare.waves r⟩
  · rw [heq, hmem, h1.mem]
  · rw [heq, hline, h1.homeLine]
    rfl

section Written

variable {s : State} {o : MemOp} {i line j : Nat} {g : OpGroup} {t : Tag} (ho : s.memOp? o.id = some o)
  (hw : (s.wave? o.wave).isSome = true) (hp : isPod (128 * line) = false) (hs : g.attr.scopeCheck = false)
  (hg : o.groupAt line (fun h => !h.performed) = some (i, g)) (hr : s.released o = true) (hord : s.writeOrdered o g = true)
  (hfree : ∀ p ∈ s.groupPoints o g, s.throttled p = false) (hc : o.counted = true) (hheld : HeldAlone s o.part line j t)
include ho hw hp hs hg hr hord hfree hc hheld

omit hw hc in
/-- A store that may be performed, and waits for nothing. -/
theorem exec_writePerform (hl : g.lanes ≠ []) (hk : o.kind = .store) (hq : o.qual = 0)
    (hf : isFullLine (s.layoutAt o.part line g.attr) g.writes g.scaleWrites = false) :
    let w := s.performWrite o.part o.space line g.attr g.writes g.scaleWrites false false
    ∃ v, LinesKept (w.1.groupDone o.id i { g with performed := true } w.2) v ∧ exec (.writePerform o.id line) s = .next (v.settleOp o.id) := by
  obtain ⟨-, rfl, -⟩ := groupAt_found hg
  intro w
  have hnow : s.storeNow o i g =
      ((if g.l1 then w.1.groupDone o.id i { g with performed := true } w.2
        else (w.1.groupDone o.id i { g with performed := true } w.2).l1Drop o.core o.part g.line).barReplica o.core o.part g.line).settleOp
          o.id := by
    have hcheck : (if o.release then s.checkScopes o g.attr g.line g.lanes else (g.lanes, s)) = (g.lanes, s) := by
      rw [checkScopes_unchecked hs, ite_self]
    simp only [State.storeNow, hcheck, List.isEmpty_iff, hl, if_false, State.afterStore, hq, performWrite_partial hheld o.space hf]
    rfl
  have hfenced : s.device.fenced = false := by
    simp only [State.released, Bool.and_eq_true, Bool.not_eq_true'] at hr
    exact hr.1
  have hexec : exec (.writePerform o.id g.line) s = .next (s.storeNow o i g) := by
    show execWritePerform o.id g.line s = _
    simp [execWritePerform, ho, State.writeEvent, hk, hg, State.storePerform, hr, hp, hord, hfenced,
      regulated_held hfree hheld.home hheld.tag]
  rw [hexec, hnow]
  refine ⟨_, LinesKept.trans ?_ (LinesKept.barReplica _ o.core o.part g.line), rfl⟩
  split
  · exact .refl _
  · exact .l1Drop _ _ _ _

/-- What a store leaves: its bytes in the line at home, and its completion time. -/
theorem writePerform_store (hl : g.lanes ≠ []) (hk : o.kind = .store) (hq : o.qual = 0)
    (hf : isFullLine (s.layoutAt o.part line g.attr) g.writes g.scaleWrites = false) :
    ∃ u : State, exec (.writePerform o.id line) s = .next u ∧ u.mem = s.mem ∧
      (u.homeLine o.part line).1 = writeOffsets (s.homeLine o.part line).1 g.writes ∧
      EndsBy u o.wave o.id (max (s.leaseNow (s.homeDie o.part line)) t.lease + 2) := by
  obtain ⟨v, hv, hexec⟩ := exec_writePerform ho hp hs hg hr hord hfree hheld hl hk hq hf
  obtain ⟨-, hmem, hline⟩ := performWrite_heldAlone hheld o.space g.attr g.writes g.scaleWrites false
  obtain ⟨hop, hwave⟩ := performWrite_ops s o.part o.space line g.attr g.writes g.scaleWrites false false o.id o.wave
  obtain ⟨hm, hh, -, he⟩ := settle_groupDone (hop.trans ho) (hwave.trans hw) hc (.inl hk) (groupAt_found hg).1 hv
  exact ⟨_, hexec, hm.trans hmem, by rw [hh, hline], by rw [← performWrite_completion hheld]; exact he⟩

omit hw hc in
/-- An atomic of one lane that may be performed, and waits for nothing: the lane's old value, and what its new one leaves at home. -/
theorem exec_atomicPerform {sub : Nat} {wide ret : Bool} {l : OpLane} (hk : o.kind = .atomic sub wide ret) (hl : g.lanes = [l])
    (hline : l.pa / 128 = line) :
    let r := (s.useLine o.part line).atomLane o g.attr line sub wide l
    let old := s.homeNat o.part l.pa l.size
    r.1 = some old ∧ ∃ v, LinesKept (r.2.2.groupDone o.id i { g with performed := true, vals := [(l.lane, old)] } r.2.1) v ∧
      exec (.atomicPerform o.id line) s = .next (v.settleOp o.id) := by
  obtain ⟨-, rfl, -⟩ := groupAt_found hg
  intro r old
  have hu := LinesKept.useLine s o.part g.line
  have hr1 : r.1 = some old := by
    have hold : (s.useLine o.part g.line).homeNat o.part l.pa l.size = old := by
      simp only [old, State.homeNat, State.homeBytes, hu.homeLine]
    simp only [r, State.atomLane, State.checkScope, hs, Bool.not_false, if_true, Bool.not_true, Bool.false_eq_true, if_false, hold]
    split <;> rfl
  refine ⟨hr1, ?_⟩
  have hnow : s.atomNow o i g sub wide =
      (((r.2.2.groupDone o.id i { g with performed := true, vals := [(l.lane, old)] } r.2.1).l1Drop o.core o.part g.line).barReplica o.core
        o.part g.line).settleOp o.id := by
    have hpoison : ((s.useLine o.part g.line).homeLine o.part g.line).2.2 = false := by
      rw [hu.homeLine, State.homeLine_of_homeTag hheld.home hheld.tag]
      exact hheld.own.2.1
    have hlanes : State.atomLanes o g.attr g.line sub wide g.lanes (s.useLine o.part g.line) = ([(l.lane, old)], r.2.1, r.2.2) := by
      rw [hl]
      simp only [State.atomLanes]
      rw [show (s.useLine o.part g.line).atomLane o g.attr g.line sub wide l = r from rfl, hr1]
      simp
    have hg' : ({ g with lanes := g.lanes.filter (fun m => [(l.lane, old)].any (fun v => v.1 == m.lane)), performed := true
                         vals := [(l.lane, old)] } : OpGroup) = { g with performed := true, vals := [(l.lane, old)] } := by
      have hfilter : g.lanes.filter (fun m => [(l.lane, old)].any (fun v => v.1 == m.lane)) = g.lanes := by simp [hl]
      rw [hfilter]
    simp only [State.atomNow, fillLine_held hheld.home hheld.tag, hpoison, Bool.false_eq_true, if_false, hlanes, hg']
    rfl
  have hexec : exec (.atomicPerform o.id g.line) s = .next (s.atomNow o i g sub wide) := by
    show execAtomicPerform o.id g.line s = _
    simp [execAtomicPerform, ho, hk, hg, State.atomPerform, hr, hp, hord, regulated_held hfree hheld.home hheld.tag]
  rw [hexec, hnow]
  exact ⟨_, (LinesKept.l1Drop _ o.core o.part g.line).trans (LinesKept.barReplica _ o.core o.part g.line), rfl⟩

/-- What an atomic of one lane leaves: the lane's old value, and its new one, if it has one, in the line at home. -/
theorem atomicPerform_one {sub : Nat} {wide ret : Bool} {l : OpLane} (hk : o.kind = .atomic sub wide ret) (hl : g.lanes = [l])
    (hline : l.pa / 128 = line) :
    let old := s.homeNat o.part l.pa l.size
    (atomNew sub wide old l.data l.swap = none → ∃ u : State, exec (.atomicPerform o.id line) s = .next u ∧ u.mem = s.mem ∧
      (u.homeLine o.part line).1 = (s.homeLine o.part line).1 ∧
      ∀ q, u.memOp? o.id = some q → q.groups[i]? = some { g with performed := true, vals := [(l.lane, old)] }) ∧
    ∀ x, atomNew sub wide old l.data l.swap = some x →
      ∃ u : State, exec (.atomicPerform o.id line) s = .next u ∧ u.mem = s.mem ∧
        (u.homeLine o.part line).1 =
          writeOffsets (s.homeLine o.part line).1 (mapIdx' (fun k b => (l.pa % 128 + k, b)) (bytesLE l.size x)) ∧
        (∀ q, u.memOp? o.id = some q → q.groups[i]? = some { g with performed := true, vals := [(l.lane, old)] }) ∧
        EndsBy u o.wave o.id (max (s.leaseNow (s.homeDie o.part line)) t.lease + 2) := by
  intro old
  obtain ⟨-, v, hv, hexec⟩ := exec_atomicPerform ho hp hs hg hr hord hfree hheld hk hl hline
  have hu := LinesKept.useLine s o.part line
  have hu_held := hu.heldAlone hheld
  have hold : (s.useLine o.part line).homeNat o.part l.pa l.size = old := by
    simp only [old, State.homeNat, State.homeBytes, hu.homeLine]
  have hu_op : (s.useLine o.part line).memOp? o.id = some o := by rw [State.memOp?, hu.memOps]; exact ho
  have hu_wave : ((s.useLine o.part line).wave? o.wave).isSome = true := by rw [hu.waves]; exact hw
  have settled (hop : ((s.useLine o.part line).atomLane o g.attr line sub wide l).2.2.memOp? o.id = some o)
      (hwave : (((s.useLine o.part line).atomLane o g.attr line sub wide l).2.2.wave? o.wave).isSome = true) :=
    settle_groupDone hop hwave hc (.inr ⟨_, _, _, hk⟩) (groupAt_found hg).1 hv
  refine ⟨fun hn => ?_, fun x hx => ?_⟩
  · have hr : (s.useLine o.part line).atomLane o g.attr line sub wide l = (some old, (s.useLine o.part line).leaseNow
        ((s.useLine o.part line).homeDie o.part line), (s.useLine o.part line).touchWrite o.part o.space line g.attr) := by
      simp [State.atomLane, State.checkScope, hs, hold, hn]
    obtain ⟨hmem, hline', hop, hwave⟩ := touchWrite_heldAlone hu_held o.space g.attr o.id o.wave
    obtain ⟨hm, hh, hq, -⟩ := settled (by rw [hr]; exact hop.trans hu_op) (by rw [hr]; exact hwave.trans hu_wave)
    rw [hr] at hm hh
    exact ⟨_, hexec, (hm.trans hmem).trans hu.mem, by rw [hh, hline', hu.homeLine], hq⟩
  · have hr : (s.useLine o.part line).atomLane o g.attr line sub wide l =
        (some old, ((s.useLine o.part line).performWrite o.part o.space line g.attr
          (mapIdx' (fun k b => (l.pa % 128 + k, b)) (bytesLE l.size x)) [] false false).2,
          ((s.useLine o.part line).performWrite o.part o.space line g.attr
          (mapIdx' (fun k b => (l.pa % 128 + k, b)) (bytesLE l.size x)) [] false false).1) := by
      simp [State.atomLane, State.checkScope, hs, hold, hx]
    obtain ⟨-, hmem, hline'⟩ := performWrite_heldAlone hu_held o.space g.attr (mapIdx' (fun k b => (l.pa % 128 + k, b)) (bytesLE l.size x)) []
      false
    obtain ⟨hop, hwave⟩ := performWrite_ops (s.useLine o.part line) o.part o.space line g.attr
      (mapIdx' (fun k b => (l.pa % 128 + k, b)) (bytesLE l.size x)) [] false false o.id o.wave
    obtain ⟨hm, hh, hq, he⟩ := settled (by rw [hr]; exact hop.trans hu_op) (by rw [hr]; exact hwave.trans hu_wave)
    rw [hr] at hm hh he
    refine ⟨_, hexec, (hm.trans hmem).trans hu.mem, by rw [hh, hline', hu.homeLine], hq, ?_⟩
    rw [performWrite_completion hu_held, hu.homeDie, hu.leaseNow] at he
    exact he

end Written

end Sys2Proof.Machine
end

section
/-! SUPPORT. A cluster message in its target's scratchpad, the ends of the waits of the lease clock, and a request at its core's bucket (R39,
R267, R329, R330, R335). -/

namespace Sys2Proof.Machine

section Message

variable {s : State} {o : MemOp} {i line : Nat} {g : OpGroup} {sub : Nat} {ret : Bool} {l : OpLane} {b : Block} (ho : s.memOp? o.id = some o)
  (hg : o.groupAt line (fun h => !h.performed) = some (i, g)) (hr : s.released o = true) (hk : o.kind = .ratom sub ret) (hl : g.lanes = [l])
  (ht : s.throttled (.core o.core) = false) (he : s.ratomEarlier o l = false) (hb : s.block? l.target.1 = some b) (hp : b.place ≠ .unplaced)
include ho hg hr hk hl ht he hb hp

/-- A cluster message that nothing holds back acts in its target's scratchpad. -/
theorem exec_ratomPerform : exec (.ratomPerform o.id line) s =
    .next ((((s.modBlock l.target.1 (fun b => (b.scratchAtom sub l.target.2 l.data l.swap).1)).setGroup o.id i
      { g with performed := true, vals := [(l.lane, b.scratchNat l.target.2 4)] })).settleOp o.id) := by
  show execRatomPerform o.id line s = _
  have hpass : s.passPoint o g (o.payload g) (.core o.core) = (true, g, s) := by
    rw [State.passPoint, if_pos (by simp [ht])]
  simp [execRatomPerform, ho, hk, hg, hl, hpass, hr, he, hb, hp]

/-- What a cluster message leaves: its word in the target's scratchpad, and the old one with its group. -/
theorem ratomPerform_one (hwf : cellsWf 0 b.scratch = true) :
    let old := b.scratchNat l.target.2 4
    ∃ (u : State) (k : Block), exec (.ratomPerform o.id line) s = .next u ∧ u.block? l.target.1 = some k ∧ u.mem = s.mem ∧
      (∀ q, u.memOp? o.id = some q → q.groups[i]? = some { g with performed := true, vals := [(l.lane, old)] }) ∧
      (∀ x, atomNew sub false old l.data l.swap = some x → k.scratchNat l.target.2 4 = x % 2 ^ 32) ∧
      (atomNew sub false old l.data l.swap = none → k.scratch = b.scratch) ∧
      ∀ a, a < l.target.2 ∨ l.target.2 + 4 ≤ a → cellGet 0 k.scratch a = cellGet 0 b.scratch a := by
  intro old
  have hblock : ((s.modBlock l.target.1 (fun b => (b.scratchAtom sub l.target.2 l.data l.swap).1)).setGroup o.id i
      { g with performed := true, vals := [(l.lane, old)] }).block? l.target.1 = some (b.scratchAtom sub l.target.2 l.data l.swap).1 := by
    refine (s.block?_modBlock l.target.1 l.target.1 (fun b => (b.scratchAtom sub l.target.2 l.data l.swap).1) fun k => ?_).trans ?_
    · rw [Block.scratchAtom_block]
      cases atomNew sub false (k.scratchNat l.target.2 4) l.data l.swap <;> rfl
    · rw [if_pos rfl, hb]
      rfl
  obtain ⟨k, hk', hscratch⟩ := (Counted.settleOp _ o.id).blocks _ _ hblock
  have hsettle := OpsEnded.settleOp ((s.modBlock l.target.1 (fun b => (b.scratchAtom sub l.target.2 l.data l.swap).1)).setGroup o.id i
    { g with performed := true, vals := [(l.lane, old)] }) o.id
  have hnat (n : Nat) : k.scratchNat n 4 = (b.scratchAtom sub l.target.2 l.data l.swap).1.scratchNat n 4 := by
    simp only [Block.scratchNat, Block.scratchBytes, hscratch]
  refine ⟨_, k, exec_ratomPerform ho hg hr hk hl ht he hb hp, hk', hsettle.mem, fun q hq => ?_, fun x hx => ?_, fun hn => ?_, fun a ha => ?_⟩
  · obtain ⟨p, hp', hgroups, -⟩ := hsettle.ops _ q hq
    have hop := memOp?_setGroup (s := s.modBlock l.target.1 (fun b => (b.scratchAtom sub l.target.2 l.data l.swap).1)) (i := i)
      (g := { g with performed := true, vals := [(l.lane, old)] }) ho
    obtain rfl := Option.some.inj (hop.symm.trans hp')
    rw [hgroups, getElem?_setAt, if_pos rfl, (groupAt_found hg).1]
    rfl
  · rw [hnat, Block.scratchAtom_block, hx, Option.map_some, Option.getD_some]
    have h := congrArg BitVec.toNat (Block.scratchNat_putScratch hwf l.target.2 x)
    rwa [BitVec.toNat_ofNat, BitVec.toNat_ofNat, Nat.mod_eq_of_lt (Block.scratchNat_lt _ _)] at h
  · rw [hscratch, Block.scratchAtom_block, hn]
    rfl
  · rw [hscratch, Block.scratchAtom_outside b sub l.target.2 l.data l.swap hwf ha]

end Message

/-- A release proceeds once its waits are over. -/
theorem leaseWaitEnd_release {s : State} {o : MemOp} (ho : s.memOp? o.id = some o) (hr : o.release = true) :
    exec (.leaseWaitEnd (.release o.id)) s =
      .next (if s.releaseReady o then s.modMemOp o.id (fun p => { p with relDone := true }) else s) := by
  show execLeaseWaitEnd (.release o.id) s = _
  simp [execLeaseWaitEnd, ho, hr]

/-- The fences of a wave whose waits are over hold it no longer. -/
theorem leaseWaitEnd_fence {s : State} {r : WaveRef} {w : Wave} (hw : s.wave? r = some w) :
    ∃ f : Wave → Wave, exec (.leaseWaitEnd (.fence r)) s = .next (s.modWave r f) ∧ f w = { w with holds := (f w).holds } ∧
      ∀ h, h ∈ (f w).holds ↔ h ∈ w.holds ∧ ¬ ∃ scope kind upTo : Nat, h = .fence scope kind upTo ∧
        s.fenceMade r scope kind upTo = true ∧ (fenceLeases scope kind = true → w.ltc < s.nowOf r) := by
  refine ⟨_, rfl, rfl, fun h => ?_⟩
  rw [List.mem_filter]
  refine and_congr_right fun _ => ?_
  cases h with
  | fence scope kind upTo => cases hm : s.fenceMade r scope kind upTo <;> simp [hw, hm]
  | _ => simp

/-- A write of the host or a peer is complete once the lease clock has passed its completion time. -/
theorem leaseWaitEnd_completion {s : State} {p : PendingWrite} (hp : s.pendingWrites.find? (fun q => q.id == p.id) = some p) :
    (s.leaseNow p.die ≤ p.completion → exec (.leaseWaitEnd (.completion p.id)) s = .next s) ∧
    (p.completion < s.leaseNow p.die → exec (.leaseWaitEnd (.completion p.id)) s = .next { s with
      pendingWrites := s.pendingWrites.filter (fun q => q.id != p.id)
      outputs := s.outputs ++ [match p.peer with
        | none => .hostDone p.id
        | some d => if p.reply = [] then .peerAck d else .peerData d p.reply false] }) := by
  have hexec : exec (.leaseWaitEnd (.completion p.id)) s = execLeaseWaitEnd (.completion p.id) s := rfl
  rw [hexec]
  refine ⟨fun h => ?_, fun h => ?_⟩
  · simp only [execLeaseWaitEnd, hp, decide_eq_true_eq, Nat.not_lt.2 h, if_false]
  · simp only [execLeaseWaitEnd, hp, decide_eq_true_eq, h, if_true, State.emit, List.isEmpty_iff] <;> cases p.peer <;> rfl

/-- A request held at its core's bucket passes it when enough tokens have accrued. -/
theorem bucketRelease_core {s : State} {o : MemOp} {i line : Nat} {g : OpGroup} (ho : s.memOp? o.id = some o) (hp : isPod (128 * line) = false)
    (hg : o.groupAt line (fun h => !h.performed && h.points.testBit 3) = some (i, g)) (h0 : g.points.testBit 0 = false)
    (ht : s.throttled (.core o.core) = true) (hh : s.heldBefore o (.core o.core) = false) :
    let point := BucketPoint.core o.core
    let b := (s.bucketAt point).accrue (s.bucketReg point) s.clock
    let need := 1024 * ((o.payload g + 63) / 64)
    exec (.bucketRelease point o.id line) s = .next (
      if need ≤ b.level ∧ (s.bucketAt point).since ≤ s.clock then
        (s.setBucket { b with level := b.level - need } point).setGroup o.id i { g with points := setBit g.points 0 true }
      else s.setGroup o.id i { g with points := setBit g.points 3 true }) := by
  intro point b need
  obtain ⟨-, rfl, -⟩ := groupAt_found hg
  show execBucketRelease (.core o.core) o.id g.line s = _
  have hpoint : (s.groupPoints o g).contains point = true := by simp [point, State.groupPoints, hp, State.linePoints]
  have htake : s.takeTokens point (o.payload g) = if need ≤ b.level ∧ (s.bucketAt point).since ≤ s.clock then
      some (s.setBucket { b with level := b.level - need } point) else none := by
    simp only [State.takeTokens, point, ht, if_true, Bucket.take, Bool.and_eq_true, decide_eq_true_eq]
    exact apply_ite _ _ _ _
  have hpass : s.passPoint o g (o.payload g) point =
      match s.takeTokens point (o.payload g) with
      | some t => (true, { g with points := setBit g.points 0 true }, t)
      | none => (false, { g with points := setBit g.points 3 true }, s) := by
    simp only [State.passPoint, point, ht, pointIndex, h0, hh]
    rfl
  have hexec : execBucketRelease point o.id g.line s =
      .next ((s.passPoint o g (o.payload g) point).2.2.setGroup o.id i (s.passPoint o g (o.payload g) point).2.1) := by
    simp only [execBucketRelease, ho]
    rw [show (3 + pointIndex point) = 3 from rfl, hg]
    exact congrArg _ (if_pos hpoint)
  rw [hexec, hpass, htake]
  by_cases hc : need ≤ b.level ∧ (s.bucketAt point).since ≤ s.clock
  · simp only [if_pos hc]
  · simp only [if_neg hc]

end Sys2Proof.Machine
end

section
/-! SUPPORT. A page walk, whose leaf enters the TLBs, and a granule that an engine reads (R207, R208, R261). -/

namespace Sys2Proof.Machine

/-- A read of the device's own at a line's home leaves the cores. -/
theorem ownRead_cores (s : State) (part pa n : Nat) : (s.ownRead part pa n).cores = s.cores := by
  have huse (s : State) : (s.useLine part (pa / 128)).cores = s.cores := by
    rw [State.useLine]
    split
    · rfl
    · split <;> rfl
  rw [State.ownRead, huse]
  refine List.foldlRecOn (motive := fun t : State => t.cores = s.cores) _ _ rfl fun t ht p hp => ?_
  obtain ⟨i, -, rfl⟩ : ∃ i, i ∈ (s.homeOf part (pa / 128)).toList ∧ BucketPoint.slice i = p := by
    simpa [State.hostPoints, eq_comm] using hp
  split <;> exact ht

theorem readWalk_cores (s : State) (part space va : Nat) : (s.readWalk part space va).cores = s.cores := by
  simp only [State.readWalk]
  split
  · rfl
  · exact foldl_keeps State.cores (fun s a => ownRead_cores s part a 8) _ s

/-- A leaf that a walk finds translates the address walked. -/
theorem walkFrom_covers {s : State} {part space va level table : Nat} {e : TlbEntry} (h : s.walkFrom part space va level table = .ok e) :
    e.covers part space va = true := by
  induction level generalizing table with
  | zero => simp [State.walkFrom] at h
  | succ n ih =>
    simp only [State.walkFrom] at h
    split at h
    · simp at h
    · split at h
      · split at h
        · simp at h
        · obtain rfl := Except.ok.inj h
          simp [TlbEntry.covers, Nat.mul_div_cancel _ (Nat.two_pow_pos _)]
      · split at h
        · simp at h
        · exact ih h

theorem walk_covers {s : State} {part space va : Nat} {e : TlbEntry} (h : s.walk part space va = .ok e) : e.covers part space va = true := by
  simp only [State.walk] at h
  split at h
  · simp at h
  · split at h
    · simp at h
    · exact walkFrom_covers h

/-- A space whose walk ends in a leaf is enabled. -/
theorem enabled_of_walk {s : State} {part space va : Nat} {e : TlbEntry} (h : s.walk part space va = .ok e) :
    bitOf (((s.part part).vf.aspRoot).getD space 0) 0 = true := by
  simp only [State.walk] at h
  split at h
  · simp at h
  · next hb => simpa using hb

/-- A space that is not enabled is not walked. -/
theorem readWalk_disabled {s : State} {part space : Nat} (h : bitOf (((s.part part).vf.aspRoot).getD space 0) 0 = false) (va : Nat) :
    s.readWalk part space va = s := by
  simp only [State.readWalk, h, Bool.not_false, Bool.true_or, if_true]

/-- An entry filled into a core that has none for an address is the one cached there. -/
theorem cachedXlat_fillTlb {s : State} {core part space va : Nat} {e : TlbEntry} (he : e.covers part space va = true)
    (hc : core < s.cores.length) (hn : (s.core core).tlb.find? (fun e => e.covers part space va) = none) :
    (s.fillTlb core e).cachedXlat core part space va = some e := by
  have hout : e ∉ (s.core core).tlb := fun hm => List.find?_eq_none.1 hn e hm he
  have hcore : ((s.fillTlb core e).core core).tlb = (e :: (s.core core).tlb).take 256 := by
    have hmod : ((s.modCore core (fun k => { k with tlb := if k.tlb.contains e then k.tlb else (e :: k.tlb).take 256 })).core core).tlb =
        (e :: (s.core core).tlb).take 256 := by
      rw [core_modCore, if_pos ⟨rfl, hc⟩]
      exact if_neg (by simpa using hout)
    simp only [State.fillTlb]
    split <;> exact hmod
  simp [State.cachedXlat, hcore, he]

/-- A page walk, of an address that no TLB translates. -/
theorem pageWalk_once (s : State) {core part space va : Nat} (hva : va < 2 ^ 57) :
    ((s.cachedXlat core part space va).isSome = true → exec (.pageWalk core part space va) s = .next s) ∧
    (s.cachedXlat core part space va = none → core < s.cores.length →
      (∀ f, s.walk part space va = .error f → exec (.pageWalk core part space va) s = .next (s.readWalk part space va)) ∧
      ∀ e, s.walk part space va = .ok e → ∃ u : State, exec (.pageWalk core part space va) s = .next u ∧
        u.cachedXlat core part space va = some e ∧ u.mem = s.mem ∧ u.parts = s.parts ∧ u.blocks = s.blocks) := by
  have hexec : exec (.pageWalk core part space va) s = .next (s.translate core part space va).2 := rfl
  have hnva : ¬ 2 ^ 57 ≤ va := by omega
  rw [hexec]
  refine ⟨fun hsome => ?_, fun hnone hcore => ⟨fun f hf => ?_, fun e he => ?_⟩⟩
  · obtain ⟨e, he⟩ := Option.isSome_iff_exists.1 hsome
    rw [State.translate]
    split
    · rfl
    · rw [he]
  · rw [State.translate]
    split
    · next hd => rw [readWalk_disabled (by simpa only [decide_eq_false hnva, Bool.false_or, Bool.not_eq_true'] using hd)]
    · rw [hnone, hf]
  · refine ⟨_, rfl, ?_, translate_keeps (get := State.mem) (fun _ _ _ => rfl) (fun _ _ _ => rfl) (fun _ _ => rfl) s core part space va,
      translate_keeps (get := State.parts) (fun _ _ _ => rfl) (fun _ _ _ => rfl) (fun _ _ => rfl) s core part space va,
      translate_keeps (get := State.blocks) (fun _ _ _ => rfl) (fun _ _ _ => rfl) (fun _ _ => rfl) s core part space va⟩
    have ht : s.translate core part space va = (.ok e, (s.readWalk part space va).fillTlb core e) := by
      rw [State.translate, if_neg (by simp only [decide_eq_false hnva, enabled_of_walk he]; decide), hnone, he]
    rw [ht]
    refine cachedXlat_fillTlb (walk_covers he) (by rw [readWalk_cores]; exact hcore) ?_
    rw [State.core, readWalk_cores, ← State.core]
    simp only [State.cachedXlat] at hnone
    split at hnone
    · simp at hnone
    · next hf => exact hf

/-- An event logged changes the device-wide state alone. -/
theorem logEvent_device (s : State) (unit kind : Nat) (value addr : Option Nat) :
    ∃ d, (s.logEvent unit kind value addr).2 = { s with device := d } := by
  obtain ⟨boots, serial, hs⟩ := takeSerial_modDevice s
  unfold State.logEvent
  dsimp only
  rw [hs]
  exact ⟨_, rfl⟩

/-- A granule that an engine operation may read is read. -/
theorem scratchpadBankAccess_reads {s : State} {op granule : Nat} {e : EngOp} {b : Block} (he : s.engOp? op = some e)
    (hb : s.block? e.uid = some b) (hs : (false, granule) ∈ s.sourcesOf e) (hc : e.captured (false, granule) = none)
    (hg : s.engGoes e = true) (hr : s.readable e (false, granule) = true) :
    ∃ u : State, exec (.scratchpadBankAccess op granule) s = .next u ∧ u.blocks = s.blocks ∧ u.mem = s.mem ∧
      u.engOp? op = some { e with reads := e.reads ++
        [⟨false, granule, b.scratchBytes (16 * granule) 16, [], b.poisonG.contains granule⟩] } := by
  obtain rfl : e.id = op := by simpa using List.find?_some he
  have hexec : exec (.scratchpadBankAccess e.id granule) s = .next (s.capture e.id (false, granule)) := by
    show execScratchpadBankAccess e.id granule s = _
    have hs' : (s.sourcesOf e).contains (false, granule) = true := by simpa using hs
    simp only [execScratchpadBankAccess, he, hc, Option.isNone_none, hs', Bool.and_self, if_true, State.readUnit, hg, podUnit, hr,
      Bool.false_and, Bool.not_true, Bool.or_self, Bool.false_eq_true, if_false, State.unitPoints, Bool.not_false, State.takeAll, Option.map_some,
      Option.getD_some]
  have hmod (r : EngRead) : (s.modEngOp e.id (fun x => { x with reads := x.reads ++ [r] })).engOp? e.id =
      some { e with reads := e.reads ++ [r] } := by
    simp only [State.engOp?, State.modEngOp_engOps, List.find?_map]
    rw [List.find?_congr (p₂ := fun o : EngOp => o.id == e.id) (fun x _ => by simp only [Function.comp]; split <;> rfl),
      show s.engOps.find? (fun o => o.id == e.id) = some e from he, Option.map_some, if_pos (by simp)]
  have hnow : s.unitNow e (false, granule) = ⟨false, granule, b.scratchBytes (16 * granule) 16, [], b.poisonG.contains granule⟩ := by
    simp only [State.unitNow, Bool.false_eq_true, if_false, hb]
  refine ⟨_, hexec, ?_⟩
  rw [State.capture, he]
  simp only [hc, Option.isSome_none, Bool.false_eq_true, if_false, hnow]
  split
  · obtain ⟨d, hd⟩ := logEvent_device (s.modEngOp e.id (fun x => { x with reads := x.reads ++
      [⟨false, granule, b.scratchBytes (16 * granule) 16, [], b.poisonG.contains granule⟩] })) e.logUnit 5 none none
    rw [hd]
    exact ⟨rfl, rfl, hmod _⟩
  · exact ⟨rfl, rfl, hmod _⟩

end Sys2Proof.Machine
end

section
/-! SUPPORT. A content placed at the home of a line that it does not hold (R230), and the side bytes that a layout gives (R217, R227). -/

namespace Sys2Proof.Machine

theorem length_cellRun {α : Type} (d : α) (l : Cells α) (a n : Nat) : (cellRun d l a n).length = n := by
  induction n generalizing a with
  | zero => rfl
  | succ n ih => rw [cellRun, List.length_cons, ih]

theorem length_rsGenerator (c : Nat) : (rsGenerator c).length = c + 1 := by
  induction c with
  | zero => rfl
  | succ c ih => simp [rsGenerator, polyTimesRoot, ih]

theorem length_rsCheck (c : Nat) (msg : List Nat) : (rsCheck c msg).length = c := by
  unfold rsCheck
  refine List.foldlRecOn (motive := fun st : List Nat => st.length = c) msg _ (List.length_replicate ..) fun st hst m _ => ?_
  simp only [List.length_zipWith, List.length_append, List.length_tail, hst, List.length_singleton, length_rsGenerator]
  omega

theorem length_sideFor (bound tolerant : Bool) (bfmt bk : Nat) (payload : List Byte) {scales : List Byte} (h : scales.length = 16) :
    (sideFor bound tolerant bfmt bk payload scales).length = 16 := by
  unfold sideFor
  dsimp only
  split
  · simp only [List.length_map, List.length_append, List.length_take, h, length_rsCheck]
    omega
  · rw [List.length_map, length_rsCheck]

/-- The content of a tag with a plate that has just been taken. -/
theorem content_newPlate {sl : Slice} {t : Tag} {bytes side : List Byte} (h : t.plate = some (sl.newPlate bytes side).2) :
    (sl.newPlate bytes side).1.content t = (bytes, side) := by
  have hget : cellGet (⟨[], [], 0⟩ : Plate) (cellSet ⟨[], [], 0⟩ sl.plates (freePlateFrom sl.plates 0) ⟨bytes, side, 1⟩)
      (freePlateFrom sl.plates 0) = ⟨bytes, side, 1⟩ := cellGet_cellSet_self _ _ _ (by simp)
  simp only [Slice.content, h]
  simp only [Slice.newPlate, hget]

/-- A plate put in a slot leaves the plates. -/
theorem registerSlot_plates {sl sl' : Slice} {hash domain p : Nat} (h : sl.registerSlot hash domain p = some sl') : sl'.plates = sl.plates := by
  unfold Slice.registerSlot at h
  dsimp only at h
  split at h
  · rw [← Option.some.inj h]
  · split at h
    · simp at h
    · rw [← Option.some.inj h]
      rfl

/-- The plate that a content joins has that content. -/
theorem scanCandidates_joined {sl : Slice} {domain p coll coll' : Nat} {bytes side : List Byte} {xs : List Slot} {full full' : Bool}
    (h : scanCandidates sl domain bytes side xs full coll = (some p, full', coll')) :
    (cellGet (⟨[], [], 0⟩ : Plate) sl.plates p).bytes = bytes ∧ (cellGet (⟨[], [], 0⟩ : Plate) sl.plates p).side = side := by
  induction xs generalizing full coll with
  | nil => simp [scanCandidates] at h
  | cons x xs ih =>
    rw [scanCandidates] at h
    split at h
    · next hx =>
      split at h
      · obtain rfl : x.plate = p := by simpa using congrArg (·.1) h
        simp only [Slice.slotEquals, Bool.and_eq_true, beq_iff_eq] at hx
        exact ⟨hx.1.2, hx.2⟩
      · exact ih h
    · exact ih h

/-- What a tag keeps when a content is placed for it: its line and its mark; one that is no replica stays so. -/
structure Tag.PlacedFrom (t t' : Tag) : Prop where
  line : t'.line = t.line
  poison : t'.poison = t.poison
  home : t.state ≠ .replica → t'.state ≠ .replica

theorem Tag.PlacedFrom.of_keep (t : Tag) {st : TagState} (h : st ≠ .replica) (p : Option Nat) :
    t.PlacedFrom { t with state := if t.state == .replica then .replica else st, plate := p } :=
  ⟨rfl, rfl, fun ht => by simpa [ht] using h⟩

/-- A slice and a tag to which a content has been placed for another tag: the content is the tag's, which keeps its line and its mark. -/
def Tag.Placed (t : Tag) (bytes side : List Byte) (r : Slice × ScCounters × Tag) : Prop :=
  r.1.content r.2.2 = (bytes, side) ∧ t.PlacedFrom r.2.2

/-- A new plate for a content, in a slot or in none. -/
theorem Tag.Placed.newPlate {sl sl' : Slice} {sc : ScCounters} (t : Tag) {bytes side : List Byte} {st : TagState} (hst : st ≠ .replica)
    (h : sl'.plates = (sl.newPlate bytes side).1.plates) :
    t.Placed bytes side (sl', sc, { t with state := if t.state == .replica then .replica else st, plate := some (sl.newPlate bytes side).2 }) := by
  refine ⟨?_, .of_keep t hst _⟩
  have hc := content_newPlate (sl := sl) (t := { t with plate := some (sl.newPlate bytes side).2 }) (bytes := bytes) (side := side) rfl
  simp only [Slice.content] at hc
  simp only [Slice.content, h]
  exact hc

theorem placeContent_placed (sl : Slice) (sc : ScCounters) (t : Tag) {bytes side : List Byte} (hb : bytes.length = 128)
    (hs : side.length = 16) : t.Placed bytes side (sl.placeContent sc t bytes side) := by
  unfold Slice.placeContent
  split
  · exact .newPlate t (by simp) rfl
  · split
    · next hz =>
      refine ⟨?_, .of_keep t (by simp) _⟩
      simp only [List.all_append, Bool.and_eq_true, List.all_eq_true, beq_iff_eq] at hz
      exact Prod.ext (List.eq_replicate_iff.2 ⟨hb, hz.1⟩).symm (List.eq_replicate_iff.2 ⟨hs, hz.2⟩).symm
    · extract_lets keep h bucket cands r sc n
      split
      · next p hp =>
        refine ⟨?_, .of_keep t (by simp) _⟩
        obtain ⟨hbytes, hside⟩ := scanCandidates_joined (full' := r.2.1) (coll' := r.2.2) (show r = (some p, r.2.1, r.2.2) by rw [← hp])
        simp only [Slice.content]
        rw [cellGet_cellSet_self _ _ _ (by simp)]
        exact Prod.ext hbytes hside
      · split
        · split
          · next hr =>
            split at hr
            · exact .newPlate t (by simp) (registerSlot_plates hr)
            · simp at hr
          · exact .newPlate t (by simp) rfl
        · split
          · next hr => exact .newPlate t (by simp) (registerSlot_plates hr)
          · exact .newPlate t (by simp) rfl

/-- A slice with a tag and a plate to spare needs no room made. -/
theorem makeRoom_spare {s : State} {i : Nat} (keep : Nat) {plate : Bool} (hp : plate = true → (s.slice i).plates.length < 32768)
    (ht : (s.slice i).tags.length < 65536) (fuel : Nat) : State.makeRoom i keep plate fuel s = s := by
  cases fuel with
  | zero => rfl
  | succ n =>
    rw [State.makeRoom]
    refine if_pos ?_
    cases plate with
    | false => simpa using ht
    | true => simpa [hp rfl] using ht

/-- A content placed at a line's home, with room to spare, is the line's. -/
theorem placeAt_homeLine {s : State} {part j : Nat} {t : Tag} {bytes side : List Byte} (hb : bytes.length = 128) (hs : side.length = 16)
    (hh : s.homeOf part t.line = some j) (hst : t.state ≠ .replica) (hp : (s.slice j).plates.length < 32768)
    (ht : (s.slice j).tags.length < 65536) (hj : j < s.slices.length) :
    (s.placeAt part j t bytes side).mem = s.mem ∧ (s.placeAt part j t bytes side).side = s.side ∧
      (s.placeAt part j t bytes side).homeLine part t.line = (bytes, side, t.poison) := by
  obtain ⟨hc, hk⟩ := placeContent_placed (s.slice j) (s.part part).sc t hb hs
  have hroom : s.placeAt part j t bytes side =
      (s.modSlice j (fun _ => ((s.slice j).placeContent (s.part part).sc t bytes side).1.putTag
        ((s.slice j).placeContent (s.part part).sc t bytes side).2.2)).modPart part
          (fun p => { p with sc := ((s.slice j).placeContent (s.part part).sc t bytes side).2.1 }) := by
    simp only [State.placeAt]
    rw [makeRoom_spare t.line (fun _ => hp) ht]
  rw [hroom]
  refine ⟨rfl, rfl, ?_⟩
  have hslice : ((s.modSlice j (fun _ => ((s.slice j).placeContent (s.part part).sc t bytes side).1.putTag
      ((s.slice j).placeContent (s.part part).sc t bytes side).2.2)).modPart part
        (fun p => { p with sc := ((s.slice j).placeContent (s.part part).sc t bytes side).2.1 })).slice j =
      ((s.slice j).placeContent (s.part part).sc t bytes side).1.putTag ((s.slice j).placeContent (s.part part).sc t bytes side).2.2 := by
    refine (State.slice_modSlice s j j _).trans (if_pos ⟨rfl, hj⟩)
  rw [State.homeLine_of_homeTag (j := j) (x := ((s.slice j).placeContent (s.part part).sc t bytes side).2.2), hslice]
  · have hput : (((s.slice j).placeContent (s.part part).sc t bytes side).1.putTag
        ((s.slice j).placeContent (s.part part).sc t bytes side).2.2).content
          ((s.slice j).placeContent (s.part part).sc t bytes side).2.2 = (bytes, side) := hc
    rw [hput, hk.poison]
  · refine (State.homeOf_congr ?_).trans hh
    rw [State.part_modPart]
    split <;> rfl
  · rw [hslice, ← hk.line]
    exact Slice.homeTag_putTag_self _ (hk.home hst)

theorem length_unprotectedFlips (a : PageAttr) (bytes : List Byte) (errs : LineErrors) :
    (unprotectedFlips a bytes errs).length = bytes.length := by
  refine List.foldlRecOn (motive := fun l : List Byte => l.length = bytes.length) errs _ rfl fun l hl e _ => ?_
  split
  · exact (length_modifyAt ..).trans hl
  · exact hl

theorem activate_homes (s : State) (line : Nat) : (s.activate line).parts = s.parts ∧ (s.activate line).slices = s.slices ∧
    (s.activate line).mem = s.mem ∧ (s.activate line).side = s.side := by
  unfold State.activate
  split <;> exact ⟨rfl, rfl, rfl, rfl⟩

/-- A fill that finds errors, of a line that nothing holds. -/
theorem fillWithErrors_placed {s : State} {part line j : Nat} (space : Nat) (a : PageAttr) (errs : LineErrors) (hh : s.homeOf part line = some j)
    (ht : (s.slice j).homeTag line = none) (hb : s.bankHolds part line = false) (ho : s.otherTags part line = [])
    (hp : (s.slice j).plates.length < 32768) (hl : (s.slice j).tags.length < 65536) (hj : j < s.slices.length) :
    let past : Bool := decide (correctable a.bound a.tolerant a.bfmt a.bk < (codeSymbols a errs).length)
    ∃ v : State, v.mem = s.mem ∧ v.side = s.side ∧
      v.homeLine part line = (unprotectedFlips a (s.memLine line).1 errs,
        a.sideOf (unprotectedFlips a (s.memLine line).1 errs) (s.memLine line).2.1, (s.memLine line).2.2 || past) ∧
      s.fillWithErrors part space line a errs =
        if past then v.logUncorrectedLine part line
        else if codeSymbols a errs = [] then v
        else (v.logEvent (v.lineUnit part line) 1 none (some (128 * line))).2 := by
  intro past
  obtain ⟨s1, hs1, hask⟩ : ∃ s1, SameHomes s s1 ∧ s.takeHost part line false .rdShared = s1 := ⟨_, .takeHost ho _ _, rfl⟩
  have hk := hs1.kept
  obtain ⟨hparts, hslices, hmem, hside⟩ := activate_homes s1 line
  have hslice : (s1.activate line).slice j = s.slice j := by rw [State.slice, hslices, hs1.slices]; rfl
  have hhome1 : s1.homeOf part line = some j := (hk.homeOf part line).trans hh
  have hhome : (s1.activate line).homeOf part line = some j := (State.homeOf_congr (by simp only [State.part, hparts])).trans hhome1
  have hline : s1.memLine line = s.memLine line := by simp only [State.memLine, hs1.mem, hs1.side, hs1.poison]
  have hlen : (unprotectedFlips a (s.memLine line).1 errs).length = 128 := by rw [length_unprotectedFlips]; exact length_cellRun ..
  have hslen : (a.sideOf (unprotectedFlips a (s.memLine line).1 errs) (s.memLine line).2.1).length = 16 :=
    length_sideFor _ _ _ _ _ (length_cellRun ..)
  obtain ⟨hm, hs, hx⟩ := placeAt_homeLine (s := s1.activate line) (part := part) (j := j)
    (t := newTag part space line (s1.slice j).floor a ((s.memLine line).2.2 || past)) hlen hslen hhome (by simp [newTag]) (by rw [hslice]; exact hp)
    (by rw [hslice]; exact hl) (by rw [hslices, hs1.slices]; exact hj)
  refine ⟨_, (hm.trans hmem).trans hs1.mem, (hs.trans hside).trans hs1.side, hx, ?_⟩
  simp only [State.fillWithErrors, hb, hh, Option.bind_some, ht, Option.isSome_none, Bool.or_self, Bool.false_eq_true, if_false, hask, hhome1,
    hline, List.length_eq_zero_iff]
  rfl

/-- A line filled for an operation, with errors. -/
theorem lineFill_op {s : State} {o : MemOp} {i line j : Nat} {g : OpGroup} (ho : s.memOp? o.id = some o) (hpod : isPod (128 * line) = false)
    (hg : o.groupAt line (fun h => !h.performed) = some (i, g)) (hf : o.groups.find? (fun h => h.line == line) = some g)
    (errs : LineErrors) (hh : s.homeOf o.part line = some j) (ht : (s.slice j).homeTag line = none) (hb : s.bankHolds o.part line = false)
    (hot : s.otherTags o.part line = []) (hp : (s.slice j).plates.length < 32768) (hl : (s.slice j).tags.length < 65536)
    (hj : j < s.slices.length) :
    let past : Bool := decide (correctable g.attr.bound g.attr.tolerant g.attr.bfmt g.attr.bk < (codeSymbols g.attr errs).length)
    ∃ v : State, v.mem = s.mem ∧ v.side = s.side ∧
      v.homeLine o.part line =
        (unprotectedFlips g.attr (s.memLine line).1 errs,
          g.attr.sideOf (unprotectedFlips g.attr (s.memLine line).1 errs) (s.memLine line).2.1, (s.memLine line).2.2 || past) ∧
      exec (.lineFill (.op o.id) line errs) s = .next (
        if past then v.logUncorrectedLine o.part line
        else if codeSymbols g.attr errs = [] then v
        else (v.logEvent (v.lineUnit o.part line) 1 none (some (128 * line))).2) := by
  intro past
  obtain ⟨v, hm, hs, hx, he⟩ := fillWithErrors_placed o.space g.attr errs hh ht hb hot hp hl hj
  refine ⟨v, hm, hs, hx, ?_⟩
  obtain ⟨hi, hline, hperf⟩ := groupAt_found hg
  have hany : o.groups.any (fun g => g.line == line && !g.performed) = true :=
    List.any_eq_true.2 ⟨g, List.mem_of_getElem? hi, by simpa [hline] using hperf⟩
  have hattr : o.lineAttr line = g.attr := by simp [MemOp.lineAttr, hf]
  show execLineFill (.op o.id) line errs s = _
  simp only [execLineFill, ho, hany, hpod, Bool.not_false, Bool.and_self, if_true, hattr, he]
  rfl

/-- An accumulator cell of a resident block found with errors. -/
theorem lineFill_cell {s : State} {uid cell line : Nat} {errs : LineErrors} {b : Block} {la : Launch} (hb : s.block? uid = some b)
    (hl : s.launch? b.launch = some la) (hp : b.place = .resident) (hc : cell < 512 * la.record.accRows) (hbad : ∀ y ∈ b.accBad, y.1 ≠ cell) :
    let bits := (errs.map (fun e => popCount 8 e.2.toNat)).sum
    (bits = 1 → exec (.lineFill (.cell uid cell) line errs) s = .next (s.logEvent b.core 3 none none).2) ∧
    (2 ≤ bits → exec (.lineFill (.cell uid cell) line errs) s =
      .next (s.modBlock uid (fun b => { b with accBad := b.accBad ++ [(cell, false)] }))) := by
  intro bits
  have hexec : exec (.lineFill (.cell uid cell) line errs) s = .next (s.cellErrors uid cell errs) := rfl
  have hcell : (b.cell cell).2 = false := List.any_eq_false.2 fun y hy => by simpa using hbad y hy
  have hpass (h : bits ≠ 0) : s.cellErrors uid cell errs = if bits = 1 then (s.logEvent b.core 3 none none).2
      else s.modBlock uid (fun b => { b with accBad := b.accBad ++ [(cell, false)] }) := by
    simp only [State.cellErrors, hb, hl]
    refine if_neg ?_
    simp [hp, hcell, Nat.not_le.2 hc, show (errs.map (fun e => popCount 8 e.2.toNat)).sum ≠ 0 from h]
  rw [hexec]
  refine ⟨fun h => ?_, fun h => ?_⟩
  · rw [hpass (by omega), if_pos h]
  · rw [hpass (by omega), if_neg (by omega)]

end Sys2Proof.Machine
end

section
namespace Sys2Proof.Proofs
open Sys2Proof.Machine

/-- Settles O52: each event takes the branch of its rule; a write at the home of a line held alone changes that line (`HeldAlone`), and counting
an operation out of its wave leaves lines and lanes as they are (`Counted`) with the completion time kept (`EndsBy`). -/
theorem memoryPerforms : Obligations.MemoryPerforms := by
  unfold Obligations.MemoryPerforms
  intro s o i line g w ho hw hpod hscope unperformed free plain served loads ended
  refine ⟨?_, ?_, ?_, ?_, ?_, ?_, ?_, ?_, ?_, ?_, ?_, ?_, ?_⟩
  · exact fun x hg ⟨hk, ha, hl⟩ hx he => globalLoadPerform_l1 ho hpod hg hk ha hl hx he
  · exact fun j t hg ⟨hk, ha, hl⟩ hx he hc hf hq hh ht => globalLoadPerform_home ho hpod hg hk ha hl hx he hc hf hq hh ht
  · exact fun hg ⟨b, hk⟩ hn => loadReturn_returns ho hw hg hk hn
  · intro j t hg hr hord hf hl hc hheld c
    have hwave : (s.wave? o.wave).isSome = true := by rw [hw]; rfl
    refine ⟨fun hk hq hfull => ?_, ?_⟩
    · obtain ⟨u, hu, hm, hx, he⟩ := writePerform_store ho hwave hpod hscope hg hr hord hf hc hheld hl hk hq hfull
      exact ⟨u, hu, hm, hx, he.ended⟩
    · intro sub wide ret l hk hl old hline
      obtain ⟨hnone, hsome⟩ := atomicPerform_one ho hwave hpod hscope hg hr hord hf hc hheld hk hl hline
      refine ⟨hnone, fun x hx => ?_⟩
      obtain ⟨u, hu, hm, hx, hq, he⟩ := hsome x hx
      exact ⟨u, hu, hm, hx, hq, he.ended⟩
  · exact fun sub ret l b hg hr hk hl ht he hb hp hwf => ratomPerform_one ho hg hr hk hl ht he hb hp hwf
  · exact fun j errs hg hh ht hb hot hp hl hj hf => lineFill_op ho hpod hg hf errs hh ht hb hot hp hl hj
  · exact fun uid cell errs b la hb hl hp hc hbad => lineFill_cell hb hl hp hc hbad
  · exact leaseWaitEnd_release ho
  · exact leaseWaitEnd_fence hw
  · exact fun p hp => leaseWaitEnd_completion hp
  · exact fun hg h0 ht hh => bucketRelease_core ho hpod hg h0 ht hh
  · exact fun core part space va hva => pageWalk_once s hva
  · exact fun op granule e b he hb hs hc hg hr => scratchpadBankAccess_reads he hb hs hc hg hr

end Sys2Proof.Proofs
end

section
/-! SUPPORT. What accesses to memory leave of a state: its blocks, waves, launches, operations in flight and entries (R207, R229 to R236, R350). -/

namespace Sys2Proof.Machine

/-- All of a state that accesses to memory leave: nothing of its slices, its memory, the device-wide state, the cores' caches and the counters
of sharing. -/
structure Outline where
  clock : Nat
  blocks : List Block
  launches : List Launch
  issues : List Issue
  memOps : List MemOp
  engOps : List EngOp
  entries : List Entry
  next : Nat
  handlers : Nat → List (Option Handler)
  parts : Nat → Partition
  partCount : Nat

def State.outline (s : State) : Outline where
  clock := s.clock
  blocks := s.blocks
  launches := s.launches
  issues := s.issues
  memOps := s.memOps
  engOps := s.engOps
  entries := s.entries
  next := s.next
  handlers := fun c => (s.core c).handlers
  parts := fun p => { s.part p with sc := .zero }
  partCount := s.parts.length

@[simp] theorem outline_modSlice (s : State) (i : Nat) (f : Slice → Slice) : (s.modSlice i f).outline = s.outline := rfl

@[simp] theorem outline_modDevice (s : State) (f : Device → Device) : (s.modDevice f).outline = s.outline := rfl

@[simp] theorem outline_emit (s : State) (o : Output) : (s.emit o).outline = s.outline := rfl

/-- A change of a core that leaves its handler waves. -/
theorem outline_modCore (s : State) (c : Nat) {f : Core → Core} (hf : ∀ k, (f k).handlers = k.handlers) : (s.modCore c f).outline = s.outline := by
  have hh : (fun d => ((s.modCore c f).core d).handlers) = fun d => (s.core d).handlers := funext fun d => by
    rw [core_modCore]
    split
    · exact hf _
    · rfl
  simp only [State.outline, hh]
  rfl

/-- A change of a partition's counters of sharing. -/
@[simp] theorem outline_modPart_sc (s : State) (p : Nat) (f : Partition → ScCounters) :
    (s.modPart p (fun q => { q with sc := f q })).outline = s.outline := by
  have hp : (fun q => ({ (s.modPart p (fun q => { q with sc := f q })).part q with sc := .zero } : Partition)) =
      fun q => { s.part q with sc := .zero } := funext fun q => by
    rw [State.part_modPart]
    split <;> rfl
  have hn : (s.modPart p (fun q => { q with sc := f q })).parts.length = s.parts.length := length_modifyAt ..
  simp only [State.outline, hp, hn]
  rfl

@[simp] theorem outline_activate (s : State) (line : Nat) : (s.activate line).outline = s.outline := by
  unfold State.activate
  split <;> rfl

@[simp] theorem outline_writeBack (s : State) (line : Nat) (bytes side : List Byte) (poison : Bool) :
    (s.writeBack line bytes side poison).outline = s.outline := outline_activate s line

@[simp] theorem outline_askHost (s : State) (line : Nat) (q : CacheReq) : (s.askHost line q).outline = s.outline := by
  unfold State.askHost
  split <;> rfl

@[simp] theorem outline_dropTag (s : State) (i : Nat) (t : Tag) : (s.dropTag i t).outline = s.outline := by
  simp only [State.dropTag, outline_modSlice]
  split <;> simp

@[simp] theorem outline_evict (s : State) (i : Nat) (t : Tag) : (s.evict i t).outline = s.outline := by
  simp only [State.evict]
  split <;> simp

@[simp] theorem outline_makeRoom (i keep : Nat) (plate : Bool) (n : Nat) (s : State) : (State.makeRoom i keep plate n s).outline = s.outline := by
  induction n generalizing s with
  | zero => rfl
  | succ n ih =>
    simp only [State.makeRoom]
    split
    · rfl
    · split
      · rfl
      · rw [ih, outline_evict]

@[simp] theorem outline_placeAt (s : State) (part i : Nat) (t : Tag) (bytes side : List Byte) :
    (s.placeAt part i t bytes side).outline = s.outline := by
  simp [State.placeAt]

@[simp] theorem outline_cleanTag (s : State) (i : Nat) (t : Tag) : (s.cleanTag i t).outline = s.outline := by
  simp only [State.cleanTag, outline_modSlice]
  split <;> simp

/-- What each step of a fold leaves of a state's outline, the fold leaves. -/
theorem outline_foldl {α : Type} {f : State → α → State} (h : ∀ s a, (f s a).outline = s.outline) (l : List α) (s : State) :
    (l.foldl f s).outline = s.outline := foldl_keeps State.outline h l s

@[simp] theorem outline_takeHost (s : State) (part line : Nat) (owned : Bool) (q : CacheReq) :
    (s.takeHost part line owned q).outline = s.outline := by
  simp only [State.takeHost]
  split
  · rfl
  · rw [outline_askHost]
    exact outline_foldl (fun s x => by split <;> simp) _ s

@[simp] theorem outline_fillAs (s : State) (part space line : Nat) (a : PageAttr) (poison owned : Bool) :
    (s.fillAs part space line a poison owned).outline = s.outline := by
  simp only [State.fillAs]
  split
  · rfl
  · split <;> simp

@[simp] theorem outline_fillLine (s : State) (part space line : Nat) (a : PageAttr) (poison : Bool) :
    (s.fillLine part space line a poison).outline = s.outline := outline_fillAs ..

@[simp] theorem outline_applyWrite (s : State) (part space line : Nat) (a : PageAttr) (ws scales : List (Nat × Byte)) (whole poison : Bool) :
    (s.applyWrite part space line a ws scales whole poison).outline = s.outline := by
  simp only [State.applyWrite]
  split
  · simp
  · split
    · split <;> simp
    · generalize hs : State.fillAs _ part space line a false true = s0
      have hb : s0.outline = s.outline := by rw [← hs, outline_fillAs]; split <;> simp
      split
      · exact hb
      · split
        · simpa using hb
        · simpa using hb

@[simp] theorem outline_freeRecords (s : State) (e : Entry) : (s.freeRecords e).outline = s.outline :=
  outline_foldl (fun s i => by unfold State.putRecord; dsimp only; split <;> simp) e.recs s

/-- An entry dropped is gone; nothing else changes. -/
theorem outline_dropEntry (s : State) (e : Entry) :
    (s.dropEntry e).outline = { s.outline with entries := s.entries.filter (fun x => x.key != e.key) } := by
  have h := outline_freeRecords s e
  simp only [State.outline, Outline.mk.injEq] at h ⊢
  exact ⟨h.1, h.2.1, h.2.2.1, h.2.2.2.1, h.2.2.2.2.1, h.2.2.2.2.2.1, rfl, h.2.2.2.2.2.2.2⟩

@[simp] theorem outline_useLine (s : State) (part line : Nat) : (s.useLine part line).outline = s.outline := by
  unfold State.useLine
  split
  · rfl
  · split <;> simp

@[simp] theorem outline_setBucket (s : State) (b : Bucket) (p : BucketPoint) : (s.setBucket b p).outline = s.outline := by
  cases p with
  | core c => exact outline_modCore s c fun _ => rfl
  | slice i => rfl
  | port i p => rfl

theorem outline_takeTokens {s t : State} {p : BucketPoint} {n : Nat} (h : s.takeTokens p n = some t) : t.outline = s.outline := by
  unfold State.takeTokens at h
  split at h
  · obtain ⟨b, -, rfl⟩ := Option.map_eq_some_iff.1 h
    simp
  · rw [Option.some.inj h]

theorem outline_takeAll {s t : State} {n : Nat} {ps : List BucketPoint} (h : s.takeAll n ps = some t) : t.outline = s.outline := by
  induction ps generalizing s with
  | nil => rw [Option.some.inj h]
  | cons p ps ih =>
    obtain ⟨u, hu, ht⟩ := Option.bind_eq_some_iff.1 h
    rw [ih ht, outline_takeTokens hu]

@[simp] theorem outline_ownRead (s : State) (part pa n : Nat) : (s.ownRead part pa n).outline = s.outline := by
  rw [State.ownRead, outline_useLine]
  exact outline_foldl (fun s p => by split <;> simp) _ s

@[simp] theorem outline_readWalk (s : State) (part space va : Nat) : (s.readWalk part space va).outline = s.outline := by
  simp only [State.readWalk]
  split
  · rfl
  · exact outline_foldl (fun s a => outline_ownRead s part a 8) _ s

@[simp] theorem outline_fillTlb (s : State) (core : Nat) (e : TlbEntry) : (s.fillTlb core e).outline = s.outline := by
  simp only [State.fillTlb]
  split
  · exact outline_modCore s core fun _ => rfl
  · rw [outline_modSlice]
    exact outline_modCore s core fun _ => rfl

@[simp] theorem outline_translate (s : State) (core part space va : Nat) : (s.translate core part space va).2.outline = s.outline := by
  rw [State.translate]
  split
  · rfl
  · split
    · rfl
    · split <;> simp

/-- An access that passes its checks. -/
theorem outline_checkAccess {s t : State} {core part space va : Nat} {kind : AccessKind} {e : TlbEntry}
    (h : s.checkAccess core part space va kind = (.ok e, t)) : t.outline = s.outline := by
  have ht := outline_translate s core part space va
  unfold State.checkAccess at h
  split at h
  · simp at h
  · next e' s1 he =>
    rw [he] at ht
    dsimp only at h
    split at h
    · simp at h
    · split at h
      · simp at h
      · split at h
        · simp at h
        · obtain ⟨-, rfl⟩ := Prod.mk.inj h
          exact ht

@[simp] theorem outline_codePut (s : State) (core : Nat) (x : CodeLine) : (s.codePut core x).outline = s.outline :=
  outline_modCore s core fun _ => rfl

theorem outline_fetchLine {s : State} {core part space line : Nat} {a : PageAttr} {r : CodeLine × State}
    (h : s.fetchLine core part space line a = some r) : r.2.outline = s.outline := by
  obtain ⟨t, ht, rfl⟩ := Option.map_eq_some_iff.1 h
  split at ht
  · simp at ht
  · simp [outline_takeAll ht]

theorem outline_fetchWordAt {s t : State} {core part space va w : Nat} (h : s.fetchWordAt core part space va = (.ok w, t)) :
    t.outline = s.outline := by
  unfold State.fetchWordAt at h
  split at h
  · simp at h
  · next e s1 he =>
    have h1 := outline_checkAccess he
    dsimp only at h
    split at h
    · unfold State.fetchPod at h
      split at h
      · split at h
        · simp at h
        · obtain ⟨-, rfl⟩ := Prod.mk.inj h
          rw [h1]
      · dsimp only at h
        split at h
        · simp at h
        · split at h
          · simp at h
          · split at h <;> simp at h
    · split at h
      · split at h
        · simp at h
        · next r hr =>
            obtain ⟨-, rfl⟩ := Prod.mk.inj h
            rw [outline_fetchLine hr, h1]
      · split at h
        · obtain ⟨-, rfl⟩ := Prod.mk.inj h
          rw [h1]
        · split at h
          · obtain ⟨-, rfl⟩ := Prod.mk.inj h
            exact h1
          · split at h
            · obtain ⟨-, rfl⟩ := Prod.mk.inj h
              exact h1
            · next r hr =>
              obtain ⟨-, rfl⟩ := Prod.mk.inj h
              rw [outline_fetchLine hr]
              exact h1

theorem outline_fetchWords {s t : State} {core part space n va : Nat} {ws : List Nat}
    (h : State.fetchWords core part space n s va = (.ok ws, t)) : t.outline = s.outline := by
  induction n generalizing s va ws with
  | zero =>
    obtain ⟨-, rfl⟩ := Prod.mk.inj h
    rfl
  | succ n ih =>
    unfold State.fetchWords at h
    split at h
    · simp at h
    · next w s1 hw =>
      split at h
      · simp at h
      · next ws' s2 hws =>
          obtain ⟨-, rfl⟩ := Prod.mk.inj h
          rw [ih hws, outline_fetchWordAt hw]

@[simp] theorem outline_dropPodCode (s : State) (core : Nat) : (s.dropPodCode core).outline = s.outline := by
  unfold State.dropPodCode
  split
  · exact outline_modCore s core fun _ => rfl
  · rfl

/-- A clause fetched. -/
theorem outline_fetchClause {s t : State} {core part space codeBase hdr : Nat} {c : Header × List Nat}
    (h : s.fetchClause core part space codeBase hdr = (.ok c, t)) : t.outline = s.outline := by
  unfold State.fetchClause at h
  dsimp only at h
  split at h
  · simp at h
  · next w s1 hw =>
    split at h
    · simp at h
    · next ws s2 hws =>
      split at h
      · simp at h
      · split at h
        · simp at h
        · obtain ⟨-, rfl⟩ := Prod.mk.inj h
          rw [outline_dropPodCode, outline_fetchWords hws, outline_fetchWordAt hw]

end Sys2Proof.Machine
end

section
/-! SUPPORT. Writes to lines that no entry watches: the outline stays, and of memory what lies outside the lines (R325, R412). -/

namespace Sys2Proof.Machine

theorem cellGet_cellSet_ne {α : Type} [DecidableEq α] (d : α) (l : Cells α) {a b : Nat} (x : α) (h : b ≠ a) :
    cellGet d (cellSet d l a x) b = cellGet d l b := by
  induction l with
  | nil => rw [cellSet]; split <;> simp [cellGet, h]
  | cons c t ih =>
    obtain ⟨k, y⟩ := c
    rw [cellSet]
    split
    · split
      · rfl
      · simp [cellGet, h]
    · split
      · next hk =>
        subst hk
        split <;> simp [cellGet, h]
      · simp only [cellGet, ih]

theorem cellGet_cellPut_outside {α : Type} [DecidableEq α] (d : α) (l : Cells α) {a b : Nat} {xs : List α} (h : b < a ∨ a + xs.length ≤ b) :
    cellGet d (cellPut d l a xs) b = cellGet d l b := by
  induction xs generalizing l a with
  | nil => rfl
  | cons x xs ih =>
    simp only [List.length_cons] at h
    rw [cellPut, ih _ (by omega), cellGet_cellSet_ne d l x (by omega)]

/-- From one state to another, all but slices, the device and memory is as it was, entries at their addresses; and of a partition without slices,
memory outside a run of lines. -/
structure AreaWritten (part first last : Nat) (s t : State) : Prop where
  outline : t.outline = { s.outline with entries := t.entries }
  addrs : t.entries.map (·.addr) = s.entries.map (·.addr)
  mem : (s.part part).slices = 0 → ∀ a, a / 128 < first ∨ last < a / 128 → Memory.read t.mem a = Memory.read s.mem a

section Area

variable {part first last : Nat}

theorem AreaWritten.refl (s : State) : AreaWritten part first last s s := ⟨rfl, rfl, fun _ _ _ => rfl⟩

theorem AreaWritten.slices {s t : State} (h : AreaWritten part first last s t) (p : Nat) : (t.part p).slices = (s.part p).slices := by
  show (t.outline.parts p).slices = (s.outline.parts p).slices
  rw [h.outline]

theorem AreaWritten.trans {s t u : State} (h : AreaWritten part first last s t) (k : AreaWritten part first last t u) :
    AreaWritten part first last s u where
  outline := by rw [k.outline, h.outline]
  addrs := k.addrs.trans h.addrs
  mem h0 a ha := (k.mem ((h.slices part).trans h0) a ha).trans (h.mem h0 a ha)

/-- The entries of a state lie outside a run of lines. -/
def State.areaUnwatched (s : State) (first last : Nat) : Prop := ∀ e ∈ s.entries, e.addr / 128 < first ∨ last < e.addr / 128

theorem AreaWritten.unwatched {s t : State} (h : AreaWritten part first last s t) (hu : s.areaUnwatched first last) :
    t.areaUnwatched first last := by
  intro e he
  have hm : e.addr ∈ s.entries.map (·.addr) := h.addrs ▸ List.mem_map_of_mem he
  obtain ⟨d, hd, hde⟩ := List.mem_map.1 hm
  exact hde ▸ hu d hd

/-- A check of the entries of a line that has none. -/
theorem AreaWritten.checkEntries {s : State} {p line : Nat} (h : ∀ e ∈ s.entries, e.addr / 128 ≠ line) (wrote : List Nat) :
    AreaWritten part first last s (s.checkEntries p line wrote) := by
  unfold State.checkEntries
  extract_lets s1 filtered s2 mine
  have h1 : AreaWritten part first last s s1 := by
    simp only [s1]
    split
    · exact .refl s
    · exact ⟨rfl, rfl, fun _ _ _ => rfl⟩
  have h2 : AreaWritten part first last s1 s2 := by
    simp only [s2]
    split
    · exact .refl s1
    · refine ⟨rfl, ?_, fun _ _ _ => rfl⟩
      rw [List.map_map]
      exact congrFun (congrArg List.map (funext fun e => by simp only [Function.comp]; split <;> rfl)) _
  have h12 := h1.trans h2
  have hnone : mine = [] := List.filter_eq_nil_iff.2 fun e he => by
    have hm : e.addr ∈ s.entries.map (·.addr) := h12.addrs ▸ List.mem_map_of_mem he
    obtain ⟨d, hd, hde⟩ := List.mem_map.1 hm
    have := h d hd
    simp only [Bool.and_eq_true, not_and, beq_iff_eq]
    exact fun hc => absurd (hde ▸ hc.2) this
  rw [hnone]
  exact h12

theorem AreaWritten.applyWrite {s : State} {line : Nat} (hl : first ≤ line ∧ line ≤ last) (space : Nat) (a : PageAttr)
    (ws scales : List (Nat × Byte)) (whole poison : Bool) :
    AreaWritten part first last s (s.applyWrite part space line a ws scales whole poison) := by
  have ho := outline_applyWrite s part space line a ws scales whole poison
  have he : (s.applyWrite part space line a ws scales whole poison).entries = s.entries := congrArg Outline.entries ho
  refine ⟨by rw [ho, he]; rfl, by rw [he], fun h0 b hb => ?_⟩
  have hhome : s.homeOf part line = none := by
    rw [State.homeOf, h0]
    rfl
  simp only [State.applyWrite, hhome]
  obtain ⟨-, -, -, hmem⟩ := writeBack_keeps s line (writeOffsets (s.memLine line).1 ws) (sideFor a.bound a.tolerant a.bfmt a.bk
    (writeOffsets (s.memLine line).1 ws) (writeOffsets (s.memLine line).2.1 scales))
    (poison || ((s.memLine line).2.2 && !(whole && isFullLine (s.layoutAt part line a) ws scales)))
  rw [hmem]
  refine cellGet_cellPut_outside _ _ ?_
  have hlen : (writeOffsets (s.memLine line).1 ws).length = 128 := by
    refine List.foldlRecOn (motive := fun l : List Byte => l.length = 128) ws _ (length_cellRun ..) fun l hl w _ => ?_
    simpa [setAt] using hl
  rw [hlen]
  omega

theorem AreaWritten.performWrite {s : State} {line : Nat} (hu : s.areaUnwatched first last) (hl : first ≤ line ∧ line ≤ last) (space : Nat)
    (a : PageAttr) (ws scales : List (Nat × Byte)) (whole poison : Bool) :
    AreaWritten part first last s (s.performWrite part space line a ws scales whole poison).1 := by
  have hne {t : State} (h : t.areaUnwatched first last) : ∀ e ∈ t.entries, e.addr / 128 ≠ line := fun e he => by
    have := h e he
    omega
  have happly := AreaWritten.applyWrite (part := part) (s := s) hl space a ws scales whole poison
  have hcheck := happly.trans (.checkEntries (p := part) (hne (happly.unwatched hu)) (ws.map (·.1)))
  simp only [State.performWrite, fireOverdue_unwatched (hne hu), State.rereadOthers]
  rw [rereads_unwatched (hne (hcheck.unwatched hu))]
  exact hcheck

/-- The lines of a run. -/
theorem splitLines_line {pa : Nat} {bs : List Byte} {l : Nat × List (Nat × Byte)} (h : l ∈ splitLines pa bs) :
    pa / 128 ≤ l.1 ∧ l.1 ≤ (pa + bs.length - 1) / 128 := by
  obtain ⟨k, hk, rfl⟩ := List.mem_map.1 h
  obtain ⟨c, hc, rfl⟩ := List.mem_map.1 (mem_sortDedup.1 hk)
  obtain ⟨i, b, hi, rfl⟩ := mem_mapIdx' hc
  have := (List.getElem?_eq_some_iff.1 hi).1
  dsimp only
  omega

theorem AreaWritten.writeRun {s : State} {pa : Nat} {bs : List Byte} (hu : s.areaUnwatched first last) (hl : first ≤ pa / 128)
    (hr : (pa + bs.length - 1) / 128 ≤ last) (a : PageAttr) : AreaWritten part first last s (s.writeRun part pa a bs).1 := by
  refine List.foldlRecOn (motive := fun r : State × Nat => AreaWritten part first last s r.1) _ _ (.refl s) fun r h l hm => ?_
  have := splitLines_line hm
  exact h.trans (.performWrite (h.unwatched hu) ⟨by omega, by omega⟩ 16 a l.2 [] false false)

end Area

end Sys2Proof.Machine
end

section
/-! SUPPORT. A block chosen for saving: it stops issuing, and at rest it is saved (R412). -/

namespace Sys2Proof.Machine

/-- A launch changed is found changed. -/
theorem launch?_modLaunch_self {s : State} {lid : Nat} {l : Launch} (h : s.launch? lid = some l) (f : Launch → Launch)
    (hf : ∀ l, (f l).lid = l.lid := by exact fun _ => rfl) : (s.modLaunch lid f).launch? lid = some (f l) := by
  have hlid : l.lid = lid := by simpa using List.find?_some h
  rw [State.launch?_modLaunch s lid lid f hf, h, Option.map_some, if_pos (by simpa using hlid)]

/-- A block of a state is one given, but for its waves. -/
def State.KeepsBlock (s : State) (b : Block) : Prop := ∃ k, s.block? b.uid = some k ∧ k = { b with waves := k.waves }

theorem State.KeepsBlock.modWave {s : State} {b : Block} (h : s.KeepsBlock b) (r : WaveRef) (f : Wave → Wave) : (s.modWave r f).KeepsBlock b := by
  obtain ⟨k, hk, he⟩ := h
  cases r with
  | hdl c q => exact ⟨k, hk, he⟩
  | blk u w =>
    rw [State.KeepsBlock, State.block?_modWave]
    split
    · next hu =>
      subst hu
      refine ⟨_, by rw [hk]; rfl, ?_⟩
      dsimp only
      rw [he]
    · exact ⟨k, hk, he⟩

/-- A block parked is the same but for its waves, and stands in no clause issue. -/
theorem parkBlock_parked {s : State} {b : Block} (hb : s.block? b.uid = some b) :
    (s.parkBlock b.uid).KeepsBlock b ∧ (s.parkBlock b.uid).mem = s.mem ∧
      ∀ i ∈ (s.parkBlock b.uid).issues, ∀ m ∈ i.members, ofBlock b.uid m.1 = false := by
  unfold State.parkBlock
  extract_lets mine s1 cut
  have hkeep : s1.KeepsBlock b ∧ s1.mem = s.mem := by
    refine List.foldlRecOn (motive := fun t : State => t.KeepsBlock b ∧ t.mem = s.mem) _ _ ⟨⟨b, hb, rfl⟩, rfl⟩ fun t ht i _ => ?_
    refine List.foldlRecOn (motive := fun t : State => t.KeepsBlock b ∧ t.mem = s.mem) _ _ ht fun t ht m _ => ?_
    refine List.foldlRecOn (motive := fun t : State => t.KeepsBlock b ∧ t.mem = s.mem) _ _ ht fun t ht l _ => ?_
    exact ⟨ht.1.modWave _ _, (State.modLane_mem ..).trans ht.2⟩
  refine ⟨hkeep.1, hkeep.2, fun i hi m hm => ?_⟩
  obtain ⟨i, -, rfl⟩ := List.mem_map.1 (List.mem_filter.1 hi).1
  have hm := (List.mem_filter.1 hm).2
  obtain ⟨r, ls⟩ := m
  cases r with
  | hdl c q => rfl
  | blk u w => simpa [mine, ofBlock] using hm

/-- A block to be saved stops issuing once the save may begin. -/
theorem blockSave_stops {s : State} {b : Block} (hb : s.block? b.uid = some b) (hf : s.device.fenced = false) (ht : b.treatment = some .save)
    (hp : b.place = .resident) :
    (s.stackOpen b = false → exec (.blockSave b.uid) s = .next s) ∧
    (s.stackOpen b = true → ∃ (u : State) (k : Block), exec (.blockSave b.uid) s = .next u ∧ u.block? b.uid = some k ∧
      k.place = .saving ∧ (∀ i ∈ u.issues, ∀ m ∈ i.members, ofBlock b.uid m.1 = false) ∧ u.mem = s.mem ∧
      k = { b with place := .saving, waves := k.waves }) := by
  have hexec : exec (.blockSave b.uid) s = execBlockSave b.uid s := rfl
  rw [hexec]
  refine ⟨fun h => by simp [execBlockSave, hb, ht, hf, hp, h], fun h => ?_⟩
  obtain ⟨⟨k, hk, he⟩, hmem, hissues⟩ := parkBlock_parked hb
  refine ⟨s.stopBlock b.uid, { k with place := .saving }, by simp [execBlockSave, hb, ht, hf, hp, h], ?_, rfl, hissues, hmem, ?_⟩
  · refine (State.block?_modBlock _ b.uid b.uid (fun x => { x with place := .saving }) fun _ => rfl).trans ?_
    rw [if_pos rfl, hk]
    rfl
  · rw [he]

theorem mem_freeUnits {s : State} {part u : Nat} (h : u ∈ s.freeUnits part) : u < (s.part part).psaveSize := by
  simpa using (List.mem_filter.1 h).1

/-- The image of a block written to units of the save area that no entry watches. -/
theorem AreaWritten.writeImage {s : State} {part : Nat} {units : List Nat} (hu : ∀ u ∈ units, u < (s.part part).psaveSize)
    (hw : s.areaUnwatched ((s.part part).psaveBase / 128) (((s.part part).psaveBase + 65536 * (s.part part).psaveSize - 1) / 128)) :
    AreaWritten part ((s.part part).psaveBase / 128) (((s.part part).psaveBase + 65536 * (s.part part).psaveSize - 1) / 128) s
      (s.writeImage part units) := by
  refine List.foldlRecOn (motive := fun t : State => AreaWritten part ((s.part part).psaveBase / 128)
    (((s.part part).psaveBase + 65536 * (s.part part).psaveSize - 1) / 128) s t) units _ (.refl s) fun t h u hm => ?_
  have hbase : (t.part part).psaveBase = (s.part part).psaveBase := by
    show (t.outline.parts part).psaveBase = (s.outline.parts part).psaveBase
    rw [h.outline]
  have hlt := hu u hm
  have hdraws : AreaWritten part ((s.part part).psaveBase / 128) (((s.part part).psaveBase + 65536 * (s.part part).psaveSize - 1) / 128) t
      { t with draws := t.draws + 65536 } := ⟨rfl, rfl, fun _ _ _ => rfl⟩
  have hlen : ((upTo 65536).map (fun k => Config.saveByte (t.draws + k))).length = 65536 := by
    rw [List.length_map, upTo_eq_range, List.length_range]
  generalize (upTo 65536).map (fun k => Config.saveByte (t.draws + k)) = bs at hlen
  refine h.trans (hdraws.trans (.writeRun ((h.trans hdraws).unwatched hw) ?_ ?_ .plain))
  · rw [hbase]
    omega
  · rw [hlen, hbase]
    omega

/-- No position satisfies a test that no element does. -/
theorem indicesFrom_nil {α : Type} {p : α → Bool} {l : List α} (h : ∀ x ∈ l, p x = false) (n : Nat) : indicesFrom p n l = [] := by
  induction l generalizing n with
  | nil => rfl
  | cons x l ih => simp [indicesFrom, h x, ih fun y hy => h y (by simp [hy])]

/-- Handling is cancelled where no handler lane handles a lane of the block, and none of its lanes has a trap: nothing changes but blocks of
the same key. -/
theorem cancelHandling_none {s : State} {b : Block} (hb : s.block? b.uid = some b)
    (ht : b.waves.all (fun w => w.lanes.all (fun x => decide (x.trap = none))) = true)
    (hh : ∀ q < 4, ∀ v, s.wave? (.hdl b.core q) = some v → ∀ x ∈ v.lanes, x.origin.map (·.uid) ≠ some b.uid) :
    ∃ f : Block → Block, s.cancelHandling b.uid = s.modBlock b.uid f ∧ f b = b ∧ ∀ k, (f k).uid = k.uid := by
  refine ⟨fun b => { b with waves := b.waves.map (fun w => { w with lanes := w.lanes.map Lane.awaitAgain }) }, ?_, ?_, fun _ => rfl⟩
  · rw [State.cancelHandling, hb]
    dsimp only
    congr 1
    refine List.foldlRecOn (motive := fun t : State => t = s) _ _ rfl fun t h q hq => ?_
    subst h
    have hq4 : q < 4 := by simpa using hq
    split
    · rfl
    · next w hw =>
      refine if_pos (List.isEmpty_iff.2 (indicesFrom_nil (fun x hx => ?_) 0))
      simp [hh q hq4 w hw x hx]
  · have hlanes : ∀ w ∈ b.waves, ({ w with lanes := w.lanes.map Lane.awaitAgain } : Wave) = w := fun w hw => by
      have hl : w.lanes.map Lane.awaitAgain = w.lanes := by
        refine List.map_congr_left (g := id) (fun x hx => ?_) |>.trans (List.map_id _)
        have := List.all_eq_true.1 (List.all_eq_true.1 ht w hw) x hx
        simp only [decide_eq_true_eq] at this
        simp [Lane.awaitAgain, this]
      rw [hl]
    have hw : b.waves.map (fun w => ({ w with lanes := w.lanes.map Lane.awaitAgain } : Wave)) = b.waves :=
      (List.map_congr_left (g := id) hlanes).trans (List.map_id _)
    exact congrArg (fun ws => ({ b with waves := ws } : Block)) hw

/-- A woken block is the same but for its place on the wake list; its launch, memory and partitions are as before. -/
theorem wake_keeps {s : State} {k : Block} {uid : Nat} (hk : s.block? uid = some k) (r : WaveRef) :
    (∃ k', (s.wake r).block? uid = some k' ∧ k' = { k with woken := k'.woken }) ∧ (s.wake r).mem = s.mem ∧
      (s.wake r).parts = s.parts ∧ ∀ n, (s.wake r).launch? n = s.launch? n := by
  cases r with
  | hdl c q => exact ⟨⟨k, hk, rfl⟩, rfl, rfl, fun _ => rfl⟩
  | blk u w =>
    refine ⟨?_, rfl, rfl, fun _ => rfl⟩
    simp only [State.block?, State.wake, List.find?_map]
    rw [List.find?_congr (p₂ := fun b : Block => b.uid == uid) (fun b _ => by simp only [Function.comp]; split <;> rfl),
      show s.blocks.find? (fun b => b.uid == uid) = some k from hk, Option.map_some]
    split
    · exact ⟨_, rfl, rfl⟩
    · exact ⟨k, rfl, rfl⟩

/-- A block at rest, no lane of which has a trap or a handler, is saved. -/
theorem blockSave_saves {s : State} {b : Block} {l : Launch} (hb : s.block? b.uid = some b) (hl : s.launch? b.launch = some l)
    (hf : s.device.fenced = false) (htreat : b.treatment = some .save) (hp : b.place = .saving) (hr : s.atRest b.uid = true)
    (ht : b.waves.all (fun w => w.lanes.all (fun x => decide (x.trap = none))) = true)
    (hh : ∀ q < 4, ∀ v, s.wave? (.hdl b.core q) = some v → ∀ x ∈ v.lanes, x.origin.map (·.uid) ≠ some b.uid)
    (hw : s.areaUnwatched ((s.part l.part).psaveBase / 128) (((s.part l.part).psaveBase + 65536 * (s.part l.part).psaveSize - 1) / 128)) :
    ∃ (u : State) (k : Block), exec (.blockSave b.uid) s = .next u ∧ u.block? b.uid = some k ∧
      ((s.part l.part).slices = 0 → ∀ a, a / 128 < (s.part l.part).psaveBase / 128 ∨
        ((s.part l.part).psaveBase + 65536 * (s.part l.part).psaveSize - 1) / 128 < a / 128 → Memory.read u.mem a = Memory.read s.mem a) ∧
      k = { b with
        place := .saved, treatment := none, elapsed := b.elapsed + (s.clock - b.since), waitSince := none, woken := k.woken
        saveUnits := (s.freeUnits l.part).take (l.record.imageBytes / 65536) } ∧
      u.launch? b.launch = some { l with saved := sat32 (l.saved + 1) } ∧
      (l.part < s.parts.length → (u.part l.part).cntSave = wrap64 ((s.part l.part).cntSave + 1)) := by
  obtain ⟨g, hcancel, hg, hguid⟩ := cancelHandling_none hb ht hh
  have hpart : s.partOfBlock b = l.part := by simp [State.partOfBlock, hl]
  have hrec : s.recordOf b = l.record := by simp [State.recordOf, hl]
  have hexec : exec (.blockSave b.uid) s = .next (s.finishSave b) := by
    show execBlockSave b.uid s = _
    simp [execBlockSave, hb, htreat, hf, hp, hr]
  set units := (s.freeUnits l.part).take (l.record.imageBytes / 65536) with hunits
  have harea : AreaWritten l.part ((s.part l.part).psaveBase / 128) (((s.part l.part).psaveBase + 65536 * (s.part l.part).psaveSize - 1) / 128)
      (s.modBlock b.uid g) ((s.modBlock b.uid g).writeImage l.part units) :=
    AreaWritten.writeImage (s := s.modBlock b.uid g) (fun u hu => mem_freeUnits (s := s) (List.mem_of_mem_take hu)) hw
  set t := (s.modBlock b.uid g).writeImage l.part units with ht
  have hblocks : t.blocks = (s.modBlock b.uid g).blocks := by
    show t.outline.blocks = _
    rw [harea.outline]
    rfl
  have hlaunches : t.launches = s.launches := by
    show t.outline.launches = _
    rw [harea.outline]
    rfl
  have htb : t.block? b.uid = some b := by
    rw [State.block?, hblocks]
    refine (State.block?_modBlock s b.uid b.uid g hguid).trans ?_
    rw [if_pos rfl, hb, Option.map_some, hg]
  have htl : t.launch? b.launch = some l := by rw [State.launch?, hlaunches]; exact hl
  have hcnt : (t.part l.part).cntSave = (s.part l.part).cntSave := by
    show (t.outline.parts l.part).cntSave = _
    rw [harea.outline]
    rfl
  have hlen : t.parts.length = s.parts.length := by
    show t.outline.partCount = _
    rw [harea.outline]
    rfl
  set saved : Block → Block := fun x => { x with
    place := .saved, treatment := none, elapsed := x.elapsed + (s.clock - x.since), waitSince := none, woken := none, saveUnits := units } with hsaved
  set s2 := ((t.modBlock b.uid saved).modLaunch b.launch (fun l => { l with saved := sat32 (l.saved + 1) })).modPart l.part
    (fun p => { p with cntSave := wrap64 (p.cntSave + 1) }) with hs2
  have hfin : s.finishSave b = if ((s2.block? b.uid).map Block.mayRun).getD false then s2.wake (.blk b.uid 0) else s2 := by
    simp only [State.finishSave, hpart, hrec, hcancel]
    rfl
  have hb2 : s2.block? b.uid = some (saved b) := by
    refine (State.block?_modBlock t b.uid b.uid saved fun _ => rfl).trans ?_
    rw [if_pos rfl, htb]
    rfl
  have hl2 : s2.launch? b.launch = some { l with saved := sat32 (l.saved + 1) } :=
    launch?_modLaunch_self (s := t.modBlock b.uid saved) htl fun l => { l with saved := sat32 (l.saved + 1) }
  have hp2 (h : l.part < s.parts.length) : (s2.part l.part).cntSave = wrap64 ((s.part l.part).cntSave + 1) := by
    rw [hs2, State.part_modPart, if_pos ⟨rfl, by rw [← hlen] at h; exact h⟩, ← hcnt]
    rfl
  rw [hexec, hfin]
  split
  · obtain ⟨⟨k, hk, he⟩, hmem, hparts, hlaunch⟩ := wake_keeps hb2 (.blk b.uid 0)
    refine ⟨_, k, rfl, hk, fun h0 a ha => ?_, he, (hlaunch _).trans hl2, fun h => ?_⟩
    · rw [hmem]
      exact harea.mem h0 a ha
    · rw [State.part, hparts]
      exact hp2 h
  · exact ⟨_, saved b, rfl, hb2, fun h0 a ha => harea.mem h0 a ha, rfl, hl2, hp2⟩

end Sys2Proof.Machine
end

section
/-! SUPPORT. The start of a clause issue of the preferred ready wave (R59, R60, R65, R66, R101). -/

namespace Sys2Proof.Machine

/-- A change of a block that leaves its launch and its waves. -/
theorem State.Awake.modBlock {s0 s : State} {uid : Nat} {f : Block → Block} (h : s0.Awake s)
    (hf : ∀ b, (f b).uid = b.uid ∧ (f b).launch = b.launch ∧ (f b).waves = b.waves := by exact fun _ => ⟨rfl, rfl, rfl⟩) :
    s0.Awake (s.modBlock uid f) := by
  have hblock (u : Nat) := State.block?_modBlock s uid u f fun b => (hf b).1
  refine ⟨fun r l x hx hn => ?_, h.issues, fun r => ?_⟩
  · have hs := h.lanes r l x hx hn
    cases r with
    | hdl c q => exact hs
    | blk u w =>
      have hw : (s.modBlock uid f).wave? (.blk u w) = s.wave? (.blk u w) := by
        simp only [State.wave?, hblock]
        split
        · next hu =>
          subst hu
          cases s.block? u with
          | none => rfl
          | some b => simp [(hf b).2.2]
        · rfl
      rwa [State.lane?, hw]
  · rw [← h.record r]
    cases r with
    | hdl c q => rfl
    | blk u w =>
      have hk : ((s.modBlock uid f).block? u).map (·.launch) = (s.block? u).map (·.launch) := by
        rw [hblock]
        split
        · next hu =>
          subst hu
          rw [Option.map_map]
          exact congrFun (congrArg Option.map (funext fun b => (hf b).2.1)) _
        · rfl
      simp only [State.launchOf, State.launchKey, hk]
      rfl

theorem State.Awake.countIssue {s0 s : State} {r : WaveRef} (h : s0.Awake s) : s0.Awake (s.countIssue r) := by
  unfold State.countIssue
  split
  · exact h
  · dsimp only
    split
    · exact h.modLaunch
    · refine State.Awake.modBlock ?_
      split
      · exact h.modLaunch
      · exact h.modLaunch.modLaunch

theorem State.Awake.clearYields {s0 s : State} {core quarter : Nat} {r : WaveRef} (h : s0.Awake s) : s0.Awake (s.clearYields core quarter r) :=
  h.foldl fun _ _ h => h.modWave fun _ _ _ hl _ => hl

theorem State.Awake.fetchWords {s0 : State} {core part space n : Nat} {s : State} {va : Nat} (h : s0.Awake s) :
    s0.Awake (State.fetchWords core part space n s va).2 := by
  induction n generalizing s va with
  | zero => exact h
  | succ n ih =>
    unfold State.fetchWords
    have h1 := h.fetchWordAt (core := core) (part := part) (space := space) (va := va)
    split
    · next e => exact awakeOf2 e h1
    · next s1 e =>
      have h2 := ih (va := va + 4) (awakeOf2 e h1)
      split
      · next e => exact awakeOf2 e h2
      · next e => exact awakeOf2 e h2

theorem State.Awake.dropPodCode {s0 s : State} {core : Nat} (h : s0.Awake s) : s0.Awake (s.dropPodCode core) := by
  unfold State.dropPodCode
  split
  · exact h.modCore
  · exact h

/-- A clause's fetch, whether it succeeds or not. -/
theorem State.Awake.fetchClause {s0 s : State} {core part space codeBase hdr : Nat} (h : s0.Awake s) :
    s0.Awake (s.fetchClause core part space codeBase hdr).2 := by
  unfold State.fetchClause
  have h1 := h.fetchWordAt (core := core) (part := part) (space := space) (va := codeAddr codeBase hdr)
  dsimp only
  split
  · next e => exact awakeOf2 e h1
  · next w s1 e =>
    have h2 := State.Awake.fetchWords (core := core) (part := part) (space := space) (n := bitsOf w 0 4) (va := codeAddr codeBase hdr + 4)
      (awakeOf2 e h1)
    split
    · next e => exact awakeOf2 e h2
    · next e =>
      have h3 := (awakeOf2 e h2).dropPodCode (core := core)
      split
      · exact h3
      · split
        · exact h3
        · exact h3

/-- A lane trapped at a position with a trap record of the cause, detail and address given. -/
def Lane.TrappedWith (y : Lane) (vpc : Word) (slot cause detail addr : Nat) : Prop :=
  ∃ i : TrapInfo, y.state = .trapped ∧ y.trap = some i ∧ i.cause = cause ∧ i.detail = detail ∧ i.addr = addr ∧ i.vpc = vpc ∧ i.slot = slot

/-- A trap that a block's lane takes in native mode, with nothing in issue: the lane is trapped, and no other lane that no Mantis entry holds
changes. -/
theorem takeTrap_traps {s : State} {uid j l : Nat} {rec : LaunchRecord} (hrec : (s.launchOf (.blk uid j)).map (·.record) = some rec)
    (hi : rec.irdan = false) (hn : s.issues = []) (vpc : Word) (slot cause detail addr : Nat) :
    ∃ (u : State) (f : Lane → Lane), s.Awake u ∧ s.takeTrap (.blk uid j) l vpc slot cause detail addr = u.modLane (.blk uid j) l f ∧
      ∀ x, (f x).TrappedWith vpc slot cause detail addr := by
  obtain ⟨la, hla, rfl⟩ := Option.map_eq_some_iff.1 hrec
  have hs1 : s.Awake ((s.fresh.2.modLaunch la.lid (fun x => { x with traps := sat32 (x.traps + 1) })).dropFromIssues (.blk uid j) [l]) := by
    have h := (State.Awake.refl s).fresh.modLaunch (lid := la.lid) (f := fun x => { x with traps := sat32 (x.traps + 1) })
    refine ⟨h.lanes, ?_, h.record⟩
    rw [State.dropFromIssues_issues, h.issues, hn]
    rfl
  simp only [State.takeTrap, hla, hi, Bool.false_and, Bool.or_false, Bool.false_eq_true, if_false]
  split
  · exact ⟨_, _, hs1.faultRecord, rfl, fun x => ⟨_, rfl, rfl, rfl, rfl, rfl, rfl, rfl⟩⟩
  · exact ⟨_, _, hs1, rfl, fun x => ⟨_, rfl, rfl, rfl, rfl, rfl, rfl, rfl⟩⟩

/-- Traps that lanes of a block's wave take in native mode, with nothing in issue. -/
theorem takeTraps_traps {s : State} {uid j : Nat} {rec : LaunchRecord} {ls : List Nat}
    (hrec : (s.launchOf (.blk uid j)).map (·.record) = some rec) (hi : rec.irdan = false) (hn : s.issues = []) (hls : ls.Nodup)
    (hlanes : ∀ l ∈ ls, ∃ x, s.lane? (.blk uid j) l = some x ∧ ∀ n, x.state ≠ .waitMantis n) (vpc : Word) (slot cause detail addr : Nat) :
    let u := s.takeTraps (.blk uid j) ls vpc slot cause detail addr
    u.issues = [] ∧ (∀ l ∈ ls, ∃ y, u.lane? (.blk uid j) l = some y ∧ y.TrappedWith vpc slot cause detail addr) ∧
      ∀ l, l ∉ ls → ∀ x, s.lane? (.blk uid j) l = some x → (∀ n, x.state ≠ .waitMantis n) → u.lane? (.blk uid j) l = some x := by
  induction ls generalizing s with
  | nil => exact ⟨hn, fun l hl => (nomatch hl), fun l _ x hx _ => hx⟩
  | cons l ls ih =>
    obtain ⟨hl, hls⟩ := List.nodup_cons.1 hls
    obtain ⟨t, f, ht, hstep, hf⟩ := takeTrap_traps (l := l) hrec hi hn vpc slot cause detail addr
    set s1 := s.takeTrap (.blk uid j) l vpc slot cause detail addr with hs1
    have hself : s1.lane? (.blk uid j) l = (t.lane? (.blk uid j) l).map f := by rw [hstep, lane?_modLane_self]
    have hother (m : Nat) (hm : m ≠ l) : s1.lane? (.blk uid j) m = t.lane? (.blk uid j) m := by
      rw [hstep, State.lane?_modLane, if_neg (Ne.symm hm)]
    have hrec1 : (s1.launchOf (.blk uid j)).map (·.record) = some rec := by
      rw [hstep, State.modLane, launchOf_modWave, ht.record, hrec]
    have hn1 : s1.issues = [] := by rw [hstep, State.modLane_issues, ht.issues, hn]
    obtain ⟨hissues, hin, hout⟩ := ih hrec1 hn1 hls fun m hm => by
      obtain ⟨x, hx, hxs⟩ := hlanes m (by simp [hm])
      exact ⟨x, (hother m (fun e => hl (e ▸ hm))).trans (ht.lanes _ m x hx hxs), hxs⟩
    refine ⟨hissues, fun m hm => ?_, fun m hm x hx hxs => ?_⟩
    · rcases List.mem_cons.1 hm with rfl | hm
      · obtain ⟨x, hx, hxs⟩ := hlanes m (by simp)
        obtain ⟨i, hi⟩ := hf x
        have hy : s1.lane? (.blk uid j) m = some (f x) := by rw [hself, ht.lanes _ m x hx hxs, Option.map_some]
        exact ⟨f x, hout m hl (f x) hy (fun n => by rw [hi.1]; exact fun h => nomatch h), i, hi⟩
      · exact hin m hm
    · have hml : m ≠ l := fun e => hm (by simp [e])
      exact hout m (fun h => hm (by simp [h])) x ((hother m hml).trans (ht.lanes _ m x hx hxs)) hxs

end Sys2Proof.Machine
end

section
/-! SUPPORT. A clause issue of a single wave begun, recorded or trapped (R60, R65, R66, R101, R411). -/

namespace Sys2Proof.Machine

theorem pairwise_indicesFrom {α : Type} (p : α → Bool) (xs : List α) (n : Nat) : (indicesFrom p n xs).Pairwise (· < ·) := by
  induction xs generalizing n with
  | nil => exact List.Pairwise.nil
  | cons x xs ih =>
    have hlt : ∀ l ∈ indicesFrom p (n + 1) xs, n < l := fun l hl => by
      obtain ⟨i, -, rfl, -⟩ := mem_indicesFrom.1 hl
      omega
    unfold indicesFrom
    split
    · exact List.pairwise_cons.2 ⟨hlt, ih _⟩
    · exact ih _

/-- The lanes of a wave at a key are active lanes of it, each named once. -/
theorem Wave.nodup_atKey (w : Wave) (k : Nat) : (w.atKey k).Nodup :=
  ((pairwise_indicesFrom Lane.isActive w.lanes 0).imp fun h => Nat.ne_of_lt h).filter _

theorem Wave.active_of_mem_atKey {w : Wave} {k l : Nat} (h : l ∈ w.atKey k) : ∃ x, w.lanes[l]? = some x ∧ x.isActive = true :=
  Wave.mem_lanesWhere.1 (List.mem_filter.1 h).1

theorem Lane.not_waitMantis {x : Lane} (h : x.isActive = true) (n : Nat) : x.state ≠ .waitMantis n := by
  simp only [Lane.isActive, beq_iff_eq] at h
  rw [h]
  exact fun h => nomatch h

/-- With nothing in issue, of a state being issued from: its memory, the count of a block's issues, and the lanes of a wave of the block. -/
structure State.Issuing (s : State) (mem : List Host.Cell) (uid j n : Nat) (ever : Bool) (ls : List Lane) : Prop where
  mem : s.mem = mem
  issues : s.issues = []
  block : ∃ k, s.block? uid = some k ∧ k.issued = n ∧ k.everIssued = ever ∧ (k.waves[j]?).map (·.lanes) = some ls

section Issuing

variable {s : State} {mem : List Host.Cell} {uid j n : Nat} {ever : Bool} {ls : List Lane} (h : s.Issuing mem uid j n ever ls)

include h

theorem State.Issuing.modCore (c : Nat) (f : Core → Core) : (s.modCore c f).Issuing mem uid j n ever ls := ⟨h.mem, h.issues, h.block⟩

theorem State.Issuing.modLaunch (l : Nat) (f : Launch → Launch) : (s.modLaunch l f).Issuing mem uid j n ever ls := ⟨h.mem, h.issues, h.block⟩

theorem State.Issuing.modBlock (f : Block → Block) (hf : ∀ b, (f b).uid = b.uid ∧ (f b).waves = b.waves) {m : Nat} {ever' : Bool}
    (hm : ∀ b : Block, b.issued = n → b.everIssued = ever → (f b).issued = m ∧ (f b).everIssued = ever') :
    (s.modBlock uid f).Issuing mem uid j m ever' ls := by
  obtain ⟨k, hk, hn, he, hl⟩ := h.block
  refine ⟨h.mem, h.issues, f k, ?_, (hm k hn he).1, (hm k hn he).2, (hf k).2 ▸ hl⟩
  rw [State.block?_modBlock s uid uid f fun b => (hf b).1, if_pos rfl, hk, Option.map_some]

theorem State.Issuing.modWave (r : WaveRef) (f : Wave → Wave) (hf : ∀ w, (f w).lanes = w.lanes := by exact fun _ => rfl) :
    (s.modWave r f).Issuing mem uid j n ever ls := by
  refine ⟨(State.modWave_mem ..).trans h.mem, (State.modWave_issues ..).trans h.issues, ?_⟩
  obtain ⟨k, hk, hn, he, hl⟩ := h.block
  cases r with
  | hdl c q => exact ⟨k, hk, hn, he, hl⟩
  | blk u i =>
    rw [State.block?_modWave]
    split
    · next hu =>
      subst hu
      refine ⟨{ k with waves := modifyAt k.waves i f }, by rw [hk]; rfl, hn, he, ?_⟩
      rw [getElem?_modifyAt]
      split
      · rw [Option.map_map, ← hl]
        exact congrFun (congrArg Option.map (funext hf)) _
      · exact hl
    · exact ⟨k, hk, hn, he, hl⟩

theorem State.Issuing.clearYields (core quarter : Nat) (r : WaveRef) : (s.clearYields core quarter r).Issuing mem uid j n ever ls :=
  List.foldlRecOn (motive := fun t : State => t.Issuing mem uid j n ever ls) _ _ h fun _ ht _ _ => ht.modWave _ _

/-- The start of an issue counted (R411): the block has issued. -/
theorem State.Issuing.countIssue {l : Nat} (hl : s.launchKey (.blk uid j) = some l) :
    (s.countIssue (.blk uid j)).Issuing mem uid j n true ls := by
  obtain ⟨k, hk, -⟩ := h.block
  have huid : k.uid = uid := by simpa using List.find?_some hk
  unfold State.countIssue
  simp only [hl]
  generalize hs1 : s.modLaunch l _ = s1
  have h1 : s1.Issuing mem uid j n ever ls := hs1 ▸ h.modLaunch _ _
  have hb : s1.blockOf (.blk uid j) = some k := by rw [← hs1]; exact hk
  simp only [hb, huid]
  refine State.Issuing.modBlock (n := n) (ever := ever) ?_ (fun b => { b with everIssued := true }) (fun _ => ⟨rfl, rfl⟩) fun b hb _ => ⟨hb, rfl⟩
  split
  · exact h1
  · exact h1.modLaunch _ _

end Issuing

section Begin

variable {s : State} {core quarter uid j low : Nat} {w : Wave} {b : Block} {la : Launch}

/-- With nothing in issue the preferred wave's plan decides the step. -/
theorem clauseIssue_first {rest : List WaveRef} {p : Plan} {t : State} (hn : s.issues = [])
    (hc : s.candidates core quarter = .blk uid j :: rest) (hp : s.plan (.blk uid j) = (some p, t)) :
    exec (.clauseIssue core quarter []) s = .next (t.beginIssue core quarter (.blk uid j) p []) := by
  have hin (r : WaveRef) : s.inIssue r = false := by simp [State.inIssue, hn]
  have hready : (s.candidates core quarter).filter (fun r => !s.inIssue r) = .blk uid j :: rest := by
    rw [hc]
    exact List.filter_eq_self.2 fun r _ => by rw [hin]; rfl
  show Host.Outcome.next (s.clauseIssueStep core quarter []) = _
  simp only [State.clauseIssueStep, hready, State.beginFirst, hp, Option.getD_some]
  simp [hn]

/-- The plan of a wave that is not fairness-due, at the least key, once its clause is fetched (R101). -/
theorem plan_lowest (hw : s.wave? (.blk uid j) = some w) (hla : s.launchOf (.blk uid j) = some la) (hlow : w.lowKey = some low)
    (hd : w.fairDue low = false) {f : Fetched} {t : State}
    (hf : s.fetchClause (s.coreOf (.blk uid j)) (s.partOf (.blk uid j)) (s.spaceOf (.blk uid j)) la.record.codeBase (low / 16) = (f, t))
    (hok : match f with
      | .ok c => low % 16 ≠ 0 ∨ w.waitMet c.1 = true
      | .error e => e.1 ≠ 0) :
    s.plan (.blk uid j) = (some ⟨w.atKey low, low, false, f⟩, t) := by
  have hk : s.planKey (.blk uid j) w low = ((true, f), t) := by
    simp only [State.planKey, hla, Option.map_some, Option.getD_some, hf]
    cases f with
    | error e => simpa using hok
    | ok c => simpa using hok
  simp only [State.plan, hw, hlow, hd, hk]
  rfl

/-- A clause issue recorded. -/
theorem beginIssue_recorded {t : State} {n : Nat} {ever : Bool} {ls : List Lane} {mem : List Host.Cell} (ht : t.Issuing mem uid j n ever ls) {l : Nat}
    (hl : t.launchKey (.blk uid j) = some l) (lanes : List Nat) (c : Header × List Nat) :
    ∃ (u : State) (id : Nat), t.beginIssue core quarter (.blk uid j) ⟨lanes, low, false, .ok c⟩ [] =
        { u with issues := [⟨id, core, quarter, [(.blk uid j, lanes)], [(.blk uid j, lanes)], false, BitVec.ofNat 32 (low / 16), c.1.count,
          c.1.cls, c.1.traps, c.1.yields, c.2, low % 16 + 1⟩] } ∧ u.Issuing mem uid j (n + 1) true ls := by
  unfold State.beginIssue
  extract_lets s0 s1 s2 hdr s3
  have h2 : s2.Issuing mem uid j n true ls := by
    refine State.Issuing.modCore ?_ _ _
    refine State.Issuing.modWave ?_ _ _ fun _ => rfl
    exact (ht.countIssue hl).clearYields core quarter _
  have h3 : s3.Issuing mem uid j (n + 1) true ls :=
    h2.modBlock (fun b => { b with issued := b.issued + 1 }) (fun _ => ⟨rfl, rfl⟩) fun b hb he => ⟨congrArg (· + 1) hb, he⟩
  have hmore (own : List Nat) : (if ((s3.wave? (.blk uid j)).map (·.diverged)).getD false then s3.formMates (.blk uid j) low c.1 [] own
      else []) = [] := by
    split <;> rfl
  simp only [hmore, List.isEmpty_nil, if_true, List.foldr_nil, List.foldl_nil, State.fresh]
  refine ⟨{ s3 with next := s3.next + 1 }, s3.next, ?_, ⟨h3.mem, h3.issues, h3.block⟩⟩
  simp only [h3.issues, List.nil_append]
  rfl

/-- A clause that cannot be fetched traps the lanes that stand at it (R65, R66). -/
theorem beginIssue_trapped {t : State} (ht : s.Awake t) (hn : s.issues = []) (hw : s.wave? (.blk uid j) = some w)
    (hla : s.launchOf (.blk uid j) = some la) (hi : la.record.irdan = false) (f : Nat × Nat × Nat) :
    let u := t.beginIssue core quarter (.blk uid j) ⟨w.atKey low, low, false, .error f⟩ []
    u.issues = [] ∧ ∀ l ∈ w.atKey low, ∃ y, u.lane? (.blk uid j) l = some y ∧
      y.TrappedWith (BitVec.ofNat 32 (low / 16)) (low % 16) f.1 f.2.1 f.2.2 := by
  unfold State.beginIssue
  extract_lets s0 s1 s2 hdr s3 own u
  have h2 : s.Awake s2 := by
    refine State.Awake.modCore ?_ fun _ => rfl
    refine State.Awake.modWave ?_ fun _ _ _ hl _ => hl
    exact ht.countIssue.clearYields
  have h3 : s.Awake s3 := h2.modBlock (f := fun b => { b with issued := b.issued + 1 }) fun _ => ⟨rfl, rfl, rfl⟩
  have hrec : (s3.launchOf (.blk uid j)).map (·.record) = some la.record := by rw [h3.record, hla, Option.map_some]
  obtain ⟨hissues, hlanes, -⟩ := takeTraps_traps hrec hi (h3.issues.trans hn) (w.nodup_atKey low) (fun l hl => by
    obtain ⟨x, hx, ha⟩ := Wave.active_of_mem_atKey hl
    exact ⟨x, h3.lanes _ l x (by rw [State.lane?, hw]; exact hx) (Lane.not_waitMantis ha), Lane.not_waitMantis ha⟩)
    hdr (low % 16) f.1 f.2.1 f.2.2
  refine ⟨(State.modWave_issues ..).trans hissues, fun l hl => ?_⟩
  obtain ⟨y, hy, hyt⟩ := hlanes l hl
  obtain ⟨v, hv, hvl⟩ := Option.bind_eq_some_iff.1 hy
  refine ⟨{ y with starve := 0 }, ?_, hyt⟩
  rw [show u = (s3.takeTraps (.blk uid j) (w.atKey low) hdr (low % 16) f.1 f.2.1 f.2.2).modWave (.blk uid j)
    (fun x => x.endIssue (w.atKey low) false) from rfl, State.lane?, State.wave?_modWave, hv]
  have hl' : v.lanes[l]? = some y := hvl
  simp only [Option.map_some, Option.bind_some, Wave.lane?, Wave.endIssue, getElem?_mapIdx', hl']
  simp [hl]

/-- A clause that is fetched and whose wait is met is issued. -/
theorem clauseIssue_issues {rest : List WaveRef} (hn : s.issues = []) (hc : s.candidates core quarter = .blk uid j :: rest)
    (hw : s.wave? (.blk uid j) = some w) (hb : s.block? uid = some b) (hla : s.launchOf (.blk uid j) = some la) (hlow : w.lowKey = some low)
    (hd : w.fairDue low = false) {c : Header × List Nat} {t : State}
    (hf : s.fetchClause (s.coreOf (.blk uid j)) (s.partOf (.blk uid j)) (s.spaceOf (.blk uid j)) la.record.codeBase (low / 16) = (.ok c, t))
    (hok : low % 16 ≠ 0 ∨ w.waitMet c.1 = true) :
    ∃ (u : State) (i : Issue) (k : Block) (v : Wave), exec (.clauseIssue core quarter []) s = .next u ∧ u.issues = [i] ∧
      i.members = [(.blk uid j, w.atKey low)] ∧ i.group = [(.blk uid j, w.atKey low)] ∧ i.core = core ∧ i.quarter = quarter ∧
      i.stalled = false ∧ i.hdr = BitVec.ofNat 32 (low / 16) ∧ i.pos = low % 16 + 1 ∧ i.words = c.2 ∧ i.count = c.1.count ∧
      i.cls = c.1.cls ∧ i.traps = c.1.traps ∧ i.yields = c.1.yields ∧ u.block? uid = some k ∧ k.issued = b.issued + 1 ∧
      k.everIssued = true ∧ u.wave? (.blk uid j) = some v ∧ v.lanes = w.lanes ∧ u.mem = t.mem := by
  have ho := outline_fetchClause hf
  have hblocks : t.blocks = s.blocks := congrArg Outline.blocks ho
  obtain ⟨n, hkey, -⟩ := Option.bind_eq_some_iff.1 hla
  have hbw : (b.waves[j]?).map (·.lanes) = some w.lanes := by
    rw [State.wave?, hb, Option.bind_some] at hw
    rw [hw, Option.map_some]
  have ht : t.Issuing t.mem uid j b.issued b.everIssued w.lanes :=
    ⟨rfl, (congrArg Outline.issues ho).trans hn, b, by rw [← hb]; simp only [State.block?, hblocks], rfl, rfl, hbw⟩
  have htk : t.launchKey (.blk uid j) = some n := by rw [← hkey]; simp only [State.launchKey, State.block?, hblocks]
  obtain ⟨u, id, hu, hmem, hissues, k, hk, hkn, hke, hkw⟩ := beginIssue_recorded (core := core) (quarter := quarter) (low := low) ht htk
      (w.atKey low) c
  obtain ⟨v, hv, hvl⟩ := Option.map_eq_some_iff.1 hkw
  refine ⟨_, _, k, v, (clauseIssue_first hn hc (plan_lowest hw hla hlow hd hf hok)).trans (congrArg _ hu), rfl, rfl, rfl, rfl, rfl, rfl,
      rfl, rfl, rfl,
    rfl, rfl, rfl, rfl, hk, hkn, hke, ?_, hvl, hmem⟩
  exact (congrArg (fun o => o.bind (fun x : Block => x.waves[j]?)) hk).trans hv

/-- A clause that cannot be fetched is issued to trap, in a launch that is not one of Irdan-mode. -/
theorem clauseIssue_traps {rest : List WaveRef} (hn : s.issues = []) (hc : s.candidates core quarter = .blk uid j :: rest)
    (hw : s.wave? (.blk uid j) = some w) (hla : s.launchOf (.blk uid j) = some la) (hlow : w.lowKey = some low)
    (hd : w.fairDue low = false) {f : Nat × Nat × Nat} {t : State}
    (hf : s.fetchClause (s.coreOf (.blk uid j)) (s.partOf (.blk uid j)) (s.spaceOf (.blk uid j)) la.record.codeBase (low / 16) = (.error f, t))
    (hne : f.1 ≠ 0) (hi : la.record.irdan = false) :
    ∃ u : State, exec (.clauseIssue core quarter []) s = .next u ∧ u.issues = [] ∧
      ∀ l ∈ w.atKey low, ∃ (y : Lane) (i : TrapInfo), u.lane? (.blk uid j) l = some y ∧ y.state = .trapped ∧ y.trap = some i ∧ i.cause = f.1 ∧
        i.detail = f.2.1 ∧ i.addr = f.2.2 ∧ i.vpc = BitVec.ofNat 32 (low / 16) ∧ i.slot = low % 16 := by
  obtain ⟨hissues, hlanes⟩ := beginIssue_trapped (core := core) (quarter := quarter) (low := low)
    (awakeOf2 hf (State.Awake.refl s).fetchClause) hn hw hla hi f
  refine ⟨_, clauseIssue_first hn hc (plan_lowest hw hla hlow hd hf hne), hissues, fun l hl => ?_⟩
  obtain ⟨y, hy, i, hyt⟩ := hlanes l hl
  exact ⟨y, i, hy, hyt⟩

end Begin

end Sys2Proof.Machine
end

section
/-! SUPPORT. A handler wave formed over the lanes that await one (R395). -/

namespace Sys2Proof.Machine

/-- What each step of an indexed fold keeps, the fold keeps. -/
theorem foldIdx_keeps {α σ β : Type} (g : σ → β) {f : σ → Nat → α → σ} (h : ∀ s i a, g (f s i a) = g s) (s : σ) (i : Nat) (l : List α) :
    g (foldIdx f s i l) = g s := by
  induction l generalizing s i with
  | nil => rfl
  | cons a l ih => rw [foldIdx, ih, h]

/-- A handler wave placed in a quarter of a core. -/
theorem wave?_setHandler (s : State) {core quarter : Nat} (hc : core < s.cores.length) (hq : quarter < (s.core core).handlers.length) (h : Handler) :
    (s.modCore core (fun k => { k with handlers := setAt k.handlers quarter (some h) })).wave? (.hdl core quarter) = some h.wave := by
  rw [State.wave?, core_modCore, if_pos ⟨rfl, hc⟩]
  dsimp only
  rw [getD_setAt, if_pos ⟨rfl, hq⟩, Option.map_some]

/-- The handler wave over some lanes that await one. -/
def handlerWave (entry : Word) (taken : List Awaiting) : Wave :=
  let w := Wave.atLaunch 64 16 16 taken.length entry false
  { w with lanes := mapIdx' (fun i (x : Lane) => { x with origin := (taken[i]?).map (·.origin) }) w.lanes }

theorem handlerWave_lane {entry : Word} {taken : List Awaiting} {i : Nat} {y : Lane} (h : (handlerWave entry taken).lanes[i]? = some y) :
    y = { Lane.atLaunch 16 entry (if i < taken.length then .active else .helper) with origin := (taken[i]?).map (·.origin) } := by
  simp only [handlerWave, getElem?_mapIdx', Wave.atLaunch, upTo_eq_range, List.getElem?_map, Option.map_eq_some_iff] at h
  obtain ⟨_, ⟨n, hn, rfl⟩, rfl⟩ := h
  obtain ⟨h, rfl⟩ := List.getElem?_eq_some_iff.1 hn
  rw [List.getElem_range]

variable {s : State} {core quarter : Nat} {a : Awaiting} {more : List Awaiting} {la : Launch} {entry : Word}

theorem handlerWaveForm_stands (ha : s.awaitingOn core = a :: more) (hl : s.launch? a.launch = some la)
    (hh : ((s.core core).handlers.getD quarter none).isSome = true) : exec (.handlerWaveForm core quarter) s = .next s := by
  show execHandlerWaveForm core quarter s = _
  simp only [execHandlerWaveForm, ha, hl, hh, Bool.or_true, if_true]

theorem handlerWaveForm_forms (hf : s.device.fenced = false) (ha : s.awaitingOn core = a :: more) (hl : s.launch? a.launch = some la)
    (he : la.record.entryOfTraps = some entry) (hq : quarter < 4) (hc : core < s.cores.length) (h4 : (s.core core).handlers.length = 4)
    (hh : ((s.core core).handlers.getD quarter none).isSome = false) :
    let taken := ((s.awaitingOn core).filter (fun x => x.launch == a.launch)).take 64
    ∃ (u : State) (v : Wave), exec (.handlerWaveForm core quarter) s = .next u ∧ u.wave? (.hdl core quarter) = some v ∧ u.mem = s.mem ∧
      v.width = 64 ∧ v.lanes.length = 64 ∧
      ∀ (i : Nat) (y : Lane), v.lanes[i]? = some y → y = { Lane.atLaunch 16 entry (if i < taken.length then .active else .helper) with
        origin := (taken[i]?).map (·.origin) } := by
  intro taken
  have hexec : exec (.handlerWaveForm core quarter) s = execHandlerWaveForm core quarter s := rfl
  rw [hexec]
  simp only [execHandlerWaveForm, ha, hl, hf, hh, he, Nat.not_le.2 hq, decide_false, Bool.or_false, Bool.false_eq_true, if_false]
  refine ⟨_, handlerWave entry taken, rfl, ?_, ?_, rfl, by simp [handlerWave, Wave.atLaunch, upTo_eq_range], fun i y => handlerWave_lane⟩
  · refine (foldIdx_keeps (fun t : State => t.wave? (.hdl core quarter)) (fun t i x => ?_) _ 0 _).trans ?_
    · exact State.wave?_modWave_ne _ _ _ _ (by simp)
    · rw [wave?_setHandler s hc (by rw [h4]; exact hq), ← ha]
      rfl
  · exact foldIdx_keeps State.mem (fun t i x => State.modLane_mem ..) _ 0 _

end Sys2Proof.Machine
end

section
/-! SUPPORT. A block placed on a core, and its waves seated in packs (R52, R54, R55, R58, R340). -/

namespace Sys2Proof.Machine

/-- A wave seated elsewhere is the same but for its place in a pack. -/
def Wave.SeatOf (y x : Wave) : Prop := y = { x with pack := y.pack, packPos := y.packPos }

/-- Waves seated are as before but for their packs. -/
theorem seatWaves_seats (width q : Nat) (taken : List (List Nat)) (ws : List Wave) :
    List.Forall₂ Wave.SeatOf (seatWaves width q taken ws) ws := by
  induction ws generalizing q taken with
  | nil => exact .nil
  | cons w ws ih => exact .cons rfl (ih _ _)

theorem State.seat_seats (s : State) (b : Block) (core start width : Nat) : List.Forall₂ Wave.SeatOf (s.seat b core start width) b.waves :=
  seatWaves_seats ..

theorem seatOf_getElem? {ys xs : List Wave} (h : List.Forall₂ Wave.SeatOf ys xs) {i : Nat} {x y : Wave} (hx : xs[i]? = some x)
    (hy : ys[i]? = some y) : y.SeatOf x := by
  obtain ⟨hi, rfl⟩ := List.getElem?_eq_some_iff.1 hx
  obtain ⟨hj, rfl⟩ := List.getElem?_eq_some_iff.1 hy
  exact (List.forall₂_iff_get.1 h).2 i hj hi

/-- Of one number more than a list holds, one is not in the list. -/
theorem exists_free (used : List Nat) : ∃ h, (upTo (used.length + 1)).find? (fun h => !used.contains h) = some h ∧ h ∉ used := by
  cases hf : (upTo (used.length + 1)).find? (fun h => !used.contains h) with
  | some h => exact ⟨h, rfl, by simpa using List.find?_some hf⟩
  | none =>
    have hall : List.range (used.length + 1) ⊆ used := fun h hh => by
      simpa using List.find?_eq_none.1 hf h (by rwa [upTo_eq_range])
    have := (List.nodup_range.subperm hall).length_le
    simp only [List.length_range] at this
    omega

/-- The free handle of a partition is held by no live block of it (R340). -/
theorem freeHandle_free {s : State} {part : Nat} {x : Block} (hx : x ∈ s.blocks) (hp : x.place ≠ .unplaced)
    (hl : ((s.launch? x.launch).map (·.part)).getD 16 = part) : x.handle ≠ s.freeHandle part := by
  unfold State.freeHandle
  extract_lets used
  obtain ⟨h, hf, hh⟩ := exists_free used
  rw [hf, Option.getD_some]
  intro he
  exact hh (he ▸ List.mem_map_of_mem (List.mem_filter.2 ⟨hx, by simp [hp, hl]⟩))

/-- The next block of an admitted launch of single blocks is placed on the core chosen for it. -/
theorem blockPlace_places {s : State} {l : Launch} {core start : Nat} (hl : s.launch? l.lid = some l) (hp : s.places l = true)
    (hs : l.stage = .admitted) (hco : l.record.coresident = false) (hw : s.wakeFirst l.part l.record.priority = false)
    (hc : l.record.cluster = 1) (hn : l.nextLin < l.record.blocks)
    (hu : ∀ b ∈ s.blocks, b.launch = l.lid → b.lin = l.nextLin → b.place ≠ .unplaced)
    (hone : placeOne (s.rooms (s.part l.part).placeCells (fun _ => false)) l.record none = some (core, start)) :
    ∃ (u : State) (b : Block), exec (.blockPlace l.lid l.nextLin) s = .next u ∧ u.blocks = s.blocks ++ [b] ∧ u.mem = s.mem ∧
      u.launch? l.lid = some { l with nextLin := l.nextLin + 1 } ∧
      b = { Block.atLaunch l.record s.next l.lid l.nextLin b.handle core start b.placed s.clock with waves := b.waves } ∧
      (∀ x ∈ s.blocks, x.place ≠ .unplaced → ((s.launch? x.launch).map (·.part)).getD 16 = l.part → x.handle ≠ b.handle) ∧
      b.waves.length = l.record.launchWaves.length ∧
      ∀ (i : Nat) (x y : Wave), l.record.launchWaves[i]? = some x → b.waves[i]? = some y →
        y = { x with pack := y.pack, packPos := y.packPos } := by
  have hfind : s.blocks.find? (fun b => b.launch == l.lid && b.lin == l.nextLin && b.place == .unplaced) = none :=
    List.find?_eq_none.2 fun b hb => by
      simp only [Bool.and_eq_true, beq_iff_eq]
      exact fun h => hu b hb h.1.1 h.1.2 h.2
  have hexec : exec (.blockPlace l.lid l.nextLin) s = .next (s.startBlocks l.lid l.nextLin [(core, start)]) := by
    show execBlockPlace l.lid l.nextLin s = _
    simp only [execBlockPlace, hl, hp, hs, hco, hfind, State.placeNext, hc, placeTogether, hone, hw]
    simp [Nat.not_le.2 hn]
  set f := (s.clearRemains core).fresh.2 with hf
  set b0 := Block.atLaunch l.record s.next l.lid l.nextLin (s.freeHandle l.part) core start f.fresh.1 s.clock with hb0
  have hseat := s.seat_seats b0 core start l.record.width
  refine ⟨_, { b0 with waves := s.seat b0 core start l.record.width }, hexec, ?_, ?_, ?_, rfl, fun x hx hxp hxl => freeHandle_free hx hxp hxl,
    hseat.length_eq, fun i x y hx hy => ?_⟩
  · simp only [State.startBlocks, hl]
    rfl
  · simp only [State.startBlocks, hl]
    rfl
  · simp only [State.startBlocks, hl]
    exact launch?_modLaunch_self (s := s.startBlock l l.nextLin core start) hl fun x => { x with nextLin := l.nextLin + 1 }
  · exact seatOf_getElem? hseat hx hy

end Sys2Proof.Machine
end

section
/-! SUPPORT. A saved block restored: it stands on a core as it was saved (R102, R292, R413). -/

namespace Sys2Proof.Machine

/-- Operations moved with their block stand on its core. -/
theorem core_of_mem_moveEngOps {s : State} {uid core : Nat} {e : EngOp} (he : e ∈ (s.moveEngOps uid core).engOps) (hu : e.uid = uid) :
    e.core = core := by
  rcases List.mem_append.1 he with h | h
  · simp [hu] at h
  · obtain ⟨x, -, rfl⟩ := List.mem_map.1 h
    rfl

/-- The waves of a restored block: as saved, with fresh timing, seated anew. -/
theorem freshTiming_getElem? {ys xs : List Wave} (h : List.Forall₂ Wave.SeatOf ys xs) {i : Nat} {x y : Wave} (hx : xs[i]? = some x)
    (hy : (ys.map Wave.freshTiming)[i]? = some y) :
    y = { x with pack := y.pack, packPos := y.packPos, fairPos := 0, lanes := x.lanes.map (fun z => { z with starve := 0 }) } := by
  rw [List.getElem?_map] at hy
  obtain ⟨v, hv, rfl⟩ := Option.map_eq_some_iff.1 hy
  have hvx : v = { x with pack := v.pack, packPos := v.packPos } := seatOf_getElem? h hx hv
  rw [hvx]
  rfl

/-- A woken block for which there is a place is restored there. -/
theorem blockRestore_restores {s : State} {b : Block} {l : Launch} {core start : Nat} (hb : s.block? b.uid = some b)
    (hl : s.launch? b.launch = some l) (hp : b.place = .saved) (hw : b.woken.isSome = true) (hpl : s.places l = true) (ho : s.stackOpen b = true)
    (hr : s.returnPlan b = some [(b.uid, core, start)]) : ∃ (u : State) (k : Block), exec (.blockRestore b.uid) s = .next u ∧
      u.block? b.uid = some k ∧ u.mem = s.mem ∧ k = { b with
        place := .resident, core := core, startQuarter := start, placed := s.next, since := s.clock, woken := none, treatment := none,
        waitSince := none, saveUnits := [], waves := k.waves } ∧ (∀ e ∈ u.engOps, e.uid = b.uid → e.core = core) ∧ k.waves.length = b.waves.length ∧
      ∀ (i : Nat) (x y : Wave), b.waves[i]? = some x → k.waves[i]? = some y →
        y = { x with pack := y.pack, packPos := y.packPos, fairPos := 0, lanes := x.lanes.map (fun z => { z with starve := 0 }) } := by
  have hexec : exec (.blockRestore b.uid) s = .next (s.restoreBlock b.uid core start) := by
    show execBlockRestore b.uid s = _
    simp [execBlockRestore, hb, hl, hp, hpl, hr, State.planOpen, ho, State.returnBlocks, Option.isNone_eq_false_iff.2 hw]
  have hseat := s.seat_seats b core start (s.recordOf b).width
  set g : Block → Block := fun x => { x with
    place := .resident, core := core, startQuarter := start, placed := s.next, since := s.clock, woken := none, treatment := none
    waitSince := none, saveUnits := [], waves := (s.seat b core start (s.recordOf b).width).map Wave.freshTiming } with hg
  have hu : s.restoreBlock b.uid core start = ((s.clearRemains core).moveEngOps b.uid core).fresh.2.modBlock b.uid g := by
    simp only [State.restoreBlock, hb]
    rfl
  refine ⟨_, g b, hexec, ?_, by rw [hu]; rfl, rfl, ?_, ?_, fun i x y hx hy => freshTiming_getElem? hseat hx hy⟩
  · rw [hu, State.block?_modBlock _ b.uid b.uid g fun _ => rfl, if_pos rfl,
      show ((s.clearRemains core).moveEngOps b.uid core).fresh.2.block? b.uid = some b from hb, Option.map_some]
  · rw [hu]
    exact fun e he => core_of_mem_moveEngOps (s := s.clearRemains core) he
  · rw [hg, List.length_map, hseat.length_eq]

end Sys2Proof.Machine
end

section
/-! SUPPORT. A block flushed: what it waits for and what it has in flight is withdrawn, and it is set back to its launch state (R401, R414). -/

namespace Sys2Proof.Machine

/-- From one state to another, waits and engine operations are only withdrawn, no block or partition goes, and launches keep their counts, their
greatest `ltc` not falling; memory is the same where no entry holds records. -/
structure Withdrawn (s t : State) : Prop where
  blocks : ∀ uid, (s.block? uid).isSome = true → (t.block? uid).isSome = true
  entries : ∀ e ∈ t.entries, e ∈ s.entries
  engOps : ∀ e ∈ t.engOps, e ∈ s.engOps
  mem : (∀ e ∈ s.entries, e.recs = []) → t.mem = s.mem
  launches : ∀ n l, s.launch? n = some l → ∃ m, t.launch? n = some m ∧ m.restarted = l.restarted ∧ l.maxLtc ≤ m.maxLtc
  parts : t.parts.length = s.parts.length ∧ ∀ p, (t.part p).cntRestart = (s.part p).cntRestart

theorem Withdrawn.refl (s : State) : Withdrawn s s :=
  ⟨fun _ h => h, fun _ h => h, fun _ h => h, fun _ => rfl, fun _ l h => ⟨l, h, rfl, Nat.le_refl _⟩, rfl, fun _ => rfl⟩

theorem Withdrawn.trans {s t u : State} (h : Withdrawn s t) (k : Withdrawn t u) : Withdrawn s u where
  blocks uid hb := k.blocks uid (h.blocks uid hb)
  entries e he := h.entries e (k.entries e he)
  engOps e he := h.engOps e (k.engOps e he)
  mem hr := (k.mem fun e he => hr e (h.entries e he)).trans (h.mem hr)
  launches n l hl := by
    obtain ⟨m, hm, hr, hle⟩ := h.launches n l hl
    obtain ⟨m', hm', kr, kle⟩ := k.launches n m hm
    exact ⟨m', hm', kr.trans hr, hle.trans kle⟩
  parts := ⟨k.parts.1.trans h.parts.1, fun p => (k.parts.2 p).trans (h.parts.2 p)⟩

theorem Withdrawn.foldl {α : Type} {f : State → α → State} (hf : ∀ s a, Withdrawn s (f s a)) (l : List α) (s : State) :
    Withdrawn s (l.foldl f s) :=
  List.foldlRecOn (motive := fun t : State => Withdrawn s t) l f (.refl s) fun t ht a _ => ht.trans (hf t a)

/-- A change of blocks that keeps their identities. -/
theorem Withdrawn.modBlock (s : State) (uid : Nat) (f : Block → Block) (hf : ∀ b, (f b).uid = b.uid) : Withdrawn s (s.modBlock uid f) where
  blocks u h := by
    rw [State.block?_modBlock s uid u f hf]
    split
    · next hu =>
      subst hu
      simpa using h
    · exact h
  entries _ h := h
  engOps _ h := h
  mem _ := rfl
  launches _ l h := ⟨l, h, rfl, Nat.le_refl _⟩
  parts := ⟨rfl, fun _ => rfl⟩

theorem Withdrawn.modWave (s : State) (r : WaveRef) (f : Wave → Wave) : Withdrawn s (s.modWave r f) := by
  cases r with
  | blk u w => exact .modBlock s u _ fun _ => rfl
  | hdl c q => exact ⟨fun _ h => h, fun _ h => h, fun _ h => h, fun _ => rfl, fun _ l h => ⟨l, h, rfl, Nat.le_refl _⟩, rfl, fun _ => rfl⟩

/-- A change of the operations of memory, the clause issues and the next number, and of no more. -/
theorem Withdrawn.ops (s : State) (ops : List MemOp) (issues : List Issue) (next : Nat) :
    Withdrawn s { s with memOps := ops, issues := issues, next := next } :=
  ⟨fun _ h => h, fun _ h => h, fun _ h => h, fun _ => rfl, fun _ l h => ⟨l, h, rfl, Nat.le_refl _⟩, rfl, fun _ => rfl⟩

/-- A launch's greatest `ltc` raised. -/
theorem Withdrawn.modLaunch (s : State) (lid : Nat) (f : Launch → Launch)
    (hf : ∀ l, (f l).lid = l.lid ∧ (f l).restarted = l.restarted ∧ l.maxLtc ≤ (f l).maxLtc) : Withdrawn s (s.modLaunch lid f) where
  blocks _ h := h
  entries _ h := h
  engOps _ h := h
  mem _ := rfl
  launches n l h := by
    rw [State.launch?_modLaunch s lid n f fun l => (hf l).1, h, Option.map_some]
    split
    · exact ⟨_, rfl, (hf l).2⟩
    · exact ⟨l, rfl, rfl, Nat.le_refl _⟩
  parts := ⟨rfl, fun _ => rfl⟩

/-- An entry dropped; only its records, freed, are written. -/
theorem Withdrawn.dropEntry {s t : State} (h : Withdrawn s t) {e : Entry} (he : e ∈ s.entries) : Withdrawn s (t.dropEntry e) := by
  have ho := outline_freeRecords t e
  have hblocks : (t.freeRecords e).blocks = t.blocks := congrArg Outline.blocks ho
  have hlaunches : (t.freeRecords e).launches = t.launches := congrArg Outline.launches ho
  have hengOps : (t.freeRecords e).engOps = t.engOps := congrArg Outline.engOps ho
  refine ⟨fun u hu => ?_, fun x hx => h.entries x (List.mem_filter.1 hx).1, fun x hx => h.engOps x (hengOps ▸ hx), fun hr => ?_, fun n l hl => ?_,
    (congrArg Outline.partCount ho).trans h.parts.1, fun p => (congrArg (fun o : Outline => (o.parts p).cntRestart) ho).trans (h.parts.2 p)⟩
  · have : (t.dropEntry e).block? u = t.block? u := by simp only [State.dropEntry, State.block?, hblocks]
    rw [this]
    exact h.blocks u hu
  · rw [← h.mem hr]
    show (t.freeRecords e).mem = t.mem
    rw [State.freeRecords, hr e he]
    rfl
  · rw [show (t.dropEntry e).launch? n = t.launch? n by simp only [State.dropEntry, State.launch?, hlaunches]]
    exact h.launches n l hl

theorem Withdrawn.dropEntries (s : State) (p : Entry → Bool) : Withdrawn s (s.dropEntries p) :=
  List.foldlRecOn (motive := fun t : State => Withdrawn s t) _ _ (.refl s) fun _ ht _ he => ht.dropEntry (List.mem_filter.1 he).1

/-- Of entries dropped one by one, those with other numbers are left. -/
theorem entries_dropAll (es : List Entry) (s : State) :
    (es.foldl (fun s e => s.dropEntry e) s).entries = s.entries.filter (fun x => es.all (fun e => x.key != e.key)) := by
  induction es generalizing s with
  | nil => simp
  | cons e es ih =>
    rw [List.foldl_cons, ih]
    simp only [State.dropEntry, List.filter_filter, List.all_cons]
    exact List.filter_congr fun x _ => Bool.and_comm ..

/-- No entry that was to be dropped is left. -/
theorem mem_dropEntries {s : State} {p : Entry → Bool} {e : Entry} (h : e ∈ (s.dropEntries p).entries) : p e = false := by
  rw [State.dropEntries, entries_dropAll] at h
  obtain ⟨he, hall⟩ := List.mem_filter.1 h
  by_contra hp
  simpa using List.all_eq_true.1 hall e (List.mem_filter.2 ⟨he, by simpa using hp⟩)

theorem Withdrawn.exitLanes (s : State) (r : WaveRef) (ls : List Nat) : Withdrawn s (s.exitLanes r ls) :=
  (Withdrawn.modWave s r _).trans (.ops _ _ _ _)

theorem Withdrawn.endWaits (s : State) (r : WaveRef) (ls : List Nat) : Withdrawn s (s.endWaits r ls) := by
  unfold State.endWaits
  split
  · exact .refl s
  · exact ((Withdrawn.foldl (fun s g => .modWave s r _) _ s).trans (.dropEntries _ _)).trans (.ops _ _ _ _)

theorem Withdrawn.parkBlock (s : State) (uid : Nat) : Withdrawn s (s.parkBlock uid) := by
  refine Withdrawn.trans (Withdrawn.foldl (fun s i => ?_) _ s) (.ops _ _ _ _)
  exact Withdrawn.foldl (fun s m => Withdrawn.foldl (fun s l => .modWave s _ _) _ s) _ s

theorem Withdrawn.cancelHandling (s : State) (uid : Nat) : Withdrawn s (s.cancelHandling uid) := by
  unfold State.cancelHandling
  split
  · exact .refl s
  · refine Withdrawn.trans (Withdrawn.foldl (fun s q => ?_) _ s) (.modBlock _ _ _ fun _ => rfl)
    dsimp only
    split
    · exact .refl s
    · split
      · exact .refl s
      · exact (Withdrawn.endWaits s _ _).trans (.exitLanes _ _ _)

theorem Withdrawn.foldLaunch (s : State) (r : WaveRef) (lid c : Nat) : Withdrawn s (s.foldLaunch r lid c) := by
  unfold State.foldLaunch
  split
  · exact .refl s
  · exact .modLaunch s lid _ fun l => ⟨rfl, rfl, Nat.le_max_left ..⟩

theorem Withdrawn.drainMem (r : WaveRef) (fuel : Nat) (s : State) : Withdrawn s (State.drainMem r fuel s) := by
  induction fuel generalizing s with
  | zero => exact .refl s
  | succ n ih =>
    unfold State.drainMem
    split
    · exact .refl s
    · next o _ =>
      split
      · extract_lets s1
        have hs1 : Withdrawn s s1 :=
          (show Withdrawn s (s.countOut r 0 o.completion) from .modWave s r _).trans (.foldLaunch _ r o.launch o.completion)
        refine (hs1.trans ?_).trans (ih _)
        split <;> exact .ops _ _ _ _
      · exact .refl s

theorem Withdrawn.orphan (s : State) (uid dead waves : Nat) : Withdrawn s (s.orphan uid dead waves) :=
  (Withdrawn.ops s _ _ _).trans (.foldl (fun _ _ => .drainMem _ _ _) _ _)

theorem le_foldl_max (l : List Nat) (n : Nat) : n ≤ l.foldl max n ∧ ∀ x ∈ l, x ≤ l.foldl max n := by
  induction l generalizing n with
  | nil => exact ⟨Nat.le_refl _, fun x h => nomatch h⟩
  | cons a l ih =>
    obtain ⟨h, hl⟩ := ih (max n a)
    refine ⟨(Nat.le_max_left ..).trans h, fun x hx => ?_⟩
    rcases List.mem_cons.1 hx with rfl | hx
    · exact (Nat.le_max_right ..).trans h
    · exact hl x hx

/-- A block replaced by one of the same number is found in its place. -/
theorem block?_replace {s : State} {uid : Nat} {n : Block} (hn : n.uid = uid) (h : (s.block? uid).isSome = true) :
    (s.modBlock uid (fun _ => n)).block? uid = some n := by
  obtain ⟨b, hb⟩ := Option.isSome_iff_exists.1 h
  have hu : b.uid = uid := by simpa using List.find?_some hb
  simp only [State.block?, State.modBlock, List.find?_map]
  rw [List.find?_congr (p₂ := fun b : Block => b.uid == uid) (fun b _ => by
      simp only [Function.comp]
      split
      · next h => simp [hn, h]
      · rfl),
    show s.blocks.find? (fun b => b.uid == uid) = some b from hb, Option.map_some, hu, if_pos (by simp)]

/-- The entries of a block's waves. -/
def entryOfBlock (uid : Nat) (e : Entry) : Bool :=
  match e.owner with
  | .wave r => ofBlock uid r
  | .ring r => ofBlock uid r
  | _ => false

/-- What of a state a discard keeps with the launch, up to the block itself. -/
structure Discarded (s t : State) (b : Block) : Prop where
  withdrawn : Withdrawn s t
  entries : ∀ e ∈ t.entries, entryOfBlock b.uid e = false
  engOps : ∀ e ∈ t.engOps, e.uid = b.uid → e.engine = .chafer
  ltc : ∀ l, s.launch? b.launch = some l → ∃ m, t.launch? b.launch = some m ∧ ∀ w ∈ b.waves, w.ltc ≤ m.maxLtc

/-- A block discarded to start again: all of it is withdrawn, and it stands in its launch state. -/
theorem discard_restart {s : State} {b : Block} (hb : s.block? b.uid = some b) : ∃ t, Discarded s t b ∧
    s.discard b.uid true = t.modBlock b.uid (fun _ =>
      { Block.atLaunch (s.recordOf b) b.uid b.launch b.lin b.handle b.core b.startQuarter b.placed s.clock with
        place := .unplaced, everIssued := b.everIssued }) := by
  unfold State.discard
  simp only [hb, if_true]
  refine ⟨_, ?_, rfl⟩
  generalize hs1 : (((s.parkBlock b.uid).cancelHandling b.uid).fresh).2 = s1
  have h1 : Withdrawn s s1 := hs1 ▸ ((Withdrawn.parkBlock s b.uid).trans (.cancelHandling _ _)).trans (.ops _ _ _ _)
  have h1a : Withdrawn s (s1.dropEntries (entryOfBlock b.uid)) := h1.trans (.dropEntries _ _)
  set s2 : State := { s1.dropEntries (entryOfBlock b.uid) with
    engOps := (s1.dropEntries (entryOfBlock b.uid)).engOps.filter (fun (e : EngOp) => e.uid != b.uid || e.engine == Engine.chafer) } with hs2
  have h2 : Withdrawn s s2 := ⟨h1a.blocks, h1a.entries, fun e he => h1a.engOps e (List.mem_filter.1 he).1, h1a.mem, h1a.launches, h1a.parts⟩
  set s3 := s2.modLaunch b.launch (fun l => { l with maxLtc := (b.waves.map (fun (w : Wave) => w.ltc)).foldl max l.maxLtc }) with hs3
  have h23 : Withdrawn s2 s3 := .modLaunch _ _ _ fun l => ⟨rfl, rfl, (le_foldl_max _ _).1⟩
  have h34 (dead : Nat) : Withdrawn s3 (s3.orphan b.uid dead b.waves.length) := .orphan ..
  refine ⟨(h2.trans h23).trans (h34 _), fun e he => mem_dropEntries (s := s1) ((h34 _).entries e he), fun e he hu => ?_, fun l hl => ?_⟩
  · have := (List.mem_filter.1 ((h34 _).engOps e he)).2
    simpa [hu] using this
  · obtain ⟨m, hm, -⟩ := h2.launches _ l hl
    obtain ⟨z, hz, -, hle⟩ := (h34 _).launches _ _ (launch?_modLaunch_self hm fun l => { l with
      maxLtc := (b.waves.map (fun (w : Wave) => w.ltc)).foldl max l.maxLtc })
    exact ⟨z, hz, fun w hw => ((le_foldl_max _ _).2 _ (List.mem_map_of_mem hw)).trans hle⟩

/-- A block chosen to be flushed, stopped, with nothing convened or on Chafer, is set back to its launch state. -/
theorem blockFlush_flushes {s : State} {b : Block} {l : Launch} (hb : s.block? b.uid = some b) (hl : s.launch? b.launch = some l)
    (hf : s.device.fenced = false) (ht : b.treatment = some .flush) (hp : b.place = .saving) (hc : s.chaferOpen b.uid = false)
    (hv : s.convenedOpen b.uid = false) :
    ∃ (u : State) (k : Block) (z : Launch), exec (.blockFlush b.uid) s = .next u ∧ u.block? b.uid = some k ∧
      ((∀ e ∈ s.entries, e.recs = []) → u.mem = s.mem) ∧
      k = { Block.atLaunch l.record b.uid b.launch b.lin b.handle b.core b.startQuarter b.placed s.clock with
        place := .unplaced, everIssued := b.everIssued } ∧
      u.launch? b.launch = some z ∧ z.restarted = sat32 (l.restarted + 1) ∧ (∀ w ∈ b.waves, w.ltc ≤ z.maxLtc) ∧
      (∀ e ∈ u.entries, ∀ w, e.owner ≠ .wave (.blk b.uid w) ∧ e.owner ≠ .ring (.blk b.uid w)) ∧
      (∀ e ∈ u.engOps, e.uid = b.uid → e.engine = .chafer) ∧
      (l.part < s.parts.length → (u.part l.part).cntRestart = wrap64 ((s.part l.part).cntRestart + 1)) := by
  obtain ⟨t, hdisc, ht⟩ := discard_restart hb
  have hpart : s.partOfBlock b = l.part := by simp [State.partOfBlock, hl]
  have hrec : s.recordOf b = l.record := by simp [State.recordOf, hl]
  have hexec : exec (.blockFlush b.uid) s = .next (((s.discard b.uid true).modLaunch b.launch (fun l => { l with
      restarted := sat32 (l.restarted + 1) })).modPart l.part (fun p => { p with cntRestart := wrap64 (p.cntRestart + 1) })) := by
    show execBlockFlush b.uid s = _
    simp [execBlockFlush, hb, ‹b.treatment = _›, hf, hc, hp, hv, hpart]
  rw [hrec] at ht
  obtain ⟨m, hm, hr, -⟩ := hdisc.withdrawn.launches _ l hl
  obtain ⟨m', hm', hltc⟩ := hdisc.ltc l hl
  obtain rfl : m' = m := Option.some.inj (hm'.symm.trans hm)
  refine ⟨_, _, { m' with restarted := sat32 (m'.restarted + 1) }, hexec, ?_, fun h => ?_, rfl, ?_, ?_, hltc, fun e he w => ?_, fun e he => ?_,
    fun h => ?_⟩
  · rw [ht]
    exact block?_replace rfl (hdisc.withdrawn.blocks _ (by rw [hb]; rfl))
  · rw [ht]
    exact hdisc.withdrawn.mem h
  · rw [ht]
    exact launch?_modLaunch_self (s := t.modBlock b.uid _) hm fun l => { l with restarted := sat32 (l.restarted + 1) }
  · rw [← hr]
  · rw [ht] at he
    have := hdisc.entries e he
    refine ⟨fun h => ?_, fun h => ?_⟩ <;> simp [entryOfBlock, h, ofBlock] at this
  · rw [ht] at he
    exact hdisc.engOps e he
  · rw [ht, State.part_modPart, if_pos ⟨rfl, by rw [← hdisc.withdrawn.parts.1] at h; exact h⟩, ← hdisc.withdrawn.parts.2]
    rfl

end Sys2Proof.Machine
end

namespace Sys2Proof.Proofs
open Sys2Proof.Machine

/-- Settles O56: a clause issue through the plan of the preferred wave and what a fetch leaves, traps lane by lane; placement, saving and
restoring through what each leaves of the block; a flush through what it withdraws. -/
theorem placementAndIssue : Obligations.PlacementAndIssue := by
  unfold Obligations.PlacementAndIssue
  refine ⟨fun s core quarter uid j low rest w b la hn hc hw hb hla hlow hd => ⟨fun h words t hf hok => ?_, fun f t hf hne hi => ?_⟩,
    fun s l core start => blockPlace_places, fun s b l hb hl hf => ⟨fun ht hp => blockSave_stops hb hf ht hp,
      fun ht hp hr htrap hh hw => blockSave_saves hb hl hf ht hp hr htrap hh hw,
      fun core start hp hw hpl ho hr => blockRestore_restores hb hl hp hw hpl ho hr,
      fun ht hp hc hv => blockFlush_flushes hb hl hf ht hp hc hv⟩,
    fun s core quarter a more la entry hf ha hl he hq hc h4 =>
      ⟨handlerWaveForm_stands ha hl, handlerWaveForm_forms hf ha hl he hq hc h4⟩⟩
  · exact clauseIssue_issues hn hc hw hb hla hlow hd hf hok
  · exact clauseIssue_traps hn hc hw hla hlow hd hf hne hi

end Sys2Proof.Proofs

end
